-- ==== Sys2Proof/Word.lean ====
section
/-! DEFINITION. The word types of the machine (R6: bytes, 64-bit registers, 32-bit instruction words). -/

namespace Sys2Proof

/-- A 64-bit register or address (R132, R133). -/
abbrev Word := BitVec 64

/-- A byte, the smallest addressable unit (R6). -/
abbrev Byte := BitVec 8

end Sys2Proof
end

