-- ==== Sys2Proof/Config.lean ====
section
/-! DEFINITION. What the spec leaves to the implementation and to the firmware: open values that nothing constrains. None of them has
a body. -/

namespace Sys2Proof.Config

/-- A value that the spec leaves open, by the number of open values drawn before. Nothing constrains it. (Log entry 8.) -/
opaque freeValue : Nat → BitVec 64

/-- R469: the private key of the identity of a device that left Manufacturing before it was switched on here. (DESIGN CHOICE: log
entry 9.) -/
opaque identitySeed : Nat → BitVec 256

/-- R473: the nonce that a device offers after reset. -/
opaque resetNonce : Nat → BitVec 256

/-- R467: what SENSE of a die reads in a swath: the temperature in bits 15:0, and in bits 63:32 the module's input power. -/
opaque sense : Nat → BitVec 64 → BitVec 64

/-- R472: the vendor's public key. -/
opaque vendorKey : BitVec 256

/-- R124: where the management firmware put the sync clock area of a race domain: the home die, the number of its first block
and the log2 of its length. (DESIGN CHOICE: log entry 24.) -/
opaque syncHome : BitVec 8 → Nat

/-- R124: as `syncHome`, the first block. -/
opaque syncFirst : BitVec 8 → Nat

/-- R124: as `syncHome`, the log2 of the length. -/
opaque syncSize : BitVec 8 → Nat

/-- R71, R72: where the management firmware's installer placed an image, by the address space and the image's address. -/
opaque loadBase : BitVec 16 → Word → Word

/-- R468, R478: where in the HBM of a device the boot ROM puts the firmware image that it starts. (DESIGN CHOICE: log entry 31.) -/
opaque firmwareHome : Nat → BitVec 64

end Sys2Proof.Config
end

