-- ==== Sys2Proof/Machine/Crypto.lean ====
section
/-! DEFINITION. SHA-512 and Ed25519 as RFC 8032 defines it (R3, R468, R469): hashes, keys, signatures and their check. A sequence of
bytes is its length and its little-endian number. -/

namespace Sys2Proof.Machine

/-! ## SHA-512 -/

/-- The first half of the round constants of SHA-512. -/
def shaKLow : List Nat := [
    0x428A2F98D728AE22, 0x7137449123EF65CD, 0xB5C0FBCFEC4D3B2F, 0xE9B5DBA58189DBBC,
    0x3956C25BF348B538, 0x59F111F1B605D019, 0x923F82A4AF194F9B, 0xAB1C5ED5DA6D8118,
    0xD807AA98A3030242, 0x12835B0145706FBE, 0x243185BE4EE4B28C, 0x550C7DC3D5FFB4E2,
    0x72BE5D74F27B896F, 0x80DEB1FE3B1696B1, 0x9BDC06A725C71235, 0xC19BF174CF692694,
    0xE49B69C19EF14AD2, 0xEFBE4786384F25E3, 0x0FC19DC68B8CD5B5, 0x240CA1CC77AC9C65] ++ [
    0x2DE92C6F592B0275, 0x4A7484AA6EA6E483, 0x5CB0A9DCBD41FBD4, 0x76F988DA831153B5,
    0x983E5152EE66DFAB, 0xA831C66D2DB43210, 0xB00327C898FB213F, 0xBF597FC7BEEF0EE4,
    0xC6E00BF33DA88FC2, 0xD5A79147930AA725, 0x06CA6351E003826F, 0x142929670A0E6E70,
    0x27B70A8546D22FFC, 0x2E1B21385C26C926, 0x4D2C6DFC5AC42AED, 0x53380D139D95B3DF,
    0x650A73548BAF63DE, 0x766A0ABB3C77B2A8, 0x81C2C92E47EDAEE6, 0x92722C851482353B]

/-- The second half of the round constants of SHA-512. -/
def shaKHigh : List Nat := [
    0xA2BFE8A14CF10364, 0xA81A664BBC423001, 0xC24B8B70D0F89791, 0xC76C51A30654BE30,
    0xD192E819D6EF5218, 0xD69906245565A910, 0xF40E35855771202A, 0x106AA07032BBD1B8,
    0x19A4C116B8D2D0C8, 0x1E376C085141AB53, 0x2748774CDF8EEB99, 0x34B0BCB5E19B48A8,
    0x391C0CB3C5C95A63, 0x4ED8AA4AE3418ACB, 0x5B9CCA4F7763E373, 0x682E6FF3D6B2B8A3,
    0x748F82EE5DEFB2FC, 0x78A5636F43172F60, 0x84C87814A1F0AB72, 0x8CC702081A6439EC] ++ [
    0x90BEFFFA23631E28, 0xA4506CEBDE82BDE9, 0xBEF9A3F7B2C67915, 0xC67178F2E372532B,
    0xCA273ECEEA26619C, 0xD186B8C721C0C207, 0xEADA7DD6CDE0EB1E, 0xF57D4F7FEE6ED178,
    0x06F067AA72176FBA, 0x0A637DC5A2C898A6, 0x113F9804BEF90DAE, 0x1B710B35131C471B,
    0x28DB77F523047D84, 0x32CAAB7B40C72493, 0x3C9EBE0A15C9BEBC, 0x431D67C49C100D4C,
    0x4CC5D4BECB3E42B6, 0x597F299CFC657E2A, 0x5FCB6FAB3AD6FAEC, 0x6C44198C4A475817]

/-- The eight working words of SHA-512. -/
structure ShaWords where
  a : Nat
  b : Nat
  c : Nat
  d : Nat
  e : Nat
  f : Nat
  g : Nat
  h : Nat
  deriving DecidableEq, Repr

/-- The words that SHA-512 begins with. -/
def shaInit : ShaWords :=
  ⟨0x6A09E667F3BCC908, 0xBB67AE8584CAA73B, 0x3C6EF372FE94F82B, 0xA54FF53A5F1D36F1,
    0x510E527FADE682D1, 0x9B05688C2B3E6C1F, 0x1F83D9ABFB41BD6B, 0x5BE0CD19137E2179⟩

/-- A 64-bit word rotated right. -/
def rotr64 (x n : Nat) : Nat := x / 2 ^ n + x % 2 ^ n * 2 ^ (64 - n)

/-- The blocks of 128 bytes of a padded message of `n` bytes. -/
def shaBlocks (n : Nat) : Nat := (n + 17 + 127) / 128

/-- Byte `i` of a padded message. -/
def shaByte (n v i : Nat) : Nat :=
  let total := 128 * shaBlocks n
  if i < n then v / 256 ^ i % 256
  else if i = n then 0x80
  else if total - 16 ≤ i then 8 * n / 256 ^ (total - 1 - i) % 256
  else 0

/-- The big-endian word at byte `i` of a padded message. -/
def shaWord (n v i : Nat) : Nat := (List.range 8).foldl (fun w j => w * 256 + shaByte n v (i + j)) 0

/-- The message schedule, the latest word first, continued by a number of words. -/
def shaExpand : Nat → List Nat → List Nat
  | 0, l => l
  | k + 1, l =>
    let w2 := l.getD 1 0
    let w15 := l.getD 14 0
    let s1 := rotr64 w2 19 ^^^ rotr64 w2 61 ^^^ (w2 / 2 ^ 6)
    let s0 := rotr64 w15 1 ^^^ rotr64 w15 8 ^^^ (w15 / 2 ^ 7)
    shaExpand k ((s1 + l.getD 6 0 + s0 + l.getD 15 0) % 2 ^ 64 :: l)

/-- One round with a constant and a word of the schedule. -/
def shaRound (s : ShaWords) (kw : Nat × Nat) : ShaWords :=
  let t1 := s.h + (rotr64 s.e 14 ^^^ rotr64 s.e 18 ^^^ rotr64 s.e 41) + ((s.e &&& s.f) ^^^ ((2 ^ 64 - 1 - s.e) &&& s.g)) + kw.1 + kw.2
  let t2 := (rotr64 s.a 28 ^^^ rotr64 s.a 34 ^^^ rotr64 s.a 39) + ((s.a &&& s.b) ^^^ (s.a &&& s.c) ^^^ (s.b &&& s.c))
  ⟨(t1 + t2) % 2 ^ 64, s.a, s.b, s.c, (s.d + t1) % 2 ^ 64, s.e, s.f, s.g⟩

/-- One block of a padded message. -/
def shaBlock (n v : Nat) (s : ShaWords) (i : Nat) : ShaWords :=
  let ws := (List.range 16).map (fun j => shaWord n v (128 * i + 8 * j))
  let t := ((shaKLow ++ shaKHigh).zip (shaExpand 64 ws.reverse).reverse).foldl shaRound s
  let m := fun (x y : Nat) => (x + y) % 2 ^ 64
  ⟨m s.a t.a, m s.b t.b, m s.c t.c, m s.d t.d, m s.e t.e, m s.f t.f, m s.g t.g, m s.h t.h⟩

/-- A 64-bit word with its bytes in the other order. -/
def swap64 (x : Nat) : Nat := (List.range 8).foldl (fun w j => w * 256 + x / 256 ^ j % 256) 0

/-- R468: SHA-512 of `n` bytes. -/
def sha512 (n v : Nat) : BitVec 512 :=
  let s := (List.range (shaBlocks n)).foldl (shaBlock n v) shaInit
  BitVec.ofNat 512 ([s.a, s.b, s.c, s.d, s.e, s.f, s.g, s.h].foldr (fun w r => swap64 w + 2 ^ 64 * r) 0)

/-! ## The curve of Ed25519 -/

/-- The order of the field, the prime 2^255 - 19. -/
def edP : Nat := 2 ^ 255 - 19

/-- The order of the base point. -/
def edL : Nat := 2 ^ 252 + 27742317777372353535851937790883648493

/-- The constant of the curve, -121665 / 121666. -/
def edD : Nat := 0x52036cee2b6ffe738cc740797779e89800700a4d4141d8ab75eb4dca135978a3

/-- A point in extended coordinates (RFC 8032, 5.1.4). -/
structure EdPoint where
  x : Nat
  y : Nat
  z : Nat
  t : Nat
  deriving DecidableEq, Repr

/-- The neutral point. -/
def edZero : EdPoint := ⟨0, 1, 1, 0⟩

/-- The base point. -/
def edBase : EdPoint :=
  let x := 0x216936d3cd6e53fec0a4e231fdd6dc5c692cc7609525a7b2c9562d608f25d51a
  let y := 0x6666666666666666666666666666666666666666666666666666666666666658
  ⟨x, y, 1, x * y % edP⟩

/-- The sum of two points. -/
def edAdd (p q : EdPoint) : EdPoint :=
  let a := (p.y + edP - p.x) * (q.y + edP - q.x) % edP
  let b := (p.y + p.x) * (q.y + q.x) % edP
  let c := p.t * 2 * edD % edP * q.t % edP
  let d := p.z * 2 * q.z % edP
  let e := b + edP - a
  let f := d + edP - c
  let g := d + c
  let h := b + a
  ⟨e * f % edP, g * h % edP, f * g % edP, e * h % edP⟩

/-- A multiple of a point, by the low bits of a number, the least significant first. -/
def edMulBits : Nat → Nat → EdPoint → EdPoint → EdPoint
  | 0, _, _, r => r
  | n + 1, k, p, r => edMulBits n (k / 2) (edAdd p p) (if k % 2 = 1 then edAdd r p else r)

/-- A multiple of a point by a number below 2^256. -/
def edMul (k : Nat) (p : EdPoint) : EdPoint := edMulBits 256 k p edZero

/-- Two points are equal. -/
def edEq (p q : EdPoint) : Bool :=
  p.x * q.z % edP == q.x * p.z % edP && p.y * q.z % edP == q.y * p.z % edP

/-- A power in the field, by the low bits of the exponent. -/
def edPowBits : Nat → Nat → Nat → Nat → Nat
  | 0, _, _, r => r
  | n + 1, k, b, r => edPowBits n (k / 2) (b * b % edP) (if k % 2 = 1 then r * b % edP else r)

/-- A power in the field. -/
def edPow (b k : Nat) : Nat := edPowBits 256 k (b % edP) 1

/-- RFC 8032, 5.1.2: the encoding of a point. -/
def edEncode (p : EdPoint) : Nat :=
  let zi := edPow p.z (edP - 2)
  p.y * zi % edP + p.x * zi % edP % 2 * 2 ^ 255

/-- RFC 8032, 5.1.3: the point that 32 bytes encode. -/
def edDecode (v : Nat) : Option EdPoint :=
  let y := v % 2 ^ 255
  let sign := v / 2 ^ 255 % 2
  let u := (y * y + edP - 1) % edP
  let w := (edD * (y * y % edP) + 1) % edP
  let r := u * edPow w 3 % edP * edPow (u * edPow w 7 % edP) ((edP - 5) / 8) % edP
  let s := w * (r * r % edP) % edP
  let x := if s = u then some r else if s = (edP - u) % edP then some (r * edPow 2 ((edP - 1) / 4) % edP) else none
  if edP ≤ y then none
  else match x with
    | none => none
    | some x =>
      if x = 0 ∧ sign = 1 then none
      else
        let x := if x % 2 = sign then x else edP - x
        some ⟨x, y, 1, x * y % edP⟩

/-! ## Keys and signatures (RFC 8032, 5.1.5..5.1.7) -/

/-- The secret scalar of a private key. -/
def edScalar (seed : BitVec 256) : Nat := (sha512 32 seed.toNat).toNat % 2 ^ 254 / 8 * 8 + 2 ^ 254

/-- The public key of a private key. -/
def ed25519Public (seed : BitVec 256) : BitVec 256 := BitVec.ofNat 256 (edEncode (edMul (edScalar seed) edBase))

/-- The scalar of a signature's first half, a public key and a message of `n` bytes. -/
def edChallenge (r pub n v : Nat) : Nat := (sha512 (64 + n) (r + pub * 2 ^ 256 + v * 2 ^ 512)).toNat % edL

/-- R468, R469: the signature of a private key over `n` bytes. -/
def ed25519Sign (seed : BitVec 256) (n v : Nat) : BitVec 512 :=
  let k := (sha512 (32 + n) ((sha512 32 seed.toNat).toNat / 2 ^ 256 + v * 2 ^ 256)).toNat % edL
  let r := edEncode (edMul k edBase)
  let s := (k + edChallenge r (ed25519Public seed).toNat n v * edScalar seed) % edL
  BitVec.ofNat 512 (r + s * 2 ^ 256)

/-- R468, R472: a signature over `n` bytes verifies under a public key. The group equation is the one with the cofactor, which RFC 8032
gives first. (DESIGN CHOICE: log entry 9.) -/
def ed25519Verify (pub : BitVec 256) (n v : Nat) (sig : BitVec 512) : Bool :=
  let r := sig.toNat % 2 ^ 256
  let s := sig.toNat / 2 ^ 256
  match edDecode pub.toNat, edDecode r with
  | some a, some q =>
    decide (s < edL) && edEq (edMul 8 (edMul s edBase)) (edMul 8 (edAdd q (edMul (edChallenge r pub.toNat n v) a)))
  | _, _ => false

end Sys2Proof.Machine
end

