-- ==== Sys2Proof/Syntax.lean ====
section
/-! DEFINITION. The instructions of the Filanapa F24, one constructor for each row of the opcode table.
The first 265 constructors are instruction words (R44..R63), the other 95 are the steps of the device that are no words
(file 95 of the spec): faults, deliveries, engine steps, dispatch, fabric, host, power and security steps. -/

namespace Sys2Proof

/-- Every row of the opcode table. Register fields are typed by what they may name (R46..R48): `Fin 32` a scalar register,
`Fin 16` the even scalar pair `2n`, `Fin 56` a vector source (0..47 `v`, 48..55 `q`), `Fin 48` a vector register,
`Fin 24` the even vector pair `2n`, `Fin 8` a mask, tile or accumulator. -/
inductive Instr where
  /-- R158: `add`. Integer add of two scalar registers modulo 2^64. -/
  | add (d : Fin 32) (a : Fin 32) (b : Fin 32)
  /-- R158: `sub`. Integer subtract of two scalar registers modulo 2^64. -/
  | sub (d : Fin 32) (a : Fin 32) (b : Fin 32)
  /-- R158: `and`. Bitwise and of two scalar registers. -/
  | and (d : Fin 32) (a : Fin 32) (b : Fin 32)
  /-- R158: `or`. Bitwise or of two scalar registers. -/
  | or (d : Fin 32) (a : Fin 32) (b : Fin 32)
  /-- R158: `xor`. Bitwise exclusive or of two scalar registers. -/
  | xor (d : Fin 32) (a : Fin 32) (b : Fin 32)
  /-- R158: `andn`. Bitwise and of A with the complement of B. -/
  | andn (d : Fin 32) (a : Fin 32) (b : Fin 32)
  /-- R158: `sll`. Shift left logical by B bits 5:0. -/
  | sll (d : Fin 32) (a : Fin 32) (b : Fin 32)
  /-- R158: `srl`. Shift right logical by B bits 5:0. -/
  | srl (d : Fin 32) (a : Fin 32) (b : Fin 32)
  /-- R158: `sra`. Shift right arithmetic by B bits 5:0. -/
  | sra (d : Fin 32) (a : Fin 32) (b : Fin 32)
  /-- R158: `ror`. Rotate right by B bits 5:0. -/
  | ror (d : Fin 32) (a : Fin 32) (b : Fin 32)
  /-- R158: `slt.i64`. Set 1 when A is less than B, signed. -/
  | sltI64 (d : Fin 32) (a : Fin 32) (b : Fin 32)
  /-- R158: `slt.n64`. Set 1 when A is less than B, unsigned. -/
  | sltN64 (d : Fin 32) (a : Fin 32) (b : Fin 32)
  /-- R158: `min.i64`. Signed minimum of two registers. -/
  | minI64 (d : Fin 32) (a : Fin 32) (b : Fin 32)
  /-- R158: `min.n64`. Unsigned minimum of two registers. -/
  | minN64 (d : Fin 32) (a : Fin 32) (b : Fin 32)
  /-- R158: `max.i64`. Signed maximum of two registers. -/
  | maxI64 (d : Fin 32) (a : Fin 32) (b : Fin 32)
  /-- R158: `max.n64`. Unsigned maximum of two registers. -/
  | maxN64 (d : Fin 32) (a : Fin 32) (b : Fin 32)
  /-- R158: `clz`. Count leading zero bits of A. -/
  | clz (d : Fin 32) (a : Fin 32)
  /-- R158: `ctz`. Count trailing zero bits of A. -/
  | ctz (d : Fin 32) (a : Fin 32)
  /-- R158: `popc`. Count set bits of A. -/
  | popc (d : Fin 32) (a : Fin 32)
  /-- R163: `jalr`. Jump to the address in A and link PC+4 into d. -/
  | jalr (d : Fin 32) (a : Fin 32)
  /-- R166: `lidx`. Read INDEX of the loop level k above the innermost. -/
  | lidx (d : Fin 32) (k : Fin 6)
  /-- R167: `lbrk`. Leave the innermost loop level and k enclosing levels. -/
  | lbrk (k : Fin 6)
  /-- R159: `addi`. Add a sign-extended 14-bit immediate. -/
  | addi (d : Fin 32) (a : Fin 32) (imm : BitVec 14)
  /-- R159: `andi`. And with a sign-extended 11-bit immediate. -/
  | andi (d : Fin 32) (a : Fin 32) (imm : BitVec 11)
  /-- R159: `ori`. Or with a sign-extended 11-bit immediate. -/
  | ori (d : Fin 32) (a : Fin 32) (imm : BitVec 11)
  /-- R159: `xori`. Exclusive or with a sign-extended 11-bit immediate. -/
  | xori (d : Fin 32) (a : Fin 32) (imm : BitVec 11)
  /-- R159: `slti.i64`. Signed set-less-than against an immediate. -/
  | sltiI64 (d : Fin 32) (a : Fin 32) (imm : BitVec 11)
  /-- R159: `slti.n64`. Unsigned set-less-than against a sign-extended immediate. -/
  | sltiN64 (d : Fin 32) (a : Fin 32) (imm : BitVec 11)
  /-- R159: `slli`. Shift left logical by an immediate amount. -/
  | slli (d : Fin 32) (a : Fin 32) (sh : Fin 64)
  /-- R159: `srli`. Shift right logical by an immediate amount. -/
  | srli (d : Fin 32) (a : Fin 32) (sh : Fin 64)
  /-- R159: `srai`. Shift right arithmetic by an immediate amount. -/
  | srai (d : Fin 32) (a : Fin 32) (sh : Fin 64)
  /-- R159: `lui`. Load a sign-extended 20-bit immediate times 4096. -/
  | lui (d : Fin 32) (imm : BitVec 20)
  /-- R159: `apc`. Add a 20-bit immediate times 4096 to the PC. -/
  | apc (d : Fin 32) (imm : BitVec 20)
  /-- R160: `mul`. Low 64 bits of the product. -/
  | mul (d : Fin 32) (a : Fin 32) (b : Fin 32)
  /-- R160: `mulh.i64`. High 64 bits of the signed product. -/
  | mulhI64 (d : Fin 32) (a : Fin 32) (b : Fin 32)
  /-- R160: `mulh.n64`. High 64 bits of the unsigned product. -/
  | mulhN64 (d : Fin 32) (a : Fin 32) (b : Fin 32)
  /-- R160: `div.i64`. Signed quotient, truncating. -/
  | divI64 (d : Fin 32) (a : Fin 32) (b : Fin 32)
  /-- R160: `div.n64`. Unsigned quotient. -/
  | divN64 (d : Fin 32) (a : Fin 32) (b : Fin 32)
  /-- R160: `rem.i64`. Signed remainder. -/
  | remI64 (d : Fin 32) (a : Fin 32) (b : Fin 32)
  /-- R160: `rem.n64`. Unsigned remainder. -/
  | remN64 (d : Fin 32) (a : Fin 32) (b : Fin 32)
  /-- R160: `mul.i32`. 32-bit product sign-extended from bit 31. -/
  | mulI32 (d : Fin 32) (a : Fin 32) (b : Fin 32)
  /-- R161: `bfx.n64`. Extract a bit field, zero-extended. -/
  | bfxN64 (d : Fin 32) (a : Fin 32) (b : Fin 32)
  /-- R161: `bfx.i64`. Extract a bit field, sign-extended. -/
  | bfxI64 (d : Fin 32) (a : Fin 32) (b : Fin 32)
  /-- R161: `bfi`. Insert low bits of A into a field of d. -/
  | bfi (d : Fin 32) (a : Fin 32) (b : Fin 32)
  /-- R161: `bswap`. Reverse the eight bytes of A. -/
  | bswap (d : Fin 32) (a : Fin 32)
  /-- R161: `brev`. Reverse the 64 bits of A. -/
  | brev (d : Fin 32) (a : Fin 32)
  /-- R162: `beq`. Branch when A equals B. -/
  | beq (a : Fin 32) (b : Fin 32) (off : BitVec 14)
  /-- R162: `bne`. Branch when A differs from B. -/
  | bne (a : Fin 32) (b : Fin 32) (off : BitVec 14)
  /-- R162: `blt.i64`. Branch when A is signed less than B. -/
  | bltI64 (a : Fin 32) (b : Fin 32) (off : BitVec 14)
  /-- R162: `bge.i64`. Branch when A is signed greater or equal to B. -/
  | bgeI64 (a : Fin 32) (b : Fin 32) (off : BitVec 14)
  /-- R163: `jal`. Jump by a word offset and link PC+4 into s31. -/
  | jal (off : BitVec 26)
  /-- R164: `loop`. Push a counted hardware loop level, or skip the body when the count is zero. -/
  | loop (c : Fin 32) (hint : Fin 7) (e : Fin 16384)
  /-- R168: `ld.i8`. Load a sign-extended byte. -/
  | ldI8 (d : Fin 32) (a : Fin 32) (off : BitVec 10)
  /-- R168: `ld.n8`. Load a zero-extended byte. -/
  | ldN8 (d : Fin 32) (a : Fin 32) (off : BitVec 10)
  /-- R168: `ld.i16`. Load a sign-extended halfword. -/
  | ldI16 (d : Fin 32) (a : Fin 32) (off : BitVec 10)
  /-- R168: `ld.n16`. Load a zero-extended halfword. -/
  | ldN16 (d : Fin 32) (a : Fin 32) (off : BitVec 10)
  /-- R168: `ld.i32`. Load a sign-extended word. -/
  | ldI32 (d : Fin 32) (a : Fin 32) (off : BitVec 10)
  /-- R168: `ld.n32`. Load a zero-extended word. -/
  | ldN32 (d : Fin 32) (a : Fin 32) (off : BitVec 10)
  /-- R168: `ld.64`. Load 8 bytes. -/
  | ld64 (d : Fin 32) (a : Fin 32) (off : BitVec 10)
  /-- R170: `ld.acq.64`. Load 8 bytes with acquire at device scope. -/
  | ldAcq64 (d : Fin 32) (a : Fin 32) (off : BitVec 10)
  /-- R168: `st.8`. Store a byte. -/
  | st8 (d : Fin 32) (a : Fin 32) (off : BitVec 10)
  /-- R168: `st.16`. Store a halfword. -/
  | st16 (d : Fin 32) (a : Fin 32) (off : BitVec 10)
  /-- R168: `st.32`. Store a word. -/
  | st32 (d : Fin 32) (a : Fin 32) (off : BitVec 10)
  /-- R168: `st.64`. Store 8 bytes. -/
  | st64 (d : Fin 32) (a : Fin 32) (off : BitVec 10)
  /-- R170: `st.rel.64`. Store 8 bytes with release at device scope. -/
  | stRel64 (d : Fin 32) (a : Fin 32) (off : BitVec 10)
  /-- R170: `ld.acq.n32`. Load a zero-extended word with acquire at device scope. -/
  | ldAcqN32 (d : Fin 32) (a : Fin 32) (off : BitVec 10)
  /-- R170: `st.rel.32`. Store a word with release at device scope. -/
  | stRel32 (d : Fin 32) (a : Fin 32) (off : BitVec 10)
  /-- R172: `amo.swap`. Atomic swap at the home of the address. -/
  | amoSwap (d : Fin 32) (a : Fin 32) (b : Fin 32) (scope : Fin 6) (wide : Bool)
  /-- R172: `amo.add`. Atomic add at the home of the address. -/
  | amoAdd (d : Fin 32) (a : Fin 32) (b : Fin 32) (scope : Fin 6) (wide : Bool)
  /-- R172: `amo.and`. Atomic and. -/
  | amoAnd (d : Fin 32) (a : Fin 32) (b : Fin 32) (scope : Fin 6) (wide : Bool)
  /-- R172: `amo.or`. Atomic or. -/
  | amoOr (d : Fin 32) (a : Fin 32) (b : Fin 32) (scope : Fin 6) (wide : Bool)
  /-- R172: `amo.xor`. Atomic exclusive or. -/
  | amoXor (d : Fin 32) (a : Fin 32) (b : Fin 32) (scope : Fin 6) (wide : Bool)
  /-- R172: `amo.min.i`. Atomic signed minimum. -/
  | amoMinI (d : Fin 32) (a : Fin 32) (b : Fin 32) (scope : Fin 6) (wide : Bool)
  /-- R172: `amo.max.i`. Atomic signed maximum. -/
  | amoMaxI (d : Fin 32) (a : Fin 32) (b : Fin 32) (scope : Fin 6) (wide : Bool)
  /-- R172: `amo.min.n`. Atomic unsigned minimum. -/
  | amoMinN (d : Fin 32) (a : Fin 32) (b : Fin 32) (scope : Fin 6) (wide : Bool)
  /-- R172: `amo.max.n`. Atomic unsigned maximum. -/
  | amoMaxN (d : Fin 32) (a : Fin 32) (b : Fin 32) (scope : Fin 6) (wide : Bool)
  /-- R172: `amo.cas`. Atomic compare-and-swap of 32 or 64 bits. -/
  | amoCas (d : Fin 32) (a : Fin 32) (b : Fin 32) (scope : Fin 6) (wide : Bool)
  /-- R172: `amo.cas16`. Atomic compare-and-swap of 16 bytes on register pairs. -/
  | amoCas16 (d : Fin 16) (a : Fin 32) (b : Fin 16) (scope : Fin 6)
  /-- R174: `fence`. Order the thread's C accesses at a scope, with fence.ack at domain or system. -/
  | fence (scope : Fin 6)
  /-- R175: `fence.rel`. Release at a scope for the next C store. -/
  | fenceRel (scope : Fin 6)
  /-- R175: `fence.acq`. Acquire at a scope after earlier C loads. -/
  | fenceAcq (scope : Fin 6)
  /-- R176: `xfence`. Order accesses across the path classes of a mask. -/
  | xfence (mask : Fin 128)
  /-- R178: `bar.arrive`. Release and arrive on a barrier object announcing bytes, returning the prior phase. -/
  | barArrive (d : Fin 32) (a : Fin 32) (b : Fin 32)
  /-- R178: `bar.expect`. Announce transaction bytes on a barrier object without arriving. -/
  | barExpect (a : Fin 32) (b : Fin 32)
  /-- R179: `bar.wait`. Wait until a barrier object's phase differs from P, then acquire. -/
  | barWait (a : Fin 32) (b : Fin 32)
  /-- R179: `bar.test`. Test whether a barrier object's phase differs from P. -/
  | barTest (d : Fin 32) (a : Fin 32) (b : Fin 32)
  /-- R180: `bar.init`. Write a barrier object whole from B with zero count, bytes and phase. -/
  | barInit (a : Fin 32) (b : Fin 32)
  /-- R16: `fork_f`. Start a forked program on the core's factor array context. -/
  | forkF (off : BitVec 14)
  /-- R16: `fork_x`. Queue a forked program for the die's copy engines. -/
  | forkX (off : BitVec 14)
  /-- R18: `join`. Wait for every forked program, trapping on an unreported fault record. -/
  | join
  /-- R19: `exit`. End the thread or forked program after an implicit join. -/
  | exit
  /-- R184: `yield`. End the thread's turn on the core. -/
  | yield
  /-- R185: `trap`. Raise cause 0x04 with tval k. -/
  | trap (k : Fin 64)
  /-- R144: `tret`. Return from handler mode, restoring parked vector entries. -/
  | tret
  /-- R186: `gets`. Read a system register. -/
  | gets (d : Fin 32) (r : Fin 21)
  /-- R186: `sets`. Write a system register with its stated effect. -/
  | sets (r : Fin 21) (b : Fin 32)
  /-- R188: `launch`. Copy a start record into the launch intake and return its index. -/
  | launch (d : Fin 32) (a : Fin 32)
  /-- R215: `vsetl`. Synchronise and set vtype and the vector length. -/
  | vsetl (d : Fin 32) (a : Fin 32) (b : Fin 32)
  /-- R216: `vcfg`. Record a pending vector register count. -/
  | vcfg (n : Fin 4)
  /-- R217: `vtos`. Move one vector element to a scalar register. -/
  | vtos (d : Fin 32) (a : Fin 56) (b : Fin 32)
  /-- R218: `mtos`. Count and locate the set bits of a mask into a scalar. -/
  | mtos (d : Fin 32) (k : Fin 8)
  /-- R219: `vbcast`. Broadcast a scalar into every element. -/
  | vbcast (d : Fin 48) (a : Fin 32)
  /-- R219: `vindex`. Write each element's index. -/
  | vindex (d : Fin 48)
  /-- R223: `vadd`. Floating vector add. -/
  | vaddFloat (d : Fin 48) (a : Fin 56) (b : Fin 56) (m : Fin 8)
  /-- R223: `vsub`. Floating vector subtract. -/
  | vsubFloat (d : Fin 48) (a : Fin 56) (b : Fin 56) (m : Fin 8)
  /-- R223: `vmul`. Floating or LNS6 vector multiply. -/
  | vmulFloat (d : Fin 48) (a : Fin 56) (b : Fin 56) (m : Fin 8)
  /-- R223: `vdiv`. Floating vector divide. -/
  | vdiv (d : Fin 48) (a : Fin 56) (b : Fin 56) (m : Fin 8)
  /-- R223: `vfma`. Fused multiply-add into vd. -/
  | vfma (d : Fin 48) (a : Fin 56) (b : Fin 56) (m : Fin 8)
  /-- R223: `vfms`. Fused multiply-subtract. -/
  | vfms (d : Fin 48) (a : Fin 56) (b : Fin 56) (m : Fin 8)
  /-- R223: `vfnma`. Fused negated multiply-add. -/
  | vfnma (d : Fin 48) (a : Fin 56) (b : Fin 56) (m : Fin 8)
  /-- R224: `vmin`. Floating or LNS6 vector minimum. -/
  | vminFloat (d : Fin 48) (a : Fin 56) (b : Fin 56) (m : Fin 8)
  /-- R224: `vmax`. Floating or LNS6 vector maximum. -/
  | vmaxFloat (d : Fin 48) (a : Fin 56) (b : Fin 56) (m : Fin 8)
  /-- R224: `vabs`. Clear the sign of each element. -/
  | vabsFloat (d : Fin 48) (a : Fin 56) (m : Fin 8)
  /-- R224: `vneg`. Invert the sign of each element. -/
  | vnegFloat (d : Fin 48) (a : Fin 56) (m : Fin 8)
  /-- R223: `vsqrt`. Floating square root. -/
  | vsqrt (d : Fin 48) (a : Fin 56) (m : Fin 8)
  /-- R225: `vexp2`. Bit-exact base-2 exponential of f32 elements. -/
  | vexp2 (d : Fin 48) (a : Fin 56) (m : Fin 8)
  /-- R228: `vadd`. Integer vector add. -/
  | vaddInt (d : Fin 48) (a : Fin 56) (b : Fin 56) (m : Fin 8)
  /-- R228: `vsub`. Integer vector subtract. -/
  | vsubInt (d : Fin 48) (a : Fin 56) (b : Fin 56) (m : Fin 8)
  /-- R228: `vmul`. Integer vector multiply, low half. -/
  | vmulInt (d : Fin 48) (a : Fin 56) (b : Fin 56) (m : Fin 8)
  /-- R228: `vmulhi`. Integer vector multiply, high half. -/
  | vmulhi (d : Fin 48) (a : Fin 56) (b : Fin 56) (m : Fin 8)
  /-- R228: `vmin`. Integer vector minimum. -/
  | vminInt (d : Fin 48) (a : Fin 56) (b : Fin 56) (m : Fin 8)
  /-- R228: `vmax`. Integer vector maximum. -/
  | vmaxInt (d : Fin 48) (a : Fin 56) (b : Fin 56) (m : Fin 8)
  /-- R228: `vaddsat`. Saturating integer add. -/
  | vaddsat (d : Fin 48) (a : Fin 56) (b : Fin 56) (m : Fin 8)
  /-- R228: `vsubsat`. Saturating integer subtract. -/
  | vsubsat (d : Fin 48) (a : Fin 56) (b : Fin 56) (m : Fin 8)
  /-- R228: `vabs`. Integer absolute value. -/
  | vabsInt (d : Fin 48) (a : Fin 56) (m : Fin 8)
  /-- R228: `vneg`. Integer negation. -/
  | vnegInt (d : Fin 48) (a : Fin 56) (m : Fin 8)
  /-- R228: `vmad`. Integer multiply-add into vd. -/
  | vmad (d : Fin 48) (a : Fin 56) (b : Fin 56) (m : Fin 8)
  /-- R229: `vand`. Bitwise and of elements. -/
  | vand (d : Fin 48) (a : Fin 56) (b : Fin 56) (m : Fin 8)
  /-- R229: `vor`. Bitwise or of elements. -/
  | vor (d : Fin 48) (a : Fin 56) (b : Fin 56) (m : Fin 8)
  /-- R229: `vxor`. Bitwise exclusive or of elements. -/
  | vxor (d : Fin 48) (a : Fin 56) (b : Fin 56) (m : Fin 8)
  /-- R229: `vandn`. And with complement of elements. -/
  | vandn (d : Fin 48) (a : Fin 56) (b : Fin 56) (m : Fin 8)
  /-- R229: `vnot`. Bitwise complement of elements. -/
  | vnot (d : Fin 48) (a : Fin 56) (m : Fin 8)
  /-- R229: `vsll`. Element shift left logical. -/
  | vsll (d : Fin 48) (a : Fin 56) (b : Fin 56) (m : Fin 8)
  /-- R229: `vsrl`. Element shift right logical. -/
  | vsrl (d : Fin 48) (a : Fin 56) (b : Fin 56) (m : Fin 8)
  /-- R229: `vsra`. Element shift right arithmetic. -/
  | vsra (d : Fin 48) (a : Fin 56) (b : Fin 56) (m : Fin 8)
  /-- R230: `vcmp.eq`. Compare equal into a mask. -/
  | vcmpEq (k : Fin 8) (a : Fin 56) (b : Fin 56) (m : Fin 8)
  /-- R230: `vcmp.ne`. Compare not equal into a mask. -/
  | vcmpNe (k : Fin 8) (a : Fin 56) (b : Fin 56) (m : Fin 8)
  /-- R230: `vcmp.lt`. Compare less than into a mask. -/
  | vcmpLt (k : Fin 8) (a : Fin 56) (b : Fin 56) (m : Fin 8)
  /-- R230: `vcmp.le`. Compare less or equal into a mask. -/
  | vcmpLe (k : Fin 8) (a : Fin 56) (b : Fin 56) (m : Fin 8)
  /-- R232: `vsel`. Select vb or va per mask bit. -/
  | vsel (d : Fin 48) (a : Fin 56) (b : Fin 56) (k : Fin 8)
  /-- R233: `mand`. And of two masks. -/
  | mand (d : Fin 8) (a : Fin 8) (b : Fin 8)
  /-- R233: `mor`. Or of two masks. -/
  | mor (d : Fin 8) (a : Fin 8) (b : Fin 8)
  /-- R233: `mxor`. Exclusive or of two masks. -/
  | mxor (d : Fin 8) (a : Fin 8) (b : Fin 8)
  /-- R233: `mandn`. And with complement of masks. -/
  | mandn (d : Fin 8) (a : Fin 8) (b : Fin 8)
  /-- R233: `mnot`. Complement of a mask. -/
  | mnot (d : Fin 8) (a : Fin 8)
  /-- R234: `vcvt`. Convert elements from vtype's format to a target format. -/
  | vcvt (d : Fin 48) (a : Fin 56) (m : Fin 8) (target : Fin 19)
  /-- R236: `vlift`. Rotate elements upward by S modulo vl. -/
  | vlift (d : Fin 48) (a : Fin 56) (b : Fin 32) (m : Fin 8)
  /-- R236: `vsink`. Rotate elements downward by S modulo vl. -/
  | vsink (d : Fin 48) (a : Fin 56) (b : Fin 32) (m : Fin 8)
  /-- R237: `vpick`. Select elements by 16-bit index. -/
  | vpick (d : Fin 48) (a : Fin 56) (b : Fin 56) (m : Fin 8)
  /-- R238: `vpack`. Stable partition of selected elements to the front. -/
  | vpack (d : Fin 48) (a : Fin 56) (k : Fin 8)
  /-- R240: `vprune`. Keep 4 of each 8 elements by magnitude and write metadata. -/
  | vprune (d : Fin 48) (a : Fin 56) (b : Fin 48)
  /-- R239: `vzip`. Interleave two vectors. -/
  | vzip (d : Fin 48) (a : Fin 56) (b : Fin 56) (m : Fin 8)
  /-- R239: `vunzip`. Take even elements of two concatenated vectors. -/
  | vunzip (d : Fin 48) (a : Fin 56) (b : Fin 56) (m : Fin 8)
  /-- R236: `vlift.z`. Shift elements upward filling code 0. -/
  | vliftZ (d : Fin 48) (a : Fin 56) (b : Fin 32) (m : Fin 8)
  /-- R236: `vsink.z`. Shift elements downward filling code 0. -/
  | vsinkZ (d : Fin 48) (a : Fin 56) (b : Fin 32) (m : Fin 8)
  /-- R238: `vpack.k`. Compact selected elements to the front, leaving the rest. -/
  | vpackK (d : Fin 48) (a : Fin 56) (k : Fin 8)
  /-- R241: `vfold.add`. Sum reduction in fixed order into element 0. -/
  | vfoldAdd (d : Fin 48) (a : Fin 56) (m : Fin 8)
  /-- R241: `vfold.max`. Maximum reduction. -/
  | vfoldMax (d : Fin 48) (a : Fin 56) (m : Fin 8)
  /-- R241: `vfold.min`. Minimum reduction. -/
  | vfoldMin (d : Fin 48) (a : Fin 56) (m : Fin 8)
  /-- R241: `vfold.and`. Bitwise and reduction. -/
  | vfoldAnd (d : Fin 48) (a : Fin 56) (m : Fin 8)
  /-- R241: `vfold.or`. Bitwise or reduction. -/
  | vfoldOr (d : Fin 48) (a : Fin 56) (m : Fin 8)
  /-- R241: `vfold.xor`. Bitwise exclusive or reduction. -/
  | vfoldXor (d : Fin 48) (a : Fin 56) (m : Fin 8)
  /-- R241: `vfold.amax`. Greatest magnitude reduction. -/
  | vfoldAmax (d : Fin 48) (a : Fin 56) (m : Fin 8)
  /-- R252: `vld`. Unit-stride vector load. -/
  | vld (d : Fin 56) (sb : Fin 32) (disp : Fin 64) (m : Fin 8) (ord : Bool) (ovt : Bool)
  /-- R252: `vlds`. Strided vector load. -/
  | vlds (d : Fin 56) (sb : Fin 32) (ss : Fin 32) (m : Fin 8) (ord : Bool) (ovt : Bool)
  /-- R252: `vldx`. Indexed gather load. -/
  | vldx (d : Fin 56) (sb : Fin 32) (vi : Fin 56) (m : Fin 8) (ord : Bool) (ovt : Bool)
  /-- R254: `vldb`. Scale-block load of codes and block bytes. -/
  | vldb (d : Fin 24) (sb : Fin 16) (disp : Fin 64) (m : Fin 8) (ord : Bool) (ovt : Bool)
  /-- R262: `vld_spec`. Speculative unit-stride load recording faults in m0. -/
  | vldSpec (d : Fin 56) (sb : Fin 32) (disp : Fin 64) (m : Fin 8) (ord : Bool) (ovt : Bool)
  /-- R262: `vlds_spec`. Speculative strided load. -/
  | vldsSpec (d : Fin 56) (sb : Fin 32) (ss : Fin 32) (m : Fin 8) (ord : Bool) (ovt : Bool)
  /-- R262: `vldx_spec`. Speculative gather load. -/
  | vldxSpec (d : Fin 56) (sb : Fin 32) (vi : Fin 56) (m : Fin 8) (ord : Bool) (ovt : Bool)
  /-- R252: `vst`. Unit-stride vector store. -/
  | vst (vs : Fin 56) (sb : Fin 32) (disp : Fin 64) (m : Fin 8) (ord : Bool) (ovt : Bool)
  /-- R252: `vsts`. Strided vector store. -/
  | vsts (vs : Fin 56) (sb : Fin 32) (ss : Fin 32) (m : Fin 8) (ord : Bool) (ovt : Bool)
  /-- R252: `vstx`. Indexed scatter store. -/
  | vstx (vs : Fin 56) (sb : Fin 32) (vi : Fin 56) (m : Fin 8) (ord : Bool) (ovt : Bool)
  /-- R254: `vstb`. Scale-block store of codes and block bytes. -/
  | vstb (vs : Fin 24) (sb : Fin 16) (disp : Fin 64) (m : Fin 8) (ord : Bool) (ovt : Bool)
  /-- R243: `trow`. Write a vector into a row of a tile register. -/
  | trow (t : Fin 8) (a : Fin 56) (b : Fin 32) (m : Fin 8)
  /-- R243: `tcol`. Read a tile register column into a vector. -/
  | tcol (d : Fin 48) (t : Fin 8) (b : Fin 32) (m : Fin 8)
  /-- R245: `vspec`. Enter speculation and clear m0. -/
  | vspec
  /-- R247: `vmerge`. Commit speculative results under a mask, faulting on poison. -/
  | vmerge (d : Fin 48) (vs : Fin 56) (k : Fin 8)
  /-- R393: `fa.attach`. Claim the core's factor array attachment and rows. -/
  | faAttach (n : Fin 5)
  /-- R394: `fa.detach`. Release array rows or the attachment. -/
  | faDetach (n : Fin 5)
  /-- R406: `fa.cfgld`. Load a configuration image into the shadow bank. -/
  | faCfgld (p : Fin 16)
  /-- R407: `fa.commit`. Make the shadow bank live. -/
  | faCommit
  /-- R397: `fa.wait`. Wait for earlier array instructions and their writes and flags. -/
  | faWait
  /-- R415: `fa.stage.float`. Block-diagonal stage in float mode. -/
  | faStageFloat (p : Fin 16) (c : Fin 16) (k : Fin 8) (blk : Fin 7) (last : Bool)
  /-- R416: `fa.stage.bfp16`. Block-diagonal stage in BFP16 mode. -/
  | faStageBfp16 (p : Fin 16) (c : Fin 16) (k : Fin 8) (blk : Fin 7) (last : Bool)
  /-- R417: `fa.stage.mod`. Block-diagonal stage in modular mode. -/
  | faStageMod (p : Fin 16) (c : Fin 16) (k : Fin 8) (blk : Fin 7) (last : Bool)
  /-- R412: `fa.dense`. Dense tile product into an accumulator. -/
  | faDense (p : Fin 16) (c : Fin 16) (k : Fin 8) (fmt : Fin 10)
  /-- R414: `fa.sparse`. 4-of-8 sparse tile product into an accumulator. -/
  | faSparse (p : Fin 16) (c : Fin 16) (k : Fin 8) (fmt : Fin 10)
  /-- R420: `fa.pw.twid`. Pointwise twiddle multiply by an entry vector. -/
  | faPwTwid (e : Fin 8) (k : Fin 8)
  /-- R420: `fa.pw.scale`. Pointwise scale by a scalar. -/
  | faPwScale (a : Fin 32) (k : Fin 8)
  /-- R420: `fa.pw.add`. Pointwise add of an entry vector. -/
  | faPwAdd (e : Fin 8) (k : Fin 8)
  /-- R420: `fa.pw.relu`. Pointwise rectification. -/
  | faPwRelu (k : Fin 8)
  /-- R420: `fa.pw.exp2`. Pointwise exp2 of F cells. -/
  | faPwExp2 (k : Fin 8)
  /-- R420: `fa.pw.modred`. Reduce I cells modulo p into residues. -/
  | faPwModred (k : Fin 8)
  /-- R421: `fa.bfp.static`. Normalise a P tile to BFP16 with static growth. -/
  | faBfpStatic (a : Fin 32) (k : Fin 8)
  /-- R421: `fa.bfp.meas`. Normalise a P tile to BFP16 with measured growth. -/
  | faBfpMeas (k : Fin 8)
  /-- R422: `fa.zero`. Clear cells, flags or AMAX of selected accumulator tiles. -/
  | faZero (m : Fin 32)
  /-- R424: `fa.drain`. Drain accumulator tiles through the route table with a scalar token. -/
  | faDrain (p : Fin 16) (t : Fin 32) (q : Option (Fin 8))
  /-- R424: `fa.drainv`. Drain accumulator tiles with per-tile tokens from vector elements. -/
  | faDrainv (p : Fin 16) (v : Fin 48) (q : Option (Fin 8))
  /-- R426: `fa.amax`. Read an accumulator's maximum-magnitude register. -/
  | faAmax (d : Fin 32) (k : Fin 8)
  /-- R426: `fa.amax.final`. Read AMAX after earlier drains complete. -/
  | faAmaxFinal (d : Fin 32) (k : Fin 8)
  /-- R418: `fa.modset`. Set the context's modulus. -/
  | faModset (p : Fin 32)
  /-- R419: `fa.crt`. Reconstruct integers from two residue tiles. -/
  | faCrt (q : Fin 32) (j : Fin 8) (k : Fin 8)
  /-- R436: `vproj`. Stream a vocabulary shard keeping heap, normaliser and labels. -/
  | vproj (a : Fin 32) (k : Fin 8)
  /-- R438: `vproj.thresh`. Stream a shard keeping logits above a threshold. -/
  | vprojThresh (a : Fin 32) (k : Fin 8)
  /-- R447: `vproj.bwd`. Regenerate logits to form dH and dE. -/
  | vprojBwd (a : Fin 32) (k : Fin 8)
  /-- R444: `vpmerge`. Merge two shard states row by row. -/
  | vpmerge (p : Fin 16) (c : Fin 32) (k : Fin 8)
  /-- R311: `cp`. Queue a copy command. -/
  | cp (a : Fin 16) (b : Fin 16) (k : Fin 32)
  /-- R309: `cp.tr`. Queue a granule-transposing copy. -/
  | cpTr (a : Fin 16) (b : Fin 16) (k : Fin 32)
  /-- R311: `cp.cvt`. Queue a converting copy. -/
  | cpCvt (a : Fin 16) (b : Fin 16) (k : Fin 32)
  /-- R312: `cp.red`. Queue a copy reducing into the destination. -/
  | cpRed (a : Fin 16) (b : Fin 16) (k : Fin 32) (rop : Fin 3) (rty : Fin 4)
  /-- R312: `cp.red2`. Queue a copy reducing two streams into the destination. -/
  | cpRed2 (a : Fin 16) (b : Fin 16) (k : Fin 16) (rop : Fin 3) (rty : Fin 4)
  /-- R316: `cp.nest`. Queue an affine loop-nest copy. -/
  | cpNest (a : Fin 32)
  /-- R318: `cp.arm`. Arm a loop-nest copy on a barrier phase flip. -/
  | cpArm (a : Fin 32) (b : Fin 32) (c : Fin 32)
  /-- R319: `cp.wait`. Wait for the thread's copy commands to complete. -/
  | cpWait
  /-- R319: `cp.stat`. Return counts of outstanding and armed copy commands. -/
  | cpStat (d : Fin 32)
  /-- R323: `coll.ar`. Issue an allreduce collective. -/
  | collAr (a : Fin 32) (fp8 : Bool)
  /-- R323: `coll.rs`. Issue a reduce-scatter collective. -/
  | collRs (a : Fin 32) (fp8 : Bool)
  /-- R323: `coll.ag`. Issue an allgather collective. -/
  | collAg (a : Fin 32) (fp8 : Bool)
  /-- R323: `coll.a2a`. Issue an all-to-all collective. -/
  | collA2a (a : Fin 32) (fp8 : Bool)
  /-- R323: `coll.bc`. Issue a broadcast collective. -/
  | collBc (a : Fin 32) (fp8 : Bool)
  /-- R325: `coll.tm`. Issue a tree-merge collective. -/
  | collTm (a : Fin 32) (fp8 : Bool)
  /-- R294: `cm.add`. Bank add per element returning old values. -/
  | cmAdd (p : Fin 16) (vi : Fin 56) (vs : Fin 48) (ty : Fin 6)
  /-- R294: `cm.min`. Bank minimum per element. -/
  | cmMin (p : Fin 16) (vi : Fin 56) (vs : Fin 48) (ty : Fin 6)
  /-- R294: `cm.max`. Bank maximum per element. -/
  | cmMax (p : Fin 16) (vi : Fin 56) (vs : Fin 48) (ty : Fin 6)
  /-- R294: `cm.and`. Bank and per element. -/
  | cmAnd (p : Fin 16) (vi : Fin 56) (vs : Fin 48) (ty : Fin 4)
  /-- R294: `cm.or`. Bank or per element. -/
  | cmOr (p : Fin 16) (vi : Fin 56) (vs : Fin 48) (ty : Fin 4)
  /-- R294: `cm.xor`. Bank exclusive or per element. -/
  | cmXor (p : Fin 16) (vi : Fin 56) (vs : Fin 48) (ty : Fin 4)
  /-- R294: `cm.swap`. Bank swap per element. -/
  | cmSwap (p : Fin 16) (vi : Fin 56) (vs : Fin 48) (ty : Fin 6)
  /-- R294: `cm.cas`. Bank compare-and-swap per element. -/
  | cmCas (p : Fin 16) (vi : Fin 56) (vs : Fin 24) (ty : Fin 6)
  /-- R295: `cm.ew`. Element-wise bank update of a contiguous array. -/
  | cmEw (p : Fin 16) (vs : Fin 48) (ty : Fin 6)
  /-- R296: `cm.red`. Reduce array elements and combine into a word. -/
  | cmRed (p : Fin 16) (sd : Fin 32) (ty : Fin 5)
  /-- R297: `cm.madd`. Saturating multiplicity add per element. -/
  | cmMadd (p : Fin 16) (vi : Fin 56) (vm : Fin 48)
  /-- R298: `cm.probe`. Find or insert keys in 8-slot buckets. -/
  | cmProbe (p : Fin 16) (vk : Fin 56) (vr : Fin 48)
  /-- R364: `iq.decl`. Declare an incremental queue from a QDR. -/
  | iqDecl (d : Fin 32) (a : Fin 32)
  /-- R369: `iq.emit`. Emit records into a queue as a producer slot. -/
  | iqEmit (p : Fin 16) (q : Fin 32)
  /-- R370: `iq.close`. Close a batch for a producer slot, or replay a route queue. -/
  | iqClose (q : Fin 32) (b : Fin 32)
  /-- R365: `iq.undecl`. Release a queue. -/
  | iqUndecl (q : Fin 32)
  /-- R375: `iq.take`. Take the next delivered batch of a queue. -/
  | iqTake (p : Fin 16) (q : Fin 32)
  /-- R379: `iq.apply`. Fold records into an arrangement. -/
  | iqApply (a : Fin 16) (b : Fin 16)
  /-- R380: `iq.probe`. Join change records against an arrangement. -/
  | iqProbe (a : Fin 16) (b : Fin 16)
  /-- R384: `iq.qwait`. Wait for a graph to be quiescent through a batch. -/
  | iqQwait (g : Fin 32) (b : Fin 32)
  /-- R376: `iq.done`. End holding of the taken batch. -/
  | iqDone (q : Fin 32)
  /-- R385: `iq.stat`. Read PEND, FRONT and QTHRU of a queue. -/
  | iqStat (d : Fin 32) (q : Fin 32)
  /-- R385: `iq.front`. Read NEXTD, AVAIL, HELD and QSTATE of a queue. -/
  | iqFront (d : Fin 32) (q : Fin 32)
  /-- R456: `nm.sgdf`. Queue a clipped SGD update with weight fade. -/
  | nmSgdf (a : Fin 16) (b : Fin 16) (g : Fin 16)
  /-- R455: `nm.axpy`. Queue y := a·x + y on the stack. -/
  | nmAxpy (a : Fin 16) (b : Fin 16) (g : Fin 16)
  /-- R455: `nm.scale`. Queue a scaling of a range. -/
  | nmScale (a : Fin 16) (b : Fin 16) (g : Fin 16)
  /-- R455: `nm.sumsq`. Queue a sum of squares written to common memory. -/
  | nmSumsq (a : Fin 16) (b : Fin 16) (g : Fin 16)
  /-- R455: `nm.cast`. Queue a format conversion of a range. -/
  | nmCast (a : Fin 16) (b : Fin 16) (g : Fin 16)
  /-- R455: `nm.fill`. Queue a fill of a range with a pattern. -/
  | nmFill (a : Fin 16) (b : Fin 16) (g : Fin 16)
  /-- R455: `nm.scatadd`. Queue a scatter-add of index-value records. -/
  | nmScatadd (a : Fin 16) (b : Fin 16) (g : Fin 16)
  /-- R464: `nm.wait`. Wait for near-memory commands not held at unfired gates. -/
  | nmWait
  /-- R464: `nm_wait_all`. Wait for every near-memory command the thread issued. -/
  | nmWaitAll
  /-- R465: `nm.stat`. Return counts of outstanding and gated near-memory commands. -/
  | nmStat (d : Fin 32)
  /-- R342: `st.flag`. Send an 8-byte ordered flag held until earlier counted writes land. -/
  | stFlag (d : Fin 32) (a : Fin 32)
  /-- R342: `st.flag.32`. Send a 4-byte ordered flag. -/
  | stFlag32 (d : Fin 32) (a : Fin 32)
  /-- R346: `lk.pref`. Prefetch a PEER-CACHED line into the LLC in S. -/
  | lkPref (a : Fin 32)
  /-- R346: `lk.flush`. Write back a line's M copy anywhere in the domain. -/
  | lkFlush (a : Fin 32)
  /-- R346: `lk.inval`. Write back and remove a line from every LLC. -/
  | lkInval (a : Fin 32)
  /-- R344: `pcount`. Read the unacknowledged counted-write count for a destination and path. -/
  | pcount (d : Fin 32) (a : Fin 32) (path : Fin 4)
  /-- R345: `fence.ack`. Wait until counted writes to destinations are acknowledged or lost. -/
  | fenceAck (a : Fin 32)
  /-- R347: `lk.stat`. Read port, destination or loss-log status. -/
  | lkStat (d : Fin 32) (a : Fin 32)
  /-- R63: `nop`. Hint word that changes only the PC. -/
  | nop
  /-- R63: `hint`. Hint with a 26-bit value, changing only the PC. -/
  | hint (k : Fin 67108864)
  /-- R64: ILLEGAL_INSTRUCTION. Fetch of an illegal word raises cause 0x01. -/
  | illegalInstruction (w : BitVec 32)
  /-- R264: INSTRUCTION_FETCH_FAULT. An instruction fetch fails translation, permission or poison. -/
  | instructionFetchFault (cause : BitVec 8)
  /-- R305: ENGINE_RECORD_DELIVERY. Deliver an engine progress record as a trap at the next boundary with HM 0. -/
  | engineRecordDelivery (thread : Nat)
  /-- R148: HELD_RECORD_WRITE. Write a held progress record once the fault record queue has room. -/
  | heldRecordWrite (core : Nat)
  /-- R206: VECTOR_STRIP_ISSUE. The vector sequencer chooses and issues one strip each cycle. -/
  | vectorStripIssue (core : Nat)
  /-- R16: FORKED_PROGRAM_TAKE. An idle copy engine takes the oldest forked-program queue entry. -/
  | forkedProgramTake (die : Nat)
  /-- R22: BARRIER_COMPLETION. An engine reports performed bytes to a barrier object. -/
  | barrierCompletion (pa : Nat) (bytes : Nat)
  /-- R128: TAG_SWEEP. Background sweep rewrites old-generation writer tags to domain 0. -/
  | tagSweep (line : Nat)
  /-- R26: ARMED_COMMAND_FIRE. An armed copy or gated near-memory command fires on a flip event. -/
  | armedCommandFire (near : Bool) (unit : Nat) (index : Nat)
  /-- R285: TILE_DEFINE. Store to a tile-table entry defining BASE and SIZE. -/
  | tileDefine (cluster : Nat) (tile : Nat) (word : BitVec 64)
  /-- R286: TILE_CMD_RELEASE. Release command moves a ready tile to draining. -/
  | tileCmdRelease (cluster : Nat) (tile : Nat)
  /-- R286: TILE_CMD_DISCARD. Discard command moves a ready tile to empty. -/
  | tileCmdDiscard (cluster : Nat) (tile : Nat)
  /-- R287: TILE_READY. A filling tile becomes ready when its bytes are performed. -/
  | tileReady (cluster : Nat) (tile : Nat)
  /-- R287: TILE_DRAIN_END. A draining tile becomes empty when its last reads finish. -/
  | tileDrainEnd (cluster : Nat) (tile : Nat)
  /-- R30: TILE_EMPTY_TIMEOUT. A read of a still-empty tile raises 0x51 at the second swath boundary. -/
  | tileEmptyTimeout (core : Nat)
  /-- R38: SWATH_BOUNDARY. Every 4096 cycles budgets, counts and vector credit are reset. -/
  | swathBoundary
  /-- R39: GOVERNOR_WINDOW. Each 256-cycle window the issue governor count restarts. -/
  | governorWindow
  /-- R149: PREEMPT_REQUEST. Dispatch sends a pre-emption request to a slot. -/
  | preemptRequest (thread : Nat)
  /-- R150: PREEMPT_LANDING. The request lands at a landing point and the slot is suspended. -/
  | preemptLanding (thread : Nat)
  /-- R149: PLIM_EXPIRY. After PLIM cycles late landing points become eligible. -/
  | plimExpiry (thread : Nat)
  /-- R153: SAVE_COMPLETE. Save the suspended thread once its async work ends and free the slot. -/
  | saveComplete (thread : Nat)
  /-- R130: SLOT_RESUME. Firmware resumes a suspended slot without a save. -/
  | slotResume (thread : Nat)
  /-- R19: SLOT_FREE. A retiring slot frees once its asynchronous work completes. -/
  | slotFree (thread : Nat)
  /-- R203: BIND_GO. A store to GO checks and commits a bind record. -/
  | bindGo (thread : Nat)
  /-- R204: BIND_STATE_READY. Initial or restored state is in place and the slot runs. -/
  | bindStateReady (thread : Nat)
  /-- R199: HOST_QUEUE_TAKE. The device copies a host-queue record into the launch intake. -/
  | hostQueueTake (device : Nat) (queue : Nat)
  /-- R196: DEPENDENCE_OBSERVE. Dispatch reads a dependence signal at least once per swath. -/
  | dependenceObserve (device : Nat) (entry : Nat) (dep : Nat)
  /-- R197: PREDICATE_READ. A conditional node reads its predicate word once. -/
  | predicateRead (device : Nat) (entry : Nat)
  /-- R207: REPLACEMENT_MAP_INSTALL. RGEN increment installs a replacement map after reading NEW words. -/
  | replacementMapInstall (rcb : Nat)
  /-- R272: PAGE_WALK. The translation unit serves TLB misses by a vectorised walk. -/
  | pageWalk (core : Nat) (asid : Nat) (vas : List Nat)
  /-- R276: COW_COPY. Copy a COW page to a pool page and invalidate. -/
  | cowCopy (die : Nat) (asid : Nat) (va : Nat)
  /-- R273: INVCMD. Store to INVCMD starts a TLB invalidation. -/
  | invcmd (die : Nat)
  /-- R277: SNAPCMD. Store to SNAPCMD starts a copy-on-write snapshot. -/
  | snapcmd (die : Nat)
  /-- R300: SCRUB. Bank scrubber reads and checks a word in an idle or forced cycle. -/
  | scrub (granule : Nat)
  /-- R299: UNCORRECTABLE_ERROR. An uncorrectable ECC error poisons its granule. -/
  | uncorrectableError (granule : Nat)
  /-- R408: CFG_RECOVERY. Freeze, reload and signature-check a configuration bank after an error. -/
  | cfgRecovery (core : Nat) (shadow : Bool)
  /-- R409: CFGLD_PREEMPT_HOLD. A landing in fa.cfgld is held up to 4096 cycles then the load abandoned. -/
  | cfgldPreemptHold (thread : Nat)
  /-- R395: FA_CONTEXT_EXECUTE. A factor array context executes the next entry of its queue. -/
  | faContextExecute (core : Nat)
  /-- R311: COPY_EXECUTE. A copy engine starts the next command of its queue. -/
  | copyExecute (engine : Nat)
  /-- R324: COLL_READY. Member 0 receives a member's ready packet. -/
  | collReady (engine : Nat) (tag : Nat) (member : Nat)
  /-- R324: COLL_START. A member receives the start packet and begins sending. -/
  | collStart (engine : Nat) (tag : Nat)
  /-- R329: COLL_ABORT. A member receives an abort and stops the collective. -/
  | collAbort (engine : Nat) (tag : Nat) (cause : BitVec 8)
  /-- R450: NM_COMMAND_START. A near-memory engine starts a command from its queue or gate table. -/
  | nmCommandStart (die : Nat)
  /-- R459: NM_COMPLETION. A near-memory command completes or stops and invalidates written lines. -/
  | nmCompletion (die : Nat)
  /-- R337: READ_SHARED. Home serves a read-shared request. -/
  | readShared (line : Nat) (die : Nat)
  /-- R337: READ_EXCLUSIVE. Home serves a read-exclusive request. -/
  | readExclusive (line : Nat) (die : Nat)
  /-- R337: UPGRADE. Home serves an upgrade request. -/
  | upgrade (line : Nat) (die : Nat)
  /-- R337: WRITE_BACK. Home accepts a write-back of an M line. -/
  | writeBack (line : Nat) (die : Nat)
  /-- R337: PUSH_WRITE. Home performs a push write and acknowledges it. -/
  | pushWrite (packet : Nat)
  /-- R337: UNCACHED_READ. Home performs an uncached read. -/
  | uncachedRead (line : Nat)
  /-- R340: REMOTE_ATOMIC. Home performs a remote atomic packet. -/
  | remoteAtomic (line : Nat)
  /-- R337: INVALIDATE. A die receives an invalidation of a line copy. -/
  | invalidate (line : Nat) (die : Nat)
  /-- R337: INVALIDATE_ACKNOWLEDGEMENT. Home receives an invalidation acknowledgement. -/
  | invalidateAcknowledgement (line : Nat) (die : Nat)
  /-- R337: DATA_RESPONSE. Requester receives a data response. -/
  | dataResponse (line : Nat) (die : Nat)
  /-- R341: WRITE_ACKNOWLEDGEMENT. Source die receives a counted-write acknowledgement. -/
  | writeAcknowledgement (packet : Nat)
  /-- R350: MULTICAST_READ. A member serves a multicast read. -/
  | multicastRead (member : Nat) (line : Nat)
  /-- R335: COLLECTIVE_PACKET. A port stage receives collective traffic. -/
  | collectivePacket (engine : Nat) (tag : Nat)
  /-- R386: QUEUE_RECORD. A destination receives a route queue record packet. -/
  | queueRecord (packet : Nat)
  /-- R387: CLOSING_MARKER. A destination receives a closing marker for a staging set. -/
  | closingMarker (packet : Nat)
  /-- R381: MARKER_ACKNOWLEDGEMENT. A route queue receives a marker acknowledgement. -/
  | markerAcknowledgement (packet : Nat)
  /-- R357: HOST_FORWARD. A device performs a forwarded host request as an H access. -/
  | hostForward (pa : Nat) (bytes : List (BitVec 8))
  /-- R342: FLAG_RELEASE. A held ordered flag is performed once earlier writes land. -/
  | flagRelease (packet : Nat)
  /-- R351: LINK_REPLAY. A link replays a flit whose check failed. -/
  | linkReplay (device : Nat) (port : Nat)
  /-- R351: LINK_DOWN. A repeatedly failing link goes down and writes are resent. -/
  | linkDown (device : Nat) (port : Nat)
  /-- R352: LINK_LOSS. LTIMEOUT expires for a pair and the pair is declared lost. -/
  | linkLoss (die : Nat) (dest : Nat)
  /-- R352: ROUTER_FLIT_DISCARD. A router discards a flit held for LTIMEOUT/2 cycles: the number of the packet it carries and the
  router's die. -/
  | routerFlitDiscard (flit : Nat × Nat)
  /-- R352: LRESET. Store to LRESET clears a lost destination and advances its epoch. -/
  | lreset (die : Nat) (dest : Nat)
  /-- R357: HOST_WRITE. A host posted write arrives through BAR0 or BAR2. -/
  | hostWrite (pa : Nat) (bytes : List (BitVec 8))
  /-- R357: HOST_READ. A host read request arrives through BAR0 or BAR2. -/
  | hostRead (pa : Nat) (size : Nat)
  /-- R355: HOST_ATOMIC. A host AtomicOp arrives as completer. -/
  | hostAtomic (op : Nat) (wide : Bool) (pa : Nat) (operand : BitVec 64) (compare : BitVec 64)
  /-- R356: HOST_COMPLETION_TIMEOUT. A host-aperture read times out with cause 0x74. -/
  | hostCompletionTimeout (thread : Nat)
  /-- R374: BATCH_DELIVERY. The hayrake delivers or refuses the next batch of a queue. -/
  | batchDelivery (die : Nat) (queue : Nat)
  /-- R374: DCAP_RETRY. Store to a QDR's DCAP re-enables a refused delivery. -/
  | dcapRetry (die : Nat) (queue : Nat)
  /-- R477: POWER_REQUEST_P. PREQ names a P-state, applied at the next swath boundary. -/
  | powerRequestP (device : Nat) (state : Nat)
  /-- R477: POWER_REQUEST_D1. PREQ requests D1, granted only when the device is idle. -/
  | powerRequestD1 (device : Nat)
  /-- R477: POWER_REQUEST_D2. PREQ requests D2, writing back and powering down the dies. -/
  | powerRequestD2 (device : Nat)
  /-- R477: D1_EXIT. Leave D1 to the prior P-state. -/
  | d1Exit (device : Nat)
  /-- R478: D2_EXIT. Leave D2 checking the firmware hash, else cold boot. -/
  | d2Exit (device : Nat)
  /-- R478: THERMAL_TRIP. A die reaches its trip and the device enters P3. -/
  | thermalTrip (die : Nat)
  /-- R468: POWER_ON. Cold boot verifies and starts signed firmware. -/
  | powerOn (device : Nat)
  /-- R469: ATTESTATION_REQUEST. Setting REQ requests an attestation report. -/
  | attestationRequest (device : Nat)
  /-- R469: ATTESTATION_REPORT. The package manager writes the signed report and clears REQ. -/
  | attestationReport (device : Nat)
  /-- R475: PRESENT. Write to PRESENT submits a debug token for checking. -/
  | present (device : Nat)
  /-- R475: DEBUG_TOKEN_CHECK. Token check ends: open a session with clearing, or refuse. -/
  | debugTokenCheck (device : Nat)
  /-- R476: CLOSE. Write to CLOSE ends the open debug session. -/
  | close (device : Nat)
  /-- R471: OWNER_TRANSITION. Firmware fuses the owner key hash, moving Locked to Owner. The record is the owner key and the vendor's signature. -/
  | ownerTransition (device : Nat) (record : BitVec 256 × BitVec 512)
  /-- R8: REGISTER_WRITE. Write to a register or control field with no behaviour of its own. -/
  | registerWrite (pa : Nat) (bytes : List (BitVec 8))
  /-- R347: LINK_UP. A fabric port or the PCIe link on port 31 comes up and reports UP. -/
  | linkUp (device : Nat) (port : Nat)
  /-- R477: POWER_LOSS. Module power is removed and every state except fuses is lost. -/
  | powerLoss (device : Nat)
  /-- R473: DEBUG_HALT. A halt session halts a thread of a named region, which becomes suspended. The session's unit and the
  accesses to its state. -/
  | debugHalt (session : Nat × List (Nat × Option (BitVec 64)))
  /-- R473: DEBUG_STEP. A halt session steps a halted thread by one instruction. -/
  | debugStep (unit : Nat)
  /-- R351: RESPONSE_OVERDUE. A request whose response is overdue is sent again on another available path. -/
  | responseOverdue (packet : Nat)
  /-- R356: HOST_COMPLETION. A PCIe completion for a device-issued host-aperture read or AtomicOp arrives at the endpoint, possibly with UR, CA or poisoned data. -/
  | hostCompletion (thread : Nat) (status : Nat) (bytes : List (BitVec 8))
  /-- R471: MANUFACTURING_EXIT. SEC 2 is fused to 0, and the device generates its identity key pair as it leaves Manufacturing. -/
  | manufacturingExit (device : Nat) (key : BitVec 256)
  /-- R468: FUSED_MINIMUM_VERSION_RAISE. Signed firmware raises the fused minimum firmware version. -/
  | fusedMinimumVersionRaise (device : Nat) (version : BitVec 32)
  deriving DecidableEq, Repr

end Sys2Proof
end

