-- ==== Sys2Proof/WellFormed.lean ====
section
/-! DEFINITION. Which instructions are well formed: the conditions of the encoding rules R45..R63 that the types of
`Instr` do not already hold. An ill-formed word raises cause 0x01 when it is fetched (R64). -/

namespace Sys2Proof

/-- The number of path classes a mask of R14 names. -/
def pathCount (mask : Fin 128) : Nat :=
  (List.range 7).countP (fun i => mask.val.testBit i)

/-- A field that names a queue `q0`..`q7` (48..55, R47), as opposed to a vector register. -/
def queueOf (n : Fin 56) : Option Nat := if 48 ≤ n.val then some (n.val - 48) else none

/-- R47: one instruction never names the same queue in two of its source fields. -/
def distinctQueues (a b : Fin 56) : Bool := a != b || decide (a.val < 48)

/-- The conditions of R47, R48, R52, R53, R54, R57 and R63 on an instruction's own fields. -/
def Instr.wellFormed : Instr → Bool
  | .loop _ _ e => e.val != 0
  | .xfence mask => decide (2 ≤ pathCount mask)
  | .sets r _ => r.val != 1 && r.val != 2 && r.val != 5
  | .hint k => k.val != 0
  | .vaddFloat _ a b _ => distinctQueues a b
  | .vsubFloat _ a b _ => distinctQueues a b
  | .vmulFloat _ a b _ => distinctQueues a b
  | .vdiv _ a b _ => distinctQueues a b
  | .vfma _ a b _ => distinctQueues a b
  | .vfms _ a b _ => distinctQueues a b
  | .vfnma _ a b _ => distinctQueues a b
  | .vminFloat _ a b _ => distinctQueues a b
  | .vmaxFloat _ a b _ => distinctQueues a b
  | .vaddInt _ a b _ => distinctQueues a b
  | .vsubInt _ a b _ => distinctQueues a b
  | .vmulInt _ a b _ => distinctQueues a b
  | .vmulhi _ a b _ => distinctQueues a b
  | .vminInt _ a b _ => distinctQueues a b
  | .vmaxInt _ a b _ => distinctQueues a b
  | .vaddsat _ a b _ => distinctQueues a b
  | .vsubsat _ a b _ => distinctQueues a b
  | .vmad _ a b _ => distinctQueues a b
  | .vand _ a b _ => distinctQueues a b
  | .vor _ a b _ => distinctQueues a b
  | .vxor _ a b _ => distinctQueues a b
  | .vandn _ a b _ => distinctQueues a b
  | .vsll _ a b _ => distinctQueues a b
  | .vsrl _ a b _ => distinctQueues a b
  | .vsra _ a b _ => distinctQueues a b
  | .vcmpEq _ a b _ => distinctQueues a b
  | .vcmpNe _ a b _ => distinctQueues a b
  | .vcmpLt _ a b _ => distinctQueues a b
  | .vcmpLe _ a b _ => distinctQueues a b
  | .vpick _ a b _ => distinctQueues a b
  | .vzip _ a b _ => distinctQueues a b
  | .vunzip _ a b _ => distinctQueues a b
  | .vsel _ a b k => k.val != 0 && distinctQueues a b
  | .vpack _ _ k => k.val != 0
  | .vpackK _ _ k => k.val != 0
  | .vmerge _ _ k => k.val != 0
  | .vprune d _ b => d != b
  | .vstx vs _ vi _ _ _ => distinctQueues vs vi
  | _ => true

end Sys2Proof
end

