-- ==== Sys2Proof/Decode.lean ====
section
/-! DEFINITION. The decoder of instruction words (R43..R63), total on any bytes and rejecting by name, and after it the
encoder written from the same encoding tables. -/

namespace Sys2Proof

/-- Why a word is no instruction. Every one of them raises cause 0x01 (R45, R64). -/
inductive Reject where
  /-- R50: a major opcode that the map lists as illegal or reserved. -/
  | badMajor
  /-- R50: a function code, kind or sub-field value that the group table does not list. -/
  | badFunction
  /-- R45..R48: a register or immediate field outside its legal range. -/
  | badField
  /-- R45: a reserved field that is not zero. -/
  | reservedField
  /-- The fields are each legal and the instruction as a whole is not (R47, R48, R52, R53, R54, R57). -/
  | illFormed
  /-- Fewer than four bytes. -/
  | shortWord
  deriving DecidableEq, Repr

/-- The five fields of a word: bits 31:26, 25:20, 19:14, 13:8 and 7:0 (R44). Every format is made of them. -/
structure Fields where
  mj : Nat
  f1 : Nat
  f2 : Nat
  f3 : Nat
  fn : Nat
  deriving DecidableEq, Repr

/-- The fields of a word. -/
def unpackFields (w : Nat) : Fields :=
  ⟨w / 67108864 % 64, w / 1048576 % 64, w / 16384 % 64, w / 256 % 64, w % 256⟩

/-- The word of five fields. -/
def packFields (f : Fields) : Nat :=
  f.mj * 67108864 + f.f1 * 1048576 + f.f2 * 16384 + f.f3 * 256 + f.fn

/-- A field with legal values 0 .. k-1. -/
def fldN (k n : Nat) : Except Reject (Fin k) := if h : n < k then .ok ⟨n, h⟩ else .error .badField

/-- R46, R250: a field that names an even register, `2n` with n below k. -/
def fldPair (k n : Nat) : Except Reject (Fin k) :=
  if n % 2 = 0 then (if h : n / 2 < k then .ok ⟨n / 2, h⟩ else .error .badField) else .error .badField

/-- R45: an unused field, which must be zero. -/
def fld0 (n : Nat) : Except Reject Unit := if n = 0 then .ok () else .error .reservedField

/-- R51: a field that must be one (the size of `amo.cas16`). -/
def fld1 (n : Nat) : Except Reject Unit := if n = 1 then .ok () else .error .badField

/-- R54: the declared count of `vcfg`, one of 6, 12, 24 and 48. -/
def fldCount (n : Nat) : Except Reject (Fin 4) :=
  match n with
  | 6 => .ok 0
  | 12 => .ok 1
  | 24 => .ok 2
  | 48 => .ok 3
  | _ => .error .badField

/-- The declared count of a code of R70: 6, 12, 24, 48. -/
def countOf (c : Fin 4) : Nat := 6 * 2 ^ c.val

/-- R418: the queue field of `fa.drain` and `fa.drainv`: 0 for none, 48..55 for `q0`..`q7`. -/
def fldQueue (n : Nat) : Except Reject (Option (Fin 8)) :=
  if n = 0 then .ok none
  else if n < 48 then .error .badField
  else if h : n - 48 < 8 then .ok (some ⟨n - 48, h⟩) else .error .badField

/-- The value of a queue field. -/
def queueField : Option (Fin 8) → Nat
  | none => 0
  | some q => 48 + q.val

/-- An instruction of one checked field. -/
def form1 {α : Type} : Except Reject α → (α → Instr) → Except Reject Instr
  | .ok a, k => .ok (k a)
  | .error e, _ => .error e

/-- An instruction of 2 checked fields: the first that is illegal gives the reason. -/
def form2 {α β : Type} (x0 : Except Reject α) (x1 : Except Reject β)
    (k : α → β → Instr) : Except Reject Instr :=
  match x0 with
  | .error e => .error e
  | .ok a => form1 x1 (k a)

/-- An instruction of 3 checked fields: the first that is illegal gives the reason. -/
def form3 {α β γ : Type} (x0 : Except Reject α) (x1 : Except Reject β) (x2 : Except Reject γ)
    (k : α → β → γ → Instr) : Except Reject Instr :=
  match x0 with
  | .error e => .error e
  | .ok a => form2 x1 x2 (k a)

/-- An instruction of 4 checked fields: the first that is illegal gives the reason. -/
def form4 {α β γ δ : Type} (x0 : Except Reject α) (x1 : Except Reject β) (x2 : Except Reject γ) (x3 : Except Reject δ)
    (k : α → β → γ → δ → Instr) : Except Reject Instr :=
  match x0 with
  | .error e => .error e
  | .ok a => form3 x1 x2 x3 (k a)

/-- An instruction of 5 checked fields: the first that is illegal gives the reason. -/
def form5 {α β γ δ ε : Type} (x0 : Except Reject α) (x1 : Except Reject β) (x2 : Except Reject γ) (x3 : Except Reject δ) (x4 : Except Reject ε)
    (k : α → β → γ → δ → ε → Instr) : Except Reject Instr :=
  match x0 with
  | .error e => .error e
  | .ok a => form4 x1 x2 x3 x4 (k a)

/-- An instruction of 6 checked fields: the first that is illegal gives the reason. -/
def form6 {α β γ δ ε ζ : Type} (x0 : Except Reject α) (x1 : Except Reject β) (x2 : Except Reject γ) (x3 : Except Reject δ) (x4 : Except Reject ε) (x5 : Except Reject ζ)
    (k : α → β → γ → δ → ε → ζ → Instr) : Except Reject Instr :=
  match x0 with
  | .error e => .error e
  | .ok a => form5 x1 x2 x3 x4 x5 (k a)

/-- Major 0x01 (R50 and its group table). -/
def decodeMajor01 (f : Fields) : Except Reject Instr :=
  match f.fn with
  | 0 => form3 (fldN 32 f.f1) (fldN 32 f.f2) (fldN 32 f.f3) .add
  | 1 => form3 (fldN 32 f.f1) (fldN 32 f.f2) (fldN 32 f.f3) .sub
  | 2 => form3 (fldN 32 f.f1) (fldN 32 f.f2) (fldN 32 f.f3) .and
  | 3 => form3 (fldN 32 f.f1) (fldN 32 f.f2) (fldN 32 f.f3) .or
  | 4 => form3 (fldN 32 f.f1) (fldN 32 f.f2) (fldN 32 f.f3) .xor
  | 5 => form3 (fldN 32 f.f1) (fldN 32 f.f2) (fldN 32 f.f3) .andn
  | 6 => form3 (fldN 32 f.f1) (fldN 32 f.f2) (fldN 32 f.f3) .sll
  | 7 => form3 (fldN 32 f.f1) (fldN 32 f.f2) (fldN 32 f.f3) .srl
  | 8 => form3 (fldN 32 f.f1) (fldN 32 f.f2) (fldN 32 f.f3) .sra
  | 9 => form3 (fldN 32 f.f1) (fldN 32 f.f2) (fldN 32 f.f3) .ror
  | 10 => form3 (fldN 32 f.f1) (fldN 32 f.f2) (fldN 32 f.f3) .sltI64
  | 11 => form3 (fldN 32 f.f1) (fldN 32 f.f2) (fldN 32 f.f3) .sltN64
  | 12 => form3 (fldN 32 f.f1) (fldN 32 f.f2) (fldN 32 f.f3) .minI64
  | 13 => form3 (fldN 32 f.f1) (fldN 32 f.f2) (fldN 32 f.f3) .minN64
  | 14 => form3 (fldN 32 f.f1) (fldN 32 f.f2) (fldN 32 f.f3) .maxI64
  | 15 => form3 (fldN 32 f.f1) (fldN 32 f.f2) (fldN 32 f.f3) .maxN64
  | 16 => form3 (fldN 32 f.f1) (fldN 32 f.f2) (fld0 f.f3) (fun d a _ => .clz d a)
  | 17 => form3 (fldN 32 f.f1) (fldN 32 f.f2) (fld0 f.f3) (fun d a _ => .ctz d a)
  | 18 => form3 (fldN 32 f.f1) (fldN 32 f.f2) (fld0 f.f3) (fun d a _ => .popc d a)
  | 24 => form3 (fldN 32 f.f1) (fldN 32 f.f2) (fld0 f.f3) (fun d a _ => .jalr d a)
  | 32 => form3 (fldN 32 f.f1) (fldN 6 f.f2) (fld0 f.f3) (fun d k _ => .lidx d k)
  | 33 => form3 (fld0 f.f1) (fldN 6 f.f2) (fld0 f.f3) (fun _ k _ => .lbrk k)
  | _ => .error .badFunction

/-- Major 0x02 (R50 and its group table). -/
def decodeMajor02 (f : Fields) : Except Reject Instr :=
  form3 (fldN 32 f.f1) (fldN 32 f.f2) (.ok (BitVec.ofNat 14 (f.f3 * 256 + f.fn))) .addi

/-- Major 0x03 (R50 and its group table). -/
def decodeMajor03 (f : Fields) : Except Reject Instr :=
  match f.f3 / 8 with
  | 0 => form3 (fldN 32 f.f1) (fldN 32 f.f2) (.ok (BitVec.ofNat 11 (f.f3 % 8 * 256 + f.fn))) .andi
  | 1 => form3 (fldN 32 f.f1) (fldN 32 f.f2) (.ok (BitVec.ofNat 11 (f.f3 % 8 * 256 + f.fn))) .ori
  | 2 => form3 (fldN 32 f.f1) (fldN 32 f.f2) (.ok (BitVec.ofNat 11 (f.f3 % 8 * 256 + f.fn))) .xori
  | 3 => form3 (fldN 32 f.f1) (fldN 32 f.f2) (.ok (BitVec.ofNat 11 (f.f3 % 8 * 256 + f.fn))) .sltiI64
  | 4 => form3 (fldN 32 f.f1) (fldN 32 f.f2) (.ok (BitVec.ofNat 11 (f.f3 % 8 * 256 + f.fn))) .sltiN64
  | 5 => form4 (fldN 32 f.f1) (fldN 32 f.f2) (fld0 (f.f3 % 8)) (fldN 64 f.fn) (fun d a _ sh => .slli d a sh)
  | 6 => form4 (fldN 32 f.f1) (fldN 32 f.f2) (fld0 (f.f3 % 8)) (fldN 64 f.fn) (fun d a _ sh => .srli d a sh)
  | 7 => form4 (fldN 32 f.f1) (fldN 32 f.f2) (fld0 (f.f3 % 8)) (fldN 64 f.fn) (fun d a _ sh => .srai d a sh)
  | _ => .error .badFunction

/-- Major 0x04 (R50 and its group table). -/
def decodeMajor04 (f : Fields) : Except Reject Instr :=
  form2 (fldN 32 f.f1) (.ok (BitVec.ofNat 20 (f.f2 * 16384 + f.f3 * 256 + f.fn))) .lui

/-- Major 0x05 (R50 and its group table). -/
def decodeMajor05 (f : Fields) : Except Reject Instr :=
  form2 (fldN 32 f.f1) (.ok (BitVec.ofNat 20 (f.f2 * 16384 + f.f3 * 256 + f.fn))) .apc

/-- Major 0x06 (R50 and its group table). -/
def decodeMajor06 (f : Fields) : Except Reject Instr :=
  match f.fn with
  | 0 => form3 (fldN 32 f.f1) (fldN 32 f.f2) (fldN 32 f.f3) .mul
  | 1 => form3 (fldN 32 f.f1) (fldN 32 f.f2) (fldN 32 f.f3) .mulhI64
  | 2 => form3 (fldN 32 f.f1) (fldN 32 f.f2) (fldN 32 f.f3) .mulhN64
  | 3 => form3 (fldN 32 f.f1) (fldN 32 f.f2) (fldN 32 f.f3) .divI64
  | 4 => form3 (fldN 32 f.f1) (fldN 32 f.f2) (fldN 32 f.f3) .divN64
  | 5 => form3 (fldN 32 f.f1) (fldN 32 f.f2) (fldN 32 f.f3) .remI64
  | 6 => form3 (fldN 32 f.f1) (fldN 32 f.f2) (fldN 32 f.f3) .remN64
  | 7 => form3 (fldN 32 f.f1) (fldN 32 f.f2) (fldN 32 f.f3) .mulI32
  | _ => .error .badFunction

/-- Major 0x07 (R50 and its group table). -/
def decodeMajor07 (f : Fields) : Except Reject Instr :=
  match f.fn with
  | 0 => form3 (fldN 32 f.f1) (fldN 32 f.f2) (fldN 32 f.f3) .bfxN64
  | 1 => form3 (fldN 32 f.f1) (fldN 32 f.f2) (fldN 32 f.f3) .bfxI64
  | 2 => form3 (fldN 32 f.f1) (fldN 32 f.f2) (fldN 32 f.f3) .bfi
  | 3 => form3 (fldN 32 f.f1) (fldN 32 f.f2) (fld0 f.f3) (fun d a _ => .bswap d a)
  | 4 => form3 (fldN 32 f.f1) (fldN 32 f.f2) (fld0 f.f3) (fun d a _ => .brev d a)
  | _ => .error .badFunction

/-- Major 0x08 (R50 and its group table). -/
def decodeMajor08 (f : Fields) : Except Reject Instr :=
  form3 (fldN 32 f.f1) (fldN 32 f.f2) (.ok (BitVec.ofNat 14 (f.f3 * 256 + f.fn))) .beq

/-- Major 0x09 (R50 and its group table). -/
def decodeMajor09 (f : Fields) : Except Reject Instr :=
  form3 (fldN 32 f.f1) (fldN 32 f.f2) (.ok (BitVec.ofNat 14 (f.f3 * 256 + f.fn))) .bne

/-- Major 0x0A (R50 and its group table). -/
def decodeMajor0A (f : Fields) : Except Reject Instr :=
  form3 (fldN 32 f.f1) (fldN 32 f.f2) (.ok (BitVec.ofNat 14 (f.f3 * 256 + f.fn))) .bltI64

/-- Major 0x0B (R50 and its group table). -/
def decodeMajor0B (f : Fields) : Except Reject Instr :=
  form3 (fldN 32 f.f1) (fldN 32 f.f2) (.ok (BitVec.ofNat 14 (f.f3 * 256 + f.fn))) .bgeI64

/-- Major 0x0C (R50 and its group table). -/
def decodeMajor0C (f : Fields) : Except Reject Instr :=
  form1 (.ok (BitVec.ofNat 26 (f.f1 * 1048576 + f.f2 * 16384 + f.f3 * 256 + f.fn))) .jal

/-- Major 0x0D (R50 and its group table). -/
def decodeMajor0D (f : Fields) : Except Reject Instr :=
  form3 (fldN 32 f.f1) (fldN 7 f.f2) (fldN 16384 (f.f3 * 256 + f.fn)) .loop

/-- Major 0x0E (R50 and its group table). -/
def decodeMajor0E (f : Fields) : Except Reject Instr :=
  match f.f3 / 4 with
  | 0 => form3 (fldN 32 f.f1) (fldN 32 f.f2) (.ok (BitVec.ofNat 10 (f.f3 % 4 * 256 + f.fn))) .ldI8
  | 1 => form3 (fldN 32 f.f1) (fldN 32 f.f2) (.ok (BitVec.ofNat 10 (f.f3 % 4 * 256 + f.fn))) .ldN8
  | 2 => form3 (fldN 32 f.f1) (fldN 32 f.f2) (.ok (BitVec.ofNat 10 (f.f3 % 4 * 256 + f.fn))) .ldI16
  | 3 => form3 (fldN 32 f.f1) (fldN 32 f.f2) (.ok (BitVec.ofNat 10 (f.f3 % 4 * 256 + f.fn))) .ldN16
  | 4 => form3 (fldN 32 f.f1) (fldN 32 f.f2) (.ok (BitVec.ofNat 10 (f.f3 % 4 * 256 + f.fn))) .ldI32
  | 5 => form3 (fldN 32 f.f1) (fldN 32 f.f2) (.ok (BitVec.ofNat 10 (f.f3 % 4 * 256 + f.fn))) .ldN32
  | 6 => form3 (fldN 32 f.f1) (fldN 32 f.f2) (.ok (BitVec.ofNat 10 (f.f3 % 4 * 256 + f.fn))) .ld64
  | 7 => form3 (fldN 32 f.f1) (fldN 32 f.f2) (.ok (BitVec.ofNat 10 (f.f3 % 4 * 256 + f.fn))) .ldAcq64
  | 8 => form3 (fldN 32 f.f1) (fldN 32 f.f2) (.ok (BitVec.ofNat 10 (f.f3 % 4 * 256 + f.fn))) .st8
  | 9 => form3 (fldN 32 f.f1) (fldN 32 f.f2) (.ok (BitVec.ofNat 10 (f.f3 % 4 * 256 + f.fn))) .st16
  | 10 => form3 (fldN 32 f.f1) (fldN 32 f.f2) (.ok (BitVec.ofNat 10 (f.f3 % 4 * 256 + f.fn))) .st32
  | 11 => form3 (fldN 32 f.f1) (fldN 32 f.f2) (.ok (BitVec.ofNat 10 (f.f3 % 4 * 256 + f.fn))) .st64
  | 12 => form3 (fldN 32 f.f1) (fldN 32 f.f2) (.ok (BitVec.ofNat 10 (f.f3 % 4 * 256 + f.fn))) .stRel64
  | 13 => form3 (fldN 32 f.f1) (fldN 32 f.f2) (.ok (BitVec.ofNat 10 (f.f3 % 4 * 256 + f.fn))) .ldAcqN32
  | 14 => form3 (fldN 32 f.f1) (fldN 32 f.f2) (.ok (BitVec.ofNat 10 (f.f3 % 4 * 256 + f.fn))) .stRel32
  | _ => .error .badFunction

/-- Major 0x0F (R50 and its group table). -/
def decodeMajor0F (f : Fields) : Except Reject Instr :=
  match f.fn % 16 with
  | 0 => form5 (fldN 32 f.f1) (fldN 32 f.f2) (fldN 32 f.f3) (fldN 6 (f.fn / 32)) (.ok (f.fn / 16 % 2 == 1)) .amoSwap
  | 1 => form5 (fldN 32 f.f1) (fldN 32 f.f2) (fldN 32 f.f3) (fldN 6 (f.fn / 32)) (.ok (f.fn / 16 % 2 == 1)) .amoAdd
  | 2 => form5 (fldN 32 f.f1) (fldN 32 f.f2) (fldN 32 f.f3) (fldN 6 (f.fn / 32)) (.ok (f.fn / 16 % 2 == 1)) .amoAnd
  | 3 => form5 (fldN 32 f.f1) (fldN 32 f.f2) (fldN 32 f.f3) (fldN 6 (f.fn / 32)) (.ok (f.fn / 16 % 2 == 1)) .amoOr
  | 4 => form5 (fldN 32 f.f1) (fldN 32 f.f2) (fldN 32 f.f3) (fldN 6 (f.fn / 32)) (.ok (f.fn / 16 % 2 == 1)) .amoXor
  | 5 => form5 (fldN 32 f.f1) (fldN 32 f.f2) (fldN 32 f.f3) (fldN 6 (f.fn / 32)) (.ok (f.fn / 16 % 2 == 1)) .amoMinI
  | 6 => form5 (fldN 32 f.f1) (fldN 32 f.f2) (fldN 32 f.f3) (fldN 6 (f.fn / 32)) (.ok (f.fn / 16 % 2 == 1)) .amoMaxI
  | 7 => form5 (fldN 32 f.f1) (fldN 32 f.f2) (fldN 32 f.f3) (fldN 6 (f.fn / 32)) (.ok (f.fn / 16 % 2 == 1)) .amoMinN
  | 8 => form5 (fldN 32 f.f1) (fldN 32 f.f2) (fldN 32 f.f3) (fldN 6 (f.fn / 32)) (.ok (f.fn / 16 % 2 == 1)) .amoMaxN
  | 9 => form5 (fldN 32 f.f1) (fldN 32 f.f2) (fldN 32 f.f3) (fldN 6 (f.fn / 32)) (.ok (f.fn / 16 % 2 == 1)) .amoCas
  | 10 => form5 (fldPair 16 f.f1) (fldN 32 f.f2) (fldPair 16 f.f3) (fldN 6 (f.fn / 32)) (fld1 (f.fn / 16 % 2)) (fun d a b scope _ => .amoCas16 d a b scope)
  | _ => .error .badFunction

/-- Major 0x10 (R50 and its group table). -/
def decodeMajor10 (f : Fields) : Except Reject Instr :=
  match f.fn with
  | 0 => form3 (fld0 f.f1) (fldN 6 f.f2) (fld0 f.f3) (fun _ scope _ => .fence scope)
  | 1 => form3 (fld0 f.f1) (fldN 6 f.f2) (fld0 f.f3) (fun _ scope _ => .fenceRel scope)
  | 2 => form3 (fld0 f.f1) (fldN 6 f.f2) (fld0 f.f3) (fun _ scope _ => .fenceAcq scope)
  | _ => if f.fn < 128 then .error .badFunction else
    form4 (fld0 f.f1) (fld0 f.f2) (fld0 f.f3) (fldN 128 (f.fn - 128)) (fun _ _ _ mask => .xfence mask)

/-- Major 0x11 (R50 and its group table). -/
def decodeMajor11 (f : Fields) : Except Reject Instr :=
  match f.fn with
  | 0 => form3 (fldN 32 f.f1) (fldN 32 f.f2) (fldN 32 f.f3) .barArrive
  | 1 => form3 (fld0 f.f1) (fldN 32 f.f2) (fldN 32 f.f3) (fun _ a b => .barExpect a b)
  | 2 => form3 (fld0 f.f1) (fldN 32 f.f2) (fldN 32 f.f3) (fun _ a b => .barWait a b)
  | 3 => form3 (fldN 32 f.f1) (fldN 32 f.f2) (fldN 32 f.f3) .barTest
  | 4 => form3 (fld0 f.f1) (fldN 32 f.f2) (fldN 32 f.f3) (fun _ a b => .barInit a b)
  | _ => .error .badFunction

/-- Major 0x12 (R50 and its group table). -/
def decodeMajor12 (f : Fields) : Except Reject Instr :=
  match f.f1 with
  | 0 => form2 (fld0 f.f2) (.ok (BitVec.ofNat 14 (f.f3 * 256 + f.fn))) (fun _ off => .forkF off)
  | 1 => form2 (fld0 f.f2) (.ok (BitVec.ofNat 14 (f.f3 * 256 + f.fn))) (fun _ off => .forkX off)
  | _ => .error .badField

/-- Major 0x13 (R50 and its group table). -/
def decodeMajor13 (f : Fields) : Except Reject Instr :=
  match f.fn with
  | 0 => form3 (fld0 f.f1) (fld0 f.f2) (fld0 f.f3) (fun _ _ _ => .join)
  | 1 => form3 (fld0 f.f1) (fld0 f.f2) (fld0 f.f3) (fun _ _ _ => .exit)
  | 2 => form3 (fld0 f.f1) (fld0 f.f2) (fld0 f.f3) (fun _ _ _ => .yield)
  | 8 => form3 (fld0 f.f1) (fldN 64 f.f2) (fld0 f.f3) (fun _ k _ => .trap k)
  | 9 => form3 (fld0 f.f1) (fld0 f.f2) (fld0 f.f3) (fun _ _ _ => .tret)
  | 16 => form3 (fldN 32 f.f1) (fldN 21 f.f2) (fld0 f.f3) (fun d r _ => .gets d r)
  | 17 => form3 (fld0 f.f1) (fldN 21 f.f2) (fldN 32 f.f3) (fun _ r b => .sets r b)
  | 24 => form3 (fldN 32 f.f1) (fldN 32 f.f2) (fld0 f.f3) (fun d a _ => .launch d a)
  | _ => .error .badFunction

/-- Major 0x14 (R50 and its group table). -/
def decodeMajor14 (f : Fields) : Except Reject Instr :=
  match f.fn % 32 with
  | 0 => form4 (fldN 32 f.f1) (fldN 32 f.f2) (fldN 32 f.f3) (fld0 (f.fn / 32)) (fun d a b _ => .vsetl d a b)
  | 1 => form4 (fld0 f.f1) (fldCount f.f2) (fld0 f.f3) (fld0 (f.fn / 32)) (fun _ n _ _ => .vcfg n)
  | 2 => form4 (fldN 32 f.f1) (fldN 56 f.f2) (fldN 32 f.f3) (fld0 (f.fn / 32)) (fun d a b _ => .vtos d a b)
  | 3 => form4 (fldN 32 f.f1) (fldN 8 f.f2) (fld0 f.f3) (fld0 (f.fn / 32)) (fun d k _ _ => .mtos d k)
  | 4 => form4 (fldN 48 f.f1) (fldN 32 f.f2) (fld0 f.f3) (fld0 (f.fn / 32)) (fun d a _ _ => .vbcast d a)
  | 5 => form4 (fldN 48 f.f1) (fld0 f.f2) (fld0 f.f3) (fld0 (f.fn / 32)) (fun d _ _ _ => .vindex d)
  | _ => .error .badFunction

/-- Major 0x15 (R50 and its group table). -/
def decodeMajor15 (f : Fields) : Except Reject Instr :=
  match f.fn % 32 with
  | 0 => form4 (fldN 48 f.f1) (fldN 56 f.f2) (fldN 56 f.f3) (fldN 8 (f.fn / 32)) .vaddFloat
  | 1 => form4 (fldN 48 f.f1) (fldN 56 f.f2) (fldN 56 f.f3) (fldN 8 (f.fn / 32)) .vsubFloat
  | 2 => form4 (fldN 48 f.f1) (fldN 56 f.f2) (fldN 56 f.f3) (fldN 8 (f.fn / 32)) .vmulFloat
  | 3 => form4 (fldN 48 f.f1) (fldN 56 f.f2) (fldN 56 f.f3) (fldN 8 (f.fn / 32)) .vdiv
  | 4 => form4 (fldN 48 f.f1) (fldN 56 f.f2) (fldN 56 f.f3) (fldN 8 (f.fn / 32)) .vfma
  | 5 => form4 (fldN 48 f.f1) (fldN 56 f.f2) (fldN 56 f.f3) (fldN 8 (f.fn / 32)) .vfms
  | 6 => form4 (fldN 48 f.f1) (fldN 56 f.f2) (fldN 56 f.f3) (fldN 8 (f.fn / 32)) .vfnma
  | 7 => form4 (fldN 48 f.f1) (fldN 56 f.f2) (fldN 56 f.f3) (fldN 8 (f.fn / 32)) .vminFloat
  | 8 => form4 (fldN 48 f.f1) (fldN 56 f.f2) (fldN 56 f.f3) (fldN 8 (f.fn / 32)) .vmaxFloat
  | 9 => form4 (fldN 48 f.f1) (fldN 56 f.f2) (fld0 f.f3) (fldN 8 (f.fn / 32)) (fun d a _ m => .vabsFloat d a m)
  | 10 => form4 (fldN 48 f.f1) (fldN 56 f.f2) (fld0 f.f3) (fldN 8 (f.fn / 32)) (fun d a _ m => .vnegFloat d a m)
  | 11 => form4 (fldN 48 f.f1) (fldN 56 f.f2) (fld0 f.f3) (fldN 8 (f.fn / 32)) (fun d a _ m => .vsqrt d a m)
  | 12 => form4 (fldN 48 f.f1) (fldN 56 f.f2) (fld0 f.f3) (fldN 8 (f.fn / 32)) (fun d a _ m => .vexp2 d a m)
  | _ => .error .badFunction

/-- Major 0x16 (R50 and its group table). -/
def decodeMajor16 (f : Fields) : Except Reject Instr :=
  match f.fn % 32 with
  | 0 => form4 (fldN 48 f.f1) (fldN 56 f.f2) (fldN 56 f.f3) (fldN 8 (f.fn / 32)) .vaddInt
  | 1 => form4 (fldN 48 f.f1) (fldN 56 f.f2) (fldN 56 f.f3) (fldN 8 (f.fn / 32)) .vsubInt
  | 2 => form4 (fldN 48 f.f1) (fldN 56 f.f2) (fldN 56 f.f3) (fldN 8 (f.fn / 32)) .vmulInt
  | 3 => form4 (fldN 48 f.f1) (fldN 56 f.f2) (fldN 56 f.f3) (fldN 8 (f.fn / 32)) .vmulhi
  | 4 => form4 (fldN 48 f.f1) (fldN 56 f.f2) (fldN 56 f.f3) (fldN 8 (f.fn / 32)) .vminInt
  | 5 => form4 (fldN 48 f.f1) (fldN 56 f.f2) (fldN 56 f.f3) (fldN 8 (f.fn / 32)) .vmaxInt
  | 6 => form4 (fldN 48 f.f1) (fldN 56 f.f2) (fldN 56 f.f3) (fldN 8 (f.fn / 32)) .vaddsat
  | 7 => form4 (fldN 48 f.f1) (fldN 56 f.f2) (fldN 56 f.f3) (fldN 8 (f.fn / 32)) .vsubsat
  | 8 => form4 (fldN 48 f.f1) (fldN 56 f.f2) (fld0 f.f3) (fldN 8 (f.fn / 32)) (fun d a _ m => .vabsInt d a m)
  | 9 => form4 (fldN 48 f.f1) (fldN 56 f.f2) (fld0 f.f3) (fldN 8 (f.fn / 32)) (fun d a _ m => .vnegInt d a m)
  | 10 => form4 (fldN 48 f.f1) (fldN 56 f.f2) (fldN 56 f.f3) (fldN 8 (f.fn / 32)) .vmad
  | _ => .error .badFunction

/-- Major 0x17 (R50 and its group table). -/
def decodeMajor17 (f : Fields) : Except Reject Instr :=
  match f.fn % 32 with
  | 0 => form4 (fldN 48 f.f1) (fldN 56 f.f2) (fldN 56 f.f3) (fldN 8 (f.fn / 32)) .vand
  | 1 => form4 (fldN 48 f.f1) (fldN 56 f.f2) (fldN 56 f.f3) (fldN 8 (f.fn / 32)) .vor
  | 2 => form4 (fldN 48 f.f1) (fldN 56 f.f2) (fldN 56 f.f3) (fldN 8 (f.fn / 32)) .vxor
  | 3 => form4 (fldN 48 f.f1) (fldN 56 f.f2) (fldN 56 f.f3) (fldN 8 (f.fn / 32)) .vandn
  | 4 => form4 (fldN 48 f.f1) (fldN 56 f.f2) (fld0 f.f3) (fldN 8 (f.fn / 32)) (fun d a _ m => .vnot d a m)
  | 5 => form4 (fldN 48 f.f1) (fldN 56 f.f2) (fldN 56 f.f3) (fldN 8 (f.fn / 32)) .vsll
  | 6 => form4 (fldN 48 f.f1) (fldN 56 f.f2) (fldN 56 f.f3) (fldN 8 (f.fn / 32)) .vsrl
  | 7 => form4 (fldN 48 f.f1) (fldN 56 f.f2) (fldN 56 f.f3) (fldN 8 (f.fn / 32)) .vsra
  | _ => .error .badFunction

/-- Major 0x18 (R50 and its group table). -/
def decodeMajor18 (f : Fields) : Except Reject Instr :=
  match f.fn % 32 with
  | 0 => form4 (fldN 8 f.f1) (fldN 56 f.f2) (fldN 56 f.f3) (fldN 8 (f.fn / 32)) .vcmpEq
  | 1 => form4 (fldN 8 f.f1) (fldN 56 f.f2) (fldN 56 f.f3) (fldN 8 (f.fn / 32)) .vcmpNe
  | 2 => form4 (fldN 8 f.f1) (fldN 56 f.f2) (fldN 56 f.f3) (fldN 8 (f.fn / 32)) .vcmpLt
  | 3 => form4 (fldN 8 f.f1) (fldN 56 f.f2) (fldN 56 f.f3) (fldN 8 (f.fn / 32)) .vcmpLe
  | 8 => form4 (fldN 48 f.f1) (fldN 56 f.f2) (fldN 56 f.f3) (fldN 8 (f.fn / 32)) .vsel
  | 16 => form4 (fldN 8 f.f1) (fldN 8 f.f2) (fldN 8 f.f3) (fld0 (f.fn / 32)) (fun d a b _ => .mand d a b)
  | 17 => form4 (fldN 8 f.f1) (fldN 8 f.f2) (fldN 8 f.f3) (fld0 (f.fn / 32)) (fun d a b _ => .mor d a b)
  | 18 => form4 (fldN 8 f.f1) (fldN 8 f.f2) (fldN 8 f.f3) (fld0 (f.fn / 32)) (fun d a b _ => .mxor d a b)
  | 19 => form4 (fldN 8 f.f1) (fldN 8 f.f2) (fldN 8 f.f3) (fld0 (f.fn / 32)) (fun d a b _ => .mandn d a b)
  | 20 => form4 (fldN 8 f.f1) (fldN 8 f.f2) (fld0 f.f3) (fld0 (f.fn / 32)) (fun d a _ _ => .mnot d a)
  | _ => .error .badFunction

/-- Major 0x19 (R50 and its group table). -/
def decodeMajor19 (f : Fields) : Except Reject Instr :=
  form5 (fldN 48 f.f1) (fldN 56 f.f2) (fld0 f.f3) (fldN 8 (f.fn / 32)) (fldN 19 (f.fn % 32)) (fun d a _ m target => .vcvt d a m target)

/-- Major 0x1A (R50 and its group table). -/
def decodeMajor1A (f : Fields) : Except Reject Instr :=
  match f.fn % 32 with
  | 0 => form4 (fldN 48 f.f1) (fldN 56 f.f2) (fldN 32 f.f3) (fldN 8 (f.fn / 32)) .vlift
  | 1 => form4 (fldN 48 f.f1) (fldN 56 f.f2) (fldN 32 f.f3) (fldN 8 (f.fn / 32)) .vsink
  | 2 => form4 (fldN 48 f.f1) (fldN 56 f.f2) (fldN 56 f.f3) (fldN 8 (f.fn / 32)) .vpick
  | 3 => form4 (fldN 48 f.f1) (fldN 56 f.f2) (fld0 f.f3) (fldN 8 (f.fn / 32)) (fun d a _ k => .vpack d a k)
  | 4 => form4 (fldN 48 f.f1) (fldN 56 f.f2) (fldN 48 f.f3) (fld0 (f.fn / 32)) (fun d a b _ => .vprune d a b)
  | 5 => form4 (fldN 48 f.f1) (fldN 56 f.f2) (fldN 56 f.f3) (fldN 8 (f.fn / 32)) .vzip
  | 6 => form4 (fldN 48 f.f1) (fldN 56 f.f2) (fldN 56 f.f3) (fldN 8 (f.fn / 32)) .vunzip
  | 7 => form4 (fldN 48 f.f1) (fldN 56 f.f2) (fldN 32 f.f3) (fldN 8 (f.fn / 32)) .vliftZ
  | 8 => form4 (fldN 48 f.f1) (fldN 56 f.f2) (fldN 32 f.f3) (fldN 8 (f.fn / 32)) .vsinkZ
  | 9 => form4 (fldN 48 f.f1) (fldN 56 f.f2) (fld0 f.f3) (fldN 8 (f.fn / 32)) (fun d a _ k => .vpackK d a k)
  | _ => .error .badFunction

/-- Major 0x1B (R50 and its group table). -/
def decodeMajor1B (f : Fields) : Except Reject Instr :=
  match f.fn % 32 with
  | 0 => form4 (fldN 48 f.f1) (fldN 56 f.f2) (fld0 f.f3) (fldN 8 (f.fn / 32)) (fun d a _ m => .vfoldAdd d a m)
  | 1 => form4 (fldN 48 f.f1) (fldN 56 f.f2) (fld0 f.f3) (fldN 8 (f.fn / 32)) (fun d a _ m => .vfoldMax d a m)
  | 2 => form4 (fldN 48 f.f1) (fldN 56 f.f2) (fld0 f.f3) (fldN 8 (f.fn / 32)) (fun d a _ m => .vfoldMin d a m)
  | 3 => form4 (fldN 48 f.f1) (fldN 56 f.f2) (fld0 f.f3) (fldN 8 (f.fn / 32)) (fun d a _ m => .vfoldAnd d a m)
  | 4 => form4 (fldN 48 f.f1) (fldN 56 f.f2) (fld0 f.f3) (fldN 8 (f.fn / 32)) (fun d a _ m => .vfoldOr d a m)
  | 5 => form4 (fldN 48 f.f1) (fldN 56 f.f2) (fld0 f.f3) (fldN 8 (f.fn / 32)) (fun d a _ m => .vfoldXor d a m)
  | 6 => form4 (fldN 48 f.f1) (fldN 56 f.f2) (fld0 f.f3) (fldN 8 (f.fn / 32)) (fun d a _ m => .vfoldAmax d a m)
  | _ => .error .badFunction

/-- Major 0x1C (R50 and its group table). -/
def decodeMajor1C (f : Fields) : Except Reject Instr :=
  match f.fn % 8 with
  | 0 => form6 (fldN 56 f.f1) (fldN 32 f.f2) (fldN 64 f.f3) (fldN 8 (f.fn / 32)) (.ok (f.fn / 16 % 2 == 1)) (.ok (f.fn / 8 % 2 == 1)) .vld
  | 1 => form6 (fldN 56 f.f1) (fldN 32 f.f2) (fldN 32 f.f3) (fldN 8 (f.fn / 32)) (.ok (f.fn / 16 % 2 == 1)) (.ok (f.fn / 8 % 2 == 1)) .vlds
  | 2 => form6 (fldN 56 f.f1) (fldN 32 f.f2) (fldN 56 f.f3) (fldN 8 (f.fn / 32)) (.ok (f.fn / 16 % 2 == 1)) (.ok (f.fn / 8 % 2 == 1)) .vldx
  | 3 => form6 (fldPair 24 f.f1) (fldPair 16 f.f2) (fldN 64 f.f3) (fldN 8 (f.fn / 32)) (.ok (f.fn / 16 % 2 == 1)) (.ok (f.fn / 8 % 2 == 1)) .vldb
  | 4 => form6 (fldN 56 f.f1) (fldN 32 f.f2) (fldN 64 f.f3) (fldN 8 (f.fn / 32)) (.ok (f.fn / 16 % 2 == 1)) (.ok (f.fn / 8 % 2 == 1)) .vldSpec
  | 5 => form6 (fldN 56 f.f1) (fldN 32 f.f2) (fldN 32 f.f3) (fldN 8 (f.fn / 32)) (.ok (f.fn / 16 % 2 == 1)) (.ok (f.fn / 8 % 2 == 1)) .vldsSpec
  | 6 => form6 (fldN 56 f.f1) (fldN 32 f.f2) (fldN 56 f.f3) (fldN 8 (f.fn / 32)) (.ok (f.fn / 16 % 2 == 1)) (.ok (f.fn / 8 % 2 == 1)) .vldxSpec
  | _ => .error .badFunction

/-- Major 0x1D (R50 and its group table). -/
def decodeMajor1D (f : Fields) : Except Reject Instr :=
  match f.fn % 8 with
  | 0 => form6 (fldN 56 f.f1) (fldN 32 f.f2) (fldN 64 f.f3) (fldN 8 (f.fn / 32)) (.ok (f.fn / 16 % 2 == 1)) (.ok (f.fn / 8 % 2 == 1)) .vst
  | 1 => form6 (fldN 56 f.f1) (fldN 32 f.f2) (fldN 32 f.f3) (fldN 8 (f.fn / 32)) (.ok (f.fn / 16 % 2 == 1)) (.ok (f.fn / 8 % 2 == 1)) .vsts
  | 2 => form6 (fldN 56 f.f1) (fldN 32 f.f2) (fldN 56 f.f3) (fldN 8 (f.fn / 32)) (.ok (f.fn / 16 % 2 == 1)) (.ok (f.fn / 8 % 2 == 1)) .vstx
  | 3 => form6 (fldPair 24 f.f1) (fldPair 16 f.f2) (fldN 64 f.f3) (fldN 8 (f.fn / 32)) (.ok (f.fn / 16 % 2 == 1)) (.ok (f.fn / 8 % 2 == 1)) .vstb
  | _ => .error .badFunction

/-- Major 0x1E (R50 and its group table). -/
def decodeMajor1E (f : Fields) : Except Reject Instr :=
  match f.fn % 32 with
  | 0 => form4 (fldN 8 f.f1) (fldN 56 f.f2) (fldN 32 f.f3) (fldN 8 (f.fn / 32)) .trow
  | 1 => form4 (fldN 48 f.f1) (fldN 8 f.f2) (fldN 32 f.f3) (fldN 8 (f.fn / 32)) .tcol
  | _ => .error .badFunction

/-- Major 0x1F (R50 and its group table). -/
def decodeMajor1F (f : Fields) : Except Reject Instr :=
  match f.fn % 32 with
  | 0 => form4 (fld0 f.f1) (fld0 f.f2) (fld0 f.f3) (fld0 (f.fn / 32)) (fun _ _ _ _ => .vspec)
  | 1 => form4 (fldN 48 f.f1) (fldN 56 f.f2) (fld0 f.f3) (fldN 8 (f.fn / 32)) (fun d vs _ k => .vmerge d vs k)
  | _ => .error .badFunction

/-- Major 0x20 (R50 and its group table). -/
def decodeMajor20 (f : Fields) : Except Reject Instr :=
  match f.fn with
  | 0 => form3 (fld0 f.f1) (fld0 f.f2) (fldN 5 f.f3) (fun _ _ n => .faAttach n)
  | 1 => form3 (fld0 f.f1) (fld0 f.f2) (fldN 5 f.f3) (fun _ _ n => .faDetach n)
  | 2 => form3 (fldPair 16 f.f1) (fld0 f.f2) (fld0 f.f3) (fun p _ _ => .faCfgld p)
  | 3 => form3 (fld0 f.f1) (fld0 f.f2) (fld0 f.f3) (fun _ _ _ => .faCommit)
  | 4 => form3 (fld0 f.f1) (fld0 f.f2) (fld0 f.f3) (fun _ _ _ => .faWait)
  | _ => .error .badFunction

/-- Major 0x21 (R50 and its group table). -/
def decodeMajor21 (f : Fields) : Except Reject Instr :=
  match f.fn / 8 % 4 with
  | 0 => form6 (fldPair 16 f.f1) (fldPair 16 f.f2) (fldN 8 f.f3) (fldN 7 (f.fn / 32)) (.ok (f.fn / 4 % 2 == 1)) (fld0 (f.fn % 4)) (fun p c k blk last _ => .faStageFloat p c k blk last)
  | 1 => form6 (fldPair 16 f.f1) (fldPair 16 f.f2) (fldN 8 f.f3) (fldN 7 (f.fn / 32)) (.ok (f.fn / 4 % 2 == 1)) (fld0 (f.fn % 4)) (fun p c k blk last _ => .faStageBfp16 p c k blk last)
  | 2 => form6 (fldPair 16 f.f1) (fldPair 16 f.f2) (fldN 8 f.f3) (fldN 7 (f.fn / 32)) (.ok (f.fn / 4 % 2 == 1)) (fld0 (f.fn % 4)) (fun p c k blk last _ => .faStageMod p c k blk last)
  | _ => .error .badFunction

/-- Major 0x22 (R50 and its group table). -/
def decodeMajor22 (f : Fields) : Except Reject Instr :=
  match f.fn / 16 with
  | 0 => form4 (fldPair 16 f.f1) (fldPair 16 f.f2) (fldN 8 f.f3) (fldN 10 (f.fn % 16)) .faDense
  | 1 => form4 (fldPair 16 f.f1) (fldPair 16 f.f2) (fldN 8 f.f3) (fldN 10 (f.fn % 16)) .faSparse
  | _ => .error .badFunction

/-- Major 0x23 (R50 and its group table). -/
def decodeMajor23 (f : Fields) : Except Reject Instr :=
  match f.fn with
  | 0 => form3 (fld0 f.f1) (fldN 8 f.f2) (fldN 8 f.f3) (fun _ e k => .faPwTwid e k)
  | 1 => form3 (fldN 32 f.f1) (fld0 f.f2) (fldN 8 f.f3) (fun a _ k => .faPwScale a k)
  | 2 => form3 (fld0 f.f1) (fldN 8 f.f2) (fldN 8 f.f3) (fun _ e k => .faPwAdd e k)
  | 3 => form3 (fld0 f.f1) (fld0 f.f2) (fldN 8 f.f3) (fun _ _ k => .faPwRelu k)
  | 4 => form3 (fld0 f.f1) (fld0 f.f2) (fldN 8 f.f3) (fun _ _ k => .faPwExp2 k)
  | 5 => form3 (fld0 f.f1) (fld0 f.f2) (fldN 8 f.f3) (fun _ _ k => .faPwModred k)
  | 16 => form3 (fldN 32 f.f1) (fld0 f.f2) (fldN 8 f.f3) (fun a _ k => .faBfpStatic a k)
  | 17 => form3 (fld0 f.f1) (fld0 f.f2) (fldN 8 f.f3) (fun _ _ k => .faBfpMeas k)
  | _ => .error .badFunction

/-- Major 0x24 (R50 and its group table). -/
def decodeMajor24 (f : Fields) : Except Reject Instr :=
  match f.fn with
  | 0 => form3 (fldN 32 f.f1) (fld0 f.f2) (fld0 f.f3) (fun m _ _ => .faZero m)
  | 1 => form3 (fldPair 16 f.f1) (fldN 32 f.f2) (fldQueue f.f3) .faDrain
  | 2 => form3 (fldPair 16 f.f1) (fldN 48 f.f2) (fldQueue f.f3) .faDrainv
  | 3 => form3 (fldN 32 f.f1) (fldN 8 f.f2) (fld0 f.f3) (fun d k _ => .faAmax d k)
  | 4 => form3 (fldN 32 f.f1) (fldN 8 f.f2) (fld0 f.f3) (fun d k _ => .faAmaxFinal d k)
  | _ => .error .badFunction

/-- Major 0x25 (R50 and its group table). -/
def decodeMajor25 (f : Fields) : Except Reject Instr :=
  match f.fn with
  | 0 => form3 (fldN 32 f.f1) (fld0 f.f2) (fld0 f.f3) (fun p _ _ => .faModset p)
  | 1 => form3 (fldN 32 f.f1) (fldN 8 f.f2) (fldN 8 f.f3) .faCrt
  | _ => .error .badFunction

/-- Major 0x26 (R50 and its group table). -/
def decodeMajor26 (f : Fields) : Except Reject Instr :=
  match f.fn with
  | 0 => form3 (fldN 32 f.f1) (fld0 f.f2) (fldN 8 f.f3) (fun a _ k => .vproj a k)
  | 1 => form3 (fldN 32 f.f1) (fld0 f.f2) (fldN 8 f.f3) (fun a _ k => .vprojThresh a k)
  | 2 => form3 (fldN 32 f.f1) (fld0 f.f2) (fldN 8 f.f3) (fun a _ k => .vprojBwd a k)
  | 3 => form3 (fldPair 16 f.f1) (fldN 32 f.f2) (fldN 8 f.f3) .vpmerge
  | _ => .error .badFunction

/-- Major 0x28 (R50 and its group table). -/
def decodeMajor28 (f : Fields) : Except Reject Instr :=
  match f.fn / 16 with
  | 0 => form4 (fldPair 16 f.f1) (fldPair 16 f.f2) (fldN 32 f.f3) (fld0 (f.fn % 16)) (fun a b k _ => .cp a b k)
  | 1 => form4 (fldPair 16 f.f1) (fldPair 16 f.f2) (fldN 32 f.f3) (fld0 (f.fn % 16)) (fun a b k _ => .cpTr a b k)
  | 2 => form4 (fldPair 16 f.f1) (fldPair 16 f.f2) (fldN 32 f.f3) (fld0 (f.fn % 16)) (fun a b k _ => .cpCvt a b k)
  | 3 => form5 (fldPair 16 f.f1) (fldPair 16 f.f2) (fldN 32 f.f3) (fldN 3 (f.fn / 4 % 4)) (fldN 4 (f.fn % 4)) .cpRed
  | 4 => form5 (fldPair 16 f.f1) (fldPair 16 f.f2) (fldPair 16 f.f3) (fldN 3 (f.fn / 4 % 4)) (fldN 4 (f.fn % 4)) .cpRed2
  | _ => .error .badFunction

/-- Major 0x29 (R50 and its group table). -/
def decodeMajor29 (f : Fields) : Except Reject Instr :=
  match f.fn with
  | 0 => form3 (fldN 32 f.f1) (fld0 f.f2) (fld0 f.f3) (fun a _ _ => .cpNest a)
  | 1 => form3 (fldN 32 f.f1) (fldN 32 f.f2) (fldN 32 f.f3) .cpArm
  | 2 => form3 (fld0 f.f1) (fld0 f.f2) (fld0 f.f3) (fun _ _ _ => .cpWait)
  | 3 => form3 (fldN 32 f.f1) (fld0 f.f2) (fld0 f.f3) (fun d _ _ => .cpStat d)
  | _ => .error .badFunction

/-- Major 0x2A (R50 and its group table). -/
def decodeMajor2A (f : Fields) : Except Reject Instr :=
  match f.fn % 8 with
  | 0 => form5 (fldN 32 f.f1) (fld0 f.f2) (fld0 f.f3) (fld0 (f.fn / 16)) (.ok (f.fn / 8 % 2 == 1)) (fun a _ _ _ fp8 => .collAr a fp8)
  | 1 => form5 (fldN 32 f.f1) (fld0 f.f2) (fld0 f.f3) (fld0 (f.fn / 16)) (.ok (f.fn / 8 % 2 == 1)) (fun a _ _ _ fp8 => .collRs a fp8)
  | 2 => form5 (fldN 32 f.f1) (fld0 f.f2) (fld0 f.f3) (fld0 (f.fn / 16)) (.ok (f.fn / 8 % 2 == 1)) (fun a _ _ _ fp8 => .collAg a fp8)
  | 3 => form5 (fldN 32 f.f1) (fld0 f.f2) (fld0 f.f3) (fld0 (f.fn / 16)) (.ok (f.fn / 8 % 2 == 1)) (fun a _ _ _ fp8 => .collA2a a fp8)
  | 4 => form5 (fldN 32 f.f1) (fld0 f.f2) (fld0 f.f3) (fld0 (f.fn / 16)) (.ok (f.fn / 8 % 2 == 1)) (fun a _ _ _ fp8 => .collBc a fp8)
  | 5 => form5 (fldN 32 f.f1) (fld0 f.f2) (fld0 f.f3) (fld0 (f.fn / 16)) (.ok (f.fn / 8 % 2 == 1)) (fun a _ _ _ fp8 => .collTm a fp8)
  | _ => .error .badFunction

/-- Major 0x2C (R50 and its group table). -/
def decodeMajor2C (f : Fields) : Except Reject Instr :=
  match f.fn / 16 with
  | 0 => form4 (fldPair 16 f.f1) (fldN 56 f.f2) (fldN 48 f.f3) (fldN 6 (f.fn % 16)) .cmAdd
  | 1 => form4 (fldPair 16 f.f1) (fldN 56 f.f2) (fldN 48 f.f3) (fldN 6 (f.fn % 16)) .cmMin
  | 2 => form4 (fldPair 16 f.f1) (fldN 56 f.f2) (fldN 48 f.f3) (fldN 6 (f.fn % 16)) .cmMax
  | 3 => form4 (fldPair 16 f.f1) (fldN 56 f.f2) (fldN 48 f.f3) (fldN 4 (f.fn % 16)) .cmAnd
  | 4 => form4 (fldPair 16 f.f1) (fldN 56 f.f2) (fldN 48 f.f3) (fldN 4 (f.fn % 16)) .cmOr
  | 5 => form4 (fldPair 16 f.f1) (fldN 56 f.f2) (fldN 48 f.f3) (fldN 4 (f.fn % 16)) .cmXor
  | 6 => form4 (fldPair 16 f.f1) (fldN 56 f.f2) (fldN 48 f.f3) (fldN 6 (f.fn % 16)) .cmSwap
  | 7 => form4 (fldPair 16 f.f1) (fldN 56 f.f2) (fldPair 24 f.f3) (fldN 6 (f.fn % 16)) .cmCas
  | 8 => form4 (fldPair 16 f.f1) (fldN 48 f.f2) (fld0 f.f3) (fldN 6 (f.fn % 16)) (fun p vs _ ty => .cmEw p vs ty)
  | 9 => form4 (fldPair 16 f.f1) (fldN 32 f.f2) (fld0 f.f3) (fldN 5 (f.fn % 16)) (fun p sd _ ty => .cmRed p sd ty)
  | _ => .error .badFunction

/-- Major 0x2D (R50 and its group table). -/
def decodeMajor2D (f : Fields) : Except Reject Instr :=
  match f.fn with
  | 0 => form3 (fldPair 16 f.f1) (fldN 56 f.f2) (fldN 48 f.f3) .cmMadd
  | 1 => form3 (fldPair 16 f.f1) (fldN 56 f.f2) (fldN 48 f.f3) .cmProbe
  | _ => .error .badFunction

/-- Major 0x2E (R50 and its group table). -/
def decodeMajor2E (f : Fields) : Except Reject Instr :=
  match f.fn with
  | 0 => form3 (fldN 32 f.f1) (fldN 32 f.f2) (fld0 f.f3) (fun d a _ => .iqDecl d a)
  | 1 => form3 (fldPair 16 f.f1) (fldN 32 f.f2) (fld0 f.f3) (fun p q _ => .iqEmit p q)
  | 2 => form3 (fldN 32 f.f1) (fldN 32 f.f2) (fld0 f.f3) (fun q b _ => .iqClose q b)
  | 3 => form3 (fldN 32 f.f1) (fld0 f.f2) (fld0 f.f3) (fun q _ _ => .iqUndecl q)
  | _ => .error .badFunction

/-- Major 0x2F (R50 and its group table). -/
noncomputable def decodeMajor2F (f : Fields) : Except Reject Instr :=
  match f.fn with
  | 0 => form3 (fldPair 16 f.f1) (fldN 32 f.f2) (fld0 f.f3) (fun p q _ => .iqTake p q)
  | 1 => form3 (fldPair 16 f.f1) (fldPair 16 f.f2) (fld0 f.f3) (fun a b _ => .iqApply a b)
  | 2 => form3 (fldPair 16 f.f1) (fldPair 16 f.f2) (fld0 f.f3) (fun a b _ => .iqProbe a b)
  | 3 => form3 (fldN 32 f.f1) (fldN 32 f.f2) (fld0 f.f3) (fun g b _ => .iqQwait g b)
  | 4 => form3 (fldN 32 f.f1) (fld0 f.f2) (fld0 f.f3) (fun q _ _ => .iqDone q)
  | 5 => form3 (fldN 32 f.f1) (fldN 32 f.f2) (fld0 f.f3) (fun d q _ => .iqStat d q)
  | 6 => form3 (fldN 32 f.f1) (fldN 32 f.f2) (fld0 f.f3) (fun d q _ => .iqFront d q)
  | _ => .error .badFunction

/-- Major 0x30 (R50 and its group table). -/
noncomputable def decodeMajor30 (f : Fields) : Except Reject Instr :=
  match f.fn with
  | 0 => form3 (fldPair 16 f.f1) (fldPair 16 f.f2) (fldPair 16 f.f3) .nmSgdf
  | 1 => form3 (fldPair 16 f.f1) (fldPair 16 f.f2) (fldPair 16 f.f3) .nmAxpy
  | 2 => form3 (fldPair 16 f.f1) (fldPair 16 f.f2) (fldPair 16 f.f3) .nmScale
  | 3 => form3 (fldPair 16 f.f1) (fldPair 16 f.f2) (fldPair 16 f.f3) .nmSumsq
  | 4 => form3 (fldPair 16 f.f1) (fldPair 16 f.f2) (fldPair 16 f.f3) .nmCast
  | 5 => form3 (fldPair 16 f.f1) (fldPair 16 f.f2) (fldPair 16 f.f3) .nmFill
  | 6 => form3 (fldPair 16 f.f1) (fldPair 16 f.f2) (fldPair 16 f.f3) .nmScatadd
  | _ => .error .badFunction

/-- Major 0x31 (R50 and its group table). -/
noncomputable def decodeMajor31 (f : Fields) : Except Reject Instr :=
  match f.fn with
  | 0 => form3 (fld0 f.f1) (fld0 f.f2) (fldN 2 f.f3) (fun _ _ k => if k.val = 0 then .nmWait else .nmWaitAll)
  | 1 => form3 (fldN 32 f.f1) (fld0 f.f2) (fld0 f.f3) (fun d _ _ => .nmStat d)
  | _ => .error .badFunction

/-- Major 0x32 (R50 and its group table). -/
noncomputable def decodeMajor32 (f : Fields) : Except Reject Instr :=
  match f.fn with
  | 0 => form3 (fldN 32 f.f1) (fldN 32 f.f2) (fld0 f.f3) (fun d a _ => .stFlag d a)
  | 1 => form3 (fldN 32 f.f1) (fldN 32 f.f2) (fld0 f.f3) (fun d a _ => .stFlag32 d a)
  | 2 => form3 (fld0 f.f1) (fldN 32 f.f2) (fld0 f.f3) (fun _ a _ => .lkPref a)
  | 3 => form3 (fld0 f.f1) (fldN 32 f.f2) (fld0 f.f3) (fun _ a _ => .lkFlush a)
  | 4 => form3 (fld0 f.f1) (fldN 32 f.f2) (fld0 f.f3) (fun _ a _ => .lkInval a)
  | _ => .error .badFunction

/-- Major 0x33 (R50 and its group table). -/
noncomputable def decodeMajor33 (f : Fields) : Except Reject Instr :=
  match f.fn with
  | 0 => form3 (fldN 32 f.f1) (fldN 32 f.f2) (fldN 4 f.f3) .pcount
  | 1 => form3 (fld0 f.f1) (fldN 32 f.f2) (fld0 f.f3) (fun _ a _ => .fenceAck a)
  | 2 => form3 (fldN 32 f.f1) (fldN 32 f.f2) (fld0 f.f3) (fun d a _ => .lkStat d a)
  | _ => .error .badFunction

/-- Major 0x3E (R50 and its group table). -/
noncomputable def decodeMajor3E (f : Fields) : Except Reject Instr :=
  if f.f1 = 0 ∧ f.f2 = 0 ∧ f.f3 = 0 ∧ f.fn = 0 then .ok .nop
  else form1 (fldN 67108864 (f.f1 * 1048576 + f.f2 * 16384 + f.f3 * 256 + f.fn)) .hint

/-- R50: the major opcode selects the group; every major the map does not list is illegal. -/
noncomputable def decodeFields (f : Fields) : Except Reject Instr :=
  match f.mj with
  | 1 => decodeMajor01 f
  | 2 => decodeMajor02 f
  | 3 => decodeMajor03 f
  | 4 => decodeMajor04 f
  | 5 => decodeMajor05 f
  | 6 => decodeMajor06 f
  | 7 => decodeMajor07 f
  | 8 => decodeMajor08 f
  | 9 => decodeMajor09 f
  | 10 => decodeMajor0A f
  | 11 => decodeMajor0B f
  | 12 => decodeMajor0C f
  | 13 => decodeMajor0D f
  | 14 => decodeMajor0E f
  | 15 => decodeMajor0F f
  | 16 => decodeMajor10 f
  | 17 => decodeMajor11 f
  | 18 => decodeMajor12 f
  | 19 => decodeMajor13 f
  | 20 => decodeMajor14 f
  | 21 => decodeMajor15 f
  | 22 => decodeMajor16 f
  | 23 => decodeMajor17 f
  | 24 => decodeMajor18 f
  | 25 => decodeMajor19 f
  | 26 => decodeMajor1A f
  | 27 => decodeMajor1B f
  | 28 => decodeMajor1C f
  | 29 => decodeMajor1D f
  | 30 => decodeMajor1E f
  | 31 => decodeMajor1F f
  | 32 => decodeMajor20 f
  | 33 => decodeMajor21 f
  | 34 => decodeMajor22 f
  | 35 => decodeMajor23 f
  | 36 => decodeMajor24 f
  | 37 => decodeMajor25 f
  | 38 => decodeMajor26 f
  | 40 => decodeMajor28 f
  | 41 => decodeMajor29 f
  | 42 => decodeMajor2A f
  | 44 => decodeMajor2C f
  | 45 => decodeMajor2D f
  | 46 => decodeMajor2E f
  | 47 => decodeMajor2F f
  | 48 => decodeMajor30 f
  | 49 => decodeMajor31 f
  | 50 => decodeMajor32 f
  | 51 => decodeMajor33 f
  | 62 => decodeMajor3E f
  | _ => .error .badMajor

/-- The instruction of five fields, and whether it is well formed. (DEDUCED: log entry 11.) -/
noncomputable def decodeWord (w : Nat) : Except Reject Instr :=
  match decodeFields (unpackFields w) with
  | .error e => .error e
  | .ok i => if i.wellFormed then .ok i else .error .illFormed

/-- R43: the little-endian word of four bytes. -/
def wordOfBytes (b0 b1 b2 b3 : Byte) : Nat :=
  b0.toNat + 256 * b1.toNat + 65536 * b2.toNat + 16777216 * b3.toNat

/-- The instruction at the front of a list of bytes, with the bytes after it. -/
noncomputable def decodeBytes : List Byte → Except Reject (Instr × List Byte)
  | b0 :: b1 :: b2 :: b3 :: rest =>
    match decodeWord (wordOfBytes b0 b1 b2 b3) with
    | .ok i => .ok (i, rest)
    | .error e => .error e
  | _ => .error .shortWord

/-- The `n` low bytes of a number, least significant first (R6). -/
def bytesOfNat : Nat → Nat → List Byte
  | 0, _ => []
  | n + 1, w => BitVec.ofNat 8 w :: bytesOfNat n (w / 256)

/-- What the decoder reads from an opcode-table word of `nbits` bits: the four bytes of the word, bits above `nbits` zero. -/
noncomputable def decodeTableWord (nbits w : Nat) : Option Instr :=
  match decodeBytes (bytesOfNat 4 (w % 2 ^ nbits)) with
  | .ok (i, _) => some i
  | .error _ => none

/-- The five fields of an instruction's word, from the encoding tables R51..R59 and R63; a step of the device has no word.  -/
def encodeFields : Instr → Option Fields
  | .add d a b => some ⟨1, d.val, a.val, b.val, 0⟩
  | .sub d a b => some ⟨1, d.val, a.val, b.val, 1⟩
  | .and d a b => some ⟨1, d.val, a.val, b.val, 2⟩
  | .or d a b => some ⟨1, d.val, a.val, b.val, 3⟩
  | .xor d a b => some ⟨1, d.val, a.val, b.val, 4⟩
  | .andn d a b => some ⟨1, d.val, a.val, b.val, 5⟩
  | .sll d a b => some ⟨1, d.val, a.val, b.val, 6⟩
  | .srl d a b => some ⟨1, d.val, a.val, b.val, 7⟩
  | .sra d a b => some ⟨1, d.val, a.val, b.val, 8⟩
  | .ror d a b => some ⟨1, d.val, a.val, b.val, 9⟩
  | .sltI64 d a b => some ⟨1, d.val, a.val, b.val, 10⟩
  | .sltN64 d a b => some ⟨1, d.val, a.val, b.val, 11⟩
  | .minI64 d a b => some ⟨1, d.val, a.val, b.val, 12⟩
  | .minN64 d a b => some ⟨1, d.val, a.val, b.val, 13⟩
  | .maxI64 d a b => some ⟨1, d.val, a.val, b.val, 14⟩
  | .maxN64 d a b => some ⟨1, d.val, a.val, b.val, 15⟩
  | .clz d a => some ⟨1, d.val, a.val, 0, 16⟩
  | .ctz d a => some ⟨1, d.val, a.val, 0, 17⟩
  | .popc d a => some ⟨1, d.val, a.val, 0, 18⟩
  | .jalr d a => some ⟨1, d.val, a.val, 0, 24⟩
  | .lidx d k => some ⟨1, d.val, k.val, 0, 32⟩
  | .lbrk k => some ⟨1, 0, k.val, 0, 33⟩
  | .addi d a imm => some ⟨2, d.val, a.val, (imm.toNat / 256), (imm.toNat % 256)⟩
  | .andi d a imm => some ⟨3, d.val, a.val, (0 + imm.toNat / 256), (imm.toNat % 256)⟩
  | .ori d a imm => some ⟨3, d.val, a.val, (8 + imm.toNat / 256), (imm.toNat % 256)⟩
  | .xori d a imm => some ⟨3, d.val, a.val, (16 + imm.toNat / 256), (imm.toNat % 256)⟩
  | .sltiI64 d a imm => some ⟨3, d.val, a.val, (24 + imm.toNat / 256), (imm.toNat % 256)⟩
  | .sltiN64 d a imm => some ⟨3, d.val, a.val, (32 + imm.toNat / 256), (imm.toNat % 256)⟩
  | .slli d a sh => some ⟨3, d.val, a.val, 40, sh.val⟩
  | .srli d a sh => some ⟨3, d.val, a.val, 48, sh.val⟩
  | .srai d a sh => some ⟨3, d.val, a.val, 56, sh.val⟩
  | .lui d imm => some ⟨4, d.val, (imm.toNat / 16384), (imm.toNat / 256 % 64), (imm.toNat % 256)⟩
  | .apc d imm => some ⟨5, d.val, (imm.toNat / 16384), (imm.toNat / 256 % 64), (imm.toNat % 256)⟩
  | .mul d a b => some ⟨6, d.val, a.val, b.val, 0⟩
  | .mulhI64 d a b => some ⟨6, d.val, a.val, b.val, 1⟩
  | .mulhN64 d a b => some ⟨6, d.val, a.val, b.val, 2⟩
  | .divI64 d a b => some ⟨6, d.val, a.val, b.val, 3⟩
  | .divN64 d a b => some ⟨6, d.val, a.val, b.val, 4⟩
  | .remI64 d a b => some ⟨6, d.val, a.val, b.val, 5⟩
  | .remN64 d a b => some ⟨6, d.val, a.val, b.val, 6⟩
  | .mulI32 d a b => some ⟨6, d.val, a.val, b.val, 7⟩
  | .bfxN64 d a b => some ⟨7, d.val, a.val, b.val, 0⟩
  | .bfxI64 d a b => some ⟨7, d.val, a.val, b.val, 1⟩
  | .bfi d a b => some ⟨7, d.val, a.val, b.val, 2⟩
  | .bswap d a => some ⟨7, d.val, a.val, 0, 3⟩
  | .brev d a => some ⟨7, d.val, a.val, 0, 4⟩
  | .beq a b off => some ⟨8, a.val, b.val, (off.toNat / 256), (off.toNat % 256)⟩
  | .bne a b off => some ⟨9, a.val, b.val, (off.toNat / 256), (off.toNat % 256)⟩
  | .bltI64 a b off => some ⟨10, a.val, b.val, (off.toNat / 256), (off.toNat % 256)⟩
  | .bgeI64 a b off => some ⟨11, a.val, b.val, (off.toNat / 256), (off.toNat % 256)⟩
  | .jal off => some ⟨12, (off.toNat / 1048576), (off.toNat / 16384 % 64), (off.toNat / 256 % 64), (off.toNat % 256)⟩
  | .loop c hint e => some ⟨13, c.val, hint.val, (e.val / 256), (e.val % 256)⟩
  | .ldI8 d a off => some ⟨14, d.val, a.val, (0 + off.toNat / 256), (off.toNat % 256)⟩
  | .ldN8 d a off => some ⟨14, d.val, a.val, (4 + off.toNat / 256), (off.toNat % 256)⟩
  | .ldI16 d a off => some ⟨14, d.val, a.val, (8 + off.toNat / 256), (off.toNat % 256)⟩
  | .ldN16 d a off => some ⟨14, d.val, a.val, (12 + off.toNat / 256), (off.toNat % 256)⟩
  | .ldI32 d a off => some ⟨14, d.val, a.val, (16 + off.toNat / 256), (off.toNat % 256)⟩
  | .ldN32 d a off => some ⟨14, d.val, a.val, (20 + off.toNat / 256), (off.toNat % 256)⟩
  | .ld64 d a off => some ⟨14, d.val, a.val, (24 + off.toNat / 256), (off.toNat % 256)⟩
  | .ldAcq64 d a off => some ⟨14, d.val, a.val, (28 + off.toNat / 256), (off.toNat % 256)⟩
  | .st8 d a off => some ⟨14, d.val, a.val, (32 + off.toNat / 256), (off.toNat % 256)⟩
  | .st16 d a off => some ⟨14, d.val, a.val, (36 + off.toNat / 256), (off.toNat % 256)⟩
  | .st32 d a off => some ⟨14, d.val, a.val, (40 + off.toNat / 256), (off.toNat % 256)⟩
  | .st64 d a off => some ⟨14, d.val, a.val, (44 + off.toNat / 256), (off.toNat % 256)⟩
  | .stRel64 d a off => some ⟨14, d.val, a.val, (48 + off.toNat / 256), (off.toNat % 256)⟩
  | .ldAcqN32 d a off => some ⟨14, d.val, a.val, (52 + off.toNat / 256), (off.toNat % 256)⟩
  | .stRel32 d a off => some ⟨14, d.val, a.val, (56 + off.toNat / 256), (off.toNat % 256)⟩
  | .amoSwap d a b scope wide => some ⟨15, d.val, a.val, b.val, (32 * scope.val + 16 * wide.toNat + 0)⟩
  | .amoAdd d a b scope wide => some ⟨15, d.val, a.val, b.val, (32 * scope.val + 16 * wide.toNat + 1)⟩
  | .amoAnd d a b scope wide => some ⟨15, d.val, a.val, b.val, (32 * scope.val + 16 * wide.toNat + 2)⟩
  | .amoOr d a b scope wide => some ⟨15, d.val, a.val, b.val, (32 * scope.val + 16 * wide.toNat + 3)⟩
  | .amoXor d a b scope wide => some ⟨15, d.val, a.val, b.val, (32 * scope.val + 16 * wide.toNat + 4)⟩
  | .amoMinI d a b scope wide => some ⟨15, d.val, a.val, b.val, (32 * scope.val + 16 * wide.toNat + 5)⟩
  | .amoMaxI d a b scope wide => some ⟨15, d.val, a.val, b.val, (32 * scope.val + 16 * wide.toNat + 6)⟩
  | .amoMinN d a b scope wide => some ⟨15, d.val, a.val, b.val, (32 * scope.val + 16 * wide.toNat + 7)⟩
  | .amoMaxN d a b scope wide => some ⟨15, d.val, a.val, b.val, (32 * scope.val + 16 * wide.toNat + 8)⟩
  | .amoCas d a b scope wide => some ⟨15, d.val, a.val, b.val, (32 * scope.val + 16 * wide.toNat + 9)⟩
  | .amoCas16 d a b scope => some ⟨15, (2 * d.val), a.val, (2 * b.val), (32 * scope.val + 26)⟩
  | .fence scope => some ⟨16, 0, scope.val, 0, 0⟩
  | .fenceRel scope => some ⟨16, 0, scope.val, 0, 1⟩
  | .fenceAcq scope => some ⟨16, 0, scope.val, 0, 2⟩
  | .xfence mask => some ⟨16, 0, 0, 0, (128 + mask.val)⟩
  | .barArrive d a b => some ⟨17, d.val, a.val, b.val, 0⟩
  | .barExpect a b => some ⟨17, 0, a.val, b.val, 1⟩
  | .barWait a b => some ⟨17, 0, a.val, b.val, 2⟩
  | .barTest d a b => some ⟨17, d.val, a.val, b.val, 3⟩
  | .barInit a b => some ⟨17, 0, a.val, b.val, 4⟩
  | .forkF off => some ⟨18, 0, 0, (off.toNat / 256), (off.toNat % 256)⟩
  | .forkX off => some ⟨18, 1, 0, (off.toNat / 256), (off.toNat % 256)⟩
  | .join => some ⟨19, 0, 0, 0, 0⟩
  | .exit => some ⟨19, 0, 0, 0, 1⟩
  | .yield => some ⟨19, 0, 0, 0, 2⟩
  | .trap k => some ⟨19, 0, k.val, 0, 8⟩
  | .tret => some ⟨19, 0, 0, 0, 9⟩
  | .gets d r => some ⟨19, d.val, r.val, 0, 16⟩
  | .sets r b => some ⟨19, 0, r.val, b.val, 17⟩
  | .launch d a => some ⟨19, d.val, a.val, 0, 24⟩
  | .vsetl d a b => some ⟨20, d.val, a.val, b.val, 0⟩
  | .vcfg n => some ⟨20, 0, (countOf n), 0, 1⟩
  | .vtos d a b => some ⟨20, d.val, a.val, b.val, 2⟩
  | .mtos d k => some ⟨20, d.val, k.val, 0, 3⟩
  | .vbcast d a => some ⟨20, d.val, a.val, 0, 4⟩
  | .vindex d => some ⟨20, d.val, 0, 0, 5⟩
  | .vaddFloat d a b m => some ⟨21, d.val, a.val, b.val, (32 * m.val + 0)⟩
  | .vsubFloat d a b m => some ⟨21, d.val, a.val, b.val, (32 * m.val + 1)⟩
  | .vmulFloat d a b m => some ⟨21, d.val, a.val, b.val, (32 * m.val + 2)⟩
  | .vdiv d a b m => some ⟨21, d.val, a.val, b.val, (32 * m.val + 3)⟩
  | .vfma d a b m => some ⟨21, d.val, a.val, b.val, (32 * m.val + 4)⟩
  | .vfms d a b m => some ⟨21, d.val, a.val, b.val, (32 * m.val + 5)⟩
  | .vfnma d a b m => some ⟨21, d.val, a.val, b.val, (32 * m.val + 6)⟩
  | .vminFloat d a b m => some ⟨21, d.val, a.val, b.val, (32 * m.val + 7)⟩
  | .vmaxFloat d a b m => some ⟨21, d.val, a.val, b.val, (32 * m.val + 8)⟩
  | .vabsFloat d a m => some ⟨21, d.val, a.val, 0, (32 * m.val + 9)⟩
  | .vnegFloat d a m => some ⟨21, d.val, a.val, 0, (32 * m.val + 10)⟩
  | .vsqrt d a m => some ⟨21, d.val, a.val, 0, (32 * m.val + 11)⟩
  | .vexp2 d a m => some ⟨21, d.val, a.val, 0, (32 * m.val + 12)⟩
  | .vaddInt d a b m => some ⟨22, d.val, a.val, b.val, (32 * m.val + 0)⟩
  | .vsubInt d a b m => some ⟨22, d.val, a.val, b.val, (32 * m.val + 1)⟩
  | .vmulInt d a b m => some ⟨22, d.val, a.val, b.val, (32 * m.val + 2)⟩
  | .vmulhi d a b m => some ⟨22, d.val, a.val, b.val, (32 * m.val + 3)⟩
  | .vminInt d a b m => some ⟨22, d.val, a.val, b.val, (32 * m.val + 4)⟩
  | .vmaxInt d a b m => some ⟨22, d.val, a.val, b.val, (32 * m.val + 5)⟩
  | .vaddsat d a b m => some ⟨22, d.val, a.val, b.val, (32 * m.val + 6)⟩
  | .vsubsat d a b m => some ⟨22, d.val, a.val, b.val, (32 * m.val + 7)⟩
  | .vabsInt d a m => some ⟨22, d.val, a.val, 0, (32 * m.val + 8)⟩
  | .vnegInt d a m => some ⟨22, d.val, a.val, 0, (32 * m.val + 9)⟩
  | .vmad d a b m => some ⟨22, d.val, a.val, b.val, (32 * m.val + 10)⟩
  | .vand d a b m => some ⟨23, d.val, a.val, b.val, (32 * m.val + 0)⟩
  | .vor d a b m => some ⟨23, d.val, a.val, b.val, (32 * m.val + 1)⟩
  | .vxor d a b m => some ⟨23, d.val, a.val, b.val, (32 * m.val + 2)⟩
  | .vandn d a b m => some ⟨23, d.val, a.val, b.val, (32 * m.val + 3)⟩
  | .vnot d a m => some ⟨23, d.val, a.val, 0, (32 * m.val + 4)⟩
  | .vsll d a b m => some ⟨23, d.val, a.val, b.val, (32 * m.val + 5)⟩
  | .vsrl d a b m => some ⟨23, d.val, a.val, b.val, (32 * m.val + 6)⟩
  | .vsra d a b m => some ⟨23, d.val, a.val, b.val, (32 * m.val + 7)⟩
  | .vcmpEq k a b m => some ⟨24, k.val, a.val, b.val, (32 * m.val + 0)⟩
  | .vcmpNe k a b m => some ⟨24, k.val, a.val, b.val, (32 * m.val + 1)⟩
  | .vcmpLt k a b m => some ⟨24, k.val, a.val, b.val, (32 * m.val + 2)⟩
  | .vcmpLe k a b m => some ⟨24, k.val, a.val, b.val, (32 * m.val + 3)⟩
  | .vsel d a b k => some ⟨24, d.val, a.val, b.val, (32 * k.val + 8)⟩
  | .mand d a b => some ⟨24, d.val, a.val, b.val, 16⟩
  | .mor d a b => some ⟨24, d.val, a.val, b.val, 17⟩
  | .mxor d a b => some ⟨24, d.val, a.val, b.val, 18⟩
  | .mandn d a b => some ⟨24, d.val, a.val, b.val, 19⟩
  | .mnot d a => some ⟨24, d.val, a.val, 0, 20⟩
  | .vcvt d a m target => some ⟨25, d.val, a.val, 0, (32 * m.val + target.val)⟩
  | .vlift d a b m => some ⟨26, d.val, a.val, b.val, (32 * m.val + 0)⟩
  | .vsink d a b m => some ⟨26, d.val, a.val, b.val, (32 * m.val + 1)⟩
  | .vpick d a b m => some ⟨26, d.val, a.val, b.val, (32 * m.val + 2)⟩
  | .vpack d a k => some ⟨26, d.val, a.val, 0, (32 * k.val + 3)⟩
  | .vprune d a b => some ⟨26, d.val, a.val, b.val, 4⟩
  | .vzip d a b m => some ⟨26, d.val, a.val, b.val, (32 * m.val + 5)⟩
  | .vunzip d a b m => some ⟨26, d.val, a.val, b.val, (32 * m.val + 6)⟩
  | .vliftZ d a b m => some ⟨26, d.val, a.val, b.val, (32 * m.val + 7)⟩
  | .vsinkZ d a b m => some ⟨26, d.val, a.val, b.val, (32 * m.val + 8)⟩
  | .vpackK d a k => some ⟨26, d.val, a.val, 0, (32 * k.val + 9)⟩
  | .vfoldAdd d a m => some ⟨27, d.val, a.val, 0, (32 * m.val + 0)⟩
  | .vfoldMax d a m => some ⟨27, d.val, a.val, 0, (32 * m.val + 1)⟩
  | .vfoldMin d a m => some ⟨27, d.val, a.val, 0, (32 * m.val + 2)⟩
  | .vfoldAnd d a m => some ⟨27, d.val, a.val, 0, (32 * m.val + 3)⟩
  | .vfoldOr d a m => some ⟨27, d.val, a.val, 0, (32 * m.val + 4)⟩
  | .vfoldXor d a m => some ⟨27, d.val, a.val, 0, (32 * m.val + 5)⟩
  | .vfoldAmax d a m => some ⟨27, d.val, a.val, 0, (32 * m.val + 6)⟩
  | .vld d sb disp m ord ovt => some ⟨28, d.val, sb.val, disp.val, (32 * m.val + 16 * ord.toNat + 8 * ovt.toNat + 0)⟩
  | .vlds d sb ss m ord ovt => some ⟨28, d.val, sb.val, ss.val, (32 * m.val + 16 * ord.toNat + 8 * ovt.toNat + 1)⟩
  | .vldx d sb vi m ord ovt => some ⟨28, d.val, sb.val, vi.val, (32 * m.val + 16 * ord.toNat + 8 * ovt.toNat + 2)⟩
  | .vldb d sb disp m ord ovt => some ⟨28, (2 * d.val), (2 * sb.val), disp.val, (32 * m.val + 16 * ord.toNat + 8 * ovt.toNat + 3)⟩
  | .vldSpec d sb disp m ord ovt => some ⟨28, d.val, sb.val, disp.val, (32 * m.val + 16 * ord.toNat + 8 * ovt.toNat + 4)⟩
  | .vldsSpec d sb ss m ord ovt => some ⟨28, d.val, sb.val, ss.val, (32 * m.val + 16 * ord.toNat + 8 * ovt.toNat + 5)⟩
  | .vldxSpec d sb vi m ord ovt => some ⟨28, d.val, sb.val, vi.val, (32 * m.val + 16 * ord.toNat + 8 * ovt.toNat + 6)⟩
  | .vst vs sb disp m ord ovt => some ⟨29, vs.val, sb.val, disp.val, (32 * m.val + 16 * ord.toNat + 8 * ovt.toNat + 0)⟩
  | .vsts vs sb ss m ord ovt => some ⟨29, vs.val, sb.val, ss.val, (32 * m.val + 16 * ord.toNat + 8 * ovt.toNat + 1)⟩
  | .vstx vs sb vi m ord ovt => some ⟨29, vs.val, sb.val, vi.val, (32 * m.val + 16 * ord.toNat + 8 * ovt.toNat + 2)⟩
  | .vstb vs sb disp m ord ovt => some ⟨29, (2 * vs.val), (2 * sb.val), disp.val, (32 * m.val + 16 * ord.toNat + 8 * ovt.toNat + 3)⟩
  | .trow t a b m => some ⟨30, t.val, a.val, b.val, (32 * m.val + 0)⟩
  | .tcol d t b m => some ⟨30, d.val, t.val, b.val, (32 * m.val + 1)⟩
  | .vspec => some ⟨31, 0, 0, 0, 0⟩
  | .vmerge d vs k => some ⟨31, d.val, vs.val, 0, (32 * k.val + 1)⟩
  | .faAttach n => some ⟨32, 0, 0, n.val, 0⟩
  | .faDetach n => some ⟨32, 0, 0, n.val, 1⟩
  | .faCfgld p => some ⟨32, (2 * p.val), 0, 0, 2⟩
  | .faCommit => some ⟨32, 0, 0, 0, 3⟩
  | .faWait => some ⟨32, 0, 0, 0, 4⟩
  | .faStageFloat p c k blk last => some ⟨33, (2 * p.val), (2 * c.val), k.val, (32 * blk.val + 0 + 4 * last.toNat)⟩
  | .faStageBfp16 p c k blk last => some ⟨33, (2 * p.val), (2 * c.val), k.val, (32 * blk.val + 8 + 4 * last.toNat)⟩
  | .faStageMod p c k blk last => some ⟨33, (2 * p.val), (2 * c.val), k.val, (32 * blk.val + 16 + 4 * last.toNat)⟩
  | .faDense p c k fmt => some ⟨34, (2 * p.val), (2 * c.val), k.val, (0 + fmt.val)⟩
  | .faSparse p c k fmt => some ⟨34, (2 * p.val), (2 * c.val), k.val, (16 + fmt.val)⟩
  | .faPwTwid e k => some ⟨35, 0, e.val, k.val, 0⟩
  | .faPwScale a k => some ⟨35, a.val, 0, k.val, 1⟩
  | .faPwAdd e k => some ⟨35, 0, e.val, k.val, 2⟩
  | .faPwRelu k => some ⟨35, 0, 0, k.val, 3⟩
  | .faPwExp2 k => some ⟨35, 0, 0, k.val, 4⟩
  | .faPwModred k => some ⟨35, 0, 0, k.val, 5⟩
  | .faBfpStatic a k => some ⟨35, a.val, 0, k.val, 16⟩
  | .faBfpMeas k => some ⟨35, 0, 0, k.val, 17⟩
  | .faZero m => some ⟨36, m.val, 0, 0, 0⟩
  | .faDrain p t q => some ⟨36, (2 * p.val), t.val, (queueField q), 1⟩
  | .faDrainv p v q => some ⟨36, (2 * p.val), v.val, (queueField q), 2⟩
  | .faAmax d k => some ⟨36, d.val, k.val, 0, 3⟩
  | .faAmaxFinal d k => some ⟨36, d.val, k.val, 0, 4⟩
  | .faModset p => some ⟨37, p.val, 0, 0, 0⟩
  | .faCrt q j k => some ⟨37, q.val, j.val, k.val, 1⟩
  | .vproj a k => some ⟨38, a.val, 0, k.val, 0⟩
  | .vprojThresh a k => some ⟨38, a.val, 0, k.val, 1⟩
  | .vprojBwd a k => some ⟨38, a.val, 0, k.val, 2⟩
  | .vpmerge p c k => some ⟨38, (2 * p.val), c.val, k.val, 3⟩
  | .cp a b k => some ⟨40, (2 * a.val), (2 * b.val), k.val, 0⟩
  | .cpTr a b k => some ⟨40, (2 * a.val), (2 * b.val), k.val, 16⟩
  | .cpCvt a b k => some ⟨40, (2 * a.val), (2 * b.val), k.val, 32⟩
  | .cpRed a b k rop rty => some ⟨40, (2 * a.val), (2 * b.val), k.val, (48 + 4 * rop.val + rty.val)⟩
  | .cpRed2 a b k rop rty => some ⟨40, (2 * a.val), (2 * b.val), (2 * k.val), (64 + 4 * rop.val + rty.val)⟩
  | .cpNest a => some ⟨41, a.val, 0, 0, 0⟩
  | .cpArm a b c => some ⟨41, a.val, b.val, c.val, 1⟩
  | .cpWait => some ⟨41, 0, 0, 0, 2⟩
  | .cpStat d => some ⟨41, d.val, 0, 0, 3⟩
  | .collAr a fp8 => some ⟨42, a.val, 0, 0, (0 + 8 * fp8.toNat)⟩
  | .collRs a fp8 => some ⟨42, a.val, 0, 0, (1 + 8 * fp8.toNat)⟩
  | .collAg a fp8 => some ⟨42, a.val, 0, 0, (2 + 8 * fp8.toNat)⟩
  | .collA2a a fp8 => some ⟨42, a.val, 0, 0, (3 + 8 * fp8.toNat)⟩
  | .collBc a fp8 => some ⟨42, a.val, 0, 0, (4 + 8 * fp8.toNat)⟩
  | .collTm a fp8 => some ⟨42, a.val, 0, 0, (5 + 8 * fp8.toNat)⟩
  | .cmAdd p vi vs ty => some ⟨44, (2 * p.val), vi.val, vs.val, (0 + ty.val)⟩
  | .cmMin p vi vs ty => some ⟨44, (2 * p.val), vi.val, vs.val, (16 + ty.val)⟩
  | .cmMax p vi vs ty => some ⟨44, (2 * p.val), vi.val, vs.val, (32 + ty.val)⟩
  | .cmAnd p vi vs ty => some ⟨44, (2 * p.val), vi.val, vs.val, (48 + ty.val)⟩
  | .cmOr p vi vs ty => some ⟨44, (2 * p.val), vi.val, vs.val, (64 + ty.val)⟩
  | .cmXor p vi vs ty => some ⟨44, (2 * p.val), vi.val, vs.val, (80 + ty.val)⟩
  | .cmSwap p vi vs ty => some ⟨44, (2 * p.val), vi.val, vs.val, (96 + ty.val)⟩
  | .cmCas p vi vs ty => some ⟨44, (2 * p.val), vi.val, (2 * vs.val), (112 + ty.val)⟩
  | .cmEw p vs ty => some ⟨44, (2 * p.val), vs.val, 0, (128 + ty.val)⟩
  | .cmRed p sd ty => some ⟨44, (2 * p.val), sd.val, 0, (144 + ty.val)⟩
  | .cmMadd p vi vm => some ⟨45, (2 * p.val), vi.val, vm.val, 0⟩
  | .cmProbe p vk vr => some ⟨45, (2 * p.val), vk.val, vr.val, 1⟩
  | .iqDecl d a => some ⟨46, d.val, a.val, 0, 0⟩
  | .iqEmit p q => some ⟨46, (2 * p.val), q.val, 0, 1⟩
  | .iqClose q b => some ⟨46, q.val, b.val, 0, 2⟩
  | .iqUndecl q => some ⟨46, q.val, 0, 0, 3⟩
  | .iqTake p q => some ⟨47, (2 * p.val), q.val, 0, 0⟩
  | .iqApply a b => some ⟨47, (2 * a.val), (2 * b.val), 0, 1⟩
  | .iqProbe a b => some ⟨47, (2 * a.val), (2 * b.val), 0, 2⟩
  | .iqQwait g b => some ⟨47, g.val, b.val, 0, 3⟩
  | .iqDone q => some ⟨47, q.val, 0, 0, 4⟩
  | .iqStat d q => some ⟨47, d.val, q.val, 0, 5⟩
  | .iqFront d q => some ⟨47, d.val, q.val, 0, 6⟩
  | .nmSgdf a b g => some ⟨48, (2 * a.val), (2 * b.val), (2 * g.val), 0⟩
  | .nmAxpy a b g => some ⟨48, (2 * a.val), (2 * b.val), (2 * g.val), 1⟩
  | .nmScale a b g => some ⟨48, (2 * a.val), (2 * b.val), (2 * g.val), 2⟩
  | .nmSumsq a b g => some ⟨48, (2 * a.val), (2 * b.val), (2 * g.val), 3⟩
  | .nmCast a b g => some ⟨48, (2 * a.val), (2 * b.val), (2 * g.val), 4⟩
  | .nmFill a b g => some ⟨48, (2 * a.val), (2 * b.val), (2 * g.val), 5⟩
  | .nmScatadd a b g => some ⟨48, (2 * a.val), (2 * b.val), (2 * g.val), 6⟩
  | .nmWait => some ⟨49, 0, 0, 0, 0⟩
  | .nmWaitAll => some ⟨49, 0, 0, 1, 0⟩
  | .nmStat d => some ⟨49, d.val, 0, 0, 1⟩
  | .stFlag d a => some ⟨50, d.val, a.val, 0, 0⟩
  | .stFlag32 d a => some ⟨50, d.val, a.val, 0, 1⟩
  | .lkPref a => some ⟨50, 0, a.val, 0, 2⟩
  | .lkFlush a => some ⟨50, 0, a.val, 0, 3⟩
  | .lkInval a => some ⟨50, 0, a.val, 0, 4⟩
  | .pcount d a path => some ⟨51, d.val, a.val, path.val, 0⟩
  | .fenceAck a => some ⟨51, 0, a.val, 0, 1⟩
  | .lkStat d a => some ⟨51, d.val, a.val, 0, 2⟩
  | .nop => some ⟨62, 0, 0, 0, 0⟩
  | .hint k => some ⟨62, (k.val / 1048576), (k.val / 16384 % 64), (k.val / 256 % 64), (k.val % 256)⟩
  | .illegalInstruction _ => none
  | .instructionFetchFault _ => none
  | .engineRecordDelivery _ => none
  | .heldRecordWrite _ => none
  | .vectorStripIssue _ => none
  | .forkedProgramTake _ => none
  | .barrierCompletion _ _ => none
  | .tagSweep _ => none
  | .armedCommandFire _ _ _ => none
  | .tileDefine _ _ _ => none
  | .tileCmdRelease _ _ => none
  | .tileCmdDiscard _ _ => none
  | .tileReady _ _ => none
  | .tileDrainEnd _ _ => none
  | .tileEmptyTimeout _ => none
  | .swathBoundary => none
  | .governorWindow => none
  | .preemptRequest _ => none
  | .preemptLanding _ => none
  | .plimExpiry _ => none
  | .saveComplete _ => none
  | .slotResume _ => none
  | .slotFree _ => none
  | .bindGo _ => none
  | .bindStateReady _ => none
  | .hostQueueTake _ _ => none
  | .dependenceObserve _ _ _ => none
  | .predicateRead _ _ => none
  | .replacementMapInstall _ => none
  | .pageWalk _ _ _ => none
  | .cowCopy _ _ _ => none
  | .invcmd _ => none
  | .snapcmd _ => none
  | .scrub _ => none
  | .uncorrectableError _ => none
  | .cfgRecovery _ _ => none
  | .cfgldPreemptHold _ => none
  | .faContextExecute _ => none
  | .copyExecute _ => none
  | .collReady _ _ _ => none
  | .collStart _ _ => none
  | .collAbort _ _ _ => none
  | .nmCommandStart _ => none
  | .nmCompletion _ => none
  | .readShared _ _ => none
  | .readExclusive _ _ => none
  | .upgrade _ _ => none
  | .writeBack _ _ => none
  | .pushWrite _ => none
  | .uncachedRead _ => none
  | .remoteAtomic _ => none
  | .invalidate _ _ => none
  | .invalidateAcknowledgement _ _ => none
  | .dataResponse _ _ => none
  | .writeAcknowledgement _ => none
  | .multicastRead _ _ => none
  | .collectivePacket _ _ => none
  | .queueRecord _ => none
  | .closingMarker _ => none
  | .markerAcknowledgement _ => none
  | .hostForward _ _ => none
  | .flagRelease _ => none
  | .linkReplay _ _ => none
  | .linkDown _ _ => none
  | .linkLoss _ _ => none
  | .routerFlitDiscard _ => none
  | .lreset _ _ => none
  | .hostWrite _ _ => none
  | .hostRead _ _ => none
  | .hostAtomic _ _ _ _ _ => none
  | .hostCompletionTimeout _ => none
  | .batchDelivery _ _ => none
  | .dcapRetry _ _ => none
  | .powerRequestP _ _ => none
  | .powerRequestD1 _ => none
  | .powerRequestD2 _ => none
  | .d1Exit _ => none
  | .d2Exit _ => none
  | .thermalTrip _ => none
  | .powerOn _ => none
  | .attestationRequest _ => none
  | .attestationReport _ => none
  | .present _ => none
  | .debugTokenCheck _ => none
  | .close _ => none
  | .ownerTransition _ _ => none
  | .registerWrite _ _ => none
  | .linkUp _ _ => none
  | .powerLoss _ => none
  | .debugHalt _ => none
  | .debugStep _ => none
  | .responseOverdue _ => none
  | .hostCompletion _ _ _ => none
  | .manufacturingExit _ _ => none
  | .fusedMinimumVersionRaise _ _ => none

/-- The word of an instruction, `none` for a step of the device that is no word. -/
def encode (i : Instr) : Option Nat :=
  match encodeFields i with
  | some f => some (packFields f)
  | none => none

/-- The word of an instruction as `tval` receives it (R49, R64); zero for a step that has no word. -/
def tvalWord (i : Instr) : Word := BitVec.ofNat 64 ((encode i).getD 0)

end Sys2Proof
end

