-- ==== Sys2Proof/Machine/State.lean ====
section
/-! DEFINITION. The state of the machine: one domain of up to 256 devices (R5, R11, R330), as plain data.
Units are numbered by keys: a die is `device * 32 + die`, a cluster `die * 16 + cluster`, a core `cluster * 2 + core`,
a thread slot `core * 4 + slot` (so the low 12 bits of a thread key are its identifier of R12), a copy engine
`die * 4 + engine`. Units are held in sparse tables; a unit that a table does not list is in its reset state. -/

namespace Sys2Proof.Machine

/-- A sparse table by number. Numbers rise strictly and no entry equals the default of the table. -/
abbrev Tab (α : Type) := List (Nat × α)

/-- The six states of a thread slot (R129). -/
inductive SlotState where
  | free | bound | running | waiting | retiring | suspended
  deriving DecidableEq, Repr

/-- What the instant after the last completed instruction is for a pre-emption request (R149, R184): no landing point,
an iteration boundary of the innermost loop, a late landing point, or the completion of `yield`. -/
inductive Landing where
  | none | boundary | late | yielded
  deriving DecidableEq, Repr

/-- One active level of a loop stack (R132). -/
structure Level where
  count : BitVec 32
  index : BitVec 32
  start : Word
  stop : Word
  deriving DecidableEq, Repr

/-- A sequencer of any kind: its position (R132) and its scalar registers (R13, R46). `regs[0]` is never written. -/
structure Seq where
  pc : Word
  regs : Vector Word 32
  /-- Active levels, the outermost first. -/
  loops : List Level
  landing : Landing
  deriving DecidableEq, Repr

/-- A sequencer as a reset leaves it. -/
def Seq.init : Seq := ⟨0, Vector.replicate 32 0, [], .none⟩

/-- The cause of a fault with the value `tval` receives (R155) on the C path. -/
structure Exc where
  cause : BitVec 8
  val : Word
  deriving DecidableEq, Repr

/-- A progress record that has been written and waits to be delivered: its cause, its address and its ECLS (R143, R305). -/
structure Delivery where
  cause : BitVec 8
  addr : Word
  ecls : Nat
  /-- Flags that reach `aflags` as the record is delivered (R417). -/
  flags : BitVec 7
  deriving DecidableEq, Repr

/-- What the device does once a record is written, or when it is discarded (R148). -/
inductive RecordUse where
  /-- An ECLS 2 record: the trap of R142. -/
  | vectorTrap
  /-- An ECLS 1 record: the report of R143 with this value. -/
  | scalarReport (value : Word)
  /-- The record of an engine: a delivery of R305, with the flags that come with it (R417). -/
  | engine (flags : BitVec 7)
  /-- The record of a forked program, reported by `join` (R18). -/
  | forked (flags : BitVec 7)
  /-- A record of a pre-emption (R150) or of a kill (R131), which delivers nothing. -/
  | noReport
  deriving DecidableEq, Repr

/-- A translation cached by a TLB (R271): the leaf and the base address of its page. -/
structure TlbEntry where
  asid : BitVec 16
  va : Nat
  leaf : Word
  deriving DecidableEq, Repr

/-- A register of the vector unit or a tile register: its bits, and for each bit whether it is poisoned (R253). -/
structure PBits (n : Nat) where
  bits : BitVec n
  psn : BitVec n
  deriving DecidableEq, Repr

/-- What a bind takes from the chain of a control block (R191): the blocks of the chain, the block itself first, and the blocks
whose FDP and EVQ are the effective ones. -/
structure Home where
  chain : List Nat
  fdp : Option Nat
  evq : Option Nat
  deriving DecidableEq, Repr

/-- The chain of no region. -/
def Home.init : Home := ⟨[], none, none⟩

/-- Bytes that a vector store has gathered for one line of a peer, or of the members of an aperture (R339, R349): physical address,
length, number, the leaf they go through, and whether they are performed already (a checked page). -/
structure Gathered where
  pa : Nat
  len : Nat
  num : Nat
  leaf : Word
  done : Bool
  deriving DecidableEq, Repr

/-- One entry of the vector instruction queue (R135): the instruction with its address, the scalar operands it copied, the
configuration that held at it in program order (R214, R186), and its cursor (R259): `estart` and the done mask. -/
structure VEntry where
  instr : Instr
  pc : Word
  op0 : Word
  op1 : Word
  op2 : Word
  op3 : Word
  vtype : Word
  vl : Nat
  cur : Fin 4
  asid : BitVec 16
  rcb : Word
  rid : BitVec 20
  home : Home
  estart : Nat
  done : BitVec 256
  /-- Blocks of the window whose exponent byte has been moved (R121, R254). -/
  blks : List Nat
  /-- Bytes that a store has gathered and not sent, in the order they were stored. -/
  pushes : List Gathered
  /-- Granules that a unit-stride store has written in part, each with the bytes written (R253). -/
  stored : List (Nat × Nat)
  /-- The queue entry that a load into a queue fills (R261), and the queue entries that a reader has claimed: the queue and
  the entry's serial number (R257). -/
  target : Option Nat
  claims : List (Nat × Nat)
  /-- An element group of this entry has been performed; the flags raised so far (R103). -/
  begun : Bool
  flags : BitVec 7
  /-- A close of a batch has made its release (R370). -/
  released : Bool
  /-- A queue form is stalled at its record (R367). -/
  stalled : Bool
  /-- The base and LOGB of the arrangement, once its checks have passed (R378). -/
  arr : Option (Word × Nat)
  deriving DecidableEq, Repr

/-- One entry of a load queue (R256): the length and element width (in bits) it was loaded with, and its elements. -/
structure QEntry where
  /-- Serial number of the entry. -/
  id : Nat
  vl : Nat
  width : Nat
  data : PBits 32768
  /-- The load has brought every element. -/
  ready : Bool
  /-- The serial number of the drain that fills this entry (R425). -/
  drain : Option Nat
  deriving DecidableEq, Repr

/-- A request of a thread, or of its commands, to the host, waiting for its answer (R356): a read (`op` 0) or an AtomicOp
(1 FetchAdd, 2 Swap, 3 CAS) of `size` bytes with its operands. -/
structure HostWait where
  pa : Nat
  op : Nat
  size : Nat
  operand : Nat
  compare : Nat
  /-- The address the request carries to the host (R356). -/
  host : Nat
  /-- The answer, when it has come: its status (0 data, 2 poisoned data, 255 lost with its pair, others an error) and data. -/
  answer : Option (Nat × Nat)
  deriving DecidableEq, Repr

/-- One thread slot and the thread bound to it (R11, R129, R152). -/
structure Thread where
  st : SlotState
  /-- Handler mode (R142) and the privilege bit (R140). -/
  hm : Bool
  priv : Bool
  seq : Seq
  tvec : Word
  tepc : Word
  tcause : Word
  tval : Word
  /-- The effective fields of the bind (R203): address space, control block, its identifier, class and priority. -/
  asid : BitVec 16
  rcb : Word
  rid : BitVec 20
  cls : BitVec 4
  prio : BitVec 4
  home : Home
  /-- What the bind resolved (R70, R73): the share asked for, by the start record or else by the image, and the bytes of the frame
  area and of the spill area that lie at the addresses in s4 and s5. -/
  request : Nat
  frameBytes : Nat
  spillBytes : Nat
  /-- Serial number of this binding of the slot. -/
  bind : Nat
  /-- Race domain (0 for none) and agent index (R122). -/
  rdom : BitVec 8
  agent : BitVec 8
  /-- The start record's intake entry and the thread's index in it (R202), the ceiling VLCEIL (R194). -/
  entry : Nat
  tidx : BitVec 12
  vlceil : Nat
  share : Nat
  /-- `vtype`, `vl` and `vcfg` in program order (R75, R138, R215). -/
  vtype : Word
  vl : Nat
  cur : Fin 4
  pend : Fin 4
  pv : Bool
  aflags : BitVec 7
  clkseed : BitVec 32
  lanes : Vector (BitVec 32) 64
  vregs : Tab (PBits 262144)
  mregs : Vector (BitVec 32768) 8
  bvalid : BitVec 32768
  spec : Bool
  queues : Vector (List QEntry) 8
  vq : List VEntry
  /-- Entries parked by a trap (R142, R144). -/
  parked : List VEntry
  /-- MODEL: `false` runs the vector queue empty at each dispatch; `true` leaves its entries to the vector sequencer's
  own steps (VECTOR_STRIP_ISSUE). R135 fixes neither. -/
  vdefer : Bool
  /-- The claim of the core's tile registers (R152). -/
  tiles : Bool
  /-- Serial numbers of forked programs still running, and the records of those that faulted and no `join` reported (R18). -/
  forks : List Nat
  forkFaults : List Delivery
  /-- Records of engines waiting to be delivered (R143). -/
  deliv : List Delivery
  /-- A pre-emption request is pending; PLIM cycles have passed; it landed late (R149, R150). -/
  preq : Bool
  plim : Bool
  late : Bool
  /-- The thread's trap waits for a held record (R148), and a trap whose record was written while the slot was suspended. -/
  heldTrap : Bool
  owed : Option (RecordUse × Delivery)
  /-- Slots that must issue before this one does again, after `yield` (R184). -/
  yieldWait : List Nat
  /-- Killed (R131), and past `exit` (R19). -/
  killed : Bool
  exited : Bool
  /-- The save area that the bind restores, while the slot is bound (R204). -/
  restore : Option Word
  /-- Replacement generation the thread last observed (R207). -/
  rgen : BitVec 16
  /-- Credit of the vector sequencer and units spent this swath, both in halves of a unit (R205, R206, R221). -/
  credit : Int
  spent : Nat
  /-- The packet numbers below which a waiting `fence.ack` looks: its snapshot (R345). -/
  snap : Option Nat
  /-- A halt session has halted the thread, and it has been told to step (R473). -/
  halted : Bool
  dbgStep : Bool
  deriving DecidableEq, Repr

/-- A slot as a reset leaves it: free, every register zero. -/
def Thread.init : Thread :=
  { st := .free, hm := false, priv := false, seq := Seq.init, tvec := 0, tepc := 0, tcause := 0, tval := 0,
    asid := 0, rcb := 0, rid := 0, cls := 0, prio := 0, home := Home.init, request := 0,
    frameBytes := 0, spillBytes := 0, bind := 0, rdom := 0, agent := 0, entry := 0, tidx := 0, vlceil := 0,
    share := 1, vtype := 0, vl := 0, cur := 0, pend := 0, pv := false, aflags := 0, clkseed := 0,
    lanes := Vector.ofFn (fun i => if i.val = 0 then 1 else BitVec.ofNat 32 i.val),
    vregs := [], mregs := Vector.replicate 8 0, bvalid := 0, spec := false, queues := Vector.replicate 8 [],
    vq := [], parked := [], vdefer := false, tiles := false, forks := [], forkFaults := [], deliv := [],
    preq := false, plim := false, late := false, heldTrap := false, owed := none, yieldWait := [], killed := false, exited := false,
    restore := none, rgen := 0, credit := 0, spent := 0, snap := none,
    halted := false, dbgStep := false }

/-- The clock of one agent of a race domain (R123): its epoch and its acquired vector. -/
structure Clock where
  epoch : Nat
  acq : Vector Nat 256
  deriving DecidableEq, Repr

/-- Who issued a command or forked a program (R62, R122): the thread, the instruction's address, its address space,
region and class at issue, and its race clock then. -/
structure Issuer where
  thread : Nat
  pc : Word
  asid : BitVec 16
  rcb : Word
  rid : BitVec 20
  cls : BitVec 4
  home : Home
  /-- Serial number of the binding of the slot. -/
  bind : Nat
  rdom : BitVec 8
  agent : BitVec 8
  clock : Clock
  deriving DecidableEq, Repr

/-- A record whose queue is full, held by its engine (R148). -/
structure HeldRec where
  iss : Issuer
  record : BitVec 512
  addrs : List Word
  use : RecordUse
  deriving DecidableEq, Repr

/-- What one core holds beside its slots (R11): the fault record queue (R146..R148), the tile registers and the L1 TLB. -/
structure Core where
  fqHead : BitVec 6
  fqTail : BitVec 6
  fqBase : BitVec 45
  fqAhead : BitVec 6
  fqEn : Bool
  /-- Address entries owned by each unconsumed record, oldest first (R147). -/
  fqOwned : List Nat
  /-- Records that wait for room, in the order produced, and whether event 0x45 went out for this filling (R148). -/
  held : List HeldRec
  fullSeen : Bool
  tiles : Vector (PBits 131072) 8
  tlb : List TlbEntry
  /-- The slot that issued last, for the scalar round-robin (R206). -/
  lastSlot : Fin 4
  deriving DecidableEq, Repr

/-- A core as a reset leaves it. -/
def Core.init : Core :=
  { fqHead := 0, fqTail := 0, fqBase := 0, fqAhead := 0, fqEn := false, fqOwned := [], held := [], fullSeen := false,
    tiles := Vector.replicate 8 ⟨0, 0⟩, tlb := [], lastSlot := 0 }

/-- A forked program on a factor array context or a copy engine (R16): its sequencer, its serial number and its issuer. -/
structure Prog where
  seq : Seq
  serial : Nat
  iss : Issuer
  deriving DecidableEq, Repr

/-- A race domain (R122..R128). (DESIGN CHOICE: log entry 24.) -/
structure RaceDom where
  gen : BitVec 2
  /-- Clocks of the indices used since the last reset; an index the table does not list was never used. -/
  clocks : Tab Clock
  /-- Indices bound now, with the thread key of each. -/
  bound : Tab Nat
  exitBlock : Vector Nat 256
  /-- The sync clock area: the physical address of its first block and the log2 of its length (R124). -/
  syncBase : Nat
  syncLog : Nat
  /-- Clock blocks that agents of the domain have used, by physical address. -/
  blocks : List Nat
  pending : Bool
  /-- The reset is due and waits for tags of the generation before (R128). -/
  due : Bool
  /-- The region has been told of an epoch wait (R128). -/
  waitTold : Bool
  deriving DecidableEq, Repr

/-- A race domain as a reset leaves it. -/
def RaceDom.init : RaceDom :=
  { gen := 0, clocks := [], bound := [], exitBlock := Vector.replicate 256 0, syncBase := 0, syncLog := 0, blocks := [],
    pending := false, due := false, waitTold := false }

/-- The writer tag of a 64-byte line (R125). -/
structure Tag where
  gen : BitVec 2
  dom : BitVec 8
  agent : BitVec 8
  epoch : Nat
  deriving DecidableEq, Repr

/-- The agents whose next instruction a step may run (R61). -/
inductive Agent where
  | thread (k : Nat)
  | ctx (core : Nat)
  | engine (n : Nat)
  deriving DecidableEq, Repr

/-- What a packet on the fabric asks of its destination (R335, R341, R342, R356, R377). -/
inductive PacketKind where
  /-- A push write (type 4). -/
  | push
  /-- An ordered flag (OF = 1). -/
  | flag
  /-- A write to the host aperture, issued to the host by the bridge device. -/
  | host
  deriving DecidableEq, Repr

/-- A counted write between its SEQ and its acknowledgement (R341): its bytes are `pieces`, each a global physical address,
a length and a little-endian number, in the order they are written. (DESIGN CHOICE: log entry 58.) -/
structure Packet where
  id : Nat
  die : Nat
  dest : Nat
  path : Fin 4
  seq : BitVec 16
  epoch : BitVec 4
  kind : PacketKind
  cpath : Bool
  vpath : Bool
  /-- Who issued the write, with the address of its instruction. -/
  iss : Issuer
  pieces : List (Nat × Nat × Nat)
  /-- The write went through a leaf with PUSH = 1 (R113). -/
  ppush : Bool
  performed : Bool
  /-- The packet was discarded on its way (R352) and has not been sent again (R351). -/
  gone : Bool
  deriving DecidableEq, Repr

/-- The thread of a counted write, the serial number of its binding, and the address of its instruction. -/
def Packet.thread (p : Packet) : Nat := p.iss.thread
@[inherit_doc Packet.thread] def Packet.bind (p : Packet) : Nat := p.iss.bind
@[inherit_doc Packet.thread] def Packet.pc (p : Packet) : Word := p.iss.pc

/-- A counted write reported lost (R345, R353): its number, its thread with the binding, and the address of the record. -/
structure LostWrite where
  id : Nat
  thread : Nat
  bind : Nat
  record : Word
  deriving DecidableEq, Repr

/-- What a die keeps for one destination device (R341, R347, R352). -/
structure Pair where
  next : BitVec 16
  lost : Bool
  epoch : BitVec 4
  lostWrites : List LostWrite
  /-- SEQs that were acknowledged and follow an unacknowledged one by less than 256, for the ACK mask of R353. -/
  acked : List (BitVec 16)
  deriving DecidableEq, Repr

/-- A pair as a reset leaves it. -/
def Pair.init : Pair := ⟨0, false, 0, [], []⟩

/-- A command of a copy engine (R302): a copy word (`kind` 0, with the word's fn), a loop nest (`kind` 1) or a collective
(`kind` 2, with the word's fn). The operands and the record were read at issue. `step`, `idx` and `gran` are the cursor
(R41): the row or the loop indices, and the granule within the transfer. -/
structure CopyCmd where
  iss : Issuer
  serial : Nat
  /-- The serial number of the forked program that issued it, if one did. -/
  prog : Option Nat
  kind : Nat
  fn : Nat
  src : Word
  sctl : Word
  dst : Word
  dctl : Word
  second : Word
  /-- The barrier object's address; none for a command that names no barrier. -/
  bar : Option Word
  /-- Bytes of the nest or collective record as one little-endian number, and its group table (16-bit entries). -/
  record : Nat
  gtab : List Nat
  /-- The record could not be read at issue: its cause (R310, R317). -/
  bad : Option (BitVec 8)
  /-- The walk has begun: the checks passed and a tile destination was accepted. -/
  started : Bool
  idx : List Nat
  gran : Nat
  flags : BitVec 7
  /-- Bytes performed of the transfer at the cursor, and of the whole command. -/
  part : Nat
  done : Nat
  /-- Counted writes of the transfer, each with its granule and the bytes of the transfer before it (R320, R341). -/
  sent : List (Nat × Nat × Nat)
  /-- The lowest granule that a pair has lost with the bytes before it (R320). -/
  lost : Option (Nat × Nat)
  /-- The cause it is stopping with, and the granule, while counted writes of it are on their way (R320). -/
  stop : Option (BitVec 8 × Nat)
  /-- Bytes that a drain has supplied and the nest has not moved (R328, R425). -/
  feed : List Byte
  deriving DecidableEq, Repr

/-- A command armed on a barrier object (R26, R318): the object's physical address and the phase it waits to end. -/
structure Armed where
  obj : Nat
  phase : Bool
  fired : Bool
  cmd : CopyCmd
  deriving DecidableEq, Repr

/-- An active collective of one member (R324): its command, the members whose ready member 0 has received, the algorithm
code or table identifier of the start packet that is on its way or has come, and whether it has come. -/
structure Coll where
  cmd : CopyCmd
  ready : List Nat
  start : Option Nat
  started : Bool
  /-- Bytes of the source read so far, and their number. -/
  got : Nat
  data : Nat
  /-- What has arrived, by sending member; in route mode by table entry `i`, with the entries sent as `2 ^ 32 + i` and those
  received and placed as `2 ^ 33 + i` (R326). -/
  inbox : Tab (Option Nat)
  /-- The bytes for the destination once they are formed, and how many are written. -/
  out : Option Nat
  put : Nat
  /-- Route mode: the table as the member read it at its first use, the entry the member is at, and the bytes of that entry's
  chunk that are moved. -/
  table : Option Nat
  pos : Nat
  gran : Nat
  /-- The cause that an abort on its way to this member carries (R329). -/
  abort : Option (BitVec 8)
  deriving DecidableEq, Repr

/-- One copy engine (R302, R305). -/
structure Engine where
  queue : List CopyCmd
  armed : List Armed
  colls : List Coll
  prog : Option Prog
  deriving DecidableEq, Repr

/-- A copy engine as a reset leaves it. -/
def Engine.init : Engine := ⟨[], [], [], none⟩

/-- An accumulator tile (R399): its type code, its rows of 128 cells of 64 bits (cell `j` in bits `64j+63 : 64j`), its
sticky flags (R104) and its maximum-magnitude register. -/
structure AccTile where
  type : Fin 8
  rows : Tab (BitVec 8192)
  flags : BitVec 7
  amax : Word
  deriving DecidableEq, Repr

/-- An accumulator tile as a reset leaves it: empty (R400). -/
def AccTile.init : AccTile := ⟨0, [], 0, 0⟩

/-- A bank of the configuration store (R391, R406): the address and length it was loaded from, its bytes as one
little-endian number, its signature (R301), the BETA codes of its entries (8 for BETA8), and whether a recovery failed (R408). -/
structure Bank where
  addr : Word
  len : Nat
  data : Nat
  rid : BitVec 20
  asid : BitVec 16
  sig : BitVec 64
  beta : Vector Nat 8
  failed : Bool
  deriving DecidableEq, Repr

/-- A command of a factor array context (R395): the instruction with the operands read at issue. -/
structure FaCmd where
  iss : Issuer
  serial : Nat
  instr : Instr
  /-- The first operand pair (or single register), and the control pair. -/
  a0 : Word
  a1 : Word
  c0 : Word
  c1 : Word
  /-- Steering tokens of `fa.drainv`, four bits each, one for each tile (R35). -/
  tokens : Nat
  /-- Tile registers t0..t7 that it reads as operands (R244, R401). -/
  tileRegs : List Nat
  /-- A drain with a queue field: the tiles, by their place in the mask, that its dispatch made queue entries for, each with the
  route entry it read (R34, R425). -/
  routes : List (Nat × Nat)
  /-- Bytes of the record that the command named at issue, little-endian, or the cause that its read gave (R433). -/
  record : Nat
  bad : Option (BitVec 8)
  deriving DecidableEq, Repr

/-- An entry of a context queue (R395): a command, or the start of a forked program. -/
inductive FaItem where
  | cmd (c : FaCmd)
  | start (p : Prog)
  deriving DecidableEq, Repr

/-- A factor array context (R391, R392): its queue, its forked program, its configuration banks, its modulus with the
exponent declared with it (R418), the thread that holds the attachment, its rows and its accumulator tiles. -/
structure Ctx where
  queue : List FaItem
  prog : Option Prog
  live : Option Bank
  shadow : Option Bank
  modulus : Option (BitVec 31)
  holder : Option Nat
  rows : Nat
  acc : Vector AccTile 8
  /-- A tile that an operand read waits for, with the swath boundaries since it was first refused as empty (R30). -/
  tileWait : Option (Nat × Nat)
  /-- A load of a configuration that a thread waits for, and whether it has ended (R406). -/
  load : Option (FaCmd × Bool)
  /-- How many tiles the drain in progress has drained (R423), and the route entry that the tile in progress goes by (R34). -/
  drained : Nat
  route : Option Nat
  /-- How far the instruction in progress has come in its course over the rows (R411, R424), the tile as it was when its course began,
  and whether the nest that a drain supplies has all it needs (R328). In a projection `row` is 1 once the reads of the chunk it is at
  have been issued (R436). -/
  row : Nat
  before : Option AccTile
  fed : Bool
  /-- The load of a configuration in progress: the words copied and their bytes (R406). A kill waits for its end (R409). -/
  loading : Option (Nat × Nat)
  ending : Bool
  /-- The instruction in progress has issued; its issue has been delayed by the governor or the FAI budget, since the given serial
  number; when last tried, its tile was not ready (R30, R38, R39). -/
  issued : Bool
  stalled : Option Nat
  unready : Bool
  /-- The array instruction of the forked program that is in progress. -/
  busy : Option FaCmd
  deriving DecidableEq, Repr

/-- A context as a reset leaves it. -/
def Ctx.init : Ctx :=
  { queue := [], prog := none, live := none, shadow := none, modulus := none, holder := none, rows := 0,
    acc := Vector.replicate 8 AccTile.init, tileWait := none, load := none, drained := 0, route := none, row := 0,
    before := none, fed := false, loading := none, ending := false, issued := false,
    stalled := none, unready := false, busy := none }

/-- A record in the launch intake (R201): its 64 bytes, where it came from, the dependences observed satisfied, and the
threads of it that are bound or have ended. -/
structure Intake where
  dev : Nat
  record : BitVec 512
  /-- Dependences observed satisfied (R196), and the record ready to be bound (R197). -/
  seen : List Nat
  ready : Bool
  /-- Thread indices bound so far, and those that have freed their slots. -/
  started : List Nat
  ended : Nat
  killed : Bool
  /-- A bind of it was refused under R73. -/
  refused : Bool
  cause : BitVec 8
  /-- Serial numbers of the bindings of its threads. -/
  binds : List Nat
  /-- Dependences that dispatch reads next, and the status and cause of a completion whose signal has still to be written. -/
  look : List Nat
  ending : Option (Nat × BitVec 8)
  /-- Its image is being read (R72), and the image that the installer accepted, as a number. -/
  reading : Bool
  image : Nat
  deriving DecidableEq, Repr

/-- What a cluster holds beside its memory and its control window (R11): its TLB, the issue counts of R39, and the reads and
writes of its tiles in flight. -/
structure Cluster where
  tlb : List TlbEntry
  /-- The context that issued last (R13). -/
  lastCtx : Fin 2
  stalls : BitVec 32
  windows : BitVec 32
  /-- Factor array issues in the present governor window, and per class in the present swath. -/
  issued : Nat
  fai : Tab Nat
  /-- Tiles whose fill has accepted bytes of a writer that stopped, and nothing since (R287). -/
  unfilled : List Nat
  deriving DecidableEq, Repr

/-- A cluster as a reset leaves it. -/
def Cluster.init : Cluster := ⟨[], 0, 0, 0, 0, [], []⟩

/-- A near-memory command (R452..R457): its operands, its gate (the object's physical address and the phase it waits to
end), the instant its gate fired (0 for not yet), the counter value it started with, and how it ended. -/
structure NmCmd where
  iss : Issuer
  serial : Nat
  op : Nat
  a : Word
  a1 : Word
  b : Word
  b1 : Word
  g : Word
  g1 : Word
  /-- The gate field of the word was zero: no gate and no completion barrier (R452). -/
  plain : Bool
  gate : Option (Nat × Bool)
  firedAt : Nat
  /-- It holds an entry of the gate table, and its firing has reached the engine (R26, R450). -/
  slot : Bool
  ready : Bool
  /-- The coefficients of `nm.sgdf`, `f` in the low 32 bits and `h` above (R456). -/
  coef : Nat
  number : BitVec 32
  gran : Nat
  done : Nat
  flags : BitVec 7
  /-- Lines written, by physical address (R459). -/
  wrote : List Nat
  /-- How it stopped: the cause, and the ATC value of its record (R462). -/
  stop : Option (BitVec 8 × Nat)
  deriving DecidableEq, Repr

/-- The near-memory engine of a stack (R449): its queue, its gate table, the command it has carried out and not yet
completed, and its counter. -/
structure Nm where
  queue : List NmCmd
  gates : List NmCmd
  active : Option NmCmd
  count : BitVec 32
  deriving DecidableEq, Repr

/-- A near-memory engine as a reset leaves it. -/
def Nm.init : Nm := ⟨[], [], none, 0⟩

/-- A record that the hayrake or a route queue holds (R372, R386): its producer slot (in a retained copy, its tag), its
batch, its 32 bytes and its poison. -/
structure IqRec where
  slot : Nat
  batch : BitVec 16
  data : BitVec 256
  psn : Bool
  deriving DecidableEq, Repr

/-- A staging set (R386, R387): records of one producer slot and batch that come from a route queue (its die, its number,
the epoch of its packets), and the count its marker brought. -/
structure IqStage where
  slot : Nat
  batch : BitVec 16
  die : Nat
  queue : Nat
  epoch : BitVec 4
  recs : List IqRec
  need : Option Nat
  deriving DecidableEq, Repr

/-- A closing marker that a route queue has still to see acknowledged (R387): its batch, the destination's handle and
producer slot. -/
structure IqMark where
  batch : BitVec 16
  handle : BitVec 21
  slot : Nat
  deriving DecidableEq, Repr

/-- A declared queue (R361..R365): what its declaration block gave, and where it stands. The read-only fields of the block
in memory follow this. -/
structure Iq where
  /-- Physical address of the declaration block, and the declaring thread. -/
  qdr : Nat
  iss : Issuer
  cons : Bool
  kbytes : Nat
  vbytes : Nat
  nprod : Nat
  qix : Nat
  /-- The graph descriptor: its physical and its virtual address (R382). -/
  gdesc : Option (Nat × Word)
  /-- Route tags; none in a delivery queue (R363). -/
  tags : List Word
  front : BitVec 16
  qthru : BitVec 16
  nextd : BitVec 16
  avail : Bool
  held : Bool
  qstate : Nat
  need : Nat
  pend : Nat
  satcnt : Nat
  /-- The batches of the window that each slot has closed (R370). -/
  closed : List (Nat × BitVec 16)
  /-- Records accepted for delivery, in the order they were accepted, and the staging sets. -/
  recs : List IqRec
  stages : List IqStage
  /-- The thread that holds the batch, with its binding, and whether it has dispatched an `iq.done` since its take. -/
  holder : Option (Nat × Nat)
  doneSent : Bool
  /-- Records of the batch delivered. -/
  n : Nat
  /-- The retained copy of a route queue, in emission order, and the markers sent and not acknowledged. -/
  kept : List IqRec
  marks : List IqMark
  /-- A refused delivery is to be tried again at the next swath boundary (R374). -/
  retry : Bool
  /-- The sets of a route queue that their destinations have refused (R386): handle, producer slot and batch. -/
  refused : List (BitVec 21 × Nat × BitVec 16)
  deriving DecidableEq, Repr

/-- The packets between a route queue and a destination queue (R386, R387). -/
inductive IqKind where
  | record (rec : IqRec)
  | marker (count : Nat)
  | ack
  deriving DecidableEq, Repr

/-- A record, a closing marker or its acknowledgement on its way: the route queue (its die and number), the destination
(its handle and producer slot), the batch, the virtual channel and the epoch. -/
structure IqPacket where
  id : Nat
  die : Nat
  queue : Nat
  handle : BitVec 21
  slot : Nat
  batch : BitVec 16
  vc : Nat
  epoch : BitVec 4
  kind : IqKind
  /-- A router discarded it (R335), and it has not been sent again (R351). -/
  gone : Bool
  deriving DecidableEq, Repr

/-- What a device keeps beside its control windows (R468..R478): the firmware that runs, by the hash of its body, its image
and the always-on hash; boots and exits from D2; the identity key pair; the owner key's hash; the open token's hash and its
regions; the P-state before D1; the token being checked; the report being formed; and whether it has power. -/
structure Device where
  running : Option (BitVec 512)
  /-- The bytes of the running firmware's image and whether the vendor signed it (R468). -/
  imageLen : Nat
  signed : Bool
  awake : BitVec 512
  boots : BitVec 64
  d2x : BitVec 64
  /-- The identity private key, where it was generated in the model (R469); otherwise the one the device was shipped with. -/
  idseed : Option (BitVec 256)
  ownh : BitVec 512
  owner : BitVec 256
  minver : BitVec 32
  sec : Fin 3
  tokh : BitVec 512
  rids : List (BitVec 20)
  prior : Nat
  pending : Option Nat
  /-- A thermal trip waits for the next swath boundary (R478). -/
  trip : Bool
  token : Option (BitVec 1280)
  report : Option (BitVec 2752)
  off : Bool
  deriving DecidableEq, Repr

/-- A device as shipped, after a power-on reset and before its boot: Locked. -/
def Device.init : Device :=
  { running := none, imageLen := 0, signed := false, awake := 0, boots := 0, d2x := 0, idseed := none, ownh := 0, owner := 0, minver := 0,
    sec := 0, tokh := 0, rids := [], prior := 0, pending := none, trip := false, token := none, report := none, off := false }

/-- The states of a line in a requester's LLC (R337); I is not listed. -/
inductive LineState where
  | shared | exclusive | modified
  deriving DecidableEq, Repr

/-- A copy of an HBM line in an LLC (R337). `stale` holds the bytes of a copy that a near-memory write has left behind
(R459), as a little-endian number; other copies hold what memory holds. `dirty` marks the bytes that the holder of an M copy has
stored. -/
structure LlcLine where
  st : LineState
  stale : Option (BitVec 512)
  dirty : BitVec 64
  deriving DecidableEq, Repr

/-- The requests of R337 that need the copies of a line gone or returned first. -/
inductive DirReq where
  | readShared | readExclusive | upgrade
  deriving DecidableEq, Repr

/-- A directory entry (R337, R338): the owner or the sharers, each a die key, the overflow bit with its row mask, the request
being served, and the dies whose acknowledgement it waits for. -/
structure DirEntry where
  owner : Option Nat
  sharers : List Nat
  overflow : Bool
  rows : BitVec 16
  req : Option (DirReq × Nat)
  acks : List Nat
  /-- Requests that arrived while another was served, in arrival order. -/
  queue : List (DirReq × Nat)
  deriving DecidableEq, Repr

/-- A directory entry in state U. -/
def DirEntry.init : DirEntry := ⟨none, [], false, 0, none, [], []⟩

/-- What an access that missed asks for (R272, R337): the leaf of a page in the TLBs of a core and its cluster, or a copy of a
line in the LLC of a die. -/
inductive Miss where
  | walk (core : Nat) (asid : BitVec 16) (va : Nat)
  | line (die line : Nat)
  deriving DecidableEq, Repr

/-- A request of the host, or of a management core (`mgmt`): a write, a read, or an AtomicOp (1 FetchAdd, 2 Swap, 3 CAS) (R355, R357). -/
inductive Request where
  | write (mgmt : Bool) (pa : Nat) (bytes : List (BitVec 8))
  | read (pa : Nat) (n : Nat)
  | atomic (op : Nat) (wide : Bool) (pa : Nat) (operand : BitVec 64) (compare : BitVec 64)
  deriving DecidableEq, Repr

/-- An installed image (R71): its address space, the address of its image, its load base, and its sections: their names and
kinds and the addresses and lengths they were placed at. -/
structure Installed where
  asid : BitVec 16
  image : Nat
  base : Nat
  sections : List (Nat × Nat × Nat × Nat)
  deriving DecidableEq, Repr

/-- What R153 has no room for in a saved thread: the entries of its vector queue as they stand, parked ones apart, and the names and
shapes of the entries of its load queues, each with its queue. (DESIGN CHOICE: log entry 40.) -/
structure SavedQueue where
  parked : List VEntry
  vq : List VEntry
  queues : List (Nat × QEntry)
  deriving DecidableEq, Repr

/-- The whole machine. (DESIGN CHOICE: log entry 4.) -/
structure State where
  threads : Tab Thread
  cores : Tab Core
  clusters : Tab Cluster
  ctxs : Tab Ctx
  engines : Tab Engine
  nms : Tab Nm
  /-- Copies in LLCs, by `die * 2 ^ 46 + line`, and directory entries, by line (R337). -/
  llc : Tab (Option LlcLine)
  dir : Tab DirEntry
  /-- Links that are down, by `device * 32 + port` (R351). -/
  linksDown : List Nat
  /-- Retries of each link, by `device * 32 + port`, and the loss log of each die with the entries written (R347, R353). -/
  retries : Tab Nat
  /-- Links in a link-level replay, by `device * 32 + port` (R347). -/
  replaying : List Nat
  lossLog : Tab (List Word)
  lossCount : Tab Nat
  /-- Declared queues, by `die * 256 + number`, their packets in flight in the order they were sent, and the cycles each
  hayrake has kept an acceptance waiting (R361, R372, R386). -/
  iqs : Tab (Option Iq)
  iqPackets : List IqPacket
  hayStalls : Tab Nat
  /-- Devices (R468..R478), and completions issued to the host for its own reads (R357). -/
  devices : Tab Device
  hostReplies : List (Nat × List (BitVec 8))
  /-- Requests to the host that have no answer yet or one not yet taken, by requester: a thread slot `k`, the context of core
  `c` as `2 ^ 21 + c`, the copy engine `n` as `2 ^ 22 + n`, dispatch on device `d` as `2 ^ 23 + d`, the vector unit for slot `k` as
  `2 ^ 24 + k` (R356). -/
  hostReqs : Tab (List HostWait)
  /-- Writes sent to the host, in the order they were issued to it (R356). -/
  hostOut : List (Nat × List Byte)
  /-- Pages whose copy a stalled write waits for (R276): the die, the address space, the address. -/
  cows : List (Nat × BitVec 16 × Nat)
  /-- Misses whose fills are due (R272, R337). (DESIGN CHOICE: log entry 60.) -/
  misses : List Miss
  /-- Images installed (R71). -/
  installed : List Installed
  /-- The packet numbers, plus one, below which a running invalidation or snapshot of a die waits for writes (R273, R277), and the
  requests of the host and of management cores that a busy command register keeps waiting, in the order they came (R274). -/
  invWaits : Tab Nat
  snapWaits : Tab Nat
  waiting : List Request
  domains : Tab RaceDom
  /-- Checked leaves that accesses of each die have come through, with the pages they map (R125). (DESIGN CHOICE: log entry 66.) -/
  checked : Tab (List TlbEntry)
  /-- Regions whose fault-domain policy a discarded record has brought and that is still to be applied: the fields of the bind and the
  control block (R148, R192). -/
  policies : List (Home × Word)
  /-- Aborts of collectives that members have yet to issue (R329): the device of the member, TAG, the group and the cause. -/
  aborts : List (Nat × Nat × List Nat × BitVec 8)
  intake : Tab Intake
  /-- Host queue that each device serves next (R199), and the replacement maps installed, by control block (R207): OLD, NEW
  and the word read at NEW. -/
  hqNext : Tab Nat
  maps : Tab (List (Word × Word × BitVec 32))
  /-- Address spaces that regions have had threads bound in, by die (R475), and the save areas that states have been saved to: address, bytes and region
  (R149, R475). (DEDUCED: log entry 33.) -/
  spaces : List (Nat × BitVec 16 × BitVec 20)
  saves : List (Nat × Nat × BitVec 20)
  /-- Contexts and engines that a halt session has halted, those of them told to step, and what a session has read, in order (R473). -/
  halts : List Nat
  steps : List Nat
  debugOut : List Word
  /-- Fabric state: pairs by `die * 256 + destination`, and counted writes in flight in the order they were sent. -/
  pairs : Tab Pair
  packets : List Packet
  /-- The die queues of forked copy programs (R16), by die. -/
  forkQs : Tab (List Prog)
  /-- Memory (R6, R106) in canonical form, the poisoned 64-byte granules (R299) and those with a latent uncorrectable error
  (R300), the writer tags of lines (R125). -/
  mem : List Host.Cell
  poison : List Nat
  latent : List Nat
  tags : Tab Tag
  /-- Barrier objects the device has been told of, and the agents that arrived in the present phase of each (R22, R128). -/
  barriers : List Nat
  arrivals : Tab (List Nat)
  /-- Swaths since reset (R193) and governor windows in the present swath. -/
  swath : BitVec 64
  /-- Serial numbers of forked programs, commands and packets given so far. -/
  serial : Nat
  /-- MODEL: what the save area of a saved thread has no room for, by its physical address. -/
  savedVq : Tab SavedQueue
  /-- MODEL: how many open values have been drawn from `Config.freeValue`. -/
  fresh : Nat
  /-- MODEL: the agent whose instruction the meanings act on, the steps of the device and its surroundings that come
  next, the agents whose turn comes next, and whether the device's own engines have the next turn. -/
  cur : Agent
  agenda : List Instr
  turns : List Agent
  engTurn : Bool
  deriving DecidableEq, Repr

/-- Why a step stops the machine. -/
inductive Fault where
  /-- Raised by a step of the device that names a unit, entry, packet or thread that does not exist. Safe: no such step
  takes place in the hardware. -/
  | noSuchUnit
  deriving DecidableEq, Repr

/-- Why a step has no meaning. -/
inductive Refusal where
  /-- Raised by the dispatch for an instruction that the model does not give a meaning. Safe: the machine stops. -/
  | notModelled (mnemonic : String)
  deriving DecidableEq, Repr

/-- The outcome of a step of this machine. -/
abbrev Out := Host.Outcome State Fault Refusal

/-- The machine right after a power-on reset: every slot free, every queue empty, nothing written in memory. -/
def State.reset : State :=
  { threads := [], cores := [], clusters := [], ctxs := [], engines := [], nms := [], llc := [], dir := [], linksDown := [], retries := [], replaying := [],
    lossLog := [], lossCount := [], iqs := [], iqPackets := [], hayStalls := [], devices := [], hostReplies := [], hostReqs := [], hostOut := [], cows := [],
    misses := [], installed := [], invWaits := [], snapWaits := [], waiting := [], domains := [], checked := [], policies := [], aborts := [], intake := [], hqNext := [], maps := [], spaces := [], saves := [], halts := [], steps := [], debugOut := [], pairs := [], packets := [], forkQs := [], mem := [], poison := [], latent := [], tags := [],
    barriers := [], arrivals := [], swath := 0, serial := 0, savedVq := [], fresh := 0, cur := .thread 0, agenda := [], turns := [],
    engTurn := false }

end Sys2Proof.Machine
end

