-- ==== Sys2Proof/Machine/Tab.lean ====
section
/-! DEFINITION. Reading and writing the sparse tables of State. -/

namespace Sys2Proof.Machine

/-- The entry of a table, or its default. -/
def tabGet {α : Type} (d : α) : Tab α → Nat → α
  | [], _ => d
  | (k', v) :: t, k => if k = k' then v else tabGet d t k

/-- The table with an entry listed. -/
def tabInsert {α : Type} (k : Nat) (v : α) : Tab α → Tab α
  | [] => [(k, v)]
  | (k', v') :: t =>
    if k < k' then (k, v) :: (k', v') :: t
    else if k = k' then (k, v) :: t
    else (k', v') :: tabInsert k v t

/-- The table without an entry. -/
def tabErase {α : Type} (k : Nat) (t : Tab α) : Tab α := t.filter (fun p => p.1 != k)

/-- The table with an entry written; writing the default removes the entry. -/
def tabSet {α : Type} [DecidableEq α] (d : α) (t : Tab α) (k : Nat) (v : α) : Tab α :=
  if v = d then tabErase k t else tabInsert k v t

/-- Insert into a strictly rising list of numbers. -/
def setInsert (k : Nat) : List Nat → List Nat
  | [] => [k]
  | a :: t => if k < a then k :: a :: t else if k = a then a :: t else a :: setInsert k t

/-- Remove from a list of numbers. -/
def setErase (k : Nat) (l : List Nat) : List Nat := l.filter (· != k)

end Sys2Proof.Machine
end

