-- ==== Sys2Proof/Machine/Mem.lean ====
section
/-! DEFINITION. The physical memory of the domain: the address map (R5, R106), the bytes, the poisoned granules, and what a
byte that nothing has written reads as. -/

namespace Sys2Proof.Machine

/-- The device of a physical address, bits 51:44 (R5). -/
def devOf (pa : Nat) : Nat := pa / 0x100000000000 % 256

/-- The device-local part of a physical address, bits 43:0 (R5). -/
def localOf (pa : Nat) : Nat := pa % 0x100000000000

/-- The kinds of memory of R106; dies and clusters are numbered within the device. -/
inductive Place where
  | hbm (die : Nat)
  | hostAperture
  | scratchpad (die cluster : Nat)
  | clusterWindow (die cluster : Nat)
  | common (die : Nat)
  | dieWindow (die : Nat)
  | hole
  deriving DecidableEq, Repr

/-- R106: what lies at a physical address. -/
def placeOf (pa : Nat) : Place :=
  let a := localOf pa
  if a < 0x18000000000 then
    if a % 0x1000000000 < 0xEE6B28000 then .hbm (a / 0x1000000000) else .hole
  else if a < 0x80000000000 then .hole
  else if a < 0xC0000000000 then (if devOf pa % 16 = 0 then .hostAperture else .hole)
  else if a < 0xF0000000000 then .hole
  else
    let d := (a - 0xF0000000000) / 0x40000000
    let o := (a - 0xF0000000000) % 0x40000000
    if 24 ≤ d then .hole
    else if o < 0x8000000 then
      if o % 0x800000 < 0x400000 then .scratchpad d (o / 0x800000) else .clusterWindow d (o / 0x800000)
    else if o < 0x10000000 then .hole
    else if o < 0x12000000 then .common d
    else if o < 0x20000000 then .hole
    else if o < 0x30000000 then .dieWindow d
    else .hole

/-- The key of a die from the device and the number within it. -/
def dieKey (dev die : Nat) : Nat := dev * 32 + die

/-- The physical address of the first byte of a die's own 1 GiB window, `D` of R106. -/
def dieBase (dk : Nat) : Nat := (dk / 32) * 0x100000000000 + 0xF0000000000 + (dk % 32) * 0x40000000

/-- The base address of a die's control window. -/
def windowBase (dk : Nat) : Nat := dieBase dk + 0x20000000

/-- The base address of a die's common memory (R288). -/
def commonBase (dk : Nat) : Nat := dieBase dk + 0x10000000

/-- The base address of a cluster's scratchpad (R106); `ck` is a cluster key. -/
def scratchBase (ck : Nat) : Nat := dieBase (ck / 16) + (ck % 16) * 0x800000

/-- The base address of a cluster's control window (R33). -/
def clusterWindowBase (ck : Nat) : Nat := scratchBase ck + 0x400000

/-- The little-endian byte `i` of a number. -/
def byteOf (v i : Nat) : Byte := BitVec.ofNat 8 (v / 256 ^ i)

/-- The reset value of a byte of the die control window at offset `o` (R37, R325, R334, R467): the registers whose reset
value is not zero. A vector of the MSI-X table (R358) is masked, as PCIe resets it. (PRESUMED: log entry 28.) -/
def windowResetByte (o : Nat) : Byte :=
  if 0x8 ≤ o ∧ o < 0x10 then byteOf 8192 (o - 0x8)
  else if 0x10000 ≤ o ∧ o < 0x10100 then byteOf 0x1FFFFFFFFFFFFFFFFFFFFFFFFF (o % 16)
  else if 0x400000 ≤ o ∧ o < 0x400280 then 3
  else if 0x500080 ≤ o ∧ o < 0x500088 then byteOf 0x100000 (o - 0x500080)
  else if 0x5000A0 ≤ o ∧ o < 0x5000A8 then byteOf 0xFFFFFFFF (o - 0x5000A0)
  else if 0x700000 ≤ o ∧ o < 0x700400 ∧ o % 16 = 12 then 1
  else 0

/-- R470, R473: the reset value of a byte of IDPUB or DNONCE, at offset `o` of die 0's control window: the identity public key, and a
fresh nonce, whose value is open. -/
def keyResetByte (dev o : Nat) : Byte :=
  if o < 0xB00000 then byteOf (ed25519Public (Config.identitySeed dev)).toNat (o - 0xA00020)
  else byteOf (Config.resetNonce dev).toNat (o - 0xB00020)

/-- What a byte that nothing has written reads as: the reset value of the memory-mapped registers that have one, and zero
elsewhere, where the spec states no contents. (DESIGN CHOICE: log entry 1.) -/
def resetByte (pa : Nat) : Byte :=
  match placeOf pa with
  | .dieWindow k =>
    let o := localOf pa % 0x10000000
    if k = 0 ∧ ((0xA00020 ≤ o ∧ o < 0xA00040) ∨ (0xB00020 ≤ o ∧ o < 0xB00040)) then keyResetByte (devOf pa) o else windowResetByte o
  | _ => 0

/-- The byte at an address of a memory. -/
def cellGet : List Host.Cell → Nat → Byte
  | [], a => resetByte a
  | (k, b) :: m, a => if a = k then b else cellGet m a

/-- A memory with one byte listed. -/
def cellInsert (a : Nat) (b : Byte) : List Host.Cell → List Host.Cell
  | [] => [(a, b)]
  | (k, c) :: m =>
    if a < k then (a, b) :: (k, c) :: m
    else if a = k then (a, b) :: m
    else (k, c) :: cellInsert a b m

/-- A memory with one byte written, in canonical form: the value of an unlisted byte is not listed. -/
def cellSet (a : Nat) (b : Byte) (m : List Host.Cell) : List Host.Cell :=
  if b = resetByte a then m.filter (fun c => c.1 != a) else cellInsert a b m

/-- The canonical form below a first address: addresses rise strictly, and no entry equals what an unlisted address reads. -/
def cellsFrom (lo : Nat) : List Host.Cell → Bool
  | [] => true
  | (k, b) :: m => decide (lo ≤ k) && decide (b ≠ resetByte k) && cellsFrom (k + 1) m

/-- The canonical form of memory. -/
def Memory.wf (m : List Host.Cell) : Bool := cellsFrom 0 m

/-- The number in `n` bytes from an address, least significant byte first (R6). -/
def cellsRead (m : List Host.Cell) (a : Nat) : Nat → Nat
  | 0 => 0
  | n + 1 => (cellGet m a).toNat + 256 * cellsRead m (a + 1) n

/-- Write the `n` low bytes of a number from an address, least significant byte first (R6). -/
def cellsWrite (m : List Host.Cell) (a : Nat) : Nat → Nat → List Host.Cell
  | 0, _ => m
  | n + 1, v => cellsWrite (cellSet a (BitVec.ofNat 8 v) m) (a + 1) n (v / 256)

/-- A byte of the domain's memory. -/
def readByte (s : State) (pa : Nat) : Byte := cellGet s.mem pa

/-- The number in `n` bytes of memory. -/
def readMem (s : State) (pa n : Nat) : Nat := cellsRead s.mem pa n

/-- R8: the bits of a byte of the cluster and die control windows that software reads: reserved fields of a route table entry
(R33), of a bind record (R202) and of a group table entry (R348) read as zero, whatever was written there. -/
def readable (pa : Nat) : Byte :=
  match placeOf pa with
  | .clusterWindow _ _ =>
    let o := localOf pa % 0x800000 - 0x400000
    if o < 0x200 then byteOf 0x01FFFFFFFFFFFFFF01FFFFFFFFFFFFFF00000000FFFF3F07 (o % 32) else 0xFF
  | .dieWindow _ =>
    let o := localOf pa % 0x10000000
    if 0x200000 ≤ o ∧ o < 0x202000 then byteOf (0xF * 2 ^ 256 + (2 ^ 256 - 2 ^ 64) + 0xFF7FFFFFFF) (o % 64)
    else if 0x600000 ≤ o ∧ o < 0x604000 then byteOf (2 ^ 263 - 1) (o % 64)
    else 0xFF
  | _ => 0xFF

/-- The number that software reads in `n` bytes (R8). -/
def readVisible (s : State) (pa : Nat) : Nat → Nat
  | 0 => 0
  | n + 1 => (readByte s pa &&& readable pa).toNat + 256 * readVisible s (pa + 1) n

/-- Memory with the `n` low bytes of a number written. -/
def writeMem (s : State) (pa n v : Nat) : State := { s with mem := cellsWrite s.mem pa n v }

/-- Some 64-byte granule of the `n` bytes from `pa` is poisoned (R169), or holds a latent uncorrectable error, which a read
finds (R300). -/
def poisoned (s : State) (pa n : Nat) : Bool :=
  (s.poison ++ s.latent).any (fun g => decide (pa < 64 * (g + 1)) && decide (64 * g < pa + n))

/-- Poison the granule that holds an address. -/
def poisonAt (s : State) (pa : Nat) : State := { s with poison := setInsert (pa / 64) s.poison }

/-- R169, R253: a write of `n` bytes from `pa` clears the poison of the granules of which it writes every byte. -/
def clearPoison (s : State) (pa n : Nat) : State :=
  let keep := fun (g : Nat) => !(decide (pa ≤ 64 * g) && decide (64 * (g + 1) ≤ pa + n))
  { s with poison := s.poison.filter keep, latent := s.latent.filter keep }

/-- The stored bytes of a write: memory, with the poison of wholly written granules cleared. -/
def storeMem (s : State) (pa n v : Nat) : State := clearPoison (writeMem s pa n v) pa n

/-- Bits `hi:lo` of a number. -/
def bitsOf (v hi lo : Nat) : Nat := v / 2 ^ lo % 2 ^ (hi + 1 - lo)

/-- A number with bits `hi:lo` replaced. -/
def setBits (v hi lo x : Nat) : Nat :=
  v - bitsOf v hi lo * 2 ^ lo + (x % 2 ^ (hi + 1 - lo)) * 2 ^ lo

end Sys2Proof.Machine
end

