-- ==== Sys2Proof/Machine/Units.lean ====
section
/-! DEFINITION. Naming and reading the units of the domain (R11, R12), and the current sequencer (R13, R132). -/

namespace Sys2Proof.Machine

/-- A thread slot. -/
def thr (s : State) (k : Nat) : Thread := tabGet Thread.init s.threads k
/-- Write a thread slot. -/
def setThr (s : State) (k : Nat) (t : Thread) : State := { s with threads := tabSet Thread.init s.threads k t }
/-- A core. -/
def core (s : State) (c : Nat) : Core := tabGet Core.init s.cores c
/-- Write a core. -/
def setCore (s : State) (c : Nat) (v : Core) : State := { s with cores := tabSet Core.init s.cores c v }
/-- A cluster. -/
def cluster (s : State) (c : Nat) : Cluster := tabGet Cluster.init s.clusters c
/-- Write a cluster. -/
def setCluster (s : State) (c : Nat) (v : Cluster) : State := { s with clusters := tabSet Cluster.init s.clusters c v }
/-- A factor array context, by its core. -/
def ctx (s : State) (c : Nat) : Ctx := tabGet Ctx.init s.ctxs c
/-- Write a factor array context. -/
def setCtx (s : State) (c : Nat) (v : Ctx) : State := { s with ctxs := tabSet Ctx.init s.ctxs c v }
/-- A copy engine. -/
def engine (s : State) (n : Nat) : Engine := tabGet Engine.init s.engines n
/-- Write a copy engine. -/
def setEngine (s : State) (n : Nat) (v : Engine) : State := { s with engines := tabSet Engine.init s.engines n v }

/-- The core of a thread slot. -/
def coreOfThread (k : Nat) : Nat := k / 4
/-- The cluster of a core. -/
def clusterOfCore (c : Nat) : Nat := c / 2
/-- The die of a core. -/
def dieOfCore (c : Nat) : Nat := c / 32
/-- The die of a thread slot. -/
def dieOfThread (k : Nat) : Nat := k / 128
/-- The device of a die. -/
def devOfDie (d : Nat) : Nat := d / 32
/-- R12: the 12-bit thread identifier of a slot. -/
def threadId (k : Nat) : Nat := k % 4096
/-- R302: the copy engine that serves a thread: engine ⌊cluster / 4⌋ of its own die. -/
def engineOfThread (k : Nat) : Nat := dieOfThread k * 4 + k / 8 % 16 / 4

/-- A thread slot exists: its die is one of 24 of a device of the 256. -/
def isThread (k : Nat) : Bool := decide (k < 0x100000) && decide (k / 128 % 32 < 24)
/-- A die exists. -/
def isDie (d : Nat) : Bool := decide (d < 8192) && decide (d % 32 < 24)

/-- R330: the device lies in the domain, by the DOMAIN register of die 0 of the device `me`. -/
def inDomain (s : State) (me d : Nat) : Bool :=
  let w := readMem s (windowBase (me * 32) + 0x5000A0) 4
  decide (d < 256) && w.testBit (d / 16) && w.testBit (16 + d % 16)

/-- The device of the current agent. -/
def dieOfAgent : Agent → Nat
  | .thread k => dieOfThread k
  | .ctx c => dieOfCore c
  | .engine n => n / 4

/-- The sequencer of an agent; an agent without a program reads as the reset sequencer. -/
def seqOf (s : State) : Agent → Seq
  | .thread k => (thr s k).seq
  | .ctx c => match (ctx s c).prog with | some p => p.seq | none => Seq.init
  | .engine n => match (engine s n).prog with | some p => p.seq | none => Seq.init

/-- Write the sequencer of an agent. -/
def putSeq (s : State) (a : Agent) (q : Seq) : State :=
  match a with
  | .thread k => setThr s k { thr s k with seq := q }
  | .ctx c => setCtx s c { ctx s c with prog := (ctx s c).prog.map (fun p => { p with seq := q }) }
  | .engine n => setEngine s n { engine s n with prog := (engine s n).prog.map (fun p => { p with seq := q }) }

/-- The sequencer an instruction runs on. -/
def curSeq (s : State) : Seq := seqOf s s.cur
/-- Write the sequencer an instruction runs on. -/
def setSeq (s : State) (q : Seq) : State := putSeq s s.cur q
/-- The address of the instruction in progress. -/
def pcOf (s : State) : Word := (curSeq s).pc
/-- Replace the loop stack. -/
def setLoops (s : State) (l : List Level) : State := setSeq s { curSeq s with loops := l }

/-- R207, R52: the END of a `loop` word at an address. -/
def loopStop (new : Word) (w : BitVec 32) : Word := new + BitVec.ofNat 64 (4 * (w.toNat % 2 ^ 14))

/-- R207: a level that iterates, under the entries of a replacement map: OLD, NEW and the word at NEW. -/
def replaceLevel (m : List (Word × Word × BitVec 32)) (l : Level) : Level :=
  match m.find? (fun e => e.1 == l.start - 4) with
  | none => l
  | some (_, new, w) => { l with start := new + 4, stop := loopStop new w }

/-- R207: the replacement map that the sequencer in progress applies: a thread's region has one. -/
def curMap (s : State) : List (Word × Word × BitVec 32) :=
  match s.cur with
  | .thread k => tabGet [] s.maps (thr s k).rcb.toNat
  | _ => []

/-- R133, R207: the end test of the word at `p` under a replacement map: the levels that are left, and where the sequencer goes;
`b` says whether an iteration boundary has passed. Levels are given the innermost first. (DEDUCED: log entry 12.) -/
def endTest (m : List (Word × Word × BitVec 32)) (p : Word) : List Level → Bool → List Level × Word × Bool
  | [], b => ([], p + 4, b)
  | l :: ls, b =>
    if p = l.stop then
      if l.index.toNat + 1 < l.count.toNat then
        ({ replaceLevel m l with index := l.index + 1 } :: ls, (replaceLevel m l).start, true)
      else endTest m p ls true
    else (l :: ls, p + 4, b)

/-- R133, R164, R167: go on as if the word at `p` had just completed without a transfer; `b` says whether this instant is
an iteration boundary already. -/
def loopEnd (p : Word) (b : Bool) (s : State) : State :=
  let q := curSeq s
  let r := endTest (curMap s) p q.loops.reverse b
  setSeq s { q with pc := r.2.1, loops := r.1.reverse, landing := if r.2.2 then .boundary else .none }

/-- R133: the instruction in progress completes without a transfer. -/
def finish (s : State) : State := loopEnd (pcOf s) false s

/-- R133, R149: the instruction in progress transfers control, with no end test. -/
def jump (l : Landing) (t : Word) (s : State) : State := setSeq s { curSeq s with pc := t, landing := l }

/-- R164: an end word lies beyond the end of the innermost active level. -/
def outOfBody (l : List Level) (stop : Word) : Bool :=
  match l.reverse with
  | [] => false
  | v :: _ => v.stop.ult stop

/-- The issuer of the program an agent runs. -/
def issuerOf (s : State) : Agent → Option Issuer
  | .thread _ => none
  | .ctx c => (ctx s c).prog.map (·.iss)
  | .engine n => (engine s n).prog.map (·.iss)

/-- The thread in whose name an agent runs. -/
def ownerThread (s : State) : Nat :=
  match s.cur with
  | .thread k => k
  | a => match issuerOf s a with | some i => i.thread | none => 0

/-! ## Trace and the RAS block (R474, R480) -/

/-- R474: the address of the debug block of a device. -/
def debugBase (dev : Nat) : Nat := windowBase (dev * 32) + 0xB00000

/-- R474: DBG. -/
def dbgOf (s : State) (dev : Nat) : Nat := readMem s (debugBase dev) 1 % 4

/-- A device. -/
def device (s : State) (d : Nat) : Device := tabGet Device.init s.devices d
/-- Write a device. -/
def setDevice (s : State) (d : Nat) (v : Device) : State := { s with devices := tabSet Device.init s.devices d v }

/-- R474, R472: a trace entry of a kind for a die and a thread identifier, while a session is open, and in Manufacturing without one: `addr` is the pc or the physical
address, `word` the instruction word, cause or counter index. -/
def traceEntry (kind die tid addr word : Nat) (s : State) : State :=
  let dev := devOfDie die
  let b := debugBase dev
  let logn := readMem s (b + 0x208) 1 % 32
  if (dbgOf s dev = 0 ∧ (device s dev).sec ≠ 2) ∨ logn < 7 ∨ 24 < logn then s
  else
    let head := readMem s (b + 0x20C) 4
    let a := dev * 0x100000000000 + bitsOf (readMem s (b + 0x200) 8) 43 12 * 4096 + 32 * (head % 2 ^ logn)
    let e := kind + die % 32 * 2 ^ 8 + tid % 4096 * 2 ^ 16 + s.swath.toNat % 2 ^ 32 * 2 ^ 32 + addr % 2 ^ 64 * 2 ^ 64
      + word % 2 ^ 32 * 2 ^ 128
    writeMem (writeMem s a 32 e) (b + 0x20C) 4 (head + 1)

/-- The requester that the vector unit's requests for a slot are kept under (R356). -/
def vReq (k : Nat) : Nat := 2 ^ 24 + k

/-- R356, R352: the failed requests of a requester have had their causes taken; those that are outstanding or answered with data stay. -/
def dropFailed (r : Nat) (s : State) : State :=
  { s with hostReqs := tabSet [] s.hostReqs r ((tabGet [] s.hostReqs r).filter (fun h => match h.answer with
      | some (st, _) => st == 0
      | none => true)) }

/-- R480: a RAS counter of a die counts, with an entry of the error log: its index, the cause and the physical address. -/
def rasCount (die idx : Nat) (cause : BitVec 8) (pa : Nat) (s : State) : State :=
  let b := windowBase die + 0x900000
  let n := readMem s (b + 8 * idx) 4
  let s := writeMem s (b + 8 * idx) 4 (if n + 1 < 2 ^ 32 then n + 1 else n)
  let w := readMem s (b + 0xF8) 1 % 64
  let s := writeMem s (b + 0x100 + 32 * w) 32 (idx + cause.toNat * 2 ^ 8 + pa % 2 ^ 64 * 2 ^ 64 + s.swath.toNat * 2 ^ 128)
  traceEntry 3 die 0 pa idx (writeMem s (b + 0xF8) 1 ((w + 1) % 64))

end Sys2Proof.Machine
end

