-- ==== Sys2Proof/Machine/Place.lean ====
section
/-! DEFINITION. Placing one instruction word where the next step fetches: a thread bound to slot 0 of device 0, with the least
translation that its fetch needs. It stands for the load of a program by dispatch (R202..R204). -/

namespace Sys2Proof.Machine

/-- The address of the placed word, virtual and physical. -/
def placeAddr : Nat := 0x10000

/-- The state with a word placed. Page tables of address space 0 map the first 2^40 bytes onto themselves (R266, R267). -/
def placeWord (nbits w : Nat) (s : State) : State :=
  let s := writeMem s (windowBase 0 + 0x300000) 8 0x1000
  let s := writeMem s 0x1000 16 (0x2000 + 1)
  let s := writeMem s 0x2000 8 (0x3000 + 1)
  let s := writeMem s 0x3000 8 (14 * 2 ^ 52 + 0x1F)
  let s := writeMem s placeAddr 4 (w % 2 ^ nbits)
  let s := { s with agenda := [], turns := [.thread 0], engTurn := false, cur := .thread 0 }
  setThr s 0 { thr s 0 with st := .running, asid := 0, yieldWait := [], heldTrap := false, preq := false, vq := [], deliv := [], halted := false,
                            seq := { (thr s 0).seq with pc := BitVec.ofNat 64 placeAddr } }

end Sys2Proof.Machine
end

