-- ==== Sys2Proof/Machine/Operands.lean ====
section
/-! DEFINITION. The scalar operand forms (R46, R156, R168, R173): registers, even pairs, effective addresses, extension of
loaded values. -/

namespace Sys2Proof.Machine

/-- R46: a scalar register; s0 reads zero. -/
def x (s : State) (r : Fin 32) : Word := if r = 0 then 0 else (curSeq s).regs[r]
/-- R46: write a scalar register; a write to s0 is discarded. -/
def setX (s : State) (r : Fin 32) (v : Word) : State :=
  if r = 0 then s else setSeq s { curSeq s with regs := (curSeq s).regs.set r v }
/-- R46: the lower register of the pair `2n`. -/
def pairLo (p : Fin 16) : Fin 32 := ⟨2 * p.val, by omega⟩
/-- R46: the upper register of the pair `2n`. -/
def pairHi (p : Fin 16) : Fin 32 := ⟨2 * p.val + 1, by omega⟩
/-- R168: the effective address of a scalar load or store. -/
def effAddr (s : State) (a : Fin 32) (off : BitVec 10) : Word := x s a + off.signExtend 64

/-- R43, R44: the word of the fields of an E-format instruction, as `tval` receives it (R64). -/
def formWord (mj f1 f2 f3 fn : Nat) : Word := BitVec.ofNat 64 (packFields ⟨mj, f1, f2, f3, fn⟩)

/-- A number of `n` bytes as a register value, sign-extended. -/
def signExt (n v : Nat) : Word :=
  if v.testBit (8 * n - 1) then BitVec.ofInt 64 ((v : Int) - 256 ^ n) else BitVec.ofNat 64 v

/-- R46: a register pair as one number, the lower register in the low half. -/
def pairNat (s : State) (p : Fin 16) : Nat := (x s (pairLo p)).toNat + 2 ^ 64 * (x s (pairHi p)).toNat

/-- R46: write a register pair. -/
def setPairX (s : State) (p : Fin 16) (v : Nat) : State :=
  setX (setX s (pairLo p) (BitVec.ofNat 64 v)) (pairHi p) (BitVec.ofNat 64 (v / 2 ^ 64))

end Sys2Proof.Machine
end

