-- ==== Sys2Proof/Machine/Trans.lean ====
section
/-! DEFINITION. Address translation (R265..R272): page table entries, the walk, the TLBs. -/

namespace Sys2Proof.Machine

/-- Bit `i` of a page table entry. -/
def pteBit (p : Word) (i : Nat) : Bool := p.toNat.testBit i
/-- R267: the permissions and attributes of a leaf. -/
def pteRd (p : Word) : Bool := pteBit p 2
/-- R267: writable. -/
def pteWr (p : Word) : Bool := pteBit p 3
/-- R267: executable. -/
def pteEx (p : Word) : Bool := pteBit p 4
/-- R267: device class. -/
def pteDev (p : Word) : Bool := pteBit p 5
/-- R267: checked. -/
def pteChk (p : Word) : Bool := pteBit p 6
/-- R267: PEER-PUSH. -/
def ptePush (p : Word) : Bool := pteBit p 7
/-- R267: copy on write. -/
def pteCow (p : Word) : Bool := pteBit p 8
/-- R267: multicast aperture. -/
def pteMc (p : Word) : Bool := pteBit p 9
/-- R267: the whole page is poisoned. -/
def ptePsn (p : Word) : Bool := pteBit p 10
/-- R267: physical base, bits 51:12. -/
def ptePa (p : Word) : Nat := bitsOf p.toNat 51 12 * 4096
/-- R267: size code. -/
def pteSize (p : Word) : Nat := bitsOf p.toNat 55 52
/-- R267: the size of the page of a leaf. -/
def pageBytes (p : Word) : Nat := 4096 * 4 ^ pteSize p
/-- R267: multicast group. -/
def pteGroup (p : Word) : Nat := bitsOf p.toNat 63 56

/-- R268: the level at which a leaf of a size code may stand. -/
def leafLevel (k : Nat) : Nat := if k ≤ 4 then 0 else if k ≤ 8 then 1 else if k ≤ 13 then 2 else 3

/-- R268: the entries that a leaf of a size code fills. -/
def replicas (k : Nat) : Nat := 4096 * 4 ^ k / 2 ^ (12 + 9 * leafLevel k)

/-- R267, R268: a leaf found at a level is malformed. -/
def leafMalformed (p : Word) (lvl : Nat) : Bool :=
  lvl == 4 || lvl != leafLevel (pteSize p) || ptePa p % pageBytes p != 0 || (!pteMc p && pteGroup p != 0)

/-- R274: the base of the ASID table, as the translation unit of a die holds it. -/
def ttBase (s : State) (die : Nat) : Nat := bitsOf (readMem s (windowBase die + 0x300000) 8) 51 12 * 4096

/-- R266: the address of an ASID table entry. -/
def asidEntryAddr (s : State) (die : Nat) (asid : BitVec 16) : Nat := ttBase s die + 16 * asid.toNat

/-- R266: the root of an address space, `none` when its entry is invalid or malformed. -/
def asidRoot (s : State) (die : Nat) (asid : BitVec 16) : Option Nat :=
  let e := readMem s (asidEntryAddr s die asid) 16
  if bitsOf e 0 0 = 1 ∧ bitsOf e 11 1 = 0 ∧ bitsOf e 63 52 = 0 ∧ bitsOf e 127 96 = 0 then some (bitsOf e 51 12 * 4096) else none

/-- R267: the address of the entry of a table that a virtual address selects at a level. -/
def pteAddr (tbl va lvl : Nat) : Nat := tbl + 8 * (va / 2 ^ (12 + 9 * lvl) % 512)

/-- R269: the walk from a table at level `lvl`: the leaf, its level and the address it was read at, or none for cause 0x10. -/
def walkFrom (s : State) (va : Nat) : Nat → Nat → Option (Word × Nat × Nat)
  | 0, tbl =>
    let p := BitVec.ofNat 64 (readMem s (pteAddr tbl va 0) 8)
    if pteBit p 0 && pteBit p 1 && !leafMalformed p 0 then some (p, 0, pteAddr tbl va 0) else none
  | lvl + 1, tbl =>
    let p := BitVec.ofNat 64 (readMem s (pteAddr tbl va (lvl + 1)) 8)
    if !pteBit p 0 then none
    else if pteBit p 1 then
      (if leafMalformed p (lvl + 1) then none else some (p, lvl + 1, pteAddr tbl va (lvl + 1)))
    else if bitsOf p.toNat 11 2 ≠ 0 ∨ bitsOf p.toNat 63 52 ≠ 0 then none
    else walkFrom s va lvl (ptePa p)

/-- R269: a walk for a virtual address of an address space, from a die. -/
def walk (s : State) (die : Nat) (asid : BitVec 16) (va : Nat) : Option (Word × Nat × Nat) :=
  match asidRoot s die asid with
  | none => none
  | some root => walkFrom s va 4 root

/-- R271: a TLB entry covers an address. -/
def tlbHit (asid : BitVec 16) (va : Nat) (e : TlbEntry) : Bool :=
  e.asid == asid && decide (e.va ≤ va) && decide (va < e.va + pageBytes e.leaf)

/-- R271: the leaf for an address: in the given TLBs in order, else by a walk. -/
def leafOf (s : State) (tlbs : List TlbEntry) (die : Nat) (asid : BitVec 16) (va : Nat) : Option Word :=
  match tlbs.find? (tlbHit asid va) with
  | some e => some e.leaf
  | none => (walk s die asid va).map (fun r => r.1)

/-- R271: the TLBs a core's accesses look in. -/
def tlbsOfCore (s : State) (c : Nat) : List TlbEntry := (core s c).tlb ++ (cluster s (clusterOfCore c)).tlb

/-- R268: the physical address of an access under a leaf. -/
def physOf (p : Word) (va : Nat) : Nat := ptePa p + va % pageBytes p

/-- R268: the address of the first replica of a leaf found at an entry. -/
def firstReplica (p : Word) (addr : Nat) : Nat :=
  addr - addr % 4096 + (addr % 4096 / 8 - addr % 4096 / 8 % replicas (pteSize p)) * 8

/-- R122: the lines of a range of addresses have their tags set to domain 0. -/
def clearTags (s : State) (pa n : Nat) : State :=
  { s with tags := s.tags.filter (fun t => !(decide (pa / 64 ≤ t.1) && decide (t.1 ≤ (pa + n - 1) / 64))) }

/-- R122: a write on an unchecked path. -/
def writePlain (s : State) (pa n v : Nat) : State := clearTags (writeMem s pa n v) pa n

/-- R268: write every replica of a leaf found at an entry. -/
def writeReplicas (p : Word) (addr : Nat) (new : Word) (s : State) : State :=
  (List.range (replicas (pteSize p))).foldl (fun s i => writePlain s (firstReplica p addr + 8 * i) 8 new.toNat) s

/-- The page that a leaf maps holds a line; the page of an aperture has one at every device. -/
def pageHas (p : Word) (line : Nat) : Bool :=
  let l := if pteMc p then localOf (64 * line) else 64 * line
  decide (ptePa p ≤ l) && decide (l < ptePa p + pageBytes p)

/-- R125: an access of a die comes through a leaf. A page that no checked leaf in use has mapped becomes checked with the first that
maps it, and its lines then carry domain 0. (DESIGN CHOICE: log entry 66.) -/
def noteChecked (die : Nat) (asid : BitVec 16) (va : Nat) (p : Word) (s : State) : State :=
  let e : TlbEntry := ⟨asid, va - va % pageBytes p, p⟩
  let l := tabGet [] s.checked die
  let known := l.any (fun f => f.asid == e.asid && f.va == e.va && ptePa f.leaf == ptePa p && pteSize f.leaf == pteSize p && pteMc f.leaf == pteMc p)
  if pteChk p = false ∨ known = true then s
  else
    let all := s.checked.flatMap (fun c => c.2)
    { s with
      checked := tabSet [] s.checked die (l ++ [e])
      tags := s.tags.filter (fun t => !pageHas p t.1 || all.any (fun f => pageHas f.leaf t.1)) }

/-- R272: a miss in both TLBs of a core, whose walk finds a leaf, is to fill them, whatever its checks find then. -/
def noteWalk (c : Option Nat) (asid : BitVec 16) (va : Nat) (s : State) : State :=
  match c with
  | none => s
  | some c =>
    if (tlbsOfCore s c).any (tlbHit asid va) then s
    else match walk s (dieOfCore c) asid va with
      | none => s
      | some (p, _, _) =>
        let m := Miss.walk c asid (va - va % pageBytes p)
        if s.misses.contains m then s else { s with misses := s.misses ++ [m] }

/-- R277: a snapshot of a range that holds the address is running on the device of a die and has taken write permission from the
TLBs: writes wait at translation. -/
def snapHeld (s : State) (die : Nat) (asid : BitVec 16) (va : Nat) : Bool :=
  s.snapWaits.any (fun p =>
    let c := readMem s (windowBase p.1 + 0x300040) 32
    devOfDie p.1 == devOfDie die && BitVec.ofNat 16 c == asid && decide (bitsOf c 120 64 ≤ va)
      && decide (va < bitsOf c 120 64 + 4096 * bitsOf c 159 128))

/-- R276, R277: a write to the page waits: a copy of it is in progress, by the first replica of its leaf, or a snapshot of it is. -/
def copyBusy (s : State) (die : Nat) (asid : BitVec 16) (va : Nat) : Bool :=
  snapHeld s die asid va || (match walk s die asid va with
    | none => false
    | some (p, _, addr) => pteCow p && pteWr p && (readMem s (firstReplica p addr) 8).testBit 11)

/-- R125: the translation of an address still goes through a checked leaf to the same page. -/
def stillChecked (s : State) (die : Nat) (e : TlbEntry) : Bool :=
  match walk s die e.asid e.va with
  | some (p, _, _) => pteChk p && ptePa p == ptePa e.leaf && pteSize p == pteSize e.leaf && pteMc p == pteMc e.leaf
  | none => false

/-- R273: the TLB entries of a device for which `f` holds are removed. A page that no leaf in use makes checked is checked no longer. -/
def dropTlb (dev : Nat) (f : TlbEntry → Bool) (s : State) : State :=
  { s with
    checked := (s.checked.map (fun c =>
      if devOfDie c.1 = dev then (c.1, c.2.filter (fun e => !f e || stillChecked s c.1 e)) else c)).filter (fun c => !c.2.isEmpty)
    cores := s.cores.map (fun c => if devOfDie (dieOfCore c.1) = dev then (c.1, { c.2 with tlb := c.2.tlb.filter (fun e => !f e) }) else c)
    clusters := s.clusters.map (fun c => if devOfDie (c.1 / 16) = dev then (c.1, { c.2 with tlb := c.2.tlb.filter (fun e => !f e) }) else c) }

/-- A TLB entry lies in `n` bytes from a virtual address of an address space. -/
def tlbOverlaps (asid : BitVec 16) (va n : Nat) (e : TlbEntry) : Bool :=
  e.asid == asid && decide (va < e.va + pageBytes e.leaf) && decide (e.va < va + n)

/-- The bytes of a range moved to another range of memory of the same reset contents, with their poison; the destination
lines then belong to no race domain. -/
def copyRange (src dst n : Nat) (s : State) : State :=
  let moved := (s.mem.filter (fun c => decide (src ≤ c.1) && decide (c.1 < src + n))).map (fun c => (c.1 - src + dst, c.2))
  let kept := s.mem.filter (fun c => !(decide (dst ≤ c.1) && decide (c.1 < dst + n)))
  let psn := ((s.poison ++ s.latent).filter (fun g => decide (src / 64 ≤ g) && decide (g < (src + n) / 64))).map (fun g => g - src / 64 + dst / 64)
  let keptP := s.poison.filter (fun g => !(decide (dst / 64 ≤ g) && decide (g < (dst + n) / 64)))
  { s with
    mem := moved.foldl (fun m c => cellSet c.1 c.2 m) kept
    poison := psn.foldl (fun l g => setInsert g l) keptP
    latent := s.latent.filter (fun g => !(decide (dst / 64 ≤ g) && decide (g < (dst + n) / 64)))
    tags := s.tags.filter (fun t => !(decide (dst / 64 ≤ t.1) && decide (t.1 < (dst + n) / 64))) }

/-- R275: the descriptor of a free-page pool. -/
def poolAddr (die k : Nat) : Nat := windowBase die + 0x300080 + 16 * k

/-- R275: the address of the next pool entry, or none when the pool is empty. -/
def poolNext (s : State) (die k : Nat) : Option Nat :=
  let d := readMem s (poolAddr die k) 16
  let n := bitsOf d 55 52
  if 4 < k ∨ n < 4 ∨ bitsOf d 95 64 = bitsOf d 127 96 then none
  else some (bitsOf d 51 12 * 4096 + 8 * (bitsOf d 95 64 % 2 ^ n))

/-- R276: the copy of a copy-on-write page by the translation unit of a die; none when the pool is empty (cause 0x12). -/
def cowPerform (die : Nat) (asid : BitVec 16) (va : Nat) (s : State) : Option State :=
  match walk s die asid va with
  | none => some (dropTlb (devOfDie die) (tlbOverlaps asid va 1) s)
  | some (p, _, addr) =>
    if !(pteCow p && pteWr p) then some (dropTlb (devOfDie die) (tlbOverlaps asid va 1) s)
    else
      match poolNext s die (pteSize p) with
      | none => none
      | some ent =>
        let new := bitsOf (readMem s ent 8) 51 12 * 4096
        let d := readMem s (poolAddr die (pteSize p)) 16
        let s := writePlain s (poolAddr die (pteSize p)) 16 (setBits d 95 64 (bitsOf d 95 64 + 1))
        let s := copyRange (ptePa p) new (pageBytes p) s
        let leaf := BitVec.ofNat 64 (setBits (setBits (setBits p.toNat 51 12 (new / 4096)) 8 8 0) 11 11 0)
        let s := writeReplicas p addr leaf s
        let s := dropTlb (devOfDie die) (tlbOverlaps asid (va - va % pageBytes p) (pageBytes p)) s
        let s := writePlain s ent 8 (ptePa p + 1)
        let c := readMem s (windowBase die + 0x300008) 8
        some (writeMem s (windowBase die + 0x300008) 8 (if c + 1 < 2 ^ 64 then c + 1 else c))

end Sys2Proof.Machine
end

