-- ==== Sys2Proof/Machine/Region.lean ====
section
/-! DEFINITION. Regions: control blocks and their effective fields (R189..R191), the event ring (R193), and the record of
what a thread issues (R62). -/

namespace Sys2Proof.Machine

/-- R189: a control block as one little-endian number. -/
def rcbRead (s : State) (a : Nat) : Nat := readMem s a 64

/-- R189: the parent of a control block. -/
def rcbParent (s : State) (a : Nat) : Nat := bitsOf (rcbRead s a) 115 64

/-- R190: the chain of a control block, itself first, then its ancestors, at most `n` of them. -/
def rcbChain (s : State) : Nat → Nat → List Nat
  | 0, _ => []
  | n + 1, a => a :: (if rcbParent s a = 0 then [] else rcbChain s n (rcbParent s a))

/-- R190: the chain of a control block. A block that has a parent lists a byte of its bytes 8 .. 14, and a byte lies in at most
seven such ranges, so no chain that ends is longer than this; one that does not end has no root. -/
def chainOf (s : State) (a : Nat) : List Nat := rcbChain s (7 * s.mem.length + 1) a

/-- R190: the effective value of the field in bits `hi:lo` under override bit `o`. -/
def rcbField (s : State) (a o hi lo : Nat) : Nat :=
  match (chainOf s a).find? (fun b => (rcbRead s b).testBit (32 + o)) with
  | some b => bitsOf (rcbRead s b) hi lo
  | none => 0

/-- R190: the root of the chain has every override bit. -/
def rcbRooted (s : State) (a : Nat) : Bool :=
  match (chainOf s a).reverse with
  | r :: _ => rcbParent s r == 0 && bitsOf (rcbRead s r) 39 32 == 255
  | [] => false

/-- R198, R203: a block of the chain has a nonzero reserved field or the reserved policy. -/
def rcbMalformed (s : State) (a : Nat) : Bool :=
  (chainOf s a).any (fun b => bitsOf (rcbRead s b) 127 116 != 0 || bitsOf (rcbRead s b) 511 400 != 0
    || bitsOf (rcbRead s b) 25 24 == 3)

/-- R191: what a bind takes from the chain of a control block. -/
def homeOf (s : State) (a : Nat) : Home :=
  let l := chainOf s a
  ⟨l, l.find? (fun b => (rcbRead s b).testBit 33), l.find? (fun b => (rcbRead s b).testBit 38)⟩

/-- The block `r` is the block of a bound chain or an ancestor of it. -/
def inSubtree (r : Nat) (h : Home) : Bool := h.chain.contains r

/-- R191: the fault-domain policy, read when a cause is reported. -/
def policyOf (s : State) (h : Home) : Nat :=
  match h.fdp with
  | some b => bitsOf (rcbRead s b) 25 24
  | none => 0

/-- R191, R193: the event ring, read when a cause is reported; 0 for none. -/
def eventRing (s : State) (h : Home) : Nat :=
  match h.evq with
  | some b => bitsOf (rcbRead s b) 319 256
  | none => 0

/-- R193: where the next entry of the event ring at physical address `q` goes; none when there is no ring or no room. -/
def eventSlot (s : State) (q : Nat) : Option Nat :=
  let h := readMem s q 8
  if q = 0 ∨ (bitsOf h 5 0 + 63 - bitsOf h 13 8 % 63) % 63 = 62 then none else some (q + 64 * (bitsOf h 5 0 + 1))

/-- R193: write an entry to the event ring at physical address `q`, or count it lost; no ring when `q` is 0. -/
def eventWrite (q : Nat) (cause : BitVec 8) (evt : Bool) (tid : Nat) (rid : BitVec 20) (value : Word) (s : State) : State :=
  if q = 0 then s
  else
    let h := readMem s q 8
    match eventSlot s q with
    | none => writeMem s q 8 (setBits h 31 16 (min (bitsOf h 31 16 + 1) 0xFFFF))
    | some a =>
      let e := cause.toNat + evt.toNat * 2 ^ 8 + tid % 4096 * 2 ^ 16 + rid.toNat * 2 ^ 32 + value.toNat * 2 ^ 64
        + s.swath.toNat * 2 ^ 128
      writeMem (writeMem s a 64 e) q 8 (setBits h 5 0 ((bitsOf h 5 0 + 1) % 63))

/-- R195: the start record of a thread keeps the first cause that one of its threads reports. -/
def noteCause (bind : Nat) (cause : BitVec 8) (s : State) : State :=
  { s with intake := s.intake.map (fun p =>
      if p.2.binds.contains bind = true ∧ p.2.cause = 0 then (p.1, { p.2 with cause := cause }) else p) }

/-- R192, R145: a cause reaches a region: its event ring, and the start record that the binding belongs to (R195); an entry of the
ring is traced with its address (R474). (DEDUCED: log entry 34.) -/
def reportTo (h : Home) (rid : BitVec 20) (k bind : Nat) (cause : BitVec 8) (value : Word) (evt : Bool) (s : State) : State :=
  let q := eventRing s h
  let a := eventSlot s q
  let s := noteCause bind cause (eventWrite q cause evt (threadId k) rid value s)
  match a with
  | none => s
  | some a => traceEntry 2 (if k = 4095 then devOf q * 32 else dieOfThread k) (threadId k) a cause.toNat s

/-- The race clock of an agent of a domain; an index never used starts with epoch 2 (R127). -/
def clockOf (s : State) (dom agent : BitVec 8) : Clock :=
  let d := tabGet RaceDom.init s.domains dom.toNat
  tabGet ⟨2, (Vector.replicate 256 0).set agent.toNat 2 (by omega)⟩ d.clocks agent.toNat

/-- R62, R122: what a thread's command or forked program carries from its issue. -/
def issuerNow (s : State) (k : Nat) (pc : Word) : Issuer :=
  let t := thr s k
  { thread := k, pc := pc, asid := t.asid, rcb := t.rcb, rid := t.rid, cls := t.cls, home := t.home, bind := t.bind, rdom := t.rdom,
    agent := t.agent, clock := clockOf s t.rdom t.agent }

/-- The issuer of what the current agent issues at its present address: the thread itself, or the thread whose forked
program it is (R182). -/
def curIssuer (s : State) : Issuer :=
  match s.cur with
  | .thread k => issuerNow s k (pcOf s)
  | a => match issuerOf s a with
    | some i => { i with pc := pcOf s }
    | none => issuerNow s 0 0

/-- The thread that issued a command is still bound as it was then, and takes deliveries (R305). -/
def stillBound (s : State) (i : Issuer) : Bool :=
  let t := thr s i.thread
  t.bind == i.bind && t.st != .free && t.st != .retiring && !t.exited

end Sys2Proof.Machine
end

