-- ==== Sys2Proof/Machine/Race.lean ====
section
/-! DEFINITION. Race detection on checked pages (R122..R128): clocks, clock blocks, writer tags, epoch resets. -/

namespace Sys2Proof.Machine

/-- A race domain. -/
def dom (s : State) (d : BitVec 8) : RaceDom := tabGet RaceDom.init s.domains d.toNat
/-- Write a race domain. -/
def setDom (s : State) (d : BitVec 8) (v : RaceDom) : State := { s with domains := tabSet RaceDom.init s.domains d.toNat v }

/-- R123: the clock of an index that was never used. -/
def freshClock (agent : BitVec 8) : Clock := ⟨2, (Vector.replicate 256 0).set agent.toNat 2 (by omega)⟩

/-- Write the clock of an agent. -/
def setClock (s : State) (d agent : BitVec 8) (c : Clock) : State :=
  setDom s d { dom s d with clocks := tabInsert agent.toNat c (dom s d).clocks }

/-- R125: the tag of a line; a line never written carries domain 0. -/
def tagOf (s : State) (line : Nat) : Tag := tabGet ⟨0, 0, 0, 0⟩ s.tags line

/-- R125: whether an access by an agent with a clock races with the last writer of a line. -/
def races (s : State) (d agent : BitVec 8) (c : Clock) (line : Nat) : Bool :=
  let t := tagOf s line
  d != 0 && t.dom == d && t.gen == (dom s d).gen && t.agent != agent
    && decide (c.acq[t.agent.toNat] < t.epoch)

/-- R122: a write by an unchecked agent sets the tag to domain 0. -/
def clearTag (s : State) (line : Nat) : State := { s with tags := tabErase line s.tags }

/-- R123: entry `j` of a clock block in memory. -/
def blockEntry (s : State) (blk j : Nat) : Nat := readMem s (blk + 2 * j) 2

/-- R123: a clock block as a vector. -/
def blockVec (s : State) (blk : Nat) : Vector Nat 256 := Vector.ofFn (fun j => blockEntry s blk j.val)

/-- R123: a vector as the bytes of a clock block. -/
def blockNum (v : Vector Nat 256) : Nat := v.toList.foldr (fun a n => a % 65536 + 65536 * n) 0

/-- The greater of two vectors, entry by entry. -/
def vecMax (a b : Vector Nat 256) : Vector Nat 256 := Vector.ofFn (fun j => max a[j] b[j])

/-- R123: the join of a release into a clock block. -/
def joinBlock (d : BitVec 8) (c : Clock) (blk : Nat) (s : State) : State :=
  let s := setDom s d { dom s d with blocks := setInsert blk (dom s d).blocks }
  writeMem s blk 512 (blockNum (vecMax (blockVec s blk) c.acq))

/-- R123: the merge of an acquire from a clock block. -/
def mergeBlock (s : State) (agent : BitVec 8) (c : Clock) (blk : Nat) : Clock :=
  { c with acq := (vecMax c.acq (blockVec s blk)).set agent.toNat c.acq[agent.toNat] (by omega) }

/-- R123, R128: the epoch step that ends a release; a domain whose agent reaches 0xF000 has a pending reset. -/
def epochStep (d agent : BitVec 8) (s : State) : State :=
  if d = 0 then s
  else
    let c := tabGet (freshClock agent) (dom s d).clocks agent.toNat
    let e := c.epoch + 1
    let s := setClock s d agent ⟨e, c.acq.set agent.toNat e (by omega)⟩
    if 0xF000 ≤ e then setDom s d { dom s d with pending := true } else s

/-- R128: a release by the agent has to wait for the reset. -/
def epochFull (s : State) (d agent : BitVec 8) : Bool :=
  d != 0 && decide (0xFFFF ≤ (tabGet (freshClock agent) (dom s d).clocks agent.toNat).epoch)

/-- R124: the sync block of the line at a physical address. -/
def syncBlock (s : State) (d : BitVec 8) (pa : Nat) : Nat :=
  (dom s d).syncBase + 512 * (pa / 64 % 2 ^ (dom s d).syncLog)

/-- R128: a checked line still carries a tag of the generation before the present one. -/
def oldTags (s : State) (d : BitVec 8) : Bool := s.tags.any (fun t => t.2.dom == d && t.2.gen == (dom s d).gen - 1)

/-- R128: the clock of a forked program of a domain after its reset; others keep theirs. (DESIGN CHOICE: log entry 24.) -/
def resetProg (d : BitVec 8) (p : Prog) : Prog :=
  if p.iss.rdom = d then
    { p with iss := { p.iss with clock := ⟨2, (Vector.replicate 256 1).set p.iss.agent.toNat 2 (by omega)⟩ } }
  else p

/-- R128: the epoch reset of a domain. -/
def epochReset (d : BitVec 8) (s : State) : State :=
  let v := dom s d
  let ones : Vector Nat 256 := Vector.replicate 256 1
  let blocks := v.blocks ++ (List.range (2 ^ v.syncLog)).map (fun i => v.syncBase + 512 * i)
  let s := setDom s d
    { v with
      gen := v.gen + 1
      clocks := v.clocks.map (fun p =>
        if tabGet 0 v.bound p.1 ≠ 0 then (p.1, ⟨2, (Vector.ofFn (fun j => if j.val = p.1 then 2 else 1))⟩)
        else (p.1, ⟨1, ones⟩))
      exitBlock := ones
      pending := false
      due := false
      waitTold := false }
  let s := { s with
    ctxs := s.ctxs.map (fun c => (c.1, { c.2 with prog := c.2.prog.map (resetProg d) }))
    engines := s.engines.map (fun e => (e.1, { e.2 with prog := e.2.prog.map (resetProg d) })) }
  blocks.foldl (fun s b => writeMem s b 512 (blockNum ones)) s

/-- R128: a reset that is due takes place once no checked line carries a tag of the generation before. -/
def dueReset (d : BitVec 8) (s : State) : State := if (dom s d).due && !oldTags s d then epochReset d s else s

/-- R125, R128: the tag that a write by an agent leaves; an agent outside every domain leaves the tag alone (R122). -/
def writeTag (s : State) (d agent : BitVec 8) (epoch line : Nat) : State :=
  if d = 0 then s
  else
    let old := (tagOf s line).dom
    dueReset old { s with tags := tabSet ⟨0, 0, 0, 0⟩ s.tags line ⟨(dom s d).gen, d, agent, epoch⟩ }

/-- R124: the first block of the sync clock area of a domain: 2^k blocks with k at most 10, in common memory of a die. -/
def syncArea (d : BitVec 8) : Nat :=
  commonBase (dieKey (Config.syncHome d / 24 % 256) (Config.syncHome d % 24)) + 512 * (Config.syncFirst d % 64512)

/-- R127, R128: an index of a domain is bound to a thread; an epoch of 0xF000 or more makes a reset pending. -/
def bindAgent (d agent : BitVec 8) (k : Nat) (s : State) : State :=
  if d = 0 then s
  else
    let v := dom s d
    let e := match v.clocks.find? (fun p => p.1 == agent.toNat) with | some p => p.2.epoch + 1 | none => 2
    setDom s d { v with
      syncBase := syncArea d
      syncLog := Config.syncSize d % 11
      pending := v.pending || decide (0xF000 ≤ e)
      clocks := tabInsert agent.toNat ⟨e, v.exitBlock.set agent.toNat e (by omega)⟩ v.clocks
      bound := tabInsert agent.toNat (k + 1) v.bound }

/-- R127: a thread of the domain frees its slot: its vector joins the exit block, and its epoch is kept with its index. -/
def freeAgent (d agent : BitVec 8) (s : State) : State :=
  if d = 0 then s
  else
    let v := dom s d
    let c := tabGet (freshClock agent) v.clocks agent.toNat
    setDom s d { v with exitBlock := vecMax v.exitBlock c.acq, bound := tabErase agent.toNat v.bound }

end Sys2Proof.Machine
end

