-- ==== Sys2Proof/Machine/Barrier.lean ====
section
/-! DEFINITION. Barrier objects (R21..R27): the bank's updates, the flip, and what a flip fires. -/

namespace Sys2Proof.Machine

/-- A near-memory engine, by its die. -/
def nm (s : State) (d : Nat) : Nm := tabGet Nm.init s.nms d
/-- Write a near-memory engine. -/
def setNm (s : State) (d : Nat) (v : Nm) : State := { s with nms := tabSet Nm.init s.nms d v }

/-- R21: the fields of an object. -/
def barExpect (o : Nat) : Nat := bitsOf o 15 0
/-- R21: arrivals of the present phase. -/
def barCount (o : Nat) : Nat := bitsOf o 31 16
/-- R21: transaction bytes pending, signed. -/
def barTx (o : Nat) : Int := (BitVec.ofNat 32 (bitsOf o 63 32)).toInt
/-- R21: the present phase. -/
def barPhase (o : Nat) : Bool := o.testBit 64
/-- R21: the scope code of the object. -/
def barScope (o : Nat) : Nat := bitsOf o 67 65
/-- R21: the object carries a clock. -/
def barClk (o : Nat) : Bool := o.testBit 68
/-- R21: something is armed on the object. -/
def barArmd (o : Nat) : Bool := o.testBit 69
/-- R21: the number of the clock block. -/
def barBlk (o : Nat) : Nat := bitsOf o 111 96

/-- An object in memory. -/
def barRead (s : State) (pa : Nat) : Nat := readMem s pa 16

/-- R21: the address of an object's clock block, in the common memory of its home die. -/
def barBlock (pa o : Nat) : Nat :=
  let d := match placeOf pa with
    | .common d => d
    | .scratchpad d _ => d
    | _ => 0
  commonBase (dieKey (devOf pa) d) + 512 * barBlk o

/-- R22: an object may stand here: 16-byte aligned, in common memory or a scratchpad. -/
def barPlace (pa : Nat) : Bool :=
  pa % 16 == 0 && (match placeOf pa with
    | .common _ => true
    | .scratchpad _ _ => true
    | _ => false)

/-- R22: the updates a bank applies: an arrival announcing bytes, an announcement, a completion. -/
inductive BarUpdate where
  | arrive (n : Nat)
  | expect (n : Nat)
  | complete (n : Nat)
  deriving DecidableEq, Repr

/-- R23, R24: the bytes pending after an update. -/
def barTxAfter (u : BarUpdate) (o : Nat) : Int :=
  match u with
  | .arrive n => barTx o + n
  | .expect n => barTx o + n
  | .complete n => barTx o - n

/-- R22..R24: the object after an update, and whether the phase flipped; none when the update is refused (cause 0x43). -/
def barApply (u : BarUpdate) (o : Nat) : Option (Nat × Bool) :=
  let tx := barTxAfter u o
  let count := match u with | .arrive _ => barCount o + 1 | _ => barCount o
  let refused := match u with | .arrive _ => barExpect o == 0 || decide (barExpect o < count) | _ => false
  if 4 ≤ barScope o ∨ refused = true ∨ tx < -0x80000000 ∨ 0x7FFFFFFF < tx then none
  else
    let o1 := setBits (setBits o 63 32 (BitVec.ofInt 32 tx).toNat) 31 16 count
    if tx = 0 ∧ (barExpect o = 0 ∨ count = barExpect o) then
      some (setBits (setBits o1 31 16 (if barExpect o = 0 then count else 0)) 64 64 (if barPhase o then 0 else 1), true)
    else some (o1, false)

/-- R26: every command armed on the object for a phase fires, in every copy engine and near-memory engine. -/
def fireArmed (pa : Nat) (phase : Bool) (s : State) : State :=
  { s with
    engines := s.engines.map (fun p => (p.1, { p.2 with armed := p.2.armed.map (fun a =>
      if a.obj = pa ∧ a.phase = phase then { a with fired := true } else a) }))
    nms := s.nms.map (fun p => (p.1, { p.2 with
      queue := p.2.queue.map (fun c => if c.gate = some (pa, phase) ∧ c.firedAt = 0 then { c with firedAt := s.serial + 1 } else c)
      gates := p.2.gates.map (fun c => if c.gate = some (pa, phase) ∧ c.firedAt = 0 then { c with firedAt := s.serial + 1 } else c) }))
    serial := s.serial + 1 }

/-- R128: a domain with a pending reset takes it at this flip when every agent bound in it arrived in the ending phase. -/
def flipResets (pa : Nat) (arr : List Nat) (s : State) : State :=
  s.domains.foldl (fun s p =>
    if p.2.pending && p.2.bound.all (fun b => arr.contains (p.1 * 256 + b.1)) && !p.2.bound.isEmpty then
      if oldTags s (BitVec.ofNat 8 p.1) then
        let _ := pa
        setDom s (BitVec.ofNat 8 p.1) { dom s (BitVec.ofNat 8 p.1) with due := true }
      else epochReset (BitVec.ofNat 8 p.1) s
    else s) s

/-- R22..R27, R128: one update by the bank of an object. `agent` names the race agent of an arrival, domain first.
The result is none when the update is refused with cause 0x43. -/
def barUpdate (u : BarUpdate) (pa : Nat) (agent : BitVec 8 × BitVec 8) (s : State) : Option State :=
  match barApply u (barRead s pa) with
  | none => none
  | some (o, flip) =>
    let s := { s with barriers := setInsert pa s.barriers }
    let key := agent.1.toNat * 256 + agent.2.toNat
    let arr := match u with
      | .arrive _ => setInsert key (tabGet [] s.arrivals pa)
      | _ => tabGet [] s.arrivals pa
    if flip then
      let old := !barPhase o
      let s := storeMem s pa 16 (setBits (setBits o 69 69 0) 95 72 0)
      let s := fireArmed pa old { s with arrivals := tabErase pa s.arrivals }
      some (if barClk o then flipResets pa arr s else s)
    else some (storeMem { s with arrivals := tabSet [] s.arrivals pa arr } pa 16 o)

/-- R26: arm on an object out of phase `p`, from a die: true when it fires at once; otherwise ARMD and the die's WATCH bit
are set. -/
def barArm (pa : Nat) (p : Bool) (die : Nat) (s : State) : Bool × State :=
  let o := barRead s pa
  if barPhase o != p then (true, s)
  else (false, { writeMem s pa 16 (setBits (o ||| 2 ^ (72 + die % 32)) 69 69 1) with barriers := setInsert pa s.barriers })

/-- R22: what an ordinary 16-byte store leaves of an object: every field but the read-only ones. -/
def barStore (old new : Nat) : Nat :=
  setBits (setBits (setBits (setBits new 69 69 (bitsOf old 69 69)) 95 72 (bitsOf old 95 72)) 71 70 0) 127 112 0

/-- R22: a write of `n` bytes at `pa` touches a known barrier object that the bytes `lo .. hi - 1`, which one instruction
writes together, do not cover whole. -/
def partOfBarrier (s : State) (pa n lo hi : Nat) : Bool :=
  s.barriers.any (fun b => decide (pa < b + 16) && decide (b < pa + n) && !(decide (lo ≤ b) && decide (b + 16 ≤ hi)))

/-- R21, R22: a write of `n` bytes at `pa`, of which one instruction writes `lo .. hi - 1` together, is refused by a barrier object:
it covers part of one, or one whose SCOPE is reserved. -/
def barrierRefuses (s : State) (pa n lo hi : Nat) : Bool :=
  partOfBarrier s pa n lo hi
    || s.barriers.any (fun b => decide (pa < b + 16) && decide (b < pa + n) && decide (4 ≤ barScope (barRead s b)))

end Sys2Proof.Machine
end

