-- ==== Sys2Proof/Machine/Reach.lean ====
section
/-! DEFINITION. Which memory each access path reaches (R14, R107, R330, R352), and the counters of a pair of the fabric. -/

namespace Sys2Proof.Machine

/-- The access paths of R14. -/
inductive Path where
  | c | v | f | x | n
  deriving DecidableEq, Repr

/-- What a die keeps for a destination device (R341). -/
def pair (s : State) (die dest : Nat) : Pair := tabGet Pair.init s.pairs (die * 256 + dest)
/-- Write what a die keeps for a destination device. -/
def setPair (s : State) (die dest : Nat) (v : Pair) : State := { s with pairs := tabSet Pair.init s.pairs (die * 256 + dest) v }

/-- R470, R466: a register of the attestation page of a device, the first 4 KiB of die 0's security block. -/
def isAttestation (pa : Nat) : Bool :=
  let o := localOf pa % 0x10000000
  placeOf pa == .dieWindow 0 && (decide (0xA00000 ≤ o ∧ o < 0xA00008) || decide (0xA00020 ≤ o ∧ o < 0xA00060)
    || decide (0xA00080 ≤ o ∧ o < 0xA001D8))

/-- R107, R330, R352: the cause for which an access of a path, made at a die through a leaf, does not reach an address. What
the F and N paths reach by some of their accesses only is left to those accesses. (DEDUCED: log entry 26.) -/
def reach (s : State) (die : Nat) (p : Path) (leaf : Word) (pa : Nat) : Option (BitVec 8) :=
  let own := devOfDie die
  let d := devOf pa
  if d ≠ own then
    if !inDomain s own d then some 0x70
    else if (pair s die d).lost then some 0x70
    else match placeOf pa with
      | .hbm _ => if p = .f ∨ p = .n then some 0x13 else none
      | .scratchpad _ _ => if p = .f ∨ p = .n then some 0x13 else none
      | .common _ => if p = .f ∨ p = .n then some 0x13 else none
      | .hostAperture => if p = .f ∨ p = .n ∨ d / 16 ≠ own / 16 then some 0x13 else none
      | _ => some 0x13
  else match placeOf pa with
    | .hbm k => if (p = .f ∨ p = .n) ∧ k ≠ die % 32 then some 0x13 else none
    | .hostAperture => if p = .f ∨ p = .n then some 0x13 else none
    | .scratchpad k _ => if p = .f ∧ k ≠ die % 32 then some 0x13 else none
    | .common k => if p = .f ∧ k ≠ die % 32 then some 0x13 else none
    | .clusterWindow _ _ => if p = .c ∧ pteDev leaf = true then none else some 0x13
    | .dieWindow _ => if p = .c ∧ pteDev leaf = true ∧ isAttestation pa = true then none else some 0x13
    | .hole => some 0x13

/-- R107: the same, for a write (`wr`) or a read; the F path reads HBM, for configuration loads, and writes none. -/
def reachFor (s : State) (die : Nat) (p : Path) (wr : Bool) (leaf : Word) (pa : Nat) : Option (BitVec 8) :=
  match reach s die p leaf pa with
  | some c => some c
  | none => if p = .f ∧ wr = true ∧ (match placeOf pa with | .hbm _ => true | _ => false) = true then some 0x13 else none

end Sys2Proof.Machine
end

