-- ==== Sys2Proof/Machine/Ops.lean ====
section
/-! DEFINITION. Taking an exception (R142, R143): progress records and the fault record queue (R40..R42, R146..R148),
reports to the region with the fault-domain policy (R192), kills (R131), and the trap itself. -/

namespace Sys2Proof.Machine

/-! ## Progress records -/

/-- R40, R41: a progress record as one little-endian number; `cursor` is bytes 16 .. 63. -/
def mkRecord (ecls atc : Nat) (cause : BitVec 8) (i : Issuer) (engno die : Nat) (cursor : Nat) : BitVec 512 :=
  BitVec.ofNat 512 (ecls % 16 + atc % 16 * 2 ^ 4 + cause.toNat * 2 ^ 8 + threadId i.thread * 2 ^ 16 + engno % 16 * 2 ^ 28
    + i.rid.toNat * 2 ^ 32 + die % 32 * 2 ^ 52 + i.pc.toNat * 2 ^ 64 + cursor % 2 ^ 384 * 2 ^ 128)

/-- The cause field of a record. -/
def recordCause (r : BitVec 512) : BitVec 8 := BitVec.ofNat 8 (bitsOf r.toNat 15 8)
/-- The ECLS field of a record. -/
def recordEcls (r : BitVec 512) : Nat := bitsOf r.toNat 3 0

/-- R146: `fqbase` as software reads it. -/
def fqWord (c : Core) : Word :=
  BitVec.ofNat 64 (c.fqHead.toNat + c.fqTail.toNat * 2 ^ 6 + c.fqBase.toNat * 2 ^ 12 + c.fqAhead.toNat * 2 ^ 57
    + c.fqEn.toNat * 2 ^ 63)

/-- R148: the queue has no room for a record with `n` address entries. -/
def fqFull (c : Core) (n : Nat) : Bool :=
  (c.fqHead - c.fqTail).toNat == 63 || decide (64 < c.fqOwned.foldl (· + ·) 0 + n)

/-- R148: where a device-class store of `n` bytes of a record goes, or the cause for which it fails (steps 1..7 of R169);
a copy-on-write page is copied first (R276). (DEDUCED: log entry 22.) -/
def recordStore (k : Nat) (asid : BitVec 16) (va n v : Nat) (s : State) : Except (BitVec 8) State :=
  if 2 ^ 57 ≤ va then .error 0x10
  else
    match leafOf s (tlbsOfCore s (coreOfThread k)) (dieOfThread k) asid va with
    | none => .error 0x10
    | some p =>
      if !pteWr p then .error 0x11
      else match reach s (dieOfThread k) .c p (physOf p va) with
        | some c => .error c
        | none =>
          match (if pteCow p then cowPerform (dieOfThread k) asid va s else some s) with
          | none => .error 0x12
          | some s =>
            match leafOf s (tlbsOfCore s (coreOfThread k)) (dieOfThread k) asid va with
            | none => .error 0x10
            | some p => if ptePsn p then .error 0x30 else .ok (clearTags (storeMem s (physOf p va) n v) (physOf p va) n)

/-- R146, R147: the address entries of a record, from an index of the buffer: an address in bits 56:0, or the no-address entry. -/
def addrStores (k : Nat) (asid : BitVec 16) (base : Nat) : Nat → List Word → State → Except (BitVec 8) State
  | _, [], s => .ok s
  | i, a :: l, s =>
    match recordStore k asid (base + 0x1000 + 8 * (i % 64)) 8 (if a = 2 ^ 63 then 2 ^ 63 else a.toNat % 2 ^ 57) s with
    | .error c => .error c
    | .ok s => addrStores k asid base (i + 1) l s

/-- R147, R148: write a record that has room: its address entries, then the record, then the indices. The result is the
address of the record, or the cause for which it is discarded. -/
def recordWrite (i : Issuer) (r : BitVec 512) (addrs : List Word) (s : State) : Except (BitVec 8) (Word × State) :=
  let cn := coreOfThread i.thread
  let c := core s cn
  if !c.fqEn then .error (recordCause r)
  else
    let base := c.fqBase.toNat * 4096
    match addrStores i.thread i.asid base c.fqAhead.toNat addrs s with
    | .error e => .error e
    | .ok s1 =>
      match recordStore i.thread i.asid (base + 64 * c.fqHead.toNat) 64 r.toNat s1 with
      | .error e => .error e
      | .ok s2 =>
        .ok (BitVec.ofNat 64 (base + 64 * c.fqHead.toNat),
          setCore s2 cn { core s2 cn with
            fqHead := c.fqHead + 1
            fqAhead := c.fqAhead + BitVec.ofNat 6 addrs.length
            fqOwned := c.fqOwned ++ [addrs.length] })

/-- R148: a record finds the ring of its core full: its region is told once for each filling. -/
def ringFull (h : HeldRec) (s : State) : State :=
  let cn := coreOfThread h.iss.thread
  let c := core s cn
  if c.fullSeen || !fqFull c h.addrs.length then s
  else reportTo h.iss.home h.iss.rid h.iss.thread h.iss.bind 0x45 (fqWord c) true (setCore s cn { c with fullSeen := true })

/-- R148: hold a record until it can be written. -/
def recordHold (h : HeldRec) (s : State) : State :=
  let cn := coreOfThread h.iss.thread
  ringFull h (setCore s cn { core s cn with held := (core s cn).held ++ [h] })

/-- R276: a page that the next record of a core, with `n` address entries, is stored to is being copied. -/
def recordBusy (i : Issuer) (n : Nat) (s : State) : Bool :=
  let c := core s (coreOfThread i.thread)
  let base := c.fqBase.toNat * 4096
  ((base + 64 * c.fqHead.toNat) :: (List.range n).map (fun j => base + 0x1000 + 8 * ((c.fqAhead.toNat + j) % 64))).any
    (copyBusy s (dieOfThread i.thread) i.asid)

/-- R148, R276: the queue of an issuer's core cannot take a record now. -/
def mustHold (i : Issuer) (addrs : List Word) (s : State) : Bool :=
  let c := core s (coreOfThread i.thread)
  c.fqEn && (!c.held.isEmpty || fqFull c addrs.length || recordBusy i addrs.length s)

/-- R148, R192: a record that delivers nothing is discarded: its cause is written to the region's event ring, and the fault-domain
policy is to be applied, before any turn. (DEDUCED: log entry 21.) -/
def quietLost (i : Issuer) (cause : BitVec 8) (s : State) : State :=
  let s := reportTo i.home i.rid i.thread i.bind cause 0 false s
  { s with policies := s.policies ++ [(i.home, i.rcb)] }

/-- R131, R150: write a record that delivers nothing. -/
def recordQuiet (i : Issuer) (r : BitVec 512) (s : State) : State :=
  if mustHold i [] s then recordHold ⟨i, r, [], .noReport⟩ s
  else match recordWrite i r [] s with
    | .ok (_, s) => s
    | .error _ => quietLost i (recordCause r) s

/-! ## Kills and reports -/

/-- A program was forked by this binding of a slot. -/
def ofThread (k b : Nat) (i : Issuer) : Bool := i.thread == k && i.bind == b

/-- R41: the cursor of a factor array context: STAGE from the innermost loop level, the row, VCUR and CHUNK. -/
def faCursor (stage : BitVec 16) (brow vcur chunk : Nat) : Nat :=
  stage.toNat + brow % 2 ^ 16 * 2 ^ 16 + vcur % 2 ^ 32 * 2 ^ 32 + chunk % 2 ^ 32 * 2 ^ 64

/-- R396: bits 15:0 of INDEX of the innermost loop level. -/
def stageOf (q : Seq) : BitVec 16 :=
  match q.loops.reverse with
  | [] => 0
  | l :: _ => l.index.setWidth 16

/-- R131: the program of a context stops with a record of cause 0x4F; an instruction of it that has issued goes on. -/
def endProgram (cn : Nat) (s : State) : State :=
  match (ctx s cn).prog with
  | some p =>
    recordQuiet p.iss (mkRecord 3 0 0x4F { p.iss with pc := p.seq.pc } (cn % 2) (dieOfCore cn) (faCursor (stageOf p.seq) 0 0 0))
      (setCtx s cn { ctx s cn with
        prog := none, busy := none, ending := false
        queue := (match (ctx s cn).busy with
          | some c => if (ctx s cn).issued then .cmd c :: (ctx s cn).queue else (ctx s cn).queue
          | none => (ctx s cn).queue) })
  | none => setCtx s cn { ctx s cn with ending := false }

/-- R409: the program of a context is in the middle of a load. -/
def progLoading (x : Ctx) : Bool := x.prog.isSome && x.loading.isSome && !(x.load.any (fun p => !p.2))

/-- R131: the forked programs of a thread stop, each with a record of cause 0x4F, one in the middle of a load when that has ended (R409), and its
commands that no engine has started are discarded, armed and gated ones among them. -/
def stopForks (k b : Nat) (s : State) : State :=
  let cn := coreOfThread k
  let s := match (ctx s cn).prog with
    | some p =>
      if ofThread k b p.iss then
        (if progLoading (ctx s cn) then setCtx s cn { ctx s cn with ending := true } else endProgram cn s)
      else s
    | none => s
  let starts := (ctx s cn).queue.filterMap (fun it => match it with
    | .start p => if ofThread k b p.iss then some p else none
    | .cmd _ => none)
  let keep := fun (it : FaItem) => match it with
    | .start p => !ofThread k b p.iss
    | .cmd c => !ofThread k b c.iss
  let s := setCtx s cn { ctx s cn with stalled := none, unready := false, queue := match (ctx s cn).queue with
    | .cmd c :: l => if (ctx s cn).issued = true ∨ keep (.cmd c) = true then .cmd c :: l.filter keep else l.filter keep
    | l => l.filter keep }
  let s := starts.foldl (fun s p => recordQuiet p.iss
    (mkRecord 3 0 0x4F { p.iss with pc := p.seq.pc } (cn % 2) (dieOfCore cn) 0) s) s
  let d := dieOfThread k
  let waiting := (tabGet [] s.forkQs d).filter (fun p => ofThread k b p.iss)
  let s := { s with forkQs := tabSet [] s.forkQs d ((tabGet [] s.forkQs d).filter (fun p => !ofThread k b p.iss)) }
  let s := waiting.foldl (fun s p => recordQuiet p.iss (mkRecord 4 0 0x4F { p.iss with pc := p.seq.pc } 0 d 0) s) s
  let s := [0, 1, 2, 3].foldl (fun s e =>
    let n := d * 4 + e
    let s := match (engine s n).prog with
      | some p =>
        if ofThread k b p.iss then
          recordQuiet p.iss (mkRecord 4 0 0x4F { p.iss with pc := p.seq.pc } e d 0) (setEngine s n { engine s n with prog := none })
        else s
      | none => s
    let g := engine s n
    setEngine s n { g with
      queue := g.queue.filter (fun c => !ofThread k b c.iss || c.started)
      armed := g.armed.filter (fun a => !ofThread k b a.cmd.iss) }) s
  { s with nms := s.nms.map (fun p => (p.1, { p.2 with
      queue := p.2.queue.filter (fun c => !ofThread k b c.iss)
      gates := p.2.gates.filter (fun c => !ofThread k b c.iss) })) }

/-- Requests to the host that a requester no longer takes the answers of. -/
def dropRequests (k : Nat) (s : State) : State := { s with hostReqs := tabErase k s.hostReqs }

/-- R121, R142: a scalar access of the thread of a slot is on its way, or its data has come: its instruction completes before the
scalar side stops at an instruction boundary. -/
def scalarBusy (s : State) (k : Nat) : Bool :=
  (tabGet [] s.hostReqs k).any (fun h => match h.answer with
    | some (st, _) => st == 0
    | none => true)

/-- R145: records that wait for delivery to a thread which is retiring become events. -/
def reportDeliveries (k : Nat) (l : List Delivery) (s : State) : State :=
  let t := thr s k
  l.foldl (fun s d => reportTo t.home t.rid k t.bind d.cause d.addr true s) s

/-- R131, R130: kill the thread of a slot. A slot in state bound is killed when its state is in place. -/
def killThread (k : Nat) (s : State) : State :=
  let t := thr s k
  match t.st with
  | .running | .waiting | .suspended =>
    let s := stopForks k t.bind s
    let t := thr s k
    let owed := match t.owed with | some (_, d) => [d] | none => []
    let s := reportDeliveries k (owed ++ t.deliv ++ t.forkFaults) s
    let t := thr s k
    setThr (dropRequests (vReq k) (dropRequests k s)) k { t with
      st := .retiring, killed := true, vq := [], parked := [], forks := [], forkFaults := [], deliv := [],
      preq := false, heldTrap := false, owed := none, snap := none }
  | .bound => setThr s k { t with killed := true }
  | _ => s

/-- R192: the slots whose threads belong to the subtree of a control block. -/
def subtreeSlots (s : State) (rcb : Word) : List Nat :=
  (s.threads.filter (fun p => p.2.st != .free && inSubtree rcb.toNat p.2.home)).map Prod.fst

/-- R149: a pre-emption request to a running or waiting slot. -/
def requestPreempt (k : Nat) (s : State) : State :=
  let t := thr s k
  if t.st = .running ∨ t.st = .waiting then setThr s k { t with preq := true } else s

/-- R102: OR flags into the flags of the thread of a slot. -/
def orAflags (k : Nat) (f : BitVec 7) (s : State) : State :=
  if f = 0 then s else setThr s k { thr s k with aflags := (thr s k).aflags ||| f }

/-- R192: the fault-domain policy of a region, once the entry is written. -/
def applyPolicy (h : Home) (rcb : Word) (s : State) : State :=
  match policyOf s h with
  | 1 => (subtreeSlots s rcb).foldl (fun s j => requestPreempt j s) s
  | 2 => (subtreeSlots s rcb).foldl (fun s j => killThread j s) s
  | _ => s

/-- R148, R192: the oldest policy that is still to be applied. -/
def policyDue (s : State) : State :=
  match s.policies with
  | [] => s
  | p :: l => applyPolicy p.1 p.2 { s with policies := l }

/-- R143, R192: a fault of a thread is reported to its region: the slot is suspended, the entry is written, and the
fault-domain policy is applied. -/
def reportFault (k : Nat) (cause : BitVec 8) (value : Word) (s : State) : State :=
  let t := thr s k
  let s := setThr (dropRequests k s) k { t with st := .suspended, snap := none }
  applyPolicy t.home t.rcb (reportTo t.home t.rid k t.bind cause value false s)

/-! ## The trap -/

/-- R141: the bits of `tvec` and `tepc` that are not reserved. -/
def handlerMask : Word := 0x01FFFFFFFFFFFFFC

/-- R142..R144: take an exception on the thread of a slot at its present pc: enter the handler with the vector queue parked,
or report to the region. (DEDUCED: log entry 13.) -/
def trapTo (k : Nat) (cause : BitVec 8) (val : Word) (ecls : Nat) (s : State) : State :=
  let t := thr s k
  if t.hm = true ∨ t.tvec = 0 then reportFault k cause val s
  else setThr (dropRequests k s) k { t with
    st := .running, tepc := t.seq.pc &&& handlerMask, tcause := BitVec.ofNat 64 (cause.toNat + ecls % 16 * 256), tval := val, hm := true,
    seq := { t.seq with pc := t.tvec, landing := .none }, snap := none, vq := [], parked := t.parked ++ t.vq }

/-- R142, R143: the trap of a thread, or its report, once its record stands: of a thread that runs or waits. -/
def takeOwed (u : RecordUse) (d : Delivery) (k : Nat) (s : State) : State :=
  let s := setThr s k { thr s k with heldTrap := false, owed := none }
  match u with
  | .scalarReport v => reportFault k d.cause v s
  | _ => trapTo k d.cause d.addr d.ecls s

/-- The thread that issued something still holds its slot and has not ended. -/
def occupies (s : State) (i : Issuer) : Bool :=
  let t := thr s i.thread
  t.bind == i.bind && t.st != .free && t.st != .retiring

/-- R130, R142, R145: the trap of a thread whose record has been written: taken now; once the slot issues again, if it is suspended;
once the scalar access that is on its way has completed; or an event, if the thread is retiring or gone. -/
def trapNow (u : RecordUse) (d : Delivery) (i : Issuer) (s : State) : State :=
  let k := i.thread
  if !occupies s i then reportTo i.home i.rid k i.bind d.cause d.addr true s
  else if (thr s k).st = .suspended ∨ scalarBusy s k = true then setThr s k { thr s k with heldTrap := false, owed := some (u, d) }
  else takeOwed u d k s

/-- R142, R143: the vector unit raises a cause of the thread of a slot that needs no further record. -/
def vectorTrap (k : Nat) (cause : BitVec 8) (val : Word) (ecls : Nat) (s : State) : State :=
  trapNow .vectorTrap ⟨cause, val, ecls, 0⟩ (issuerNow s k (thr s k).seq.pc) s

/-- R18, R42, R142, R143, R305: what follows once a record stands at an address. -/
def recordDone (u : RecordUse) (i : Issuer) (r : BitVec 512) (addr : Word) (s : State) : State :=
  let k := i.thread
  let d : Delivery := ⟨recordCause r, addr, recordEcls r, match u with | .engine f => f | .forked f => f | _ => 0⟩
  match u with
  | .noReport => s
  | .vectorTrap => trapNow u d i s
  | .scalarReport _ => trapNow u d i s
  | .engine _ =>
    if stillBound s i then setThr s k { thr s k with deliv := (thr s k).deliv ++ [d] }
    else reportTo i.home i.rid k i.bind d.cause addr true s
  | .forked _ =>
    if stillBound s i then setThr s k { thr s k with forkFaults := (thr s k).forkFaults ++ [d] }
    else reportTo i.home i.rid k i.bind d.cause addr true s

/-- R143: the cause of an engine's discarded record is reported, once the scalar access that is on its way has completed. -/
def reportSoon (k : Nat) (cause : BitVec 8) (s : State) : State :=
  if scalarBusy s k = true ∧ (thr s k).owed = none then setThr s k { thr s k with owed := some (.scalarReport 0, ⟨cause, 0, 0, 0⟩) }
  else reportFault k cause 0 s

/-- R148: what follows when a record is discarded: its cause is reported to the region, with no record to name. (DEDUCED: log entry 21.) -/
def recordLost (u : RecordUse) (i : Issuer) (cause : BitVec 8) (s : State) : State :=
  let k := i.thread
  match u with
  | .noReport => quietLost i cause s
  | .vectorTrap =>
    if occupies s i then reportFault k cause 0 (setThr s k { thr s k with heldTrap := false })
    else reportTo i.home i.rid k i.bind cause 0 true s
  | .scalarReport v =>
    if occupies s i then reportFault k cause v (setThr s k { thr s k with heldTrap := false })
    else reportTo i.home i.rid k i.bind cause v true s
  | .engine f =>
    if stillBound s i then reportSoon k cause (orAflags k f s) else reportTo i.home i.rid k i.bind cause 0 true s
  | .forked f =>
    if stillBound s i then reportSoon k cause (orAflags k f s) else reportTo i.home i.rid k i.bind cause 0 true s

/-- R148: a trap of the thread itself waits while its record is held. -/
def markHeld (u : RecordUse) (k : Nat) (s : State) : State :=
  match u with
  | .vectorTrap => setThr s k { thr s k with heldTrap := true }
  | .scalarReport _ => setThr s k { thr s k with heldTrap := true }
  | _ => s

/-- R40, R147, R148: an engine or a core writes a progress record: now, or held until there is room, or discarded. -/
def writeRecord (u : RecordUse) (i : Issuer) (r : BitVec 512) (addrs : List Word) (s : State) : State :=
  if mustHold i addrs s then markHeld u i.thread (recordHold ⟨i, r, addrs, u⟩ s)
  else match recordWrite i r addrs s with
    | .ok (a, s) => recordDone u i r a s
    | .error _ => recordLost u i (recordCause r) s

/-- R142, R143: a fault raised by an instruction on the scalar side of the thread of a slot, at its present pc. When the trap
cannot be taken the core writes an ECLS 1 record before the report. -/
def scalarFault (k : Nat) (cause : BitVec 8) (val : Word) (ecls : Nat) (s : State) : State :=
  let t := thr s k
  if (t.hm = true ∨ t.tvec = 0) ∧ ecls = 0 then
    let i := issuerNow s k t.seq.pc
    writeRecord (.scalarReport val) i (mkRecord 1 0 cause i 0 (dieOfThread k) 0) [] s
  else trapTo k cause val ecls s

/-- R16, R18, R305: the program on a context or a copy engine stops at its present instruction with a cause; its record names
the program's issuer, `brow`, `vcur` and `chunk` are the cursor of an array instruction, and `fl` flags of R417. -/
def stopProgram (a : Agent) (cause : BitVec 8) (brow vcur chunk : Nat) (fl : BitVec 7) (s : State) : State :=
  match a with
  | .thread _ => s
  | .ctx c =>
    match (ctx s c).prog with
    | none => s
    | some p =>
      let i := { p.iss with pc := p.seq.pc }
      let s := setCtx (dropFailed (2 ^ 21 + c) s) c { ctx s c with prog := none }
      let s := setThr s i.thread { thr s i.thread with forks := (thr s i.thread).forks.filter (· != p.serial) }
      writeRecord (.forked fl) i (mkRecord 3 0 cause i (c % 2) (dieOfCore c) (faCursor (stageOf p.seq) brow vcur chunk)) [] s
  | .engine n =>
    match (engine s n).prog with
    | none => s
    | some p =>
      let i := { p.iss with pc := p.seq.pc }
      let s := setEngine (dropFailed (2 ^ 22 + n) s) n { engine s n with prog := none }
      let s := setThr s i.thread { thr s i.thread with forks := (thr s i.thread).forks.filter (· != p.serial) }
      writeRecord (.forked fl) i (mkRecord 4 0 cause i (n % 4) (n / 4) 0) [] s

/-- R142, R18: the instruction in progress raises a cause before any effect. On a thread, earlier vector queue entries come
first: while there are any, the scalar side waits at the instruction. -/
def raise (cause : BitVec 8) (val : Word) (s : State) : Out :=
  match s.cur with
  | .thread k => if (thr s k).vq.isEmpty then .next (scalarFault k cause val 0 s) else .next s
  | a => .next (stopProgram a cause 0 0 0 0 s)

/-- R130: the instruction in progress is a blocking wait that cannot complete: the slot waits, and the instruction runs again.
A sequencer of an engine waits at the instruction. -/
def blockOn (s : State) : Out :=
  match s.cur with
  | .thread k => .next (setThr s k { thr s k with st := .waiting })
  | _ => .next s

/-- The instruction in progress stalls: nothing changes, and it runs again. -/
def stall (s : State) : Out := .next s

end Sys2Proof.Machine
end

