-- ==== Sys2Proof/Machine/Scalar.lean ====
section
/-! DEFINITION. The scalar integer, branch and loop instructions: majors 0x01..0x0D but for memory (R156..R167), and the
hints of R63. Each runs on the current sequencer, of any kind (R61). -/

namespace Sys2Proof.Machine

/-- R156, R133: write `v` to register `d` and go on. -/
def writeOn (d : Fin 32) (v : Word) (s : State) : Out := .next (finish (setX s d v))

/-- R158: one or zero, the result of a comparison. -/
def boolWord (b : Bool) : Word := if b then 1 else 0

/-- R158: `add`. -/
def execAdd (d a b : Fin 32) (s : State) : Out := writeOn d (x s a + x s b) s
/-- R158: `sub`. -/
def execSub (d a b : Fin 32) (s : State) : Out := writeOn d (x s a - x s b) s
/-- R158: `and`. -/
def execAnd (d a b : Fin 32) (s : State) : Out := writeOn d (x s a &&& x s b) s
/-- R158: `or`. -/
def execOr (d a b : Fin 32) (s : State) : Out := writeOn d (x s a ||| x s b) s
/-- R158: `xor`. -/
def execXor (d a b : Fin 32) (s : State) : Out := writeOn d (x s a ^^^ x s b) s
/-- R158: `andn`. -/
def execAndn (d a b : Fin 32) (s : State) : Out := writeOn d (x s a &&& ~~~ x s b) s
/-- R158: a shift amount, bits 5:0. -/
def shiftAmount (b : Word) : Nat := b.toNat % 64
/-- R158: `sll`. -/
def execSll (d a b : Fin 32) (s : State) : Out := writeOn d (x s a <<< shiftAmount (x s b)) s
/-- R158: `srl`. -/
def execSrl (d a b : Fin 32) (s : State) : Out := writeOn d (x s a >>> shiftAmount (x s b)) s
/-- R158: `sra`. -/
def execSra (d a b : Fin 32) (s : State) : Out := writeOn d ((x s a).sshiftRight (shiftAmount (x s b))) s
/-- R158: `ror`. -/
def execRor (d a b : Fin 32) (s : State) : Out := writeOn d ((x s a).rotateRight (shiftAmount (x s b))) s
/-- R158: `slt.i64`. -/
def execSltI64 (d a b : Fin 32) (s : State) : Out := writeOn d (boolWord ((x s a).slt (x s b))) s
/-- R158: `slt.n64`. -/
def execSltN64 (d a b : Fin 32) (s : State) : Out := writeOn d (boolWord ((x s a).ult (x s b))) s
/-- R158: `min.i64`. -/
def execMinI64 (d a b : Fin 32) (s : State) : Out := writeOn d (if (x s b).slt (x s a) then x s b else x s a) s
/-- R158: `min.n64`. -/
def execMinN64 (d a b : Fin 32) (s : State) : Out := writeOn d (if (x s b).ult (x s a) then x s b else x s a) s
/-- R158: `max.i64`. -/
def execMaxI64 (d a b : Fin 32) (s : State) : Out := writeOn d (if (x s a).slt (x s b) then x s b else x s a) s
/-- R158: `max.n64`. -/
def execMaxN64 (d a b : Fin 32) (s : State) : Out := writeOn d (if (x s a).ult (x s b) then x s b else x s a) s

/-- R158: the number of zero bits of `v` below the lowest set bit among its `n` low bits, `n` when there is none. -/
def trailingZeros : Nat → Nat → Nat
  | 0, _ => 0
  | n + 1, v => if v % 2 = 1 then 0 else trailingZeros n (v / 2) + 1

/-- R158: the number of zero bits above the highest set bit of an `n`-bit value. -/
def leadingZeros : Nat → Nat → Nat
  | 0, _ => 0
  | n + 1, v => if v.testBit n then 0 else leadingZeros n v + 1

/-- R158: the number of set bits among the `n` low bits of `v`. -/
def bitCount : Nat → Nat → Nat
  | 0, _ => 0
  | n + 1, v => bitCount n (v / 2) + v % 2

/-- R158: `clz`. -/
def execClz (d a : Fin 32) (s : State) : Out := writeOn d (BitVec.ofNat 64 (leadingZeros 64 (x s a).toNat)) s
/-- R158: `ctz`. -/
def execCtz (d a : Fin 32) (s : State) : Out := writeOn d (BitVec.ofNat 64 (trailingZeros 64 (x s a).toNat)) s
/-- R158: `popc`. -/
def execPopc (d a : Fin 32) (s : State) : Out := writeOn d (BitVec.ofNat 64 (bitCount 64 (x s a).toNat)) s

/-- R163: `jalr`. A target that is not a multiple of 4 raises cause 0x03 with the target as `tval`. -/
def execJalr (d a : Fin 32) (s : State) : Out :=
  let t := x s a
  if t.toNat % 4 ≠ 0 then raise 0x03 t s
  else .next (jump .late t (setX s d (pcOf s + 4)))

/-- R166: `lidx`: the completed iterations of the level `k` above the innermost. -/
def execLidx (d : Fin 32) (k : Fin 6) (s : State) : Out :=
  match (curSeq s).loops.reverse[k.val]? with
  | some l => writeOn d (l.index.setWidth 64) s
  | none => raise 0x44 (tvalWord (.lidx d k)) s

/-- R167: `lbrk`: leave the innermost level and the `k` levels around it, then the end test at the word that ended it. -/
def execLbrk (k : Fin 6) (s : State) : Out :=
  let ls := (curSeq s).loops
  match ls[ls.length - 1 - k.val]? with
  | some l =>
    if k.val < ls.length then
      .next (loopEnd l.stop true (setLoops s (ls.take (ls.length - 1 - k.val))))
    else raise 0x44 (tvalWord (.lbrk k)) s
  | none => raise 0x44 (tvalWord (.lbrk k)) s

/-- R159: `addi`. -/
def execAddi (d a : Fin 32) (imm : BitVec 14) (s : State) : Out := writeOn d (x s a + imm.signExtend 64) s
/-- R159: `andi`. -/
def execAndi (d a : Fin 32) (imm : BitVec 11) (s : State) : Out := writeOn d (x s a &&& imm.signExtend 64) s
/-- R159: `ori`. -/
def execOri (d a : Fin 32) (imm : BitVec 11) (s : State) : Out := writeOn d (x s a ||| imm.signExtend 64) s
/-- R159: `xori`. -/
def execXori (d a : Fin 32) (imm : BitVec 11) (s : State) : Out := writeOn d (x s a ^^^ imm.signExtend 64) s
/-- R159: `slti.i64`. -/
def execSltiI64 (d a : Fin 32) (imm : BitVec 11) (s : State) : Out :=
  writeOn d (boolWord ((x s a).slt (imm.signExtend 64))) s
/-- R159: `slti.n64`. -/
def execSltiN64 (d a : Fin 32) (imm : BitVec 11) (s : State) : Out :=
  writeOn d (boolWord ((x s a).ult (imm.signExtend 64))) s
/-- R159: `slli`. -/
def execSlli (d a : Fin 32) (sh : Fin 64) (s : State) : Out := writeOn d (x s a <<< sh.val) s
/-- R159: `srli`. -/
def execSrli (d a : Fin 32) (sh : Fin 64) (s : State) : Out := writeOn d (x s a >>> sh.val) s
/-- R159: `srai`. -/
def execSrai (d a : Fin 32) (sh : Fin 64) (s : State) : Out := writeOn d ((x s a).sshiftRight sh.val) s
/-- R159: `lui`. -/
def execLui (d : Fin 32) (imm : BitVec 20) (s : State) : Out := writeOn d (imm.signExtend 64 <<< 12) s
/-- R159: `apc`, relative to its own address. -/
def execApc (d : Fin 32) (imm : BitVec 20) (s : State) : Out := writeOn d (pcOf s + (imm.signExtend 64 <<< 12)) s

/-- R160: `mul`. -/
def execMul (d a b : Fin 32) (s : State) : Out := writeOn d (x s a * x s b) s
/-- R160: `mulh.i64`. -/
def execMulhI64 (d a b : Fin 32) (s : State) : Out :=
  writeOn d (BitVec.ofInt 64 ((x s a).toInt * (x s b).toInt / 2 ^ 64)) s
/-- R160: `mulh.n64`. -/
def execMulhN64 (d a b : Fin 32) (s : State) : Out :=
  writeOn d (BitVec.ofNat 64 ((x s a).toNat * (x s b).toNat / 2 ^ 64)) s
/-- R160: the signed quotient, truncated toward zero; -1 by zero, and the most negative number by -1 gives itself. -/
def quotI64 (a b : Word) : Word := if b = 0 then -1 else BitVec.ofInt 64 (a.toInt.tdiv b.toInt)
/-- R160: the signed remainder, with the sign of the dividend; the dividend when the divisor is zero. -/
def remI64 (a b : Word) : Word := if b = 0 then a else BitVec.ofInt 64 (a.toInt.tmod b.toInt)
/-- R160: `div.i64`. -/
def execDivI64 (d a b : Fin 32) (s : State) : Out := writeOn d (quotI64 (x s a) (x s b)) s
/-- R160: `div.n64`. -/
def execDivN64 (d a b : Fin 32) (s : State) : Out :=
  writeOn d (if x s b = 0 then -1 else x s a / x s b) s
/-- R160: `rem.i64`. -/
def execRemI64 (d a b : Fin 32) (s : State) : Out := writeOn d (remI64 (x s a) (x s b)) s
/-- R160: `rem.n64`. -/
def execRemN64 (d a b : Fin 32) (s : State) : Out :=
  writeOn d (if x s b = 0 then x s a else x s a % x s b) s
/-- R160: `mul.i32`. -/
def execMulI32 (d a b : Fin 32) (s : State) : Out :=
  writeOn d (((x s a).setWidth 32 * (x s b).setWidth 32).signExtend 64) s

/-- R161: the position of a bit-field operand. -/
def fieldPos (b : Word) : Nat := b.toNat % 64
/-- R161: the width of a bit-field operand. -/
def fieldWidth (b : Word) : Nat := min (b.toNat / 256 % 128) (64 - fieldPos b)
/-- R161: bits `p+w-1 : p` of a word, as a number. -/
def fieldOf (a b : Word) : Nat := a.toNat / 2 ^ fieldPos b % 2 ^ fieldWidth b
/-- R161: `bfx.n64`. -/
def execBfxN64 (d a b : Fin 32) (s : State) : Out := writeOn d (BitVec.ofNat 64 (fieldOf (x s a) (x s b))) s
/-- R161: `bfx.i64`. -/
def execBfxI64 (d a b : Fin 32) (s : State) : Out :=
  let v := fieldOf (x s a) (x s b)
  let w := fieldWidth (x s b)
  writeOn d (if v.testBit (w - 1) then BitVec.ofInt 64 ((v : Int) - 2 ^ w) else BitVec.ofNat 64 v) s
/-- R161: the old value with bits `p+w-1 : p` replaced by the low bits of another. -/
def insertField (old a b : Word) : Word :=
  let m : Word := BitVec.ofNat 64 ((2 ^ fieldWidth b - 1) * 2 ^ fieldPos b)
  (old &&& ~~~ m) ||| ((a <<< fieldPos b) &&& m)
/-- R161: `bfi`. -/
def execBfi (d a b : Fin 32) (s : State) : Out := writeOn d (insertField (x s d) (x s a) (x s b)) s
/-- R161: the `n` low bytes of `v` in reverse order. -/
def reverseBytes : Nat → Nat → Nat
  | 0, _ => 0
  | n + 1, v => v % 256 * 256 ^ n + reverseBytes n (v / 256)
/-- R161: the `n` low bits of `v` in reverse order. -/
def reverseBits : Nat → Nat → Nat
  | 0, _ => 0
  | n + 1, v => v % 2 * 2 ^ n + reverseBits n (v / 2)
/-- R161: `bswap`. -/
def execBswap (d a : Fin 32) (s : State) : Out := writeOn d (BitVec.ofNat 64 (reverseBytes 8 (x s a).toNat)) s
/-- R161: `brev`. -/
def execBrev (d a : Fin 32) (s : State) : Out := writeOn d (BitVec.ofNat 64 (reverseBits 64 (x s a).toNat)) s

/-- R162: a conditional branch. -/
def branch (taken : Bool) (off : BitVec 14) (s : State) : Out :=
  if taken then
    let t := pcOf s + (off.signExtend 64 <<< 2)
    .next (jump (if t.toNat ≤ (pcOf s).toNat then .late else .none) t s)
  else .next (finish s)
/-- R162: `beq`. -/
def execBeq (a b : Fin 32) (off : BitVec 14) (s : State) : Out := branch (x s a == x s b) off s
/-- R162: `bne`. -/
def execBne (a b : Fin 32) (off : BitVec 14) (s : State) : Out := branch (x s a != x s b) off s
/-- R162: `blt.i64`. -/
def execBltI64 (a b : Fin 32) (off : BitVec 14) (s : State) : Out := branch ((x s a).slt (x s b)) off s
/-- R162: `bge.i64`. -/
def execBgeI64 (a b : Fin 32) (off : BitVec 14) (s : State) : Out := branch (!(x s a).slt (x s b)) off s
/-- R163: `jal`, linking into s31. -/
def execJal (off : BitVec 26) (s : State) : Out :=
  let t := pcOf s + (off.signExtend 64 <<< 2)
  .next (jump (if t.toNat ≤ (pcOf s).toNat then .late else .none) t (setX s 31 (pcOf s + 4)))

/-- R164: `loop`, by the word `i` that executes (R207 gives it when an old loop word is replaced). The hint has no effect. -/
def execLoop (c : Fin 32) (hint : Fin 7) (e : Fin 16384) (s : State) : Out :=
  let n := x s c
  let q := curSeq s
  let stop := q.pc + BitVec.ofNat 64 (4 * e.val)
  if n.toNat / 2 ^ 32 ≠ 0 then raise 0x44 (tvalWord (.loop c hint e)) s
  else if n = 0 then .next (loopEnd stop false s)
  else if 6 ≤ q.loops.length then raise 0x40 q.pc s
  else if outOfBody q.loops stop then raise 0x44 (tvalWord (.loop c hint e)) s
  else .next (setSeq s ⟨q.pc + 4, q.regs, q.loops ++ [⟨n.setWidth 32, 0, q.pc + 4, stop⟩], .none⟩)

/-- R63: `nop`. -/
def execNop (s : State) : Out := .next (finish s)
/-- R63: `hint k` changes nothing except the PC, whatever `k` is. -/
def execHint (k : Fin 67108864) (s : State) : Out := let _ := k; .next (finish s)

end Sys2Proof.Machine
end

