-- ==== Sys2Proof/Machine/Flags.lean ====
section
/-! DEFINITION. The sticky flags (R102), the element formats (R74..R86), and every rounding of an exact value to a format with
the flags it raises (R94..R97). -/

namespace Sys2Proof.Machine

/-! ## Flags (R102) -/

/-- The sticky flags, NV in bit 0 up to MB in bit 6. -/
abbrev Flags7 := BitVec 7
/-- R102: invalid operation. -/
def fNV : Flags7 := 1
/-- R102: division by zero. -/
def fDZ : Flags7 := 2
/-- R102: overflow. -/
def fOF : Flags7 := 4
/-- R102: underflow. -/
def fUF : Flags7 := 8
/-- R102: inexact. -/
def fNX : Flags7 := 16
/-- R102: saturation. -/
def fSAT : Flags7 := 32
/-- R102: modulus bound violated. -/
def fMB : Flags7 := 64
/-- A flag when a condition holds. -/
def fIf (b : Bool) (f : Flags7) : Flags7 := if b then f else 0

/-! ## Formats (R55, R77, R78) -/

/-- R55: the width in bits of an element format; 0 for a reserved code. -/
def fmtBits : Nat → Nat
  | 0 => 32 | 1 => 16 | 2 => 16 | 3 => 8 | 4 => 8 | 5 => 6 | 6 => 6 | 7 => 4 | 8 => 6 | 9 => 16
  | 10 => 8 | 11 => 16 | 12 => 32 | 13 => 64 | 14 => 8 | 15 => 16 | 16 => 32 | 17 => 64 | 18 => 4
  | _ => 0

/-- R78: the exponent bits, mantissa bits and bias of a floating format. -/
def fmtShape : Nat → Nat × Nat × Nat
  | 0 => (8, 23, 127) | 1 => (8, 7, 127) | 2 => (5, 10, 15) | 3 => (4, 3, 7) | 4 => (5, 2, 15)
  | 5 => (2, 3, 1) | 6 => (3, 2, 3) | _ => (2, 1, 1)

/-- R55: an integer format. -/
def fmtIsInt (f : Nat) : Bool := decide (10 ≤ f) && decide (f ≤ 18)
/-- R82: a signed integer format. -/
def fmtSigned (f : Nat) : Bool := f == 18 || (decide (10 ≤ f) && decide (f ≤ 13))
/-- R78: a floating format with infinities. -/
def fmtHasInf (f : Nat) : Bool := f == 0 || f == 1 || f == 2 || f == 4
/-- R94: the finite-only formats. -/
def fmtFiniteOnly (f : Nat) : Bool := f == 5 || f == 6 || f == 7 || f == 8 || f == 9 || fmtIsInt f
/-- R80: the canonical quiet NaN of a format. -/
def fmtNan : Nat → Nat
  | 0 => 0x7FC00000 | 1 => 0x7FC0 | 2 => 0x7E00 | 3 => 0x7F | 4 => 0x7E | _ => 0
/-- R78: the code of the largest finite magnitude. -/
def fmtMax : Nat → Nat
  | 0 => 0x7F7FFFFF | 1 => 0x7F7F | 2 => 0x7BFF | 3 => 0x7E | 4 => 0x7B | 5 => 0x1F | 6 => 0x1F | _ => 7
/-- R78: the code of positive infinity. -/
def fmtInf : Nat → Nat
  | 0 => 0x7F800000 | 1 => 0x7F80 | 2 => 0x7C00 | _ => 0x7C

/-! ## Values -/

/-- A value: NaN (signalling or not), an infinity, or the finite `(-1)^neg * m * 2^e`; zeros keep their sign. -/
inductive FVal where
  | nan (sig : Bool)
  | inf (neg : Bool)
  | fin (neg : Bool) (m : Nat) (e : Int)
  deriving DecidableEq, Repr

/-- R78, R80: the value of a code of a floating format. -/
def floatVal (f b : Nat) : FVal :=
  let sh := fmtShape f
  let eb := sh.1
  let mb := sh.2.1
  let s := b.testBit (eb + mb)
  let ex := b / 2 ^ mb % 2 ^ eb
  let m := b % 2 ^ mb
  if fmtHasInf f = true ∧ ex = 2 ^ eb - 1 then
    (if m = 0 then .inf s else .nan (f != 4 && !m.testBit (mb - 1)))
  else if f = 3 ∧ ex = 15 ∧ m = 7 then .nan false
  else if ex = 0 then .fin s m (1 - (sh.2.2 : Int) - mb)
  else .fin s (2 ^ mb + m) ((ex : Int) - sh.2.2 - mb)

/-- R84: the constants of LNS6 with 12 fraction bits. -/
def lnsT : Nat → Nat
  | 0 => 0x1000 | 1 => 0x1307 | 2 => 0x16A1 | _ => 0x1AE9

/-- R83, R84: the exact value of an LNS6 code. -/
def lnsVal (b : Nat) : FVal :=
  let m := b % 32
  if m = 0 then .fin false 0 0 else .fin (b.testBit 5) (lnsT (m % 4)) ((m / 4 : Nat) - 16)

/-- R82: an integer element as a signed number. -/
def intVal (f b : Nat) : Int :=
  if fmtSigned f then (if b.testBit (fmtBits f - 1) then (b : Int) - 2 ^ fmtBits f else b) else b

/-- The value of a number. -/
def ofInt (i : Int) : FVal := .fin (decide (i < 0)) i.natAbs 0

/-- The value of an element code of a format (R78, R82, R84). A bfp16 mantissa is taken as its integer. -/
def elemVal (f b : Nat) : FVal :=
  if fmtIsInt f then ofInt (intVal f b)
  else if f = 8 then lnsVal b
  else if f = 9 then ofInt (if b.testBit 15 then (b : Int) - 65536 else b)
  else floatVal f b

/-- R81: a value scaled by a power of two. -/
def scaleVal (v : FVal) (k : Int) : FVal :=
  match v with
  | .fin s m e => .fin s m (e + k)
  | v => v

/-- A finite value as a signed number of units of `2^u`, for `u` at most its exponent. -/
def unitsOf (neg : Bool) (m : Nat) (e u : Int) : Int :=
  let n : Int := m * 2 ^ (e - u).toNat
  if neg then -n else n

/-! ## Rounding (R95..R98) -/

/-- R75: the rounding modes. -/
abbrev RNE : Nat := 0

/-- R95, R97: a magnitude `m / 2^sh` rounded to an integer; `sr` is the stepped generator state of SR. -/
def roundShift (rm sr : Nat) (neg : Bool) (m sh : Nat) : Nat :=
  let q := m / 2 ^ sh
  let r := m % 2 ^ sh
  if r = 0 then q
  else
    let up := match rm with
      | 0 => decide (2 ^ sh < 2 * r) || (2 * r == 2 ^ sh && q % 2 == 1)
      | 1 => false
      | 2 => neg
      | 3 => !neg
      | 4 => decide (2 ^ sh ≤ 2 * r)
      | _ => decide (sr < (if sh ≤ 32 then r * 2 ^ (32 - sh) else r / 2 ^ (sh - 32)))
    if up then q + 1 else q

/-- A magnitude `m * 2^e` rounded to a multiple of `2^q`, in units of `2^q`, with whether it was inexact. -/
def roundTo (rm sr : Nat) (neg : Bool) (m : Nat) (e q : Int) : Nat × Bool :=
  if q ≤ e then (m * 2 ^ (e - q).toNat, false)
  else (roundShift rm sr neg m (q - e).toNat, m % 2 ^ (q - e).toNat != 0)

/-- R78: the exponent of the unit in the last place that a magnitude `m * 2^e` has in a floating format. -/
def ulpExp (f m : Nat) (e : Int) : Int :=
  let sh := fmtShape f
  max ((Nat.log2 m : Int) + e) (1 - (sh.2.2 : Int)) - sh.2.1

/-- The code, without sign, of the magnitude `n * 2^q` of a floating format, where `q` is its unit in the last place and
`n` at most `2^(mb+1)`; the result may exceed the largest finite code. -/
def magCode (f n : Nat) (q : Int) : Nat :=
  let sh := fmtShape f
  if n < 2 ^ sh.2.1 then n
  else (q + sh.2.1 + sh.2.2).toNat * 2 ^ sh.2.1 + (n - 2 ^ sh.2.1)

/-- The sign bit of a floating format. -/
def signCode (f : Nat) (neg : Bool) : Nat := if neg then 2 ^ (fmtBits f - 1) else 0

/-- R95, R96, R94: round a finite value to a floating format: the code and the flags. A format with an infinity overflows when
the value after rounding, with its exponent unbounded, lies beyond the largest finite. (DEDUCED: log entry 20.) -/
def rndFloat (f rm sr : Nat) (neg : Bool) (m : Nat) (e : Int) : Nat × Flags7 :=
  if m = 0 then (signCode f neg, 0)
  else
    let q := ulpExp f m e
    let r := roundTo rm sr neg m e q
    let c := magCode f r.1 q
    let judged := if rm = 5 then magCode f (roundTo 0 0 neg m e q).1 q else c
    if fmtMax f < judged then
      let toInf := fmtHasInf f && (rm == 0 || rm == 4 || rm == 5 || (rm == 2 && neg) || (rm == 3 && !neg))
      (signCode f neg + (if toInf then fmtInf f else fmtMax f), fOF ||| fNX)
    else
      let c' := min c (fmtMax f)
      let sub := c' != 0 && decide (c' < 2 ^ (fmtShape f).2.1) && r.2
      (signCode f neg + c', fIf r.2 fNX ||| fIf sub fUF)

/-- R95..R97: round a finite value to an integer format: the code and the flags. Under SR its overflow is that of RNE.
(DEDUCED: log entry 20.) -/
def rndInt (f rm sr : Nat) (neg : Bool) (m : Nat) (e : Int) : Nat × Flags7 :=
  let r := roundTo rm sr neg m e 0
  let signed := fun (n : Nat) => if neg then -(n : Int) else (n : Int)
  let v : Int := signed r.1
  let judged : Int := if rm = 5 then signed (roundTo 0 0 neg m e 0).1 else v
  let n := fmtBits f
  let lo : Int := if fmtSigned f then -(2 ^ (n - 1)) else 0
  let hi : Int := if fmtSigned f then 2 ^ (n - 1) - 1 else 2 ^ n - 1
  let beyond := decide (judged < lo) || decide (hi < judged)
  let w := max lo (min hi (if beyond then judged else v))
  ((w % 2 ^ n).toNat, fIf beyond (fOF ||| fNX) ||| fIf r.2 fNX)

/-- R85: a finite value to LNS6. -/
def rndLns (neg : Bool) (m : Nat) (e : Int) : Nat × Flags7 :=
  if m = 0 then (0, 0)
  else
    let l : Int := ((Nat.log2 (m ^ 8) : Int) + 8 * e + 1) / 2
    if l < -15 then (0, fUF ||| fNX)
    else
      let l' := min l 15
      let c := (l' + 16).toNat
      let exact := match lnsVal c with
        | .fin _ m' e' => unitsOf false m e (min e e') == unitsOf false m' e' (min e e')
        | _ => false
      ((if neg then 32 else 0) + c, fIf (decide (15 < l)) fOF ||| fIf (!exact) fNX)

/-- R85, R94: the largest magnitude of a sign in a format without infinity. -/
def largestOf (f : Nat) (neg : Bool) : Nat :=
  if fmtIsInt f then
    (if fmtSigned f then (if neg then 2 ^ (fmtBits f - 1) else 2 ^ (fmtBits f - 1) - 1)
     else if neg then 0 else 2 ^ fmtBits f - 1)
  else if f = 8 then (if neg then 63 else 31)
  else signCode f neg + fmtMax f

/-- R74, R94..R96: round a value to a format: the code, the flags, and whether a NaN met a finite-only format (which clears
the block's validity where `bvalid` is consulted). -/
def rndTo (f rm sr : Nat) (v : FVal) : Nat × Flags7 × Bool :=
  match v with
  | .nan sig =>
    if fmtFiniteOnly f then (0, fNV, true) else (fmtNan f, fIf sig fNV, false)
  | .inf neg =>
    if fmtHasInf f then (signCode f neg + fmtInf f, 0, false) else (largestOf f neg, fOF, false)
  | .fin neg m e =>
    let r := if fmtIsInt f then rndInt f rm sr neg m e else if f = 8 then rndLns neg m e else rndFloat f rm sr neg m e
    (r.1, r.2, false)

end Sys2Proof.Machine
end

