-- ==== Sys2Proof/Machine/Num.lean ====
section
/-! DEFINITION. Exact arithmetic over formats (R74..R104): sums, products, conversions, LNS6, BFP16, modular residues, the
factor array's sums and EXP2. -/

namespace Sys2Proof.Machine

/-! ## Exact operations -/

/-- The value with its sign inverted. -/
def negVal : FVal → FVal
  | .nan s => .nan s
  | .inf n => .inf (!n)
  | .fin n m e => .fin (!n) m e

/-- A value is a signalling NaN. -/
def isSig : FVal → Bool
  | .nan s => s
  | _ => false

/-- A value is a NaN. -/
def isNanV : FVal → Bool
  | .nan _ => true
  | _ => false

/-- R95: the sign of an exact zero sum: that of equal signs, else minus only under RDN. -/
def zeroSign (rm : Nat) (a b : Bool) : Bool := if a = b then a else rm == 2

/-- R95, R96: the exact sum of two values; the flags are those of an invalid operation. -/
def addVal (rm : Nat) (a b : FVal) : FVal × Flags7 :=
  match a, b with
  | .nan s, y => (.nan false, fIf (s || isSig y) fNV)
  | x, .nan s => (.nan false, fIf (s || isSig x) fNV)
  | .inf s, .inf t => if s = t then (.inf s, 0) else (.nan false, fNV)
  | .inf s, _ => (.inf s, 0)
  | _, .inf t => (.inf t, 0)
  | .fin s m e, .fin t n g =>
    let u := min e g
    let z := unitsOf s m e u + unitsOf t n g u
    if z = 0 then (.fin (if m = 0 ∧ n = 0 then zeroSign rm s t else rm == 2) 0 0, 0)
    else (.fin (decide (z < 0)) z.natAbs u, 0)

/-- R96: the exact product of two values. -/
def mulVal (a b : FVal) : FVal × Flags7 :=
  match a, b with
  | .nan s, y => (.nan false, fIf (s || isSig y) fNV)
  | x, .nan s => (.nan false, fIf (s || isSig x) fNV)
  | .inf s, .inf t => (.inf (s != t), 0)
  | .inf s, .fin t m _ => if m = 0 then (.nan false, fNV) else (.inf (s != t), 0)
  | .fin s m _, .inf t => if m = 0 then (.nan false, fNV) else (.inf (s != t), 0)
  | .fin s m e, .fin t n g => (.fin (s != t) (m * n) (e + g), 0)

/-- R96: the quotient of two values, with at least 100 bits and the rest folded into the lowest bit. -/
def divVal (a b : FVal) : FVal × Flags7 :=
  match a, b with
  | .nan s, y => (.nan false, fIf (s || isSig y) fNV)
  | x, .nan s => (.nan false, fIf (s || isSig x) fNV)
  | .inf _, .inf _ => (.nan false, fNV)
  | .inf s, .fin t _ _ => (.inf (s != t), 0)
  | .fin s _ _, .inf t => (.fin (s != t) 0 0, 0)
  | .fin s m e, .fin t n g =>
    if n = 0 then (if m = 0 then (.nan false, fNV) else (.inf (s != t), fDZ))
    else
      let k := 100 + Nat.log2 n
      let q := m * 2 ^ k / n
      (.fin (s != t) (2 * q + (if m * 2 ^ k % n = 0 then 0 else 1)) (e - g - k - 1), 0)

/-- The integer square root of a number below `4^n`, digit by digit. -/
def isqrt : Nat → Nat → Nat
  | 0, _ => 0
  | n + 1, v =>
    let r := 2 * isqrt n (v / 4)
    if (r + 1) * (r + 1) ≤ v then r + 1 else r

/-- R96, R223: the square root of a value, with at least 100 bits and the rest folded into the lowest bit. -/
def sqrtVal (a : FVal) : FVal × Flags7 :=
  match a with
  | .nan s => (.nan false, fIf s fNV)
  | .inf s => if s then (.nan false, fNV) else (.inf false, 0)
  | .fin s m e =>
    if m = 0 then (.fin s 0 0, 0)
    else if s then (.nan false, fNV)
    else
      let e' := if e % 2 = 0 then e else e - 1
      let m' := if e % 2 = 0 then m else 2 * m
      let v := m' * 4 ^ 100
      let r := isqrt (Nat.log2 v / 2 + 1) v
      (.fin false (2 * r + (if r * r = v then 0 else 1)) (e' / 2 - 101), 0)

/-- An order on values that are no NaN: less than, with -0 below +0 when `z` is true. -/
def ltVal (z : Bool) (a b : FVal) : Bool :=
  match a, b with
  | .nan _, _ => false
  | _, .nan _ => false
  | .inf s, .inf t => s && !t
  | .inf s, _ => s
  | _, .inf t => !t
  | .fin s m e, .fin t n g =>
    let u := min e g
    let x := unitsOf s m e u
    let y := unitsOf t n g u
    decide (x < y) || (z && m == 0 && n == 0 && s && !t)

/-- R230: equality of values that are no NaN; -0 equals +0. -/
def eqVal (a b : FVal) : Bool :=
  match a, b with
  | .nan _, _ => false
  | _, .nan _ => false
  | .inf s, .inf t => s == t
  | .fin s m e, .fin t n g => unitsOf s m e (min e g) == unitsOf t n g (min e g)
  | _, _ => false

/-- The magnitude of a value. -/
def absVal : FVal → FVal
  | .nan s => .nan s
  | .inf _ => .inf false
  | .fin _ m e => .fin false m e

/-- R224: the lesser (or greater) of two codes of a floating format: the code and the flags. -/
def minMaxCode (f : Nat) (wantMax : Bool) (a b : Nat) : Nat × Flags7 :=
  let x := floatVal f a
  let y := floatVal f b
  let fl := fIf (isSig x || isSig y) fNV
  if isNanV x = true ∧ isNanV y = true then (fmtNan f, fl)
  else if isNanV x then (b, fl)
  else if isNanV y then (a, fl)
  else if wantMax then (if ltVal true x y then b else a, fl)
  else (if ltVal true y x then b else a, fl)

/-- A rounded sum of two codes of one floating format (R95, R96). -/
def addCode (f rm sr a b : Nat) : Nat × Flags7 :=
  let v := addVal rm (floatVal f a) (floatVal f b)
  let r := rndTo f rm sr v.1
  (r.1, v.2 ||| r.2.1)

/-- A rounded product of two codes of one floating format (R95, R96). -/
def mulCode (f rm sr a b : Nat) : Nat × Flags7 :=
  let v := mulVal (floatVal f a) (floatVal f b)
  let r := rndTo f rm sr v.1
  (r.1, v.2 ||| r.2.1)

/-- R74: `cvt` of an element code of one format to another: the code, the flags, and whether a NaN met a finite-only format. -/
def cvtCode (src dst rm sr b : Nat) : Nat × Flags7 × Bool :=
  let v := elemVal src b
  let r := rndTo dst rm sr v
  (r.1, r.2.1 ||| fIf (isSig v) fNV, r.2.2)

/-- R97: one step of a lane's generator. -/
def srStep (st : BitVec 32) : BitVec 32 :=
  if st.getLsbD 0 then (st >>> 1) ^^^ 0x80200003 else st >>> 1

/-! ## LNS6 (R83, R84) -/

/-- R83: the product of two codes. -/
def lnsMul (a b : Nat) : Nat × Flags7 :=
  let ma := a % 32
  let mb := b % 32
  if ma = 0 ∨ mb = 0 then (0, 0)
  else
    let s := (a / 32 % 2 + b / 32 % 2) % 2
    let l : Int := (ma : Int) - 16 + ((mb : Int) - 16)
    if l < -15 then (0, fUF)
    else if 15 < l then (32 * s + 31, fSAT)
    else (32 * s + (l + 16).toNat, 0)

/-- R84: a code as a signed integer in units of 2^-28. -/
def lnsTerm (a : Nat) : Int :=
  let m := a % 32
  if m = 0 then 0
  else
    let t : Int := lnsT (m % 4) * 2 ^ (m / 4 + 12)
    if a.testBit 5 then -t else t

/-- R84, R100: a sum clamped to the signed 64-bit range, with SAT when clamped. -/
def sat64 (v : Int) : Int × Flags7 :=
  if v < -(2 ^ 63) then (-(2 ^ 63), fSAT) else if 2 ^ 63 - 1 < v then (2 ^ 63 - 1, fSAT) else (v, 0)

/-- R84: the sum of terms into the 64-bit accumulator, in order. -/
def satSum (l : List Int) (acc : Int) : Int × Flags7 :=
  l.foldl (fun a t => let r := sat64 (a.1 + t); (r.1, a.2 ||| r.2)) (acc, 0)

/-- R84: the readout of the accumulator as f32. -/
def lnsReadout (acc : Int) : Nat × Flags7 := rndFloat 0 RNE 0 (decide (acc < 0)) acc.natAbs (-28)

/-! ## BFP16 (R86..R90, R235) -/

/-- An integer divided by a power of two and rounded by RNE. -/
def divRne (v : Int) (sh : Nat) : Int :=
  let r := roundShift 0 0 (decide (v < 0)) v.natAbs sh
  if v < 0 then -(r : Int) else r

/-- R88: STATIC mantissas of a block of sums with growth `g`. -/
def bfpStatic (acc : List Int) (g : Nat) : List Int × Flags7 :=
  let r := acc.map (fun a =>
    let m := divRne a (15 + g)
    let c := max (-32768) (min 32767 m)
    (c, c != m, c * 2 ^ (15 + g) != a))
  (r.map (·.1), fIf (r.any (·.2.1)) fSAT ||| fIf (r.any (·.2.2)) fNX)

/-- R90: the mantissas of a block of sums for a growth that may be negative, and whether one is inexact. -/
def bfpRound (acc : List Int) (g : Int) : List Int × Bool :=
  if 0 ≤ 15 + g then
    (acc.map (fun a => divRne a (15 + g).toNat), acc.any (fun a => divRne a (15 + g).toNat * 2 ^ (15 + g).toNat != a))
  else (acc.map (fun a => a * 2 ^ (-(15 + g)).toNat), false)

/-- R90: MEASURED mantissas of a block of sums, the growth and the flags. -/
def bfpMeas (acc : List Int) : List Int × Int × Flags7 :=
  if acc.all (· == 0) then (acc.map (fun _ => 0), 0, 0)
  else
    let k := (acc.map (fun a => if 0 ≤ a then a.natAbs else (-a - 1).natAbs)).foldl max 0
    let n : Nat := if k = 0 then 0 else Nat.log2 k
    let g : Int := (n : Int) - 29
    let r := bfpRound acc g
    if r.1.any (· == 32768) then
      let r2 := bfpRound acc (g + 1)
      (r2.1, g + 1, fIf r2.2 fNX)
    else (r.1, g, fIf r.2 fNX)

/-- R87: the exponent byte and mantissas of a block after the limits of its exponent. -/
def bfpLimit (x : Int) (ms : List Int) (fl : Flags7) : Nat × List Int × Flags7 :=
  if 127 < x then (0x80, ms.map (fun _ => 0), fl ||| fOF)
  else if x < -127 then (0x81, ms.map (fun _ => 0), fl ||| fUF)
  else ((x % 256).toNat, ms, fl)

/-- R89: `bfp_bound` of a block given as its rows of mantissas; 8 when no bound exists. -/
def bfpBound (rows : List (List Int)) : Nat :=
  let s := (rows.map (fun r => (r.map Int.natAbs).foldl (· + ·) 0)).foldl max 0
  ((List.range 8).find? (fun b => decide (s ≤ 2 ^ (15 + b)))).getD 8

/-- R86: the exponent of a bfp16 block byte; the code 0x80 marks an invalid block. -/
def bfpExp (b : Nat) : Int := if b < 128 then b else (b : Int) - 256

/-- R235: the mantissas of a block of finite values for an exponent, and whether one is inexact. -/
def bfpFrom (vs : List (Bool × Nat × Int)) (k : Int) : List Int × Bool :=
  let r := vs.map (fun v => let q := roundTo 0 0 v.1 v.2.1 (v.2.2 + 15 - k) 0; ((if v.1 then -(q.1 : Int) else q.1), q.2))
  (r.map (·.1), r.any (·.2))

/-- R235: a block of values converted to bfp16: the exponent byte, the mantissas and the flags. `bad` says that an element
fails the validity rule of R209. -/
def bfpConvert (vs : List FVal) (bad : Bool) : Nat × List Int × Flags7 :=
  let fins := vs.filterMap (fun v => match v with | .fin s m e => some (s, m, e) | _ => none)
  let anyNan := vs.any isNanV
  let anyInf := vs.any (fun v => match v with | .inf _ => true | _ => false)
  if bad = true ∨ anyNan = true ∨ anyInf = true then
    (0x80, vs.map (fun _ => 0), fIf anyNan fNV ||| fIf anyInf fOF)
  else
    let nz := fins.filter (fun v => v.2.1 != 0)
    match nz with
    | [] => (0, vs.map (fun _ => 0), 0)
    | v :: l =>
      let top := l.foldl (fun a w => max a ((Nat.log2 w.2.1 : Int) + w.2.2)) ((Nat.log2 v.2.1 : Int) + v.2.2)
      let k := max (top + 1) (-127)
      let r := bfpFrom fins k
      let k2 := if r.1.any (· == 32768) then k + 1 else k
      let r2 := if r.1.any (· == 32768) then bfpFrom fins (k + 1) else r
      if 127 < k2 then (0x80, vs.map (fun _ => 0), fOF ||| fIf r2.2 fNX)
      else ((k2 % 256).toNat, r2.1, fIf r2.2 fNX ||| fIf (r2.2 && k2 == -127) fUF)

/-! ## Modular residues (R91..R93) -/

/-- R91: `modred(x, p)`, with `mu` derived from `p`. -/
def modred (v p : Nat) : Nat :=
  let q := v * (2 ^ 62 / p) / 2 ^ 62
  let r := v - q * p
  let r := if p ≤ r then r - p else r
  if p ≤ r then r - p else r

/-- R92: the signed value of a residue. -/
def msigned (r p : Nat) : Int := if r ≤ (p - 1) / 2 then r else (r : Int) - p

/-- Extended Euclid by fuel: the coefficient of `a` in `gcd(a, b)`, and the gcd. -/
def egcd : Nat → Int → Int → Int → Int → Int × Int
  | 0, r0, _, s0, _ => (s0, r0)
  | n + 1, r0, r1, s0, s1 => if r1 = 0 then (s0, r0) else egcd n r1 (r0 % r1) s1 (s0 - r0 / r1 * s1)

/-- R93: reconstruct a value from two residues. -/
def crt2 (r1 r2 p1 p2 : Nat) : Int :=
  let u : Int := (egcd 100 p1 p2 1 0).1 % (p2 : Int)
  let t : Int := (((r2 : Int) - r1) % (p2 : Int) * u) % (p2 : Int)
  let v : Int := (r1 : Int) + (p1 : Int) * t
  if (((p1 * p2 - 1) / 2 : Nat) : Int) < v then v - (p1 : Int) * (p2 : Int) else v

/-! ## Factor array sums and EXP2 (R99, R101) -/

/-- R99: `group_sum` of a group of products, in index order, over a window of `w` bits: the f32 code and the flags. -/
def groupSum (ps : List FVal) (w : Nat) : Nat × Flags7 :=
  let anyNan := ps.any isNanV
  let pInf := ps.any (· == .inf false)
  let nInf := ps.any (· == .inf true)
  if anyNan = true ∨ (pInf = true ∧ nInf = true) then (fmtNan 0, fNV)
  else if pInf then (fmtInf 0, 0)
  else if nInf then (signCode 0 true + fmtInf 0, 0)
  else
    let fins : List (Bool × Nat × Int) := ps.filterMap (fun v => match v with | .fin s m e => if m = 0 then none else some (s, m, e) | _ => none)
    match fins with
    | [] => (0, 0)
    | v :: l =>
      let top := l.foldl (fun a t => max a ((Nat.log2 t.2.1 : Int) + t.2.2)) ((Nat.log2 v.2.1 : Int) + v.2.2)
      let u := top - w + 7
      let ts : List (Bool × Nat × Bool) := fins.map (fun t =>
        if u ≤ t.2.2 then (t.1, t.2.1 * 2 ^ (t.2.2 - u).toNat, false)
        else (t.1, t.2.1 / 2 ^ (u - t.2.2).toNat, t.2.1 % 2 ^ (u - t.2.2).toNat != 0))
      let sum : Int := (ts.map (fun t => if t.1 then -(t.2.1 : Int) else (t.2.1 : Int))).foldl (· + ·) 0
      if sum = 0 then (0, 0)
      else
        let sticky := if ts.any (·.2.2) then 1 else 0
        rndFloat 0 RNE 0 (decide (sum < 0)) (2 * sum.natAbs + sticky) (u - 1)

/-- The groups of a list, `n` at a time, by fuel. -/
def chunksOf {α : Type} (n : Nat) : Nat → List α → List (List α)
  | 0, _ => []
  | k + 1, l => if l.isEmpty then [] else l.take n :: chunksOf n k (l.drop n)

/-- R99, R242: groups summed and added in ascending order into an f32 accumulator. -/
def addGroups (gs : List (List FVal)) (w acc : Nat) : Nat × Flags7 :=
  gs.foldl (fun a g => let s := groupSum g w; let r := addCode 0 RNE 0 a.1 s.1; (r.1, a.2 ||| s.2 ||| r.2)) (acc, 0)

/-- R101: 2^(h/256) * 2^23 rounded to the nearest integer. The value is the 256th root of `2^(h + 256 * 23)`, taken as eight
square roots of a number with enough bits that the nearest integer is decided. -/
def exp2Table (h : Nat) : Nat :=
  if h = 0 then 2 ^ 23
  else
    let v := (List.range 8).foldl (fun v _ => isqrt 4000 v) (2 ^ (h + 256 * 24))
    (v + 1) / 2

/-- R101: `exp2` of an f32 code. -/
def exp2Code (b : Nat) : Nat × Flags7 :=
  match floatVal 0 b with
  | .nan s => (fmtNan 0, fIf s fNV)
  | .inf s => if s then (0, fUF ||| fNX) else (fmtInf 0, 0)
  | .fin s m e =>
    let v24 : Int := if 0 ≤ e + 24 then unitsOf s m e (-24)
      else (if s then -(m : Int) else m) / 2 ^ (-(e + 24)).toNat
    let isInt := if 0 ≤ e then true else m % 2 ^ (-e).toNat == 0
    if ltVal false (.fin s m e) (.fin true 151 0) then (0, fUF ||| fNX)
    else if !ltVal false (.fin s m e) (.fin false 128 0) then (fmtInf 0, fOF ||| fNX)
    else
      let n := v24 / 2 ^ 24
      let f := (v24 % 2 ^ 24).toNat
      let h := f / 65536
      let d := f % 65536
      let q := 2 ^ 32 + 0xB172 * d / 256 + 0x3D7F * d * d / 2 ^ 32
      let mm := roundShift 0 0 false (exp2Table h * q) 32
      let r := rndFloat 0 RNE 0 false mm (n - 23)
      let exact := isInt && decide (-149 ≤ n) && decide (n ≤ 127)
      (r.1, if exact then r.2 &&& ~~~ fNX else r.2 ||| fNX)

end Sys2Proof.Machine
end

