-- ==== Sys2Proof/Machine/IqBase.lean ====
section
/-! DEFINITION. Incremental queues (R359..R365): the table of declared queues, their declaration blocks and graph
descriptors in memory. -/

namespace Sys2Proof.Machine

/-- A declared queue. -/
def iqAt (s : State) (key : Nat) : Option Iq := tabGet none s.iqs key
/-- Write the entry of a queue number. -/
def setIqRaw (key : Nat) (q : Option Iq) (s : State) : State := { s with iqs := tabSet none s.iqs key q }

/-- R361: the handle of a queue. -/
def handleOf (key : Nat) : Nat := key % 256 + key / 256 % 32 * 2 ^ 8 + key / 8192 * 2 ^ 13
/-- R361, R368: the queue that a handle names. -/
def keyOfHandle (h : Nat) : Nat := (h / 2 ^ 13 * 32 + h / 2 ^ 8 % 32) * 256 + h % 256

/-- R362: bytes 32 .. 63 of a declaration block: the read-only fields. -/
def qdrRo (key : Nat) (q : Iq) : Nat :=
  handleOf key + q.front.toNat * 2 ^ 64 + q.qthru.toNat * 2 ^ 80 + q.nextd.toNat * 2 ^ 96 + q.avail.toNat * 2 ^ 112
    + q.held.toNat * 2 ^ 113 + q.qstate % 4 * 2 ^ 114 + q.need % 2 ^ 32 * 2 ^ 128 + q.pend % 2 ^ 32 * 2 ^ 160
    + q.satcnt % 2 ^ 32 * 2 ^ 192

/-- R362: the hayrake writes the read-only fields of a queue's block. -/
def qdrWrite (key : Nat) (q : Iq) (s : State) : State := writePlain s (q.qdr + 32) 32 (qdrRo key q)

/-- A queue changed, with its block in memory. -/
def setIq (key : Nat) (q : Iq) (s : State) : State := qdrWrite key q (setIqRaw key (some q) s)

/-- The queues that are declared, with their keys. -/
def declared (s : State) : List (Nat × Iq) := s.iqs.filterMap (fun p => p.2.map (fun q => (p.1, q)))

/-- R362, R382: a store of `n` bytes leaves the read-only fields of live blocks and graph descriptors as they were in the
state `o` before it; a store to the DCAP word of a queue whose delivery was refused sets it to be tried again (R374). -/
def iqProtect (o : State) (pa n : Nat) (s : State) : State :=
  (declared o).foldl (fun s p =>
    let q := p.2
    let s := match q.gdesc with
      | some (g, _) => if pa < g + 12 ∧ g + 8 < pa + n then writeMem s (g + 8) 4 (readMem o (g + 8) 4) else s
      | none => s
    if pa < q.qdr + 64 ∧ q.qdr + 24 < pa + n then
      if q.qstate = 2 ∧ pa < q.qdr + 28 then setIq p.1 { q with qstate := 1, retry := true } s
      else qdrWrite p.1 q s
    else s) s

/-- R372: the records that the hayrake of a die holds. (DESIGN CHOICE: log entry 49.) -/
def hayHeld (s : State) (die : Nat) : Nat :=
  ((declared s).filter (fun p => p.1 / 256 == die)).foldl (fun n p =>
    n + p.2.recs.length + (p.2.stages.map (fun g => g.recs.length)).foldl (· + ·) 0) 0

/-- R372: the hayrake of a die has room for one more record. -/
def hayRoom (s : State) (die : Nat) : Bool :=
  decide (hayHeld s die < 32768 + readMem s (windowBase die + 0x800008) 3)

/-- R372: HELDREC and STALLS of a hayrake's block follow what it holds. -/
def hayStat (die : Nat) (s : State) : State :=
  writeMem s (windowBase die + 0x800010) 8 (hayHeld s die % 2 ^ 32 + min (tabGet 0 s.hayStalls die) (2 ^ 32 - 1) * 2 ^ 32)

/-- R389: a packet of any kind from a die reaches a device: the first one of a newer epoch discards the incomplete staging sets of the die
there. -/
def dropStale (die dest : Nat) (s : State) : State :=
  let e := (pair s die dest).epoch
  (declared s).foldl (fun s d =>
    if devOfDie (d.1 / 256) = dest ∧ d.2.stages.any (fun g => g.die == die && g.epoch != e) then
      hayStat (d.1 / 256) (setIqRaw d.1 (some { d.2 with stages := d.2.stages.filter (fun g => !(g.die == die && g.epoch != e)) }) s)
    else s) s

/-- R360: batch `a` precedes batch `b`. -/
def precedes (a b : BitVec 16) : Bool := (b - a) != 0 && (b - a).ult 0x8000
/-- R360: `a` precedes `b` or is it. -/
def precedesEq (a b : BitVec 16) : Bool := a == b || precedes a b

/-! ## Graphs (R382, R383) -/

/-- R382: NDECL. -/
def graphNdecl (s : State) (g : Nat) : Nat := bitsOf (readMem s g 16) 92 80
/-- R382: NQM1. -/
def graphNqm1 (s : State) (g : Nat) : Nat := bitsOf (readMem s g 16) 11 0
/-- R382: GTHRU. -/
def graphThru (s : State) (g : Nat) : BitVec 16 := BitVec.ofNat 16 (readMem s (g + 8) 2)

/-- R383: the value of GTHRU after a slot update. -/
def graphNext (s : State) (g : Nat) : BitVec 16 :=
  let cur := graphThru s g
  if graphNdecl s g = graphNqm1 s g + 1 then
    ((List.range (graphNqm1 s g + 1)).map (fun j => BitVec.ofNat 16 (readMem s (g + 64 + 4 * j) 2))).foldl
      (fun (m : BitVec 16) t => if (t - cur).toNat < (m - cur).toNat then t else m) (cur - 1)
  else BitVec.ofNat 16 (readMem s (g + 4) 2) - 1

/-- R383: the region that receives event 0x6F: that of the thread that declared the queue of index 0, and the address it
gave. -/
def graphOwner (s : State) (g : Nat) : Option (Issuer × Word) :=
  (declared s).findSome? (fun p => match p.2.gdesc with
    | some (a, va) => if a = g ∧ p.2.qix = 0 then some (p.2.iss, va) else none
    | none => none)

/-- R383: the bank sets GTHRU after a slot update, and with `tell` tells of an advance. -/
def graphUpdate (g : Nat) (tell : Bool) (s : State) : State :=
  let old := graphThru s g
  let v := graphNext s g
  let s := writePlain s (g + 8) 2 v.toNat
  if tell = true ∧ v ≠ old ∧ precedes old v = true ∧ graphNdecl s g = graphNqm1 s g + 1 ∧ (readMem s g 4).testBit 12 = true then
    (match graphOwner s g with
      | some (i, va) => reportTo i.home i.rid 4095 0 0x6F va true s
      | none => s)
  else s

/-- R383: a queue's QTHRU is written to its slot. -/
def slotWrite (q : Iq) (s : State) : State :=
  match q.gdesc with
  | none => s
  | some (g, _) => graphUpdate g true (writePlain s (g + 64 + 4 * q.qix) 4 (q.qthru.toNat + 2 ^ 16))

end Sys2Proof.Machine
end

