-- ==== Sys2Proof/Machine/Link.lean ====
section
/-! DEFINITION. Counted writes on the fabric (R331..R345): paths, packets, what performing and acknowledging one does. -/

namespace Sys2Proof.Machine

/-- R332: the hops of a path through devices given as (row, column), as the list of devices it visits. -/
def pathDevices (src dst : Nat) (mid : Nat) : Nat → List Nat
  | 0 => [src, src / 16 * 16 + dst % 16, dst]
  | 1 => [src, dst / 16 * 16 + src % 16, dst]
  | 2 => [src, mid * 16 + src % 16, mid * 16 + dst % 16, dst]
  | _ => [src, src / 16 * 16 + mid, dst / 16 * 16 + mid, dst]

/-- R331: the port of a device that joins it to a peer in its row or column. -/
def portTo (me peer : Nat) : Nat :=
  if me / 16 = peer / 16 then (if peer % 16 < me % 16 then peer % 16 else peer % 16 - 1)
  else 15 + (if peer / 16 < me / 16 then peer / 16 else peer / 16 - 1)

/-- R334: the PORT30 register of a device, in die 0's link block. -/
def port30 (s : State) (dev : Nat) : Nat := readMem s (windowBase (dev * 32) + 0x500088) 8

/-- R331: the port that carries the traffic of a peer port: port 30 while it takes its place. -/
def carrier (s : State) (dev p : Nat) : Nat := if (port30 s dev).testBit 5 = true ∧ port30 s dev % 32 = p then 30 else p

/-- R331: the link between two devices of a row or column is up: neither end is down, and both lie in the domain. -/
def linkUp (s : State) (a b : Nat) : Bool :=
  a == b || (inDomain s a a && inDomain s a b
    && !s.linksDown.contains (a * 32 + carrier s a (portTo a b)) && !s.linksDown.contains (b * 32 + carrier s b (portTo b a)))

/-- R332: every hop of a list of devices is up. -/
def routeUp (s : State) : List Nat → Bool
  | a :: b :: l => linkUp s a b && routeUp s (b :: l)
  | _ => true

/-- R332: the intermediate rows (path 2) or columns (path 3) of the domain that a path may use, the lowest first. -/
def middles (s : State) (src dst p : Nat) : List Nat :=
  (List.range 16).filter (fun m =>
    if p = 2 then m != src / 16 && m != dst / 16 && inDomain s src (m * 16 + src % 16)
    else m != src % 16 && m != dst % 16 && inDomain s src (src / 16 * 16 + m))

/-- R332: a path from a device to another is available. -/
def pathUp (s : State) (src dst p : Nat) : Bool :=
  if p < 2 then routeUp s (pathDevices src dst 0 p)
  else (middles s src dst p).any (fun m => routeUp s (pathDevices src dst m p))

/-- R334: the path policy of an activity class at a die. -/
def linkPolicy (s : State) (die : Nat) (cls : BitVec 4) : Nat := readMem s (windowBase die + 0x500000 + 8 * cls.toNat) 8

/-- R333: the paths that the adaptive rule chooses among. Where source and destination share a row or a column, paths 0 and 1
are one hop with one credit, and the tie goes to path 0. -/
def adaptivePaths (s : State) (die dest : Nat) (cls : BitVec 4) : List Nat :=
  let src := devOfDie die
  let l := (if (linkPolicy s die cls).testBit 4 then [0, 1] else [0, 1, 2, 3]).filter (pathUp s src dest)
  if (src / 16 = dest / 16 ∨ src % 16 = dest % 16) ∧ l.contains 0 = true then l.filter (· != 1) else l

/-- R333: the path that the policy of a class names for a sequence number, when it names one. -/
def namedPath (s : State) (die : Nat) (cls : BitVec 4) (seq : BitVec 16) : Option Nat :=
  match linkPolicy s die cls % 4 with
  | 1 => some (seq.toNat % 4)
  | 2 => some (bitsOf (linkPolicy s die cls) 3 2)
  | _ => none

/-- R333, R352: a request of a class from a die finds a path to a device. -/
def pathFound (s : State) (die dest : Nat) (cls : BitVec 4) : Bool :=
  (match namedPath s die cls 0 with | some p => pathUp s (devOfDie die) dest p | none => false)
    || !(adaptivePaths s die dest cls).isEmpty

/-- R333: the path of a request, and the state with one open value drawn when the adaptive rule chose it. `seq` is the
sequence number of a counted write. -/
def choosePath (s : State) (die dest : Nat) (cls : BitVec 4) (seq : BitVec 16) : Fin 4 × State :=
  match (namedPath s die cls seq).filter (pathUp s (devOfDie die) dest) with
  | some p => (⟨p % 4, by omega⟩, s)
  | none =>
    let l := adaptivePaths s die dest cls
    let k := if l.length = 0 then 0 else l.getD ((Config.freeValue s.fresh).toNat % l.length) 0
    (⟨k % 4, by omega⟩, { s with fresh := s.fresh + 1 })

/-- R341: the counted writes of a die to a destination that are not acknowledged. -/
def unacked (s : State) (die dest : Nat) : List Packet := s.packets.filter (fun p => p.die == die && p.dest == dest)

/-- R341: a further counted write to a destination would bring the total above 4096. -/
def pairFull (s : State) (die dest : Nat) : Bool := decide (4096 ≤ (unacked s die dest).length)

/-- R341: send a counted write of pieces of one destination, for an issuer. `push` says that it goes through a leaf
with PUSH = 1 (R113). `done` says it is performed as it is sent: a
device-class write, whose order R112 keeps, or a write to a checked page, whose check at its home is precise (R125, R339). -/
def sendPacket (kind : PacketKind) (c v : Bool) (i : Issuer) (die dest : Nat) (pieces : List (Nat × Nat × Nat)) (push done : Bool) (s : State) : State :=
  let pr := pair s die dest
  let r := choosePath s die dest i.cls pr.next
  let s := r.2
  let s := setPair s die dest { pr with next := pr.next + 1 }
  { s with
    serial := s.serial + 1
    packets := s.packets ++ [{ id := s.serial, die := die, dest := dest, path := r.1, seq := pr.next, epoch := pr.epoch,
                               kind := kind, cpath := c, vpath := v, iss := i, pieces := pieces, ppush := push, performed := done,
                               gone := false }] }

/-- R337, R460: the bytes that the holder of an M copy has stored are written back to the home, where a near-memory write has left
the copy behind (R459); other M copies hold what memory holds. -/
def mergeLine (f : Nat → Bool) (line : Nat) (s : State) : State :=
  s.llc.foldl (fun s e =>
    if e.1 % 2 ^ 46 = line ∧ f (e.1 / 2 ^ 46) = true then (match e.2 with
      | some ⟨.modified, some b, d⟩ =>
        (List.range 64).foldl (fun s i =>
          if d.getLsbD i then writeMem s (line * 64 + i) 1 (b.toNat / 256 ^ i % 256) else s) s
      | _ => s)
    else s) s

/-- R337: a directory entry in state U, with the requests for its line that are served and wait. -/
def dirCleared (e : DirEntry) : DirEntry := { DirEntry.init with req := e.req, acks := e.acks, queue := e.queue }

/-- R337: a write at the home of a line merges an M owner's copy and leaves no copy in any LLC. -/
def dropCopies (line : Nat) (s : State) : State :=
  let s := mergeLine (fun _ => true) line s
  { s with llc := s.llc.filter (fun e => e.1 % 2 ^ 46 != line),
           dir := tabSet DirEntry.init s.dir line (dirCleared (tabGet DirEntry.init s.dir line)) }

/-- The directory entry of a line. -/
def dirEntry (s : State) (line : Nat) : DirEntry := tabGet DirEntry.init s.dir line
/-- Write a directory entry. -/
def setDir (line : Nat) (e : DirEntry) (s : State) : State := { s with dir := tabSet DirEntry.init s.dir line e }
/-- The copy of a line in the LLC of a die. -/
def llcCopy (s : State) (die line : Nat) : Option LlcLine := tabGet none s.llc (die * 2 ^ 46 + line)
/-- Write the copy of a line in the LLC of a die. -/
def setLlc (die line : Nat) (c : Option LlcLine) (s : State) : State := { s with llc := tabSet none s.llc (die * 2 ^ 46 + line) c }

/-- R338: a sharer joins an entry; the fifth sets the overflow bit and the row mask. -/
def addSharer (die : Nat) (e : DirEntry) : DirEntry :=
  let l := setInsert die e.sharers
  let rows := l.foldl (fun m d => m ||| (1#16 <<< (devOfDie d / 16))) e.rows
  if e.overflow = true ∨ 4 < l.length then { e with sharers := l, overflow := true, rows := rows } else { e with sharers := l }

/-- R337: a copy in E or M becomes S, its bytes written back if M. -/
def demote (die line : Nat) (s : State) : State :=
  match llcCopy s die line with
  | none => s
  | some c =>
    setLlc die line (some { c with st := .shared, stale := if c.st = .modified then none else c.stale, dirty := 0 })
      (mergeLine (· == die) line s)

/-- R337: the owner of a line gives up its ownership and keeps S. -/
def fetchOwner (line : Nat) (s : State) : State :=
  let e := dirEntry s line
  match e.owner with
  | none => s
  | some o => setDir line (addSharer o { e with owner := none }) (demote o line s)

/-- R337: the home of the line at an address is serving a request for it: later requests wait, in arrival order. -/
def lineBusy (s : State) (pa : Nat) : Bool :=
  match placeOf pa with
  | .hbm _ => (dirEntry s (pa / 64)).req.isSome
  | _ => false

/-- The bytes of a line at its home, as a fetch from an M owner leaves them (R337). -/
def readHome (s : State) (pa n : Nat) : Nat := readMem (mergeLine (fun _ => true) (pa / 64) s) pa n

/-- R3: an LLC of 48 MiB has room for one more line: one is written back and removed when 786,432 are held. Which one is open. -/
def llcRoom (die : Nat) (s : State) : State :=
  let l := s.llc.filter (fun e => e.1 / 2 ^ 46 == die)
  if l.length < 786432 then s
  else match l[(Config.freeValue s.fresh).toNat % l.length]? with
    | none => s
    | some (k, c) =>
      let line := k % 2 ^ 46
      let s := mergeLine (· == die) line { s with fresh := s.fresh + 1 }
      let owned := match c with | some ⟨.shared, _, _⟩ => false | _ => true
      let e := tabGet DirEntry.init s.dir line
      { s with
        llc := tabErase k s.llc
        dir := if owned = true ∧ e.owner = some die then tabSet DirEntry.init s.dir line { e with owner := none } else s.dir }

/-- R356: the host address of an address of a host aperture: HBASE of its bridge device and the offset. -/
def hostAddr (s : State) (pa : Nat) : Nat :=
  (readMem s (windowBase (devOf pa * 32) + 0x500090) 8 + (localOf pa - 0x80000000000)) % 2 ^ 64

/-- R356: the host has been sent a write. -/
def hostStore (pa n data : Nat) (s : State) : State :=
  { s with hostOut := s.hostOut ++ [(hostAddr s pa, bytesOfNat n data)] }

/-- R22, R362: bytes stored in common memory or a scratchpad; the read-only fields of a barrier object, of a live queue
declaration block or of a live graph descriptor they cover stay. (DEDUCED: log entry 23.) -/
def storeBank (pa n v : Nat) (s : State) : State :=
  let bs := s.barriers.filter (fun b => decide (pa < b + 16) && decide (b < pa + n))
  let olds := bs.map (fun b => (b, barRead s b))
  iqProtect s pa n (olds.foldl (fun s o => writeMem s o.1 16 (barStore o.2 (barRead s o.1))) (storeMem s pa n v))

/-- R337, R357, R342: bytes stored at the home of an address, as a push write or by a request of a peer or the host. -/
def storeHome (pa n v : Nat) (s : State) : State :=
  match placeOf pa with
  | .hbm _ => storeMem (dropCopies (pa / 64) s) pa n v
  | .hostAperture => hostStore pa n v s
  | _ => storeBank pa n v s

/-- R337, R342, R356, R389: perform a counted write at its destination. -/
def performPacket (p : Packet) (s : State) : State :=
  let s := dropStale p.die p.dest s
  let s := { s with packets := s.packets.map (fun q => if q.id = p.id then { q with performed := true } else q) }
  p.pieces.foldl (fun s q => storeHome q.1 q.2.1 q.2.2 s) s

/-- A counted write touches some of `n` bytes. -/
def packetMeets (p : Packet) (pa n : Nat) : Bool := p.pieces.any (fun q => decide (q.1 < pa + n) && decide (pa < q.1 + q.2.1))

/-- R356: a counted write, ordered flags among them, that the bridge device issues to the host. -/
def toHost (p : Packet) : Bool := p.pieces.any (fun q => placeOf q.1 == .hostAperture)

/-- R113, R342, R356: an earlier counted write that must be performed before a later one: before an ordered flag those of its die,
destination and epoch; before a write to the host the earlier ones of its pair; before any the same thread's writes to a byte
that it also writes. -/
def mustPrecede (p q : Packet) : Bool :=
  decide (p.id < q.id)
    && ((q.kind == .flag && p.die == q.die && p.dest == q.dest && p.epoch == q.epoch)
      || (toHost q && toHost p && p.die == q.die && p.dest == q.dest)
      || (p.thread == q.thread && p.bind == q.bind && q.pieces.any (fun x => packetMeets p x.1 x.2.1)))

/-- R113: the unperformed counted writes that satisfy `f`, and those that must be performed before them, in the order sent; those of
an older epoch are never performed (R352). -/
def settling (s : State) (f : Packet → Bool) : List Packet :=
  (s.packets.filter (fun p => !p.performed && p.epoch == (pair s p.die p.dest).epoch)).foldr (fun p l => if f p || l.any (mustPrecede p) then p :: l else l) []

/-- R113: a later write to a byte that an unperformed counted write also writes still wins: those writes are performed first. -/
def settleWrites (pa n : Nat) (s : State) : State :=
  (settling s (fun p => packetMeets p pa n)).foldl (fun s p => performPacket p s) s

/-- R113, R337: a counted write that must come before a write of `n` bytes waits for its line. -/
def settleBusy (s : State) (pa n : Nat) : Bool :=
  (settling s (fun p => packetMeets p pa n)).any (fun p => p.pieces.any (fun q => lineBusy s q.1))

/-- R113, R342, R356: a counted write is held while one that must precede it is not performed. -/
def packetHeld (s : State) (q : Packet) : Bool := s.packets.any (fun p => !p.performed && mustPrecede p q)

/-- R337, R342, R352: the packet may be performed now: it carries the epoch of its pair, nothing holds it, and its home is free. -/
def canPerform (s : State) (p : Packet) : Bool :=
  !p.performed && !p.gone && p.epoch == (pair s p.die p.dest).epoch && !packetHeld s p && !p.pieces.any (fun q => lineBusy s q.1)

/-- R341: the acknowledgement of a performed counted write reaches its die. -/
def ackPacket (p : Packet) (s : State) : State :=
  let pr := pair s p.die p.dest
  let s := { s with packets := s.packets.filter (fun q => q.id != p.id) }
  setPair s p.die p.dest
    { pr with acked := (p.seq :: pr.acked).filter (fun a => (unacked s p.die p.dest).any (fun q => decide ((a - q.seq).toNat < 256))) }

/-- R345: a counted write of the die to a covered destination, numbered below the snapshot, is neither acknowledged nor lost. -/
def awaitsAck (s : State) (die : Nat) (dest : Option Nat) (snap : Nat) : Bool :=
  s.packets.any (fun p => p.die == die && decide (p.id < snap) && (match dest with | some d => p.dest == d | none => true))

/-- R345: a write of a thread's binding among those numbered below the snapshot that was reported lost: the address of its
record. -/
def lostAmong (s : State) (die : Nat) (dest : Option Nat) (snap k : Nat) : Option Word :=
  (s.pairs.filter (fun p => p.1 / 256 == die && (match dest with | some d => p.1 % 256 == d | none => true))).findSome?
    (fun p => (p.2.lostWrites.find? (fun w => decide (w.id < snap) && w.thread == k && w.bind == (thr s k).bind)).map (·.record))

end Sys2Proof.Machine
end

