-- ==== Sys2Proof/Machine/Security.lean ====
section
/-! DEFINITION. The security block (R469..R471): the state of a device, the attestation page, and the report. -/

namespace Sys2Proof.Machine

/-- R467: the power state of a device: 0..3 for P0..P3, 4 for D1, 6 for D2. -/
def powerState (s : State) (d : Nat) : Nat := readMem s (windowBase (d * 32)) 1 % 8

/-- R467: PST of every die of a device. -/
def setPst (d n : Nat) (s : State) : State :=
  (List.range 24).foldl (fun s k =>
    let a := windowBase (d * 32 + k)
    writeMem s a 1 (setBits (readMem s a 1) 2 0 n)) s

/-- R470: the address of the security block of a device. -/
def securityBase (d : Nat) : Nat := windowBase (d * 32) + 0xA00000

/-- R469: the identity private key of a device. -/
def idseedOf (s : State) (d : Nat) : BitVec 256 := (device s d).idseed.getD (Config.identitySeed d)

/-- R469: the identity public key of a device. -/
def idpubOf (s : State) (d : Nat) : BitVec 256 := ed25519Public (idseedOf s d)

/-- R470: the SECSTAT register. -/
def secstat (s : State) (d : Nat) : Nat := readMem s (securityBase d) 8

/-- R469: the first 280 bytes of a report formed now. -/
def reportBody (s : State) (d : Nat) : Nat :=
  let v := device s d
  0x54505241 + v.sec.val * 2 ^ 32 + dbgOf s d * 2 ^ 34 + powerState s d * 2 ^ 36 + v.boots.toNat * 2 ^ 64 + v.d2x.toNat * 2 ^ 128
    + (v.running.getD 0).toNat * 2 ^ 192 + (if v.sec = 1 then v.ownh.toNat else 0) * 2 ^ 704 + v.tokh.toNat * 2 ^ 1216
    + readMem s (securityBase d + 0x40) 32 * 2 ^ 1728 + (idpubOf s d).toNat * 2 ^ 1984

/-- R469: a report formed now, signed except in Manufacturing. -/
def reportNow (s : State) (d : Nat) : BitVec 2752 :=
  let b := reportBody s d
  BitVec.ofNat 2752 (b + (if (device s d).sec = 2 then 0 else (ed25519Sign (idseedOf s d) 280 b).toNat * 2 ^ 2240))

/-- R469, R470: REQ is set: the report is formed from the state at this instant. -/
def attRequest (d : Nat) (s : State) : State :=
  if (secstat s d).testBit 4 then s
  else
    let s := setDevice s d { device s d with report := some (reportNow s d) }
    writeMem s (securityBase d) 8 (setBits (secstat s d) 5 4 3)

/-- R470: a store of `n` bytes at offset `o` of the attestation page: ANONCE, unless REQ is 1, and REQ. -/
def attStore (d o n v : Nat) (s : State) : State :=
  let lo := max o 0x40
  let hi := min (o + n) 0x60
  let s := if lo < hi ∧ (secstat s d).testBit 4 = false then
      writeMem s (securityBase d + lo) (hi - lo) (v / 256 ^ (lo - o))
    else s
  if o = 0 ∧ v.testBit 4 = true then attRequest d s else s

end Sys2Proof.Machine
end

