-- ==== Sys2Proof/Machine/Tile.lean ====
section
/-! DEFINITION. The tile table of a cluster (R28..R32, R284..R287): the entry's fields, its events, and the stores to the
cluster's control window. -/

namespace Sys2Proof.Machine

/-- R284: the address of the entry of a tile; `ck` is a cluster key. -/
def tileAddr (ck n : Nat) : Nat := clusterWindowBase ck + 0x10000 + 32 * (n % 256)
/-- R284: an entry as one little-endian number. -/
def tileEntry (s : State) (ck n : Nat) : Nat := readMem s (tileAddr ck n) 32
/-- Write an entry. -/
def setTileEntry (ck n v : Nat) (s : State) : State := writeMem s (tileAddr ck n) 32 v
/-- R284: BASE. -/
def tileBase (e : Nat) : Nat := bitsOf e 21 0
/-- R284: SIZE. -/
def tileSize (e : Nat) : Nat := bitsOf e 54 32
/-- R284: STATE: 0 empty, 1 filling, 2 ready, 3 draining. -/
def tileState (e : Nat) : Nat := bitsOf e 65 64
/-- R284: FILLED. -/
def tileFilled (e : Nat) : Nat := bitsOf e 118 96
/-- R284: one more refused store or command; REJ saturates. -/
def tileReject (e : Nat) : Nat := setBits e 223 192 (min (bitsOf e 223 192 + 1) 0xFFFFFFFF)

/-- R285: an 8-byte store to bits 63:0 of an entry. -/
def tileDefineEntry (e w : Nat) : Nat :=
  if tileState e = 0 ∧ bitsOf w 31 22 = 0 ∧ bitsOf w 63 55 = 0 ∧ tileBase w % 32 = 0 ∧ tileSize w % 32 = 0
      ∧ tileBase w + tileSize w ≤ 0x400000 then
    setBits (setBits (setBits e 63 0 w) 66 66 0) 118 96 0
  else tileReject e

/-- R286: the release command. -/
def tileReleaseEntry (e : Nat) : Nat := if tileState e = 2 then setBits e 65 64 3 else tileReject e

/-- R286: the discard command. -/
def tileDiscardEntry (e : Nat) : Nat :=
  if tileState e = 2 then setBits (setBits (setBits e 65 64 0) 118 96 0) 66 66 0 else tileReject e

/-- R286: an 8-byte store of a command word. -/
def tileCommandEntry (e w : Nat) : Nat :=
  if w % 4 = 3 ∨ bitsOf w 63 2 ≠ 0 then tileReject e
  else if w % 4 = 1 then tileReleaseEntry e
  else if w % 4 = 2 then tileDiscardEntry e
  else e

/-- R287: a filling tile whose bytes are all accepted becomes ready. -/
def tileReadyEntry (e : Nat) : Nat := if tileState e = 1 ∧ tileFilled e = tileSize e then setBits e 65 64 2 else e

/-- R287: a draining tile becomes empty when its last read has finished. -/
def tileDrainedEntry (e : Nat) : Nat := if tileState e = 3 then setBits (setBits e 65 64 0) 118 96 0 else e

/-- What the tile table answers to a tile-addressed write (R287). -/
inductive TileAnswer where
  | wait
  | refused
  | accepted (e : Nat)
  deriving DecidableEq, Repr

/-- R287: a tile-addressed write of `b` bytes reaches an entry. POIS tells of the present fill (R284), so the first write of a
fill clears it. (DESIGN CHOICE: log entry 51.) -/
def tileAccept (e b : Nat) : TileAnswer :=
  if tileState e = 2 ∨ tileState e = 3 then .wait
  else if tileSize e - tileFilled e < b then .refused
  else .accepted (setBits (if tileState e = 0 then setBits e 66 64 1 else e) 118 96 (tileFilled e + b))

/-- R33, R285, R286: a store of `n` bytes at offset `o` of a cluster's control window. Read-only fields and the rest of the
window ignore it. -/
def clusterWindowStore (ck o n v : Nat) (s : State) : State :=
  if o < 0x200 then writeMem s (clusterWindowBase ck + o) n v
  else if 0x10000 ≤ o ∧ o < 0x12000 then
    let t := (o - 0x10000) / 32
    let e := tileEntry s ck t
    if o % 32 < 8 then setTileEntry ck t (if n = 8 then tileDefineEntry e v else tileReject e) s
    else if 16 ≤ o % 32 ∧ o % 32 < 24 then setTileEntry ck t (if n = 8 then tileCommandEntry e v else tileReject e) s
    else s
  else s

end Sys2Proof.Machine
end

