-- ==== Sys2Proof/Machine/Access.lean ====
section
/-! DEFINITION. One access to memory by a path: translation and the checks of R169 in their order, reads and writes of every
kind of memory, PEER-PUSH writes, multicast apertures and the host aperture. -/

namespace Sys2Proof.Machine

/-- Who makes an access: the die it is made at, the TLBs it looks in, its path, the issuer it is made for, the requester that
its requests to the host and to other devices are kept under, and the core whose TLBs its misses fill. -/
structure Who where
  die : Nat
  tlbs : List TlbEntry
  path : Path
  iss : Issuer
  req : Nat
  core : Option Nat
  deriving DecidableEq, Repr

/-- What becomes of an access: done; a cause with nothing performed; a cause whose `tval` is an ECLS 7 record (R354); or not
yet, in which case it is made again from the start. -/
inductive Res (α : Type) where
  | ok (v : α) (s : State)
  | exc (cause : BitVec 8) (s : State)
  | lost (cause : BitVec 8) (s : State)
  | wait (s : State)
  deriving Repr

/-- Go on with a result. -/
def Res.next {α β : Type} (r : Res α) (f : α → State → Res β) : Res β :=
  match r with
  | .ok v s => f v s
  | .exc c s => .exc c s
  | .lost c s => .lost c s
  | .wait s => .wait s

/-- The C path of the thread of a slot. -/
def whoC (s : State) (k : Nat) : Who := ⟨dieOfThread k, tlbsOfCore s (coreOfThread k), .c, issuerNow s k (thr s k).seq.pc, k, some (coreOfThread k)⟩

/-- A page whose copy a write waits for. -/
def wantCopy (die : Nat) (asid : BitVec 16) (va : Nat) (s : State) : State :=
  if s.cows.contains (die, asid, va) then s else { s with cows := s.cows ++ [(die, asid, va)] }

/-- Steps 1..3 of R169, R253: the leaf and the physical address of an access of an aligned size. -/
def translate (s : State) (w : Who) (rd wr : Bool) (align : Nat) (ea : Nat) : Except (BitVec 8) (Word × Nat) :=
  if 2 ^ 57 ≤ ea then .error 0x10
  else if ea % align ≠ 0 then .error 0x03
  else match leafOf s w.tlbs w.die w.iss.asid ea with
    | none => .error 0x10
    | some p =>
      if (rd && !pteRd p) || (wr && !pteWr p) then .error 0x11
      else if pteMc p then .ok (p, physOf p ea)
      else match reachFor s w.die w.path wr p (physOf p ea) with
        | some c => .error c
        | none => .ok (p, physOf p ea)

/-- R352: an outstanding request of the maker, to the bytes at a physical address, failed with its pair. Its answer stays until the
cause is taken. -/
def lostAt (s : State) (w : Who) (pa : Nat) : Bool :=
  (tabGet [] s.hostReqs w.req).any (fun h => h.pa == pa && (match h.answer with | some (255, _) => true | _ => false))

/-- R352: the same for a virtual address. -/
def lostRequest (s : State) (w : Who) (ea : Nat) : Bool :=
  match leafOf s w.tlbs w.die w.iss.asid ea with
  | none => false
  | some p => lostAt s w (physOf p ea)

/-- R272, R125: what an access that reaches step 3 of R169 leaves, whatever its checks find: the fills of a miss that it asks for, and
the page of a checked leaf. -/
def noteAccess (w : Who) (ea : Nat) (s : State) : State :=
  let s := noteWalk w.core w.iss.asid ea s
  match leafOf s w.tlbs w.die w.iss.asid ea with
  | none => s
  | some p => noteChecked w.die w.iss.asid ea p s

/-- R272: the same for an access of any alignment; an address of no page is not looked up. -/
def noteTried (w : Who) (ea : Word) (s : State) : State := if ea.toNat < 2 ^ 57 then noteAccess w ea.toNat s else s

/-- Steps 1..5 of R169, R253. A write to a copy-on-write page waits for the copy, or takes cause 0x12 when the pool is
empty (R276); one to the range of a running snapshot waits (R277). -/
def resolve (s : State) (w : Who) (rd wr : Bool) (align : Nat) (ea : Word) : Res (Word × Nat) :=
  let s0 := s
  let s := if ea.toNat % align = 0 then noteTried w ea s else s
  match translate s0 w rd wr align ea.toNat with
  | .error c => if c = 0x70 ∧ lostRequest s w ea.toNat = true then .lost 0x72 s else .exc c s
  | .ok (p, pa) =>
    if wr = true ∧ snapHeld s w.die w.iss.asid ea.toNat = true then .wait s
    else if wr = true ∧ pteCow p = true then
      (match poolNext s w.die (pteSize p) with
        | none => .exc 0x12 s
        | some _ => .wait (wantCopy w.die w.iss.asid ea.toNat s))
    else if ptePsn p then .exc 0x30 s
    else .ok (p, pa) s

/-- The lines of `n` bytes. -/
def linesOf (pa n : Nat) : List Nat := (List.range ((pa + n - 1) / 64 - pa / 64 + 1)).map (fun i => pa / 64 + i)

/-- Step 6 of R169: the access races (R125). -/
def racing (s : State) (w : Who) (p : Word) (pa n : Nat) : Bool :=
  pteChk p && (linesOf pa n).any (races s w.iss.rdom w.iss.agent w.iss.clock)

/-- R125: the tag that a write through a leaf leaves. -/
def tagLines (w : Who) (p : Word) (pa n : Nat) (s : State) : State :=
  if pteChk p then (linesOf pa n).foldl (fun s l => writeTag s w.iss.rdom w.iss.agent w.iss.clock.epoch l) s else s

/-- R339: the access goes to a line of a peer without the LLC. -/
def uncached (w : Who) (p : Word) (pa : Nat) : Bool := pteDev p || (ptePush p && devOf pa != devOfDie w.die)

/-- The copy that the LLC of the maker's die serves an access from; none on a page that bypasses it. -/
def copyFor (s : State) (w : Who) (p : Word) (pa : Nat) : Option LlcLine :=
  if uncached w p pa then none else tabGet none s.llc (w.die * 2 ^ 46 + pa / 64)

/-- The bytes a read returns: memory, or the copy in the die's LLC that a near-memory write has left behind (R459). (DESIGN CHOICE: log entry 5.) -/
def readFor (s : State) (w : Who) (p : Word) (pa n : Nat) : Nat :=
  match placeOf pa with
  | .hbm _ =>
    (match copyFor s w p pa with
      | some ⟨_, some b, _⟩ => b.toNat / 256 ^ (pa % 64) % 256 ^ n
      | some ⟨_, none, _⟩ => readMem s pa n
      | none => readHome s pa n)
  | _ => readVisible s pa n

/-- R337: a load that misses in the LLC of its die is to bring the line. -/
def noteLine (w : Who) (p : Word) (pa : Nat) (s : State) : State :=
  let m := Miss.line w.die (pa / 64)
  if (w.path != .c && w.path != .v && w.path != .x) || uncached w p pa || (copyFor s w p pa).isSome || s.misses.contains m then s
  else { s with misses := s.misses ++ [m] }

/-! ## The host aperture (R356) -/

/-- Two requests to the host ask for the same. -/
def sameRequest (a b : HostWait) : Bool :=
  a.pa == b.pa && a.op == b.op && a.size == b.size && a.operand == b.operand && a.compare == b.compare

/-- R356: a read or AtomicOp of the host: the request is kept until its answer has come and been taken; one that has failed, until its
cause is taken. -/
def hostAccess (w : Who) (pa op n operand compare : Nat) (s : State) : Res Nat :=
  let q : HostWait := ⟨pa, op, n, operand, compare, hostAddr s pa, none⟩
  let l := tabGet [] s.hostReqs w.req
  match l.find? (sameRequest q) with
  | none => .wait { s with hostReqs := tabSet [] s.hostReqs w.req (l ++ [q]) }
  | some h =>
    match h.answer with
    | none => .wait s
    | some (st, v) =>
      if st = 0 then .ok (v % 256 ^ n) { s with hostReqs := tabSet [] s.hostReqs w.req (l.erase h) }
      else if st = 2 then .exc 0x30 s
      else if st = 255 then .lost 0x72 s
      else .exc 0x74 s

/-! ## Requests to other devices (R352) -/

/-- R351, R352: a read, an atomic or a request for a line travels to its home: at once while a path is up, else it is outstanding
until one is, or until its pair is lost and it fails with it. `op` 0 is a read, 8 a store, 9 and above an atomic. (DEDUCED: log entry 61.)
R389: it reaches its home as a packet of its pair. -/
def remoteGate (w : Who) (pa op n operand compare : Nat) (s : State) : Res Unit :=
  if devOf pa = devOfDie w.die then .ok () s
  else
    let q : HostWait := ⟨pa, op, n, operand, compare, 0, none⟩
    let l := tabGet [] s.hostReqs w.req
    let kept := l.any (sameRequest q)
    if l.any (fun h => sameRequest q h && h.answer.isSome) then .lost 0x72 s
    else if pathFound s w.die (devOf pa) w.iss.cls then
      .ok () (dropStale w.die (devOf pa) <| if kept then { s with hostReqs := tabSet [] s.hostReqs w.req (l.filter (fun h => !sameRequest q h)) } else s)
    else .wait (if kept then s else { s with hostReqs := tabSet [] s.hostReqs w.req (l ++ [q]) })

/-- Go back to the state before, keeping what has been asked for and which answers have been taken. -/
def askedFrom (s0 s : State) : State := { s0 with cows := s.cows, misses := s.misses, hostReqs := s.hostReqs }

/-- Go on with a wait from the state before, keeping what the wait has asked for and the answers that stood before it. -/
def waitFrom (s0 s : State) : State :=
  { s0 with
    cows := s.cows
    misses := s.misses
    hostReqs := s.hostReqs.foldl (fun t e =>
      let l := tabGet [] s0.hostReqs e.1
      tabSet [] t e.1 (l ++ l.foldl (fun l h => l.erase h) e.2)) s0.hostReqs }

/-- What becomes of an access, all of it or none: an access that does not succeed leaves the state before it. -/
def wholeOr {α : Type} (s0 : State) (r : Res α) : Res α :=
  match r with
  | .ok v s => .ok v s
  | .exc c s => .exc c (askedFrom s0 s)
  | .lost c s => .lost c (askedFrom s0 s)
  | .wait s => .wait (waitFrom s0 s)

/-! ## Multicast apertures (R348..R350) -/

/-- R348: the group table entry that a leaf names. -/
def groupEntry (s : State) (w : Who) (p : Word) : Nat :=
  readMem s (windowBase (devOfDie w.die * 32) + 0x600000 + 64 * pteGroup p) 64

/-- R348: the members of an entry, ascending. -/
def groupMembers (e : Nat) : List Nat := (List.range 256).filter (fun i => e.testBit i)
/-- R348: the load reduction. -/
def groupOp (e : Nat) : Nat := bitsOf e 258 256
/-- R348: the element type. -/
def groupType (e : Nat) : Nat := bitsOf e 261 259

/-- R348: the entry is unusable. -/
def groupBad (s : State) (w : Who) (e : Nat) : Bool :=
  !e.testBit 262 || bitsOf e 511 263 != 0 || decide (5 < groupOp e) || decide (4 < groupType e)
    || (groupType e == 4 && decide (1 < groupOp e)) || (groupMembers e).isEmpty
    || (groupMembers e).any (fun d => !inDomain s (devOfDie w.die) d)

/-- The address of an aperture's bytes at a member. -/
def memberAddr (pa d : Nat) : Nat := d * 0x100000000000 + localOf pa

/-- R350, R325: one step of a reduction of two values of a type: 0 i32, 1 i64, 2 n32, 3 n64, 4 f32. -/
def groupCombine (op ty a b : Nat) : Nat × Flags7 :=
  let bits := if ty = 1 ∨ ty = 3 then 64 else 32
  let sg (v : Nat) : Int := if (ty = 0 ∨ ty = 1) ∧ v.testBit (bits - 1) then (v : Int) - 2 ^ bits else v
  match op with
  | 1 => if ty = 4 then addCode 0 RNE 0 a b else ((a + b) % 2 ^ bits, 0)
  | 2 => (if sg b < sg a then b else a, 0)
  | 3 => (if sg a < sg b then b else a, 0)
  | 4 => (a &&& b, 0)
  | _ => (a ||| b, 0)

/-- R325: one level of the pairwise tree, the unpaired value passed up. -/
def treeLevel (f : Nat → Nat → Nat × Flags7) : List Nat → List Nat × Flags7
  | a :: b :: l => let r := treeLevel f l; let c := f a b; (c.1 :: r.1, c.2 ||| r.2)
  | l => (l, 0)

/-- R325, R350: the tree over the values of the members. -/
def treeFold (f : Nat → Nat → Nat × Flags7) : Nat → List Nat → Nat × Flags7
  | 0, l => (l.headD 0, 0)
  | n + 1, l =>
    if l.length ≤ 1 then (l.headD 0, 0)
    else
      let r := treeLevel f l
      let t := treeFold f n r.1
      (t.1, r.2 ||| t.2)

/-- R350: a load from an aperture. -/
def multicastLoad (w : Who) (p : Word) (pa n : Nat) (s : State) : Res Nat :=
  let e := groupEntry s w p
  let ms := groupMembers e
  let width := if groupType e = 1 ∨ groupType e = 3 then 8 else 4
  if groupBad s w e = true ∨ groupOp e = 0 ∨ n ≠ width ∨ w.path = .x then .exc 0x13 s
  else if ms.any (fun d => reach s w.die w.path p (memberAddr pa d) == some 0x70) then .lost 0x73 s
  else if ms.any (fun d => (reach s w.die w.path p (memberAddr pa d)).isSome) then .exc 0x13 s
  else if ms.any (fun d => placeOf (memberAddr pa d) == .hostAperture) then .exc 0x13 s
  else if ms.any (fun d => d != devOfDie w.die && !pathFound s w.die d w.iss.cls) then .wait s
  else if ms.any (fun d => racing s w p (memberAddr pa d) n) then .exc 0x20 s
  else if ms.any (fun d => poisoned s (memberAddr pa d) n) then .exc 0x30 s
  else if ms.any (fun d => lineBusy s (memberAddr pa d)) then .wait s
  else
    let r := treeFold (groupCombine (groupOp e) (groupType e)) 9 (ms.map (fun d => readHome s (memberAddr pa d) n))
    let s := ms.foldl (fun s d => fetchOwner (memberAddr pa d / 64) s) s
    let t := thr s w.iss.thread
    .ok r.1 (if r.2 = 0 ∨ isThread w.iss.thread = false then s else setThr s w.iss.thread { t with aflags := t.aflags ||| r.2 })

/-! ## Loads -/

/-- R337: a read that the LLC of the maker's die does not serve is a request to the home: an M owner is fetched from and keeps S. -/
def readMiss (w : Who) (p : Word) (pa n : Nat) (s : State) : Res Nat :=
  if lineBusy s pa then .wait s else .ok (readFor s w p pa n) (noteLine w p pa (fetchOwner (pa / 64) s))

/-- Steps 7 and 8 of R169 for a read of `n` bytes: from the host, the LLC of the maker's die, or the home. -/
def readAt (w : Who) (p : Word) (pa n : Nat) (s : State) : Res Nat :=
  match placeOf pa with
  | .hostAperture => hostAccess w pa 0 n 0 0 s
  | .hbm _ =>
    if (copyFor s w p pa).isSome then (if poisoned s pa n then .exc 0x30 s else .ok (readFor s w p pa n) s)
    else (remoteGate w pa 0 n 0 0 s).next (fun _ s => if poisoned s pa n then .exc 0x30 s else readMiss w p pa n s)
  | _ => (remoteGate w pa 0 n 0 0 s).next (fun _ s => if poisoned s pa n then .exc 0x30 s else .ok (readFor s w p pa n) s)

/-- Steps 6..8 of R169 for a read of `n` bytes. -/
def loadAt (w : Who) (p : Word) (pa n : Nat) (s : State) : Res Nat :=
  if pteMc p then multicastLoad w p pa n s
  else if racing s w p pa n then .exc 0x20 s
  else readAt w p pa n s

/-- R169, R253: a load of `n` bytes, aligned to `align`. -/
def load (w : Who) (align n : Nat) (ea : Word) (s : State) : Res Nat :=
  (resolve s w true false align ea).next (fun q s => loadAt w q.1 q.2 n s)

/-! ## Stores -/

/-- R337: a store through a die's LLC: an M copy elsewhere is merged first, every other copy of the line is gone, and the die holds
the line in M. -/
def ownLine (die pa n v : Nat) (s : State) : State :=
  let line := pa / 64
  let key := die * 2 ^ 46 + line
  let home := devOf pa * 32 + localOf pa / 0x1000000000
  let s := mergeLine (· != die) line s
  let s := { s with llc := s.llc.filter (fun e => !(e.1 % 2 ^ 46 == line && e.1 / 2 ^ 46 != die)) }
  let own := tabGet none s.llc key
  let s := if own.isSome then s else llcRoom die s
  let e := dirCleared (tabGet DirEntry.init s.dir line)
  let was := match own with
    | some ⟨.modified, _, d⟩ => d
    | _ => 0
  { storeMem s pa n v with
    llc := tabSet none s.llc key (some ⟨.modified, (own.bind (·.stale)).map (fun b =>
      BitVec.ofNat 512 (setBits b.toNat (8 * (pa % 64) + 8 * n - 1) (8 * (pa % 64)) v)),
      was ||| BitVec.ofNat 64 ((2 ^ n - 1) * 2 ^ (pa % 64))⟩)
    dir := tabSet DirEntry.init s.dir line (if die = home then e else { e with owner := some die }) }

/-- R337: the maker's die owns the line that an address lies in. -/
def ownsLine (s : State) (w : Who) (pa : Nat) : Bool :=
  match tabGet none s.llc (w.die * 2 ^ 46 + pa / 64) with
  | some ⟨.exclusive, _, _⟩ => true
  | some ⟨.modified, _, _⟩ => true
  | _ => false

/-- The stored bytes of a write that a peer performs as it is sent, and acknowledges later: a device-class write (R112), or a
write to a checked page, which its home checks before the access completes (R125, R339). (DEDUCED: log entry 62.) -/
def pushDone (kind : PacketKind) (w : Who) (p : Word) (pa n v : Nat) (s : State) : State :=
  sendPacket kind (w.path == .c) (w.path == .v) w.iss w.die (devOf pa) [(pa, n, v % 256 ^ n)] (ptePush p) true
    (tagLines w p pa n (storeHome pa n v s))

/-- R341: a write that travels to a peer, or waits while the peer has 4096 unacknowledged. -/
def pushTo (kind : PacketKind) (w : Who) (p : Word) (pa n v : Nat) (s : State) : Res Unit :=
  let first := settling s (fun q => placeOf pa == .hostAperture && toHost q && q.die == w.die && q.dest == devOf pa)
  if pairFull s w.die (devOf pa) then .wait s
  else if pteChk p then
    (if lineBusy s pa || first.any (fun q => q.pieces.any (fun x => lineBusy s x.1)) then .wait s
      else .ok () (pushDone kind w p pa n v (first.foldl (fun s q => performPacket q s) s)))
  else .ok () (sendPacket kind (w.path == .c) (w.path == .v) w.iss w.die (devOf pa) [(pa, n, v % 256 ^ n)] (ptePush p) false s)

/-- R349, R113: one copy of a multicast write, to the member at its own address. -/
def copyTo (kind : PacketKind) (w : Who) (p : Word) (n v : Nat) (s : State) (pa : Nat) : State :=
  let s := settleWrites pa n s
  if devOf pa = devOfDie w.die then tagLines w p pa n (storeHome pa n v s)
  else if pteChk p then pushDone kind w p pa n v s
  else sendPacket kind (w.path == .c) (w.path == .v) w.iss w.die (devOf pa) [(pa, n, v % 256 ^ n)] (ptePush p) false s

/-- R348: the addresses of an aperture's bytes at the members of its group. -/
def memberAddrs (s : State) (w : Who) (p : Word) (pa : Nat) : List Nat := (groupMembers (groupEntry s w p)).map (memberAddr pa)

/-- R349: the cause for which a write of `n` bytes to an aperture is refused; `lo` and `hi` bound the bytes that the same instruction
writes together with these (R22). -/
def multicastBad (w : Who) (p : Word) (pa n lo hi : Nat) (s : State) : Option (BitVec 8) :=
  let as := memberAddrs s w p pa
  if groupBad s w (groupEntry s w p) then some 0x13
  else if as.any (fun a => reach s w.die w.path p a == some 0x70) then some 0x70
  else if as.any (fun a => (reach s w.die w.path p a).isSome || placeOf a == .hostAperture) then some 0x13
  else if as.any (fun a => racing s w p a n) then some 0x20
  else if as.any (fun a => barrierRefuses s a n (a + lo - pa) (a + hi - pa)) then some 0x43
  else none

/-- R349: a write to an aperture: one counted write to each member. -/
def multicastStore (kind : PacketKind) (w : Who) (p : Word) (pa n v : Nat) (s : State) : Res Unit :=
  let as := memberAddrs s w p pa
  match multicastBad w p pa n pa (pa + n) s with
  | some c => .exc c s
  | none =>
  if as.any (fun a => (devOf a != devOfDie w.die && pairFull s w.die (devOf a)) || lineBusy s a || settleBusy s a n) then .wait s
  else .ok () (as.foldl (copyTo kind w p n v) s)

/-- R339: a device-class write to a peer is performed there as it is sent. -/
def pushNow (w : Who) (p : Word) (pa n v : Nat) (s : State) : Res Unit :=
  if pairFull s w.die (devOf pa) || lineBusy s pa then .wait s
  else .ok () (pushDone .push w p pa n v s)

/-- Steps 6 and 8 of R169 for a write of the `n` low bytes of `v`. `lo` and `hi` bound the bytes that the same instruction
writes together with these (R22). -/
def storeAt (w : Who) (p : Word) (pa n v lo hi : Nat) (s : State) : Res Unit :=
  if pteMc p then multicastStore .push w p pa n v s
  else if racing s w p pa n then .exc 0x20 s
  else if settleBusy s pa n then .wait s
  else
    let s := settleWrites pa n s
    let bank := fun (_ : Unit) =>
      if barrierRefuses s pa n lo hi then Res.exc 0x43 s
      else (remoteGate w pa 8 n 0 0 s).next (fun _ s => .ok () (tagLines w p pa n (storeBank pa n v s)))
    match placeOf pa with
    | .hbm _ =>
      if devOf pa ≠ devOfDie w.die ∧ pteDev p = true then pushNow w p pa n v s
      else if devOf pa ≠ devOfDie w.die ∧ ptePush p = true then pushTo .push w p pa n v s
      else (if ownsLine s w pa then Res.ok () s
          else if lineBusy s pa then .wait s else remoteGate w pa 8 n 0 0 s).next (fun _ s =>
        .ok () (tagLines w p pa n (ownLine w.die pa n v s)))
    | .hostAperture =>
      if devOf pa = devOfDie w.die then .ok () (tagLines w p pa n (hostStore pa n v s)) else pushTo .host w p pa n v s
    | .clusterWindow d c =>
      .ok () (tagLines w p pa n (clusterWindowStore (dieKey (devOf pa) d * 16 + c) (localOf pa % 0x800000 - 0x400000) n v s))
    | .scratchpad _ _ => bank ()
    | .common _ => bank ()
    | .dieWindow _ => .ok () (tagLines w p pa n (attStore (devOf pa) (localOf pa % 0x10000000 - 0xA00000) n v s))
    | _ => .exc 0x13 s

/-- R169, R253: a store of the `n` low bytes of `v`, aligned to `align`. -/
def store (w : Who) (align n : Nat) (ea : Word) (v : Nat) (s : State) : Res Unit :=
  (resolve s w false true align ea).next (fun q s => storeAt w q.1 q.2 n v q.2 (q.2 + n) s)

end Sys2Proof.Machine
end

