-- ==== Sys2Proof/Machine/Sync.lean ====
section
/-! DEFINITION. Waiting for earlier accesses, releases and acquires (R109, R112..R115, R123, R345). -/

namespace Sys2Proof.Machine

/-- The instruction accesses memory on the V path (R55, R59): what a release and `xfence v` wait for. -/
def isVMem : Instr → Bool
  | .vld .. => true
  | .vlds .. => true
  | .vldx .. => true
  | .vldb .. => true
  | .vldSpec .. => true
  | .vldsSpec .. => true
  | .vldxSpec .. => true
  | .vst .. => true
  | .vsts .. => true
  | .vstx .. => true
  | .vstb .. => true
  | .cmAdd .. => true
  | .cmMin .. => true
  | .cmMax .. => true
  | .cmAnd .. => true
  | .cmOr .. => true
  | .cmXor .. => true
  | .cmSwap .. => true
  | .cmCas .. => true
  | .cmEw .. => true
  | .cmRed .. => true
  | .cmMadd .. => true
  | .cmProbe .. => true
  | .iqEmit .. => true
  | .iqClose .. => true
  | .iqApply .. => true
  | .iqProbe .. => true
  | .iqDone .. => true
  | _ => false

/-- R249: the OVT option of a vector memory instruction. -/
def isOvt : Instr → Bool
  | .vld _ _ _ _ _ o => o
  | .vlds _ _ _ _ _ o => o
  | .vldx _ _ _ _ _ o => o
  | .vldb _ _ _ _ _ o => o
  | .vldSpec _ _ _ _ _ o => o
  | .vldsSpec _ _ _ _ _ o => o
  | .vldxSpec _ _ _ _ _ o => o
  | .vst _ _ _ _ _ o => o
  | .vsts _ _ _ _ _ o => o
  | .vstx _ _ _ _ _ o => o
  | .vstb _ _ _ _ _ o => o
  | _ => false

/-- A vector memory instruction of the thread has not been carried out. -/
def vPending (t : Thread) : Bool := t.vq.any (fun e => isVMem e.instr)

/-- R112, R137: an earlier vector memory instruction with OVT = 0 has not been carried out. -/
def vOrdered (t : Thread) : Bool := t.vq.any (fun e => isVMem e.instr && !isOvt e.instr)

/-- R112: a C access waits while an earlier vector access that it follows is pending. -/
def cWaits (s : State) : Bool :=
  match s.cur with
  | .thread k => vOrdered (thr s k)
  | _ => false

/-- R109: the earlier V accesses of the running sequencer are not all performed. -/
def orderWaits (s : State) : Bool :=
  match s.cur with
  | .thread k => vPending (thr s k)
  | _ => false

/-- The address of an ECLS 7 record in a trap: write the record, then trap with its address (R354). -/
def linkTrap (k : Nat) (cause : BitVec 8) (s : State) : State :=
  let i := issuerNow s k (thr s k).seq.pc
  writeRecord .vectorTrap i (mkRecord 7 0 cause i 0 (dieOfThread k) 0) [] s

/-- R169, R354: the instruction in progress ends with a cause of its access at an address. -/
def accessFault (cause : BitVec 8) (ea : Word) (s : State) : Out := raise cause ea s

/-- R354: the instruction in progress ends with a cause whose `tval` is a record. -/
def accessLost (cause : BitVec 8) (s : State) : Out :=
  match s.cur with
  | .thread k => if (thr s k).vq.isEmpty then .next (linkTrap k cause s) else .next s
  | a => .next (stopProgram a cause 0 0 0 0 s)

/-- Finish a scalar instruction that accessed memory at an address. -/
def closeAccess {α : Type} (ea : Word) (r : Res α) (f : α → State → Out) : Out :=
  match r with
  | .ok v s => f v s
  | .exc c s => accessFault c ea s
  | .lost c s => accessLost c s
  | .wait s => stall s

/-! ## Acknowledgements (R345) -/

/-- What a `fence.ack` finds: done, still waiting, or a write of the thread reported lost, by the address of its record. -/
inductive AckState where
  | done (s : State)
  | wait (s : State)
  | lost (record : Word) (s : State)
  deriving Repr

/-- R345: the lost writes of a thread's binding below a snapshot to pairs that are no longer lost have been told of. -/
def toldLost (k snap : Nat) (s : State) : State :=
  let told := fun (w : LostWrite) => decide (w.id < snap) && w.thread == k && w.bind == (thr s k).bind
  { s with pairs := s.pairs.foldl (fun t p =>
      if p.2.lost then t else tabSet Pair.init t p.1 { p.2 with lostWrites := p.2.lostWrites.filter (fun w => !told w) }) s.pairs }

/-- R345: wait for the counted writes of the thread's die, to one destination or to all. The snapshot is kept while the
wait lasts, and while entries of the vector queue come before the cause that a lost write raises (R142). -/
def ackWait (k : Nat) (dest : Option Nat) (s : State) : AckState :=
  let t := thr s k
  let snap := match t.snap with | some n => n | none => s.serial
  if awaitsAck s (dieOfThread k) dest snap
      || ((lostAmong s (dieOfThread k) dest snap k).isSome && !t.vq.isEmpty) then .wait (setThr s k { t with snap := some snap })
  else
    let s := if t.snap.isSome then setThr s k { t with snap := none } else s
    match lostAmong s (dieOfThread k) dest snap k with
    | some a => .lost a (toldLost k snap s)
    | none => .done s

/-! ## Releases and acquires (R115, R123) -/

/-- Write the clock of the sequencer in progress. -/
def setCurClock (c : Clock) (s : State) : State :=
  let i := curIssuer s
  if i.rdom = 0 then s
  else match s.cur with
    | .thread _ => setClock s i.rdom i.agent c
    | .ctx n => setCtx s n { ctx s n with prog := (ctx s n).prog.map (fun p => { p with iss := { p.iss with clock := c } }) }
    | .engine n =>
      setEngine s n { engine s n with prog := (engine s n).prog.map (fun p => { p with iss := { p.iss with clock := c } }) }

/-- R123: the epoch step that ends a release of the sequencer in progress. -/
def curEpochStep (s : State) : State :=
  let i := curIssuer s
  match s.cur with
  | .thread _ => epochStep i.rdom i.agent s
  | _ =>
    let e := i.clock.epoch + 1
    setCurClock ⟨e, i.clock.acq.set i.agent.toNat e (by omega)⟩ s

/-- R123: join the clock of the sequencer in progress into a block. -/
def curJoin (blk : Option Nat) (s : State) : State :=
  let i := curIssuer s
  match blk with
  | some b => if i.rdom = 0 then s else joinBlock i.rdom i.clock b s
  | none => s

/-- R123: merge a block into the clock of the sequencer in progress. -/
def curMerge (blk : Option Nat) (s : State) : State :=
  let i := curIssuer s
  match blk with
  | some b => if i.rdom = 0 then s else setCurClock (mergeBlock s i.agent i.clock b) s
  | none => s

/-- What a release waits for (R109, R113, R128): nothing more, or it runs again later, or it takes a cause. -/
inductive Gate where
  | go (s : State)
  | stop (o : Out)

/-- R128: the region is told of the first release of a domain that waits for the reset. -/
def epochTold (i : Issuer) (s : State) : State :=
  if (dom s i.rdom).waitTold then s
  else reportTo i.home i.rid i.thread i.bind 0x21 (i.rdom.setWidth 64) true (setDom s i.rdom { dom s i.rdom with waitTold := true })

/-- R128: a release that would carry an epoch past 0xFFFF waits. -/
def epochGate (s : State) : Gate :=
  let i := curIssuer s
  match s.cur with
  | .thread k => if epochFull s (thr s k).rdom (thr s k).agent then .stop (blockOn (epochTold i s)) else .go s
  | _ => if i.rdom ≠ 0 ∧ 0xFFFF ≤ i.clock.epoch then .stop (blockOn (epochTold i s)) else .go s

/-- R183: commands that a forked program has queued to its copy engine and that have not completed; an armed command that has
not fired belongs to no wait (R318). -/
def engineBusy (e : Engine) (serial : Nat) : Bool :=
  e.queue.any (fun c => c.prog == some serial) || e.armed.any (fun a => a.fired && a.cmd.prog == some serial)
    || e.colls.any (fun l => l.cmd.prog == some serial)

/-- R109, R181: the accesses of a forked program's own path that precede a release: its commands on its copy engine. The array
instructions of a program on a context have ended when it goes on. -/
def ownPathWaits (s : State) : Bool :=
  match s.cur with
  | .engine n => (match (engine s n).prog with | some p => engineBusy (engine s n) p.serial | none => false)
  | _ => false

/-- R109, R113, R174: what precedes a release at a scope: earlier V accesses, and at domain or system scope the
acknowledgements of every destination. `step` says whether the release ends with an epoch step. -/
def releaseGate (scope : Nat) (step : Bool) (s : State) : Gate :=
  if orderWaits s then .stop (stall s)
  else match s.cur with
    | .thread k =>
      if 4 ≤ scope then
        match ackWait k none s with
        | .done s => if step then epochGate s else .go s
        | .wait s => .stop (blockOn s)
        | .lost a s => .stop (.next (trapTo k 0x71 a 7 s))
      else if step then epochGate s else .go s
    | _ => if ownPathWaits s then .stop (stall s) else if step then epochGate s else .go s

/-- R124: the sync block for a line of a checked page; none outside a domain or on an unchecked page. -/
def syncFor (s : State) (w : Who) (p : Word) (pa : Nat) : Option Nat :=
  if pteChk p = true ∧ w.iss.rdom ≠ 0 then some (syncBlock s w.iss.rdom pa) else none

/-- The maker of an access with the clock that an acquire has merged (R123). -/
def mergedWho (s : State) (w : Who) (blk : Option Nat) : Who :=
  match blk with
  | some b => { w with iss := { w.iss with clock := mergeBlock s w.iss.agent w.iss.clock b } }
  | none => w

end Sys2Proof.Machine
end

