-- ==== Sys2Proof/Machine/ScalarMem.lean ====
section
/-! DEFINITION. Scalar loads, stores, atomics, fences and barrier-object instructions (R168..R181). -/

namespace Sys2Proof.Machine

/-- The maker of the C accesses of the sequencer in progress. -/
def curWho (s : State) : Who := whoC s (ownerThread s)

/-- R168, R169: a plain scalar load of `n` bytes. -/
def scalarLoad (n : Nat) (sg : Bool) (d a : Fin 32) (off : BitVec 10) (s : State) : Out :=
  let ea := effAddr s a off
  if cWaits s then stall s
  else closeAccess ea (load (curWho s) n n ea s) (fun v s => writeOn d (if sg then signExt n v else BitVec.ofNat 64 v) s)

/-- R168: `ld.i8`. -/
def execLdI8 (d a : Fin 32) (off : BitVec 10) (s : State) : Out := scalarLoad 1 true d a off s
/-- R168: `ld.n8`. -/
def execLdN8 (d a : Fin 32) (off : BitVec 10) (s : State) : Out := scalarLoad 1 false d a off s
/-- R168: `ld.i16`. -/
def execLdI16 (d a : Fin 32) (off : BitVec 10) (s : State) : Out := scalarLoad 2 true d a off s
/-- R168: `ld.n16`. -/
def execLdN16 (d a : Fin 32) (off : BitVec 10) (s : State) : Out := scalarLoad 2 false d a off s
/-- R168: `ld.i32`. -/
def execLdI32 (d a : Fin 32) (off : BitVec 10) (s : State) : Out := scalarLoad 4 true d a off s
/-- R168: `ld.n32`. -/
def execLdN32 (d a : Fin 32) (off : BitVec 10) (s : State) : Out := scalarLoad 4 false d a off s
/-- R168: `ld.64`. -/
def execLd64 (d a : Fin 32) (off : BitVec 10) (s : State) : Out := scalarLoad 8 false d a off s

/-- R170, R123: an acquiring load: the sync block is merged before the load's race check. -/
def acquireLoad (n : Nat) (d a : Fin 32) (off : BitVec 10) (s : State) : Out :=
  let ea := effAddr s a off
  let w := curWho s
  if cWaits s then stall s
  else closeAccess ea
    ((resolve s w true false n ea).next (fun q s =>
      let blk := syncFor s w q.1 q.2
      (loadAt (mergedWho s w blk) q.1 q.2 n s).next (fun v s => .ok v (curMerge blk s))))
    (fun v s => writeOn d (BitVec.ofNat 64 v) s)

/-- R170: `ld.acq.64`. -/
def execLdAcq64 (d a : Fin 32) (off : BitVec 10) (s : State) : Out := acquireLoad 8 d a off s
/-- R170: `ld.acq.n32`. -/
def execLdAcqN32 (d a : Fin 32) (off : BitVec 10) (s : State) : Out := acquireLoad 4 d a off s

/-- R168, R169: a plain scalar store of `n` bytes. -/
def scalarStore (n : Nat) (d a : Fin 32) (off : BitVec 10) (s : State) : Out :=
  let ea := effAddr s a off
  let c := fun (r : Res Unit) => match r with
    | .exc 0x43 s => accessFault 0x43 (ea - BitVec.ofNat 64 (ea.toNat % 16)) s
    | r => closeAccess ea r (fun _ s => .next (finish s))
  if cWaits s then stall s
  else c (store (curWho s) n n ea (x s d).toNat s)

/-- R168: `st.8`. -/
def execSt8 (d a : Fin 32) (off : BitVec 10) (s : State) : Out := scalarStore 1 d a off s
/-- R168: `st.16`. -/
def execSt16 (d a : Fin 32) (off : BitVec 10) (s : State) : Out := scalarStore 2 d a off s
/-- R168: `st.32`. -/
def execSt32 (d a : Fin 32) (off : BitVec 10) (s : State) : Out := scalarStore 4 d a off s
/-- R168: `st.64`. -/
def execSt64 (d a : Fin 32) (off : BitVec 10) (s : State) : Out := scalarStore 8 d a off s

/-- R170, R123: a releasing store of `n` bytes at an address: the block is joined, the store performed and tagged, the
epoch advanced. -/
def releaseStore (n : Nat) (ea : Word) (v : Nat) (s : State) : Out :=
  let w := curWho s
  let c := fun (r : Res Unit) => match r with
    | .exc 0x43 s => accessFault 0x43 (ea - BitVec.ofNat 64 (ea.toNat % 16)) s
    | r => closeAccess ea r (fun _ s => .next (finish s))
  match resolve s w false true n ea with
  | .ok q s =>
    let blk := syncFor s w q.1 q.2
    (match releaseGate 3 blk.isSome s with
      | .stop o => o
      | .go s => c ((storeAt w q.1 q.2 n v q.2 (q.2 + n) s).next (fun _ s => .ok () (if blk.isSome then curEpochStep (curJoin blk s) else s))))
  | .exc e s => accessFault e ea s
  | .lost e s => accessLost e s
  | .wait s => stall s

/-- R170: `st.rel.64`. -/
def execStRel64 (d a : Fin 32) (off : BitVec 10) (s : State) : Out := releaseStore 8 (effAddr s a off) (x s d).toNat s
/-- R170: `st.rel.32`. -/
def execStRel32 (d a : Fin 32) (off : BitVec 10) (s : State) : Out := releaseStore 4 (effAddr s a off) (x s d).toNat s

/-! ## Atomics -/

/-- R172: the operations of an atomic. -/
inductive AmoOp where
  | swap | add | and | or | xor | minI | maxI | minN | maxN | cas
  deriving DecidableEq, Repr

/-- A number of `n` bytes as a signed number. -/
def signedOf (n v : Nat) : Int := if v.testBit (8 * n - 1) then (v : Int) - 256 ^ n else v

/-- R172: the new value of an atomic of `n` bytes, none when nothing is written. -/
def amoNew (op : AmoOp) (n old b d : Nat) : Option Nat :=
  match op with
  | .swap => some b
  | .add => some ((old + b) % 256 ^ n)
  | .and => some (old &&& b)
  | .or => some (old ||| b)
  | .xor => some (old ^^^ b)
  | .minI => some (if signedOf n b < signedOf n old then b else old)
  | .maxI => some (if signedOf n old < signedOf n b then b else old)
  | .minN => some (min old b)
  | .maxN => some (max old b)
  | .cas => if old = d then some b else none

/-- R356: the AtomicOp that carries an atomic to the host; the others raise cause 0x13. -/
def hostOp : AmoOp → Option Nat
  | .add => some 1
  | .swap => some 2
  | .cas => some 3
  | _ => none

/-- The number under which an atomic that is outstanding is kept (R352). -/
def amoCode : AmoOp → Nat
  | .swap => 9
  | .add => 10
  | .and => 11
  | .or => 12
  | .xor => 13
  | .minI => 14
  | .maxI => 15
  | .minN => 16
  | .maxN => 17
  | .cas => 18

/-- R171..R173, R340: an atomic of `n` bytes at its home. `b` is the operand and `cmp` the value compared. The cause 0x13 of a
control window comes after steps 4 and 5 of R169. One on the host aperture is checked as it is sent, and its line tagged as it is
performed. (DEDUCED: log entry 63.) -/
def atomicAt (op : AmoOp) (n : Nat) (w : Who) (p : Word) (pa b cmp : Nat) (s : State) : Res Nat :=
  if pteMc p then .exc 0x13 s
  else match placeOf pa with
    | .clusterWindow _ _ => .exc 0x13 s
    | .dieWindow _ => .exc 0x13 s
    | .hole => .exc 0x13 s
    | .hostAperture =>
      (match hostOp op with
        | some o =>
          if n = 16 then .exc 0x13 s
          else
            let asked := (tabGet [] s.hostReqs w.req).any (sameRequest ⟨pa, o, n, b, cmp, 0, none⟩)
            if !asked && racing s w p pa n then .exc 0x20 s
            else (hostAccess w pa o n b cmp s).next (fun old s =>
              .ok old (if (amoNew op n old b cmp).isSome then tagLines w p pa n s else s))
        | none => .exc 0x13 s)
    | _ =>
      if racing s w p pa n then .exc 0x20 s
      else if lineBusy s pa || settleBusy s pa n then .wait s
      else (remoteGate w pa (amoCode op) n b cmp s).next (fun _ s =>
        if poisoned s pa n then .exc 0x30 s
        else if barrierRefuses s pa n pa (pa + n) then .exc 0x43 s
        else
          let s := settleWrites pa n s
          let old := readHome s pa n
          match amoNew op n old b cmp with
          | some v => .ok old (tagLines w p pa n (storeHome pa n v s))
          | none => .ok old (match placeOf pa with | .hbm _ => dropCopies (pa / 64) s | _ => s))

/-- R171..R173, R123: the course of an atomic: what a release waits for, the acquire, the operation, the release. -/
def amo (op : AmoOp) (n scope : Nat) (a : Fin 32) (b cmp : Nat) (f : Nat → State → State) (s : State) : Out :=
  let ea := x s a
  let w := curWho s
  if cWaits s then stall s
  else match resolve s w true true n ea with
    | .exc e s => accessFault e ea s
    | .lost e s => accessLost e s
    | .wait s => stall s
    | .ok q s =>
      let blk := syncFor s w q.1 q.2
      match releaseGate scope blk.isSome s with
      | .stop o => o
      | .go s =>
        match atomicAt op n (mergedWho s w blk) q.1 q.2 b cmp s with
        | .exc 0x43 s => accessFault 0x43 (ea - BitVec.ofNat 64 (ea.toNat % 16)) s
        | .exc e s => accessFault e ea s
        | .lost e s => accessLost e s
        | .wait s => stall s
        | .ok v s => .next (finish (f v (if blk.isSome then curEpochStep (curJoin blk (curMerge blk s)) else s)))

/-- R172: an atomic of 4 or 8 bytes; `zx` zero-extends the old value. -/
def amoSized (op : AmoOp) (zx : Bool) (d a b : Fin 32) (scope : Fin 6) (wide : Bool) (s : State) : Out :=
  let n := if wide then 8 else 4
  amo op n scope.val a ((x s b).toNat % 256 ^ n) ((x s d).toNat % 256 ^ n)
    (fun v s => setX s d (if zx then BitVec.ofNat 64 v else signExt n v)) s

/-- R172: `amo.swap`. -/
def execAmoSwap (d a b : Fin 32) (scope : Fin 6) (wide : Bool) (s : State) : Out := amoSized .swap false d a b scope wide s
/-- R172: `amo.add`. -/
def execAmoAdd (d a b : Fin 32) (scope : Fin 6) (wide : Bool) (s : State) : Out := amoSized .add false d a b scope wide s
/-- R172: `amo.and`. -/
def execAmoAnd (d a b : Fin 32) (scope : Fin 6) (wide : Bool) (s : State) : Out := amoSized .and false d a b scope wide s
/-- R172: `amo.or`. -/
def execAmoOr (d a b : Fin 32) (scope : Fin 6) (wide : Bool) (s : State) : Out := amoSized .or false d a b scope wide s
/-- R172: `amo.xor`. -/
def execAmoXor (d a b : Fin 32) (scope : Fin 6) (wide : Bool) (s : State) : Out := amoSized .xor false d a b scope wide s
/-- R172: `amo.min.i`. -/
def execAmoMinI (d a b : Fin 32) (scope : Fin 6) (wide : Bool) (s : State) : Out := amoSized .minI false d a b scope wide s
/-- R172: `amo.max.i`. -/
def execAmoMaxI (d a b : Fin 32) (scope : Fin 6) (wide : Bool) (s : State) : Out := amoSized .maxI false d a b scope wide s
/-- R172: `amo.min.n`. -/
def execAmoMinN (d a b : Fin 32) (scope : Fin 6) (wide : Bool) (s : State) : Out := amoSized .minN true d a b scope wide s
/-- R172: `amo.max.n`. -/
def execAmoMaxN (d a b : Fin 32) (scope : Fin 6) (wide : Bool) (s : State) : Out := amoSized .maxN true d a b scope wide s
/-- R172: `amo.cas`. -/
def execAmoCas (d a b : Fin 32) (scope : Fin 6) (wide : Bool) (s : State) : Out := amoSized .cas false d a b scope wide s

/-- R172: `amo.cas16`, on the pairs `d` and `b`. -/
def execAmoCas16 (d : Fin 16) (a : Fin 32) (b : Fin 16) (scope : Fin 6) (s : State) : Out :=
  amo .cas 16 scope.val a (pairNat s b) (pairNat s d) (fun v s => setPairX s d v) s

/-! ## Fences -/

/-- R345: wait for acknowledgements, then go on. -/
def fenceAckTo (dest : Option Nat) (s : State) : Out :=
  match s.cur with
  | .thread k =>
    (match ackWait k dest s with
      | .done s => .next (finish s)
      | .wait s => blockOn s
      | .lost a s => .next (trapTo k 0x71 a 7 s))
  | _ => .next (finish s)

/-- R174: `fence`. C accesses are performed as they are made; at domain or system scope the fence waits for every
acknowledgement. -/
def execFence (scope : Fin 6) (s : State) : Out :=
  if scope.val < 4 then .next (finish s)
  else if orderWaits s then stall s
  else fenceAckTo none s

/-- R175: `fence.rel`. -/
def execFenceRel (scope : Fin 6) (s : State) : Out :=
  match releaseGate scope.val true s with
  | .stop o => o
  | .go s => .next (finish (curEpochStep s))

/-- R175: `fence.acq`: the thread's earlier C loads have returned, and an acquire without a block changes no clock. -/
def execFenceAcq (scope : Fin 6) (s : State) : Out := let _ := scope; .next (finish s)

/-- R176: `xfence`. -/
def execXfence (mask : Fin 128) (s : State) : Out :=
  if mask.val.testBit 1 = true ∧ orderWaits s = true then stall s else .next (finish s)

/-! ## Barrier-object instructions -/

/-- R177, R181: the maker of the accesses of a barrier-object instruction, on a sequencer of any kind. -/
def whoBar (s : State) : Who :=
  match s.cur with
  | .thread k => whoC s k
  | .ctx c => ⟨dieOfCore c, tlbsOfCore s c, .c, curIssuer s, 2 ^ 21 + c, some c⟩
  | .engine n => ⟨n / 4, [], .c, curIssuer s, 2 ^ 22 + n, none⟩

/-- R177: the object at an address: its physical address. `wr` says whether the instruction updates it. Alignment comes first;
`bar.wait` and `bar.test` need read permission only, the others write permission only; no race check is made and no tag left,
and poison of the object's granule raises nothing. (DESIGN CHOICE: log entry 64.) -/
def barObject (wr : Bool) (ea : Word) (s : State) : Res Nat :=
  if ea.toNat % 16 ≠ 0 then .exc 0x13 s
  else (resolve s (whoBar s) (!wr) wr 1 ea).next (fun q s =>
    if pteMc q.1 then .exc 0x13 s
    else if barPlace q.2 then (remoteGate (whoBar s) q.2 19 16 0 0 s).next (fun _ s => .ok q.2 s)
    else .exc 0x13 s)

/-- R21, R177: an object whose SCOPE is reserved raises cause 0x43. -/
def scopedObject (wr : Bool) (ea : Word) (s : State) : Res Nat :=
  (barObject wr ea s).next (fun pa s => if 4 ≤ barScope (barRead s pa) then .exc 0x43 s else .ok pa s)

/-- R21, R123: the clock block of an object that carries one. -/
def barClock (s : State) (pa : Nat) : Option Nat :=
  if barClk (barRead s pa) then some (barBlock pa (barRead s pa)) else none

/-- R21, R53: the scope of an object as a scope code of R53. -/
def barScopeCode (s : State) (pa : Nat) : Nat := barScope (barRead s pa) + 1

/-- Entries of the thread's vector queue come before a cause that the instruction in progress raises (R142). -/
def earlierFirst (s : State) : Bool :=
  match s.cur with
  | .thread k => !(thr s k).vq.isEmpty
  | _ => false

/-- R178: `bar.arrive`. The limit on B is tested first, as the rule lists it; a refused arrival has taken its release, once.
(DESIGN CHOICE: log entry 64.) -/
def execBarArrive (d a b : Fin 32) (s : State) : Out :=
  let ea := x s a
  let n := (x s b).toNat
  if cWaits s then stall s
  else if 2 ^ 31 - 1 < n then accessFault 0x43 ea s
  else closeAccess ea (scopedObject true ea s) (fun pa s =>
    match releaseGate (barScopeCode s pa) true s with
      | .stop o => o
      | .go s =>
        let i := curIssuer s
        let prior : Word := if barPhase (barRead s pa) then 1 else 0
        let released := curEpochStep (curJoin (barClock s pa) s)
        match barUpdate (.arrive n) pa (i.rdom, i.agent) released with
        | some s => writeOn d prior s
        | none => if earlierFirst s then stall s else accessFault 0x43 ea released)

/-- R178: `bar.expect`. -/
def execBarExpect (a b : Fin 32) (s : State) : Out :=
  let ea := x s a
  let n := (x s b).toNat
  if cWaits s then stall s
  else if 2 ^ 31 - 1 < n then accessFault 0x43 ea s
  else closeAccess ea (scopedObject true ea s) (fun pa s =>
    match barUpdate (.expect n) pa (0, 0) s with
      | some s => .next (finish s)
      | none => accessFault 0x43 ea s)

/-- R179, R128: the phase that a wait or test names has ended, and no reset that its flip took waits for the tag sweep. -/
def phaseEnded (s : State) (pa : Nat) (b : Fin 32) : Bool :=
  barPhase (barRead s pa) != (x s b).getLsbD 0 && !(barClk (barRead s pa) && (dom s (curIssuer s).rdom).due)

/-- R179: `bar.wait`. -/
def execBarWait (a b : Fin 32) (s : State) : Out :=
  let ea := x s a
  if cWaits s then stall s
  else closeAccess ea (scopedObject false ea s) (fun pa s =>
    if phaseEnded s pa b then .next (finish (curMerge (barClock s pa) s)) else blockOn s)

/-- R179: `bar.test`. -/
def execBarTest (d a b : Fin 32) (s : State) : Out :=
  let ea := x s a
  if cWaits s then stall s
  else closeAccess ea (scopedObject false ea s) (fun pa s =>
    if phaseEnded s pa b then writeOn d 1 (curMerge (barClock s pa) s) else writeOn d 0 s)

/-- R180: the object that `bar.init` writes. -/
def barInitObject (b : Word) : Nat :=
  bitsOf b.toNat 15 0 + bitsOf b.toNat 18 16 * 2 ^ 65 + bitsOf b.toNat 19 19 * 2 ^ 68 + bitsOf b.toNat 35 20 * 2 ^ 96

/-- R180: `bar.init`, which writes the object whole, its WATCH bits zero with it. (DESIGN CHOICE: log entry 64.) -/
def execBarInit (a b : Fin 32) (s : State) : Out :=
  let ea := x s a
  let v := x s b
  if cWaits s then stall s
  else closeAccess ea (barObject true ea s) (fun pa s =>
    if bitsOf v.toNat 63 36 ≠ 0 ∨ 4 ≤ bitsOf v.toNat 18 16 ∨ barArmd (barRead s pa) = true then accessFault 0x43 ea s
    else .next (finish { storeMem s pa 16 (barInitObject v) with
      barriers := setInsert pa s.barriers
      arrivals := tabErase pa s.arrivals }))

end Sys2Proof.Machine
end

