-- ==== Sys2Proof/Machine/Copy.lean ====
section
/-! DEFINITION. Copy engines (R302..R313, R320): reductions and conversions of streams, the accesses of the X path granule by
granule, and one transfer of a copy command. -/

namespace Sys2Proof.Machine

/-! ## Elements of a stream -/

/-- The `n` fields of `w` bits of a number, the lowest first. -/
def fieldsOf (w n v : Nat) : List Nat := (List.range n).map (fun i => v / 2 ^ (w * i) % 2 ^ w)

/-- Fields of `w` bits as one number, the first lowest. -/
def joinFields (w : Nat) : List Nat → Nat
  | [] => 0
  | a :: l => a % 2 ^ w + 2 ^ w * joinFields w l

/-- Results with flags, joined. -/
def joinFlagged (w : Nat) (l : List (Nat × Flags7)) : Nat × Flags7 :=
  (joinFields w (l.map (·.1)), l.foldl (fun f a => f ||| a.2) 0)

/-- Two lists combined element by element. -/
def zipMap {α β γ : Type} (f : α → β → γ) : List α → List β → List γ
  | a :: as, b :: bs => f a b :: zipMap f as bs
  | _, _ => []

/-- R312: the width in bytes of an element type 0 f32, 1 bf16, 2 bfp16 (a block), 3 i32. -/
def redWidth : Nat → Nat
  | 0 => 4 | 1 => 2 | 2 => 96 | _ => 4

/-- R312: one element of `reduce(op, t, p, q)` for a plain type; `p` is the left operand. -/
def redElem (op t p q : Nat) : Nat × Flags7 :=
  if t = 3 then
    let a := signedOf 4 p
    let b := signedOf 4 q
    match op with
    | 0 => ((p + q) % 2 ^ 32, 0)
    | 1 => (if b < a then q else p, 0)
    | _ => (if a < b then q else p, 0)
  else if op = 0 then addCode t RNE 0 p q
  else minMaxCode t (op == 2) p q

/-- R312, R86: element `j` of a 96-byte block. -/
def blockElem (b j : Nat) : FVal := scaleVal (elemVal 9 (b / 2 ^ (16 * j) % 2 ^ 16)) (bfpExp (b / 2 ^ 512 % 256) - 15)

/-- R312: a block from its exponent byte and its mantissas; the padding is zero. -/
def blockOfMants (x : Nat) (ms : List Int) : Nat :=
  joinFields 16 (ms.map (fun m => (m % 65536).toNat)) + x * 2 ^ 512

/-- R312: `op` of two exact values. -/
def redVal (op : Nat) (a b : FVal) : FVal :=
  match op with
  | 0 => (addVal RNE a b).1
  | 1 => if ltVal false b a then b else a
  | _ => if ltVal false a b then b else a

/-- R312: one bfp16 block of `reduce`. -/
def redBlock (op p q : Nat) : Nat × Flags7 :=
  if p / 2 ^ 512 % 256 = 0x80 ∨ q / 2 ^ 512 % 256 = 0x80 then (0x80 * 2 ^ 512, 0)
  else
    let r := bfpConvert ((List.range 32).map (fun j => redVal op (blockElem p j) (blockElem q j))) false
    (blockOfMants r.1 r.2.1, r.2.2)

/-- R312: `reduce(op, t, p, q)` over `n` bytes. -/
def redBytes (op t n p q : Nat) : Nat × Flags7 :=
  let w := redWidth t
  let f := if t = 2 then redBlock op else redElem op t
  joinFlagged (8 * w) (zipMap f (fieldsOf (8 * w) (n / w) p) (fieldsOf (8 * w) (n / w) q))

/-- R311: `n` elements converted by RNE. -/
def cvtBytes (src dst n v : Nat) : Nat × Flags7 :=
  joinFlagged (fmtBits dst) ((fieldsOf (fmtBits src) n v).map (fun b => let r := cvtCode src dst RNE 0 b; (r.1, r.2.1)))

/-! ## Addresses -/

/-- R280: a reserved bank-rotation code. -/
def rotReserved (code : Nat) : Bool := !code.testBit 6 && code % 64 != 0

/-- R280: the byte offset within a scratchpad that an access through a rotation code reaches. -/
def rotOffset (code o : Nat) : Nat :=
  if code.testBit 6 then
    let w := o / 32
    32 * (64 * (w / 64) + (w + code % 64 * (w / 64)) % 64) + o % 32
  else o

/-- R280, R307: the physical address of a byte under a rotation code, which applies in scratchpads only. -/
def rotAddr (code pa : Nat) : Nat :=
  match placeOf pa with
  | .scratchpad _ _ =>
    let o := localOf pa % 0x800000
    pa - o + rotOffset code o
  | _ => pa

/-- The pieces of `n` bytes at an address that lie in one aligned 32-byte word each: address and length. -/
def wordsOf : Nat → Word → Nat → List (Word × Nat)
  | 0, _, _ => []
  | k + 1, a, n =>
    if n = 0 then []
    else
      let m := min n (32 - a.toNat % 32)
      (a, m) :: wordsOf k (a + BitVec.ofNat 64 m) (n - m)

/-- The pieces of `n` bytes at an address. -/
def piecesOf (a : Word) (n : Nat) : List (Word × Nat) := wordsOf (n / 32 + 2) a n

/-- R316: the physical address on the device that a group table names, if one is named. -/
def onDevice (dev : Option Nat) (pa : Nat) : Nat :=
  match dev with
  | none => pa
  | some d => d * 0x100000000000 + localOf pa

/-- R320, R316: steps 1..5 of R253 for an access of the X, F or N path through a rotation code, on another device where a group table
says so. -/
def xResolve (w : Who) (rd wr : Bool) (code : Nat) (dev : Option Nat) (ea : Word) (s : State) : Res (Word × Nat) :=
  if 2 ^ 57 ≤ ea.toNat then .exc 0x10 s
  else match leafOf s w.tlbs w.die w.iss.asid ea.toNat with
    | none => .exc 0x10 s
    | some p =>
      let pa := rotAddr code (onDevice dev (physOf p ea.toNat))
      let s := noteAccess w ea.toNat s
      if (rd && !pteRd p) || (wr && !pteWr p) then .exc 0x11 s
      else match (if pteMc p then none else reachFor s w.die w.path wr p pa) with
        | some c => if c = 0x70 ∧ lostAt s w pa = true then .lost 0x72 s else .exc c s
        | none =>
          if wr = true ∧ snapHeld s w.die w.iss.asid ea.toNat = true then .wait s
          else if wr = true ∧ pteCow p = true then
            (match poolNext s w.die (pteSize p) with
              | none => .exc 0x12 s
              | some _ => .wait (wantCopy w.die w.iss.asid ea.toNat s))
          else if ptePsn p then .exc 0x30 s
          else .ok (p, pa) s

/-- Where the bytes of one side of a command lie: addresses through translation, with a rotation code and a device, or the
bytes of a tile, by its cluster and number, with a rotation code (R308). -/
inductive Side where
  | mem (code : Nat) (dev : Option Nat)
  | tile (ck t code : Nat)
  deriving DecidableEq, Repr

/-- R308: the physical address of a destination byte of a tile. -/
def tileByte (s : State) (ck t code : Nat) (a : Word) : Nat := rotAddr code (scratchBase ck + tileBase (tileEntry s ck t) + a.toNat)

/-- The mark of a granule that has arrived with an uncorrectable error in a fill of its tile (R31). -/
def arrivedBad (g : Nat) : Nat := 2 ^ 48 + g

/-- R31, R287: bytes of a tile-addressed write are performed; a granule that arrives with an uncorrectable error is poisoned and
sets POIS of the tile. A tile address goes through no leaf (R308): no race is checked, and the lines then carry domain 0. (DESIGN CHOICE:
log entry 51.) -/
def tileWrite (ck t pa n v : Nat) (s : State) : State :=
  let s := clearTags (storeBank pa n v s) pa n
  let hit := (linesOf pa n).filter (fun g => s.latent.contains (2 ^ 47 + g))
  if hit.isEmpty then s
  else setTileEntry ck t (setBits (tileEntry s ck t) 66 66 1)
    { s with
      poison := hit.foldl (fun l g => setInsert g l) s.poison
      latent := hit.foldl (fun l g => setInsert (arrivedBad g) l) (s.latent.filter (fun g => !(decide (2 ^ 47 ≤ g) && hit.contains (g - 2 ^ 47)))) }

/-- R31, R287: a fill of a tile begins: what its granules arrived with in the fill before is past. -/
def fillBegins (s : State) (ck t : Nat) : State :=
  let e := tileEntry s ck t
  if tileState e ≠ 0 then s
  else
    let lo := scratchBase ck + tileBase e
    { s with latent := s.latent.filter (fun g => !(decide (2 ^ 48 + lo / 64 ≤ g) && decide (g ≤ 2 ^ 48 + (lo + tileSize e) / 64))) }

/-- R287: a tile-addressed write is accepted with a new entry. What an earlier writer left unwritten may now be made up. -/
def tileTake (ck t e : Nat) (s : State) : State :=
  let s := setTileEntry ck t e (fillBegins s ck t)
  setCluster s ck { cluster s ck with unfilled := setErase t (cluster s ck).unfilled }

/-- R287: a writer of a tile has stopped, with bytes accepted that it does not write: the tile stays filling until a further write
is accepted. (DESIGN CHOICE: log entry 51.) -/
def tileLeft (d : Option (Nat × Nat)) (s : State) : State :=
  match d with
  | none => s
  | some (ck, t) => setCluster s ck { cluster s ck with unfilled := setInsert t (cluster s ck).unfilled }

/-- R28, R320, R352: a tile on another device is reached while its pair stands; what was on its way to it when the pair was lost
is lost. -/
def tileGate (w : Who) (ck pa n : Nat) (s : State) : Res Unit :=
  let dev := devOfDie (ck / 16)
  if dev = devOfDie w.die then .ok () s
  else if !inDomain s (devOfDie w.die) dev || (pair s w.die dev).lost then
    (if lostAt s w pa then .lost 0x71 s else .exc 0x70 s)
  else remoteGate w pa 8 n 0 0 s

/-- R320: read one piece; `wr` says that it is a destination as well. -/
def readPiece (w : Who) (d : Side) (wr : Bool) (a : Word) (n : Nat) (s : State) : Res Nat :=
  match d with
  | .mem code dev =>
    (xResolve w true wr code dev a s).next (fun q s => if pteMc q.1 then .exc 0x13 s else loadAt w q.1 q.2 n s)
  | .tile ck t code =>
    let pa := tileByte s ck t code a
    (tileGate w ck pa n s).next (fun _ s => if poisoned s pa n then .exc 0x30 s else .ok (readMem s pa n) s)

/-- R119, R320: write one piece. -/
def writePiece (w : Who) (d : Side) (a : Word) (n v : Nat) (s : State) : Res Unit :=
  match d with
  | .mem code dev =>
    (xResolve w false true code dev a s).next (fun q s => storeAt w q.1 q.2 n (v % 256 ^ n) q.2 (q.2 + n) s)
  | .tile ck t code =>
    let pa := tileByte s ck t code a
    (tileGate w ck pa n s).next (fun _ s =>
      if barrierRefuses s pa n pa (pa + n) then .exc 0x43 s else .ok () (tileWrite ck t pa n (v % 256 ^ n) s))

/-- R320: read pieces in order. -/
def readPieces (w : Who) (d : Side) (wr : Bool) : List (Word × Nat) → State → Res Nat
  | [], s => .ok 0 s
  | (a, n) :: l, s =>
    (readPiece w d wr a n s).next (fun v s => (readPieces w d wr l s).next (fun u s => .ok (v + 256 ^ n * u) s))

/-- R320: write pieces in order. -/
def writePieces (w : Who) (d : Side) : List (Word × Nat) → Nat → State → Res Unit
  | [], _, s => .ok () s
  | (a, n) :: l, v, s => (writePiece w d a n v s).next (fun _ s => writePieces w d l (v / 256 ^ n) s)

/-- Read `n` bytes at an address, all of them or none. -/
def xRead (w : Who) (d : Side) (wr : Bool) (a : Word) (n : Nat) (s : State) : Res Nat :=
  wholeOr s (readPieces w d wr (piecesOf a n) s)

/-- Write `n` bytes at an address, all of them or none. -/
def xWrite (w : Who) (d : Side) (a : Word) (n v : Nat) (s : State) : Res Unit := wholeOr s (writePieces w d (piecesOf a n) v s)

/-- The physical address of a byte of one side, where it has one on the maker's device or in a tile. -/
def sideAddr (w : Who) (d : Side) (s : State) (a : Word) : Option Nat :=
  match d with
  | .mem code dev => (leafOf s w.tlbs w.die w.iss.asid a.toNat).map (fun p => rotAddr code (onDevice dev (physOf p a.toNat)))
  | .tile ck t code => some (tileByte s ck t code a)

/-- R320, R253: `n` bytes from `a` have followed `before` bytes of the same run: the granules that the run has now overwritten
whole are not poisoned, but for those of a tile that arrived with an error (R31). (DESIGN CHOICE: log entry 51.) -/
def clearRun (w : Who) (d : Side) (a : Word) (before n : Nat) (s : State) : State :=
  (wordsOf (n / 32 + 2) a n).foldl (fun s q =>
    let g := q.1 + BitVec.ofNat 64 q.2 - 64
    if (a - g).toNat ≤ before ∨ (g - a).toNat < n then
      (match sideAddr w d s g, sideAddr w d s (g + 32) with
        | some x, some y =>
          if x % 64 = 0 ∧ x + 32 = y ∧ s.latent.contains (arrivedBad (x / 64)) = false
              ∧ s.packets.all (fun p => p.performed || !packetMeets p x 64) = true then
            clearPoison s x 64
          else s
        | _, _ => s)
    else s) s

/-! ## Records and completions -/

/-- The maker of the X accesses of a command of a copy engine. -/
def whoX (n : Nat) (i : Issuer) : Who := ⟨n / 4, [], .x, i, 2 ^ 22 + n, none⟩

/-- R41: the cursor of a copy engine. -/
def cpCursor (idx : List Nat) (gran : Nat) : Nat := joinFields 32 ((idx ++ [0, 0, 0, 0]).take 4) + gran % 2 ^ 32 * 2 ^ 128

/-- R315, R322: the barrier object that a record names: 0 for none. -/
def barNamed (a : Nat) : Option Word := if a = 0 then none else some (BitVec.ofNat 64 a)

/-- R310, R317: an address that must be a multiple of 16 in common memory or a scratchpad: the physical address. -/
def bankAt (w : Who) (wr : Bool) (a : Word) (s : State) : Res Nat :=
  if a.toNat % 16 ≠ 0 then .exc 0x13 s
  else (xResolve w (!wr) wr 0 none a s).next (fun q s =>
    if pteMc q.1 then .exc 0x13 s else if barPlace q.2 then .ok q.2 s else .exc 0x13 s)

/-- R310, R22: the object at a barrier address that a command names, if it names one. -/
def barOf (w : Who) (a : Option Word) (s : State) : Res (Option Nat) :=
  match a with
  | none => .ok none s
  | some a => (bankAt w true a s).next (fun pa s => .ok (some pa) s)

/-- R303: report bytes performed to a barrier object; the object may refuse the report with cause 0x43. -/
def reportBytes (w : Who) (a : Option Word) (n : Nat) (s : State) : Res Unit :=
  (barOf w a s).next (fun o s => match o with
    | none => .ok () s
    | some pa => match barUpdate (.complete n) pa (0, 0) s with
      | some s => .ok () s
      | none => .exc 0x43 s)

/-- Replace the command at the head of an engine's queue. -/
def setHeadCmd (n : Nat) (c : CopyCmd) (s : State) : State :=
  setEngine s n { engine s n with queue := c :: (engine s n).queue.tail }

/-- Remove the command at the head of an engine's queue. -/
def popCmd (n : Nat) (s : State) : State := setEngine s n { engine s n with queue := (engine s n).queue.tail }

/-- R304: flags of a command reach the thread that issued it. -/
def cmdFlags (i : Issuer) (f : BitVec 7) (s : State) : State :=
  if (thr s i.thread).bind = i.bind then orAflags i.thread f s else s

/-- R305: the ECLS 4 record of a command. -/
def cpRecord (n : Nat) (i : Issuer) (cause : BitVec 8) (idx : List Nat) (gran : Nat) (s : State) : State :=
  writeRecord (.engine 0) i (mkRecord 4 0 cause i (n % 4) (n / 4) (cpCursor idx gran)) [] s

/-- R308: the tile that a tile reference names: its cluster key and its number. -/
def tileRefOf (v : Word) : Nat × Nat :=
  ((dieKey (bitsOf v.toNat 24 17) (bitsOf v.toNat 16 12)) * 16 + bitsOf v.toNat 11 8, bitsOf v.toNat 7 0)

/-- R308: the command writes a tile. -/
def cpTile (c : CopyCmd) : Option (Nat × Nat) :=
  if c.kind = 0 ∧ c.dctl.toNat.testBit 56 = true then some (tileRefOf c.dst) else none

/-! ## Copy commands (R306..R312) -/

/-- R306: the operation: 0 copy, 1 transpose, 2 convert, 3 reduce, 4 reduce two streams. -/
def cpOp (c : CopyCmd) : Nat := c.fn / 16
/-- R306: the reduce operation. -/
def cpRop (c : CopyCmd) : Nat := c.fn / 4 % 4
/-- R306: the element type of a reduction. -/
def cpRty (c : CopyCmd) : Nat := c.fn % 4
/-- R307: ROWS. -/
def cpRows (c : CopyCmd) : Nat := bitsOf c.sctl.toNat 43 28
/-- R307: ROWB. -/
def cpRowb (c : CopyCmd) : Nat := if bitsOf c.dctl.toNat 43 28 = 0 then 65536 else bitsOf c.dctl.toNat 43 28
/-- R307: SPITCH. -/
def cpSpitch (c : CopyCmd) : Nat := bitsOf c.sctl.toNat 27 0
/-- R307: DPITCH. -/
def cpDpitch (c : CopyCmd) : Nat := bitsOf c.dctl.toNat 27 0
/-- R307: SFMT. -/
def cpSfmt (c : CopyCmd) : Nat := bitsOf c.sctl.toNat 48 44
/-- R307: DFMT. -/
def cpDfmt (c : CopyCmd) : Nat := bitsOf c.dctl.toNat 48 44
/-- R307: SROT. -/
def cpSrot (c : CopyCmd) : Nat := bitsOf c.sctl.toNat 55 49
/-- R307: DROT. -/
def cpDrot (c : CopyCmd) : Nat := bitsOf c.dctl.toNat 55 49

/-- R309: a format that `cp.cvt` takes. -/
def cvtFmtOk (f : Nat) : Bool := decide (f ≤ 4) || (decide (10 ≤ f) && decide (f ≤ 17))

/-- R310: a register holds a tile reference of the array (R401) in place of an address. -/
def isArrayRef (v : Word) : Bool := v.toNat.testBit 63

/-- R309: the alignments of the source, the destination and ROWB. -/
def cpAligns (c : CopyCmd) : Nat × Nat × Nat :=
  match cpOp c with
  | 0 => (1, 1, 1)
  | 1 => (32, 32, 32)
  | 2 => (fmtBits (cpSfmt c) / 8, fmtBits (cpDfmt c) / 8, fmtBits (cpSfmt c) / 8)
  | _ => match cpRty c with
    | 1 => (2, 2, 2)
    | 2 => (32, 32, 96)
    | _ => (4, 4, 4)

/-- R310: what stops a copy command before any granule, other than its barrier. (DESIGN CHOICE: log entry 51.) -/
def cpCheck (c : CopyCmd) : Option (BitVec 8) :=
  let tile := c.dctl.toNat.testBit 56
  let al := cpAligns c
  if bitsOf c.sctl.toNat 63 56 ≠ 0 ∨ bitsOf c.dctl.toNat 63 57 ≠ 0 ∨ rotReserved (cpSrot c) = true ∨ rotReserved (cpDrot c) = true
      ∨ cpRows c = 0 ∨ (tile = true ∧ (bitsOf c.dst.toNat 63 25 ≠ 0 ∨ 24 ≤ bitsOf c.dst.toNat 16 12))
      ∨ isArrayRef c.src = true ∨ (cpOp c = 4 ∧ isArrayRef c.second = true) ∨ (tile = false ∧ isArrayRef c.dst = true)
      ∨ (if cpOp c = 2 then cvtFmtOk (cpSfmt c) && cvtFmtOk (cpDfmt c) else cpSfmt c == 0 && cpDfmt c == 0) = false then some 0x01
  else if c.src.toNat % al.1 ≠ 0 ∨ cpSpitch c % al.1 ≠ 0 ∨ (cpOp c = 4 ∧ c.second.toNat % al.1 ≠ 0) ∨ cpDpitch c % al.2.1 ≠ 0
      ∨ (tile = false ∧ c.dst.toNat % al.2.1 ≠ 0) ∨ cpRowb c % al.2.2 ≠ 0 then some 0x03
  else none

/-- A unit of a transfer's walk: its first granule, the destination and its bytes, the source and its bytes. -/
structure Unit32 where
  gran : Nat
  dst : Word
  dlen : Nat
  src : Word
  slen : Nat
  deriving DecidableEq, Repr

/-- R308: the first destination address; offsets from BASE for a tile. -/
def cpDst (c : CopyCmd) : Word := if c.dctl.toNat.testBit 56 then 0 else c.dst

/-- R309: bytes of a row at the destination. -/
def cpDstRow (c : CopyCmd) : Nat :=
  if cpOp c = 2 then cpRowb c / (fmtBits (cpSfmt c) / 8) * (fmtBits (cpDfmt c) / 8) else cpRowb c

/-- Units of plain granules: `n` destination bytes at `d`, with source bytes in the ratio `ws : wt`. -/
def plainUnits (d : Word) (n : Nat) (src : Word) (ws wt : Nat) : List Unit32 :=
  (piecesOf d n).map (fun p =>
    ⟨p.1.toNat / 32 - d.toNat / 32, p.1, p.2, src + BitVec.ofNat 64 ((p.1 - d).toNat / wt * ws), p.2 / wt * ws⟩)

/-- R309, R311, R312: the units of transfer `r`, in walk order. -/
def cpUnits (c : CopyCmd) (r : Nat) : List Unit32 :=
  let src := c.src + BitVec.ofNat 64 (r * cpSpitch c)
  let d := cpDst c + BitVec.ofNat 64 (r * cpDpitch c)
  match cpOp c with
  | 1 => (List.range (cpRowb c / 32)).map (fun j =>
      ⟨j, cpDst c + BitVec.ofNat 64 (j * cpDpitch c + 32 * r), 32, src + BitVec.ofNat 64 (32 * j), 32⟩)
  | 2 => plainUnits d (cpDstRow c) src (fmtBits (cpSfmt c) / 8) (fmtBits (cpDfmt c) / 8)
  | o =>
    if 3 ≤ o ∧ cpRty c = 2 then
      (List.range (cpRowb c / 96)).map (fun j =>
        ⟨3 * j, d + BitVec.ofNat 64 (96 * j), 96, src + BitVec.ofNat 64 (96 * j), 96⟩)
    else plainUnits d (cpRowb c) src 1 1

/-- R308: the destination bytes of the whole command. -/
def cpTotal (c : CopyCmd) : Nat := cpRows c * cpDstRow c

/-- R308: the end of the highest destination byte, from the first destination address. -/
def cpTop (c : CopyCmd) : Nat :=
  if cpOp c = 1 then (cpRowb c / 32 - 1) * cpDpitch c + 32 * cpRows c else (cpRows c - 1) * cpDpitch c + cpDstRow c

/-- R307, R308: the destination side of a copy command. -/
def cpDstSide (c : CopyCmd) : Side :=
  match cpTile c with
  | some (ck, t) => .tile ck t (cpDrot c)
  | none => .mem (cpDrot c) none

/-- R311: one unit of a copy command, performed whole or not at all: its flags. -/
def cpUnit (w : Who) (c : CopyCmd) (u : Unit32) (s : State) : Res Flags7 :=
  let ds := cpDstSide c
  let ss := Side.mem (cpSrot c) none
  wholeOr s ((xRead w ss false u.src u.slen s).next (fun v s =>
    let made : Res (Nat × Flags7) := match cpOp c with
      | 2 => .ok (cvtBytes (cpSfmt c) (cpDfmt c) (u.slen / (fmtBits (cpSfmt c) / 8)) v) s
      | 3 => (xRead w ds true u.dst u.dlen s).next (fun old s => .ok (redBytes (cpRop c) (cpRty c) u.dlen old v) s)
      | 4 => (xRead w ss false (c.second + (u.src - c.src)) u.slen s).next (fun y s => .ok (redBytes (cpRop c) (cpRty c) u.dlen v y) s)
      | _ => .ok (v, 0) s
    made.next (fun r s => (xWrite w ds u.dst u.dlen r.1 s).next (fun _ s =>
      .ok r.2 (if cpOp c = 1 then s else clearRun w ds u.dst c.part u.dlen s)))))

/-! ## The walk of one transfer -/

/-- How a run of units ends: all done, a cause at a granule, or a wait. -/
inductive Walk where
  | all (c : CopyCmd) (s : State)
  | stop (cause : BitVec 8) (gran : Nat) (c : CopyCmd) (s : State)
  | wait (c : CopyCmd) (s : State)

/-- R341: the counted writes that a unit has sent. -/
def sentBy (s0 s : State) (gran part : Nat) : List (Nat × Nat × Nat) :=
  ((s.packets.filter (fun p => decide (s0.serial ≤ p.id))).map (fun p => (p.id, gran, part)))

/-- R311, R316, R320: perform units in order from the cursor. -/
def walkUnits (f : CopyCmd → Unit32 → State → Res Flags7) : List Unit32 → CopyCmd → State → Walk
  | [], c, s => .all c s
  | u :: l, c, s =>
    match f c u s with
    | .ok fl s1 =>
      walkUnits f l { c with gran := u.gran + (u.dlen + 31) / 32, flags := c.flags ||| fl, part := c.part + u.dlen, done := c.done + u.dlen,
                             sent := c.sent ++ sentBy s s1 u.gran c.part } s1
    | .exc e s => .stop e u.gran { c with gran := u.gran } s
    | .lost e s => .stop e u.gran { c with gran := u.gran } s
    | .wait s => .wait { c with gran := u.gran } s

/-- R320, R353: a command some of whose counted writes a pair loses keeps the lowest granule of them, with the bytes before it. -/
def noteCmdLoss (ids : List Nat) (c : CopyCmd) : CopyCmd :=
  match c.sent.find? (fun q => ids.contains q.1), c.lost with
  | some q, none => { c with lost := some q.2 }
  | some q, some l => if q.2.1 < l.1 then { c with lost := some q.2 } else c
  | none, _ => c

/-- A counted write of the command is on its way. -/
def sentPending (s : State) (c : CopyCmd) : Bool := c.sent.any (fun q => s.packets.any (fun p => p.id == q.1))

/-- R305, R320: the command at the head of a queue stops: once its writes are performed the bytes so far are reported, its flags reach
the thread, its record is written, and the engine goes on. The cause and the granule stand from the first. -/
def cpStop (n : Nat) (w : Who) (c : CopyCmd) (cause : BitVec 8) (gran : Nat) (s : State) : State :=
  let c := { c with stop := some (cause, gran) }
  if sentPending s c then setHeadCmd n c s
  else
    let ended := fun s => cpRecord n c.iss cause c.idx gran
      (cmdFlags c.iss c.flags (tileLeft (if c.started then cpTile c else none) (popCmd n (dropFailed (2 ^ 22 + n) s))))
    if c.part = 0 then ended s
    else match reportBytes w c.bar c.part s with
      | .ok _ s => ended s
      | .exc _ s => ended s
      | .lost _ s => ended s
      | .wait s => setHeadCmd n c s

/-- R303: a transfer is done: once its writes are performed its bytes are reported, and the walk goes on at `next`, or the command
completes. -/
def cpTransferEnd (n : Nat) (w : Who) (c : CopyCmd) (next : Option (List Nat)) (s : State) : State :=
  if sentPending s c then setHeadCmd n c s
  else match reportBytes w c.bar c.part s with
    | .wait s => setHeadCmd n c s
    | .exc e s => cpStop n w { c with part := 0 } e c.gran s
    | .lost e s => cpStop n w { c with part := 0 } e c.gran s
    | .ok _ s =>
      match next with
      | some i => setHeadCmd n { c with idx := i, gran := 0, part := 0, sent := [] } s
      | none => cmdFlags c.iss c.flags (popCmd n s)

/-- R320: go on with a command unless a pair has lost writes of it: it then stops at the lowest granule not acknowledged. One that is
stopping goes on doing so. -/
def unlessLost (n : Nat) (w : Who) (c : CopyCmd) (s : State) (f : State) : State :=
  match c.lost, c.stop with
  | some (g, b), _ => cpStop n w { c with part := b } 0x71 g s
  | none, some (e, g) => cpStop n w c e g s
  | none, none => f

/-- R311: one transfer of the copy command at the head of a queue, from its cursor. -/
def cpTransfer (n : Nat) (c : CopyCmd) (s : State) : State :=
  let w := whoX n c.iss
  let r := c.idx.headD 0
  let us := (cpUnits c r).filter (fun u => decide (c.gran ≤ u.gran))
  unlessLost n w c s (match walkUnits (cpUnit w) us c s with
    | .wait c s => setHeadCmd n c s
    | .stop e g c s => cpStop n w c e g s
    | .all c s => cpTransferEnd n w c (if r + 1 < cpRows c then some [r + 1, 0, 0, 0] else none) s)

/-- R308, R310: the checks of a copy command and the acceptance of its tile. -/
def cpBegin (n : Nat) (c : CopyCmd) (s : State) : State :=
  let w := whoX n c.iss
  let refuse := fun (e : BitVec 8) (s : State) => cpRecord n c.iss e [] 0 (popCmd n (dropFailed (2 ^ 22 + n) s))
  match cpCheck c with
  | some e => refuse e s
  | none =>
    match barOf w c.bar s with
    | .exc e s => refuse e s
    | .lost e s => refuse e s
    | .wait s => s
    | .ok _ s =>
      match cpTile c with
      | none => setHeadCmd n { c with started := true } s
      | some (ck, t) =>
        if devOfDie (ck / 16) ≠ devOfDie (n / 4) ∧ (!inDomain s (devOfDie (n / 4)) (devOfDie (ck / 16))
            || (pair s (n / 4) (devOfDie (ck / 16))).lost) = true then refuse 0x70 s
        else
          let e := tileEntry s ck t
          match tileAccept e (cpTotal c) with
          | .wait => s
          | .refused => refuse 0x54 s
          | .accepted e' =>
            if tileSize e < cpTop c then refuse 0x54 s
            else setHeadCmd n { c with started := true } (tileTake ck t e' s)

end Sys2Proof.Machine
end

