-- ==== Sys2Proof/Machine/Nest.lean ====
section
/-! DEFINITION. Affine loop nests (R314..R317), compression at the ports (R327), and bytes that a drain supplies (R328). -/

namespace Sys2Proof.Machine

/-! ## The record (R315) -/

/-- A field of the header. -/
def nestF (c : CopyCmd) (hi lo : Nat) : Nat := bitsOf c.record hi lo
/-- NLEV. -/
def nestLevels (c : CopyCmd) : Nat := nestF c 2 0
/-- KIND. -/
def nestKind (c : CopyCmd) : Nat := nestF c 4 3
/-- RTYPE. -/
def nestRty (c : CopyCmd) : Nat := nestF c 8 7
/-- PEERS or PEERD. -/
def nestPeers (c : CopyCmd) : Bool := nestF c 10 9 != 0
/-- FP8. -/
def nestFp8 (c : CopyCmd) : Bool := nestF c 11 11 == 1
/-- PSRC. -/
def nestPsrc (c : CopyCmd) : Bool := c.kind == 1 && nestF c 12 12 == 1
/-- N. -/
def nestN (c : CopyCmd) : Nat := nestF c 24 16
/-- PORT. -/
def nestPort (c : CopyCmd) : Nat := nestF c 44 40
/-- CHUNK. -/
def nestChunk (c : CopyCmd) : Nat := nestF c 95 64
/-- SGRAN. -/
def nestSgran (c : CopyCmd) : Nat := nestF c 127 96
/-- The address of the group table. -/
def nestGtab (c : CopyCmd) : Word := BitVec.ofNat 64 (nestF c 312 256)
/-- START. -/
def nestStart (c : CopyCmd) : List Nat := fieldsOf 32 4 (nestF c 511 384)
/-- A level entry. -/
def nestLevel (c : CopyCmd) (l : Nat) : Nat := bitsOf c.record (512 + 256 * l + 255) (512 + 256 * l)
/-- The level entries in use, the outermost first. -/
def nestLevelList (c : CopyCmd) : List Nat := (List.range (min 4 (nestLevels c))).map (nestLevel c)
/-- BOUND of a level. -/
def levBound (l : Nat) : Nat := bitsOf l 31 0
/-- A of a level. -/
def levA (l : Nat) : Nat := bitsOf l 47 32
/-- SSTR of a level. -/
def levSstr (l : Nat) : Word := BitVec.ofNat 64 (bitsOf l 127 64)
/-- DSTR of a level. -/
def levDstr (l : Nat) : Word := BitVec.ofNat 64 (bitsOf l 191 128)
/-- The nest reduces bfp16 blocks. -/
def nestBlocks (c : CopyCmd) : Bool := nestKind c == 1 && nestRty c == 2

/-- R317: what stops a nest before any granule, other than its barrier and the address of its group table. -/
def nestCheck (s : State) (die : Nat) (c : CopyCmd) : Option (BitVec 8) :=
  let ls := nestLevelList c
  if nestF c 15 13 ≠ 0 ∨ nestF c 31 25 ≠ 0 ∨ nestF c 63 45 ≠ 0 ∨ nestF c 191 185 ≠ 0 ∨ nestF c 255 249 ≠ 0 ∨ nestF c 319 313 ≠ 0
      ∨ nestF c 383 377 ≠ 0 ∨ nestLevels c = 0 ∨ 4 < nestLevels c ∨ 2 ≤ nestKind c ∨ (nestKind c = 1 ∧ nestF c 6 5 = 3)
      ∨ (nestPeers c = true ∧ (nestN c = 0 ∨ 256 < nestN c ∨ nestN c ≤ nestF c 39 32))
      ∨ nestChunk c ≤ 32 * nestSgran c ∨ (nestBlocks c = true ∧ nestSgran c % 3 ≠ 0)
      ∨ (nestFp8 c = true ∧ (nestKind c = 0 ∨ nestRty c ≠ 1))
      ∨ (nestPeers c = true ∧ c.gtab.any (fun g => decide (256 ≤ g) || !inDomain s (devOfDie die) g) = true)
      ∨ ls.any (fun l => bitsOf l 63 48 != 0 || bitsOf l 255 192 != 0) = true
      ∨ (zipMap (fun (i l : Nat) => decide (levBound l ≤ i)) (nestStart c) ls).any id = true then some 0x01
  else if nestChunk c % 32 ≠ 0 ∨ nestChunk c < 32 ∨ 2 ^ 24 < nestChunk c ∨ (nestBlocks c = true ∧ nestChunk c % 96 ≠ 0)
      ∨ nestF c 184 128 % 32 ≠ 0 ∨ nestF c 248 192 % 32 ≠ 0
      ∨ ls.any (fun l => (levSstr l).toNat % 32 != 0 || (levDstr l).toNat % 32 != 0) = true then some 0x03
  else none

/-! ## The walk (R316) -/

/-- The sum of indices times strides. -/
def strideSum : List Nat → List Word → Word
  | i :: is, t :: ts => BitVec.ofNat 64 i * t + strideSum is ts
  | _, _ => 0

/-- R316: the source address of the transfer at indices. -/
def nestSrc (c : CopyCmd) : Word := BitVec.ofNat 64 (nestF c 184 128) + strideSum c.idx ((nestLevelList c).map levSstr)
/-- R316: the destination address. -/
def nestDst (c : CopyCmd) : Word := BitVec.ofNat 64 (nestF c 248 192) + strideSum c.idx ((nestLevelList c).map levDstr)

/-- R316: the device GTAB[P] of the transfer. -/
def nestPeer (c : CopyCmd) : Nat :=
  let sum := (zipMap (fun (i a : Nat) => i * a) c.idx ((nestLevelList c).map levA)).foldl (· + ·) 0
  c.gtab.getD ((nestF c 39 32 + sum) % nestN c) 0

/-- R316: the device of the source, where the group table names it. -/
def nestSdev (c : CopyCmd) : Option Nat := if nestF c 9 9 = 1 then some (nestPeer c) else none
/-- R316: the device of the destination, where the group table names it. -/
def nestDdev (c : CopyCmd) : Option Nat := if nestF c 10 10 = 1 then some (nestPeer c) else none

/-- R316: the indices after `idx` in lexicographic order, innermost fastest; levels and bounds are given innermost first. -/
def nextIndex : List Nat → List Nat → Option (List Nat)
  | i :: is, b :: bs => if i + 1 < b then some ((i + 1) :: is) else (nextIndex is bs).map (fun l => 0 :: l)
  | _, _ => none

/-- R316: the indices of the transfer after the present one. -/
def nestNext (c : CopyCmd) : Option (List Nat) :=
  let ls := nestLevelList c
  (nextIndex (c.idx.take ls.length).reverse (ls.map levBound).reverse).map (fun l => (l.reverse ++ [0, 0, 0, 0]).take 4)

/-- R316: the units of a transfer from the cursor: granules of 32 bytes, or blocks of three. -/
def nestUnits (c : CopyCmd) : List Unit32 :=
  let u := if nestBlocks c then 3 else 1
  (List.range ((nestChunk c / 32 - c.gran + u - 1) / u)).map (fun j =>
    let g := c.gran + u * j
    ⟨g, nestDst c + BitVec.ofNat 64 (32 * g), 32 * u, nestSrc c + BitVec.ofNat 64 (32 * g), 32 * u⟩)

/-! ## Compression (R327) -/

/-- R327: one block of bf16 elements compressed to e4m3 codes with a scale and expanded again, with the flags. -/
def fp8Block (l : List Nat) : List Nat × Flags7 :=
  let vs := l.map (floatVal 1)
  if vs.any (fun v => match v with | .fin _ _ _ => false | _ => true) then (l.map (fun _ => fmtNan 1), fNV)
  else
    let mags : List Int := vs.filterMap (fun v => match v with
      | .fin _ m e => if m = 0 then none else some ((Nat.log2 m : Int) + e)
      | _ => none)
    match mags with
    | [] => (l.map (fun _ => 0), 0)
    | m :: ms =>
      let e := ms.foldl max m
      let sc : Int := max 0 (min 254 (e - 7 + 127))
      let r := vs.map (fun v =>
        let q := rndTo 3 RNE 0 (scaleVal v (127 - sc))
        let b := rndTo 1 RNE 0 (scaleVal (floatVal 3 q.1) (sc - 127))
        (b.1, q.2.1))
      (r.map (·.1), r.foldl (fun f q => f ||| q.2) 0)

/-- R327: a stream of `n` bytes of bf16 as it arrives after compression. -/
def fp8Bytes (n v : Nat) : Nat × Flags7 :=
  let bs := (chunksOf 32 (n / 2 + 1) (fieldsOf 16 (n / 2) v)).map fp8Block
  (joinFields 16 (bs.map (·.1)).flatten, bs.foldl (fun f b => f ||| b.2) 0)

/-- A value of `n` bytes that crosses ports a number of times, compressed each time (R327). -/
def hopTimes (fp8 : Bool) (n : Nat) : Nat → Nat × Flags7 → Nat × Flags7
  | 0, v => v
  | k + 1, v =>
    if fp8 then let r := fp8Bytes n v.1; hopTimes fp8 n k (r.1, v.2 ||| r.2) else v

/-- The device that one side of a nest lies on: the group table's, or the one that its address translates to. -/
def sideDev (w : Who) (d : Option Nat) (a : Word) (s : State) : Nat :=
  match d with
  | some d => d
  | none => match leafOf s w.tlbs w.die w.iss.asid a.toNat with
    | some p => devOf (physOf p a.toNat)
    | none => devOfDie w.die

/-- R327: how many times granule `g` of the transfer leaves a port: from the source's device to the engine's, and from there to the
destination's. A destination reached through a multicast page is read first (R327 needs KIND 1), which stops the nest (R349).
(DESIGN CHOICE: log entry 52.) -/
def nestHops (w : Who) (c : CopyCmd) (g : Nat) (s : State) : Nat :=
  let at_ := BitVec.ofNat 64 (32 * g)
  (!nestPsrc c && sideDev w (nestSdev c) (nestSrc c + at_) s != devOfDie w.die).toNat
    + (sideDev w (nestDdev c) (nestDst c + at_) s != devOfDie w.die).toNat

/-- R327: the granules of the block of 32 elements of which granule `g` is one: those of its pair that leave ports as it does, as the
first of them and their bytes. -/
def nestBlock (w : Who) (c : CopyCmd) (g : Nat) (s : State) : Nat × Nat :=
  let l := [g - g % 2, g - g % 2 + 1].filter (fun j => decide (32 * j < nestChunk c) && nestHops w c j s == nestHops w c g s)
  (l.headD g, 32 * l.length)

/-- R328: the granule of the transfer that the bytes a drain has supplied begin at; a compressed block is kept until it is whole. -/
def feedBase (c : CopyCmd) : Nat :=
  if nestFp8 c = true ∧ 32 * c.gran ≠ nestChunk c then c.gran - c.gran % 2 else c.gran

/-- R316, R328: `n` source bytes from a granule; `fb` is the granule that supplied bytes begin at. -/
def nestBytes (w : Who) (fb : Nat) (c : CopyCmd) (g n : Nat) (s : State) : Res Nat :=
  if nestPsrc c then .ok (joinFields 8 (((c.feed.drop (32 * (g - fb))).take n).map BitVec.toNat)) s
  else xRead w (.mem 0 (nestSdev c)) false (nestSrc c + BitVec.ofNat 64 (32 * g)) n s

/-- R316, R327: the source bytes of a unit as they arrive. -/
def nestSource (w : Who) (fb : Nat) (c : CopyCmd) (u : Unit32) (s : State) : Res (Nat × Flags7) :=
  if nestFp8 c = true ∧ nestHops w c u.gran s ≠ 0 then
    let b := nestBlock w c u.gran s
    (nestBytes w fb c b.1 b.2 s).next (fun v s =>
      let r := hopTimes true b.2 (nestHops w c u.gran s) (v, 0)
      .ok (r.1 / 256 ^ (32 * (u.gran - b.1)) % 256 ^ 32, r.2) s)
  else (nestBytes w fb c u.gran u.slen s).next (fun v s => .ok (v, 0) s)

/-- R316: one unit of a nest, performed whole or not at all: its flags. -/
def nestUnit (w : Who) (fb : Nat) (c : CopyCmd) (u : Unit32) (s : State) : Res Flags7 :=
  let dd := Side.mem 0 (nestDdev c)
  wholeOr s ((nestSource w fb c u s).next (fun v s =>
    let made : Res (Nat × Flags7) :=
      if nestKind c = 1 then
        (xRead w dd true u.dst u.dlen s).next (fun old s =>
          let r := redBytes (nestF c 6 5) (nestRty c) u.dlen old v.1
          .ok (r.1, r.2 ||| v.2) s)
      else .ok v s
    made.next (fun r s => (xWrite w dd u.dst u.dlen r.1 s).next (fun _ s => .ok r.2 (clearRun w dd u.dst c.part u.dlen s)))))

/-- R328: the units for which a nest has its source bytes, whole blocks where they are compressed. -/
def nestFed (c : CopyCmd) : List Unit32 :=
  if nestPsrc c then
    (nestUnits c).filter (fun u =>
      decide ((if nestFp8 c then min (64 * (u.gran / 2 + 1)) (nestChunk c) else 32 * u.gran + u.slen)
        ≤ 32 * feedBase c + c.feed.length))
  else nestUnits c

/-- R328: the bytes that a nest has moved are no longer kept; `fb` is the granule that the kept ones began at. -/
def dropFed (fb : Nat) (c : CopyCmd) : CopyCmd := if nestPsrc c then { c with feed := c.feed.drop (32 * (feedBase c - fb)) } else c

/-- R316: one transfer of the nest at the head of a queue, from its cursor. -/
def nestTransfer (n : Nat) (c : CopyCmd) (s : State) : State :=
  let w := whoX n c.iss
  let fb := feedBase c
  unlessLost n w c s (match walkUnits (nestUnit w fb) (nestFed c) c s with
    | .wait c s => setHeadCmd n (dropFed fb c) s
    | .stop e g c s => cpStop n w (dropFed fb c) e g s
    | .all c s =>
      let c := dropFed fb c
      if (nestUnits c).isEmpty then cpTransferEnd n w c (nestNext c) s else setHeadCmd n c s)

/-- R317, R310: what stops a nest before any granule. -/
def nestRefused (w : Who) (c : CopyCmd) (s : State) : Res Unit :=
  match (match c.bad with | some e => some e | none => nestCheck s w.die c) with
  | some e => .exc e s
  | none =>
    (if nestPeers c then (bankAt w false (nestGtab c) s).next (fun _ s => .ok () s) else Res.ok () s).next (fun _ s =>
      (barOf w c.bar s).next (fun _ s => .ok () s))

/-- R316, R317: a nest begins, once it has been checked. -/
def nestBegin (n : Nat) (c : CopyCmd) (s : State) : State :=
  let refuse := fun (e : BitVec 8) (s : State) => cpRecord n c.iss e (nestStart c) (nestSgran c) (popCmd n (dropFailed (2 ^ 22 + n) s))
  match nestRefused (whoX n c.iss) c s with
  | .exc e s => refuse e s
  | .lost e s => refuse e s
  | .wait s => s
  | .ok _ s =>
    setHeadCmd n { c with started := true, gran := nestSgran c,
                          idx := ((nestStart c).take (nestLevels c) ++ [0, 0, 0, 0]).take 4,
                          feed := if nestPsrc c then List.replicate (32 * (nestSgran c - feedBase { c with gran := nestSgran c })) 0
                                  else [] } s

/-- R328: the bytes that a nest has yet to be given. -/
def nestNeed (c : CopyCmd) : Nat :=
  let ls := nestLevelList c
  let total := (ls.map levBound).foldl (· * ·) 1
  let at_ := (zipMap (fun (i b : Nat) => (i, b)) c.idx (ls.map levBound)).foldl (fun a p => a * p.2 + p.1) 0
  (total - at_) * nestChunk c - 32 * feedBase c - c.feed.length

/-! ## Reading the record at issue (R302, R314) -/

/-- The record of a nest as it is read at issue: its bytes and group table, or the cause for which it cannot be read. (DESIGN CHOICE: log entry 52.) -/
def nestRead (w : Who) (a : Word) (s : State) : Res (Nat × List Nat × Option (BitVec 8)) :=
  if a.toNat % 64 ≠ 0 then .ok (0, [], some 0x03) s
  else
    let all := (xRead w (.mem 0 none) false a 64 s).next (fun h s =>
      let n := bitsOf h 2 0
      let lev := if 1 ≤ n ∧ n ≤ 4 then n else 0
      (if lev = 0 then Res.ok 0 s else xRead w (.mem 0 none) false (a + 64) (32 * lev) s).next (fun l s => .ok (h + 2 ^ 512 * l) s))
    match all with
    | .exc e s => .ok (0, [], some e) s
    | .lost e s => .ok (0, [], some e) s
    | .wait s => .wait s
    | .ok rec s =>
      let n := bitsOf rec 24 16
      if bitsOf rec 10 9 ≠ 0 ∧ 1 ≤ n ∧ n ≤ 256 then
        (match xRead w (.mem 0 none) false (BitVec.ofNat 64 (bitsOf rec 312 256)) (2 * n) s with
          | .ok g s => .ok (rec, fieldsOf 16 n g, none) s
          | .exc e s => .ok (rec, [], some e) s
          | .lost e s => .ok (rec, [], some e) s
          | .wait s => .wait s)
      else .ok (rec, [], none) s

end Sys2Proof.Machine
end

