-- ==== Sys2Proof/Machine/Collective.lean ====
section
/-! DEFINITION. Collectives (R321..R327, R329): the record, the rendezvous through member 0, the reductions in the order that
each algorithm fixes, route mode, completion and abort. -/

namespace Sys2Proof.Machine

/-! ## The record (R322) -/

/-- A field of the record. -/
def collF (c : CopyCmd) (hi lo : Nat) : Nat := bitsOf c.record hi lo
/-- N. -/
def collN (c : CopyCmd) : Nat := collF c 7 0 + 1
/-- ME. -/
def collMe (c : CopyCmd) : Nat := collF c 15 8
/-- ROP. -/
def collRop (c : CopyCmd) : Nat := collF c 17 16
/-- RTYPE. -/
def collRty (c : CopyCmd) : Nat := collF c 19 18
/-- ROUTE. -/
def collRoute (c : CopyCmd) : Bool := collF c 20 20 == 1
/-- ROOT. -/
def collRoot (c : CopyCmd) : Nat := collF c 31 24
/-- TAG. -/
def collTag (c : CopyCmd) : Nat := collF c 47 32
/-- S. -/
def collS (c : CopyCmd) : Nat := collF c 127 64
/-- SBASE. -/
def collSbase (c : CopyCmd) : Word := BitVec.ofNat 64 (collF c 184 128)
/-- DBASE. -/
def collDbase (c : CopyCmd) : Word := BitVec.ofNat 64 (collF c 248 192)
/-- RTBL. -/
def collRtbl (c : CopyCmd) : Word := BitVec.ofNat 64 (collF c 440 384)
/-- R321: the kind: 0 `ar`, 1 `rs`, 2 `ag`, 3 `a2a`, 4 `bc`, 5 `tm`. -/
def collKind (c : CopyCmd) : Nat := c.fn % 8
/-- R327: traffic of the collective is compressed. -/
def collFp8 (c : CopyCmd) : Bool := c.fn.testBit 3 && collRty c == 1
/-- R325: the unit of a part. -/
def collUnit (c : CopyCmd) : Nat := if collRty c = 2 then 96 else 32

/-- R323: bytes of the destination of one member. -/
def collDstBytes (c : CopyCmd) : Nat :=
  match collKind c with
  | 1 => collS c / collN c
  | 2 => collN c * collS c
  | _ => collS c

/-- R323, R324: what stops a collective at issue, other than its barrier. -/
def collCheck (s : State) (die : Nat) (c : CopyCmd) : Option (BitVec 8) :=
  let k := collKind c
  let sz := collS c
  let n := collN c
  if collF c 23 21 ≠ 0 ∨ collF c 63 48 ≠ 0 ∨ collF c 191 185 ≠ 0 ∨ collF c 255 249 ≠ 0 ∨ collF c 319 313 ≠ 0 ∨ collF c 383 377 ≠ 0
      ∨ collF c 511 441 ≠ 0 ∨ collRop c = 3 ∨ n ≤ collMe c ∨ (k = 4 ∧ n ≤ collRoot c)
      ∨ sz % (if k = 1 ∨ k = 3 then 32 * n else 32) ≠ 0 ∨ (collRty c = 2 ∧ sz % (if k = 1 then 96 * n else 96) ≠ 0)
      ∨ c.gtab.getD (collMe c) 0 ≠ devOfDie die ∨ c.gtab.eraseDups.length ≠ n
      ∨ c.gtab.any (fun g => decide (256 ≤ g) || !inDomain s (devOfDie die) g) = true
      ∨ (collRoute c = true ∧ (k = 1 ∨ k = 3 ∨ k = 5)) then some 0x01
  else none

/-- R302, R321: the record of a collective as it is read at issue. -/
def collRead (w : Who) (a : Word) (s : State) : Res (Nat × List Nat × Option (BitVec 8)) :=
  if a.toNat % 64 ≠ 0 then .ok (0, [], some 0x03) s
  else
    let all := (xRead w (.mem 0 none) false a 64 s).next (fun h s =>
      let n := bitsOf h 7 0 + 1
      (xRead w (.mem 0 none) false (BitVec.ofNat 64 (bitsOf h 312 256)) (2 * n) s).next (fun g s => .ok (h, fieldsOf 16 n g) s))
    match all with
    | .ok r s => .ok (r.1, r.2, none) s
    | .exc e s => .ok (0, [], some e) s
    | .lost e s => .ok (0, [], some e) s
    | .wait s => .wait s

/-! ## The orders of R325 -/

/-- Bytes of a number. -/
def sliceOf (v off n : Nat) : Nat := v / 256 ^ off % 256 ^ n

/-- R325: the parts of `sz` bytes, each as its offset and length: part `k` is the set of units `u` with `⌊u N / U⌋ = k`. -/
def partsOf (sz unit n : Nat) : List (Nat × Nat) :=
  let u := sz / unit
  let cut := fun k => (k * u + n - 1) / n * unit
  (List.range n).map (fun k => (cut k, cut (k + 1) - cut k))

/-- R325: the algorithm that a code stands for. -/
def algOf (kind code n : Nat) : Nat :=
  if kind = 5 then 1
  else if code = 0 then 0
  else if code = 1 ∧ (kind = 0 ∨ kind = 4) then 1
  else if code = 2 ∧ kind ≤ 2 ∧ 2 ^ Nat.log2 n = n then 2
  else 3

/-- R325: the entry of the selection table for a kind, a size and a group size. -/
def selIndex (kind sz n : Nat) : Nat :=
  let z := ((List.range 15).find? (fun z => decide (sz ≤ 256 * 4 ^ z))).getD 15
  let q := if n ≤ 1 then 0 else Nat.log2 (n - 1)
  kind * 128 + z * 8 + q

/-- R325: `p op q` of two running values over `n` bytes. -/
def redPair (op t n : Nat) (p q : Nat × Flags7) : Nat × Flags7 :=
  let r := redBytes op t n p.1 q.1
  (r.1, p.2 ||| q.2 ||| r.2)

/-- R325 code 2: the value of a member after `j` steps. -/
def halving (f : Nat × Flags7 → Nat × Flags7 → Nat × Flags7) (hop : Nat × Flags7 → Nat × Flags7) (vals : List Nat) :
    Nat → Nat → Nat × Flags7
  | 0, m => (vals.getD m 0, 0)
  | j + 1, m =>
    let p := m ^^^ 2 ^ j
    if m < p then f (halving f hop vals j m) (hop (halving f hop vals j p))
    else f (hop (halving f hop vals j p)) (halving f hop vals j m)

/-- R325: one level of the fixed tree over running values. -/
def pairLevel (f : Nat × Flags7 → Nat × Flags7 → Nat × Flags7) : List (Nat × Flags7) → List (Nat × Flags7)
  | a :: b :: l => f a b :: pairLevel f l
  | l => l

/-- R325: the fixed tree of `tm` over running values. -/
def pairTree (f : Nat × Flags7 → Nat × Flags7 → Nat × Flags7) : Nat → List (Nat × Flags7) → Nat × Flags7
  | 0, l => l.headD (0, 0)
  | n + 1, l => if l.length ≤ 1 then l.headD (0, 0) else pairTree f n (pairLevel f l)

/-- R325: part `k` of the reduction of `n` bytes of each member, where it is formed. -/
def partReduced (alg op t : Nat) (fp8 : Bool) (n : Nat) (vals : List Nat) (k : Nat) : Nat × Flags7 :=
  let m := vals.length
  let hop := hopTimes fp8 n 1
  let f := redPair op t n
  match alg with
  | 0 =>
    (List.range (m - 1)).foldl (fun a i => f (hop a) (vals.getD ((k + i + 2) % m) 0, 0)) (vals.getD ((k + 1) % m) 0, 0)
  | 1 => pairTree (fun a b => f a (hop b)) 9 (vals.map (fun v => (v, 0)))
  | 2 => halving f hop vals (Nat.log2 m) k
  | _ =>
    let own := fun i => if i = k then ((vals.getD i 0, 0) : Nat × Flags7) else hop (vals.getD i 0, 0)
    (List.range (m - 1)).foldl (fun a i => f a (own (i + 1))) (own 0)

/-- R325: how often a value passes from member to member on its way from `a` to `b` among `n`. -/
def hopsFrom (alg a b n : Nat) : Nat :=
  match alg with
  | 0 => (b + n - a) % n
  | 2 => bitCount 9 (a ^^^ b)
  | _ => if a = b then 0 else 1

/-- R323, R325, R327: the destination bytes of a member from the source bytes of every member, with the flags. -/
def collResult (c : CopyCmd) (code : Nat) (vals : List Nat) : Nat × Flags7 :=
  let n := collN c
  let me := collMe c
  let sz := collS c
  let k := collKind c
  let alg := algOf k code n
  let fp8 := collFp8 c
  let move := fun (a len : Nat) (v : Nat × Flags7) => hopTimes fp8 len (hopsFrom alg a me n) v
  let parts := partsOf sz (collUnit c) n
  let glue := fun (l : List (Nat × (Nat × Flags7))) =>
    (l.foldr (fun p a => p.2.1 + 256 ^ p.1 * a) 0, l.foldl (fun f p => f ||| p.2.2) 0)
  match k with
  | 2 => glue ((List.range n).map (fun m => (sz, move m sz (vals.getD m 0, 0))))
  | 3 => glue ((List.range n).map (fun m => (sz / n, move m (sz / n) (sliceOf (vals.getD m 0) (me * (sz / n)) (sz / n), 0))))
  | 4 => move (collRoot c) sz (vals.getD (collRoot c) 0, 0)
  | 1 =>
    let p := parts.getD me (0, 0)
    partReduced alg (collRop c) (collRty c) fp8 p.2 (vals.map (fun v => sliceOf v p.1 p.2)) me
  | _ =>
    if alg = 1 then move 0 sz (partReduced 1 (collRop c) (collRty c) fp8 sz vals 0)
    else
      glue ((List.range n).map (fun i =>
        let p := parts.getD i (0, 0)
        (p.2, move i p.2 (partReduced alg (collRop c) (collRty c) fp8 p.2 (vals.map (fun v => sliceOf v p.1 p.2)) i))))

/-! ## Members -/

/-- An active collective of an engine belongs to a group under a tag. -/
def sameGroup (tag : Nat) (g : List Nat) (l : Coll) : Bool := collTag l.cmd == tag && l.cmd.gtab == g

/-- R324: the collectives of the members of a group under a tag are rewritten: of the instance that has been started, or of the next
one, whose start is to come. While a member has one of them active it does not begin the other, and an instance is started once every
member has issued it, so that there is one instance of each kind at most. -/
def mapGroup (sent : Bool) (tag : Nat) (g : List Nat) (f : Coll → Coll) (s : State) : State :=
  { s with engines := s.engines.map (fun p => (p.1, { p.2 with colls := p.2.colls.map (fun l =>
      if sameGroup tag g l && l.start.isSome == sent then f l else l) })) }

/-- R324: a member of a group has issued its part of the collective that is to be started next. -/
def memberIssued (s : State) (tag : Nat) (g : List Nat) (m : Nat) : Bool :=
  s.engines.any (fun p => p.2.colls.any (fun l => sameGroup tag g l && l.start.isNone && collMe l.cmd == m))

/-- R329: a member sends an abort to every other member. One that reaches a device whose member has yet to issue is kept for it.
(DESIGN CHOICE: log entry 53.) -/
def sendAbort (c : CopyCmd) (sent : Bool) (cause : BitVec 8) (s : State) : State :=
  let late := if sent then [] else (List.range (collN c)).filter (fun m => m != collMe c && !memberIssued s (collTag c) c.gtab m)
  let s := mapGroup sent (collTag c) c.gtab (fun a => if a.abort.isSome then a else { a with abort := some cause }) s
  { s with aborts := s.aborts ++ late.map (fun m => (c.gtab.getD m 0, collTag c, c.gtab, cause)) }

/-- R324: an active collective of a device has this tag and group. -/
def stillActive (s : State) (dev tag : Nat) (g : List Nat) : Bool :=
  s.engines.any (fun p => p.1 / 128 == dev && p.2.colls.any (sameGroup tag g))

/-- The active collective of an engine under a tag that an event is for. -/
def collAt (s : State) (n tag : Nat) (f : Coll → Bool) : Option Coll := (engine s n).colls.find? (fun l => collTag l.cmd == tag && f l)

/-- Replace an active collective of an engine. -/
def putColl (n : Nat) (l : Coll) (s : State) : State :=
  setEngine s n { engine s n with colls := (engine s n).colls.map (fun a => if a.cmd.serial = l.cmd.serial then l else a) }

/-- Remove an active collective of an engine. -/
def dropColl (n : Nat) (l : Coll) (s : State) : State :=
  setEngine s n { engine s n with colls := (engine s n).colls.filter (fun a => a.cmd.serial != l.cmd.serial) }

/-! ### Entries of the chunk-route table (R326) -/

/-- STEP of an entry. -/
def entStep (e : Nat) : Nat := bitsOf e 7 0
/-- FROM of an entry. -/
def entFrom (e : Nat) : Nat := bitsOf e 15 8
/-- TO of an entry. -/
def entTo (e : Nat) : Nat := bitsOf e 23 16
/-- CHUNK of an entry. -/
def entChunk (e : Nat) : Nat := bitsOf e 31 24
/-- ACT of an entry. -/
def entAct (e : Nat) : Nat := bitsOf e 33 32

/-- The entries of a table. -/
def routeEnts (tb : Nat) : List Nat := fieldsOf 64 (bitsOf tb 47 32) (tb / 2 ^ 256)

/-- Bytes of a chunk. -/
def chunkLen (c : CopyCmd) (tb : Nat) : Nat := collDstBytes c / (bitsOf tb 55 48 + 1)

/-- R326: the destination offset at which a member places its contribution, if it has one. -/
def seedAt (c : CopyCmd) : Option Nat :=
  match collKind c with
  | 2 => some (collMe c * collS c)
  | 4 => if collMe c = collRoot c then some 0 else none
  | _ => some 0

/-- R329: the cursor of a member in route mode: the step and the chunk of the entry it is at, and the granule in it; while it places
its contribution, the chunk and the granule that it writes. (DESIGN CHOICE: log entry 53.) -/
def routeCursor (l : Coll) : List Nat × Nat :=
  match l.table with
  | none => ([0, 0], 0)
  | some tb =>
    let e := (routeEnts tb).getD l.pos 0
    let len := max 1 (chunkLen l.cmd tb)
    match (if l.got < collS l.cmd then seedAt l.cmd else none) with
    | some off => ([entStep e, (off + l.got) / len], (off + l.got) % len / 32)
    | none => ([entStep e, entChunk e], l.gran / 32)

/-- R325, R329: the byte that a member is at, counted over the parts of the collective: the destination of `rs` is part ME, and the
source of `ag` is. -/
def partByte (l : Coll) : Nat :=
  let c := l.cmd
  match collKind c, l.out.isSome with
  | 1, true => collMe c * (collS c / collN c) + l.put
  | 2, false => collMe c * collS c + l.got
  | _, true => l.put
  | _, false => l.got

/-- R329: the cursor of a member that follows an algorithm, at a byte of its source or destination. How many rounds an algorithm
takes is left open: the round of a member that stops is a free value. (DESIGN CHOICE: log entry 53.) -/
def algCursor (round : Nat) (l : Coll) : List Nat × Nat :=
  let c := l.cmd
  let off := partByte l
  let parts := match collKind c with
    | 2 => (List.range (collN c)).map (fun m => (m * collS c, collS c))
    | 5 => [(0, collS c)]
    | _ => partsOf (collS c) (collUnit c) (collN c)
  match (List.range parts.length).find? (fun i =>
      let p := parts.getD i (0, 0)
      decide (p.1 ≤ off) && decide (off < p.1 + p.2)) with
  | some i => ([round, i], (off - (parts.getD i (0, 0)).1) / 32)
  | none => ([round, 0], off / 32)

/-- R329: a member stops, with `bytes` to report: once its writes are performed it reports what it has performed and writes its
record; when the fault is its own, it sends an abort to the others. Its cause stands from the first. -/
def collStopped (n : Nat) (l : Coll) (cause : BitVec 8) (own : Bool) (bytes : Nat) (s : State) : State :=
  let c := { l.cmd with stop := if own then some (cause, bytes) else l.cmd.stop }
  let l := { l with cmd := c }
  let ended := fun (s : State) =>
    let cur := if collRoute c then routeCursor l else algCursor ((Config.freeValue s.fresh).toNat % 2 ^ 32) l
    let s := dropColl n l (dropFailed (2 ^ 22 + n) { s with fresh := s.fresh + 1 })
    let s := if own then sendAbort c l.start.isSome cause s else s
    cpRecord n c.iss cause cur.1 cur.2 (cmdFlags c.iss c.flags s)
  if sentPending s c then putColl n l s
  else if bytes = 0 then ended s
  else match reportBytes (whoX n c.iss) c.bar (min bytes (collDstBytes c)) s with
    | .ok _ s => ended s
    | .exc _ s => ended s
    | .lost _ s => ended s
    | .wait s => putColl n l s

/-- R329: a member stops with what it has performed. -/
def collStop (n : Nat) (l : Coll) (cause : BitVec 8) (own : Bool) (s : State) : State := collStopped n l cause own l.put s

/-- R324: a member is done: it reports its destination bytes, and its flags reach the thread. -/
def collDone (n : Nat) (l : Coll) (s : State) : State :=
  let c := l.cmd
  if sentPending s c then putColl n l s
  else match reportBytes (whoX n c.iss) c.bar (collDstBytes c) s with
    | .ok _ s => cmdFlags c.iss c.flags (dropColl n l s)
    | .wait s => putColl n l s
    | .exc e s => collStopped n l e true 0 s
    | .lost e s => collStopped n l e true 0 s

/-! ## Gathering, forming and writing -/

/-- How far a stream has come: on, or a cause, or a wait. -/
inductive Flow where
  | go (l : Coll) (s : State)
  | stop (cause : BitVec 8) (l : Coll) (s : State)
  | wait (l : Coll) (s : State)

/-- Read the source from where it stands, granule by granule. -/
def gather (w : Who) : Nat → Coll → State → Flow
  | 0, l, s => .go l s
  | k + 1, l, s =>
    if collS l.cmd ≤ l.got then .go l s
    else
      let n := min 32 (collS l.cmd - l.got)
      match xRead w (.mem 0 none) false (collSbase l.cmd + BitVec.ofNat 64 l.got) n s with
      | .ok v s => gather w k { l with got := l.got + n, data := l.data + v * 256 ^ l.got } s
      | .exc e s => .stop e l s
      | .lost e s => .stop e l s
      | .wait s => .wait l s

/-- Write the result from where it stands, granule by granule. -/
def scatter (w : Who) (v : Nat) : Nat → Coll → State → Flow
  | 0, l, s => .go l s
  | k + 1, l, s =>
    if collDstBytes l.cmd ≤ l.put then .go l s
    else
      let n := min 32 (collDstBytes l.cmd - l.put)
      let at_ := collDbase l.cmd + BitVec.ofNat 64 l.put
      match xWrite w (.mem 0 none) at_ n (sliceOf v l.put n) s with
      | .ok _ s1 =>
        scatter w v k { l with put := l.put + n,
                               cmd := { l.cmd with sent := l.cmd.sent ++ sentBy s s1 (l.put / 32) l.put } }
          (clearRun w (.mem 0 none) at_ l.put n s1)
      | .exc e s => .stop e l s
      | .lost e s => .stop e l s
      | .wait s => .wait l s

/-- R323: the member reads its source. -/
def readsSource (c : CopyCmd) : Bool := collKind c != 4 || collMe c == collRoot c

/-- R323: the members whose data a member needs. -/
def needsFrom (c : CopyCmd) : List Nat := if collKind c = 4 then [collRoot c] else List.range (collN c)

/-- R352: a member whose data is still to come cannot be reached. -/
def memberLost (s : State) (n : Nat) (l : Coll) : Bool :=
  (needsFrom l.cmd).any (fun m => (tabGet none l.inbox m).isNone && (pair s (n / 4) (l.cmd.gtab.getD m 0)).lost)

/-- R324, R325: a started collective goes on as far as it can. -/
def collAdvance (n : Nat) (l : Coll) (s : State) : State :=
  let c := l.cmd
  let w := whoX n c.iss
  let me := collMe c
  let gathered := if readsSource c ∧ (tabGet none l.inbox me).isNone then gather w (collS c / 32 + 1) l s else .go l s
  match gathered with
  | .wait l s => putColl n l s
  | .stop e l s => collStop n l e true s
  | .go l s =>
    let s := putColl n l s
    let s := if readsSource c ∧ (tabGet none l.inbox me).isNone then
        mapGroup true (collTag c) c.gtab (fun a => { a with inbox := tabInsert me (some l.data) a.inbox }) s
      else s
    let l := ((engine s n).colls.find? (fun a => a.cmd.serial == c.serial)).getD l
    if (needsFrom c).all (fun m => (tabGet none l.inbox m).isSome) then
      let r := match l.out with
        | some v => (v, 0)
        | none => collResult c (l.start.getD 0) ((List.range (collN c)).map (fun m => (tabGet none l.inbox m).getD 0))
      let l := { l with out := some r.1, cmd := { l.cmd with flags := l.cmd.flags ||| r.2 } }
      match scatter w r.1 (collDstBytes c / 32 + 1) l s with
      | .wait l s => putColl n l s
      | .stop e l s => collStop n l e true s
      | .go l s => collDone n l s
    else if memberLost s n l then collStop n l 0x71 true s
    else s

/-! ## Route mode (R326) -/

/-- R326: the chunk-route table: its header and its entries. -/
def tableRead (w : Who) (c : CopyCmd) (s : State) : Res Nat :=
  (xRead w (.mem 0 none) false (collRtbl c) 32 s).next (fun h s =>
    (xRead w (.mem 0 none) false (collRtbl c + 32) (8 * bitsOf h 47 32) s).next (fun t s => .ok (h + 2 ^ 256 * t) s))

/-- R326: the entry at which a table is malformed, if it is: entry 0 for its header. -/
def tableBad (c : CopyCmd) (tb : Nat) : Option Nat :=
  let es := routeEnts tb
  let nch := bitsOf tb 55 48 + 1
  if bitsOf tb 255 56 ≠ 0 ∨ es = [] ∨ collDstBytes c % nch ≠ 0 ∨ chunkLen c tb % 32 ≠ 0 then some 0
  else (List.range es.length).find? (fun i =>
    let e := es.getD i 0
    bitsOf e 63 34 != 0 || decide (2 ≤ entAct e) || decide (collN c ≤ entFrom e) || decide (collN c ≤ entTo e)
      || decide (nch ≤ entChunk e) || (i != 0 && decide (entStep e < entStep (es.getD (i - 1) 0))))

/-- R326: place the contribution, granule by granule. -/
def seed (w : Who) (off : Nat) : Nat → Coll → State → Flow
  | 0, l, s => .go l s
  | k + 1, l, s =>
    if collS l.cmd ≤ l.got then .go l s
    else
      let n := min 32 (collS l.cmd - l.got)
      let at_ := collDbase l.cmd + BitVec.ofNat 64 (off + l.got)
      match wholeOr s ((xRead w (.mem 0 none) false (collSbase l.cmd + BitVec.ofNat 64 l.got) n s).next (fun v s =>
          xWrite w (.mem 0 none) at_ n v s)) with
      | .ok _ s1 =>
        seed w off k { l with got := l.got + n, put := l.put + n,
                              cmd := { l.cmd with sent := l.cmd.sent ++ sentBy s s1 (l.got / 32) l.put } }
          (clearRun w (.mem 0 none) at_ l.got n s1)
      | .exc e s => .stop e l s
      | .lost e s => .stop e l s
      | .wait s => .wait l s

/-- A member has sent entry `i`. -/
def entSent (l : Coll) (i : Nat) : Bool := (tabGet none l.inbox (2 ^ 32 + i)).isSome
/-- A member has received entry `i` and placed it. -/
def entPlaced (l : Coll) (i : Nat) : Bool := (tabGet none l.inbox (2 ^ 33 + i)).isSome

/-- A condition on every entry of a table with its number. -/
def entAll (es : List Nat) (f : Nat → Nat → Bool) : Bool := (List.range es.length).all (fun j => f j (es.getD j 0))

/-- R326: a member may send an entry: every entry of a lower step for the chunk that it receives has arrived. -/
def entSendable (l : Coll) (es : List Nat) (i : Nat) : Bool :=
  let e := es.getD i 0
  let me := collMe l.cmd
  entFrom e == me && !entSent l i
    && entAll es (fun j a => !(decide (entStep a < entStep e) && entTo a == me && entChunk a == entChunk e) || entPlaced l j)

/-- R326: a member may place an entry that has come: its own entries of the chunk up to that step are sent, and the ones before it
in the table are placed. (DESIGN CHOICE: log entry 52.) -/
def entPlaceable (l : Coll) (es : List Nat) (i : Nat) : Bool :=
  let e := es.getD i 0
  let me := collMe l.cmd
  entTo e == me && (tabGet none l.inbox i).isSome && !entPlaced l i
    && entAll es (fun j a => entChunk a != entChunk e
        || ((entFrom a != me || decide (entStep e < entStep a) || entSent l j) && (entTo a != me || decide (i ≤ j) || entPlaced l j)))

/-- R326: the entry that a member takes next: the one it is placing, or the first that it may send or place. -/
def entNext (l : Coll) (es : List Nat) : Option Nat :=
  if l.gran ≠ 0 then some l.pos
  else (List.range es.length).find? (fun i => entSendable l es i || entPlaceable l es i)

/-- R326: a member has sent and received every entry that names it. -/
def entDone (l : Coll) (es : List Nat) : Bool :=
  entAll es (fun j a => (entFrom a != collMe l.cmd || entSent l j) && (entTo a != collMe l.cmd || entPlaced l j))

/-- The first granule of `n` bytes from an address that cannot be read. -/
def failedGran (w : Who) (a : Word) (n : Nat) (s : State) : Nat :=
  ((List.range (n / 32)).find? (fun k => match xRead w (.mem 0 none) false (a + BitVec.ofNat 64 (32 * k)) 32 s with
    | .exc _ _ => true
    | .lost _ _ => true
    | _ => false)).getD 0

/-- R326: send an entry: the bytes of the chunk reach the receiving member. -/
def entSend (n : Nat) (w : Who) (tb i : Nat) (l : Coll) (s : State) : Flow :=
  let c := l.cmd
  let e := (routeEnts tb).getD i 0
  let len := chunkLen c tb
  let at_ := collDbase c + BitVec.ofNat 64 (entChunk e * len)
  let l := { l with pos := i }
  let dev := c.gtab.getD (entTo e) 0
  if dev ≠ devOfDie w.die ∧ (pair s w.die dev).lost = true then .stop 0x70 l s
  else match xRead w (.mem 0 none) false at_ len s with
    | .exc x t => .stop x { l with gran := 32 * failedGran w at_ len s } t
    | .lost x t => .stop x { l with gran := 32 * failedGran w at_ len s } t
    | .wait s => .wait l s
    | .ok v s =>
      let r := hopTimes (collFp8 c) len (if dev = devOfDie w.die then 0 else 1) (v, 0)
      let l := { l with inbox := tabInsert (2 ^ 32 + i) none l.inbox, cmd := { c with flags := c.flags ||| r.2 } }
      let s := mapGroup true (collTag c) c.gtab (fun a =>
        if collMe a.cmd = entTo e then { a with inbox := tabInsert i (some r.1) a.inbox } else a) (putColl n l s)
      .go (((engine s n).colls.find? (fun a => a.cmd.serial == c.serial)).getD l) s

/-- R326: place an entry that has come, granule by granule (block by block in a reduction of bfp16). -/
def entPlace (w : Who) (tb i v : Nat) : Nat → Coll → State → Flow
  | 0, l, s => .go l s
  | k + 1, l, s =>
    let c := l.cmd
    let e := (routeEnts tb).getD i 0
    let len := chunkLen c tb
    if len ≤ l.gran then .go { l with gran := 0, inbox := tabInsert (2 ^ 33 + i) none l.inbox } s
    else
      let n := min (if entAct e = 1 then collUnit c else 32) (len - l.gran)
      let at_ := collDbase c + BitVec.ofNat 64 (entChunk e * len + l.gran)
      let v' := sliceOf v l.gran n
      let wrote : Res Flags7 :=
        if entAct e = 1 then
          (xRead w (.mem 0 none) true at_ n s).next (fun old s =>
            let r := redBytes (collRop c) (collRty c) n old v'
            (xWrite w (.mem 0 none) at_ n r.1 s).next (fun _ s => .ok r.2 s))
        else (xWrite w (.mem 0 none) at_ n v' s).next (fun _ s => .ok 0 s)
      match wholeOr s wrote with
      | .ok f s1 =>
        entPlace w tb i v k { l with gran := l.gran + n, put := l.put + n,
                                     cmd := { c with flags := c.flags ||| f, sent := c.sent ++ sentBy s s1 (l.gran / 32) l.put } }
          (clearRun w (.mem 0 none) at_ l.gran n s1)
      | .exc x s => .stop x l s
      | .lost x s => .stop x l s
      | .wait s => .wait l s

/-- R326: entries that a member may send or place are taken one after another. -/
def routeWalk (n : Nat) (w : Who) (tb : Nat) : Nat → Coll → State → Flow
  | 0, l, s => .go l s
  | k + 1, l, s =>
    let es := routeEnts tb
    match entNext l es with
    | none => .go l s
    | some i =>
      let r :=
        if entSendable l es i then entSend n w tb i l s
        else entPlace w tb i ((tabGet none l.inbox i).getD 0) (chunkLen l.cmd tb / 32 + 1) { l with pos := i } s
      match r with
      | .go l s => routeWalk n w tb k l (putColl n l s)
      | r => r

/-- R352: an entry that is still to come is sent by a member whose pair is lost. -/
def entLost (s : State) (n : Nat) (l : Coll) (es : List Nat) : Bool :=
  !entAll es (fun j a => entTo a != collMe l.cmd || (tabGet none l.inbox j).isSome || !(pair s (n / 4) (l.cmd.gtab.getD (entFrom a) 0)).lost)

/-- R326: a member that has its table goes on as far as it can. -/
def routeGo (n : Nat) (w : Who) (tb : Nat) (l : Coll) (s : State) : State :=
  let c := l.cmd
  match tableBad c tb with
  | some i => collStop n { l with pos := i } 0x01 true s
  | none =>
    if bitsOf tb 31 0 ≠ l.start.getD 0 then collStop n l 0x01 true s
    else
      match (match seedAt c with | some off => seed w off (collS c / 32 + 1) l s | none => .go { l with got := collS c } s) with
      | .wait l s => putColl n l s
      | .stop e l s => collStop n l e true s
      | .go l s =>
        match routeWalk n w tb (2 * bitsOf tb 47 32 + 1) l (putColl n l s) with
        | .wait l s => putColl n l s
        | .stop e l s => collStop n l e true s
        | .go l s =>
          if entDone l (routeEnts tb) then collDone n l s
          else if entLost s n l (routeEnts tb) then collStop n l 0x71 true s
          else putColl n l s

/-- R326: a started collective in route mode goes on as far as it can. -/
def routeAdvance (n : Nat) (l : Coll) (s : State) : State :=
  let w := whoX n l.cmd.iss
  match l.table with
  | some tb => routeGo n w tb l s
  | none =>
    match tableRead w l.cmd s with
    | .exc e s => collStop n l e true s
    | .lost e s => collStop n l e true s
    | .wait s => s
    | .ok tb s => routeGo n w tb { l with table := some tb } s

/-! ## Rendezvous -/

/-- An abort that is kept for a member of a device (R329). -/
def abortFor (n : Nat) (c : CopyCmd) (a : Nat × Nat × List Nat × BitVec 8) : Bool :=
  a.1 == n / 128 && a.2.1 == collTag c && a.2.2.1 == c.gtab

/-- R324: a collective at the head of a queue becomes active when there is room; its barrier is checked as R310 has it, and a fault there is
the member's own (R329). -/
def collBegin (n : Nat) (c : CopyCmd) (s : State) : State :=
  if 4 ≤ (engine s n).colls.length ∨ stillActive s (n / 128) (collTag c) c.gtab = true then s
  else
    let refuse := fun (e : BitVec 8) (s : State) => cpRecord n c.iss e [] 0 (sendAbort c false e (popCmd n (dropFailed (2 ^ 22 + n) s)))
    match barOf (whoX n c.iss) c.bar s with
    | .exc e s => refuse e s
    | .lost e s => refuse e s
    | .wait s => s
    | .ok _ s =>
      let s := popCmd n s
      let s := setEngine s n { engine s n with
        colls := (engine s n).colls ++ [{ cmd := { c with started := true }, ready := [], start := none, started := false, got := 0,
                                          data := 0, inbox := [], out := none, put := 0, table := none, pos := 0, gran := 0,
                                          abort := (s.aborts.find? (abortFor n c)).map (fun a => a.2.2.2) }] }
      { s with aborts := s.aborts.filter (fun a => !abortFor n c a) }

/-- R324, R325, R326: what the start packet of member 0 carries. -/
def startCode (n : Nat) (l : Coll) (s : State) : Res Nat :=
  let c := l.cmd
  if collRoute c then (xRead (whoX n c.iss) (.mem 0 none) false (collRtbl c) 4 s)
  else if collKind c = 5 then .ok 1 s
  else .ok (readMem s (windowBase (n / 128 * 32) + 0x400000 + selIndex (collKind c) (collS c) (collN c)) 1) s

/-- R324: COLL_READY: member 0 receives a member's ready packet. -/
def execCollReady (n tag m : Nat) (s : State) : Out :=
  match collAt s n tag (fun l => collMe l.cmd == 0 && !l.ready.contains m && decide (m < collN l.cmd)
      && memberIssued s tag l.cmd.gtab m) with
  | none => .fault .noSuchUnit
  | some l =>
    let c := l.cmd
    let l := { l with ready := setInsert m l.ready }
    if l.ready.length = collN c then
      match startCode n l s with
      | .ok v s => .next (mapGroup false tag c.gtab (fun a => { a with start := some v }) (putColl n l s))
      | .exc e s => .next (collStop n l e true s)
      | .lost e s => .next (collStop n l e true s)
      | .wait s => .next s
    else .next (putColl n l s)

/-- R324: COLL_START: a member receives the start packet. -/
def execCollStart (n tag : Nat) (s : State) : Out :=
  match collAt s n tag (fun l => l.start.isSome && !l.started) with
  | none => .fault .noSuchUnit
  | some l => .next (putColl n { l with started := true } s)

/-- R329: COLL_ABORT: a member receives an abort and stops. -/
def execCollAbort (n tag : Nat) (cause : BitVec 8) (s : State) : Out :=
  match collAt s n tag (fun l => l.abort == some cause) with
  | none => .fault .noSuchUnit
  | some l => .next (collStop n l cause false s)

/-- R324: a started collective of an engine goes on with what it has. (DESIGN CHOICE: log entry 53.) -/
def advanceColl (n serial : Nat) (s : State) : State :=
  match (engine s n).colls.find? (fun l => l.cmd.serial == serial) with
  | none => s
  | some l =>
    match l.cmd.lost, l.cmd.stop with
    | some (_, b), _ => collStop n { l with put := b } 0x71 true s
    | none, some (e, b) => collStopped n l e true b s
    | none, none => if collRoute l.cmd then routeAdvance n l s else collAdvance n l s

/-- R335, R324: COLLECTIVE_PACKET: the started members of an engine under a tag receive traffic. Granules of successive commands of an
engine are ordered (R303, R112), so that a member goes on with what it has once it is the engine's oldest. -/
def execCollectivePacket (n tag : Nat) (s : State) : Out :=
  let l := (engine s n).colls.filter (fun l => collTag l.cmd == tag && l.started)
  if l.isEmpty then .fault .noSuchUnit
  else .next (((engine s n).colls.take 1).foldl (fun s a =>
    if collTag a.cmd = tag ∧ a.started = true then advanceColl n a.cmd.serial s else s) s)

end Sys2Proof.Machine
end

