-- ==== Sys2Proof/Machine/Launch.lean ====
section
/-! DEFINITION. Start records and the launch intake (R194..R201): checks on entry, dependences, predicates, completion
signals, host queues; images (R70..R73). -/

namespace Sys2Proof.Machine

/-! ## Start records (R194) -/

/-- A field of a start record. -/
def recF (r : BitVec 512) (hi lo : Nat) : Nat := bitsOf r.toNat hi lo
/-- R194: IMAGE. -/
def recImage (r : BitVec 512) : Word := BitVec.ofNat 64 (recF r 63 0)
/-- R194: RCB. -/
def recRcb (r : BitVec 512) : Nat := recF r 191 128
/-- R194: NDEP. -/
def recNdep (r : BitVec 512) : Nat := recF r 268 266
/-- R194: COND. -/
def recCond (r : BitVec 512) : Bool := r.toNat.testBit 265
/-- R194: NTHR. -/
def recNthr (r : BitVec 512) : Nat := recF r 283 272
/-- R194: the address of a signal word with a given offset field. -/
def sigAddr (r : BitVec 512) (off : Nat) : Word := BitVec.ofNat 64 (recF r 255 192 + 8 * off)
/-- R194: the address of dependence `j`. -/
def depAddr (r : BitVec 512) (j : Nat) : Word := sigAddr r (recF r (415 + 32 * j) (384 + 32 * j))

/-- R190: the effective limit of a control block from the fields in bits `hi:lo`: the least over the blocks of its chain
that override it. -/
def rcbLimit (s : State) (a hi lo : Nat) : Nat :=
  ((chainOf s a).filter (fun b => (rcbRead s b).testBit 37)).foldl (fun m b => min m (bitsOf (rcbRead s b) hi lo)) 0xFFFF

/-- R198: a record completes at once with STATUS 4. -/
def recordMalformed (s : State) (r : BitVec 512) : Bool :=
  recF r 271 269 != 0 || recF r 319 284 != 0 || decide (8 < recF r 263 260) || decide (4 < recNdep r)
    || decide (3071 < recNthr r) || recRcb r % 64 != 0 || bitsOf (rcbRead s (recRcb r)) 19 0 == 0
    || rcbMalformed s (recRcb r) || !rcbRooted s (recRcb r) || recF r 255 192 % 8 != 0

/-! ## Images (R70..R73) -/

/-- The maker of the accesses of dispatch and of the image installer for a control block: the spec names no path and no translation unit for
them, and the model takes the C path of die 0, without a TLB, in the region's address space. (DESIGN CHOICE: log entry 10.) -/
def dispatchWho (s : State) (dev rcb : Nat) : Who :=
  ⟨dev * 32, [], .c,
    { thread := 4095, pc := 0, asid := BitVec.ofNat 16 (rcbField s rcb 4 63 48), rcb := BitVec.ofNat 64 rcb,
      rid := BitVec.ofNat 20 (bitsOf (rcbRead s rcb) 19 0), cls := BitVec.ofNat 4 (rcbField s rcb 2 29 26), home := homeOf s rcb,
      bind := 0, rdom := 0, agent := 0, clock := ⟨0, Vector.replicate 256 0⟩ }, 2 ^ 23 + dev, none⟩

/-- R72: one byte of an image as the installer reads it, by a C load: from an aperture by the load whose width its group has (R350). -/
def imageByte (w : Who) (va : Nat) (s : State) : Res Nat :=
  (resolve s w true false 1 (BitVec.ofNat 64 va)).next (fun q s =>
    if pteMc q.1 then
      let n := if groupType (groupEntry s w q.1) = 1 ∨ groupType (groupEntry s w q.1) = 3 then 8 else 4
      (multicastLoad w q.1 (q.2 / n * n) n s).next (fun v s => .ok (v / 256 ^ (q.2 % n) % 256) s)
    else readAt w q.1 q.2 1 s)

/-- `n` bytes of an image as a little-endian number. -/
def imageBytes (w : Who) (va : Nat) : Nat → State → Res Nat
  | 0, s => .ok 0 s
  | n + 1, s => (imageByte w va s).next (fun b s => (imageBytes w (va + 1) n s).next (fun r s => .ok (b + 256 * r) s))

/-- R71: entry `i` of the section table of an image held as a number. -/
def imageSection (img i : Nat) : Nat := bitsOf img (8 * bitsOf img 351 320 + 256 * i + 255) (8 * bitsOf img 351 320 + 256 * i)

/-- R72: a section is malformed. The rule does not name a FOFF other than 0 in a section of KIND 3, nor the FOFF of a section
without bytes: neither is a reason to reject. (DESIGN CHOICE: log entry 10.) -/
def sectionBad (imglen e : Nat) : Bool :=
  let kind := bitsOf e 7 0
  kind == 0 || decide (3 < kind) || decide (bitsOf e 15 11 < 2) || decide (12 < bitsOf e 15 11) || bitsOf e 31 16 != 0
    || (kind == 1 && (e.testBit 9 || !e.testBit 10)) || (kind != 1 && e.testBit 10)
    || (kind != 3 && bitsOf e 95 64 != 0 && decide (imglen < bitsOf e 63 32 + bitsOf e 95 64))

/-- R72: two sections overlap. -/
def sectionsMeet (a b : Nat) : Bool :=
  decide (bitsOf a 127 96 < bitsOf b 127 96 + bitsOf b 95 64) && decide (bitsOf b 127 96 < bitsOf a 127 96 + bitsOf a 95 64)
    && bitsOf a 95 64 != 0 && bitsOf b 95 64 != 0

/-- R72: the sections of a list meet pairwise. -/
def anyMeet : List Nat → Bool
  | [] => false
  | a :: l => l.any (sectionsMeet a) || anyMeet l

/-- R72: an image held as a number is rejected on its contents. The bytes of a section table beyond IMGLEN count as zero, so that an
entry wholly beyond it has a reserved KIND. (DESIGN CHOICE: log entry 10.) -/
def imageBad (img : Nat) : Bool :=
  let nsect := bitsOf img 95 80
  let imglen := bitsOf img 319 288
  let secs := (List.range nsect).map (imageSection img)
  let e := secs.getD (bitsOf img 103 96) 0
  bitsOf img 31 0 != 0x46594F42 || bitsOf img 47 32 != 1 || bitsOf img 63 48 != 128 || img.testBit 79
    || bitsOf img 127 104 != 0 || bitsOf img 1023 352 != 0 || decide (bitsOf img 71 68 < bitsOf img 67 64)
    || bitsOf img 77 74 == 0 || decide (8 < bitsOf img 77 74) || nsect == 0 || decide (64 < nsect)
    || secs.any (sectionBad imglen) || anyMeet secs
    || bitsOf e 7 0 != 1 || bitsOf img 159 128 % 4 != 0 || decide (bitsOf e 95 64 ≤ bitsOf img 159 128)

/-- R72: the image at an address, as a number, when the installer accepts it. All 128 bytes of the header are read, though IMGLEN be
less; what lies beyond IMGLEN is then judged as zero. (DESIGN CHOICE: log entry 10.) -/
def imageOf (w : Who) (va : Nat) (s : State) : Res Nat :=
  wholeOr s ((imageBytes w va 128 s).next (fun h s => (imageBytes w va (bitsOf h 319 288) s).next (fun img s =>
    if imageBad img then .exc 0 s else .ok img s)))

/-- R71: the load base of an image, 4 KiB aligned, the largest alignment that a section may ask for. (DESIGN CHOICE: log entry 10.) -/
def loadBase (asid : BitVec 16) (va : Word) : Nat := (Config.loadBase asid va).toNat % 2 ^ 57 / 4096 * 4096

/-- R204, R43: the address of an image's entry point, of which bits 1:0 are zero as in every PC. -/
def imageEntry (asid : BitVec 16) (va : Word) (img : Nat) : Word :=
  BitVec.ofNat 64 ((loadBase asid va + bitsOf (imageSection img (bitsOf img 103 96)) 127 96 + bitsOf img 159 128) / 4 * 4)

/-- R71: one section is placed at its load address: the leaves of its pages take its RD, WR and EX beside what they have, and its
bytes are written, zeros for KIND 3. Pages that are not mapped are left alone, and no word of `.region` is filled, since no field
of the image says where one lies (R69). (DESIGN CHOICE: log entry 10.) -/
def placeSection (die : Nat) (asid : BitVec 16) (base img : Nat) (s : State) (e : Nat) : State :=
  let va := base + bitsOf e 127 96
  let size := bitsOf e 95 64
  let s := ((List.range (size / 4096 + 2)).filter (fun i => decide (va / 4096 * 4096 + 4096 * i < va + size))).foldl (fun s i =>
    match walk s die asid (va / 4096 * 4096 + 4096 * i) with
    | none => s
    | some (p, _, addr) => writeReplicas p addr (p ||| BitVec.ofNat 64 (bitsOf e 10 8 * 4)) s) s
  (List.range size).foldl (fun s i =>
    match walk s die asid (va + i) with
    | none => s
    | some (p, _, _) =>
      let o := 8 * (bitsOf e 63 32 + i)
      writePlain s (physOf p (va + i)) 1 (if bitsOf e 7 0 = 3 then 0 else bitsOf img (o + 7) o)) s

/-- R71, R72: an accepted image is installed, once for its address space. -/
def installImage (die : Nat) (asid : BitVec 16) (va : Word) (img : Nat) (s : State) : State :=
  if s.installed.any (fun i => i.asid == asid && i.image == va.toNat) then s
  else
    let base := loadBase asid va
    let secs := (List.range (bitsOf img 95 80)).map (imageSection img)
    let s := secs.foldl (placeSection die asid base img) s
    { s with installed := s.installed ++ [⟨asid, va.toNat, base,
        secs.map (fun e => (bitsOf e 255 128, bitsOf e 7 0, base + bitsOf e 127 96, bitsOf e 95 64))⟩] }

/-- R73: the share a record asks for, the image's when its own request is zero. -/
def shareRequest (r : BitVec 512) (img : Nat) : Nat := if recF r 263 260 = 0 then bitsOf img 77 74 else recF r 263 260

/-- R73, R139: log2 of the granted VL: VLHI, W at the granted share, and the ceiling, and where a bind record's VLG is less than these, its
VLG. (DESIGN CHOICE: log entry 39.) -/
def grantedLog (r : BitVec 512) (img share vlg : Nat) : Nat :=
  min (min vlg (bitsOf img 71 68)) (min (Nat.log2 (196608 * share / (6 * 2 ^ bitsOf img 73 72 * 32))) (recF r 259 256))

/-- R73: bytes of an area of `a` and `b` for each element, rounded up to a multiple of 64. -/
def areaBytes (a b vl : Nat) : Nat := (a + b * vl + 63) / 64 * 64

/-- R70: the declared register count of an image, coded as `vcfg`. -/
def imageRegs (img : Nat) : Fin 4 := ⟨bitsOf img 73 72, by unfold bitsOf; omega⟩

/-! ## The intake (R201) -/

/-- An entry of the intake of a device. -/
def intakeAt (s : State) (dev e : Nat) : Option Intake := (s.intake.find? (fun p => p.1 == dev * 1024 + e)).map (fun p => p.2)
/-- Write an entry of the intake. -/
def setIntake (s : State) (dev e : Nat) (v : Intake) : State := { s with intake := tabInsert (dev * 1024 + e) v s.intake }

/-- A cause of a dispatch access is reported to the region as an event (R145). -/
def dispatchEvent (dev rcb : Nat) (cause : BitVec 8) (value : Word) (s : State) : State :=
  let i := (dispatchWho s dev rcb).iss
  reportTo i.home i.rid 4095 0 cause value true s

/-- R196: dispatch reads the unseen dependences of every record of a device. -/
def lookAll (dev : Nat) (s : State) : State :=
  { s with intake := s.intake.map (fun p =>
      if p.1 / 1024 = dev ∧ p.2.ready = false ∧ p.2.reading = false ∧ p.2.ending = none then
        (p.1, { p.2 with look := (List.range (recNdep p.2.record)).filter (fun j => !p.2.seen.contains j) })
      else p) }

/-- R195: the device writes an 8-byte word as a release; a copy-on-write page is copied first. -/
def signalStore (w : Who) (ea : Word) (v : Nat) (s : State) : Res Unit :=
  match store w 8 8 ea v s with
  | .wait s =>
    if copyBusy s w.die w.iss.asid ea.toNat then .wait s
    else (match cowPerform w.die w.iss.asid ea.toNat { s with cows := s.cows.filter (· != (w.die, w.iss.asid, ea.toNat)) } with
      | none => .exc 0x12 s
      | some s => store w 8 8 ea v s)
  | r => r

/-- R195: a record completes: the device writes its completion signal, and the entry is free. -/
def complete (dev e : Nat) (status : Nat) (cause : BitVec 8) (s : State) : State :=
  match intakeAt s dev e with
  | none => s
  | some n =>
    let r := n.record
    let done := fun (s : State) => lookAll dev { s with intake := tabErase (dev * 1024 + e) s.intake }
    let ea := sigAddr r (recF r 351 320)
    match signalStore (dispatchWho s dev (recRcb r)) ea (status + cause.toNat * 256) s with
    | .ok _ s => done s
    | .exc c s => done (dispatchEvent dev (recRcb r) c ea s)
    | .lost c s => done (dispatchEvent dev (recRcb r) c ea s)
    | .wait s => setIntake s dev e { n with ending := some (status, cause) }

/-- R73: the record or its image claims the tile registers. -/
def claimsTiles (r : BitVec 512) (img : Nat) : Bool := r.toNat.testBit 264 || img.testBit 78

/-- R198: a record whose dependences and predicate allow it to start: its image is read, its limits are checked, and it is ready. -/
def becomeReady (dev e : Nat) (s : State) : State :=
  match intakeAt s dev e with
  | none => s
  | some n =>
    let r := n.record
    match imageOf (dispatchWho s dev (recRcb r)) (recImage r).toNat s with
    | .exc _ s => complete dev e 3 0 s
    | .lost _ s => complete dev e 3 0 s
    | .wait s => setIntake s dev e { n with reading := true, look := [] }
    | .ok img s =>
      let m := recNthr r + 1
      let cores := if claimsTiles r img then m else (m + 3) / 4
      let s := installImage (dev * 32) (dispatchWho s dev (recRcb r)).iss.asid (recImage r) img s
      if rcbLimit s (recRcb r) 159 144 < m ∨ rcbLimit s (recRcb r) 143 128 < cores then complete dev e 5 0 s
      else setIntake s dev e { n with ready := true, reading := false, look := [], image := img }

/-- R73, R198: a record that is refused at a bind completes with STATUS 3, once no thread of it holds a slot. -/
def settleRefused (dev e : Nat) (s : State) : State :=
  match intakeAt s dev e with
  | none => s
  | some n =>
    if n.refused = true ∧ n.ending = none ∧ s.threads.any (fun p => p.2.st != .free && n.binds.contains p.2.bind) = false then
      complete dev e 3 n.cause s
    else s

/-- R73: a bind refuses the record: nothing of it is bound any more. -/
def refuseRecord (dev e : Nat) (s : State) : State :=
  match intakeAt s dev e with
  | none => s
  | some n => settleRefused dev e (setIntake s dev e { n with refused := true })

/-- R198, R201: a record enters the intake of a device, in its lowest free entry: the index of it, or none when there is no room. (DESIGN CHOICE:
log entry 68.) -/
def intakeEnter (dev : Nat) (r : BitVec 512) (s : State) : Option (Nat × State) :=
  match (List.range 1024).find? (fun e => (intakeAt s dev e).isNone) with
  | none => none
  | some e =>
    let n : Intake := { dev := dev, record := r, seen := [], ready := false, started := [], ended := 0, killed := false, refused := false,
                        cause := 0, binds := [], look := List.range (recNdep r), ending := none, reading := false, image := 0 }
    if recordMalformed s r then some (e, complete dev e 4 0 (setIntake s dev e { n with look := [] }))
    else
      let s := setIntake s dev e n
      some (e, if recNdep r = 0 ∧ recCond r = false then becomeReady dev e s else s)

/-- R196, R197, R125: a read of a signal word by dispatch, as an acquiring C load. Its clock is the exit block of the region's race
domain with the line's sync block merged, and it has no index of the domain. (DESIGN CHOICE: log entry 24.) -/
def signalLoad (dev rcb : Nat) (ea : Word) (s : State) : Res Nat :=
  let w := dispatchWho s dev rcb
  let d := BitVec.ofNat 8 (if rcbField s rcb 3 30 30 = 1 then bitsOf (rcbRead s rcb) 47 40 else 0)
  (resolve s w true false 8 ea).next (fun q s =>
    let acq := vecMax (dom s d).exitBlock (blockVec s (syncBlock s d q.2))
    loadAt { w with iss := { w.iss with rdom := d, agent := (tagOf s (q.2 / 64)).agent + 1, clock := ⟨0, acq⟩ } } q.1 q.2 8 s)

/-- R196: DEPENDENCE_OBSERVE: dispatch reads a dependence signal of an entry. A completion whose signal is still to be
written is tried again first. -/
def execDependenceObserve (dev e j : Nat) (s : State) : Out :=
  match intakeAt s dev e with
  | none => .fault .noSuchUnit
  | some n =>
    match n.ending with
    | some (st, c) => .next (complete dev e st c (setIntake s dev e { n with ending := none }))
    | none =>
      let r := n.record
      if n.ready = true ∨ n.reading = true ∨ recNdep r ≤ j then .fault .noSuchUnit
      else
        let n := { n with look := n.look.filter (· != j) }
        let failed := fun (c : BitVec 8) (s : State) =>
          complete dev e 6 0 (dispatchEvent dev (recRcb r) c (depAddr r j) (setIntake s dev e n))
        match signalLoad dev (recRcb r) (depAddr r j) s with
        | .exc c s => .next (failed c s)
        | .lost c s => .next (failed c s)
        | .wait s => .next s
        | .ok v s =>
          if v = 0 then .next (setIntake s dev e n)
          else if v % 256 = 1 ∨ v % 256 = 7 then
            let n := { n with seen := setInsert j n.seen }
            let s := setIntake s dev e n
            .next (if n.seen.length = recNdep r ∧ recCond r = false then becomeReady dev e s else s)
          else .next (complete dev e 6 0 (setIntake s dev e n))

/-- R197: a conditional node has every dependence satisfied and has not read its predicate. -/
def predicateDue (n : Intake) : Bool :=
  recCond n.record && !n.ready && !n.reading && n.ending.isNone && n.seen.length == recNdep n.record

/-- R197: PREDICATE_READ: a conditional node reads its predicate word. -/
def execPredicateRead (dev e : Nat) (s : State) : Out :=
  match intakeAt s dev e with
  | none => .fault .noSuchUnit
  | some n =>
    let r := n.record
    let ea := sigAddr r (recF r 383 352)
    if predicateDue n then
      match signalLoad dev (recRcb r) ea s with
      | .exc c s => .next (complete dev e 8 0 (dispatchEvent dev (recRcb r) c ea s))
      | .lost c s => .next (complete dev e 8 0 (dispatchEvent dev (recRcb r) c ea s))
      | .wait s => .next s
      | .ok v s => .next (if v = 0 then complete dev e 7 0 s else becomeReady dev e s)
    else .fault .noSuchUnit

/-! ## Host queues (R199) -/

/-- R199: the address of the descriptor of a host queue. -/
def hqAddr (dev q : Nat) : Nat := windowBase (dev * 32) + 0x100000 + 32 * q
/-- R199: the descriptor as a number. -/
def hqRead (s : State) (dev q : Nat) : Nat := readMem s (hqAddr dev q) 32
/-- R199: EN. -/
def hqEn (d : Nat) : Bool := d.testBit 68
/-- R199: records between CONSIDX and WRIDX. -/
def hqPending (d : Nat) : Nat := (bitsOf d 127 96 + 2 ^ 32 - bitsOf d 159 128) % 2 ^ 32
/-- R199: the queue is malformed. -/
def hqBad (d : Nat) : Bool :=
  let n := bitsOf d 67 64
  decide (n < 4) || decide (12 < n) || decide (2 ^ n < hqPending d)

/-- R199: HOST_QUEUE_TAKE: the device takes the next record of a host queue, or marks a malformed queue. -/
def execHostQueueTake (dev q : Nat) (s : State) : Out :=
  let d := hqRead s dev q
  if 256 ≤ dev ∨ 32 ≤ q ∨ hqEn d = false ∨ (hqPending d = 0 ∧ hqBad d = false) then .fault .noSuchUnit
  else if hqBad d then .next (writeMem s (hqAddr dev q) 32 (setBits (setBits d 69 69 1) 68 68 0))
  else
    let cons := bitsOf d 159 128
    let a := dev * 0x100000000000 + bitsOf d 43 0 + 64 * (cons % 2 ^ bitsOf d 67 64)
    match intakeEnter dev (BitVec.ofNat 512 (readMem s a 64)) s with
    | none => .next s
    | some (_, s) =>
      .next { writeMem s (hqAddr dev q) 32 (setBits d 159 128 (cons + 1)) with
        hqNext := tabSet 0 s.hqNext dev ((q + 1) % 32) }

end Sys2Proof.Machine
end

