-- ==== Sys2Proof/Machine/VReg.lean ====
section
/-! DEFINITION. The vector state of a thread: configuration (R75, R76, R138, R139), registers, masks, queues, validity and
poison of elements (R77, R94, R208..R213, R256, R257). -/

namespace Sys2Proof.Machine

/-! ## vtype -/

/-- R75: FMT. -/
def vtFmt (vt : Word) : Nat := bitsOf vt.toNat 4 0
/-- R75: BLK. -/
def vtBlk (vt : Word) : Nat := bitsOf vt.toNat 7 5
/-- R75: RM. -/
def vtRm (vt : Word) : Nat := bitsOf vt.toNat 10 8
/-- R75: the block length that a BLK code names. -/
def blkLen (b : Nat) : Nat := match b with | 1 => 1 | 2 => 16 | 3 => 32 | 4 => 64 | _ => 0
/-- R76: the value is legal. -/
def vtLegal (vt : Word) : Bool :=
  let f := vtFmt vt
  let b := vtBlk vt
  bitsOf vt.toNat 63 11 == 0 && decide (f ≤ 18) && decide (b ≤ 4) && decide (vtRm vt ≤ 5)
    && (if f = 9 then b == 3
        else if f = 3 ∨ f = 4 ∨ f = 5 ∨ f = 6 ∨ f = 7 ∨ f = 10 ∨ f = 18 then true
        else b == 0)

/-- R211: the classes of formats. -/
inductive VClass where
  | f | l | i | u | s
  deriving DecidableEq, Repr

/-- R211: the class of a vtype. -/
def vtClass (vt : Word) : VClass :=
  let f := vtFmt vt
  if vtBlk vt ≠ 0 ∨ f = 9 then .s
  else if f ≤ 2 then .f
  else if f = 8 then .l
  else if fmtIsInt f then .i
  else .u

/-- The element width of a vtype in bits. -/
def vtBits (vt : Word) : Nat := fmtBits (vtFmt vt)

/-! ## Register counts and lengths -/

/-- R138: the count that a code of `vcfg` names. -/
def regCount (c : Fin 4) : Nat := 6 * 2 ^ c.val
/-- R139: VLMAX for an element width in bits. -/
def vlmax (c : Fin 4) (share bits : Nat) : Nat := min 32768 (2 ^ Nat.log2 (196608 * share / (regCount c * bits)))
/-- R139: the register size RB in bytes. -/
def regBytes (c : Fin 4) (share : Nat) : Nat := 2 ^ Nat.log2 (24576 * share / regCount c)

/-! ## Registers -/

/-- Element `e` of width `w` bits of a register. -/
def elemBits {n : Nat} (p : PBits n) (w e : Nat) : Nat := p.bits.toNat / 2 ^ (w * e) % 2 ^ w
/-- Element `e` of width `w` bits of a register is poisoned. -/
def elemPsn {n : Nat} (p : PBits n) (w e : Nat) : Bool := p.psn.toNat / 2 ^ (w * e) % 2 ^ w != 0
/-- A number of a vector of bits with `w` bits at position `w * e` replaced. -/
def patchBits (n w e : Nat) (b : BitVec n) (v : Nat) : BitVec n :=
  BitVec.ofNat n (b.toNat - b.toNat / 2 ^ (w * e) % 2 ^ w * 2 ^ (w * e) + v % 2 ^ w * 2 ^ (w * e))
/-- R210: write an element, with its poison. After a `sets vtype` to a wider format `vl` may exceed VLMAX (R186, R213): the elements beyond RB
are then bits of the register above RB. (DESIGN CHOICE: log entry 67.) -/
def putElem {n : Nat} (p : PBits n) (w e v : Nat) (psn : Bool) : PBits n :=
  ⟨patchBits n w e p.bits v, patchBits n w e p.psn (if psn then 2 ^ w - 1 else 0)⟩

/-- A vector register. -/
def vreg (t : Thread) (r : Nat) : PBits 262144 := tabGet ⟨0, 0⟩ t.vregs r
/-- Write a vector register. -/
def setVreg (r : Nat) (v : PBits 262144) (t : Thread) : Thread := { t with vregs := tabSet ⟨0, 0⟩ t.vregs r v }
/-- Write an element of a vector register. -/
def setElem (r w e v : Nat) (psn : Bool) (t : Thread) : Thread := setVreg r (putElem (vreg t r) w e v psn) t
/-- A bit of a mask register. -/
def mbit (t : Thread) (k : Fin 8) (e : Nat) : Bool := t.mregs[k].getLsbD e
/-- Bits of a mask register with one replaced. -/
def withBit (b : BitVec 32768) (e : Nat) (v : Bool) : BitVec 32768 := if v then b ||| BitVec.twoPow 32768 e else b &&& ~~~(BitVec.twoPow 32768 e)
/-- Write a bit of a mask register. -/
def setMbit (k : Fin 8) (e : Nat) (v : Bool) (t : Thread) : Thread := { t with mregs := t.mregs.set k (withBit t.mregs[k] e v) }

/-! ## Sources -/

/-- The oldest entry of a load queue. -/
def queueHead (t : Thread) (q : Nat) : Option QEntry :=
  match t.queues[q]? with
  | some l => l.head?
  | none => none

/-- A queue of a thread after `f`. -/
def mapQueue (q : Nat) (f : List QEntry → List QEntry) (t : Thread) : Thread :=
  if h : q < 8 then { t with queues := t.queues.set q (f t.queues[q]) } else t

/-- R257: the entry that a reader claimed stands first in its queue while the reader works; the others keep their order. -/
def claimFirst (cs : List (Nat × Nat)) (t : Thread) : Thread :=
  cs.foldl (fun t c => mapQueue c.1 (fun l => l.filter (fun e => e.id == c.2) ++ l.filter (fun e => e.id != c.2)) t) t

/-- R257: entries of queues that a reader claimed are read and free their storage. -/
def popClaims (cs : List (Nat × Nat)) (t : Thread) : Thread :=
  cs.foldl (fun t c => mapQueue c.1 (fun l => l.filter (fun e => e.id != c.2)) t) t

/-- R257: every entry of the vector queue that has yet to be carried out, the parked ones first. -/
def vAll (t : Thread) : List VEntry := t.parked ++ t.vq

/-- R257: the oldest entry of a queue that no dispatched reader claims. -/
def freeEntry (t : Thread) (q : Nat) : Option Nat :=
  let cs := (vAll t).flatMap (fun e => e.claims)
  match t.queues[q]? with
  | none => none
  | some l => (l.find? (fun e => !cs.contains (q, e.id))).map (fun e => e.id)

/-- R257: the queues among the sources of an instruction, each once: an instruction that names a queue pops one entry. (DEDUCED: log entry 19.) -/
def queuesRead (srcs : List Nat) : List Nat := (List.range 8).filter (fun q => srcs.contains (q + 48))

/-- R257: what a reader claims as it is dispatched: of each queue that it names, the oldest entry not yet claimed. -/
def newClaims (t : Thread) (srcs : List Nat) : List (Nat × Nat) :=
  (queuesRead srcs).filterMap (fun q => (freeEntry t q).map (fun i => (q, i)))

/-- R258: every queue entry that an entry reads is complete. -/
def claimsReady (t : Thread) (cs : List (Nat × Nat)) : Bool :=
  cs.all (fun c => match t.queues[c.1]? with
    | none => false
    | some l => l.any (fun e => e.id == c.2 && e.ready))

/-- R47, R257: an element of width `w` bits of a source, with its poison. An entry of a queue has the width it was loaded
with: element `e` of it is its own element `e`, modulo 2 to the `w`. (DESIGN CHOICE: log entry 67.) -/
def srcElem (t : Thread) (n : Fin 56) (w e : Nat) : Nat × Bool :=
  match queueOf n with
  | none => (elemBits (vreg t n.val) w e, elemPsn (vreg t n.val) w e)
  | some q =>
    match queueHead t q with
    | none => (0, false)
    | some en => if e < en.vl then (elemBits en.data en.width e % 2 ^ w, elemPsn en.data en.width e) else (0, false)

/-! ## Activity and validity -/

/-- R208: an element is active under a governing mask. -/
def activeAt (t : Thread) (vl : Nat) (m : Fin 8) (e : Nat) : Bool := decide (e < vl) && (t.spec || m == 0 || mbit t m e)
/-- R208: as `activeAt`, where speculation does not lift the mask (R246). -/
def governedAt (t : Thread) (vl : Nat) (m : Fin 8) (e : Nat) : Bool := decide (e < vl) && (m == 0 || mbit t m e)
/-- R94: the validity bits are consulted. -/
def consulted (vt : Word) : Bool := fmtFiniteOnly (vtFmt vt) || vtBlk vt != 0
/-- R208: the block of an element. -/
def blockOf (vt : Word) (e : Nat) : Nat := if blkLen (vtBlk vt) = 0 then e else e / blkLen (vtBlk vt)
/-- R208: `blockok`. -/
def blockOk (t : Thread) (vt : Word) (e : Nat) : Bool := !consulted vt || t.bvalid.getLsbD (blockOf vt e)
/-- The block byte that marks an invalid block: 0x80 for bfp16, 0xFF for an E8M0 scale. -/
def badByte (vt : Word) : Nat := if vtFmt vt = 9 then 0x80 else 0xFF
/-- R208: `pairok` of a pair operand whose block register is `r`. -/
def pairOk (t : Thread) (vt : Word) (r e : Nat) : Bool := elemBits (vreg t r) 8 (blockOf vt e) != badByte vt
/-- R210: the block byte of an element of a pair operand whose block register is `r` is poisoned. -/
def pairPsn (t : Thread) (vt : Word) (r e : Nat) : Bool := vtClass vt == .s && elemPsn (vreg t r) 8 (blockOf vt e)

/-! ## The vector instruction queue -/

/-- R135, R214: a vector instruction enters the queue with the configuration that holds at it (R186) and the queue entries that
it claims. -/
def vEntry (t : Thread) (i : Instr) (srcs : List Nat) (op0 op1 op2 : Word) : VEntry :=
  { instr := i, pc := t.seq.pc, op0 := op0, op1 := op1, op2 := op2, op3 := 0, vtype := t.vtype, vl := t.vl, cur := t.cur, asid := t.asid,
    rcb := t.rcb, rid := t.rid, home := t.home, estart := 0, done := 0, blks := [], pushes := [], stored := [], target := none,
    claims := newClaims t srcs, begun := false, flags := 0, released := false, stalled := false, arr := none }

/-- R186: who issues what an entry of the queue does: the thread, with what held as the instruction was dispatched. -/
def entryIssuer (s : State) (k : Nat) (en : VEntry) : Issuer :=
  { issuerNow s k en.pc with asid := en.asid, rcb := en.rcb, rid := en.rid, home := en.home }

/-- The no-address entry (R146). -/
def noAddress : Word := 0x8000000000000000

/-- R41: the cursor of an ECLS 2 record. -/
def vecCursor (estart count : Nat) (mask : BitVec 256) : Nat := estart + count * 2 ^ 32 + mask.toNat * 2 ^ 128

/-- What one strip of the vector sequencer comes to: it went on, its entry completed, its entry faulted (the trap is taken or
waits), or it has to wait. -/
inductive VRes where
  | more (s : State)
  | done (s : State)
  | fault (s : State)
  | wait (s : State)

/-- Replace the head entry of a thread's queue. -/
def setHead (k : Nat) (en : VEntry) (s : State) : State :=
  let t := thr s k
  setThr s k { t with vq := en :: t.vq.tail }

/-- R103, R257: the head entry completes: its flags are ORed, the entries it read are popped, and it leaves the queue. -/
def popHead (k : Nat) (en : VEntry) (s : State) : State :=
  let t := thr s k
  setThr s k (popClaims en.claims { t with vq := t.vq.tail, aflags := t.aflags ||| en.flags })

/-- R142, R260: the head entry stops with a cause: its record, of the address type given, and its address entries are
written, and the trap follows. -/
def stopEntryAtc (atc k : Nat) (en : VEntry) (cause : BitVec 8) (estart : Nat) (mask : BitVec 256) (addrs : List Word) (s : State) : VRes :=
  let i := entryIssuer s k en
  .fault (writeRecord .vectorTrap i (mkRecord 2 atc cause i 0 (dieOfThread k) (vecCursor estart addrs.length mask)) addrs
    (setHead k en s))

/-- R354: the head entry stops with a link cause: its ECLS 7 record is written, and the trap follows. -/
def stopEntryLost (k : Nat) (en : VEntry) (cause : BitVec 8) (s : State) : VRes :=
  let i := entryIssuer s k en
  .fault (writeRecord .vectorTrap i (mkRecord 7 0 cause i 0 (dieOfThread k) 0) [] (setHead k en s))

/-- R142, R260: the head entry stops, its record of address type 0. -/
def stopEntry (k : Nat) (en : VEntry) (cause : BitVec 8) (estart : Nat) (mask : BitVec 256) (addrs : List Word) (s : State) : VRes :=
  stopEntryAtc 0 k en cause estart mask addrs s

end Sys2Proof.Machine
end

