-- ==== Sys2Proof/Machine/VElem.lean ====
section
/-! DEFINITION. What each vector instruction computes for one element (R223..R235), for a reduction (R241, R242), and the order
of `vprune` (R240). -/

namespace Sys2Proof.Machine

/-- The result of one element: its code, its flags, and whether a NaN met a finite-only format (R94). -/
structure EOut where
  code : Nat
  flags : Flags7
  nan : Bool
  deriving DecidableEq, Repr

/-- An element result without flags. -/
def plainOut (c : Nat) : EOut := ⟨c, 0, false⟩

/-- Round a value with the flags of its operation. -/
def outRound (f rm sr : Nat) (v : FVal × Flags7) : EOut :=
  let r := rndTo f rm sr v.1
  ⟨r.1, v.2 ||| r.2.1, false⟩

/-! ## Floating and LNS6 arithmetic (R223..R226) -/

/-- R223: `vadd`. -/
def elAdd (f rm sr a b : Nat) : EOut := outRound f rm sr (addVal rm (floatVal f a) (floatVal f b))
/-- R223: `vsub`. -/
def elSub (f rm sr a b : Nat) : EOut := outRound f rm sr (addVal rm (floatVal f a) (negVal (floatVal f b)))
/-- R223: `vmul`. -/
def elMul (f rm sr a b : Nat) : EOut := outRound f rm sr (mulVal (floatVal f a) (floatVal f b))
/-- R223: `vdiv`. -/
def elDiv (f rm sr a b : Nat) : EOut := outRound f rm sr (divVal (floatVal f a) (floatVal f b))
/-- R223: a product and a sum rounded once. -/
def elFused (f rm sr : Nat) (p : FVal × Flags7) (c : FVal) : EOut :=
  let r := addVal rm p.1 c
  outRound f rm sr (r.1, p.2 ||| r.2)
/-- R223: `vfma`. -/
def elFma (f rm sr a b c : Nat) : EOut := elFused f rm sr (mulVal (floatVal f a) (floatVal f b)) (floatVal f c)
/-- R223: `vfms`. -/
def elFms (f rm sr a b c : Nat) : EOut := elFused f rm sr (mulVal (floatVal f a) (floatVal f b)) (negVal (floatVal f c))
/-- R223: `vfnma`. -/
def elFnma (f rm sr a b c : Nat) : EOut :=
  let p := mulVal (floatVal f a) (floatVal f b)
  elFused f rm sr (negVal p.1, p.2) (floatVal f c)
/-- R223: `vsqrt`. -/
def elSqrt (f rm sr a : Nat) : EOut := outRound f rm sr (sqrtVal (floatVal f a))
/-- R225: `vexp2`. -/
def elExp2 (a : Nat) : EOut := let r := exp2Code a; ⟨r.1, r.2, false⟩
/-- R224: `vmin`, `vmax` of the F class. -/
def elMinMax (f : Nat) (wantMax : Bool) (a b : Nat) : EOut := let r := minMaxCode f wantMax a b; ⟨r.1, r.2, false⟩
/-- R224: `vabs`, `vneg` of the F class, by what becomes of the sign. -/
def elSign (f : Nat) (clear : Bool) (a : Nat) : EOut :=
  match floatVal f a with
  | .nan s => ⟨fmtNan f, fIf s fNV, false⟩
  | _ =>
    let top := 2 ^ (fmtBits f - 1)
    plainOut (if clear then a % top else if a < top then a + top else a - top)

/-- R226: `vmul` of the L class. -/
def elLnsMul (a b : Nat) : EOut := let r := lnsMul a b; ⟨r.1, r.2, false⟩
/-- R226: `vabs` of the L class. -/
def elLnsAbs (a : Nat) : EOut := plainOut (a % 32)
/-- R226: `vneg` of the L class. -/
def elLnsNeg (a : Nat) : EOut := plainOut (if a % 32 = 0 then 0 else if a < 32 then a + 32 else a - 32)
/-- R226: `vmin`, `vmax` of the L class. -/
def elLnsMinMax (wantMax : Bool) (a b : Nat) : EOut :=
  plainOut (if wantMax then (if ltVal false (lnsVal a) (lnsVal b) then b else a)
    else if ltVal false (lnsVal b) (lnsVal a) then b else a)

/-! ## Integers (R228, R229) -/

/-- An integer narrowed to an element of `n` bits. -/
def wrapInt (n : Nat) (v : Int) : Nat := (v % 2 ^ n).toNat
/-- The least value of an integer format. -/
def intLo (f : Nat) : Int := if fmtSigned f then -(2 ^ (fmtBits f - 1)) else 0
/-- The greatest value of an integer format. -/
def intHi (f : Nat) : Int := if fmtSigned f then 2 ^ (fmtBits f - 1) - 1 else 2 ^ fmtBits f - 1
/-- An integer result modulo 2^n. -/
def elWrap (f : Nat) (v : Int) : EOut := plainOut (wrapInt (fmtBits f) v)
/-- R228: an integer result clamped to the format, with SAT when clamped. -/
def elClamp (f : Nat) (v : Int) : EOut :=
  let c := max (intLo f) (min (intHi f) v)
  ⟨wrapInt (fmtBits f) c, fIf (c != v) fSAT, false⟩
/-- R228: `vadd`. -/
def elIAdd (f a b : Nat) : EOut := elWrap f (intVal f a + intVal f b)
/-- R228: `vsub`. -/
def elISub (f a b : Nat) : EOut := elWrap f (intVal f a - intVal f b)
/-- R228: `vmul`. -/
def elIMul (f a b : Nat) : EOut := elWrap f (intVal f a * intVal f b)
/-- R228: `vmulhi`. -/
def elIMulhi (f a b : Nat) : EOut := elWrap f (intVal f a * intVal f b / 2 ^ fmtBits f)
/-- R228: `vmin`, `vmax`. -/
def elIMinMax (f : Nat) (wantMax : Bool) (a b : Nat) : EOut :=
  plainOut (if wantMax then (if intVal f a < intVal f b then b else a) else if intVal f b < intVal f a then b else a)
/-- R228: `vaddsat`. -/
def elIAddsat (f a b : Nat) : EOut := elClamp f (intVal f a + intVal f b)
/-- R228: `vsubsat`. -/
def elISubsat (f a b : Nat) : EOut := elClamp f (intVal f a - intVal f b)
/-- R228: `vabs`. -/
def elIAbs (f a : Nat) : EOut := elWrap f (intVal f a).natAbs
/-- R228: `vneg`. -/
def elINeg (f a : Nat) : EOut := elWrap f (-(intVal f a))
/-- R228: `vmad`. -/
def elIMad (f a b c : Nat) : EOut := elWrap f (intVal f a * intVal f b + intVal f c)
/-- R229: the shift amount. -/
def elShift (f b : Nat) : Nat := b % fmtBits f
/-- R229: the complement of an element. -/
def elNot (f a : Nat) : EOut := plainOut (2 ^ fmtBits f - 1 - a % 2 ^ fmtBits f)
/-- R229: `vandn`. -/
def elAndn (f a b : Nat) : EOut := plainOut (a &&& (2 ^ fmtBits f - 1 - b % 2 ^ fmtBits f))
/-- R229: `vsll`. -/
def elSll (f a b : Nat) : EOut := plainOut (a * 2 ^ elShift f b % 2 ^ fmtBits f)
/-- R229: `vsrl`. -/
def elSrl (f a b : Nat) : EOut := plainOut (a / 2 ^ elShift f b)
/-- R229: `vsra`. -/
def elSra (f a b : Nat) : EOut :=
  elWrap f ((if a.testBit (fmtBits f - 1) then (a : Int) - 2 ^ fmtBits f else (a : Int)) / 2 ^ elShift f b)

/-! ## Compares (R230) -/

/-- R230: the four relations. -/
inductive VRel where
  | eq | ne | lt | le
  deriving DecidableEq, Repr

/-- R230: the value compared: codes of the L class by value, integers by their sign. -/
def cmpVal (cls : VClass) (f a : Nat) : FVal :=
  match cls with
  | .l => lnsVal a
  | .i => ofInt (intVal f a)
  | _ => floatVal f a

/-- R230: a relation of two elements, with its flags. -/
def elCompare (r : VRel) (cls : VClass) (f a b : Nat) : EOut :=
  let x := cmpVal cls f a
  let y := cmpVal cls f b
  let anyNan := isNanV x || isNanV y
  let sig := isSig x || isSig y
  match r with
  | .eq => ⟨if eqVal x y then 1 else 0, fIf sig fNV, false⟩
  | .ne => ⟨if eqVal x y then 0 else 1, fIf sig fNV, false⟩
  | .lt => ⟨if ltVal false x y then 1 else 0, fIf anyNan fNV, false⟩
  | .le => ⟨if ltVal false x y || eqVal x y then 1 else 0, fIf anyNan fNV, false⟩

/-! ## Conversion (R234, R235) -/

/-- R234: the value of a source element of a vtype; `c` is its block byte. -/
def cvtSource (vt : Word) (a c : Nat) : FVal :=
  let f := vtFmt vt
  if f = 9 then scaleVal (elemVal 9 a) (bfpExp c - 15)
  else if vtBlk vt ≠ 0 then (if c = 255 then .nan false else scaleVal (elemVal f a) ((c : Int) - 127))
  else elemVal f a

/-- R234: one element converted to a target other than bfp16. -/
def elCvt (vt : Word) (target rm sr a c : Nat) : EOut :=
  let v := cvtSource vt a c
  let r := rndTo target rm sr v
  ⟨r.1, r.2.1 ||| fIf (isSig v) fNV, r.2.2⟩

/-! ## Reductions (R241, R242) -/

/-- R241: the kinds of reduction. -/
inductive VFold where
  | add | max | min | and | or | xor | amax
  deriving DecidableEq, Repr

/-- R242: the sum of the active values, given with their element numbers, in groups of 32. -/
def foldGroups (vl : Nat) (vs : List (Nat × FVal)) : Nat × Flags7 :=
  addGroups ((List.range ((vl + 31) / 32)).map (fun i => (vs.filter (fun v => v.1 / 32 == i)).map (fun v => v.2))) 64 0

/-- R241: the greatest (or least) of floating codes; any NaN gives the canonical NaN. -/
def foldFloat (f : Nat) (wantMax : Bool) (cs : List Nat) : Nat × Flags7 :=
  if cs.any (fun c => isNanV (floatVal f c)) then (fmtNan f, fIf (cs.any (fun c => isSig (floatVal f c))) fNV)
  else (cs.foldl (fun a c => (minMaxCode f wantMax a c).1) (signCode f wantMax + fmtInf f), 0)

/-- R241: the result of a reduction of the active elements, given with their numbers, under a vtype: its width in bits,
its code and its flags. Of the two zero codes of an L-class maximum or minimum the earlier operand's stays. (DESIGN CHOICE: log entry
67.) -/
def foldOut (k : VFold) (vt : Word) (sr vl : Nat) (es : List (Nat × Nat)) : Nat × EOut :=
  let f := vtFmt vt
  let n := fmtBits f
  let cs := es.map (fun e => e.2)
  match vtClass vt with
  | .f =>
    (match k with
      | .add =>
        let r := foldGroups vl (es.map (fun e => (e.1, floatVal f e.2)))
        if f = 0 then (n, ⟨r.1, r.2, false⟩)
        else let c := cvtCode 0 f (vtRm vt) sr r.1; (n, ⟨c.1, r.2 ||| c.2.1, false⟩)
      | .min => let r := foldFloat f false cs; (n, ⟨r.1, r.2, false⟩)
      | .amax =>
        if cs.any (fun c => isNanV (floatVal f c)) then
          (n, ⟨fmtNan f, fIf (cs.any (fun c => isSig (floatVal f c))) fNV, false⟩)
        else (n, plainOut ((cs.map (fun c => c % 2 ^ (n - 1))).foldl max 0))
      | _ => let r := foldFloat f true cs; (n, ⟨r.1, r.2, false⟩))
  | .l =>
    (match k with
      | .add =>
        let a := satSum (cs.map lnsTerm) 0
        let r := lnsReadout a.1
        (32, ⟨r.1, a.2 ||| r.2, false⟩)
      | .min => (n, plainOut (match cs with | [] => 0 | c :: l => l.foldl (fun a c => (elLnsMinMax false a c).code) c))
      | .amax => (n, plainOut ((cs.map (fun c => c % 32)).foldl max 0))
      | _ => (n, plainOut (match cs with | [] => 0 | c :: l => l.foldl (fun a c => (elLnsMinMax true a c).code) c)))
  | _ =>
    (match k with
      | .add => (n, elWrap f (cs.foldl (fun a c => a + intVal f c) 0))
      | .max => (n, elWrap f (cs.foldl (fun a c => max a (intVal f c)) (intLo f)))
      | .min => (n, elWrap f (cs.foldl (fun a c => min a (intVal f c)) (intHi f)))
      | .and => (n, plainOut (cs.foldl (fun a c => a &&& c) (2 ^ n - 1)))
      | .or => (n, plainOut (cs.foldl (fun a c => a ||| c) 0))
      | .xor => (n, plainOut (cs.foldl (fun a c => a ^^^ c) 0))
      | .amax => (n, plainOut ((cs.map (fun c => (intVal f c).natAbs)).foldl max 0)))

/-! ## Pruning (R240) -/

/-- R240: the order of magnitude: `a` stands strictly before `b`. Entries are an index and a value. -/
def pruneBefore (a b : Nat × FVal) : Bool :=
  if isNanV a.2 then !isNanV b.2 || decide (a.1 < b.1)
  else if isNanV b.2 then false
  else ltVal false (absVal b.2) (absVal a.2) || (!ltVal false (absVal a.2) (absVal b.2) && decide (a.1 < b.1))

/-- R240: the indices kept of a group of eight values, ascending. -/
def pruneKept (vs : List (Nat × FVal)) : List Nat :=
  (vs.filter (fun v => decide ((vs.filter (fun u => pruneBefore u v)).length < 4))).map (fun v => v.1)

end Sys2Proof.Machine
end

