-- ==== Sys2Proof/Machine/VCheck.lean ====
section
/-! DEFINITION. The checks at dispatch of a vector instruction, in the order of R214: what an instruction may not be under
the configuration that holds at it (R211..R213, R237, R250, R257, R291). -/

namespace Sys2Proof.Machine

/-- What dispatch looks at: whether the class and the instruction's own rules allow it (cause 0x01), the vector fields it
reads, the registers it writes, and whether it names a tile register (cause 0x47). -/
structure VInfo where
  legal : Bool
  srcs : List Nat
  dsts : List Nat
  tile : Bool
  deriving DecidableEq, Repr

/-- An instruction whose operands are single registers. -/
def vPlain (legal : Bool) (srcs dsts : List Nat) : VInfo := ⟨legal, srcs, dsts, false⟩

/-- R212: operands that are pairs: even, no queue, and the block registers count too. -/
def vPairs (srcs dsts : List Nat) : VInfo :=
  ⟨(srcs ++ dsts).all (fun r => r % 2 == 0 && decide (r < 48)), srcs ++ srcs.map (· + 1), dsts ++ dsts.map (· + 1), false⟩

/-- R213: the registers of a widened destination group. -/
def cvtGroup (t : Thread) (target : Nat) : Nat :=
  let wt := fmtBits target
  if wt ≤ vtBits t.vtype then 1
  else
    let c := 2 ^ Nat.log2 (8 * regBytes t.cur t.share / wt)
    ((List.range 5).map (fun k => 2 ^ k)).find? (fun g => decide (t.vl ≤ g * c)) |>.getD 32

/-- R212, R213, R234, R235: `vcvt`. -/
def vCvtInfo (t : Thread) (d a : Nat) (m : Fin 8) (target : Nat) : VInfo :=
  let g := cvtGroup t target
  let pair := vtClass t.vtype == .s
  let srcOk := !pair || (a % 2 == 0 && decide (a < 48))
  let dstOk := d % g == 0 && (target != 9 || (m == 0 && (g != 1 || d % 2 == 0)))
  ⟨srcOk && dstOk, if pair then [a, a + 1] else [a],
    (List.range g).map (d + ·) ++ (if target = 9 then [d + g] else []), false⟩

/-- R250: an index register of 4-byte elements holds `vl` of them. -/
def vIndexFits (t : Thread) : Bool := decide (32 ≤ vtBits t.vtype) || decide (t.vl ≤ vlmax t.cur t.share 32)

/-- The queue a load is destined for. -/
def loadQueue : Instr → Option Nat
  | .vld d .. => queueOf d
  | .vlds d .. => queueOf d
  | .vldx d .. => queueOf d
  | .vldSpec d .. => queueOf d
  | .vldsSpec d .. => queueOf d
  | .vldxSpec d .. => queueOf d
  | _ => none

/-- R256: element groups of 256 bytes that an entry of a load queue occupies. -/
def queueGroups (vl bits : Nat) : Nat := (vl * bits + 2047) / 2048

/-- R256, R257: the groups of every dispatched entry of the slot that has not been popped. -/
def groupsUsed (t : Thread) : Nat :=
  (t.queues.toList.flatten.map (fun e => queueGroups e.vl e.width)).foldl (· + ·) 0

/-- R250, R257: a load, whose destination may be a queue. -/
def vLoadInfo' (t : Thread) (legal : Bool) (d : Nat) (idx : List Nat) : VInfo :=
  if d < 48 then ⟨legal, idx, [d], false⟩
  else ⟨legal && decide (groupsUsed t + queueGroups t.vl (vtBits t.vtype) ≤ 16), idx, [], false⟩

/-- R289: the access width in bits of a bank operation's type code. -/
def cmBits (ty : Nat) : Nat := if ty = 1 ∨ ty = 3 then 64 else 32

/-- R291: the checks of a bank operation; `subs` are the values of SUB it takes, none for 0 alone. -/
def cmInfo (t : Thread) (c : Word) (bits : Nat) (subs : List Nat) (srcs dsts : List Nat) : VInfo :=
  let sub := bitsOf c.toNat 5 3
  ⟨bitsOf c.toNat 63 11 == 0 && !c.toNat.testBit 7 && (if subs.isEmpty then sub == 0 else subs.contains sub)
    && !c.toNat.testBit 6 && decide (bitsOf c.toNat 10 8 ≤ 5) && decide (t.vl ≤ vlmax t.cur t.share bits), srcs ++ dsts, dsts, false⟩

/-- R291: `cm.probe`, which may set INS. -/
def cmProbeInfo (t : Thread) (c : Word) (srcs dsts : List Nat) : VInfo :=
  cmInfo t (BitVec.ofNat 64 (setBits c.toNat 6 6 0)) 64 [] srcs dsts

/-- What dispatch looks at for each vector instruction of the thread in progress. -/
def vInfo (i : Instr) (t : Thread) (s : State) : VInfo :=
  let cls := vtClass t.vtype
  let fmt := vtFmt t.vtype
  let vLoadInfo := vLoadInfo' t
  match i with
  | .vbcast d _ => vPlain (cls != .s) [] [d.val]
  | .vindex d => vPlain (cls == .i) [] [d.val]
  | .vaddFloat d a b _ => vPlain (cls == .f) [a.val, b.val] [d.val]
  | .vsubFloat d a b _ => vPlain (cls == .f) [a.val, b.val] [d.val]
  | .vdiv d a b _ => vPlain (cls == .f) [a.val, b.val] [d.val]
  | .vfma d a b _ => vPlain (cls == .f) [a.val, b.val] [d.val]
  | .vfms d a b _ => vPlain (cls == .f) [a.val, b.val] [d.val]
  | .vfnma d a b _ => vPlain (cls == .f) [a.val, b.val] [d.val]
  | .vmulFloat d a b _ => vPlain (cls == .f || cls == .l) [a.val, b.val] [d.val]
  | .vminFloat d a b _ => vPlain (cls == .f || cls == .l) [a.val, b.val] [d.val]
  | .vmaxFloat d a b _ => vPlain (cls == .f || cls == .l) [a.val, b.val] [d.val]
  | .vabsFloat d a _ => vPlain (cls == .f || cls == .l) [a.val] [d.val]
  | .vnegFloat d a _ => vPlain (cls == .f || cls == .l) [a.val] [d.val]
  | .vsqrt d a _ => vPlain (cls == .f) [a.val] [d.val]
  | .vexp2 d a _ => vPlain (cls == .f && fmt == 0) [a.val] [d.val]
  | .vaddInt d a b _ => vPlain (cls == .i) [a.val, b.val] [d.val]
  | .vsubInt d a b _ => vPlain (cls == .i) [a.val, b.val] [d.val]
  | .vmulInt d a b _ => vPlain (cls == .i) [a.val, b.val] [d.val]
  | .vmulhi d a b _ => vPlain (cls == .i) [a.val, b.val] [d.val]
  | .vminInt d a b _ => vPlain (cls == .i) [a.val, b.val] [d.val]
  | .vmaxInt d a b _ => vPlain (cls == .i) [a.val, b.val] [d.val]
  | .vaddsat d a b _ => vPlain (cls == .i) [a.val, b.val] [d.val]
  | .vsubsat d a b _ => vPlain (cls == .i) [a.val, b.val] [d.val]
  | .vmad d a b _ => vPlain (cls == .i) [a.val, b.val] [d.val]
  | .vand d a b _ => vPlain (cls == .i) [a.val, b.val] [d.val]
  | .vor d a b _ => vPlain (cls == .i) [a.val, b.val] [d.val]
  | .vxor d a b _ => vPlain (cls == .i) [a.val, b.val] [d.val]
  | .vandn d a b _ => vPlain (cls == .i) [a.val, b.val] [d.val]
  | .vsll d a b _ => vPlain (cls == .i) [a.val, b.val] [d.val]
  | .vsrl d a b _ => vPlain (cls == .i) [a.val, b.val] [d.val]
  | .vsra d a b _ => vPlain (cls == .i) [a.val, b.val] [d.val]
  | .vabsInt d a _ => vPlain (cls == .i) [a.val] [d.val]
  | .vnegInt d a _ => vPlain (cls == .i) [a.val] [d.val]
  | .vnot d a _ => vPlain (cls == .i) [a.val] [d.val]
  | .vcmpEq _ a b _ => vPlain (cls == .f || cls == .l || cls == .i) [a.val, b.val] []
  | .vcmpNe _ a b _ => vPlain (cls == .f || cls == .l || cls == .i) [a.val, b.val] []
  | .vcmpLt _ a b _ => vPlain (cls == .f || cls == .l || cls == .i) [a.val, b.val] []
  | .vcmpLe _ a b _ => vPlain (cls == .f || cls == .l || cls == .i) [a.val, b.val] []
  | .vsel d a b _ => vPlain (cls != .s) [a.val, b.val] [d.val]
  | .mand _ _ _ => vPlain true [] []
  | .mor _ _ _ => vPlain true [] []
  | .mxor _ _ _ => vPlain true [] []
  | .mandn _ _ _ => vPlain true [] []
  | .mnot _ _ => vPlain true [] []
  | .vcvt d a m target => vCvtInfo t d.val a.val m target.val
  | .vlift d a _ _ => vPlain (cls != .s) [a.val] [d.val]
  | .vsink d a _ _ => vPlain (cls != .s) [a.val] [d.val]
  | .vliftZ d a _ _ => vPlain (cls != .s) [a.val] [d.val]
  | .vsinkZ d a _ _ => vPlain (cls != .s) [a.val] [d.val]
  | .vpick d a b _ => vPlain ((cls != .s) && decide (t.vl ≤ vlmax t.cur t.share 16)) [a.val, b.val] [d.val]
  | .vpack d a _ => vPlain (cls != .s) [a.val] [d.val]
  | .vpackK d a _ => vPlain (cls != .s) [a.val] [d.val]
  | .vzip d a b _ => vPlain (cls != .s) [a.val, b.val] [d.val]
  | .vunzip d a b _ => vPlain (cls != .s) [a.val, b.val] [d.val]
  | .vprune d a b => vPlain (cls == .f || (cls == .i && (fmt == 10 || fmt == 11 || fmt == 12))) [a.val] [d.val, b.val]
  | .vfoldAdd d a _ => vPlain (cls == .f || cls == .l || cls == .i) [a.val] [d.val]
  | .vfoldMax d a _ => vPlain (cls == .f || cls == .l || cls == .i) [a.val] [d.val]
  | .vfoldMin d a _ => vPlain (cls == .f || cls == .l || cls == .i) [a.val] [d.val]
  | .vfoldAmax d a _ => vPlain (cls == .f || cls == .l || cls == .i) [a.val] [d.val]
  | .vfoldAnd d a _ => vPlain (cls == .i) [a.val] [d.val]
  | .vfoldOr d a _ => vPlain (cls == .i) [a.val] [d.val]
  | .vfoldXor d a _ => vPlain (cls == .i) [a.val] [d.val]
  | .trow _ a _ _ => { vPlain (cls == .f || cls == .l || cls == .u || (cls == .i && decide (fmtBits fmt ≤ 32))) [a.val] [] with tile := true }
  | .tcol d _ _ _ => { vPlain (cls == .f || cls == .l || cls == .u || (cls == .i && decide (fmtBits fmt ≤ 32))) [] [d.val] with tile := true }
  | .vspec  => vPlain true [] []
  | .vmerge d vs _ => if cls == .s then vPairs [vs.val] [d.val] else vPlain true [vs.val] [d.val]
  | .vtos _ a _ => if cls == .s then vPairs [a.val] [] else vPlain true [a.val] []
  | .vld d _ _ _ _ _ => vLoadInfo true d.val []
  | .vldSpec d _ _ _ _ _ => vLoadInfo true d.val []
  | .vlds d _ _ _ _ _ => vLoadInfo (decide (8 ≤ vtBits t.vtype)) d.val []
  | .vldsSpec d _ _ _ _ _ => vLoadInfo (decide (8 ≤ vtBits t.vtype)) d.val []
  | .vldx d _ vi _ _ _ => vLoadInfo (decide (8 ≤ vtBits t.vtype) && vIndexFits t) d.val [vi.val]
  | .vldxSpec d _ vi _ _ _ => vLoadInfo (decide (8 ≤ vtBits t.vtype) && vIndexFits t) d.val [vi.val]
  | .vldb d _ _ _ _ _ => vPlain (cls == .s) [] [2 * d.val, 2 * d.val + 1]
  | .vst vs _ _ _ _ _ => vPlain true [vs.val] []
  | .vsts vs _ _ _ _ _ => vPlain (decide (8 ≤ vtBits t.vtype)) [vs.val] []
  | .vstx vs _ vi _ _ _ => vPlain (decide (8 ≤ vtBits t.vtype) && vIndexFits t) [vs.val, vi.val] []
  | .vstb vs _ _ _ _ _ => vPlain (cls == .s) [2 * vs.val, 2 * vs.val + 1] []
  | .cmAdd p vi vs ty => cmInfo t (x s (pairHi p)) (cmBits ty.val) [] [vi.val] [vs.val]
  | .cmMin p vi vs ty => cmInfo t (x s (pairHi p)) (cmBits ty.val) [] [vi.val] [vs.val]
  | .cmMax p vi vs ty => cmInfo t (x s (pairHi p)) (cmBits ty.val) [] [vi.val] [vs.val]
  | .cmSwap p vi vs ty => cmInfo t (x s (pairHi p)) (cmBits ty.val) [] [vi.val] [vs.val]
  | .cmAnd p vi vs ty => cmInfo t (x s (pairHi p)) (cmBits ty.val) [] [vi.val] [vs.val]
  | .cmOr p vi vs ty => cmInfo t (x s (pairHi p)) (cmBits ty.val) [] [vi.val] [vs.val]
  | .cmXor p vi vs ty => cmInfo t (x s (pairHi p)) (cmBits ty.val) [] [vi.val] [vs.val]
  | .cmCas p vi vs ty => cmInfo t (x s (pairHi p)) (cmBits ty.val) [] [vi.val] [2 * vs.val, 2 * vs.val + 1]
  | .cmEw p vs ty => cmInfo t (x s (pairHi p)) (cmBits ty.val) [0, 1, 2, 3, 4] [] [vs.val]
  | .cmRed p _ ty => cmInfo t (x s (pairHi p)) (cmBits ty.val) [0, 1, 2] [] []
  | .cmMadd p vi vm => cmInfo t (x s (pairHi p)) 32 [] [vi.val] [vm.val]
  | .cmProbe p vk vr => cmProbeInfo t (x s (pairHi p)) [vk.val] [vr.val]
  | _ => vPlain false [] []

/-- R214: the cause that keeps a vector instruction of the thread of a slot out of the queue. -/
def vCheck (i : Instr) (k : Nat) (s : State) : Option (BitVec 8) :=
  let t := thr s k
  let v := vInfo i t s
  if !v.legal || (queuesRead v.srcs).any (fun q => (freeEntry t q).isNone) then some 0x01
  else if (v.dsts ++ v.srcs.filter (fun r => decide (r < 48))).any (fun r => decide (regCount t.cur ≤ r)) then some 0x41
  else if v.tile && !t.tiles then some 0x47
  else none

end Sys2Proof.Machine
end

