-- ==== Sys2Proof/Machine/VMem.lean ====
section
/-! DEFINITION. Vector loads and stores, one window at a time (R249..R263), and the bank operations of common memory
(R289..R298). -/

namespace Sys2Proof.Machine

/-- The maker of the V accesses of an entry of a thread's queue. -/
def whoV (s : State) (k : Nat) (en : VEntry) : Who :=
  ⟨dieOfThread k, tlbsOfCore s (coreOfThread k), .v, entryIssuer s k en, vReq k, some (coreOfThread k)⟩

/-- R249..R251: how a vector memory instruction addresses its elements, its mask and its register. -/
structure VMemOp where
  /-- 0 unit stride, 1 strided, 2 indexed, 3 scale block. -/
  kind : Nat
  isLoad : Bool
  spec : Bool
  reg : Nat
  idx : Option (Fin 56)
  m : Fin 8
  disp : Nat
  deriving DecidableEq, Repr

/-- R249: the vector memory instructions. -/
def vMemOp : Instr → Option VMemOp
  | .vld d _ disp m _ _ => some ⟨0, true, false, d.val, none, m, disp.val⟩
  | .vlds d _ _ m _ _ => some ⟨1, true, false, d.val, none, m, 0⟩
  | .vldx d _ vi m _ _ => some ⟨2, true, false, d.val, some vi, m, 0⟩
  | .vldb d _ disp m _ _ => some ⟨3, true, false, 2 * d.val, none, m, disp.val⟩
  | .vldSpec d _ disp m _ _ => some ⟨0, true, true, d.val, none, m, disp.val⟩
  | .vldsSpec d _ _ m _ _ => some ⟨1, true, true, d.val, none, m, 0⟩
  | .vldxSpec d _ vi m _ _ => some ⟨2, true, true, d.val, some vi, m, 0⟩
  | .vst vs _ disp m _ _ => some ⟨0, false, false, vs.val, none, m, disp.val⟩
  | .vsts vs _ _ m _ _ => some ⟨1, false, false, vs.val, none, m, 0⟩
  | .vstx vs _ vi m _ _ => some ⟨2, false, false, vs.val, some vi, m, 0⟩
  | .vstb vs _ disp m _ _ => some ⟨3, false, false, 2 * vs.val, none, m, disp.val⟩
  | _ => none

/-- R212, R251: the width in bits of an index element. -/
def idxBits (bits : Nat) : Nat := max bits 32

/-- R251: the address of an element. -/
def elemAddr (o : VMemOp) (en : VEntry) (t : Thread) (e : Nat) : Word :=
  let bits := vtBits en.vtype
  match o.kind with
  | 1 => en.op0 + BitVec.ofNat 64 e * en.op1
  | 2 =>
    let w := idxBits bits
    let v := match o.idx with | some i => (srcElem t i w e).1 | none => 0
    en.op0 + (if v.testBit (w - 1) then BitVec.ofInt 64 ((v : Int) - 2 ^ w) else BitVec.ofNat 64 v)
  | _ => en.op0 + BitVec.ofNat 64 (32 * o.disp + e * bits / 8)

/-- A faulting element: its number, its cause, its address entry, and whether the cause is one of R354, whose trap names an
ECLS 7 record. -/
structure VFault where
  elem : Nat
  cause : BitVec 8
  addr : Word
  lost : Bool
  deriving DecidableEq, Repr

/-- What became of a block byte (R254): it has been moved, its access faults, or it stays behind a lower fault (R121). -/
inductive BlkState where
  | moved
  | fault (f : VFault)
  | skipped

/-- The work on one window: the state, the elements done, the faults, the pieces of PEER-PUSH writes and the granules stored in
part (as in the entry), the blocks whose byte has been moved and what became of the latest, and whether an element has to wait. -/
structure VWin where
  s : State
  done : BitVec 256
  faults : List VFault
  pushes : List Gathered
  stored : List (Nat × Nat)
  blks : List Nat
  blk : Option (Nat × BlkState)
  blocked : Bool

/-- Note a fault. -/
def VWin.fault (w : VWin) (e : Nat) (c : BitVec 8) (a : Word) (lost : Bool) (s : State) : VWin :=
  { w with s := s, faults := w.faults ++ [⟨e, c, a, lost⟩] }
/-- Note that an element is performed. -/
def VWin.did (w : VWin) (j : Nat) (s : State) : VWin := { w with s := s, done := w.done ||| BitVec.twoPow 256 j }
/-- Note that an element has to wait. -/
def VWin.block (w : VWin) (s : State) : VWin := { w with s := s, blocked := true }

/-- R253: a unit-stride store has written bytes of a granule: the poison of a granule written whole is cleared. -/
def VWin.wrote (w : VWin) (pa n : Nat) : VWin :=
  let g := pa / 64
  let old := ((w.stored.find? (fun q => q.1 == g)).map (fun q => q.2)).getD 0
  let m : Nat := old ||| ((2 ^ n - 1) * 2 ^ (pa % 64))
  let rest := w.stored.filter (fun q => q.1 != g)
  if m = 0xFFFFFFFFFFFFFFFF then { w with s := clearPoison w.s (64 * g) 64, stored := rest }
  else { w with stored := rest ++ [(g, m)] }

/-- R121, R259: an element on a device-class page is not performed above a faulting element. -/
def deviceStops (w : VWin) (p : Word) : Bool := pteDev p && !w.faults.isEmpty

/-- R251, R253: read the bytes that hold an element of `bits` bits, all of them or none. -/
def loadElem (w : Who) (bits e : Nat) (ea : Word) (s : State) : Res Nat :=
  if 8 ≤ bits then load w (bits / 8) (bits / 8) ea s
  else
    let off := e * bits % 8
    if off + bits ≤ 8 then (load w 1 1 ea s).next (fun v s => .ok (v / 2 ^ off % 2 ^ bits) s)
    else wholeOr s ((load w 1 1 ea s).next (fun v s => (load w 1 1 (ea + 1) s).next (fun u s =>
      .ok ((v + 256 * u) / 2 ^ off % 2 ^ bits) s)))

/-- The page that an element access goes through, for the rules of device-class pages. -/
def leafAt (s : State) (w : Who) (ea : Word) : Word := (leafOf s w.tlbs w.die w.iss.asid ea.toNat).getD 0

/-- R121, R262: an element touches a device-class page; a 6-bit element may lie in two bytes. -/
def leafDev (s : State) (w : Who) (bits e : Nat) (ea : Word) : Word :=
  let p := leafAt s w ea
  if !pteDev p && decide (bits < 8) && decide (8 < e * bits % 8 + bits) then leafAt s w (ea + 1) else p

/-! ## Stores -/

/-- R249: unit-stride accesses. -/
def VMemOp.unit (o : VMemOp) : Bool := o.kind == 0 || o.kind == 3

/-- R339: a write of pieces through a leaf travels as push writes of whole lines. -/
def isPushPage (w : Who) (p : Word) (pa : Nat) : Bool :=
  !pteMc p && !pteDev p && ptePush p && devOf pa != devOfDie w.die && (match placeOf pa with
    | .hbm _ => true
    | _ => false)

/-- R339, R349: a write through the leaf travels line by line: PEER-PUSH writes, and writes to an aperture. -/
def gathers (w : Who) (p : Word) (pa : Nat) : Bool := isPushPage w p pa || (pteMc p && !pteDev p)

/-- Where the bytes at an address of a leaf lie: at the address, or at the members of an aperture. -/
def homesOf (s : State) (w : Who) (p : Word) (pa : Nat) : List Nat := if pteMc p then memberAddrs s w p pa else [pa]

/-- The cause for which a write of bytes that are gathered is refused. -/
def gatherBad (w : Who) (p : Word) (pa n lo hi : Nat) (s : State) : Option (BitVec 8) :=
  if pteMc p then multicastBad w p pa n lo hi s else if racing s w p pa n then some 0x20 else none

/-- The pieces of a line, each joined to the one before where it goes on from it or overlaps it. -/
def joinPieces : List (Nat × Nat × Nat) → List (Nat × Nat × Nat)
  | [] => []
  | q :: l =>
    (l.foldl (fun (r : List (Nat × Nat × Nat) × (Nat × Nat × Nat)) p =>
      let c := r.2
      if c.1 ≤ p.1 ∧ p.1 ≤ c.1 + c.2.1 ∧ c.1 + c.2.1 ≤ p.1 + p.2.1 then
        (r.1, (c.1, p.1 + p.2.1 - c.1, c.2.2 % 256 ^ (p.1 - c.1) + p.2.2 * 256 ^ (p.1 - c.1)))
      else (r.1 ++ [c], p)) ([], q)) |> fun r => r.1 ++ [r.2]

/-- R339, R341, R349: the pieces gathered for one line go to its home, or to the line of each member: one packet for each other
device. None when one has no room or its home is not free. A unit-stride store clears the poison of granules that it writes whole
(R253). -/
def sendLine (w : Who) (o : VMemOp) (l : List Gathered) (s : State) : Option State :=
  match l with
  | [] => some s
  | g :: _ =>
    let pieces := l.map (fun q => (q.pa, q.len, q.num))
    let pieces := if o.unit then joinPieces pieces else pieces
    let done := l.all (fun q => q.done)
    let homes := homesOf s w g.leaf (64 * (g.pa / 64))
    let own := fun (a : Nat) => devOf a == devOfDie w.die
    if homes.any (fun a => if own a then !done && (lineBusy s a || settleBusy s a 64) else pairFull s w.die (devOf a)) then none
    else some (homes.foldl (fun s a =>
      let ps := pieces.map (fun q => (a + q.1 % 64, q.2))
      let s := if done && o.unit then ps.foldl (fun s q => clearPoison s q.1 q.2.1) s else s
      if !own a then sendPacket .push false true w.iss w.die (devOf a) ps (ptePush g.leaf) done s
      else if done then s
      else ps.foldl (fun s q => storeHome q.1 q.2.1 q.2.2 (settleWrites q.1 q.2.1 s)) s) s)

/-- Lines that gathered pieces touch, in the order they were first touched, and whether they are lines of an aperture. -/
def pushLines (l : List Gathered) : List (Nat × Bool) := (l.map (fun q => (q.pa / 64, pteMc q.leaf))).eraseDups

/-- R339, R341: what a vector store has gathered is sent, line by line, in the order the lines were first touched; what has to wait
stays. -/
def sendLines (w : Who) (o : VMemOp) (l : List Gathered) (s : State) : List Gathered × State :=
  (pushLines l).foldl (fun r ln =>
    let ps := l.filter (fun q => q.pa / 64 == ln.1 && pteMc q.leaf == ln.2)
    match sendLine w o ps r.2 with
    | none => (r.1 ++ ps, r.2)
    | some s => (r.1, s)) ([], s)

/-- R121, R339: a write of the instruction in hand is on its way to a peer, or not acknowledged. -/
def ownOnWay (s : State) (w : Who) : Bool :=
  s.packets.any (fun q => q.vpath && q.thread == w.iss.thread && q.bind == w.iss.bind && q.pc == w.iss.pc)

/-- R121, R255: before an element is written through a leaf at once, what lower elements have gathered is sent if it must come first:
for a device-class element all of it, which is performed and acknowledged before the element goes on, else what the same bytes
wait for. -/
def sendFirst (w : Who) (o : VMemOp) (v : VWin) (p : Word) (pa n : Nat) : VWin :=
  let near := fun (q : Gathered) => decide (localOf q.pa < localOf pa + n) && decide (localOf pa < localOf q.pa + q.len)
  if gathers w p pa then v
  else
    let v := if pteDev p || v.pushes.any near then
        let r := sendLines w o v.pushes v.s
        { v with pushes := r.1, s := r.2 }
      else v
    if (pteDev p || v.pushes.any near) && !v.pushes.isEmpty then v.block v.s
    else if pteDev p && ownOnWay v.s w then v.block v.s
    else v

/-- R253: store the `n` low bytes of `v` for element `e` through a leaf, with the bytes `lo .. hi - 1` around them that the
instruction writes too. `f` goes on after the store. A write to a checked page is performed now and travels with its line (R125).
(DEDUCED: log entry 62.) -/
def storeNow (w : Who) (o : VMemOp) (v : VWin) (e n : Nat) (ea : Word) (p : Word) (pa val : Nat) (wide : Bool) (f : VWin → VWin) : VWin :=
  let lo := if wide then pa - pa % 16 else pa
  let hi := if wide then lo + 16 else pa + n
  if gathers w p pa then
    match gatherBad w p pa n lo hi v.s with
    | some c => v.fault e c ea false v.s
    | none =>
      let as := homesOf v.s w p pa
      if pteChk p && as.any (fun a => lineBusy v.s a || settleBusy v.s a n) then v.block v.s
      else
        let s := if pteChk p then as.foldl (fun s a => tagLines w p a n (storeHome a n (val % 256 ^ n) (settleWrites a n s))) v.s else v.s
        f { v with s := s, pushes := v.pushes ++ [⟨pa, n, val % 256 ^ n, p, pteChk p⟩] }
  else match storeAt w p pa n val lo hi v.s with
    | .exc c s => v.fault e c ea false s
    | .lost c s => v.fault e c ea true s
    | .wait s => v.block s
    | .ok _ s => f (if o.unit && !pteMc p then { v with s := s }.wrote pa n else { v with s := s })

/-- R253: store one piece of an element at an address. -/
def storePiece (w : Who) (o : VMemOp) (v : VWin) (e : Nat) (n : Nat) (ea : Word) (val : Nat) (wide : Bool) (f : VWin → VWin) : VWin :=
  match resolve v.s w false true n ea with
  | .exc c s => v.fault e c ea false s
  | .lost c s => v.fault e c ea true s
  | .wait s => v.block s
  | .ok (p, pa) s =>
    if deviceStops v p then v
    else
      let v := sendFirst w o { v with s := s } p pa n
      if v.blocked then v else storeNow w o v e n ea p pa val wide f

/-- The byte that a narrower element is put into: what the instruction has stored there for a peer, else memory. -/
def oldByte (w : Who) (v : VWin) (ea : Word) : Nat × State :=
  match resolve v.s w false true 1 ea with
  | .ok (p, pa) s =>
    let s := settleWrites pa 1 s
    (match (v.pushes.filter (fun q => decide (q.pa ≤ pa) && decide (pa < q.pa + q.len))).getLast? with
      | some q => (q.num / 256 ^ (pa - q.pa) % 256, s)
      | none => (readFor s w p pa 1, s))
  | _ => (0, v.s)

/-- R121, R253, R260: an element whose bits lie in two bytes: both are stored or neither, and a fault of either names the element's
own address. -/
def storeTwo (w : Who) (o : VMemOp) (v : VWin) (j e : Nat) (ea : Word) (b : Nat) (wide : Bool) : VWin :=
  match (resolve v.s w false true 1 ea).next (fun q s => (resolve s w false true 1 (ea + 1)).next (fun r s => .ok (q, r) s)) with
  | .exc c s => v.fault e c ea false s
  | .lost c s => v.fault e c ea true s
  | .wait s => v.block s
  | .ok (q, r) s =>
    if deviceStops v q.1 || deviceStops v r.1 then v
    else
      let v1 := sendFirst w o { v with s := s } q.1 q.2 1
      let v1 := if v1.blocked then v1 else sendFirst w o v1 r.1 r.2 1
      if v1.blocked then v1
      else
        let t := storeNow w o v1 e 1 ea q.1 q.2 (b % 256) wide (fun t =>
          storeNow w o t e 1 (ea + 1) r.1 r.2 (b / 256) wide (fun t => t.did j t.s))
        if t.done.getLsbD j then t
        else match t.faults.drop v1.faults.length with
          | f :: _ => v1.fault e f.cause ea f.lost (askedFrom v1.s t.s)
          | [] => v1.block (waitFrom v1.s t.s)

/-- R119, R251, R253: store an element of `bits` bits. -/
def storeElem (w : Who) (o : VMemOp) (v : VWin) (j e bits : Nat) (ea : Word) (val : Nat) (wide : Bool) : VWin :=
  if 8 ≤ bits then storePiece w o v e (bits / 8) ea val wide (fun v => v.did j v.s)
  else
    let off := e * bits % 8
    let r := oldByte w v ea
    let v := { v with s := r.2 }
    if off + bits ≤ 8 then storePiece w o v e 1 ea (setBits r.1 (off + bits - 1) off val) wide (fun v => v.did j v.s)
    else
      let q := oldByte w v (ea + 1)
      storeTwo w o { v with s := q.2 } j e ea (setBits (r.1 + 256 * q.1) (off + bits - 1) off val) wide

/-! ## One element -/

/-- R256, R261: the queue entry that a load fills, after `f`. -/
def mapTarget (q : Nat) (target : Option Nat) (f : QEntry → QEntry) (t : Thread) : Thread :=
  mapQueue q (fun l => l.map (fun e => if some e.id = target then f e else e)) t

/-- Write the element a load brings, to its register or to its queue entry. -/
def setLoaded (k : Nat) (o : VMemOp) (en : VEntry) (bits e v : Nat) (psn : Bool) (s : State) : State :=
  let t := thr s k
  setThr s k (if o.reg < 48 then setElem o.reg bits e v psn t
    else mapTarget (o.reg - 48) en.target (fun q => { q with data := putElem q.data bits e v psn }) t)

/-- R262: a faulting element of a speculative load. -/
def specFault (k : Nat) (o : VMemOp) (en : VEntry) (v : VWin) (j bits e : Nat) (s : State) : VWin :=
  let s := setLoaded k o en bits e 0 true (dropFailed (vReq k) s)
  v.did j (setThr s k (setMbit 0 e true (thr s k)))

/-- R252, R262: load one element. -/
def loadOne (k : Nat) (o : VMemOp) (en : VEntry) (w : Who) (v : VWin) (j e : Nat) : VWin :=
  let t := thr v.s k
  let bits := vtBits en.vtype
  let ea := elemAddr o en t e
  let idxPsn := match o.idx with | some i => (srcElem t i (idxBits bits) e).2 | none => false
  let leaf := leafDev v.s w bits e ea
  if !blockOk t en.vtype e then v.did j (setLoaded k o en bits e 0 false v.s)
  else if o.spec then
    (if idxPsn || pteDev leaf then specFault k o en v j bits e v.s
      else match loadElem w bits e ea v.s with
        | .exc _ s => specFault k o en v j bits e s
        | .lost _ s => specFault k o en v j bits e s
        | .wait s => v.block s
        | .ok x s => v.did j (setLoaded k o en bits e x false s))
  else if idxPsn then v.fault e 0x30 ea false v.s
  else if deviceStops v leaf then v
  else match loadElem w bits e ea v.s with
    | .exc c s => v.fault e c ea false s
    | .lost c s => v.fault e c ea true s
    | .wait s => v.block s
    | .ok x s => v.did j (setLoaded k o en bits e x false s)

/-- R252, R263: store one element. -/
def storeOne (k : Nat) (o : VMemOp) (en : VEntry) (w : Who) (v : VWin) (j e : Nat) : VWin :=
  let t := thr v.s k
  let bits := vtBits en.vtype
  let ea := elemAddr o en t e
  let src : Nat × Bool := if h : o.reg < 56 then srcElem t ⟨o.reg, h⟩ bits e else (0, false)
  let idxPsn := match o.idx with | some i => (srcElem t i (idxBits bits) e).2 | none => false
  let start := (en.op0 + BitVec.ofNat 64 (32 * o.disp)).toNat
  let g := ea.toNat - ea.toNat % 16
  let wide := o.unit && o.m == 0 && decide (start ≤ g) && decide (g + 16 ≤ start + en.vl * bits / 8)
  if !blockOk t en.vtype e then (if o.kind = 2 then v.did j v.s else storeElem w o v j e bits ea 0 wide)
  else if src.2 || idxPsn then v.fault e 0x30 ea false v.s
  else storeElem w o v j e bits ea src.1 wide

/-- R121, R254: the block byte of the block of an element, before its elements, and once for the block. -/
def blockByte (k : Nat) (o : VMemOp) (en : VEntry) (w : Who) (v : VWin) (e : Nat) : VWin :=
  let b := blockOf en.vtype e
  let ea := en.op1 + BitVec.ofNat 64 b
  let t := thr v.s k
  let moved := fun (v : VWin) => { v with blks := b :: v.blks, blk := some (b, .moved) }
  let failed := fun (c : BitVec 8) (lost : Bool) (s : State) => { v with s := s, blk := some (b, .fault ⟨e, c, ea, lost⟩) }
  if (match v.blk with | some (c, _) => c == b | none => false) then v
  else if v.blks.contains b then { v with blk := some (b, .moved) }
  else if o.isLoad then
    if deviceStops v (leafAt v.s w ea) then { v with blk := some (b, .skipped) }
    else match load w 1 1 ea v.s with
      | .exc c s => failed c false s
      | .lost c s => failed c true s
      | .wait s => v.block s
      | .ok x s =>
        let t := setElem (o.reg + 1) 8 b x false (thr s k)
        moved { v with s := setThr s k { t with bvalid := withBit t.bvalid b (x != badByte en.vtype) } }
  else
    let x := if t.bvalid.getLsbD b then elemBits (vreg t (o.reg + 1)) 8 b else badByte en.vtype
    if t.bvalid.getLsbD b && elemPsn (vreg t (o.reg + 1)) 8 b then failed 0x30 false v.s
    else if deviceStops v (leafAt v.s w ea) then { v with blk := some (b, .skipped) }
    else
      let r := storePiece w o v e 1 ea x false moved
      match r.faults.drop v.faults.length with
      | f :: _ => failed f.cause f.lost r.s
      | [] => r

/-- R252, R254: one element of a window; `j` is its place in the window. An element of a block whose byte stays behind a lower
fault stays with it. (DEDUCED: log entry 17.) -/
def windowElem (k : Nat) (o : VMemOp) (en : VEntry) (w : Who) (v : VWin) (j : Nat) : VWin :=
  let e := en.estart + j
  let t := thr v.s k
  let act := if o.spec then activeAt t en.vl o.m e else governedAt t en.vl o.m e
  if v.blocked || !act || v.done.getLsbD j then v
  else
    let v := if o.kind = 3 then blockByte k o en w v e else v
    match v.blocked, v.blk with
    | true, _ => v
    | _, some (_, .fault f) => v.fault e f.cause f.addr f.lost v.s
    | _, some (_, .skipped) => v
    | _, _ => if o.isLoad then loadOne k o en w v j e else storeOne k o en w v j e

/-- R260: the faulting elements that a record reports: those of the cause of the lowest, at most 64. -/
def reported (l : List VFault) : BitVec 8 × List Word :=
  match l with
  | [] => (0, [])
  | f :: _ => (f.cause, ((l.filter (fun g => g.cause == f.cause)).map (fun g => g.addr)).take 64)

/-- R258: the queue entry that a load fills has every element. -/
def endLoad (k : Nat) (o : VMemOp) (en : VEntry) (s : State) : State :=
  if o.isLoad = false ∨ o.reg < 48 then s
  else setThr s k (mapTarget (o.reg - 48) en.target (fun q => { q with ready := true }) (thr s k))

/-- R259: the work of an entry on the window at its cursor. -/
def vWindow (k : Nat) (o : VMemOp) (en : VEntry) (s : State) : VWin :=
  (List.range 256).foldl (windowElem k o en (whoV s k en)) ⟨s, en.done, [], en.pushes, en.stored, en.blks, none, false⟩

/-- What a window comes to, with the entry as it then stands: more windows, the end of the instruction, faults, or a wait. -/
inductive WinOut where
  | more (en : VEntry) (s : State)
  | done (en : VEntry) (s : State)
  | fault (en : VEntry) (l : List VFault) (s : State)
  | wait (en : VEntry) (s : State)

/-- R339: what an entry has gathered for peers is sent before it ends or stops; what has no room waits. -/
def sendGathered (k : Nat) (o : VMemOp) (en : VEntry) (s : State) (f : VEntry → State → WinOut) : WinOut :=
  let r := sendLines (whoV s k en) o en.pushes s
  let en := { en with pushes := r.1 }
  if r.1.isEmpty then f en r.2 else .wait en r.2

/-- R119: the next window of a unit-stride access begins within an aligned granule of 16 bytes. -/
def granuleSplit (o : VMemOp) (en : VEntry) : Bool :=
  o.unit && (en.op0.toNat + 32 * o.disp + en.estart * vtBits en.vtype / 8) % 16 != 0

/-- R259: the windows of an entry from its cursor, as far as one step takes them: to the end of a window at which no granule of
R119 is divided. -/
def vWindows (k : Nat) (o : VMemOp) : Nat → VEntry → State → WinOut
  | 0, en, s => .more en s
  | n + 1, en, s =>
    let v := vWindow k o en s
    let en := { en with done := v.done, pushes := v.pushes, stored := v.stored, blks := v.blks }
    if v.blocked then .wait en v.s
    else if !v.faults.isEmpty then sendGathered k o en v.s (fun en s => .fault en v.faults s)
    else if en.vl ≤ en.estart + 256 then sendGathered k o en v.s .done
    else
      let en := { en with estart := en.estart + 256, done := 0, blks := [] }
      if granuleSplit o en then vWindows k o n en v.s else .more en v.s

/-- More windows than any instruction has. -/
def windowFuel : Nat := 130

/-- R259..R261: the head entry, a vector load or store, works on its window. -/
def vMemWindow (k : Nat) (o : VMemOp) (en : VEntry) (s : State) : VRes :=
  match vWindows k o windowFuel { en with begun := true } s with
  | .more en s => .more (setHead k en s)
  | .done en s => .done (popHead k en (endLoad k o en s))
  | .wait en s => .wait (setHead k en s)
  | .fault en l s =>
    if l.head?.any (fun f => f.lost) then stopEntryLost k en (reported l).1 s
    else stopEntry k en (reported l).1 en.estart en.done (reported l).2 s

/-! ## Bank operations (R289..R298) -/

/-- R289: a bank operation: what it computes, its vector operands, its width in bits and its type code. -/
structure CmOp where
  op : Nat
  idx : Option (Fin 56)
  reg : Nat
  ty : Nat
  bits : Nat
  deriving DecidableEq, Repr

/-- R289: the bank operations but `cm.red`; op 10 is `cm.madd` and op 11 `cm.probe`. -/
def cmOp : Instr → Option CmOp
  | .cmAdd _ vi vs ty => some ⟨0, some vi, vs.val, ty.val, cmBits ty.val⟩
  | .cmMin _ vi vs ty => some ⟨1, some vi, vs.val, ty.val, cmBits ty.val⟩
  | .cmMax _ vi vs ty => some ⟨2, some vi, vs.val, ty.val, cmBits ty.val⟩
  | .cmAnd _ vi vs ty => some ⟨3, some vi, vs.val, ty.val, cmBits ty.val⟩
  | .cmOr _ vi vs ty => some ⟨4, some vi, vs.val, ty.val, cmBits ty.val⟩
  | .cmXor _ vi vs ty => some ⟨5, some vi, vs.val, ty.val, cmBits ty.val⟩
  | .cmSwap _ vi vs ty => some ⟨6, some vi, vs.val, ty.val, cmBits ty.val⟩
  | .cmCas _ vi vs ty => some ⟨7, some vi, 2 * vs.val, ty.val, cmBits ty.val⟩
  | .cmEw _ vs ty => some ⟨8, none, vs.val, ty.val, cmBits ty.val⟩
  | .cmMadd _ vi vm => some ⟨10, some vi, vm.val, 0, 32⟩
  | .cmProbe _ vk vr => some ⟨11, some vk, vr.val, 3, 64⟩
  | _ => none

/-- R290: MK of the control word. -/
def cmMask (en : VEntry) : Fin 8 := ⟨en.op1.toNat % 8, by omega⟩
/-- R290: SUB of the control word. -/
def cmSub (en : VEntry) : Nat := bitsOf en.op1.toNat 5 3
/-- R290: SCOPE of the control word. -/
def cmScope (en : VEntry) : Nat := bitsOf en.op1.toNat 10 8

/-- R292: the address of an element. -/
def cmAddr (o : CmOp) (en : VEntry) (t : Thread) (e : Nat) : Word :=
  if o.op = 8 then en.op0 + BitVec.ofNat 64 (e * (o.bits / 8))
  else if o.op = 11 then
    let v := elemBits (vreg t o.reg) 64 e
    en.op0 + BitVec.ofNat 64 (v - v % 64)
  else
    let v := match o.idx with | some i => (srcElem t i 32 e).1 | none => 0
    en.op0 + (if v.testBit 31 then BitVec.ofInt 64 ((v : Int) - 2 ^ 32) else BitVec.ofNat 64 v)

/-- R292: the bytes that one element covers: its word, or its bucket. -/
def cmBytes (o : CmOp) : Nat := if o.op = 11 then 64 else o.bits / 8

/-- R292, R293: the checks of one address, in the order of R253; `wr` is false for the elements of `cm.red`. -/
def cmCheck (w : Who) (wr : Bool) (n : Nat) (ea : Word) (s : State) : Res (Word × Nat) :=
  match translate s w (!wr) wr n ea.toNat with
  | .error c => .exc (if c = 0x70 then 0x13 else c) (if ea.toNat % n = 0 then noteTried w ea s else s)
  | .ok (p, pa) =>
    if pteMc p = true ∨ devOf pa ≠ devOfDie w.die ∨ placeOf pa ≠ .common (w.die % 32) then .exc 0x13 (noteTried w ea s)
    else (resolve s w (!wr) wr n ea).next (fun q s =>
      if racing s (if wr then mergedWho s w (syncFor s w q.1 q.2) else w) q.1 q.2 n then .exc 0x20 s else .ok q s)

/-- R292: the pass over every address before any element is performed: the faults, or a wait. -/
def cmPass (w : Who) (wr : Bool) (n : Nat) (addrs : List (Nat × Word)) (s : State) : Res (List VFault) :=
  addrs.foldl (fun r a => r.next (fun fs s =>
    match cmCheck w wr n a.2 s with
    | .ok _ s => .ok fs s
    | .exc c s => .ok (fs ++ [⟨a.1, c, a.2, false⟩]) s
    | .lost c s => .ok (fs ++ [⟨a.1, c, a.2, true⟩]) s
    | .wait s => .wait s)) (.ok [] s)

/-- R294..R296: two values of a type combined: 0 add, 1 subtract, 2 multiply, 3 lesser, 4 greater. Codes: i32, i64, n32,
n64, f32. -/
def cmArith (f ty a b : Nat) : Nat × Flags7 :=
  let bits := cmBits ty
  if ty = 4 then
    (match f with
      | 0 => addCode 0 RNE 0 a b
      | 1 => let r := elSub 0 RNE 0 a b; (r.code, r.flags)
      | 2 => mulCode 0 RNE 0 a b
      | 3 => minMaxCode 0 false a b
      | _ => minMaxCode 0 true a b)
  else
    let sg (v : Nat) : Int := if ty < 2 ∧ v.testBit (bits - 1) then (v : Int) - 2 ^ bits else v
    match f with
    | 0 => (wrapInt bits (sg a + sg b), 0)
    | 1 => (wrapInt bits (sg a - sg b), 0)
    | 2 => (wrapInt bits (sg a * sg b), 0)
    | 3 => (if sg b < sg a then b else a, 0)
    | _ => (if sg a < sg b then b else a, 0)

/-- R289: one half of a bf16 word. -/
def cmHalf (f a b : Nat) : Nat × Flags7 :=
  match f with
  | 0 => addCode 1 RNE 0 a b
  | 1 => let r := elSub 1 RNE 0 a b; (r.code, r.flags)
  | 2 => mulCode 1 RNE 0 a b
  | 3 => minMaxCode 1 false a b
  | _ => minMaxCode 1 true a b

/-- R289: two words of a type combined; bf16 computes each half on its own. -/
def cmCombine (f ty a b : Nat) : Nat × Flags7 :=
  if ty = 5 then
    let l := cmHalf f (a % 65536) (b % 65536)
    let h := cmHalf f (a / 65536) (b / 65536)
    (l.1 + 65536 * h.1, l.2 ||| h.2)
  else cmArith f ty a b

/-- R294, R295, R297: the new word of an element, none when nothing is written, and its flags. -/
def cmNew (o : CmOp) (sub old v v2 : Nat) : Option Nat × Flags7 :=
  match o.op with
  | 0 => let r := cmCombine 0 o.ty old v; (some r.1, r.2)
  | 1 => let r := cmCombine 3 o.ty old v; (some r.1, r.2)
  | 2 => let r := cmCombine 4 o.ty old v; (some r.1, r.2)
  | 3 => (some (old &&& v), 0)
  | 4 => (some (old ||| v), 0)
  | 5 => (some (old ^^^ v), 0)
  | 6 => (some v, 0)
  | 7 => (if old = v then some v2 else none, 0)
  | 8 => let r := cmCombine sub o.ty old v; (some r.1, r.2)
  | _ =>
    let n := intVal 12 old + intVal 12 v
    let c := max (-2147483648) (min 2147483647 n)
    (some (wrapInt 32 c), fIf (c != n) fSAT)

/-- R298: what `cm.probe` finds in a bucket of eight slots: the status, the slot, and whether it writes there. -/
def probeBucket (bucket key : Nat) (ins : Bool) : Nat × Nat × Bool :=
  let slot := fun j => bucket / 2 ^ (64 * j) % 2 ^ 64
  if key = 0 then (4, 0, false)
  else match (List.range 8).find? (fun j => slot j == key) with
    | some j => (0, j, false)
    | none => match (List.range 8).find? (fun j => slot j == 0) with
      | none => (3, 0, false)
      | some j => if ins then (1, j, true) else (2, j, false)

/-- R123, R293: the acquire and the release of one element that acts as an atomic on a checked page. -/
def cmSync (k : Nat) (w : Who) (p : Word) (pa : Nat) (s : State) : State :=
  match syncFor s w p pa with
  | none => s
  | some b =>
    let t := thr s k
    let c := mergeBlock s t.agent (clockOf s t.rdom t.agent) b
    epochStep t.rdom t.agent (joinBlock t.rdom c b (setClock s t.rdom t.agent c))

/-- R128: an element that releases would carry the epoch of its agent past 0xFFFF: it waits. -/
def cmEpochWaits (k : Nat) (w : Who) (p : Word) (pa : Nat) (s : State) : Bool :=
  (syncFor s w p pa).isSome && epochFull s (thr s k).rdom (thr s k).agent

/-- The work of a bank operation on a strip: the state, the flags, the element it stops at with its cause and its address entry,
or the element that has to wait. -/
structure CmWork where
  s : State
  flags : Flags7
  stop : Option (Nat × BitVec 8 × Word)
  blocked : Option Nat

/-- R293, R294, R297, R298: one element of a bank operation; `t0` is the thread before the strip. -/
def cmElem (k : Nat) (o : CmOp) (en : VEntry) (t0 : Thread) (v : CmWork) (e : Nat) : CmWork :=
  let t := thr v.s k
  if v.stop.isSome || v.blocked.isSome || !governedAt t en.vl (cmMask en) e then v
  else
    let w := whoV v.s k en
    let n := cmBytes o
    let ea := cmAddr o en t0 e
    let key := match o.idx with | some i => srcElem t0 i (if o.op = 11 then 64 else 32) e | none => (0, false)
    let d := (elemBits (vreg t o.reg) o.bits e, elemPsn (vreg t o.reg) o.bits e)
    let d2 := if o.op = 7 then (elemBits (vreg t (o.reg + 1)) o.bits e, elemPsn (vreg t (o.reg + 1)) o.bits e) else (0, false)
    if key.2 || d.2 || d2.2 then { v with stop := some (e, 0x30, noAddress) }
    else match cmCheck w true n ea v.s with
      | .exc c s => { v with s := s, stop := some (e, c, ea) }
      | .lost c s => { v with s := s, stop := some (e, c, ea) }
      | .wait s => { v with s := s, blocked := some e }
      | .ok (p, pa) s =>
        if poisoned s pa n then { v with s := s, stop := some (e, 0x30, ea) }
        else if barrierRefuses s pa n pa (pa + n) then { v with s := s, stop := some (e, 0x43, ea) }
        else if cmEpochWaits k w p pa s then { v with s := epochTold w.iss s, blocked := some e }
        else
          let old := readMem s pa n
          if o.op = 11 then
            let r := probeBucket old key.1 (en.op1.getLsbD 6)
            let s := if r.2.2 then tagLines w p (pa + 8 * r.2.1) 8 (storeBank (pa + 8 * r.2.1) 8 key.1 s) else s
            let s := cmSync k w p pa s
            { v with s := setThr s k (setElem o.reg 64 e (d.1 - d.1 % 64 + r.1 * 8 + r.2.1) false (thr s k)) }
          else
            let r := cmNew o (cmSub en) old d.1 d2.1
            let s := match r.1 with
              | some x => cmSync k w p pa (tagLines w p pa n (storeBank pa n x s))
              | none => s
            let s := if o.op = 8 then s else setThr s k (setElem o.reg o.bits e old false (thr s k))
            { v with s := s, flags := v.flags ||| r.2 }

/-- R113, R345: an operation that releases at domain or system scope waits for every acknowledgement of the die, and takes cause
0x71 for a write of the thread that was reported lost. -/
def cmRelease (k : Nat) (en : VEntry) (s : State) (f : Unit → VRes) : VRes :=
  if cmScope en < 4 then f ()
  else if awaitsAck s (dieOfThread k) none s.serial then .wait s
  else match lostAmong s (dieOfThread k) none s.serial k with
    | some a => .fault (vectorTrap k 0x71 a 7 (setHead k en s))
    | none => f ()

/-- R292, R294: old values written to the data vector would replace indices that are still to be read. -/
def overOwnIndex (o : CmOp) : Bool := decide (o.op < 8) && o.bits == 64 && (o.idx.map (fun i => i.val)) == some o.reg

/-- R292, R293: the head entry, a bank operation on elements, does a strip. The pass over its addresses comes first. -/
def cmStrip (k : Nat) (o : CmOp) (en : VEntry) (s : State) : VRes :=
  let t := thr s k
  let w := whoV s k en
  let go := fun (s : State) =>
    let en := { en with begun := true }
    let n := if overOwnIndex o then en.vl else 64
    let base := en.estart - en.estart % 64
    let v := ((List.range n).map (base + ·)).foldl
      (fun v e => if e < en.estart then v else cmElem k o en (thr s k) v e) ⟨s, 0, none, none⟩
    let en := { en with flags := en.flags ||| v.flags }
    match v.stop with
    | some (e, c, a) => stopEntry k { en with estart := e } c e 0 [a] v.s
    | none =>
      match v.blocked with
      | some e => .wait (setHead k { en with estart := e } v.s)
      | none =>
        if en.vl ≤ base + n then .done (popHead k en v.s)
        else .more (setHead k { en with estart := base + n } v.s)
  cmRelease k en s (fun _ =>
    if en.begun then go s
    else
      let es := (List.range en.vl).filter (governedAt t en.vl (cmMask en))
      match cmPass w true (cmBytes o) (es.map (fun e => (e, cmAddr o en t e))) s with
      | .exc _ s => .wait s
      | .lost _ s => .wait s
      | .wait s => .wait s
      | .ok fs s =>
        if fs.isEmpty then go s
        else let r := reported fs; stopEntry k en r.1 0 0 r.2 s)

/-- R296: the reduction of a list of words of a type. -/
def cmReduce (sub ty vl : Nat) (vs : List (Nat × Nat)) : Nat × Flags7 :=
  match sub with
  | 0 =>
    if ty = 4 then foldGroups vl (vs.map (fun v => (v.1, floatVal 0 v.2)))
    else vs.foldl (fun a v => cmArith 0 ty a.1 v.2) (0, 0)
  | _ =>
    match vs with
    | [] => (0, 0)
    | v :: l => l.foldl (fun a u => let r := cmArith (if sub = 1 then 3 else 4) ty a.1 u.2; (r.1, a.2 ||| r.2)) (v.2, 0)

/-- R296: the head entry, `cm.red` with its destination address `dst`, is performed whole. -/
def cmRedRun (k : Nat) (ty : Nat) (dst : Word) (en : VEntry) (s : State) : VRes :=
  let t := thr s k
  let w := whoV s k en
  let n := cmBits ty / 8
  let es := (List.range en.vl).filter (governedAt t en.vl (cmMask en))
  let addrs := es.map (fun e => (e, en.op0 + BitVec.ofNat 64 (e * n)))
  let stop := fun (fs : List VFault) (c : BitVec 8) (s : State) =>
    match fs with
    | [] => stopEntry k en c 0 0 [dst] s
    | _ => stopEntry k en (reported fs).1 0 0 (reported fs).2 s
  if es.isEmpty then .done (popHead k en s)
  else cmRelease k en s (fun _ =>
    match cmPass w false n addrs s with
    | .exc _ s => .wait s
    | .lost _ s => .wait s
    | .wait s => .wait s
    | .ok fs s =>
      match cmCheck w true n dst s with
      | .wait s => .wait s
      | .lost c s => stop fs c s
      | .exc c s => stop fs c s
      | .ok (p, pa) s =>
        if !fs.isEmpty then stop fs 0 s
        else
          let phys := addrs.map (fun a => (a, match translate s w true false n a.2.toNat with | .ok q => q.2 | .error _ => 0))
          match phys.find? (fun a => poisoned s a.2 n) with
          | some a => stopEntry k en 0x30 0 0 [a.1.2] s
          | none =>
            if poisoned s pa n then stop [] 0x30 s
            else if barrierRefuses s pa n pa (pa + n) then stop [] 0x43 s
            else if cmEpochWaits k w p pa s then .wait (epochTold w.iss s)
            else
              let r := cmReduce (cmSub en) ty en.vl (phys.map (fun a => (a.1.1, readMem s a.2 n)))
              let c := cmArith (match cmSub en with | 0 => 0 | 1 => 3 | _ => 4) ty (readMem s pa n) r.1
              .done (popHead k { en with flags := en.flags ||| r.2 ||| c.2 } (cmSync k w p pa
                (tagLines w p pa n (storeBank pa n c.1 s)))))

end Sys2Proof.Machine
end

