-- ==== Sys2Proof/Machine/Iq.lean ====
section
/-! DEFINITION. Incremental queues at work (R360, R369..R389): emission, closing, delivery, route queues, arrangements. -/

namespace Sys2Proof.Machine

/-! ## The hayrake (R372) -/

/-- R372, R386: a record's place of 32 bytes in a spill area or a retained copy is written; what stands there for a record is open.
(DESIGN CHOICE: log entry 49.) -/
def writeOpen (pa : Nat) (s : State) : State :=
  let draw := fun (i : Nat) => (Config.freeValue (s.fresh + i)).toNat % 2 ^ 64 * 2 ^ (64 * i)
  writePlain { s with fresh := s.fresh + 4 } pa 32 (draw 0 + draw 1 + draw 2 + draw 3)

/-- R372: a record accepted when the buffer is full goes to the spill area, as far as that lies in the die's common memory. -/
def haySpill (die : Nat) (s : State) : State :=
  let held := hayHeld s die
  let pa := bitsOf (readMem s (windowBase die + 0x800000) 8) 51 12 * 4096 + 32 * (held - 32768 - 1)
  if 32768 < held ∧ devOf pa = devOfDie die ∧ placeOf pa = .common (die % 32) then writeOpen pa s else s

/-- R372: an acceptance waits for space. -/
def hayWait (die : Nat) (s : State) : State :=
  hayStat die { s with hayStalls := tabSet 0 s.hayStalls die (tabGet 0 s.hayStalls die + 1) }

/-- R374, R389: an ECLS 6 record of a queue: its cause and batch. -/
def iqRecord (die : Nat) (q : Iq) (cause : BitVec 8) (batch : BitVec 16) (s : State) : State :=
  writeRecord (.engine 0) q.iss (mkRecord 6 0 cause q.iss 0 die batch.toNat) [] s

/-! ## The frontier (R360, R370) -/

/-- R370: a slot has closed a batch. -/
def hasClosed (q : Iq) (slot : Nat) (b : BitVec 16) : Bool := q.closed.contains (slot, b)

/-- R369, R370: a batch that the frontier has passed, or that the slot has closed. -/
def batchShut (q : Iq) (slot : Nat) (b : BitVec 16) : Bool := decide (32768 ≤ (b - q.front).toNat) || hasClosed q slot b

/-- R369: a batch beyond FRONT + 7. -/
def batchFar (q : Iq) (b : BitVec 16) : Bool := decide (8 ≤ (b - q.front).toNat)

/-- R370: every slot has closed the batch at the frontier. -/
def frontDue (q : Iq) : Bool := (List.range (q.nprod + 1)).all (fun p => hasClosed q p q.front)

/-- R360: the frontier must wait before its next advance. -/
def frontHeld (s : State) (q : Iq) : Bool :=
  let f := q.front + 1
  let oldest := if q.tags.isEmpty then q.nextd else q.qthru + 1
  decide (32768 ≤ (f - oldest).toNat)
    || (match q.gdesc with | some (g, _) => decide (32768 ≤ (f - graphThru s g).toNat) | none => false)

/-- R363: the destination of a tag: handle, producer slot, virtual channel. -/
def tagDest (t : Word) : BitVec 21 × Nat × Nat := (t.setWidth 21, bitsOf t.toNat 28 23, bitsOf t.toNat 22 21)

/-- R386: the pair of a route queue's die and the device of a destination is lost. -/
def destLost (s : State) (die : Nat) (h : BitVec 21) : Bool :=
  h.toNat / 2 ^ 13 != devOfDie die && (pair s die (h.toNat / 2 ^ 13)).lost

/-- R386: a packet of a route queue sets out. -/
def iqSend (key : Nat) (h : BitVec 21) (slot vc : Nat) (b : BitVec 16) (kind : IqKind) (s : State) : State :=
  { s with
    serial := s.serial + 1
    iqPackets := s.iqPackets ++ [{ id := s.serial, die := key / 256, queue := key % 256, handle := h, slot := slot, batch := b,
                                   vc := vc, epoch := (pair s (key / 256) (h.toNat / 2 ^ 13)).epoch, kind := kind, gone := false }] }

/-- R387: the distinct pairs of handle and slot that the tags name, each with the channel of the lowest tag naming it. -/
def tagPairs (q : Iq) : List (BitVec 21 × Nat × Nat) :=
  (q.tags.map tagDest).foldl (fun l d => if l.any (fun e => e.1 == d.1 && e.2.1 == d.2.1) then l else l ++ [d]) []

/-- R387: the records of a batch that a route queue emitted to a pair. -/
def keptFor (q : Iq) (h : BitVec 21) (slot : Nat) (b : BitVec 16) : List IqRec :=
  q.kept.filter (fun r => r.batch == b && (match q.tags[r.slot]? with
    | some t => (tagDest t).1 == h && (tagDest t).2.1 == slot
    | none => false))

/-- R387, R389: a closing marker is due; it is sent unless the queue has lost a link. -/
def sendMarker (key : Nat) (b : BitVec 16) (s : State) (d : BitVec 21 × Nat × Nat) : State :=
  match iqAt s key with
  | none => s
  | some q =>
    let s := setIqRaw key (some { q with marks := q.marks ++ [⟨b, d.1, d.2.1⟩] }) s
    if q.qstate = 3 then s else iqSend key d.1 d.2.1 d.2.2 b (.marker (keptFor q d.1 d.2.1 b).length) s

/-- R381: QTHRU of a route queue: every marker of every batch up to it has been acknowledged. -/
def routeThru (q : Iq) : Nat → BitVec 16 → BitVec 16
  | 0, b => b
  | n + 1, b =>
    if precedes b (q.front - 1) ∧ q.marks.any (fun m => m.batch == b + 1) = false then routeThru q n (b + 1) else b

/-- R381, R383: the queue's QTHRU is brought up to date, and its slot with it. -/
def iqThru (key : Nat) (s : State) : State :=
  match iqAt s key with
  | none => s
  | some q =>
    let v := if q.tags.isEmpty then q.nextd - 1 else routeThru q 32768 q.qthru
    let q' := { q with qthru := v }
    let s := setIq key q' s
    if v = q.qthru then s else slotWrite q' s

/-- R370: the frontier passes every batch that all slots have closed, as far as R360 lets it. -/
def iqAdvance (key : Nat) : Nat → State → State
  | 0, s => iqThru key s
  | n + 1, s =>
    match iqAt s key with
    | none => s
    | some q =>
      if frontDue q = true ∧ frontHeld s q = false then
        let b := q.front
        let s := setIqRaw key (some { q with front := b + 1, closed := q.closed.filter (fun c => c.2 != b) }) s
        iqAdvance key n (if q.tags.isEmpty then s else (tagPairs q).foldl (sendMarker key b) s)
      else iqThru key s

/-- R370: the batches of the window that one close may pass, and one more. -/
def iqFuel : Nat := 9

/-- R360: frontiers that waited for a batch to be done or for their graph go on as soon as they may. -/
def frontRetry (s : State) : State :=
  (declared s).foldl (fun s p => match iqAt s p.1 with
    | some q => if frontDue q && !frontHeld s q then iqAdvance p.1 iqFuel s else s
    | none => s) s

/-! ## Accepting records (R369) -/

/-- R359: fields of a record. -/
def recKey (r : Nat) : Nat := bitsOf r 63 0
/-- R359: VALUE. -/
def recValue (r : Nat) : Nat := bitsOf r 159 64
/-- R359: MULT. -/
def recMult (r : Nat) : Int := (BitVec.ofNat 32 (bitsOf r 191 160)).toInt
/-- R359: BATCH. -/
def recBatch (r : Nat) : BitVec 16 := BitVec.ofNat 16 (bitsOf r 207 192)
/-- R359: TAG. -/
def recTag (r : Nat) : Nat := bitsOf r 215 208

/-- R362, R373: a record as a delivery queue takes it: key and value cut to the bytes kept, tag and flags zero. -/
def maskRec (q : Iq) (r : Nat) : BitVec 256 :=
  BitVec.ofNat 256 (recKey r % 256 ^ q.kbytes + recValue r % 256 ^ q.vbytes * 2 ^ 64 + bitsOf r 207 160 * 2 ^ 160)

/-- R362: DCAP of a live queue, read again. -/
def iqDcap (s : State) (q : Iq) : Nat := readMem s (q.qdr + 24) 3

/-- R362: DBUF of a live queue, read again. -/
def iqDbuf (s : State) (q : Iq) : Word := BitVec.ofNat 64 (bitsOf (readMem s (q.qdr + 16) 8) 56 0)

/-- R364, R374: the physical address of a byte of the home die's common memory in the declaring thread's address space. -/
def queuePhys (s : State) (die : Nat) (q : Iq) (va : Word) : Option Nat :=
  if 2 ^ 57 ≤ va.toNat then none
  else match leafOf s [] die q.iss.asid va.toNat with
    | none => none
    | some p =>
      let pa := physOf p va.toNat
      if !pteMc p && devOf pa == devOfDie die && placeOf pa == .common (die % 32) then some pa else none

/-- R369: a record is given to the hayrake, or kept and sent by a route queue. -/
def iqAccept (key slot r : Nat) (s : State) : State :=
  match iqAt s key with
  | none => s
  | some q =>
    if q.tags.isEmpty then
      hayStat (key / 256) (haySpill (key / 256)
        (setIq key { q with recs := q.recs ++ [⟨slot, recBatch r, maskRec q r, false⟩], pend := q.pend + 1 } s))
    else
      match q.tags[recTag r]? with
      | none => s
      | some t =>
        let d := tagDest t
        let rec' : IqRec := ⟨recTag r, recBatch r, BitVec.ofNat 256 r, false⟩
        let s := match queuePhys s (key / 256) q (iqDbuf s q + BitVec.ofNat 64 (32 * q.kept.length)) with
          | some pa => writeOpen pa s
          | none => s
        let s := setIq key { q with kept := q.kept ++ [rec'], pend := q.pend + 1 } s
        if q.qstate ≠ 3 then iqSend key d.1 d.2.1 d.2.2 (recBatch r) (.record rec') s else s

/-- R369, R372, R386: there is no room for one more record now. -/
def iqNoRoom (s : State) (key : Nat) (q : Iq) : Bool :=
  if q.tags.isEmpty then !hayRoom s (key / 256) else decide (iqDcap s q ≤ q.kept.length)

/-! ## The vector-queue forms (R367..R370, R376) -/

/-- R361, R368: the queue that a handle names. -/
def handleQueue (s : State) (h : Word) : Option (Nat × Iq) :=
  if bitsOf h.toNat 63 21 ≠ 0 then none
  else (iqAt s (keyOfHandle h.toNat)).map (fun q => (keyOfHandle h.toNat, q))

/-- R367: the head entry stops at record `e`: with an address entry, or with none. -/
def iqStop (k : Nat) (en : VEntry) (cause : BitVec 8) (e : Nat) (addr : Option Word) (s : State) : VRes :=
  stopEntry k { en with estart := e, done := 0 } cause e 0 [addr.getD noAddress] s

/-- R354, R367: the head entry stops at record `e` with a link cause. -/
def iqStopLost (k : Nat) (en : VEntry) (cause : BitVec 8) (e : Nat) (s : State) : VRes :=
  stopEntryLost k { en with estart := e, done := 0 } cause s

/-- R352, R361: the queue's device cannot be reached from a die. -/
def queueLost (s : State) (die key : Nat) : Bool :=
  devOfDie (key / 256) != devOfDie die && (pair s die (devOfDie (key / 256))).lost

/-- R370: the scope of a close, take or done: 2 for the device, 4 for the domain. -/
def iqScope (die key : Nat) (q : Iq) : Nat := if q.tags.isEmpty && devOfDie (key / 256) == devOfDie die then 2 else 4

/-- R150, R367: the head entry is stalled at its record. -/
def stallHead (k : Nat) (en : VEntry) (s : State) : VRes := .wait (setHead k { en with stalled := true } s)

/-- R367: the records that the head entry may do before its next boundary of 64 records. -/
def stripLeft (en : VEntry) : Nat := 64 - en.estart % 64

/-- R369: the head entry, `iq.emit`, goes on for at most `n` records. -/
def emitRun (k : Nat) : Nat → VEntry → State → VRes
  | 0, en, s => .more (setHead k en s)
  | n + 1, en, s =>
    let e := en.estart
    if bitsOf en.op1.toNat 23 0 ≤ e then .done (popHead k en s)
    else
      match handleQueue s en.op2 with
      | none => iqStop k en 0x62 e none s
      | some (key, q) =>
        let slot := bitsOf en.op1.toNat 29 24
        let ea := en.op0 + BitVec.ofNat 64 (32 * e)
        match load (whoV s k en) 1 32 ea s with
        | .exc c s => iqStop k en c e (some ea) s
        | .lost c s => iqStopLost k en c e s
        | .wait s => stallHead k en s
        | .ok r s =>
          if bitsOf r 255 216 ≠ 0 ∨ (q.tags.isEmpty = true ∧ recTag r ≠ 0) ∨ (q.tags.isEmpty = false ∧ q.tags.length ≤ recTag r) then
            iqStop k en 0x62 e none s
          else if batchShut q slot (recBatch r) then iqStop k en 0x61 e none s
          else if batchFar q (recBatch r) then stallHead k en s
          else if iqNoRoom s key q then stallHead k en (if q.tags.isEmpty then hayWait (key / 256) s else s)
          else emitRun k n { en with estart := e + 1 } (iqAccept key slot r s)

/-- R369: the head entry, `iq.emit`, goes on to the next boundary of 64 records. -/
def emitStrip (k : Nat) (en : VEntry) (s : State) : VRes :=
  let en := { en with begun := true, stalled := false }
  if en.op0.toNat % 32 ≠ 0 then iqStop k en 0x03 en.estart (some en.op0) s
  else match handleQueue s en.op2 with
    | none => iqStop k en 0x62 en.estart none s
    | some (key, q) =>
      if queueLost s (dieOfThread k) key then iqStop k en 0x70 en.estart none s
      else if q.nprod < bitsOf en.op1.toNat 29 24 then iqStop k en 0x62 en.estart none s
      else emitRun k (stripLeft en) en s

/-- What a release by the vector sequencer comes to. -/
inductive VGate where
  | go (s : State)
  | wait (s : State)
  | lost (addr : Word) (s : State)

/-- R109, R113, R123, R128: a release at a scope, with no clock block, by the vector sequencer of the thread of a slot. -/
def vRelease (k scope : Nat) (s : State) : VGate :=
  let t := thr s k
  if 4 ≤ scope ∧ awaitsAck s (dieOfThread k) none s.serial = true then .wait s
  else match (if 4 ≤ scope then lostAmong s (dieOfThread k) none s.serial k else none) with
    | some a => .lost a s
    | none =>
      if epochFull s t.rdom t.agent then .wait (epochTold (issuerNow s k t.seq.pc) s) else .go (epochStep t.rdom t.agent s)

/-- R389: a route queue sends every record again that it retains from a batch on, in emission order, then the markers of the batches that its
frontier has passed, and is active again. (DEDUCED: log entry 50.) -/
def iqReplay (key : Nat) (b : BitVec 16) (s : State) : State :=
  match iqAt s key with
  | none => s
  | some q =>
    let s := q.kept.foldl (fun s r =>
      match q.tags[r.slot]? with
      | some t =>
        if precedesEq b r.batch then
          let d := tagDest t
          iqSend key d.1 d.2.1 d.2.2 r.batch (.record r) s
        else s
      | none => s) s
    let s := q.marks.foldl (fun s m =>
      if precedesEq b m.batch then
        let vc := match (tagPairs q).find? (fun d => d.1 == m.handle && d.2.1 == m.slot) with | some d => d.2.2 | none => 0
        iqSend key m.handle m.slot vc m.batch (.marker (keptFor q m.handle m.slot m.batch).length) s
      else s) s
    setIq key { q with qstate := 1 } s

/-- R370: the head entry, `iq.close`. -/
def closeRun (k : Nat) (en : VEntry) (s : State) : VRes :=
  let b := BitVec.ofNat 16 (bitsOf en.op1.toNat 15 0)
  let slot := bitsOf en.op1.toNat 21 16
  match handleQueue s en.op0 with
  | none => iqStop k en 0x62 0 none s
  | some (key, q) =>
    if queueLost s (dieOfThread k) key then iqStop k en 0x70 0 none s
    else if en.begun then
      -- the batch is marked closed, and the frontier had to wait (R360)
      (match iqAt (iqAdvance key iqFuel s) key with
        | none => .done (popHead k en s)
        | some q' => if frontDue q' then .wait (iqAdvance key iqFuel s) else .done (popHead k en (iqAdvance key iqFuel s)))
    else match (if en.released then .go s else vRelease k (iqScope (dieOfThread k) key q) s) with
      | .wait s => .wait s
      | .lost a s => .fault (vectorTrap k 0x71 a 7 s)
      | .go s =>
        if en.op1.toNat.testBit 32 then
          if q.qstate ≠ 3 then iqStop k en 0x62 0 none s
          else if (q.tags.map tagDest).any (fun d => destLost s (key / 256) d.1) then iqStop k en 0x70 0 none s
          else .done (popHead k en (iqReplay key b s))
        else if q.nprod < slot then iqStop k en 0x62 0 none s
        else if batchShut q slot b then iqStop k en 0x61 0 none s
        else if batchFar q b then .wait (setHead k { en with released := true } s)
        else
          let s := iqAdvance key iqFuel (setIqRaw key (some { q with closed := q.closed ++ [(slot, b)] }) s)
          match iqAt s key with
          | some q' =>
            if frontDue q' then .wait (setHead k { en with begun := true } s) else .done (popHead k en s)
          | none => .done (popHead k en s)

/-- R376: this binding of a slot holds the batch of a queue. -/
def holdsBatch (s : State) (k : Nat) (q : Iq) : Bool := q.held && q.holder == some (k, (thr s k).bind)

/-- R376: the head entry, `iq.done`. -/
def doneRun (k : Nat) (en : VEntry) (s : State) : VRes :=
  match handleQueue s en.op0 with
  | none => iqStop k en 0x62 0 none s
  | some (key, q) =>
    if queueLost s (dieOfThread k) key then iqStop k en 0x70 0 none s
    else if !holdsBatch s k q then iqStop k en 0x67 0 none s
    else match vRelease k (iqScope (dieOfThread k) key q) s with
      | .wait s => .wait s
      | .lost a s => .fault (vectorTrap k 0x71 a 7 s)
      | .go s =>
        .done (popHead k en (iqAdvance key iqFuel (setIqRaw key (some { q with
          held := false, holder := none, doneSent := false, nextd := q.nextd + 1, pend := q.pend - q.n, n := 0 }) s)))

/-- R376: a slot is freed: the batch it held is offered again. -/
def iqFreeHolder (k b : Nat) (s : State) : State :=
  (declared s).foldl (fun s p =>
    if p.2.held = true ∧ p.2.holder = some (k, b) then
      setIq p.1 { p.2 with held := false, avail := true, holder := none, doneSent := false } s
    else s) s

/-! ## Arrangements (R377..R380) -/

/-- R377: the home bucket of a key. -/
def homeBucket (logb key : Nat) : Nat :=
  if logb = 0 then 0 else key * 0x9E3779B97F4A7C15 % 2 ^ 64 / 2 ^ (64 - logb)

/-- R378: an address in the issuing die's common memory. -/
def arrHome (w : Who) (p : Word) (pa : Nat) : Bool :=
  !pteMc p && devOf pa == devOfDie w.die && placeOf pa == .common (w.die % 32)

/-- R253, R378: the page and the physical address of `n` bytes in the issuing die's common memory, for a V access that acts as an atomic. -/
def arrPhys (w : Who) (wr : Bool) (va : Word) (n : Nat) (s : State) : Res (Word × Nat) :=
  (resolve s w true wr 1 va).next (fun q s =>
    if !arrHome w q.1 q.2 then .exc 0x13 s
    else if racing s (mergedWho s w (syncFor s w q.1 q.2)) q.1 q.2 n then .exc 0x20 s
    else if poisoned s q.2 n then .exc 0x30 s
    else .ok q s)

/-- The first bytes of the pages of 4096 bytes that a range touches, and its last byte. -/
def rangePages (va : Word) (n : Nat) : List Word :=
  (List.range (n / 4096 + 1)).map (fun i => va + BitVec.ofNat 64 (4096 * i)) ++ [va + BitVec.ofNat 64 (n - 1)]

/-- R378: the first fault of a range that must lie in the issuing die's common memory. -/
def rangeFault (s : State) (w : Who) (wr : Bool) (va : Word) (n : Nat) : Option (BitVec 8 × Word) :=
  (rangePages va n).findSome? (fun a => if va.toNat + n ≤ a.toNat then none else match translate s w true wr 1 a.toNat with
    | .error c => some (c, a)
    | .ok (p, pa) => if arrHome w p pa then none else some (0x13, a))

/-- An access that did not succeed, with the address that its record names. -/
abbrev ArrStop := Word × Res Unit

/-- What an access comes to, with the address it concerns when it does not succeed. -/
def arrStop {α : Type} (va : Word) (r : Res α) : Except ArrStop (α × State) :=
  match r with
  | .ok v s => .ok (v, s)
  | .exc c s => .error (va, .exc c s)
  | .lost c s => .error (va, .lost c s)
  | .wait s => .error (va, .wait s)

/-- R367: the head entry goes no further at record `e`, because an access did not succeed. -/
def iqUndone (k : Nat) (en : VEntry) (e : Nat) (x : ArrStop) (s : State) : VRes :=
  match x.2 with
  | .exc c s => iqStop k en c e (if c = 0x62 then none else some x.1) s
  | .lost c s => iqStopLost k en c e s
  | .wait s => stallHead k en s
  | .ok _ _ => stallHead k en s

/-- R377: the scan of a key: the entries with their page, their physical address and their number, the last one either unused
or the last of the array. -/
def scanFrom (w : Who) (wr : Bool) (base : Word) (n : Nat) : Nat → Nat → State → Except ArrStop (List (Word × Nat × Nat) × State)
  | 0, _, s => .ok ([], s)
  | f + 1, i, s =>
    let va := base + BitVec.ofNat 64 (32 * (i % n))
    match arrStop va (arrPhys w wr va 32 s) with
    | .error x => .error x
    | .ok ((p, pa), s) =>
      let r := readMem s pa 32
      if r.testBit 192 then
        (match scanFrom w wr base n f (i + 1) s with
          | .ok (l, s) => .ok ((p, pa, r) :: l, s)
          | .error x => .error x)
      else .ok ([(p, pa, r)], s)

/-- R378: an arrangement: its base and LOGB, once its checks pass. -/
def arrOf (w : Who) (wr : Bool) (a : Word) (s : State) : Except ArrStop ((Word × Nat) × State) :=
  if a.toNat % 64 ≠ 0 then .error (a, .exc 0x03 s)
  else match arrStop a (arrPhys w wr a 64 s) with
    | .error x => .error x
    | .ok ((_, pa), s) =>
      let d := readMem s pa 64
      let base := BitVec.ofNat 64 (bitsOf d 56 0)
      let logb := bitsOf d 68 64
      if base.toNat % 64 ≠ 0 then .error (base, .exc 0x03 s)
      else match rangeFault s w wr base (64 * 2 ^ min logb 16) with
        | some (c, x) => .error (x, .exc c s)
        | none =>
          if bitsOf d 63 57 ≠ 0 ∨ bitsOf d 95 69 ≠ 0 ∨ bitsOf d 511 128 ≠ 0 ∨ 16 < logb then .error (a, .exc 0x62 s)
          else .ok ((base, logb), s)

/-- R378: the arrangement of the head entry: checked once, before any record, and kept. (DEDUCED: log entry 50.) -/
def arrKept (w : Who) (wr : Bool) (a : Word) (en : VEntry) (s : State) : Except ArrStop ((Word × Nat) × State) :=
  match en.arr with
  | some v => .ok (v, s)
  | none => arrOf w wr a s

/-- R123, R378: the acquires and the one release of a step at the banks, as an atomic at device scope, over the lines it touched. -/
def arrSync (k : Nat) (w : Who) (l : List (Word × Nat)) (s : State) : State :=
  let bs := l.filterMap (fun q => syncFor s w q.1 q.2)
  if bs.isEmpty then s
  else
    let t := thr s k
    let c := bs.foldl (fun c b => mergeBlock s t.agent c b) (clockOf s t.rdom t.agent)
    epochStep t.rdom t.agent (bs.foldl (fun s b => joinBlock t.rdom c b s) (setClock s t.rdom t.agent c))

/-- R128: the step would carry the epoch of its agent past 0xFFFF: it waits. -/
def arrWaits (k : Nat) (w : Who) (l : List (Word × Nat)) (s : State) : Bool := l.any (fun q => cmEpochWaits k w q.1 q.2 s)

/-- Part of an access is not done yet: the requests it made stay, and nothing else. -/
def holdOver (s s' : State) : State := { s with cows := s'.cows, hostReqs := s'.hostReqs, misses := s'.misses }

/-- R377: an entry of an arrangement. -/
def entryOf (key value : Nat) (mult : Int) : Nat := key + value * 2 ^ 64 + wrapInt 32 mult * 2 ^ 160 + 2 ^ 192

/-- R379: the head entry, `iq.apply`, goes on for at most `n` records. -/
def applyRun (k : Nat) (base : Word) (logb : Nat) : Nat → VEntry → State → VRes
  | 0, en, s => .more (setHead k en s)
  | n + 1, en, s =>
    let e := en.estart
    if en.done.getLsbD 0 then applyRun k base logb n { en with estart := e + 1, done := 0 } s
    else if bitsOf en.op1.toNat 23 0 ≤ e then .done (popHead k en s)
    else
      let w := whoV s k en
      let ea := en.op0 + BitVec.ofNat 64 (32 * e)
      let oa := en.op3 + BitVec.ofNat 64 (4 * e)
      match load w 1 32 ea s with
      | .exc c s => iqStop k en c e (some ea) s
      | .lost c s => iqStopLost k en c e s
      | .wait s => stallHead k en s
      | .ok r s =>
        match scanFrom w true base (2 * 2 ^ logb) (2 * 2 ^ logb) (2 * homeBucket logb (recKey r)) s with
        | .error x => iqUndone k en e x s
        | .ok (l, s) =>
          let touched := l.map (fun x => (x.1, x.2.1))
          let hit := l.find? (fun x => x.2.2.testBit 192 && recKey x.2.2 == recKey r && recValue x.2.2 == recValue r)
          match (match hit with | some x => some (x, false) | none => match l.getLast? with
              | some x => if x.2.2.testBit 192 then none else some (x, true)
              | none => none) with
          | none => iqStop k en 0x64 e none s
          | some ((p, pa, v), fresh) =>
            let old := if fresh then 0 else recMult v
            let sum := old + recMult r
            let new := max (-2147483648) (min 2147483647 sum)
            let sat := new != sum || r.testBit 217
            let used := en.op2 + 12
            if arrWaits k w touched s then stallHead k en (epochTold w.iss s)
            else match arrStop used (if fresh then arrPhys w true used 4 s else Res.ok (0, 0) s) with
            | .error x => iqUndone k en e x s
            | .ok ((dp, da), s) =>
            match (if en.op3 = 0 then Res.ok () s else store w 4 4 oa (wrapInt 32 old) s) with
            | .exc c s' => iqStop k en c e (some oa) (holdOver s s')
            | .lost c s' => iqStopLost k en c e (holdOver s s')
            | .wait s' => stallHead k en (holdOver s s')
            | .ok _ s =>
              let s := if fresh then tagLines w dp da 4 (storeBank da 4 (readMem s da 4 + 1) s) else s
              let s := arrSync k w touched (tagLines w p pa 32 (storeBank pa 32 (entryOf (recKey r) (recValue r) new) s))
              if sat then
                stopEntryAtc 1 k { en with done := 1 } 0x60 e 1 [noAddress] (orAflags k fSAT s)
              else applyRun k base logb n { en with estart := e + 1 } s

/-- R379: the head entry, `iq.apply`, goes on to the next boundary of 64 records. -/
def applyStrip (k : Nat) (en : VEntry) (s : State) : VRes :=
  let w := whoV s k en
  let en := { en with stalled := false }
  if en.op0.toNat % 32 ≠ 0 then iqStop k en 0x03 0 (some en.op0) s
  else match arrKept w true en.op2 en s with
    | .error x => iqUndone k en en.estart x s
    | .ok ((base, logb), s) =>
      if en.op3.toNat % 4 ≠ 0 then iqStop k en 0x03 en.estart (some en.op3) s
      else applyRun k base logb (stripLeft en) { en with begun := true, arr := some (base, logb) } s

/-- R380: the products of a record with the entries of a scan: index and bytes. -/
def products (swap : Bool) (r : Nat) (l : List Nat) : List (Nat × Nat) :=
  (List.range l.length).zip (l.map (fun x =>
    let left := (if swap then recValue x else recValue r) % 2 ^ 48
    let right := (if swap then recValue r else recValue x) % 2 ^ 48
    recKey r + left * 2 ^ 64 + right * 2 ^ 112 + wrapInt 32 (recMult r * recMult x) * 2 ^ 160 + bitsOf r 215 192 * 2 ^ 192))

/-- R380: writes of products from an index of the output area, then its COUNT. -/
def writeProducts (w : Who) (out : Word) (c : Nat) : List (Nat × Nat) → State → Except (BitVec 8 × Word) (Res Unit)
  | [], s => .ok (.ok () s)
  | (i, v) :: l, s =>
    let a := out + BitVec.ofNat 64 (32 + 32 * (c + i))
    match store w 32 32 a v s with
    | .exc e _ => .error (e, a)
    | .lost e s => .ok (.lost e s)
    | .wait s => .ok (.wait s)
    | .ok _ s => writeProducts w out c l s

/-- R380: the head entry, `iq.probe`, goes on for at most `n` records. -/
def probeRun (k : Nat) (base : Word) (logb : Nat) : Nat → VEntry → State → VRes
  | 0, en, s => .more (setHead k en s)
  | n + 1, en, s =>
    let e := en.estart
    if bitsOf en.op1.toNat 23 0 ≤ e then .done (popHead k en s)
    else
      let w := whoV s k en
      let ea := en.op0 + BitVec.ofNat 64 (32 * e)
      match load w 1 32 ea s with
      | .exc c s => iqStop k en c e (some ea) s
      | .lost c s => iqStopLost k en c e s
      | .wait s => stallHead k en s
      | .ok r s =>
        if recMult r = 0 then probeRun k base logb n { en with estart := e + 1 } s
        else match scanFrom w false base (2 * 2 ^ logb) (2 * 2 ^ logb) (2 * homeBucket logb (recKey r)) s with
          | .error x => iqUndone k en e x s
          | .ok (l, s) =>
            let touched := l.map (fun x => (x.1, x.2.1))
            if arrWaits k w touched s then stallHead k en (epochTold w.iss s) else
            let ps := (l.filter (fun x => x.2.2.testBit 192 && recKey x.2.2 == recKey r && recMult x.2.2 != 0)).map (fun x => x.2.2)
            let s := arrSync k w touched s
            if ps.any (fun x => recMult r * recMult x < -2147483648 || 2147483647 < recMult r * recMult x) then iqStop k en 0x60 e none s
            else match load w 32 16 en.op3 s with
              | .exc c s => iqStop k en c e (some en.op3) s
              | .lost c s => iqStopLost k en c e s
              | .wait s => stallHead k en s
              | .ok h s =>
                let c := bitsOf h 23 0
                if bitsOf h 87 64 < c + ps.length then iqStop k en 0x65 e none s
                else match writeProducts w en.op3 c (products (en.op1.toNat.testBit 24) r ps) s with
                  | .error (x, a) => iqStop k en x e (some a) s
                  | .ok (.ok _ s1) =>
                    (match (if ps.isEmpty then Res.ok () s1 else store w 32 8 en.op3 (c + ps.length) s1) with
                      | .ok _ s => probeRun k base logb n { en with estart := e + 1 } s
                      | .wait s' => stallHead k en (holdOver s s')
                      | .exc x s' => iqStop k en x e (some en.op3) (holdOver s s')
                      | .lost x s' => iqStopLost k en x e (holdOver s s'))
                  | .ok (.wait s') => stallHead k en (holdOver s s')
                  | .ok (.exc x s') => iqStop k en x e (some en.op3) (holdOver s s')
                  | .ok (.lost x s') => iqStopLost k en x e (holdOver s s')

/-- R380: the head entry, `iq.probe`, goes on to the next boundary of 64 records; at its start the output area is checked, and under FRESH its
COUNT is cleared. -/
def probeStrip (k : Nat) (en : VEntry) (s : State) : VRes :=
  let w := whoV s k en
  let en := { en with stalled := false }
  if en.op0.toNat % 32 ≠ 0 then iqStop k en 0x03 0 (some en.op0) s
  else match arrKept w false en.op2 en s with
    | .error x => iqUndone k en en.estart x s
    | .ok ((base, logb), s) =>
      let en := { en with arr := some (base, logb) }
      if en.op3.toNat % 32 ≠ 0 then iqStop k en 0x03 en.estart (some en.op3) s
      else if en.begun then probeRun k base logb (stripLeft en) en s
      else match load w 32 32 en.op3 s with
        | .exc c s => iqStop k en c en.estart (some en.op3) s
        | .lost c s => iqStopLost k en c en.estart s
        | .wait s => .wait s
        | .ok h s =>
          if bitsOf h 63 24 ≠ 0 ∨ bitsOf h 255 88 ≠ 0 then iqStop k en 0x62 en.estart none s
          else match (if en.op1.toNat.testBit 25 ∧ en.estart = 0 then store w 32 8 en.op3 0 s else Res.ok () s) with
            | .ok _ s => probeRun k base logb (stripLeft en) { en with begun := true } s
            | .wait s => .wait s
            | .exc c s => iqStop k en c en.estart (some en.op3) s
            | .lost c s => iqStopLost k en c en.estart s

/-- R366: the vector-queue forms of the queue instructions. -/
def iqStrip (k : Nat) (en : VEntry) (s : State) : Option VRes :=
  match en.instr with
  | .iqEmit .. => some (emitStrip k en s)
  | .iqClose .. => some (closeRun k en s)
  | .iqDone .. => some (doneRun k en s)
  | .iqApply .. => some (applyStrip k en s)
  | .iqProbe .. => some (probeStrip k en s)
  | _ => none

/-! ## Delivery (R373, R374) -/

/-- R373: a delivered record before it is written: its key, value, sum, and whether it is poisoned. -/
structure DelRec where
  key : Nat
  value : Nat
  sum : Int
  psn : Bool

/-- R373: one record joins the consolidated list, kept in ascending order of key and value; a poisoned one does not merge. -/
def mergeRec (r : DelRec) : List DelRec → List DelRec
  | [] => [r]
  | a :: l =>
    if r.key < a.key ∨ (r.key = a.key ∧ r.value < a.value) then r :: a :: l
    else if r.key = a.key ∧ r.value = a.value ∧ r.psn = false ∧ a.psn = false then { a with sum := a.sum + r.sum } :: l
    else a :: mergeRec r l

/-- R373: the records that a batch delivers, each with SAT. -/
def deliveredOf (q : Iq) (b : BitVec 16) : List (DelRec × Bool) :=
  let rs := q.recs.filter (fun r => r.batch == b)
  let plain := fun (r : IqRec) => (⟨recKey r.data.toNat, recValue r.data.toNat, recMult r.data.toNat, r.psn⟩ : DelRec)
  if q.cons then
    (((rs.map plain).foldl (fun l r => mergeRec r l) []).filter (fun r => r.psn || r.sum != 0)).map (fun r =>
      let c := max (-2147483648) (min 2147483647 r.sum)
      ({ r with sum := c }, c != r.sum))
  else ((List.range 64).map (fun p => (rs.filter (fun r => r.slot == p)).map (fun r => (plain r, false)))).flatten

/-- R364, R374: a buffer is 32-byte aligned and lies whole in the home die's common memory. -/
def bufferOk (s : State) (die : Nat) (q : Iq) (a : Word) (n : Nat) : Bool :=
  a.toNat % 32 == 0 && (n == 0 || (rangePages (a - BitVec.ofNat 64 (a.toNat % 4096)) (n + a.toNat % 4096)).all (fun x =>
    decide (a.toNat + n ≤ x.toNat) || (queuePhys s die q x).isSome))

/-- R373: a delivered record as it is written. -/
def delBytes (b : BitVec 16) (r : DelRec × Bool) : Nat :=
  r.1.key + r.1.value * 2 ^ 64 + wrapInt 32 r.1.sum * 2 ^ 160 + b.toNat * 2 ^ 192 + r.2.toNat * 2 ^ 217

/-- R374: write the records of a batch. -/
def deliverWrite (die : Nat) (q : Iq) (b : BitVec 16) (a : Word) : List (DelRec × Bool) → State → State
  | [], s => s
  | r :: l, s =>
    let s := match queuePhys s die q a with
      | some pa =>
        let s := clearTags (storeBank pa 32 (delBytes b r) s) pa 32
        if r.1.psn then poisonAt s pa else s
      | none => s
    deliverWrite die q b (a + 32) l s

/-- R374: the next batch of a queue may be delivered now. -/
def deliverable (q : Iq) : Bool :=
  q.tags.isEmpty && q.qstate == 1 && !q.retry && precedes q.nextd q.front && !q.avail && !q.held

/-- R374: BATCH_DELIVERY: the hayrake delivers or refuses the next batch of a queue. -/
def execBatchDelivery (die queue : Nat) (s : State) : Out :=
  let key := die * 256 + queue % 256
  match iqAt s key with
  | none => .fault .noSuchUnit
  | some q =>
    if !deliverable q then .next s
    else
      let b := q.nextd
      let rs := deliveredOf q b
      let n := rs.length
      let dcap := iqDcap s q
      let refuse := fun (c : BitVec 8) => Host.Outcome.next (iqRecord die q c b (setIq key { q with qstate := 2, need := n } s))
      if !bufferOk s die q (iqDbuf s q) (32 * dcap) then refuse 0x62
      else if dcap < n then refuse 0x63
      else
        let got := (q.recs.filter (fun r => r.batch == b)).length
        let s := deliverWrite die q b (iqDbuf s q) rs s
        .next (hayStat die (setIq key { q with
          avail := true, n := n, pend := q.pend - (got - n), recs := q.recs.filter (fun r => r.batch != b)
          satcnt := min (q.satcnt + (rs.filter (fun r => r.2)).length) (2 ^ 32 - 1) } s))

/-- R374: DCAP_RETRY: a store to the DCAP word of a queue whose delivery was refused. -/
def execDcapRetry (die queue : Nat) (s : State) : Out :=
  let key := die * 256 + queue % 256
  match iqAt s key with
  | none => .fault .noSuchUnit
  | some q => if q.qstate = 2 then .next (setIq key { q with qstate := 1, retry := true } s) else .next s

/-- R374: a swath begins: deliveries set to be tried again may be. -/
def iqSwath (s : State) : State :=
  (declared s).foldl (fun s p => if p.2.retry then setIqRaw p.1 (some { p.2 with retry := false }) s else s) s

/-! ## Packets of route queues (R386..R389) -/

/-- The packets without one. -/
def dropIqPacket (id : Nat) (s : State) : State := { s with iqPackets := s.iqPackets.filter (fun p => p.id != id) }

/-- R386: an earlier packet of the same channel between the same devices has not arrived. -/
def channelHeld (s : State) (p : IqPacket) : Bool :=
  let dest := p.handle.toNat / 2 ^ 13
  s.iqPackets.any (fun q => decide (q.id < p.id) && !q.gone && devOfDie q.die == devOfDie p.die && q.handle.toNat / 2 ^ 13 == dest
    && (if dest = devOfDie p.die then q.die == p.die && q.handle.toNat / 2 ^ 8 == p.handle.toNat / 2 ^ 8 else q.vc == p.vc)
    && (match q.kind with | .ack => false | _ => true))

/-- R386: the set of a packet: handle, producer slot and batch. -/
def setOf (p : IqPacket) : BitVec 21 × Nat × BitVec 16 := (p.handle, p.slot, p.batch)

/-- R386: a packet of a set that its destination has refused. -/
def setRefused (s : State) (p : IqPacket) : Bool :=
  match iqAt s (p.die * 256 + p.queue) with
  | some r => r.refused.contains (setOf p)
  | none => false

/-- R386: the destination refuses a set, once: what is on its way of it is gone, and the route queue tells of it. -/
def refuseSet (p : IqPacket) (s : State) : State :=
  let s := { s with iqPackets := s.iqPackets.filter (fun q => !(q.die == p.die && q.queue == p.queue && setOf q == setOf p)) }
  match iqAt s (p.die * 256 + p.queue) with
  | some r =>
    if r.refused.contains (setOf p) then s
    else iqRecord p.die r 0x62 p.batch (setIqRaw (p.die * 256 + p.queue) (some { r with refused := setOf p :: r.refused }) s)
  | none => s

/-- R386: a packet reaches its destination: the queue that takes it, or why it goes no further. -/
def arrival (p : IqPacket) (s : State) : Except Out (Nat × Iq × State) :=
  if p.gone || channelHeld s p then .error (.next s)
  else if (pair s p.die (p.handle.toNat / 2 ^ 13)).epoch ≠ p.epoch then .error (.next (dropIqPacket p.id s))
  else
    let s := dropStale p.die (p.handle.toNat / 2 ^ 13) s
    if setRefused s p then .error (.next (dropIqPacket p.id s))
    else match iqAt s (keyOfHandle p.handle.toNat) with
    | none => .error (.next (refuseSet p s))
    | some q => if !q.tags.isEmpty || decide (q.nprod < p.slot) then .error (.next (refuseSet p s))
      else .ok (keyOfHandle p.handle.toNat, q, s)

/-- R387: the staging set of a packet, as it stands. -/
def stageOf' (q : Iq) (p : IqPacket) : IqStage :=
  match q.stages.find? (fun g => g.slot == p.slot && g.batch == p.batch) with
  | some g => g
  | none => ⟨p.slot, p.batch, p.die, p.queue, p.epoch, [], none⟩

/-- The queue with a staging set put in place of the one of its slot and batch. -/
def putStage (q : Iq) (g : IqStage) : Iq :=
  { q with stages := q.stages.filter (fun h => !(h.slot == g.slot && h.batch == g.batch)) ++ [g] }

/-- R387: a complete staging set merges into its batch: the slot has closed it, and the marker is acknowledged. -/
def mergeStage (key : Nat) (q : Iq) (g : IqStage) (s : State) : State :=
  let q := { q with
    stages := q.stages.filter (fun h => !(h.slot == g.slot && h.batch == g.batch))
    recs := q.recs ++ g.recs, pend := q.pend + g.recs.length, closed := q.closed ++ [(g.slot, g.batch)] }
  let s := iqAdvance key iqFuel (setIqRaw key (some q) s)
  iqSend (g.die * 256 + g.queue) (BitVec.ofNat 21 (handleOf key)) g.slot 0 g.batch .ack s

/-- R387: the set is complete, or stays as it is. -/
def settleStage (key : Nat) (q : Iq) (g : IqStage) (s : State) : State :=
  if g.need = some g.recs.length then mergeStage key q g s else setIq key (putStage q g) s

/-- A packet in flight. -/
def iqPacketAt (s : State) (id : Nat) : Option IqPacket := s.iqPackets.find? (fun p => p.id == id)

/-- R386: QUEUE_RECORD: a destination receives a record of a route queue. -/
def execQueueRecord (id : Nat) (s : State) : Out :=
  match iqPacketAt s id with
  | none => .fault .noSuchUnit
  | some p =>
    match p.kind with
    | .record r =>
      (match arrival p s with
        | .error o => o
        | .ok (key, q, s) =>
          if batchShut q p.slot p.batch then .next (dropIqPacket id s)
          else if !hayRoom s (key / 256) then .next (hayWait (key / 256) s)
          else
            let g := stageOf' q p
            let g := { g with recs := g.recs ++ [⟨p.slot, p.batch, maskRec q r.data.toNat, r.psn⟩] }
            .next (hayStat (key / 256) (haySpill (key / 256) (settleStage key q g (dropIqPacket id s)))))
    | _ => .fault .noSuchUnit

/-- R387: CLOSING_MARKER: a destination receives a closing marker. -/
def execClosingMarker (id : Nat) (s : State) : Out :=
  match iqPacketAt s id with
  | none => .fault .noSuchUnit
  | some p =>
    match p.kind with
    | .marker n =>
      (match arrival p s with
        | .error o => o
        | .ok (key, q, s) =>
          if batchShut q p.slot p.batch then
            .next (iqSend (p.die * 256 + p.queue) p.handle p.slot 0 p.batch .ack (dropIqPacket id s))
          else if batchFar q p.batch then .next s
          else .next (settleStage key q { stageOf' q p with need := some n } (dropIqPacket id s)))
    | _ => .fault .noSuchUnit

/-- R381, R386: MARKER_ACKNOWLEDGEMENT: a route queue receives the acknowledgement of a marker. -/
def execMarkerAcknowledgement (id : Nat) (s : State) : Out :=
  match iqPacketAt s id with
  | none => .fault .noSuchUnit
  | some p =>
    match p.kind with
    | .ack =>
      if p.gone then .next s else
      let s := dropIqPacket id s
      let key := p.die * 256 + p.queue
      (match iqAt s key with
        | none => .next s
        | some q =>
          let gone := keptFor q p.handle p.slot p.batch
          .next (iqAdvance key iqFuel (setIqRaw key (some { q with
            marks := q.marks.filter (fun m => !(m.batch == p.batch && m.handle == p.handle && m.slot == p.slot))
            kept := q.kept.filter (fun r => !gone.contains r), pend := q.pend - gone.length }) s)))
    | _ => .fault .noSuchUnit

/-- R389: the pair of a die and a device is lost: its route queues to that device stop, and their packets are gone. -/
def iqLoss (die dest : Nat) (s : State) : State :=
  let toDest := fun (h : BitVec 21) => h.toNat / 2 ^ 13 == dest
  let s := { s with iqPackets := s.iqPackets.filter (fun p => !(p.die == die && toDest p.handle)) }
  (declared s).foldl (fun s p =>
    let q := p.2
    if p.1 / 256 = die ∧ (q.tags.map tagDest).any (fun d => toDest d.1) = true then
      let bs := (q.kept.filter (fun r => match q.tags[r.slot]? with | some t => toDest (tagDest t).1 | none => false)).map (fun r => r.batch)
        ++ (q.marks.filter (fun m => toDest m.handle)).map (fun m => m.batch)
      let b := bs.foldl (fun (m : BitVec 16) x => if (x - q.qthru).toNat < (m - q.qthru).toNat then x else m) (bs.headD q.front)
      iqRecord die q 0x66 b (setIq p.1 { q with qstate := 3 } s)
    else s) s

end Sys2Proof.Machine
end

