-- ==== Sys2Proof/Machine/VRun.lean ====
section
/-! DEFINITION. The vector sequencer (R135, R142, R206, R209, R210, R221, R222): one strip of the head entry of a thread's
queue, and the dispatch of a vector instruction. -/

namespace Sys2Proof.Machine

/-! ## Element-wise instructions -/

/-- Where an element-wise instruction writes: a register with elements of some bits, or a mask register. -/
inductive VTarget where
  | reg (r bits : Nat)
  | mask (k : Fin 8)
  deriving DecidableEq, Repr

/-- The operands of an element-wise instruction: its governing mask, the sources it reads at each element, whether it reads
its old destination, its target, and whether it steps a generator under SR (R227). -/
structure VShape where
  m : Fin 8
  a : Option (Fin 56)
  b : Option (Fin 56)
  old : Bool
  dst : VTarget
  steps : Bool
  deriving DecidableEq, Repr

/-- An element-wise instruction of three or two operands. -/
def shape3 (vt : Word) (steps old : Bool) (d : Fin 48) (a b : Fin 56) (m : Fin 8) : Option VShape :=
  some ⟨m, some a, some b, old, .reg d.val (vtBits vt), steps && vtClass vt == .f⟩
/-- An element-wise instruction of one source. -/
def shape2 (vt : Word) (steps : Bool) (d : Fin 48) (a : Fin 56) (m : Fin 8) : Option VShape :=
  some ⟨m, some a, none, false, .reg d.val (vtBits vt), steps && vtClass vt == .f⟩

/-- The shape of each element-wise instruction. -/
def vShape (i : Instr) (vt : Word) : Option VShape :=
  match i with
  | .vbcast d _ => some ⟨0, none, none, false, .reg d.val (vtBits vt), false⟩
  | .vindex d => some ⟨0, none, none, false, .reg d.val (vtBits vt), false⟩
  | .vaddFloat d a b m => shape3 vt true false d a b m
  | .vsubFloat d a b m => shape3 vt true false d a b m
  | .vmulFloat d a b m => shape3 vt true false d a b m
  | .vdiv d a b m => shape3 vt true false d a b m
  | .vfma d a b m => shape3 vt true true d a b m
  | .vfms d a b m => shape3 vt true true d a b m
  | .vfnma d a b m => shape3 vt true true d a b m
  | .vminFloat d a b m => shape3 vt false false d a b m
  | .vmaxFloat d a b m => shape3 vt false false d a b m
  | .vabsFloat d a m => shape2 vt false d a m
  | .vnegFloat d a m => shape2 vt false d a m
  | .vsqrt d a m => shape2 vt true d a m
  | .vexp2 d a m => shape2 vt false d a m
  | .vaddInt d a b m => shape3 vt false false d a b m
  | .vsubInt d a b m => shape3 vt false false d a b m
  | .vmulInt d a b m => shape3 vt false false d a b m
  | .vmulhi d a b m => shape3 vt false false d a b m
  | .vminInt d a b m => shape3 vt false false d a b m
  | .vmaxInt d a b m => shape3 vt false false d a b m
  | .vaddsat d a b m => shape3 vt false false d a b m
  | .vsubsat d a b m => shape3 vt false false d a b m
  | .vabsInt d a m => shape2 vt false d a m
  | .vnegInt d a m => shape2 vt false d a m
  | .vmad d a b m => shape3 vt false true d a b m
  | .vand d a b m => shape3 vt false false d a b m
  | .vor d a b m => shape3 vt false false d a b m
  | .vxor d a b m => shape3 vt false false d a b m
  | .vandn d a b m => shape3 vt false false d a b m
  | .vnot d a m => shape2 vt false d a m
  | .vsll d a b m => shape3 vt false false d a b m
  | .vsrl d a b m => shape3 vt false false d a b m
  | .vsra d a b m => shape3 vt false false d a b m
  | .vcmpEq k a b m => some ⟨m, some a, some b, false, .mask k, false⟩
  | .vcmpNe k a b m => some ⟨m, some a, some b, false, .mask k, false⟩
  | .vcmpLt k a b m => some ⟨m, some a, some b, false, .mask k, false⟩
  | .vcmpLe k a b m => some ⟨m, some a, some b, false, .mask k, false⟩
  | .vsel d a b _ => some ⟨0, some a, some b, false, .reg d.val (vtBits vt), false⟩
  | .vcvt d a m target => some ⟨m, some a, none, false, .reg d.val (fmtBits target.val), target.val != 8⟩
  | _ => none

/-- R219, R223..R234: what an element-wise instruction computes from its element's number, its sources and its old
destination; `op` is its scalar operand, `sr` the stepped generator, `c` the block byte of a pair source. -/
def vElem (i : Instr) (vt op : Word) (sr e a b old c : Nat) : EOut :=
  let f := vtFmt vt
  let rm := vtRm vt
  let lns := vtClass vt == .l
  match i with
  | .vbcast .. => plainOut (op.toNat % 2 ^ vtBits vt)
  | .vindex .. => plainOut (e % 2 ^ vtBits vt)
  | .vaddFloat .. => elAdd f rm sr a b
  | .vsubFloat .. => elSub f rm sr a b
  | .vmulFloat .. => if lns then elLnsMul a b else elMul f rm sr a b
  | .vdiv .. => elDiv f rm sr a b
  | .vfma .. => elFma f rm sr a b old
  | .vfms .. => elFms f rm sr a b old
  | .vfnma .. => elFnma f rm sr a b old
  | .vminFloat .. => if lns then elLnsMinMax false a b else elMinMax f false a b
  | .vmaxFloat .. => if lns then elLnsMinMax true a b else elMinMax f true a b
  | .vabsFloat .. => if lns then elLnsAbs a else elSign f true a
  | .vnegFloat .. => if lns then elLnsNeg a else elSign f false a
  | .vsqrt .. => elSqrt f rm sr a
  | .vexp2 .. => elExp2 a
  | .vaddInt .. => elIAdd f a b
  | .vsubInt .. => elISub f a b
  | .vmulInt .. => elIMul f a b
  | .vmulhi .. => elIMulhi f a b
  | .vminInt .. => elIMinMax f false a b
  | .vmaxInt .. => elIMinMax f true a b
  | .vaddsat .. => elIAddsat f a b
  | .vsubsat .. => elISubsat f a b
  | .vabsInt .. => elIAbs f a
  | .vnegInt .. => elINeg f a
  | .vmad .. => elIMad f a b old
  | .vand .. => plainOut (a &&& b)
  | .vor .. => plainOut (a ||| b)
  | .vxor .. => plainOut (a ^^^ b)
  | .vandn .. => elAndn f a b
  | .vnot .. => elNot f a
  | .vsll .. => elSll f a b
  | .vsrl .. => elSrl f a b
  | .vsra .. => elSra f a b
  | .vcmpEq .. => elCompare .eq (vtClass vt) f a b
  | .vcmpNe .. => elCompare .ne (vtClass vt) f a b
  | .vcmpLt .. => elCompare .lt (vtClass vt) f a b
  | .vcmpLe .. => elCompare .le (vtClass vt) f a b
  | .vsel .. => plainOut a
  | .vcvt _ _ _ target => elCvt vt target.val rm sr a c
  | _ => plainOut 0

/-- The work of an element-wise instruction on a strip: the thread, the flags, and the element it stops at (R210). -/
structure VWork where
  t : Thread
  flags : Flags7
  stop : Option Nat

/-- Write the result of an element. -/
def putTarget (d : VTarget) (e code : Nat) (psn : Bool) (t : Thread) : Thread :=
  match d with
  | .reg r bits => setElem r bits e code psn t
  | .mask k => setMbit k e (code % 2 == 1) t

/-- R97, R227: the generator of an element's lane steps. -/
def stepLane (e : Nat) (t : Thread) : Thread :=
  let l : Fin 64 := ⟨e % 64, by omega⟩
  { t with lanes := t.lanes.set l (srStep t.lanes[l]) }

/-- R209, R210, R246: one element of an element-wise instruction; `t0` is the thread before the strip. -/
def elemStep (en : VEntry) (sh : VShape) (t0 : Thread) (v : VWork) (e : Nat) : VWork :=
  let vt := en.vtype
  if v.stop.isSome || !activeAt t0 en.vl sh.m e then v
  else
    let bits := vtBits vt
    let sa := match sh.a with | some a => srcElem t0 a bits e | none => (0, false)
    let sb := match sh.b with | some b => srcElem t0 b bits e | none => (0, false)
    let so := match sh.old, sh.dst with | true, .reg r w => (elemBits (vreg t0 r) w e, elemPsn (vreg t0 r) w e) | _, _ => (0, false)
    let pick := match en.instr with | .vsel _ _ _ k => if mbit t0 k e then sb else sa | _ => sa
    let pair := vtClass vt == .s
    let blk := match sh.a with | some a => a.val + 1 | none => 0
    let t := if sh.steps && vtRm vt == 5 then stepLane e v.t else v.t
    let psn := match en.instr with | .vsel .. => pick.2 | _ => sa.2 || sb.2 || so.2 || pairPsn t0 vt blk e
    if !blockOk t0 vt e || (pair && !pairOk t0 vt blk e) then { v with t := putTarget sh.dst e 0 false t }
    else if psn && !t0.spec then { v with stop := some e }
    else
      let r := vElem en.instr vt en.op0 (t.lanes[e % 64]'(Nat.mod_lt _ (by decide))).toNat e pick.1 sb.1 so.1
        (elemBits (vreg t0 blk) 8 (blockOf vt e))
      let t := putTarget sh.dst e r.code psn t
      let t := if r.nan && consulted vt then { t with bvalid := withBit t.bvalid (blockOf vt e) false } else t
      { v with t := if psn then setMbit 0 e true t else t, flags := v.flags ||| r.flags }

/-- R209, R212: a conversion whose destination holds the block bytes of its own source reads all of them before it writes. (DEDUCED: log entry 18.) -/
def overOwnScales (en : VEntry) : Bool :=
  match en.instr with
  | .vcvt d a _ _ => vtClass en.vtype == .s && d.val == a.val + 1
  | _ => false

/-- R209, R222: the head entry, an element-wise instruction, does a strip: an element group. -/
def elemStrip (k : Nat) (sh : VShape) (en : VEntry) (s : State) : VRes :=
  let t := thr s k
  let base := en.estart - en.estart % 64
  let n := if overOwnScales en then en.vl else 64
  let v := ((List.range n).map (fun j => base + j)).foldl
    (fun v e => if e < en.estart then v else elemStep en sh t v e) ⟨t, 0, none⟩
  let en := { en with begun := true, flags := en.flags ||| v.flags }
  let s := setThr s k v.t
  match v.stop with
  | some e => stopEntry k { en with estart := e } 0x30 e 0 [noAddress] s
  | none =>
    if en.vl ≤ base + n then .done (popHead k en s)
    else .more (setHead k { en with estart := base + n } s)

/-! ## Instructions that complete once begun (R222) -/

/-- Complete the head entry with a new thread state and flags. -/
def wholeDone (k : Nat) (en : VEntry) (fl : Flags7) (t : Thread) (s : State) : VRes :=
  .done (popHead k { en with flags := en.flags ||| fl } (setThr s k t))

/-- R210: an instruction that reads a poisoned element writes nothing. -/
def wholePoison (k : Nat) (en : VEntry) (s : State) : VRes := stopEntry k en 0x30 0 0 [noAddress] s

/-- A move of a permute: the destination element and the source element, none for code 0; `also` is an index element read. -/
structure VMove where
  dst : Nat
  src : Option (Fin 56 × Nat)
  also : Option (Fin 56 × Nat)
  deriving DecidableEq, Repr

/-- R236: the moves of the rotations and shifts. -/
def rotMoves (a : Fin 56) (vl : Nat) (es : List Nat) (f : Nat → Option Nat) : List VMove :=
  es.map (fun e => ⟨e, match f e with | some i => (if i < vl then some (a, i) else none) | none => none, none⟩)

/-- R238: the moves of a list of source elements to the front. -/
def packMoves (a : Fin 56) (j : Nat) : List Nat → List VMove
  | [] => []
  | e :: l => ⟨j, some (a, e), none⟩ :: packMoves a (j + 1) l

/-- R236..R239: the moves of each permute but `vprune`, with its destination. An element that `vpick` leaves because its
poisoned index is too high is moved onto itself, and so becomes poisoned (R246). One whose index is too high keeps its code also when its
own block is invalid. (DEDUCED: log entries 59 and 67.) -/
def vMoves (en : VEntry) (t : Thread) : Option (Nat × List VMove) :=
  let vl := en.vl
  let all := List.range vl
  let act := fun (m : Fin 8) => all.filter (activeAt t vl m)
  let n := en.op0.toNat
  match en.instr with
  | .vlift d a _ m => some (d.val, rotMoves a vl (act m) (fun e => some ((e + vl - n % vl) % vl)))
  | .vsink d a _ m => some (d.val, rotMoves a vl (act m) (fun e => some ((e + n % vl) % vl)))
  | .vliftZ d a _ m => some (d.val, rotMoves a vl (act m) (fun e => if n ≤ e then some (e - n) else none))
  | .vsinkZ d a _ m => some (d.val, rotMoves a vl (act m) (fun e => some (e + n)))
  | .vpick d a b m =>
    some (d.val, (act m).filterMap (fun e =>
      let i := (srcElem t b 16 e).1
      if i < vl then some ⟨e, some (a, i), some (b, e)⟩
      else if (srcElem t b 16 e).2 && blockOk t en.vtype e then some ⟨e, some (d.castLE (by decide), e), some (b, e)⟩
      else none))
  | .vpack d a k =>
    some (d.val, packMoves a 0 (all.filter (mbit t k) ++ all.filter (fun e => !mbit t k e)))
  | .vpackK d a k => some (d.val, packMoves a 0 (all.filter (mbit t k)))
  | .vzip d a b m => some (d.val, (act m).map (fun e => if e % 2 = 0 then ⟨e, some (a, e / 2), none⟩ else ⟨e, some (b, (e - 1) / 2), none⟩))
  | .vunzip d a b m =>
    some (d.val, (act m).map (fun e => if 2 * e < vl then ⟨e, some (a, 2 * e), none⟩ else ⟨e, some (b, 2 * e - vl), none⟩))
  | _ => none

/-- R209, R210, R246: carry out a permute. -/
def movesRun (k : Nat) (d : Nat) (ms : List VMove) (en : VEntry) (s : State) : VRes :=
  let t0 := thr s k
  let vt := en.vtype
  let bits := vtBits vt
  let ok := fun (m : VMove) => blockOk t0 vt m.dst && (match m.src with | some (_, i) => blockOk t0 vt i | none => true)
  let psn := fun (m : VMove) => ok m && ((match m.src with | some (r, i) => (srcElem t0 r bits i).2 | none => false)
    || (match m.also with | some (r, i) => (srcElem t0 r 16 i).2 | none => false))
  if ms.any psn && !t0.spec then wholePoison k en s
  else
    let t := ms.foldl (fun t m =>
      let code := if ok m then (match m.src with | some (r, i) => (srcElem t0 r bits i).1 | none => 0) else 0
      let t := setElem d bits m.dst code (psn m) t
      if psn m then setMbit 0 m.dst true t else t) t0
    wholeDone k en 0 t s

/-- R240, R246: `vprune`. What speculation takes from a group with a poisoned element is poisoned, its metadata among it.
(DEDUCED: log entry 59.) -/
def pruneRun (k : Nat) (d : Nat) (a : Fin 56) (b : Nat) (en : VEntry) (s : State) : VRes :=
  let t0 := thr s k
  let vt := en.vtype
  let bits := vtBits vt
  let live := fun (e : Nat) => decide (e < en.vl) && blockOk t0 vt e
  let psn := fun (e : Nat) => live e && (srcElem t0 a bits e).2
  if (List.range en.vl).any psn && !t0.spec then wholePoison k en s
  else
    let t := (List.range ((en.vl + 7) / 8)).foldl (fun t h =>
      let code := fun (i : Nat) => if live (8 * h + i) then (srcElem t0 a bits (8 * h + i)).1 else 0
      let kept := pruneKept ((List.range 8).map (fun i => (i, cmpVal (vtClass vt) (vtFmt vt) (code i))))
      let any := (List.range 8).any (fun i => psn (8 * h + i))
      let t := ((List.range 4).zip kept).foldl (fun t (p : Nat × Nat) =>
        let e := 4 * h + p.1
        let t := setElem d bits e (if blockOk t0 vt e then code p.2 else 0) (any && blockOk t0 vt e) t
        if any && blockOk t0 vt e then setMbit 0 e true t else t) t
      setElem b 16 h (kept.reverse.foldl (fun w i => w * 16 + i) 0) any t) t0
    wholeDone k en 0 t s

/-- R241: the kind, destination, source and mask of each reduction. -/
def vFoldOp : Instr → Option (VFold × Nat × Fin 56 × Fin 8)
  | .vfoldAdd d a m => some (.add, d.val, a, m)
  | .vfoldMax d a m => some (.max, d.val, a, m)
  | .vfoldMin d a m => some (.min, d.val, a, m)
  | .vfoldAnd d a m => some (.and, d.val, a, m)
  | .vfoldOr d a m => some (.or, d.val, a, m)
  | .vfoldXor d a m => some (.xor, d.val, a, m)
  | .vfoldAmax d a m => some (.amax, d.val, a, m)
  | _ => none

/-- R209, R227, R241, R246: carry out a reduction. -/
def foldRun (k : Nat) (f : VFold) (d : Nat) (a : Fin 56) (m : Fin 8) (en : VEntry) (s : State) : VRes :=
  let t0 := thr s k
  let vt := en.vtype
  let bits := vtBits vt
  let es := (List.range en.vl).filter (activeAt t0 en.vl m)
  let steps := f == .add && vtClass vt == .f && vtFmt vt != 0 && vtRm vt == 5
  if en.vl = 0 then wholeDone k en 0 t0 s
  else
    let t := if steps then stepLane 0 t0 else t0
    let sr := (t.lanes[0]).toNat
    let out := foldOut f vt sr en.vl (es.map (fun e => (e, (srcElem t0 a bits e).1)))
    if !blockOk t0 vt 0 || es.any (fun e => !blockOk t0 vt e) then wholeDone k en 0 (setElem d out.1 0 0 false t) s
    else
      let psn := es.any (fun e => (srcElem t0 a bits e).2)
      if psn && !t0.spec then wholePoison k en s
      else
        let t := setElem d out.1 0 out.2.code psn t
        wholeDone k en out.2.flags (if psn then setMbit 0 0 true t else t) s

/-- R213, R222, R234: carry out a widening `vcvt`, whose destination is a group of registers. -/
def cvtWide (k : Nat) (d : Nat) (a : Fin 56) (m : Fin 8) (target : Nat) (en : VEntry) (s : State) : VRes :=
  let t0 := thr s k
  let vt := en.vtype
  let bits := vtBits vt
  let wt := fmtBits target
  let c := 2 ^ Nat.log2 (8 * regBytes en.cur t0.share / wt)
  let pair := vtClass vt == .s
  let ok := fun (e : Nat) => blockOk t0 vt e && (!pair || pairOk t0 vt (a.val + 1) e)
  let es := (List.range en.vl).filter (activeAt t0 en.vl m)
  let bad := fun (e : Nat) => (srcElem t0 a bits e).2 || pairPsn t0 vt (a.val + 1) e
  if es.any (fun e => ok e && bad e) && !t0.spec then wholePoison k en s
  else
    let v := es.foldl (fun (v : VWork) e =>
      let t := if vtRm vt = 5 ∧ target ≠ 8 then stepLane e v.t else v.t
      if !ok e then { v with t := setElem (d + e / c) wt (e % c) 0 false t }
      else
        let psn := bad e
        let r := elCvt vt target (vtRm vt) (t.lanes[e % 64]'(Nat.mod_lt _ (by decide))).toNat (srcElem t0 a bits e).1
          (elemBits (vreg t0 (a.val + 1)) 8 (blockOf vt e))
        let t := setElem (d + e / c) wt (e % c) r.code psn t
        let t := if r.nan && consulted vt then { t with bvalid := withBit t.bvalid (blockOf vt e) false } else t
        { v with t := if psn then setMbit 0 e true t else t, flags := v.flags ||| r.flags }) ⟨t0, 0, none⟩
    wholeDone k en v.flags v.t s

/-- R94, R235: carry out a `vcvt` into bfp16. A block with an invalid source element comes out zero whole, so no poison of it counts (R209);
elsewhere a poisoned source poisons what it takes part in: the block byte and the mantissas below `vl` (R246). -/
def cvtBfp (k : Nat) (d : Nat) (a : Fin 56) (en : VEntry) (s : State) : VRes :=
  let t0 := thr s k
  let vt := en.vtype
  let bits := vtBits vt
  let g := cvtGroup { t0 with vtype := vt, vl := en.vl, cur := en.cur } 9
  let c := if g = 1 then en.vl + 32 else 2 ^ Nat.log2 (8 * regBytes en.cur t0.share / 16)
  let pair := vtClass vt == .s
  let ok := fun (e : Nat) => blockOk t0 vt e && (!pair || pairOk t0 vt (a.val + 1) e)
  let sound := fun (b : Nat) => ((List.range 32).map (32 * b + ·)).all (fun e => decide (en.vl ≤ e) || ok e)
  let ill := fun (e : Nat) => sound (e / 32) && ((srcElem t0 a bits e).2 || pairPsn t0 vt (a.val + 1) e)
  if (List.range en.vl).any ill && !t0.spec then wholePoison k en s
  else
    let v := (List.range ((en.vl + 31) / 32)).foldl (fun (v : VWork) b =>
      let es := (List.range 32).map (32 * b + ·)
      let live := es.filter (fun e => decide (e < en.vl))
      let val := fun (e : Nat) => cvtSource vt (srcElem t0 a bits e).1 (elemBits (vreg t0 (a.val + 1)) 8 (blockOf vt e))
      let bad := live.any (fun e => !ok e)
      let r := bfpConvert ((live.filter ok).map val) bad
      let ms := if bad then live.map (fun _ => (0 : Int)) else r.2.1
      let psn := live.any ill
      let t := ((live.zip ms) ++ (es.filter (fun e => decide (en.vl ≤ e))).map (fun e => (e, (0 : Int)))).foldl
        (fun t (p : Nat × Int) => setElem (d + p.1 / c) 16 (p.1 % c) (wrapInt 16 p.2) (psn && decide (p.1 < en.vl)) t) v.t
      let t := if psn then live.foldl (fun t e => setMbit 0 e true t) t else t
      let sig := fIf ((live.filter ok).any (fun e => isSig (val e))) fNV
      let t := ((live.filter ok).filter (fun e => isNanV (val e) && consulted vt)).foldl
        (fun t e => { t with bvalid := withBit t.bvalid (blockOf vt e) false }) t
      { v with t := setElem (d + g) 8 b r.1 psn t, flags := v.flags ||| r.2.2 ||| sig }) ⟨t0, 0, none⟩
    wholeDone k en v.flags v.t s

/-- R233: carry out a mask operation on every bit below `vl`. -/
def maskRun (k : Nat) (d : Fin 8) (f : BitVec 32768) (en : VEntry) (s : State) : VRes :=
  let t := thr s k
  let low : BitVec 32768 := BitVec.ofNat 32768 (2 ^ en.vl - 1)
  wholeDone k en 0 { t with mregs := t.mregs.set d ((t.mregs[d] &&& ~~~low) ||| (f &&& low)) } s

/-- R243: the cell of a tile register in row `i` and column `j`. -/
def cellIx (i j : Nat) : Nat := 64 * i + j

/-- R243: carry out `trow`. -/
def trowRun (k : Nat) (tk : Fin 8) (a : Fin 56) (m : Fin 8) (en : VEntry) (s : State) : VRes :=
  let t0 := thr s k
  let vt := en.vtype
  let bits := vtBits vt
  let i := en.op0.toNat % 64
  let es := (List.range (min en.vl 64)).filter (activeAt t0 en.vl m)
  let psn := fun (e : Nat) => blockOk t0 vt e && (srcElem t0 a bits e).2
  if es.any psn && !t0.spec then wholePoison k en s
  else
    let cn := coreOfThread k
    let tile := es.foldl (fun (p : PBits 131072) e =>
      let v := if blockOk t0 vt e then (srcElem t0 a bits e).1 else 0
      let x := if vtClass vt = .i ∧ fmtSigned (vtFmt vt) = true ∧ v.testBit (bits - 1) = true then v + 2 ^ 32 - 2 ^ bits else v
      putElem p 32 (cellIx i e) x (psn e)) (core s cn).tiles[tk]
    let t := es.foldl (fun t e => if psn e then setMbit 0 e true t else t) t0
    let s := setCore s cn { core s cn with tiles := (core s cn).tiles.set tk tile }
    wholeDone k en 0 t s

/-- R243: carry out `tcol`. -/
def tcolRun (k : Nat) (d : Nat) (tk : Fin 8) (m : Fin 8) (en : VEntry) (s : State) : VRes :=
  let t0 := thr s k
  let vt := en.vtype
  let bits := vtBits vt
  let j := en.op0.toNat % 64
  let tile := (core s (coreOfThread k)).tiles[tk]
  let es := (List.range (min en.vl 64)).filter (activeAt t0 en.vl m)
  let psn := fun (e : Nat) => blockOk t0 vt e && elemPsn tile 32 (cellIx e j)
  if es.any psn && !t0.spec then wholePoison k en s
  else
    let t := es.foldl (fun t e =>
      let v := if blockOk t0 vt e then elemBits tile 32 (cellIx e j) % 2 ^ bits else 0
      let t := setElem d bits e v (psn e) t
      if psn e then setMbit 0 e true t else t) t0
    wholeDone k en 0 t s

/-- R247: one element of `vmerge`; `stop` is the element that faults. Under an S-class `vtype` it moves element codes, and no block byte.
(DESIGN CHOICE: log entry 67.) -/
def mergeStep (d : Nat) (vs : Fin 56) (mk : Fin 8) (en : VEntry) (t0 : Thread) (v : VWork) (e : Nat) : VWork :=
  let vt := en.vtype
  let bits := vtBits vt
  if v.stop.isSome || !decide (e < en.vl) || !mbit t0 mk e then v
  else if !blockOk t0 vt e || (vtClass vt == .s && !pairOk t0 vt (vs.val + 1) e) then { v with t := setElem d bits e 0 false v.t }
  else if mbit t0 0 e || (srcElem t0 vs bits e).2 || pairPsn t0 vt (vs.val + 1) e then { v with stop := some e }
  else { v with t := setElem d bits e (srcElem t0 vs bits e).1 false v.t }

/-- R247: the head entry, `vmerge`, does a strip. -/
def mergeStrip (k : Nat) (d : Nat) (vs : Fin 56) (mk : Fin 8) (en : VEntry) (s : State) : VRes :=
  let t := { thr s k with spec := false }
  let v := ((List.range 64).map (fun j => en.estart - en.estart % 64 + j)).foldl
    (fun v e => if e < en.estart then v else mergeStep d vs mk en t v e) ⟨t, 0, none⟩
  let en := { en with begun := true }
  let s := setThr s k v.t
  match v.stop with
  | some e => stopEntry k { en with estart := e } 0x30 e 0 [noAddress] s
  | none =>
    if en.vl ≤ en.estart - en.estart % 64 + 64 then .done (popHead k en s)
    else .more (setHead k { en with estart := en.estart - en.estart % 64 + 64 } s)

/-- R98: every lane is seeded. -/
def seedLanes (seed : BitVec 32) (t : Thread) : Thread :=
  { t with
    clkseed := seed
    lanes := Vector.ofFn (fun i =>
      let v := seed + BitVec.ofNat 32 i.val
      if v = 0 then 1 else v) }

/-- R186: a `sets` that the vector queue carries takes effect. -/
def setsEntry (r : Nat) (v : Word) (t : Thread) : Thread :=
  match r with
  | 3 => { t with aflags := v.setWidth 7 }
  | 4 => { t with bvalid := BitVec.ofNat 32768 (t.bvalid.toNat - t.bvalid.toNat % 2 ^ 64 + v.toNat) }
  | 0x14 => seedLanes (v.setWidth 32) t
  | _ => t

/-! ## One strip -/

/-- R244: an array instruction of the thread that reads tile register `n` has not been carried out. -/
def tileInUse (s : State) (k n : Nat) : Bool :=
  (ctx s (coreOfThread k)).queue.any (fun it => match it with
    | .cmd c => c.iss.thread == k && c.tileRegs.contains n
    | .start _ => false)

/-- R222: the head entry does its next strip, or the whole of an instruction that completes once begun. (DEDUCED: log entry 17.) -/
def vStrip (k : Nat) (en : VEntry) (s : State) : VRes :=
  let t := thr s k
  match iqStrip k en s with
  | some r => r
  | none =>
  match vMemOp en.instr, cmOp en.instr, vMoves en t, vFoldOp en.instr with
  | some o, _, _, _ => vMemWindow k o en s
  | _, some o, _, _ => cmStrip k o en s
  | _, _, some (d, ms), _ => movesRun k d ms en s
  | _, _, _, some (f, d, a, m) => foldRun k f d a m en s
  | none, none, none, none =>
    match en.instr with
    | .cmRed _ _ ty => cmRedRun k ty.val en.op2 en s
    | .vprune d a b => pruneRun k d.val a b.val en s
    | .mand d a b => maskRun k d (t.mregs[a] &&& t.mregs[b]) en s
    | .mor d a b => maskRun k d (t.mregs[a] ||| t.mregs[b]) en s
    | .mxor d a b => maskRun k d (t.mregs[a] ^^^ t.mregs[b]) en s
    | .mandn d a b => maskRun k d (t.mregs[a] &&& ~~~t.mregs[b]) en s
    | .mnot d a => maskRun k d (~~~t.mregs[a]) en s
    | .trow tk a _ m => if tileInUse s k tk.val then .wait s else trowRun k tk a m en s
    | .tcol d tk _ m => if tileInUse s k tk.val then .wait s else tcolRun k d.val tk m en s
    | .vspec => wholeDone k en 0 { t with spec := true, mregs := t.mregs.set 0 0 } s
    | .vmerge d vs mk => mergeStrip k d.val vs mk en s
    | .sets r _ => wholeDone k en 0 (setsEntry r.val en.op0 t) s
    | .vcvt d a m target =>
      if target = 9 then cvtBfp k d.val a en s
      else if vtBits en.vtype < fmtBits target.val then
        cvtWide k d.val a m target.val en s
      else (match vShape en.instr en.vtype with
        | some sh => elemStrip k sh en s
        | none => .done (popHead k en s))
    | i =>
      match vShape i en.vtype with
      | some sh => elemStrip k sh en s
      | none => .done (popHead k en s)

/-! ## What strips cost (R205, R221) -/

/-- R205, R221, R255: what a strip of an instruction costs for each element group, in halves of a unit. The bank operations cost
as the memory instructions do, and the queue instructions nothing. (DEDUCED: log entry 43.) -/
def stripCost (en : VEntry) : Nat :=
  let bits := vtBits en.vtype
  match cmOp en.instr with
  | some o => o.bits
  | none =>
    match en.instr with
    | .vdiv .. => 8 * bits
    | .vsqrt .. => 8 * bits
    | .vexp2 .. => 64
    | .vcvt _ _ _ target => max bits (fmtBits target.val)
    | .mand .. => 1
    | .mor .. => 1
    | .mxor .. => 1
    | .mandn .. => 1
    | .mnot .. => 1
    | .vpick .. => max 32 bits
    | .vpack .. => 32
    | .vpackK .. => 32
    | .vprune .. => 32
    | .cmRed _ _ ty => cmBits ty.val
    | .trow .. => 0
    | .tcol .. => 0
    | .vspec => 0
    | .sets .. => 0
    | .iqEmit .. => 0
    | .iqClose .. => 0
    | .iqApply .. => 0
    | .iqProbe .. => 0
    | .iqDone .. => 0
    | _ => bits

/-- R221: what an instruction costs beside its groups, in halves of a unit. -/
def wholeCost : Instr → Nat
  | .vfoldAdd .. => 256
  | .vfoldMax .. => 256
  | .vfoldMin .. => 256
  | .vfoldAnd .. => 256
  | .vfoldOr .. => 256
  | .vfoldXor .. => 256
  | .vfoldAmax .. => 256
  | .trow .. => 32
  | .tcol .. => 32
  | _ => 0

/-- R206: a slot is charged. -/
def chargeStrip (k cost : Nat) (s : State) : State :=
  let t := thr s k
  setThr s k { t with credit := t.credit - cost, spent := t.spent + cost }

/-- The element groups of an entry from its cursor on. -/
def groupsLeft (en : VEntry) : Nat := (en.vl + 63) / 64 - en.estart / 64

/-! ## Loads that run ahead (R258) -/

/-- The mask register that an instruction writes outside speculation. -/
def maskWritten : Instr → Option (Fin 8)
  | .vcmpEq k _ _ _ => some k
  | .vcmpNe k _ _ _ => some k
  | .vcmpLt k _ _ _ => some k
  | .vcmpLe k _ _ _ => some k
  | .mand k _ _ => some k
  | .mor k _ _ => some k
  | .mxor k _ _ => some k
  | .mandn k _ _ => some k
  | .mnot k _ => some k
  | _ => none

/-- The instruction may write `bvalid`. -/
def validWritten : Instr → Bool
  | .vcvt .. => true
  | .sets .. => true
  | _ => false

/-- R248: the instruction changes SPEC. -/
def changesSpec : Instr → Bool
  | .vspec => true
  | .vmerge .. => true
  | _ => false

/-- The instruction names m0 as an operand outside speculation. -/
def touchesM0 : Instr → Bool
  | .mand d a b => d == 0 || a == 0 || b == 0
  | .mor d a b => d == 0 || a == 0 || b == 0
  | .mxor d a b => d == 0 || a == 0 || b == 0
  | .mandn d a b => d == 0 || a == 0 || b == 0
  | .mnot d a => d == 0 || a == 0
  | i => maskWritten i == some 0

/-- R258: entry `e`, earlier in the queue, keeps the load of entry `en` back: it accesses memory (R112), or writes what the load
reads. -/
def aheadBlocked (t : Thread) (s : State) (en : VEntry) (o : VMemOp) (e : VEntry) : Bool :=
  let writes := (vInfo e.instr { t with vtype := e.vtype, vl := e.vl, cur := e.cur } s).dsts
  isVMem e.instr || changesSpec e.instr || (o.spec && touchesM0 e.instr) || (match o.idx with | some i => writes.contains i.val | none => false)
    || (o.m != 0 && maskWritten e.instr == some o.m) || (consulted en.vtype && validWritten e.instr)

/-- R258: the first load into a queue that may run ahead of the entries before it. (DEDUCED: log entry 17.) -/
def aheadEntry (t : Thread) (s : State) : List VEntry → List VEntry → Option (VEntry × VMemOp)
  | _, [] => none
  | before, en :: l =>
    match vMemOp en.instr with
    | some o =>
      if (loadQueue en.instr).isSome && !before.isEmpty && claimsReady t en.claims
          && before.all (fun e => !aheadBlocked t s en o e) then some (en, o)
      else aheadEntry t s (before ++ [en]) l
    | none => aheadEntry t s (before ++ [en]) l

/-- R257: the queue entries that an entry claimed are the ones it reads. -/
def withClaims (k : Nat) (en : VEntry) (s : State) : State :=
  if en.claims.isEmpty then s else setThr s k (claimFirst en.claims (thr s k))

/-- R258: a load into a queue runs ahead of the entries before it. A fault it meets is taken when the load comes to the head. -/
def vAhead (k : Nat) (s : State) : VRes :=
  match aheadEntry (thr s k) s [] (thr s k).vq with
  | none => .wait s
  | some (en, o) =>
    let put := fun (e : VEntry) (s : State) =>
      setThr s k { thr s k with vq := (thr s k).vq.map (fun x => if x.target = en.target then e else x) }
    match vWindows k o windowFuel { en with begun := true } (withClaims k en s) with
    | .more e s => .more (chargeStrip k (stripCost en * ((e.estart - en.estart) / 64)) (put e s))
    | .done e s =>
      let s := chargeStrip k (stripCost en * groupsLeft en) (endLoad k o e s)
      .more (setThr s k (popClaims e.claims { thr s k with vq := (thr s k).vq.filter (fun x => x.target != en.target) }))
    | .wait e s => if e = en then .wait s else .more (put e s)
    | .fault e _ s => if e = en then .wait s else .more (put e s)

/-! ## The sequencer -/

/-- The vector unit works for a thread in this state. -/
def vRuns (t : Thread) : Bool := (t.st == .running || t.st == .waiting) && !t.heldTrap && t.owed.isNone

/-- The vector sequencer does one strip for a thread, if it can. -/
def vStep (k : Nat) (s : State) : VRes :=
  let t := thr s k
  match t.vq with
  | [] => .wait s
  | en :: _ =>
    if !vRuns t then .wait s
    else if claimsReady t en.claims then
      (match vStrip k en (withClaims k en s) with
        | .wait s => vAhead k s
        | r => r)
    else vAhead k s

/-- R206: a slot has a strip ready. -/
def stripReady (s : State) (k : Nat) : Bool := vRuns (thr s k) && !(thr s k).vq.isEmpty

/-- R206: slot `a` comes before slot `b`. -/
def stripBefore (s : State) (a b : Nat) : Bool :=
  let x := thr s a
  let y := thr s b
  if decide (0 < x.credit) != decide (0 < y.credit) then decide (0 < x.credit)
  else if x.prio ≠ y.prio then decide (y.prio.toNat < x.prio.toNat)
  else if x.spent * y.share ≠ y.spent * x.share then decide (x.spent * y.share < y.spent * x.share)
  else decide (a < b)

/-- The ready slots of a core in the order of R206. -/
def stripOrder (s : State) (cn : Nat) : List Nat :=
  (((List.range 4).map (fun i => cn * 4 + i)).filter (stripReady s)).foldl (fun l k =>
    (l.takeWhile (fun j => stripBefore s j k)) ++ [k] ++ l.dropWhile (fun j => stripBefore s j k)) []

/-- R205, R206: a slot issues its next strip and is charged for it; the second part says that it did. -/
def strip (k : Nat) (s : State) : State × Bool :=
  match (thr s k).vq with
  | [] => (s, false)
  | en :: _ =>
    match vStep k s with
    | .more s =>
      let now := match (thr s k).vq with | e :: _ => e.estart | [] => 0
      (chargeStrip k (stripCost en * (now / 64 - en.estart / 64)) s, true)
    | .done s => (chargeStrip k (stripCost en * groupsLeft en + wholeCost en.instr) s, true)
    | .fault s => (chargeStrip k (stripCost en * min (groupsLeft en) (if isVMem en.instr then 4 else 1)) s, true)
    | .wait s => (s, false)

/-- R206: the first slot of a list whose strip goes on issues it; the second part says that one did. -/
def issueStrip : List Nat → State → State × Bool
  | [], s => (s, false)
  | k :: l, s =>
    let r := strip k s
    if r.2 then r else issueStrip l r.1

/-- R135, R206: a thread's queue runs until it is empty, faults, has to wait, or another slot of the core comes first. -/
def vRun (k : Nat) : Nat → State → State
  | 0, s => s
  | n + 1, s =>
    if (stripOrder s (coreOfThread k)).head? = some k then
      let r := strip k s
      if r.2 then vRun k n r.1 else r.1
    else s

/-- More strips than any queue holds. -/
def vFuel : Nat := 20000

/-- R135: the vector queue of the thread runs as far as it can, unless its strips are left to the sequencer's own steps. -/
def vKick (k : Nat) (s : State) : State := if (thr s k).vdefer then s else vRun k vFuel s

/-- A number for a new entry of a load queue of a thread, above those of all its entries. -/
def newEntryId (s : State) (t : Thread) : Nat := t.queues.toList.flatten.foldl (fun n e => max n (e.id + 1)) s.serial

/-- R135, R256, R257: an entry joins the queue of a thread. A load into a queue takes its entry there as it is dispatched, not ready,
and a reader claims what it reads. -/
def vEnqueue (k : Nat) (i : Instr) (op0 op1 op2 : Word) (s : State) : State :=
  let t := thr s k
  let en := vEntry t i (vInfo i t s).srcs op0 op1 op2
  match loadQueue i with
  | none => setThr s k { t with vq := t.vq ++ [en] }
  | some q =>
    let id := newEntryId s t
    setThr { s with serial := s.serial + 1 } k
      (mapQueue q (fun l => l ++ [⟨id, t.vl, vtBits t.vtype, ⟨0, 0⟩, false, none⟩]) { t with vq := t.vq ++ [{ en with target := some id }] })

/-- R258: a load into a queue has left the vector instruction queue for the memory pipeline: every earlier vector memory instruction
has begun, and its index register has been written. -/
def hasLeft (t : Thread) (s : State) (before : List VEntry) (en : VEntry) : Bool :=
  match vMemOp en.instr, loadQueue en.instr with
  | some o, some _ =>
    before.all (fun e => (!isVMem e.instr || e.begun) && (match o.idx with
      | some i => !(vInfo e.instr { t with vtype := e.vtype, vl := e.vl, cur := e.cur } s).dsts.contains i.val
      | none => true))
  | _, _ => false

/-- R135, R258: the entries of the vector instruction queue that it still holds. -/
def queueUse (t : Thread) (s : State) : List VEntry → List VEntry → Nat
  | _, [] => 0
  | before, en :: l => (!hasLeft t s before en).toNat + queueUse t s (before ++ [en]) l

/-- R135: an entry joins the queue of the thread in progress, and the scalar side goes on; a full queue stalls dispatch. -/
def vPush (k : Nat) (i : Instr) (op0 op1 op2 : Word) (s : State) : Out :=
  if 16 ≤ queueUse (thr s k) s [] (thr s k).vq then .next (vKick k s)
  else .next (vKick k (finish (vEnqueue k i op0 op1 op2 s)))

/-- R135, R214: the dispatch of a vector instruction with the scalar operands it names. (DEDUCED: log entry 7.) -/
def vIssue (i : Instr) (op0 op1 op2 : Word) (s : State) : Out :=
  match s.cur with
  | .thread k =>
    (match vCheck i k s with
      | some c => raise c (tvalWord i) s
      | none => vPush k i op0 op1 op2 s)
  | _ => raise 0x01 (tvalWord i) s

end Sys2Proof.Machine
end

