-- ==== Sys2Proof/Machine/Control.lean ====
section
/-! DEFINITION. Majors 0x12 and 0x13: forked programs, their ends and their joins (R16..R19, R182, R183), `yield`, traps and
their return (R144, R184, R185), system registers (R57, R186, R187), and `launch` (R188). -/

namespace Sys2Proof.Machine

/-! ## Forked programs -/

/-- Records of faulted forked programs of the thread of a slot that the full record queue holds back (R148). -/
def heldForked (s : State) (k : Nat) : Nat :=
  ((core s (coreOfThread k)).held.filter (fun h => (match h.use with | .forked _ => true | _ => false) && ofThread k (thr s k).bind h.iss)).length

/-- R17, R18: forked programs of the thread that have not ended. -/
def forksOut (s : State) (k : Nat) : Nat := (thr s k).forks.length + (thr s k).forkFaults.length + heldForked s k

/-- R16: the start of a program that the thread forks. -/
def forkStart (s : State) (k : Nat) (target : Word) : Prog :=
  { seq := ⟨target, (thr s k).seq.regs, [], .none⟩, serial := s.serial, iss := issuerNow s k (thr s k).seq.pc }

/-- R17: the fork counts against its thread. -/
def forkCount (k : Nat) (s : State) : State :=
  setThr { s with serial := s.serial + 1 } k { thr s k with forks := (thr s k).forks ++ [s.serial] }

/-- R182: the target of a fork. -/
def forkTarget (s : State) (off : BitVec 14) : Word := pcOf s + (off.signExtend 64 <<< 2)

/-- R16, R17, R182: `fork_f`. -/
def execForkF (off : BitVec 14) (s : State) : Out :=
  match s.cur with
  | .thread k =>
    let cn := coreOfThread k
    let c := ctx s cn
    if c.holder ≠ some k then raise 0x42 (tvalWord (.forkF off)) s
    else if 4 ≤ forksOut s k ∨ 32 ≤ c.queue.length then blockOn s
    else if orderWaits s then stall s
    else .next (finish (forkCount k (setCtx s cn { c with queue := c.queue ++ [.start (forkStart s k (forkTarget s off))] })))
  | _ => raise 0x01 (tvalWord (.forkF off)) s

/-- R16, R17, R182: `fork_x`. (DEDUCED: log entry 15.) -/
def execForkX (off : BitVec 14) (s : State) : Out :=
  match s.cur with
  | .thread k =>
    let d := dieOfThread k
    let q := tabGet [] s.forkQs d
    if 4 ≤ forksOut s k ∨ 16 ≤ q.length then blockOn s
    else if orderWaits s then stall s
    else .next (finish (forkCount k { s with forkQs := tabSet [] s.forkQs d (q ++ [forkStart s k (forkTarget s off)]) }))
  | _ => raise 0x01 (tvalWord (.forkX off)) s

/-- R18: the thread of a slot waits for every program it forked, trapping with each unreported record in turn, then goes on. -/
def joinThen (k : Nat) (f : State → Out) (s : State) : Out :=
  let t := thr s k
  match t.forkFaults with
  | d :: ds => if t.vq.isEmpty then .next (trapTo k d.cause d.addr d.ecls (orAflags k d.flags (setThr s k { t with forkFaults := ds }))) else .next s
  | [] => if forksOut s k = 0 then f s else blockOn s

/-- R18, R183: `join`. -/
def execJoin (s : State) : Out :=
  match s.cur with
  | .thread k => joinThen k (fun s => .next (finish s)) s
  | _ => raise 0x01 (tvalWord .join) s

/-- R18: the forked program with a serial number has ended. -/
def forkEnds (i : Issuer) (serial : Nat) (s : State) : State :=
  setThr s i.thread { thr s i.thread with forks := (thr s i.thread).forks.filter (· != serial) }

/-- R19, R183: `exit`. -/
def execExit (s : State) : Out :=
  match s.cur with
  | .thread k =>
    joinThen k (fun s =>
      if (thr s k).vq.isEmpty then .next (setThr s k { thr s k with st := .retiring, exited := true }) else stall s) s
  | .ctx c =>
    match (ctx s c).prog with
    | some p =>
      .next (forkEnds p.iss p.serial (setCtx s c { ctx s c with prog := none }))
    | none => .fault .noSuchUnit
  | .engine n =>
    match (engine s n).prog with
    | some p =>
      if engineBusy (engine s n) p.serial then stall s
      else .next (forkEnds p.iss p.serial (setEngine s n { engine s n with prog := none }))
    | none => .fault .noSuchUnit

/-! ## Turns, traps, returns -/

/-- R184: the other running slots of the core of a slot. -/
def otherRunning (s : State) (k : Nat) : List Nat :=
  ((List.range 4).map (fun j => coreOfThread k * 4 + j)).filter (fun j => j != k && (thr s j).st == .running)

/-- R184: `yield`. -/
def execYield (s : State) : Out :=
  match s.cur with
  | .thread k =>
    let s := finish s
    let t := thr s k
    .next (setThr s k { t with yieldWait := otherRunning s k, seq := { t.seq with landing := .yielded } })
  | _ => raise 0x01 (tvalWord .yield) s

/-- R185: `trap k`. The thread resumes at the word after it. Earlier entries of the vector queue come first; when one of them faults,
the trap has not completed, its own address is saved, and it runs again after `tret`. (DEDUCED: log entry 14.) -/
def execTrap (n : Fin 64) (s : State) : Out :=
  match s.cur with
  | .thread k =>
    let t := thr s k
    if t.vq.isEmpty then
      .next (trapTo k 0x04 (BitVec.ofNat 64 n.val) 0 (setThr s k { t with seq := { t.seq with pc := t.seq.pc + 4 } }))
    else .next s
  | _ => raise 0x01 (tvalWord (.trap n)) s

/-- R140, R144: `tret`. -/
def execTret (s : State) : Out :=
  match s.cur with
  | .thread k =>
    let t := thr s k
    if t.hm = false then raise 0x02 (tvalWord .tret) s
    else if t.vq.isEmpty then
      .next (setThr s k { t with hm := false, vq := t.parked, parked := [], seq := { t.seq with pc := t.tepc, landing := .none } })
    else stall s
  | _ => raise 0x01 (tvalWord .tret) s

/-! ## System registers -/

/-- R392: `fagrant` as the thread of a slot reads it. -/
def fagrant (s : State) (k : Nat) : Word :=
  let c := ctx s (coreOfThread k)
  let base := clusterOfCore (coreOfThread k) * 2
  let hold := c.holder == some k
  let avail := 128 - (ctx s base).rows - (ctx s (base + 1)).rows
  BitVec.ofNat 64 ((if hold then c.rows else 0) + avail * 2 ^ 8 + hold.toNat * 2 ^ 16 + (c.holder.isSome && !hold).toNat * 2 ^ 17)

/-- R138: `vcfg`. -/
def vcfgWord (t : Thread) : Word := BitVec.ofNat 64 (t.cur.val + t.pend.val * 4 + t.pv.toNat * 16 + t.share * 32)

/-- R134: a level of the loop stack as software reads it. -/
def levelWord (l : List Level) (n : Nat) : Word :=
  match l[n]? with
  | some v => v.index ++ v.count
  | none => 0

/-- R134: a level of the loop stack with COUNT and INDEX replaced; an inactive level is left alone. -/
def setLevel (l : List Level) (n : Nat) (v : Word) : List Level :=
  match l[n]? with
  | some a => l.set n { a with count := v.setWidth 32, index := (v >>> 32).setWidth 32 }
  | none => l

/-- R57, R186: what `gets` returns of a register to the thread of a slot. -/
def sysReg (s : State) (k : Nat) (r : Nat) : Word :=
  let t := thr s k
  match r with
  | 0x00 => t.vtype
  | 0x01 => BitVec.ofNat 64 t.vl
  | 0x02 => vcfgWord t
  | 0x03 => t.aflags.setWidth 64
  | 0x04 => t.bvalid.setWidth 64
  | 0x05 => fagrant s k
  | 0x06 => (cluster s (clusterOfCore (coreOfThread k))).windows ++ (cluster s (clusterOfCore (coreOfThread k))).stalls
  | 0x07 => t.tcause
  | 0x08 => t.tval
  | 0x09 => t.tvec
  | 0x0A => t.tepc
  | 0x11 => fqWord (core s (coreOfThread k))
  | 0x12 => t.rcb
  | 0x13 => t.asid.setWidth 64
  | 0x14 => t.clkseed.setWidth 64
  | n => levelWord t.seq.loops (n - 0x0B)

/-- R57, R186: `gets`. -/
def execGets (d : Fin 32) (r : Fin 21) (s : State) : Out :=
  match s.cur with
  | .thread k => writeOn d (sysReg s k r.val) s
  | _ => raise 0x01 (tvalWord (.gets d r)) s

/-- R57: the registers whose `sets` is privileged. -/
def setsPrivileged (r : Nat) : Bool := r == 0x06 || r == 0x09 || r == 0x11 || r == 0x12 || r == 0x13

/-- R146: a `sets` of `fqbase`. Records that TAIL passes give up their address entries (R147). -/
def fqWrite (v : Word) (c : Core) : Core :=
  let tail := BitVec.ofNat 6 (bitsOf v.toNat 11 6)
  let base := BitVec.ofNat 45 (bitsOf v.toNat 56 12)
  let en := v.toNat.testBit 63
  let c1 := { c with fqTail := tail, fqOwned := c.fqOwned.drop (tail - c.fqTail).toNat,
                     fullSeen := if tail = c.fqTail then c.fullSeen else false }
  if c.fqHead ≠ c.fqTail ∧ (base ≠ c.fqBase ∨ en ≠ c.fqEn) then c1 else { c1 with fqBase := base, fqEn := en }

/-- R186: a `sets` that takes effect at once. (DEDUCED: log entry 55.) -/
def setsNow (r : Nat) (v : Word) (k : Nat) (s : State) : State :=
  let t := thr s k
  match r with
  | 0x00 => setThr s k { t with vtype := v }
  | 0x06 =>
    let c := clusterOfCore (coreOfThread k)
    setCluster s c { cluster s c with stalls := v.setWidth 32, windows := (v >>> 32).setWidth 32 }
  | 0x07 => setThr s k { t with tcause := v &&& 0xFFF }
  | 0x08 => setThr s k { t with tval := v }
  | 0x09 => setThr s k { t with tvec := v &&& handlerMask }
  | 0x0A => setThr s k { t with tepc := v &&& handlerMask }
  | 0x11 => setCore s (coreOfThread k) (fqWrite v (core s (coreOfThread k)))
  | 0x12 => setThr s k { t with rcb := v, rid := BitVec.ofNat 20 (bitsOf (rcbRead s v.toNat) 19 0), home := homeOf s v.toNat }
  | 0x13 => setThr s k { t with asid := v.setWidth 16 }
  | n => setThr s k { t with seq := { t.seq with loops := setLevel t.seq.loops (n - 0x0B) v } }

/-- R57, R76, R186, R187: `sets`. -/
def execSets (r : Fin 21) (b : Fin 32) (s : State) : Out :=
  match s.cur with
  | .thread k =>
    let t := thr s k
    let v := x s b
    if r.val = 1 ∨ r.val = 2 ∨ r.val = 5 then raise 0x01 (tvalWord (.sets r b)) s
    else if setsPrivileged r.val = true ∧ t.priv = false ∧ t.hm = false then raise 0x02 (tvalWord (.sets r b)) s
    else if r.val = 0 ∧ vtLegal v = false then raise 0x01 (tvalWord (.sets r b)) s
    else if r.val = 3 ∨ r.val = 4 ∨ r.val = 0x14 then vPush k (.sets r b) v 0 0 s
    else .next (finish (setsNow r.val v k s))
  | _ => raise 0x01 (tvalWord (.sets r b)) s

/-! ## Launch -/

/-- R188: `launch`. (DEDUCED: log entry 16.) -/
def execLaunch (d a : Fin 32) (s : State) : Out :=
  match s.cur with
  | .thread k =>
    let ea := x s a
    if ea.toNat % 64 ≠ 0 then raise 0x03 ea s
    else if cWaits s then stall s
    else closeAccess ea (load (whoC s k) 64 64 ea s) (fun v s =>
      let r : BitVec 512 := BitVec.ofNat 512 v
      let t := thr s k
      if inSubtree t.rcb.toNat (homeOf s (recRcb r)) = false ∧ t.priv = false ∧ t.hm = false then raise 0x02 (tvalWord (.launch d a)) s
      else match releaseGate 3 true s with
        | .stop o => o
        | .go s =>
          let s := curEpochStep s
          match intakeEnter (devOfDie (dieOfThread k)) r s with
          | some (e, s) => writeOn d (BitVec.ofNat 64 (3072 + e)) s
          | none => writeOn d (BitVec.ofNat 64 (2 ^ 64 - 1)) s)
  | _ => raise 0x01 (tvalWord (.launch d a)) s

end Sys2Proof.Machine
end

