-- ==== Sys2Proof/Machine/CopyIssue.lean ====
section
/-! DEFINITION. Majors 0x28, 0x29 and 0x2A (R302, R306, R314, R318, R319, R321): issue to a copy engine, waits and status; and
the steps of the copy engines. -/

namespace Sys2Proof.Machine

/-- R302: the engine that the sequencer in progress issues to, and the forked program that issues. -/
def copyUnit (s : State) : Option (Nat × Option Nat) :=
  match s.cur with
  | .thread k => some (engineOfThread k, none)
  | .engine n => some (n, (engine s n).prog.map (fun p => p.serial))
  | .ctx _ => none

/-- R62, R302: a command as it is issued. -/
def newCmd (s : State) (pg : Option Nat) (kind fn : Nat) : CopyCmd :=
  { iss := curIssuer s, serial := s.serial, prog := pg, kind := kind, fn := fn, src := 0, sctl := 0, dst := 0, dctl := 0, second := 0,
    bar := none, record := 0, gtab := [], bad := none, started := false, idx := [0, 0, 0, 0], gran := 0, flags := 0, part := 0, done := 0,
    sent := [], lost := none, stop := none, feed := [] }

/-- A command joins the queue of an engine. -/
def pushCmd (n : Nat) (c : CopyCmd) (s : State) : State :=
  setEngine { s with serial := s.serial + 1 } n { engine s n with queue := (engine s n).queue ++ [c] }

/-- R302: issue a command, made from the engine and the new command; a full queue is waited for. A command refused at issue only
writes its record (R324). -/
def issueCmd (i : Instr) (kind fn : Nat) (f : Nat → CopyCmd → State → Res CopyCmd) (s : State) : Out :=
  match copyUnit s with
  | none => raise 0x01 (tvalWord i) s
  | some (n, pg) =>
    if 64 ≤ (engine s n).queue.length then blockOn s
    else match f n (newCmd s pg kind fn) s with
      | .ok c s => .next (finish (pushCmd n c s))
      | .wait s => stall s
      | .exc e s => .next (finish (cpRecord n (newCmd s pg kind fn).iss e [] 0 s))
      | .lost e s => .next (finish (cpRecord n (newCmd s pg kind fn).iss e [] 0 s))

/-- R306: the barrier that a register names: none for s0. -/
def barIn (s : State) (k : Fin 32) : Option Word := if k = 0 then none else some (x s k)

/-- R306: the operands of a copy instruction. -/
def copyOperands (a b : Fin 16) (second : Word) (bar : Option Word) (s : State) (c : CopyCmd) : CopyCmd :=
  { c with src := x s (pairLo a), sctl := x s (pairHi a), dst := x s (pairLo b), dctl := x s (pairHi b), second := second, bar := bar }

/-- R306: issue a copy command. -/
def issueCopy (i : Instr) (fn : Nat) (a b : Fin 16) (second : Word) (bar : Option Word) (s : State) : Out :=
  issueCmd i 0 fn (fun _ c s => .ok (copyOperands a b second bar s c) s) s

/-- R306: `cp`. -/
def execCp (a b : Fin 16) (k : Fin 32) (s : State) : Out := issueCopy (.cp a b k) 0x00 a b 0 (barIn s k) s
/-- R306: `cp.tr`. -/
def execCpTr (a b : Fin 16) (k : Fin 32) (s : State) : Out := issueCopy (.cpTr a b k) 0x10 a b 0 (barIn s k) s
/-- R306: `cp.cvt`. -/
def execCpCvt (a b : Fin 16) (k : Fin 32) (s : State) : Out := issueCopy (.cpCvt a b k) 0x20 a b 0 (barIn s k) s
/-- R306: `cp.red`. -/
def execCpRed (a b : Fin 16) (k : Fin 32) (rop : Fin 3) (rty : Fin 4) (s : State) : Out :=
  issueCopy (.cpRed a b k rop rty) (0x30 + 4 * rop.val + rty.val) a b 0 (barIn s k) s
/-- R306: `cp.red2`; the barrier address 0 in its pair names none, as in R315. (DESIGN CHOICE: log entry 51.) -/
def execCpRed2 (a b k : Fin 16) (rop : Fin 3) (rty : Fin 4) (s : State) : Out :=
  issueCopy (.cpRed2 a b k rop rty) (0x40 + 4 * rop.val + rty.val) a b (x s (pairLo k)) (barNamed (x s (pairHi k)).toNat) s

/-- R302: a command with the record that its register names, and the barrier that the record names. -/
def withRecord (r : Res (Nat × List Nat × Option (BitVec 8))) (c : CopyCmd) : Res CopyCmd :=
  r.next (fun q s => .ok { c with record := q.1, gtab := q.2.1, bad := q.2.2, bar := barNamed (bitsOf q.1 376 320) } s)

/-- R314: `cp.nest`. -/
def execCpNest (a : Fin 32) (s : State) : Out :=
  issueCmd (.cpNest a) 1 0 (fun n c s => withRecord (nestRead (whoX n c.iss) (x s a) s) c) s

/-- R321, R324: issue a collective of a kind; its record is checked at issue. -/
def issueColl (i : Instr) (kind : Nat) (a : Fin 32) (fp8 : Bool) (s : State) : Out :=
  issueCmd i 2 (kind + 8 * fp8.toNat) (fun n c s =>
    (withRecord (collRead (whoX n c.iss) (x s a) s) c).next (fun c s =>
      match (match c.bad with | some e => some e | none => collCheck s (n / 4) c) with
      | some e => .exc e s
      | none => .ok c s)) s

/-- R321: `coll.ar`. -/
def execCollAr (a : Fin 32) (fp8 : Bool) (s : State) : Out := issueColl (.collAr a fp8) 0 a fp8 s
/-- R321: `coll.rs`. -/
def execCollRs (a : Fin 32) (fp8 : Bool) (s : State) : Out := issueColl (.collRs a fp8) 1 a fp8 s
/-- R321: `coll.ag`. -/
def execCollAg (a : Fin 32) (fp8 : Bool) (s : State) : Out := issueColl (.collAg a fp8) 2 a fp8 s
/-- R321: `coll.a2a`. -/
def execCollA2a (a : Fin 32) (fp8 : Bool) (s : State) : Out := issueColl (.collA2a a fp8) 3 a fp8 s
/-- R321: `coll.bc`. -/
def execCollBc (a : Fin 32) (fp8 : Bool) (s : State) : Out := issueColl (.collBc a fp8) 4 a fp8 s
/-- R321: `coll.tm`. -/
def execCollTm (a : Fin 32) (fp8 : Bool) (s : State) : Out := issueColl (.collTm a fp8) 5 a fp8 s

/-! ## Arming (R26, R318) -/

/-- R27, R123: the acquire that a command performs as it fires. -/
def firedCmd (s : State) (pa : Nat) (c : CopyCmd) : CopyCmd :=
  match barClock s pa with
  | some b => if c.iss.rdom = 0 then c else { c with iss := { c.iss with clock := mergeBlock s c.iss.agent c.iss.clock b } }
  | none => c

/-- R318: what stops an arming: the check of the record, and the object. The result is the object. -/
def armCheck (w : Who) (c : CopyCmd) (obj : Word) (s : State) : Res Nat :=
  (nestRefused w c s).next (fun _ s => bankAt w true obj s)

/-- R318: `cp.arm`. -/
def execCpArm (a b c : Fin 32) (s : State) : Out :=
  match copyUnit s with
  | none => raise 0x01 (tvalWord (.cpArm a b c)) s
  | some (n, pg) =>
    let cmd := newCmd s pg 1 0
    let w := whoX n cmd.iss
    let p := (x s c).getLsbD 0
    match withRecord (nestRead w (x s a) s) cmd with
    | .wait s => stall s
    | .exc _ s => stall s
    | .lost _ s => stall s
    | .ok cmd s =>
      match armCheck w cmd (x s b) s with
      | .wait s => stall s
      | .exc e s => .next (finish (cpRecord n cmd.iss e (nestStart cmd) (nestSgran cmd) s))
      | .lost e s => .next (finish (cpRecord n cmd.iss e (nestStart cmd) (nestSgran cmd) s))
      | .ok pa s =>
        if barPhase (barRead s pa) != p then
          (if 64 ≤ (engine s n).queue.length then blockOn s else .next (finish (pushCmd n (firedCmd s pa cmd) s)))
        else if 16 ≤ (engine s n).armed.length then blockOn s
        else
          let s := (barArm pa p (n / 4) s).2
          .next (finish (setEngine { s with serial := s.serial + 1 } n
            { engine s n with armed := (engine s n).armed ++ [⟨pa, p, false, cmd⟩] }))

/-! ## Waiting and status (R319) -/

/-- R319: the command belongs to the sequencer in progress. -/
def ownCmd (s : State) (c : CopyCmd) : Bool :=
  match s.cur with
  | .thread k => c.prog == none && ofThread k (thr s k).bind c.iss
  | .engine n => c.prog.isSome && c.prog == (engine s n).prog.map (fun p => p.serial)
  | .ctx _ => false

/-- R319: commands of the sequencer in progress that are issued and not completed, and armed ones that have not fired. -/
def copyCounts (n : Nat) (s : State) : Nat × Nat :=
  let g := engine s n
  ((g.queue.filter (ownCmd s)).length + (g.colls.filter (fun l => ownCmd s l.cmd)).length
      + (g.armed.filter (fun a => a.fired && ownCmd s a.cmd)).length,
    (g.armed.filter (fun a => !a.fired && ownCmd s a.cmd)).length)

/-- R319: `cp.wait`. -/
def execCpWait (s : State) : Out :=
  match copyUnit s with
  | none => raise 0x01 (tvalWord .cpWait) s
  | some (n, _) => if (copyCounts n s).1 = 0 then .next (finish s) else blockOn s

/-- R319: `cp.stat`. -/
def execCpStat (d : Fin 32) (s : State) : Out :=
  match copyUnit s with
  | none => raise 0x01 (tvalWord (.cpStat d)) s
  | some (n, _) =>
    let r := copyCounts n s
    writeOn d (BitVec.ofNat 64 (r.1 % 2 ^ 16 + r.2 % 2 ^ 16 * 2 ^ 16)) s

/-! ## The steps of the engines -/

/-- R302, R311: COPY_EXECUTE: an engine goes on with the command at the head of its queue: its checks, or one transfer. The granules of
a command follow those of the collectives before it (R303, R112). (DESIGN CHOICE: log entry 6.) -/
def execCopyExecute (n : Nat) (s : State) : Out :=
  match (engine s n).queue with
  | [] => .fault .noSuchUnit
  | c :: _ =>
    .next (match c.kind with
      | 0 => if c.started then (if (engine s n).colls.isEmpty then cpTransfer n c s else s) else cpBegin n c s
      | 1 => if c.started then (if (engine s n).colls.isEmpty then nestTransfer n c s else s) else nestBegin n c s
      | _ => collBegin n c s)

/-- R16: FORKED_PROGRAM_TAKE: the lowest idle engine of a die takes the oldest forked program. -/
def execForkedProgramTake (d : Nat) (s : State) : Out :=
  match tabGet [] s.forkQs d, [0, 1, 2, 3].find? (fun e => (engine s (d * 4 + e)).prog.isNone) with
  | p :: l, some e =>
    .next (setEngine { s with forkQs := tabSet [] s.forkQs d l } (d * 4 + e) { engine s (d * 4 + e) with prog := some p })
  | _, _ => .fault .noSuchUnit

/-- R22: BARRIER_COMPLETION: an engine reports bytes to an object; a report the object refuses changes nothing. -/
def execBarrierCompletion (pa bytes : Nat) (s : State) : Out :=
  if barPlace pa then .next ((barUpdate (.complete bytes) pa (0, 0) s).getD s) else .fault .noSuchUnit

end Sys2Proof.Machine
end

