-- ==== Sys2Proof/Machine/NearMem.lean ====
section
/-! DEFINITION. Majors 0x30 and 0x31: the near-memory engines (R449..R465): issue, gates, recall, the seven commands granule by
granule, stops, completion, waits and status. -/

namespace Sys2Proof.Machine

/-! ## Recall and invalidation (R458, R459) -/

/-- R337, R458: every M copy of a line is written back and every copy is invalidated. -/
def recallLine (line : Nat) (s : State) : State := dropCopies line s

/-- The lines of an LLC that are cached anywhere. -/
def cachedLines (s : State) : List Nat := (s.llc.map (fun e => e.1 % 2 ^ 46)).eraseDups

/-- R458: the physical lines of `n` bytes from a virtual address that translate, page of 4 KiB by page. -/
def linesWithin (s : State) (w : Who) (va n : Nat) (line : Nat) : Bool :=
  (List.range (n / 4096 + 2)).any (fun i =>
    let a := if i = 0 then va else va / 4096 * 4096 + 4096 * i
    decide (a < va + n) && (match leafOf s w.tlbs w.die w.iss.asid a with
      | some p => decide (physOf p a / 64 ≤ line) && decide (line ≤ (physOf p a + (min (va + n) (a / 4096 * 4096 + 4096) - a) - 1) / 64)
      | none => false))

/-- R458: the engine recalls the lines of a range. -/
def recallRange (w : Who) (va n : Nat) (s : State) : State :=
  (cachedLines s).foldl (fun s l => if linesWithin s w va n l then recallLine l s else s) s

/-! ## Operands (R453) -/

/-- R453: NGRAN. -/
def nmGrans (c : NmCmd) : Nat := bitsOf c.a1.toNat 23 0
/-- R453: FMT. -/
def nmFmt (c : NmCmd) : Nat := bitsOf c.a1.toNat 28 24
/-- R453: DFMT. -/
def nmDfmt (c : NmCmd) : Nat := if c.op = 0 then 0 else bitsOf c.a1.toNat 36 32
/-- R454, R265: the maker of an engine's accesses for a command. R271 gives the engines of the stacks no TLB: each access walks. (DEDUCED: log
entry 36.) -/
def nmWho (die : Nat) (c : NmCmd) : Who := ⟨die, [], .n, c.iss, 2 ^ 25 + die, none⟩
/-- R453: the address of the gate. -/
def nmGateAddr (c : NmCmd) : Word := BitVec.ofNat 64 (bitsOf c.g.toNat 56 4 * 16)

/-- R451, R455: the bytes of the second range that one granule reads. -/
def nmSrcStep (c : NmCmd) : Nat := if c.op = 4 then 64 * fmtBits (nmFmt c) / fmtBits (nmDfmt c) else 64

/-- R458: the ranges that are recalled for a command: each its first address and its bytes. -/
def nmRanges (c : NmCmd) : List (Nat × Nat) :=
  let n := nmGrans c
  (c.a.toNat, if c.op = 6 then 4 * (c.b1.toNat % 2 ^ 32) else 64 * n)
    :: (if c.op = 0 ∨ c.op = 1 ∨ c.op = 4 ∨ c.op = 6 then [(c.b.toNat, n * nmSrcStep c)] else [])

/-- R458: the ranges of a command are recalled. -/
def nmRecall (die : Nat) (c : NmCmd) (s : State) : State :=
  if s.llc.isEmpty then s else (nmRanges c).foldl (fun s r => recallRange (nmWho die c) r.1 r.2 s) s

/-- R337, R458: the home of a line of a command's ranges is serving a request: the recall waits. -/
def recallBusy (die : Nat) (c : NmCmd) (s : State) : Bool :=
  s.dir.any (fun d => d.2.req.isSome && (nmRanges c).any (fun r => linesWithin s (nmWho die c) r.1 r.2 d.1))

/-! ## Checks (R454) -/

/-- R455: the legal formats of a command. -/
def nmFmtOk (op f : Nat) : Bool :=
  match op with
  | 4 => decide (f ≤ 4)
  | 5 => f == 0
  | 6 => f == 0 || f == 12
  | _ => decide (f ≤ 1)

/-- R454, R455: the alignment of the second address, 0 where the command has none. -/
def nmSecond (c : NmCmd) : Nat :=
  match c.op with
  | 0 => 64
  | 1 => 64
  | 3 => 4
  | 4 => min 64 (64 * fmtBits (nmFmt c) / fmtBits (nmDfmt c))
  | 6 => 64
  | _ => 0

/-- R453, R455: a reserved bit of the second scalar operand is set. -/
def nmScalarBad (c : NmCmd) : Bool :=
  match c.op with
  | 1 => bitsOf c.b1.toNat 63 32 != 0
  | 2 => bitsOf c.b1.toNat 63 32 != 0
  | 3 => c.b1 != 0
  | 4 => c.b1 != 0
  | 6 => bitsOf c.b1.toNat 63 32 != 0
  | _ => false

/-- R453: a reserved bit of the gate operand is set. -/
def nmGateBad (c : NmCmd) : Bool := bitsOf c.g.toNat 3 1 != 0 || bitsOf c.g.toNat 63 57 != 0

/-- R454: the checks of causes 0x01 and 0x03. -/
def nmCheck (c : NmCmd) : Option (BitVec 8) :=
  if bitsOf c.a1.toNat 31 29 ≠ 0 ∨ (c.op ≠ 0 ∧ bitsOf c.a1.toNat 63 37 ≠ 0) ∨ nmGrans c = 0 ∨ nmFmtOk c.op (nmFmt c) = false
      ∨ (if c.op = 4 then nmFmtOk 4 (nmDfmt c) = false else nmDfmt c ≠ 0) ∨ (nmSecond c = 0 ∧ c.b ≠ 0)
      ∨ nmScalarBad c = true ∨ nmGateBad c = true then some 0x01
  else if c.a.toNat % 64 ≠ 0 ∨ (nmSecond c ≠ 0 ∧ c.b.toNat % nmSecond c ≠ 0) then some 0x03
  else none

/-! ## Accesses of an engine (R460) -/

/-- R253, R276: translation for an engine; a copy-on-write page is copied first. -/
def nmResolve (w : Who) (rd wr : Bool) (ea : Word) (s : State) : Except (BitVec 8) (Word × Nat × State) :=
  let found := translate s w rd wr 1 ea.toNat
  let s := noteTried w ea s
  match found with
  | .error c => .error c
  | .ok (p, pa) =>
    if pteMc p then .error 0x13
    else if wr = true ∧ pteCow p = true then
      (match cowPerform w.die w.iss.asid ea.toNat s with
        | none => .error 0x12
        | some s =>
          match translate s w rd wr 1 ea.toNat with
          | .error c => .error c
          | .ok (p, pa) => if ptePsn p then .error 0x30 else .ok (p, pa, s))
    else if ptePsn p then .error 0x30
    else .ok (p, pa, s)

/-- R454, R457: the object at a barrier address; cause 0 while its page is being copied (R276). -/
def nmObject (w : Who) (a : Word) (s : State) : Except (BitVec 8) (Nat × State) :=
  if a.toNat % 16 ≠ 0 then .error 0x13
  else if copyBusy s w.die w.iss.asid a.toNat then .error 0
  else match nmResolve w false true a s with
    | .error c => .error c
    | .ok (_, pa, s) => if barPlace pa then .ok (pa, s) else .error 0x13

/-- R453, R454: the object of a completion barrier; none for address 0. -/
def nmBarrier (w : Who) (a : Word) (s : State) : Except (BitVec 8) (Option Nat × State) :=
  if a = 0 then .ok (none, s)
  else match nmObject w a s with
    | .error c => .error c
    | .ok (pa, s) => .ok (some pa, s)

/-- R107: the places of an engine's granules: the stacks, of which only its own translates. -/
def inStack : Place → Bool
  | .hbm _ => true
  | _ => false

/-- R107, R456: the places of a gate word. -/
def gatePlace : Place → Bool
  | .common _ => true
  | .scratchpad _ _ => true
  | _ => false

/-- R107, R460: a byte that an engine's access may not touch: it translates outside the places the access reaches, or to a page of
the device class. -/
def nmOutside (w : Who) (place : Place → Bool) (rd wr : Bool) (ea : Word) (s : State) : Bool :=
  match translate s w rd wr 1 ea.toNat with
  | .ok (p, pa) => pteDev p || (!pteMc p && !place (placeOf pa))
  | .error _ => false

/-- R460, R462: the checks of one access of an engine to places it reaches; cause 0 while the copy of its page by another unit is in
progress (R276). -/
def nmAccess (w : Who) (place : Place → Bool) (rd wr : Bool) (ea : Word) (n : Nat) (s : State) :
    Except (BitVec 8) (Word × Nat × State) :=
  if nmOutside w place rd wr ea s then .error 0x13
  else if wr && ea.toNat < 2 ^ 57 && copyBusy s w.die w.iss.asid ea.toNat then .error 0
  else match nmResolve w rd wr ea s with
  | .error c => .error c
  | .ok (p, pa, s) =>
    if racing s w p pa n then .error 0x20
    else if rd = true ∧ poisoned s pa n = true then .error 0x30
    else .ok (p, pa, s)

/-- R451: the `n` bytes of a source, 64 at a time in ascending order. -/
def nmSource (w : Who) (ea : Word) (n : Nat) (s : State) : Except (BitVec 8) (Nat × State) :=
  (List.range ((n + 63) / 64)).foldl (fun r i =>
    match r with
    | .error c => .error c
    | .ok (v, s) =>
      match nmAccess w inStack true false (ea + BitVec.ofNat 64 (64 * i)) (min 64 (n - 64 * i)) s with
      | .error c => .error c
      | .ok (_, pa, s) => .ok (v + 256 ^ (64 * i) * readMem s pa (min 64 (n - 64 * i)), s)) (.ok (0, s))

/-- R459: copies of a line that agents cached keep the bytes from before the engine's write. -/
def leaveStale (line : Nat) (s : State) : State :=
  { s with llc := s.llc.map (fun e =>
      if e.1 % 2 ^ 46 = line then
        (e.1, e.2.map (fun c => { c with stale := some (c.stale.getD (BitVec.ofNat 512 (readMem s (line * 64) 64))) }))
      else e) }

/-- R458: the engine writes bytes in its DRAM. -/
def nmWrite (w : Who) (p : Word) (pa n v : Nat) (s : State) : State := tagLines w p pa n (storeMem (leaveStale (pa / 64) s) pa n v)

/-! ## The commands (R455, R456) -/

/-- R455: one rounded result. -/
def nmRound (f : Nat) (v : FVal × Flags7) : Nat × Flags7 := let r := rndTo f RNE 0 v.1; (r.1, v.2 ||| r.2.1)

/-- R455: `a · x + y`, rounded once. -/
def nmFma (f : Nat) (a x y : FVal) : Nat × Flags7 :=
  let p := mulVal a x
  let t := addVal RNE p.1 y
  nmRound f (t.1, p.2 ||| t.2)

/-- R455: an element of `nm.sgdf`, `nm.axpy` or `nm.scale` from its destination and source. -/
def nmElem (c : NmCmd) (y v : Nat) : Nat × Flags7 :=
  let f := nmFmt c
  match c.op with
  | 0 =>
    let t := nmRound 0 (mulVal (floatVal 0 (c.coef / 2 ^ 32)) (elemVal f v))
    let r := nmFma f (elemVal f y) (floatVal 0 (c.coef % 2 ^ 32)) (negVal (floatVal 0 t.1))
    (r.1, t.2 ||| r.2)
  | 1 => nmFma f (floatVal 0 (c.b1.toNat % 2 ^ 32)) (elemVal f v) (elemVal f y)
  | _ => nmRound f (mulVal (floatVal 0 (c.b1.toNat % 2 ^ 32)) (elemVal f y))

/-- R456: the coefficients of `nm.sgdf`. -/
def nmCoef (die : Nat) (c : NmCmd) (s : State) : Except (BitVec 8) (Nat × Flags7 × State) :=
  let one := 0x3F800000
  let eta := c.b1.toNat % 2 ^ 32
  let p := mulCode 0 RNE 0 eta (c.b1.toNat / 2 ^ 32)
  let f := nmRound 0 (addVal RNE (floatVal 0 one) (negVal (floatVal 0 p.1)))
  let close := fun (k : Nat × Flags7) (s : State) =>
    let h := mulCode 0 RNE 0 eta k.1
    (f.1 + h.1 * 2 ^ 32, p.2 ||| f.2 ||| k.2 ||| h.2, s)
  match c.gate with
  | none => .ok (close (one, 0) s)
  | some _ =>
    match nmAccess (nmWho die c) gatePlace true false (nmGateAddr c + 32) 4 s with
    | .error e => .error e
    | .ok (_, pa, s) =>
      let q := floatVal 0 (readMem s pa 4)
      let t := floatVal 0 (c.a1.toNat / 2 ^ 32)
      let zero := FVal.fin false 0 0
      if isNanV q = true ∨ ltVal false q zero = true ∨ (match t with | .fin .. => false | _ => true) = true ∨ ltVal false zero t = false then
        .error 0x82
      else if ltVal false (mulVal t t).1 q then
        let r := nmRound 0 (sqrtVal q)
        let k := nmRound 0 (divVal t (floatVal 0 r.1))
        .ok (close (k.1, r.2 ||| k.2) s)
      else .ok (close (one, 0) s)

/-- R455: the records of a granule of `nm.scatadd`: element indices and values. -/
def nmRecords (v : Nat) : List (Nat × Nat) := (fieldsOf 64 8 v).map (fun r => (r % 2 ^ 32, r / 2 ^ 32))

/-- R455: an element of `nm.scatadd`. -/
def nmAddElem (c : NmCmd) (y v : Nat) : Nat × Flags7 :=
  if nmFmt c = 12 then ((y + v) % 2 ^ 32, 0) else addCode 0 RNE 0 y v

/-- R455: every element that the records of a granule name can be read and written. -/
def nmScatCheck (w : Who) (a : Word) : List (Nat × Nat) → State → Except (BitVec 8) State
  | [], s => .ok s
  | r :: l, s =>
    match nmAccess w inStack true true (a + BitVec.ofNat 64 (4 * r.1)) 4 s with
    | .error c => .error c
    | .ok (_, _, s) => nmScatCheck w a l s

/-- R455: the records of a granule are applied in order; with the flags and the lines written. -/
def nmScatApply (w : Who) (c : NmCmd) : List (Nat × Nat) → Flags7 × List Nat × State → Flags7 × List Nat × State
  | [], x => x
  | r :: l, (fl, ls, s) =>
    match nmResolve w true true (c.a + BitVec.ofNat 64 (4 * r.1)) s with
    | .error _ => nmScatApply w c l (fl, ls, s)
    | .ok (p, pa, s) =>
      let v := nmAddElem c (readMem s pa 4) r.2
      nmScatApply w c l (fl ||| v.2, setInsert (pa / 64) ls, nmWrite w p pa 4 v.1 s)

/-- R455: the bytes that a granule of its destination takes, and the flags. -/
def nmResult (c : NmCmd) (old src : Nat) : Nat × Flags7 :=
  let f := nmFmt c
  match c.op with
  | 4 => cvtBytes f (nmDfmt c) (512 / fmtBits (nmDfmt c)) src
  | 5 => (joinFields 64 (List.replicate 8 c.b1.toNat), 0)
  | _ =>
    let n := 512 / fmtBits f
    joinFlagged (fmtBits f) (zipMap (nmElem c) (fieldsOf (fmtBits f) n old) (fieldsOf (fmtBits f) n src))

/-- R455: the squares of `nm.sumsq` over the bytes of a granule. -/
def nmSquares (c : NmCmd) (v : Nat) : List (FVal × Flags7) :=
  (fieldsOf (fmtBits (nmFmt c)) (512 / fmtBits (nmFmt c)) v).map (fun v => let x := elemVal (nmFmt c) v; mulVal x x)

/-- R455: `nm.sumsq` takes in the bytes `v` of the granule at its cursor: the sum of the groups so far in the low word of the scratch
value, above it the bytes of the first granule of a group of two, and the flags. -/
def nmSumStep (c : NmCmd) (v : Nat) : Nat × Flags7 :=
  let wide := decide (nmFmt c = 0)
  let acc := c.coef % 2 ^ 32
  let now := nmSquares c v
  if wide && decide (c.gran % 2 = 0) && decide (c.gran + 1 ≠ nmGrans c) then (acc + v * 2 ^ 32, 0)
  else
    let ps := if wide && decide (c.gran % 2 = 1) then nmSquares c (c.coef / 2 ^ 32) ++ now else now
    let r := addGroups [ps.map (fun p => p.1)] 64 acc
    (r.1, ps.foldl (fun f p => f ||| p.2) r.2)

/-- The command with flags raised and lines written by its granule. -/
def nmDid (c : NmCmd) (fl : Flags7) (ls : List Nat) : NmCmd :=
  { c with flags := c.flags ||| fl, wrote := ls.foldl (fun a l => setInsert l a) c.wrote }

/-- R451, R455: one granule of a command: the command with the flags it raised, the lines it wrote and its sum, and the state; or the
cause it stops with. -/
def nmGranule (die : Nat) (c : NmCmd) (s : State) : Except (BitVec 8) (NmCmd × State) :=
  let w := nmWho die c
  let off := BitVec.ofNat 64 (64 * c.gran)
  match c.op with
  | 3 =>
    (match nmSource w (c.a + off) 64 s with
      | .error e => .error e
      | .ok (v, s) => let r := nmSumStep c v; .ok ({ nmDid c r.2 [] with coef := r.1 }, s))
  | 6 =>
    (match nmSource w (c.b + off) 64 s with
      | .error e => .error e
      | .ok (v, s) =>
        let rs := nmRecords v
        if rs.any (fun r => decide (c.b1.toNat % 2 ^ 32 ≤ r.1)) then .error 0x81
        else match nmScatCheck w c.a rs s with
          | .error e => .error e
          | .ok s => let r := nmScatApply w c rs (0, [], s); .ok (nmDid c r.1 r.2.1, r.2.2))
  | _ =>
    match nmAccess w inStack (decide (c.op ≤ 2)) true (c.a + off) 64 s with
    | .error e => .error e
    | .ok (_, _, s) =>
      match (if c.op = 0 ∨ c.op = 1 ∨ c.op = 4 then nmSource w (c.b + BitVec.ofNat 64 (nmSrcStep c * c.gran)) (nmSrcStep c) s
             else .ok (0, s)) with
      | .error e => .error e
      | .ok (src, s) =>
        match nmAccess w inStack (decide (c.op ≤ 2)) true (c.a + off) 64 s with
        | .error e => .error e
        | .ok (p, pa, s) =>
          let r := nmResult c (readMem s pa 64) src
          .ok (nmDid c r.2 [pa / 64], nmWrite w p pa 64 r.1 s)

/-- R455: the result word of `nm.sumsq`, in the common memory of the owning die, is written. -/
def nmSumWrite (die : Nat) (c : NmCmd) (sum : Nat) (s : State) : Except (BitVec 8) State :=
  let w := nmWho die c
  match nmAccess w (· == .common (die % 32)) false true c.b 4 s with
  | .error e => .error e
  | .ok (p, pa, s) =>
    if barrierRefuses s pa 4 pa (pa + 4) then .error 0x43 else .ok (tagLines w p pa 4 (storeBank pa 4 sum s))

/-! ## Starting and going on (R450, R451) -/

/-- R461: the bytes that one granule reports. -/
def nmGranBytes (c : NmCmd) : Nat := match c.op with | 3 => 0 | 6 => 32 | _ => 64

/-- R462: the destination granule at the cursor of a command is poisoned. -/
def nmDstPoisoned (die : Nat) (c : NmCmd) (s : State) : Bool :=
  let w := nmWho die c
  let psn := fun (a : Word) (n : Nat) => match translate s w false true 1 a.toNat with
    | .ok (p, pa) => ptePsn p || poisoned s pa n
    | .error _ => false
  match c.op with
  | 3 => false
  | 6 =>
    (match nmSource w (c.b + BitVec.ofNat 64 (64 * c.gran)) 64 s with
      | .ok (v, _) => (nmRecords v).any (fun r => psn (c.a + BitVec.ofNat 64 (4 * r.1)) 4)
      | .error _ => false)
  | _ => psn (c.a + BitVec.ofNat 64 (64 * c.gran)) 64

/-- R462: the command in progress stops with a cause at its cursor. -/
def nmStop (die : Nat) (c : NmCmd) (cause : BitVec 8) (s : State) : State :=
  setNm s die { nm s die with active := some { c with stop := some (cause, if nmDstPoisoned die c s then 2 else 0) } }

/-- R462: the ECLS 5 record of a command. -/
def nmRecord (die : Nat) (i : Issuer) (number : BitVec 32) (gran : Nat) (cause : BitVec 8) (atc : Nat) (s : State) : State :=
  writeRecord (.engine 0) i (mkRecord 5 atc cause i 0 die (number.toNat + gran % 2 ^ 32 * 2 ^ 32)) [] s

/-- R454, R462: a command fails a check of the engine: the counter counts it, and its record has cursor 0 and ATC 0. -/
def nmRefuse (die : Nat) (c : NmCmd) (cause : BitVec 8) (s : State) : State :=
  let n := (nm s die).count + 1
  nmRecord die c.iss n 0 cause 0 (setNm s die { nm s die with count := n })

/-- R451: the command in progress performs the granule at its cursor, or stops there. (DEDUCED: log entry 36.) -/
def nmGoOn (die : Nat) (c : NmCmd) (s : State) : State :=
  match nmGranule die c s with
  | .error e => if e = 0 then s else nmStop die c e s
  | .ok (c1, t) =>
    if c.op = 3 ∧ c.gran + 1 = nmGrans c then
      (match nmSumWrite die c c1.coef t with
        | .error e => if e = 0 then s else nmStop die { c1 with coef := c.coef } e t
        | .ok t => setNm t die { nm t die with active := some { c1 with gran := c.gran + 1, done := 4 } })
    else setNm t die { nm t die with active := some { c1 with gran := c.gran + 1, done := c.done + nmGranBytes c } }

/-- R27, R457: the acquire of a fired command. -/
def nmAcquire (s : State) (c : NmCmd) : NmCmd :=
  match c.gate with
  | some (pa, _) =>
    (match barClock s pa with
      | some b => if c.iss.rdom = 0 then c else { c with iss := { c.iss with clock := mergeBlock s c.iss.agent c.iss.clock b } }
      | none => c)
  | none => c

/-- R454: the checks of a command taken from the head of the queue of the state `was`, and then `go`. While the page of its completion
barrier is being copied it stays where it was. -/
def nmChecked (die : Nat) (c : NmCmd) (was s : State) (go : State → State) : State :=
  match nmCheck c with
  | some x => nmRefuse die c x s
  | none =>
    match nmBarrier (nmWho die c) c.g1 s with
    | .error x => if x = 0 then was else nmRefuse die c x s
    | .ok (_, s) => go s

/-- R450, R456: a command that has passed its checks starts: the counter counts it. -/
def nmBegin (die : Nat) (c : NmCmd) (s : State) : State :=
  let e := nm s die
  let c := nmAcquire s { c with number := e.count + 1, slot := false }
  let s := setNm s die { e with count := e.count + 1, active := some c }
  if c.op = 0 then
    match nmCoef die c s with
    | .error x => nmStop die c x s
    | .ok (k, fl, s) => setNm s die { nm s die with active := some { c with coef := k, flags := fl } }
  else s

/-- R450: the command of a gate table that fired first, the one queued first of those that the same flip fired. -/
def nmFired (l : List NmCmd) : Option NmCmd :=
  (l.filter (fun c => c.firedAt != 0)).foldl (fun b c => match b with
    | none => some c
    | some d => if c.firedAt < d.firedAt then some c else some d) none

/-- The command has ended but for its completion. -/
def nmEnded (c : NmCmd) : Bool := c.stop.isSome || decide (nmGrans c ≤ c.gran)

/-- R450, R454: NM_COMMAND_START: an engine that is free starts a command of its gate table whose gate has fired, or checks the command at
the head of its queue and starts it or moves it into the gate table; an engine that works performs one granule. (DESIGN CHOICE: log
entry 6.) -/
def execNmCommandStart (die : Nat) (s : State) : Out :=
  let e := nm s die
  match e.active with
  | some c => if nmEnded c then .fault .noSuchUnit else .next (nmGoOn die c s)
  | none =>
    match (nmFired e.gates).filter (fun c => c.ready) with
    | some c => .next (nmBegin die c (setNm s die { e with gates := e.gates.filter (fun d => d.serial != c.serial) }))
    | none =>
      match e.queue with
      | [] => .fault .noSuchUnit
      | c :: l =>
        if c.gate.isNone || c.ready then .next (nmChecked die c s (setNm s die { e with queue := l }) (nmBegin die c))
        else if c.firedAt = 0 then
          .next (nmChecked die c s (setNm s die { e with queue := l }) (fun s => setNm s die { nm s die with gates := (nm s die).gates ++ [c] }))
        else .next s

/-! ## Ends (R459, R461, R462) -/

/-- R461: the report of a command to its completion barrier; the cause when it cannot be made or the object refuses it. -/
def nmReport (die : Nat) (c : NmCmd) (n : Nat) (s : State) : Except (BitVec 8) State :=
  match nmBarrier (nmWho die c) c.g1 s with
  | .error e => .error e
  | .ok (none, s) => .ok s
  | .ok (some pa, s) => match barUpdate (.complete n) pa (0, 0) s with
    | some s => .ok s
    | none => .error 0x43

/-- R459, R461: NM_COMPLETION: a command that has ended invalidates the lines it wrote, once their homes serve no request; its flags reach the
thread, its barrier has its report, which waits for a copy of its page in progress, and a stop has its record. -/
def execNmCompletion (die : Nat) (s : State) : Out :=
  match (nm s die).active with
  | none => .fault .noSuchUnit
  | some c =>
    if !nmEnded c then .fault .noSuchUnit
    else if (c.g1 ≠ 0 ∧ copyBusy s die c.iss.asid c.g1.toNat = true) ∨ c.wrote.any (fun l => lineBusy s (64 * l)) = true then .next s
    else
      let s := c.wrote.foldl (fun s l => dropCopies l s) (setNm s die { nm s die with active := none })
      let s := cmdFlags c.iss c.flags s
      match c.stop with
      | none =>
        (match nmReport die c c.done s with
          | .ok s => .next s
          | .error e => .next (nmRecord die c.iss c.number c.gran e 0 s))
      | some (cause, atc) =>
        let s := (nmReport die c c.done s).toOption.getD s
        .next (nmRecord die c.iss c.number c.gran cause atc s)

/-- R462: the read of the granule at the cursor of a command in progress touches a granule of memory. -/
def nmReads (die : Nat) (c : NmCmd) (s : State) (granule : Nat) : Bool :=
  let w := nmWho die c
  let hit := fun (a : Word) (n : Nat) => (List.range ((n + 63) / 64)).any (fun i =>
    match translate s w true false 1 (a + BitVec.ofNat 64 (64 * i)).toNat with
    | .ok (_, pa) => pa / 64 == granule
    | .error _ => false)
  let off := BitVec.ofNat 64 (64 * c.gran)
  match c.op with
  | 0 => hit (c.a + off) 64 || hit (c.b + off) 64
  | 1 => hit (c.a + off) 64 || hit (c.b + off) 64
  | 2 => hit (c.a + off) 64
  | 3 => hit (c.a + off) 64
  | 4 => hit (c.b + BitVec.ofNat 64 (nmSrcStep c * c.gran)) (nmSrcStep c)
  | 5 => false
  | _ => hit (c.b + off) 64 || (match nmSource w (c.b + off) 64 s with
      | .ok (v, _) => (nmRecords v).any (fun r => hit (c.a + BitVec.ofNat 64 (4 * r.1)) 4)
      | .error _ => false)

/-- R462, R480: an uncorrectable error is found in a granule of memory: a command in progress that reads it at its cursor stops with
cause 0x80, which HBMCMD counts with the granule's address. -/
def nmError (granule : Nat) (s : State) : State :=
  s.nms.foldl (fun s p => match (nm s p.1).active with
    | some c => if !nmEnded c && nmReads p.1 c s granule then rasCount p.1 9 0x80 (64 * granule) (nmStop p.1 c 0x80 s) else s
    | none => s) s

/-! ## Issue (R452, R454, R457, R458) -/

/-- R450: entries of the gate table held. -/
def nmHeld (e : Nm) : Nat := (e.queue.filter (fun c => c.slot)).length + (e.gates.filter (fun c => c.slot)).length

/-- A command joins the queue of an engine, its lines recalled. -/
def nmAccept (die : Nat) (c : NmCmd) (s : State) : Out :=
  let s := nmRecall die c s
  .next (finish (setNm { s with serial := s.serial + 1 } die { nm s die with queue := (nm s die).queue ++ [{ c with serial := s.serial }] }))

/-- R457: a gated command is armed and joins the queue. (DEDUCED: log entry 35.) -/
def nmArm (die pa : Nat) (c : NmCmd) (s : State) : Out :=
  let p := c.g.getLsbD 0
  if barPhase (barRead s pa) != p then nmAccept die { c with gate := some (pa, p), firedAt := s.serial + 1, ready := true } s
  else if 32 ≤ nmHeld (nm s die) then blockOn s
  else nmAccept die { c with gate := some (pa, p), slot := true } (barArm pa p die s).2

/-- R454: issue of a near-memory command whose operands are read; `w` is its word. -/
def nmIssue (op : Nat) (a b g : Fin 16) (s : State) : Out :=
  match s.cur with
  | .thread k =>
    let plain := decide (g = 0)
    let ea := x s (pairLo a)
    let found := translate s (whoC s k) true false 1 ea.toNat
    let s := noteTried (whoC s k) ea s
    match found with
    | .error e => raise e ea s
    | .ok (p, pa) =>
      match placeOf pa with
      | .hbm d =>
        if pteMc p = true ∨ devOf pa ≠ devOfDie (dieOfThread k) then raise 0x13 ea s
        else
          let die := dieKey (devOf pa) d
          let c : NmCmd :=
            { iss := issuerNow s k (pcOf s), serial := 0, op := op, a := ea, a1 := x s (pairHi a), b := x s (pairLo b), b1 := x s (pairHi b),
              g := if plain then 0 else x s (pairLo g), g1 := if plain then 0 else x s (pairHi g), plain := plain, gate := none,
              firedAt := 0, slot := false, ready := false, coef := 0, number := 0, gran := 0, done := 0, flags := 0, wrote := [], stop := none }
          if orderWaits s || recallBusy die c s then stall s
          else if 64 ≤ (nm s die).queue.length then blockOn s
          else if c.g = 0 then nmAccept die c s
          else if nmGateBad c then .next (finish (nmRecord die c.iss (nm s die).count 0 0x01 0 s))
          else match nmObject (nmWho die c) (nmGateAddr c) s with
            | .error e => if e = 0 then stall s else .next (finish (nmRecord die c.iss (nm s die).count 0 e 0 s))
            | .ok (pa, s) => nmArm die pa c s
      | _ => raise 0x13 ea s
  | _ => raise 0x01 (formWord 48 (2 * a.val) (2 * b.val) (2 * g.val) op) s

/-- R455, R456: `nm.sgdf`. -/
def execNmSgdf (a b g : Fin 16) (s : State) : Out := nmIssue 0 a b g s
/-- R455: `nm.axpy`. -/
def execNmAxpy (a b g : Fin 16) (s : State) : Out := nmIssue 1 a b g s
/-- R455: `nm.scale`. -/
def execNmScale (a b g : Fin 16) (s : State) : Out := nmIssue 2 a b g s
/-- R455: `nm.sumsq`. -/
def execNmSumsq (a b g : Fin 16) (s : State) : Out := nmIssue 3 a b g s
/-- R455: `nm.cast`. -/
def execNmCast (a b g : Fin 16) (s : State) : Out := nmIssue 4 a b g s
/-- R455: `nm.fill`. -/
def execNmFill (a b g : Fin 16) (s : State) : Out := nmIssue 5 a b g s
/-- R455: `nm.scatadd`. -/
def execNmScatadd (a b g : Fin 16) (s : State) : Out := nmIssue 6 a b g s

/-! ## Firing (R26, R450, R457) -/

/-- R457, R458: the firing of the gated command with an index among those an engine holds, its gate table first: its lines are
recalled, and it may start. -/
def nmFire (die index : Nat) (s : State) : Out :=
  let e := nm s die
  match (e.gates ++ e.queue)[index]? with
  | some c =>
    if c.gate.isSome ∧ c.firedAt ≠ 0 ∧ c.ready = false ∧ recallBusy die c s = true then .next s
    else if c.gate.isSome ∧ c.firedAt ≠ 0 ∧ c.ready = false then
      let s := nmRecall die c s
      let mark := fun (d : NmCmd) => if d.serial = c.serial then { d with ready := true } else d
      .next (setNm s die { nm s die with queue := (nm s die).queue.map mark, gates := (nm s die).gates.map mark })
    else .fault .noSuchUnit
  | none => .fault .noSuchUnit

/-- R26, R318: the firing of an armed command of a copy engine: it performs its acquire and joins the queue. -/
def copyFire (n index : Nat) (s : State) : Out :=
  let e := engine s n
  match e.armed[index]? with
  | some a =>
    if !a.fired then .fault .noSuchUnit
    else if 64 ≤ e.queue.length then .next s
    else .next (setEngine s n { e with armed := e.armed.eraseIdx index, queue := e.queue ++ [firedCmd s a.obj a.cmd] })
  | none => .fault .noSuchUnit

/-- R128: the object of an armed command has flipped, and the reset of its domain that the flip takes is due. -/
def fireHeld (s : State) (rdom : BitVec 8) (obj : Option Nat) : Bool :=
  match obj with
  | some pa => barClk (barRead s pa) && (dom s rdom).due
  | none => false

/-- R26, R128: ARMED_COMMAND_FIRE: the flip event of an armed command reaches its engine, once a reset that it takes is done. -/
def execArmedCommandFire (near : Bool) (u index : Nat) (s : State) : Out :=
  if near then
    (match ((nm s u).gates ++ (nm s u).queue)[index]? with
      | some c => if fireHeld s c.iss.rdom (c.gate.map (·.1)) then .next s else nmFire u index s
      | none => .fault .noSuchUnit)
  else
    (match (engine s u).armed[index]? with
      | some a => if fireHeld s a.cmd.iss.rdom (some a.obj) then .next s else copyFire u index s
      | none => .fault .noSuchUnit)

/-! ## Waiting and status (R464, R465) -/

/-- Every command of the thread of a slot that an engine holds. -/
def nmOwn (s : State) (k : Nat) : List NmCmd :=
  s.nms.flatMap (fun p => (p.2.queue ++ p.2.gates ++ p.2.active.toList).filter (fun c => ofThread k (thr s k).bind c.iss))

/-- R464: the command is held at a gate that had not fired by an instant. -/
def nmUnfired (t : Nat) (c : NmCmd) : Bool := c.gate.isSome && (c.firedAt == 0 || decide (t < c.firedAt))

/-- R464: `nm.wait`. The instant it executes is kept while it waits. -/
def execNmWait (s : State) : Out :=
  match s.cur with
  | .thread k =>
    let t := thr s k
    let n := t.snap.getD s.serial
    if (nmOwn s k).all (nmUnfired n) then .next (finish (setThr s k { t with snap := none }))
    else blockOn (setThr s k { t with snap := some n })
  | _ => raise 0x01 (formWord 49 0 0 0 0) s

/-- R464: `nm.wait all`. -/
def execNmWaitAll (s : State) : Out :=
  match s.cur with
  | .thread k => if (nmOwn s k).isEmpty then .next (finish s) else blockOn s
  | _ => raise 0x01 (formWord 49 0 0 1 0) s

/-- R465: `nm.stat`. -/
def execNmStat (d : Fin 32) (s : State) : Out :=
  match s.cur with
  | .thread k =>
    let l := nmOwn s k
    writeOn d (BitVec.ofNat 64 (l.length % 2 ^ 16 + (l.filter (fun c => c.gate.isSome && c.firedAt == 0)).length % 2 ^ 16 * 2 ^ 16)) s
  | _ => raise 0x01 (formWord 49 d.val 0 0 1) s

end Sys2Proof.Machine
end

