-- ==== Sys2Proof/Machine/Directory.lean ====
section
/-! DEFINITION. The directory of a line's home and the copies in LLCs (R337, R338): the requests it serves and their messages.
Loads and stores of the model act on memory at once, so these steps change no value that a program reads, but for copies that a
near-memory write has left behind (R459). -/

namespace Sys2Proof.Machine

/-- A copy enters the LLC of a die, which makes room for it (R3). -/
def addLlc (die line : Nat) (c : LlcLine) (s : State) : State :=
  let s := if (tabGet none s.llc (die * 2 ^ 46 + line)).isSome then s else llcRoom die s
  { s with llc := tabSet none s.llc (die * 2 ^ 46 + line) (some c) }

/-- The line is HBM of a device of the domain's address space. -/
def isHbmLine (line : Nat) : Bool :=
  decide (line < 2 ^ 46) && (match placeOf (line * 64) with | .hbm k => decide (k < 24) | _ => false)

/-- The home die of an HBM line. -/
def lineHome (line : Nat) : Nat := dieKey (devOf (line * 64)) (localOf (line * 64) / 0x1000000000)

/-- R337: a die's read-shared of a line, from request to copy. -/
def shareLine (die line : Nat) (s : State) : State :=
  if (llcCopy s die line).isSome then s
  else
    let s := demote (lineHome line) line (fetchOwner line s)
    let s := if die = lineHome line then s else setDir line (addSharer die (dirEntry s line)) s
    addLlc die line ⟨.shared, none, 0⟩ s

/-- R346: every M copy of a line is written back, and copies stay. -/
def cleanLine (line : Nat) (s : State) : State :=
  let dies := s.llc.filterMap (fun e => if e.1 % 2 ^ 46 = line then some (e.1 / 2 ^ 46) else none)
  dies.foldl (fun s d => demote d line s) (fetchOwner line s)

/-- R338: the dies that an invalidation of a line goes to, but for the requester: the owner, the sharers, or every die of every
domain device in the marked rows; and the home die when it holds a copy. -/
def invTargets (s : State) (line die : Nat) : List Nat :=
  let e := dirEntry s line
  let home := lineHome line
  let l := if e.overflow then
      ((List.range 256).filter (fun d => e.rows.getLsbD (d / 16) && inDomain s (devOfDie home) d)).flatMap
        (fun d => (List.range 24).map (fun k => dieKey d k))
    else e.owner.toList ++ e.sharers
  ((if (llcCopy s home line).isSome then home :: l else l).filter (· != die)).eraseDups

/-- R337: the last acknowledgement has come: the requester is the owner. -/
def grant (line : Nat) (s : State) : State :=
  let e := dirEntry s line
  let owned := fun (die : Nat) => { dirCleared e with owner := if die = lineHome line then none else some die }
  match e.req with
  | some (.upgrade, die) =>
    addLlc die line (match llcCopy s die line with | some c => { c with st := .exclusive } | none => ⟨.exclusive, none, 0⟩)
      (setDir line { owned die with req := none } s)
  | some (.readExclusive, die) => setDir line (owned die) s
  | _ => s

/-- R337: the home begins to serve a request of a die for a line. -/
def dirServe (r : DirReq) (line die : Nat) (s : State) : State :=
  match r with
  | .readShared =>
    let s := demote (lineHome line) line (fetchOwner line s)
    let e := dirEntry s line
    setDir line { (if die = lineHome line then e else addSharer die e) with req := some (.readShared, die) } s
  | r =>
    let l := invTargets s line die
    let s := setDir line { dirEntry s line with req := some (r, die), acks := l } s
    if l.isEmpty then grant line s else s

/-- R337: the home goes on with the requests that wait, in arrival order, until one has to wait itself. -/
def dirGo (line : Nat) : Nat → State → State
  | 0, s => s
  | n + 1, s =>
    let e := dirEntry s line
    match e.req, e.queue with
    | none, (r, die) :: l => dirGo line n (dirServe r line die (setDir line { e with queue := l } s))
    | _, _ => s

/-- R337: the home is free for the next request. -/
def dirNext (line : Nat) (s : State) : State := dirGo line (dirEntry s line).queue.length s

/-- R337: a request of a die for a line reaches the home, which serves the requests for each line one at a time in arrival order. -/
def dirRequest (r : DirReq) (line die : Nat) (s : State) : Out :=
  if !isHbmLine line || !isDie die then .fault .noSuchUnit
  else .next (dirNext line (setDir line { dirEntry s line with queue := (dirEntry s line).queue ++ [(r, die)] } s))

/-- R337: READ_SHARED. -/
def execReadShared (line die : Nat) (s : State) : Out := dirRequest .readShared line die s
/-- R337: READ_EXCLUSIVE. -/
def execReadExclusive (line die : Nat) (s : State) : Out := dirRequest .readExclusive line die s
/-- R337: UPGRADE. -/
def execUpgrade (line die : Nat) (s : State) : Out := dirRequest .upgrade line die s

/-- R337: INVALIDATE: a die gives up its copy, an M copy merged first. -/
def execInvalidate (line die : Nat) (s : State) : Out :=
  if !(dirEntry s line).acks.contains die then .fault .noSuchUnit
  else .next (setLlc die line none (demote die line s))

/-- R337: INVALIDATE_ACKNOWLEDGEMENT: the home counts it; the last one grants the request. -/
def execInvalidateAcknowledgement (line die : Nat) (s : State) : Out :=
  let e := dirEntry s line
  if !e.acks.contains die || (llcCopy s die line).isSome then .fault .noSuchUnit
  else
    let l := e.acks.filter (· != die)
    let s := setDir line { e with acks := l } s
    .next (if l.isEmpty then dirNext line (grant line s) else s)

/-- R337: DATA_RESPONSE: the requester has the line. -/
def execDataResponse (line die : Nat) (s : State) : Out :=
  let e := dirEntry s line
  if !e.acks.isEmpty then .fault .noSuchUnit
  else match e.req with
    | some (.readShared, d) =>
      if d = die then .next (dirNext line (addLlc die line ⟨.shared, none, 0⟩ (setDir line { e with req := none } s)))
      else .fault .noSuchUnit
    | some (.readExclusive, d) =>
      if d = die then .next (dirNext line (addLlc die line ⟨.exclusive, none, 0⟩ (setDir line { e with req := none } s)))
      else .fault .noSuchUnit
    | _ => .fault .noSuchUnit

/-- R337: WRITE_BACK: a die evicts its M copy; the entry is U. -/
def execWriteBack (line die : Nat) (s : State) : Out :=
  match llcCopy s die line with
  | some ⟨.modified, _, _⟩ => .next (setDir line { dirEntry s line with owner := none } (setLlc die line none (demote die line s)))
  | _ => .fault .noSuchUnit

/-- R337: UNCACHED_READ: an M owner keeps S, and no sharer is added. A request that finds another in service waits. -/
def execUncachedRead (line : Nat) (s : State) : Out :=
  if isHbmLine line then .next (if (dirEntry s line).req.isSome then s else fetchOwner line s) else .fault .noSuchUnit

/-- R340: REMOTE_ATOMIC: the home merges an M owner's line and leaves no copy; the atomic that `amo.*` carries out is its read and
write. -/
def execRemoteAtomic (line : Nat) (s : State) : Out :=
  if isHbmLine line then .next (if (dirEntry s line).req.isSome then s else recallLine line s) else .fault .noSuchUnit

/-- R350: MULTICAST_READ: a member serves its part of a load from an aperture, as an uncached read of a line given by its local
address. -/
def execMulticastRead (member line : Nat) (s : State) : Out :=
  let l := member % 256 * 2 ^ 38 + line % 2 ^ 38
  if member < 256 then .next (if isHbmLine l && (dirEntry s l).req.isNone then fetchOwner l s else s) else .fault .noSuchUnit

end Sys2Proof.Machine
end

