-- ==== Sys2Proof/Machine/LinkIssue.lean ====
section
/-! DEFINITION. Majors 0x32 and 0x33 (R342..R347): ordered flags, line operations, counts, acknowledgements, link status. -/

namespace Sys2Proof.Machine

/-! ## Ordered flags (R342, R343) -/

/-- R342, R343: a C or V write of the thread that is no PEER-PUSH write is not performed: one to the host, an ordered flag or a copy of
a multicast write that went through a leaf with PUSH = 0. -/
def postedPending (s : State) (i : Issuer) : Bool :=
  s.packets.any (fun p => (p.kind == .host || !p.ppush) && (p.cpath || p.vpath) && !p.performed && p.thread == i.thread && p.bind == i.bind)

/-- R342: an ordered flag to a checked page, which its home checks as it is performed, has counted writes before it that must be
performed first. (DEDUCED: log entry 62.) -/
def flagAhead (s : State) (w : Who) (p : Word) (pa : Nat) : Bool :=
  let dests := if pteMc p then groupMembers (groupEntry s w p) else [devOf pa]
  pteChk p && s.packets.any (fun q => !q.performed && q.die == w.die && dests.contains q.dest && q.epoch == (pair s w.die q.dest).epoch)

/-- R342: the flag's course to a peer or to the members of an aperture, once its address is resolved. -/
def flagSend (n : Nat) (w : Who) (p : Word) (pa : Nat) (ea : Word) (v : Nat) (s : State) : Out :=
  let blk := syncFor s w p pa
  if orderWaits s || postedPending s w.iss || flagAhead s w p pa then stall s
  else match (if blk.isSome then epochGate s else .go s) with
    | .stop o => o
    | .go s =>
      let sent : Res Unit :=
        if pteMc p then multicastStore .flag w p pa n v s
        else if racing s w p pa n then .exc 0x20 s
        else if barrierRefuses s pa n pa (pa + n) then .exc 0x43 s
        else pushTo .flag w p pa n v s
      match sent with
      | .exc 0x43 s => accessFault 0x43 (ea - BitVec.ofNat 64 (ea.toNat % 16)) s
      | r => closeAccess ea r (fun _ s => .next (finish (if blk.isSome then curEpochStep (curJoin blk s) else s)))

/-- R342: an ordered flag of `n` bytes. -/
def flagStore (n : Nat) (word : Word) (d a : Fin 32) (s : State) : Out :=
  match s.cur with
  | .thread k =>
    let ea := x s a
    let w := whoC s k
    if cWaits s then stall s
    else match resolve s w false true n ea with
      | .exc e s => accessFault e ea s
      | .lost e s => accessLost e s
      | .wait s => stall s
      | .ok q s =>
        if pteMc q.1 = false ∧ devOf q.2 = devOfDie w.die then releaseStore n ea (x s d).toNat s
        else flagSend n w q.1 q.2 ea (x s d).toNat s
  | _ => raise 0x01 word s

/-- R342: `st.flag`. (DEDUCED: log entry 38.) -/
def execStFlag (d a : Fin 32) (s : State) : Out := flagStore 8 (formWord 50 d.val a.val 0 0) d a s
/-- R342: `st.flag.32`. -/
def execStFlag32 (d a : Fin 32) (s : State) : Out := flagStore 4 (formWord 50 d.val a.val 0 1) d a s

/-! ## Line operations (R346) -/

/-- R346: `lk.pref`. -/
def execLkPref (a : Fin 32) (s : State) : Out :=
  match s.cur with
  | .thread k =>
    let w := whoC s k
    let found := translate s w true false 1 (x s a).toNat
    if cWaits s then stall s
    else
      let s := noteTried w (x s a) s
      match found with
      | .error _ => .next (finish s)
      | .ok (p, pa) =>
        if pteMc p || ptePsn p || pteDev p || (ptePush p && devOf pa != devOfDie w.die) || !isHbmLine (pa / 64)
            || (llcCopy s w.die (pa / 64)).isSome then .next (finish s)
        else if lineBusy s pa then stall s
        else .next (finish (shareLine w.die (pa / 64) s))
  | _ => raise 0x01 (formWord 50 0 a.val 0 2) s

/-- R346: `lk.flush` and `lk.inval` act on a line whose address translates as a C load's does. -/
def lineForm (word : Word) (f : Nat → State → State) (a : Fin 32) (s : State) : Out :=
  match s.cur with
  | .thread k =>
    let found := translate s (whoC s k) true false 1 (x s a).toNat
    let ea := x s a
    if cWaits s then stall s
    else
      let s := noteTried (whoC s k) ea s
      match found with
      | .error c => accessFault c ea s
      | .ok (p, pa) =>
        if pteMc p = true ∨ isHbmLine (pa / 64) = false then .next (finish s)
        else if lineBusy s pa then stall s
        else .next (finish (f (pa / 64) s))
  | _ => raise 0x01 word s

/-- R346: `lk.flush`. -/
def execLkFlush (a : Fin 32) (s : State) : Out := lineForm (formWord 50 0 a.val 0 3) cleanLine a s
/-- R346: `lk.inval`. -/
def execLkInval (a : Fin 32) (s : State) : Out := lineForm (formWord 50 0 a.val 0 4) recallLine a s

/-! ## Counts and acknowledgements (R344, R345) -/

/-- R344: the counted writes of a die to a destination on a path, sent and not acknowledged. -/
def pathCount (s : State) (die dest path : Nat) : Nat := ((unacked s die dest).filter (fun p => p.path.val == path)).length

/-- R344: `pcount`. -/
def execPcount (d a : Fin 32) (path : Fin 4) (s : State) : Out :=
  match s.cur with
  | .thread k =>
    let v := (x s a).toNat
    let die := dieOfThread k
    if orderWaits s then stall s
    else writeOn d (if 255 < v ∨ v = devOfDie die then 0 else BitVec.ofNat 64 (pathCount s die v path.val)) s
  | _ => raise 0x01 (formWord 51 d.val a.val path.val 0) s

/-- R345: `fence.ack`. -/
def execFenceAck (a : Fin 32) (s : State) : Out :=
  match s.cur with
  | .thread k =>
    let v := x s a
    if a ≠ 0 ∧ 255 < v.toNat then raise 0x70 v s
    else if orderWaits s then stall s
    else if a ≠ 0 ∧ v.toNat = devOfDie (dieOfThread k) then .next (finish s)
    else fenceAckTo (if a = 0 then none else some v.toNat) s
  | _ => raise 0x01 (formWord 51 0 a.val 0 1) s

/-! ## Status (R347) -/

/-- R331: the peer device of a port from 0 to 29. -/
def peerOf (me p : Nat) : Nat :=
  if p < 15 then me / 16 * 16 + (if p < me % 16 then p else p + 1)
  else (if p - 15 < me / 16 then p - 15 else p - 14) * 16 + me % 16

/-- R347: a port as `lk.stat` reports it: whether it is up, whether it replays, its peer, and its own link's retries. -/
def portWord (s : State) (dev port peer : Nat) (up : Bool) : Nat :=
  up.toNat + (s.replaying.contains (dev * 32 + port)).toNat * 2 + peer % 256 * 2 ^ 8 + min (tabGet 0 s.retries (dev * 32 + port)) 0xFFFFFFFF * 2 ^ 16

/-- R347: the status of a port of a device. -/
def portStatus (s : State) (dev p : Nat) : Nat :=
  let own := !s.linksDown.contains (dev * 32 + p)
  if p < 30 then
    let peer := peerOf dev p
    portWord s dev p peer (own && inDomain s dev peer && !s.linksDown.contains (peer * 32 + portTo peer dev))
  else if p = 30 then
    let r := port30 s dev
    if r.testBit 5 = false ∨ 30 ≤ r % 32 then 0
    else
      let peer := peerOf dev (r % 32)
      portWord s dev 30 peer (own && inDomain s dev peer && !s.linksDown.contains (peer * 32 + carrier s peer (portTo peer dev)))
  else if dev % 16 = 0 then portWord s dev 31 dev own
  else 0

/-- R347: the status of a destination. -/
def destStatus (s : State) (die n : Nat) : Nat :=
  let p := pair s die n
  let l := unacked s die n
  let oldest := match l with | q :: _ => q.seq | [] => p.next
  p.next.toNat + oldest.toNat * 2 ^ 16 + l.length % 2 ^ 13 * 2 ^ 32 + p.lost.toNat * 2 ^ 48 + p.epoch.toNat * 2 ^ 49

/-- R347: what `lk.stat` returns for a selector. -/
def linkStatus (s : State) (die v : Nat) : Nat :=
  if v < 32 then portStatus s (devOfDie die) v
  else if 0x100 ≤ v ∧ v < 0x200 then destStatus s die (v - 0x100)
  else if 0x200 ≤ v ∧ v < 0x210 then ((tabGet [] s.lossLog die).getD (v - 0x200) 0).toNat
  else if v = 0x210 then tabGet 0 s.lossCount die % 2 ^ 32
  else 0

/-- R347: `lk.stat`. -/
def execLkStat (d a : Fin 32) (s : State) : Out :=
  match s.cur with
  | .thread k => writeOn d (BitVec.ofNat 64 (linkStatus s (dieOfThread k) (x s a).toNat)) s
  | _ => raise 0x01 (formWord 51 d.val a.val 0 2) s

end Sys2Proof.Machine
end

