-- ==== Sys2Proof/Machine/Fabric.lean ====
section
/-! DEFINITION. The steps of the fabric (R337, R341, R342, R351..R353): packets performed, acknowledged, discarded and sent again,
links down and up, and the loss of a pair. -/

namespace Sys2Proof.Machine

/-- A counted write in flight. -/
def packetAt (s : State) (id : Nat) : Option Packet := s.packets.find? (fun p => p.id == id)

/-- R337, R341: PUSH_WRITE: the destination performs a push write, or the bridge issues a host write. One that must wait waits. -/
def execPushWrite (id : Nat) (s : State) : Out :=
  match packetAt s id with
  | none => .fault .noSuchUnit
  | some p =>
    if p.kind = .flag ∨ p.performed = true then .fault .noSuchUnit
    else .next (if canPerform s p then performPacket p s else s)

/-- R342: FLAG_RELEASE: a held flag is performed once every counted write sent before it is. -/
def execFlagRelease (id : Nat) (s : State) : Out :=
  match packetAt s id with
  | none => .fault .noSuchUnit
  | some p =>
    if p.kind ≠ .flag ∨ p.performed = true then .fault .noSuchUnit
    else .next (if canPerform s p then performPacket p s else s)

/-- R341: WRITE_ACKNOWLEDGEMENT. -/
def execWriteAcknowledgement (id : Nat) (s : State) : Out :=
  match packetAt s id with
  | none => .fault .noSuchUnit
  | some p => if p.performed then .next (ackPacket p s) else .fault .noSuchUnit

/-- R351: a counted write that has not been performed is sent again on an available path; with none it stays where it is. -/
def resend (p : Packet) (s : State) : State :=
  let dev := devOfDie p.die
  if [0, 1, 2, 3].any (pathUp s dev p.dest) then
    let r := choosePath s p.die p.dest p.iss.cls p.seq
    { r.2 with packets := r.2.packets.map (fun q => if q.id = p.id then { q with path := r.1, gone := false } else q) }
  else s

/-- R351: RESPONSE_OVERDUE. A performed write's duplicate is dropped by its SEQ and epoch; a queue record that a router discarded is sent
again. -/
def execResponseOverdue (id : Nat) (s : State) : Out :=
  match packetAt s id, iqPacketAt s id with
  | some p, _ => .next (if p.performed then s else resend p s)
  | none, some p =>
    .next (if [0, 1, 2, 3].any (pathUp s (devOfDie p.die) (p.handle.toNat / 2 ^ 13)) then
      { s with iqPackets := s.iqPackets.map (fun q => if q.id = id then { q with gone := false } else q) } else s)
  | none, none => .fault .noSuchUnit

/-- R335, R352, R480: ROUTER_FLIT_DISCARD: a router of a die discards a flit and counts it. A counted write or a queue record that it carries is
gone until it is sent again; a request, a response or an acknowledgement, which the fabric repeats (R351), has no number here. `flit` is the packet's number and the router's die. -/
def execRouterFlitDiscard (flit : Nat × Nat) (s : State) : Out :=
  let (id, die) := flit
  if !isDie die then .fault .noSuchUnit
  else match packetAt s id, iqPacketAt s id with
  | some p, _ =>
    if p.performed ∨ p.gone then .fault .noSuchUnit
    else
      let s := { s with packets := s.packets.map (fun q => if q.id = id then { q with gone := true } else q) }
      .next (rasCount die 10 0 ((p.pieces.map (fun q => q.1)).headD 0) s)
  | none, some p =>
    if p.gone = true ∨ devOfDie p.die = p.handle.toNat / 2 ^ 13 then .fault .noSuchUnit
    else .next (rasCount die 10 0 0 { s with iqPackets := s.iqPackets.map (fun q => if q.id = id then { q with gone := true } else q) })
  | none, none => .next (rasCount die 10 0 0 s)

/-- A port of a device that has a link. -/
def isPort (s : State) (dev p : Nat) : Bool :=
  decide (dev < 256) && (decide (p < 30) || (p == 30 && (port30 s dev).testBit 5) || (p == 31 && dev % 16 == 0))

/-- R351, R347: LINK_REPLAY: a link counts a retry and is in a replay. -/
def execLinkReplay (dev port : Nat) (s : State) : Out :=
  if isPort s dev port then
    let n := tabGet 0 s.retries (dev * 32 + port)
    .next { s with
      retries := tabSet 0 s.retries (dev * 32 + port) (min (n + 1) 0xFFFFFFFF)
      replaying := setInsert (dev * 32 + port) s.replaying }
  else .fault .noSuchUnit

/-- R347: the replay of the lowest link that is in one ends. (DEDUCED: log entry 37.) -/
def replayEnd (s : State) : State := { s with replaying := s.replaying.drop 1 }

/-- R351: LINK_DOWN: the link is down, and counted writes whose path it broke are sent again. -/
def execLinkDown (dev port : Nat) (s : State) : Out :=
  if isPort s dev port then
    let s := { s with linksDown := setInsert (dev * 32 + port) s.linksDown, replaying := setErase (dev * 32 + port) s.replaying }
    let broken := s.packets.filter (fun p => !p.performed && !pathUp s (devOfDie p.die) p.dest p.path.val)
    .next (broken.foldl (fun s p => resend p s) s)
  else .fault .noSuchUnit

/-- R347: LINK_UP. -/
def execLinkUp (dev port : Nat) (s : State) : Out :=
  if isPort s dev port then .next { s with linksDown := setErase (dev * 32 + port) s.linksDown } else .fault .noSuchUnit

/-! ## Loss (R352, R353) -/

/-- R353: a write to the loss log of a die. -/
def lossEntry (die : Nat) (w : Word) (s : State) : State :=
  let n := tabGet 0 s.lossCount die
  let l := tabGet [] s.lossLog die
  let l := (if l.isEmpty then List.replicate 16 0 else l).set (n % 16) w
  { s with lossLog := tabSet [] s.lossLog die l, lossCount := tabSet 0 s.lossCount die (n + 1) }

/-- R353: the ACK mask from a first SEQ. -/
def ackMask (acked : List (BitVec 16)) (first : BitVec 16) : Nat :=
  (List.range 256).foldl (fun m j => if acked.contains (first + BitVec.ofNat 16 j) then m + 2 ^ j else m) 0

/-- R353: a thread's record of its writes lost with a pair: the log entry, then the record. `l` are its lost writes in order. -/
def lossRecord (die dest : Nat) (l : List Packet) (s : State) : State :=
  match l with
  | [] => s
  | p :: _ =>
    let k := p.thread
    let c := core s (coreOfThread k)
    let ring := (c.fqHead.toNat + c.held.length) % 64
    let addr := BitVec.ofNat 64 (c.fqBase.toNat * 4096 + 64 * ring)
    let s := lossEntry die (BitVec.ofNat 64 (dest + threadId k * 2 ^ 8 + p.seq.toNat * 2 ^ 20 + ring * 2 ^ 36 + 2 ^ 42)) s
    let pr := pair s die dest
    let s := setPair s die dest { pr with lostWrites := pr.lostWrites ++ l.map (fun q => ⟨q.id, k, q.bind, addr⟩) }
    writeRecord (.engine 0) p.iss (mkRecord 7 0 0x71 p.iss 0 die (p.seq.toNat + ackMask pr.acked p.seq * 2 ^ 128)) [] s

/-- The die of the requester that requests to the host are kept under. -/
def dieOfRequester (r : Nat) : Nat :=
  if r < 2 ^ 21 then dieOfThread r else if r < 2 ^ 22 then dieOfCore (r - 2 ^ 21) else if r < 2 ^ 23 then (r - 2 ^ 22) / 4
  else if r < 2 ^ 24 then (r - 2 ^ 23) * 32 else if r < 2 ^ 25 then dieOfThread (r - 2 ^ 24) else r - 2 ^ 25

/-- R345: a waiting `fence.ack` of the thread covers a lost write. -/
def covered (s : State) (w : LostWrite) : Bool :=
  (thr s w.thread).bind == w.bind && (match (thr s w.thread).snap with | some n => decide (w.id < n) | none => false)

/-- R352: outstanding reads and atomics of a pair fail. -/
def loseRequests (die dest : Nat) (s : State) : State :=
  { s with hostReqs := s.hostReqs.map (fun e =>
      if dieOfRequester e.1 = die then
        (e.1, e.2.map (fun h => if devOf h.pa = dest ∧ h.answer = none then { h with answer := some (255, 0) } else h))
      else e) }

/-- R320, R329: commands of the die's copy engines keep what they lose with a pair. -/
def loseCommands (die : Nat) (ids : List Nat) (s : State) : State :=
  [0, 1, 2, 3].foldl (fun s e =>
    let g := engine s (die * 4 + e)
    setEngine s (die * 4 + e) { g with
      queue := g.queue.map (noteCmdLoss ids)
      colls := g.colls.map (fun l => { l with cmd := noteCmdLoss ids l.cmd }) }) s

/-- R352: LINK_LOSS: the pair of a die and a destination device is lost. -/
def execLinkLoss (die dest : Nat) (s : State) : Out :=
  if !isDie die || !inDomain s (devOfDie die) dest || dest == devOfDie die || (pair s die dest).lost then .fault .noSuchUnit
  else
    let l := unacked s die dest
    let xs := l.filter (fun p => !p.cpath && !p.vpath)
    let cv := l.filter (fun p => p.cpath || p.vpath)
    let s := { s with packets := s.packets.filter (fun p => !(p.die == die && p.dest == dest)) }
    let pr := pair s die dest
    let s := setPair s die dest { pr with lost := true, lostWrites := pr.lostWrites }
    let s := loseCommands die (xs.map (fun p => p.id)) s
    let s := ((cv.map (fun p => (p.thread, p.bind))).eraseDups).foldl (fun s b =>
      lossRecord die dest (cv.filter (fun p => p.thread == b.1 && p.bind == b.2)) s) s
    .next (iqLoss die dest (loseRequests die dest s))

/-- R352: a store to LRESET. What a waiting `fence.ack` covers stays reported until it ends (R345). -/
def resetLoss (die dest : Nat) (s : State) : State :=
  let pr := pair s die dest
  setPair s die dest { pr with lost := false, epoch := pr.epoch + 1, lostWrites := pr.lostWrites.filter (covered s) }

/-- R352: LRESET. (DEDUCED: log entry 37.) -/
def execLreset (die dest : Nat) (s : State) : Out :=
  if isDie die && decide (dest < 256) then .next (resetLoss die dest s) else .fault .noSuchUnit

end Sys2Proof.Machine
end

