-- ==== Sys2Proof/Machine/FaConf.lean ====
section
/-! DEFINITION. The configuration store of a factor array context (R301, R391, R404..R408): images, their check, their load
and their recovery. -/

namespace Sys2Proof.Machine

/-! ## Results of an array instruction -/

/-- What becomes of an array instruction: done; stopped with a cause, a cursor (R396) and flags that go with the record (R417);
or not yet, in which case it is performed again from the state given: it has issued and waits, or it has not issued because the tile
it reads is not ready (R30). -/
inductive FaRes where
  | done (s : State)
  | stop (cause : BitVec 8) (brow vcur chunk : Nat) (fl : BitVec 7) (s : State)
  | wait (s : State)
  | unready (s : State)

/-- An array instruction stops at a row. -/
def stopAt (cause : BitVec 8) (brow : Nat) (s : State) : FaRes := .stop cause brow 0 0 0 s

/-- The maker of the F accesses of a context, by its core. -/
def whoF (s : State) (c : Nat) (i : Issuer) : Who :=
  ⟨dieOfCore c, (cluster s (clusterOfCore c)).tlb, .f, i, 2 ^ 21 + c, some c⟩

/-! ## Images (R404, R405) -/

/-- R404: the directory word of an entry of an image given as a number. -/
def imgEntry (img e : Nat) : Nat := bitsOf img (256 * e + 255) (256 * e)
/-- R404: KIND. -/
def entKind (e : Nat) : Nat := bitsOf e 3 0
/-- R404: FMT. -/
def entFmt (e : Nat) : Nat := bitsOf e 8 4
/-- R404: BLK. -/
def entBlk (e : Nat) : Nat := bitsOf e 11 9
/-- R404: SAX. -/
def entSax (e : Nat) : Bool := e.testBit 12
/-- R404: BSZ. -/
def entBsz (e : Nat) : Nat := bitsOf e 15 13
/-- R404: K of a KIND 1 entry. -/
def entK (e : Nat) : Nat := bitsOf e 23 16 + 1
/-- R404: the number of stored blocks of a KIND 2 entry. -/
def entNb (e : Nat) : Nat := bitsOf e 31 24 + 1
/-- R404: the byte offset of the entry's data. -/
def entOff (e : Nat) : Nat := 32 * bitsOf e 47 32
/-- R404: XW. -/
def entXw (e : Nat) : Int := bfpExp (bitsOf e 55 48)

/-- A number of bytes rounded up to a multiple of 32. -/
def pad32 (n : Nat) : Nat := (n + 31) / 32 * 32

/-- Bytes of `n` elements of a format. -/
def fmtBytes (f n : Nat) : Nat := (n * fmtBits f + 7) / 8

/-- R58, R55: the element format that a product format code names. -/
def productFmt : Nat → Nat
  | 0 => 1 | 1 => 2 | 2 => 3 | 3 => 4 | 4 => 5 | 5 => 6 | 6 => 7 | 7 => 10 | 8 => 18 | _ => 8

/-- R58: a product format. -/
def isProductFmt (f : Nat) : Bool := [1, 2, 3, 4, 5, 6, 7, 10, 18, 8].contains f

/-- R76: the formats that may have scale blocks. -/
def isScaledFmt (f : Nat) : Bool := [3, 4, 5, 6, 7, 10, 18].contains f

/-- R76: a legal pair of a format and a block length code. -/
def fmtBlkOk (f b : Nat) : Bool := decide (b ≤ 4) && (if f = 9 then b == 3 else b == 0 || isScaledFmt f)

/-- R405: bytes of one row of a KIND 1 entry. -/
def rowOfEnt (e : Nat) : Nat :=
  pad32 (fmtBytes (entFmt e) 128
    + (if entSax e = true ∨ blkLen (entBlk e) = 0 then 0 else (128 + blkLen (entBlk e) - 1) / blkLen (entBlk e)))

/-- R405: the block size of a KIND 2 entry. -/
def entB (e : Nat) : Nat := 2 ^ (entBsz e + 1)

/-- R405: bytes from one stored block to the next. -/
def blockOfEnt (e : Nat) : Nat := pad32 (fmtBytes (entFmt e) (entB e * entB e))

/-- R405: bytes of the data of an entry. -/
def entSize (e : Nat) : Nat :=
  match entKind e with
  | 1 => entK e * rowOfEnt e
      + (if entSax e = true ∧ blkLen (entBlk e) ≠ 0 then 128 * ((entK e + blkLen (entBlk e) - 1) / blkLen (entBlk e)) else 0)
  | 2 => entNb e * blockOfEnt e
  | 3 => fmtBytes (entFmt e) 128
  | _ => 0

/-- R404, R405: the entry keeps the rules of its directory word and its data lies within the image. -/
def entOk (len e : Nat) : Bool :=
  let k := entKind e
  k == 0 || (bitsOf e 255 60 == 0 && decide (k ≤ 3) && fmtBlkOk (entFmt e) (entBlk e)
    && (match k with
      | 1 => isProductFmt (entFmt e)
      | 2 => [1, 2, 3, 4, 9, 16].contains (entFmt e) && decide (entBsz e < 7)
      | _ => [0, 12, 16, 9].contains (entFmt e))
    && (k == 1 || bitsOf e 23 16 == 0) && (k == 2 || bitsOf e 31 24 == 0)
    && ((k != 1 && entFmt e == 9) || bitsOf e 55 48 == 0)
    && decide (entOff e + entSize e ≤ len))

/-- R405: the image is well formed. -/
def imgOk (img len : Nat) : Bool := (List.range 8).all (fun e => entOk len (imgEntry img e))

/-- A 16-bit two's-complement number. -/
def sext16 (v : Nat) : Int := if v.testBit 15 then (v : Int) - 65536 else v

/-- R89, R404: the BETA code of an entry of an image; 8 for BETA8. -/
def imgBeta (img e : Nat) : Nat :=
  let w := imgEntry img e
  if entKind w = 2 ∧ entFmt w = 9 then
    bfpBound ((List.range (entNb w)).map (fun q =>
      chunksOf (entB w) (entB w)
        ((fieldsOf 16 (entB w * entB w) (img / 256 ^ (entOff w + q * blockOfEnt w))).map sext16))).flatten
  else 0

/-! ## Signatures (R301) -/

/-- One bit of the CRC-64 of ECMA-182. -/
def crcBit (c : BitVec 64) : BitVec 64 := if c.msb then (c <<< 1) ^^^ 0x42F0E1EBA9EA3693 else c <<< 1

/-- One byte of it. -/
def crcByte (c : BitVec 64) (b : Nat) : BitVec 64 :=
  (List.range 8).foldl (fun c _ => crcBit c) (c ^^^ (BitVec.ofNat 64 b <<< 56))

/-- The CRC of `n` bytes of a number, the lowest first. -/
def crcBytes : Nat → Nat → BitVec 64 → BitVec 64
  | 0, _, c => c
  | n + 1, v, c => crcBytes n (v / 256) (crcByte c (v % 256))

/-- R301: the signature of a configuration of `n` bytes loaded for a region. -/
def signature (rid : BitVec 20) (n img : Nat) : BitVec 64 := crcBytes n img (crcBytes 4 rid.toNat 0)

/-! ## Loading (R406) -/

/-- R406: one 32-byte word of an image, read from the die's own stack. -/
def imgWord (w : Who) (a : Word) (s : State) : Res Nat :=
  (xResolve w true false 0 none a s).next (fun q s =>
    if pteMc q.1 then .exc 0x13 s
    else match placeOf q.2 with
      | .hbm _ => loadAt w q.1 q.2 32 s
      | _ => .exc 0x13 s)

/-- R301: the words of an image from word `k`: its bytes, or the cause and the word at which the copy stops. -/
def imgCopy (w : Who) (a : Word) : Nat → Nat → State → Except (BitVec 8 × Nat) Nat
  | 0, _, _ => .ok 0
  | n + 1, k, s =>
    match imgWord w (a + BitVec.ofNat 64 (32 * k)) s with
    | .ok v _ =>
      match imgCopy w a n (k + 1) s with
      | .ok r => .ok (v + 256 ^ 32 * r)
      | .error e => .error e
    | .exc c _ => .error (c, k)
    | .lost c _ => .error (c, k)
    | .wait _ => .error (0x10, k)

/-- R406, R409: a load that has come to `k` words with bytes `img`, or to none, in its context: the shadow bank is empty meanwhile. -/
def faLoading (c : Nat) (l : Option (Nat × Nat)) (s : State) : State := setCtx s c { ctx s c with shadow := none, loading := l }

/-- R406: `fa.cfgld` on a context, for an issuer: its next word, or its end. -/
def faLoad (c : Nat) (i : Issuer) (a len : Word) (s : State) : FaRes :=
  let n := len.toNat
  if a.toNat % 32 ≠ 0 ∨ n < 256 ∨ 65536 < n ∨ n % 32 ≠ 0 then stopAt 0x03 0 s
  else
    let p := (ctx s c).loading.getD (0, 0)
    let stopped := fun (e : BitVec 8) (s : State) => FaRes.stop e 0 0 p.1 0 (faLoading c none s)
    if p.1 < n / 32 then
      match imgWord (whoF s c i) (a + BitVec.ofNat 64 (32 * p.1)) s with
      | .ok v s => .wait (faLoading c (some (p.1 + 1, p.2 + v * 256 ^ (32 * p.1))) s)
      | .exc e s => stopped e s
      | .lost e s => stopped e s
      | .wait s => .wait (faLoading c (some p) s)
    else if imgOk p.2 n then
      .done (setCtx s c { ctx s c with
        loading := none
        shadow := some { addr := a, len := n, data := p.2, rid := i.rid, asid := i.asid, sig := signature i.rid n p.2,
                         beta := Vector.ofFn (fun e => imgBeta p.2 e.val), failed := false } })
    else stopped 0x01 s

/-- R407: `fa.commit` on a context. -/
def faCommitNow (c : Nat) (s : State) : State :=
  match (ctx s c).shadow with
  | some b => setCtx s c { ctx s c with live := some b, shadow := none }
  | none => s

/-! ## Entries in use -/

/-- What an instruction finds at an entry of the live bank: the bank and the directory word, or the cause (R407, R408). -/
def liveEntry (s : State) (c cent kind : Nat) : Except (BitVec 8) (Bank × Nat) :=
  match (ctx s c).live with
  | none => .error 0x01
  | some b =>
    let e := imgEntry b.data cent
    if b.failed then .error 0x31
    else if entKind e ≠ kind then .error 0x01
    else .ok (b, e)

/-- R405: the bytes of an entry's data from an offset, as a number. -/
def entData (b : Bank) (e o n : Nat) : Nat := b.data / 256 ^ (entOff e + o) % 256 ^ n

/-- R405, R81: the weights of row `k` of a KIND 1 entry with their scale codes; 127 where there is none. -/
def weightRow (b : Bank) (e k : Nat) : List (Nat × Nat) :=
  let f := entFmt e
  let n := blkLen (entBlk e)
  let row := entData b e (k * rowOfEnt e) (rowOfEnt e)
  let sc := if n = 0 then 0
    else if entSax e then entData b e (entK e * rowOfEnt e + 128 * (k / n)) 128
    else row / 256 ^ fmtBytes f 128
  (List.range 128).map (fun j =>
    (row / 2 ^ (fmtBits f * j) % 2 ^ fmtBits f, if n = 0 then 127 else sc / 256 ^ (if entSax e then j else j / n) % 256))

/-- R405: the elements of stored block `q` of a KIND 2 entry, row-major. -/
def blockElems (b : Bank) (e q : Nat) : List Nat :=
  fieldsOf (fmtBits (entFmt e)) (entB e * entB e) (entData b e (q * blockOfEnt e) (blockOfEnt e))

/-- R405: the elements of a KIND 3 entry. -/
def vectorElems (b : Bank) (e : Nat) : List Nat :=
  fieldsOf (fmtBits (entFmt e)) 128 (entData b e 0 (fmtBytes (entFmt e) 128))

end Sys2Proof.Machine
end

