-- ==== Sys2Proof/Machine/FaOp.lean ====
section
/-! DEFINITION. What the array's compute instructions share (R282, R283, R399..R402, R410, R411): accumulator tiles, the
control word, operands and the course over the rows. -/

namespace Sys2Proof.Machine

/-! ## Accumulator tiles (R399, R400) -/

/-- R399: a tile of a context. -/
def accTile (s : State) (c : Nat) (k : Fin 8) : AccTile := (ctx s c).acc[k]
/-- R399: write a tile of a context. -/
def setAcc (c : Nat) (k : Fin 8) (t : AccTile) (s : State) : State := setCtx s c { ctx s c with acc := (ctx s c).acc.set k t }

/-- R399: the type codes. -/
abbrev tyE : Fin 8 := 0
/-- R399: type Z. -/
abbrev tyZ : Fin 8 := 1
/-- R399: type F. -/
abbrev tyF : Fin 8 := 2
/-- R399: type I. -/
abbrev tyI : Fin 8 := 3
/-- R399: type R. -/
abbrev tyR : Fin 8 := 4
/-- R399: type B. -/
abbrev tyB : Fin 8 := 5
/-- R399: type P. -/
abbrev tyP : Fin 8 := 6
/-- R399: type L. -/
abbrev tyL : Fin 8 := 7

/-- R399: row `i` of a tile. -/
def accRow (t : AccTile) (i : Nat) : BitVec 8192 := tabGet 0 t.rows i
/-- R399: the 128 cells of row `i` of a tile. -/
def accCells (t : AccTile) (i : Nat) : List Nat := fieldsOf 64 128 (accRow t i).toNat
/-- R399: a tile with row `i` replaced. -/
def setAccRow (i : Nat) (cells : List Nat) (t : AccTile) : AccTile :=
  { t with rows := tabSet 0 t.rows i (BitVec.ofNat 8192 (joinFields 64 cells)) }

/-- A number as a cell of 64 bits in two's complement. -/
def cellOf (v : Int) : Nat := (v % 2 ^ 64).toNat
/-- A cell as a signed number. -/
def cellInt (v : Nat) : Int := (BitVec.ofNat 64 v).toInt

/-- R400, R411: row `i` of a tile is committed: the cells that the instruction names take their values, and the first row
that is committed gives the tile its new type, with every other cell zero. -/
def commitRow (ty : Fin 8) (i : Nat) (cells : List (Option Nat)) (fl : Flags7) (t : AccTile) : AccTile :=
  let t := if t.type = ty then t else { t with type := ty, rows := [] }
  { setAccRow i (zipMap (fun (c : Option Nat) (o : Nat) => c.getD o) cells (accCells t i)) t with flags := t.flags ||| fl }

/-- OR flags into a tile of a context. -/
def accFlags (c : Nat) (k : Fin 8) (f : Flags7) (s : State) : State :=
  setAcc c k { accTile s c k with flags := (accTile s c k).flags ||| f } s

/-! ## The control word (R410) -/

/-- CENT. -/
def ctlCent (w : Word) : Nat := bitsOf w.toNat 2 0
/-- ACC. -/
def ctlAcc (w : Word) : Bool := w.getLsbD 3
/-- TSRC. -/
def ctlTsrc (w : Word) : Bool := w.getLsbD 4
/-- TREG. -/
def ctlTreg (w : Word) : Nat := bitsOf w.toNat 7 5
/-- ROWST. -/
def ctlRowst (w : Word) : Nat := bitsOf w.toNat 14 8
/-- The row count NR. -/
def ctlRows (w : Word) (g : Nat) : Nat := if bitsOf w.toNat 22 15 = 0 then g - ctlRowst w else bitsOf w.toNat 22 15
/-- LOGL. -/
def ctlLogl (w : Word) : Nat := bitsOf w.toNat 25 23
/-- SIN. -/
def ctlSin (w : Word) : Nat := bitsOf w.toNat 28 26
/-- SOUT. -/
def ctlSout (w : Word) : Nat := bitsOf w.toNat 31 29
/-- GROW. -/
def ctlGrow (w : Word) : Nat := bitsOf w.toNat 34 32
/-- MEAS. -/
def ctlMeas (w : Word) : Bool := w.getLsbD 35
/-- MREG. -/
def ctlMreg (w : Word) : Bool := w.getLsbD 36
/-- LAST. -/
def ctlLast (w : Word) : Bool := w.getLsbD 37
/-- ABLK. -/
def ctlAblk (w : Word) : Nat := bitsOf w.toNat 40 38

/-- R411: the rows of an instruction, in order. -/
def rowsFrom (rs n : Nat) : List Nat := (List.range n).map (rs + ·)

/-- R411: the instruction names rows beyond G. -/
def rowsBeyond (w : Word) (g : Nat) : Bool := decide (g < ctlRowst w + ctlRows w g) || decide (g < ctlRowst w)

/-! ## Operands (R282, R283, R401, R402) -/

/-- Where an operand's rows come from: memory or a tile under a rotation code at a first address with a pitch, or the tile
registers of a core from a number on. -/
inductive Opnd where
  | mem (side : Side) (base : Word) (pitch : Nat)
  | treg (first : Nat)

/-- R401: the tile that an operand's first register refers to: its cluster key and number. -/
def opndRef (c : Nat) (d : Word) : Option (Nat × Nat) :=
  if d.getLsbD 63 then some (clusterOfCore c, d.toNat % 256) else none

/-- R402: bytes of an operand row of `n` elements with scale blocks of `ba` elements (0 for none). -/
def rowBytes (f ba n : Nat) : Nat := if ba = 0 then fmtBytes f n else pad32 (fmtBytes f n + (n + ba - 1) / ba)

/-- The first byte of each 4 KiB page that `n` bytes at an address lie in. -/
def pagesOf (a : Word) (n : Nat) : List Word :=
  if n = 0 then [] else
    (List.range ((a.toNat % 4096 + n + 4095) / 4096)).map (fun i => if i = 0 then a else a - BitVec.ofNat 64 (a.toNat % 4096) + BitVec.ofNat 64 (4096 * i))

/-- R283, R107: a byte at an address translates outside the scratchpad of the issuing cluster. -/
def outsidePad (s : State) (c : Nat) (w : Who) (a : Word) : Bool :=
  decide (a.toNat < 2 ^ 57) && (match leafOf s w.tlbs w.die w.iss.asid a.toNat with
    | none => false
    | some p => pteMc p || !(placeOf (physOf p a.toNat) == .scratchpad (dieOfCore c % 32) (clusterOfCore c % 16)
        && devOf (physOf p a.toNat) == devOfDie (dieOfCore c)))

/-- R283: the checks of a descriptor whose operand covers, in each row, the given parts (offset and length). -/
def opndCheck (s : State) (c : Nat) (w : Who) (d d1 : Word) (pitch : Nat) (parts : List (Nat × Nat)) (rows : List Nat) : Option (BitVec 8) :=
  let n := (parts.map (fun p => p.1 + p.2)).foldl max 0
  if bitsOf d1.toNat 63 47 ≠ 0 ∨ rotReserved (bitsOf d1.toNat 46 40) = true ∨ (d.getLsbD 63 = true ∧ bitsOf d.toNat 62 8 ≠ 0) then some 0x01
  else if (d.getLsbD 63 = false ∧ d.toNat % 32 ≠ 0) ∨ bitsOf d1.toNat 15 0 % 32 ≠ 0 ∨ bitsOf d1.toNat 39 16 % 32 ≠ 0 then some 0x03
  else match opndRef c d with
    | some (ck, t) =>
      if rows.any (fun i => decide (0x400000 < tileBase (tileEntry s ck t) + i * pitch + n)) then some 0x13 else none
    | none =>
      if rows.any (fun i => parts.any (fun p =>
        (pagesOf (d + BitVec.ofNat 64 (i * pitch + p.1)) p.2).any (outsidePad s c w))) then some 0x13 else none

/-- The operand of a descriptor that passed its checks. -/
def opndOf (c : Nat) (d d1 : Word) (pitch : Nat) : Opnd :=
  let code := bitsOf d1.toNat 46 40
  match opndRef c d with
  | some (ck, t) => .mem (.tile ck t code) 0 pitch
  | none => .mem (.mem code none) d pitch

/-- R401: `n` elements of `bits` bits of row `i` in tile registers; none when one is poisoned (R243). -/
def tregRow (s : State) (c first bits n i : Nat) : Option Nat :=
  let t := (core s c).tiles[(first + i / 64) % 8]
  let at_ := fun (j : Nat) => cellIx (i % 64) j
  if (List.range n).any (fun j => elemPsn t 32 (at_ j)) then none
  else some (joinFields bits ((List.range n).map (fun j => elemBits t 32 (at_ j) % 2 ^ bits)))

/-- R411: parts of row `i` of an operand, as one number in which each part stands at its offset. -/
def readParts (s : State) (w : Who) (side : Side) (base : Word) : List (Nat × Nat) → Except (BitVec 8) Nat
  | [] => .ok 0
  | (o, n) :: l =>
    match xRead w side false (base + BitVec.ofNat 64 o) n s with
    | .ok v _ => (match readParts s w side base l with
      | .ok r => .ok (v * 256 ^ o + r)
      | .error e => .error e)
    | .exc e _ => .error e
    | .lost e _ => .error e
    | .wait _ => .error 0x10

/-- R411: row `i` of an operand of `cnt` elements of `bits` bits that covers the given parts of a row, or the cause. -/
def opndRow (s : State) (c : Nat) (w : Who) (o : Opnd) (parts : List (Nat × Nat)) (bits cnt i : Nat) : Except (BitVec 8) Nat :=
  match o with
  | .mem side base pitch => readParts s w side (base + BitVec.ofNat 64 (i * pitch)) parts
  | .treg first => match tregRow s c first bits cnt i with
    | some v => .ok v
    | none => .error 0x30

/-- What the table says of a tile-addressed read (R30). -/
inductive TileRead where
  | go (s : State)
  | wait (s : State)
  | empty (s : State)

/-- R30: a read of a tile issues only while the tile is ready; a tile still empty at the second swath boundary raises cause
0x51. -/
def tileReadAt (c : Nat) (ref : Option (Nat × Nat)) (s : State) : TileRead :=
  match ref with
  | none => .go s
  | some (ck, t) =>
    let e := tileEntry s ck t
    if tileState e = 2 then .go (setCtx s c { ctx s c with tileWait := none })
    else if tileState e = 0 then
      (match (ctx s c).tileWait with
        | some (t', n) =>
          if t' = t then (if 3 ≤ n then .empty (setCtx s c { ctx s c with tileWait := none }) else .wait s)
          else .wait (setCtx s c { ctx s c with tileWait := some (t, 0) })
        | none => .wait (setCtx s c { ctx s c with tileWait := some (t, 0) }))
    else .wait (setCtx s c { ctx s c with tileWait := none })

/-- R29, R401: a last use moves its ready tile to draining as the instruction issues. -/
def tileLastUse (ref : Option (Nat × Nat)) (last : Bool) (s : State) : State :=
  match ref with
  | none => s
  | some (ck, t) => if last then setTileEntry ck t (tileReleaseEntry (tileEntry s ck t)) s else s

/-! ## The course over the rows (R411) -/

/-- What one row comes to: its cells with flags, or a cause with flags for the record. -/
inductive RowRes where
  | cells (l : List (Option Nat)) (fl : Flags7)
  | stop (cause : BitVec 8) (fl : Flags7)

/-- The tile as it was when the course of the instruction in progress began. -/
def accWas (s : State) (c : Nat) (k : Fin 8) : AccTile := (ctx s c).before.getD (accTile s c k)

/-- R408, R411: the instruction in progress has come to place `n` of its course on tile `k`. -/
def rowMark (c : Nat) (k : Fin 8) (n : Nat) (s : State) : State :=
  setCtx s c { ctx s c with row := n, before := some (accWas s c k) }

/-- R408, R411: the next row of a course over rows in ascending order is formed and then committed. -/
def rowsRun (c : Nat) (k : Fin 8) (ty : Fin 8) (f : Nat → RowRes) (rows : List Nat) (s : State) : FaRes :=
  let n := (ctx s c).row
  match rows.drop n with
  | [] => .done s
  | i :: l =>
    match f i with
    | .cells v fl =>
      let t := setAcc c k (commitRow ty i v fl (accTile s c k)) (rowMark c k (n + 1) s)
      if l.isEmpty then .done t else .wait t
    | .stop e fl => .stop e i 0 0 fl (if fl = 0 then s else accFlags c k fl s)

/-- R400: an instruction with ACC = 1 does not suit the tile's type. -/
def accRefused (t : AccTile) (ty : Fin 8) (acc : Bool) : Bool := acc && t.type != tyE && t.type != tyZ && t.type != ty

/-- R411: the old cells that ACC = 1 adds to, by row. (DEDUCED: log entry 46.) -/
def accOld (t : AccTile) (ty : Fin 8) (acc : Bool) (i : Nat) : List Nat :=
  if acc = true ∧ t.type = ty then accCells t i else List.replicate 128 0

/-- R411: an instruction's own check fails: a stop at its first row, with flags that go into the tile and with the record (R417). -/
def checkStop (c : Nat) (k : Fin 8) (rs : Nat) (p : BitVec 8 × Flags7) (s : State) : FaRes :=
  .stop p.1 rs 0 0 p.2 (if p.2 = 0 then s else accFlags c k p.2 s)

/-- R401, R411: the operand of an instruction on tile `k`: its checks, the instruction's own check `own`, the wait for a tile, the last
use, and then the rows; once a row is committed, the rows alone. `bits` and `cnt` are the elements of a row, `parts` the bytes that a
row covers. -/
def withOperand (c : Nat) (w : Who) (cmd : FaCmd) (k : Fin 8) (rs : Nat) (parts : List (Nat × Nat)) (pitch bits cnt : Nat) (last : Bool)
    (rows : List Nat) (own : Option (BitVec 8 × Flags7)) (s : State) (f : (Nat → Except (BitVec 8) Nat) → State → FaRes) : FaRes :=
  let from_ := if ctlTsrc cmd.c0 then Opnd.treg (ctlTreg cmd.c0) else opndOf c cmd.a0 cmd.a1 pitch
  if (ctx s c).row ≠ 0 then f (opndRow s c w from_ parts bits cnt) s
  else if ctlTsrc cmd.c0 then
    if (thr s cmd.iss.thread).tiles = false then stopAt 0x47 rs s
    else match own with
      | some p => checkStop c k rs p s
      | none => f (opndRow s c w from_ parts bits cnt) s
  else match opndCheck s c w cmd.a0 cmd.a1 pitch parts rows, own with
    | some e, _ => stopAt e rs s
    | none, some p => checkStop c k rs p s
    | none, none =>
      let ref := opndRef c cmd.a0
      match tileReadAt c ref s with
      | .wait s => .unready s
      | .empty s => stopAt 0x51 rs s
      | .go s => f (opndRow s c w from_ parts bits cnt) (tileLastUse ref last s)

/-- R401: a last use is made whatever the outcome: an instruction that stops before it reads its tile moves it too, if it is ready. -/
def lastUsed (c : Nat) (cmd : FaCmd) (last : Bool) : FaRes → FaRes
  | .stop e b v ch fl s => .stop e b v ch fl (match opndRef c cmd.a0 with
      | some (ck, t) =>
        if last = true ∧ ctlTsrc cmd.c0 = false ∧ bitsOf cmd.a0.toNat 62 8 = 0 ∧ tileState (tileEntry s ck t) = 2 then
          setTileEntry ck t (tileReleaseEntry (tileEntry s ck t)) s
        else s
      | none => s)
  | r => r

/-- R401: what TSRC = 1 refuses: a descriptor field `p` that is not zero, more than 64 elements in a row, scale blocks, a tile register
above t7. -/
def tsrcRefused (cmd : FaCmd) (p : Fin 16) (cnt : Nat) (rows : List Nat) : Bool :=
  ctlTsrc cmd.c0 && (p != 0 || decide (64 < cnt) || ctlAblk cmd.c0 != 0
    || rows.any (fun i => decide (7 < ctlTreg cmd.c0 + i / 64)))

end Sys2Proof.Machine
end

