-- ==== Sys2Proof/Machine/FaCompute.lean ====
section
/-! DEFINITION. The array's compute instructions (R410..R422): dense and sparse products, stages, reconstruction, pointwise
work, rescaling and clearing. -/

namespace Sys2Proof.Machine

/-! ## Products (R412..R414) -/

/-- R81, R412: an element with its scale code; 0xFF makes it NaN. -/
def scaledElem (f v sc : Nat) : FVal := if sc = 255 then .nan false else scaleVal (elemVal f v) ((sc : Int) - 127)

/-- The columns of rows of a matrix. -/
def columnsOf {α : Type} (n : Nat) (rows : List (List α)) : List (List α) := (List.range n).map (fun j => rows.filterMap (fun r => r[j]?))

/-- R412: a column of the result: the operand row by index, absent where an index has no value (R414), with its scale codes,
and the weights of the column. -/
def denseCell (f : Nat) (float : Bool) (win : Nat) (a : List (Option (Nat × Nat))) (col : List (Nat × Nat)) (old : Nat) : Nat × Flags7 :=
  if float then
    addGroups (chunksOf 32 (a.length / 32 + 1) (zipMap (fun (p : Option (Nat × Nat)) (q : Nat × Nat) => match p with
      | some p => (mulVal (scaledElem f p.1 p.2) (scaledElem f q.1 q.2)).1
      | none => .fin false 0 0) a col)) win (old % 2 ^ 32)
  else if f = 8 then
    let ps := zipMap (fun (p : Option (Nat × Nat)) (q : Nat × Nat) => match p with
      | some p => lnsMul p.1 q.1
      | none => (0, 0)) a col
    let r := satSum (ps.map (fun p => lnsTerm p.1)) (cellInt old)
    (cellOf r.1, ps.foldl (fun g p => g ||| p.2) r.2)
  else
    let r := sat64 ((zipMap (fun (p : Option (Nat × Nat)) (q : Nat × Nat) => match p with
      | some p => intVal f p.1 * intVal f q.1
      | none => 0) a col).foldl (· + ·) (cellInt old))
    (cellOf r.1, r.2)

/-- R412: one row of the result. (DEDUCED: log entry 44.) -/
def denseRow (f : Nat) (float : Bool) (win : Nat) (cols : List (List (Nat × Nat))) (a : List (Option (Nat × Nat))) (old : List Nat) : RowRes :=
  let r := zipMap (denseCell f float win a) cols old
  .cells (r.map (fun p => some p.1)) (r.foldl (fun g p => g ||| p.2) 0)

/-- R412: the result is of type F. -/
def denseFloat (f ablk blk : Nat) : Bool := !(f == 10 || f == 18 || f == 8) || ((f == 10 || f == 18) && (ablk != 0 || blk != 0))

/-- R412: the result type. -/
def denseType (f ablk blk : Nat) : Fin 8 := if denseFloat f ablk blk then tyF else if f = 8 then tyL else tyI

/-- R413: the window of R99. -/
def denseWindow (ablk e : Nat) : Nat :=
  if (ablk = 0 ∨ ablk = 3 ∨ ablk = 4) ∧ (entBlk e = 0 ∨ (entSax e = true ∧ (entBlk e = 3 ∨ entBlk e = 4))) then 64 else 96

/-- R414: the dense indices of a metadata word within its group; none when the word is malformed (cause 0x53). -/
def metaIndices (h : Nat) : Option (List Nat) :=
  let k := fieldsOf 4 4 (h % 2 ^ 16)
  if k.any (fun n => decide (8 ≤ n)) || !(zipMap (fun (x y : Nat) => decide (x < y)) k k.tail).all id then none else some k

/-- R414: the dense indices of a row's values, in order. -/
def metaRow : Nat → List Nat → Option (List Nat)
  | _, [] => some []
  | h, w :: l =>
    match metaIndices w, metaRow (h + 1) l with
    | some k, some r => some (k.map (8 * h + ·) ++ r)
    | _, _ => none

/-- R414: a compressed row laid out by dense index. -/
def sparseRow (n : Nat) (idx vals : List Nat) : List (Option (Nat × Nat)) :=
  (List.range n).map (fun j => (idx.zip vals).findSome? (fun p => if p.1 = j then some (p.2, 127) else none))

/-- R410, R412, R414: fields of the control word that products do not use are zero. -/
def denseFields (cmd : FaCmd) : Bool :=
  bitsOf cmd.c0.toNat 63 41 == 0 && ctlLogl cmd.c0 == 0 && ctlSin cmd.c0 == 0 && ctlSout cmd.c0 == 0

/-- R412: `fa.dense`. -/
def faDenseRun (c : Nat) (cmd : FaCmd) (p : Fin 16) (k : Fin 8) (pf : Nat) (s : State) : FaRes :=
  let w := whoF s c cmd.iss
  let g := (ctx s c).rows
  let ct := cmd.c0
  let rs := ctlRowst ct
  let f := productFmt pf
  if rowsBeyond ct g then stopAt 0x42 rs s
  else
    let rows := rowsFrom rs (ctlRows ct g)
    match liveEntry s c (ctlCent ct) 1 with
    | .error e => stopAt e (rs + (ctx s c).row) s
    | .ok (b, e) =>
      let n := entK e
      let ablk := ctlAblk ct
      let ty := denseType f ablk (entBlk e)
      let t := accTile s c k
      if denseFields cmd = false ∨ entFmt e ≠ f ∨ fmtBlkOk f ablk = false ∨ cmd.c1 ≠ 0 ∨ accRefused t ty (ctlAcc ct) = true
          ∨ tsrcRefused cmd p n rows = true then stopAt 0x01 rs s
      else
        let ba := blkLen ablk
        let eb := fmtBytes f n
        let bytes := rowBytes f ba n
        let cols := columnsOf 128 ((List.range n).map (weightRow b e))
        withOperand c w cmd k rs [(0, bytes)] (bitsOf cmd.a1.toNat 15 0) (fmtBits f) n (ctlLast ct) rows none s (fun row s =>
          rowsRun c k ty (fun i => match row i with
            | .error e => .stop e 0
            | .ok v =>
              let a := (List.range n).map (fun j =>
                some (v / 2 ^ (fmtBits f * j) % 2 ^ fmtBits f, if ba = 0 then 127 else v / 256 ^ (eb + j / ba) % 256))
              denseRow f (denseFloat f ablk (entBlk e)) (denseWindow ablk e) cols a (accOld t ty (ctlAcc ct) i)) rows s)

/-- R414: the metadata words of a row, from the register or from memory. -/
def metaWords (s : State) (w : Who) (cmd : FaCmd) (n i : Nat) : Except (BitVec 8) (List Nat) :=
  if ctlMreg cmd.c0 then .ok (fieldsOf 16 (n / 8) cmd.c1.toNat)
  else match readParts s w (.mem 0 none) (cmd.c1 + BitVec.ofNat 64 (i * (n / 4))) [(0, n / 4)] with
    | .ok v => .ok (fieldsOf 16 (n / 8) v)
    | .error e => .error e

/-- R414: the metadata of the instruction's rows lies where an operand may. -/
def metaOutside (s : State) (c : Nat) (w : Who) (cmd : FaCmd) (n : Nat) (rows : List Nat) : Bool :=
  !ctlMreg cmd.c0 && rows.any (fun i => (pagesOf (cmd.c1 + BitVec.ofNat 64 (i * (n / 4))) (n / 4)).any (outsidePad s c w))

/-- R414: `fa.sparse`. -/
def faSparseRun (c : Nat) (cmd : FaCmd) (k : Fin 8) (pf : Nat) (s : State) : FaRes :=
  let w := whoF s c cmd.iss
  let g := (ctx s c).rows
  let ct := cmd.c0
  let rs := ctlRowst ct
  let f := productFmt pf
  if rowsBeyond ct g then stopAt 0x42 rs s
  else
    let rows := rowsFrom rs (ctlRows ct g)
    match liveEntry s c (ctlCent ct) 1 with
    | .error e => stopAt e (rs + (ctx s c).row) s
    | .ok (b, e) =>
      let n := entK e
      let ty := denseType f 0 (entBlk e)
      let t := accTile s c k
      if denseFields cmd = false ∨ entFmt e ≠ f ∨ n % 8 ≠ 0 ∨ ctlTsrc ct = true ∨ ctlAblk ct ≠ 0 ∨ (ctlMreg ct = true ∧ 32 < n)
          ∨ accRefused t ty (ctlAcc ct) = true then stopAt 0x01 rs s
      else
        let own : Option (BitVec 8 × Flags7) := if ctlMreg ct = false ∧ cmd.c1.toNat % 32 ≠ 0 then some (0x03, 0)
          else if metaOutside s c w cmd n rows then some (0x13, 0) else none
        let bytes := n / 2 * fmtBits f / 8
        let cols := columnsOf 128 ((List.range n).map (weightRow b e))
        withOperand c w cmd k rs [(0, bytes)] bytes (fmtBits f) (n / 2) (ctlLast ct) rows own s (fun row s1 =>
          rowsRun c k ty (fun i => match metaWords s w cmd n i with
            | .error e => .stop e 0
            | .ok ms =>
              match metaRow 0 ms with
              | none => .stop 0x53 0
              | some idx =>
                match row i with
                | .error e => .stop e 0
                | .ok v => denseRow f (denseFloat f 0 (entBlk e)) (denseWindow 0 e) cols
                    (sparseRow n idx (fieldsOf (fmtBits f) (n / 2) v)) (accOld t ty (ctlAcc ct) i)) rows s1)

/-! ## Stages (R415..R417) -/

/-- R415: `sigma_s(p)` for `s = 2^k` over L points. -/
def sigma (len k p : Nat) : Nat := p % (len / 2 ^ k) * 2 ^ k + p / (len / 2 ^ k)

/-- R415: the weights and inputs of each output of a row, in the order of the outputs, with the output's column. -/
def stageTerms {α β : Type} (len b sin sout : Nat) (blocks : List (List α)) (xs : List β) : List (Nat × List (α × β)) :=
  (List.range len).map (fun p =>
    let q := p / b
    let blk := blocks.getD (q % blocks.length) []
    (sigma len sout p, (List.range b).filterMap (fun u =>
      match blk[p % b * b + u]?, xs[sigma len sin (q * b + u)]? with
      | some a, some x => some (a, x)
      | _, _ => none)))

/-- Cells at columns as a row of named cells. -/
def namedCells (l : List (Nat × Nat)) : List (Option Nat) :=
  (List.range 128).map (fun j => (l.find? (fun p => p.1 == j)).map (fun p => p.2))

/-- R415: a row of a float stage. -/
def stageFloatRow (f win : Nat) (ts : List (Nat × List (Nat × (Nat × Nat)))) (old : List Nat) : RowRes :=
  let r := ts.map (fun t =>
    let ps := t.2.map (fun q => (mulVal (floatVal f q.1) (scaledElem f q.2.1 q.2.2)).1)
    (t.1, addGroups (chunksOf 32 (ps.length / 32 + 1) ps) win (old.getD t.1 0 % 2 ^ 32)))
  .cells (namedCells (r.map (fun p => (p.1, p.2.1)))) (r.foldl (fun g p => g ||| p.2.2) 0)

/-- R399: a cell of a B tile. -/
def bCell (x : Nat) (m : Int) : Nat := x * 2 ^ 16 + (m % 65536).toNat

/-- R416: a row of a bfp16 stage from its mantissas and its four block exponents. -/
def stageBfpRow (meas : Bool) (grow : Nat) (xw : Int) (len : Nat) (f : List Int → List (Nat × Int)) (ms : List Int) (xs : List Int) : RowRes :=
  let invalid := xs.any (· == -128) || xw == -128
  let xr := xs.foldl max (-128)
  let sh := fun (p : Nat) => (xr - xs.getD (p / 32) 0).toNat
  let m' := ms.mapIdx (fun p m => divRne m (sh p))
  let nx := (ms.mapIdx (fun p m => decide (divRne m (sh p) * 2 ^ sh p ≠ m))).any id
  let acc := f m'
  let blocks : List (Nat × List Int × Flags7) := (List.range ((len + 31) / 32)).map (fun c =>
    let a := (List.range 32).map (fun j => ((acc.find? (fun p => p.1 == 32 * c + j)).map (fun p => p.2)).getD 0)
    if invalid then (0x80, a.map (fun _ => (0 : Int)), (0 : Flags7))
    else if meas then let r := bfpMeas a; bfpLimit (xr + xw + r.2.1) r.1 r.2.2
    else let r := bfpStatic a grow; bfpLimit (xr + xw + grow) r.1 r.2)
  .cells ((((blocks.map (fun (b : Nat × List Int × Flags7) => b.2.1.map (fun m => some (bCell b.1 m)))).flatten) ++ List.replicate 128 none).take 128)
    (if invalid then 0 else blocks.foldl (fun g b => g ||| b.2.2) (fIf nx fNX))

/-- R417: a row of a modular stage. -/
def stageModRow (p : Nat) (acc : Bool) (ts : List (Nat × List (Nat × Nat))) (old : List Nat) : RowRes :=
  .cells (namedCells (ts.map (fun t =>
    let z := t.2.foldl (fun z q => modred (z + modred (q.1 * q.2) p) p) 0
    (t.1, if acc then modred (old.getD t.1 0 + z) p else z)))) 0

/-- R92: a residue breaks its bound. -/
def overBound (p bound r : Nat) : Bool := decide (p ≤ r) || decide (bound < (msigned r p).natAbs)

/-- R416, R417: the check of a stage in bfp16 mode with the growth bound of its entry, or in modular mode with the context's modulus. -/
def stageCheck (cmd : FaCmd) (mode b beta : Nat) (modulus : Option (BitVec 31)) : Option (BitVec 8 × Flags7) :=
  match mode with
  | 0 => none
  | 1 => if ctlMeas cmd.c0 = false ∧ ctlGrow cmd.c0 < beta then some (0x56, 0) else none
  | _ => match modulus with
    | none => some (0x50, fMB)
    | some m => if m.toNat ≤ 2 * (b * bitsOf cmd.c1.toNat 31 0 * bitsOf cmd.c1.toNat 63 32) + 1 then some (0x50, fMB) else none

/-- R415: `fa.stage` in a mode: 0 float, 1 bfp16, 2 modular. -/
def faStageRun (c : Nat) (cmd : FaCmd) (p : Fin 16) (k : Fin 8) (mode : Nat) (bsz : Nat) (last : Bool) (s : State) : FaRes :=
  let w := whoF s c cmd.iss
  let g := (ctx s c).rows
  let ct := cmd.c0
  let rs := ctlRowst ct
  let len := 2 ^ ctlLogl ct
  let b := 2 ^ (bsz + 1)
  if rowsBeyond ct g then stopAt 0x42 rs s
  else
    let rows := rowsFrom rs (ctlRows ct g)
    match liveEntry s c (ctlCent ct) 2 with
    | .error e => stopAt e (rs + (ctx s c).row) s
    | .ok (bk, e) =>
      let f := entFmt e
      let ty := match mode with | 0 => tyF | 1 => tyB | _ => tyR
      let t := accTile s c k
      let fits := match mode with | 0 => [1, 2, 3, 4].contains f | 1 => f == 9 | _ => f == 16
      let ablk := ctlAblk ct
      if bitsOf ct.toNat 63 41 ≠ 0 ∨ ctlLogl ct = 0 ∨ ctlLogl ct < ctlSin ct ∨ ctlLogl ct < ctlSout ct ∨ ctlLast ct = true
          ∨ entBsz e ≠ bsz ∨ fits = false ∨ len < b ∨ (mode ≠ 2 ∧ cmd.c1 ≠ 0) ∨ (mode = 1 ∧ (ctlAcc ct = true ∨ ctlTsrc ct = true))
          ∨ (if mode = 0 then fmtBlkOk f ablk else ablk == 0) = false ∨ accRefused t ty (ctlAcc ct) = true
          ∨ tsrcRefused cmd p len rows = true then stopAt 0x01 rs s
      else
        let ba := blkLen ablk
        let eb := fmtBytes f 128
        let parts := (0, fmtBytes f len) :: (if mode = 1 then [(256, 4)] else if ba = 0 then [] else [(eb, (len + ba - 1) / ba)])
        let own := stageCheck cmd mode b (bk.beta.toList.getD (ctlCent ct) 8) (ctx s c).modulus
        withOperand c w cmd k rs parts (bitsOf cmd.a1.toNat 15 0) (fmtBits f) len last rows own s (fun row s =>
          let blocks := (List.range (entNb e)).map (blockElems bk e)
          let terms := fun {α : Type} (xs : List α) => stageTerms len b (ctlSin ct) (ctlSout ct) blocks xs
          let old := accOld t ty (ctlAcc ct)
          match mode with
          | 0 =>
            rowsRun c k ty (fun i => match row i with
              | .error e => .stop e 0
              | .ok v =>
                let xs := (List.range len).map (fun j =>
                  (v / 2 ^ (fmtBits f * j) % 2 ^ fmtBits f, if ba = 0 then 127 else v / 256 ^ (eb + j / ba) % 256))
                stageFloatRow f (denseWindow ablk e) (terms xs) (old i)) rows s
          | 1 =>
            let form := fun (m : List Int) => (terms m).map (fun t =>
              (t.1, (t.2.map (fun q => sext16 q.1 * q.2)).foldl (· + ·) 0))
            rowsRun c k ty (fun i => match row i with
              | .error e => .stop e 0
              | .ok v => stageBfpRow (ctlMeas ct) (ctlGrow ct) (entXw e) len form ((fieldsOf 16 len v).map sext16)
                  ((fieldsOf 8 4 (v / 256 ^ 256)).map bfpExp)) rows s
          | _ =>
            let q := ((ctx s c).modulus.getD 0).toNat
            let bad := (blocks.take (len / b)).any (fun l => l.any (overBound q (bitsOf cmd.c1.toNat 63 32)))
            rowsRun c k ty (fun i => match row i with
              | .error e => .stop e 0
              | .ok v =>
                let xs := fieldsOf 32 len v
                if bad || xs.any (overBound q (bitsOf cmd.c1.toNat 31 0)) then .stop 0x50 fMB
                else stageModRow q (ctlAcc ct && t.type == tyR) (terms xs) (old i)) rows s)

/-! ## Modulus and reconstruction (R418, R419) -/

/-- R418: `fa.modset`. -/
def faModsetRun (c : Nat) (v : Word) (s : State) : FaRes :=
  let p := bitsOf v.toNat 30 0
  if p ≤ 2 ^ 16 ∨ p % 2 = 0 ∨ (p - 1) % 2 ^ bitsOf v.toNat 35 32 ≠ 0 ∨ bitsOf v.toNat 31 31 ≠ 0 ∨ bitsOf v.toNat 63 36 ≠ 0 then stopAt 0x50 0 s
  else .done (setCtx s c { ctx s c with modulus := some (BitVec.ofNat 31 p) })

/-- Every row below G of a tile, each row's cells mapped to cells with flags. -/
def mapRows (f : Nat → List Nat → List (Nat × Flags7)) (g : Nat) (t : AccTile) : AccTile :=
  (List.range g).foldl (fun t i =>
    let r := f i (accCells t i)
    { setAccRow i (r.map (fun p => p.1)) t with flags := r.foldl (fun g p => g ||| p.2) t.flags }) t

/-- R419: `fa.crt`. -/
def faCrtRun (c : Nat) (v : Word) (j k : Fin 8) (s : State) : FaRes :=
  let p1 := bitsOf v.toNat 30 0
  let p2 := bitsOf v.toNat 62 32
  let a := accTile s c k
  let b := accTile s c j
  let g := (ctx s c).rows
  if p1 < 2 ^ 16 ∨ p2 < 2 ^ 16 ∨ p1 = p2 ∨ Nat.gcd p1 p2 ≠ 1 ∨ 2 ^ 62 ≤ p1 * p2 then stopAt 0x50 0 s
  else if a.type = tyE ∨ b.type = tyE then stopAt 0x51 0 s
  else if bitsOf v.toNat 31 31 ≠ 0 ∨ bitsOf v.toNat 63 63 ≠ 0 ∨ a.type ≠ tyR ∨ b.type ≠ tyR ∨ k = j then stopAt 0x01 0 s
  else match (List.range g).find? (fun i => (accCells a i).any (fun r => decide (p1 ≤ r)) || (accCells b i).any (fun r => decide (p2 ≤ r))) with
    | some i => .stop 0x50 i 0 0 fMB (accFlags c k fMB s)
    | none =>
      .done (setAcc c k { mapRows (fun i cs => zipMap (fun (r1 r2 : Nat) => (cellOf (crt2 r1 r2 p1 p2), (0 : Flags7))) cs (accCells b i)) g a
        with type := tyI } s)

/-! ## Pointwise work and rescaling (R420, R421) -/

/-- R420: the result type that an entry's format gives a Z tile. -/
def typeOfFmt : Nat → Fin 8
  | 0 => tyF | 12 => tyI | 16 => tyR | _ => tyB

/-- A saturating 64-bit integer as a cell. -/
def satCell (v : Int) : Nat × Flags7 := let r := sat64 v; (cellOf r.1, r.2)

/-- R399: the mantissa of a B cell. -/
def bMant (v : Nat) : Int := sext16 (v % 2 ^ 16)
/-- R399: the block exponent byte of a B cell. -/
def bExp (v : Nat) : Nat := bitsOf v 23 16

/-- R420: `fa.pw.twid` on a cell of a type with the entry's element and XW. -/
def pwTwid (ty : Fin 8) (p : Nat) (xw : Int) (v e : Nat) : Nat × Flags7 :=
  if ty = tyF then mulCode 0 RNE 0 (v % 2 ^ 32) e
  else if ty = tyR then (modred (v * e) p, 0)
  else if bExp v = 0x80 then (0x8000 * 2 ^ 48, 0)
  else ((bMant v * sext16 e % 2 ^ 48).toNat + ((bfpExp (bExp v) + xw) % 2 ^ 16).toNat * 2 ^ 48, 0)

/-- R420: `fa.pw.scale` on a cell of a type. -/
def pwScale (ty : Fin 8) (p : Nat) (a : Word) (v : Nat) : Nat × Flags7 :=
  if ty = tyF then mulCode 0 RNE 0 (v % 2 ^ 32) (a.toNat % 2 ^ 32)
  else if ty = tyI then satCell (cellInt v * a.toInt)
  else if ty = tyR then (modred (v * (a.toNat % p)) p, 0)
  else if bExp v = 0x80 then (bCell 0x80 0, 0)
  else
    let st := a.toNat % 256
    let r := bfpLimit (bfpExp (bExp v) + (if st < 128 then (st : Int) else (st : Int) - 256)) [bMant v] 0
    (bCell r.1 (r.2.1.headD 0), r.2.2)

/-- R420: `fa.pw.add` on a cell of a type. -/
def pwAdd (ty : Fin 8) (p v e : Nat) : Nat × Flags7 :=
  if ty = tyF then addCode 0 RNE 0 (v % 2 ^ 32) e
  else if ty = tyI then satCell (cellInt v + signedOf 4 e)
  else (modred (v + e) p, 0)

/-- R420: `fa.pw.relu` on a cell of a type. -/
def pwRelu (ty : Fin 8) (v : Nat) : Nat × Flags7 :=
  if ty = tyF then minMaxCode 0 true (v % 2 ^ 32) 0
  else if ty = tyI then (cellOf (max (cellInt v) 0), 0)
  else (bCell (bExp v) (max (bMant v) 0), 0)

/-- R420: the whole of a pointwise instruction on a tile: whether it takes the tile's type, whether a modulus is needed, the type it leaves,
and its cells by column; row by row (R408). (DEDUCED: log entry 44.) -/
def pwRun (c : Nat) (k : Fin 8) (newTy : Fin 8) (ok needsP : Bool) (f : Nat → Nat → Nat → Nat × Flags7) (s : State) : FaRes :=
  if !ok then stopAt 0x01 0 s
  else match needsP, (ctx s c).modulus with
    | true, none => stopAt 0x50 0 s
    | _, m =>
      let p := match m with | some q => q.toNat | none => 0
      rowsRun c k newTy (fun i =>
        let r := (accCells (accWas s c k) i).mapIdx (f p)
        .cells (r.map (fun q => some q.1)) (r.foldl (fun g q => g ||| q.2) 0)) (rowsFrom 0 (ctx s c).rows) s

/-- R420: a pointwise instruction with an entry. -/
def pwEntry (c : Nat) (k : Fin 8) (cent : Nat) (s : State) (f : Fin 8 → Bank → Nat → FaRes) : FaRes :=
  let t := accWas s c k
  if t.type = tyE then stopAt 0x51 0 s
  else match liveEntry s c cent 3 with
    | .error e => stopAt e (ctx s c).row s
    | .ok (b, e) =>
      let want := typeOfFmt (entFmt e)
      if t.type ≠ tyZ ∧ t.type ≠ want then stopAt 0x01 0 s else f want b e

/-- R420: `fa.pw.twid`. -/
def faPwTwidRun (c : Nat) (e k : Fin 8) (s : State) : FaRes :=
  pwEntry c k e.val s (fun ty b e =>
    let v := vectorElems b e
    pwRun c k (if ty = tyB then tyP else ty) (ty != tyI) (ty == tyR) (fun p j x => pwTwid ty p (entXw e) x (v.getD j 0)) s)

/-- R420: `fa.pw.add`. -/
def faPwAddRun (c : Nat) (e k : Fin 8) (s : State) : FaRes :=
  pwEntry c k e.val s (fun ty b e =>
    let v := vectorElems b e
    pwRun c k ty (ty != tyB) (ty == tyR) (fun p j x => pwAdd ty p x (v.getD j 0)) s)

/-- R420: `fa.pw.scale`. -/
def faPwScaleRun (c : Nat) (a : Word) (k : Fin 8) (s : State) : FaRes :=
  let ty := (accWas s c k).type
  if ty = tyE then stopAt 0x51 0 s
  else if ty = tyZ then .done s
  else
    let ok := (ty == tyF && bitsOf a.toNat 63 32 == 0) || ty == tyI || ty == tyR || (ty == tyB && bitsOf a.toNat 63 8 == 0)
    pwRun c k ty ok (ty == tyR) (fun p _ x => pwScale ty p a x) s

/-- R420: `fa.pw.relu`. -/
def faPwReluRun (c : Nat) (k : Fin 8) (s : State) : FaRes :=
  let ty := (accWas s c k).type
  if ty = tyE then stopAt 0x51 0 s
  else if ty = tyZ then .done s
  else pwRun c k ty (ty == tyF || ty == tyI || ty == tyB) false (fun _ _ x => pwRelu ty x) s

/-- R420: `fa.pw.exp2`. -/
def faPwExp2Run (c : Nat) (k : Fin 8) (s : State) : FaRes :=
  let ty := (accWas s c k).type
  if ty = tyE then stopAt 0x51 0 s
  else pwRun c k tyF (ty == tyF || ty == tyZ) false (fun _ _ x => exp2Code (x % 2 ^ 32)) s

/-- R420: `fa.pw.modred`. -/
def faPwModredRun (c : Nat) (k : Fin 8) (s : State) : FaRes :=
  let ty := (accWas s c k).type
  if ty = tyE then stopAt 0x51 0 s
  else pwRun c k tyR (ty == tyI || ty == tyZ) true (fun p _ x => ((cellInt x % p).toNat, 0)) s

/-- R421: a block of P cells normalised; `g` is the static growth, none for the measured form. -/
def bfpBlock (g : Option Nat) (cs : List Nat) : List (Nat × Flags7) :=
  let x := sext16 (bitsOf (cs.headD 0) 63 48)
  let acc := cs.map (fun v => (BitVec.ofNat 48 v).toInt)
  let r : Nat × List Int × Flags7 :=
    if x = -32768 then (0x80, cs.map (fun _ => 0), 0)
    else match g with
      | some g => let r := bfpStatic acc g; bfpLimit (x + g) r.1 r.2
      | none => let r := bfpMeas acc; bfpLimit (x + r.2.1) r.1 r.2.2
  r.2.1.map (fun m => (bCell r.1 m, r.2.2))

/-- R421: `fa.bfp.static` and `fa.bfp.meas`. -/
def faBfpRun (c : Nat) (g : Option Nat) (ok : Bool) (k : Fin 8) (s : State) : FaRes :=
  let t := accTile s c k
  if t.type = tyE then stopAt 0x51 0 s
  else if t.type ≠ tyP ∨ ok = false then stopAt 0x01 0 s
  else .done (setAcc c k { mapRows (fun _ cs => ((chunksOf 32 4 cs).map (bfpBlock g)).flatten) (ctx s c).rows t with type := tyB } s)

/-! ## Clearing (R422) -/

/-- R422: what `fa.zero` does to a tile of its mask. -/
def zeroTile (m : Nat) (t : AccTile) : AccTile :=
  let t := if m.testBit 8 then { t with rows := [], type := tyZ } else t
  let t := if m.testBit 9 then { t with flags := BitVec.ofNat 7 (bitsOf m 17 11) } else t
  if m.testBit 10 then { t with amax := 0 } else t

/-- R422: `fa.zero`. -/
def faZeroRun (c : Nat) (v : Word) (s : State) : FaRes :=
  if bitsOf v.toNat 63 18 ≠ 0 then stopAt 0x01 0 s
  else .done (setCtx s c { ctx s c with acc := (ctx s c).acc.mapFinIdx (fun i t _ => if v.toNat.testBit i then zeroTile v.toNat t else t) })

end Sys2Proof.Machine
end

