-- ==== Sys2Proof/Machine/FaDrain.lean ====
section
/-! DEFINITION. Drains of accumulator tiles (R33..R36, R104, R328, R423..R426). -/

namespace Sys2Proof.Machine

/-! ## Cells (R424, R426) -/

/-- R424: the value of a cell of a tile of a type. -/
def cellVal (ty : Fin 8) (v : Nat) : FVal :=
  if ty = tyF then floatVal 0 (v % 2 ^ 32)
  else if ty = tyI then ofInt (cellInt v)
  else if ty = tyR then ofInt (v % 2 ^ 31)
  else if ty = tyL then scaleVal (ofInt (cellInt v)) (-28)
  else if ty = tyB then (if bExp v = 0x80 then .nan true else scaleVal (ofInt (bMant v)) (bfpExp (bExp v) - 15))
  else .fin false 0 0

/-- R33, R55: the element format of a drained row's FMT code. -/
def drainFmt : Nat → Nat
  | 0 => 0 | 1 => 1 | 2 => 2 | 3 => 3 | 4 => 4 | 5 => 12 | 6 => 13 | _ => 9

/-- R424: bytes of a drained row. -/
def drainRowBytes (f : Nat) : Nat := if f = 9 then 288 else 16 * fmtBits f

/-- R424, R235: a row as bfp16: mantissas, then the four block exponents. -/
def rowBfp (ty : Fin 8) (cs : List Nat) : Nat × Flags7 :=
  let bs : List (Nat × List Int × Flags7) := (chunksOf 32 4 cs).map (fun b =>
    if ty = tyB then (bExp (b.headD 0), b.map bMant, 0) else bfpConvert (b.map (cellVal ty)) false)
  (joinFields 16 ((bs.map (fun b => b.2.1)).flatten.map (fun m => (m % 65536).toNat)) + joinFields 8 (bs.map (fun b => b.1)) * 2 ^ 2048,
    bs.foldl (fun g b => g ||| b.2.2) 0)

/-- R424: the bytes of a drained row in a format, with the flags of its conversion. -/
def drainRow (ty : Fin 8) (f : Nat) (cs : List Nat) : Nat × Flags7 :=
  if f = 9 then rowBfp ty cs
  else joinFlagged (fmtBits f) (cs.map (fun v => let r := rndTo f RNE 0 (cellVal ty v); (r.1, r.2.1)))

/-- R426: AMAX raised by a cell. -/
def amaxRaise (ty : Fin 8) (a v : Nat) : Nat :=
  if ty = tyI ∨ ty = tyR then max a (if ty = tyI then (cellInt v).natAbs else v % 2 ^ 31)
  else if a = 0x7FC00000 then a
  else
    let x := cellVal ty v
    if isNanV x then 0x7FC00000 else max a (rndTo 0 RNE 0 (absVal x)).1

/-! ## Route entries (R33..R35) -/

/-- R33: the address of an entry of a cluster's route table. -/
def routeAddr (ck tok : Nat) : Nat := clusterWindowBase ck + 32 * (tok % 16)
/-- R34: an entry. -/
def routeRead (s : State) (ck tok : Nat) : Nat := readMem s (routeAddr ck tok) 32
/-- R33: KIND. -/
def rtKind (r : Nat) : Nat := bitsOf r 2 0
/-- R33: the element format of FMT. -/
def rtFmt (r : Nat) : Nat := drainFmt (bitsOf r 11 8)
/-- R33: ADDR. -/
def rtAddr (r : Nat) : Nat := bitsOf r 120 64

/-- R33, R35: an entry that no drain may use. -/
def routeBad (r : Nat) : Bool :=
  let tgt := bitsOf r 31 24
  let k := rtKind r
  k == 0 || decide (6 ≤ k) || bitsOf r 7 3 != 0 || decide (8 ≤ bitsOf r 11 8) || bitsOf r 15 14 != 0 || bitsOf r 63 32 != 0
    || bitsOf r 127 121 != 0 || bitsOf r 255 185 != 0
    || tgt / (if k = 3 then 16 else if k = 4 then 8 else if k = 5 then 32 else 1) != 0

/-! ## Consumers -/

/-- R425: a drain by the thread of a slot with a queue field suits an entry of KIND 3. -/
def queueFits (s : State) (c : Nat) (cmd : FaCmd) (q : Option (Fin 8)) (r : Nat) : Bool :=
  q == some (BitVec.ofNat 3 (bitsOf r 27 25)).toFin && bitsOf r 24 24 == c % 2 && (ctx s c).holder == some cmd.iss.thread

/-- R425: the rows of a drain fill the entries that its dispatch made. -/
def fillQueue (serial vl width : Nat) : List Nat → List QEntry → List QEntry
  | [], l => l
  | _, [] => []
  | r :: rs, e :: l =>
    if e.drain = some serial ∧ e.ready = false then
      { e with vl := vl, width := width, data := ⟨BitVec.ofNat 32768 (r % 2 ^ (vl * width)), 0⟩, ready := true } :: fillQueue serial vl width rs l
    else e :: fillQueue serial vl width (r :: rs) l

/-- R425: deliver rows to a load queue of the thread of a slot. -/
def deliverRows (k : Nat) (q : Fin 8) (serial width : Nat) (rows : List Nat) (s : State) : State :=
  let t := thr s k
  setThr s k { t with queues := t.queues.set q (fillQueue serial 128 width rows t.queues[q]) }

/-- R425: the entries of a drain that it will not fill leave their queue. -/
def dropRows (k serial : Nat) (s : State) : State :=
  let t := thr s k
  setThr s k { t with queues := t.queues.map (fun l => l.filter (fun e => !(e.drain == some serial && !e.ready))) }

/-- R328, R425: the copy engine of a die whose head command is an active nest with PSRC = 1 that an entry of KIND 4 or 5
names. -/
def feedEngine (s : State) (d r : Nat) : Option Nat :=
  let active := fun (n : Nat) => match (engine s n).queue with
    | c :: _ => c.started && nestPsrc c && (rtKind r == 4 || nestPort c == bitsOf r 28 24)
    | [] => false
  if rtKind r = 4 then (if active (d * 4 + bitsOf r 25 24) then some (d * 4 + bitsOf r 25 24) else none)
  else ([0, 1, 2, 3].map (d * 4 + ·)).find? active

/-- R328: bytes join the feed of the nest at the head of a copy engine. -/
def feedNest (n bytes v : Nat) (s : State) : State :=
  match (engine s n).queue with
  | c :: _ => setHeadCmd n { c with feed := c.feed ++ (fieldsOf 8 bytes v).map (BitVec.ofNat 8) } s
  | [] => s

/-- R328: the bytes that the nest at the head of a copy engine has yet to be given. -/
def feedRoom (s : State) (n : Nat) : Nat :=
  match (engine s n).queue with
  | c :: _ => nestNeed c
  | [] => 0

/-! ## One tile (R424) -/

/-- How the rows of a tile reach their consumer. -/
inductive Sent where
  | all (s : State)
  | stop (cause : BitVec 8) (row : Nat) (s : State)
  | wait (s : State)

/-- R424: write rows one after another at offsets from an address, of which `off` bytes are written. -/
def sendRows (w : Who) (d : Side) (a : Word) (rb off : Nat) : List (Nat × Nat) → State → Sent
  | [], s => .all s
  | (i, v) :: l, s =>
    let at_ := a + BitVec.ofNat 64 off
    match xWrite w d at_ rb v s with
    | .ok _ s => sendRows w d a rb (off + rb) l (clearRun w d at_ off rb s)
    | .exc e s => .stop e i s
    | .lost e s => .stop e i s
    | .wait s => .wait s

/-- R328, R425: rows join the feed of a nest; bytes beyond its need stop the drain. -/
def feedRows (n rb : Nat) : List (Nat × Nat) → State → Sent
  | [], s => .all s
  | (i, v) :: l, s =>
    if feedRoom s n < rb then .stop 0x55 i (feedNest n (feedRoom s n) v s) else feedRows n rb l (feedNest n rb v s)

/-- R28, R287: one tile-addressed write of the rows. -/
def sendTile (w : Who) (ck t rb : Nat) (rows : List (Nat × Nat)) (rs : Nat) (s : State) : Sent :=
  match tileAccept (tileEntry s ck t) (rb * rows.length) with
  | .wait => .wait s
  | .refused => .stop 0x54 rs s
  | .accepted e => (match sendRows w (.tile ck t 0) 0 rb 0 rows (tileTake ck t e s) with
    | .stop e i s => .stop e i (tileLeft (some (ck, t)) s)
    | r => r)

/-- R36, R425: what the rows of a tile are bound for takes them: a tile accepts them all at once (R287), a load queue has its entries,
`made` at the dispatch, and a nest is active. -/
def sendOpen (c : Nat) (cmd : FaCmd) (q : Option (Fin 8)) (made : Bool) (r n : Nat) (s : State) : Res Unit :=
  let ck := clusterOfCore c
  match rtKind r with
  | 1 => (match tileAccept (tileEntry s ck (bitsOf r 23 16)) (drainRowBytes (rtFmt r) * n) with
    | .wait => .wait s
    | .refused => .exc 0x54 s
    | .accepted e => .ok () (tileTake ck (bitsOf r 23 16) e s))
  | 2 => .ok () s
  | 3 => if made && queueFits s c cmd q r then .ok () s else .exc 0x55 s
  | k => if k = 4 ∧ bitsOf r 26 26 = 1 then .exc 0x55 s else if (feedEngine s (dieOfCore c) r).isNone then .wait s else .ok () s

/-- R424, R425: row `i`, the `j`-th of a tile, goes where the route entry says. What a nest has no need of stops the drain (R328). -/
def sendRow (c : Nat) (w : Who) (cmd : FaCmd) (q : Option (Fin 8)) (r j i v : Nat) (s : State) : Sent :=
  let ck := clusterOfCore c
  let rb := drainRowBytes (rtFmt r)
  match rtKind r with
  | 1 => (match sendRows w (.tile ck (bitsOf r 23 16) 0) 0 rb (rb * j) [(i, v)] s with
    | .stop e i s => .stop e i (tileLeft (some (ck, bitsOf r 23 16)) s)
    | o => o)
  | 2 => sendRows w (.mem 0 none) (BitVec.ofNat 64 (rtAddr r)) rb (rb * j) [(i, v)] s
  | 3 => .all (match q with
    | some q' => deliverRows cmd.iss.thread q' cmd.serial (fmtBits (rtFmt r)) [v] s
    | none => s)
  | _ =>
    if (ctx s c).fed then .stop 0x55 i s
    else match feedEngine s (dieOfCore c) r with
      | none => .wait s
      | some n => (match feedRows n rb [(i, v)] s with
        | .all s => .all (setCtx s c { ctx s c with fed := feedRoom s n == 0 })
        | o => o)

/-- R104: the 32-bit OR of flags into the word at FLAGADDR. -/
def flagWord (w : Who) (r : Nat) (f : Flags7) (s : State) : Res Unit :=
  if bitsOf r 12 12 = 0 then .ok () s
  else
    let a := bitsOf r 184 128
    if a % 4 ≠ 0 then .exc 0x03 s
    else (xRead w (.mem 0 none) true (BitVec.ofNat 64 a) 4 s).next (fun v s =>
      xWrite w (.mem 0 none) (BitVec.ofNat 64 a) 4 (v ||| f.toNat) s)

/-- R33: the advance of ADDR after a drain of `n` bytes. -/
def routeAdvance' (ck tok r n : Nat) (s : State) : State :=
  if rtKind r = 2 ∧ bitsOf r 13 13 = 1 then writeMem s (routeAddr ck tok + 8) 8 ((rtAddr r + n) % 2 ^ 57) else s

/-- R423: ZAFT. -/
def zeroAfter (z : Bool) (g : Nat) (rows : List Nat) (t : AccTile) : AccTile :=
  if z then
    let t := { t with rows := rows.foldl (fun r i => tabErase i r) t.rows }
    if rows.length = g then { t with type := tyZ } else t
  else t

/-- R34: the route entry that a drain goes by: the copy it holds, or the entry, which it then holds. -/
def routeCopy (c tok : Nat) (s : State) : Nat × State :=
  match (ctx s c).route with
  | some r => (r, s)
  | none =>
    let r := routeRead s (clusterOfCore c) tok
    (r, setCtx s c { ctx s c with route := some r })

/-- R424: a drain has not touched tile `k`: its AMAX is what it was. -/
def drainUndo (c : Nat) (k : Fin 8) (s : State) : State := setAcc c k { accTile s c k with amax := (accWas s c k).amax } s

/-- R104, R424: every row of tile `k` is sent: the flags go out, the tile's bytes are reported, ADDR advances and ZAFT acts. -/
def drainEnd (c : Nat) (w : Who) (cmd : FaCmd) (k : Fin 8) (tok r : Nat) (rows : List Nat) (z : Bool) (s0 : State) : FaRes :=
  let t := accTile s0 c k
  let n := drainRowBytes (rtFmt r) * rows.length
  let fl := rows.foldl (fun g i => g ||| (drainRow t.type (rtFmt r) (accCells t i)).2) t.flags
  let ended : Res Unit := (flagWord w r fl (cmdFlags cmd.iss fl (accFlags c k fl s0))).next (fun _ s => reportBytes w (barNamed cmd.a1.toNat) n s)
  let top := ctlRowst cmd.a0 + rows.length
  match ended with
  | .wait s => .wait (waitFrom s0 s)
  | .exc e s => stopAt e top s
  | .lost e s => stopAt e top s
  | .ok _ s =>
    let s := routeAdvance' (clusterOfCore c) tok r n s
    .done (setAcc c k (zeroAfter z (ctx s c).rows rows (accTile s c k)) s)

/-- R424, R426: tile `k` of a drain, the `m`-th of its mask, goes on: it starts, with its route entry and AMAX +0; its consumer takes it; its
rows are sent one after another; it ends. -/
def drainTile (c : Nat) (w : Who) (cmd : FaCmd) (q : Option (Fin 8)) (k : Fin 8) (m : Nat) (rows : List Nat) (z : Bool) (s0 : State) : FaRes :=
  let t := accTile s0 c k
  let tok := cmd.tokens / 16 ^ m % 16
  let made := cmd.routes.find? (fun p => p.1 == m)
  let rs := ctlRowst cmd.a0
  match (ctx s0 c).row with
  | 0 =>
    if t.type = tyE then stopAt 0x51 rs s0
    else if t.type = tyP then stopAt 0x01 rs s0
    else
      let copy := match made with
        | some p => (p.2, setCtx s0 c { ctx s0 c with route := some p.2 })
        | none => routeCopy c tok s0
      if routeBad copy.1 then stopAt 0x55 rs copy.2
      else .wait (setAcc c k { t with amax := 0 } (rowMark c k 1 copy.2))
  | 1 =>
    match sendOpen c cmd q made.isSome ((ctx s0 c).route.getD 0) rows.length s0 with
    | .ok _ s => .wait (setCtx s c { ctx s c with row := 2, fed := false })
    | .wait s => .wait (waitFrom s0 s)
    | .exc e s => stopAt e rs (drainUndo c k s)
    | .lost e s => stopAt e rs (drainUndo c k s)
  | n + 2 =>
    let r := (ctx s0 c).route.getD 0
    match rows[n]? with
    | none => drainEnd c w cmd k tok r rows z s0
    | some i =>
      match sendRow c w cmd q r n i (drainRow t.type (rtFmt r) (accCells t i)).1 s0 with
      | .wait s => .wait (waitFrom s0 s)
      | .stop e i s => stopAt e i (drainUndo c k s)
      | .all s =>
        let amax := (accCells t i).foldl (amaxRaise t.type) t.amax.toNat
        .wait (setAcc c k { accTile s c k with amax := BitVec.ofNat 64 amax } (setCtx s c { ctx s c with row := n + 3 }))

/-- R423: the tiles of a drain that remain, each with its place in the mask order. -/
def drainTiles (c : Nat) (w : Who) (cmd : FaCmd) (q : Option (Fin 8)) (rows : List Nat) (z : Bool) : List (Fin 8 × Nat) → State → FaRes
  | [], s => .done (setCtx s c { ctx s c with drained := 0 })
  | (k, m) :: l, s =>
    match drainTile c w cmd q k m rows z s with
    | .done s => drainTiles c w cmd q rows z l (setCtx s c { ctx s c with drained := m + 1, route := none, row := 0, before := none })
    | .stop e b v h f s => .stop e b v h f (setCtx s c { ctx s c with drained := 0 })
    | .wait s => .wait s
    | .unready s => .unready s

/-- R423: the tiles that a drain's mask names, in ascending order. -/
def maskTiles (m : Nat) : List (Fin 8) := (List.finRange 8).filter (fun k => m.testBit k.val)

/-- R423, R424: `fa.drain` and `fa.drainv`; the checks are made before the first tile starts. (DEDUCED: log entry 45.) -/
def faDrainRun (c : Nat) (cmd : FaCmd) (q : Option (Fin 8)) (s : State) : FaRes :=
  let w := whoF s c cmd.iss
  let g := (ctx s c).rows
  let rs := ctlRowst cmd.a0
  let go := fun (s : State) => drainTiles c w cmd q (rowsFrom rs (ctlRows cmd.a0 g)) (cmd.a0.getLsbD 23)
    ((zipMap (fun (k : Fin 8) (m : Nat) => (k, m)) (maskTiles cmd.a0.toNat) (List.range 8)).drop (ctx s c).drained) s
  if (ctx s c).row ≠ 0 ∨ (ctx s c).drained ≠ 0 then go s
  else if rowsBeyond cmd.a0 g then stopAt 0x42 rs s
  else if bitsOf cmd.a0.toNat 63 24 ≠ 0 then stopAt 0x01 rs s
  else match barOf w (barNamed cmd.a1.toNat) s with
    | .exc e s => stopAt e rs s
    | .lost e s => stopAt e rs s
    | .wait s => .wait s
    | .ok _ s => go s

/-- R425: the tiles of a drain with a queue field, by their place in its mask, whose route entry is of KIND 3 and suits the drain, each
with that entry. -/
def drainRoutes (s : State) (c : Nat) (cmd : FaCmd) (q : Option (Fin 8)) : List (Nat × Nat) :=
  if rowsBeyond cmd.a0 (ctx s c).rows then []
  else ((List.range (maskTiles cmd.a0.toNat).length).map (fun m => (m, routeRead s (clusterOfCore c) (cmd.tokens / 16 ^ m % 16)))).filter
    (fun p => rtKind p.2 == 3 && !routeBad p.2 && queueFits s c cmd q p.2)

/-- R425: the load-queue entries that a drain makes for those tiles when it is dispatched, one for each row, with serial numbers
from `id`. -/
def drainEntries (id serial n : Nat) (rs : List (Nat × Nat)) : List QEntry :=
  (rs.flatMap (fun p => List.replicate n (fmtBits (rtFmt p.2)))).mapIdx (fun i w => ⟨id + i, 128, w, ⟨0, 0⟩, false, some serial⟩)

end Sys2Proof.Machine
end

