-- ==== Sys2Proof/Machine/Vocab.lean ====
section
/-! DEFINITION. The vocabulary projection (R431..R448): the projection record and its checks, the state of a token, chunks of a
shard, merges, and the regeneration of gradients. -/

namespace Sys2Proof.Machine

/-! ## The projection record (R432) -/

/-- HID. -/
def vpHid (v : Nat) : Word := BitVec.ofNat 64 (bitsOf v 63 0)
/-- HCTL. -/
def vpHctl (v : Nat) : Word := BitVec.ofNat 64 (bitsOf v 127 64)
/-- The element format that PF names. -/
def vpFmt (v : Nat) : Nat := productFmt (bitsOf v 143 140)
/-- The scale block length that ABLK names. -/
def vpBlk (v : Nat) : Nat := blkLen (bitsOf v 146 144)
/-- INIT. -/
def vpInit (v : Nat) : Bool := v.testBit 147
/-- The hidden dimension D. -/
def vpDim (v : Nat) : Nat := 32 * (bitsOf v 154 148 + 1)
/-- ROWST. -/
def vpRowst (v : Nat) : Nat := bitsOf v 161 155
/-- The token count NR. -/
def vpRows (v g : Nat) : Nat := if bitsOf v 169 162 = 0 then g - vpRowst v else bitsOf v 169 162
/-- EPITCH. -/
def vpEpitch (v : Nat) : Nat := bitsOf v 191 176
/-- BASE. -/
def vpBase (v : Nat) : Nat := bitsOf v 223 192
/-- END. -/
def vpEnd (v : Nat) : Nat := bitsOf v 255 224
/-- CUR. -/
def vpCur (v : Nat) : Nat := bitsOf v 287 256
/-- K. -/
def vpK (v : Nat) : Nat := bitsOf v 300 288
/-- EROT. -/
def vpErot (v : Nat) : Nat := bitsOf v 310 304
/-- NSCALE. -/
def vpNscale (v : Nat) : Nat := bitsOf v 351 320
/-- THR. -/
def vpThr (v : Nat) : Nat := bitsOf v 383 352
/-- SPBASE. -/
def vpSpbase (v : Nat) : Word := BitVec.ofNat 64 (bitsOf v 440 384)
/-- SPCAP. -/
def vpSpcap (v : Nat) : Nat := bitsOf v 460 448
/-- SPPW. -/
def vpSppw (v : Nat) : Nat := bitsOf v 479 464
/-- LSCALE. -/
def vpLscale (v : Nat) : Nat := bitsOf v 511 480
/-- LAB. -/
def vpLab (v : Nat) : Word := BitVec.ofNat 64 (bitsOf v 568 512)
/-- STATE. -/
def vpState (v : Nat) : Word := BitVec.ofNat 64 (bitsOf v 632 576)
/-- ETOK. -/
def vpEtok (v : Nat) : Nat := bitsOf v 643 640

/-- R431: the forms: 0 `vproj`, 1 `vproj.thresh`, 2 `vproj.bwd`. -/
abbrev VpForm := Nat

/-- R435: MODE of a form: 0 a heap in the array, 1 in the spill area, 2 a threshold list. -/
def vpMode (form : VpForm) (v : Nat) : Nat := if form = 1 then 2 else if 64 < vpK v then 1 else 0

/-- R446: accumulator rows of a token. -/
def vpRpt (v : Nat) : Nat := (vpDim v + 127) / 128

/-- R402, R437: bytes of a hidden or embedding row. -/
def vpRowBytes (v : Nat) : Nat := rowBytes (vpFmt v) (vpBlk v) (vpDim v)

/-- R432: a field that the form treats as reserved, or a reserved field, is not zero. -/
def vpReserved (form : VpForm) (v : Nat) : Bool :=
  let z := fun (l : List (Nat × Nat)) => l.any (fun p => bitsOf v p.1 p.2 != 0)
  z [(175, 170), (303, 301), (319, 311), (447, 441), (463, 461), (575, 569), (639, 633), (1023, 644)]
    || (match form with
      | 0 => z [(383, 352), (511, 480), (632, 576), (643, 640)] || (decide (vpK v ≤ 64) && z [(440, 384), (460, 448), (479, 464)])
      | 1 => z [(511, 480), (632, 576), (643, 640)]
      | _ => z [(300, 288), (383, 352), (440, 384), (460, 448), (479, 464), (568, 512)])

/-- R433: the f32 code is finite and positive. -/
def posFinite (b : Nat) : Bool := match floatVal 0 b with
  | .fin s m _ => !s && m != 0
  | _ => false

/-- R433: the checks of the record's fields for cause 0x01. -/
def vpFieldsBad (form : VpForm) (v : Nat) : Bool :=
  vpReserved form v || decide (10 ≤ bitsOf v 143 140) || !fmtBlkOk (vpFmt v) (bitsOf v 146 144) || decide (128 < bitsOf v 169 162)
    || rotReserved (vpErot v) || decide (vpEnd v < vpBase v) || decide (2 ^ 31 < vpEnd v) || decide (vpCur v < vpBase v)
    || decide (vpEnd v < vpCur v) || (vpCur v - vpBase v) % 128 != 0 || decide (255 < bitsOf v 135 128 + bitsOf v 139 136)
    || !posFinite (vpNscale v) || isNanV (floatVal 0 (vpThr v)) || (form == 0 && (vpK v == 0 || decide (4096 < vpK v)))
    || decide (4096 < vpSpcap v) || (form != 2 && vpMode form v != 0 && decide (32 * vpSppw v < 8 * vpSpcap v))

/-! ## The state of a token (R434) -/

/-- The state of a token. Label slots hold the logit, the identifier and CAP. -/
structure TokState where
  m : Nat
  sum : Nat
  cnt : Nat
  k : Nat
  mode : Nat
  pois : Bool
  live : Bool
  lbl : Nat
  slots : List (Nat × Nat × Bool)
  lo : Nat
  hi : Nat
  /-- Entries held in the array: logit and vocabulary index. -/
  heap : List (Nat × Nat)
  deriving DecidableEq, Repr

/-- An 8-byte entry: the logit and the index. -/
def candOf (v : Nat) : Nat × Nat := (v % 2 ^ 32, v / 2 ^ 32 % 2 ^ 32)
/-- An entry as 8 bytes. -/
def entryCell (e : Nat × Nat) : Nat := e.1 % 2 ^ 32 + e.2 % 2 ^ 32 * 2 ^ 32

/-- R434: a state from its cells. -/
def tokOf (cells : List Nat) : TokState :=
  let at_ := fun (i : Nat) => cells.getD i 0
  let c1 := at_ 1
  { m := at_ 0 % 2 ^ 32, sum := at_ 0 / 2 ^ 32, cnt := bitsOf c1 12 0, k := bitsOf c1 25 13, mode := bitsOf c1 27 26,
    pois := c1.testBit 28, live := c1.testBit 29, lbl := bitsOf c1 33 30,
    slots := ((cells.drop 2).take 4).map (fun v => (v % 2 ^ 32, bitsOf v 62 32, v.testBit 63)),
    lo := at_ 6 % 2 ^ 32, hi := at_ 6 / 2 ^ 32, heap := ((cells.drop 8).take (min 64 (bitsOf c1 12 0))).map candOf }

/-- R434: the cells of a state. -/
def tokCells (t : TokState) : List Nat :=
  [t.m + t.sum * 2 ^ 32,
   t.cnt % 2 ^ 13 + t.k % 2 ^ 13 * 2 ^ 13 + t.mode % 4 * 2 ^ 26 + t.pois.toNat * 2 ^ 28 + t.live.toNat * 2 ^ 29 + t.lbl % 16 * 2 ^ 30]
    ++ t.slots.map (fun q => q.1 + q.2.1 * 2 ^ 32 + q.2.2.toNat * 2 ^ 63)
    ++ [t.lo + t.hi * 2 ^ 32, 0]
    ++ ((if t.mode = 0 then t.heap.map entryCell else []) ++ List.replicate 120 0).take 120

/-- R438: the order of logits that are no NaN; both zeros are one value. -/
def f32Key (v : Nat) : Int := if v.testBit 31 then -((v % 2 ^ 31 : Nat) : Int) else (v % 2 ^ 31 : Nat)

/-- R438: an entry ranks before another. -/
def ranksBefore (a b : Nat × Nat) : Bool := decide (f32Key b.1 < f32Key a.1) || (f32Key a.1 == f32Key b.1 && decide (a.2 < b.2))

/-- R438: an entry placed in a ranked list. -/
def rankInsert (e : Nat × Nat) : List (Nat × Nat) → List (Nat × Nat)
  | [] => [e]
  | a :: l => if ranksBefore e a then e :: a :: l else a :: rankInsert e l

/-- R438: the first `k` entries in rank order. -/
def ranked (k : Nat) (l : List (Nat × Nat)) : List (Nat × Nat) := (l.foldl (fun r e => rankInsert e r) []).take k

/-- An f32 code is a NaN. -/
def f32Nan (v : Nat) : Bool := isNanV (floatVal 0 v)

/-- The code of minus infinity. -/
def f32NegInf : Nat := 0xFF800000

/-- R439: a rounded difference of f32 codes. -/
def f32Sub (a b : Nat) : Nat × Flags7 := addCode 0 RNE 0 a (b ^^^ 0x80000000)

/-- R439: `exp2(rnd(a - b))`. -/
def exp2Diff (a b : Nat) : Nat × Flags7 :=
  let d := f32Sub a b
  let e := exp2Code d.1
  (e.1, d.2 ||| e.2)

/-- R439, R444: `rnd(s * exp2(rnd(a - b)))`, or +0 when `a` is minus infinity. -/
def rescaled (s a b : Nat) : Nat × Flags7 :=
  if a = f32NegInf then (0, 0)
  else
    let e := exp2Diff a b
    let r := mulCode 0 RNE 0 s e.1
    (r.1, e.2 ||| r.2)

/-- R439: one logit's term of the normaliser. -/
def normStep (m : Nat) (a : Nat × Flags7) (y : Nat) : Nat × Flags7 :=
  if f32Nan y then (fmtNan 0, a.2)
  else if y = f32NegInf then a
  else
    let e := exp2Diff y m
    let r := addCode 0 RNE 0 a.1 e.1
    (r.1, a.2 ||| e.2 ||| r.2)

/-- R439: the normaliser after a chunk: m, S and the flags. -/
def normalise (m s : Nat) (ys : List Nat) : Nat × Nat × Flags7 :=
  let cm := (ys.filter (fun y => !f32Nan y)).foldl (fun a y => (minMaxCode 0 true a y).1) f32NegInf
  let m' := (minMaxCode 0 true m cm).1
  let s0 : Nat × Flags7 := if f32Nan s then (s, 0) else rescaled s m m'
  let r := ys.foldl (normStep m') s0
  (m', r.1, r.2)

/-! ## Chunks (R436..R441) -/

/-- R402: the elements of a row with their scales. -/
def vpElems (v row : Nat) : List FVal :=
  let f := vpFmt v
  let b := vpBlk v
  let eb := fmtBytes f (vpDim v)
  (List.range (vpDim v)).map (fun d =>
    scaledElem f (row / 2 ^ (fmtBits f * d) % 2 ^ fmtBits f) (if b = 0 then 127 else row / 256 ^ (eb + d / b) % 256))

/-- R437: the window of R99 for logits. -/
def vpWindow (v : Nat) : Nat := if bitsOf v 146 144 = 0 ∨ bitsOf v 146 144 = 3 ∨ bitsOf v 146 144 = 4 then 64 else 96

/-- R437: products summed in groups of 32 from an accumulator. -/
def groupedSum (win acc : Nat) (ps : List FVal) : Nat × Flags7 := addGroups (chunksOf 32 (ps.length / 32 + 1) ps) win acc

/-- R437: the logit and `y` of a token against a row. -/
def vpLogit (v : Nat) (h e : List FVal) : Nat × Nat × Flags7 :=
  let x := groupedSum (vpWindow v) 0 (zipMap (fun a b => (mulVal a b).1) h e)
  let y := mulCode 0 RNE 0 x.1 (vpNscale v)
  (x.1, y.1, x.2 ||| y.2)

/-- The first vocabulary index of chunk `c`. -/
def vpFirst (v c : Nat) : Nat := vpBase v + 128 * c
/-- R436: the rows of chunk `c`. -/
def vpCount (v c : Nat) : Nat := min 128 (vpEnd v - vpFirst v c)
/-- R436: the tile that chunk `c` is read from. -/
def vpTile (v c : Nat) : Nat := bitsOf v 135 128 + c % (bitsOf v 139 136 + 1)

/-- The hidden operand of an instruction that may read it. -/
def vpHidden (c : Nat) (v : Nat) : Opnd := opndOf c (vpHid v) (vpHctl v) (bitsOf (vpHctl v).toNat 15 0)

/-- R441: the hidden rows of the tokens, or the token that faults and its cause. -/
def vpHiddens (s : State) (c : Nat) (w : Who) (v : Nat) : List Nat → Except (BitVec 8 × Nat) (List (List FVal))
  | [] => .ok []
  | j :: l =>
    match opndRow s c w (vpHidden c v) [(0, vpRowBytes v)] (fmtBits (vpFmt v)) (vpDim v) j with
    | .error e => .error (e, j)
    | .ok r => match vpHiddens s c w v l with
      | .ok t => .ok (vpElems v r :: t)
      | .error e => .error e

/-- R436: the embedding rows of a chunk. -/
def vpEmbeds (s : State) (c : Nat) (w : Who) (v t : Nat) : List Nat → Except (BitVec 8) (List (List FVal))
  | [] => .ok []
  | r :: l =>
    let ck := clusterOfCore c
    match xRead w (.tile ck t (vpErot v)) false (BitVec.ofNat 64 (r * vpEpitch v)) (vpRowBytes v) s with
    | .ok x _ => (match vpEmbeds s c w v t l with
      | .ok m => .ok (vpElems v x :: m)
      | .error e => .error e)
    | .exc e _ => .error e
    | .lost e _ => .error e
    | .wait _ => .error 0x10

/-- R436: a chunk does not fit its tile. -/
def vpTileShort (s : State) (c v ch : Nat) : Bool :=
  let z := tileSize (tileEntry s (clusterOfCore c) (vpTile v ch))
  let n := vpCount v ch
  decide (z < n * vpEpitch v) || decide (z < (n - 1) * vpEpitch v + vpRowBytes v)

/-- What a chunk does to one token, in staging: its new state, the bytes of its spill area that change, and the flags. -/
structure TokStage where
  st : TokState
  spill : Option (Word × List (Nat × Nat))
  fl : Flags7
  deriving Repr

/-- R441: the entries that a token holds in its spill area. -/
def spillRead (w : Who) (s : State) (a : Word) (n : Nat) : Except (BitVec 8) (List (Nat × Nat)) :=
  match xRead w (.mem 0 none) false a (8 * n) s with
  | .ok v _ => .ok ((fieldsOf 64 n v).map candOf)
  | .exc e _ => .error e
  | .lost e _ => .error e
  | .wait _ => .error 0x10

/-- R437..R441: one token's part of a chunk: its logits `xs` with indices, and the state after; `old` is its list in the spill
area. -/
def tokChunk (v mode first : Nat) (area : Word) (h : List FVal) (es : List (List FVal)) (t : TokState) (old : List (Nat × Nat)) : TokStage :=
  let ls := es.map (vpLogit v h)
  let xs := ls.map (fun l => l.1)
  let nan := xs.any f32Nan
  let nm := normalise t.m t.sum (ls.map (fun l => l.2.1))
  let cand := (zipMap (fun (x i : Nat) => (x, i)) xs ((List.range xs.length).map (first + ·))).filter (fun e => !f32Nan e.1)
  let slots := t.slots.mapIdx (fun i q =>
    if t.lbl.testBit i = true ∧ first ≤ q.2.1 ∧ q.2.1 < first + xs.length then (xs.getD (q.2.1 - first) 0, q.2.1, true) else q)
  let list := if mode = 2 then cand.filter (fun e => decide (f32Key (vpThr v) ≤ f32Key e.1))
    else ranked (vpK v) ((if mode = 0 then t.heap else old) ++ cand)
  let cnt := if mode = 2 then t.cnt + list.length else list.length
  { st := { t with m := nm.1, sum := nm.2.1, cnt := cnt, pois := t.pois || nan, slots := slots, hi := first + xs.length,
                   heap := if mode = 0 then list else [] }
    spill := if mode = 0 then none else some (if mode = 2 then area + BitVec.ofNat 64 (8 * t.cnt) else area, list)
    fl := ls.foldl (fun g l => g ||| l.2.2) (nm.2.2 ||| fIf nan fNV) }

/-- R441: a token's part of a chunk, with what it reads of its spill area. -/
def vpToken (s : State) (w : Who) (v mode ch j : Nat) (h : List FVal) (es : List (List FVal)) (t : TokState) : Except (BitVec 8) TokStage :=
  let area := vpSpbase v + BitVec.ofNat 64 (32 * vpSppw v * j)
  match (if mode = 1 then spillRead w s area t.cnt else .ok []) with
  | .error e => .error e
  | .ok old =>
    let r := tokChunk v mode (vpFirst v ch) area h es t old
    if mode ≠ 0 ∧ vpSpcap v < r.st.cnt then .error 0x52 else .ok r

/-- R441: every token of a chunk in staging, or the token that stops it. -/
def vpTokens (s : State) (w : Who) (v mode ch : Nat) (es : List (List FVal)) (acc : AccTile) :
    List (Nat × List FVal) → Except (BitVec 8 × Nat) (List (Nat × TokStage))
  | [] => .ok []
  | (j, h) :: l =>
    match vpToken s w v mode ch j h es (tokOf (accCells acc (vpRowst v + j))) with
    | .error e => .error (e, j)
    | .ok r => match vpTokens s w v mode ch es acc l with
      | .ok t => .ok ((j, r) :: t)
      | .error e => .error e

/-- R441: the spill entries of a chunk are written: all of them or none. -/
def vpSpill (w : Who) (s0 : State) : List (Nat × TokStage) → State → Sent
  | [], s => .all s
  | (j, r) :: l, s =>
    match r.spill with
    | none => vpSpill w s0 l s
    | some (a, es) =>
      match xWrite w (.mem 0 none) a (8 * es.length) (joinFields 64 (es.map entryCell)) s with
      | .ok _ s => vpSpill w s0 l s
      | .exc e _ => .stop e j s0
      | .lost e _ => .stop e j s0
      | .wait s => .wait (waitFrom s0 s)

/-- R441: the tile of a committed chunk is released, if nothing has released it since its reads issued, and the instruction has done one
more chunk. -/
def vpCommit (c v ch : Nat) (s : State) : State :=
  let ck := clusterOfCore c
  let t := vpTile v ch
  let s := if tileState (tileEntry s ck t) = 2 then setTileEntry ck t (tileReleaseEntry (tileEntry s ck t)) s else s
  setCtx s c { ctx s c with drained := (ctx s c).drained + 1, route := none, row := 0 }

/-- R441: a stop at a chunk, at the row of a token. -/
def vpStop (v ch row : Nat) (cause : BitVec 8) (s : State) : FaRes := .stop cause row (vpFirst v ch) ch 0 s

/-- R436, R441: one chunk of `vproj` or `vproj.thresh`, after its tile is ready. -/
def vpChunk (c : Nat) (w : Who) (k : Fin 8) (v mode ch : Nat) (s : State) : FaRes :=
  let rs := vpRowst v
  let toks := List.range (vpRows v (ctx s c).rows)
  if vpTileShort s c v ch then vpStop v ch rs 0x01 s
  else match vpHiddens s c w v toks, vpEmbeds s c w v (vpTile v ch) (List.range (vpCount v ch)) with
    | .error (e, j), _ => vpStop v ch (rs + j) e s
    | _, .error e => vpStop v ch rs e s
    | .ok hs, .ok es =>
      match vpTokens s w v mode ch es (accTile s c k) (zipMap (fun (j : Nat) (h : List FVal) => (j, h)) toks hs) with
      | .error (e, j) => vpStop v ch (rs + j) e s
      | .ok rs' =>
        match vpSpill w s rs' s with
        | .wait s => .wait s
        | .stop e j s => vpStop v ch (rs + j) e s
        | .all s =>
          let t := rs'.foldl (fun t p => commitRow tyI (rs + p.1) ((tokCells p.2.st).map some) p.2.fl t) (accTile s c k)
          .done (vpCommit c v ch (setAcc c k t s))

/-- R436: the chunks that remain, each when its tile is ready. -/
def vpChunks (c v : Nat) (f : Nat → State → FaRes) : Nat → State → FaRes
  | 0, s => .done (setCtx s c { ctx s c with drained := 0 })
  | n + 1, s =>
    let ch := (vpCur v - vpBase v) / 128 + ((ctx s c).drained - 1)
    if vpEnd v ≤ vpFirst v ch then .done (setCtx s c { ctx s c with drained := 0 })
    else match (if (ctx s c).row ≠ 0 then TileRead.go s else tileReadAt c (some (clusterOfCore c, vpTile v ch)) s) with
      | .wait s => .wait s
      | .empty s => vpStop v ch (vpRowst v) 0x51 (setCtx s c { ctx s c with drained := 0 })
      | .go s => match f ch s with
        | .done s => vpChunks c v f n s
        | .stop e b u h fl s => .stop e b u h fl (setCtx s c { ctx s c with drained := 0 })
        | .wait s => .wait (setCtx s c { ctx s c with row := 1 })
        | .unready s => .wait s

/-- R436: more turns than a shard has chunks. -/
def vpFuel (v : Nat) : Nat := vpEnd v / 128 + 2

/-! ## The checks and the start (R433, R435) -/

/-- R433: a stop at issue. -/
def vpRefuse (v : Nat) (cause : BitVec 8) (s : State) : FaRes := .stop cause (vpRowst v) (vpCur v) 0 0 s

/-- R433: bytes at an address outside the scratchpad of the issuing cluster. -/
def vpOutside (s : State) (c : Nat) (w : Who) (a : Word) (n : Nat) : Bool := (pagesOf a n).any (outsidePad s c w)

/-- R433: the checks that come before the tile's own, in their order. -/
def vpCheck (form : VpForm) (c : Nat) (w : Who) (v : Nat) (s : State) : Option (BitVec 8) :=
  let g := (ctx s c).rows
  let n := vpRows v g
  let used := if form = 2 then n * vpRpt v else n
  if g < vpRowst v + used ∨ g < vpRowst v then some 0x42
  else if vpFieldsBad form v then some 0x01
  else match opndCheck s c w (vpHid v) (vpHctl v) (bitsOf (vpHctl v).toNat 15 0) [(0, vpRowBytes v)] (List.range n) with
    | some e => some e
    | none =>
      if (vpLab v).toNat % 32 ≠ 0 ∨ (vpSpbase v).toNat % 32 ≠ 0 ∨ (vpState v).toNat % 32 ≠ 0 ∨ vpEpitch v % 32 ≠ 0 then some 0x03
      else if (vpLab v ≠ 0 ∧ vpOutside s c w (vpLab v) (16 * n) = true)
          ∨ (form ≠ 2 ∧ vpMode form v ≠ 0 ∧ vpOutside s c w (vpSpbase v) (32 * vpSppw v * n) = true)
          ∨ (form = 2 ∧ vpOutside s c w (vpState v) (1024 * n) = true) then some 0x13
      else none

/-- R435: the label slots of token `j`: LBL and the slots. -/
def vpLabels (s : State) (w : Who) (v j : Nat) : Except (BitVec 8) (Nat × List (Nat × Nat × Bool)) :=
  if vpLab v = 0 then .ok (0, List.replicate 4 (0, 0x7FFFFFFF, false))
  else match xRead w (.mem 0 none) false (vpLab v + BitVec.ofNat 64 (16 * j)) 16 s with
    | .ok x _ =>
      let ids := fieldsOf 32 4 x
      .ok ((ids.mapIdx (fun i d => if d.testBit 31 then 0 else 2 ^ i)).foldl (· + ·) 0,
        ids.map (fun d => (0, if d.testBit 31 then 0x7FFFFFFF else d, false)))
    | .exc e _ => .error e
    | .lost e _ => .error e
    | .wait _ => .error 0x10

/-- R435: the states of tokens as INIT = 1 sets them. -/
def vpInits (s : State) (w : Who) (form : VpForm) (v : Nat) : List Nat → Except (BitVec 8) (List (Nat × TokState))
  | [] => .ok []
  | j :: l =>
    match vpLabels s w v j, vpInits s w form v l with
    | .error e, _ => .error e
    | _, .error e => .error e
    | .ok q, .ok r => .ok ((j, ⟨f32NegInf, 0, 0, vpK v, vpMode form v, false, true, q.1, q.2, vpBase v, vpBase v, []⟩) :: r)

/-- R435: the state of a row suits an instruction that continues it. -/
def vpContinues (form : VpForm) (v : Nat) (t : TokState) : Bool :=
  t.live && (form == 1 || t.k == vpK v) && t.mode == vpMode form v && t.lo == vpBase v && t.hi == vpCur v

/-- R435: the tile is initialised, or continued; then the instruction has begun. -/
def vpStart (form : VpForm) (c : Nat) (w : Who) (k : Fin 8) (v : Nat) (s : State) : FaRes :=
  let t := accTile s c k
  let toks := List.range (vpRows v (ctx s c).rows)
  let begun := fun (s : State) => FaRes.done (setCtx s c { ctx s c with drained := 1 })
  if vpInit v then
    if t.type ≠ tyE ∧ t.type ≠ tyZ ∧ t.type ≠ tyI then vpRefuse v 0x01 s
    else match vpInits s w form v toks with
      | .error e => vpRefuse v e s
      | .ok l =>
        let t := if t.type = tyI then t else { t with type := tyI, rows := [] }
        begun (setAcc c k (l.foldl (fun t p => commitRow tyI (vpRowst v + p.1) ((tokCells p.2).map some) 0 t) t) s)
  else if t.type = tyE then vpRefuse v 0x51 s
  else if t.type ≠ tyI then vpRefuse v 0x01 s
  else match toks.find? (fun j => !vpContinues form v (tokOf (accCells t (vpRowst v + j)))) with
    | some j => .stop 0x01 (vpRowst v + j) (vpCur v) 0 0 s
    | none => begun s

/-- R433..R441: an instruction from its checks, or from the chunk it had come to, with its own start and chunk. -/
def vpRun (form : VpForm) (c : Nat) (cmd : FaCmd) (start : Who → State → FaRes) (chunk : Who → Nat → State → FaRes) (s : State) : FaRes :=
  let w := whoF s c cmd.iss
  let v := cmd.record
  match cmd.bad with
  | some e => stopAt e 0 s
  | none =>
    let go := vpChunks c v (chunk w) (vpFuel v)
    if (ctx s c).drained ≠ 0 then go s
    else match vpCheck form c w v s with
      | some e => vpRefuse v e s
      | none =>
        match tileReadAt c (opndRef c (vpHid v)) s with
        | .wait s => .unready s
        | .empty s => vpRefuse v 0x51 s
        | .go s => match start w s with
          | .done s => go s
          | r => r

/-- R436: `vproj` and `vproj.thresh`. -/
def vprojRun (form : VpForm) (c : Nat) (cmd : FaCmd) (k : Fin 8) (s : State) : FaRes :=
  vpRun form c cmd (fun w s => vpStart form c w k cmd.record s) (fun w ch s => vpChunk c w k cmd.record (vpMode form cmd.record) ch s) s

/-! ## Merging (R443, R444) -/

/-- R443: two states may be merged, the left one first. -/
def mergeable (a b : TokState) : Bool :=
  a.live && b.live && a.mode == 0 && b.mode == 0 && a.k == b.k && a.lbl == b.lbl
    && a.slots.map (fun q => q.2.1) == b.slots.map (fun q => q.2.1) && a.hi == b.lo

/-- R444: the merge of two states. -/
def mergeTok (a b : TokState) : TokState × Flags7 :=
  let m := (minMaxCode 0 true a.m b.m).1
  let x := rescaled a.sum a.m m
  let y := rescaled b.sum b.m m
  let z : Nat × Flags7 := if f32Nan a.sum || f32Nan b.sum then (fmtNan 0, 0) else addCode 0 RNE 0 x.1 y.1
  let h := ranked a.k (a.heap ++ b.heap)
  ({ a with m := m, sum := z.1, cnt := h.length, heap := h, pois := a.pois || b.pois, hi := b.hi
            slots := zipMap (fun (p q : Nat × Nat × Bool) => if p.2.2 then p else q) a.slots b.slots }, x.2 ||| y.2 ||| z.2)

/-- R443: `vpmerge`. -/
def vpmergeRun (c : Nat) (cmd : FaCmd) (k : Fin 8) (s : State) : FaRes :=
  let w := whoF s c cmd.iss
  let g := (ctx s c).rows
  let ct := cmd.c0.toNat
  let rs := bitsOf ct 6 0
  let n := if bitsOf ct 14 7 = 0 then g - rs else bitsOf ct 14 7
  let t := accTile s c k
  let rows := rowsFrom rs n
  let pitch := bitsOf cmd.a1.toNat 15 0
  let go := fun (s : State) =>
    rowsRun c k tyI (fun i => match opndRow s c w (opndOf c cmd.a0 cmd.a1 pitch) [(0, 1024)] 64 128 i with
      | .error e => .stop e 0
      | .ok v =>
        let own := tokOf (accCells t i)
        let other := tokOf (fieldsOf 64 128 v)
        let a := if ct.testBit 15 then other else own
        let b := if ct.testBit 15 then own else other
        if mergeable a b then let r := mergeTok a b; .cells ((tokCells r.1).map some) r.2 else .stop 0x01 0) rows s
  if (ctx s c).row ≠ 0 then go s
  else if bitsOf ct 63 16 ≠ 0 then stopAt 0x01 rs s
  else if g < rs + n ∨ g < rs then stopAt 0x42 rs s
  else if t.type = tyE then stopAt 0x51 rs s
  else if t.type ≠ tyI then stopAt 0x01 rs s
  else match opndCheck s c w cmd.a0 cmd.a1 pitch [(0, 1024)] rows with
    | some e => stopAt e rs s
    | none =>
      match tileReadAt c (opndRef c cmd.a0) s with
      | .wait s => .unready s
      | .empty s => stopAt 0x51 rs s
      | .go s => go s

/-! ## Backward regeneration (R446, R447) -/

/-- R446: the final state of token `j`: m, S, LIVE and the label of slot 0. -/
def bwdState (s : State) (w : Who) (v j : Nat) : Except (BitVec 8) (Nat × Nat × Bool × Option Nat) :=
  match xRead w (.mem 0 none) false (vpState v + BitVec.ofNat 64 (1024 * j)) 24 s with
  | .ok x _ =>
    let t := tokOf (fieldsOf 64 3 x)
    .ok (t.m, t.sum, t.live, if t.lbl.testBit 0 then (t.slots.head?).map (fun q => q.2.1) else none)
  | .exc e _ => .error e
  | .lost e _ => .error e
  | .wait _ => .error 0x10

/-- R446: the states of tokens, or the token that faults and its cause. -/
def bwdStates (s : State) (w : Who) (v : Nat) : List Nat → Except (BitVec 8 × Nat) (List (Nat × Nat × Bool × Option Nat))
  | [] => .ok []
  | j :: l =>
    match bwdState s w v j with
    | .error e => .error (e, j)
    | .ok q => match bwdStates s w v l with
      | .ok r => .ok (q :: r)
      | .error e => .error e

/-- R446: the checks of the tile and of the states, and the clearing of the dH rows. -/
def bwdStart (c : Nat) (w : Who) (k : Fin 8) (v : Nat) (s : State) : FaRes :=
  let t := accTile s c k
  let n := vpRows v (ctx s c).rows
  let begun := fun (s : State) => FaRes.done (setCtx s c { ctx s c with drained := 1 })
  if vpInit v = false ∧ t.type = tyE then vpRefuse v 0x51 s
  else if ¬(t.type = tyF ∨ t.type = tyZ ∨ (vpInit v = true ∧ t.type = tyE)) then vpRefuse v 0x01 s
  else match bwdStates s w v (List.range n) with
    | .error (e, j) => .stop e (vpRowst v + j * vpRpt v) (vpCur v) 0 0 s
    | .ok l =>
      match (List.range n).find? (fun j => !((l.getD j (0, 0, false, none)).2.2.1)) with
      | some j => .stop 0x01 (vpRowst v + j * vpRpt v) (vpCur v) 0 0 s
      | none =>
        if vpInit v then
          begun (setAcc c k { t with type := tyF, rows := if t.type = tyF then (rowsFrom (vpRowst v) (n * vpRpt v)).foldl (fun r i => tabErase i r) t.rows else [] } s)
        else begun s

/-- A rounded quotient of f32 codes. -/
def f32Div (a b : Nat) : Nat × Flags7 :=
  let q := divVal (floatVal 0 a) (floatVal 0 b)
  let r := rndTo 0 RNE 0 q.1
  (r.1, q.2 ||| r.2.1)

/-- R447: `g[j][r]` of a token against the row of vocabulary index `i`. -/
def bwdCoef (v i : Nat) (st : Nat × Nat × Bool × Option Nat) (h e : List FVal) : Nat × Flags7 :=
  let x := vpLogit v h e
  let ex := exp2Diff x.2.1 st.1
  let p := f32Div ex.1 st.2.1
  let q := f32Sub p.1 (if st.2.2.2 = some i then 0x3F800000 else 0)
  let g := mulCode 0 RNE 0 q.1 (vpLscale v)
  (g.1, x.2.2 ||| ex.2 ||| p.2 ||| q.2 ||| g.2)

/-- R447: the window of the gradient sums. -/
def bwdWindow (v : Nat) : Nat := if bitsOf v 146 144 = 0 then 64 else 96

/-- R447: sums from +0 over a list of coefficients with the vectors they weigh, one for each hidden element. -/
def bwdSums (v : Nat) (gs : List Nat) (vs : List (List FVal)) : List (Nat × Flags7) :=
  let gv := gs.map (floatVal 0)
  (List.range (vpDim v)).map (fun d =>
    groupedSum (bwdWindow v) 0 (zipMap (fun g (x : List FVal) => (mulVal g (x.getD d (.fin false 0 0))).1) gv vs))

/-- R447: the sum of a chunk is added, whole, to each dH element. (DEDUCED: log entry 46.) -/
def bwdAdd (dh : List Nat) (sums : List (Nat × Flags7)) : List (Nat × Flags7) :=
  zipMap (fun (a : Nat) (q : Nat × Flags7) => let r := addCode 0 RNE 0 a q.1; (r.1, q.2 ||| r.2)) dh sums

/-- R446: the route entry may receive dE. -/
def bwdRouteOk (r : Nat) : Bool := !routeBad r && rtKind r != 3 && decide (bitsOf r 11 8 ≤ 2)

/-- R447: the drain of the rows of dE as one drain, by a route entry. -/
def bwdDrain (c : Nat) (w : Who) (cmd : FaCmd) (k : Fin 8) (v r : Nat) (de : List (List (Nat × Flags7))) (s0 : State) : Sent :=
  let ck := clusterOfCore c
  let f := rtFmt r
  let rows := de.mapIdx (fun i l => (i, joinFlagged (fmtBits f) (l.map (fun q => let x := rndTo f RNE 0 (floatVal 0 q.1); (x.1, x.2.1)))))
  let rb := vpDim v * fmtBits f / 8
  let send : State → Sent := match rtKind r with
    | 1 => sendTile w ck (bitsOf r 23 16) rb (rows.map (fun p => (p.1, p.2.1))) 0
    | 2 => sendRows w (.mem 0 none) (BitVec.ofNat 64 (rtAddr r)) rb 0 (rows.map (fun p => (p.1, p.2.1)))
    | _ => fun s =>
      if rtKind r = 4 ∧ bitsOf r 26 26 = 1 then .stop 0x55 0 s
      else match feedEngine s (dieOfCore c) r with
        | none => .wait s
        | some n => feedRows n rb (rows.map (fun p => (p.1, p.2.1))) s
  match send s0 with
  | .wait s => .wait (waitFrom s0 s)
  | .stop e i s => .stop e i s
  | .all s =>
    let conv := rows.foldl (fun g p => g ||| p.2.2) (0 : Flags7)
    let s := accFlags c k conv s
    let fl := (accTile s c k).flags
    match flagWord w r fl (cmdFlags cmd.iss fl s) with
    | .wait s => .wait (waitFrom s0 s)
    | .exc e s => .stop e 0 s
    | .lost e s => .stop e 0 s
    | .ok _ s => .all (routeAdvance' ck (vpEtok v) r (rb * rows.length) s)

/-- R446: the dH cells of token `j`, by hidden element. -/
def dhCells (v : Nat) (t : AccTile) (j : Nat) : List Nat :=
  (((List.range (vpRpt v)).map (fun r => accCells t (vpRowst v + j * vpRpt v + r))).flatten.take (vpDim v)).map (· % 2 ^ 32)

/-- R446: the dH rows of token `j` with new cells. -/
def dhCommit (v j : Nat) (l : List Nat) (fl : Flags7) (t : AccTile) : AccTile :=
  (List.range (vpRpt v)).foldl (fun t r =>
    let part := ((l.drop (128 * r)).take 128).map some
    commitRow tyF (vpRowst v + j * vpRpt v + r) ((part ++ List.replicate 128 none).take 128) fl t) t

/-- R447: one chunk of `vproj.bwd`, after its tile is ready. -/
def bwdChunk (c : Nat) (w : Who) (cmd : FaCmd) (k : Fin 8) (ch : Nat) (s : State) : FaRes :=
  let v := cmd.record
  let rs := vpRowst v
  let toks := List.range (vpRows v (ctx s c).rows)
  let n := vpCount v ch
  if vpTileShort s c v ch then vpStop v ch rs 0x01 s
  else match vpHiddens s c w v toks, bwdStates s w v toks, vpEmbeds s c w v (vpTile v ch) (List.range n) with
    | .error (e, j), _, _ => vpStop v ch (rs + j * vpRpt v) e s
    | _, .error (e, j), _ => vpStop v ch (rs + j * vpRpt v) e s
    | _, _, .error e => vpStop v ch rs e s
    | .ok hs, .ok sts, .ok es =>
      let copy := routeCopy c (vpEtok v) s
      let s := copy.2
      if bwdRouteOk copy.1 = false then vpStop v ch rs 0x55 s
      else
        let gs := zipMap (fun st h => es.mapIdx (fun r e => bwdCoef v (vpFirst v ch + r) st h e)) sts hs
        let de := (List.range n).map (fun r =>
          bwdSums v (gs.map (fun l => (l.getD r (0, 0)).1)) hs)
        let t := accTile s c k
        let dh := zipMap (fun (l : List (Nat × Flags7)) (j : Nat) => (j, bwdAdd (dhCells v t j) (bwdSums v (l.map (fun q => q.1)) es))) gs toks
        let fl := (gs.flatten.map (fun q => q.2) ++ de.flatten.map (fun q => q.2) ++ (dh.map (fun p => p.2)).flatten.map (fun q => q.2)).foldl
          (fun a b => a ||| b) (0 : Flags7)
        match bwdDrain c w cmd k v copy.1 de s with
        | .wait s => .wait s
        | .stop e _ s => vpStop v ch rs e s
        | .all s =>
          .done (vpCommit c v ch (setAcc c k (dh.foldl (fun t p => dhCommit v p.1 (p.2.map (fun q => q.1)) fl t) (accTile s c k)) s))

/-- R446: `vproj.bwd`. -/
def vprojBwdRun (c : Nat) (cmd : FaCmd) (k : Fin 8) (s : State) : FaRes :=
  vpRun 2 c cmd (fun w s => bwdStart c w k cmd.record s) (fun w ch s => bwdChunk c w cmd k ch s) s

/-! ## Reading the record (R432) -/

/-- R432: the record, read as one C-path load of the issuer, or the cause for which it could not be read. -/
def vprRead (w : Who) (a : Word) (s : State) : Res (Nat × Option (BitVec 8)) :=
  if a.toNat % 64 ≠ 0 then .ok (0, some 0x03) s
  else match (load w 64 64 a s).next (fun x s => (load w 64 64 (a + 64) s).next (fun y s => .ok (x + 2 ^ 512 * y) s)) with
    | .ok v s => .ok (v, none) s
    | .exc e s => .ok (0, some e) s
    | .lost e s => .ok (0, some e) s
    | .wait s => .wait s

end Sys2Proof.Machine
end

