-- ==== Sys2Proof/Machine/FactorArray.lean ====
section
/-! DEFINITION. Majors 0x20 .. 0x26 (R391..R397, R481): issue to a factor array context, attachment, waits, and the steps of a
context. -/

namespace Sys2Proof.Machine

/-! ## Engines that stay stopped (R148) -/

/-- R148: an engine has produced a record that is held, and stays stopped: its ECLS, its device, its die and its number; `f` tells
apart those that a record does not. -/
def stoppedWhere (f : Nat → Bool) (s : State) (ecls die eng : Nat) : Bool :=
  s.cores.any (fun c => f c.1 && c.2.held.any (fun h =>
    bitsOf h.record.toNat 3 0 == ecls && devOfDie (dieOfThread h.iss.thread) == devOfDie die
      && bitsOf h.record.toNat 56 52 == die % 32 && bitsOf h.record.toNat 31 28 == eng))

/-- R148: an engine of a die has produced a record that is held. -/
def stopped (s : State) (ecls die eng : Nat) : Bool := stoppedWhere (fun _ => true) s ecls die eng

/-- R148: the context of a core has produced a record that is held: it serves its own core's threads. -/
def ctxStopped (s : State) (c : Nat) : Bool := stoppedWhere (· == c) s 3 (dieOfCore c) (c % 2)

/-! ## Budgets (R37..R39, R395) -/

/-- R39: the governor field of a cluster; 0 for no limit. -/
def governor (s : State) (ck : Nat) : Nat := min (bitsOf (readMem s (windowBase (ck / 16) + 0x10 + 8 * (ck % 16)) 2) 8 0) 256

/-- R37: the FAI budget of a class on a die, and its work-conserving bit. -/
def faiBudget (s : State) (die : Nat) (cls : BitVec 4) : Nat × Bool :=
  let w := readMem s (windowBase die + 0x10000 + 16 * cls.toNat) 16
  (bitsOf w 99 80, w.testBit 100)

/-- R38: the class is within its FAI budget on a cluster. -/
def faiWithin (s : State) (ck : Nat) (cls : BitVec 4) : Bool :=
  let b := faiBudget s (ck / 16) cls
  b.1 == 0xFFFFF || decide (tabGet 0 (cluster s ck).fai cls.toNat < b.1)

/-- R395: the instruction counts one factor array issue: every one of majors 0x21 .. 0x26 that a context executes. -/
def faCounts : Instr → Bool
  | .faAttach _ => false
  | .faDetach _ => false
  | .faCfgld _ => false
  | .faCommit => false
  | _ => true

/-- R38: the instruction of a context that waits to issue, if one does. -/
def faRequest (s : State) (c : Nat) : Option FaCmd :=
  let x := ctx s c
  if x.issued || x.unready then none
  else match x.busy with
    | some cmd => some cmd
    | none => if x.prog.isSome then none else match x.queue with
      | .cmd cmd :: _ => if faCounts cmd.instr then some cmd else none
      | _ => none

/-- The other context of a cluster. -/
def otherCtx (c : Nat) : Nat := c / 2 * 2 + (1 - c % 2)

/-- R38, R39: an array instruction of a class may issue on a context: the governor lets it, and it is within its budget, or its class is
work-conserving and no request within budget waits. -/
def faAllowed (s : State) (c : Nat) (cls : BitVec 4) : Bool :=
  let ck := clusterOfCore c
  let g := governor s ck
  (g == 0 || decide ((cluster s ck).issued < g))
    && (faiWithin s ck cls || ((faiBudget s (ck / 16) cls).2
      && (match faRequest s (otherCtx c) with
        | some d => !faiWithin s ck d.iss.cls
        | none => true)))

/-- R38: a request of the same class on the other context was deferred before. -/
def faYields (s : State) (c : Nat) (cls : BitVec 4) : Bool :=
  match faRequest s (otherCtx c), (ctx s (otherCtx c)).stalled with
  | some d, some n => d.iss.cls == cls && (match (ctx s c).stalled with | some m => decide (n < m) | none => true)
  | _, _ => false

/-- A 32-bit count that saturates. -/
def satCount (v : BitVec 32) : BitVec 32 := if v = BitVec.allOnes 32 then v else v + 1

/-- R39: an issue is delayed; it is counted once. -/
def faDelay (c : Nat) (s : State) : State :=
  if (ctx s c).stalled.isSome then s
  else
    let ck := clusterOfCore c
    setCtx (setCluster { s with serial := s.serial + 1 } ck { cluster s ck with stalls := satCount (cluster s ck).stalls }) c
      { ctx s c with stalled := some s.serial }

/-- R13: the other context of the cluster has an instruction that can issue, and this one issued last: it is the other's turn. -/
def faTurn (s : State) (c : Nat) : Bool :=
  (cluster s (clusterOfCore c)).lastCtx.val == c % 2
    && (match faRequest s (otherCtx c) with
      | some d => !ctxStopped s (otherCtx c) && faAllowed s (otherCtx c) d.iss.cls && !faYields s (otherCtx c) d.iss.cls
      | none => false)

/-- R39, R395: an array instruction has issued: it is charged to the governor window and to its class, and its context is the one that issued
last (R13). -/
def faCharge (c : Nat) (cls : BitVec 4) (s : State) : State :=
  let ck := clusterOfCore c
  let v := cluster s ck
  let fai := if faiWithin s ck cls then tabSet 0 v.fai cls.toNat (tabGet 0 v.fai cls.toNat + 1) else v.fai
  let hit := governor s ck != 0 && v.issued + 1 == governor s ck
  setCtx (setCluster s ck { v with issued := v.issued + 1, fai := fai, windows := if hit then satCount v.windows else v.windows,
                                   lastCtx := ⟨c % 2, by omega⟩ }) c
    { ctx s c with issued := true, stalled := none, unready := false }

/-! ## Attachment (R393, R394) -/

/-- R392: rows held by neither core of a cluster. -/
def faAvail (s : State) (c : Nat) : Nat := 128 - (ctx s (c / 2 * 2)).rows - (ctx s (c / 2 * 2 + 1)).rows

/-- R393: attach `n` granules of 32 rows for a thread. -/
def faAttachNow (c k n : Nat) (s : State) : FaRes :=
  let x := ctx s c
  if x.holder.isSome ∧ x.holder ≠ some k then stopAt 0x42 0 s
  else
    let more := if x.rows < 32 * n then 32 * min (n - x.rows / 32) (faAvail s c / 32) else 0
    .done (setCtx s c { x with holder := some k, rows := x.rows + more })

/-- R394: every row and the attachment are released. -/
def faRelease (c : Nat) (s : State) : State :=
  setCtx s c { ctx s c with holder := none, rows := 0, acc := Vector.replicate 8 AccTile.init }

/-- R394: detach granules, or everything with 0. -/
def faDetachNow (c k n : Nat) (s : State) : FaRes :=
  let x := ctx s c
  if x.holder ≠ some k then stopAt 0x42 0 s
  else if n = 0 then .done (faRelease c s)
  else
    let g := x.rows - 32 * min n (x.rows / 32)
    .done (setCtx s c { x with rows := g, acc := x.acc.map (fun t => { t with rows := t.rows.filter (fun p => decide (p.1 < g)) }) })

/-! ## What a context performs -/

/-- The instruction of a command, on its context. -/
def faPerform (c : Nat) (cmd : FaCmd) (s : State) : FaRes :=
  match cmd.instr with
  | .faAttach n => faAttachNow c cmd.iss.thread n.val s
  | .faDetach n => faDetachNow c cmd.iss.thread n.val s
  | .faCfgld _ => faLoad c cmd.iss cmd.a0 cmd.a1 s
  | .faCommit => .done (faCommitNow c s)
  | .faStageFloat p _ k b l => lastUsed c cmd l (faStageRun c cmd p k 0 b.val l s)
  | .faStageBfp16 p _ k b l => lastUsed c cmd l (faStageRun c cmd p k 1 b.val l s)
  | .faStageMod p _ k b l => lastUsed c cmd l (faStageRun c cmd p k 2 b.val l s)
  | .faDense p _ k f => lastUsed c cmd (ctlLast cmd.c0) (faDenseRun c cmd p k f.val s)
  | .faSparse _ _ k f => lastUsed c cmd (ctlLast cmd.c0) (faSparseRun c cmd k f.val s)
  | .faPwTwid e k => faPwTwidRun c e k s
  | .faPwScale _ k => faPwScaleRun c cmd.a0 k s
  | .faPwAdd e k => faPwAddRun c e k s
  | .faPwRelu k => faPwReluRun c k s
  | .faPwExp2 k => faPwExp2Run c k s
  | .faPwModred k => faPwModredRun c k s
  | .faBfpStatic _ k => faBfpRun c (some (bitsOf cmd.a0.toNat 2 0)) (bitsOf cmd.a0.toNat 63 3 == 0) k s
  | .faBfpMeas k => faBfpRun c none true k s
  | .faZero _ => faZeroRun c cmd.a0 s
  | .faDrain _ _ q => faDrainRun c cmd q s
  | .faDrainv _ _ q => faDrainRun c cmd q s
  | .faModset _ => faModsetRun c cmd.a0 s
  | .faCrt _ j k => faCrtRun c cmd.a0 j k s
  | .vproj _ k => vprojRun 0 c cmd k s
  | .vprojThresh _ k => vprojRun 1 c cmd k s
  | .vprojBwd _ k => vprojBwdRun c cmd k s
  | .vpmerge _ _ k => vpmergeRun c cmd k s
  | _ => .done s

/-- A command performed under the governor, the budgets and the turns of the contexts; it is charged as it issues. -/
def faRun (c : Nat) (cmd : FaCmd) (s : State) : FaRes :=
  if faCounts cmd.instr = false ∨ (ctx s c).issued = true then faPerform c cmd s
  else if faAllowed s c cmd.iss.cls = false then .wait (faDelay c s)
  else if faYields s c cmd.iss.cls || faTurn s c then .wait s
  else match faPerform c cmd s with
    | .done s => .done (faCharge c cmd.iss.cls s)
    | .stop e b v ch fl s => .stop e b v ch fl (faCharge c cmd.iss.cls s)
    | .wait s => .wait (faCharge c cmd.iss.cls s)
    | .unready s => .unready (setCtx s c { ctx s c with unready := true })

/-- The context holds no instruction in progress. -/
def faIdle (c : Nat) (s : State) : State :=
  setCtx s c { ctx s c with drained := 0, route := none, row := 0, before := none, fed := false, issued := false, stalled := none, unready := false, busy := none,
                            tileWait := none }

/-! ## Commands of a thread -/

/-- R396: an item of a queue belongs to an issuer's thread. -/
def itemOf (i : Issuer) : FaItem → Bool
  | .cmd c => ofThread i.thread i.bind c.iss
  | .start p => ofThread i.thread i.bind p.iss

/-- R396: an item is discarded unperformed. -/
def dropItem (s : State) : FaItem → State
  | .cmd c => dropRows c.iss.thread c.serial s
  | .start p => forkEnds p.iss p.serial s

/-- R396: a command of a thread stops: its later items are discarded, and an ECLS 3 record is written. -/
def faStopThread (c : Nat) (cmd : FaCmd) (cause : BitVec 8) (brow vcur chunk : Nat) (fl : BitVec 7) (s : State) : State :=
  let q := (ctx s c).queue
  let s := (q.filter (itemOf cmd.iss)).foldl dropItem (setCtx s c { ctx s c with queue := q.filter (fun it => !itemOf cmd.iss it) })
  let s := dropRows cmd.iss.thread cmd.serial s
  writeRecord (.engine fl) cmd.iss (mkRecord 3 0 cause cmd.iss (c % 2) (dieOfCore c) (faCursor 0 brow vcur chunk)) [] s

/-- R406: a load that a thread waits for still has its waiter. -/
def loadLive (s : State) (cmd : FaCmd) : Bool :=
  let t := thr s cmd.iss.thread
  stillBound s cmd.iss && t.st != .suspended && t.seq.pc == cmd.iss.pc

/-- R406: a thread waits for a load that has yet to end. -/
def loadPending (s : State) (c : Nat) : Bool := (ctx s c).load.any (fun p => !p.2)

/-- R406: a context goes on with the load a thread waits for. -/
def loadStep (c : Nat) (s : State) : State :=
  match (ctx s c).load with
  | some (cmd, false) =>
    if loadLive s cmd then
      match faPerform c cmd s with
      | .done s => setCtx s c { ctx s c with load := some (cmd, true) }
      | .stop e b v ch fl s =>
        writeRecord (.engine fl) cmd.iss (mkRecord 3 0 e cmd.iss (c % 2) (dieOfCore c) (faCursor 0 b v ch)) []
          (setCtx s c { ctx s c with load := some (cmd, true) })
      | .wait s => s
      | .unready s => s
    else faLoading c none (setCtx s c { ctx s c with load := none })
  | _ => s

/-- R395, R406: FA_CONTEXT_EXECUTE: a context goes on with the load a thread waits for, and with the entry at the head of its queue, which
keeps running meanwhile. -/
def execFaContextExecute (c : Nat) (s : State) : Out :=
  if !loadPending s c && (ctx s c).prog.isNone && (ctx s c).queue.isEmpty then .fault .noSuchUnit
  else
    let s := loadStep c s
    let x := ctx s c
    if x.prog.isSome then .next s
    else match x.queue with
      | [] => .next s
      | .start p :: l => .next (setCtx s c { x with queue := l, prog := some p })
      | .cmd cmd :: l =>
        match faRun c cmd s with
        | .done s => .next (faIdle c (setCtx s c { ctx s c with queue := l }))
        | .stop e b v ch fl s => .next (faStopThread c cmd e b v ch fl (faIdle c (setCtx s c { ctx s c with queue := l })))
        | .wait s => .next s
        | .unready s => .next s

/-- R62: the operands of a command, read at issue. -/
def newFa (i : Instr) (s : State) : FaCmd :=
  { iss := curIssuer s, serial := s.serial, instr := i, a0 := 0, a1 := 0, c0 := 0, c1 := 0, tokens := 0, tileRegs := [], routes := [], record := 0,
    bad := none }

/-- R401: the tile registers that an operand with TSRC = 1 is read from. -/
def tsrcRegs (c : Nat) (w : Word) (s : State) : List Nat :=
  if ctlTsrc w then ((rowsFrom (ctlRowst w) (ctlRows w (ctx s c).rows)).map (fun i => ctlTreg w + i / 64)).eraseDups else []

/-- R244: an earlier `trow` or `tcol` of a tile register in a list waits in the vector queue. -/
def tilePending (t : Thread) (l : List Nat) : Bool :=
  t.vq.any (fun e => match e.instr with
    | .trow tk _ _ _ => l.contains tk.val
    | .tcol _ tk _ _ => l.contains tk.val
    | _ => false)

/-- R395: a thread's command joins the queue of its context. -/
def faPush (c : Nat) (cmd : FaCmd) (s : State) : State :=
  setCtx { s with serial := s.serial + 1 } c { ctx s c with queue := (ctx s c).queue ++ [.cmd cmd] }

/-- R18, R396, R481: an instruction on a context's program goes on from what became of it. -/
def faAfter (c : Nat) (r : FaRes) : Out :=
  match r with
  | .done s => .next (finish (faIdle c s))
  | .stop e b v ch fl s => .next (stopProgram (.ctx c) e b v ch fl (faIdle c s))
  | .wait s => .next s
  | .unready s => .next s

/-- R395, R481: an array instruction of majors 0x21 .. 0x26 from a thread or on a context; `f` reads its operands. -/
def faIssue (i : Instr) (f : FaCmd → State → Res FaCmd) (s : State) : Out :=
  match s.cur with
  | .thread k =>
    let c := coreOfThread k
    if (ctx s c).holder ≠ some k then raise 0x42 (tvalWord i) s
    else if 32 ≤ (ctx s c).queue.length then blockOn s
    else
      match f (newFa i s) s with
      | .ok cmd s => if tilePending (thr s k) cmd.tileRegs then stall s else .next (finish (faPush c cmd s))
      | .wait s => stall s
      | .exc e s => raise e (tvalWord i) s
      | .lost e s => raise e (tvalWord i) s
  | .ctx c =>
    (match (ctx s c).prog with
      | none => .fault .noSuchUnit
      | some p =>
        if (ctx s c).holder ≠ some p.iss.thread then .next (stopProgram s.cur 0x42 0 0 0 0 s)
        else match (ctx s c).busy with
          | some cmd => faAfter c (faRun c cmd s)
          | none =>
            match f (newFa i s) s with
            | .ok cmd s => faAfter c (faRun c cmd (setCtx s c { ctx s c with busy := some cmd }))
            | .wait s => stall s
            | .exc e s => .next (stopProgram (.ctx c) e 0 0 0 0 s)
            | .lost e s => .next (stopProgram (.ctx c) e 0 0 0 0 s))
  | .engine _ => raise 0x01 (tvalWord i) s

/-- Operands that need no access. -/
def faWith (f : FaCmd → FaCmd) (c : FaCmd) (s : State) : Res FaCmd := .ok (f c) s

/-- R410: the operand pair and the control pair. -/
def faPairs (p c : Fin 16) (s0 : State) (cmd : FaCmd) (s : State) : Res FaCmd :=
  let ct := x s0 (pairLo c)
  .ok { cmd with a0 := x s0 (pairLo p), a1 := x s0 (pairHi p), c0 := ct, c1 := x s0 (pairHi c),
                 tileRegs := tsrcRegs (coreOfThread cmd.iss.thread) ct s0 } s

/-! ## Major 0x20 -/

/-- R397: the earlier array instructions of the thread of a slot have completed. -/
def faQuiet (s : State) (k : Nat) : Bool :=
  let x := ctx s (coreOfThread k)
  let b := (thr s k).bind
  !x.queue.any (fun it => match it with
    | .cmd c => ofThread k b c.iss
    | .start p => ofThread k b p.iss)
    && (match x.prog with | some p => !ofThread k b p.iss | none => true)

/-- R393, R394, R396: a thread waits, then acts; a cause is reported through a record. -/
def faDirect (i : Instr) (s : State) : Out :=
  match s.cur with
  | .thread k =>
    let c := coreOfThread k
    if !faQuiet s k then blockOn s
    else match faPerform c (newFa i s) s with
      | .done s => .next (finish s)
      | .stop e b v ch fl s =>
        let iss := curIssuer s
        .next (writeRecord (.engine fl) iss (mkRecord 3 0 e iss (c % 2) (dieOfCore c) (faCursor 0 b v ch)) [] (finish s))
      | .wait s => stall s
      | .unready s => stall s
  | .ctx c => faAfter c (faPerform c (newFa i s) s)
  | .engine _ => raise 0x01 (tvalWord i) s

/-- R393: `fa.attach`. (DEDUCED: log entry 47.) -/
def execFaAttach (n : Fin 5) (s : State) : Out := faDirect (.faAttach n) s
/-- R394: `fa.detach`. -/
def execFaDetach (n : Fin 5) (s : State) : Out := faDirect (.faDetach n) s

/-- R397: `fa.wait`. -/
def execFaWait (s : State) : Out :=
  match s.cur with
  | .thread k => if faQuiet s k then .next (finish s) else blockOn s
  | .ctx _ => .next (finish s)
  | .engine _ => raise 0x01 (tvalWord .faWait) s

/-- R407: a commit of the thread of a slot waits in the queue. -/
def commitQueued (s : State) (k : Nat) : Bool :=
  (ctx s (coreOfThread k)).queue.any (fun it => match it with
    | .cmd c => ofThread k (thr s k).bind c.iss && (match c.instr with | .faCommit => true | _ => false)
    | .start _ => true)

/-- R406: `fa.cfgld`. -/
def execFaCfgld (p : Fin 16) (s : State) : Out :=
  let cmd := { newFa (.faCfgld p) s with a0 := x s (pairLo p), a1 := x s (pairHi p) }
  match s.cur with
  | .thread k =>
    let c := coreOfThread k
    (match (ctx s c).load with
      | some (l, d) =>
        if ofThread k (thr s k).bind l.iss ∧ l.iss.pc = pcOf s then
          (if d then .next (finish (setCtx s c { ctx s c with load := none })) else blockOn s)
        else if loadLive s l ∧ d = false then blockOn s
        else if commitQueued s k ∨ (ctx s c).prog.isSome = true then blockOn s
        else blockOn (setCtx { s with serial := s.serial + 1 } c { ctx s c with load := some (cmd, false), loading := none })
      | none =>
        if commitQueued s k ∨ (ctx s c).prog.isSome = true then blockOn s
        else blockOn (setCtx { s with serial := s.serial + 1 } c { ctx s c with load := some (cmd, false), loading := none }))
  | .ctx c =>
    if loadPending s c then .next s
    else match faAfter c (faPerform c cmd s) with
      | .next s => .next (if (ctx s c).ending ∧ (ctx s c).loading = none then endProgram c s else s)
      | o => o
  | .engine _ => raise 0x01 (tvalWord (.faCfgld p)) s

/-- R407: `fa.commit`. -/
def execFaCommit (s : State) : Out :=
  match s.cur with
  | .thread k =>
    let c := coreOfThread k
    if 32 ≤ (ctx s c).queue.length then blockOn s else .next (finish (faPush c (newFa .faCommit s) s))
  | .ctx c => faAfter c (faPerform c (newFa .faCommit s) s)
  | .engine _ => raise 0x01 (tvalWord .faCommit) s

/-! ## Majors 0x21 .. 0x23, 0x25 -/

/-- R415: `fa.stage` in float mode. -/
def execFaStageFloat (p c : Fin 16) (k : Fin 8) (b : Fin 7) (l : Bool) (s : State) : Out :=
  faIssue (.faStageFloat p c k b l) (faPairs p c s) s
/-- R416: `fa.stage` in bfp16 mode. -/
def execFaStageBfp16 (p c : Fin 16) (k : Fin 8) (b : Fin 7) (l : Bool) (s : State) : Out :=
  faIssue (.faStageBfp16 p c k b l) (faPairs p c s) s
/-- R417: `fa.stage` in modular mode. -/
def execFaStageMod (p c : Fin 16) (k : Fin 8) (b : Fin 7) (l : Bool) (s : State) : Out :=
  faIssue (.faStageMod p c k b l) (faPairs p c s) s
/-- R412: `fa.dense`. -/
def execFaDense (p c : Fin 16) (k : Fin 8) (f : Fin 10) (s : State) : Out := faIssue (.faDense p c k f) (faPairs p c s) s
/-- R414: `fa.sparse`. -/
def execFaSparse (p c : Fin 16) (k : Fin 8) (f : Fin 10) (s : State) : Out :=
  faIssue (.faSparse p c k f) (fun cmd s' => (faPairs p c s cmd s').next (fun m s' => .ok { m with tileRegs := [] } s')) s
/-- R420: `fa.pw.twid`. -/
def execFaPwTwid (e k : Fin 8) (s : State) : Out := faIssue (.faPwTwid e k) (faWith id) s
/-- R420: `fa.pw.scale`. -/
def execFaPwScale (a : Fin 32) (k : Fin 8) (s : State) : Out :=
  faIssue (.faPwScale a k) (faWith (fun c => { c with a0 := x s a })) s
/-- R420: `fa.pw.add`. -/
def execFaPwAdd (e k : Fin 8) (s : State) : Out := faIssue (.faPwAdd e k) (faWith id) s
/-- R420: `fa.pw.relu`. -/
def execFaPwRelu (k : Fin 8) (s : State) : Out := faIssue (.faPwRelu k) (faWith id) s
/-- R420: `fa.pw.exp2`. -/
def execFaPwExp2 (k : Fin 8) (s : State) : Out := faIssue (.faPwExp2 k) (faWith id) s
/-- R420: `fa.pw.modred`. -/
def execFaPwModred (k : Fin 8) (s : State) : Out := faIssue (.faPwModred k) (faWith id) s
/-- R421: `fa.bfp.static`. -/
def execFaBfpStatic (a : Fin 32) (k : Fin 8) (s : State) : Out :=
  faIssue (.faBfpStatic a k) (faWith (fun c => { c with a0 := x s a })) s
/-- R421: `fa.bfp.meas`. -/
def execFaBfpMeas (k : Fin 8) (s : State) : Out := faIssue (.faBfpMeas k) (faWith id) s
/-- R418: `fa.modset`. -/
def execFaModset (p : Fin 32) (s : State) : Out := faIssue (.faModset p) (faWith (fun c => { c with a0 := x s p })) s
/-- R419: `fa.crt`. -/
def execFaCrt (q : Fin 32) (j k : Fin 8) (s : State) : Out := faIssue (.faCrt q j k) (faWith (fun c => { c with a0 := x s q })) s

/-! ## Major 0x24 -/

/-- R422: `fa.zero`. -/
def execFaZero (m : Fin 32) (s : State) : Out := faIssue (.faZero m) (faWith (fun c => { c with a0 := x s m })) s

/-- R423: the tokens of a drain that takes bits 3:0 of one register for every tile. -/
def sameTokens (v : Word) : Nat := joinFields 4 (List.replicate 8 (v.toNat % 16))

/-- R257, R423, R425: a thread's drain with a queue field makes the entries it will fill; more than 16 groups raise 0x01. -/
def drainIssue (i : Instr) (p : Fin 16) (tokens : Nat) (q : Option (Fin 8)) (s : State) : Out :=
  let fill := fun (cmd : FaCmd) => { cmd with a0 := x s (pairLo p), a1 := x s (pairHi p), tokens := tokens }
  match s.cur, q with
  | .thread k, some qn =>
    let c := coreOfThread k
    let rs := drainRoutes s c (fill (newFa i s)) q
    let n := rs.length * ctlRows (x s (pairLo p)) (ctx s c).rows
    let es := drainEntries s.serial (s.serial + n) (ctlRows (x s (pairLo p)) (ctx s c).rows) rs
    if (ctx s c).holder ≠ some k then raise 0x42 (tvalWord i) s
    else if !(thr s k).vq.isEmpty then stall s
    else if 16 < groupsUsed (thr s k) + (es.map (fun e => queueGroups e.vl e.width)).foldl (· + ·) 0 then raise 0x01 (tvalWord i) s
    else if 32 ≤ (ctx s c).queue.length then blockOn s
    else
      let t := thr s k
      faIssue i (faWith (fun cmd => { fill cmd with routes := rs }))
        (setThr { s with serial := s.serial + n } k { t with queues := t.queues.set qn (t.queues[qn] ++ es) })
  | .ctx _, some _ => raise 0x01 (tvalWord i) s
  | _, _ => faIssue i (faWith fill) s

/-- R424: `fa.drain`. -/
def execFaDrain (p : Fin 16) (t : Fin 32) (q : Option (Fin 8)) (s : State) : Out :=
  drainIssue (.faDrain p t q) p (sameTokens (x s t)) q s

/-- R424: `fa.drainv`. Its tokens are elements of a vector of the thread, or bytes of a scalar register on a context. -/
def execFaDrainv (p : Fin 16) (v : Fin 48) (q : Option (Fin 8)) (s : State) : Out :=
  let i := Instr.faDrainv p v q
  match s.cur with
  | .thread k =>
    let t := thr s k
    if regCount t.cur ≤ v.val then raise 0x41 (tvalWord i) s
    else if (ctx s (coreOfThread k)).holder ≠ some k then raise 0x42 (tvalWord i) s
    else if !t.vq.isEmpty then stall s
    else
      let w := vtBits t.vtype
      let n := (maskTiles (x s (pairLo p)).toNat).length
      match (List.range n).find? (fun m => elemPsn (vreg t v.val) w m) with
      | some m =>
        let iss := issuerNow s k t.seq.pc
        .next (writeRecord .vectorTrap iss (mkRecord 2 0 0x30 iss 0 (dieOfThread k) (vecCursor m 1 0)) [noAddress] s)
      | none => drainIssue i p (joinFields 4 ((List.range n).map (fun m => elemBits (vreg t v.val) w m % 16))) q s
  | .ctx _ =>
    if h : v.val < 32 then
      let r := (x s ⟨v.val, h⟩).toNat
      drainIssue i p (joinFields 4 ((List.range 8).map (fun m => bitsOf r (8 * m + 3) (8 * m)))) q s
    else raise 0x01 (tvalWord i) s
  | .engine _ => raise 0x01 (tvalWord i) s

/-- R426: a queued instruction names accumulator tile `k`. -/
def namesAcc (k : Fin 8) (c : FaCmd) : Bool :=
  match c.instr with
  | .faStageFloat _ _ j _ _ => j == k
  | .faStageBfp16 _ _ j _ _ => j == k
  | .faStageMod _ _ j _ _ => j == k
  | .faDense _ _ j _ => j == k
  | .faSparse _ _ j _ => j == k
  | .faPwTwid _ j => j == k
  | .faPwScale _ j => j == k
  | .faPwAdd _ j => j == k
  | .faPwRelu j => j == k
  | .faPwExp2 j => j == k
  | .faPwModred j => j == k
  | .faBfpStatic _ j => j == k
  | .faBfpMeas j => j == k
  | .faZero _ => c.a0.toNat.testBit k.val
  | .faDrain .. => c.a0.toNat.testBit k.val
  | .faDrainv .. => c.a0.toNat.testBit k.val
  | .faCrt _ i j => j == k || i == k
  | .vproj _ j => j == k
  | .vprojThresh _ j => j == k
  | .vprojBwd _ j => j == k
  | .vpmerge _ _ j => j == k
  | _ => false

/-- R426: the drain at the head of a context's queue has started with tile `a` of its mask, or is past it. -/
def drainStarted (x : Ctx) (a : Fin 8) : Bool :=
  match x.queue with
  | .cmd c :: _ => x.issued && (match c.instr with | .faDrain .. => true | .faDrainv .. => true | _ => false)
      && ((maskTiles c.a0.toNat).take (x.drained + (decide (x.row ≠ 0)).toNat)).contains a
  | _ => false

/-- R426: an earlier instruction of the thread that names the tile has not completed; for `fa.amax` (`final` false) one that drains it
counts only until it has started. -/
def accPending (s : State) (k : Nat) (a : Fin 8) (final : Bool) : Bool :=
  let x := ctx s (coreOfThread k)
  (if !final && drainStarted x a then x.queue.tail else x.queue).any (fun it => match it with
    | .cmd c => ofThread k (thr s k).bind c.iss && namesAcc a c
    | .start _ => false)

/-- R395, R426: the maximum-magnitude register of a tile; a read of an empty tile raises cause 0x51, once the vector queue has run empty
(R142). On a context it is an issue of the
array as any other. -/
def amaxRead (i : Instr) (d : Fin 32) (a : Fin 8) (final : Bool) (s : State) : Out :=
  match s.cur with
  | .thread k =>
    let c := coreOfThread k
    if (ctx s c).holder ≠ some k then raise 0x42 (tvalWord i) s
    else if accPending s k a final then stall s
    else if (accTile s c a).type = tyE ∧ (thr s k).vq.isEmpty = false then stall s
    else if (accTile s c a).type = tyE then
      let iss := curIssuer s
      .next (writeRecord .vectorTrap iss (mkRecord 3 0 0x51 iss (c % 2) (dieOfCore c) 0) [] s)
    else writeOn d (accTile s c a).amax s
  | .ctx c =>
    (match (ctx s c).prog with
      | none => .fault .noSuchUnit
      | some p =>
        if (ctx s c).holder ≠ some p.iss.thread then .next (stopProgram s.cur 0x42 0 0 0 0 s)
        else match faRun c (newFa i s) (setCtx s c { ctx s c with busy := some (newFa i s) }) with
          | .done s =>
            if (accTile s c a).type = tyE then .next (stopProgram (.ctx c) 0x51 0 0 0 0 (faIdle c s))
            else writeOn d (accTile s c a).amax (faIdle c s)
          | .stop _ _ _ _ _ s => .next s
          | .wait s => .next s
          | .unready s => .next s)
  | .engine _ => raise 0x01 (tvalWord i) s

/-- R426: `fa.amax`. -/
def execFaAmax (d : Fin 32) (k : Fin 8) (s : State) : Out := amaxRead (.faAmax d k) d k false s
/-- R426: `fa.amax.final`. -/
def execFaAmaxFinal (d : Fin 32) (k : Fin 8) (s : State) : Out := amaxRead (.faAmaxFinal d k) d k true s

/-! ## Major 0x26 -/

/-- R432: the maker of the read of a projection record: the C path of the issuing thread. -/
def whoRecord (s : State) (cmd : FaCmd) : Who :=
  match s.cur with
  | .ctx c => ⟨dieOfCore c, tlbsOfCore s c, .c, cmd.iss, 2 ^ 21 + c, some c⟩
  | _ => ⟨dieOfThread cmd.iss.thread, tlbsOfCore s (coreOfThread cmd.iss.thread), .c, cmd.iss, cmd.iss.thread, some (coreOfThread cmd.iss.thread)⟩

/-- R432: a command with the record its register names. -/
def withVpr (a : Fin 32) (s0 : State) (cmd : FaCmd) (s : State) : Res FaCmd :=
  if cWaits s then .wait s
  else (vprRead (whoRecord s cmd) (x s0 a) s).next (fun r s => .ok { cmd with a0 := x s0 a, record := r.1, bad := r.2 } s)

/-- R436: `vproj`. -/
def execVproj (a : Fin 32) (k : Fin 8) (s : State) : Out := faIssue (.vproj a k) (withVpr a s) s
/-- R438: `vproj.thresh`. -/
def execVprojThresh (a : Fin 32) (k : Fin 8) (s : State) : Out := faIssue (.vprojThresh a k) (withVpr a s) s
/-- R447: `vproj.bwd`. -/
def execVprojBwd (a : Fin 32) (k : Fin 8) (s : State) : Out := faIssue (.vprojBwd a k) (withVpr a s) s
/-- R444: `vpmerge`. -/
def execVpmerge (p : Fin 16) (c : Fin 32) (k : Fin 8) (s : State) : Out :=
  faIssue (.vpmerge p c k) (faWith (fun cmd => { cmd with a0 := x s (pairLo p), a1 := x s (pairHi p), c0 := x s c })) s

end Sys2Proof.Machine
end

