-- ==== Sys2Proof/Machine/IqIssue.lean ====
section
/-! DEFINITION. Majors 0x2E and 0x2F (R364..R370, R375, R376, R383..R385): issue of the queue instructions. -/

namespace Sys2Proof.Machine

/-- R367: a C-path form raises a cause of R390 through an ECLS 1 record, whose address `tval` holds. -/
def iqRaise (cause : BitVec 8) (s : State) : Out :=
  match s.cur with
  | .thread k =>
    if (thr s k).vq.isEmpty then
      let i := issuerNow s k (thr s k).seq.pc
      .next (writeRecord .vectorTrap i (mkRecord 1 0 cause i 0 (dieOfThread k) 0) [] s)
    else .next s
  | a => .next (stopProgram a cause 0 0 0 0 s)

/-- R366: the C-path forms run on threads, after the vector accesses that C accesses follow. -/
def iqScalar (i : Word) (f : Nat → State → Out) (s : State) : Out :=
  match s.cur with
  | .thread k => if cWaits s then stall s else f k s
  | _ => raise 0x01 i s

/-- R368: a C-path form acts on the queue that a handle names. -/
def iqNamed (i : Word) (h : Word) (f : Nat → Nat → Iq → State → Out) (s : State) : Out :=
  iqScalar i (fun k s =>
    match handleQueue s h with
    | none => iqRaise 0x62 s
    | some (key, q) => if queueLost s (dieOfThread k) key then raise 0x70 h s else f k key q s) s

/-- R135, R366: a vector-queue form joins the queue with its scalar operands. -/
def iqDispatch (i : Instr) (a b c d : Word) (f : Nat → State → State) (s : State) : Out :=
  match s.cur with
  | .thread k =>
    let t := thr s k
    if 16 ≤ queueUse t s [] t.vq then .next (vKick k s)
    else .next (vKick k (finish (setThr (f k s) k { t with vq := t.vq ++ [{ vEntry t i [] a b c with op3 := d }] })))
  | _ => raise 0x01 (tvalWord i) s

/-! ## Declaration (R364, R382, R383) -/

/-- R362: the reserved bits of a declaration block that must be zero. -/
def qdrReserved (v : Nat) : Bool :=
  bitsOf v 63 48 != 0 || bitsOf v 127 121 != 0 || bitsOf v 191 185 != 0 || bitsOf v 255 216 != 0 || bitsOf v 319 277 != 0
    || bitsOf v 383 372 != 0 || bitsOf v 1023 480 != 0

/-- R363: the tags in use. -/
def qdrTags (v : Nat) : List Word := (List.range (bitsOf v 5 1)).map (fun i => BitVec.ofNat 64 (bitsOf v (1087 + 64 * i) (1024 + 64 * i)))

/-- R364: the block is refused, but for its delivery buffer and its graph. -/
def qdrBad (s : State) (dev v : Nat) : Bool :=
  bitsOf v 371 370 != 0 || qdrReserved v || decide (16 < bitsOf v 5 1) || bitsOf v 9 6 == 0 || decide (8 < bitsOf v 9 6)
    || decide (12 < bitsOf v 13 10) || (v.testBit 0 && bitsOf v 5 1 != 0)
    || (qdrTags v).any (fun t => bitsOf t.toNat 63 29 != 0 || !inDomain s dev (bitsOf t.toNat 20 13))

/-- R364: the queue that a block declares. -/
def qdrQueue (pa v : Nat) (i : Issuer) (g : Option (Nat × Word)) : Iq :=
  let base := BitVec.ofNat 16 (bitsOf v 47 32)
  { qdr := pa, iss := i, cons := v.testBit 0, kbytes := bitsOf v 9 6, vbytes := bitsOf v 13 10, nprod := bitsOf v 19 14,
    qix := bitsOf v 31 20, gdesc := g, tags := qdrTags v, front := base, qthru := base - 1, nextd := base, avail := false,
    held := false, qstate := 1, need := 0, pend := 0, satcnt := 0, closed := [], recs := [], stages := [], holder := none,
    doneSent := false, n := 0, kept := [], marks := [], retry := false, refused := [] }

/-- R382: bytes of a graph descriptor lie one after another in the common memory of one die. -/
def graphWhole (s : State) (w : Who) (va : Word) (pa n : Nat) : Bool :=
  (rangePages va n).all (fun a => decide (va.toNat + n ≤ a.toNat) || (match translate s w true true 1 a.toNat with
    | .ok (p, x) => !pteMc p && x == pa + (a - va).toNat && (match placeOf x with
        | .common d => placeOf pa == .common d && devOf x == devOf pa
        | _ => false)
    | .error _ => false))

/-- R382, R383: the graph that a block names, none for no graph, and whether it accepts the queue: its physical address. Its header and its
slot are read as any C access reads (R125); a descriptor that does not translate is refused. -/
def graphOf (s : State) (w : Who) (va : Word) (qix base : Nat) : Res (Option Nat) :=
  if va = 0 then .ok none s
  else if va.toNat % 64 ≠ 0 then .exc 0x62 s
  else match resolve s w true true 64 va with
    | .exc c s => .exc (if c = 0x12 ∨ c = 0x30 then c else 0x62) s
    | .lost c s => .lost c s
    | .wait s => .wait s
    | .ok (p, pa) s =>
      (loadAt w p pa 64 s).next (fun h s =>
        let n := bitsOf h 11 0
        if graphWhole s w va pa (64 + 4 * (n + 1)) && bitsOf h 31 13 == 0 && bitsOf h 63 48 == 0 && bitsOf h 511 93 == 0
            && decide (qix ≤ n) && base == bitsOf h 47 32 then
          (loadAt w p (pa + 64 + 4 * qix) 4 s).next (fun v s => if v.testBit 16 then .exc 0x62 s else .ok (some pa) s)
        else .exc 0x62 s)

/-- R383: the bank writes NDECL, and a slot takes a value. -/
def graphSlot (g qix : Nat) (slot : Nat) (ndecl : Nat) (s : State) : State :=
  let s := writePlain s (g + 64 + 4 * qix) 4 slot
  graphUpdate g false (writePlain s (g + 10) 2 (ndecl % 2 ^ 13))

/-- R364, R383: a graph refused is cause 0x62, without an address. -/
def closeGraph (va : Word) (r : Res (Option Nat)) (f : Option Nat → State → Out) : Out :=
  match r with
  | .exc c s => if c = 0x62 then iqRaise 0x62 s else raise c va s
  | r => closeAccess va r f

/-- R364: `iq.decl`. (DEDUCED: log entry 48.) -/
def execIqDecl (d a : Fin 32) (s : State) : Out :=
  iqScalar (tvalWord (.iqDecl d a)) (fun k s =>
    let ea := x s a
    let w := whoC s k
    let die := dieOfThread k
    if ea.toNat % 256 ≠ 0 then raise 0x03 ea s
    else closeAccess ea (resolve s w true true 1 ea) (fun q s =>
      if pteMc q.1 = true ∨ devOf q.2 ≠ devOfDie die ∨ placeOf q.2 ≠ .common (die % 32) then raise 0x13 ea s
      else closeAccess ea (loadAt w q.1 q.2 256 s) (fun v s =>
        let i := issuerNow s k (pcOf s)
        let gva := BitVec.ofNat 64 (bitsOf v 120 64)
        let iq := qdrQueue q.2 v i none
        if qdrBad s (devOfDie die) v then iqRaise 0x62 s
        else if !bufferOk s die iq (BitVec.ofNat 64 (bitsOf v 184 128)) (32 * bitsOf v 215 192) then iqRaise 0x62 s
        else closeGraph gva (graphOf s w gva (bitsOf v 31 20) (bitsOf v 47 32)) (fun g s =>
          match (List.range 256).find? (fun n => (iqAt s (die * 256 + n)).isNone) with
          | none => writeOn d (BitVec.ofNat 64 (2 ^ 64 - 1)) s
          | some n =>
            let key := die * 256 + n
            let s := tagLines w q.1 (q.2 + 32) 32 (setIq key { iq with gdesc := g.map (fun p => (p, gva)) } s)
            let s := match g with
              | some p => graphSlot p iq.qix (iq.qthru.toNat + 2 ^ 16) (graphNdecl s p + 1) s
              | none => s
            writeOn d (BitVec.ofNat 64 (handleOf key)) s)))) s

/-- R365: `iq.undecl`. -/
def execIqUndecl (q : Fin 32) (s : State) : Out :=
  iqNamed (tvalWord (.iqUndecl q)) (x s q) (fun _ key v s =>
    if v.pend ≠ 0 ∨ v.avail = true ∨ v.held = true ∨ (v.qstate ≠ 1 ∧ v.qstate ≠ 2) then iqRaise 0x62 s
    else
      let s := hayStat (key / 256) (setIqRaw key none (qdrWrite key { v with qstate := 0 } s))
      .next (finish (match v.gdesc with
        | some (p, _) => graphSlot p v.qix v.qthru.toNat (graphNdecl s p - 1) s
        | none => s))) s

/-! ## The vector-queue forms -/

/-- R368: the reserved bits of a count word. -/
def countBad (c : Word) : Bool := bitsOf c.toNat 47 30 != 0

/-- R369: `iq.emit`. -/
def execIqEmit (p : Fin 16) (q : Fin 32) (s : State) : Out :=
  let i := Instr.iqEmit p q
  if countBad (x s (pairHi p)) then raise 0x01 (tvalWord i) s
  else iqDispatch i (x s (pairLo p)) (x s (pairHi p)) (x s q) 0 (fun _ s => s) s

/-- R370: `iq.close`. (DEDUCED: log entry 50.) -/
def execIqClose (q b : Fin 32) (s : State) : Out :=
  let i := Instr.iqClose q b
  let v := (x s b).toNat
  if bitsOf v 31 22 ≠ 0 ∨ bitsOf v 63 33 ≠ 0 then raise 0x01 (tvalWord i) s
  else iqDispatch i (x s q) (x s b) 0 0 (fun _ s => s) s

/-- R379: `iq.apply`. -/
def execIqApply (a b : Fin 16) (s : State) : Out :=
  let i := Instr.iqApply a b
  let c := x s (pairHi a)
  if countBad c ∨ bitsOf c.toNat 29 24 ≠ 0 then raise 0x01 (tvalWord i) s
  else iqDispatch i (x s (pairLo a)) c (x s (pairLo b)) (x s (pairHi b)) (fun _ s => s) s

/-- R380: `iq.probe`. -/
def execIqProbe (a b : Fin 16) (s : State) : Out :=
  let i := Instr.iqProbe a b
  let c := x s (pairHi a)
  if countBad c ∨ bitsOf c.toNat 29 26 ≠ 0 then raise 0x01 (tvalWord i) s
  else iqDispatch i (x s (pairLo a)) c (x s (pairLo b)) (x s (pairHi b)) (fun _ s => s) s

/-- R375, R376: the thread has dispatched an `iq.done` of the batch it holds. -/
def noteDone (h : Word) (k : Nat) (s : State) : State :=
  match handleQueue s h with
  | some (key, q) => if holdsBatch s k q then setIqRaw key (some { q with doneSent := true }) s else s
  | none => s

/-- R376: `iq.done`. -/
def execIqDone (q : Fin 32) (s : State) : Out := iqDispatch (.iqDone q) (x s q) 0 0 0 (noteDone (x s q)) s

/-! ## Take, status and quiescence -/

/-- R375: `iq.take`. -/
def execIqTake (p : Fin 16) (q : Fin 32) (s : State) : Out :=
  iqNamed (tvalWord (.iqTake p q)) (x s q) (fun k key v s =>
    if !v.tags.isEmpty then iqRaise 0x62 s
    else if holdsBatch s k v && !v.doneSent then iqRaise 0x67 s
    else if !v.avail then blockOn s
    else
      let b := iqDbuf s v
      let s := setIq key { v with avail := false, held := true, holder := some (k, (thr s k).bind), doneSent := false } s
      .next (finish (setX (setX s (pairLo p) b) (pairHi p) (BitVec.ofNat 64 (v.n + v.nextd.toNat * 2 ^ 48))))) s

/-- R385: `iq.stat`. -/
def execIqStat (d q : Fin 32) (s : State) : Out :=
  iqNamed (tvalWord (.iqStat d q)) (x s q) (fun _ _ v s =>
    writeOn d (BitVec.ofNat 64 (v.pend % 2 ^ 32 + v.front.toNat * 2 ^ 32 + v.qthru.toNat * 2 ^ 48)) s) s

/-- R385: `iq.front`. -/
def execIqFront (d q : Fin 32) (s : State) : Out :=
  iqNamed (formWord 47 d.val q.val 0 6) (x s q) (fun _ _ v s =>
    writeOn d (BitVec.ofNat 64 (v.nextd.toNat + v.avail.toNat * 2 ^ 16 + v.held.toNat * 2 ^ 17 + v.qstate % 4 * 2 ^ 18)) s) s

/-- R384: `iq.qwait`. -/
def execIqQwait (g b : Fin 32) (s : State) : Out :=
  iqScalar (tvalWord (.iqQwait g b)) (fun k s =>
    let ea := x s g
    if ea.toNat % 64 ≠ 0 then raise 0x03 ea s
    else closeAccess ea (resolve s (whoC s k) true false 1 ea) (fun q s =>
      if pteMc q.1 = true ∨ (match placeOf q.2 with | .common _ => false | _ => true) = true then raise 0x13 ea s
      else if bitsOf (x s b).toNat 63 16 ≠ 0 then iqRaise 0x62 s
      else closeAccess ea (loadAt (whoC s k) q.1 q.2 16 s) (fun h s =>
        if bitsOf h 92 80 = bitsOf h 11 0 + 1 ∧ precedesEq ((x s b).setWidth 16) (BitVec.ofNat 16 (bitsOf h 79 64)) = true then
          .next (finish s)
        else blockOn s))) s

end Sys2Proof.Machine
end

