-- ==== Sys2Proof/Machine/SaveArea.lean ====
section
/-! DEFINITION. The save area of a thread (R152..R154): what a save writes and a restore reads. -/

namespace Sys2Proof.Machine

/-! ## Registers with poison -/

/-- R253: register bits written to memory; a granule whose bits are poisoned is poisoned. -/
def savePBits {n : Nat} (pa bytes : Nat) (p : PBits n) (s : State) : State :=
  (List.range ((bytes + 63) / 64)).foldl (fun s g => if p.psn.toNat / 2 ^ (512 * g) % 2 ^ 512 = 0 then s else poisonAt s (pa + 64 * g))
    (storeMem s pa bytes (p.bits.toNat % 256 ^ bytes))

/-- R253: register bits read from memory; the bits of a poisoned granule are poisoned. -/
def loadPBits (n : Nat) (s : State) (pa bytes : Nat) : PBits n :=
  ⟨BitVec.ofNat n (readMem s pa bytes),
    BitVec.ofNat n ((List.range ((bytes + 63) / 64)).foldl (fun m g => if poisoned s (pa + 64 * g) 1 then m + (2 ^ 512 - 1) * 2 ^ (512 * g) else m) 0)⟩

/-! ## Sizes (R153) -/

/-- R153: K. -/
def saveK (t : Thread) : Nat := min (regBytes t.cur t.share / 4) 4096
/-- The thread of a slot holds its core's attachment. -/
def attached (s : State) (k : Nat) : Bool := (ctx s (coreOfThread k)).holder == some k
/-- R153: G. -/
def saveRows (s : State) (k : Nat) : Nat := if attached s k then (ctx s (coreOfThread k)).rows else 0
/-- R153: the offset of the tile registers. -/
def saveTilesAt (t : Thread) : Nat := 8192 + 9 * saveK t + regCount t.cur * regBytes t.cur t.share
/-- R153: the offset of the accumulator tiles. -/
def saveAccAt (t : Thread) : Nat := saveTilesAt t + 131072 * t.tiles.toNat
/-- R153: S. -/
def saveSize (s : State) (k : Nat) : Nat :=
  saveAccAt (thr s k) + 8 * (attached s k).toNat * (1024 * saveRows s k + 64)

/-! ## The fields of the area -/

/-- R154: the header. -/
def saveHeader (s : State) (k : Nat) : Nat :=
  let t := thr s k
  1 + t.cur.val * 2 ^ 16 + t.share % 16 * 2 ^ 18 + t.tiles.toNat * 2 ^ 22 + (attached s k).toNat * 2 ^ 23
    + (t.rdom != 0).toNat * 2 ^ 24 + t.late.toNat * 2 ^ 25 + t.hm.toNat * 2 ^ 26 + t.priv.toNat * 2 ^ 27
    + saveRows s k % 256 * 2 ^ 32 + saveSize s k * 2 ^ 64 + regBytes t.cur t.share * 2 ^ 96

/-- R248: the status word of the area. -/
def saveStatus (t : Thread) : Nat := t.spec.toNat

/-- R153: a loop level. -/
def saveLevel (l : Option Level) : Nat :=
  match l with
  | some v => v.count.toNat + v.index.toNat * 2 ^ 32 + v.start.toNat * 2 ^ 64 + v.stop.toNat * 2 ^ 128 + 2 ^ 192
  | none => 0

/-- R43: a PC that an area holds is a multiple of 4. -/
def codeAddr (v : Nat) : Word := BitVec.ofNat 64 v &&& ~~~3

/-- The loop level that 32 bytes of the area hold. -/
def loadLevel (v : Nat) : Option Level :=
  if bitsOf v 255 192 = 0 then none
  else some ⟨BitVec.ofNat 32 v, BitVec.ofNat 32 (v / 2 ^ 32), codeAddr (v / 2 ^ 64), codeAddr (v / 2 ^ 128)⟩

/-- R153: an entry of the vector queue: its word, its PC and two scalar operands, and queue flags: present, begun, the
configuration it was dispatched under, and parked. (DESIGN CHOICE: log entry 40.) -/
def saveEntry (parked : Bool) (e : VEntry) : Nat :=
  (encode e.instr).getD 0 % 2 ^ 32 + e.pc.toNat * 2 ^ 32 + e.op0.toNat * 2 ^ 96 + e.op1.toNat * 2 ^ 160
    + (1 + e.begun.toNat * 2 + e.cur.val * 4 + e.vtype.toNat % 2 ^ 11 * 2 ^ 4 + e.vl % 2 ^ 16 * 2 ^ 15 + parked.toNat * 2 ^ 31) * 2 ^ 224

/-- R152: the entries of a vector queue as the area holds them, the parked ones first. -/
def saveEntries (parked vq : List VEntry) : List Nat := parked.map (saveEntry true) ++ vq.map (saveEntry false)

/-- The instructions that stand in the vector queue, by their words. -/
def queuedInstr (w : Nat) : Option Instr :=
  let f := unpackFields w
  let r : Except Reject Instr := match f.mj with
    | 18 => decodeMajor12 f
    | 19 => decodeMajor13 f
    | 20 => decodeMajor14 f
    | 21 => decodeMajor15 f
    | 22 => decodeMajor16 f
    | 23 => decodeMajor17 f
    | 24 => decodeMajor18 f
    | 25 => decodeMajor19 f
    | 26 => decodeMajor1A f
    | 27 => decodeMajor1B f
    | 28 => decodeMajor1C f
    | 29 => decodeMajor1D f
    | 30 => decodeMajor1E f
    | 31 => decodeMajor1F f
    | 44 => decodeMajor2C f
    | 45 => decodeMajor2D f
    | 46 => decodeMajor2E f
    | 47 => (match f.fn with
      | 1 => form3 (fldPair 16 f.f1) (fldPair 16 f.f2) (fld0 f.f3) (fun a b _ => .iqApply a b)
      | 2 => form3 (fldPair 16 f.f1) (fldPair 16 f.f2) (fld0 f.f3) (fun a b _ => .iqProbe a b)
      | 4 => form3 (fldN 32 f.f1) (fld0 f.f2) (fld0 f.f3) (fun q _ _ => .iqDone q)
      | _ => .error .badFunction)
    | _ => .error .badMajor
  match r with
  | .ok i => if i.wellFormed then some i else none
  | .error _ => none

/-- The entry of the vector queue that 32 bytes of the area hold, for a thread. -/
def loadEntry (t : Thread) (v : Nat) : Option VEntry :=
  let q := v / 2 ^ 224
  if q % 2 = 0 then none
  else match queuedInstr (v % 2 ^ 32) with
    | none => none
    | some i =>
      some { instr := i, pc := codeAddr (v / 2 ^ 32), op0 := BitVec.ofNat 64 (v / 2 ^ 96), op1 := BitVec.ofNat 64 (v / 2 ^ 160),
             op2 := 0, op3 := 0, vtype := BitVec.ofNat 64 (q / 2 ^ 4 % 2 ^ 11), vl := q / 2 ^ 15 % 2 ^ 16,
             cur := ⟨q / 4 % 4, by omega⟩, asid := t.asid, rcb := t.rcb, rid := t.rid, home := t.home, estart := 0, done := 0, blks := [],
             pushes := [], stored := [], target := none, claims := [], begun := q.testBit 1, flags := 0, released := false,
             stalled := false, arr := none }

/-- The groups of 256 bytes that an entry of a load queue takes. -/
def entryGroups (e : QEntry) : Nat := (e.vl * e.width + 2047) / 2048

/-- The unconsumed entries of the load queues, each with its queue. -/
def queueEntries (t : Thread) : List (Nat × QEntry) :=
  (List.range 8).flatMap (fun q => ((t.queues[q]?).getD []).map (fun e => (q, e)))

/-- The groups before each entry. -/
def groupStarts : Nat → List (Nat × QEntry) → List (Nat × QEntry × Nat)
  | _, [] => []
  | n, (q, e) :: l => (q, e, n) :: groupStarts (n + entryGroups e) l

/-- A load queue descriptor: the queue, the element width in bits, present, the length, and not complete. (DESIGN CHOICE: log
entry 40.) -/
def saveDesc (q : Nat) (e : QEntry) : Nat :=
  q % 8 + e.width % 2 ^ 8 * 2 ^ 3 + 2 ^ 11 + e.vl % 2 ^ 17 * 2 ^ 12 + (!e.ready).toNat * 2 ^ 29

/-- The entry of a load queue that a descriptor tells of, with its queue; `id` becomes its serial number. -/
def loadDesc (id d : Nat) : Nat × QEntry :=
  (d % 8, { id := id, vl := bitsOf d 28 12, width := bitsOf d 10 3, data := ⟨0, 0⟩, ready := !d.testBit 29, drain := none })

/-- The entries of the load queues in an area: those kept for its address when the descriptors are theirs, else what the
descriptors say. -/
def restoreDescs (s : State) (pa : Nat) : List (Nat × QEntry) :=
  let ds := ((List.range 16).map (fun i => readMem s (pa + 1472 + 4 * i) 4)).filter (fun d => d.testBit 11)
  let kept := (tabGet ⟨[], [], []⟩ s.savedVq pa).queues
  if (kept.take 16).map (fun e => saveDesc e.1 e.2) == ds then kept else ds.zipIdx.map (fun d => loadDesc (s.serial + d.2) d.1)

/-- The load queues that the area holds: each entry with its data, from its groups. -/
def restoreQueues (s : State) (pa : Nat) : Vector (List QEntry) 8 :=
  (groupStarts 0 (restoreDescs s pa)).foldl (fun v e =>
    let x := { e.2.1 with data := loadPBits 32768 s (pa + 2048 + 256 * e.2.2) (256 * entryGroups e.2.1) }
    if h : e.1 < 8 then v.set e.1 (v[e.1] ++ [x]) else v) (Vector.replicate 8 [])

/-- R153: the acquired vector and the epoch of a race agent. -/
def saveClock (s : State) (t : Thread) : Clock := clockOf s t.rdom t.agent

/-- R153: a write of the save area whose bytes are no register with poison. -/
def saveWord (pa bytes v : Nat) (s : State) : State := storeMem s pa bytes v

/-- R399: an accumulator tile's state word: FLAGS in bits 6:0, TYPE in bits 10:8 and AMAX in bits 127:64. -/
def saveTileState (a : AccTile) : Nat := a.flags.toNat + a.type.val * 2 ^ 8 + a.amax.toNat * 2 ^ 64

/-- R153: the accumulator tiles of a context with `g` rows. -/
def saveAcc (pa g : Nat) (x : Ctx) (s : State) : State :=
  (List.range 8).foldl (fun s i =>
    match x.acc[i]? with
    | none => s
    | some a =>
      let b := pa + i * (1024 * g + 64)
      let s := (List.range g).foldl (fun s r => saveWord (b + 1024 * r) 1024 (tabGet 0 a.rows r).toNat s) s
      saveWord (b + 1024 * g) 64 (saveTileState a) s) s

/-- R153: the whole save area of a thread, written at a physical address. (DESIGN CHOICE: log entry 40.) -/
def saveThread (k pa : Nat) (s : State) : State :=
  let t := thr s k
  let s := { s with saves := (pa, saveSize s k, t.rid) :: s.saves.filter (fun p => p.1 != pa) }
  let q := t.seq
  let n := saveSize s k
  let header := saveHeader s k
  let c := saveClock s t
  let h := (t.parked ++ t.vq).head?
  let gs := groupStarts 0 (queueEntries t)
  let kb := saveK t
  let rb := regBytes t.cur t.share
  let s := saveWord pa 64 header s
  let s := saveWord (pa + 64) 64 (joinFields 64 [q.pc.toNat, saveStatus t, t.tvec.toNat, t.tepc.toNat, t.tcause.toNat, t.tval.toNat,
    t.aflags.toNat, t.clkseed.toNat]) s
  let s := saveWord (pa + 128) 256 (joinFields 64 (q.regs.toList.map (fun v => v.toNat))) s
  let s := saveWord (pa + 384) 192 (joinFields 256 ((List.range 6).map (fun i => saveLevel q.loops[i]?))) s
  let s := saveWord (pa + 576) 64 (joinFields 64 [t.vtype.toNat, t.vl, (vcfgWord t).toNat,
    if t.rdom = 0 then 0 else c.epoch % 2 ^ 16 + t.agent.toNat * 2 ^ 16, 0, 0, 0, 0]) s
  let s := saveWord (pa + 640) 256 (joinFields 32 (t.lanes.toList.map (fun v => v.toNat))) s
  let s := saveWord (pa + 896) 512 (joinFields 256 ((saveEntries t.parked t.vq).take 16)) s
  let s := saveWord (pa + 1408) 64 (match h with | none => 0 | some e => e.estart % 2 ^ 32 + e.done.toNat * 2 ^ 256) s
  let s := saveWord (pa + 1472) 64 (joinFields 32 ((gs.take 16).map (fun g => saveDesc g.1 g.2.1))) s
  let s := saveWord (pa + 1536) 4608 0 s
  let s := gs.foldl (fun s g => savePBits (pa + 2048 + 256 * g.2.2) (256 * entryGroups g.2.1) g.2.1.data s) s
  let s := saveWord (pa + 6144) 512 (if t.rdom = 0 then 0 else blockNum c.acq) s
  let s := saveWord (pa + 6656) 1536 0 s
  let s := (List.range 8).foldl (fun s i => saveWord (pa + 8192 + kb * i) kb (((t.mregs[i]?).getD 0).toNat % 256 ^ kb) s) s
  let s := saveWord (pa + 8192 + 8 * kb) kb (t.bvalid.toNat % 256 ^ kb) s
  let s := (List.range (regCount t.cur)).foldl (fun s r => savePBits (pa + 8192 + 9 * kb + rb * r) rb (vreg t r) s) s
  let s := if t.tiles then (List.range 8).foldl (fun s i =>
      savePBits (pa + saveTilesAt t + 16384 * i) 16384 (((core s (coreOfThread k)).tiles[i]?).getD ⟨0, 0⟩) s) s else s
  let s := if attached s k then saveAcc (pa + saveAccAt t) (saveRows s k) (ctx s (coreOfThread k)) s else s
  let kept := (queueEntries t).map (fun e => (e.1, { e.2 with data := ⟨0, 0⟩ }))
  clearTags { s with savedVq := tabSet ⟨[], [], []⟩ s.savedVq pa ⟨t.parked, t.vq, kept⟩ } pa n

/-! ## Restoring (R154) -/

/-- R153: an accumulator tile of a save area. -/
def loadTile (s : State) (b g : Nat) : AccTile :=
  let st := readMem s (b + 1024 * g) 64
  { type := ⟨st / 2 ^ 8 % 8, by omega⟩
    rows := (List.range g).foldl (fun t r => tabSet 0 t r (BitVec.ofNat 8192 (readMem s (b + 1024 * r) 1024))) []
    flags := BitVec.ofNat 7 st
    amax := BitVec.ofNat 64 (st / 2 ^ 64) }

/-- R154: the restore of an area is refused for the thread of a slot. -/
def restoreBad (s : State) (k h : Nat) : Bool :=
  let t := thr s k
  let x := ctx s (coreOfThread k)
  bitsOf h 15 0 != 1 || bitsOf h 21 18 != t.share || (h.testBit 22 && !t.tiles)
    || (h.testBit 23 && ((x.holder.isSome && x.holder != some k) || decide (faAvail s (coreOfThread k) < bitsOf h 39 32)))

/-- R257, R261: an entry that the area's bytes alone describe joins a queue again: a load into a queue fills the oldest incomplete
entry there that no other fills, and a reader claims what it reads. -/
def rejoin (s : State) (t : Thread) (parked : Bool) (e : VEntry) : Thread :=
  let filled := (vAll t).filterMap (fun x => x.target)
  let target := match loadQueue e.instr with
    | none => none
    | some q => (((t.queues[q]?).getD []).find? (fun x => !x.ready && !filled.contains x.id)).map (fun x => x.id)
  let e := { e with target := target, claims := newClaims t (vInfo e.instr { t with vtype := e.vtype, vl := e.vl, cur := e.cur } s).srcs }
  if parked then { t with parked := t.parked ++ [e] } else { t with vq := t.vq ++ [e] }

/-- The thread with the vector queue that the area holds: the entries kept for its address when their words, addresses and operands
are those of the area, else what the area's own bytes say. -/
def restoreQueue (s : State) (pa : Nat) (t : Thread) : Thread :=
  let raw := ((List.range 16).map (fun i => readMem s (pa + 896 + 32 * i) 32)).filter (fun v => v.testBit 224)
  let kept := tabGet ⟨[], [], []⟩ s.savedVq pa
  if (saveEntries kept.parked kept.vq).take 16 == raw then { t with parked := kept.parked, vq := kept.vq }
  else
    let es := raw.filterMap (fun v => (loadEntry t v).map (fun e => (v.testBit 255, e)))
    let es := match es with
      | [] => []
      | (b, e) :: l => (b, { e with estart := readMem s (pa + 1408) 4, done := BitVec.ofNat 256 (readMem s (pa + 1440) 32) }) :: l
    es.foldl (fun t e => rejoin s t e.1 e.2) { t with parked := [], vq := [] }

/-- R153, R154: the thread of a slot with the state that the area holds, at the places that the area's own header gives it. -/
def restoreThread (k pa : Nat) (s : State) : State :=
  let h := readMem s pa 16
  let t := thr s k
  let f := fun (i : Nat) => BitVec.ofNat 64 (readMem s (pa + i) 8)
  let cur : Fin 4 := ⟨bitsOf h 17 16 % 4, by omega⟩
  let status := readMem s (pa + 72) 8
  let vcfg := readMem s (pa + 592) 8
  let loops := (List.range 6).filterMap (fun i => loadLevel (readMem s (pa + 384 + 32 * i) 32))
  let kb := min (regBytes cur t.share / 4) 4096
  let rb := regBytes cur t.share
  let t1 := { t with
    hm := h.testBit 26, priv := h.testBit 27
    seq := { pc := f 64 &&& ~~~3, regs := Vector.ofFn (fun i => if i.val = 0 then 0 else f (128 + 8 * i.val)), loops := loops, landing := .none }
    tvec := f 80 &&& handlerMask, tepc := f 88 &&& handlerMask, tcause := f 96, tval := f 104, aflags := (f 112).setWidth 7, clkseed := (f 120).setWidth 32
    vtype := f 576, vl := (f 584).toNat, cur := cur, pend := ⟨vcfg / 4 % 4, by omega⟩, pv := vcfg.testBit 4
    lanes := Vector.ofFn (fun i => BitVec.ofNat 32 (readMem s (pa + 640 + 4 * i.val) 4))
    spec := status.testBit 0
    queues := restoreQueues s pa
    mregs := Vector.ofFn (fun i => BitVec.ofNat 32768 (readMem s (pa + 8192 + kb * i.val) kb))
    bvalid := BitVec.ofNat 32768 (readMem s (pa + 8192 + 8 * kb) kb)
    vregs := (List.range (regCount cur)).foldl (fun v r => tabSet ⟨0, 0⟩ v r (loadPBits 262144 s (pa + 8192 + 9 * kb + rb * r) rb)) []
    restore := none }
  let t1 := restoreQueue s pa t1
  let s0 := s
  let s := setThr { s with serial := s.serial + 16 } k t1
  let s := if h.testBit 22 then
      setCore s (coreOfThread k) { core s (coreOfThread k) with
        tiles := Vector.ofFn (fun i => loadPBits 131072 s0 (pa + saveTilesAt t1 + 16384 * i.val) 16384) }
    else s
  let s := if h.testBit 23 then
      let g := bitsOf h 39 32
      let b := pa + saveAccAt { t1 with tiles := h.testBit 22 }
      setCtx s (coreOfThread k) { ctx s (coreOfThread k) with
        holder := some k, rows := g
        acc := Vector.ofFn (fun i => loadTile s0 (b + i.val * (1024 * g + 64)) g) }
    else s
  if h.testBit 24 ∧ t.rdom ≠ 0 then
    setClock s t.rdom t.agent
      ⟨readMem s (pa + 600) 2, (blockVec s (pa + 6144)).set t.agent.toNat (readMem s (pa + 600) 2) (by omega)⟩
  else s

end Sys2Proof.Machine
end

