-- ==== Sys2Proof/Machine/Slots.lean ====
section
/-! DEFINITION. Thread slots (R19, R129..R131, R149..R154, R201..R204): binds, restores, pre-emption, saves, frees; deliveries and
held records (R148, R305); replacement maps (R207). -/

namespace Sys2Proof.Machine

/-! ## Asynchronous work (R19, R20) -/

/-- R19, R20, R318: something that this binding of a slot issued or forked is outstanding; an armed command that has not fired
belongs to no wait. -/
def asyncBusy (s : State) (k : Nat) : Bool :=
  let b := (thr s k).bind
  let mine := fun (i : Issuer) => ofThread k b i
  let x := ctx s (coreOfThread k)
  let prog := fun (p : Option Prog) => match p with | some p => mine p.iss | none => false
  let cmd := fun (c : Option FaCmd) => match c with | some c => mine c.iss | none => false
  let coll := fun (l : Coll) => mine l.cmd.iss
  x.queue.any (fun it => match it with | .cmd c => mine c.iss | .start p => mine p.iss)
    || prog x.prog || cmd x.busy
    || s.engines.any (fun e => e.2.queue.any (fun c => mine c.iss) || e.2.armed.any (fun a => a.fired && mine a.cmd.iss) || e.2.colls.any coll || prog e.2.prog)
    || s.forkQs.any (fun q => q.2.any (fun p => mine p.iss))
    || s.nms.any (fun e => (e.2.queue ++ e.2.gates ++ e.2.active.toList).any (fun c => mine c.iss))
    || s.packets.any (fun p => mine p.iss)
    || s.cores.any (fun c => c.2.held.any (fun h => mine h.iss))

/-! ## Deliveries and held records (R143, R148, R305) -/

/-- R305: a record waits for the next instruction boundary of the thread of a slot: its scalar side issues nothing before it. -/
def deliveryDue (t : Thread) : Bool :=
  (t.st == .running || t.st == .waiting) && !t.deliv.isEmpty && !t.hm && !t.heldTrap && t.owed.isNone

/-- R142, R305: the record may be delivered now: the vector queue has run empty. -/
def canDeliver (t : Thread) : Bool := deliveryDue t && t.vq.isEmpty

/-- R143, R305: the oldest waiting record is delivered as a trap. -/
def deliver (k : Nat) (s : State) : State :=
  match (thr s k).deliv with
  | [] => s
  | d :: l => trapTo k d.cause d.addr d.ecls (orAflags k d.flags (setThr s k { thr s k with deliv := l }))

/-- R305: ENGINE_RECORD_DELIVERY. -/
def execEngineRecordDelivery (k : Nat) (s : State) : Out :=
  if Sys2Proof.Machine.canDeliver (thr s k) && !scalarBusy s k then .next (deliver k s) else .fault .noSuchUnit

/-- R148: HELD_RECORD_WRITE: the oldest held record of a core is written once there is room. One that finds the ring full tells its
region so, once for each filling. -/
def execHeldRecordWrite (cn : Nat) (s : State) : Out :=
  let c := core s cn
  match c.held with
  | [] => .fault .noSuchUnit
  | h :: l =>
    if c.fqEn && fqFull c h.addrs.length then (if c.fullSeen then .fault .noSuchUnit else .next (ringFull h s))
    else if c.fqEn && recordBusy h.iss h.addrs.length s then .fault .noSuchUnit
    else
      let s := setCore s cn { c with held := l }
      .next (match recordWrite h.iss h.record h.addrs s with
        | .ok (a, s) => recordDone h.use h.iss h.record a s
        | .error _ => recordLost h.use h.iss (recordCause h.record) s)

/-! ## Ends (R19, R127, R195) -/

/-- R195, R198: a thread of an intake entry has freed its slot; the last one completes the record, and so does the last that held a
slot of a record refused at a bind. -/
def threadEnded (dev e : Nat) (killed : Bool) (s : State) : State :=
  match intakeAt s dev e with
  | none => s
  | some n =>
    let n := { n with ended := n.ended + 1, killed := n.killed || killed }
    let s := setIntake s dev e n
    if n.refused then settleRefused dev e s
    else if n.ended = recNthr n.record + 1 then complete dev e (if n.killed then 2 else 1) n.cause s else s

/-- R19: SLOT_FREE: a retiring slot whose asynchronous work has ended is free. -/
def execSlotFree (k : Nat) (s : State) : Out :=
  let t := thr s k
  if t.st ≠ .retiring ∨ asyncBusy s k = true then .fault .noSuchUnit
  else
    let s := reportDeliveries k (t.deliv ++ t.forkFaults) s
    let s := if attached s k then faRelease (coreOfThread k) s else s
    let s := freeAgent t.rdom t.agent (iqFreeHolder k t.bind s)
    .next (threadEnded (devOfDie (dieOfThread k)) t.entry t.killed (setThr s k Thread.init))

/-! ## Binding (R202..R204) -/

/-- R202: the address of the bind record of a slot. -/
def bindAddr (k : Nat) : Nat := windowBase (dieOfThread k) + 0x200000 + 64 * (k % 128)

/-- R202: a bind record as a number. -/
def bindRead (s : State) (k : Nat) : Nat := readMem s (bindAddr k) 64

/-- R202: BERR. -/
def setBerr (k : Nat) (b : Bool) (s : State) : State :=
  let a := bindAddr k + 32
  writeMem s a 1 (setBits (readMem s a 1) 3 3 b.toNat)

/-- R203: shares of the bound slots of a core. -/
def sharesOf (s : State) (cn : Nat) : Nat :=
  (s.threads.filter (fun p => p.1 / 4 == cn && p.2.st != .free)).foldl (fun n p => n + p.2.share) 0

/-- R190, R203: one slot more stays within the limits of every block of a chain. -/
def withinLimits (s : State) (k rcb : Nat) : Bool :=
  (chainOf s rcb).all (fun a =>
    let slots := subtreeSlots s (BitVec.ofNat 64 a)
    let cores := ((coreOfThread k :: slots.map coreOfThread)).eraseDups
    decide (slots.length + 1 ≤ rcbLimit s a 159 144) && decide (cores.length ≤ rcbLimit s a 143 128))

/-- R202: a reserved field of a bind record is set. -/
def bindReserved (b : Nat) : Bool := b.testBit 31 || bitsOf b 63 40 != 0 || bitsOf b 447 260 != 0

/-- R152, R203: another bound slot of the core holds the tile registers. -/
def tilesTaken (s : State) (k : Nat) : Bool :=
  s.threads.any (fun p => p.1 / 4 == coreOfThread k && p.1 != k && p.2.st != .free && p.2.tiles)

/-- R122: the index that a bind names is bound in the race domain of the record's region: the record waits for one that is free. -/
def agentTaken (s : State) (b : Nat) (n : Intake) : Bool :=
  let rcb := recRcb n.record
  let d := BitVec.ofNat 8 (bitsOf (rcbRead s rcb) 47 40)
  rcbField s rcb 3 30 30 == 1 && d != 0 && (dom s d).bound.any (fun p => p.1 == bitsOf b 39 32)

/-- R203: a bind is refused, but for its image. -/
def bindBad (s : State) (k b : Nat) (n : Intake) : Bool :=
  let share := bitsOf b 25 22
  let rcb := recRcb n.record
  decide (share < 1) || decide (8 < share) || decide (8 < sharesOf s (coreOfThread k) + share) || decide (recNthr n.record < bitsOf b 21 10)
    || !n.ready || n.ending.isSome || n.refused || agentTaken s b n || !withinLimits s k rcb || bindReserved b || rcbMalformed s rcb || !rcbRooted s rcb

/-- R191, R203, R204: the thread that a bind makes. -/
def boundThread (s : State) (b : Nat) (n : Intake) (img : Nat) : Thread :=
  let r := n.record
  let rcb := recRcb r
  let q := rcbRead s rcb
  let w := fun (v : Nat) => (BitVec.ofNat 64 v : Word)
  let asid := BitVec.ofNat 16 (rcbField s rcb 4 63 48)
  let regs : Vector Word 32 := Vector.ofFn (fun i =>
    if i.val = 1 then w (recF r 127 64) else if i.val = 2 then w (bitsOf b 21 10) else if i.val = 3 then w (recNthr r + 1)
    else if i.val = 4 then w (bitsOf b 191 128) else if i.val = 5 then w (bitsOf b 255 192) else 0)
  { Thread.init with
    st := .bound
    priv := rcbField s rcb 7 31 31 == 1
    seq := ⟨imageEntry asid (recImage r) img, regs, [], .none⟩
    tvec := w (rcbField s rcb 6 255 192) &&& handlerMask
    asid := asid
    rcb := w rcb
    rid := BitVec.ofNat 20 (bitsOf q 19 0)
    cls := BitVec.ofNat 4 (rcbField s rcb 2 29 26)
    prio := BitVec.ofNat 4 (rcbField s rcb 0 23 20)
    bind := s.serial + 1
    rdom := if rcbField s rcb 3 30 30 = 1 then BitVec.ofNat 8 (bitsOf q 47 40) else 0
    agent := BitVec.ofNat 8 (bitsOf b 39 32)
    entry := bitsOf b 9 0
    tidx := BitVec.ofNat 12 (bitsOf b 21 10)
    vlceil := recF r 259 256
    share := bitsOf b 25 22
    vl := 2 ^ grantedLog r img (bitsOf b 25 22) (bitsOf b 29 26)
    cur := imageRegs img
    tiles := claimsTiles r img
    home := homeOf s rcb
    request := shareRequest r img
    frameBytes := areaBytes (bitsOf img 191 160) (bitsOf img 223 192) (2 ^ grantedLog r img (bitsOf b 25 22) (bitsOf b 29 26))
    spillBytes := areaBytes (bitsOf img 255 224) (bitsOf img 287 256) (2 ^ grantedLog r img (bitsOf b 25 22) (bitsOf b 29 26))
    rgen := BitVec.ofNat 16 (bitsOf q 399 384)
    restore := if b.testBit 30 then some (w (bitsOf b 127 64)) else none }

/-- R203, R73: a store to GO: the bind is checked, and refused or made, with the image as it was installed. (DESIGN CHOICE: log entry 39.) -/
def bindNow (k : Nat) (s : State) : State :=
  let b := bindRead s k
  let dev := devOfDie (dieOfThread k)
  let e := bitsOf b 9 0
  let refuse := setBerr k true s
  if (thr s k).st ≠ .free then refuse
  else match intakeAt s dev e with
    | none => refuse
    | some n =>
      if bindBad s k b n then refuse
      else if claimsTiles n.record n.image && tilesTaken s k then refuse
      else if grantedLog n.record n.image (bitsOf b 25 22) (bitsOf b 29 26) < bitsOf n.image 67 64 then refuseRecord dev e refuse
      else
        let t := boundThread s b n n.image
        let s := setThr { setBerr k false s with serial := s.serial + 1 } k t
        let s := setIntake s dev e { n with started := setInsert (bitsOf b 21 10) n.started, binds := n.binds ++ [t.bind] }
        let space := (dieOfThread k, t.asid, t.rid)
        bindAgent t.rdom t.agent k { s with spaces := if s.spaces.contains space then s.spaces else space :: s.spaces }

/-- R203: BIND_GO. -/
def execBindGo (k : Nat) (s : State) : Out := if isThread k then .next (bindNow k s) else .fault .noSuchUnit

/-- R127, R152, R154: a slot that was saved, or whose restore was refused, is free; its index of a race domain is free too. -/
def leaveSlot (k : Nat) (s : State) : State :=
  let t := thr s k
  setDom (setThr s k Thread.init) t.rdom { dom s t.rdom with bound := tabErase t.agent.toNat (dom s t.rdom).bound }

/-- R130: the state of a slot is in place: its thread runs, or it is killed if a kill came before. -/
def slotRuns (k : Nat) (s : State) : State :=
  let s := setThr s k { thr s k with st := .running }
  if (thr s k).killed then killThread k s else s

/-- R204, R154: BIND_STATE_READY: the initial state stands, or the save area is restored, or the restore is refused. -/
def execBindStateReady (k : Nat) (s : State) : Out :=
  let t := thr s k
  let dev := devOfDie (dieOfThread k)
  if t.st ≠ .bound then .fault .noSuchUnit
  else match t.restore with
    | none => .next (slotRuns k s)
    | some a =>
      if restoreBad s k (readMem s a.toNat 64) then
        let s := leaveSlot k (reportTo t.home t.rid k t.bind 0x46 a true s)
        .next (if t.killed then threadEnded dev t.entry true s else settleRefused dev t.entry s)
      else .next (slotRuns k (restoreThread k a.toNat s))

/-! ## Pre-emption (R149, R150, R409) -/

/-- R406, R409: the thread of a slot waits for a load of a configuration; whether the load has ended. -/
def inLoad (s : State) (k : Nat) : Option Bool :=
  let t := thr s k
  match (ctx s (coreOfThread k)).load with
  | some (c, d) => if ofThread k t.bind c.iss ∧ t.seq.pc = c.iss.pc ∧ t.st = .waiting then some d else none
  | none => none

/-- R149, R184: the thread stands at a landing point of its pending request: its scalar side stops there. An access that is on its way
to the host completes first (R121). -/
def landDue (s : State) (k : Nat) : Bool :=
  let t := thr s k
  t.preq && !t.heldTrap && t.owed.isNone && !scalarBusy s k && (match t.st with
    | .waiting => inLoad s k != some false
    | .running =>
      t.seq.loops.isEmpty || t.seq.landing == .boundary || t.seq.landing == .yielded || (t.plim && t.seq.landing == .late)
    | _ => false)

/-- R208: a vector memory instruction reaches an element. -/
def memReaches (t : Thread) (o : VMemOp) (en : VEntry) (e : Nat) : Bool :=
  if o.spec then activeAt t en.vl o.m e else governedAt t en.vl o.m e

/-- R150, R259: an entry that stops now, at an element-group boundary: its cursor names the group, and its window bits are 0. -/
def groupStop (t : Thread) (en : VEntry) : Option VEntry :=
  match vMemOp en.instr with
  | some o =>
    let whole := fun (g : Nat) => (List.range 64).all (fun j => !memReaches t o en (en.estart + 64 * g + j) || en.done.getLsbD (64 * g + j))
    let n := ([0, 1, 2, 3].takeWhile whole).length
    if en.done.toNat / 2 ^ (64 * n) = 0 ∧ en.pushes.isEmpty = true
        ∧ en.blks.all (fun b => decide (b < blockOf en.vtype (en.estart + 64 * n))) = true then
      some { en with estart := en.estart + 64 * n, done := 0, blks := [] }
    else none
  | none =>
    let iq := match en.instr with | .iqEmit .. | .iqApply .. | .iqProbe .. => true | _ => false
    if ((cmOp en.instr).isSome || (iq && !en.stalled)) && en.estart % 64 != 0 then none else some en

/-- R339: what the entries of a queue have gathered for peers is sent, as far as it has room. -/
def sendEntries (k : Nat) (s : State) : State :=
  let r := (thr s k).vq.foldl (fun (r : List VEntry × State) en =>
    match vMemOp en.instr with
    | some o => let l := sendLines (whoV r.2 k en) o en.pushes r.2; (r.1 ++ [{ en with pushes := l.1 }], l.2)
    | none => (r.1 ++ [en], r.2)) ([], s)
  setThr r.2 k { thr r.2 k with vq := r.1 }

/-- R150: the vector queue of the thread of a slot stops at element-group boundaries, when every entry stands at one. -/
def stopQueue (k : Nat) (s : State) : Option State :=
  let s := sendEntries k s
  let t := thr s k
  let l := t.vq.map (groupStop t)
  if l.all Option.isSome then some (setThr s k { t with vq := l.filterMap id }) else none

/-- R121: an element access of the thread's vector unit is on its way to the host, or its answer has come. -/
def elementBusy (s : State) (k : Nat) : Bool :=
  (tabGet [] s.hostReqs (vReq k)).any (fun h => h.answer.isSome || placeOf h.pa == .hostAperture)

/-- R149, R150: the request of the thread of a slot lands now. -/
def landable (s : State) (k : Nat) : Bool := landDue s k && !elementBusy s k && (stopQueue k s).isSome

/-- R150: an entry of the vector queue that stopped part-way has a record of cause 0x4F. -/
def stopEntry4F (k : Nat) (s : State) : State :=
  ((thr s k).vq.filter (fun e => e.begun && decide (0 < e.estart))).foldl (fun s e =>
    let i := entryIssuer s k e
    recordQuiet i (mkRecord 2 0 0x4F i 0 (dieOfThread k) (vecCursor e.estart 0 e.done)) s) s

/-- R406, R409: a load that has ended lets its instruction complete before the thread stops. -/
def closeLoad (k : Nat) (s : State) : State :=
  match inLoad s k with
  | some true =>
    let s := setCtx s (coreOfThread k) { ctx s (coreOfThread k) with load := none }
    let c := s.cur
    { finish { s with cur := .thread k } with cur := c }
  | _ => s

/-- R149, R150: the request lands: the slot is suspended. -/
def landNow (k : Nat) (s : State) : State :=
  let s := stopEntry4F k (closeLoad k ((stopQueue k s).getD s))
  let t := thr s k
  let late := match t.st with
    | .running => !(t.seq.loops.isEmpty || t.seq.landing == .boundary || t.seq.landing == .yielded)
    | _ => false
  setThr (dropRequests (vReq k) (dropRequests k s)) k { t with st := .suspended, preq := false, plim := false, late := late, snap := none, yieldWait := [] }

/-- R149: PREEMPT_REQUEST. -/
def execPreemptRequest (k : Nat) (s : State) : Out := if isThread k then .next (requestPreempt k s) else .fault .noSuchUnit

/-- R150: PREEMPT_LANDING. -/
def execPreemptLanding (k : Nat) (s : State) : Out := if landable s k then .next (landNow k s) else .fault .noSuchUnit

/-- R149: PLIM_EXPIRY. -/
def execPlimExpiry (k : Nat) (s : State) : Out :=
  let t := thr s k
  if t.preq then .next (setThr s k { t with plim := true }) else .fault .noSuchUnit

/-- R409: CFGLD_PREEMPT_HOLD: 4096 cycles have passed: the load is abandoned and its shadow discarded, and the request lands, or the forked
program that a kill has reached ends. -/
def execCfgldPreemptHold (k : Nat) (s : State) : Out :=
  if (ctx s (coreOfThread k)).ending = true ∧ (ctx s (coreOfThread k)).prog.any (fun p => p.iss.thread == k) = true then
    let x := ctx s (coreOfThread k)
    .next (endProgram (coreOfThread k) (setCtx s (coreOfThread k) { x with loading := none, shadow := none }))
  else
  if (thr s k).preq = true ∧ inLoad s k = some false ∧ elementBusy s k = false ∧ (stopQueue k s).isSome = true then
    let x := ctx s (coreOfThread k)
    .next (landNow k (setCtx s (coreOfThread k) { x with load := none, loading := none, shadow := none }))
  else .fault .noSuchUnit

/-- Bytes of a save area lie in memory that the core writes. -/
def savePlace (pa : Nat) : Bool :=
  match placeOf pa with
  | .hbm _ => true
  | .common _ => true
  | .scratchpad _ _ => true
  | _ => false

/-- R20, R153: SAVE_COMPLETE: a suspended thread whose asynchronous work has ended is saved, and its slot is free. -/
def execSaveComplete (k : Nat) (s : State) : Out :=
  let t := thr s k
  let pa := bitsOf (bindRead s k) 115 64
  if t.st ≠ .suspended ∨ asyncBusy s k = true ∨ t.forks ≠ [] ∨ t.forkFaults ≠ [] ∨ t.deliv ≠ [] ∨ t.heldTrap = true ∨ t.owed ≠ none ∨ pa % 4096 ≠ 0
      ∨ savePlace pa = false ∨ savePlace (pa + saveSize s k - 1) = false then .fault .noSuchUnit
  else
    let s := saveThread k pa s
    let s := if attached s k then faRelease (coreOfThread k) s else s
    .next (settleRefused (devOfDie (dieOfThread k)) t.entry (leaveSlot k (iqFreeHolder k t.bind s)))

/-- R130: SLOT_RESUME. -/
def execSlotResume (k : Nat) (s : State) : Out :=
  let t := thr s k
  if t.st = .suspended ∧ t.halted = false then .next (setThr s k { t with st := .running, late := false }) else .fault .noSuchUnit

/-! ## Replacement maps (R207) -/

/-- An entry of a map that is in force: OLD, NEW and the word read at NEW. -/
abbrev MapEntry := Word × Word × BitVec 32

/-- R207: what a read of a map comes to: none where it cannot be read. -/
def mapRead {α : Type} (r : Res α) : Res (Option α) :=
  match r with
  | .ok v s => .ok (some v) s
  | .exc _ s => .ok none s
  | .lost _ s => .ok none s
  | .wait s => .wait s

/-- R207: an entry of a map, when it is applied. -/
def mapEntry (w : Who) (va : Nat) (s : State) : Res (Option MapEntry) :=
  (mapRead (imageBytes w va 16 s)).next (fun e s => match e with
    | none => .ok none s
    | some e =>
      let new := bitsOf e 120 64
      (mapRead (imageBytes w new 4 s)).next (fun x s => .ok (x.bind (fun x =>
        if x / 2 ^ 26 = 0x0D ∧ new % 4 = 0 then some (BitVec.ofNat 64 (bitsOf e 56 0), BitVec.ofNat 64 new, BitVec.ofNat 32 x) else none)) s))

/-- R207: the entries of a map that are applied, and how many are not. -/
def mapEntries (w : Who) (va : Nat) : Nat → State → Res (List MapEntry × Nat)
  | 0, s => .ok ([], 0) s
  | n + 1, s => (mapEntries w va n s).next (fun r s => (mapEntry w (va + 64 + 16 * n) s).next (fun e s => .ok (match e with
    | some x => (r.1 ++ [x], r.2)
    | none => (r.1, r.2 + 1)) s))

/-- R207: the map at an address, none where it is not in force. -/
def mapOf (w : Who) (va : Nat) (s : State) : Res (Option (List MapEntry × Nat)) :=
  if va = 0 then .ok none s
  else wholeOr s ((mapRead (imageBytes w va 2 s)).next (fun n s => match n with
    | some n => if 1 ≤ n ∧ n ≤ 256 then (mapEntries w va n s).next (fun r s => .ok (some r) s) else .ok none s
    | none => .ok none s))

/-- R207: REPLACEMENT_MAP_INSTALL: the words at NEW are read, BAD is written, the map is in force and RGEN advances. -/
def execReplacementMapInstall (rcb : Nat) (s : State) : Out :=
  if rcb % 64 ≠ 0 ∨ bitsOf (rcbRead s rcb) 19 0 = 0 then .fault .noSuchUnit
  else
    let w := dispatchWho s (devOf rcb) rcb
    let va := bitsOf (rcbRead s rcb) 383 320
    match mapOf w va s with
    | .ok m s =>
      let s := match m with
        | some r => (match translate s w false false 1 va with
          | .ok (_, pa) => if placeOf pa = .hostAperture then hostStore (pa + 2) 2 r.2 s else writePlain s (pa + 2) 2 r.2
          | .error _ => s)
        | none => s
      let g := bitsOf (rcbRead s rcb) 399 384
      .next { writeMem s (rcb + 48) 2 ((g + 1) % 2 ^ 16) with maps := tabSet [] s.maps rcb ((m.map (·.1)).getD []) }
    | .exc _ s => .next s
    | .lost _ s => .next s
    | .wait s => .next s

/-- R207: the generation of a region's map. -/
def mapGen (s : State) (rcb : Word) : BitVec 16 := BitVec.ofNat 16 (bitsOf (rcbRead s rcb.toNat) 399 384)

/-- R207: the map of the region of the thread of a slot, with its generation observed. -/
def observeMap (k : Nat) (s : State) : State :=
  let t := thr s k
  let g := mapGen s t.rcb
  if t.rgen = g then s else setThr s k { t with rgen := g }

/-- R207: the word that executes in place of an OLD `loop` word, with its address. (DEDUCED: log entry 41.) -/
def replacedAt (s : State) (k : Nat) (pc : Word) : Option (Word × BitVec 32) :=
  ((tabGet [] s.maps (thr s k).rcb.toNat).find? (fun e => e.1 == pc)).map (fun e => e.2)

end Sys2Proof.Machine
end

