-- ==== Sys2Proof/Machine/Engines.lean ====
section
/-! DEFINITION. Steps that the units of a die take of themselves: the vector sequencer (R205, R206), tiles (R284..R287, R30),
swaths and governor windows (R37..R39), translation (R271..R277), errors and their repair (R299..R301, R408), the tag sweep
(R128). -/

namespace Sys2Proof.Machine

/-! ## The vector sequencer (R205, R206) -/

/-- R206: VECTOR_STRIP_ISSUE. -/
def execVectorStripIssue (cn : Nat) (s : State) : Out :=
  match stripOrder s cn with
  | [] => .fault .noSuchUnit
  | l => .next (issueStrip l s).1

/-! ## Tags (R128) -/

/-- R128: TAG_SWEEP: a tag of an old generation becomes domain 0, and a reset that waited for it may come. -/
def execTagSweep (line : Nat) (s : State) : Out :=
  let t := tagOf s line
  .next (if t.dom = 0 ∨ t.gen = (dom s t.dom).gen then s else dueReset t.dom (clearTag s line))

/-! ## Tiles (R284..R287, R30) -/

/-- A cluster exists, and the number is one of its tiles'. -/
def isTile (ck n : Nat) : Bool := isDie (ck / 16) && decide (n < 256)

/-- R285: TILE_DEFINE. -/
def execTileDefine (ck n : Nat) (w : BitVec 64) (s : State) : Out :=
  if isTile ck n then .next (setTileEntry ck n (tileDefineEntry (tileEntry s ck n) w.toNat) s) else .fault .noSuchUnit

/-- R286: TILE_CMD_RELEASE. -/
def execTileCmdRelease (ck n : Nat) (s : State) : Out :=
  if isTile ck n then .next (setTileEntry ck n (tileReleaseEntry (tileEntry s ck n)) s) else .fault .noSuchUnit

/-- R286: TILE_CMD_DISCARD. -/
def execTileCmdDiscard (ck n : Nat) (s : State) : Out :=
  if isTile ck n then .next (setTileEntry ck n (tileDiscardEntry (tileEntry s ck n)) s) else .fault .noSuchUnit

/-- R287: a copy command that has begun writes the tile: bytes it has had accepted may still have to be performed. -/
def tileWriting (s : State) (ck n : Nat) : Bool :=
  s.engines.any (fun e => e.2.queue.any (fun c => c.started && cpTile c == some (ck, n)))

/-- R287: TILE_READY: the bytes accepted are performed. A tile that a stopped writer left filling stays so. -/
def execTileReady (ck n : Nat) (s : State) : Out :=
  let e := tileEntry s ck n
  if isTile ck n && tileState e == 1 && tileFilled e == tileSize e then
    .next (if tileWriting s ck n || (cluster s ck).unfilled.contains n then s else setTileEntry ck n (tileReadyEntry e) s)
  else .fault .noSuchUnit

/-- R29: a command that a context is in the middle of reads a tile of its cluster: its operand, over all its rows; in a projection the hidden
states, over all its chunks, and the tile of the chunk whose reads have been issued. -/
def readsTile (x : Ctx) (n : Nat) (m : FaCmd) : Bool :=
  let operand := fun (d : Word) => d.getLsbD 63 && d.toNat % 256 == n
  let projection := operand (vpHid m.record)
    || (x.row != 0 && vpTile m.record ((vpCur m.record - vpBase m.record) / 128 + (x.drained - 1)) == n)
  match m.instr with
  | .faStageFloat .. | .faStageBfp16 .. | .faStageMod .. | .faDense .. | .faSparse .. => !ctlTsrc m.c0 && operand m.a0
  | .vpmerge .. => operand m.a0
  | .vproj .. | .vprojThresh .. | .vprojBwd .. => projection
  | _ => false

/-- R287: a context of a cluster is in the middle of an instruction that reads a tile. -/
def tileReading (s : State) (ck n : Nat) : Bool :=
  [2 * ck, 2 * ck + 1].any (fun c =>
    let x := ctx s c
    x.issued && ((match x.busy with | some m => readsTile x n m | none => false)
      || (match x.queue with | .cmd m :: _ => readsTile x n m | _ => false)))

/-- R287: TILE_DRAIN_END. -/
def execTileDrainEnd (ck n : Nat) (s : State) : Out :=
  let e := tileEntry s ck n
  if isTile ck n && tileState e == 3 then .next (if tileReading s ck n then s else setTileEntry ck n (tileDrainedEntry e) s)
  else .fault .noSuchUnit

/-- R30: TILE_EMPTY_TIMEOUT: two swath boundaries have passed since a read was first refused; if its tile is still empty the
read raises cause 0x51 as it is tried again. -/
def execTileEmptyTimeout (c : Nat) (s : State) : Out :=
  match (ctx s c).tileWait with
  | some (t, 2) =>
    if tileState (tileEntry s (clusterOfCore c) t) = 0 then .next (setCtx s c { ctx s c with tileWait := some (t, 3) })
    else .next (setCtx s c { ctx s c with tileWait := none })
  | _ => .fault .noSuchUnit

/-! ## Time (R37..R39) -/

/-- R30: a swath boundary is counted against the reads of empty tiles. -/
def countTileWaits (s : State) : State :=
  { s with ctxs := s.ctxs.map (fun p => match p.2.tileWait with
      | some (t, n) => (p.1, { p.2 with tileWait := some (t, if n < 2 then n + 1 else n) })
      | none => p) }

/-- R39: every governor window restarts. -/
def windowsRestart (s : State) : State := { s with clusters := s.clusters.map (fun p => (p.1, { p.2 with issued := 0 })) }

/-- R467, R477, R478: a pending P-state, or P3 after a thermal trip, takes effect on a device in a P-state. -/
def pstateBoundary (s : State) : State :=
  s.devices.foldl (fun s p =>
    let v := device s p.1
    if (v.pending = none ∧ v.trip = false) ∨ 4 ≤ powerState s p.1 then s
    else
      setPst p.1 (if v.trip then 3 else v.pending.getD 0) (setDevice s p.1 { v with pending := none, trip := false })) s

/-- R37, R205: SWATH_BOUNDARY. -/
def execSwathBoundary (s : State) : Out :=
  let s := { s with
    swath := s.swath + 1
    clusters := s.clusters.map (fun p => (p.1, { p.2 with issued := 0, fai := [] }))
    threads := s.threads.map (fun p =>
      if p.2.st = .running then (p.1, { p.2 with credit := 16384 * p.2.share, spent := 0 }) else (p.1, { p.2 with spent := 0 })) }
  let s := countTileWaits (iqSwath s)
  .next (pstateBoundary (((s.intake.map (fun p => p.1 / 1024)).eraseDups).foldl (fun s d => lookAll d s) s))

/-- R39: GOVERNOR_WINDOW. (DEDUCED: log entry 56.) -/
def execGovernorWindow (s : State) : Out := .next (windowsRestart s)

/-! ## Translation (R271..R277) -/

/-- R271: a leaf enters a TLB of a capacity; the model drops the oldest entry of a full one. (DEDUCED: log entry 42.) -/
def tlbFill (cap : Nat) (e : TlbEntry) (l : List TlbEntry) : List TlbEntry :=
  (e :: l.filter (fun f => !(f.asid == e.asid && f.va == e.va))).take cap

/-- R272: a walk for an address fills both TLBs of a core with the leaf it finds. -/
def fillWalk (cn : Nat) (asid : BitVec 16) (va : Nat) (s : State) : State :=
  match (if va < 2 ^ 57 then walk s (dieOfCore cn) asid va else none) with
  | none => s
  | some (p, _, _) =>
    let e : TlbEntry := ⟨asid, va - va % pageBytes p, p⟩
    let ck := clusterOfCore cn
    let s := setCore s cn { core s cn with tlb := tlbFill 512 e (core s cn).tlb }
    setCluster s ck { cluster s ck with tlb := tlbFill 8192 e (cluster s ck).tlb }

/-- R272: PAGE_WALK: the leaves of addresses that miss fill both TLBs of a core. -/
def execPageWalk (cn asid : Nat) (vas : List Nat) (s : State) : Out :=
  if !isDie (dieOfCore cn) then .fault .noSuchUnit
  else .next (vas.foldl (fun s va => fillWalk cn (BitVec.ofNat 16 asid) va s) s)

/-- R272, R337: the fills of a miss: of the TLBs, or of the LLC with a copy of a line, which its home serves in its turn. (DESIGN
CHOICE: log entry 60.) -/
def missFill (m : Miss) (s : State) : State :=
  let t := { s with misses := s.misses.erase m }
  match m with
  | .walk cn asid va => fillWalk cn asid va t
  | .line die line => if (dirEntry s line).req.isSome then s else shareLine die line t

/-- R276: COW_COPY: the copy that a write waits for, once no other copy of the page is in progress; with an empty pool the write takes
its cause as it is tried again. -/
def execCowCopy (die asid va : Nat) (s : State) : Out :=
  let a := BitVec.ofNat 16 asid
  let s1 := { s with cows := s.cows.filter (· != (die, a, va)) }
  if !isDie die then .fault .noSuchUnit
  else if copyBusy s die a va then .next s
  else .next ((cowPerform die a va s1).getD s1)

/-- R274: the base of a die's translation unit. -/
def tuBase (die : Nat) : Nat := windowBase die + 0x300000

/-- R273, R277: a write of the device of a die, numbered below `n` less one, is on its way, or a vector store has
gathered one that it has not sent: it may have been translated with an entry that has been removed. (DEDUCED: log entry 42.) -/
def writeOnWay (s : State) (die n : Nat) : Bool :=
  s.packets.any (fun p => devOfDie p.die == devOfDie die && !p.performed && decide (p.id + 1 < n))
    || s.threads.any (fun t => devOfDie (dieOfThread t.1) == devOfDie die
      && ((t.2.vq ++ t.2.parked).any (fun e => e.pushes.any (fun q => !q.done))))

/-- R273: a running invalidation of a die ends once the writes that it waits for are performed. -/
def invalidateEnd (die : Nat) (s : State) : State :=
  let n := tabGet 0 s.invWaits die
  if n = 0 ∨ writeOnWay s die n = true then s
  else
    let a := tuBase die + 0x20
    let s := { s with invWaits := tabSet 0 s.invWaits die 0 }
    writeMem (writeMem s a 4 0) (a + 4) 4 (readMem s (a + 4) 4 + 1)

/-- R273, R274: an invalidation: every TLB entry of the device that the command covers is removed. -/
def invalidateNow (die : Nat) (s : State) : State :=
  let c := readMem s (tuBase die + 0x10) 16
  if bitsOf c 63 22 ≠ 0 ∨ bitsOf c 127 121 ≠ 0 then s
  else
    let asid := BitVec.ofNat 16 c
    let n := 4096 * 4 ^ bitsOf c 21 18
    let va := bitsOf c 120 64
    let s := dropTlb (devOfDie die) (fun e =>
      (c.testBit 16 || e.asid == asid) && (c.testBit 17 || tlbOverlaps e.asid (va - va % n) n e)) s
    let s := writeMem s (tuBase die + 0x20) 4 1
    invalidateEnd die { s with invWaits := tabSet 0 s.invWaits die (s.serial + 1) }

/-- R273: INVCMD. -/
def execInvcmd (die : Nat) (s : State) : Out := if isDie die then .next (invalidateNow die s) else .fault .noSuchUnit

/-- R277: the writable leaves of a range, ascending, each once: its leaf, and where it was read. -/
def snapLeaves (s : State) (die : Nat) (asid : BitVec 16) (stop : Nat) : Nat → Nat → List (Word × Nat)
  | 0, _ => []
  | n + 1, va =>
    if stop ≤ va then []
    else match walk s die asid va with
      | none => snapLeaves s die asid stop n (va + 4096)
      | some (p, _, addr) =>
        let next := va - va % pageBytes p + pageBytes p
        if pteWr p then (p, addr) :: snapLeaves s die asid stop n next else snapLeaves s die asid stop n next

/-- R277: the leaves of a snapshot are marked and logged. -/
def snapMark (log : Nat) : Nat → List (Word × Nat) → State → State
  | _, [], s => s
  | i, (p, addr) :: l, s =>
    let new := p ||| 0x100
    snapMark log (i + 1) l (writePlain (writeReplicas p addr new s) (log + 8 * i) 8 new.toNat)

/-- R277: a running snapshot of a die goes on: once no page of its range is being copied, the TLBs let go of the range; once the
writes translated before are performed, the leaves are marked and logged. -/
def snapGo (die : Nat) (s : State) : State :=
  let st := tuBase die + 0x60
  let c := readMem s (tuBase die + 0x40) 32
  let asid := BitVec.ofNat 16 c
  let va := bitsOf c 120 64
  let npg := bitsOf c 159 128
  if (readMem s st 1).testBit 0 = false then s
  else
    let l := snapLeaves s die asid (va + 4096 * npg) npg va
    let n := tabGet 0 s.snapWaits die
    if n = 0 ∧ l.any (fun q => (readMem s (firstReplica q.1 q.2) 8).testBit 11) = true then s
    else
      let s := if n = 0 then { dropTlb (devOfDie die) (tlbOverlaps asid va (4096 * npg)) s with snapWaits := tabSet 0 s.snapWaits die (s.serial + 1) } else s
      if writeOnWay s die (tabGet 0 s.snapWaits die) then s
      else
        let s := snapMark (bitsOf c 255 192) 0 l s
        let e := asidEntryAddr s die asid + 8
        let s := writePlain s e 4 (readMem s e 4 + 1)
        { writeMem (writeMem s st 4 0) (st + 4) 4 l.length with snapWaits := tabSet 0 s.snapWaits die 0 }

/-- R277: a snapshot. -/
def snapNow (die : Nat) (s : State) : State :=
  let c := readMem s (tuBase die + 0x40) 32
  let st := tuBase die + 0x60
  let asid := BitVec.ofNat 16 c
  let va := bitsOf c 120 64
  let npg := bitsOf c 159 128
  let cap := bitsOf c 191 160
  if bitsOf c 63 16 ≠ 0 ∨ bitsOf c 127 121 ≠ 0 ∨ npg = 0 then writeMem s st 1 2
  else
    let l := snapLeaves s die asid (va + 4096 * npg) npg va
    if cap < l.length then writeMem s st 1 2 else snapGo die (writeMem s st 1 1)

/-- R277: SNAPCMD. -/
def execSnapcmd (die : Nat) (s : State) : Out := if isDie die then .next (snapNow die s) else .fault .noSuchUnit

/-! ## Errors (R299..R301, R408) -/

/-- The die that holds a granule of memory. -/
def granuleDie (g : Nat) : Option Nat :=
  match placeOf (64 * g) with
  | .hbm d => if d < 24 then some (dieKey (devOf (64 * g)) d) else none
  | .scratchpad d _ => some (dieKey (devOf (64 * g)) d)
  | .common d => some (dieKey (devOf (64 * g)) d)
  | _ => none

/-- R299: the counter of corrected errors in the memory that holds a granule. -/
def correctedIdx (g : Nat) : Nat :=
  match placeOf (64 * g) with
  | .scratchpad _ _ => 0
  | .common _ => 1
  | _ => 3

/-- R299, R300: SCRUB. A number below 2^46 is a granule of a bank that is read and checked: a poisoned one, or one with a latent
uncorrectable error, which is poisoned now, is logged as latent. `2^46 + g` says that an error in granule `g` was corrected, and
`2^47 + 8 * die + i` that one was in what counter `i` of the die counts. (DESIGN CHOICE: log entry 65.) -/
def execScrub (n : Nat) (s : State) : Out :=
  let g := n % 2 ^ 46
  if n < 2 ^ 47 then
    match granuleDie g with
    | none => .fault .noSuchUnit
    | some d =>
      if 2 ^ 46 ≤ n then .next (rasCount d (correctedIdx g) 0 (64 * g) s)
      else
        let bank := match placeOf (64 * g) with | .hbm _ => false | _ => true
        .next (if bank && poisoned s (64 * g) 64 then
          rasCount d 7 0 (64 * g) (poisonAt { s with latent := s.latent.filter (· != g) } (64 * g)) else s)
  else if isDie ((n - 2 ^ 47) / 8) && decide (n % 8 < 6) then .next (rasCount ((n - 2 ^ 47) / 8) (n % 8) 0 0 s)
  else .fault .noSuchUnit

/-- A word of 64 bits of a register, poisoned. -/
def poisonWord {n : Nat} (w : Nat) (p : PBits n) : PBits n := { p with psn := p.psn ||| BitVec.ofNat n ((2 ^ 64 - 1) * 2 ^ (64 * w)) }

/-- R210: an uncorrectable error strikes a word of a vector register of a slot (`m` below 2^38: the slot, the register, the word) or of
a tile register (from 2^38 on: the core, the register, the word): the word is poisoned, and logged as latent. -/
def registerError (m : Nat) (s : State) : Out :=
  if m < 2 ^ 38 then
    let k := m / 2 ^ 18
    let r := m / 2 ^ 12 % 64
    if isThread k && decide (r < 48) then
      .next (rasCount (dieOfThread k) 7 0 0 (setThr s k { thr s k with vregs := tabSet ⟨0, 0⟩ (thr s k).vregs r (poisonWord (m % 2 ^ 12) (vreg (thr s k) r)) }))
    else .fault .noSuchUnit
  else
    let c := (m - 2 ^ 38) / 2 ^ 14
    if isDie (dieOfCore c) then
      .next (rasCount (dieOfCore c) 7 0 0 (setCore s c { core s c with
        tiles := Vector.ofFn (fun i => if i.val = m / 2 ^ 11 % 8 then poisonWord (m % 2 ^ 11) (core s c).tiles[i] else (core s c).tiles[i]) }))
    else .fault .noSuchUnit

/-- R373: an uncorrectable error strikes a record that the hayrake of a die buffers: the queue in `m / 2^20`, the record's place among
those it has accepted in the rest. -/
def hayError (m : Nat) (s : State) : Out :=
  match iqAt s (m / 2 ^ 20) with
  | none => .fault .noSuchUnit
  | some q =>
    if m % 2 ^ 20 < q.recs.length then
      .next (rasCount (m / 2 ^ 28) 6 0x30 0 (setIqRaw (m / 2 ^ 20) (some { q with recs := q.recs.modify (m % 2 ^ 20) (fun r => { r with psn := true }) }) s))
    else .fault .noSuchUnit

/-- R299: UNCORRECTABLE_ERROR. A number below 2^46 is a granule that is poisoned and counted; a near-memory command that reads it
stops (R462). `2^46 + g` is a latent error in granule `g` of a bank (R300), `2^47 + g` an error with which the next write of
granule `g` by a tile address arrives (R31), `2^48 + m` an error in a register (R210), and `2^49 + m` one in a hayrake's buffer (R373). (DESIGN CHOICE: log entry 65.) -/
def execUncorrectableError (n : Nat) (s : State) : Out :=
  let g := n % 2 ^ 46
  if 2 ^ 49 ≤ n then hayError (n - 2 ^ 49) s
  else if 2 ^ 48 ≤ n then registerError (n - 2 ^ 48) s
  else match granuleDie g with
    | none => .fault .noSuchUnit
    | some d =>
      if n < 2 ^ 46 then .next (rasCount d 6 0x30 (64 * g) (nmError g (poisonAt s (64 * g))))
      else
        let bank := match placeOf (64 * g) with | .hbm _ => false | _ => true
        if bank then .next { s with latent := setInsert (if n < 2 ^ 47 then g else 2 ^ 47 + g) s.latent } else .fault .noSuchUnit

/-- The issuer in whose name a bank is read again: its address space and region. -/
def bankIssuer (b : Bank) : Issuer :=
  { thread := 4095, pc := 0, asid := b.asid, rcb := 0, rid := b.rid, cls := 0, home := Home.init, bind := 0, rdom := 0, agent := 0,
    clock := ⟨0, Vector.replicate 256 0⟩ }

/-- R301, R408: a bank read again from the address it was loaded from; the bank, and whether it is as it was. -/
def reload (c : Nat) (b : Bank) (s : State) : Bank × Bool :=
  match imgCopy (whoF s c (bankIssuer b)) b.addr (b.len / 32) 0 s with
  | .error _ => ({ b with failed := true }, false)
  | .ok img => if signature b.rid b.len img = b.sig then ({ b with data := img }, true) else ({ b with failed := true }, false)

/-- R408: CFG_RECOVERY. -/
def execCfgRecovery (c : Nat) (shadow : Bool) (s : State) : Out :=
  let x := ctx s c
  match (if shadow then x.shadow else x.live) with
  | none => .fault .noSuchUnit
  | some b =>
    let r := reload c b s
    let s := setCtx s c (if shadow then { x with shadow := some r.1 } else { x with live := some r.1 })
    .next (if r.2 then rasCount (dieOfCore c) 8 0 (BitVec.toNat b.addr) s else s)

end Sys2Proof.Machine
end

