-- ==== Sys2Proof/Machine/Fetch.lean ====
section
/-! DEFINITION. Instruction fetch on a sequencer of any kind (R61, R64, R264), and the two steps that a fetch may come to in
place of an instruction. -/

namespace Sys2Proof.Machine

/-- The maker of the fetches of the sequencer in progress. -/
def whoFetch (s : State) : Who := whoBar s

/-- R264: the leaf and physical address of a word that may be fetched, or the cause for which it may not. -/
def fetchAddr (s : State) (w : Who) (pc : Word) : Except (BitVec 8) (Word × Nat) :=
  if 2 ^ 57 ≤ pc.toNat then .error 0x10
  else match leafOf s w.tlbs w.die w.iss.asid pc.toNat with
    | none => .error 0x10
    | some p =>
      if !pteEx p then .error 0x11
      else if pteDev p then .error 0x13
      else match (if pteMc p then none else reach s w.die .c p (physOf p pc.toNat)) with
        | some c => .error c
        | none => if ptePsn p then .error 0x30 else .ok (p, physOf p pc.toNat)

/-- R264: the word that the sequencer in progress fetches at an address. -/
def fetchWord (s : State) (pc : Word) : Res Nat :=
  let w := whoFetch s
  let s0 := s
  let s := noteTried w pc s
  match fetchAddr s0 w pc with
  | .error c => if c = 0x70 ∧ lostRequest s w pc.toNat = true then .lost 0x72 s else .exc c s
  | .ok (p, pa) =>
    if pteMc p then multicastLoad w p pa 4 s else readAt w p pa 4 s

/-- R61: a sequencer of this kind executes the instruction. -/
def mayRun (a : Agent) (i : Instr) : Bool :=
  match encodeFields i with
  | none => false
  | some f =>
    let shared := (decide (1 ≤ f.mj) && decide (f.mj ≤ 0x0D)) || (f.mj == 0x11 && decide (f.fn ≤ 3))
      || (f.mj == 0x13 && f.fn == 1) || f.mj == 0x3E
    match a with
    | .thread _ => true
    | .ctx _ => shared || (decide (0x20 ≤ f.mj) && decide (f.mj ≤ 0x26))
    | .engine _ => shared || (decide (0x28 ≤ f.mj) && decide (f.mj ≤ 0x2A))

/-- R64: ILLEGAL_INSTRUCTION: the word fetched at the present PC raises cause 0x01. -/
def execIllegalInstruction (w : BitVec 32) (s : State) : Out := raise 0x01 (w.setWidth 64) s

/-- R264: INSTRUCTION_FETCH_FAULT: the word at the present PC could not be fetched. -/
def execInstructionFetchFault (cause : BitVec 8) (s : State) : Out := raise cause (pcOf s) s

end Sys2Proof.Machine
end

