-- ==== Sys2Proof/Machine/Manage.lean ====
section
/-! DEFINITION. Management, security, debug and power (R466..R479): power states, boot, attestation, the security states, debug
sessions. -/

namespace Sys2Proof.Machine

/-- A device exists. -/
def isDev (d : Nat) : Bool := decide (d < 256)

/-- R467: the PWR register of a device. -/
def pwrAddr (d : Nat) : Nat := windowBase (d * 32)
/-- R467: the PWR register of a device. -/
def pwr (s : State) (d : Nat) : Nat := readMem s (pwrAddr d) 8
/-- R467: PREF. -/
def setPref (d : Nat) (s : State) : State := writeMem s (pwrAddr d) 8 (setBits (pwr s d) 9 9 1)

/-- Bytes as a little-endian number. -/
def numOfBytes (l : List Byte) : Nat := l.foldr (fun b n => b.toNat + 256 * n) 0

/-- A die of a device. -/
def ofDev (d die : Nat) : Bool := die / 32 == d

/-! ## What a device loses (R477) -/

/-- The bytes, poison and tags of the addresses of a device that `f` names are gone; barrier objects there are gone too. -/
def forget (d : Nat) (f : Place → Bool) (s : State) : State :=
  let g := fun (pa : Nat) => decide (pa / 0x100000000000 = d) && f (placeOf pa)
  { s with
    mem := s.mem.filter (fun c => !g c.1)
    poison := s.poison.filter (fun k => !g (64 * k))
    latent := s.latent.filter (fun k => !g (64 * (k % 2 ^ 47)))
    tags := s.tags.filter (fun t => !g (64 * t.1))
    barriers := s.barriers.filter (fun b => !g b)
    arrivals := s.arrivals.filter (fun b => !g b.1) }

/-- R477: the memories that lose their contents in D2. -/
def sramPlace (p : Place) : Bool :=
  match p with
  | .scratchpad _ _ => true
  | .clusterWindow _ _ => true
  | .common _ => true
  | _ => false

/-- The units of a device as a reset leaves them, with no copy in its LLCs, no queue declared in its common memory, and every
port down. -/
def wipeUnits (d : Nat) (s : State) : State :=
  { s with
    threads := s.threads.filter (fun p => !ofDev d (dieOfThread p.1))
    cores := s.cores.filter (fun p => !ofDev d (dieOfCore p.1))
    clusters := s.clusters.filter (fun p => !ofDev d (p.1 / 16))
    ctxs := s.ctxs.filter (fun p => !ofDev d (dieOfCore p.1))
    engines := s.engines.filter (fun p => !ofDev d (p.1 / 4))
    nms := s.nms.filter (fun p => !ofDev d p.1)
    forkQs := s.forkQs.filter (fun p => !ofDev d p.1)
    iqs := s.iqs.filter (fun p => !ofDev d (p.1 / 256))
    llc := s.llc.filter (fun p => !ofDev d (p.1 / 2 ^ 46))
    dir := (s.dir.filter (fun p => devOf (p.1 * 64) != d)).map (fun p =>
      (p.1, { p.2 with owner := p.2.owner.filter (fun o => !ofDev d o), sharers := p.2.sharers.filter (fun o => !ofDev d o) }))
    cows := s.cows.filter (fun c => !ofDev d c.1)
    misses := s.misses.filter (fun m => match m with
      | .walk c _ _ => !ofDev d (dieOfCore c)
      | .line die _ => !ofDev d die)
    linksDown := (List.range 32).foldl (fun l p => setInsert (d * 32 + p) l) s.linksDown }

/-- R477: every M copy in the LLCs of a device is written back. -/
def writeBackAll (d : Nat) (s : State) : State :=
  (s.llc.filter (fun p => ofDev d (p.1 / 2 ^ 46))).foldl (fun s p => demote (p.1 / 2 ^ 46) (p.1 % 2 ^ 46) s) s

/-! ## Debug sessions (R473..R476) -/

/-- R473: a fresh 32-byte nonce. -/
def newNonce (d : Nat) (s : State) : State :=
  let v := fun (i : Nat) => (Config.freeValue (s.fresh + i)).toNat
  { writeMem s (debugBase d + 0x20) 32 (v 0 + v 1 * 2 ^ 64 + v 2 * 2 ^ 128 + v 3 * 2 ^ 192) with fresh := s.fresh + 4 }

/-- R470, R474: DBG in DBGSTAT and in SECSTAT. -/
def setDbg (d lvl : Nat) (s : State) : State :=
  let s := writeMem s (debugBase d) 1 (setBits (readMem s (debugBase d) 1) 1 0 lvl)
  writeMem s (securityBase d) 1 (setBits (readMem s (securityBase d) 1) 3 2 lvl)

/-- R476: the open session closes. -/
def closeSession (d : Nat) (s : State) : State :=
  if dbgOf s d = 0 then s
  else
    let s := setDbg d 0 s
    let s := setDevice s d { device s d with tokh := 0, rids := [] }
    let s := { s with halts := s.halts.filter (fun u => devOfDie (dieOfRequester u) != d), steps := s.steps.filter (fun u => devOfDie (dieOfRequester u) != d) }
    { s with threads := s.threads.map (fun p => if ofDev d (dieOfThread p.1) then (p.1, { p.2 with halted := false, dbgStep := false }) else p) }

/-- R476: CLOSE. -/
def execClose (d : Nat) (s : State) : Out := if isDev d then .next (closeSession d s) else .fault .noSuchUnit

/-- R475: a write of 1 to PRESENT: TOKEN is read, unless a token is being checked. -/
def presentNow (d : Nat) (s : State) : State :=
  if (device s d).token.isSome then s
  else
    let t := readMem s (debugBase d + 0x40) 160
    let a := debugBase d
    setDevice (writeMem s a 1 (setBits (readMem s a 1) 2 2 1)) d { device s d with token := some (BitVec.ofNat 1280 t) }

/-- R475: PRESENT. -/
def execPresent (d : Nat) (s : State) : Out := if isDev d then .next (presentNow d s) else .fault .noSuchUnit

/-- R472: the keys that a security state admits for a SIGNER: 0 the vendor's, 1 the owner's. -/
def admitted (s : State) (d signer : Nat) : Option (BitVec 256) :=
  if signer = 0 then some Config.vendorKey
  else if signer = 1 ∧ (device s d).sec = 1 then some (device s d).owner
  else none

/-- R472: a signature over `n` bytes verifies under a key that the state admits; in Manufacturing none is needed. -/
def verifies (s : State) (d signer n v : Nat) (sig : BitVec 512) : Bool :=
  (device s d).sec == 2 || (match admitted s d signer with
    | some k => ed25519Verify k n v sig
    | none => false)

/-- R475: the package manager opens a session for a token. -/
def tokenGood (s : State) (d t : Nat) : Bool :=
  bitsOf t 63 11 == 0 && bitsOf t 767 736 == 0 && (bitsOf t 9 8 == 1 || bitsOf t 9 8 == 2)
    && bitsOf t 319 64 == (idpubOf s d).toNat && bitsOf t 575 320 == readMem s (debugBase d + 0x20) 32
    && verifies s d (bitsOf t 10 10) 96 (t % 2 ^ 768) (BitVec.ofNat 512 (bitsOf t 1279 768))

/-- R473: the regions that a token names. -/
def tokenRids (t : Nat) : List (BitVec 20) :=
  ((List.range 8).map (fun i => BitVec.ofNat 20 (bitsOf t (595 + 20 * i) (576 + 20 * i)))).filter (· != 0)

/-- R475: common-memory pages of a device that the tables of an address space map, from a table of a level. -/
def commonPages (s : State) (d : Nat) : Nat → Nat → List (Nat × Nat)
  | 0, tbl => (List.range 512).filterMap (fun i =>
      let p := BitVec.ofNat 64 (readMem s (tbl + 8 * i) 8)
      if pteBit p 0 && pteBit p 1 && !leafMalformed p 0 && devOf (ptePa p) == d && (match placeOf (ptePa p) with | .common _ => true | _ => false)
      then some (ptePa p, pageBytes p) else none)
  | lvl + 1, tbl => (List.range 512).flatMap (fun i =>
      let p := BitVec.ofNat 64 (readMem s (tbl + 8 * i) 8)
      if !pteBit p 0 then []
      else if pteBit p 1 then
        (if !leafMalformed p (lvl + 1) && devOf (ptePa p) == d && (match placeOf (ptePa p) with | .common _ => true | _ => false)
          then [(ptePa p, pageBytes p)] else [])
      else commonPages s d lvl (ptePa p))

/-- Bytes written to zero, with the poison of the granules they hold. -/
def zeroRange (pa n : Nat) (s : State) : State :=
  { s with
    mem := s.mem.filter (fun c => !(decide (pa ≤ c.1) && decide (c.1 < pa + n)))
    poison := s.poison.filter (fun g => !(decide (pa ≤ 64 * g) && decide (64 * (g + 1) ≤ pa + n)))
    latent := s.latent.filter (fun g => !(decide (pa ≤ 64 * (g % 2 ^ 47)) && decide (64 * (g % 2 ^ 47 + 1) ≤ pa + n)))
    tags := s.tags.filter (fun t => !(decide (pa / 64 ≤ t.1) && decide (t.1 ≤ (pa + n - 1) / 64))) }

/-- R475: a slot of a region that the token does not name is suspended and saved, its save area zeroed, and its start record
completes with STATUS 2. -/
def clearSlot (k : Nat) (s : State) : State :=
  let t := thr s k
  let dev := devOfDie (dieOfThread k)
  let pa := bitsOf (bindRead s k) 115 64
  let n := saveSize s k
  let s := stopForks k t.bind s
  let c := coreOfThread k
  let s := if (ctx s c).ending then endProgram c (faLoading c none s) else s
  let s := if attached s k then faRelease c s else s
  let s := iqFreeHolder k t.bind s
  let s := if savePlace pa && savePlace (pa + n - 1) then writeMem (zeroRange pa n s) pa n 0 else s
  let s := setDom (setThr (dropRequests k s) k Thread.init) t.rdom { dom s t.rdom with bound := tabErase t.agent.toNat (dom s t.rdom).bound }
  match intakeAt s dev t.entry with
  | none => s
  | some v => complete dev t.entry 2 v.cause s

/-- R475: what a halt session clears as it opens: the slots of regions it does not name, the scratchpads of their clusters, and of every such
region that has had threads bound here its common-memory pages and its save areas. (DEDUCED: log entry 33.) -/
def clearUnnamed (d : Nat) (rids : List (BitVec 20)) (s : State) : State :=
  let ks := s.threads.filter (fun p => ofDev d (dieOfThread p.1) && p.2.st != .free && !rids.contains p.2.rid)
  let cls := (ks.map (fun p => p.1 / 8)).eraseDups
  let spaces := ks.map (fun p => (dieOfThread p.1, p.2.asid))
    ++ (s.spaces.filter (fun p => ofDev d p.1 && !rids.contains p.2.2)).map (fun p => (p.1, p.2.1))
  let pages := spaces.eraseDups.flatMap (fun a =>
    match asidRoot s a.1 a.2 with
    | some root => (commonPages s d 4 root).eraseDups
    | none => [])
  let areas := s.saves.filter (fun p => devOf p.1 == d && !rids.contains p.2.2)
  let s := ks.foldl (fun s p => clearSlot p.1 s) s
  let s := cls.foldl (fun s c => zeroRange (scratchBase c) 0x400000 s) s
  let s := areas.foldl (fun s p => writeMem (zeroRange p.1 p.2.1 s) p.1 p.2.1 0) s
  pages.foldl (fun s p => zeroRange p.1 p.2 s) s

/-- R475: DEBUG_TOKEN_CHECK: the check of the presented token ends. -/
def execDebugTokenCheck (d : Nat) (s : State) : Out :=
  match (device s d).token with
  | none => .fault .noSuchUnit
  | some tok =>
    let t := tok.toNat
    let a := debugBase d
    let s1 := setDevice (writeMem s a 1 (setBits (readMem s a 1) 2 2 0)) d { device s d with token := none }
    let s1 := newNonce d s1
    if tokenGood s d t then
      let rids := tokenRids t
      let s1 := setDbg d (bitsOf t 9 8) (setDevice s1 d { device s1 d with tokh := sha512 160 t, rids := rids })
      .next (if bitsOf t 9 8 = 2 ∧ (device s d).sec ≠ 2 then clearUnnamed d rids s1 else s1)
    else .next (writeMem s1 (a + 4) 4 (min (readMem s1 (a + 4) 4 + 1) 0xFFFFFFFF))

/-! ### Halt (R473)

A unit is named by its number: the thread of slot `k` by `k`, the context of core `c` by `2 ^ 21 + c`, a copy engine `n` by `2 ^ 22 + n` and the
near-memory engine of a die by `2 ^ 25 + die`. -/

/-- The region that an item of a context's queue works for. -/
def itemRid : FaItem → BitVec 20
  | .cmd c => c.iss.rid
  | .start p => p.iss.rid

/-- R473, R475: the region that a unit works for, if it works for one. -/
def unitRid (s : State) (u : Nat) : Option (BitVec 20) :=
  if u < 2 ^ 21 then (if (thr s u).st = .free then none else some (thr s u).rid)
  else if u < 2 ^ 22 then
    let x := ctx s (u - 2 ^ 21)
    match x.prog, x.queue, x.holder with
    | some p, _, _ => some p.iss.rid
    | none, i :: _, _ => some (itemRid i)
    | none, [], some k => some (thr s k).rid
    | none, [], none => none
  else if u < 2 ^ 23 then
    let g := engine s (u - 2 ^ 22)
    match g.prog, g.colls, g.queue with
    | some p, _, _ => some p.iss.rid
    | none, l :: _, _ => some l.cmd.iss.rid
    | none, [], c :: _ => some c.iss.rid
    | none, [], [] => none
  else
    let g := nm s (u - 2 ^ 25)
    (g.active.toList ++ g.queue ++ g.gates).head?.map (fun c => c.iss.rid)

/-- R473, R472, R479: a halt session reaches a unit; in Manufacturing no token is needed, and in D2 nothing is reached. -/
def haltReaches (s : State) (u : Nat) : Bool :=
  let d := devOfDie (dieOfRequester u)
  powerState s d != 6
    && ((device s d).sec == 2 || (dbgOf s d == 2 && (unitRid s u).any (fun r => (device s d).rids.contains r)))

/-- A field of a loop level: 0 START, 1 the end, 2 COUNT, 3 INDEX. -/
def levelGet (l : Level) (i : Nat) : Word :=
  match i with
  | 0 => l.start
  | 1 => l.stop
  | 2 => l.count.setWidth 64
  | _ => l.index.setWidth 64

/-- Write a field of a loop level. -/
def levelPut (l : Level) (i : Nat) (v : Word) : Level :=
  match i with
  | 0 => { l with start := v &&& ~~~3 }
  | 1 => { l with stop := v &&& ~~~3 }
  | 2 => { l with count := v.setWidth 32 }
  | _ => { l with index := v.setWidth 32 }

/-- R473: a field of a sequencer: 0..31 its scalar registers, 32 its PC, `64 + 4 l + i` field `i` of its loop level `l`. -/
def seqGet (q : Seq) (f : Nat) : Word :=
  if h : f < 32 then q.regs[f]
  else if f = 32 then q.pc
  else match q.loops[(f - 64) / 4]? with
    | some l => levelGet l (f % 4)
    | none => 0

/-- R473: write a field of a sequencer; s0 stays zero, and a level that is not active is not written. -/
def seqPut (q : Seq) (f : Nat) (v : Word) : Seq :=
  if h : f < 32 then (if f = 0 then q else { q with regs := q.regs.set f v })
  else if f = 32 then { q with pc := v &&& ~~~3 }
  else { q with loops := q.loops.mapIdx (fun l e => if 64 + 4 * l ≤ f ∧ f < 68 + 4 * l then levelPut e (f % 4) v else e) }

/-- R473: a field of a thread: its sequencer's, 33 `tvec`, 34 `tepc`, 35 `tcause`, 36 `tval`, 37 `aflags`, 38 `vtype`, 39 `vl`, 40 HM,
`2 ^ 16 + 512 m + i` word `i` of mask register `m`, `2 ^ 20 + 4096 v + i` word `i` of vector register `v`. -/
def threadGet (t : Thread) (f : Nat) : Word :=
  if f ≤ 32 ∨ (64 ≤ f ∧ f < 88) then seqGet t.seq f
  else if 2 ^ 20 ≤ f then BitVec.ofNat 64 (elemBits (vreg t ((f - 2 ^ 20) / 4096)) 64 (f % 4096))
  else if h : 2 ^ 16 ≤ f ∧ f < 2 ^ 16 + 4096 then (t.mregs[(f - 2 ^ 16) / 512]'(by omega)).extractLsb' (64 * (f % 512)) 64
  else match f with
    | 33 => t.tvec
    | 34 => t.tepc
    | 35 => t.tcause
    | 36 => t.tval
    | 37 => t.aflags.setWidth 64
    | 38 => t.vtype
    | 39 => BitVec.ofNat 64 t.vl
    | 40 => BitVec.ofNat 64 t.hm.toNat
    | _ => 0

/-- R473: write a field of a thread. -/
def threadPut (t : Thread) (f : Nat) (v : Word) : Thread :=
  if f ≤ 32 ∨ (64 ≤ f ∧ f < 88) then { t with seq := seqPut t.seq f v }
  else if 2 ^ 20 ≤ f then (if (f - 2 ^ 20) / 4096 < 48 then setElem ((f - 2 ^ 20) / 4096) 64 (f % 4096) v.toNat false t else t)
  else if h : 2 ^ 16 ≤ f ∧ f < 2 ^ 16 + 4096 then
    { t with mregs := t.mregs.set ((f - 2 ^ 16) / 512) (patchBits 32768 64 (f % 512) (t.mregs[(f - 2 ^ 16) / 512]'(by omega)) v.toNat) (by omega) }
  else match f with
    | 33 => { t with tvec := v &&& handlerMask }
    | 34 => { t with tepc := v &&& handlerMask }
    | 35 => { t with tcause := v }
    | 36 => { t with tval := v }
    | 37 => { t with aflags := v.setWidth 7 }
    | 38 => if vtLegal v then { t with vtype := v } else t
    | 39 => { t with vl := min v.toNat 32768 }
    | 40 => { t with hm := v.getLsbD 0 }
    | _ => t

/-- R473: an access of a halt session to the state of a unit. A context's fields are its program's, and from `2 ^ 20` on the cells of its accumulator
tiles, `2 ^ 14 k + 128 i + j` for cell `j` of row `i` of tile `k`; an engine's are its program's. -/
def debugGet (s : State) (u f : Nat) : Word :=
  if u < 2 ^ 21 then threadGet (thr s u) f
  else if u < 2 ^ 22 then
    let x := ctx s (u - 2 ^ 21)
    if h : 2 ^ 20 ≤ f ∧ f < 2 ^ 20 + 2 ^ 17 then
      BitVec.ofNat 64 ((accCells (x.acc[(f - 2 ^ 20) / 2 ^ 14]'(by omega)) (f / 128 % 128)).getD (f % 128) 0)
    else (x.prog.map (fun p => seqGet p.seq f)).getD 0
  else if u < 2 ^ 23 then ((engine s (u - 2 ^ 22)).prog.map (fun p => seqGet p.seq f)).getD 0
  else 0

/-- R473: a write of a halt session to the state of a unit. -/
def debugPut (u f : Nat) (v : Word) (s : State) : State :=
  if u < 2 ^ 21 then setThr s u (threadPut (thr s u) f v)
  else if u < 2 ^ 22 then
    let c := u - 2 ^ 21
    let x := ctx s c
    if h : 2 ^ 20 ≤ f ∧ f < 2 ^ 20 + 2 ^ 17 then
      let k : Fin 8 := ⟨(f - 2 ^ 20) / 2 ^ 14, by omega⟩
      setAcc c k (setAccRow (f / 128 % 128) ((accCells x.acc[k] (f / 128 % 128)).set (f % 128) v.toNat) x.acc[k]) s
    else setCtx s c { x with prog := x.prog.map (fun p => { p with seq := seqPut p.seq f v }) }
  else if u < 2 ^ 23 then
    let n := u - 2 ^ 22
    setEngine s n { engine s n with prog := (engine s n).prog.map (fun p => { p with seq := seqPut p.seq f v }) }
  else s

/-- R473: the accesses of a halt session to the state of a unit, in order: a read gives the session a field, a write replaces one. -/
def debugAccess (u : Nat) (l : List (Nat × Option Word)) (s : State) : State :=
  l.foldl (fun s p => match p.2 with
    | none => { s with debugOut := s.debugOut ++ [debugGet s u p.1] }
    | some v => debugPut u p.1 v s) s

/-- R473: DEBUG_HALT: a running or waiting thread of a named region becomes suspended, and an engine that works for one stops; the state of a unit that
stands still is read and written. `session` is the unit and the accesses to its state. (DEDUCED: log entry 34.) -/
def execDebugHalt (session : Nat × List (Nat × Option (BitVec 64))) (s : State) : Out :=
  let (u, access) := session
  if haltReaches s u = false then .fault .noSuchUnit
  else if u < 2 ^ 21 then
    let t := thr s u
    if t.st = .running ∨ t.st = .waiting then
      .next (debugAccess u access (setThr s u { t with st := .suspended, halted := true, dbgStep := false, snap := none, yieldWait := [] }))
    else if t.st = .suspended then .next (debugAccess u access s)
    else .fault .noSuchUnit
  else .next (debugAccess u access { s with halts := setInsert u s.halts })

/-- R473: DEBUG_STEP: a halted thread has the next turn, for one instruction; a halted engine goes on by one step. -/
def execDebugStep (u : Nat) (s : State) : Out :=
  if haltReaches s u = false then .fault .noSuchUnit
  else if u < 2 ^ 21 then
    let t := thr s u
    if t.st = .suspended ∧ t.halted = true then
      .next { setThr s u { t with dbgStep := true } with turns := .thread u :: s.turns }
    else .fault .noSuchUnit
  else if s.halts.contains u then .next { s with steps := setInsert u s.steps }
  else .fault .noSuchUnit

/-! ## Boot (R468) -/

/-- R468, R472: the boot ROM accepts an image, given its header and body. -/
def imageGood (s : State) (d h body : Nat) : Bool :=
  let n := bitsOf h 127 64
  bitsOf h 31 0 == 0x57464853 && decide (bitsOf h 135 128 < 2) && bitsOf h 511 136 == 0
    && n % 64 == 0 && decide (64 ≤ n) && decide (n ≤ 0x7FFFF40)
    && verifies s d (bitsOf h 135 128) 128 (h % 2 ^ 1024) (BitVec.ofNat 512 (bitsOf h 1535 1024))
    && BitVec.ofNat 512 (bitsOf h 1023 512) == sha512 n body && decide ((device s d).minver.toNat ≤ bitsOf h 63 32)

/-- R470: the read-only registers of the security block that fuses give. -/
def fuseRegisters (d : Nat) (s : State) : State :=
  let v := device s d
  let b := securityBase d
  let s := writeMem s b 1 (setBits (readMem s b 1) 1 0 v.sec.val)
  let s := writeMem s (b + 0x20) 32 (idpubOf s d).toNat
  let s := writeMem s (b + 0x1000) 4 v.minver.toNat
  writeMem s (b + 0x1040) 64 (if v.sec = 1 then v.ownh.toNat else 0)

/-- R358: the message of an MSI-X vector that is pending and not masked leaves for the host, and the vector is pending no more.
(PRESUMED: log entry 28.) -/
def msixSend (d i : Nat) (s : State) : State :=
  let e := readMem s (windowBase (d * 32) + 0x700000 + 16 * i) 16
  let a := windowBase (d * 32) + 0x700400 + i / 8
  let p := readMem s a 1
  if p.testBit (i % 8) = true ∧ e.testBit 96 = false then
    { writeMem s a 1 (setBits p (i % 8) (i % 8) 0) with hostOut := s.hostOut ++ [(bitsOf e 63 2 * 4, bytesOfNat 4 (bitsOf e 95 64))] }
  else s

/-- R358: a vector is raised. -/
def raiseVector (d i : Nat) (s : State) : State :=
  let a := windowBase (d * 32) + 0x700400 + i / 8
  msixSend d i (writeMem s a 1 (setBits (readMem s a 1) (i % 8) (i % 8) 1))

/-- R358, R468: MSI-X vector 0 is raised. -/
def raiseVector0 (d : Nat) (s : State) : State := raiseVector d 0 s

/-- R468, R478: the address of the copy of the firmware image in HBM: the spec leaves its place open, outside the boot window. (DESIGN CHOICE: log
entry 31.) -/
def firmwareBase (d : Nat) : Nat :=
  let v := (Config.firmwareHome d).toNat
  d * 0x100000000000 + v % 24 * 0x1000000000 + 0x8000000 * (1 + v / 24 % 475)

/-- R468: the vendor's signature over a header verifies. -/
def vendorSigned (h : Nat) : Bool := ed25519Verify Config.vendorKey 128 (h % 2 ^ 1024) (BitVec.ofNat 512 (bitsOf h 1535 1024))

/-- R468: a cold boot: an accepted image is copied to HBM and started, and its hash is kept. (DESIGN CHOICE: log entry 31.) -/
def coldBoot (d : Nat) (s : State) : State :=
  let s := setPst d 0 (setDevice s d { device s d with boots := (device s d).boots + 1, d2x := 0 })
  let base := d * 0x100000000000
  let h := readMem s base 192
  let n := bitsOf h 127 64
  let body := readMem s (base + 192) (if n ≤ 0x7FFFF40 then n else 0)
  if imageGood s d h body then
    let img := readMem s base (192 + n)
    let s := writeMem (zeroRange (firmwareBase d) (192 + n) s) (firmwareBase d) (192 + n) img
    setDevice s d { device s d with
      running := some (BitVec.ofNat 512 (bitsOf h 1023 512))
      imageLen := 192 + n
      signed := (device s d).sec != 2 || vendorSigned h
      awake := sha512 (192 + n) img }
  else raiseVector0 d (setDevice s d { device s d with running := none, imageLen := 0, signed := false })

/-- R468: POWER_ON: a device without running firmware boots. -/
def execPowerOn (d : Nat) (s : State) : Out :=
  if !isDev d || (device s d).running.isSome then .fault .noSuchUnit
  else .next (coldBoot d (newNonce d (fuseRegisters d (closeSession d (setDevice s d { device s d with off := false })))))

/-- R477: POWER_LOSS: every state except fuses is lost. -/
def execPowerLoss (d : Nat) (s : State) : Out :=
  if !isDev d then .fault .noSuchUnit
  else
    let v := device s d
    let s := forget d (fun _ => true) (wipeUnits d s)
    let s := setDevice s d { Device.init with
      boots := v.boots, idseed := v.idseed, ownh := v.ownh, owner := v.owner, minver := v.minver, sec := v.sec, off := true }
    .next { s with
      retries := s.retries.filter (fun p => p.1 / 32 != d)
      replaying := s.replaying.filter (fun p => p / 32 != d)
      invWaits := s.invWaits.filter (fun p => !ofDev d p.1)
      snapWaits := s.snapWaits.filter (fun p => !ofDev d p.1)
      lossLog := s.lossLog.filter (fun p => !ofDev d p.1)
      lossCount := s.lossCount.filter (fun p => !ofDev d p.1)
      hayStalls := s.hayStalls.filter (fun p => !ofDev d p.1)
      hostReqs := s.hostReqs.filter (fun p => !ofDev d (dieOfRequester p.1))
      intake := s.intake.filter (fun p => p.1 / 1024 != d)
      hqNext := s.hqNext.filter (fun p => p.1 != d)
      maps := s.maps.filter (fun p => devOf p.1 != d)
      spaces := s.spaces.filter (fun p => !ofDev d p.1)
      saves := s.saves.filter (fun p => devOf p.1 != d)
      aborts := s.aborts.filter (fun p => p.1 != d)
      checked := s.checked.filter (fun p => !ofDev d p.1)
      pairs := s.pairs.filter (fun p => !ofDev d (p.1 / 256))
      packets := s.packets.filter (fun p => !ofDev d p.die)
      iqPackets := s.iqPackets.filter (fun p => !ofDev d p.die)
      savedVq := s.savedVq.filter (fun p => devOf p.1 != d) }

/-! ## Attestation and the security states (R468..R471) -/

/-- R469: ATTESTATION_REQUEST. -/
def execAttestationRequest (d : Nat) (s : State) : Out := if isDev d then .next (attRequest d s) else .fault .noSuchUnit

/-- R469: ATTESTATION_REPORT: the package manager writes the report, clears REQ and consumes the nonce. -/
def execAttestationReport (d : Nat) (s : State) : Out :=
  match (device s d).report with
  | none => .fault .noSuchUnit
  | some r =>
    let b := securityBase d
    let s := setDevice s d { device s d with report := none }
    let s := writeMem (writeMem s (b + 0x80) 344 r.toNat) (b + 0x40) 32 0
    .next (writeMem s b 1 (setBits (readMem s b 1) 5 4 0))

/-- R471: OWNER_TRANSITION: Locked becomes Owner, once: the firmware is given an owner-key record, the key with the vendor's signature over it, and
fuses the hash of the key. A record that the vendor has not signed changes nothing. (DEDUCED: log entry 32.) -/
def execOwnerTransition (d : Nat) (record : BitVec 256 × BitVec 512) (s : State) : Out :=
  let (key, sig) := record
  let v := device s d
  if isDev d = true ∧ v.sec = 0 ∧ v.running.isSome = true then
    .next (if ed25519Verify Config.vendorKey 32 key.toNat sig then
      fuseRegisters d (setDevice s d { v with sec := 1, owner := key, ownh := sha512 32 key.toNat }) else s)
  else .fault .noSuchUnit

/-- R469, R471: MANUFACTURING_EXIT: SEC 2 is fused to 0, and the device makes its identity key pair, `key` being the private one. -/
def execManufacturingExit (d : Nat) (key : BitVec 256) (s : State) : Out :=
  let v := device s d
  if isDev d = true ∧ v.sec = 2 then .next (fuseRegisters d (setDevice s d { v with sec := 0, idseed := some key })) else .fault .noSuchUnit

/-- R468: FUSED_MINIMUM_VERSION_RAISE: signed firmware writes the fused minimum version, which never falls. -/
def execFusedMinimumVersionRaise (d : Nat) (version : BitVec 32) (s : State) : Out :=
  let v := device s d
  if isDev d = true ∧ v.running.isSome = true ∧ v.signed = true then
    .next (if v.minver.toNat < version.toNat then fuseRegisters d (setDevice s d { v with minver := version }) else s)
  else .fault .noSuchUnit

/-! ## Power states (R477, R478) -/

/-- R477: a device may enter D1 or D2. -/
def powerIdle (s : State) (d : Nat) : Bool :=
  s.threads.all (fun p => !ofDev d (dieOfThread p.1) || p.2.st == .free || p.2.st == .suspended)
    && s.ctxs.all (fun p => !ofDev d (dieOfCore p.1) || (p.2.queue.isEmpty && p.2.prog.isNone && p.2.busy.isNone))
    && s.engines.all (fun p => !ofDev d (p.1 / 4) || (p.2.queue.isEmpty && p.2.armed.isEmpty && p.2.colls.isEmpty && p.2.prog.isNone))
    && s.forkQs.all (fun p => !ofDev d p.1 || p.2.isEmpty)
    && s.nms.all (fun p => !ofDev d p.1 || (p.2.queue.isEmpty && p.2.gates.isEmpty && p.2.active.isNone))
    && s.packets.all (fun p => !ofDev d p.die)

/-- R477: entry to D2. -/
def enterD2 (d : Nat) (s : State) : State :=
  let s := newNonce d (closeSession d (writeBackAll d s))
  let s := forget d sramPlace (wipeUnits d s)
  setPst d 6 (setDevice s d { device s d with pending := none, trip := false })

/-- R467, R477: a request of a state: a P-state waits for the next swath boundary, D1 and D2 are granted or refused now. -/
def powerRequest (d n : Nat) (s : State) : State :=
  if n = 5 ∨ 7 ≤ n then s
  else
    let now := powerState s d
    let s := writeMem s (pwrAddr d) 8 (setBits (pwr s d) 6 4 n)
    if n < 4 then setDevice s d { device s d with pending := some n }
    else if powerIdle s d = false ∨ now = 6 then setPref d s
    else if n = 4 then
      (if now = 4 then s else setPst d 4 (setDevice s d { device s d with prior := now, pending := none }))
    else enterD2 d s

/-- R477: POWER_REQUEST_P. -/
def execPowerRequestP (d n : Nat) (s : State) : Out :=
  if isDev d && decide (n < 4) then .next (powerRequest d n s) else .fault .noSuchUnit

/-- R477: POWER_REQUEST_D1. -/
def execPowerRequestD1 (d : Nat) (s : State) : Out := if isDev d then .next (powerRequest d 4 s) else .fault .noSuchUnit

/-- R477: POWER_REQUEST_D2. (DEDUCED: log entry 32.) -/
def execPowerRequestD2 (d : Nat) (s : State) : Out := if isDev d then .next (powerRequest d 6 s) else .fault .noSuchUnit

/-- R477: D1_EXIT: the device returns to the P-state it held before D1. -/
def execD1Exit (d : Nat) (s : State) : Out :=
  if isDev d = true ∧ powerState s d = 4 then .next (setPst d (device s d).prior s) else .fault .noSuchUnit

/-- R478: the firmware image held in HBM is as it was when it was started. -/
def firmwareHolds (s : State) (d : Nat) : Bool :=
  let n := (device s d).imageLen
  !poisoned s (firmwareBase d) n && sha512 n (readMem s (firmwareBase d) n) == (device s d).awake

/-- R478: D2_EXIT: the firmware is checked and restarted, or the device boots cold. -/
def execD2Exit (d : Nat) (s : State) : Out :=
  if isDev d = true ∧ powerState s d = 6 then
    let v := device s d
    if v.running.isSome = true ∧ firmwareHolds s d = true then
      .next (setPst d 0 (setDevice s d { v with d2x := v.d2x + 1 }))
    else .next (coldBoot d s)
  else .fault .noSuchUnit

/-- R478: THERMAL_TRIP: TRIP is set, and the device enters P3 at the next swath boundary. -/
def execThermalTrip (die : Nat) (s : State) : Out :=
  if !isDie die then .fault .noSuchUnit
  else
    let a := windowBase die + 1
    let s := writeMem s a 1 (setBits (readMem s a 1) 0 0 1)
    .next (setDevice s (devOfDie die) { device s (devOfDie die) with trip := true, pending := none })

end Sys2Proof.Machine
end

