-- ==== Sys2Proof/Machine/HostPath.lean ====
section
/-! DEFINITION. The host (R355..R357), the registers of the die control window (R8, R466), and writes by the management core. -/

namespace Sys2Proof.Machine

/-! ## The registers of the die control window (R466) -/

/-- R466: the bits of the 8-byte word at offset `o` of a die's control window that a write sets, and those that a written 1
clears; none for an offset that is not listed. (DEDUCED: log entry 25.) -/
def windowBits (dk o : Nat) : Option (BitVec 64 × BitVec 64) :=
  let d0 := dk % 32 == 0
  let rw := fun (m : BitVec 64) => some (m, 0#64)
  let sub := o % 0x100000
  if o < 0x10000 then
    if o = 0 then some (0, 0x300)
    else if o = 8 then rw 0xFFFFFFFF
    else if o < 0x90 then rw 0x1FF
    else if o = 0x90 then rw 0
    else none
  else if o < 0x10100 then (if o % 16 = 0 then rw (-1) else rw 0x1FFFFFFFFF)
  else if o < 0x100000 then none
  else if o < 0x200000 then
    if !d0 || decide (0x400 ≤ sub) then none
    else if o % 32 = 0 then rw 0xFFFFFFFFFC0
    else if o % 32 = 8 then some (0xFFFFFFFF0000001F, 0x20)
    else rw 0
  else if o < 0x300000 then
    if 0x2000 ≤ sub then none else if o % 64 = 32 then rw 0xFFFFFFFFFFFFFFF0 else rw (-1)
  else if o < 0x400000 then
    if sub = 0 then rw 0xFFFFFFFFFF000
    else if sub = 8 ∨ sub = 0x20 ∨ sub = 0x60 then rw 0
    else if sub = 0x10 ∨ sub = 0x18 ∨ (0x40 ≤ sub ∧ sub < 0x60) then rw (-1)
    else if 0x80 ≤ sub ∧ sub < 0xD0 then (if sub % 16 = 0 then rw 0xFFFFFFFFFFF000 else rw 0xFFFFFFFF00000000)
    else none
  else if o < 0x500000 then (if d0 && decide (sub < 640) then rw (-1) else none)
  else if o < 0x600000 then
    if sub < 0x80 then rw 0x1F
    else if sub = 0x80 then rw 0xFFFFFFFF
    else if sub = 0x88 then rw 0x3F
    else if sub = 0x90 then (if d0 && dk / 32 % 16 == 0 then rw (-1) else none)
    else if sub = 0x98 then rw 0
    else if sub = 0xA0 then rw 0xFFFFFFFF
    else none
  else if o < 0x700000 then (if d0 && decide (sub < 0x4000) then rw (-1) else none)
  else if o < 0x800000 then
    if !d0 then none else if sub < 0x400 then rw (-1) else if sub = 0x400 then rw 0 else none
  else if o < 0x900000 then
    if sub = 0 then rw 0xFFFFFFFFFF000 else if sub = 8 then rw 0xFFFFFF else if sub = 0x10 then rw 0 else none
  else if o < 0xA00000 then (if sub < 0x58 ∨ sub = 0xF8 ∨ (0x100 ≤ sub ∧ sub < 0x900) then rw 0 else none)
  else if o < 0xB00000 then
    if sub = 0 ∨ (0x20 ≤ sub ∧ sub < 0x60) ∨ (0x80 ≤ sub ∧ sub < 0x1D8) ∨ sub = 0x1000 ∨ (0x1040 ≤ sub ∧ sub < 0x1080) then rw 0 else none
  else if o < 0xC00000 then
    if 0x40 ≤ sub ∧ sub < 0xE0 then (if d0 then rw (-1) else rw 0)
    else if sub = 0 ∨ (0x20 ≤ sub ∧ sub < 0x40) ∨ sub = 0x100 ∨ sub = 0x108 then rw 0
    else if sub = 0x200 then (if d0 then rw 0xFFFFFFFFFF000 else rw 0)
    else if sub = 0x208 then (if d0 then rw 0x1F else rw 0)
    else none
  else if 0x8000000 ≤ o ∧ dk % 32 = 0 then rw (-1)
  else none

/-- R468: the address behind the boot window of a device. -/
def bootAddr (dk o : Nat) : Nat := dk / 32 * 0x100000000000 + (o - 0x8000000)

/-- R8: a word with `n` bytes from byte `b` written through the bits that a write sets and those that a written 1 clears. -/
def maskedWord (old : BitVec 64) (rw w1c : BitVec 64) (b n v : Nat) : BitVec 64 :=
  let lane := BitVec.ofNat 64 ((256 ^ n - 1) * 256 ^ b)
  let w := BitVec.ofNat 64 (v % 256 ^ n * 256 ^ b)
  ((old &&& ~~~(rw &&& lane)) ||| (w &&& rw)) &&& ~~~(w &&& w1c)

/-- Bytes stored at the home of an address by an agent of the unchecked paths (R126): memory, and the tags of the lines. -/
def storePlain (pa n v : Nat) (s : State) : State := clearTags (storeHome pa n v (settleWrites pa n s)) pa n

/-- R8, R466: a write of `n` bytes inside the 8-byte word at offset `o - o % 8` of a die's control window, with what it starts. (DEDUCED: log entry 29.) -/
def windowStore (dk o n v : Nat) (s : State) : State :=
  let dev := dk / 32
  let w := o - o % 8
  let sub := o % 0x100000
  let base := windowBase dk
  match windowBits dk w with
  | none => s
  | some (rw, w1c) =>
    if 0x8000000 ≤ o then storePlain (bootAddr dk o) n v s
    else if 0xA00000 ≤ o ∧ o < 0xA01000 then (if dk % 32 = 0 then attStore dev (o - 0xA00000) n v s else s)
    else
      let s := writeMem s (base + w) 8 (maskedWord (BitVec.ofNat 64 (readMem s (base + w) 8)) rw w1c (o % 8) n v).toNat
      if o = 0 then (if dk % 32 = 0 then powerRequest dev (bitsOf v 6 4) s else s)
      else if 0x200000 ≤ o ∧ o < 0x202000 ∧ o % 64 = 56 ∧ n = 8 then bindNow (dk * 128 + sub / 64) s
      else if o = 0x300018 then invalidateNow dk s
      else if o = 0x300058 then snapNow dk s
      else if o = 0x500098 then resetLoss dk (v % 256) s
      else if o = 0xB00100 then (if dk % 32 = 0 ∧ v.testBit 0 = true then presentNow dev s else s)
      else if 0x700000 ≤ o ∧ o < 0x700400 then msixSend dev (o % 0x400 / 16) s
      else if o = 0xB00108 then (if dk % 32 = 0 ∧ v.testBit 0 = true then closeSession dev s else s)
      else s

/-- R8, R202, R467: the 8-byte word of a die's control window as a read returns it: write-only fields read zero, STATE follows the
slot, and SENSE reads what its sensors measure, which is open. (DESIGN CHOICE: log entry 8.) -/
def windowWord (s : State) (dk w : Nat) : Nat :=
  let v := readMem s (windowBase dk + w) 8
  if 0x8000000 ≤ w then readMem s (bootAddr dk w) 8
  else if w = 0x90 then
    let v := (Config.sense dk s.swath).toNat
    v % 2 ^ 16 + (if dk % 32 = 0 then bitsOf v 63 32 * 2 ^ 32 else 0)
  else if 0x200000 ≤ w ∧ w < 0x202000 then
    let k := dk * 128 + w % 0x100000 / 64
    if w % 64 = 56 then 0
    else if w % 64 = 32 then setBits v 2 0 (match (thr s k).st with
      | .free => 0
      | .bound => 1
      | .running => 2
      | .waiting => 3
      | .retiring => 4
      | .suspended => 5)
    else v
  else if w = 0x300010 ∨ w = 0x300018 ∨ (0x300040 ≤ w ∧ w < 0x300060) ∨ (0xB00040 ≤ w ∧ w < 0xB000E0) then 0
  else v

/-! ## Requests (R119, R357) -/

/-- `n` bytes from an address cut at the multiples of a unit: addresses, lengths and little-endian numbers. -/
def cutAt (unit : Nat) : Nat → Nat → Nat → Nat → List (Nat × Nat × Nat)
  | 0, _, _, _ => []
  | f + 1, pa, n, v =>
    let m := min n (unit - pa % unit)
    if n = 0 then [] else (pa, m, v % 256 ^ m) :: cutAt unit f (pa + m) (n - m) (v / 256 ^ m)

/-- R107, R357, R466, R477: a request reaches an address: a host's (`mgmt` false), or one of the management cores. (DESIGN CHOICE: log entry 27.) -/
def pathReaches (s : State) (mgmt : Bool) (pa : Nat) : Bool :=
  let d := devOf pa
  let awake := powerState s d != 6
  decide (pa < 2 ^ 52) && inDomain s d d && !(device s d).off && (match placeOf pa with
    | .hbm k => decide (k < 24) && awake
    | .scratchpad _ _ => awake
    | .common _ => awake
    | .clusterWindow _ _ => !mgmt && awake
    | .dieWindow k => (mgmt || k == 0) && (awake || k == 0)
        && (windowBits (dieKey d k) (localOf pa % 0x10000000 - localOf pa % 8)).isSome
    | .hostAperture => false
    | .hole => false)

/-- R480, R119: an entry of the error log that no counter counts. The spec gives its counter index no value. (DESIGN CHOICE: log entry 8.) -/
def logOnly (dk : Nat) (cause : BitVec 8) (pa : Nat) (s : State) : State :=
  let b := windowBase dk + 0x900000
  let w := readMem s (b + 0xF8) 1 % 64
  let s := writeMem s (b + 0x100 + 32 * w) 32
    ((Config.freeValue s.fresh).toNat % 256 + cause.toNat * 2 ^ 8 + pa % 2 ^ 64 * 2 ^ 64 + s.swath.toNat * 2 ^ 128)
  { writeMem s (b + 0xF8) 1 ((w + 1) % 64) with fresh := s.fresh + 1 }

/-- R119: bytes written to a bank: a barrier object that they cover in part keeps its bytes, and the request is logged. -/
def bankStore (dk pa n v : Nat) (s : State) : State :=
  let part := s.barriers.filter (fun b => decide (pa < b + 16) && decide (b < pa + n) && !(decide (pa ≤ b) && decide (b + 16 ≤ pa + n)))
  let olds := part.map (fun b => (b, barRead s b))
  olds.foldl (fun s o => logOnly dk 0x43 o.1 (writeMem s o.1 16 o.2)) (storePlain pa n v s)

/-- R119, R274: the registers that one store must cover whole: their first offset and length. -/
def commandRegs : List (Nat × Nat) := [(0x300010, 16), (0x300040, 32)]

/-- R119: bytes written to a die's control window, word by word; a command register covered in part is not written, and logged. -/
def windowRequest (dk o n v : Nat) (s : State) : State :=
  let part := commandRegs.filter (fun r => decide (o < r.1 + r.2) && decide (r.1 < o + n) && !(decide (o ≤ r.1) && decide (r.1 + r.2 ≤ o + n)))
  let ps := (cutAt 8 520 o n v).filter (fun p => !part.any (fun r => decide (r.1 ≤ p.1) && decide (p.1 < r.1 + r.2)))
  part.foldl (fun s r => logOnly dk 0x13 (windowBase dk + r.1) s) (ps.foldl (fun s p => windowStore dk p.1 p.2.1 p.2.2 s) s)

/-- R357: the writes of a request within one kind of memory. -/
def writeRequest (pa n v : Nat) (s : State) : State :=
  let d := devOf pa
  match placeOf pa with
  | .hbm _ => (cutAt 64 520 pa n v).foldl (fun s p => storePlain p.1 p.2.1 p.2.2 s) s
  | .scratchpad k _ => bankStore (dieKey d k) pa n v s
  | .common k => bankStore (dieKey d k) pa n v s
  | .clusterWindow k c =>
    (cutAt 8 520 pa n v).foldl (fun s p => clusterWindowStore (dieKey d k * 16 + c) (localOf p.1 % 0x800000 - 0x400000) p.2.1 p.2.2 s) s
  | .dieWindow k => windowRequest (dieKey d k) (localOf pa % 0x10000000) n v s
  | _ => s

/-- R357: the physical address that a host request names: from 2^52 on, BAR0 of the bridge device of a row, which maps die 0's
control window there; below, BAR2. (DESIGN CHOICE: log entry 27.) -/
def hostTarget (pa : Nat) : Nat :=
  if pa < 2 ^ 52 then pa else windowBase (dieKey ((pa - 2 ^ 52) / 2 ^ 28 * 16) 0) + pa % 2 ^ 28

/-- R274: the request stores to INVCMD or SNAPCMD of a die while that command is busy. -/
def commandBusy (s : State) (pa n : Nat) : Bool :=
  match placeOf pa with
  | .dieWindow k =>
    let o := localOf pa % 0x10000000
    let b := tuBase (dieKey (devOf pa) k)
    (decide (o < 0x300060) && decide (0x300040 < o + n) && (readMem s (b + 0x60) 1).testBit 0)
      || (decide (o < 0x300020) && decide (0x300010 < o + n) && (readMem s (b + 0x20) 1).testBit 0)
  | _ => false

/-- The path and the device of a request: a management core's path or the host's. -/
def requestTo : Request → Bool × Nat
  | .write m pa _ => (m, devOf pa)
  | .read pa _ => (false, devOf pa)
  | .atomic _ _ pa _ _ => (false, devOf pa)

/-- The bytes of a request: their address and their number. -/
def requestBytes : Request → Nat × Nat
  | .write _ pa bytes => (pa, bytes.length)
  | .read pa n => (pa, n)
  | .atomic _ wide pa _ _ => (pa, if wide then 8 else 4)

/-- R274, R337, R357: a request waits: it stores to a busy command register, the home of a line serves another request for it, or a request of
the same path to the same device waits in `l`. -/
def requestHeld (s : State) (l : List Request) (r : Request) : Bool :=
  (match r with
    | .write _ pa bytes => commandBusy s pa bytes.length
    | _ => false)
    || (linesOf (requestBytes r).1 (requestBytes r).2).any (fun line => lineBusy s (64 * line))
    || l.any (fun q => requestTo q == requestTo r)

/-- R358: the firmware raises the vectors whose pending bits it writes. -/
def raiseWritten (pa : Nat) (bytes : List Byte) (s : State) : State :=
  let o := localOf pa % 0x10000000
  if placeOf pa ≠ .dieWindow 0 then s
  else (List.range 64).foldl (fun s i =>
    let j := 0x700400 + i / 8
    if o ≤ j ∧ (bytes[j - o]?.getD 0).getLsbD (i % 8) = true then raiseVector (devOf pa) i s else s) s

/-- R357, R8: a write request: performed whole, or not at all where some of its bytes are not reached. -/
def requestWrite (mgmt : Bool) (pa : Nat) (bytes : List Byte) (s : State) : State :=
  let n := bytes.length
  if (List.range n).all (fun i => pathReaches s mgmt (pa + i)) then
    let s := ((cutAt 0x400000 520 pa n (numOfBytes bytes))).foldl (fun s p => writeRequest p.1 p.2.1 p.2.2 s) s
    if mgmt then raiseWritten pa bytes s else s
  else s

/-- A completion to the host for a request of its own: its status (0 data, 1 unsupported request, 2 poisoned data) and data. -/
def reply (status : Nat) (bytes : List Byte) (s : State) : State := { s with hostReplies := s.hostReplies ++ [(status, bytes)] }

/-- One byte as a request reads it. -/
def pathByte (s : State) (pa : Nat) : Byte :=
  match placeOf pa with
  | .dieWindow k => byteOf (windowWord s (dieKey (devOf pa) k) (localOf pa % 0x10000000 - localOf pa % 8)) (pa % 8) &&& readable pa
  | _ => readByte s pa &&& readable pa

/-- R355, R357: a read of the host. H reads of HBM are uncached reads. (PRESUMED: log entry 28.) -/
def hostReadNow (pa n : Nat) (s : State) : State :=
  if (List.range n).all (fun i => pathReaches s false (pa + i)) then
    let s := (linesOf pa n).foldl (fun s l => if isHbmLine l then fetchOwner l s else s) s
    reply (if poisoned s pa n then 2 else 0) ((List.range n).map (fun i => pathByte s (pa + i))) s
  else reply 1 [] s

/-- R355: the AtomicOps of the host: 1 FetchAdd, 2 Swap, 3 CAS. -/
def hostAmo (op : Nat) : Option AmoOp :=
  match op with
  | 1 => some .add
  | 2 => some .swap
  | 3 => some .cas
  | _ => none

/-- R355: an AtomicOp of the host. -/
def hostAtomicNow (op : Nat) (wide : Bool) (pa : Nat) (operand compare : BitVec 64) (s : State) : State :=
  let n := if wide then 8 else 4
  match hostAmo op with
  | none => s
  | some a =>
    let ok := match placeOf pa with
      | .hbm _ => true
      | .scratchpad _ _ => true
      | .common _ => true
      | _ => false
    if !ok || pa % n != 0 || !pathReaches s false pa || partOfBarrier s pa n pa (pa + n) then reply 1 [] s
    else if poisoned s pa n then reply 2 [] s
    else
      let s := settleWrites pa n (if isHbmLine (pa / 64) then recallLine (pa / 64) s else s)
      let old := readMem s pa n
      let s := match amoNew a n old (operand.toNat % 256 ^ n) (compare.toNat % 256 ^ n) with
        | some v => clearTags (storeHome pa n v s) pa n
        | none => s
      reply 0 (bytesOfNat n old) s

/-- What a request of the host or of a management core does when nothing keeps it waiting. -/
def requestNow (r : Request) (s : State) : State :=
  match r with
  | .write m pa bytes => requestWrite m pa bytes s
  | .read pa n => hostReadNow pa n s
  | .atomic op wide pa operand compare => hostAtomicNow op wide pa operand compare s

/-- R274, R357: a request is performed, or waits behind what keeps it. -/
def request (r : Request) (s : State) : Out :=
  .next (if requestHeld s s.waiting r then { s with waiting := s.waiting ++ [r] } else requestNow r s)

/-- R274: the requests that nothing keeps waiting any more are performed, in the order they came. -/
def waitingNow (s : State) : State :=
  s.waiting.foldl (fun s r =>
    if requestHeld s s.waiting r then { s with waiting := s.waiting ++ [r] } else requestNow r s) { s with waiting := [] }

/-- R355, R357: HOST_WRITE: a posted write of at most 512 bytes. -/
def execHostWrite (pa : Nat) (bytes : List (BitVec 8)) (s : State) : Out :=
  if bytes.isEmpty || decide (512 < bytes.length) || decide (2 ^ 52 + 2 ^ 32 ≤ pa) then .fault .noSuchUnit else request (.write false (hostTarget pa) bytes) s

/-- R357: HOST_FORWARD: the device named by the address performs a forwarded write. -/
def execHostForward (pa : Nat) (bytes : List (BitVec 8)) (s : State) : Out :=
  if bytes.isEmpty || decide (512 < bytes.length) then .fault .noSuchUnit else request (.write false pa bytes) s

/-- R8, R358: REGISTER_WRITE: a write by the management core to a register or a control field; written pending bits of MSI-X raise
their vectors. -/
def execRegisterWrite (pa : Nat) (bytes : List (BitVec 8)) (s : State) : Out :=
  if bytes.isEmpty || decide (512 < bytes.length) then .fault .noSuchUnit else request (.write true pa bytes) s

/-- R355, R357: HOST_READ: a read of at most 4096 bytes, after the host's earlier writes to the device. -/
def execHostRead (pa n : Nat) (s : State) : Out :=
  if n = 0 ∨ 4096 < n ∨ 2 ^ 52 + 2 ^ 32 ≤ pa then .fault .noSuchUnit else request (.read (hostTarget pa) n) s

/-- R355: HOST_ATOMIC: an AtomicOp of the host: 1 FetchAdd, 2 Swap, 3 CAS. -/
def execHostAtomic (op : Nat) (wide : Bool) (pa : Nat) (operand compare : BitVec 64) (s : State) : Out :=
  if (hostAmo op).isNone ∨ 2 ^ 52 + 2 ^ 32 ≤ pa then .fault .noSuchUnit else request (.atomic op wide (hostTarget pa) operand compare) s

/-! ## Completions of the device's own requests (R356) -/

/-- The first request of a list that has no answer, answered. -/
def answerFirst (st v : Nat) : List HostWait → List HostWait
  | [] => []
  | h :: l => if h.answer.isNone then { h with answer := some (st, v) } :: l else h :: answerFirst st v l

/-- R356: the oldest unanswered request of a requester is answered. -/
def answerHost (r st v : Nat) (s : State) : Out :=
  let l := tabGet [] s.hostReqs r
  if l.any (fun h => h.answer.isNone) then .next { s with hostReqs := tabSet [] s.hostReqs r (answerFirst st v l) }
  else .fault .noSuchUnit

/-- R356: HOST_COMPLETION: status 0 data, 1 unsupported request or 3 completer abort, 2 poisoned data. -/
def execHostCompletion (thread status : Nat) (bytes : List (BitVec 8)) (s : State) : Out :=
  if 3 < status then .fault .noSuchUnit else answerHost thread status (numOfBytes bytes) s

/-- R356: HOST_COMPLETION_TIMEOUT. -/
def execHostCompletionTimeout (thread : Nat) (s : State) : Out := answerHost thread 4 0 s

end Sys2Proof.Machine
end

