-- ==== Sys2Proof/Machine/Vector.lean ====
section
/-! DEFINITION. The vector unit's instructions (majors 0x14..0x1F) and the common-memory bank operations (majors 0x2C, 0x2D) as
the scalar side dispatches them (R135, R214), and those that synchronise the two sides (R136, R215..R218). -/

namespace Sys2Proof.Machine

/-- R136: an instruction that synchronises the two sides waits until the vector queue is empty. -/
def vSync (i : Instr) (f : Nat → State → Out) (s : State) : Out :=
  match s.cur with
  | .thread k => if (thr s k).vq.isEmpty then f k s else stall s
  | _ => raise 0x01 (tvalWord i) s

/-- R215: the length that `vsetl` sets for a request. -/
def vsetlLength (t : Thread) (cur : Fin 4) (a b : Word) : Nat :=
  let cap := min (vlmax cur t.share (vtBits b)) (2 ^ t.vlceil)
  let n := min a.toNat cap
  if blkLen (vtBlk b) = 0 then n else n - n % blkLen (vtBlk b)

/-- R144, R215: a load into a queue is discarded, with the entry that it has not filled. (DEDUCED: log entry 19.) -/
def discardEntry (t : Thread) (e : VEntry) : Thread :=
  match loadQueue e.instr with
  | none => t
  | some q => mapQueue q (fun l => l.filter (fun x => x.ready || some x.id != e.target)) t

/-- R215: the thread after `vsetl`. -/
def vsetlThread (t : Thread) (a b : Word) : Thread :=
  let cur := if t.pv then t.pend else t.cur
  { t.parked.foldl discardEntry t with
    vregs := if t.pv then [] else t.vregs
    cur := cur
    pv := false
    vtype := b
    vl := vsetlLength t cur a b
    bvalid := BitVec.allOnes 32768
    spec := false
    parked := [] }

/-- R215: `vsetl`. -/
def execVsetl (d a b : Fin 32) (s : State) : Out :=
  if vtLegal (x s b) then
    vSync (.vsetl d a b) (fun k s =>
      let t := vsetlThread (thr s k) (x s a) (x s b)
      writeOn d (BitVec.ofNat 64 t.vl) (setThr s k t)) s
  else raise 0x01 (tvalWord (.vsetl d a b)) s

/-- R216: `vcfg`. -/
def execVcfg (n : Fin 4) (s : State) : Out :=
  match s.cur with
  | .thread k => .next (finish (setThr s k { thr s k with pend := n, pv := true }))
  | _ => raise 0x01 (tvalWord (.vcfg n)) s

/-- R217: an element as `vtos` extends it; an element code of an S-class format is zero-extended, also where the format is an iN one. (DESIGN CHOICE:
log entry 54.) -/
def vtosValue (vt : Word) (v : Nat) : Word :=
  let bits := vtBits vt
  let signed := (vtClass vt == .i && fmtSigned (vtFmt vt)) || vtFmt vt == 9
  if signed = true ∧ v.testBit (bits - 1) = true then BitVec.ofInt 64 ((v : Int) - 2 ^ bits) else BitVec.ofNat 64 v

/-- R217: `vtos`. An element of an invalid block is the code that the register holds, and faults when it is poisoned. (DESIGN CHOICE: log entry
54.) -/
def execVtos (d : Fin 32) (a : Fin 56) (b : Fin 32) (s : State) : Out :=
  vSync (.vtos d a b) (fun k s =>
    let t := thr s k
    let e := (x s b).toNat
    let refused := vCheck (.vtos d a b) k s
    let claims := newClaims t [a.val]
    let pop := popClaims claims t
    if refused.isSome then raise (refused.getD 0) (tvalWord (.vtos d a b)) s
    else if !claimsReady t claims then stall s
    else if t.vl ≤ e then writeOn d 0 (setThr s k pop)
    else
      let v := srcElem (claimFirst claims t) a (vtBits t.vtype) e
      if v.2 then
        let i := issuerNow s k t.seq.pc
        .next (writeRecord .vectorTrap i (mkRecord 2 0 0x30 i 0 (dieOfThread k) (vecCursor e 1 0)) [noAddress] s)
      else writeOn d (vtosValue t.vtype v.1) (setThr s k pop)) s

/-- R218: the result of `mtos` for the bits of a mask register below a length. -/
def mtosValue (m : BitVec 32768) (vl : Nat) : Word :=
  let es := (List.range vl).filter (fun e => m.getLsbD e)
  let first := match es with | e :: _ => e | [] => 0xFFFFFFFF
  BitVec.ofNat 64 (es.length + first * 2 ^ 32)

/-- R218: `mtos`. -/
def execMtos (d : Fin 32) (k : Fin 8) (s : State) : Out :=
  vSync (.mtos d k) (fun n s => writeOn d (mtosValue (thr s n).mregs[k] (thr s n).vl) s) s

/-- R219: `vbcast`. -/
def execVbcast (d : Fin 48) (a : Fin 32) (s : State) : Out := vIssue (.vbcast d a) (x s a) 0 0 s
/-- R219: `vindex`. -/
def execVindex (d : Fin 48) (s : State) : Out := vIssue (.vindex d) 0 0 0 s
/-- R223: `vadd`. -/
def execVaddFloat (d : Fin 48) (a : Fin 56) (b : Fin 56) (m : Fin 8) (s : State) : Out := vIssue (.vaddFloat d a b m) 0 0 0 s
/-- R223: `vsub`. -/
def execVsubFloat (d : Fin 48) (a : Fin 56) (b : Fin 56) (m : Fin 8) (s : State) : Out := vIssue (.vsubFloat d a b m) 0 0 0 s
/-- R223: `vmul`. -/
def execVmulFloat (d : Fin 48) (a : Fin 56) (b : Fin 56) (m : Fin 8) (s : State) : Out := vIssue (.vmulFloat d a b m) 0 0 0 s
/-- R223: `vdiv`. -/
def execVdiv (d : Fin 48) (a : Fin 56) (b : Fin 56) (m : Fin 8) (s : State) : Out := vIssue (.vdiv d a b m) 0 0 0 s
/-- R223: `vfma`. -/
def execVfma (d : Fin 48) (a : Fin 56) (b : Fin 56) (m : Fin 8) (s : State) : Out := vIssue (.vfma d a b m) 0 0 0 s
/-- R223: `vfms`. -/
def execVfms (d : Fin 48) (a : Fin 56) (b : Fin 56) (m : Fin 8) (s : State) : Out := vIssue (.vfms d a b m) 0 0 0 s
/-- R223: `vfnma`. -/
def execVfnma (d : Fin 48) (a : Fin 56) (b : Fin 56) (m : Fin 8) (s : State) : Out := vIssue (.vfnma d a b m) 0 0 0 s
/-- R224: `vmin`. -/
def execVminFloat (d : Fin 48) (a : Fin 56) (b : Fin 56) (m : Fin 8) (s : State) : Out := vIssue (.vminFloat d a b m) 0 0 0 s
/-- R224: `vmax`. -/
def execVmaxFloat (d : Fin 48) (a : Fin 56) (b : Fin 56) (m : Fin 8) (s : State) : Out := vIssue (.vmaxFloat d a b m) 0 0 0 s
/-- R224: `vabs`. -/
def execVabsFloat (d : Fin 48) (a : Fin 56) (m : Fin 8) (s : State) : Out := vIssue (.vabsFloat d a m) 0 0 0 s
/-- R224: `vneg`. -/
def execVnegFloat (d : Fin 48) (a : Fin 56) (m : Fin 8) (s : State) : Out := vIssue (.vnegFloat d a m) 0 0 0 s
/-- R223: `vsqrt`. -/
def execVsqrt (d : Fin 48) (a : Fin 56) (m : Fin 8) (s : State) : Out := vIssue (.vsqrt d a m) 0 0 0 s
/-- R225: `vexp2`. -/
def execVexp2 (d : Fin 48) (a : Fin 56) (m : Fin 8) (s : State) : Out := vIssue (.vexp2 d a m) 0 0 0 s
/-- R228: `vadd`. -/
def execVaddInt (d : Fin 48) (a : Fin 56) (b : Fin 56) (m : Fin 8) (s : State) : Out := vIssue (.vaddInt d a b m) 0 0 0 s
/-- R228: `vsub`. -/
def execVsubInt (d : Fin 48) (a : Fin 56) (b : Fin 56) (m : Fin 8) (s : State) : Out := vIssue (.vsubInt d a b m) 0 0 0 s
/-- R228: `vmul`. -/
def execVmulInt (d : Fin 48) (a : Fin 56) (b : Fin 56) (m : Fin 8) (s : State) : Out := vIssue (.vmulInt d a b m) 0 0 0 s
/-- R228: `vmulhi`. -/
def execVmulhi (d : Fin 48) (a : Fin 56) (b : Fin 56) (m : Fin 8) (s : State) : Out := vIssue (.vmulhi d a b m) 0 0 0 s
/-- R228: `vmin`. -/
def execVminInt (d : Fin 48) (a : Fin 56) (b : Fin 56) (m : Fin 8) (s : State) : Out := vIssue (.vminInt d a b m) 0 0 0 s
/-- R228: `vmax`. -/
def execVmaxInt (d : Fin 48) (a : Fin 56) (b : Fin 56) (m : Fin 8) (s : State) : Out := vIssue (.vmaxInt d a b m) 0 0 0 s
/-- R228: `vaddsat`. -/
def execVaddsat (d : Fin 48) (a : Fin 56) (b : Fin 56) (m : Fin 8) (s : State) : Out := vIssue (.vaddsat d a b m) 0 0 0 s
/-- R228: `vsubsat`. -/
def execVsubsat (d : Fin 48) (a : Fin 56) (b : Fin 56) (m : Fin 8) (s : State) : Out := vIssue (.vsubsat d a b m) 0 0 0 s
/-- R228: `vabs`. -/
def execVabsInt (d : Fin 48) (a : Fin 56) (m : Fin 8) (s : State) : Out := vIssue (.vabsInt d a m) 0 0 0 s
/-- R228: `vneg`. -/
def execVnegInt (d : Fin 48) (a : Fin 56) (m : Fin 8) (s : State) : Out := vIssue (.vnegInt d a m) 0 0 0 s
/-- R228: `vmad`. -/
def execVmad (d : Fin 48) (a : Fin 56) (b : Fin 56) (m : Fin 8) (s : State) : Out := vIssue (.vmad d a b m) 0 0 0 s
/-- R229: `vand`. -/
def execVand (d : Fin 48) (a : Fin 56) (b : Fin 56) (m : Fin 8) (s : State) : Out := vIssue (.vand d a b m) 0 0 0 s
/-- R229: `vor`. -/
def execVor (d : Fin 48) (a : Fin 56) (b : Fin 56) (m : Fin 8) (s : State) : Out := vIssue (.vor d a b m) 0 0 0 s
/-- R229: `vxor`. -/
def execVxor (d : Fin 48) (a : Fin 56) (b : Fin 56) (m : Fin 8) (s : State) : Out := vIssue (.vxor d a b m) 0 0 0 s
/-- R229: `vandn`. -/
def execVandn (d : Fin 48) (a : Fin 56) (b : Fin 56) (m : Fin 8) (s : State) : Out := vIssue (.vandn d a b m) 0 0 0 s
/-- R229: `vnot`. -/
def execVnot (d : Fin 48) (a : Fin 56) (m : Fin 8) (s : State) : Out := vIssue (.vnot d a m) 0 0 0 s
/-- R229: `vsll`. -/
def execVsll (d : Fin 48) (a : Fin 56) (b : Fin 56) (m : Fin 8) (s : State) : Out := vIssue (.vsll d a b m) 0 0 0 s
/-- R229: `vsrl`. -/
def execVsrl (d : Fin 48) (a : Fin 56) (b : Fin 56) (m : Fin 8) (s : State) : Out := vIssue (.vsrl d a b m) 0 0 0 s
/-- R229: `vsra`. -/
def execVsra (d : Fin 48) (a : Fin 56) (b : Fin 56) (m : Fin 8) (s : State) : Out := vIssue (.vsra d a b m) 0 0 0 s
/-- R230: `vcmp.eq`. -/
def execVcmpEq (k : Fin 8) (a : Fin 56) (b : Fin 56) (m : Fin 8) (s : State) : Out := vIssue (.vcmpEq k a b m) 0 0 0 s
/-- R230: `vcmp.ne`. -/
def execVcmpNe (k : Fin 8) (a : Fin 56) (b : Fin 56) (m : Fin 8) (s : State) : Out := vIssue (.vcmpNe k a b m) 0 0 0 s
/-- R230: `vcmp.lt`. -/
def execVcmpLt (k : Fin 8) (a : Fin 56) (b : Fin 56) (m : Fin 8) (s : State) : Out := vIssue (.vcmpLt k a b m) 0 0 0 s
/-- R230: `vcmp.le`. -/
def execVcmpLe (k : Fin 8) (a : Fin 56) (b : Fin 56) (m : Fin 8) (s : State) : Out := vIssue (.vcmpLe k a b m) 0 0 0 s
/-- R232: `vsel`. -/
def execVsel (d : Fin 48) (a : Fin 56) (b : Fin 56) (k : Fin 8) (s : State) : Out := vIssue (.vsel d a b k) 0 0 0 s
/-- R233: `mand`. -/
def execMand (d : Fin 8) (a : Fin 8) (b : Fin 8) (s : State) : Out := vIssue (.mand d a b) 0 0 0 s
/-- R233: `mor`. -/
def execMor (d : Fin 8) (a : Fin 8) (b : Fin 8) (s : State) : Out := vIssue (.mor d a b) 0 0 0 s
/-- R233: `mxor`. -/
def execMxor (d : Fin 8) (a : Fin 8) (b : Fin 8) (s : State) : Out := vIssue (.mxor d a b) 0 0 0 s
/-- R233: `mandn`. -/
def execMandn (d : Fin 8) (a : Fin 8) (b : Fin 8) (s : State) : Out := vIssue (.mandn d a b) 0 0 0 s
/-- R233: `mnot`. -/
def execMnot (d : Fin 8) (a : Fin 8) (s : State) : Out := vIssue (.mnot d a) 0 0 0 s
/-- R234: `vcvt`. -/
def execVcvt (d : Fin 48) (a : Fin 56) (m : Fin 8) (target : Fin 19) (s : State) : Out := vIssue (.vcvt d a m target) 0 0 0 s
/-- R236: `vlift`. -/
def execVlift (d : Fin 48) (a : Fin 56) (b : Fin 32) (m : Fin 8) (s : State) : Out := vIssue (.vlift d a b m) (x s b) 0 0 s
/-- R236: `vsink`. -/
def execVsink (d : Fin 48) (a : Fin 56) (b : Fin 32) (m : Fin 8) (s : State) : Out := vIssue (.vsink d a b m) (x s b) 0 0 s
/-- R237: `vpick`. -/
def execVpick (d : Fin 48) (a : Fin 56) (b : Fin 56) (m : Fin 8) (s : State) : Out := vIssue (.vpick d a b m) 0 0 0 s
/-- R238: `vpack`. -/
def execVpack (d : Fin 48) (a : Fin 56) (k : Fin 8) (s : State) : Out := vIssue (.vpack d a k) 0 0 0 s
/-- R240: `vprune`. -/
def execVprune (d : Fin 48) (a : Fin 56) (b : Fin 48) (s : State) : Out := vIssue (.vprune d a b) 0 0 0 s
/-- R239: `vzip`. -/
def execVzip (d : Fin 48) (a : Fin 56) (b : Fin 56) (m : Fin 8) (s : State) : Out := vIssue (.vzip d a b m) 0 0 0 s
/-- R239: `vunzip`. -/
def execVunzip (d : Fin 48) (a : Fin 56) (b : Fin 56) (m : Fin 8) (s : State) : Out := vIssue (.vunzip d a b m) 0 0 0 s
/-- R236: `vlift.z`. -/
def execVliftZ (d : Fin 48) (a : Fin 56) (b : Fin 32) (m : Fin 8) (s : State) : Out := vIssue (.vliftZ d a b m) (x s b) 0 0 s
/-- R236: `vsink.z`. -/
def execVsinkZ (d : Fin 48) (a : Fin 56) (b : Fin 32) (m : Fin 8) (s : State) : Out := vIssue (.vsinkZ d a b m) (x s b) 0 0 s
/-- R238: `vpack.k`. -/
def execVpackK (d : Fin 48) (a : Fin 56) (k : Fin 8) (s : State) : Out := vIssue (.vpackK d a k) 0 0 0 s
/-- R241: `vfold.add`. -/
def execVfoldAdd (d : Fin 48) (a : Fin 56) (m : Fin 8) (s : State) : Out := vIssue (.vfoldAdd d a m) 0 0 0 s
/-- R241: `vfold.max`. -/
def execVfoldMax (d : Fin 48) (a : Fin 56) (m : Fin 8) (s : State) : Out := vIssue (.vfoldMax d a m) 0 0 0 s
/-- R241: `vfold.min`. -/
def execVfoldMin (d : Fin 48) (a : Fin 56) (m : Fin 8) (s : State) : Out := vIssue (.vfoldMin d a m) 0 0 0 s
/-- R241: `vfold.and`. -/
def execVfoldAnd (d : Fin 48) (a : Fin 56) (m : Fin 8) (s : State) : Out := vIssue (.vfoldAnd d a m) 0 0 0 s
/-- R241: `vfold.or`. -/
def execVfoldOr (d : Fin 48) (a : Fin 56) (m : Fin 8) (s : State) : Out := vIssue (.vfoldOr d a m) 0 0 0 s
/-- R241: `vfold.xor`. -/
def execVfoldXor (d : Fin 48) (a : Fin 56) (m : Fin 8) (s : State) : Out := vIssue (.vfoldXor d a m) 0 0 0 s
/-- R241: `vfold.amax`. -/
def execVfoldAmax (d : Fin 48) (a : Fin 56) (m : Fin 8) (s : State) : Out := vIssue (.vfoldAmax d a m) 0 0 0 s
/-- R252: `vld`. -/
def execVld (d : Fin 56) (sb : Fin 32) (disp : Fin 64) (m : Fin 8) (ord : Bool) (ovt : Bool) (s : State) : Out := vIssue (.vld d sb disp m ord ovt) (x s sb) 0 0 s
/-- R252: `vlds`. -/
def execVlds (d : Fin 56) (sb : Fin 32) (ss : Fin 32) (m : Fin 8) (ord : Bool) (ovt : Bool) (s : State) : Out := vIssue (.vlds d sb ss m ord ovt) (x s sb) (x s ss) 0 s
/-- R252: `vldx`. -/
def execVldx (d : Fin 56) (sb : Fin 32) (vi : Fin 56) (m : Fin 8) (ord : Bool) (ovt : Bool) (s : State) : Out := vIssue (.vldx d sb vi m ord ovt) (x s sb) 0 0 s
/-- R254: `vldb`. -/
def execVldb (d : Fin 24) (sb : Fin 16) (disp : Fin 64) (m : Fin 8) (ord : Bool) (ovt : Bool) (s : State) : Out := vIssue (.vldb d sb disp m ord ovt) (x s (pairLo sb)) (x s (pairHi sb)) 0 s
/-- R262: `vld_spec`. -/
def execVldSpec (d : Fin 56) (sb : Fin 32) (disp : Fin 64) (m : Fin 8) (ord : Bool) (ovt : Bool) (s : State) : Out := vIssue (.vldSpec d sb disp m ord ovt) (x s sb) 0 0 s
/-- R262: `vlds_spec`. -/
def execVldsSpec (d : Fin 56) (sb : Fin 32) (ss : Fin 32) (m : Fin 8) (ord : Bool) (ovt : Bool) (s : State) : Out := vIssue (.vldsSpec d sb ss m ord ovt) (x s sb) (x s ss) 0 s
/-- R262: `vldx_spec`. -/
def execVldxSpec (d : Fin 56) (sb : Fin 32) (vi : Fin 56) (m : Fin 8) (ord : Bool) (ovt : Bool) (s : State) : Out := vIssue (.vldxSpec d sb vi m ord ovt) (x s sb) 0 0 s
/-- R252: `vst`. -/
def execVst (vs : Fin 56) (sb : Fin 32) (disp : Fin 64) (m : Fin 8) (ord : Bool) (ovt : Bool) (s : State) : Out := vIssue (.vst vs sb disp m ord ovt) (x s sb) 0 0 s
/-- R252: `vsts`. -/
def execVsts (vs : Fin 56) (sb : Fin 32) (ss : Fin 32) (m : Fin 8) (ord : Bool) (ovt : Bool) (s : State) : Out := vIssue (.vsts vs sb ss m ord ovt) (x s sb) (x s ss) 0 s
/-- R252: `vstx`. -/
def execVstx (vs : Fin 56) (sb : Fin 32) (vi : Fin 56) (m : Fin 8) (ord : Bool) (ovt : Bool) (s : State) : Out := vIssue (.vstx vs sb vi m ord ovt) (x s sb) 0 0 s
/-- R254: `vstb`. -/
def execVstb (vs : Fin 24) (sb : Fin 16) (disp : Fin 64) (m : Fin 8) (ord : Bool) (ovt : Bool) (s : State) : Out := vIssue (.vstb vs sb disp m ord ovt) (x s (pairLo sb)) (x s (pairHi sb)) 0 s
/-- R243: `trow`. -/
def execTrow (t : Fin 8) (a : Fin 56) (b : Fin 32) (m : Fin 8) (s : State) : Out := vIssue (.trow t a b m) (x s b) 0 0 s
/-- R243: `tcol`. -/
def execTcol (d : Fin 48) (t : Fin 8) (b : Fin 32) (m : Fin 8) (s : State) : Out := vIssue (.tcol d t b m) (x s b) 0 0 s
/-- R245: `vspec`. -/
def execVspec (s : State) : Out := vIssue .vspec 0 0 0 s
/-- R247: `vmerge`. -/
def execVmerge (d : Fin 48) (vs : Fin 56) (k : Fin 8) (s : State) : Out := vIssue (.vmerge d vs k) 0 0 0 s
/-- R294: `cm.add`. -/
def execCmAdd (p : Fin 16) (vi : Fin 56) (vs : Fin 48) (ty : Fin 6) (s : State) : Out := vIssue (.cmAdd p vi vs ty) (x s (pairLo p)) (x s (pairHi p)) 0 s
/-- R294: `cm.min`. -/
def execCmMin (p : Fin 16) (vi : Fin 56) (vs : Fin 48) (ty : Fin 6) (s : State) : Out := vIssue (.cmMin p vi vs ty) (x s (pairLo p)) (x s (pairHi p)) 0 s
/-- R294: `cm.max`. -/
def execCmMax (p : Fin 16) (vi : Fin 56) (vs : Fin 48) (ty : Fin 6) (s : State) : Out := vIssue (.cmMax p vi vs ty) (x s (pairLo p)) (x s (pairHi p)) 0 s
/-- R294: `cm.and`. -/
def execCmAnd (p : Fin 16) (vi : Fin 56) (vs : Fin 48) (ty : Fin 4) (s : State) : Out := vIssue (.cmAnd p vi vs ty) (x s (pairLo p)) (x s (pairHi p)) 0 s
/-- R294: `cm.or`. -/
def execCmOr (p : Fin 16) (vi : Fin 56) (vs : Fin 48) (ty : Fin 4) (s : State) : Out := vIssue (.cmOr p vi vs ty) (x s (pairLo p)) (x s (pairHi p)) 0 s
/-- R294: `cm.xor`. -/
def execCmXor (p : Fin 16) (vi : Fin 56) (vs : Fin 48) (ty : Fin 4) (s : State) : Out := vIssue (.cmXor p vi vs ty) (x s (pairLo p)) (x s (pairHi p)) 0 s
/-- R294: `cm.swap`. -/
def execCmSwap (p : Fin 16) (vi : Fin 56) (vs : Fin 48) (ty : Fin 6) (s : State) : Out := vIssue (.cmSwap p vi vs ty) (x s (pairLo p)) (x s (pairHi p)) 0 s
/-- R294: `cm.cas`. -/
def execCmCas (p : Fin 16) (vi : Fin 56) (vs : Fin 24) (ty : Fin 6) (s : State) : Out := vIssue (.cmCas p vi vs ty) (x s (pairLo p)) (x s (pairHi p)) 0 s
/-- R295: `cm.ew`. -/
def execCmEw (p : Fin 16) (vs : Fin 48) (ty : Fin 6) (s : State) : Out := vIssue (.cmEw p vs ty) (x s (pairLo p)) (x s (pairHi p)) 0 s
/-- R296: `cm.red`. -/
def execCmRed (p : Fin 16) (sd : Fin 32) (ty : Fin 5) (s : State) : Out := vIssue (.cmRed p sd ty) (x s (pairLo p)) (x s (pairHi p)) (x s sd) s
/-- R297: `cm.madd`. -/
def execCmMadd (p : Fin 16) (vi : Fin 56) (vm : Fin 48) (s : State) : Out := vIssue (.cmMadd p vi vm) (x s (pairLo p)) (x s (pairHi p)) 0 s
/-- R298: `cm.probe`. -/
def execCmProbe (p : Fin 16) (vk : Fin 56) (vr : Fin 48) (s : State) : Out := vIssue (.cmProbe p vk vr) (x s (pairLo p)) (x s (pairHi p)) 0 s

end Sys2Proof.Machine
end

