-- ==== Sys2Proof/Machine/Dispatch.lean ====
section
/-! DEFINITION. What each instruction and each step of the device does: one arm for each constructor of `Instr`. -/

namespace Sys2Proof.Machine

def exec (i : Instr) (s : State) : Host.Outcome State Fault Refusal :=
  match i with
  | .add d a b => Sys2Proof.Machine.execAdd d a b s
  | .sub d a b => Sys2Proof.Machine.execSub d a b s
  | .and d a b => Sys2Proof.Machine.execAnd d a b s
  | .or d a b => Sys2Proof.Machine.execOr d a b s
  | .xor d a b => Sys2Proof.Machine.execXor d a b s
  | .andn d a b => Sys2Proof.Machine.execAndn d a b s
  | .sll d a b => Sys2Proof.Machine.execSll d a b s
  | .srl d a b => Sys2Proof.Machine.execSrl d a b s
  | .sra d a b => Sys2Proof.Machine.execSra d a b s
  | .ror d a b => Sys2Proof.Machine.execRor d a b s
  | .sltI64 d a b => Sys2Proof.Machine.execSltI64 d a b s
  | .sltN64 d a b => Sys2Proof.Machine.execSltN64 d a b s
  | .minI64 d a b => Sys2Proof.Machine.execMinI64 d a b s
  | .minN64 d a b => Sys2Proof.Machine.execMinN64 d a b s
  | .maxI64 d a b => Sys2Proof.Machine.execMaxI64 d a b s
  | .maxN64 d a b => Sys2Proof.Machine.execMaxN64 d a b s
  | .clz d a => Sys2Proof.Machine.execClz d a s
  | .ctz d a => Sys2Proof.Machine.execCtz d a s
  | .popc d a => Sys2Proof.Machine.execPopc d a s
  | .jalr d a => Sys2Proof.Machine.execJalr d a s
  | .lidx d k => Sys2Proof.Machine.execLidx d k s
  | .lbrk k => Sys2Proof.Machine.execLbrk k s
  | .addi d a imm => Sys2Proof.Machine.execAddi d a imm s
  | .andi d a imm => Sys2Proof.Machine.execAndi d a imm s
  | .ori d a imm => Sys2Proof.Machine.execOri d a imm s
  | .xori d a imm => Sys2Proof.Machine.execXori d a imm s
  | .sltiI64 d a imm => Sys2Proof.Machine.execSltiI64 d a imm s
  | .sltiN64 d a imm => Sys2Proof.Machine.execSltiN64 d a imm s
  | .slli d a sh => Sys2Proof.Machine.execSlli d a sh s
  | .srli d a sh => Sys2Proof.Machine.execSrli d a sh s
  | .srai d a sh => Sys2Proof.Machine.execSrai d a sh s
  | .lui d imm => Sys2Proof.Machine.execLui d imm s
  | .apc d imm => Sys2Proof.Machine.execApc d imm s
  | .mul d a b => Sys2Proof.Machine.execMul d a b s
  | .mulhI64 d a b => Sys2Proof.Machine.execMulhI64 d a b s
  | .mulhN64 d a b => Sys2Proof.Machine.execMulhN64 d a b s
  | .divI64 d a b => Sys2Proof.Machine.execDivI64 d a b s
  | .divN64 d a b => Sys2Proof.Machine.execDivN64 d a b s
  | .remI64 d a b => Sys2Proof.Machine.execRemI64 d a b s
  | .remN64 d a b => Sys2Proof.Machine.execRemN64 d a b s
  | .mulI32 d a b => Sys2Proof.Machine.execMulI32 d a b s
  | .bfxN64 d a b => Sys2Proof.Machine.execBfxN64 d a b s
  | .bfxI64 d a b => Sys2Proof.Machine.execBfxI64 d a b s
  | .bfi d a b => Sys2Proof.Machine.execBfi d a b s
  | .bswap d a => Sys2Proof.Machine.execBswap d a s
  | .brev d a => Sys2Proof.Machine.execBrev d a s
  | .beq a b off => Sys2Proof.Machine.execBeq a b off s
  | .bne a b off => Sys2Proof.Machine.execBne a b off s
  | .bltI64 a b off => Sys2Proof.Machine.execBltI64 a b off s
  | .bgeI64 a b off => Sys2Proof.Machine.execBgeI64 a b off s
  | .jal off => Sys2Proof.Machine.execJal off s
  | .loop c hint e => Sys2Proof.Machine.execLoop c hint e s
  | .ldI8 d a off => Sys2Proof.Machine.execLdI8 d a off s
  | .ldN8 d a off => Sys2Proof.Machine.execLdN8 d a off s
  | .ldI16 d a off => Sys2Proof.Machine.execLdI16 d a off s
  | .ldN16 d a off => Sys2Proof.Machine.execLdN16 d a off s
  | .ldI32 d a off => Sys2Proof.Machine.execLdI32 d a off s
  | .ldN32 d a off => Sys2Proof.Machine.execLdN32 d a off s
  | .ld64 d a off => Sys2Proof.Machine.execLd64 d a off s
  | .ldAcq64 d a off => Sys2Proof.Machine.execLdAcq64 d a off s
  | .st8 d a off => Sys2Proof.Machine.execSt8 d a off s
  | .st16 d a off => Sys2Proof.Machine.execSt16 d a off s
  | .st32 d a off => Sys2Proof.Machine.execSt32 d a off s
  | .st64 d a off => Sys2Proof.Machine.execSt64 d a off s
  | .stRel64 d a off => Sys2Proof.Machine.execStRel64 d a off s
  | .ldAcqN32 d a off => Sys2Proof.Machine.execLdAcqN32 d a off s
  | .stRel32 d a off => Sys2Proof.Machine.execStRel32 d a off s
  | .amoSwap d a b scope wide => Sys2Proof.Machine.execAmoSwap d a b scope wide s
  | .amoAdd d a b scope wide => Sys2Proof.Machine.execAmoAdd d a b scope wide s
  | .amoAnd d a b scope wide => Sys2Proof.Machine.execAmoAnd d a b scope wide s
  | .amoOr d a b scope wide => Sys2Proof.Machine.execAmoOr d a b scope wide s
  | .amoXor d a b scope wide => Sys2Proof.Machine.execAmoXor d a b scope wide s
  | .amoMinI d a b scope wide => Sys2Proof.Machine.execAmoMinI d a b scope wide s
  | .amoMaxI d a b scope wide => Sys2Proof.Machine.execAmoMaxI d a b scope wide s
  | .amoMinN d a b scope wide => Sys2Proof.Machine.execAmoMinN d a b scope wide s
  | .amoMaxN d a b scope wide => Sys2Proof.Machine.execAmoMaxN d a b scope wide s
  | .amoCas d a b scope wide => Sys2Proof.Machine.execAmoCas d a b scope wide s
  | .amoCas16 d a b scope => Sys2Proof.Machine.execAmoCas16 d a b scope s
  | .fence scope => Sys2Proof.Machine.execFence scope s
  | .fenceRel scope => Sys2Proof.Machine.execFenceRel scope s
  | .fenceAcq scope => Sys2Proof.Machine.execFenceAcq scope s
  | .xfence mask => Sys2Proof.Machine.execXfence mask s
  | .barArrive d a b => Sys2Proof.Machine.execBarArrive d a b s
  | .barExpect a b => Sys2Proof.Machine.execBarExpect a b s
  | .barWait a b => Sys2Proof.Machine.execBarWait a b s
  | .barTest d a b => Sys2Proof.Machine.execBarTest d a b s
  | .barInit a b => Sys2Proof.Machine.execBarInit a b s
  | .forkF off => Sys2Proof.Machine.execForkF off s
  | .forkX off => Sys2Proof.Machine.execForkX off s
  | .join => Sys2Proof.Machine.execJoin s
  | .exit => Sys2Proof.Machine.execExit s
  | .yield => Sys2Proof.Machine.execYield s
  | .trap k => Sys2Proof.Machine.execTrap k s
  | .tret => Sys2Proof.Machine.execTret s
  | .gets d r => Sys2Proof.Machine.execGets d r s
  | .sets r b => Sys2Proof.Machine.execSets r b s
  | .launch d a => Sys2Proof.Machine.execLaunch d a s
  | .vsetl d a b => Sys2Proof.Machine.execVsetl d a b s
  | .vcfg n => Sys2Proof.Machine.execVcfg n s
  | .vtos d a b => Sys2Proof.Machine.execVtos d a b s
  | .mtos d k => Sys2Proof.Machine.execMtos d k s
  | .vbcast d a => Sys2Proof.Machine.execVbcast d a s
  | .vindex d => Sys2Proof.Machine.execVindex d s
  | .vaddFloat d a b m => Sys2Proof.Machine.execVaddFloat d a b m s
  | .vsubFloat d a b m => Sys2Proof.Machine.execVsubFloat d a b m s
  | .vmulFloat d a b m => Sys2Proof.Machine.execVmulFloat d a b m s
  | .vdiv d a b m => Sys2Proof.Machine.execVdiv d a b m s
  | .vfma d a b m => Sys2Proof.Machine.execVfma d a b m s
  | .vfms d a b m => Sys2Proof.Machine.execVfms d a b m s
  | .vfnma d a b m => Sys2Proof.Machine.execVfnma d a b m s
  | .vminFloat d a b m => Sys2Proof.Machine.execVminFloat d a b m s
  | .vmaxFloat d a b m => Sys2Proof.Machine.execVmaxFloat d a b m s
  | .vabsFloat d a m => Sys2Proof.Machine.execVabsFloat d a m s
  | .vnegFloat d a m => Sys2Proof.Machine.execVnegFloat d a m s
  | .vsqrt d a m => Sys2Proof.Machine.execVsqrt d a m s
  | .vexp2 d a m => Sys2Proof.Machine.execVexp2 d a m s
  | .vaddInt d a b m => Sys2Proof.Machine.execVaddInt d a b m s
  | .vsubInt d a b m => Sys2Proof.Machine.execVsubInt d a b m s
  | .vmulInt d a b m => Sys2Proof.Machine.execVmulInt d a b m s
  | .vmulhi d a b m => Sys2Proof.Machine.execVmulhi d a b m s
  | .vminInt d a b m => Sys2Proof.Machine.execVminInt d a b m s
  | .vmaxInt d a b m => Sys2Proof.Machine.execVmaxInt d a b m s
  | .vaddsat d a b m => Sys2Proof.Machine.execVaddsat d a b m s
  | .vsubsat d a b m => Sys2Proof.Machine.execVsubsat d a b m s
  | .vabsInt d a m => Sys2Proof.Machine.execVabsInt d a m s
  | .vnegInt d a m => Sys2Proof.Machine.execVnegInt d a m s
  | .vmad d a b m => Sys2Proof.Machine.execVmad d a b m s
  | .vand d a b m => Sys2Proof.Machine.execVand d a b m s
  | .vor d a b m => Sys2Proof.Machine.execVor d a b m s
  | .vxor d a b m => Sys2Proof.Machine.execVxor d a b m s
  | .vandn d a b m => Sys2Proof.Machine.execVandn d a b m s
  | .vnot d a m => Sys2Proof.Machine.execVnot d a m s
  | .vsll d a b m => Sys2Proof.Machine.execVsll d a b m s
  | .vsrl d a b m => Sys2Proof.Machine.execVsrl d a b m s
  | .vsra d a b m => Sys2Proof.Machine.execVsra d a b m s
  | .vcmpEq k a b m => Sys2Proof.Machine.execVcmpEq k a b m s
  | .vcmpNe k a b m => Sys2Proof.Machine.execVcmpNe k a b m s
  | .vcmpLt k a b m => Sys2Proof.Machine.execVcmpLt k a b m s
  | .vcmpLe k a b m => Sys2Proof.Machine.execVcmpLe k a b m s
  | .vsel d a b k => Sys2Proof.Machine.execVsel d a b k s
  | .mand d a b => Sys2Proof.Machine.execMand d a b s
  | .mor d a b => Sys2Proof.Machine.execMor d a b s
  | .mxor d a b => Sys2Proof.Machine.execMxor d a b s
  | .mandn d a b => Sys2Proof.Machine.execMandn d a b s
  | .mnot d a => Sys2Proof.Machine.execMnot d a s
  | .vcvt d a m target => Sys2Proof.Machine.execVcvt d a m target s
  | .vlift d a b m => Sys2Proof.Machine.execVlift d a b m s
  | .vsink d a b m => Sys2Proof.Machine.execVsink d a b m s
  | .vpick d a b m => Sys2Proof.Machine.execVpick d a b m s
  | .vpack d a k => Sys2Proof.Machine.execVpack d a k s
  | .vprune d a b => Sys2Proof.Machine.execVprune d a b s
  | .vzip d a b m => Sys2Proof.Machine.execVzip d a b m s
  | .vunzip d a b m => Sys2Proof.Machine.execVunzip d a b m s
  | .vliftZ d a b m => Sys2Proof.Machine.execVliftZ d a b m s
  | .vsinkZ d a b m => Sys2Proof.Machine.execVsinkZ d a b m s
  | .vpackK d a k => Sys2Proof.Machine.execVpackK d a k s
  | .vfoldAdd d a m => Sys2Proof.Machine.execVfoldAdd d a m s
  | .vfoldMax d a m => Sys2Proof.Machine.execVfoldMax d a m s
  | .vfoldMin d a m => Sys2Proof.Machine.execVfoldMin d a m s
  | .vfoldAnd d a m => Sys2Proof.Machine.execVfoldAnd d a m s
  | .vfoldOr d a m => Sys2Proof.Machine.execVfoldOr d a m s
  | .vfoldXor d a m => Sys2Proof.Machine.execVfoldXor d a m s
  | .vfoldAmax d a m => Sys2Proof.Machine.execVfoldAmax d a m s
  | .vld d sb disp m ord ovt => Sys2Proof.Machine.execVld d sb disp m ord ovt s
  | .vlds d sb ss m ord ovt => Sys2Proof.Machine.execVlds d sb ss m ord ovt s
  | .vldx d sb vi m ord ovt => Sys2Proof.Machine.execVldx d sb vi m ord ovt s
  | .vldb d sb disp m ord ovt => Sys2Proof.Machine.execVldb d sb disp m ord ovt s
  | .vldSpec d sb disp m ord ovt => Sys2Proof.Machine.execVldSpec d sb disp m ord ovt s
  | .vldsSpec d sb ss m ord ovt => Sys2Proof.Machine.execVldsSpec d sb ss m ord ovt s
  | .vldxSpec d sb vi m ord ovt => Sys2Proof.Machine.execVldxSpec d sb vi m ord ovt s
  | .vst vs sb disp m ord ovt => Sys2Proof.Machine.execVst vs sb disp m ord ovt s
  | .vsts vs sb ss m ord ovt => Sys2Proof.Machine.execVsts vs sb ss m ord ovt s
  | .vstx vs sb vi m ord ovt => Sys2Proof.Machine.execVstx vs sb vi m ord ovt s
  | .vstb vs sb disp m ord ovt => Sys2Proof.Machine.execVstb vs sb disp m ord ovt s
  | .trow t a b m => Sys2Proof.Machine.execTrow t a b m s
  | .tcol d t b m => Sys2Proof.Machine.execTcol d t b m s
  | .vspec => Sys2Proof.Machine.execVspec s
  | .vmerge d vs k => Sys2Proof.Machine.execVmerge d vs k s
  | .faAttach n => Sys2Proof.Machine.execFaAttach n s
  | .faDetach n => Sys2Proof.Machine.execFaDetach n s
  | .faCfgld p => Sys2Proof.Machine.execFaCfgld p s
  | .faCommit => Sys2Proof.Machine.execFaCommit s
  | .faWait => Sys2Proof.Machine.execFaWait s
  | .faStageFloat p c k blk last => Sys2Proof.Machine.execFaStageFloat p c k blk last s
  | .faStageBfp16 p c k blk last => Sys2Proof.Machine.execFaStageBfp16 p c k blk last s
  | .faStageMod p c k blk last => Sys2Proof.Machine.execFaStageMod p c k blk last s
  | .faDense p c k fmt => Sys2Proof.Machine.execFaDense p c k fmt s
  | .faSparse p c k fmt => Sys2Proof.Machine.execFaSparse p c k fmt s
  | .faPwTwid e k => Sys2Proof.Machine.execFaPwTwid e k s
  | .faPwScale a k => Sys2Proof.Machine.execFaPwScale a k s
  | .faPwAdd e k => Sys2Proof.Machine.execFaPwAdd e k s
  | .faPwRelu k => Sys2Proof.Machine.execFaPwRelu k s
  | .faPwExp2 k => Sys2Proof.Machine.execFaPwExp2 k s
  | .faPwModred k => Sys2Proof.Machine.execFaPwModred k s
  | .faBfpStatic a k => Sys2Proof.Machine.execFaBfpStatic a k s
  | .faBfpMeas k => Sys2Proof.Machine.execFaBfpMeas k s
  | .faZero m => Sys2Proof.Machine.execFaZero m s
  | .faDrain p t q => Sys2Proof.Machine.execFaDrain p t q s
  | .faDrainv p v q => Sys2Proof.Machine.execFaDrainv p v q s
  | .faAmax d k => Sys2Proof.Machine.execFaAmax d k s
  | .faAmaxFinal d k => Sys2Proof.Machine.execFaAmaxFinal d k s
  | .faModset p => Sys2Proof.Machine.execFaModset p s
  | .faCrt q j k => Sys2Proof.Machine.execFaCrt q j k s
  | .vproj a k => Sys2Proof.Machine.execVproj a k s
  | .vprojThresh a k => Sys2Proof.Machine.execVprojThresh a k s
  | .vprojBwd a k => Sys2Proof.Machine.execVprojBwd a k s
  | .vpmerge p c k => Sys2Proof.Machine.execVpmerge p c k s
  | .cp a b k => Sys2Proof.Machine.execCp a b k s
  | .cpTr a b k => Sys2Proof.Machine.execCpTr a b k s
  | .cpCvt a b k => Sys2Proof.Machine.execCpCvt a b k s
  | .cpRed a b k rop rty => Sys2Proof.Machine.execCpRed a b k rop rty s
  | .cpRed2 a b k rop rty => Sys2Proof.Machine.execCpRed2 a b k rop rty s
  | .cpNest a => Sys2Proof.Machine.execCpNest a s
  | .cpArm a b c => Sys2Proof.Machine.execCpArm a b c s
  | .cpWait => Sys2Proof.Machine.execCpWait s
  | .cpStat d => Sys2Proof.Machine.execCpStat d s
  | .collAr a fp8 => Sys2Proof.Machine.execCollAr a fp8 s
  | .collRs a fp8 => Sys2Proof.Machine.execCollRs a fp8 s
  | .collAg a fp8 => Sys2Proof.Machine.execCollAg a fp8 s
  | .collA2a a fp8 => Sys2Proof.Machine.execCollA2a a fp8 s
  | .collBc a fp8 => Sys2Proof.Machine.execCollBc a fp8 s
  | .collTm a fp8 => Sys2Proof.Machine.execCollTm a fp8 s
  | .cmAdd p vi vs ty => Sys2Proof.Machine.execCmAdd p vi vs ty s
  | .cmMin p vi vs ty => Sys2Proof.Machine.execCmMin p vi vs ty s
  | .cmMax p vi vs ty => Sys2Proof.Machine.execCmMax p vi vs ty s
  | .cmAnd p vi vs ty => Sys2Proof.Machine.execCmAnd p vi vs ty s
  | .cmOr p vi vs ty => Sys2Proof.Machine.execCmOr p vi vs ty s
  | .cmXor p vi vs ty => Sys2Proof.Machine.execCmXor p vi vs ty s
  | .cmSwap p vi vs ty => Sys2Proof.Machine.execCmSwap p vi vs ty s
  | .cmCas p vi vs ty => Sys2Proof.Machine.execCmCas p vi vs ty s
  | .cmEw p vs ty => Sys2Proof.Machine.execCmEw p vs ty s
  | .cmRed p sd ty => Sys2Proof.Machine.execCmRed p sd ty s
  | .cmMadd p vi vm => Sys2Proof.Machine.execCmMadd p vi vm s
  | .cmProbe p vk vr => Sys2Proof.Machine.execCmProbe p vk vr s
  | .iqDecl d a => Sys2Proof.Machine.execIqDecl d a s
  | .iqEmit p q => Sys2Proof.Machine.execIqEmit p q s
  | .iqClose q b => Sys2Proof.Machine.execIqClose q b s
  | .iqUndecl q => Sys2Proof.Machine.execIqUndecl q s
  | .iqTake p q => Sys2Proof.Machine.execIqTake p q s
  | .iqApply a b => Sys2Proof.Machine.execIqApply a b s
  | .iqProbe a b => Sys2Proof.Machine.execIqProbe a b s
  | .iqQwait g b => Sys2Proof.Machine.execIqQwait g b s
  | .iqDone q => Sys2Proof.Machine.execIqDone q s
  | .iqStat d q => Sys2Proof.Machine.execIqStat d q s
  | .iqFront d q => Sys2Proof.Machine.execIqFront d q s
  | .nmSgdf a b g => Sys2Proof.Machine.execNmSgdf a b g s
  | .nmAxpy a b g => Sys2Proof.Machine.execNmAxpy a b g s
  | .nmScale a b g => Sys2Proof.Machine.execNmScale a b g s
  | .nmSumsq a b g => Sys2Proof.Machine.execNmSumsq a b g s
  | .nmCast a b g => Sys2Proof.Machine.execNmCast a b g s
  | .nmFill a b g => Sys2Proof.Machine.execNmFill a b g s
  | .nmScatadd a b g => Sys2Proof.Machine.execNmScatadd a b g s
  | .nmWait => Sys2Proof.Machine.execNmWait s
  | .nmWaitAll => Sys2Proof.Machine.execNmWaitAll s
  | .nmStat d => Sys2Proof.Machine.execNmStat d s
  | .stFlag d a => Sys2Proof.Machine.execStFlag d a s
  | .stFlag32 d a => Sys2Proof.Machine.execStFlag32 d a s
  | .lkPref a => Sys2Proof.Machine.execLkPref a s
  | .lkFlush a => Sys2Proof.Machine.execLkFlush a s
  | .lkInval a => Sys2Proof.Machine.execLkInval a s
  | .pcount d a path => Sys2Proof.Machine.execPcount d a path s
  | .fenceAck a => Sys2Proof.Machine.execFenceAck a s
  | .lkStat d a => Sys2Proof.Machine.execLkStat d a s
  | .nop => Sys2Proof.Machine.execNop s
  | .hint k => Sys2Proof.Machine.execHint k s
  | .illegalInstruction w => Sys2Proof.Machine.execIllegalInstruction w s
  | .instructionFetchFault cause => Sys2Proof.Machine.execInstructionFetchFault cause s
  | .engineRecordDelivery thread => Sys2Proof.Machine.execEngineRecordDelivery thread s
  | .heldRecordWrite core => Sys2Proof.Machine.execHeldRecordWrite core s
  | .vectorStripIssue core => Sys2Proof.Machine.execVectorStripIssue core s
  | .forkedProgramTake die => Sys2Proof.Machine.execForkedProgramTake die s
  | .barrierCompletion pa bytes => Sys2Proof.Machine.execBarrierCompletion pa bytes s
  | .tagSweep line => Sys2Proof.Machine.execTagSweep line s
  | .armedCommandFire near unit index => Sys2Proof.Machine.execArmedCommandFire near unit index s
  | .tileDefine cluster tile word => Sys2Proof.Machine.execTileDefine cluster tile word s
  | .tileCmdRelease cluster tile => Sys2Proof.Machine.execTileCmdRelease cluster tile s
  | .tileCmdDiscard cluster tile => Sys2Proof.Machine.execTileCmdDiscard cluster tile s
  | .tileReady cluster tile => Sys2Proof.Machine.execTileReady cluster tile s
  | .tileDrainEnd cluster tile => Sys2Proof.Machine.execTileDrainEnd cluster tile s
  | .tileEmptyTimeout core => Sys2Proof.Machine.execTileEmptyTimeout core s
  | .swathBoundary => Sys2Proof.Machine.execSwathBoundary s
  | .governorWindow => Sys2Proof.Machine.execGovernorWindow s
  | .preemptRequest thread => Sys2Proof.Machine.execPreemptRequest thread s
  | .preemptLanding thread => Sys2Proof.Machine.execPreemptLanding thread s
  | .plimExpiry thread => Sys2Proof.Machine.execPlimExpiry thread s
  | .saveComplete thread => Sys2Proof.Machine.execSaveComplete thread s
  | .slotResume thread => Sys2Proof.Machine.execSlotResume thread s
  | .slotFree thread => Sys2Proof.Machine.execSlotFree thread s
  | .bindGo thread => Sys2Proof.Machine.execBindGo thread s
  | .bindStateReady thread => Sys2Proof.Machine.execBindStateReady thread s
  | .hostQueueTake device queue => Sys2Proof.Machine.execHostQueueTake device queue s
  | .dependenceObserve device entry dep => Sys2Proof.Machine.execDependenceObserve device entry dep s
  | .predicateRead device entry => Sys2Proof.Machine.execPredicateRead device entry s
  | .replacementMapInstall rcb => Sys2Proof.Machine.execReplacementMapInstall rcb s
  | .pageWalk core asid vas => Sys2Proof.Machine.execPageWalk core asid vas s
  | .cowCopy die asid va => Sys2Proof.Machine.execCowCopy die asid va s
  | .invcmd die => Sys2Proof.Machine.execInvcmd die s
  | .snapcmd die => Sys2Proof.Machine.execSnapcmd die s
  | .scrub granule => Sys2Proof.Machine.execScrub granule s
  | .uncorrectableError granule => Sys2Proof.Machine.execUncorrectableError granule s
  | .cfgRecovery core shadow => Sys2Proof.Machine.execCfgRecovery core shadow s
  | .cfgldPreemptHold thread => Sys2Proof.Machine.execCfgldPreemptHold thread s
  | .faContextExecute core => Sys2Proof.Machine.execFaContextExecute core s
  | .copyExecute engine => Sys2Proof.Machine.execCopyExecute engine s
  | .collReady engine tag member => Sys2Proof.Machine.execCollReady engine tag member s
  | .collStart engine tag => Sys2Proof.Machine.execCollStart engine tag s
  | .collAbort engine tag cause => Sys2Proof.Machine.execCollAbort engine tag cause s
  | .nmCommandStart die => Sys2Proof.Machine.execNmCommandStart die s
  | .nmCompletion die => Sys2Proof.Machine.execNmCompletion die s
  | .readShared line die => Sys2Proof.Machine.execReadShared line die s
  | .readExclusive line die => Sys2Proof.Machine.execReadExclusive line die s
  | .upgrade line die => Sys2Proof.Machine.execUpgrade line die s
  | .writeBack line die => Sys2Proof.Machine.execWriteBack line die s
  | .pushWrite packet => Sys2Proof.Machine.execPushWrite packet s
  | .uncachedRead line => Sys2Proof.Machine.execUncachedRead line s
  | .remoteAtomic line => Sys2Proof.Machine.execRemoteAtomic line s
  | .invalidate line die => Sys2Proof.Machine.execInvalidate line die s
  | .invalidateAcknowledgement line die => Sys2Proof.Machine.execInvalidateAcknowledgement line die s
  | .dataResponse line die => Sys2Proof.Machine.execDataResponse line die s
  | .writeAcknowledgement packet => Sys2Proof.Machine.execWriteAcknowledgement packet s
  | .multicastRead member line => Sys2Proof.Machine.execMulticastRead member line s
  | .collectivePacket engine tag => Sys2Proof.Machine.execCollectivePacket engine tag s
  | .queueRecord packet => Sys2Proof.Machine.execQueueRecord packet s
  | .closingMarker packet => Sys2Proof.Machine.execClosingMarker packet s
  | .markerAcknowledgement packet => Sys2Proof.Machine.execMarkerAcknowledgement packet s
  | .hostForward pa bytes => Sys2Proof.Machine.execHostForward pa bytes s
  | .flagRelease packet => Sys2Proof.Machine.execFlagRelease packet s
  | .linkReplay device port => Sys2Proof.Machine.execLinkReplay device port s
  | .linkDown device port => Sys2Proof.Machine.execLinkDown device port s
  | .linkLoss die dest => Sys2Proof.Machine.execLinkLoss die dest s
  | .routerFlitDiscard flit => Sys2Proof.Machine.execRouterFlitDiscard flit s
  | .lreset die dest => Sys2Proof.Machine.execLreset die dest s
  | .hostWrite pa bytes => Sys2Proof.Machine.execHostWrite pa bytes s
  | .hostRead pa size => Sys2Proof.Machine.execHostRead pa size s
  | .hostAtomic op wide pa operand compare => Sys2Proof.Machine.execHostAtomic op wide pa operand compare s
  | .hostCompletionTimeout thread => Sys2Proof.Machine.execHostCompletionTimeout thread s
  | .batchDelivery die queue => Sys2Proof.Machine.execBatchDelivery die queue s
  | .dcapRetry die queue => Sys2Proof.Machine.execDcapRetry die queue s
  | .powerRequestP device state => Sys2Proof.Machine.execPowerRequestP device state s
  | .powerRequestD1 device => Sys2Proof.Machine.execPowerRequestD1 device s
  | .powerRequestD2 device => Sys2Proof.Machine.execPowerRequestD2 device s
  | .d1Exit device => Sys2Proof.Machine.execD1Exit device s
  | .d2Exit device => Sys2Proof.Machine.execD2Exit device s
  | .thermalTrip die => Sys2Proof.Machine.execThermalTrip die s
  | .powerOn device => Sys2Proof.Machine.execPowerOn device s
  | .attestationRequest device => Sys2Proof.Machine.execAttestationRequest device s
  | .attestationReport device => Sys2Proof.Machine.execAttestationReport device s
  | .present device => Sys2Proof.Machine.execPresent device s
  | .debugTokenCheck device => Sys2Proof.Machine.execDebugTokenCheck device s
  | .close device => Sys2Proof.Machine.execClose device s
  | .ownerTransition device record => Sys2Proof.Machine.execOwnerTransition device record s
  | .registerWrite pa bytes => Sys2Proof.Machine.execRegisterWrite pa bytes s
  | .linkUp device port => Sys2Proof.Machine.execLinkUp device port s
  | .powerLoss device => Sys2Proof.Machine.execPowerLoss device s
  | .debugHalt session => Sys2Proof.Machine.execDebugHalt session s
  | .debugStep unit => Sys2Proof.Machine.execDebugStep unit s
  | .responseOverdue packet => Sys2Proof.Machine.execResponseOverdue packet s
  | .hostCompletion thread status bytes => Sys2Proof.Machine.execHostCompletion thread status bytes s
  | .manufacturingExit device key => Sys2Proof.Machine.execManufacturingExit device key s
  | .fusedMinimumVersionRaise device version => Sys2Proof.Machine.execFusedMinimumVersionRaise device version s

end Sys2Proof.Machine
end

