-- ==== Sys2Proof/Machine/Sched.lean ====
section
/-! DEFINITION. Which step comes next (R129, R130, R149, R206): the steps that are due, the turns of the agents and of the device's
engines, and the run of an agent's next instruction. -/

namespace Sys2Proof.Machine

/-! ## The instruction of an agent -/

/-- R64: the sequencer in progress executes a word. -/
noncomputable def runWord (w : Nat) (s : State) : Out :=
  match decodeWord w with
  | .ok i => if mayRun s.cur i then exec i s else exec (.illegalInstruction (BitVec.ofNat 32 w)) s
  | .error _ => exec (.illegalInstruction (BitVec.ofNat 32 w)) s

/-- R64, R264: the sequencer in progress fetches and executes its next word. -/
noncomputable def runNext (s : State) : Out :=
  match fetchWord s (pcOf s) with
  | .ok w s => runWord w s
  | .exc c s => exec (.instructionFetchFault c) s
  | .lost c s => accessLost c s
  | .wait s => .next s

/-- R207: the thread of a slot fetches and executes its next word, or the word that the replacement map of its region puts in
place of it. -/
noncomputable def runSlot (k : Nat) (s : State) : Out :=
  let s := observeMap k s
  match replacedAt s k (pcOf s) with
  | some (new, w) => runWord w.toNat (setSeq s { curSeq s with pc := new })
  | none => runNext s

/-- R474: the instruction that a slot executed at `pc` has retired between two states. -/
def retired (k : Nat) (pc : Word) (s t : State) : Bool :=
  (thr t k).exited
    || ((thr t k).st != .waiting && (thr t k).st != .suspended && (thr t k).st != .retiring && ((thr s k).hm || !(thr t k).hm)
      && ((thr t k).seq.pc != pc || (thr t k).seq.landing != .none))

/-- R207, R474: the address and the word that a slot executes next. -/
def slotWord (s : State) (k : Nat) : Word × Nat :=
  let pc := (thr s k).seq.pc
  match replacedAt (observeMap k s) k pc with
  | some (new, w) => (new, w.toNat)
  | none => (pc, match fetchWord s pc with | .ok w _ => w | _ => 0)

/-- R474: an instruction that retires leaves a trace entry. -/
def traceRetire (k : Nat) (s : State) (o : Out) : Out :=
  match o with
  | .next t =>
    if retired k (thr s k).seq.pc s t then
      .next (traceEntry 1 (dieOfThread k) (threadId k) (slotWord s k).1.toNat (slotWord s k).2 t)
    else o
  | o => o

/-- The forked program that the sequencer in progress runs. -/
def progOf (s : State) : Option Prog :=
  match s.cur with
  | .thread _ => none
  | .ctx c => (ctx s c).prog
  | .engine n => (engine s n).prog

/-- R474: an instruction of a forked program that retires leaves a trace entry, with the thread that forked it. -/
noncomputable def traceProgram (die : Nat) (s : State) (o : Out) : Out :=
  match o, progOf s with
  | .next t, some p =>
    let w := match fetchWord s p.seq.pc with | .ok w _ => w | _ => 0
    let did := match progOf { t with cur := s.cur } with
      | some q => q.serial == p.serial && q.seq.pc != p.seq.pc
      | none => (match decodeWord w with | .ok .exit => true | _ => false)
    if did then .next (traceEntry 1 die (threadId p.iss.thread) p.seq.pc.toNat w t) else o
  | o, _ => o

/-! ## Turns of agents -/

/-- R477: the device is on, in a P-state. -/
def runsNow (s : State) (dev : Nat) : Bool := decide (powerState s dev < 4) && !(device s dev).off

/-- R129, R184: the thread of a slot has a turn on the core. -/
def mayIssue (s : State) (k : Nat) : Bool :=
  let t := thr s k
  (t.st == .running || t.st == .waiting) && !t.heldTrap && !(t.yieldWait.any (fun j => (thr s j).st == .running))

/-- R184: a slot of a core has had its turn. -/
def tookTurn (k : Nat) (s : State) : State :=
  { s with threads := s.threads.map (fun p =>
      if p.1 / 4 = k / 4 ∧ p.2.yieldWait ≠ [] then (p.1, { p.2 with yieldWait := p.2.yieldWait.filter (· != k) }) else p) }

/-- R130: the slot is ready to issue: a waiting slot tries its instruction again. -/
def readySlot (k : Nat) (s : State) : State :=
  let s := tookTurn k s
  let t := thr s k
  { setThr s k { t with st := .running, yieldWait := [] } with cur := .thread k }

/-- R135, R206: at the turn of a thread, its core's vector sequencer goes on with what earlier turns left: one strip, of the slot that
comes first of those whose strips are not left to the sequencer's own steps. -/
def kickQueue (k : Nat) (s : State) : State :=
  (issueStrip ((stripOrder s (coreOfThread k)).filter (fun j => !(thr s j).vdefer)) s).1

/-- R473: a halted thread executes one instruction and is suspended again. -/
noncomputable def stepHalted (k : Nat) (s : State) : Out :=
  let s1 := readySlot k (setThr s k { thr s k with st := .running, dbgStep := false })
  match traceRetire k s1 (runSlot k s1) with
  | .next t =>
    .next (if (thr t k).st = .running ∨ (thr t k).st = .waiting then
      setThr t k { thr t k with st := .suspended, snap := none } else t)
  | o => o

/-- R130, R149, R305: what comes before the next instruction of the thread of a slot: a trap that it owes, a pre-emption that has
found its landing point, or a record to deliver. Its scalar side issues nothing until that has taken place, but for the instruction
whose access is on its way. -/
def beforeIssue (k : Nat) (s : State) : Option State :=
  match (thr s k).owed with
  | some (u, d) => if scalarBusy s k then none else some (takeOwed u d k s)
  | none =>
    if landDue s k then some (if landable s k then landNow k s else s)
    else if deliveryDue (thr s k) && !scalarBusy s k then
      some (if canDeliver (thr s k) then deliver k s else s)
    else none

/-- The turn of the thread of a slot: a pre-emption that lands at a boundary, or a strip of its core's vector sequencer, then what comes before its next instruction, or that
instruction. -/
noncomputable def runThread (k : Nat) (s : State) : Out :=
  if !runsNow s (devOfDie (dieOfThread k)) then .next s
  else if (thr s k).halted then (if (thr s k).dbgStep then stepHalted k s else .next s)
  else if landable s k then .next (landNow k s)
  else
    let s := kickQueue k s
    if (thr s k).st ≠ .running ∧ (thr s k).st ≠ .waiting then .next s
    else match beforeIssue k s with
      | some s => .next s
      | none =>
        if mayIssue s k then traceRetire k (readySlot k s) (runSlot k (readySlot k s)) else .next (tookTurn k s)

/-- R473: a halt session holds an engine, and has not told it to step. -/
def unitHeld (s : State) (u : Nat) : Bool := s.halts.contains u && !s.steps.contains u

/-- R473: an engine has gone on by one step. -/
def unitStepped (u : Nat) (s : State) : State := { s with steps := setErase u s.steps }

/-- The turn of an agent. -/
noncomputable def runAgent (a : Agent) (s : State) : Out :=
  match a with
  | .thread k => runThread k s
  | .ctx c =>
    if runsNow s (devOfDie (dieOfCore c)) && !ctxStopped s c && !unitHeld s (2 ^ 21 + c) then
      traceProgram (dieOfCore c) { s with cur := a } (runNext { unitStepped (2 ^ 21 + c) s with cur := a })
    else .next s
  | .engine n =>
    if runsNow s (devOfDie (n / 4)) && !stopped s 4 (n / 4) (n % 4) && !unitHeld s (2 ^ 22 + n) then
      traceProgram (n / 4) { s with cur := a } (runNext { unitStepped (2 ^ 22 + n) s with cur := a })
    else .next s

/-- The agents that have a program or a thread to run, in the order of their numbers. -/
def agentsOf (s : State) : List Agent :=
  (s.threads.filter (fun p => p.2.st == .running || p.2.st == .waiting)).map (fun p => Agent.thread p.1)
    ++ (s.ctxs.filter (fun p => p.2.prog.isSome)).map (fun p => Agent.ctx p.1)
    ++ (s.engines.filter (fun p => p.2.prog.isSome)).map (fun p => Agent.engine p.1)

/-- The next turn of an agent. -/
noncomputable def nextTurn (s : State) : Out :=
  match (if s.turns.isEmpty then agentsOf s else s.turns) with
  | [] => .next s
  | a :: l => runAgent a { s with turns := l }

/-! ## The device's own steps -/

/-- The first of a list of steps that takes place and changes the state. -/
def firstOf (s : State) : List (State → Out) → Option State
  | [] => none
  | f :: l =>
    match f s with
    | .next t => if t = s then firstOf s l else some t
    | _ => firstOf s l

/-- R199: host queues that memory holds a descriptor of: the device and the queue. -/
def hostQueues (s : State) : List (Nat × Nat) :=
  (s.mem.filterMap (fun c =>
    let o := localOf c.1 % 0x10000000
    if placeOf c.1 = .dieWindow 0 ∧ 0x100000 ≤ o ∧ o < 0x100400 then some (devOf c.1, o % 0x100000 / 32) else none)).eraseDups

/-- R199: the host queue a device serves next comes first. -/
def hostQueueRuns (s : State) : List (State → Out) :=
  let l := (hostQueues s).filter (fun p => runsNow s p.1)
  let late := fun (p : Nat × Nat) => decide (p.2 < tabGet 0 s.hqNext p.1)
  (l.filter (fun p => !late p) ++ l.filter late).map (fun p => execHostQueueTake p.1 p.2)

/-- R284: tiles that memory holds an entry of: the cluster and the tile. -/
def tilesListed (s : State) : List (Nat × Nat) :=
  (s.mem.filterMap (fun c =>
    match placeOf c.1 with
    | .clusterWindow d k =>
      let o := localOf c.1 % 0x800000 - 0x400000
      if 0x10000 ≤ o ∧ o < 0x12000 then some (dieKey (devOf c.1) d * 16 + k, (o - 0x10000) / 32) else none
    | _ => none)).eraseDups

/-- R128: the lines whose tags keep a race domain from the reset that it waits for. -/
def staleTags (s : State) : List Nat :=
  (s.tags.filter (fun t => (dom s t.2.dom).due && t.2.gen != (dom s t.2.dom).gen)).map (fun t => t.1)

/-- R128: a reset that is due and has no old tag to wait for takes place. -/
def resetRuns (s : State) : List (State → Out) :=
  s.domains.map (fun d (s : State) => (.next (dueReset (BitVec.ofNat 8 d.1) s) : Out))

/-- R477, R479: the members of a list that lie on devices that are on and in a P-state: nothing runs in D1 and D2 but the management cores. -/
def onDevices {α : Type} (s : State) (dev : α → Nat) (l : List α) : List α := l.filter (fun a => runsNow s (dev a))

/-- The device of a miss. -/
def missDev : Miss → Nat
  | .walk c _ _ => devOfDie (dieOfCore c)
  | .line die _ => devOfDie die

/-- The steps that come before any turn: fault-domain policies, misses, copies that writes wait for, invalidations, snapshots and what they keep waiting,
dispatch's reads and signals, host queues, records held, binds, frees, tiles, waits that time out, tags that a reset waits for,
resets, commands that fire, aborts, frontiers. -/
def dueRuns (s : State) : List (State → Out) :=
  [fun (s : State) => (.next (policyDue s) : Out)] ++
  (onDevices s missDev s.misses).map (fun m (s : State) => (.next (missFill m s) : Out)) ++
  (onDevices s (fun c => devOfDie c.1) s.cows).map (fun c => execCowCopy c.1 c.2.1.toNat c.2.2)
    ++ (onDevices s (fun p => devOfDie p.1) s.invWaits).map (fun p (s : State) => (.next (invalidateEnd p.1 s) : Out))
    ++ (onDevices s (fun p => devOfDie p.1) s.snapWaits).map (fun p (s : State) => (.next (snapGo p.1 s) : Out))
    ++ [fun (s : State) => (.next (waitingNow s) : Out)]
    ++ (onDevices s (fun p => p.1 / 1024) s.intake).flatMap (fun p =>
        (if p.2.ending.isSome then [execDependenceObserve (p.1 / 1024) (p.1 % 1024) 0]
          else p.2.look.map (fun j => execDependenceObserve (p.1 / 1024) (p.1 % 1024) j))
        ++ (if predicateDue p.2 then [execPredicateRead (p.1 / 1024) (p.1 % 1024)] else [])
        ++ (if p.2.reading then [fun (s : State) => (.next (becomeReady (p.1 / 1024) (p.1 % 1024) s) : Out)] else []))
    ++ hostQueueRuns s
    ++ (onDevices s (fun c => devOfDie (dieOfCore c.1)) s.cores).flatMap (fun c => if c.2.held.isEmpty then [] else [execHeldRecordWrite c.1])
    ++ (onDevices s (fun p => devOfDie (dieOfThread p.1)) s.threads).flatMap (fun p => match p.2.st with
        | .bound => [execBindStateReady p.1]
        | .retiring => [execSlotFree p.1]
        | _ => [])
    ++ (onDevices s (fun t => devOfDie (t.1 / 16)) (tilesListed s)).flatMap (fun t => [execTileReady t.1 t.2, execTileDrainEnd t.1 t.2])
    ++ (onDevices s (fun x => devOfDie (dieOfCore x.1)) s.ctxs).flatMap (fun x => match x.2.tileWait with
        | some _ => [execTileEmptyTimeout x.1]
        | none => [])
    ++ (onDevices s (fun l => devOf (64 * l)) (staleTags s)).map execTagSweep ++ resetRuns s
    ++ [fun (s : State) => (.next (frontRetry s) : Out)]
    ++ (onDevices s (fun e => devOfDie e.1) s.nms).flatMap (fun e =>
        (List.range (e.2.gates.length + e.2.queue.length)).map (execArmedCommandFire true e.1))
    ++ (onDevices s (fun e => devOfDie (e.1 / 4)) s.engines).flatMap (fun e => (List.range e.2.armed.length).map (execArmedCommandFire false e.1)
        ++ e.2.colls.filterMap (fun l => l.abort.map (execCollAbort e.1 (collTag l.cmd))))

/-- R13: the contexts that have something to do, of each cluster the one that did not issue last first. -/
def ctxOrder (s : State) : List Nat :=
  let l := s.ctxs.map (fun x => x.1)
  let late := fun (c : Nat) => c % 2 == (cluster s (clusterOfCore c)).lastCtx.val
  l.filter (fun c => !late c) ++ l.filter late

/-- R13: a context executes; its cluster's other context comes first next time. -/
def ctxTurn (c : Nat) (s : State) : Out :=
  if ctxStopped s c || unitHeld s (2 ^ 21 + c) || !runsNow s (devOfDie (dieOfCore c)) then .next s
  else match execFaContextExecute c s with
    | .next t =>
      if t = s then .next s
      else .next (unitStepped (2 ^ 21 + c) (setCluster t (clusterOfCore c) { cluster t (clusterOfCore c) with lastCtx := ⟨c % 2, by omega⟩ }))
    | o => o

/-- R473: a step of an engine that a halt session may hold. -/
def unitRun (u : Nat) (f : State → Out) (s : State) : Out :=
  if unitHeld s u then .next s
  else match f s with
    | .next t => .next (if t = s then s else unitStepped u t)
    | o => o

/-- The steps of the engines and the fabric. A link's replay ends at a turn of theirs, so that a thread may see it (R347). -/
def engineRuns (s : State) : List (State → Out) :=
  [fun (s : State) => (.next (replayEnd s) : Out)]
    ++ s.devices.flatMap (fun d => [execAttestationReport d.1, execDebugTokenCheck d.1])
    ++ (onDevices s (fun p => p.dest) (onDevices s (fun p => devOfDie p.die) s.packets)).flatMap (fun p =>
        [execWriteAcknowledgement p.id, execFlagRelease p.id, execPushWrite p.id])
    ++ (onDevices s (fun e => devOfDie e.1) s.nms).flatMap (fun e =>
        if stopped s 5 e.1 0 then [] else [execNmCompletion e.1, execNmCommandStart e.1].map (unitRun (2 ^ 25 + e.1)))
    ++ (onDevices s (fun q => devOfDie q.1) s.forkQs).map (fun q => execForkedProgramTake q.1)
    ++ (onDevices s (fun e => devOfDie (e.1 / 4)) s.engines).flatMap (fun e =>
        if stopped s 4 (e.1 / 4) (e.1 % 4) then []
        else ((if e.2.queue.isEmpty then [] else [execCopyExecute e.1])
          ++ e.2.colls.flatMap (fun l =>
            let tag := collTag l.cmd
            (List.range (collN l.cmd)).map (execCollReady e.1 tag) ++ [execCollStart e.1 tag, execCollectivePacket e.1 tag])).map
              (unitRun (2 ^ 22 + e.1)))
    ++ (ctxOrder s).map ctxTurn
    ++ (onDevices s (fun q => devOfDie (q.1 / 256)) s.iqs).flatMap (fun q =>
        if stopped s 6 (q.1 / 256) 0 then [] else [execBatchDelivery (q.1 / 256) (q.1 % 256)])
    ++ (onDevices s (fun p => p.handle.toNat / 2 ^ 13) (onDevices s (fun p => devOfDie p.die) s.iqPackets)).flatMap (fun p =>
        [execMarkerAcknowledgement p.id, execClosingMarker p.id, execQueueRecord p.id])

/-- The next step when none is on the agenda: one that is due; else the engines and the agents by turns, and the agents when the
engines have nothing to do. -/
noncomputable def ownStep (s : State) : Out :=
  match firstOf s (dueRuns s) with
  | some t => .next t
  | none =>
    if s.engTurn then
      match firstOf s (engineRuns s) with
      | some t => .next { t with engTurn := false }
      | none => nextTurn { s with engTurn := false }
    else nextTurn { s with engTurn := true }

end Sys2Proof.Machine
end

