-- ==== Sys2Proof/Machine/Step.lean ====
section
/-! DEFINITION. One step of the machine. -/

namespace Sys2Proof.Machine

/-- One step: the first step on the agenda, or the machine's own next one. (DESIGN CHOICE: log entry 2.) -/
noncomputable def step (s : State) : Host.Outcome State Fault Refusal :=
  match s.agenda with
  | i :: l => exec i { s with agenda := l }
  | [] => ownStep s

/-- The state with one instruction word placed where the thread of slot 0 of device 0 fetches next. (DEDUCED: log entry 3.) -/
def State.withFetchWord (s : State) (nbits w : Nat) : State := placeWord nbits w s

end Sys2Proof.Machine
end

