-- ==== Sys2Proof/Laws/Memory.lean ====
section
/-! SUPPORT. The laws of memory: a byte reads as it was written last, other bytes are left alone, and every operation keeps the
canonical form. -/

namespace Sys2Proof.Machine

theorem cellGet_insert_self (a : Nat) (b : Byte) (m : List Host.Cell) : cellGet (cellInsert a b m) a = b := by
  induction m with
  | nil => simp [cellInsert, cellGet]
  | cons c m ih =>
    obtain ⟨k, v⟩ := c
    simp only [cellInsert]
    split
    · simp [cellGet]
    · split
      · simp [cellGet]
      · rename_i h; simp [cellGet, h, ih]

theorem cellGet_insert_ne {a j : Nat} (b : Byte) (m : List Host.Cell) (h : j ≠ a) : cellGet (cellInsert a b m) j = cellGet m j := by
  induction m with
  | nil => simp [cellInsert, cellGet, h]
  | cons c m ih =>
    obtain ⟨k, v⟩ := c
    simp only [cellInsert]
    split
    · simp [cellGet, h]
    · split
      · rename_i hk; subst hk; simp [cellGet, h]
      · by_cases hj : j = k <;> simp [cellGet, hj, ih]

theorem cellGet_filter_self (a : Nat) (m : List Host.Cell) : cellGet (m.filter (fun c => c.1 != a)) a = resetByte a := by
  induction m with
  | nil => rfl
  | cons c m ih =>
    obtain ⟨k, v⟩ := c
    by_cases hk : k = a
    · subst hk; simpa using ih
    · simp [hk, cellGet, Ne.symm hk, ih]

theorem cellGet_filter_ne {a j : Nat} (m : List Host.Cell) (h : j ≠ a) :
    cellGet (m.filter (fun c => c.1 != a)) j = cellGet m j := by
  induction m with
  | nil => rfl
  | cons c m ih =>
    obtain ⟨k, v⟩ := c
    by_cases hk : k = a
    · subst hk; simp [cellGet, h, ih]
    · by_cases hj : j = k <;> simp [hk, cellGet, hj, ih]

/-- A byte reads as it was written last. -/
@[simp] theorem cellGet_set_self (a : Nat) (b : Byte) (m : List Host.Cell) : cellGet (cellSet a b m) a = b := by
  simp only [cellSet]
  split
  · rename_i h; simp [cellGet_filter_self, h]
  · exact cellGet_insert_self a b m

/-- Writing a byte leaves the others alone. -/
theorem cellGet_set_ne {a j : Nat} (b : Byte) (m : List Host.Cell) (h : j ≠ a) : cellGet (cellSet a b m) j = cellGet m j := by
  simp only [cellSet]
  split
  · exact cellGet_filter_ne m h
  · exact cellGet_insert_ne b m h

/-- A write of `n` bytes leaves every byte outside them alone. -/
theorem cellGet_write_out (m : List Host.Cell) (a n v j : Nat) (h : j < a ∨ a + n ≤ j) :
    cellGet (cellsWrite m a n v) j = cellGet m j := by
  induction n generalizing m a v with
  | zero => rfl
  | succ n ih =>
    simp only [cellsWrite]
    rw [ih _ _ _ (by omega), cellGet_set_ne _ _ (by omega)]

/-- Byte `i` of a write of `n` bytes. -/
theorem cellGet_write_in (m : List Host.Cell) (a n v i : Nat) (h : i < n) :
    cellGet (cellsWrite m a n v) (a + i) = BitVec.ofNat 8 (v / 256 ^ i) := by
  induction n generalizing m a v i with
  | zero => omega
  | succ n ih =>
    simp only [cellsWrite]
    cases i with
    | zero =>
      rw [cellGet_write_out _ _ _ _ _ (by omega)]
      simp
    | succ i =>
      have := ih (cellSet a (BitVec.ofNat 8 v) m) (a + 1) (v / 256) i (by omega)
      rw [show a + (i + 1) = a + 1 + i by omega, this, Nat.div_div_eq_div_mul, Nat.pow_succ, Nat.mul_comm]

theorem cellsRead_congr (m m' : List Host.Cell) (a n : Nat) (h : ∀ i, i < n → cellGet m (a + i) = cellGet m' (a + i)) :
    cellsRead m a n = cellsRead m' a n := by
  induction n generalizing a with
  | zero => rfl
  | succ n ih =>
    simp only [cellsRead]
    have h0 := h 0 (by omega)
    simp only [Nat.add_zero] at h0
    rw [h0, ih (a + 1) (fun i hi => by rw [show a + 1 + i = a + (i + 1) by omega]; exact h (i + 1) (by omega))]

/-- The `n` bytes just written read as the low `n` bytes of the number. -/
theorem cellsRead_write_self (m : List Host.Cell) (a n v : Nat) : cellsRead (cellsWrite m a n v) a n = v % 256 ^ n := by
  induction n generalizing m a v with
  | zero => simp [cellsRead, Nat.mod_one]
  | succ n ih =>
    simp only [cellsRead, cellsWrite]
    rw [ih, cellGet_write_out _ _ _ _ _ (by omega), cellGet_set_self, BitVec.toNat_ofNat,
      show (256 : Nat) ^ (n + 1) = 256 * 256 ^ n by rw [Nat.pow_succ, Nat.mul_comm], Nat.mod_mul]

/-- A read of bytes that a write does not touch. -/
theorem cellsRead_write_out (m : List Host.Cell) (a n v b k : Nat) (h : b + k ≤ a ∨ a + n ≤ b) :
    cellsRead (cellsWrite m a n v) b k = cellsRead m b k :=
  cellsRead_congr _ _ _ _ (fun i _ => cellGet_write_out _ _ _ _ _ (by omega))

theorem cellsRead_lt (m : List Host.Cell) (a n : Nat) : cellsRead m a n < 256 ^ n := by
  induction n generalizing a with
  | zero => simp [cellsRead]
  | succ n ih =>
    simp only [cellsRead]
    have := ih (a + 1)
    have := (cellGet m a).isLt
    rw [Nat.pow_succ]; omega

/-! ## The canonical form -/

theorem cellsFrom_mono {lo lo' : Nat} {m : List Host.Cell} (h : lo' ≤ lo) (hm : cellsFrom lo m = true) : cellsFrom lo' m = true := by
  cases m with
  | nil => rfl
  | cons c m =>
    obtain ⟨k, v⟩ := c
    simp only [cellsFrom, Bool.and_eq_true, decide_eq_true_eq] at hm ⊢
    exact ⟨⟨by omega, hm.1.2⟩, hm.2⟩

theorem cellsFrom_filter (p : Host.Cell → Bool) {lo : Nat} {m : List Host.Cell} (hm : cellsFrom lo m = true) :
    cellsFrom lo (m.filter p) = true := by
  induction m generalizing lo with
  | nil => rfl
  | cons c m ih =>
    obtain ⟨k, v⟩ := c
    simp only [cellsFrom, Bool.and_eq_true, decide_eq_true_eq] at hm
    simp only [List.filter_cons]
    split
    · simp only [cellsFrom, Bool.and_eq_true, decide_eq_true_eq]
      exact ⟨hm.1, ih hm.2⟩
    · exact cellsFrom_mono (by omega) (ih hm.2)

theorem cellsFrom_insert {lo a : Nat} {b : Byte} {m : List Host.Cell} (hb : b ≠ resetByte a) (ha : lo ≤ a)
    (hm : cellsFrom lo m = true) : cellsFrom lo (cellInsert a b m) = true := by
  induction m generalizing lo with
  | nil => simp [cellInsert, cellsFrom, ha, hb]
  | cons c m ih =>
    obtain ⟨k, v⟩ := c
    simp only [cellsFrom, Bool.and_eq_true, decide_eq_true_eq] at hm
    simp only [cellInsert]
    split
    · simp only [cellsFrom, Bool.and_eq_true, decide_eq_true_eq]
      exact ⟨⟨ha, hb⟩, ⟨by omega, hm.1.2⟩, hm.2⟩
    · split
      · rename_i hk; subst hk
        simp only [cellsFrom, Bool.and_eq_true, decide_eq_true_eq]
        exact ⟨⟨ha, hb⟩, hm.2⟩
      · simp only [cellsFrom, Bool.and_eq_true, decide_eq_true_eq]
        exact ⟨hm.1, ih (by omega) hm.2⟩

/-- Writing a byte keeps the canonical form. -/
theorem cellSet_wf (a : Nat) (b : Byte) {m : List Host.Cell} (hm : Memory.wf m = true) : Memory.wf (cellSet a b m) = true := by
  simp only [Memory.wf, cellSet] at *
  split
  · exact cellsFrom_filter _ hm
  · rename_i h; exact cellsFrom_insert h (Nat.zero_le a) hm

/-- Writing bytes keeps the canonical form. -/
theorem cellsWrite_wf (a n v : Nat) {m : List Host.Cell} (hm : Memory.wf m = true) : Memory.wf (cellsWrite m a n v) = true := by
  induction n generalizing m a v with
  | zero => exact hm
  | succ n ih => exact ih _ _ (cellSet_wf _ _ hm)

/-- Forgetting some bytes keeps the canonical form. -/
theorem filter_wf (p : Host.Cell → Bool) {m : List Host.Cell} (hm : Memory.wf m = true) : Memory.wf (m.filter p) = true :=
  cellsFrom_filter p hm

/-- Writing a list of bytes keeps the canonical form. -/
theorem foldl_cellSet_wf (l : List Host.Cell) {m : List Host.Cell} (hm : Memory.wf m = true) :
    Memory.wf (l.foldl (fun m c => cellSet c.1 c.2 m) m) = true := by
  induction l generalizing m with
  | nil => exact hm
  | cons c l ih => exact ih (cellSet_wf _ _ hm)

/-- A memory in canonical form that lists no byte reads as after reset; two memories that list the same bytes are the same. -/
theorem memory_nil_wf : Memory.wf [] = true := rfl

/-! ## The same of a state -/

/-- The bytes just written read back. -/
@[simp] theorem readMem_writeMem_self (s : State) (a n v : Nat) : readMem (writeMem s a n v) a n = v % 256 ^ n :=
  cellsRead_write_self _ _ _ _

/-- A write leaves every other byte alone. -/
theorem readByte_writeMem_out (s : State) (a n v j : Nat) (h : j < a ∨ a + n ≤ j) :
    readByte (writeMem s a n v) j = readByte s j :=
  cellGet_write_out _ _ _ _ _ h

/-- A write leaves bytes outside it alone. -/
theorem readMem_writeMem_out (s : State) (a n v b k : Nat) (h : b + k ≤ a ∨ a + n ≤ b) :
    readMem (writeMem s a n v) b k = readMem s b k :=
  cellsRead_write_out _ _ _ _ _ _ h

/-- A byte of a write. -/
theorem readByte_writeMem_in (s : State) (a n v i : Nat) (h : i < n) :
    readByte (writeMem s a n v) (a + i) = BitVec.ofNat 8 (v / 256 ^ i) :=
  cellGet_write_in _ _ _ _ _ h

/-- The stored bytes of a write read back. -/
@[simp] theorem readMem_storeMem_self (s : State) (a n v : Nat) : readMem (storeMem s a n v) a n = v % 256 ^ n :=
  cellsRead_write_self _ _ _ _

/-- A store leaves every other byte alone. -/
theorem readByte_storeMem_out (s : State) (a n v j : Nat) (h : j < a ∨ a + n ≤ j) :
    readByte (storeMem s a n v) j = readByte s j :=
  cellGet_write_out _ _ _ _ _ h

end Sys2Proof.Machine
end

