-- ==== Sys2Proof/Laws/DecodeForms.lean ====
section
/-! SUPPORT. The checked fields of the decoder, read back from what the encoder puts there, and the fields of a packed word. -/

namespace Sys2Proof

theorem fldN_eq {k n : Nat} (m : Fin k) (h : n = m.val) : fldN k n = .ok m := by subst h; simp [fldN]

theorem fldPair_eq {k n : Nat} (m : Fin k) (h : n = 2 * m.val) : fldPair k n = .ok m := by
  subst h
  have h2 : 2 * m.val / 2 = m.val := by omega
  simp [fldPair, h2]

theorem fld0_eq {n : Nat} (h : n = 0) : fld0 n = .ok () := by subst h; rfl

theorem fld1_eq {n : Nat} (h : n = 1) : fld1 n = .ok () := by subst h; rfl

theorem fldQueue_eq (q : Option (Fin 8)) : fldQueue (queueField q) = .ok q := by
  cases q with
  | none => rfl
  | some q => simp [fldQueue, queueField]

theorem queueField_lt (q : Option (Fin 8)) : queueField q < 64 := by
  cases q with
  | none => decide
  | some q => have := q.isLt; simp only [queueField]; omega

theorem fldCount_eq (n : Fin 4) : fldCount (countOf n) = .ok n := by revert n; decide

theorem countOf_lt (n : Fin 4) : countOf n < 64 := by revert n; decide

theorem ofNat_toNat {w n : Nat} (b : BitVec w) (h : n = b.toNat) : BitVec.ofNat w n = b := by subst h; simp

theorem beq_one {n : Nat} (b : Bool) (h : n = b.toNat) : (n == 1) = b := by subst h; cases b <;> rfl

theorem form1_ok {α : Type} {x0 : Except Reject α} {k : α → Instr} {v0 : α}
    (h0 : x0 = .ok v0) : form1 x0 k = .ok (k v0) := by
  subst h0; rfl

theorem form2_ok {α : Type} {β : Type} {x0 : Except Reject α} {x1 : Except Reject β} {k : α → β → Instr} {v0 : α} {v1 : β}
    (h0 : x0 = .ok v0) (h1 : x1 = .ok v1) : form2 x0 x1 k = .ok (k v0 v1) := by
  subst h0 h1; rfl

theorem form3_ok {α : Type} {β : Type} {γ : Type} {x0 : Except Reject α} {x1 : Except Reject β} {x2 : Except Reject γ} {k : α → β → γ → Instr} {v0 : α} {v1 : β} {v2 : γ}
    (h0 : x0 = .ok v0) (h1 : x1 = .ok v1) (h2 : x2 = .ok v2) : form3 x0 x1 x2 k = .ok (k v0 v1 v2) := by
  subst h0 h1 h2; rfl

theorem form4_ok {α : Type} {β : Type} {γ : Type} {δ : Type} {x0 : Except Reject α} {x1 : Except Reject β} {x2 : Except Reject γ} {x3 : Except Reject δ} {k : α → β → γ → δ → Instr} {v0 : α} {v1 : β} {v2 : γ} {v3 : δ}
    (h0 : x0 = .ok v0) (h1 : x1 = .ok v1) (h2 : x2 = .ok v2) (h3 : x3 = .ok v3) : form4 x0 x1 x2 x3 k = .ok (k v0 v1 v2 v3) := by
  subst h0 h1 h2 h3; rfl

theorem form5_ok {α : Type} {β : Type} {γ : Type} {δ : Type} {ε : Type} {x0 : Except Reject α} {x1 : Except Reject β} {x2 : Except Reject γ} {x3 : Except Reject δ} {x4 : Except Reject ε} {k : α → β → γ → δ → ε → Instr} {v0 : α} {v1 : β} {v2 : γ} {v3 : δ} {v4 : ε}
    (h0 : x0 = .ok v0) (h1 : x1 = .ok v1) (h2 : x2 = .ok v2) (h3 : x3 = .ok v3) (h4 : x4 = .ok v4) : form5 x0 x1 x2 x3 x4 k = .ok (k v0 v1 v2 v3 v4) := by
  subst h0 h1 h2 h3 h4; rfl

theorem form6_ok {α : Type} {β : Type} {γ : Type} {δ : Type} {ε : Type} {ζ : Type} {x0 : Except Reject α} {x1 : Except Reject β} {x2 : Except Reject γ} {x3 : Except Reject δ} {x4 : Except Reject ε} {x5 : Except Reject ζ} {k : α → β → γ → δ → ε → ζ → Instr} {v0 : α} {v1 : β} {v2 : γ} {v3 : δ} {v4 : ε} {v5 : ζ}
    (h0 : x0 = .ok v0) (h1 : x1 = .ok v1) (h2 : x2 = .ok v2) (h3 : x3 = .ok v3) (h4 : x4 = .ok v4) (h5 : x5 = .ok v5) : form6 x0 x1 x2 x3 x4 x5 k = .ok (k v0 v1 v2 v3 v4 v5) := by
  subst h0 h1 h2 h3 h4 h5; rfl

theorem hint_form (f : Fields) (h : ¬ (f.f1 = 0 ∧ f.f2 = 0 ∧ f.f3 = 0 ∧ f.fn = 0)) :
    decodeMajor3E f = form1 (fldN 67108864 (f.f1 * 1048576 + f.f2 * 16384 + f.f3 * 256 + f.fn)) .hint := if_neg h

/-- R44: the fields of a word packed from fields that fit. -/
theorem unpack_pack (f : Fields) (h1 : f.f1 < 64) (h2 : f.f2 < 64) (h3 : f.f3 < 64) (h4 : f.fn < 256) (h0 : f.mj < 64) :
    unpackFields (packFields f) = f := by
  obtain ⟨mj, a, b, c, d⟩ := f
  dsimp only at *
  simp only [unpackFields, packFields, Fields.mk.injEq]
  refine ⟨?_, ?_, ?_, ?_, ?_⟩ <;> omega

/-- R43: a packed word has 32 bits. -/
theorem pack_lt (f : Fields) (h0 : f.mj < 64) (h1 : f.f1 < 64) (h2 : f.f2 < 64) (h3 : f.f3 < 64) (h4 : f.fn < 256) :
    packFields f < 2 ^ 32 := by
  simp only [packFields]; omega

/-- R6, R43: four bytes in little-endian order make their word again. -/
theorem wordOfBytes_split (w : Nat) (h : w < 2 ^ 32) :
    wordOfBytes (BitVec.ofNat 8 w) (BitVec.ofNat 8 (w / 256)) (BitVec.ofNat 8 (w / 256 / 256)) (BitVec.ofNat 8 (w / 256 / 256 / 256)) = w := by
  simp only [wordOfBytes, BitVec.toNat_ofNat]; omega

end Sys2Proof
end

