-- ==== Sys2Proof/Laws/PerInstr.lean ====
section
/-! SUPPORT. The round trip of the encoding, one lemma for each instruction: the word's fields are in range, and the decoder
reads the instruction back from them. A step of the device has no word. -/

set_option Elab.async false

namespace Sys2Proof.Laws.RoundTrip

/-- The fields that encode a well-formed instruction fit their places in the word, and decode to it. -/
def Statement (i : Instr) : Prop :=
  i.wellFormed = true → ∀ f, encodeFields i = some f →
    f.mj < 64 ∧ f.f1 < 64 ∧ f.f2 < 64 ∧ f.f3 < 64 ∧ f.fn < 256 ∧ decodeFields f = .ok i

theorem add (d : Fin 32) (a : Fin 32) (b : Fin 32) : Statement (.add d a b) := by
  intro hw f hf
  obtain rfl := Option.some.inj (show some ⟨1, d.val, a.val, b.val, 0⟩ = some f from hf)
  have l_d := d.isLt
  have l_a := a.isLt
  have l_b := b.isLt
  have e0 : fldN 32 d.val = .ok d := fldN_eq d rfl
  have e1 : fldN 32 a.val = .ok a := fldN_eq a rfl
  have e2 : fldN 32 b.val = .ok b := fldN_eq b rfl
  refine ⟨Nat.le_of_ble_eq_true rfl, Nat.lt_of_lt_of_le d.isLt (by decide), Nat.lt_of_lt_of_le a.isLt (by decide), Nat.lt_of_lt_of_le b.isLt (by decide), Nat.le_of_ble_eq_true rfl, ?_⟩
  exact form3_ok (k := .add) e0 e1 e2

theorem sub (d : Fin 32) (a : Fin 32) (b : Fin 32) : Statement (.sub d a b) := by
  intro hw f hf
  obtain rfl := Option.some.inj (show some ⟨1, d.val, a.val, b.val, 1⟩ = some f from hf)
  have l_d := d.isLt
  have l_a := a.isLt
  have l_b := b.isLt
  have e0 : fldN 32 d.val = .ok d := fldN_eq d rfl
  have e1 : fldN 32 a.val = .ok a := fldN_eq a rfl
  have e2 : fldN 32 b.val = .ok b := fldN_eq b rfl
  refine ⟨Nat.le_of_ble_eq_true rfl, Nat.lt_of_lt_of_le d.isLt (by decide), Nat.lt_of_lt_of_le a.isLt (by decide), Nat.lt_of_lt_of_le b.isLt (by decide), Nat.le_of_ble_eq_true rfl, ?_⟩
  exact form3_ok (k := .sub) e0 e1 e2

theorem and (d : Fin 32) (a : Fin 32) (b : Fin 32) : Statement (.and d a b) := by
  intro hw f hf
  obtain rfl := Option.some.inj (show some ⟨1, d.val, a.val, b.val, 2⟩ = some f from hf)
  have l_d := d.isLt
  have l_a := a.isLt
  have l_b := b.isLt
  have e0 : fldN 32 d.val = .ok d := fldN_eq d rfl
  have e1 : fldN 32 a.val = .ok a := fldN_eq a rfl
  have e2 : fldN 32 b.val = .ok b := fldN_eq b rfl
  refine ⟨Nat.le_of_ble_eq_true rfl, Nat.lt_of_lt_of_le d.isLt (by decide), Nat.lt_of_lt_of_le a.isLt (by decide), Nat.lt_of_lt_of_le b.isLt (by decide), Nat.le_of_ble_eq_true rfl, ?_⟩
  exact form3_ok (k := .and) e0 e1 e2

theorem or (d : Fin 32) (a : Fin 32) (b : Fin 32) : Statement (.or d a b) := by
  intro hw f hf
  obtain rfl := Option.some.inj (show some ⟨1, d.val, a.val, b.val, 3⟩ = some f from hf)
  have l_d := d.isLt
  have l_a := a.isLt
  have l_b := b.isLt
  have e0 : fldN 32 d.val = .ok d := fldN_eq d rfl
  have e1 : fldN 32 a.val = .ok a := fldN_eq a rfl
  have e2 : fldN 32 b.val = .ok b := fldN_eq b rfl
  refine ⟨Nat.le_of_ble_eq_true rfl, Nat.lt_of_lt_of_le d.isLt (by decide), Nat.lt_of_lt_of_le a.isLt (by decide), Nat.lt_of_lt_of_le b.isLt (by decide), Nat.le_of_ble_eq_true rfl, ?_⟩
  exact form3_ok (k := .or) e0 e1 e2

theorem xor (d : Fin 32) (a : Fin 32) (b : Fin 32) : Statement (.xor d a b) := by
  intro hw f hf
  obtain rfl := Option.some.inj (show some ⟨1, d.val, a.val, b.val, 4⟩ = some f from hf)
  have l_d := d.isLt
  have l_a := a.isLt
  have l_b := b.isLt
  have e0 : fldN 32 d.val = .ok d := fldN_eq d rfl
  have e1 : fldN 32 a.val = .ok a := fldN_eq a rfl
  have e2 : fldN 32 b.val = .ok b := fldN_eq b rfl
  refine ⟨Nat.le_of_ble_eq_true rfl, Nat.lt_of_lt_of_le d.isLt (by decide), Nat.lt_of_lt_of_le a.isLt (by decide), Nat.lt_of_lt_of_le b.isLt (by decide), Nat.le_of_ble_eq_true rfl, ?_⟩
  exact form3_ok (k := .xor) e0 e1 e2

theorem andn (d : Fin 32) (a : Fin 32) (b : Fin 32) : Statement (.andn d a b) := by
  intro hw f hf
  obtain rfl := Option.some.inj (show some ⟨1, d.val, a.val, b.val, 5⟩ = some f from hf)
  have l_d := d.isLt
  have l_a := a.isLt
  have l_b := b.isLt
  have e0 : fldN 32 d.val = .ok d := fldN_eq d rfl
  have e1 : fldN 32 a.val = .ok a := fldN_eq a rfl
  have e2 : fldN 32 b.val = .ok b := fldN_eq b rfl
  refine ⟨Nat.le_of_ble_eq_true rfl, Nat.lt_of_lt_of_le d.isLt (by decide), Nat.lt_of_lt_of_le a.isLt (by decide), Nat.lt_of_lt_of_le b.isLt (by decide), Nat.le_of_ble_eq_true rfl, ?_⟩
  exact form3_ok (k := .andn) e0 e1 e2

theorem sll (d : Fin 32) (a : Fin 32) (b : Fin 32) : Statement (.sll d a b) := by
  intro hw f hf
  obtain rfl := Option.some.inj (show some ⟨1, d.val, a.val, b.val, 6⟩ = some f from hf)
  have l_d := d.isLt
  have l_a := a.isLt
  have l_b := b.isLt
  have e0 : fldN 32 d.val = .ok d := fldN_eq d rfl
  have e1 : fldN 32 a.val = .ok a := fldN_eq a rfl
  have e2 : fldN 32 b.val = .ok b := fldN_eq b rfl
  refine ⟨Nat.le_of_ble_eq_true rfl, Nat.lt_of_lt_of_le d.isLt (by decide), Nat.lt_of_lt_of_le a.isLt (by decide), Nat.lt_of_lt_of_le b.isLt (by decide), Nat.le_of_ble_eq_true rfl, ?_⟩
  exact form3_ok (k := .sll) e0 e1 e2

theorem srl (d : Fin 32) (a : Fin 32) (b : Fin 32) : Statement (.srl d a b) := by
  intro hw f hf
  obtain rfl := Option.some.inj (show some ⟨1, d.val, a.val, b.val, 7⟩ = some f from hf)
  have l_d := d.isLt
  have l_a := a.isLt
  have l_b := b.isLt
  have e0 : fldN 32 d.val = .ok d := fldN_eq d rfl
  have e1 : fldN 32 a.val = .ok a := fldN_eq a rfl
  have e2 : fldN 32 b.val = .ok b := fldN_eq b rfl
  refine ⟨Nat.le_of_ble_eq_true rfl, Nat.lt_of_lt_of_le d.isLt (by decide), Nat.lt_of_lt_of_le a.isLt (by decide), Nat.lt_of_lt_of_le b.isLt (by decide), Nat.le_of_ble_eq_true rfl, ?_⟩
  exact form3_ok (k := .srl) e0 e1 e2

theorem sra (d : Fin 32) (a : Fin 32) (b : Fin 32) : Statement (.sra d a b) := by
  intro hw f hf
  obtain rfl := Option.some.inj (show some ⟨1, d.val, a.val, b.val, 8⟩ = some f from hf)
  have l_d := d.isLt
  have l_a := a.isLt
  have l_b := b.isLt
  have e0 : fldN 32 d.val = .ok d := fldN_eq d rfl
  have e1 : fldN 32 a.val = .ok a := fldN_eq a rfl
  have e2 : fldN 32 b.val = .ok b := fldN_eq b rfl
  refine ⟨Nat.le_of_ble_eq_true rfl, Nat.lt_of_lt_of_le d.isLt (by decide), Nat.lt_of_lt_of_le a.isLt (by decide), Nat.lt_of_lt_of_le b.isLt (by decide), Nat.le_of_ble_eq_true rfl, ?_⟩
  exact form3_ok (k := .sra) e0 e1 e2

theorem ror (d : Fin 32) (a : Fin 32) (b : Fin 32) : Statement (.ror d a b) := by
  intro hw f hf
  obtain rfl := Option.some.inj (show some ⟨1, d.val, a.val, b.val, 9⟩ = some f from hf)
  have l_d := d.isLt
  have l_a := a.isLt
  have l_b := b.isLt
  have e0 : fldN 32 d.val = .ok d := fldN_eq d rfl
  have e1 : fldN 32 a.val = .ok a := fldN_eq a rfl
  have e2 : fldN 32 b.val = .ok b := fldN_eq b rfl
  refine ⟨Nat.le_of_ble_eq_true rfl, Nat.lt_of_lt_of_le d.isLt (by decide), Nat.lt_of_lt_of_le a.isLt (by decide), Nat.lt_of_lt_of_le b.isLt (by decide), Nat.le_of_ble_eq_true rfl, ?_⟩
  exact form3_ok (k := .ror) e0 e1 e2

theorem sltI64 (d : Fin 32) (a : Fin 32) (b : Fin 32) : Statement (.sltI64 d a b) := by
  intro hw f hf
  obtain rfl := Option.some.inj (show some ⟨1, d.val, a.val, b.val, 10⟩ = some f from hf)
  have l_d := d.isLt
  have l_a := a.isLt
  have l_b := b.isLt
  have e0 : fldN 32 d.val = .ok d := fldN_eq d rfl
  have e1 : fldN 32 a.val = .ok a := fldN_eq a rfl
  have e2 : fldN 32 b.val = .ok b := fldN_eq b rfl
  refine ⟨Nat.le_of_ble_eq_true rfl, Nat.lt_of_lt_of_le d.isLt (by decide), Nat.lt_of_lt_of_le a.isLt (by decide), Nat.lt_of_lt_of_le b.isLt (by decide), Nat.le_of_ble_eq_true rfl, ?_⟩
  exact form3_ok (k := .sltI64) e0 e1 e2

theorem sltN64 (d : Fin 32) (a : Fin 32) (b : Fin 32) : Statement (.sltN64 d a b) := by
  intro hw f hf
  obtain rfl := Option.some.inj (show some ⟨1, d.val, a.val, b.val, 11⟩ = some f from hf)
  have l_d := d.isLt
  have l_a := a.isLt
  have l_b := b.isLt
  have e0 : fldN 32 d.val = .ok d := fldN_eq d rfl
  have e1 : fldN 32 a.val = .ok a := fldN_eq a rfl
  have e2 : fldN 32 b.val = .ok b := fldN_eq b rfl
  refine ⟨Nat.le_of_ble_eq_true rfl, Nat.lt_of_lt_of_le d.isLt (by decide), Nat.lt_of_lt_of_le a.isLt (by decide), Nat.lt_of_lt_of_le b.isLt (by decide), Nat.le_of_ble_eq_true rfl, ?_⟩
  exact form3_ok (k := .sltN64) e0 e1 e2

theorem minI64 (d : Fin 32) (a : Fin 32) (b : Fin 32) : Statement (.minI64 d a b) := by
  intro hw f hf
  obtain rfl := Option.some.inj (show some ⟨1, d.val, a.val, b.val, 12⟩ = some f from hf)
  have l_d := d.isLt
  have l_a := a.isLt
  have l_b := b.isLt
  have e0 : fldN 32 d.val = .ok d := fldN_eq d rfl
  have e1 : fldN 32 a.val = .ok a := fldN_eq a rfl
  have e2 : fldN 32 b.val = .ok b := fldN_eq b rfl
  refine ⟨Nat.le_of_ble_eq_true rfl, Nat.lt_of_lt_of_le d.isLt (by decide), Nat.lt_of_lt_of_le a.isLt (by decide), Nat.lt_of_lt_of_le b.isLt (by decide), Nat.le_of_ble_eq_true rfl, ?_⟩
  exact form3_ok (k := .minI64) e0 e1 e2

theorem minN64 (d : Fin 32) (a : Fin 32) (b : Fin 32) : Statement (.minN64 d a b) := by
  intro hw f hf
  obtain rfl := Option.some.inj (show some ⟨1, d.val, a.val, b.val, 13⟩ = some f from hf)
  have l_d := d.isLt
  have l_a := a.isLt
  have l_b := b.isLt
  have e0 : fldN 32 d.val = .ok d := fldN_eq d rfl
  have e1 : fldN 32 a.val = .ok a := fldN_eq a rfl
  have e2 : fldN 32 b.val = .ok b := fldN_eq b rfl
  refine ⟨Nat.le_of_ble_eq_true rfl, Nat.lt_of_lt_of_le d.isLt (by decide), Nat.lt_of_lt_of_le a.isLt (by decide), Nat.lt_of_lt_of_le b.isLt (by decide), Nat.le_of_ble_eq_true rfl, ?_⟩
  exact form3_ok (k := .minN64) e0 e1 e2

theorem maxI64 (d : Fin 32) (a : Fin 32) (b : Fin 32) : Statement (.maxI64 d a b) := by
  intro hw f hf
  obtain rfl := Option.some.inj (show some ⟨1, d.val, a.val, b.val, 14⟩ = some f from hf)
  have l_d := d.isLt
  have l_a := a.isLt
  have l_b := b.isLt
  have e0 : fldN 32 d.val = .ok d := fldN_eq d rfl
  have e1 : fldN 32 a.val = .ok a := fldN_eq a rfl
  have e2 : fldN 32 b.val = .ok b := fldN_eq b rfl
  refine ⟨Nat.le_of_ble_eq_true rfl, Nat.lt_of_lt_of_le d.isLt (by decide), Nat.lt_of_lt_of_le a.isLt (by decide), Nat.lt_of_lt_of_le b.isLt (by decide), Nat.le_of_ble_eq_true rfl, ?_⟩
  exact form3_ok (k := .maxI64) e0 e1 e2

theorem maxN64 (d : Fin 32) (a : Fin 32) (b : Fin 32) : Statement (.maxN64 d a b) := by
  intro hw f hf
  obtain rfl := Option.some.inj (show some ⟨1, d.val, a.val, b.val, 15⟩ = some f from hf)
  have l_d := d.isLt
  have l_a := a.isLt
  have l_b := b.isLt
  have e0 : fldN 32 d.val = .ok d := fldN_eq d rfl
  have e1 : fldN 32 a.val = .ok a := fldN_eq a rfl
  have e2 : fldN 32 b.val = .ok b := fldN_eq b rfl
  refine ⟨Nat.le_of_ble_eq_true rfl, Nat.lt_of_lt_of_le d.isLt (by decide), Nat.lt_of_lt_of_le a.isLt (by decide), Nat.lt_of_lt_of_le b.isLt (by decide), Nat.le_of_ble_eq_true rfl, ?_⟩
  exact form3_ok (k := .maxN64) e0 e1 e2

theorem clz (d : Fin 32) (a : Fin 32) : Statement (.clz d a) := by
  intro hw f hf
  obtain rfl := Option.some.inj (show some ⟨1, d.val, a.val, 0, 16⟩ = some f from hf)
  have l_d := d.isLt
  have l_a := a.isLt
  have e0 : fldN 32 d.val = .ok d := fldN_eq d rfl
  have e1 : fldN 32 a.val = .ok a := fldN_eq a rfl
  have e2 : fld0 0 = .ok () := rfl
  refine ⟨Nat.le_of_ble_eq_true rfl, Nat.lt_of_lt_of_le d.isLt (by decide), Nat.lt_of_lt_of_le a.isLt (by decide), Nat.le_of_ble_eq_true rfl, Nat.le_of_ble_eq_true rfl, ?_⟩
  exact form3_ok (k := (fun d a _ => .clz d a)) e0 e1 e2

theorem ctz (d : Fin 32) (a : Fin 32) : Statement (.ctz d a) := by
  intro hw f hf
  obtain rfl := Option.some.inj (show some ⟨1, d.val, a.val, 0, 17⟩ = some f from hf)
  have l_d := d.isLt
  have l_a := a.isLt
  have e0 : fldN 32 d.val = .ok d := fldN_eq d rfl
  have e1 : fldN 32 a.val = .ok a := fldN_eq a rfl
  have e2 : fld0 0 = .ok () := rfl
  refine ⟨Nat.le_of_ble_eq_true rfl, Nat.lt_of_lt_of_le d.isLt (by decide), Nat.lt_of_lt_of_le a.isLt (by decide), Nat.le_of_ble_eq_true rfl, Nat.le_of_ble_eq_true rfl, ?_⟩
  exact form3_ok (k := (fun d a _ => .ctz d a)) e0 e1 e2

theorem popc (d : Fin 32) (a : Fin 32) : Statement (.popc d a) := by
  intro hw f hf
  obtain rfl := Option.some.inj (show some ⟨1, d.val, a.val, 0, 18⟩ = some f from hf)
  have l_d := d.isLt
  have l_a := a.isLt
  have e0 : fldN 32 d.val = .ok d := fldN_eq d rfl
  have e1 : fldN 32 a.val = .ok a := fldN_eq a rfl
  have e2 : fld0 0 = .ok () := rfl
  refine ⟨Nat.le_of_ble_eq_true rfl, Nat.lt_of_lt_of_le d.isLt (by decide), Nat.lt_of_lt_of_le a.isLt (by decide), Nat.le_of_ble_eq_true rfl, Nat.le_of_ble_eq_true rfl, ?_⟩
  exact form3_ok (k := (fun d a _ => .popc d a)) e0 e1 e2

theorem jalr (d : Fin 32) (a : Fin 32) : Statement (.jalr d a) := by
  intro hw f hf
  obtain rfl := Option.some.inj (show some ⟨1, d.val, a.val, 0, 24⟩ = some f from hf)
  have l_d := d.isLt
  have l_a := a.isLt
  have e0 : fldN 32 d.val = .ok d := fldN_eq d rfl
  have e1 : fldN 32 a.val = .ok a := fldN_eq a rfl
  have e2 : fld0 0 = .ok () := rfl
  refine ⟨Nat.le_of_ble_eq_true rfl, Nat.lt_of_lt_of_le d.isLt (by decide), Nat.lt_of_lt_of_le a.isLt (by decide), Nat.le_of_ble_eq_true rfl, Nat.le_of_ble_eq_true rfl, ?_⟩
  exact form3_ok (k := (fun d a _ => .jalr d a)) e0 e1 e2

theorem lidx (d : Fin 32) (k : Fin 6) : Statement (.lidx d k) := by
  intro hw f hf
  obtain rfl := Option.some.inj (show some ⟨1, d.val, k.val, 0, 32⟩ = some f from hf)
  have l_d := d.isLt
  have l_k := k.isLt
  have e0 : fldN 32 d.val = .ok d := fldN_eq d rfl
  have e1 : fldN 6 k.val = .ok k := fldN_eq k rfl
  have e2 : fld0 0 = .ok () := rfl
  refine ⟨Nat.le_of_ble_eq_true rfl, Nat.lt_of_lt_of_le d.isLt (by decide), Nat.lt_of_lt_of_le k.isLt (by decide), Nat.le_of_ble_eq_true rfl, Nat.le_of_ble_eq_true rfl, ?_⟩
  exact form3_ok (k := (fun d k _ => .lidx d k)) e0 e1 e2

theorem lbrk (k : Fin 6) : Statement (.lbrk k) := by
  intro hw f hf
  obtain rfl := Option.some.inj (show some ⟨1, 0, k.val, 0, 33⟩ = some f from hf)
  have l_k := k.isLt
  have e0 : fld0 0 = .ok () := rfl
  have e1 : fldN 6 k.val = .ok k := fldN_eq k rfl
  have e2 : fld0 0 = .ok () := rfl
  refine ⟨Nat.le_of_ble_eq_true rfl, Nat.le_of_ble_eq_true rfl, Nat.lt_of_lt_of_le k.isLt (by decide), Nat.le_of_ble_eq_true rfl, Nat.le_of_ble_eq_true rfl, ?_⟩
  exact form3_ok (k := (fun _ k _ => .lbrk k)) e0 e1 e2

theorem addi (d : Fin 32) (a : Fin 32) (imm : BitVec 14) : Statement (.addi d a imm) := by
  intro hw f hf
  obtain rfl := Option.some.inj (show some ⟨2, d.val, a.val, (imm.toNat / 256), (imm.toNat % 256)⟩ = some f from hf)
  have l_d := d.isLt
  have l_a := a.isLt
  have l_imm := imm.isLt
  have e0 : fldN 32 d.val = .ok d := fldN_eq d rfl
  have e1 : fldN 32 a.val = .ok a := fldN_eq a rfl
  have e2 : (.ok (BitVec.ofNat 14 ((imm.toNat / 256) * 256 + (imm.toNat % 256))) : Except Reject _) = .ok imm := congrArg _ (ofNat_toNat imm (by omega))
  refine ⟨Nat.le_of_ble_eq_true rfl, Nat.lt_of_lt_of_le d.isLt (by decide), Nat.lt_of_lt_of_le a.isLt (by decide), by dsimp only; omega, by dsimp only; omega, ?_⟩
  exact form3_ok (k := .addi) e0 e1 e2

theorem andi (d : Fin 32) (a : Fin 32) (imm : BitVec 11) : Statement (.andi d a imm) := by
  intro hw f hf
  obtain rfl := Option.some.inj (show some ⟨3, d.val, a.val, (0 + imm.toNat / 256), (imm.toNat % 256)⟩ = some f from hf)
  have l_d := d.isLt
  have l_a := a.isLt
  have l_imm := imm.isLt
  have h0 : (0 + imm.toNat / 256) / 8 = 0 := by omega
  have e0 : fldN 32 d.val = .ok d := fldN_eq d rfl
  have e1 : fldN 32 a.val = .ok a := fldN_eq a rfl
  have e2 : (.ok (BitVec.ofNat 11 ((0 + imm.toNat / 256) % 8 * 256 + (imm.toNat % 256))) : Except Reject _) = .ok imm := congrArg _ (ofNat_toNat imm (by omega))
  refine ⟨Nat.le_of_ble_eq_true rfl, Nat.lt_of_lt_of_le d.isLt (by decide), Nat.lt_of_lt_of_le a.isLt (by decide), by dsimp only; omega, by dsimp only; omega, ?_⟩
  have hm : decodeMajor03 ⟨3, d.val, a.val, (0 + imm.toNat / 256), (imm.toNat % 256)⟩ = form3 (fldN 32 d.val) (fldN 32 a.val) (.ok (BitVec.ofNat 11 ((0 + imm.toNat / 256) % 8 * 256 + (imm.toNat % 256)))) .andi := by
    unfold decodeMajor03; dsimp only; rw [h0]; try rfl
  exact hm.trans (form3_ok (k := .andi) e0 e1 e2)

theorem ori (d : Fin 32) (a : Fin 32) (imm : BitVec 11) : Statement (.ori d a imm) := by
  intro hw f hf
  obtain rfl := Option.some.inj (show some ⟨3, d.val, a.val, (8 + imm.toNat / 256), (imm.toNat % 256)⟩ = some f from hf)
  have l_d := d.isLt
  have l_a := a.isLt
  have l_imm := imm.isLt
  have h0 : (8 + imm.toNat / 256) / 8 = 1 := by omega
  have e0 : fldN 32 d.val = .ok d := fldN_eq d rfl
  have e1 : fldN 32 a.val = .ok a := fldN_eq a rfl
  have e2 : (.ok (BitVec.ofNat 11 ((8 + imm.toNat / 256) % 8 * 256 + (imm.toNat % 256))) : Except Reject _) = .ok imm := congrArg _ (ofNat_toNat imm (by omega))
  refine ⟨Nat.le_of_ble_eq_true rfl, Nat.lt_of_lt_of_le d.isLt (by decide), Nat.lt_of_lt_of_le a.isLt (by decide), by dsimp only; omega, by dsimp only; omega, ?_⟩
  have hm : decodeMajor03 ⟨3, d.val, a.val, (8 + imm.toNat / 256), (imm.toNat % 256)⟩ = form3 (fldN 32 d.val) (fldN 32 a.val) (.ok (BitVec.ofNat 11 ((8 + imm.toNat / 256) % 8 * 256 + (imm.toNat % 256)))) .ori := by
    unfold decodeMajor03; dsimp only; rw [h0]; try rfl
  exact hm.trans (form3_ok (k := .ori) e0 e1 e2)

theorem xori (d : Fin 32) (a : Fin 32) (imm : BitVec 11) : Statement (.xori d a imm) := by
  intro hw f hf
  obtain rfl := Option.some.inj (show some ⟨3, d.val, a.val, (16 + imm.toNat / 256), (imm.toNat % 256)⟩ = some f from hf)
  have l_d := d.isLt
  have l_a := a.isLt
  have l_imm := imm.isLt
  have h0 : (16 + imm.toNat / 256) / 8 = 2 := by omega
  have e0 : fldN 32 d.val = .ok d := fldN_eq d rfl
  have e1 : fldN 32 a.val = .ok a := fldN_eq a rfl
  have e2 : (.ok (BitVec.ofNat 11 ((16 + imm.toNat / 256) % 8 * 256 + (imm.toNat % 256))) : Except Reject _) = .ok imm := congrArg _ (ofNat_toNat imm (by omega))
  refine ⟨Nat.le_of_ble_eq_true rfl, Nat.lt_of_lt_of_le d.isLt (by decide), Nat.lt_of_lt_of_le a.isLt (by decide), by dsimp only; omega, by dsimp only; omega, ?_⟩
  have hm : decodeMajor03 ⟨3, d.val, a.val, (16 + imm.toNat / 256), (imm.toNat % 256)⟩ = form3 (fldN 32 d.val) (fldN 32 a.val) (.ok (BitVec.ofNat 11 ((16 + imm.toNat / 256) % 8 * 256 + (imm.toNat % 256)))) .xori := by
    unfold decodeMajor03; dsimp only; rw [h0]; try rfl
  exact hm.trans (form3_ok (k := .xori) e0 e1 e2)

theorem sltiI64 (d : Fin 32) (a : Fin 32) (imm : BitVec 11) : Statement (.sltiI64 d a imm) := by
  intro hw f hf
  obtain rfl := Option.some.inj (show some ⟨3, d.val, a.val, (24 + imm.toNat / 256), (imm.toNat % 256)⟩ = some f from hf)
  have l_d := d.isLt
  have l_a := a.isLt
  have l_imm := imm.isLt
  have h0 : (24 + imm.toNat / 256) / 8 = 3 := by omega
  have e0 : fldN 32 d.val = .ok d := fldN_eq d rfl
  have e1 : fldN 32 a.val = .ok a := fldN_eq a rfl
  have e2 : (.ok (BitVec.ofNat 11 ((24 + imm.toNat / 256) % 8 * 256 + (imm.toNat % 256))) : Except Reject _) = .ok imm := congrArg _ (ofNat_toNat imm (by omega))
  refine ⟨Nat.le_of_ble_eq_true rfl, Nat.lt_of_lt_of_le d.isLt (by decide), Nat.lt_of_lt_of_le a.isLt (by decide), by dsimp only; omega, by dsimp only; omega, ?_⟩
  have hm : decodeMajor03 ⟨3, d.val, a.val, (24 + imm.toNat / 256), (imm.toNat % 256)⟩ = form3 (fldN 32 d.val) (fldN 32 a.val) (.ok (BitVec.ofNat 11 ((24 + imm.toNat / 256) % 8 * 256 + (imm.toNat % 256)))) .sltiI64 := by
    unfold decodeMajor03; dsimp only; rw [h0]; try rfl
  exact hm.trans (form3_ok (k := .sltiI64) e0 e1 e2)

theorem sltiN64 (d : Fin 32) (a : Fin 32) (imm : BitVec 11) : Statement (.sltiN64 d a imm) := by
  intro hw f hf
  obtain rfl := Option.some.inj (show some ⟨3, d.val, a.val, (32 + imm.toNat / 256), (imm.toNat % 256)⟩ = some f from hf)
  have l_d := d.isLt
  have l_a := a.isLt
  have l_imm := imm.isLt
  have h0 : (32 + imm.toNat / 256) / 8 = 4 := by omega
  have e0 : fldN 32 d.val = .ok d := fldN_eq d rfl
  have e1 : fldN 32 a.val = .ok a := fldN_eq a rfl
  have e2 : (.ok (BitVec.ofNat 11 ((32 + imm.toNat / 256) % 8 * 256 + (imm.toNat % 256))) : Except Reject _) = .ok imm := congrArg _ (ofNat_toNat imm (by omega))
  refine ⟨Nat.le_of_ble_eq_true rfl, Nat.lt_of_lt_of_le d.isLt (by decide), Nat.lt_of_lt_of_le a.isLt (by decide), by dsimp only; omega, by dsimp only; omega, ?_⟩
  have hm : decodeMajor03 ⟨3, d.val, a.val, (32 + imm.toNat / 256), (imm.toNat % 256)⟩ = form3 (fldN 32 d.val) (fldN 32 a.val) (.ok (BitVec.ofNat 11 ((32 + imm.toNat / 256) % 8 * 256 + (imm.toNat % 256)))) .sltiN64 := by
    unfold decodeMajor03; dsimp only; rw [h0]; try rfl
  exact hm.trans (form3_ok (k := .sltiN64) e0 e1 e2)

theorem slli (d : Fin 32) (a : Fin 32) (sh : Fin 64) : Statement (.slli d a sh) := by
  intro hw f hf
  obtain rfl := Option.some.inj (show some ⟨3, d.val, a.val, 40, sh.val⟩ = some f from hf)
  have l_d := d.isLt
  have l_a := a.isLt
  have l_sh := sh.isLt
  have h0 : 40 / 8 = 5 := by omega
  have e0 : fldN 32 d.val = .ok d := fldN_eq d rfl
  have e1 : fldN 32 a.val = .ok a := fldN_eq a rfl
  have e2 : fld0 (40 % 8) = .ok () := fld0_eq (by omega)
  have e3 : fldN 64 sh.val = .ok sh := fldN_eq sh rfl
  refine ⟨Nat.le_of_ble_eq_true rfl, Nat.lt_of_lt_of_le d.isLt (by decide), Nat.lt_of_lt_of_le a.isLt (by decide), Nat.le_of_ble_eq_true rfl, Nat.lt_of_lt_of_le sh.isLt (by decide), ?_⟩
  have hm : decodeMajor03 ⟨3, d.val, a.val, 40, sh.val⟩ = form4 (fldN 32 d.val) (fldN 32 a.val) (fld0 (40 % 8)) (fldN 64 sh.val) (fun d a _ sh => .slli d a sh) := by
    unfold decodeMajor03; dsimp only; rw [h0]; try rfl
  exact hm.trans (form4_ok (k := (fun d a _ sh => .slli d a sh)) e0 e1 e2 e3)

theorem srli (d : Fin 32) (a : Fin 32) (sh : Fin 64) : Statement (.srli d a sh) := by
  intro hw f hf
  obtain rfl := Option.some.inj (show some ⟨3, d.val, a.val, 48, sh.val⟩ = some f from hf)
  have l_d := d.isLt
  have l_a := a.isLt
  have l_sh := sh.isLt
  have h0 : 48 / 8 = 6 := by omega
  have e0 : fldN 32 d.val = .ok d := fldN_eq d rfl
  have e1 : fldN 32 a.val = .ok a := fldN_eq a rfl
  have e2 : fld0 (48 % 8) = .ok () := fld0_eq (by omega)
  have e3 : fldN 64 sh.val = .ok sh := fldN_eq sh rfl
  refine ⟨Nat.le_of_ble_eq_true rfl, Nat.lt_of_lt_of_le d.isLt (by decide), Nat.lt_of_lt_of_le a.isLt (by decide), Nat.le_of_ble_eq_true rfl, Nat.lt_of_lt_of_le sh.isLt (by decide), ?_⟩
  have hm : decodeMajor03 ⟨3, d.val, a.val, 48, sh.val⟩ = form4 (fldN 32 d.val) (fldN 32 a.val) (fld0 (48 % 8)) (fldN 64 sh.val) (fun d a _ sh => .srli d a sh) := by
    unfold decodeMajor03; dsimp only; rw [h0]; try rfl
  exact hm.trans (form4_ok (k := (fun d a _ sh => .srli d a sh)) e0 e1 e2 e3)

theorem srai (d : Fin 32) (a : Fin 32) (sh : Fin 64) : Statement (.srai d a sh) := by
  intro hw f hf
  obtain rfl := Option.some.inj (show some ⟨3, d.val, a.val, 56, sh.val⟩ = some f from hf)
  have l_d := d.isLt
  have l_a := a.isLt
  have l_sh := sh.isLt
  have h0 : 56 / 8 = 7 := by omega
  have e0 : fldN 32 d.val = .ok d := fldN_eq d rfl
  have e1 : fldN 32 a.val = .ok a := fldN_eq a rfl
  have e2 : fld0 (56 % 8) = .ok () := fld0_eq (by omega)
  have e3 : fldN 64 sh.val = .ok sh := fldN_eq sh rfl
  refine ⟨Nat.le_of_ble_eq_true rfl, Nat.lt_of_lt_of_le d.isLt (by decide), Nat.lt_of_lt_of_le a.isLt (by decide), Nat.le_of_ble_eq_true rfl, Nat.lt_of_lt_of_le sh.isLt (by decide), ?_⟩
  have hm : decodeMajor03 ⟨3, d.val, a.val, 56, sh.val⟩ = form4 (fldN 32 d.val) (fldN 32 a.val) (fld0 (56 % 8)) (fldN 64 sh.val) (fun d a _ sh => .srai d a sh) := by
    unfold decodeMajor03; dsimp only; rw [h0]; try rfl
  exact hm.trans (form4_ok (k := (fun d a _ sh => .srai d a sh)) e0 e1 e2 e3)

theorem lui (d : Fin 32) (imm : BitVec 20) : Statement (.lui d imm) := by
  intro hw f hf
  obtain rfl := Option.some.inj (show some ⟨4, d.val, (imm.toNat / 16384), (imm.toNat / 256 % 64), (imm.toNat % 256)⟩ = some f from hf)
  have l_d := d.isLt
  have l_imm := imm.isLt
  have e0 : fldN 32 d.val = .ok d := fldN_eq d rfl
  have e1 : (.ok (BitVec.ofNat 20 ((imm.toNat / 16384) * 16384 + (imm.toNat / 256 % 64) * 256 + (imm.toNat % 256))) : Except Reject _) = .ok imm := congrArg _ (ofNat_toNat imm (by omega))
  refine ⟨Nat.le_of_ble_eq_true rfl, Nat.lt_of_lt_of_le d.isLt (by decide), by dsimp only; omega, by dsimp only; omega, by dsimp only; omega, ?_⟩
  exact form2_ok (k := .lui) e0 e1

theorem apc (d : Fin 32) (imm : BitVec 20) : Statement (.apc d imm) := by
  intro hw f hf
  obtain rfl := Option.some.inj (show some ⟨5, d.val, (imm.toNat / 16384), (imm.toNat / 256 % 64), (imm.toNat % 256)⟩ = some f from hf)
  have l_d := d.isLt
  have l_imm := imm.isLt
  have e0 : fldN 32 d.val = .ok d := fldN_eq d rfl
  have e1 : (.ok (BitVec.ofNat 20 ((imm.toNat / 16384) * 16384 + (imm.toNat / 256 % 64) * 256 + (imm.toNat % 256))) : Except Reject _) = .ok imm := congrArg _ (ofNat_toNat imm (by omega))
  refine ⟨Nat.le_of_ble_eq_true rfl, Nat.lt_of_lt_of_le d.isLt (by decide), by dsimp only; omega, by dsimp only; omega, by dsimp only; omega, ?_⟩
  exact form2_ok (k := .apc) e0 e1

theorem mul (d : Fin 32) (a : Fin 32) (b : Fin 32) : Statement (.mul d a b) := by
  intro hw f hf
  obtain rfl := Option.some.inj (show some ⟨6, d.val, a.val, b.val, 0⟩ = some f from hf)
  have l_d := d.isLt
  have l_a := a.isLt
  have l_b := b.isLt
  have e0 : fldN 32 d.val = .ok d := fldN_eq d rfl
  have e1 : fldN 32 a.val = .ok a := fldN_eq a rfl
  have e2 : fldN 32 b.val = .ok b := fldN_eq b rfl
  refine ⟨Nat.le_of_ble_eq_true rfl, Nat.lt_of_lt_of_le d.isLt (by decide), Nat.lt_of_lt_of_le a.isLt (by decide), Nat.lt_of_lt_of_le b.isLt (by decide), Nat.le_of_ble_eq_true rfl, ?_⟩
  exact form3_ok (k := .mul) e0 e1 e2

theorem mulhI64 (d : Fin 32) (a : Fin 32) (b : Fin 32) : Statement (.mulhI64 d a b) := by
  intro hw f hf
  obtain rfl := Option.some.inj (show some ⟨6, d.val, a.val, b.val, 1⟩ = some f from hf)
  have l_d := d.isLt
  have l_a := a.isLt
  have l_b := b.isLt
  have e0 : fldN 32 d.val = .ok d := fldN_eq d rfl
  have e1 : fldN 32 a.val = .ok a := fldN_eq a rfl
  have e2 : fldN 32 b.val = .ok b := fldN_eq b rfl
  refine ⟨Nat.le_of_ble_eq_true rfl, Nat.lt_of_lt_of_le d.isLt (by decide), Nat.lt_of_lt_of_le a.isLt (by decide), Nat.lt_of_lt_of_le b.isLt (by decide), Nat.le_of_ble_eq_true rfl, ?_⟩
  exact form3_ok (k := .mulhI64) e0 e1 e2

theorem mulhN64 (d : Fin 32) (a : Fin 32) (b : Fin 32) : Statement (.mulhN64 d a b) := by
  intro hw f hf
  obtain rfl := Option.some.inj (show some ⟨6, d.val, a.val, b.val, 2⟩ = some f from hf)
  have l_d := d.isLt
  have l_a := a.isLt
  have l_b := b.isLt
  have e0 : fldN 32 d.val = .ok d := fldN_eq d rfl
  have e1 : fldN 32 a.val = .ok a := fldN_eq a rfl
  have e2 : fldN 32 b.val = .ok b := fldN_eq b rfl
  refine ⟨Nat.le_of_ble_eq_true rfl, Nat.lt_of_lt_of_le d.isLt (by decide), Nat.lt_of_lt_of_le a.isLt (by decide), Nat.lt_of_lt_of_le b.isLt (by decide), Nat.le_of_ble_eq_true rfl, ?_⟩
  exact form3_ok (k := .mulhN64) e0 e1 e2

theorem divI64 (d : Fin 32) (a : Fin 32) (b : Fin 32) : Statement (.divI64 d a b) := by
  intro hw f hf
  obtain rfl := Option.some.inj (show some ⟨6, d.val, a.val, b.val, 3⟩ = some f from hf)
  have l_d := d.isLt
  have l_a := a.isLt
  have l_b := b.isLt
  have e0 : fldN 32 d.val = .ok d := fldN_eq d rfl
  have e1 : fldN 32 a.val = .ok a := fldN_eq a rfl
  have e2 : fldN 32 b.val = .ok b := fldN_eq b rfl
  refine ⟨Nat.le_of_ble_eq_true rfl, Nat.lt_of_lt_of_le d.isLt (by decide), Nat.lt_of_lt_of_le a.isLt (by decide), Nat.lt_of_lt_of_le b.isLt (by decide), Nat.le_of_ble_eq_true rfl, ?_⟩
  exact form3_ok (k := .divI64) e0 e1 e2

theorem divN64 (d : Fin 32) (a : Fin 32) (b : Fin 32) : Statement (.divN64 d a b) := by
  intro hw f hf
  obtain rfl := Option.some.inj (show some ⟨6, d.val, a.val, b.val, 4⟩ = some f from hf)
  have l_d := d.isLt
  have l_a := a.isLt
  have l_b := b.isLt
  have e0 : fldN 32 d.val = .ok d := fldN_eq d rfl
  have e1 : fldN 32 a.val = .ok a := fldN_eq a rfl
  have e2 : fldN 32 b.val = .ok b := fldN_eq b rfl
  refine ⟨Nat.le_of_ble_eq_true rfl, Nat.lt_of_lt_of_le d.isLt (by decide), Nat.lt_of_lt_of_le a.isLt (by decide), Nat.lt_of_lt_of_le b.isLt (by decide), Nat.le_of_ble_eq_true rfl, ?_⟩
  exact form3_ok (k := .divN64) e0 e1 e2

theorem remI64 (d : Fin 32) (a : Fin 32) (b : Fin 32) : Statement (.remI64 d a b) := by
  intro hw f hf
  obtain rfl := Option.some.inj (show some ⟨6, d.val, a.val, b.val, 5⟩ = some f from hf)
  have l_d := d.isLt
  have l_a := a.isLt
  have l_b := b.isLt
  have e0 : fldN 32 d.val = .ok d := fldN_eq d rfl
  have e1 : fldN 32 a.val = .ok a := fldN_eq a rfl
  have e2 : fldN 32 b.val = .ok b := fldN_eq b rfl
  refine ⟨Nat.le_of_ble_eq_true rfl, Nat.lt_of_lt_of_le d.isLt (by decide), Nat.lt_of_lt_of_le a.isLt (by decide), Nat.lt_of_lt_of_le b.isLt (by decide), Nat.le_of_ble_eq_true rfl, ?_⟩
  exact form3_ok (k := .remI64) e0 e1 e2

theorem remN64 (d : Fin 32) (a : Fin 32) (b : Fin 32) : Statement (.remN64 d a b) := by
  intro hw f hf
  obtain rfl := Option.some.inj (show some ⟨6, d.val, a.val, b.val, 6⟩ = some f from hf)
  have l_d := d.isLt
  have l_a := a.isLt
  have l_b := b.isLt
  have e0 : fldN 32 d.val = .ok d := fldN_eq d rfl
  have e1 : fldN 32 a.val = .ok a := fldN_eq a rfl
  have e2 : fldN 32 b.val = .ok b := fldN_eq b rfl
  refine ⟨Nat.le_of_ble_eq_true rfl, Nat.lt_of_lt_of_le d.isLt (by decide), Nat.lt_of_lt_of_le a.isLt (by decide), Nat.lt_of_lt_of_le b.isLt (by decide), Nat.le_of_ble_eq_true rfl, ?_⟩
  exact form3_ok (k := .remN64) e0 e1 e2

theorem mulI32 (d : Fin 32) (a : Fin 32) (b : Fin 32) : Statement (.mulI32 d a b) := by
  intro hw f hf
  obtain rfl := Option.some.inj (show some ⟨6, d.val, a.val, b.val, 7⟩ = some f from hf)
  have l_d := d.isLt
  have l_a := a.isLt
  have l_b := b.isLt
  have e0 : fldN 32 d.val = .ok d := fldN_eq d rfl
  have e1 : fldN 32 a.val = .ok a := fldN_eq a rfl
  have e2 : fldN 32 b.val = .ok b := fldN_eq b rfl
  refine ⟨Nat.le_of_ble_eq_true rfl, Nat.lt_of_lt_of_le d.isLt (by decide), Nat.lt_of_lt_of_le a.isLt (by decide), Nat.lt_of_lt_of_le b.isLt (by decide), Nat.le_of_ble_eq_true rfl, ?_⟩
  exact form3_ok (k := .mulI32) e0 e1 e2

theorem bfxN64 (d : Fin 32) (a : Fin 32) (b : Fin 32) : Statement (.bfxN64 d a b) := by
  intro hw f hf
  obtain rfl := Option.some.inj (show some ⟨7, d.val, a.val, b.val, 0⟩ = some f from hf)
  have l_d := d.isLt
  have l_a := a.isLt
  have l_b := b.isLt
  have e0 : fldN 32 d.val = .ok d := fldN_eq d rfl
  have e1 : fldN 32 a.val = .ok a := fldN_eq a rfl
  have e2 : fldN 32 b.val = .ok b := fldN_eq b rfl
  refine ⟨Nat.le_of_ble_eq_true rfl, Nat.lt_of_lt_of_le d.isLt (by decide), Nat.lt_of_lt_of_le a.isLt (by decide), Nat.lt_of_lt_of_le b.isLt (by decide), Nat.le_of_ble_eq_true rfl, ?_⟩
  exact form3_ok (k := .bfxN64) e0 e1 e2

theorem bfxI64 (d : Fin 32) (a : Fin 32) (b : Fin 32) : Statement (.bfxI64 d a b) := by
  intro hw f hf
  obtain rfl := Option.some.inj (show some ⟨7, d.val, a.val, b.val, 1⟩ = some f from hf)
  have l_d := d.isLt
  have l_a := a.isLt
  have l_b := b.isLt
  have e0 : fldN 32 d.val = .ok d := fldN_eq d rfl
  have e1 : fldN 32 a.val = .ok a := fldN_eq a rfl
  have e2 : fldN 32 b.val = .ok b := fldN_eq b rfl
  refine ⟨Nat.le_of_ble_eq_true rfl, Nat.lt_of_lt_of_le d.isLt (by decide), Nat.lt_of_lt_of_le a.isLt (by decide), Nat.lt_of_lt_of_le b.isLt (by decide), Nat.le_of_ble_eq_true rfl, ?_⟩
  exact form3_ok (k := .bfxI64) e0 e1 e2

theorem bfi (d : Fin 32) (a : Fin 32) (b : Fin 32) : Statement (.bfi d a b) := by
  intro hw f hf
  obtain rfl := Option.some.inj (show some ⟨7, d.val, a.val, b.val, 2⟩ = some f from hf)
  have l_d := d.isLt
  have l_a := a.isLt
  have l_b := b.isLt
  have e0 : fldN 32 d.val = .ok d := fldN_eq d rfl
  have e1 : fldN 32 a.val = .ok a := fldN_eq a rfl
  have e2 : fldN 32 b.val = .ok b := fldN_eq b rfl
  refine ⟨Nat.le_of_ble_eq_true rfl, Nat.lt_of_lt_of_le d.isLt (by decide), Nat.lt_of_lt_of_le a.isLt (by decide), Nat.lt_of_lt_of_le b.isLt (by decide), Nat.le_of_ble_eq_true rfl, ?_⟩
  exact form3_ok (k := .bfi) e0 e1 e2

theorem bswap (d : Fin 32) (a : Fin 32) : Statement (.bswap d a) := by
  intro hw f hf
  obtain rfl := Option.some.inj (show some ⟨7, d.val, a.val, 0, 3⟩ = some f from hf)
  have l_d := d.isLt
  have l_a := a.isLt
  have e0 : fldN 32 d.val = .ok d := fldN_eq d rfl
  have e1 : fldN 32 a.val = .ok a := fldN_eq a rfl
  have e2 : fld0 0 = .ok () := rfl
  refine ⟨Nat.le_of_ble_eq_true rfl, Nat.lt_of_lt_of_le d.isLt (by decide), Nat.lt_of_lt_of_le a.isLt (by decide), Nat.le_of_ble_eq_true rfl, Nat.le_of_ble_eq_true rfl, ?_⟩
  exact form3_ok (k := (fun d a _ => .bswap d a)) e0 e1 e2

theorem brev (d : Fin 32) (a : Fin 32) : Statement (.brev d a) := by
  intro hw f hf
  obtain rfl := Option.some.inj (show some ⟨7, d.val, a.val, 0, 4⟩ = some f from hf)
  have l_d := d.isLt
  have l_a := a.isLt
  have e0 : fldN 32 d.val = .ok d := fldN_eq d rfl
  have e1 : fldN 32 a.val = .ok a := fldN_eq a rfl
  have e2 : fld0 0 = .ok () := rfl
  refine ⟨Nat.le_of_ble_eq_true rfl, Nat.lt_of_lt_of_le d.isLt (by decide), Nat.lt_of_lt_of_le a.isLt (by decide), Nat.le_of_ble_eq_true rfl, Nat.le_of_ble_eq_true rfl, ?_⟩
  exact form3_ok (k := (fun d a _ => .brev d a)) e0 e1 e2

theorem beq (a : Fin 32) (b : Fin 32) (off : BitVec 14) : Statement (.beq a b off) := by
  intro hw f hf
  obtain rfl := Option.some.inj (show some ⟨8, a.val, b.val, (off.toNat / 256), (off.toNat % 256)⟩ = some f from hf)
  have l_a := a.isLt
  have l_b := b.isLt
  have l_off := off.isLt
  have e0 : fldN 32 a.val = .ok a := fldN_eq a rfl
  have e1 : fldN 32 b.val = .ok b := fldN_eq b rfl
  have e2 : (.ok (BitVec.ofNat 14 ((off.toNat / 256) * 256 + (off.toNat % 256))) : Except Reject _) = .ok off := congrArg _ (ofNat_toNat off (by omega))
  refine ⟨Nat.le_of_ble_eq_true rfl, Nat.lt_of_lt_of_le a.isLt (by decide), Nat.lt_of_lt_of_le b.isLt (by decide), by dsimp only; omega, by dsimp only; omega, ?_⟩
  exact form3_ok (k := .beq) e0 e1 e2

theorem bne (a : Fin 32) (b : Fin 32) (off : BitVec 14) : Statement (.bne a b off) := by
  intro hw f hf
  obtain rfl := Option.some.inj (show some ⟨9, a.val, b.val, (off.toNat / 256), (off.toNat % 256)⟩ = some f from hf)
  have l_a := a.isLt
  have l_b := b.isLt
  have l_off := off.isLt
  have e0 : fldN 32 a.val = .ok a := fldN_eq a rfl
  have e1 : fldN 32 b.val = .ok b := fldN_eq b rfl
  have e2 : (.ok (BitVec.ofNat 14 ((off.toNat / 256) * 256 + (off.toNat % 256))) : Except Reject _) = .ok off := congrArg _ (ofNat_toNat off (by omega))
  refine ⟨Nat.le_of_ble_eq_true rfl, Nat.lt_of_lt_of_le a.isLt (by decide), Nat.lt_of_lt_of_le b.isLt (by decide), by dsimp only; omega, by dsimp only; omega, ?_⟩
  exact form3_ok (k := .bne) e0 e1 e2

theorem bltI64 (a : Fin 32) (b : Fin 32) (off : BitVec 14) : Statement (.bltI64 a b off) := by
  intro hw f hf
  obtain rfl := Option.some.inj (show some ⟨10, a.val, b.val, (off.toNat / 256), (off.toNat % 256)⟩ = some f from hf)
  have l_a := a.isLt
  have l_b := b.isLt
  have l_off := off.isLt
  have e0 : fldN 32 a.val = .ok a := fldN_eq a rfl
  have e1 : fldN 32 b.val = .ok b := fldN_eq b rfl
  have e2 : (.ok (BitVec.ofNat 14 ((off.toNat / 256) * 256 + (off.toNat % 256))) : Except Reject _) = .ok off := congrArg _ (ofNat_toNat off (by omega))
  refine ⟨Nat.le_of_ble_eq_true rfl, Nat.lt_of_lt_of_le a.isLt (by decide), Nat.lt_of_lt_of_le b.isLt (by decide), by dsimp only; omega, by dsimp only; omega, ?_⟩
  exact form3_ok (k := .bltI64) e0 e1 e2

theorem bgeI64 (a : Fin 32) (b : Fin 32) (off : BitVec 14) : Statement (.bgeI64 a b off) := by
  intro hw f hf
  obtain rfl := Option.some.inj (show some ⟨11, a.val, b.val, (off.toNat / 256), (off.toNat % 256)⟩ = some f from hf)
  have l_a := a.isLt
  have l_b := b.isLt
  have l_off := off.isLt
  have e0 : fldN 32 a.val = .ok a := fldN_eq a rfl
  have e1 : fldN 32 b.val = .ok b := fldN_eq b rfl
  have e2 : (.ok (BitVec.ofNat 14 ((off.toNat / 256) * 256 + (off.toNat % 256))) : Except Reject _) = .ok off := congrArg _ (ofNat_toNat off (by omega))
  refine ⟨Nat.le_of_ble_eq_true rfl, Nat.lt_of_lt_of_le a.isLt (by decide), Nat.lt_of_lt_of_le b.isLt (by decide), by dsimp only; omega, by dsimp only; omega, ?_⟩
  exact form3_ok (k := .bgeI64) e0 e1 e2

theorem jal (off : BitVec 26) : Statement (.jal off) := by
  intro hw f hf
  obtain rfl := Option.some.inj (show some ⟨12, (off.toNat / 1048576), (off.toNat / 16384 % 64), (off.toNat / 256 % 64), (off.toNat % 256)⟩ = some f from hf)
  have l_off := off.isLt
  have e0 : (.ok (BitVec.ofNat 26 ((off.toNat / 1048576) * 1048576 + (off.toNat / 16384 % 64) * 16384 + (off.toNat / 256 % 64) * 256 + (off.toNat % 256))) : Except Reject _) = .ok off := congrArg _ (ofNat_toNat off (by omega))
  refine ⟨Nat.le_of_ble_eq_true rfl, by dsimp only; omega, by dsimp only; omega, by dsimp only; omega, by dsimp only; omega, ?_⟩
  exact form1_ok (k := .jal) e0

theorem loop (c : Fin 32) (hint : Fin 7) (e : Fin 16384) : Statement (.loop c hint e) := by
  intro hw f hf
  obtain rfl := Option.some.inj (show some ⟨13, c.val, hint.val, (e.val / 256), (e.val % 256)⟩ = some f from hf)
  have l_c := c.isLt
  have l_hint := hint.isLt
  have l_e := e.isLt
  have e0 : fldN 32 c.val = .ok c := fldN_eq c rfl
  have e1 : fldN 7 hint.val = .ok hint := fldN_eq hint rfl
  have e2 : fldN 16384 ((e.val / 256) * 256 + (e.val % 256)) = .ok e := fldN_eq e (by omega)
  refine ⟨Nat.le_of_ble_eq_true rfl, Nat.lt_of_lt_of_le c.isLt (by decide), Nat.lt_of_lt_of_le hint.isLt (by decide), by dsimp only; omega, by dsimp only; omega, ?_⟩
  exact form3_ok (k := .loop) e0 e1 e2

theorem ldI8 (d : Fin 32) (a : Fin 32) (off : BitVec 10) : Statement (.ldI8 d a off) := by
  intro hw f hf
  obtain rfl := Option.some.inj (show some ⟨14, d.val, a.val, (0 + off.toNat / 256), (off.toNat % 256)⟩ = some f from hf)
  have l_d := d.isLt
  have l_a := a.isLt
  have l_off := off.isLt
  have h0 : (0 + off.toNat / 256) / 4 = 0 := by omega
  have e0 : fldN 32 d.val = .ok d := fldN_eq d rfl
  have e1 : fldN 32 a.val = .ok a := fldN_eq a rfl
  have e2 : (.ok (BitVec.ofNat 10 ((0 + off.toNat / 256) % 4 * 256 + (off.toNat % 256))) : Except Reject _) = .ok off := congrArg _ (ofNat_toNat off (by omega))
  refine ⟨Nat.le_of_ble_eq_true rfl, Nat.lt_of_lt_of_le d.isLt (by decide), Nat.lt_of_lt_of_le a.isLt (by decide), by dsimp only; omega, by dsimp only; omega, ?_⟩
  have hm : decodeMajor0E ⟨14, d.val, a.val, (0 + off.toNat / 256), (off.toNat % 256)⟩ = form3 (fldN 32 d.val) (fldN 32 a.val) (.ok (BitVec.ofNat 10 ((0 + off.toNat / 256) % 4 * 256 + (off.toNat % 256)))) .ldI8 := by
    unfold decodeMajor0E; dsimp only; rw [h0]; try rfl
  exact hm.trans (form3_ok (k := .ldI8) e0 e1 e2)

theorem ldN8 (d : Fin 32) (a : Fin 32) (off : BitVec 10) : Statement (.ldN8 d a off) := by
  intro hw f hf
  obtain rfl := Option.some.inj (show some ⟨14, d.val, a.val, (4 + off.toNat / 256), (off.toNat % 256)⟩ = some f from hf)
  have l_d := d.isLt
  have l_a := a.isLt
  have l_off := off.isLt
  have h0 : (4 + off.toNat / 256) / 4 = 1 := by omega
  have e0 : fldN 32 d.val = .ok d := fldN_eq d rfl
  have e1 : fldN 32 a.val = .ok a := fldN_eq a rfl
  have e2 : (.ok (BitVec.ofNat 10 ((4 + off.toNat / 256) % 4 * 256 + (off.toNat % 256))) : Except Reject _) = .ok off := congrArg _ (ofNat_toNat off (by omega))
  refine ⟨Nat.le_of_ble_eq_true rfl, Nat.lt_of_lt_of_le d.isLt (by decide), Nat.lt_of_lt_of_le a.isLt (by decide), by dsimp only; omega, by dsimp only; omega, ?_⟩
  have hm : decodeMajor0E ⟨14, d.val, a.val, (4 + off.toNat / 256), (off.toNat % 256)⟩ = form3 (fldN 32 d.val) (fldN 32 a.val) (.ok (BitVec.ofNat 10 ((4 + off.toNat / 256) % 4 * 256 + (off.toNat % 256)))) .ldN8 := by
    unfold decodeMajor0E; dsimp only; rw [h0]; try rfl
  exact hm.trans (form3_ok (k := .ldN8) e0 e1 e2)

theorem ldI16 (d : Fin 32) (a : Fin 32) (off : BitVec 10) : Statement (.ldI16 d a off) := by
  intro hw f hf
  obtain rfl := Option.some.inj (show some ⟨14, d.val, a.val, (8 + off.toNat / 256), (off.toNat % 256)⟩ = some f from hf)
  have l_d := d.isLt
  have l_a := a.isLt
  have l_off := off.isLt
  have h0 : (8 + off.toNat / 256) / 4 = 2 := by omega
  have e0 : fldN 32 d.val = .ok d := fldN_eq d rfl
  have e1 : fldN 32 a.val = .ok a := fldN_eq a rfl
  have e2 : (.ok (BitVec.ofNat 10 ((8 + off.toNat / 256) % 4 * 256 + (off.toNat % 256))) : Except Reject _) = .ok off := congrArg _ (ofNat_toNat off (by omega))
  refine ⟨Nat.le_of_ble_eq_true rfl, Nat.lt_of_lt_of_le d.isLt (by decide), Nat.lt_of_lt_of_le a.isLt (by decide), by dsimp only; omega, by dsimp only; omega, ?_⟩
  have hm : decodeMajor0E ⟨14, d.val, a.val, (8 + off.toNat / 256), (off.toNat % 256)⟩ = form3 (fldN 32 d.val) (fldN 32 a.val) (.ok (BitVec.ofNat 10 ((8 + off.toNat / 256) % 4 * 256 + (off.toNat % 256)))) .ldI16 := by
    unfold decodeMajor0E; dsimp only; rw [h0]; try rfl
  exact hm.trans (form3_ok (k := .ldI16) e0 e1 e2)

theorem ldN16 (d : Fin 32) (a : Fin 32) (off : BitVec 10) : Statement (.ldN16 d a off) := by
  intro hw f hf
  obtain rfl := Option.some.inj (show some ⟨14, d.val, a.val, (12 + off.toNat / 256), (off.toNat % 256)⟩ = some f from hf)
  have l_d := d.isLt
  have l_a := a.isLt
  have l_off := off.isLt
  have h0 : (12 + off.toNat / 256) / 4 = 3 := by omega
  have e0 : fldN 32 d.val = .ok d := fldN_eq d rfl
  have e1 : fldN 32 a.val = .ok a := fldN_eq a rfl
  have e2 : (.ok (BitVec.ofNat 10 ((12 + off.toNat / 256) % 4 * 256 + (off.toNat % 256))) : Except Reject _) = .ok off := congrArg _ (ofNat_toNat off (by omega))
  refine ⟨Nat.le_of_ble_eq_true rfl, Nat.lt_of_lt_of_le d.isLt (by decide), Nat.lt_of_lt_of_le a.isLt (by decide), by dsimp only; omega, by dsimp only; omega, ?_⟩
  have hm : decodeMajor0E ⟨14, d.val, a.val, (12 + off.toNat / 256), (off.toNat % 256)⟩ = form3 (fldN 32 d.val) (fldN 32 a.val) (.ok (BitVec.ofNat 10 ((12 + off.toNat / 256) % 4 * 256 + (off.toNat % 256)))) .ldN16 := by
    unfold decodeMajor0E; dsimp only; rw [h0]; try rfl
  exact hm.trans (form3_ok (k := .ldN16) e0 e1 e2)

theorem ldI32 (d : Fin 32) (a : Fin 32) (off : BitVec 10) : Statement (.ldI32 d a off) := by
  intro hw f hf
  obtain rfl := Option.some.inj (show some ⟨14, d.val, a.val, (16 + off.toNat / 256), (off.toNat % 256)⟩ = some f from hf)
  have l_d := d.isLt
  have l_a := a.isLt
  have l_off := off.isLt
  have h0 : (16 + off.toNat / 256) / 4 = 4 := by omega
  have e0 : fldN 32 d.val = .ok d := fldN_eq d rfl
  have e1 : fldN 32 a.val = .ok a := fldN_eq a rfl
  have e2 : (.ok (BitVec.ofNat 10 ((16 + off.toNat / 256) % 4 * 256 + (off.toNat % 256))) : Except Reject _) = .ok off := congrArg _ (ofNat_toNat off (by omega))
  refine ⟨Nat.le_of_ble_eq_true rfl, Nat.lt_of_lt_of_le d.isLt (by decide), Nat.lt_of_lt_of_le a.isLt (by decide), by dsimp only; omega, by dsimp only; omega, ?_⟩
  have hm : decodeMajor0E ⟨14, d.val, a.val, (16 + off.toNat / 256), (off.toNat % 256)⟩ = form3 (fldN 32 d.val) (fldN 32 a.val) (.ok (BitVec.ofNat 10 ((16 + off.toNat / 256) % 4 * 256 + (off.toNat % 256)))) .ldI32 := by
    unfold decodeMajor0E; dsimp only; rw [h0]; try rfl
  exact hm.trans (form3_ok (k := .ldI32) e0 e1 e2)

theorem ldN32 (d : Fin 32) (a : Fin 32) (off : BitVec 10) : Statement (.ldN32 d a off) := by
  intro hw f hf
  obtain rfl := Option.some.inj (show some ⟨14, d.val, a.val, (20 + off.toNat / 256), (off.toNat % 256)⟩ = some f from hf)
  have l_d := d.isLt
  have l_a := a.isLt
  have l_off := off.isLt
  have h0 : (20 + off.toNat / 256) / 4 = 5 := by omega
  have e0 : fldN 32 d.val = .ok d := fldN_eq d rfl
  have e1 : fldN 32 a.val = .ok a := fldN_eq a rfl
  have e2 : (.ok (BitVec.ofNat 10 ((20 + off.toNat / 256) % 4 * 256 + (off.toNat % 256))) : Except Reject _) = .ok off := congrArg _ (ofNat_toNat off (by omega))
  refine ⟨Nat.le_of_ble_eq_true rfl, Nat.lt_of_lt_of_le d.isLt (by decide), Nat.lt_of_lt_of_le a.isLt (by decide), by dsimp only; omega, by dsimp only; omega, ?_⟩
  have hm : decodeMajor0E ⟨14, d.val, a.val, (20 + off.toNat / 256), (off.toNat % 256)⟩ = form3 (fldN 32 d.val) (fldN 32 a.val) (.ok (BitVec.ofNat 10 ((20 + off.toNat / 256) % 4 * 256 + (off.toNat % 256)))) .ldN32 := by
    unfold decodeMajor0E; dsimp only; rw [h0]; try rfl
  exact hm.trans (form3_ok (k := .ldN32) e0 e1 e2)

theorem ld64 (d : Fin 32) (a : Fin 32) (off : BitVec 10) : Statement (.ld64 d a off) := by
  intro hw f hf
  obtain rfl := Option.some.inj (show some ⟨14, d.val, a.val, (24 + off.toNat / 256), (off.toNat % 256)⟩ = some f from hf)
  have l_d := d.isLt
  have l_a := a.isLt
  have l_off := off.isLt
  have h0 : (24 + off.toNat / 256) / 4 = 6 := by omega
  have e0 : fldN 32 d.val = .ok d := fldN_eq d rfl
  have e1 : fldN 32 a.val = .ok a := fldN_eq a rfl
  have e2 : (.ok (BitVec.ofNat 10 ((24 + off.toNat / 256) % 4 * 256 + (off.toNat % 256))) : Except Reject _) = .ok off := congrArg _ (ofNat_toNat off (by omega))
  refine ⟨Nat.le_of_ble_eq_true rfl, Nat.lt_of_lt_of_le d.isLt (by decide), Nat.lt_of_lt_of_le a.isLt (by decide), by dsimp only; omega, by dsimp only; omega, ?_⟩
  have hm : decodeMajor0E ⟨14, d.val, a.val, (24 + off.toNat / 256), (off.toNat % 256)⟩ = form3 (fldN 32 d.val) (fldN 32 a.val) (.ok (BitVec.ofNat 10 ((24 + off.toNat / 256) % 4 * 256 + (off.toNat % 256)))) .ld64 := by
    unfold decodeMajor0E; dsimp only; rw [h0]; try rfl
  exact hm.trans (form3_ok (k := .ld64) e0 e1 e2)

theorem ldAcq64 (d : Fin 32) (a : Fin 32) (off : BitVec 10) : Statement (.ldAcq64 d a off) := by
  intro hw f hf
  obtain rfl := Option.some.inj (show some ⟨14, d.val, a.val, (28 + off.toNat / 256), (off.toNat % 256)⟩ = some f from hf)
  have l_d := d.isLt
  have l_a := a.isLt
  have l_off := off.isLt
  have h0 : (28 + off.toNat / 256) / 4 = 7 := by omega
  have e0 : fldN 32 d.val = .ok d := fldN_eq d rfl
  have e1 : fldN 32 a.val = .ok a := fldN_eq a rfl
  have e2 : (.ok (BitVec.ofNat 10 ((28 + off.toNat / 256) % 4 * 256 + (off.toNat % 256))) : Except Reject _) = .ok off := congrArg _ (ofNat_toNat off (by omega))
  refine ⟨Nat.le_of_ble_eq_true rfl, Nat.lt_of_lt_of_le d.isLt (by decide), Nat.lt_of_lt_of_le a.isLt (by decide), by dsimp only; omega, by dsimp only; omega, ?_⟩
  have hm : decodeMajor0E ⟨14, d.val, a.val, (28 + off.toNat / 256), (off.toNat % 256)⟩ = form3 (fldN 32 d.val) (fldN 32 a.val) (.ok (BitVec.ofNat 10 ((28 + off.toNat / 256) % 4 * 256 + (off.toNat % 256)))) .ldAcq64 := by
    unfold decodeMajor0E; dsimp only; rw [h0]; try rfl
  exact hm.trans (form3_ok (k := .ldAcq64) e0 e1 e2)

theorem st8 (d : Fin 32) (a : Fin 32) (off : BitVec 10) : Statement (.st8 d a off) := by
  intro hw f hf
  obtain rfl := Option.some.inj (show some ⟨14, d.val, a.val, (32 + off.toNat / 256), (off.toNat % 256)⟩ = some f from hf)
  have l_d := d.isLt
  have l_a := a.isLt
  have l_off := off.isLt
  have h0 : (32 + off.toNat / 256) / 4 = 8 := by omega
  have e0 : fldN 32 d.val = .ok d := fldN_eq d rfl
  have e1 : fldN 32 a.val = .ok a := fldN_eq a rfl
  have e2 : (.ok (BitVec.ofNat 10 ((32 + off.toNat / 256) % 4 * 256 + (off.toNat % 256))) : Except Reject _) = .ok off := congrArg _ (ofNat_toNat off (by omega))
  refine ⟨Nat.le_of_ble_eq_true rfl, Nat.lt_of_lt_of_le d.isLt (by decide), Nat.lt_of_lt_of_le a.isLt (by decide), by dsimp only; omega, by dsimp only; omega, ?_⟩
  have hm : decodeMajor0E ⟨14, d.val, a.val, (32 + off.toNat / 256), (off.toNat % 256)⟩ = form3 (fldN 32 d.val) (fldN 32 a.val) (.ok (BitVec.ofNat 10 ((32 + off.toNat / 256) % 4 * 256 + (off.toNat % 256)))) .st8 := by
    unfold decodeMajor0E; dsimp only; rw [h0]; try rfl
  exact hm.trans (form3_ok (k := .st8) e0 e1 e2)

theorem st16 (d : Fin 32) (a : Fin 32) (off : BitVec 10) : Statement (.st16 d a off) := by
  intro hw f hf
  obtain rfl := Option.some.inj (show some ⟨14, d.val, a.val, (36 + off.toNat / 256), (off.toNat % 256)⟩ = some f from hf)
  have l_d := d.isLt
  have l_a := a.isLt
  have l_off := off.isLt
  have h0 : (36 + off.toNat / 256) / 4 = 9 := by omega
  have e0 : fldN 32 d.val = .ok d := fldN_eq d rfl
  have e1 : fldN 32 a.val = .ok a := fldN_eq a rfl
  have e2 : (.ok (BitVec.ofNat 10 ((36 + off.toNat / 256) % 4 * 256 + (off.toNat % 256))) : Except Reject _) = .ok off := congrArg _ (ofNat_toNat off (by omega))
  refine ⟨Nat.le_of_ble_eq_true rfl, Nat.lt_of_lt_of_le d.isLt (by decide), Nat.lt_of_lt_of_le a.isLt (by decide), by dsimp only; omega, by dsimp only; omega, ?_⟩
  have hm : decodeMajor0E ⟨14, d.val, a.val, (36 + off.toNat / 256), (off.toNat % 256)⟩ = form3 (fldN 32 d.val) (fldN 32 a.val) (.ok (BitVec.ofNat 10 ((36 + off.toNat / 256) % 4 * 256 + (off.toNat % 256)))) .st16 := by
    unfold decodeMajor0E; dsimp only; rw [h0]; try rfl
  exact hm.trans (form3_ok (k := .st16) e0 e1 e2)

theorem st32 (d : Fin 32) (a : Fin 32) (off : BitVec 10) : Statement (.st32 d a off) := by
  intro hw f hf
  obtain rfl := Option.some.inj (show some ⟨14, d.val, a.val, (40 + off.toNat / 256), (off.toNat % 256)⟩ = some f from hf)
  have l_d := d.isLt
  have l_a := a.isLt
  have l_off := off.isLt
  have h0 : (40 + off.toNat / 256) / 4 = 10 := by omega
  have e0 : fldN 32 d.val = .ok d := fldN_eq d rfl
  have e1 : fldN 32 a.val = .ok a := fldN_eq a rfl
  have e2 : (.ok (BitVec.ofNat 10 ((40 + off.toNat / 256) % 4 * 256 + (off.toNat % 256))) : Except Reject _) = .ok off := congrArg _ (ofNat_toNat off (by omega))
  refine ⟨Nat.le_of_ble_eq_true rfl, Nat.lt_of_lt_of_le d.isLt (by decide), Nat.lt_of_lt_of_le a.isLt (by decide), by dsimp only; omega, by dsimp only; omega, ?_⟩
  have hm : decodeMajor0E ⟨14, d.val, a.val, (40 + off.toNat / 256), (off.toNat % 256)⟩ = form3 (fldN 32 d.val) (fldN 32 a.val) (.ok (BitVec.ofNat 10 ((40 + off.toNat / 256) % 4 * 256 + (off.toNat % 256)))) .st32 := by
    unfold decodeMajor0E; dsimp only; rw [h0]; try rfl
  exact hm.trans (form3_ok (k := .st32) e0 e1 e2)

theorem st64 (d : Fin 32) (a : Fin 32) (off : BitVec 10) : Statement (.st64 d a off) := by
  intro hw f hf
  obtain rfl := Option.some.inj (show some ⟨14, d.val, a.val, (44 + off.toNat / 256), (off.toNat % 256)⟩ = some f from hf)
  have l_d := d.isLt
  have l_a := a.isLt
  have l_off := off.isLt
  have h0 : (44 + off.toNat / 256) / 4 = 11 := by omega
  have e0 : fldN 32 d.val = .ok d := fldN_eq d rfl
  have e1 : fldN 32 a.val = .ok a := fldN_eq a rfl
  have e2 : (.ok (BitVec.ofNat 10 ((44 + off.toNat / 256) % 4 * 256 + (off.toNat % 256))) : Except Reject _) = .ok off := congrArg _ (ofNat_toNat off (by omega))
  refine ⟨Nat.le_of_ble_eq_true rfl, Nat.lt_of_lt_of_le d.isLt (by decide), Nat.lt_of_lt_of_le a.isLt (by decide), by dsimp only; omega, by dsimp only; omega, ?_⟩
  have hm : decodeMajor0E ⟨14, d.val, a.val, (44 + off.toNat / 256), (off.toNat % 256)⟩ = form3 (fldN 32 d.val) (fldN 32 a.val) (.ok (BitVec.ofNat 10 ((44 + off.toNat / 256) % 4 * 256 + (off.toNat % 256)))) .st64 := by
    unfold decodeMajor0E; dsimp only; rw [h0]; try rfl
  exact hm.trans (form3_ok (k := .st64) e0 e1 e2)

theorem stRel64 (d : Fin 32) (a : Fin 32) (off : BitVec 10) : Statement (.stRel64 d a off) := by
  intro hw f hf
  obtain rfl := Option.some.inj (show some ⟨14, d.val, a.val, (48 + off.toNat / 256), (off.toNat % 256)⟩ = some f from hf)
  have l_d := d.isLt
  have l_a := a.isLt
  have l_off := off.isLt
  have h0 : (48 + off.toNat / 256) / 4 = 12 := by omega
  have e0 : fldN 32 d.val = .ok d := fldN_eq d rfl
  have e1 : fldN 32 a.val = .ok a := fldN_eq a rfl
  have e2 : (.ok (BitVec.ofNat 10 ((48 + off.toNat / 256) % 4 * 256 + (off.toNat % 256))) : Except Reject _) = .ok off := congrArg _ (ofNat_toNat off (by omega))
  refine ⟨Nat.le_of_ble_eq_true rfl, Nat.lt_of_lt_of_le d.isLt (by decide), Nat.lt_of_lt_of_le a.isLt (by decide), by dsimp only; omega, by dsimp only; omega, ?_⟩
  have hm : decodeMajor0E ⟨14, d.val, a.val, (48 + off.toNat / 256), (off.toNat % 256)⟩ = form3 (fldN 32 d.val) (fldN 32 a.val) (.ok (BitVec.ofNat 10 ((48 + off.toNat / 256) % 4 * 256 + (off.toNat % 256)))) .stRel64 := by
    unfold decodeMajor0E; dsimp only; rw [h0]; try rfl
  exact hm.trans (form3_ok (k := .stRel64) e0 e1 e2)

theorem ldAcqN32 (d : Fin 32) (a : Fin 32) (off : BitVec 10) : Statement (.ldAcqN32 d a off) := by
  intro hw f hf
  obtain rfl := Option.some.inj (show some ⟨14, d.val, a.val, (52 + off.toNat / 256), (off.toNat % 256)⟩ = some f from hf)
  have l_d := d.isLt
  have l_a := a.isLt
  have l_off := off.isLt
  have h0 : (52 + off.toNat / 256) / 4 = 13 := by omega
  have e0 : fldN 32 d.val = .ok d := fldN_eq d rfl
  have e1 : fldN 32 a.val = .ok a := fldN_eq a rfl
  have e2 : (.ok (BitVec.ofNat 10 ((52 + off.toNat / 256) % 4 * 256 + (off.toNat % 256))) : Except Reject _) = .ok off := congrArg _ (ofNat_toNat off (by omega))
  refine ⟨Nat.le_of_ble_eq_true rfl, Nat.lt_of_lt_of_le d.isLt (by decide), Nat.lt_of_lt_of_le a.isLt (by decide), by dsimp only; omega, by dsimp only; omega, ?_⟩
  have hm : decodeMajor0E ⟨14, d.val, a.val, (52 + off.toNat / 256), (off.toNat % 256)⟩ = form3 (fldN 32 d.val) (fldN 32 a.val) (.ok (BitVec.ofNat 10 ((52 + off.toNat / 256) % 4 * 256 + (off.toNat % 256)))) .ldAcqN32 := by
    unfold decodeMajor0E; dsimp only; rw [h0]; try rfl
  exact hm.trans (form3_ok (k := .ldAcqN32) e0 e1 e2)

theorem stRel32 (d : Fin 32) (a : Fin 32) (off : BitVec 10) : Statement (.stRel32 d a off) := by
  intro hw f hf
  obtain rfl := Option.some.inj (show some ⟨14, d.val, a.val, (56 + off.toNat / 256), (off.toNat % 256)⟩ = some f from hf)
  have l_d := d.isLt
  have l_a := a.isLt
  have l_off := off.isLt
  have h0 : (56 + off.toNat / 256) / 4 = 14 := by omega
  have e0 : fldN 32 d.val = .ok d := fldN_eq d rfl
  have e1 : fldN 32 a.val = .ok a := fldN_eq a rfl
  have e2 : (.ok (BitVec.ofNat 10 ((56 + off.toNat / 256) % 4 * 256 + (off.toNat % 256))) : Except Reject _) = .ok off := congrArg _ (ofNat_toNat off (by omega))
  refine ⟨Nat.le_of_ble_eq_true rfl, Nat.lt_of_lt_of_le d.isLt (by decide), Nat.lt_of_lt_of_le a.isLt (by decide), by dsimp only; omega, by dsimp only; omega, ?_⟩
  have hm : decodeMajor0E ⟨14, d.val, a.val, (56 + off.toNat / 256), (off.toNat % 256)⟩ = form3 (fldN 32 d.val) (fldN 32 a.val) (.ok (BitVec.ofNat 10 ((56 + off.toNat / 256) % 4 * 256 + (off.toNat % 256)))) .stRel32 := by
    unfold decodeMajor0E; dsimp only; rw [h0]; try rfl
  exact hm.trans (form3_ok (k := .stRel32) e0 e1 e2)

theorem amoSwap (d : Fin 32) (a : Fin 32) (b : Fin 32) (scope : Fin 6) (wide : Bool) : Statement (.amoSwap d a b scope wide) := by
  intro hw f hf
  obtain rfl := Option.some.inj (show some ⟨15, d.val, a.val, b.val, (32 * scope.val + 16 * wide.toNat + 0)⟩ = some f from hf)
  have l_d := d.isLt
  have l_a := a.isLt
  have l_b := b.isLt
  have l_scope := scope.isLt
  have l_wide := wide.toNat_lt
  have h0 : (32 * scope.val + 16 * wide.toNat + 0) % 16 = 0 := by omega
  have e0 : fldN 32 d.val = .ok d := fldN_eq d rfl
  have e1 : fldN 32 a.val = .ok a := fldN_eq a rfl
  have e2 : fldN 32 b.val = .ok b := fldN_eq b rfl
  have e3 : fldN 6 ((32 * scope.val + 16 * wide.toNat + 0) / 32) = .ok scope := fldN_eq scope (by omega)
  have e4 : (.ok ((32 * scope.val + 16 * wide.toNat + 0) / 16 % 2 == 1) : Except Reject Bool) = .ok wide := congrArg _ (beq_one wide (by omega))
  refine ⟨Nat.le_of_ble_eq_true rfl, Nat.lt_of_lt_of_le d.isLt (by decide), Nat.lt_of_lt_of_le a.isLt (by decide), Nat.lt_of_lt_of_le b.isLt (by decide), by dsimp only; omega, ?_⟩
  have hm : decodeMajor0F ⟨15, d.val, a.val, b.val, (32 * scope.val + 16 * wide.toNat + 0)⟩ = form5 (fldN 32 d.val) (fldN 32 a.val) (fldN 32 b.val) (fldN 6 ((32 * scope.val + 16 * wide.toNat + 0) / 32)) (.ok ((32 * scope.val + 16 * wide.toNat + 0) / 16 % 2 == 1)) .amoSwap := by
    unfold decodeMajor0F; dsimp only; rw [h0]; try rfl
  exact hm.trans (form5_ok (k := .amoSwap) e0 e1 e2 e3 e4)

theorem amoAdd (d : Fin 32) (a : Fin 32) (b : Fin 32) (scope : Fin 6) (wide : Bool) : Statement (.amoAdd d a b scope wide) := by
  intro hw f hf
  obtain rfl := Option.some.inj (show some ⟨15, d.val, a.val, b.val, (32 * scope.val + 16 * wide.toNat + 1)⟩ = some f from hf)
  have l_d := d.isLt
  have l_a := a.isLt
  have l_b := b.isLt
  have l_scope := scope.isLt
  have l_wide := wide.toNat_lt
  have h0 : (32 * scope.val + 16 * wide.toNat + 1) % 16 = 1 := by omega
  have e0 : fldN 32 d.val = .ok d := fldN_eq d rfl
  have e1 : fldN 32 a.val = .ok a := fldN_eq a rfl
  have e2 : fldN 32 b.val = .ok b := fldN_eq b rfl
  have e3 : fldN 6 ((32 * scope.val + 16 * wide.toNat + 1) / 32) = .ok scope := fldN_eq scope (by omega)
  have e4 : (.ok ((32 * scope.val + 16 * wide.toNat + 1) / 16 % 2 == 1) : Except Reject Bool) = .ok wide := congrArg _ (beq_one wide (by omega))
  refine ⟨Nat.le_of_ble_eq_true rfl, Nat.lt_of_lt_of_le d.isLt (by decide), Nat.lt_of_lt_of_le a.isLt (by decide), Nat.lt_of_lt_of_le b.isLt (by decide), by dsimp only; omega, ?_⟩
  have hm : decodeMajor0F ⟨15, d.val, a.val, b.val, (32 * scope.val + 16 * wide.toNat + 1)⟩ = form5 (fldN 32 d.val) (fldN 32 a.val) (fldN 32 b.val) (fldN 6 ((32 * scope.val + 16 * wide.toNat + 1) / 32)) (.ok ((32 * scope.val + 16 * wide.toNat + 1) / 16 % 2 == 1)) .amoAdd := by
    unfold decodeMajor0F; dsimp only; rw [h0]; try rfl
  exact hm.trans (form5_ok (k := .amoAdd) e0 e1 e2 e3 e4)

theorem amoAnd (d : Fin 32) (a : Fin 32) (b : Fin 32) (scope : Fin 6) (wide : Bool) : Statement (.amoAnd d a b scope wide) := by
  intro hw f hf
  obtain rfl := Option.some.inj (show some ⟨15, d.val, a.val, b.val, (32 * scope.val + 16 * wide.toNat + 2)⟩ = some f from hf)
  have l_d := d.isLt
  have l_a := a.isLt
  have l_b := b.isLt
  have l_scope := scope.isLt
  have l_wide := wide.toNat_lt
  have h0 : (32 * scope.val + 16 * wide.toNat + 2) % 16 = 2 := by omega
  have e0 : fldN 32 d.val = .ok d := fldN_eq d rfl
  have e1 : fldN 32 a.val = .ok a := fldN_eq a rfl
  have e2 : fldN 32 b.val = .ok b := fldN_eq b rfl
  have e3 : fldN 6 ((32 * scope.val + 16 * wide.toNat + 2) / 32) = .ok scope := fldN_eq scope (by omega)
  have e4 : (.ok ((32 * scope.val + 16 * wide.toNat + 2) / 16 % 2 == 1) : Except Reject Bool) = .ok wide := congrArg _ (beq_one wide (by omega))
  refine ⟨Nat.le_of_ble_eq_true rfl, Nat.lt_of_lt_of_le d.isLt (by decide), Nat.lt_of_lt_of_le a.isLt (by decide), Nat.lt_of_lt_of_le b.isLt (by decide), by dsimp only; omega, ?_⟩
  have hm : decodeMajor0F ⟨15, d.val, a.val, b.val, (32 * scope.val + 16 * wide.toNat + 2)⟩ = form5 (fldN 32 d.val) (fldN 32 a.val) (fldN 32 b.val) (fldN 6 ((32 * scope.val + 16 * wide.toNat + 2) / 32)) (.ok ((32 * scope.val + 16 * wide.toNat + 2) / 16 % 2 == 1)) .amoAnd := by
    unfold decodeMajor0F; dsimp only; rw [h0]; try rfl
  exact hm.trans (form5_ok (k := .amoAnd) e0 e1 e2 e3 e4)

theorem amoOr (d : Fin 32) (a : Fin 32) (b : Fin 32) (scope : Fin 6) (wide : Bool) : Statement (.amoOr d a b scope wide) := by
  intro hw f hf
  obtain rfl := Option.some.inj (show some ⟨15, d.val, a.val, b.val, (32 * scope.val + 16 * wide.toNat + 3)⟩ = some f from hf)
  have l_d := d.isLt
  have l_a := a.isLt
  have l_b := b.isLt
  have l_scope := scope.isLt
  have l_wide := wide.toNat_lt
  have h0 : (32 * scope.val + 16 * wide.toNat + 3) % 16 = 3 := by omega
  have e0 : fldN 32 d.val = .ok d := fldN_eq d rfl
  have e1 : fldN 32 a.val = .ok a := fldN_eq a rfl
  have e2 : fldN 32 b.val = .ok b := fldN_eq b rfl
  have e3 : fldN 6 ((32 * scope.val + 16 * wide.toNat + 3) / 32) = .ok scope := fldN_eq scope (by omega)
  have e4 : (.ok ((32 * scope.val + 16 * wide.toNat + 3) / 16 % 2 == 1) : Except Reject Bool) = .ok wide := congrArg _ (beq_one wide (by omega))
  refine ⟨Nat.le_of_ble_eq_true rfl, Nat.lt_of_lt_of_le d.isLt (by decide), Nat.lt_of_lt_of_le a.isLt (by decide), Nat.lt_of_lt_of_le b.isLt (by decide), by dsimp only; omega, ?_⟩
  have hm : decodeMajor0F ⟨15, d.val, a.val, b.val, (32 * scope.val + 16 * wide.toNat + 3)⟩ = form5 (fldN 32 d.val) (fldN 32 a.val) (fldN 32 b.val) (fldN 6 ((32 * scope.val + 16 * wide.toNat + 3) / 32)) (.ok ((32 * scope.val + 16 * wide.toNat + 3) / 16 % 2 == 1)) .amoOr := by
    unfold decodeMajor0F; dsimp only; rw [h0]; try rfl
  exact hm.trans (form5_ok (k := .amoOr) e0 e1 e2 e3 e4)

theorem amoXor (d : Fin 32) (a : Fin 32) (b : Fin 32) (scope : Fin 6) (wide : Bool) : Statement (.amoXor d a b scope wide) := by
  intro hw f hf
  obtain rfl := Option.some.inj (show some ⟨15, d.val, a.val, b.val, (32 * scope.val + 16 * wide.toNat + 4)⟩ = some f from hf)
  have l_d := d.isLt
  have l_a := a.isLt
  have l_b := b.isLt
  have l_scope := scope.isLt
  have l_wide := wide.toNat_lt
  have h0 : (32 * scope.val + 16 * wide.toNat + 4) % 16 = 4 := by omega
  have e0 : fldN 32 d.val = .ok d := fldN_eq d rfl
  have e1 : fldN 32 a.val = .ok a := fldN_eq a rfl
  have e2 : fldN 32 b.val = .ok b := fldN_eq b rfl
  have e3 : fldN 6 ((32 * scope.val + 16 * wide.toNat + 4) / 32) = .ok scope := fldN_eq scope (by omega)
  have e4 : (.ok ((32 * scope.val + 16 * wide.toNat + 4) / 16 % 2 == 1) : Except Reject Bool) = .ok wide := congrArg _ (beq_one wide (by omega))
  refine ⟨Nat.le_of_ble_eq_true rfl, Nat.lt_of_lt_of_le d.isLt (by decide), Nat.lt_of_lt_of_le a.isLt (by decide), Nat.lt_of_lt_of_le b.isLt (by decide), by dsimp only; omega, ?_⟩
  have hm : decodeMajor0F ⟨15, d.val, a.val, b.val, (32 * scope.val + 16 * wide.toNat + 4)⟩ = form5 (fldN 32 d.val) (fldN 32 a.val) (fldN 32 b.val) (fldN 6 ((32 * scope.val + 16 * wide.toNat + 4) / 32)) (.ok ((32 * scope.val + 16 * wide.toNat + 4) / 16 % 2 == 1)) .amoXor := by
    unfold decodeMajor0F; dsimp only; rw [h0]; try rfl
  exact hm.trans (form5_ok (k := .amoXor) e0 e1 e2 e3 e4)

theorem amoMinI (d : Fin 32) (a : Fin 32) (b : Fin 32) (scope : Fin 6) (wide : Bool) : Statement (.amoMinI d a b scope wide) := by
  intro hw f hf
  obtain rfl := Option.some.inj (show some ⟨15, d.val, a.val, b.val, (32 * scope.val + 16 * wide.toNat + 5)⟩ = some f from hf)
  have l_d := d.isLt
  have l_a := a.isLt
  have l_b := b.isLt
  have l_scope := scope.isLt
  have l_wide := wide.toNat_lt
  have h0 : (32 * scope.val + 16 * wide.toNat + 5) % 16 = 5 := by omega
  have e0 : fldN 32 d.val = .ok d := fldN_eq d rfl
  have e1 : fldN 32 a.val = .ok a := fldN_eq a rfl
  have e2 : fldN 32 b.val = .ok b := fldN_eq b rfl
  have e3 : fldN 6 ((32 * scope.val + 16 * wide.toNat + 5) / 32) = .ok scope := fldN_eq scope (by omega)
  have e4 : (.ok ((32 * scope.val + 16 * wide.toNat + 5) / 16 % 2 == 1) : Except Reject Bool) = .ok wide := congrArg _ (beq_one wide (by omega))
  refine ⟨Nat.le_of_ble_eq_true rfl, Nat.lt_of_lt_of_le d.isLt (by decide), Nat.lt_of_lt_of_le a.isLt (by decide), Nat.lt_of_lt_of_le b.isLt (by decide), by dsimp only; omega, ?_⟩
  have hm : decodeMajor0F ⟨15, d.val, a.val, b.val, (32 * scope.val + 16 * wide.toNat + 5)⟩ = form5 (fldN 32 d.val) (fldN 32 a.val) (fldN 32 b.val) (fldN 6 ((32 * scope.val + 16 * wide.toNat + 5) / 32)) (.ok ((32 * scope.val + 16 * wide.toNat + 5) / 16 % 2 == 1)) .amoMinI := by
    unfold decodeMajor0F; dsimp only; rw [h0]; try rfl
  exact hm.trans (form5_ok (k := .amoMinI) e0 e1 e2 e3 e4)

theorem amoMaxI (d : Fin 32) (a : Fin 32) (b : Fin 32) (scope : Fin 6) (wide : Bool) : Statement (.amoMaxI d a b scope wide) := by
  intro hw f hf
  obtain rfl := Option.some.inj (show some ⟨15, d.val, a.val, b.val, (32 * scope.val + 16 * wide.toNat + 6)⟩ = some f from hf)
  have l_d := d.isLt
  have l_a := a.isLt
  have l_b := b.isLt
  have l_scope := scope.isLt
  have l_wide := wide.toNat_lt
  have h0 : (32 * scope.val + 16 * wide.toNat + 6) % 16 = 6 := by omega
  have e0 : fldN 32 d.val = .ok d := fldN_eq d rfl
  have e1 : fldN 32 a.val = .ok a := fldN_eq a rfl
  have e2 : fldN 32 b.val = .ok b := fldN_eq b rfl
  have e3 : fldN 6 ((32 * scope.val + 16 * wide.toNat + 6) / 32) = .ok scope := fldN_eq scope (by omega)
  have e4 : (.ok ((32 * scope.val + 16 * wide.toNat + 6) / 16 % 2 == 1) : Except Reject Bool) = .ok wide := congrArg _ (beq_one wide (by omega))
  refine ⟨Nat.le_of_ble_eq_true rfl, Nat.lt_of_lt_of_le d.isLt (by decide), Nat.lt_of_lt_of_le a.isLt (by decide), Nat.lt_of_lt_of_le b.isLt (by decide), by dsimp only; omega, ?_⟩
  have hm : decodeMajor0F ⟨15, d.val, a.val, b.val, (32 * scope.val + 16 * wide.toNat + 6)⟩ = form5 (fldN 32 d.val) (fldN 32 a.val) (fldN 32 b.val) (fldN 6 ((32 * scope.val + 16 * wide.toNat + 6) / 32)) (.ok ((32 * scope.val + 16 * wide.toNat + 6) / 16 % 2 == 1)) .amoMaxI := by
    unfold decodeMajor0F; dsimp only; rw [h0]; try rfl
  exact hm.trans (form5_ok (k := .amoMaxI) e0 e1 e2 e3 e4)

theorem amoMinN (d : Fin 32) (a : Fin 32) (b : Fin 32) (scope : Fin 6) (wide : Bool) : Statement (.amoMinN d a b scope wide) := by
  intro hw f hf
  obtain rfl := Option.some.inj (show some ⟨15, d.val, a.val, b.val, (32 * scope.val + 16 * wide.toNat + 7)⟩ = some f from hf)
  have l_d := d.isLt
  have l_a := a.isLt
  have l_b := b.isLt
  have l_scope := scope.isLt
  have l_wide := wide.toNat_lt
  have h0 : (32 * scope.val + 16 * wide.toNat + 7) % 16 = 7 := by omega
  have e0 : fldN 32 d.val = .ok d := fldN_eq d rfl
  have e1 : fldN 32 a.val = .ok a := fldN_eq a rfl
  have e2 : fldN 32 b.val = .ok b := fldN_eq b rfl
  have e3 : fldN 6 ((32 * scope.val + 16 * wide.toNat + 7) / 32) = .ok scope := fldN_eq scope (by omega)
  have e4 : (.ok ((32 * scope.val + 16 * wide.toNat + 7) / 16 % 2 == 1) : Except Reject Bool) = .ok wide := congrArg _ (beq_one wide (by omega))
  refine ⟨Nat.le_of_ble_eq_true rfl, Nat.lt_of_lt_of_le d.isLt (by decide), Nat.lt_of_lt_of_le a.isLt (by decide), Nat.lt_of_lt_of_le b.isLt (by decide), by dsimp only; omega, ?_⟩
  have hm : decodeMajor0F ⟨15, d.val, a.val, b.val, (32 * scope.val + 16 * wide.toNat + 7)⟩ = form5 (fldN 32 d.val) (fldN 32 a.val) (fldN 32 b.val) (fldN 6 ((32 * scope.val + 16 * wide.toNat + 7) / 32)) (.ok ((32 * scope.val + 16 * wide.toNat + 7) / 16 % 2 == 1)) .amoMinN := by
    unfold decodeMajor0F; dsimp only; rw [h0]; try rfl
  exact hm.trans (form5_ok (k := .amoMinN) e0 e1 e2 e3 e4)

theorem amoMaxN (d : Fin 32) (a : Fin 32) (b : Fin 32) (scope : Fin 6) (wide : Bool) : Statement (.amoMaxN d a b scope wide) := by
  intro hw f hf
  obtain rfl := Option.some.inj (show some ⟨15, d.val, a.val, b.val, (32 * scope.val + 16 * wide.toNat + 8)⟩ = some f from hf)
  have l_d := d.isLt
  have l_a := a.isLt
  have l_b := b.isLt
  have l_scope := scope.isLt
  have l_wide := wide.toNat_lt
  have h0 : (32 * scope.val + 16 * wide.toNat + 8) % 16 = 8 := by omega
  have e0 : fldN 32 d.val = .ok d := fldN_eq d rfl
  have e1 : fldN 32 a.val = .ok a := fldN_eq a rfl
  have e2 : fldN 32 b.val = .ok b := fldN_eq b rfl
  have e3 : fldN 6 ((32 * scope.val + 16 * wide.toNat + 8) / 32) = .ok scope := fldN_eq scope (by omega)
  have e4 : (.ok ((32 * scope.val + 16 * wide.toNat + 8) / 16 % 2 == 1) : Except Reject Bool) = .ok wide := congrArg _ (beq_one wide (by omega))
  refine ⟨Nat.le_of_ble_eq_true rfl, Nat.lt_of_lt_of_le d.isLt (by decide), Nat.lt_of_lt_of_le a.isLt (by decide), Nat.lt_of_lt_of_le b.isLt (by decide), by dsimp only; omega, ?_⟩
  have hm : decodeMajor0F ⟨15, d.val, a.val, b.val, (32 * scope.val + 16 * wide.toNat + 8)⟩ = form5 (fldN 32 d.val) (fldN 32 a.val) (fldN 32 b.val) (fldN 6 ((32 * scope.val + 16 * wide.toNat + 8) / 32)) (.ok ((32 * scope.val + 16 * wide.toNat + 8) / 16 % 2 == 1)) .amoMaxN := by
    unfold decodeMajor0F; dsimp only; rw [h0]; try rfl
  exact hm.trans (form5_ok (k := .amoMaxN) e0 e1 e2 e3 e4)

theorem amoCas (d : Fin 32) (a : Fin 32) (b : Fin 32) (scope : Fin 6) (wide : Bool) : Statement (.amoCas d a b scope wide) := by
  intro hw f hf
  obtain rfl := Option.some.inj (show some ⟨15, d.val, a.val, b.val, (32 * scope.val + 16 * wide.toNat + 9)⟩ = some f from hf)
  have l_d := d.isLt
  have l_a := a.isLt
  have l_b := b.isLt
  have l_scope := scope.isLt
  have l_wide := wide.toNat_lt
  have h0 : (32 * scope.val + 16 * wide.toNat + 9) % 16 = 9 := by omega
  have e0 : fldN 32 d.val = .ok d := fldN_eq d rfl
  have e1 : fldN 32 a.val = .ok a := fldN_eq a rfl
  have e2 : fldN 32 b.val = .ok b := fldN_eq b rfl
  have e3 : fldN 6 ((32 * scope.val + 16 * wide.toNat + 9) / 32) = .ok scope := fldN_eq scope (by omega)
  have e4 : (.ok ((32 * scope.val + 16 * wide.toNat + 9) / 16 % 2 == 1) : Except Reject Bool) = .ok wide := congrArg _ (beq_one wide (by omega))
  refine ⟨Nat.le_of_ble_eq_true rfl, Nat.lt_of_lt_of_le d.isLt (by decide), Nat.lt_of_lt_of_le a.isLt (by decide), Nat.lt_of_lt_of_le b.isLt (by decide), by dsimp only; omega, ?_⟩
  have hm : decodeMajor0F ⟨15, d.val, a.val, b.val, (32 * scope.val + 16 * wide.toNat + 9)⟩ = form5 (fldN 32 d.val) (fldN 32 a.val) (fldN 32 b.val) (fldN 6 ((32 * scope.val + 16 * wide.toNat + 9) / 32)) (.ok ((32 * scope.val + 16 * wide.toNat + 9) / 16 % 2 == 1)) .amoCas := by
    unfold decodeMajor0F; dsimp only; rw [h0]; try rfl
  exact hm.trans (form5_ok (k := .amoCas) e0 e1 e2 e3 e4)

theorem amoCas16 (d : Fin 16) (a : Fin 32) (b : Fin 16) (scope : Fin 6) : Statement (.amoCas16 d a b scope) := by
  intro hw f hf
  obtain rfl := Option.some.inj (show some ⟨15, (2 * d.val), a.val, (2 * b.val), (32 * scope.val + 26)⟩ = some f from hf)
  have l_d := d.isLt
  have l_a := a.isLt
  have l_b := b.isLt
  have l_scope := scope.isLt
  have h0 : (32 * scope.val + 26) % 16 = 10 := by omega
  have e0 : fldPair 16 (2 * d.val) = .ok d := fldPair_eq d rfl
  have e1 : fldN 32 a.val = .ok a := fldN_eq a rfl
  have e2 : fldPair 16 (2 * b.val) = .ok b := fldPair_eq b rfl
  have e3 : fldN 6 ((32 * scope.val + 26) / 32) = .ok scope := fldN_eq scope (by omega)
  have e4 : fld1 ((32 * scope.val + 26) / 16 % 2) = .ok () := fld1_eq (by omega)
  refine ⟨Nat.le_of_ble_eq_true rfl, by dsimp only; omega, Nat.lt_of_lt_of_le a.isLt (by decide), by dsimp only; omega, by dsimp only; omega, ?_⟩
  have hm : decodeMajor0F ⟨15, (2 * d.val), a.val, (2 * b.val), (32 * scope.val + 26)⟩ = form5 (fldPair 16 (2 * d.val)) (fldN 32 a.val) (fldPair 16 (2 * b.val)) (fldN 6 ((32 * scope.val + 26) / 32)) (fld1 ((32 * scope.val + 26) / 16 % 2)) (fun d a b scope _ => .amoCas16 d a b scope) := by
    unfold decodeMajor0F; dsimp only; rw [h0]; try rfl
  exact hm.trans (form5_ok (k := (fun d a b scope _ => .amoCas16 d a b scope)) e0 e1 e2 e3 e4)

theorem fence (scope : Fin 6) : Statement (.fence scope) := by
  intro hw f hf
  obtain rfl := Option.some.inj (show some ⟨16, 0, scope.val, 0, 0⟩ = some f from hf)
  have l_scope := scope.isLt
  have e0 : fld0 0 = .ok () := rfl
  have e1 : fldN 6 scope.val = .ok scope := fldN_eq scope rfl
  have e2 : fld0 0 = .ok () := rfl
  refine ⟨Nat.le_of_ble_eq_true rfl, Nat.le_of_ble_eq_true rfl, Nat.lt_of_lt_of_le scope.isLt (by decide), Nat.le_of_ble_eq_true rfl, Nat.le_of_ble_eq_true rfl, ?_⟩
  exact form3_ok (k := (fun _ scope _ => .fence scope)) e0 e1 e2

theorem fenceRel (scope : Fin 6) : Statement (.fenceRel scope) := by
  intro hw f hf
  obtain rfl := Option.some.inj (show some ⟨16, 0, scope.val, 0, 1⟩ = some f from hf)
  have l_scope := scope.isLt
  have e0 : fld0 0 = .ok () := rfl
  have e1 : fldN 6 scope.val = .ok scope := fldN_eq scope rfl
  have e2 : fld0 0 = .ok () := rfl
  refine ⟨Nat.le_of_ble_eq_true rfl, Nat.le_of_ble_eq_true rfl, Nat.lt_of_lt_of_le scope.isLt (by decide), Nat.le_of_ble_eq_true rfl, Nat.le_of_ble_eq_true rfl, ?_⟩
  exact form3_ok (k := (fun _ scope _ => .fenceRel scope)) e0 e1 e2

theorem fenceAcq (scope : Fin 6) : Statement (.fenceAcq scope) := by
  intro hw f hf
  obtain rfl := Option.some.inj (show some ⟨16, 0, scope.val, 0, 2⟩ = some f from hf)
  have l_scope := scope.isLt
  have e0 : fld0 0 = .ok () := rfl
  have e1 : fldN 6 scope.val = .ok scope := fldN_eq scope rfl
  have e2 : fld0 0 = .ok () := rfl
  refine ⟨Nat.le_of_ble_eq_true rfl, Nat.le_of_ble_eq_true rfl, Nat.lt_of_lt_of_le scope.isLt (by decide), Nat.le_of_ble_eq_true rfl, Nat.le_of_ble_eq_true rfl, ?_⟩
  exact form3_ok (k := (fun _ scope _ => .fenceAcq scope)) e0 e1 e2

theorem xfence (mask : Fin 128) : Statement (.xfence mask) := by
  intro hw f hf
  obtain rfl := Option.some.inj (show some ⟨16, 0, 0, 0, (128 + mask.val)⟩ = some f from hf)
  have l_mask := mask.isLt
  refine ⟨by dsimp only; omega, by dsimp only; omega, by dsimp only; omega, by dsimp only; omega, by dsimp only; omega, ?_⟩
  have hn : ¬ 128 + mask.val < 128 := by omega
  have e3 : fldN 128 (128 + mask.val - 128) = .ok mask := fldN_eq mask (by omega)
  have h : decodeMajor10 ⟨16, 0, 0, 0, 128 + mask.val⟩ = .ok (.xfence mask) := by
    unfold decodeMajor10
    split
    · rename_i h; dsimp only at h; omega
    · rename_i h; dsimp only at h; omega
    · rename_i h; dsimp only at h; omega
    · dsimp only
      rw [if_neg hn, e3]; rfl
  exact h

theorem barArrive (d : Fin 32) (a : Fin 32) (b : Fin 32) : Statement (.barArrive d a b) := by
  intro hw f hf
  obtain rfl := Option.some.inj (show some ⟨17, d.val, a.val, b.val, 0⟩ = some f from hf)
  have l_d := d.isLt
  have l_a := a.isLt
  have l_b := b.isLt
  have e0 : fldN 32 d.val = .ok d := fldN_eq d rfl
  have e1 : fldN 32 a.val = .ok a := fldN_eq a rfl
  have e2 : fldN 32 b.val = .ok b := fldN_eq b rfl
  refine ⟨Nat.le_of_ble_eq_true rfl, Nat.lt_of_lt_of_le d.isLt (by decide), Nat.lt_of_lt_of_le a.isLt (by decide), Nat.lt_of_lt_of_le b.isLt (by decide), Nat.le_of_ble_eq_true rfl, ?_⟩
  exact form3_ok (k := .barArrive) e0 e1 e2

theorem barExpect (a : Fin 32) (b : Fin 32) : Statement (.barExpect a b) := by
  intro hw f hf
  obtain rfl := Option.some.inj (show some ⟨17, 0, a.val, b.val, 1⟩ = some f from hf)
  have l_a := a.isLt
  have l_b := b.isLt
  have e0 : fld0 0 = .ok () := rfl
  have e1 : fldN 32 a.val = .ok a := fldN_eq a rfl
  have e2 : fldN 32 b.val = .ok b := fldN_eq b rfl
  refine ⟨Nat.le_of_ble_eq_true rfl, Nat.le_of_ble_eq_true rfl, Nat.lt_of_lt_of_le a.isLt (by decide), Nat.lt_of_lt_of_le b.isLt (by decide), Nat.le_of_ble_eq_true rfl, ?_⟩
  exact form3_ok (k := (fun _ a b => .barExpect a b)) e0 e1 e2

theorem barWait (a : Fin 32) (b : Fin 32) : Statement (.barWait a b) := by
  intro hw f hf
  obtain rfl := Option.some.inj (show some ⟨17, 0, a.val, b.val, 2⟩ = some f from hf)
  have l_a := a.isLt
  have l_b := b.isLt
  have e0 : fld0 0 = .ok () := rfl
  have e1 : fldN 32 a.val = .ok a := fldN_eq a rfl
  have e2 : fldN 32 b.val = .ok b := fldN_eq b rfl
  refine ⟨Nat.le_of_ble_eq_true rfl, Nat.le_of_ble_eq_true rfl, Nat.lt_of_lt_of_le a.isLt (by decide), Nat.lt_of_lt_of_le b.isLt (by decide), Nat.le_of_ble_eq_true rfl, ?_⟩
  exact form3_ok (k := (fun _ a b => .barWait a b)) e0 e1 e2

theorem barTest (d : Fin 32) (a : Fin 32) (b : Fin 32) : Statement (.barTest d a b) := by
  intro hw f hf
  obtain rfl := Option.some.inj (show some ⟨17, d.val, a.val, b.val, 3⟩ = some f from hf)
  have l_d := d.isLt
  have l_a := a.isLt
  have l_b := b.isLt
  have e0 : fldN 32 d.val = .ok d := fldN_eq d rfl
  have e1 : fldN 32 a.val = .ok a := fldN_eq a rfl
  have e2 : fldN 32 b.val = .ok b := fldN_eq b rfl
  refine ⟨Nat.le_of_ble_eq_true rfl, Nat.lt_of_lt_of_le d.isLt (by decide), Nat.lt_of_lt_of_le a.isLt (by decide), Nat.lt_of_lt_of_le b.isLt (by decide), Nat.le_of_ble_eq_true rfl, ?_⟩
  exact form3_ok (k := .barTest) e0 e1 e2

theorem barInit (a : Fin 32) (b : Fin 32) : Statement (.barInit a b) := by
  intro hw f hf
  obtain rfl := Option.some.inj (show some ⟨17, 0, a.val, b.val, 4⟩ = some f from hf)
  have l_a := a.isLt
  have l_b := b.isLt
  have e0 : fld0 0 = .ok () := rfl
  have e1 : fldN 32 a.val = .ok a := fldN_eq a rfl
  have e2 : fldN 32 b.val = .ok b := fldN_eq b rfl
  refine ⟨Nat.le_of_ble_eq_true rfl, Nat.le_of_ble_eq_true rfl, Nat.lt_of_lt_of_le a.isLt (by decide), Nat.lt_of_lt_of_le b.isLt (by decide), Nat.le_of_ble_eq_true rfl, ?_⟩
  exact form3_ok (k := (fun _ a b => .barInit a b)) e0 e1 e2

theorem forkF (off : BitVec 14) : Statement (.forkF off) := by
  intro hw f hf
  obtain rfl := Option.some.inj (show some ⟨18, 0, 0, (off.toNat / 256), (off.toNat % 256)⟩ = some f from hf)
  have l_off := off.isLt
  have e0 : fld0 0 = .ok () := rfl
  have e1 : (.ok (BitVec.ofNat 14 ((off.toNat / 256) * 256 + (off.toNat % 256))) : Except Reject _) = .ok off := congrArg _ (ofNat_toNat off (by omega))
  refine ⟨Nat.le_of_ble_eq_true rfl, Nat.le_of_ble_eq_true rfl, Nat.le_of_ble_eq_true rfl, by dsimp only; omega, by dsimp only; omega, ?_⟩
  exact form2_ok (k := (fun _ off => .forkF off)) e0 e1

theorem forkX (off : BitVec 14) : Statement (.forkX off) := by
  intro hw f hf
  obtain rfl := Option.some.inj (show some ⟨18, 1, 0, (off.toNat / 256), (off.toNat % 256)⟩ = some f from hf)
  have l_off := off.isLt
  have e0 : fld0 0 = .ok () := rfl
  have e1 : (.ok (BitVec.ofNat 14 ((off.toNat / 256) * 256 + (off.toNat % 256))) : Except Reject _) = .ok off := congrArg _ (ofNat_toNat off (by omega))
  refine ⟨Nat.le_of_ble_eq_true rfl, Nat.le_of_ble_eq_true rfl, Nat.le_of_ble_eq_true rfl, by dsimp only; omega, by dsimp only; omega, ?_⟩
  exact form2_ok (k := (fun _ off => .forkX off)) e0 e1

theorem join : Statement (.join) := by
  intro hw f hf
  obtain rfl := Option.some.inj (show some ⟨19, 0, 0, 0, 0⟩ = some f from hf)
  have e0 : fld0 0 = .ok () := rfl
  have e1 : fld0 0 = .ok () := rfl
  have e2 : fld0 0 = .ok () := rfl
  refine ⟨Nat.le_of_ble_eq_true rfl, Nat.le_of_ble_eq_true rfl, Nat.le_of_ble_eq_true rfl, Nat.le_of_ble_eq_true rfl, Nat.le_of_ble_eq_true rfl, ?_⟩
  exact form3_ok (k := (fun _ _ _ => .join)) e0 e1 e2

theorem exit : Statement (.exit) := by
  intro hw f hf
  obtain rfl := Option.some.inj (show some ⟨19, 0, 0, 0, 1⟩ = some f from hf)
  have e0 : fld0 0 = .ok () := rfl
  have e1 : fld0 0 = .ok () := rfl
  have e2 : fld0 0 = .ok () := rfl
  refine ⟨Nat.le_of_ble_eq_true rfl, Nat.le_of_ble_eq_true rfl, Nat.le_of_ble_eq_true rfl, Nat.le_of_ble_eq_true rfl, Nat.le_of_ble_eq_true rfl, ?_⟩
  exact form3_ok (k := (fun _ _ _ => .exit)) e0 e1 e2

theorem yield : Statement (.yield) := by
  intro hw f hf
  obtain rfl := Option.some.inj (show some ⟨19, 0, 0, 0, 2⟩ = some f from hf)
  have e0 : fld0 0 = .ok () := rfl
  have e1 : fld0 0 = .ok () := rfl
  have e2 : fld0 0 = .ok () := rfl
  refine ⟨Nat.le_of_ble_eq_true rfl, Nat.le_of_ble_eq_true rfl, Nat.le_of_ble_eq_true rfl, Nat.le_of_ble_eq_true rfl, Nat.le_of_ble_eq_true rfl, ?_⟩
  exact form3_ok (k := (fun _ _ _ => .yield)) e0 e1 e2

theorem trap (k : Fin 64) : Statement (.trap k) := by
  intro hw f hf
  obtain rfl := Option.some.inj (show some ⟨19, 0, k.val, 0, 8⟩ = some f from hf)
  have l_k := k.isLt
  have e0 : fld0 0 = .ok () := rfl
  have e1 : fldN 64 k.val = .ok k := fldN_eq k rfl
  have e2 : fld0 0 = .ok () := rfl
  refine ⟨Nat.le_of_ble_eq_true rfl, Nat.le_of_ble_eq_true rfl, Nat.lt_of_lt_of_le k.isLt (by decide), Nat.le_of_ble_eq_true rfl, Nat.le_of_ble_eq_true rfl, ?_⟩
  exact form3_ok (k := (fun _ k _ => .trap k)) e0 e1 e2

theorem tret : Statement (.tret) := by
  intro hw f hf
  obtain rfl := Option.some.inj (show some ⟨19, 0, 0, 0, 9⟩ = some f from hf)
  have e0 : fld0 0 = .ok () := rfl
  have e1 : fld0 0 = .ok () := rfl
  have e2 : fld0 0 = .ok () := rfl
  refine ⟨Nat.le_of_ble_eq_true rfl, Nat.le_of_ble_eq_true rfl, Nat.le_of_ble_eq_true rfl, Nat.le_of_ble_eq_true rfl, Nat.le_of_ble_eq_true rfl, ?_⟩
  exact form3_ok (k := (fun _ _ _ => .tret)) e0 e1 e2

theorem gets (d : Fin 32) (r : Fin 21) : Statement (.gets d r) := by
  intro hw f hf
  obtain rfl := Option.some.inj (show some ⟨19, d.val, r.val, 0, 16⟩ = some f from hf)
  have l_d := d.isLt
  have l_r := r.isLt
  have e0 : fldN 32 d.val = .ok d := fldN_eq d rfl
  have e1 : fldN 21 r.val = .ok r := fldN_eq r rfl
  have e2 : fld0 0 = .ok () := rfl
  refine ⟨Nat.le_of_ble_eq_true rfl, Nat.lt_of_lt_of_le d.isLt (by decide), Nat.lt_of_lt_of_le r.isLt (by decide), Nat.le_of_ble_eq_true rfl, Nat.le_of_ble_eq_true rfl, ?_⟩
  exact form3_ok (k := (fun d r _ => .gets d r)) e0 e1 e2

theorem sets (r : Fin 21) (b : Fin 32) : Statement (.sets r b) := by
  intro hw f hf
  obtain rfl := Option.some.inj (show some ⟨19, 0, r.val, b.val, 17⟩ = some f from hf)
  have l_r := r.isLt
  have l_b := b.isLt
  have e0 : fld0 0 = .ok () := rfl
  have e1 : fldN 21 r.val = .ok r := fldN_eq r rfl
  have e2 : fldN 32 b.val = .ok b := fldN_eq b rfl
  refine ⟨Nat.le_of_ble_eq_true rfl, Nat.le_of_ble_eq_true rfl, Nat.lt_of_lt_of_le r.isLt (by decide), Nat.lt_of_lt_of_le b.isLt (by decide), Nat.le_of_ble_eq_true rfl, ?_⟩
  exact form3_ok (k := (fun _ r b => .sets r b)) e0 e1 e2

theorem launch (d : Fin 32) (a : Fin 32) : Statement (.launch d a) := by
  intro hw f hf
  obtain rfl := Option.some.inj (show some ⟨19, d.val, a.val, 0, 24⟩ = some f from hf)
  have l_d := d.isLt
  have l_a := a.isLt
  have e0 : fldN 32 d.val = .ok d := fldN_eq d rfl
  have e1 : fldN 32 a.val = .ok a := fldN_eq a rfl
  have e2 : fld0 0 = .ok () := rfl
  refine ⟨Nat.le_of_ble_eq_true rfl, Nat.lt_of_lt_of_le d.isLt (by decide), Nat.lt_of_lt_of_le a.isLt (by decide), Nat.le_of_ble_eq_true rfl, Nat.le_of_ble_eq_true rfl, ?_⟩
  exact form3_ok (k := (fun d a _ => .launch d a)) e0 e1 e2

theorem vsetl (d : Fin 32) (a : Fin 32) (b : Fin 32) : Statement (.vsetl d a b) := by
  intro hw f hf
  obtain rfl := Option.some.inj (show some ⟨20, d.val, a.val, b.val, 0⟩ = some f from hf)
  have l_d := d.isLt
  have l_a := a.isLt
  have l_b := b.isLt
  have h0 : 0 % 32 = 0 := by omega
  have e0 : fldN 32 d.val = .ok d := fldN_eq d rfl
  have e1 : fldN 32 a.val = .ok a := fldN_eq a rfl
  have e2 : fldN 32 b.val = .ok b := fldN_eq b rfl
  have e3 : fld0 (0 / 32) = .ok () := fld0_eq (by omega)
  refine ⟨Nat.le_of_ble_eq_true rfl, Nat.lt_of_lt_of_le d.isLt (by decide), Nat.lt_of_lt_of_le a.isLt (by decide), Nat.lt_of_lt_of_le b.isLt (by decide), Nat.le_of_ble_eq_true rfl, ?_⟩
  have hm : decodeMajor14 ⟨20, d.val, a.val, b.val, 0⟩ = form4 (fldN 32 d.val) (fldN 32 a.val) (fldN 32 b.val) (fld0 (0 / 32)) (fun d a b _ => .vsetl d a b) := by
    unfold decodeMajor14; dsimp only; rw [h0]; try rfl
  exact hm.trans (form4_ok (k := (fun d a b _ => .vsetl d a b)) e0 e1 e2 e3)

theorem vcfg (n : Fin 4) : Statement (.vcfg n) := by
  intro hw f hf
  obtain rfl := Option.some.inj (show some ⟨20, 0, (countOf n), 0, 1⟩ = some f from hf)
  have l_n := n.isLt
  have h0 : 1 % 32 = 1 := by omega
  have e0 : fld0 0 = .ok () := rfl
  have e1 : fldCount (countOf n) = .ok n := fldCount_eq n
  have l_count := countOf_lt n
  have e2 : fld0 0 = .ok () := rfl
  have e3 : fld0 (1 / 32) = .ok () := fld0_eq (by omega)
  refine ⟨Nat.le_of_ble_eq_true rfl, Nat.le_of_ble_eq_true rfl, by dsimp only; omega, Nat.le_of_ble_eq_true rfl, Nat.le_of_ble_eq_true rfl, ?_⟩
  have hm : decodeMajor14 ⟨20, 0, (countOf n), 0, 1⟩ = form4 (fld0 0) (fldCount (countOf n)) (fld0 0) (fld0 (1 / 32)) (fun _ n _ _ => .vcfg n) := by
    unfold decodeMajor14; dsimp only; rw [h0]; try rfl
  exact hm.trans (form4_ok (k := (fun _ n _ _ => .vcfg n)) e0 e1 e2 e3)

theorem vtos (d : Fin 32) (a : Fin 56) (b : Fin 32) : Statement (.vtos d a b) := by
  intro hw f hf
  obtain rfl := Option.some.inj (show some ⟨20, d.val, a.val, b.val, 2⟩ = some f from hf)
  have l_d := d.isLt
  have l_a := a.isLt
  have l_b := b.isLt
  have h0 : 2 % 32 = 2 := by omega
  have e0 : fldN 32 d.val = .ok d := fldN_eq d rfl
  have e1 : fldN 56 a.val = .ok a := fldN_eq a rfl
  have e2 : fldN 32 b.val = .ok b := fldN_eq b rfl
  have e3 : fld0 (2 / 32) = .ok () := fld0_eq (by omega)
  refine ⟨Nat.le_of_ble_eq_true rfl, Nat.lt_of_lt_of_le d.isLt (by decide), Nat.lt_of_lt_of_le a.isLt (by decide), Nat.lt_of_lt_of_le b.isLt (by decide), Nat.le_of_ble_eq_true rfl, ?_⟩
  have hm : decodeMajor14 ⟨20, d.val, a.val, b.val, 2⟩ = form4 (fldN 32 d.val) (fldN 56 a.val) (fldN 32 b.val) (fld0 (2 / 32)) (fun d a b _ => .vtos d a b) := by
    unfold decodeMajor14; dsimp only; rw [h0]; try rfl
  exact hm.trans (form4_ok (k := (fun d a b _ => .vtos d a b)) e0 e1 e2 e3)

theorem mtos (d : Fin 32) (k : Fin 8) : Statement (.mtos d k) := by
  intro hw f hf
  obtain rfl := Option.some.inj (show some ⟨20, d.val, k.val, 0, 3⟩ = some f from hf)
  have l_d := d.isLt
  have l_k := k.isLt
  have h0 : 3 % 32 = 3 := by omega
  have e0 : fldN 32 d.val = .ok d := fldN_eq d rfl
  have e1 : fldN 8 k.val = .ok k := fldN_eq k rfl
  have e2 : fld0 0 = .ok () := rfl
  have e3 : fld0 (3 / 32) = .ok () := fld0_eq (by omega)
  refine ⟨Nat.le_of_ble_eq_true rfl, Nat.lt_of_lt_of_le d.isLt (by decide), Nat.lt_of_lt_of_le k.isLt (by decide), Nat.le_of_ble_eq_true rfl, Nat.le_of_ble_eq_true rfl, ?_⟩
  have hm : decodeMajor14 ⟨20, d.val, k.val, 0, 3⟩ = form4 (fldN 32 d.val) (fldN 8 k.val) (fld0 0) (fld0 (3 / 32)) (fun d k _ _ => .mtos d k) := by
    unfold decodeMajor14; dsimp only; rw [h0]; try rfl
  exact hm.trans (form4_ok (k := (fun d k _ _ => .mtos d k)) e0 e1 e2 e3)

theorem vbcast (d : Fin 48) (a : Fin 32) : Statement (.vbcast d a) := by
  intro hw f hf
  obtain rfl := Option.some.inj (show some ⟨20, d.val, a.val, 0, 4⟩ = some f from hf)
  have l_d := d.isLt
  have l_a := a.isLt
  have h0 : 4 % 32 = 4 := by omega
  have e0 : fldN 48 d.val = .ok d := fldN_eq d rfl
  have e1 : fldN 32 a.val = .ok a := fldN_eq a rfl
  have e2 : fld0 0 = .ok () := rfl
  have e3 : fld0 (4 / 32) = .ok () := fld0_eq (by omega)
  refine ⟨Nat.le_of_ble_eq_true rfl, Nat.lt_of_lt_of_le d.isLt (by decide), Nat.lt_of_lt_of_le a.isLt (by decide), Nat.le_of_ble_eq_true rfl, Nat.le_of_ble_eq_true rfl, ?_⟩
  have hm : decodeMajor14 ⟨20, d.val, a.val, 0, 4⟩ = form4 (fldN 48 d.val) (fldN 32 a.val) (fld0 0) (fld0 (4 / 32)) (fun d a _ _ => .vbcast d a) := by
    unfold decodeMajor14; dsimp only; rw [h0]; try rfl
  exact hm.trans (form4_ok (k := (fun d a _ _ => .vbcast d a)) e0 e1 e2 e3)

theorem vindex (d : Fin 48) : Statement (.vindex d) := by
  intro hw f hf
  obtain rfl := Option.some.inj (show some ⟨20, d.val, 0, 0, 5⟩ = some f from hf)
  have l_d := d.isLt
  have h0 : 5 % 32 = 5 := by omega
  have e0 : fldN 48 d.val = .ok d := fldN_eq d rfl
  have e1 : fld0 0 = .ok () := rfl
  have e2 : fld0 0 = .ok () := rfl
  have e3 : fld0 (5 / 32) = .ok () := fld0_eq (by omega)
  refine ⟨Nat.le_of_ble_eq_true rfl, Nat.lt_of_lt_of_le d.isLt (by decide), Nat.le_of_ble_eq_true rfl, Nat.le_of_ble_eq_true rfl, Nat.le_of_ble_eq_true rfl, ?_⟩
  have hm : decodeMajor14 ⟨20, d.val, 0, 0, 5⟩ = form4 (fldN 48 d.val) (fld0 0) (fld0 0) (fld0 (5 / 32)) (fun d _ _ _ => .vindex d) := by
    unfold decodeMajor14; dsimp only; rw [h0]; try rfl
  exact hm.trans (form4_ok (k := (fun d _ _ _ => .vindex d)) e0 e1 e2 e3)

theorem vaddFloat (d : Fin 48) (a : Fin 56) (b : Fin 56) (m : Fin 8) : Statement (.vaddFloat d a b m) := by
  intro hw f hf
  obtain rfl := Option.some.inj (show some ⟨21, d.val, a.val, b.val, (32 * m.val + 0)⟩ = some f from hf)
  have l_d := d.isLt
  have l_a := a.isLt
  have l_b := b.isLt
  have l_m := m.isLt
  have h0 : (32 * m.val + 0) % 32 = 0 := by omega
  have e0 : fldN 48 d.val = .ok d := fldN_eq d rfl
  have e1 : fldN 56 a.val = .ok a := fldN_eq a rfl
  have e2 : fldN 56 b.val = .ok b := fldN_eq b rfl
  have e3 : fldN 8 ((32 * m.val + 0) / 32) = .ok m := fldN_eq m (by omega)
  refine ⟨Nat.le_of_ble_eq_true rfl, Nat.lt_of_lt_of_le d.isLt (by decide), Nat.lt_of_lt_of_le a.isLt (by decide), Nat.lt_of_lt_of_le b.isLt (by decide), by dsimp only; omega, ?_⟩
  have hm : decodeMajor15 ⟨21, d.val, a.val, b.val, (32 * m.val + 0)⟩ = form4 (fldN 48 d.val) (fldN 56 a.val) (fldN 56 b.val) (fldN 8 ((32 * m.val + 0) / 32)) .vaddFloat := by
    unfold decodeMajor15; dsimp only; rw [h0]; try rfl
  exact hm.trans (form4_ok (k := .vaddFloat) e0 e1 e2 e3)

theorem vsubFloat (d : Fin 48) (a : Fin 56) (b : Fin 56) (m : Fin 8) : Statement (.vsubFloat d a b m) := by
  intro hw f hf
  obtain rfl := Option.some.inj (show some ⟨21, d.val, a.val, b.val, (32 * m.val + 1)⟩ = some f from hf)
  have l_d := d.isLt
  have l_a := a.isLt
  have l_b := b.isLt
  have l_m := m.isLt
  have h0 : (32 * m.val + 1) % 32 = 1 := by omega
  have e0 : fldN 48 d.val = .ok d := fldN_eq d rfl
  have e1 : fldN 56 a.val = .ok a := fldN_eq a rfl
  have e2 : fldN 56 b.val = .ok b := fldN_eq b rfl
  have e3 : fldN 8 ((32 * m.val + 1) / 32) = .ok m := fldN_eq m (by omega)
  refine ⟨Nat.le_of_ble_eq_true rfl, Nat.lt_of_lt_of_le d.isLt (by decide), Nat.lt_of_lt_of_le a.isLt (by decide), Nat.lt_of_lt_of_le b.isLt (by decide), by dsimp only; omega, ?_⟩
  have hm : decodeMajor15 ⟨21, d.val, a.val, b.val, (32 * m.val + 1)⟩ = form4 (fldN 48 d.val) (fldN 56 a.val) (fldN 56 b.val) (fldN 8 ((32 * m.val + 1) / 32)) .vsubFloat := by
    unfold decodeMajor15; dsimp only; rw [h0]; try rfl
  exact hm.trans (form4_ok (k := .vsubFloat) e0 e1 e2 e3)

theorem vmulFloat (d : Fin 48) (a : Fin 56) (b : Fin 56) (m : Fin 8) : Statement (.vmulFloat d a b m) := by
  intro hw f hf
  obtain rfl := Option.some.inj (show some ⟨21, d.val, a.val, b.val, (32 * m.val + 2)⟩ = some f from hf)
  have l_d := d.isLt
  have l_a := a.isLt
  have l_b := b.isLt
  have l_m := m.isLt
  have h0 : (32 * m.val + 2) % 32 = 2 := by omega
  have e0 : fldN 48 d.val = .ok d := fldN_eq d rfl
  have e1 : fldN 56 a.val = .ok a := fldN_eq a rfl
  have e2 : fldN 56 b.val = .ok b := fldN_eq b rfl
  have e3 : fldN 8 ((32 * m.val + 2) / 32) = .ok m := fldN_eq m (by omega)
  refine ⟨Nat.le_of_ble_eq_true rfl, Nat.lt_of_lt_of_le d.isLt (by decide), Nat.lt_of_lt_of_le a.isLt (by decide), Nat.lt_of_lt_of_le b.isLt (by decide), by dsimp only; omega, ?_⟩
  have hm : decodeMajor15 ⟨21, d.val, a.val, b.val, (32 * m.val + 2)⟩ = form4 (fldN 48 d.val) (fldN 56 a.val) (fldN 56 b.val) (fldN 8 ((32 * m.val + 2) / 32)) .vmulFloat := by
    unfold decodeMajor15; dsimp only; rw [h0]; try rfl
  exact hm.trans (form4_ok (k := .vmulFloat) e0 e1 e2 e3)

theorem vdiv (d : Fin 48) (a : Fin 56) (b : Fin 56) (m : Fin 8) : Statement (.vdiv d a b m) := by
  intro hw f hf
  obtain rfl := Option.some.inj (show some ⟨21, d.val, a.val, b.val, (32 * m.val + 3)⟩ = some f from hf)
  have l_d := d.isLt
  have l_a := a.isLt
  have l_b := b.isLt
  have l_m := m.isLt
  have h0 : (32 * m.val + 3) % 32 = 3 := by omega
  have e0 : fldN 48 d.val = .ok d := fldN_eq d rfl
  have e1 : fldN 56 a.val = .ok a := fldN_eq a rfl
  have e2 : fldN 56 b.val = .ok b := fldN_eq b rfl
  have e3 : fldN 8 ((32 * m.val + 3) / 32) = .ok m := fldN_eq m (by omega)
  refine ⟨Nat.le_of_ble_eq_true rfl, Nat.lt_of_lt_of_le d.isLt (by decide), Nat.lt_of_lt_of_le a.isLt (by decide), Nat.lt_of_lt_of_le b.isLt (by decide), by dsimp only; omega, ?_⟩
  have hm : decodeMajor15 ⟨21, d.val, a.val, b.val, (32 * m.val + 3)⟩ = form4 (fldN 48 d.val) (fldN 56 a.val) (fldN 56 b.val) (fldN 8 ((32 * m.val + 3) / 32)) .vdiv := by
    unfold decodeMajor15; dsimp only; rw [h0]; try rfl
  exact hm.trans (form4_ok (k := .vdiv) e0 e1 e2 e3)

theorem vfma (d : Fin 48) (a : Fin 56) (b : Fin 56) (m : Fin 8) : Statement (.vfma d a b m) := by
  intro hw f hf
  obtain rfl := Option.some.inj (show some ⟨21, d.val, a.val, b.val, (32 * m.val + 4)⟩ = some f from hf)
  have l_d := d.isLt
  have l_a := a.isLt
  have l_b := b.isLt
  have l_m := m.isLt
  have h0 : (32 * m.val + 4) % 32 = 4 := by omega
  have e0 : fldN 48 d.val = .ok d := fldN_eq d rfl
  have e1 : fldN 56 a.val = .ok a := fldN_eq a rfl
  have e2 : fldN 56 b.val = .ok b := fldN_eq b rfl
  have e3 : fldN 8 ((32 * m.val + 4) / 32) = .ok m := fldN_eq m (by omega)
  refine ⟨Nat.le_of_ble_eq_true rfl, Nat.lt_of_lt_of_le d.isLt (by decide), Nat.lt_of_lt_of_le a.isLt (by decide), Nat.lt_of_lt_of_le b.isLt (by decide), by dsimp only; omega, ?_⟩
  have hm : decodeMajor15 ⟨21, d.val, a.val, b.val, (32 * m.val + 4)⟩ = form4 (fldN 48 d.val) (fldN 56 a.val) (fldN 56 b.val) (fldN 8 ((32 * m.val + 4) / 32)) .vfma := by
    unfold decodeMajor15; dsimp only; rw [h0]; try rfl
  exact hm.trans (form4_ok (k := .vfma) e0 e1 e2 e3)

theorem vfms (d : Fin 48) (a : Fin 56) (b : Fin 56) (m : Fin 8) : Statement (.vfms d a b m) := by
  intro hw f hf
  obtain rfl := Option.some.inj (show some ⟨21, d.val, a.val, b.val, (32 * m.val + 5)⟩ = some f from hf)
  have l_d := d.isLt
  have l_a := a.isLt
  have l_b := b.isLt
  have l_m := m.isLt
  have h0 : (32 * m.val + 5) % 32 = 5 := by omega
  have e0 : fldN 48 d.val = .ok d := fldN_eq d rfl
  have e1 : fldN 56 a.val = .ok a := fldN_eq a rfl
  have e2 : fldN 56 b.val = .ok b := fldN_eq b rfl
  have e3 : fldN 8 ((32 * m.val + 5) / 32) = .ok m := fldN_eq m (by omega)
  refine ⟨Nat.le_of_ble_eq_true rfl, Nat.lt_of_lt_of_le d.isLt (by decide), Nat.lt_of_lt_of_le a.isLt (by decide), Nat.lt_of_lt_of_le b.isLt (by decide), by dsimp only; omega, ?_⟩
  have hm : decodeMajor15 ⟨21, d.val, a.val, b.val, (32 * m.val + 5)⟩ = form4 (fldN 48 d.val) (fldN 56 a.val) (fldN 56 b.val) (fldN 8 ((32 * m.val + 5) / 32)) .vfms := by
    unfold decodeMajor15; dsimp only; rw [h0]; try rfl
  exact hm.trans (form4_ok (k := .vfms) e0 e1 e2 e3)

theorem vfnma (d : Fin 48) (a : Fin 56) (b : Fin 56) (m : Fin 8) : Statement (.vfnma d a b m) := by
  intro hw f hf
  obtain rfl := Option.some.inj (show some ⟨21, d.val, a.val, b.val, (32 * m.val + 6)⟩ = some f from hf)
  have l_d := d.isLt
  have l_a := a.isLt
  have l_b := b.isLt
  have l_m := m.isLt
  have h0 : (32 * m.val + 6) % 32 = 6 := by omega
  have e0 : fldN 48 d.val = .ok d := fldN_eq d rfl
  have e1 : fldN 56 a.val = .ok a := fldN_eq a rfl
  have e2 : fldN 56 b.val = .ok b := fldN_eq b rfl
  have e3 : fldN 8 ((32 * m.val + 6) / 32) = .ok m := fldN_eq m (by omega)
  refine ⟨Nat.le_of_ble_eq_true rfl, Nat.lt_of_lt_of_le d.isLt (by decide), Nat.lt_of_lt_of_le a.isLt (by decide), Nat.lt_of_lt_of_le b.isLt (by decide), by dsimp only; omega, ?_⟩
  have hm : decodeMajor15 ⟨21, d.val, a.val, b.val, (32 * m.val + 6)⟩ = form4 (fldN 48 d.val) (fldN 56 a.val) (fldN 56 b.val) (fldN 8 ((32 * m.val + 6) / 32)) .vfnma := by
    unfold decodeMajor15; dsimp only; rw [h0]; try rfl
  exact hm.trans (form4_ok (k := .vfnma) e0 e1 e2 e3)

theorem vminFloat (d : Fin 48) (a : Fin 56) (b : Fin 56) (m : Fin 8) : Statement (.vminFloat d a b m) := by
  intro hw f hf
  obtain rfl := Option.some.inj (show some ⟨21, d.val, a.val, b.val, (32 * m.val + 7)⟩ = some f from hf)
  have l_d := d.isLt
  have l_a := a.isLt
  have l_b := b.isLt
  have l_m := m.isLt
  have h0 : (32 * m.val + 7) % 32 = 7 := by omega
  have e0 : fldN 48 d.val = .ok d := fldN_eq d rfl
  have e1 : fldN 56 a.val = .ok a := fldN_eq a rfl
  have e2 : fldN 56 b.val = .ok b := fldN_eq b rfl
  have e3 : fldN 8 ((32 * m.val + 7) / 32) = .ok m := fldN_eq m (by omega)
  refine ⟨Nat.le_of_ble_eq_true rfl, Nat.lt_of_lt_of_le d.isLt (by decide), Nat.lt_of_lt_of_le a.isLt (by decide), Nat.lt_of_lt_of_le b.isLt (by decide), by dsimp only; omega, ?_⟩
  have hm : decodeMajor15 ⟨21, d.val, a.val, b.val, (32 * m.val + 7)⟩ = form4 (fldN 48 d.val) (fldN 56 a.val) (fldN 56 b.val) (fldN 8 ((32 * m.val + 7) / 32)) .vminFloat := by
    unfold decodeMajor15; dsimp only; rw [h0]; try rfl
  exact hm.trans (form4_ok (k := .vminFloat) e0 e1 e2 e3)

theorem vmaxFloat (d : Fin 48) (a : Fin 56) (b : Fin 56) (m : Fin 8) : Statement (.vmaxFloat d a b m) := by
  intro hw f hf
  obtain rfl := Option.some.inj (show some ⟨21, d.val, a.val, b.val, (32 * m.val + 8)⟩ = some f from hf)
  have l_d := d.isLt
  have l_a := a.isLt
  have l_b := b.isLt
  have l_m := m.isLt
  have h0 : (32 * m.val + 8) % 32 = 8 := by omega
  have e0 : fldN 48 d.val = .ok d := fldN_eq d rfl
  have e1 : fldN 56 a.val = .ok a := fldN_eq a rfl
  have e2 : fldN 56 b.val = .ok b := fldN_eq b rfl
  have e3 : fldN 8 ((32 * m.val + 8) / 32) = .ok m := fldN_eq m (by omega)
  refine ⟨Nat.le_of_ble_eq_true rfl, Nat.lt_of_lt_of_le d.isLt (by decide), Nat.lt_of_lt_of_le a.isLt (by decide), Nat.lt_of_lt_of_le b.isLt (by decide), by dsimp only; omega, ?_⟩
  have hm : decodeMajor15 ⟨21, d.val, a.val, b.val, (32 * m.val + 8)⟩ = form4 (fldN 48 d.val) (fldN 56 a.val) (fldN 56 b.val) (fldN 8 ((32 * m.val + 8) / 32)) .vmaxFloat := by
    unfold decodeMajor15; dsimp only; rw [h0]; try rfl
  exact hm.trans (form4_ok (k := .vmaxFloat) e0 e1 e2 e3)

theorem vabsFloat (d : Fin 48) (a : Fin 56) (m : Fin 8) : Statement (.vabsFloat d a m) := by
  intro hw f hf
  obtain rfl := Option.some.inj (show some ⟨21, d.val, a.val, 0, (32 * m.val + 9)⟩ = some f from hf)
  have l_d := d.isLt
  have l_a := a.isLt
  have l_m := m.isLt
  have h0 : (32 * m.val + 9) % 32 = 9 := by omega
  have e0 : fldN 48 d.val = .ok d := fldN_eq d rfl
  have e1 : fldN 56 a.val = .ok a := fldN_eq a rfl
  have e2 : fld0 0 = .ok () := rfl
  have e3 : fldN 8 ((32 * m.val + 9) / 32) = .ok m := fldN_eq m (by omega)
  refine ⟨Nat.le_of_ble_eq_true rfl, Nat.lt_of_lt_of_le d.isLt (by decide), Nat.lt_of_lt_of_le a.isLt (by decide), Nat.le_of_ble_eq_true rfl, by dsimp only; omega, ?_⟩
  have hm : decodeMajor15 ⟨21, d.val, a.val, 0, (32 * m.val + 9)⟩ = form4 (fldN 48 d.val) (fldN 56 a.val) (fld0 0) (fldN 8 ((32 * m.val + 9) / 32)) (fun d a _ m => .vabsFloat d a m) := by
    unfold decodeMajor15; dsimp only; rw [h0]; try rfl
  exact hm.trans (form4_ok (k := (fun d a _ m => .vabsFloat d a m)) e0 e1 e2 e3)

theorem vnegFloat (d : Fin 48) (a : Fin 56) (m : Fin 8) : Statement (.vnegFloat d a m) := by
  intro hw f hf
  obtain rfl := Option.some.inj (show some ⟨21, d.val, a.val, 0, (32 * m.val + 10)⟩ = some f from hf)
  have l_d := d.isLt
  have l_a := a.isLt
  have l_m := m.isLt
  have h0 : (32 * m.val + 10) % 32 = 10 := by omega
  have e0 : fldN 48 d.val = .ok d := fldN_eq d rfl
  have e1 : fldN 56 a.val = .ok a := fldN_eq a rfl
  have e2 : fld0 0 = .ok () := rfl
  have e3 : fldN 8 ((32 * m.val + 10) / 32) = .ok m := fldN_eq m (by omega)
  refine ⟨Nat.le_of_ble_eq_true rfl, Nat.lt_of_lt_of_le d.isLt (by decide), Nat.lt_of_lt_of_le a.isLt (by decide), Nat.le_of_ble_eq_true rfl, by dsimp only; omega, ?_⟩
  have hm : decodeMajor15 ⟨21, d.val, a.val, 0, (32 * m.val + 10)⟩ = form4 (fldN 48 d.val) (fldN 56 a.val) (fld0 0) (fldN 8 ((32 * m.val + 10) / 32)) (fun d a _ m => .vnegFloat d a m) := by
    unfold decodeMajor15; dsimp only; rw [h0]; try rfl
  exact hm.trans (form4_ok (k := (fun d a _ m => .vnegFloat d a m)) e0 e1 e2 e3)

theorem vsqrt (d : Fin 48) (a : Fin 56) (m : Fin 8) : Statement (.vsqrt d a m) := by
  intro hw f hf
  obtain rfl := Option.some.inj (show some ⟨21, d.val, a.val, 0, (32 * m.val + 11)⟩ = some f from hf)
  have l_d := d.isLt
  have l_a := a.isLt
  have l_m := m.isLt
  have h0 : (32 * m.val + 11) % 32 = 11 := by omega
  have e0 : fldN 48 d.val = .ok d := fldN_eq d rfl
  have e1 : fldN 56 a.val = .ok a := fldN_eq a rfl
  have e2 : fld0 0 = .ok () := rfl
  have e3 : fldN 8 ((32 * m.val + 11) / 32) = .ok m := fldN_eq m (by omega)
  refine ⟨Nat.le_of_ble_eq_true rfl, Nat.lt_of_lt_of_le d.isLt (by decide), Nat.lt_of_lt_of_le a.isLt (by decide), Nat.le_of_ble_eq_true rfl, by dsimp only; omega, ?_⟩
  have hm : decodeMajor15 ⟨21, d.val, a.val, 0, (32 * m.val + 11)⟩ = form4 (fldN 48 d.val) (fldN 56 a.val) (fld0 0) (fldN 8 ((32 * m.val + 11) / 32)) (fun d a _ m => .vsqrt d a m) := by
    unfold decodeMajor15; dsimp only; rw [h0]; try rfl
  exact hm.trans (form4_ok (k := (fun d a _ m => .vsqrt d a m)) e0 e1 e2 e3)

theorem vexp2 (d : Fin 48) (a : Fin 56) (m : Fin 8) : Statement (.vexp2 d a m) := by
  intro hw f hf
  obtain rfl := Option.some.inj (show some ⟨21, d.val, a.val, 0, (32 * m.val + 12)⟩ = some f from hf)
  have l_d := d.isLt
  have l_a := a.isLt
  have l_m := m.isLt
  have h0 : (32 * m.val + 12) % 32 = 12 := by omega
  have e0 : fldN 48 d.val = .ok d := fldN_eq d rfl
  have e1 : fldN 56 a.val = .ok a := fldN_eq a rfl
  have e2 : fld0 0 = .ok () := rfl
  have e3 : fldN 8 ((32 * m.val + 12) / 32) = .ok m := fldN_eq m (by omega)
  refine ⟨Nat.le_of_ble_eq_true rfl, Nat.lt_of_lt_of_le d.isLt (by decide), Nat.lt_of_lt_of_le a.isLt (by decide), Nat.le_of_ble_eq_true rfl, by dsimp only; omega, ?_⟩
  have hm : decodeMajor15 ⟨21, d.val, a.val, 0, (32 * m.val + 12)⟩ = form4 (fldN 48 d.val) (fldN 56 a.val) (fld0 0) (fldN 8 ((32 * m.val + 12) / 32)) (fun d a _ m => .vexp2 d a m) := by
    unfold decodeMajor15; dsimp only; rw [h0]; try rfl
  exact hm.trans (form4_ok (k := (fun d a _ m => .vexp2 d a m)) e0 e1 e2 e3)

theorem vaddInt (d : Fin 48) (a : Fin 56) (b : Fin 56) (m : Fin 8) : Statement (.vaddInt d a b m) := by
  intro hw f hf
  obtain rfl := Option.some.inj (show some ⟨22, d.val, a.val, b.val, (32 * m.val + 0)⟩ = some f from hf)
  have l_d := d.isLt
  have l_a := a.isLt
  have l_b := b.isLt
  have l_m := m.isLt
  have h0 : (32 * m.val + 0) % 32 = 0 := by omega
  have e0 : fldN 48 d.val = .ok d := fldN_eq d rfl
  have e1 : fldN 56 a.val = .ok a := fldN_eq a rfl
  have e2 : fldN 56 b.val = .ok b := fldN_eq b rfl
  have e3 : fldN 8 ((32 * m.val + 0) / 32) = .ok m := fldN_eq m (by omega)
  refine ⟨Nat.le_of_ble_eq_true rfl, Nat.lt_of_lt_of_le d.isLt (by decide), Nat.lt_of_lt_of_le a.isLt (by decide), Nat.lt_of_lt_of_le b.isLt (by decide), by dsimp only; omega, ?_⟩
  have hm : decodeMajor16 ⟨22, d.val, a.val, b.val, (32 * m.val + 0)⟩ = form4 (fldN 48 d.val) (fldN 56 a.val) (fldN 56 b.val) (fldN 8 ((32 * m.val + 0) / 32)) .vaddInt := by
    unfold decodeMajor16; dsimp only; rw [h0]; try rfl
  exact hm.trans (form4_ok (k := .vaddInt) e0 e1 e2 e3)

theorem vsubInt (d : Fin 48) (a : Fin 56) (b : Fin 56) (m : Fin 8) : Statement (.vsubInt d a b m) := by
  intro hw f hf
  obtain rfl := Option.some.inj (show some ⟨22, d.val, a.val, b.val, (32 * m.val + 1)⟩ = some f from hf)
  have l_d := d.isLt
  have l_a := a.isLt
  have l_b := b.isLt
  have l_m := m.isLt
  have h0 : (32 * m.val + 1) % 32 = 1 := by omega
  have e0 : fldN 48 d.val = .ok d := fldN_eq d rfl
  have e1 : fldN 56 a.val = .ok a := fldN_eq a rfl
  have e2 : fldN 56 b.val = .ok b := fldN_eq b rfl
  have e3 : fldN 8 ((32 * m.val + 1) / 32) = .ok m := fldN_eq m (by omega)
  refine ⟨Nat.le_of_ble_eq_true rfl, Nat.lt_of_lt_of_le d.isLt (by decide), Nat.lt_of_lt_of_le a.isLt (by decide), Nat.lt_of_lt_of_le b.isLt (by decide), by dsimp only; omega, ?_⟩
  have hm : decodeMajor16 ⟨22, d.val, a.val, b.val, (32 * m.val + 1)⟩ = form4 (fldN 48 d.val) (fldN 56 a.val) (fldN 56 b.val) (fldN 8 ((32 * m.val + 1) / 32)) .vsubInt := by
    unfold decodeMajor16; dsimp only; rw [h0]; try rfl
  exact hm.trans (form4_ok (k := .vsubInt) e0 e1 e2 e3)

theorem vmulInt (d : Fin 48) (a : Fin 56) (b : Fin 56) (m : Fin 8) : Statement (.vmulInt d a b m) := by
  intro hw f hf
  obtain rfl := Option.some.inj (show some ⟨22, d.val, a.val, b.val, (32 * m.val + 2)⟩ = some f from hf)
  have l_d := d.isLt
  have l_a := a.isLt
  have l_b := b.isLt
  have l_m := m.isLt
  have h0 : (32 * m.val + 2) % 32 = 2 := by omega
  have e0 : fldN 48 d.val = .ok d := fldN_eq d rfl
  have e1 : fldN 56 a.val = .ok a := fldN_eq a rfl
  have e2 : fldN 56 b.val = .ok b := fldN_eq b rfl
  have e3 : fldN 8 ((32 * m.val + 2) / 32) = .ok m := fldN_eq m (by omega)
  refine ⟨Nat.le_of_ble_eq_true rfl, Nat.lt_of_lt_of_le d.isLt (by decide), Nat.lt_of_lt_of_le a.isLt (by decide), Nat.lt_of_lt_of_le b.isLt (by decide), by dsimp only; omega, ?_⟩
  have hm : decodeMajor16 ⟨22, d.val, a.val, b.val, (32 * m.val + 2)⟩ = form4 (fldN 48 d.val) (fldN 56 a.val) (fldN 56 b.val) (fldN 8 ((32 * m.val + 2) / 32)) .vmulInt := by
    unfold decodeMajor16; dsimp only; rw [h0]; try rfl
  exact hm.trans (form4_ok (k := .vmulInt) e0 e1 e2 e3)

theorem vmulhi (d : Fin 48) (a : Fin 56) (b : Fin 56) (m : Fin 8) : Statement (.vmulhi d a b m) := by
  intro hw f hf
  obtain rfl := Option.some.inj (show some ⟨22, d.val, a.val, b.val, (32 * m.val + 3)⟩ = some f from hf)
  have l_d := d.isLt
  have l_a := a.isLt
  have l_b := b.isLt
  have l_m := m.isLt
  have h0 : (32 * m.val + 3) % 32 = 3 := by omega
  have e0 : fldN 48 d.val = .ok d := fldN_eq d rfl
  have e1 : fldN 56 a.val = .ok a := fldN_eq a rfl
  have e2 : fldN 56 b.val = .ok b := fldN_eq b rfl
  have e3 : fldN 8 ((32 * m.val + 3) / 32) = .ok m := fldN_eq m (by omega)
  refine ⟨Nat.le_of_ble_eq_true rfl, Nat.lt_of_lt_of_le d.isLt (by decide), Nat.lt_of_lt_of_le a.isLt (by decide), Nat.lt_of_lt_of_le b.isLt (by decide), by dsimp only; omega, ?_⟩
  have hm : decodeMajor16 ⟨22, d.val, a.val, b.val, (32 * m.val + 3)⟩ = form4 (fldN 48 d.val) (fldN 56 a.val) (fldN 56 b.val) (fldN 8 ((32 * m.val + 3) / 32)) .vmulhi := by
    unfold decodeMajor16; dsimp only; rw [h0]; try rfl
  exact hm.trans (form4_ok (k := .vmulhi) e0 e1 e2 e3)

theorem vminInt (d : Fin 48) (a : Fin 56) (b : Fin 56) (m : Fin 8) : Statement (.vminInt d a b m) := by
  intro hw f hf
  obtain rfl := Option.some.inj (show some ⟨22, d.val, a.val, b.val, (32 * m.val + 4)⟩ = some f from hf)
  have l_d := d.isLt
  have l_a := a.isLt
  have l_b := b.isLt
  have l_m := m.isLt
  have h0 : (32 * m.val + 4) % 32 = 4 := by omega
  have e0 : fldN 48 d.val = .ok d := fldN_eq d rfl
  have e1 : fldN 56 a.val = .ok a := fldN_eq a rfl
  have e2 : fldN 56 b.val = .ok b := fldN_eq b rfl
  have e3 : fldN 8 ((32 * m.val + 4) / 32) = .ok m := fldN_eq m (by omega)
  refine ⟨Nat.le_of_ble_eq_true rfl, Nat.lt_of_lt_of_le d.isLt (by decide), Nat.lt_of_lt_of_le a.isLt (by decide), Nat.lt_of_lt_of_le b.isLt (by decide), by dsimp only; omega, ?_⟩
  have hm : decodeMajor16 ⟨22, d.val, a.val, b.val, (32 * m.val + 4)⟩ = form4 (fldN 48 d.val) (fldN 56 a.val) (fldN 56 b.val) (fldN 8 ((32 * m.val + 4) / 32)) .vminInt := by
    unfold decodeMajor16; dsimp only; rw [h0]; try rfl
  exact hm.trans (form4_ok (k := .vminInt) e0 e1 e2 e3)

theorem vmaxInt (d : Fin 48) (a : Fin 56) (b : Fin 56) (m : Fin 8) : Statement (.vmaxInt d a b m) := by
  intro hw f hf
  obtain rfl := Option.some.inj (show some ⟨22, d.val, a.val, b.val, (32 * m.val + 5)⟩ = some f from hf)
  have l_d := d.isLt
  have l_a := a.isLt
  have l_b := b.isLt
  have l_m := m.isLt
  have h0 : (32 * m.val + 5) % 32 = 5 := by omega
  have e0 : fldN 48 d.val = .ok d := fldN_eq d rfl
  have e1 : fldN 56 a.val = .ok a := fldN_eq a rfl
  have e2 : fldN 56 b.val = .ok b := fldN_eq b rfl
  have e3 : fldN 8 ((32 * m.val + 5) / 32) = .ok m := fldN_eq m (by omega)
  refine ⟨Nat.le_of_ble_eq_true rfl, Nat.lt_of_lt_of_le d.isLt (by decide), Nat.lt_of_lt_of_le a.isLt (by decide), Nat.lt_of_lt_of_le b.isLt (by decide), by dsimp only; omega, ?_⟩
  have hm : decodeMajor16 ⟨22, d.val, a.val, b.val, (32 * m.val + 5)⟩ = form4 (fldN 48 d.val) (fldN 56 a.val) (fldN 56 b.val) (fldN 8 ((32 * m.val + 5) / 32)) .vmaxInt := by
    unfold decodeMajor16; dsimp only; rw [h0]; try rfl
  exact hm.trans (form4_ok (k := .vmaxInt) e0 e1 e2 e3)

theorem vaddsat (d : Fin 48) (a : Fin 56) (b : Fin 56) (m : Fin 8) : Statement (.vaddsat d a b m) := by
  intro hw f hf
  obtain rfl := Option.some.inj (show some ⟨22, d.val, a.val, b.val, (32 * m.val + 6)⟩ = some f from hf)
  have l_d := d.isLt
  have l_a := a.isLt
  have l_b := b.isLt
  have l_m := m.isLt
  have h0 : (32 * m.val + 6) % 32 = 6 := by omega
  have e0 : fldN 48 d.val = .ok d := fldN_eq d rfl
  have e1 : fldN 56 a.val = .ok a := fldN_eq a rfl
  have e2 : fldN 56 b.val = .ok b := fldN_eq b rfl
  have e3 : fldN 8 ((32 * m.val + 6) / 32) = .ok m := fldN_eq m (by omega)
  refine ⟨Nat.le_of_ble_eq_true rfl, Nat.lt_of_lt_of_le d.isLt (by decide), Nat.lt_of_lt_of_le a.isLt (by decide), Nat.lt_of_lt_of_le b.isLt (by decide), by dsimp only; omega, ?_⟩
  have hm : decodeMajor16 ⟨22, d.val, a.val, b.val, (32 * m.val + 6)⟩ = form4 (fldN 48 d.val) (fldN 56 a.val) (fldN 56 b.val) (fldN 8 ((32 * m.val + 6) / 32)) .vaddsat := by
    unfold decodeMajor16; dsimp only; rw [h0]; try rfl
  exact hm.trans (form4_ok (k := .vaddsat) e0 e1 e2 e3)

theorem vsubsat (d : Fin 48) (a : Fin 56) (b : Fin 56) (m : Fin 8) : Statement (.vsubsat d a b m) := by
  intro hw f hf
  obtain rfl := Option.some.inj (show some ⟨22, d.val, a.val, b.val, (32 * m.val + 7)⟩ = some f from hf)
  have l_d := d.isLt
  have l_a := a.isLt
  have l_b := b.isLt
  have l_m := m.isLt
  have h0 : (32 * m.val + 7) % 32 = 7 := by omega
  have e0 : fldN 48 d.val = .ok d := fldN_eq d rfl
  have e1 : fldN 56 a.val = .ok a := fldN_eq a rfl
  have e2 : fldN 56 b.val = .ok b := fldN_eq b rfl
  have e3 : fldN 8 ((32 * m.val + 7) / 32) = .ok m := fldN_eq m (by omega)
  refine ⟨Nat.le_of_ble_eq_true rfl, Nat.lt_of_lt_of_le d.isLt (by decide), Nat.lt_of_lt_of_le a.isLt (by decide), Nat.lt_of_lt_of_le b.isLt (by decide), by dsimp only; omega, ?_⟩
  have hm : decodeMajor16 ⟨22, d.val, a.val, b.val, (32 * m.val + 7)⟩ = form4 (fldN 48 d.val) (fldN 56 a.val) (fldN 56 b.val) (fldN 8 ((32 * m.val + 7) / 32)) .vsubsat := by
    unfold decodeMajor16; dsimp only; rw [h0]; try rfl
  exact hm.trans (form4_ok (k := .vsubsat) e0 e1 e2 e3)

theorem vabsInt (d : Fin 48) (a : Fin 56) (m : Fin 8) : Statement (.vabsInt d a m) := by
  intro hw f hf
  obtain rfl := Option.some.inj (show some ⟨22, d.val, a.val, 0, (32 * m.val + 8)⟩ = some f from hf)
  have l_d := d.isLt
  have l_a := a.isLt
  have l_m := m.isLt
  have h0 : (32 * m.val + 8) % 32 = 8 := by omega
  have e0 : fldN 48 d.val = .ok d := fldN_eq d rfl
  have e1 : fldN 56 a.val = .ok a := fldN_eq a rfl
  have e2 : fld0 0 = .ok () := rfl
  have e3 : fldN 8 ((32 * m.val + 8) / 32) = .ok m := fldN_eq m (by omega)
  refine ⟨Nat.le_of_ble_eq_true rfl, Nat.lt_of_lt_of_le d.isLt (by decide), Nat.lt_of_lt_of_le a.isLt (by decide), Nat.le_of_ble_eq_true rfl, by dsimp only; omega, ?_⟩
  have hm : decodeMajor16 ⟨22, d.val, a.val, 0, (32 * m.val + 8)⟩ = form4 (fldN 48 d.val) (fldN 56 a.val) (fld0 0) (fldN 8 ((32 * m.val + 8) / 32)) (fun d a _ m => .vabsInt d a m) := by
    unfold decodeMajor16; dsimp only; rw [h0]; try rfl
  exact hm.trans (form4_ok (k := (fun d a _ m => .vabsInt d a m)) e0 e1 e2 e3)

theorem vnegInt (d : Fin 48) (a : Fin 56) (m : Fin 8) : Statement (.vnegInt d a m) := by
  intro hw f hf
  obtain rfl := Option.some.inj (show some ⟨22, d.val, a.val, 0, (32 * m.val + 9)⟩ = some f from hf)
  have l_d := d.isLt
  have l_a := a.isLt
  have l_m := m.isLt
  have h0 : (32 * m.val + 9) % 32 = 9 := by omega
  have e0 : fldN 48 d.val = .ok d := fldN_eq d rfl
  have e1 : fldN 56 a.val = .ok a := fldN_eq a rfl
  have e2 : fld0 0 = .ok () := rfl
  have e3 : fldN 8 ((32 * m.val + 9) / 32) = .ok m := fldN_eq m (by omega)
  refine ⟨Nat.le_of_ble_eq_true rfl, Nat.lt_of_lt_of_le d.isLt (by decide), Nat.lt_of_lt_of_le a.isLt (by decide), Nat.le_of_ble_eq_true rfl, by dsimp only; omega, ?_⟩
  have hm : decodeMajor16 ⟨22, d.val, a.val, 0, (32 * m.val + 9)⟩ = form4 (fldN 48 d.val) (fldN 56 a.val) (fld0 0) (fldN 8 ((32 * m.val + 9) / 32)) (fun d a _ m => .vnegInt d a m) := by
    unfold decodeMajor16; dsimp only; rw [h0]; try rfl
  exact hm.trans (form4_ok (k := (fun d a _ m => .vnegInt d a m)) e0 e1 e2 e3)

theorem vmad (d : Fin 48) (a : Fin 56) (b : Fin 56) (m : Fin 8) : Statement (.vmad d a b m) := by
  intro hw f hf
  obtain rfl := Option.some.inj (show some ⟨22, d.val, a.val, b.val, (32 * m.val + 10)⟩ = some f from hf)
  have l_d := d.isLt
  have l_a := a.isLt
  have l_b := b.isLt
  have l_m := m.isLt
  have h0 : (32 * m.val + 10) % 32 = 10 := by omega
  have e0 : fldN 48 d.val = .ok d := fldN_eq d rfl
  have e1 : fldN 56 a.val = .ok a := fldN_eq a rfl
  have e2 : fldN 56 b.val = .ok b := fldN_eq b rfl
  have e3 : fldN 8 ((32 * m.val + 10) / 32) = .ok m := fldN_eq m (by omega)
  refine ⟨Nat.le_of_ble_eq_true rfl, Nat.lt_of_lt_of_le d.isLt (by decide), Nat.lt_of_lt_of_le a.isLt (by decide), Nat.lt_of_lt_of_le b.isLt (by decide), by dsimp only; omega, ?_⟩
  have hm : decodeMajor16 ⟨22, d.val, a.val, b.val, (32 * m.val + 10)⟩ = form4 (fldN 48 d.val) (fldN 56 a.val) (fldN 56 b.val) (fldN 8 ((32 * m.val + 10) / 32)) .vmad := by
    unfold decodeMajor16; dsimp only; rw [h0]; try rfl
  exact hm.trans (form4_ok (k := .vmad) e0 e1 e2 e3)

theorem vand (d : Fin 48) (a : Fin 56) (b : Fin 56) (m : Fin 8) : Statement (.vand d a b m) := by
  intro hw f hf
  obtain rfl := Option.some.inj (show some ⟨23, d.val, a.val, b.val, (32 * m.val + 0)⟩ = some f from hf)
  have l_d := d.isLt
  have l_a := a.isLt
  have l_b := b.isLt
  have l_m := m.isLt
  have h0 : (32 * m.val + 0) % 32 = 0 := by omega
  have e0 : fldN 48 d.val = .ok d := fldN_eq d rfl
  have e1 : fldN 56 a.val = .ok a := fldN_eq a rfl
  have e2 : fldN 56 b.val = .ok b := fldN_eq b rfl
  have e3 : fldN 8 ((32 * m.val + 0) / 32) = .ok m := fldN_eq m (by omega)
  refine ⟨Nat.le_of_ble_eq_true rfl, Nat.lt_of_lt_of_le d.isLt (by decide), Nat.lt_of_lt_of_le a.isLt (by decide), Nat.lt_of_lt_of_le b.isLt (by decide), by dsimp only; omega, ?_⟩
  have hm : decodeMajor17 ⟨23, d.val, a.val, b.val, (32 * m.val + 0)⟩ = form4 (fldN 48 d.val) (fldN 56 a.val) (fldN 56 b.val) (fldN 8 ((32 * m.val + 0) / 32)) .vand := by
    unfold decodeMajor17; dsimp only; rw [h0]; try rfl
  exact hm.trans (form4_ok (k := .vand) e0 e1 e2 e3)

theorem vor (d : Fin 48) (a : Fin 56) (b : Fin 56) (m : Fin 8) : Statement (.vor d a b m) := by
  intro hw f hf
  obtain rfl := Option.some.inj (show some ⟨23, d.val, a.val, b.val, (32 * m.val + 1)⟩ = some f from hf)
  have l_d := d.isLt
  have l_a := a.isLt
  have l_b := b.isLt
  have l_m := m.isLt
  have h0 : (32 * m.val + 1) % 32 = 1 := by omega
  have e0 : fldN 48 d.val = .ok d := fldN_eq d rfl
  have e1 : fldN 56 a.val = .ok a := fldN_eq a rfl
  have e2 : fldN 56 b.val = .ok b := fldN_eq b rfl
  have e3 : fldN 8 ((32 * m.val + 1) / 32) = .ok m := fldN_eq m (by omega)
  refine ⟨Nat.le_of_ble_eq_true rfl, Nat.lt_of_lt_of_le d.isLt (by decide), Nat.lt_of_lt_of_le a.isLt (by decide), Nat.lt_of_lt_of_le b.isLt (by decide), by dsimp only; omega, ?_⟩
  have hm : decodeMajor17 ⟨23, d.val, a.val, b.val, (32 * m.val + 1)⟩ = form4 (fldN 48 d.val) (fldN 56 a.val) (fldN 56 b.val) (fldN 8 ((32 * m.val + 1) / 32)) .vor := by
    unfold decodeMajor17; dsimp only; rw [h0]; try rfl
  exact hm.trans (form4_ok (k := .vor) e0 e1 e2 e3)

theorem vxor (d : Fin 48) (a : Fin 56) (b : Fin 56) (m : Fin 8) : Statement (.vxor d a b m) := by
  intro hw f hf
  obtain rfl := Option.some.inj (show some ⟨23, d.val, a.val, b.val, (32 * m.val + 2)⟩ = some f from hf)
  have l_d := d.isLt
  have l_a := a.isLt
  have l_b := b.isLt
  have l_m := m.isLt
  have h0 : (32 * m.val + 2) % 32 = 2 := by omega
  have e0 : fldN 48 d.val = .ok d := fldN_eq d rfl
  have e1 : fldN 56 a.val = .ok a := fldN_eq a rfl
  have e2 : fldN 56 b.val = .ok b := fldN_eq b rfl
  have e3 : fldN 8 ((32 * m.val + 2) / 32) = .ok m := fldN_eq m (by omega)
  refine ⟨Nat.le_of_ble_eq_true rfl, Nat.lt_of_lt_of_le d.isLt (by decide), Nat.lt_of_lt_of_le a.isLt (by decide), Nat.lt_of_lt_of_le b.isLt (by decide), by dsimp only; omega, ?_⟩
  have hm : decodeMajor17 ⟨23, d.val, a.val, b.val, (32 * m.val + 2)⟩ = form4 (fldN 48 d.val) (fldN 56 a.val) (fldN 56 b.val) (fldN 8 ((32 * m.val + 2) / 32)) .vxor := by
    unfold decodeMajor17; dsimp only; rw [h0]; try rfl
  exact hm.trans (form4_ok (k := .vxor) e0 e1 e2 e3)

theorem vandn (d : Fin 48) (a : Fin 56) (b : Fin 56) (m : Fin 8) : Statement (.vandn d a b m) := by
  intro hw f hf
  obtain rfl := Option.some.inj (show some ⟨23, d.val, a.val, b.val, (32 * m.val + 3)⟩ = some f from hf)
  have l_d := d.isLt
  have l_a := a.isLt
  have l_b := b.isLt
  have l_m := m.isLt
  have h0 : (32 * m.val + 3) % 32 = 3 := by omega
  have e0 : fldN 48 d.val = .ok d := fldN_eq d rfl
  have e1 : fldN 56 a.val = .ok a := fldN_eq a rfl
  have e2 : fldN 56 b.val = .ok b := fldN_eq b rfl
  have e3 : fldN 8 ((32 * m.val + 3) / 32) = .ok m := fldN_eq m (by omega)
  refine ⟨Nat.le_of_ble_eq_true rfl, Nat.lt_of_lt_of_le d.isLt (by decide), Nat.lt_of_lt_of_le a.isLt (by decide), Nat.lt_of_lt_of_le b.isLt (by decide), by dsimp only; omega, ?_⟩
  have hm : decodeMajor17 ⟨23, d.val, a.val, b.val, (32 * m.val + 3)⟩ = form4 (fldN 48 d.val) (fldN 56 a.val) (fldN 56 b.val) (fldN 8 ((32 * m.val + 3) / 32)) .vandn := by
    unfold decodeMajor17; dsimp only; rw [h0]; try rfl
  exact hm.trans (form4_ok (k := .vandn) e0 e1 e2 e3)

theorem vnot (d : Fin 48) (a : Fin 56) (m : Fin 8) : Statement (.vnot d a m) := by
  intro hw f hf
  obtain rfl := Option.some.inj (show some ⟨23, d.val, a.val, 0, (32 * m.val + 4)⟩ = some f from hf)
  have l_d := d.isLt
  have l_a := a.isLt
  have l_m := m.isLt
  have h0 : (32 * m.val + 4) % 32 = 4 := by omega
  have e0 : fldN 48 d.val = .ok d := fldN_eq d rfl
  have e1 : fldN 56 a.val = .ok a := fldN_eq a rfl
  have e2 : fld0 0 = .ok () := rfl
  have e3 : fldN 8 ((32 * m.val + 4) / 32) = .ok m := fldN_eq m (by omega)
  refine ⟨Nat.le_of_ble_eq_true rfl, Nat.lt_of_lt_of_le d.isLt (by decide), Nat.lt_of_lt_of_le a.isLt (by decide), Nat.le_of_ble_eq_true rfl, by dsimp only; omega, ?_⟩
  have hm : decodeMajor17 ⟨23, d.val, a.val, 0, (32 * m.val + 4)⟩ = form4 (fldN 48 d.val) (fldN 56 a.val) (fld0 0) (fldN 8 ((32 * m.val + 4) / 32)) (fun d a _ m => .vnot d a m) := by
    unfold decodeMajor17; dsimp only; rw [h0]; try rfl
  exact hm.trans (form4_ok (k := (fun d a _ m => .vnot d a m)) e0 e1 e2 e3)

theorem vsll (d : Fin 48) (a : Fin 56) (b : Fin 56) (m : Fin 8) : Statement (.vsll d a b m) := by
  intro hw f hf
  obtain rfl := Option.some.inj (show some ⟨23, d.val, a.val, b.val, (32 * m.val + 5)⟩ = some f from hf)
  have l_d := d.isLt
  have l_a := a.isLt
  have l_b := b.isLt
  have l_m := m.isLt
  have h0 : (32 * m.val + 5) % 32 = 5 := by omega
  have e0 : fldN 48 d.val = .ok d := fldN_eq d rfl
  have e1 : fldN 56 a.val = .ok a := fldN_eq a rfl
  have e2 : fldN 56 b.val = .ok b := fldN_eq b rfl
  have e3 : fldN 8 ((32 * m.val + 5) / 32) = .ok m := fldN_eq m (by omega)
  refine ⟨Nat.le_of_ble_eq_true rfl, Nat.lt_of_lt_of_le d.isLt (by decide), Nat.lt_of_lt_of_le a.isLt (by decide), Nat.lt_of_lt_of_le b.isLt (by decide), by dsimp only; omega, ?_⟩
  have hm : decodeMajor17 ⟨23, d.val, a.val, b.val, (32 * m.val + 5)⟩ = form4 (fldN 48 d.val) (fldN 56 a.val) (fldN 56 b.val) (fldN 8 ((32 * m.val + 5) / 32)) .vsll := by
    unfold decodeMajor17; dsimp only; rw [h0]; try rfl
  exact hm.trans (form4_ok (k := .vsll) e0 e1 e2 e3)

theorem vsrl (d : Fin 48) (a : Fin 56) (b : Fin 56) (m : Fin 8) : Statement (.vsrl d a b m) := by
  intro hw f hf
  obtain rfl := Option.some.inj (show some ⟨23, d.val, a.val, b.val, (32 * m.val + 6)⟩ = some f from hf)
  have l_d := d.isLt
  have l_a := a.isLt
  have l_b := b.isLt
  have l_m := m.isLt
  have h0 : (32 * m.val + 6) % 32 = 6 := by omega
  have e0 : fldN 48 d.val = .ok d := fldN_eq d rfl
  have e1 : fldN 56 a.val = .ok a := fldN_eq a rfl
  have e2 : fldN 56 b.val = .ok b := fldN_eq b rfl
  have e3 : fldN 8 ((32 * m.val + 6) / 32) = .ok m := fldN_eq m (by omega)
  refine ⟨Nat.le_of_ble_eq_true rfl, Nat.lt_of_lt_of_le d.isLt (by decide), Nat.lt_of_lt_of_le a.isLt (by decide), Nat.lt_of_lt_of_le b.isLt (by decide), by dsimp only; omega, ?_⟩
  have hm : decodeMajor17 ⟨23, d.val, a.val, b.val, (32 * m.val + 6)⟩ = form4 (fldN 48 d.val) (fldN 56 a.val) (fldN 56 b.val) (fldN 8 ((32 * m.val + 6) / 32)) .vsrl := by
    unfold decodeMajor17; dsimp only; rw [h0]; try rfl
  exact hm.trans (form4_ok (k := .vsrl) e0 e1 e2 e3)

theorem vsra (d : Fin 48) (a : Fin 56) (b : Fin 56) (m : Fin 8) : Statement (.vsra d a b m) := by
  intro hw f hf
  obtain rfl := Option.some.inj (show some ⟨23, d.val, a.val, b.val, (32 * m.val + 7)⟩ = some f from hf)
  have l_d := d.isLt
  have l_a := a.isLt
  have l_b := b.isLt
  have l_m := m.isLt
  have h0 : (32 * m.val + 7) % 32 = 7 := by omega
  have e0 : fldN 48 d.val = .ok d := fldN_eq d rfl
  have e1 : fldN 56 a.val = .ok a := fldN_eq a rfl
  have e2 : fldN 56 b.val = .ok b := fldN_eq b rfl
  have e3 : fldN 8 ((32 * m.val + 7) / 32) = .ok m := fldN_eq m (by omega)
  refine ⟨Nat.le_of_ble_eq_true rfl, Nat.lt_of_lt_of_le d.isLt (by decide), Nat.lt_of_lt_of_le a.isLt (by decide), Nat.lt_of_lt_of_le b.isLt (by decide), by dsimp only; omega, ?_⟩
  have hm : decodeMajor17 ⟨23, d.val, a.val, b.val, (32 * m.val + 7)⟩ = form4 (fldN 48 d.val) (fldN 56 a.val) (fldN 56 b.val) (fldN 8 ((32 * m.val + 7) / 32)) .vsra := by
    unfold decodeMajor17; dsimp only; rw [h0]; try rfl
  exact hm.trans (form4_ok (k := .vsra) e0 e1 e2 e3)

theorem vcmpEq (k : Fin 8) (a : Fin 56) (b : Fin 56) (m : Fin 8) : Statement (.vcmpEq k a b m) := by
  intro hw f hf
  obtain rfl := Option.some.inj (show some ⟨24, k.val, a.val, b.val, (32 * m.val + 0)⟩ = some f from hf)
  have l_k := k.isLt
  have l_a := a.isLt
  have l_b := b.isLt
  have l_m := m.isLt
  have h0 : (32 * m.val + 0) % 32 = 0 := by omega
  have e0 : fldN 8 k.val = .ok k := fldN_eq k rfl
  have e1 : fldN 56 a.val = .ok a := fldN_eq a rfl
  have e2 : fldN 56 b.val = .ok b := fldN_eq b rfl
  have e3 : fldN 8 ((32 * m.val + 0) / 32) = .ok m := fldN_eq m (by omega)
  refine ⟨Nat.le_of_ble_eq_true rfl, Nat.lt_of_lt_of_le k.isLt (by decide), Nat.lt_of_lt_of_le a.isLt (by decide), Nat.lt_of_lt_of_le b.isLt (by decide), by dsimp only; omega, ?_⟩
  have hm : decodeMajor18 ⟨24, k.val, a.val, b.val, (32 * m.val + 0)⟩ = form4 (fldN 8 k.val) (fldN 56 a.val) (fldN 56 b.val) (fldN 8 ((32 * m.val + 0) / 32)) .vcmpEq := by
    unfold decodeMajor18; dsimp only; rw [h0]; try rfl
  exact hm.trans (form4_ok (k := .vcmpEq) e0 e1 e2 e3)

theorem vcmpNe (k : Fin 8) (a : Fin 56) (b : Fin 56) (m : Fin 8) : Statement (.vcmpNe k a b m) := by
  intro hw f hf
  obtain rfl := Option.some.inj (show some ⟨24, k.val, a.val, b.val, (32 * m.val + 1)⟩ = some f from hf)
  have l_k := k.isLt
  have l_a := a.isLt
  have l_b := b.isLt
  have l_m := m.isLt
  have h0 : (32 * m.val + 1) % 32 = 1 := by omega
  have e0 : fldN 8 k.val = .ok k := fldN_eq k rfl
  have e1 : fldN 56 a.val = .ok a := fldN_eq a rfl
  have e2 : fldN 56 b.val = .ok b := fldN_eq b rfl
  have e3 : fldN 8 ((32 * m.val + 1) / 32) = .ok m := fldN_eq m (by omega)
  refine ⟨Nat.le_of_ble_eq_true rfl, Nat.lt_of_lt_of_le k.isLt (by decide), Nat.lt_of_lt_of_le a.isLt (by decide), Nat.lt_of_lt_of_le b.isLt (by decide), by dsimp only; omega, ?_⟩
  have hm : decodeMajor18 ⟨24, k.val, a.val, b.val, (32 * m.val + 1)⟩ = form4 (fldN 8 k.val) (fldN 56 a.val) (fldN 56 b.val) (fldN 8 ((32 * m.val + 1) / 32)) .vcmpNe := by
    unfold decodeMajor18; dsimp only; rw [h0]; try rfl
  exact hm.trans (form4_ok (k := .vcmpNe) e0 e1 e2 e3)

theorem vcmpLt (k : Fin 8) (a : Fin 56) (b : Fin 56) (m : Fin 8) : Statement (.vcmpLt k a b m) := by
  intro hw f hf
  obtain rfl := Option.some.inj (show some ⟨24, k.val, a.val, b.val, (32 * m.val + 2)⟩ = some f from hf)
  have l_k := k.isLt
  have l_a := a.isLt
  have l_b := b.isLt
  have l_m := m.isLt
  have h0 : (32 * m.val + 2) % 32 = 2 := by omega
  have e0 : fldN 8 k.val = .ok k := fldN_eq k rfl
  have e1 : fldN 56 a.val = .ok a := fldN_eq a rfl
  have e2 : fldN 56 b.val = .ok b := fldN_eq b rfl
  have e3 : fldN 8 ((32 * m.val + 2) / 32) = .ok m := fldN_eq m (by omega)
  refine ⟨Nat.le_of_ble_eq_true rfl, Nat.lt_of_lt_of_le k.isLt (by decide), Nat.lt_of_lt_of_le a.isLt (by decide), Nat.lt_of_lt_of_le b.isLt (by decide), by dsimp only; omega, ?_⟩
  have hm : decodeMajor18 ⟨24, k.val, a.val, b.val, (32 * m.val + 2)⟩ = form4 (fldN 8 k.val) (fldN 56 a.val) (fldN 56 b.val) (fldN 8 ((32 * m.val + 2) / 32)) .vcmpLt := by
    unfold decodeMajor18; dsimp only; rw [h0]; try rfl
  exact hm.trans (form4_ok (k := .vcmpLt) e0 e1 e2 e3)

theorem vcmpLe (k : Fin 8) (a : Fin 56) (b : Fin 56) (m : Fin 8) : Statement (.vcmpLe k a b m) := by
  intro hw f hf
  obtain rfl := Option.some.inj (show some ⟨24, k.val, a.val, b.val, (32 * m.val + 3)⟩ = some f from hf)
  have l_k := k.isLt
  have l_a := a.isLt
  have l_b := b.isLt
  have l_m := m.isLt
  have h0 : (32 * m.val + 3) % 32 = 3 := by omega
  have e0 : fldN 8 k.val = .ok k := fldN_eq k rfl
  have e1 : fldN 56 a.val = .ok a := fldN_eq a rfl
  have e2 : fldN 56 b.val = .ok b := fldN_eq b rfl
  have e3 : fldN 8 ((32 * m.val + 3) / 32) = .ok m := fldN_eq m (by omega)
  refine ⟨Nat.le_of_ble_eq_true rfl, Nat.lt_of_lt_of_le k.isLt (by decide), Nat.lt_of_lt_of_le a.isLt (by decide), Nat.lt_of_lt_of_le b.isLt (by decide), by dsimp only; omega, ?_⟩
  have hm : decodeMajor18 ⟨24, k.val, a.val, b.val, (32 * m.val + 3)⟩ = form4 (fldN 8 k.val) (fldN 56 a.val) (fldN 56 b.val) (fldN 8 ((32 * m.val + 3) / 32)) .vcmpLe := by
    unfold decodeMajor18; dsimp only; rw [h0]; try rfl
  exact hm.trans (form4_ok (k := .vcmpLe) e0 e1 e2 e3)

theorem vsel (d : Fin 48) (a : Fin 56) (b : Fin 56) (k : Fin 8) : Statement (.vsel d a b k) := by
  intro hw f hf
  obtain rfl := Option.some.inj (show some ⟨24, d.val, a.val, b.val, (32 * k.val + 8)⟩ = some f from hf)
  have l_d := d.isLt
  have l_a := a.isLt
  have l_b := b.isLt
  have l_k := k.isLt
  have h0 : (32 * k.val + 8) % 32 = 8 := by omega
  have e0 : fldN 48 d.val = .ok d := fldN_eq d rfl
  have e1 : fldN 56 a.val = .ok a := fldN_eq a rfl
  have e2 : fldN 56 b.val = .ok b := fldN_eq b rfl
  have e3 : fldN 8 ((32 * k.val + 8) / 32) = .ok k := fldN_eq k (by omega)
  refine ⟨Nat.le_of_ble_eq_true rfl, Nat.lt_of_lt_of_le d.isLt (by decide), Nat.lt_of_lt_of_le a.isLt (by decide), Nat.lt_of_lt_of_le b.isLt (by decide), by dsimp only; omega, ?_⟩
  have hm : decodeMajor18 ⟨24, d.val, a.val, b.val, (32 * k.val + 8)⟩ = form4 (fldN 48 d.val) (fldN 56 a.val) (fldN 56 b.val) (fldN 8 ((32 * k.val + 8) / 32)) .vsel := by
    unfold decodeMajor18; dsimp only; rw [h0]; try rfl
  exact hm.trans (form4_ok (k := .vsel) e0 e1 e2 e3)

theorem mand (d : Fin 8) (a : Fin 8) (b : Fin 8) : Statement (.mand d a b) := by
  intro hw f hf
  obtain rfl := Option.some.inj (show some ⟨24, d.val, a.val, b.val, 16⟩ = some f from hf)
  have l_d := d.isLt
  have l_a := a.isLt
  have l_b := b.isLt
  have h0 : 16 % 32 = 16 := by omega
  have e0 : fldN 8 d.val = .ok d := fldN_eq d rfl
  have e1 : fldN 8 a.val = .ok a := fldN_eq a rfl
  have e2 : fldN 8 b.val = .ok b := fldN_eq b rfl
  have e3 : fld0 (16 / 32) = .ok () := fld0_eq (by omega)
  refine ⟨Nat.le_of_ble_eq_true rfl, Nat.lt_of_lt_of_le d.isLt (by decide), Nat.lt_of_lt_of_le a.isLt (by decide), Nat.lt_of_lt_of_le b.isLt (by decide), Nat.le_of_ble_eq_true rfl, ?_⟩
  have hm : decodeMajor18 ⟨24, d.val, a.val, b.val, 16⟩ = form4 (fldN 8 d.val) (fldN 8 a.val) (fldN 8 b.val) (fld0 (16 / 32)) (fun d a b _ => .mand d a b) := by
    unfold decodeMajor18; dsimp only; rw [h0]; try rfl
  exact hm.trans (form4_ok (k := (fun d a b _ => .mand d a b)) e0 e1 e2 e3)

theorem mor (d : Fin 8) (a : Fin 8) (b : Fin 8) : Statement (.mor d a b) := by
  intro hw f hf
  obtain rfl := Option.some.inj (show some ⟨24, d.val, a.val, b.val, 17⟩ = some f from hf)
  have l_d := d.isLt
  have l_a := a.isLt
  have l_b := b.isLt
  have h0 : 17 % 32 = 17 := by omega
  have e0 : fldN 8 d.val = .ok d := fldN_eq d rfl
  have e1 : fldN 8 a.val = .ok a := fldN_eq a rfl
  have e2 : fldN 8 b.val = .ok b := fldN_eq b rfl
  have e3 : fld0 (17 / 32) = .ok () := fld0_eq (by omega)
  refine ⟨Nat.le_of_ble_eq_true rfl, Nat.lt_of_lt_of_le d.isLt (by decide), Nat.lt_of_lt_of_le a.isLt (by decide), Nat.lt_of_lt_of_le b.isLt (by decide), Nat.le_of_ble_eq_true rfl, ?_⟩
  have hm : decodeMajor18 ⟨24, d.val, a.val, b.val, 17⟩ = form4 (fldN 8 d.val) (fldN 8 a.val) (fldN 8 b.val) (fld0 (17 / 32)) (fun d a b _ => .mor d a b) := by
    unfold decodeMajor18; dsimp only; rw [h0]; try rfl
  exact hm.trans (form4_ok (k := (fun d a b _ => .mor d a b)) e0 e1 e2 e3)

theorem mxor (d : Fin 8) (a : Fin 8) (b : Fin 8) : Statement (.mxor d a b) := by
  intro hw f hf
  obtain rfl := Option.some.inj (show some ⟨24, d.val, a.val, b.val, 18⟩ = some f from hf)
  have l_d := d.isLt
  have l_a := a.isLt
  have l_b := b.isLt
  have h0 : 18 % 32 = 18 := by omega
  have e0 : fldN 8 d.val = .ok d := fldN_eq d rfl
  have e1 : fldN 8 a.val = .ok a := fldN_eq a rfl
  have e2 : fldN 8 b.val = .ok b := fldN_eq b rfl
  have e3 : fld0 (18 / 32) = .ok () := fld0_eq (by omega)
  refine ⟨Nat.le_of_ble_eq_true rfl, Nat.lt_of_lt_of_le d.isLt (by decide), Nat.lt_of_lt_of_le a.isLt (by decide), Nat.lt_of_lt_of_le b.isLt (by decide), Nat.le_of_ble_eq_true rfl, ?_⟩
  have hm : decodeMajor18 ⟨24, d.val, a.val, b.val, 18⟩ = form4 (fldN 8 d.val) (fldN 8 a.val) (fldN 8 b.val) (fld0 (18 / 32)) (fun d a b _ => .mxor d a b) := by
    unfold decodeMajor18; dsimp only; rw [h0]; try rfl
  exact hm.trans (form4_ok (k := (fun d a b _ => .mxor d a b)) e0 e1 e2 e3)

theorem mandn (d : Fin 8) (a : Fin 8) (b : Fin 8) : Statement (.mandn d a b) := by
  intro hw f hf
  obtain rfl := Option.some.inj (show some ⟨24, d.val, a.val, b.val, 19⟩ = some f from hf)
  have l_d := d.isLt
  have l_a := a.isLt
  have l_b := b.isLt
  have h0 : 19 % 32 = 19 := by omega
  have e0 : fldN 8 d.val = .ok d := fldN_eq d rfl
  have e1 : fldN 8 a.val = .ok a := fldN_eq a rfl
  have e2 : fldN 8 b.val = .ok b := fldN_eq b rfl
  have e3 : fld0 (19 / 32) = .ok () := fld0_eq (by omega)
  refine ⟨Nat.le_of_ble_eq_true rfl, Nat.lt_of_lt_of_le d.isLt (by decide), Nat.lt_of_lt_of_le a.isLt (by decide), Nat.lt_of_lt_of_le b.isLt (by decide), Nat.le_of_ble_eq_true rfl, ?_⟩
  have hm : decodeMajor18 ⟨24, d.val, a.val, b.val, 19⟩ = form4 (fldN 8 d.val) (fldN 8 a.val) (fldN 8 b.val) (fld0 (19 / 32)) (fun d a b _ => .mandn d a b) := by
    unfold decodeMajor18; dsimp only; rw [h0]; try rfl
  exact hm.trans (form4_ok (k := (fun d a b _ => .mandn d a b)) e0 e1 e2 e3)

theorem mnot (d : Fin 8) (a : Fin 8) : Statement (.mnot d a) := by
  intro hw f hf
  obtain rfl := Option.some.inj (show some ⟨24, d.val, a.val, 0, 20⟩ = some f from hf)
  have l_d := d.isLt
  have l_a := a.isLt
  have h0 : 20 % 32 = 20 := by omega
  have e0 : fldN 8 d.val = .ok d := fldN_eq d rfl
  have e1 : fldN 8 a.val = .ok a := fldN_eq a rfl
  have e2 : fld0 0 = .ok () := rfl
  have e3 : fld0 (20 / 32) = .ok () := fld0_eq (by omega)
  refine ⟨Nat.le_of_ble_eq_true rfl, Nat.lt_of_lt_of_le d.isLt (by decide), Nat.lt_of_lt_of_le a.isLt (by decide), Nat.le_of_ble_eq_true rfl, Nat.le_of_ble_eq_true rfl, ?_⟩
  have hm : decodeMajor18 ⟨24, d.val, a.val, 0, 20⟩ = form4 (fldN 8 d.val) (fldN 8 a.val) (fld0 0) (fld0 (20 / 32)) (fun d a _ _ => .mnot d a) := by
    unfold decodeMajor18; dsimp only; rw [h0]; try rfl
  exact hm.trans (form4_ok (k := (fun d a _ _ => .mnot d a)) e0 e1 e2 e3)

theorem vcvt (d : Fin 48) (a : Fin 56) (m : Fin 8) (target : Fin 19) : Statement (.vcvt d a m target) := by
  intro hw f hf
  obtain rfl := Option.some.inj (show some ⟨25, d.val, a.val, 0, (32 * m.val + target.val)⟩ = some f from hf)
  have l_d := d.isLt
  have l_a := a.isLt
  have l_m := m.isLt
  have l_target := target.isLt
  have e0 : fldN 48 d.val = .ok d := fldN_eq d rfl
  have e1 : fldN 56 a.val = .ok a := fldN_eq a rfl
  have e2 : fld0 0 = .ok () := rfl
  have e3 : fldN 8 ((32 * m.val + target.val) / 32) = .ok m := fldN_eq m (by omega)
  have e4 : fldN 19 ((32 * m.val + target.val) % 32) = .ok target := fldN_eq target (by omega)
  refine ⟨Nat.le_of_ble_eq_true rfl, Nat.lt_of_lt_of_le d.isLt (by decide), Nat.lt_of_lt_of_le a.isLt (by decide), Nat.le_of_ble_eq_true rfl, by dsimp only; omega, ?_⟩
  exact form5_ok (k := (fun d a _ m target => .vcvt d a m target)) e0 e1 e2 e3 e4

theorem vlift (d : Fin 48) (a : Fin 56) (b : Fin 32) (m : Fin 8) : Statement (.vlift d a b m) := by
  intro hw f hf
  obtain rfl := Option.some.inj (show some ⟨26, d.val, a.val, b.val, (32 * m.val + 0)⟩ = some f from hf)
  have l_d := d.isLt
  have l_a := a.isLt
  have l_b := b.isLt
  have l_m := m.isLt
  have h0 : (32 * m.val + 0) % 32 = 0 := by omega
  have e0 : fldN 48 d.val = .ok d := fldN_eq d rfl
  have e1 : fldN 56 a.val = .ok a := fldN_eq a rfl
  have e2 : fldN 32 b.val = .ok b := fldN_eq b rfl
  have e3 : fldN 8 ((32 * m.val + 0) / 32) = .ok m := fldN_eq m (by omega)
  refine ⟨Nat.le_of_ble_eq_true rfl, Nat.lt_of_lt_of_le d.isLt (by decide), Nat.lt_of_lt_of_le a.isLt (by decide), Nat.lt_of_lt_of_le b.isLt (by decide), by dsimp only; omega, ?_⟩
  have hm : decodeMajor1A ⟨26, d.val, a.val, b.val, (32 * m.val + 0)⟩ = form4 (fldN 48 d.val) (fldN 56 a.val) (fldN 32 b.val) (fldN 8 ((32 * m.val + 0) / 32)) .vlift := by
    unfold decodeMajor1A; dsimp only; rw [h0]; try rfl
  exact hm.trans (form4_ok (k := .vlift) e0 e1 e2 e3)

theorem vsink (d : Fin 48) (a : Fin 56) (b : Fin 32) (m : Fin 8) : Statement (.vsink d a b m) := by
  intro hw f hf
  obtain rfl := Option.some.inj (show some ⟨26, d.val, a.val, b.val, (32 * m.val + 1)⟩ = some f from hf)
  have l_d := d.isLt
  have l_a := a.isLt
  have l_b := b.isLt
  have l_m := m.isLt
  have h0 : (32 * m.val + 1) % 32 = 1 := by omega
  have e0 : fldN 48 d.val = .ok d := fldN_eq d rfl
  have e1 : fldN 56 a.val = .ok a := fldN_eq a rfl
  have e2 : fldN 32 b.val = .ok b := fldN_eq b rfl
  have e3 : fldN 8 ((32 * m.val + 1) / 32) = .ok m := fldN_eq m (by omega)
  refine ⟨Nat.le_of_ble_eq_true rfl, Nat.lt_of_lt_of_le d.isLt (by decide), Nat.lt_of_lt_of_le a.isLt (by decide), Nat.lt_of_lt_of_le b.isLt (by decide), by dsimp only; omega, ?_⟩
  have hm : decodeMajor1A ⟨26, d.val, a.val, b.val, (32 * m.val + 1)⟩ = form4 (fldN 48 d.val) (fldN 56 a.val) (fldN 32 b.val) (fldN 8 ((32 * m.val + 1) / 32)) .vsink := by
    unfold decodeMajor1A; dsimp only; rw [h0]; try rfl
  exact hm.trans (form4_ok (k := .vsink) e0 e1 e2 e3)

theorem vpick (d : Fin 48) (a : Fin 56) (b : Fin 56) (m : Fin 8) : Statement (.vpick d a b m) := by
  intro hw f hf
  obtain rfl := Option.some.inj (show some ⟨26, d.val, a.val, b.val, (32 * m.val + 2)⟩ = some f from hf)
  have l_d := d.isLt
  have l_a := a.isLt
  have l_b := b.isLt
  have l_m := m.isLt
  have h0 : (32 * m.val + 2) % 32 = 2 := by omega
  have e0 : fldN 48 d.val = .ok d := fldN_eq d rfl
  have e1 : fldN 56 a.val = .ok a := fldN_eq a rfl
  have e2 : fldN 56 b.val = .ok b := fldN_eq b rfl
  have e3 : fldN 8 ((32 * m.val + 2) / 32) = .ok m := fldN_eq m (by omega)
  refine ⟨Nat.le_of_ble_eq_true rfl, Nat.lt_of_lt_of_le d.isLt (by decide), Nat.lt_of_lt_of_le a.isLt (by decide), Nat.lt_of_lt_of_le b.isLt (by decide), by dsimp only; omega, ?_⟩
  have hm : decodeMajor1A ⟨26, d.val, a.val, b.val, (32 * m.val + 2)⟩ = form4 (fldN 48 d.val) (fldN 56 a.val) (fldN 56 b.val) (fldN 8 ((32 * m.val + 2) / 32)) .vpick := by
    unfold decodeMajor1A; dsimp only; rw [h0]; try rfl
  exact hm.trans (form4_ok (k := .vpick) e0 e1 e2 e3)

theorem vpack (d : Fin 48) (a : Fin 56) (k : Fin 8) : Statement (.vpack d a k) := by
  intro hw f hf
  obtain rfl := Option.some.inj (show some ⟨26, d.val, a.val, 0, (32 * k.val + 3)⟩ = some f from hf)
  have l_d := d.isLt
  have l_a := a.isLt
  have l_k := k.isLt
  have h0 : (32 * k.val + 3) % 32 = 3 := by omega
  have e0 : fldN 48 d.val = .ok d := fldN_eq d rfl
  have e1 : fldN 56 a.val = .ok a := fldN_eq a rfl
  have e2 : fld0 0 = .ok () := rfl
  have e3 : fldN 8 ((32 * k.val + 3) / 32) = .ok k := fldN_eq k (by omega)
  refine ⟨Nat.le_of_ble_eq_true rfl, Nat.lt_of_lt_of_le d.isLt (by decide), Nat.lt_of_lt_of_le a.isLt (by decide), Nat.le_of_ble_eq_true rfl, by dsimp only; omega, ?_⟩
  have hm : decodeMajor1A ⟨26, d.val, a.val, 0, (32 * k.val + 3)⟩ = form4 (fldN 48 d.val) (fldN 56 a.val) (fld0 0) (fldN 8 ((32 * k.val + 3) / 32)) (fun d a _ k => .vpack d a k) := by
    unfold decodeMajor1A; dsimp only; rw [h0]; try rfl
  exact hm.trans (form4_ok (k := (fun d a _ k => .vpack d a k)) e0 e1 e2 e3)

theorem vprune (d : Fin 48) (a : Fin 56) (b : Fin 48) : Statement (.vprune d a b) := by
  intro hw f hf
  obtain rfl := Option.some.inj (show some ⟨26, d.val, a.val, b.val, 4⟩ = some f from hf)
  have l_d := d.isLt
  have l_a := a.isLt
  have l_b := b.isLt
  have h0 : 4 % 32 = 4 := by omega
  have e0 : fldN 48 d.val = .ok d := fldN_eq d rfl
  have e1 : fldN 56 a.val = .ok a := fldN_eq a rfl
  have e2 : fldN 48 b.val = .ok b := fldN_eq b rfl
  have e3 : fld0 (4 / 32) = .ok () := fld0_eq (by omega)
  refine ⟨Nat.le_of_ble_eq_true rfl, Nat.lt_of_lt_of_le d.isLt (by decide), Nat.lt_of_lt_of_le a.isLt (by decide), Nat.lt_of_lt_of_le b.isLt (by decide), Nat.le_of_ble_eq_true rfl, ?_⟩
  have hm : decodeMajor1A ⟨26, d.val, a.val, b.val, 4⟩ = form4 (fldN 48 d.val) (fldN 56 a.val) (fldN 48 b.val) (fld0 (4 / 32)) (fun d a b _ => .vprune d a b) := by
    unfold decodeMajor1A; dsimp only; rw [h0]; try rfl
  exact hm.trans (form4_ok (k := (fun d a b _ => .vprune d a b)) e0 e1 e2 e3)

theorem vzip (d : Fin 48) (a : Fin 56) (b : Fin 56) (m : Fin 8) : Statement (.vzip d a b m) := by
  intro hw f hf
  obtain rfl := Option.some.inj (show some ⟨26, d.val, a.val, b.val, (32 * m.val + 5)⟩ = some f from hf)
  have l_d := d.isLt
  have l_a := a.isLt
  have l_b := b.isLt
  have l_m := m.isLt
  have h0 : (32 * m.val + 5) % 32 = 5 := by omega
  have e0 : fldN 48 d.val = .ok d := fldN_eq d rfl
  have e1 : fldN 56 a.val = .ok a := fldN_eq a rfl
  have e2 : fldN 56 b.val = .ok b := fldN_eq b rfl
  have e3 : fldN 8 ((32 * m.val + 5) / 32) = .ok m := fldN_eq m (by omega)
  refine ⟨Nat.le_of_ble_eq_true rfl, Nat.lt_of_lt_of_le d.isLt (by decide), Nat.lt_of_lt_of_le a.isLt (by decide), Nat.lt_of_lt_of_le b.isLt (by decide), by dsimp only; omega, ?_⟩
  have hm : decodeMajor1A ⟨26, d.val, a.val, b.val, (32 * m.val + 5)⟩ = form4 (fldN 48 d.val) (fldN 56 a.val) (fldN 56 b.val) (fldN 8 ((32 * m.val + 5) / 32)) .vzip := by
    unfold decodeMajor1A; dsimp only; rw [h0]; try rfl
  exact hm.trans (form4_ok (k := .vzip) e0 e1 e2 e3)

theorem vunzip (d : Fin 48) (a : Fin 56) (b : Fin 56) (m : Fin 8) : Statement (.vunzip d a b m) := by
  intro hw f hf
  obtain rfl := Option.some.inj (show some ⟨26, d.val, a.val, b.val, (32 * m.val + 6)⟩ = some f from hf)
  have l_d := d.isLt
  have l_a := a.isLt
  have l_b := b.isLt
  have l_m := m.isLt
  have h0 : (32 * m.val + 6) % 32 = 6 := by omega
  have e0 : fldN 48 d.val = .ok d := fldN_eq d rfl
  have e1 : fldN 56 a.val = .ok a := fldN_eq a rfl
  have e2 : fldN 56 b.val = .ok b := fldN_eq b rfl
  have e3 : fldN 8 ((32 * m.val + 6) / 32) = .ok m := fldN_eq m (by omega)
  refine ⟨Nat.le_of_ble_eq_true rfl, Nat.lt_of_lt_of_le d.isLt (by decide), Nat.lt_of_lt_of_le a.isLt (by decide), Nat.lt_of_lt_of_le b.isLt (by decide), by dsimp only; omega, ?_⟩
  have hm : decodeMajor1A ⟨26, d.val, a.val, b.val, (32 * m.val + 6)⟩ = form4 (fldN 48 d.val) (fldN 56 a.val) (fldN 56 b.val) (fldN 8 ((32 * m.val + 6) / 32)) .vunzip := by
    unfold decodeMajor1A; dsimp only; rw [h0]; try rfl
  exact hm.trans (form4_ok (k := .vunzip) e0 e1 e2 e3)

theorem vliftZ (d : Fin 48) (a : Fin 56) (b : Fin 32) (m : Fin 8) : Statement (.vliftZ d a b m) := by
  intro hw f hf
  obtain rfl := Option.some.inj (show some ⟨26, d.val, a.val, b.val, (32 * m.val + 7)⟩ = some f from hf)
  have l_d := d.isLt
  have l_a := a.isLt
  have l_b := b.isLt
  have l_m := m.isLt
  have h0 : (32 * m.val + 7) % 32 = 7 := by omega
  have e0 : fldN 48 d.val = .ok d := fldN_eq d rfl
  have e1 : fldN 56 a.val = .ok a := fldN_eq a rfl
  have e2 : fldN 32 b.val = .ok b := fldN_eq b rfl
  have e3 : fldN 8 ((32 * m.val + 7) / 32) = .ok m := fldN_eq m (by omega)
  refine ⟨Nat.le_of_ble_eq_true rfl, Nat.lt_of_lt_of_le d.isLt (by decide), Nat.lt_of_lt_of_le a.isLt (by decide), Nat.lt_of_lt_of_le b.isLt (by decide), by dsimp only; omega, ?_⟩
  have hm : decodeMajor1A ⟨26, d.val, a.val, b.val, (32 * m.val + 7)⟩ = form4 (fldN 48 d.val) (fldN 56 a.val) (fldN 32 b.val) (fldN 8 ((32 * m.val + 7) / 32)) .vliftZ := by
    unfold decodeMajor1A; dsimp only; rw [h0]; try rfl
  exact hm.trans (form4_ok (k := .vliftZ) e0 e1 e2 e3)

theorem vsinkZ (d : Fin 48) (a : Fin 56) (b : Fin 32) (m : Fin 8) : Statement (.vsinkZ d a b m) := by
  intro hw f hf
  obtain rfl := Option.some.inj (show some ⟨26, d.val, a.val, b.val, (32 * m.val + 8)⟩ = some f from hf)
  have l_d := d.isLt
  have l_a := a.isLt
  have l_b := b.isLt
  have l_m := m.isLt
  have h0 : (32 * m.val + 8) % 32 = 8 := by omega
  have e0 : fldN 48 d.val = .ok d := fldN_eq d rfl
  have e1 : fldN 56 a.val = .ok a := fldN_eq a rfl
  have e2 : fldN 32 b.val = .ok b := fldN_eq b rfl
  have e3 : fldN 8 ((32 * m.val + 8) / 32) = .ok m := fldN_eq m (by omega)
  refine ⟨Nat.le_of_ble_eq_true rfl, Nat.lt_of_lt_of_le d.isLt (by decide), Nat.lt_of_lt_of_le a.isLt (by decide), Nat.lt_of_lt_of_le b.isLt (by decide), by dsimp only; omega, ?_⟩
  have hm : decodeMajor1A ⟨26, d.val, a.val, b.val, (32 * m.val + 8)⟩ = form4 (fldN 48 d.val) (fldN 56 a.val) (fldN 32 b.val) (fldN 8 ((32 * m.val + 8) / 32)) .vsinkZ := by
    unfold decodeMajor1A; dsimp only; rw [h0]; try rfl
  exact hm.trans (form4_ok (k := .vsinkZ) e0 e1 e2 e3)

theorem vpackK (d : Fin 48) (a : Fin 56) (k : Fin 8) : Statement (.vpackK d a k) := by
  intro hw f hf
  obtain rfl := Option.some.inj (show some ⟨26, d.val, a.val, 0, (32 * k.val + 9)⟩ = some f from hf)
  have l_d := d.isLt
  have l_a := a.isLt
  have l_k := k.isLt
  have h0 : (32 * k.val + 9) % 32 = 9 := by omega
  have e0 : fldN 48 d.val = .ok d := fldN_eq d rfl
  have e1 : fldN 56 a.val = .ok a := fldN_eq a rfl
  have e2 : fld0 0 = .ok () := rfl
  have e3 : fldN 8 ((32 * k.val + 9) / 32) = .ok k := fldN_eq k (by omega)
  refine ⟨Nat.le_of_ble_eq_true rfl, Nat.lt_of_lt_of_le d.isLt (by decide), Nat.lt_of_lt_of_le a.isLt (by decide), Nat.le_of_ble_eq_true rfl, by dsimp only; omega, ?_⟩
  have hm : decodeMajor1A ⟨26, d.val, a.val, 0, (32 * k.val + 9)⟩ = form4 (fldN 48 d.val) (fldN 56 a.val) (fld0 0) (fldN 8 ((32 * k.val + 9) / 32)) (fun d a _ k => .vpackK d a k) := by
    unfold decodeMajor1A; dsimp only; rw [h0]; try rfl
  exact hm.trans (form4_ok (k := (fun d a _ k => .vpackK d a k)) e0 e1 e2 e3)

theorem vfoldAdd (d : Fin 48) (a : Fin 56) (m : Fin 8) : Statement (.vfoldAdd d a m) := by
  intro hw f hf
  obtain rfl := Option.some.inj (show some ⟨27, d.val, a.val, 0, (32 * m.val + 0)⟩ = some f from hf)
  have l_d := d.isLt
  have l_a := a.isLt
  have l_m := m.isLt
  have h0 : (32 * m.val + 0) % 32 = 0 := by omega
  have e0 : fldN 48 d.val = .ok d := fldN_eq d rfl
  have e1 : fldN 56 a.val = .ok a := fldN_eq a rfl
  have e2 : fld0 0 = .ok () := rfl
  have e3 : fldN 8 ((32 * m.val + 0) / 32) = .ok m := fldN_eq m (by omega)
  refine ⟨Nat.le_of_ble_eq_true rfl, Nat.lt_of_lt_of_le d.isLt (by decide), Nat.lt_of_lt_of_le a.isLt (by decide), Nat.le_of_ble_eq_true rfl, by dsimp only; omega, ?_⟩
  have hm : decodeMajor1B ⟨27, d.val, a.val, 0, (32 * m.val + 0)⟩ = form4 (fldN 48 d.val) (fldN 56 a.val) (fld0 0) (fldN 8 ((32 * m.val + 0) / 32)) (fun d a _ m => .vfoldAdd d a m) := by
    unfold decodeMajor1B; dsimp only; rw [h0]; try rfl
  exact hm.trans (form4_ok (k := (fun d a _ m => .vfoldAdd d a m)) e0 e1 e2 e3)

theorem vfoldMax (d : Fin 48) (a : Fin 56) (m : Fin 8) : Statement (.vfoldMax d a m) := by
  intro hw f hf
  obtain rfl := Option.some.inj (show some ⟨27, d.val, a.val, 0, (32 * m.val + 1)⟩ = some f from hf)
  have l_d := d.isLt
  have l_a := a.isLt
  have l_m := m.isLt
  have h0 : (32 * m.val + 1) % 32 = 1 := by omega
  have e0 : fldN 48 d.val = .ok d := fldN_eq d rfl
  have e1 : fldN 56 a.val = .ok a := fldN_eq a rfl
  have e2 : fld0 0 = .ok () := rfl
  have e3 : fldN 8 ((32 * m.val + 1) / 32) = .ok m := fldN_eq m (by omega)
  refine ⟨Nat.le_of_ble_eq_true rfl, Nat.lt_of_lt_of_le d.isLt (by decide), Nat.lt_of_lt_of_le a.isLt (by decide), Nat.le_of_ble_eq_true rfl, by dsimp only; omega, ?_⟩
  have hm : decodeMajor1B ⟨27, d.val, a.val, 0, (32 * m.val + 1)⟩ = form4 (fldN 48 d.val) (fldN 56 a.val) (fld0 0) (fldN 8 ((32 * m.val + 1) / 32)) (fun d a _ m => .vfoldMax d a m) := by
    unfold decodeMajor1B; dsimp only; rw [h0]; try rfl
  exact hm.trans (form4_ok (k := (fun d a _ m => .vfoldMax d a m)) e0 e1 e2 e3)

theorem vfoldMin (d : Fin 48) (a : Fin 56) (m : Fin 8) : Statement (.vfoldMin d a m) := by
  intro hw f hf
  obtain rfl := Option.some.inj (show some ⟨27, d.val, a.val, 0, (32 * m.val + 2)⟩ = some f from hf)
  have l_d := d.isLt
  have l_a := a.isLt
  have l_m := m.isLt
  have h0 : (32 * m.val + 2) % 32 = 2 := by omega
  have e0 : fldN 48 d.val = .ok d := fldN_eq d rfl
  have e1 : fldN 56 a.val = .ok a := fldN_eq a rfl
  have e2 : fld0 0 = .ok () := rfl
  have e3 : fldN 8 ((32 * m.val + 2) / 32) = .ok m := fldN_eq m (by omega)
  refine ⟨Nat.le_of_ble_eq_true rfl, Nat.lt_of_lt_of_le d.isLt (by decide), Nat.lt_of_lt_of_le a.isLt (by decide), Nat.le_of_ble_eq_true rfl, by dsimp only; omega, ?_⟩
  have hm : decodeMajor1B ⟨27, d.val, a.val, 0, (32 * m.val + 2)⟩ = form4 (fldN 48 d.val) (fldN 56 a.val) (fld0 0) (fldN 8 ((32 * m.val + 2) / 32)) (fun d a _ m => .vfoldMin d a m) := by
    unfold decodeMajor1B; dsimp only; rw [h0]; try rfl
  exact hm.trans (form4_ok (k := (fun d a _ m => .vfoldMin d a m)) e0 e1 e2 e3)

theorem vfoldAnd (d : Fin 48) (a : Fin 56) (m : Fin 8) : Statement (.vfoldAnd d a m) := by
  intro hw f hf
  obtain rfl := Option.some.inj (show some ⟨27, d.val, a.val, 0, (32 * m.val + 3)⟩ = some f from hf)
  have l_d := d.isLt
  have l_a := a.isLt
  have l_m := m.isLt
  have h0 : (32 * m.val + 3) % 32 = 3 := by omega
  have e0 : fldN 48 d.val = .ok d := fldN_eq d rfl
  have e1 : fldN 56 a.val = .ok a := fldN_eq a rfl
  have e2 : fld0 0 = .ok () := rfl
  have e3 : fldN 8 ((32 * m.val + 3) / 32) = .ok m := fldN_eq m (by omega)
  refine ⟨Nat.le_of_ble_eq_true rfl, Nat.lt_of_lt_of_le d.isLt (by decide), Nat.lt_of_lt_of_le a.isLt (by decide), Nat.le_of_ble_eq_true rfl, by dsimp only; omega, ?_⟩
  have hm : decodeMajor1B ⟨27, d.val, a.val, 0, (32 * m.val + 3)⟩ = form4 (fldN 48 d.val) (fldN 56 a.val) (fld0 0) (fldN 8 ((32 * m.val + 3) / 32)) (fun d a _ m => .vfoldAnd d a m) := by
    unfold decodeMajor1B; dsimp only; rw [h0]; try rfl
  exact hm.trans (form4_ok (k := (fun d a _ m => .vfoldAnd d a m)) e0 e1 e2 e3)

theorem vfoldOr (d : Fin 48) (a : Fin 56) (m : Fin 8) : Statement (.vfoldOr d a m) := by
  intro hw f hf
  obtain rfl := Option.some.inj (show some ⟨27, d.val, a.val, 0, (32 * m.val + 4)⟩ = some f from hf)
  have l_d := d.isLt
  have l_a := a.isLt
  have l_m := m.isLt
  have h0 : (32 * m.val + 4) % 32 = 4 := by omega
  have e0 : fldN 48 d.val = .ok d := fldN_eq d rfl
  have e1 : fldN 56 a.val = .ok a := fldN_eq a rfl
  have e2 : fld0 0 = .ok () := rfl
  have e3 : fldN 8 ((32 * m.val + 4) / 32) = .ok m := fldN_eq m (by omega)
  refine ⟨Nat.le_of_ble_eq_true rfl, Nat.lt_of_lt_of_le d.isLt (by decide), Nat.lt_of_lt_of_le a.isLt (by decide), Nat.le_of_ble_eq_true rfl, by dsimp only; omega, ?_⟩
  have hm : decodeMajor1B ⟨27, d.val, a.val, 0, (32 * m.val + 4)⟩ = form4 (fldN 48 d.val) (fldN 56 a.val) (fld0 0) (fldN 8 ((32 * m.val + 4) / 32)) (fun d a _ m => .vfoldOr d a m) := by
    unfold decodeMajor1B; dsimp only; rw [h0]; try rfl
  exact hm.trans (form4_ok (k := (fun d a _ m => .vfoldOr d a m)) e0 e1 e2 e3)

theorem vfoldXor (d : Fin 48) (a : Fin 56) (m : Fin 8) : Statement (.vfoldXor d a m) := by
  intro hw f hf
  obtain rfl := Option.some.inj (show some ⟨27, d.val, a.val, 0, (32 * m.val + 5)⟩ = some f from hf)
  have l_d := d.isLt
  have l_a := a.isLt
  have l_m := m.isLt
  have h0 : (32 * m.val + 5) % 32 = 5 := by omega
  have e0 : fldN 48 d.val = .ok d := fldN_eq d rfl
  have e1 : fldN 56 a.val = .ok a := fldN_eq a rfl
  have e2 : fld0 0 = .ok () := rfl
  have e3 : fldN 8 ((32 * m.val + 5) / 32) = .ok m := fldN_eq m (by omega)
  refine ⟨Nat.le_of_ble_eq_true rfl, Nat.lt_of_lt_of_le d.isLt (by decide), Nat.lt_of_lt_of_le a.isLt (by decide), Nat.le_of_ble_eq_true rfl, by dsimp only; omega, ?_⟩
  have hm : decodeMajor1B ⟨27, d.val, a.val, 0, (32 * m.val + 5)⟩ = form4 (fldN 48 d.val) (fldN 56 a.val) (fld0 0) (fldN 8 ((32 * m.val + 5) / 32)) (fun d a _ m => .vfoldXor d a m) := by
    unfold decodeMajor1B; dsimp only; rw [h0]; try rfl
  exact hm.trans (form4_ok (k := (fun d a _ m => .vfoldXor d a m)) e0 e1 e2 e3)

theorem vfoldAmax (d : Fin 48) (a : Fin 56) (m : Fin 8) : Statement (.vfoldAmax d a m) := by
  intro hw f hf
  obtain rfl := Option.some.inj (show some ⟨27, d.val, a.val, 0, (32 * m.val + 6)⟩ = some f from hf)
  have l_d := d.isLt
  have l_a := a.isLt
  have l_m := m.isLt
  have h0 : (32 * m.val + 6) % 32 = 6 := by omega
  have e0 : fldN 48 d.val = .ok d := fldN_eq d rfl
  have e1 : fldN 56 a.val = .ok a := fldN_eq a rfl
  have e2 : fld0 0 = .ok () := rfl
  have e3 : fldN 8 ((32 * m.val + 6) / 32) = .ok m := fldN_eq m (by omega)
  refine ⟨Nat.le_of_ble_eq_true rfl, Nat.lt_of_lt_of_le d.isLt (by decide), Nat.lt_of_lt_of_le a.isLt (by decide), Nat.le_of_ble_eq_true rfl, by dsimp only; omega, ?_⟩
  have hm : decodeMajor1B ⟨27, d.val, a.val, 0, (32 * m.val + 6)⟩ = form4 (fldN 48 d.val) (fldN 56 a.val) (fld0 0) (fldN 8 ((32 * m.val + 6) / 32)) (fun d a _ m => .vfoldAmax d a m) := by
    unfold decodeMajor1B; dsimp only; rw [h0]; try rfl
  exact hm.trans (form4_ok (k := (fun d a _ m => .vfoldAmax d a m)) e0 e1 e2 e3)

theorem vld (d : Fin 56) (sb : Fin 32) (disp : Fin 64) (m : Fin 8) (ord : Bool) (ovt : Bool) : Statement (.vld d sb disp m ord ovt) := by
  intro hw f hf
  obtain rfl := Option.some.inj (show some ⟨28, d.val, sb.val, disp.val, (32 * m.val + 16 * ord.toNat + 8 * ovt.toNat + 0)⟩ = some f from hf)
  have l_d := d.isLt
  have l_sb := sb.isLt
  have l_disp := disp.isLt
  have l_m := m.isLt
  have l_ord := ord.toNat_lt
  have l_ovt := ovt.toNat_lt
  have h0 : (32 * m.val + 16 * ord.toNat + 8 * ovt.toNat + 0) % 8 = 0 := by omega
  have e0 : fldN 56 d.val = .ok d := fldN_eq d rfl
  have e1 : fldN 32 sb.val = .ok sb := fldN_eq sb rfl
  have e2 : fldN 64 disp.val = .ok disp := fldN_eq disp rfl
  have e3 : fldN 8 ((32 * m.val + 16 * ord.toNat + 8 * ovt.toNat + 0) / 32) = .ok m := fldN_eq m (by omega)
  have e4 : (.ok ((32 * m.val + 16 * ord.toNat + 8 * ovt.toNat + 0) / 16 % 2 == 1) : Except Reject Bool) = .ok ord := congrArg _ (beq_one ord (by omega))
  have e5 : (.ok ((32 * m.val + 16 * ord.toNat + 8 * ovt.toNat + 0) / 8 % 2 == 1) : Except Reject Bool) = .ok ovt := congrArg _ (beq_one ovt (by omega))
  refine ⟨Nat.le_of_ble_eq_true rfl, Nat.lt_of_lt_of_le d.isLt (by decide), Nat.lt_of_lt_of_le sb.isLt (by decide), Nat.lt_of_lt_of_le disp.isLt (by decide), by dsimp only; omega, ?_⟩
  have hm : decodeMajor1C ⟨28, d.val, sb.val, disp.val, (32 * m.val + 16 * ord.toNat + 8 * ovt.toNat + 0)⟩ = form6 (fldN 56 d.val) (fldN 32 sb.val) (fldN 64 disp.val) (fldN 8 ((32 * m.val + 16 * ord.toNat + 8 * ovt.toNat + 0) / 32)) (.ok ((32 * m.val + 16 * ord.toNat + 8 * ovt.toNat + 0) / 16 % 2 == 1)) (.ok ((32 * m.val + 16 * ord.toNat + 8 * ovt.toNat + 0) / 8 % 2 == 1)) .vld := by
    unfold decodeMajor1C; dsimp only; rw [h0]; try rfl
  exact hm.trans (form6_ok (k := .vld) e0 e1 e2 e3 e4 e5)

theorem vlds (d : Fin 56) (sb : Fin 32) (ss : Fin 32) (m : Fin 8) (ord : Bool) (ovt : Bool) : Statement (.vlds d sb ss m ord ovt) := by
  intro hw f hf
  obtain rfl := Option.some.inj (show some ⟨28, d.val, sb.val, ss.val, (32 * m.val + 16 * ord.toNat + 8 * ovt.toNat + 1)⟩ = some f from hf)
  have l_d := d.isLt
  have l_sb := sb.isLt
  have l_ss := ss.isLt
  have l_m := m.isLt
  have l_ord := ord.toNat_lt
  have l_ovt := ovt.toNat_lt
  have h0 : (32 * m.val + 16 * ord.toNat + 8 * ovt.toNat + 1) % 8 = 1 := by omega
  have e0 : fldN 56 d.val = .ok d := fldN_eq d rfl
  have e1 : fldN 32 sb.val = .ok sb := fldN_eq sb rfl
  have e2 : fldN 32 ss.val = .ok ss := fldN_eq ss rfl
  have e3 : fldN 8 ((32 * m.val + 16 * ord.toNat + 8 * ovt.toNat + 1) / 32) = .ok m := fldN_eq m (by omega)
  have e4 : (.ok ((32 * m.val + 16 * ord.toNat + 8 * ovt.toNat + 1) / 16 % 2 == 1) : Except Reject Bool) = .ok ord := congrArg _ (beq_one ord (by omega))
  have e5 : (.ok ((32 * m.val + 16 * ord.toNat + 8 * ovt.toNat + 1) / 8 % 2 == 1) : Except Reject Bool) = .ok ovt := congrArg _ (beq_one ovt (by omega))
  refine ⟨Nat.le_of_ble_eq_true rfl, Nat.lt_of_lt_of_le d.isLt (by decide), Nat.lt_of_lt_of_le sb.isLt (by decide), Nat.lt_of_lt_of_le ss.isLt (by decide), by dsimp only; omega, ?_⟩
  have hm : decodeMajor1C ⟨28, d.val, sb.val, ss.val, (32 * m.val + 16 * ord.toNat + 8 * ovt.toNat + 1)⟩ = form6 (fldN 56 d.val) (fldN 32 sb.val) (fldN 32 ss.val) (fldN 8 ((32 * m.val + 16 * ord.toNat + 8 * ovt.toNat + 1) / 32)) (.ok ((32 * m.val + 16 * ord.toNat + 8 * ovt.toNat + 1) / 16 % 2 == 1)) (.ok ((32 * m.val + 16 * ord.toNat + 8 * ovt.toNat + 1) / 8 % 2 == 1)) .vlds := by
    unfold decodeMajor1C; dsimp only; rw [h0]; try rfl
  exact hm.trans (form6_ok (k := .vlds) e0 e1 e2 e3 e4 e5)

theorem vldx (d : Fin 56) (sb : Fin 32) (vi : Fin 56) (m : Fin 8) (ord : Bool) (ovt : Bool) : Statement (.vldx d sb vi m ord ovt) := by
  intro hw f hf
  obtain rfl := Option.some.inj (show some ⟨28, d.val, sb.val, vi.val, (32 * m.val + 16 * ord.toNat + 8 * ovt.toNat + 2)⟩ = some f from hf)
  have l_d := d.isLt
  have l_sb := sb.isLt
  have l_vi := vi.isLt
  have l_m := m.isLt
  have l_ord := ord.toNat_lt
  have l_ovt := ovt.toNat_lt
  have h0 : (32 * m.val + 16 * ord.toNat + 8 * ovt.toNat + 2) % 8 = 2 := by omega
  have e0 : fldN 56 d.val = .ok d := fldN_eq d rfl
  have e1 : fldN 32 sb.val = .ok sb := fldN_eq sb rfl
  have e2 : fldN 56 vi.val = .ok vi := fldN_eq vi rfl
  have e3 : fldN 8 ((32 * m.val + 16 * ord.toNat + 8 * ovt.toNat + 2) / 32) = .ok m := fldN_eq m (by omega)
  have e4 : (.ok ((32 * m.val + 16 * ord.toNat + 8 * ovt.toNat + 2) / 16 % 2 == 1) : Except Reject Bool) = .ok ord := congrArg _ (beq_one ord (by omega))
  have e5 : (.ok ((32 * m.val + 16 * ord.toNat + 8 * ovt.toNat + 2) / 8 % 2 == 1) : Except Reject Bool) = .ok ovt := congrArg _ (beq_one ovt (by omega))
  refine ⟨Nat.le_of_ble_eq_true rfl, Nat.lt_of_lt_of_le d.isLt (by decide), Nat.lt_of_lt_of_le sb.isLt (by decide), Nat.lt_of_lt_of_le vi.isLt (by decide), by dsimp only; omega, ?_⟩
  have hm : decodeMajor1C ⟨28, d.val, sb.val, vi.val, (32 * m.val + 16 * ord.toNat + 8 * ovt.toNat + 2)⟩ = form6 (fldN 56 d.val) (fldN 32 sb.val) (fldN 56 vi.val) (fldN 8 ((32 * m.val + 16 * ord.toNat + 8 * ovt.toNat + 2) / 32)) (.ok ((32 * m.val + 16 * ord.toNat + 8 * ovt.toNat + 2) / 16 % 2 == 1)) (.ok ((32 * m.val + 16 * ord.toNat + 8 * ovt.toNat + 2) / 8 % 2 == 1)) .vldx := by
    unfold decodeMajor1C; dsimp only; rw [h0]; try rfl
  exact hm.trans (form6_ok (k := .vldx) e0 e1 e2 e3 e4 e5)

theorem vldb (d : Fin 24) (sb : Fin 16) (disp : Fin 64) (m : Fin 8) (ord : Bool) (ovt : Bool) : Statement (.vldb d sb disp m ord ovt) := by
  intro hw f hf
  obtain rfl := Option.some.inj (show some ⟨28, (2 * d.val), (2 * sb.val), disp.val, (32 * m.val + 16 * ord.toNat + 8 * ovt.toNat + 3)⟩ = some f from hf)
  have l_d := d.isLt
  have l_sb := sb.isLt
  have l_disp := disp.isLt
  have l_m := m.isLt
  have l_ord := ord.toNat_lt
  have l_ovt := ovt.toNat_lt
  have h0 : (32 * m.val + 16 * ord.toNat + 8 * ovt.toNat + 3) % 8 = 3 := by omega
  have e0 : fldPair 24 (2 * d.val) = .ok d := fldPair_eq d rfl
  have e1 : fldPair 16 (2 * sb.val) = .ok sb := fldPair_eq sb rfl
  have e2 : fldN 64 disp.val = .ok disp := fldN_eq disp rfl
  have e3 : fldN 8 ((32 * m.val + 16 * ord.toNat + 8 * ovt.toNat + 3) / 32) = .ok m := fldN_eq m (by omega)
  have e4 : (.ok ((32 * m.val + 16 * ord.toNat + 8 * ovt.toNat + 3) / 16 % 2 == 1) : Except Reject Bool) = .ok ord := congrArg _ (beq_one ord (by omega))
  have e5 : (.ok ((32 * m.val + 16 * ord.toNat + 8 * ovt.toNat + 3) / 8 % 2 == 1) : Except Reject Bool) = .ok ovt := congrArg _ (beq_one ovt (by omega))
  refine ⟨Nat.le_of_ble_eq_true rfl, by dsimp only; omega, by dsimp only; omega, Nat.lt_of_lt_of_le disp.isLt (by decide), by dsimp only; omega, ?_⟩
  have hm : decodeMajor1C ⟨28, (2 * d.val), (2 * sb.val), disp.val, (32 * m.val + 16 * ord.toNat + 8 * ovt.toNat + 3)⟩ = form6 (fldPair 24 (2 * d.val)) (fldPair 16 (2 * sb.val)) (fldN 64 disp.val) (fldN 8 ((32 * m.val + 16 * ord.toNat + 8 * ovt.toNat + 3) / 32)) (.ok ((32 * m.val + 16 * ord.toNat + 8 * ovt.toNat + 3) / 16 % 2 == 1)) (.ok ((32 * m.val + 16 * ord.toNat + 8 * ovt.toNat + 3) / 8 % 2 == 1)) .vldb := by
    unfold decodeMajor1C; dsimp only; rw [h0]; try rfl
  exact hm.trans (form6_ok (k := .vldb) e0 e1 e2 e3 e4 e5)

theorem vldSpec (d : Fin 56) (sb : Fin 32) (disp : Fin 64) (m : Fin 8) (ord : Bool) (ovt : Bool) : Statement (.vldSpec d sb disp m ord ovt) := by
  intro hw f hf
  obtain rfl := Option.some.inj (show some ⟨28, d.val, sb.val, disp.val, (32 * m.val + 16 * ord.toNat + 8 * ovt.toNat + 4)⟩ = some f from hf)
  have l_d := d.isLt
  have l_sb := sb.isLt
  have l_disp := disp.isLt
  have l_m := m.isLt
  have l_ord := ord.toNat_lt
  have l_ovt := ovt.toNat_lt
  have h0 : (32 * m.val + 16 * ord.toNat + 8 * ovt.toNat + 4) % 8 = 4 := by omega
  have e0 : fldN 56 d.val = .ok d := fldN_eq d rfl
  have e1 : fldN 32 sb.val = .ok sb := fldN_eq sb rfl
  have e2 : fldN 64 disp.val = .ok disp := fldN_eq disp rfl
  have e3 : fldN 8 ((32 * m.val + 16 * ord.toNat + 8 * ovt.toNat + 4) / 32) = .ok m := fldN_eq m (by omega)
  have e4 : (.ok ((32 * m.val + 16 * ord.toNat + 8 * ovt.toNat + 4) / 16 % 2 == 1) : Except Reject Bool) = .ok ord := congrArg _ (beq_one ord (by omega))
  have e5 : (.ok ((32 * m.val + 16 * ord.toNat + 8 * ovt.toNat + 4) / 8 % 2 == 1) : Except Reject Bool) = .ok ovt := congrArg _ (beq_one ovt (by omega))
  refine ⟨Nat.le_of_ble_eq_true rfl, Nat.lt_of_lt_of_le d.isLt (by decide), Nat.lt_of_lt_of_le sb.isLt (by decide), Nat.lt_of_lt_of_le disp.isLt (by decide), by dsimp only; omega, ?_⟩
  have hm : decodeMajor1C ⟨28, d.val, sb.val, disp.val, (32 * m.val + 16 * ord.toNat + 8 * ovt.toNat + 4)⟩ = form6 (fldN 56 d.val) (fldN 32 sb.val) (fldN 64 disp.val) (fldN 8 ((32 * m.val + 16 * ord.toNat + 8 * ovt.toNat + 4) / 32)) (.ok ((32 * m.val + 16 * ord.toNat + 8 * ovt.toNat + 4) / 16 % 2 == 1)) (.ok ((32 * m.val + 16 * ord.toNat + 8 * ovt.toNat + 4) / 8 % 2 == 1)) .vldSpec := by
    unfold decodeMajor1C; dsimp only; rw [h0]; try rfl
  exact hm.trans (form6_ok (k := .vldSpec) e0 e1 e2 e3 e4 e5)

theorem vldsSpec (d : Fin 56) (sb : Fin 32) (ss : Fin 32) (m : Fin 8) (ord : Bool) (ovt : Bool) : Statement (.vldsSpec d sb ss m ord ovt) := by
  intro hw f hf
  obtain rfl := Option.some.inj (show some ⟨28, d.val, sb.val, ss.val, (32 * m.val + 16 * ord.toNat + 8 * ovt.toNat + 5)⟩ = some f from hf)
  have l_d := d.isLt
  have l_sb := sb.isLt
  have l_ss := ss.isLt
  have l_m := m.isLt
  have l_ord := ord.toNat_lt
  have l_ovt := ovt.toNat_lt
  have h0 : (32 * m.val + 16 * ord.toNat + 8 * ovt.toNat + 5) % 8 = 5 := by omega
  have e0 : fldN 56 d.val = .ok d := fldN_eq d rfl
  have e1 : fldN 32 sb.val = .ok sb := fldN_eq sb rfl
  have e2 : fldN 32 ss.val = .ok ss := fldN_eq ss rfl
  have e3 : fldN 8 ((32 * m.val + 16 * ord.toNat + 8 * ovt.toNat + 5) / 32) = .ok m := fldN_eq m (by omega)
  have e4 : (.ok ((32 * m.val + 16 * ord.toNat + 8 * ovt.toNat + 5) / 16 % 2 == 1) : Except Reject Bool) = .ok ord := congrArg _ (beq_one ord (by omega))
  have e5 : (.ok ((32 * m.val + 16 * ord.toNat + 8 * ovt.toNat + 5) / 8 % 2 == 1) : Except Reject Bool) = .ok ovt := congrArg _ (beq_one ovt (by omega))
  refine ⟨Nat.le_of_ble_eq_true rfl, Nat.lt_of_lt_of_le d.isLt (by decide), Nat.lt_of_lt_of_le sb.isLt (by decide), Nat.lt_of_lt_of_le ss.isLt (by decide), by dsimp only; omega, ?_⟩
  have hm : decodeMajor1C ⟨28, d.val, sb.val, ss.val, (32 * m.val + 16 * ord.toNat + 8 * ovt.toNat + 5)⟩ = form6 (fldN 56 d.val) (fldN 32 sb.val) (fldN 32 ss.val) (fldN 8 ((32 * m.val + 16 * ord.toNat + 8 * ovt.toNat + 5) / 32)) (.ok ((32 * m.val + 16 * ord.toNat + 8 * ovt.toNat + 5) / 16 % 2 == 1)) (.ok ((32 * m.val + 16 * ord.toNat + 8 * ovt.toNat + 5) / 8 % 2 == 1)) .vldsSpec := by
    unfold decodeMajor1C; dsimp only; rw [h0]; try rfl
  exact hm.trans (form6_ok (k := .vldsSpec) e0 e1 e2 e3 e4 e5)

theorem vldxSpec (d : Fin 56) (sb : Fin 32) (vi : Fin 56) (m : Fin 8) (ord : Bool) (ovt : Bool) : Statement (.vldxSpec d sb vi m ord ovt) := by
  intro hw f hf
  obtain rfl := Option.some.inj (show some ⟨28, d.val, sb.val, vi.val, (32 * m.val + 16 * ord.toNat + 8 * ovt.toNat + 6)⟩ = some f from hf)
  have l_d := d.isLt
  have l_sb := sb.isLt
  have l_vi := vi.isLt
  have l_m := m.isLt
  have l_ord := ord.toNat_lt
  have l_ovt := ovt.toNat_lt
  have h0 : (32 * m.val + 16 * ord.toNat + 8 * ovt.toNat + 6) % 8 = 6 := by omega
  have e0 : fldN 56 d.val = .ok d := fldN_eq d rfl
  have e1 : fldN 32 sb.val = .ok sb := fldN_eq sb rfl
  have e2 : fldN 56 vi.val = .ok vi := fldN_eq vi rfl
  have e3 : fldN 8 ((32 * m.val + 16 * ord.toNat + 8 * ovt.toNat + 6) / 32) = .ok m := fldN_eq m (by omega)
  have e4 : (.ok ((32 * m.val + 16 * ord.toNat + 8 * ovt.toNat + 6) / 16 % 2 == 1) : Except Reject Bool) = .ok ord := congrArg _ (beq_one ord (by omega))
  have e5 : (.ok ((32 * m.val + 16 * ord.toNat + 8 * ovt.toNat + 6) / 8 % 2 == 1) : Except Reject Bool) = .ok ovt := congrArg _ (beq_one ovt (by omega))
  refine ⟨Nat.le_of_ble_eq_true rfl, Nat.lt_of_lt_of_le d.isLt (by decide), Nat.lt_of_lt_of_le sb.isLt (by decide), Nat.lt_of_lt_of_le vi.isLt (by decide), by dsimp only; omega, ?_⟩
  have hm : decodeMajor1C ⟨28, d.val, sb.val, vi.val, (32 * m.val + 16 * ord.toNat + 8 * ovt.toNat + 6)⟩ = form6 (fldN 56 d.val) (fldN 32 sb.val) (fldN 56 vi.val) (fldN 8 ((32 * m.val + 16 * ord.toNat + 8 * ovt.toNat + 6) / 32)) (.ok ((32 * m.val + 16 * ord.toNat + 8 * ovt.toNat + 6) / 16 % 2 == 1)) (.ok ((32 * m.val + 16 * ord.toNat + 8 * ovt.toNat + 6) / 8 % 2 == 1)) .vldxSpec := by
    unfold decodeMajor1C; dsimp only; rw [h0]; try rfl
  exact hm.trans (form6_ok (k := .vldxSpec) e0 e1 e2 e3 e4 e5)

theorem vst (vs : Fin 56) (sb : Fin 32) (disp : Fin 64) (m : Fin 8) (ord : Bool) (ovt : Bool) : Statement (.vst vs sb disp m ord ovt) := by
  intro hw f hf
  obtain rfl := Option.some.inj (show some ⟨29, vs.val, sb.val, disp.val, (32 * m.val + 16 * ord.toNat + 8 * ovt.toNat + 0)⟩ = some f from hf)
  have l_vs := vs.isLt
  have l_sb := sb.isLt
  have l_disp := disp.isLt
  have l_m := m.isLt
  have l_ord := ord.toNat_lt
  have l_ovt := ovt.toNat_lt
  have h0 : (32 * m.val + 16 * ord.toNat + 8 * ovt.toNat + 0) % 8 = 0 := by omega
  have e0 : fldN 56 vs.val = .ok vs := fldN_eq vs rfl
  have e1 : fldN 32 sb.val = .ok sb := fldN_eq sb rfl
  have e2 : fldN 64 disp.val = .ok disp := fldN_eq disp rfl
  have e3 : fldN 8 ((32 * m.val + 16 * ord.toNat + 8 * ovt.toNat + 0) / 32) = .ok m := fldN_eq m (by omega)
  have e4 : (.ok ((32 * m.val + 16 * ord.toNat + 8 * ovt.toNat + 0) / 16 % 2 == 1) : Except Reject Bool) = .ok ord := congrArg _ (beq_one ord (by omega))
  have e5 : (.ok ((32 * m.val + 16 * ord.toNat + 8 * ovt.toNat + 0) / 8 % 2 == 1) : Except Reject Bool) = .ok ovt := congrArg _ (beq_one ovt (by omega))
  refine ⟨Nat.le_of_ble_eq_true rfl, Nat.lt_of_lt_of_le vs.isLt (by decide), Nat.lt_of_lt_of_le sb.isLt (by decide), Nat.lt_of_lt_of_le disp.isLt (by decide), by dsimp only; omega, ?_⟩
  have hm : decodeMajor1D ⟨29, vs.val, sb.val, disp.val, (32 * m.val + 16 * ord.toNat + 8 * ovt.toNat + 0)⟩ = form6 (fldN 56 vs.val) (fldN 32 sb.val) (fldN 64 disp.val) (fldN 8 ((32 * m.val + 16 * ord.toNat + 8 * ovt.toNat + 0) / 32)) (.ok ((32 * m.val + 16 * ord.toNat + 8 * ovt.toNat + 0) / 16 % 2 == 1)) (.ok ((32 * m.val + 16 * ord.toNat + 8 * ovt.toNat + 0) / 8 % 2 == 1)) .vst := by
    unfold decodeMajor1D; dsimp only; rw [h0]; try rfl
  exact hm.trans (form6_ok (k := .vst) e0 e1 e2 e3 e4 e5)

theorem vsts (vs : Fin 56) (sb : Fin 32) (ss : Fin 32) (m : Fin 8) (ord : Bool) (ovt : Bool) : Statement (.vsts vs sb ss m ord ovt) := by
  intro hw f hf
  obtain rfl := Option.some.inj (show some ⟨29, vs.val, sb.val, ss.val, (32 * m.val + 16 * ord.toNat + 8 * ovt.toNat + 1)⟩ = some f from hf)
  have l_vs := vs.isLt
  have l_sb := sb.isLt
  have l_ss := ss.isLt
  have l_m := m.isLt
  have l_ord := ord.toNat_lt
  have l_ovt := ovt.toNat_lt
  have h0 : (32 * m.val + 16 * ord.toNat + 8 * ovt.toNat + 1) % 8 = 1 := by omega
  have e0 : fldN 56 vs.val = .ok vs := fldN_eq vs rfl
  have e1 : fldN 32 sb.val = .ok sb := fldN_eq sb rfl
  have e2 : fldN 32 ss.val = .ok ss := fldN_eq ss rfl
  have e3 : fldN 8 ((32 * m.val + 16 * ord.toNat + 8 * ovt.toNat + 1) / 32) = .ok m := fldN_eq m (by omega)
  have e4 : (.ok ((32 * m.val + 16 * ord.toNat + 8 * ovt.toNat + 1) / 16 % 2 == 1) : Except Reject Bool) = .ok ord := congrArg _ (beq_one ord (by omega))
  have e5 : (.ok ((32 * m.val + 16 * ord.toNat + 8 * ovt.toNat + 1) / 8 % 2 == 1) : Except Reject Bool) = .ok ovt := congrArg _ (beq_one ovt (by omega))
  refine ⟨Nat.le_of_ble_eq_true rfl, Nat.lt_of_lt_of_le vs.isLt (by decide), Nat.lt_of_lt_of_le sb.isLt (by decide), Nat.lt_of_lt_of_le ss.isLt (by decide), by dsimp only; omega, ?_⟩
  have hm : decodeMajor1D ⟨29, vs.val, sb.val, ss.val, (32 * m.val + 16 * ord.toNat + 8 * ovt.toNat + 1)⟩ = form6 (fldN 56 vs.val) (fldN 32 sb.val) (fldN 32 ss.val) (fldN 8 ((32 * m.val + 16 * ord.toNat + 8 * ovt.toNat + 1) / 32)) (.ok ((32 * m.val + 16 * ord.toNat + 8 * ovt.toNat + 1) / 16 % 2 == 1)) (.ok ((32 * m.val + 16 * ord.toNat + 8 * ovt.toNat + 1) / 8 % 2 == 1)) .vsts := by
    unfold decodeMajor1D; dsimp only; rw [h0]; try rfl
  exact hm.trans (form6_ok (k := .vsts) e0 e1 e2 e3 e4 e5)

theorem vstx (vs : Fin 56) (sb : Fin 32) (vi : Fin 56) (m : Fin 8) (ord : Bool) (ovt : Bool) : Statement (.vstx vs sb vi m ord ovt) := by
  intro hw f hf
  obtain rfl := Option.some.inj (show some ⟨29, vs.val, sb.val, vi.val, (32 * m.val + 16 * ord.toNat + 8 * ovt.toNat + 2)⟩ = some f from hf)
  have l_vs := vs.isLt
  have l_sb := sb.isLt
  have l_vi := vi.isLt
  have l_m := m.isLt
  have l_ord := ord.toNat_lt
  have l_ovt := ovt.toNat_lt
  have h0 : (32 * m.val + 16 * ord.toNat + 8 * ovt.toNat + 2) % 8 = 2 := by omega
  have e0 : fldN 56 vs.val = .ok vs := fldN_eq vs rfl
  have e1 : fldN 32 sb.val = .ok sb := fldN_eq sb rfl
  have e2 : fldN 56 vi.val = .ok vi := fldN_eq vi rfl
  have e3 : fldN 8 ((32 * m.val + 16 * ord.toNat + 8 * ovt.toNat + 2) / 32) = .ok m := fldN_eq m (by omega)
  have e4 : (.ok ((32 * m.val + 16 * ord.toNat + 8 * ovt.toNat + 2) / 16 % 2 == 1) : Except Reject Bool) = .ok ord := congrArg _ (beq_one ord (by omega))
  have e5 : (.ok ((32 * m.val + 16 * ord.toNat + 8 * ovt.toNat + 2) / 8 % 2 == 1) : Except Reject Bool) = .ok ovt := congrArg _ (beq_one ovt (by omega))
  refine ⟨Nat.le_of_ble_eq_true rfl, Nat.lt_of_lt_of_le vs.isLt (by decide), Nat.lt_of_lt_of_le sb.isLt (by decide), Nat.lt_of_lt_of_le vi.isLt (by decide), by dsimp only; omega, ?_⟩
  have hm : decodeMajor1D ⟨29, vs.val, sb.val, vi.val, (32 * m.val + 16 * ord.toNat + 8 * ovt.toNat + 2)⟩ = form6 (fldN 56 vs.val) (fldN 32 sb.val) (fldN 56 vi.val) (fldN 8 ((32 * m.val + 16 * ord.toNat + 8 * ovt.toNat + 2) / 32)) (.ok ((32 * m.val + 16 * ord.toNat + 8 * ovt.toNat + 2) / 16 % 2 == 1)) (.ok ((32 * m.val + 16 * ord.toNat + 8 * ovt.toNat + 2) / 8 % 2 == 1)) .vstx := by
    unfold decodeMajor1D; dsimp only; rw [h0]; try rfl
  exact hm.trans (form6_ok (k := .vstx) e0 e1 e2 e3 e4 e5)

theorem vstb (vs : Fin 24) (sb : Fin 16) (disp : Fin 64) (m : Fin 8) (ord : Bool) (ovt : Bool) : Statement (.vstb vs sb disp m ord ovt) := by
  intro hw f hf
  obtain rfl := Option.some.inj (show some ⟨29, (2 * vs.val), (2 * sb.val), disp.val, (32 * m.val + 16 * ord.toNat + 8 * ovt.toNat + 3)⟩ = some f from hf)
  have l_vs := vs.isLt
  have l_sb := sb.isLt
  have l_disp := disp.isLt
  have l_m := m.isLt
  have l_ord := ord.toNat_lt
  have l_ovt := ovt.toNat_lt
  have h0 : (32 * m.val + 16 * ord.toNat + 8 * ovt.toNat + 3) % 8 = 3 := by omega
  have e0 : fldPair 24 (2 * vs.val) = .ok vs := fldPair_eq vs rfl
  have e1 : fldPair 16 (2 * sb.val) = .ok sb := fldPair_eq sb rfl
  have e2 : fldN 64 disp.val = .ok disp := fldN_eq disp rfl
  have e3 : fldN 8 ((32 * m.val + 16 * ord.toNat + 8 * ovt.toNat + 3) / 32) = .ok m := fldN_eq m (by omega)
  have e4 : (.ok ((32 * m.val + 16 * ord.toNat + 8 * ovt.toNat + 3) / 16 % 2 == 1) : Except Reject Bool) = .ok ord := congrArg _ (beq_one ord (by omega))
  have e5 : (.ok ((32 * m.val + 16 * ord.toNat + 8 * ovt.toNat + 3) / 8 % 2 == 1) : Except Reject Bool) = .ok ovt := congrArg _ (beq_one ovt (by omega))
  refine ⟨Nat.le_of_ble_eq_true rfl, by dsimp only; omega, by dsimp only; omega, Nat.lt_of_lt_of_le disp.isLt (by decide), by dsimp only; omega, ?_⟩
  have hm : decodeMajor1D ⟨29, (2 * vs.val), (2 * sb.val), disp.val, (32 * m.val + 16 * ord.toNat + 8 * ovt.toNat + 3)⟩ = form6 (fldPair 24 (2 * vs.val)) (fldPair 16 (2 * sb.val)) (fldN 64 disp.val) (fldN 8 ((32 * m.val + 16 * ord.toNat + 8 * ovt.toNat + 3) / 32)) (.ok ((32 * m.val + 16 * ord.toNat + 8 * ovt.toNat + 3) / 16 % 2 == 1)) (.ok ((32 * m.val + 16 * ord.toNat + 8 * ovt.toNat + 3) / 8 % 2 == 1)) .vstb := by
    unfold decodeMajor1D; dsimp only; rw [h0]; try rfl
  exact hm.trans (form6_ok (k := .vstb) e0 e1 e2 e3 e4 e5)

theorem trow (t : Fin 8) (a : Fin 56) (b : Fin 32) (m : Fin 8) : Statement (.trow t a b m) := by
  intro hw f hf
  obtain rfl := Option.some.inj (show some ⟨30, t.val, a.val, b.val, (32 * m.val + 0)⟩ = some f from hf)
  have l_t := t.isLt
  have l_a := a.isLt
  have l_b := b.isLt
  have l_m := m.isLt
  have h0 : (32 * m.val + 0) % 32 = 0 := by omega
  have e0 : fldN 8 t.val = .ok t := fldN_eq t rfl
  have e1 : fldN 56 a.val = .ok a := fldN_eq a rfl
  have e2 : fldN 32 b.val = .ok b := fldN_eq b rfl
  have e3 : fldN 8 ((32 * m.val + 0) / 32) = .ok m := fldN_eq m (by omega)
  refine ⟨Nat.le_of_ble_eq_true rfl, Nat.lt_of_lt_of_le t.isLt (by decide), Nat.lt_of_lt_of_le a.isLt (by decide), Nat.lt_of_lt_of_le b.isLt (by decide), by dsimp only; omega, ?_⟩
  have hm : decodeMajor1E ⟨30, t.val, a.val, b.val, (32 * m.val + 0)⟩ = form4 (fldN 8 t.val) (fldN 56 a.val) (fldN 32 b.val) (fldN 8 ((32 * m.val + 0) / 32)) .trow := by
    unfold decodeMajor1E; dsimp only; rw [h0]; try rfl
  exact hm.trans (form4_ok (k := .trow) e0 e1 e2 e3)

theorem tcol (d : Fin 48) (t : Fin 8) (b : Fin 32) (m : Fin 8) : Statement (.tcol d t b m) := by
  intro hw f hf
  obtain rfl := Option.some.inj (show some ⟨30, d.val, t.val, b.val, (32 * m.val + 1)⟩ = some f from hf)
  have l_d := d.isLt
  have l_t := t.isLt
  have l_b := b.isLt
  have l_m := m.isLt
  have h0 : (32 * m.val + 1) % 32 = 1 := by omega
  have e0 : fldN 48 d.val = .ok d := fldN_eq d rfl
  have e1 : fldN 8 t.val = .ok t := fldN_eq t rfl
  have e2 : fldN 32 b.val = .ok b := fldN_eq b rfl
  have e3 : fldN 8 ((32 * m.val + 1) / 32) = .ok m := fldN_eq m (by omega)
  refine ⟨Nat.le_of_ble_eq_true rfl, Nat.lt_of_lt_of_le d.isLt (by decide), Nat.lt_of_lt_of_le t.isLt (by decide), Nat.lt_of_lt_of_le b.isLt (by decide), by dsimp only; omega, ?_⟩
  have hm : decodeMajor1E ⟨30, d.val, t.val, b.val, (32 * m.val + 1)⟩ = form4 (fldN 48 d.val) (fldN 8 t.val) (fldN 32 b.val) (fldN 8 ((32 * m.val + 1) / 32)) .tcol := by
    unfold decodeMajor1E; dsimp only; rw [h0]; try rfl
  exact hm.trans (form4_ok (k := .tcol) e0 e1 e2 e3)

theorem vspec : Statement (.vspec) := by
  intro hw f hf
  obtain rfl := Option.some.inj (show some ⟨31, 0, 0, 0, 0⟩ = some f from hf)
  have h0 : 0 % 32 = 0 := by omega
  have e0 : fld0 0 = .ok () := rfl
  have e1 : fld0 0 = .ok () := rfl
  have e2 : fld0 0 = .ok () := rfl
  have e3 : fld0 (0 / 32) = .ok () := fld0_eq (by omega)
  refine ⟨Nat.le_of_ble_eq_true rfl, Nat.le_of_ble_eq_true rfl, Nat.le_of_ble_eq_true rfl, Nat.le_of_ble_eq_true rfl, Nat.le_of_ble_eq_true rfl, ?_⟩
  have hm : decodeMajor1F ⟨31, 0, 0, 0, 0⟩ = form4 (fld0 0) (fld0 0) (fld0 0) (fld0 (0 / 32)) (fun _ _ _ _ => .vspec) := by
    unfold decodeMajor1F; dsimp only; rw [h0]; try rfl
  exact hm.trans (form4_ok (k := (fun _ _ _ _ => .vspec)) e0 e1 e2 e3)

theorem vmerge (d : Fin 48) (vs : Fin 56) (k : Fin 8) : Statement (.vmerge d vs k) := by
  intro hw f hf
  obtain rfl := Option.some.inj (show some ⟨31, d.val, vs.val, 0, (32 * k.val + 1)⟩ = some f from hf)
  have l_d := d.isLt
  have l_vs := vs.isLt
  have l_k := k.isLt
  have h0 : (32 * k.val + 1) % 32 = 1 := by omega
  have e0 : fldN 48 d.val = .ok d := fldN_eq d rfl
  have e1 : fldN 56 vs.val = .ok vs := fldN_eq vs rfl
  have e2 : fld0 0 = .ok () := rfl
  have e3 : fldN 8 ((32 * k.val + 1) / 32) = .ok k := fldN_eq k (by omega)
  refine ⟨Nat.le_of_ble_eq_true rfl, Nat.lt_of_lt_of_le d.isLt (by decide), Nat.lt_of_lt_of_le vs.isLt (by decide), Nat.le_of_ble_eq_true rfl, by dsimp only; omega, ?_⟩
  have hm : decodeMajor1F ⟨31, d.val, vs.val, 0, (32 * k.val + 1)⟩ = form4 (fldN 48 d.val) (fldN 56 vs.val) (fld0 0) (fldN 8 ((32 * k.val + 1) / 32)) (fun d vs _ k => .vmerge d vs k) := by
    unfold decodeMajor1F; dsimp only; rw [h0]; try rfl
  exact hm.trans (form4_ok (k := (fun d vs _ k => .vmerge d vs k)) e0 e1 e2 e3)

theorem faAttach (n : Fin 5) : Statement (.faAttach n) := by
  intro hw f hf
  obtain rfl := Option.some.inj (show some ⟨32, 0, 0, n.val, 0⟩ = some f from hf)
  have l_n := n.isLt
  have e0 : fld0 0 = .ok () := rfl
  have e1 : fld0 0 = .ok () := rfl
  have e2 : fldN 5 n.val = .ok n := fldN_eq n rfl
  refine ⟨Nat.le_of_ble_eq_true rfl, Nat.le_of_ble_eq_true rfl, Nat.le_of_ble_eq_true rfl, Nat.lt_of_lt_of_le n.isLt (by decide), Nat.le_of_ble_eq_true rfl, ?_⟩
  exact form3_ok (k := (fun _ _ n => .faAttach n)) e0 e1 e2

theorem faDetach (n : Fin 5) : Statement (.faDetach n) := by
  intro hw f hf
  obtain rfl := Option.some.inj (show some ⟨32, 0, 0, n.val, 1⟩ = some f from hf)
  have l_n := n.isLt
  have e0 : fld0 0 = .ok () := rfl
  have e1 : fld0 0 = .ok () := rfl
  have e2 : fldN 5 n.val = .ok n := fldN_eq n rfl
  refine ⟨Nat.le_of_ble_eq_true rfl, Nat.le_of_ble_eq_true rfl, Nat.le_of_ble_eq_true rfl, Nat.lt_of_lt_of_le n.isLt (by decide), Nat.le_of_ble_eq_true rfl, ?_⟩
  exact form3_ok (k := (fun _ _ n => .faDetach n)) e0 e1 e2

theorem faCfgld (p : Fin 16) : Statement (.faCfgld p) := by
  intro hw f hf
  obtain rfl := Option.some.inj (show some ⟨32, (2 * p.val), 0, 0, 2⟩ = some f from hf)
  have l_p := p.isLt
  have e0 : fldPair 16 (2 * p.val) = .ok p := fldPair_eq p rfl
  have e1 : fld0 0 = .ok () := rfl
  have e2 : fld0 0 = .ok () := rfl
  refine ⟨Nat.le_of_ble_eq_true rfl, by dsimp only; omega, Nat.le_of_ble_eq_true rfl, Nat.le_of_ble_eq_true rfl, Nat.le_of_ble_eq_true rfl, ?_⟩
  exact form3_ok (k := (fun p _ _ => .faCfgld p)) e0 e1 e2

theorem faCommit : Statement (.faCommit) := by
  intro hw f hf
  obtain rfl := Option.some.inj (show some ⟨32, 0, 0, 0, 3⟩ = some f from hf)
  have e0 : fld0 0 = .ok () := rfl
  have e1 : fld0 0 = .ok () := rfl
  have e2 : fld0 0 = .ok () := rfl
  refine ⟨Nat.le_of_ble_eq_true rfl, Nat.le_of_ble_eq_true rfl, Nat.le_of_ble_eq_true rfl, Nat.le_of_ble_eq_true rfl, Nat.le_of_ble_eq_true rfl, ?_⟩
  exact form3_ok (k := (fun _ _ _ => .faCommit)) e0 e1 e2

theorem faWait : Statement (.faWait) := by
  intro hw f hf
  obtain rfl := Option.some.inj (show some ⟨32, 0, 0, 0, 4⟩ = some f from hf)
  have e0 : fld0 0 = .ok () := rfl
  have e1 : fld0 0 = .ok () := rfl
  have e2 : fld0 0 = .ok () := rfl
  refine ⟨Nat.le_of_ble_eq_true rfl, Nat.le_of_ble_eq_true rfl, Nat.le_of_ble_eq_true rfl, Nat.le_of_ble_eq_true rfl, Nat.le_of_ble_eq_true rfl, ?_⟩
  exact form3_ok (k := (fun _ _ _ => .faWait)) e0 e1 e2

theorem faStageFloat (p : Fin 16) (c : Fin 16) (k : Fin 8) (blk : Fin 7) (last : Bool) : Statement (.faStageFloat p c k blk last) := by
  intro hw f hf
  obtain rfl := Option.some.inj (show some ⟨33, (2 * p.val), (2 * c.val), k.val, (32 * blk.val + 0 + 4 * last.toNat)⟩ = some f from hf)
  have l_p := p.isLt
  have l_c := c.isLt
  have l_k := k.isLt
  have l_blk := blk.isLt
  have l_last := last.toNat_lt
  have h0 : (32 * blk.val + 0 + 4 * last.toNat) / 8 % 4 = 0 := by omega
  have e0 : fldPair 16 (2 * p.val) = .ok p := fldPair_eq p rfl
  have e1 : fldPair 16 (2 * c.val) = .ok c := fldPair_eq c rfl
  have e2 : fldN 8 k.val = .ok k := fldN_eq k rfl
  have e3 : fldN 7 ((32 * blk.val + 0 + 4 * last.toNat) / 32) = .ok blk := fldN_eq blk (by omega)
  have e4 : (.ok ((32 * blk.val + 0 + 4 * last.toNat) / 4 % 2 == 1) : Except Reject Bool) = .ok last := congrArg _ (beq_one last (by omega))
  have e5 : fld0 ((32 * blk.val + 0 + 4 * last.toNat) % 4) = .ok () := fld0_eq (by omega)
  refine ⟨Nat.le_of_ble_eq_true rfl, by dsimp only; omega, by dsimp only; omega, Nat.lt_of_lt_of_le k.isLt (by decide), by dsimp only; omega, ?_⟩
  have hm : decodeMajor21 ⟨33, (2 * p.val), (2 * c.val), k.val, (32 * blk.val + 0 + 4 * last.toNat)⟩ = form6 (fldPair 16 (2 * p.val)) (fldPair 16 (2 * c.val)) (fldN 8 k.val) (fldN 7 ((32 * blk.val + 0 + 4 * last.toNat) / 32)) (.ok ((32 * blk.val + 0 + 4 * last.toNat) / 4 % 2 == 1)) (fld0 ((32 * blk.val + 0 + 4 * last.toNat) % 4)) (fun p c k blk last _ => .faStageFloat p c k blk last) := by
    unfold decodeMajor21; dsimp only; rw [h0]; try rfl
  exact hm.trans (form6_ok (k := (fun p c k blk last _ => .faStageFloat p c k blk last)) e0 e1 e2 e3 e4 e5)

theorem faStageBfp16 (p : Fin 16) (c : Fin 16) (k : Fin 8) (blk : Fin 7) (last : Bool) : Statement (.faStageBfp16 p c k blk last) := by
  intro hw f hf
  obtain rfl := Option.some.inj (show some ⟨33, (2 * p.val), (2 * c.val), k.val, (32 * blk.val + 8 + 4 * last.toNat)⟩ = some f from hf)
  have l_p := p.isLt
  have l_c := c.isLt
  have l_k := k.isLt
  have l_blk := blk.isLt
  have l_last := last.toNat_lt
  have h0 : (32 * blk.val + 8 + 4 * last.toNat) / 8 % 4 = 1 := by omega
  have e0 : fldPair 16 (2 * p.val) = .ok p := fldPair_eq p rfl
  have e1 : fldPair 16 (2 * c.val) = .ok c := fldPair_eq c rfl
  have e2 : fldN 8 k.val = .ok k := fldN_eq k rfl
  have e3 : fldN 7 ((32 * blk.val + 8 + 4 * last.toNat) / 32) = .ok blk := fldN_eq blk (by omega)
  have e4 : (.ok ((32 * blk.val + 8 + 4 * last.toNat) / 4 % 2 == 1) : Except Reject Bool) = .ok last := congrArg _ (beq_one last (by omega))
  have e5 : fld0 ((32 * blk.val + 8 + 4 * last.toNat) % 4) = .ok () := fld0_eq (by omega)
  refine ⟨Nat.le_of_ble_eq_true rfl, by dsimp only; omega, by dsimp only; omega, Nat.lt_of_lt_of_le k.isLt (by decide), by dsimp only; omega, ?_⟩
  have hm : decodeMajor21 ⟨33, (2 * p.val), (2 * c.val), k.val, (32 * blk.val + 8 + 4 * last.toNat)⟩ = form6 (fldPair 16 (2 * p.val)) (fldPair 16 (2 * c.val)) (fldN 8 k.val) (fldN 7 ((32 * blk.val + 8 + 4 * last.toNat) / 32)) (.ok ((32 * blk.val + 8 + 4 * last.toNat) / 4 % 2 == 1)) (fld0 ((32 * blk.val + 8 + 4 * last.toNat) % 4)) (fun p c k blk last _ => .faStageBfp16 p c k blk last) := by
    unfold decodeMajor21; dsimp only; rw [h0]; try rfl
  exact hm.trans (form6_ok (k := (fun p c k blk last _ => .faStageBfp16 p c k blk last)) e0 e1 e2 e3 e4 e5)

theorem faStageMod (p : Fin 16) (c : Fin 16) (k : Fin 8) (blk : Fin 7) (last : Bool) : Statement (.faStageMod p c k blk last) := by
  intro hw f hf
  obtain rfl := Option.some.inj (show some ⟨33, (2 * p.val), (2 * c.val), k.val, (32 * blk.val + 16 + 4 * last.toNat)⟩ = some f from hf)
  have l_p := p.isLt
  have l_c := c.isLt
  have l_k := k.isLt
  have l_blk := blk.isLt
  have l_last := last.toNat_lt
  have h0 : (32 * blk.val + 16 + 4 * last.toNat) / 8 % 4 = 2 := by omega
  have e0 : fldPair 16 (2 * p.val) = .ok p := fldPair_eq p rfl
  have e1 : fldPair 16 (2 * c.val) = .ok c := fldPair_eq c rfl
  have e2 : fldN 8 k.val = .ok k := fldN_eq k rfl
  have e3 : fldN 7 ((32 * blk.val + 16 + 4 * last.toNat) / 32) = .ok blk := fldN_eq blk (by omega)
  have e4 : (.ok ((32 * blk.val + 16 + 4 * last.toNat) / 4 % 2 == 1) : Except Reject Bool) = .ok last := congrArg _ (beq_one last (by omega))
  have e5 : fld0 ((32 * blk.val + 16 + 4 * last.toNat) % 4) = .ok () := fld0_eq (by omega)
  refine ⟨Nat.le_of_ble_eq_true rfl, by dsimp only; omega, by dsimp only; omega, Nat.lt_of_lt_of_le k.isLt (by decide), by dsimp only; omega, ?_⟩
  have hm : decodeMajor21 ⟨33, (2 * p.val), (2 * c.val), k.val, (32 * blk.val + 16 + 4 * last.toNat)⟩ = form6 (fldPair 16 (2 * p.val)) (fldPair 16 (2 * c.val)) (fldN 8 k.val) (fldN 7 ((32 * blk.val + 16 + 4 * last.toNat) / 32)) (.ok ((32 * blk.val + 16 + 4 * last.toNat) / 4 % 2 == 1)) (fld0 ((32 * blk.val + 16 + 4 * last.toNat) % 4)) (fun p c k blk last _ => .faStageMod p c k blk last) := by
    unfold decodeMajor21; dsimp only; rw [h0]; try rfl
  exact hm.trans (form6_ok (k := (fun p c k blk last _ => .faStageMod p c k blk last)) e0 e1 e2 e3 e4 e5)

theorem faDense (p : Fin 16) (c : Fin 16) (k : Fin 8) (fmt : Fin 10) : Statement (.faDense p c k fmt) := by
  intro hw f hf
  obtain rfl := Option.some.inj (show some ⟨34, (2 * p.val), (2 * c.val), k.val, (0 + fmt.val)⟩ = some f from hf)
  have l_p := p.isLt
  have l_c := c.isLt
  have l_k := k.isLt
  have l_fmt := fmt.isLt
  have h0 : (0 + fmt.val) / 16 = 0 := by omega
  have e0 : fldPair 16 (2 * p.val) = .ok p := fldPair_eq p rfl
  have e1 : fldPair 16 (2 * c.val) = .ok c := fldPair_eq c rfl
  have e2 : fldN 8 k.val = .ok k := fldN_eq k rfl
  have e3 : fldN 10 ((0 + fmt.val) % 16) = .ok fmt := fldN_eq fmt (by omega)
  refine ⟨Nat.le_of_ble_eq_true rfl, by dsimp only; omega, by dsimp only; omega, Nat.lt_of_lt_of_le k.isLt (by decide), by dsimp only; omega, ?_⟩
  have hm : decodeMajor22 ⟨34, (2 * p.val), (2 * c.val), k.val, (0 + fmt.val)⟩ = form4 (fldPair 16 (2 * p.val)) (fldPair 16 (2 * c.val)) (fldN 8 k.val) (fldN 10 ((0 + fmt.val) % 16)) .faDense := by
    unfold decodeMajor22; dsimp only; rw [h0]; try rfl
  exact hm.trans (form4_ok (k := .faDense) e0 e1 e2 e3)

theorem faSparse (p : Fin 16) (c : Fin 16) (k : Fin 8) (fmt : Fin 10) : Statement (.faSparse p c k fmt) := by
  intro hw f hf
  obtain rfl := Option.some.inj (show some ⟨34, (2 * p.val), (2 * c.val), k.val, (16 + fmt.val)⟩ = some f from hf)
  have l_p := p.isLt
  have l_c := c.isLt
  have l_k := k.isLt
  have l_fmt := fmt.isLt
  have h0 : (16 + fmt.val) / 16 = 1 := by omega
  have e0 : fldPair 16 (2 * p.val) = .ok p := fldPair_eq p rfl
  have e1 : fldPair 16 (2 * c.val) = .ok c := fldPair_eq c rfl
  have e2 : fldN 8 k.val = .ok k := fldN_eq k rfl
  have e3 : fldN 10 ((16 + fmt.val) % 16) = .ok fmt := fldN_eq fmt (by omega)
  refine ⟨Nat.le_of_ble_eq_true rfl, by dsimp only; omega, by dsimp only; omega, Nat.lt_of_lt_of_le k.isLt (by decide), by dsimp only; omega, ?_⟩
  have hm : decodeMajor22 ⟨34, (2 * p.val), (2 * c.val), k.val, (16 + fmt.val)⟩ = form4 (fldPair 16 (2 * p.val)) (fldPair 16 (2 * c.val)) (fldN 8 k.val) (fldN 10 ((16 + fmt.val) % 16)) .faSparse := by
    unfold decodeMajor22; dsimp only; rw [h0]; try rfl
  exact hm.trans (form4_ok (k := .faSparse) e0 e1 e2 e3)

theorem faPwTwid (e : Fin 8) (k : Fin 8) : Statement (.faPwTwid e k) := by
  intro hw f hf
  obtain rfl := Option.some.inj (show some ⟨35, 0, e.val, k.val, 0⟩ = some f from hf)
  have l_e := e.isLt
  have l_k := k.isLt
  have e0 : fld0 0 = .ok () := rfl
  have e1 : fldN 8 e.val = .ok e := fldN_eq e rfl
  have e2 : fldN 8 k.val = .ok k := fldN_eq k rfl
  refine ⟨Nat.le_of_ble_eq_true rfl, Nat.le_of_ble_eq_true rfl, Nat.lt_of_lt_of_le e.isLt (by decide), Nat.lt_of_lt_of_le k.isLt (by decide), Nat.le_of_ble_eq_true rfl, ?_⟩
  exact form3_ok (k := (fun _ e k => .faPwTwid e k)) e0 e1 e2

theorem faPwScale (a : Fin 32) (k : Fin 8) : Statement (.faPwScale a k) := by
  intro hw f hf
  obtain rfl := Option.some.inj (show some ⟨35, a.val, 0, k.val, 1⟩ = some f from hf)
  have l_a := a.isLt
  have l_k := k.isLt
  have e0 : fldN 32 a.val = .ok a := fldN_eq a rfl
  have e1 : fld0 0 = .ok () := rfl
  have e2 : fldN 8 k.val = .ok k := fldN_eq k rfl
  refine ⟨Nat.le_of_ble_eq_true rfl, Nat.lt_of_lt_of_le a.isLt (by decide), Nat.le_of_ble_eq_true rfl, Nat.lt_of_lt_of_le k.isLt (by decide), Nat.le_of_ble_eq_true rfl, ?_⟩
  exact form3_ok (k := (fun a _ k => .faPwScale a k)) e0 e1 e2

theorem faPwAdd (e : Fin 8) (k : Fin 8) : Statement (.faPwAdd e k) := by
  intro hw f hf
  obtain rfl := Option.some.inj (show some ⟨35, 0, e.val, k.val, 2⟩ = some f from hf)
  have l_e := e.isLt
  have l_k := k.isLt
  have e0 : fld0 0 = .ok () := rfl
  have e1 : fldN 8 e.val = .ok e := fldN_eq e rfl
  have e2 : fldN 8 k.val = .ok k := fldN_eq k rfl
  refine ⟨Nat.le_of_ble_eq_true rfl, Nat.le_of_ble_eq_true rfl, Nat.lt_of_lt_of_le e.isLt (by decide), Nat.lt_of_lt_of_le k.isLt (by decide), Nat.le_of_ble_eq_true rfl, ?_⟩
  exact form3_ok (k := (fun _ e k => .faPwAdd e k)) e0 e1 e2

theorem faPwRelu (k : Fin 8) : Statement (.faPwRelu k) := by
  intro hw f hf
  obtain rfl := Option.some.inj (show some ⟨35, 0, 0, k.val, 3⟩ = some f from hf)
  have l_k := k.isLt
  have e0 : fld0 0 = .ok () := rfl
  have e1 : fld0 0 = .ok () := rfl
  have e2 : fldN 8 k.val = .ok k := fldN_eq k rfl
  refine ⟨Nat.le_of_ble_eq_true rfl, Nat.le_of_ble_eq_true rfl, Nat.le_of_ble_eq_true rfl, Nat.lt_of_lt_of_le k.isLt (by decide), Nat.le_of_ble_eq_true rfl, ?_⟩
  exact form3_ok (k := (fun _ _ k => .faPwRelu k)) e0 e1 e2

theorem faPwExp2 (k : Fin 8) : Statement (.faPwExp2 k) := by
  intro hw f hf
  obtain rfl := Option.some.inj (show some ⟨35, 0, 0, k.val, 4⟩ = some f from hf)
  have l_k := k.isLt
  have e0 : fld0 0 = .ok () := rfl
  have e1 : fld0 0 = .ok () := rfl
  have e2 : fldN 8 k.val = .ok k := fldN_eq k rfl
  refine ⟨Nat.le_of_ble_eq_true rfl, Nat.le_of_ble_eq_true rfl, Nat.le_of_ble_eq_true rfl, Nat.lt_of_lt_of_le k.isLt (by decide), Nat.le_of_ble_eq_true rfl, ?_⟩
  exact form3_ok (k := (fun _ _ k => .faPwExp2 k)) e0 e1 e2

theorem faPwModred (k : Fin 8) : Statement (.faPwModred k) := by
  intro hw f hf
  obtain rfl := Option.some.inj (show some ⟨35, 0, 0, k.val, 5⟩ = some f from hf)
  have l_k := k.isLt
  have e0 : fld0 0 = .ok () := rfl
  have e1 : fld0 0 = .ok () := rfl
  have e2 : fldN 8 k.val = .ok k := fldN_eq k rfl
  refine ⟨Nat.le_of_ble_eq_true rfl, Nat.le_of_ble_eq_true rfl, Nat.le_of_ble_eq_true rfl, Nat.lt_of_lt_of_le k.isLt (by decide), Nat.le_of_ble_eq_true rfl, ?_⟩
  exact form3_ok (k := (fun _ _ k => .faPwModred k)) e0 e1 e2

theorem faBfpStatic (a : Fin 32) (k : Fin 8) : Statement (.faBfpStatic a k) := by
  intro hw f hf
  obtain rfl := Option.some.inj (show some ⟨35, a.val, 0, k.val, 16⟩ = some f from hf)
  have l_a := a.isLt
  have l_k := k.isLt
  have e0 : fldN 32 a.val = .ok a := fldN_eq a rfl
  have e1 : fld0 0 = .ok () := rfl
  have e2 : fldN 8 k.val = .ok k := fldN_eq k rfl
  refine ⟨Nat.le_of_ble_eq_true rfl, Nat.lt_of_lt_of_le a.isLt (by decide), Nat.le_of_ble_eq_true rfl, Nat.lt_of_lt_of_le k.isLt (by decide), Nat.le_of_ble_eq_true rfl, ?_⟩
  exact form3_ok (k := (fun a _ k => .faBfpStatic a k)) e0 e1 e2

theorem faBfpMeas (k : Fin 8) : Statement (.faBfpMeas k) := by
  intro hw f hf
  obtain rfl := Option.some.inj (show some ⟨35, 0, 0, k.val, 17⟩ = some f from hf)
  have l_k := k.isLt
  have e0 : fld0 0 = .ok () := rfl
  have e1 : fld0 0 = .ok () := rfl
  have e2 : fldN 8 k.val = .ok k := fldN_eq k rfl
  refine ⟨Nat.le_of_ble_eq_true rfl, Nat.le_of_ble_eq_true rfl, Nat.le_of_ble_eq_true rfl, Nat.lt_of_lt_of_le k.isLt (by decide), Nat.le_of_ble_eq_true rfl, ?_⟩
  exact form3_ok (k := (fun _ _ k => .faBfpMeas k)) e0 e1 e2

theorem faZero (m : Fin 32) : Statement (.faZero m) := by
  intro hw f hf
  obtain rfl := Option.some.inj (show some ⟨36, m.val, 0, 0, 0⟩ = some f from hf)
  have l_m := m.isLt
  have e0 : fldN 32 m.val = .ok m := fldN_eq m rfl
  have e1 : fld0 0 = .ok () := rfl
  have e2 : fld0 0 = .ok () := rfl
  refine ⟨Nat.le_of_ble_eq_true rfl, Nat.lt_of_lt_of_le m.isLt (by decide), Nat.le_of_ble_eq_true rfl, Nat.le_of_ble_eq_true rfl, Nat.le_of_ble_eq_true rfl, ?_⟩
  exact form3_ok (k := (fun m _ _ => .faZero m)) e0 e1 e2

theorem faDrain (p : Fin 16) (t : Fin 32) (q : Option (Fin 8)) : Statement (.faDrain p t q) := by
  intro hw f hf
  obtain rfl := Option.some.inj (show some ⟨36, (2 * p.val), t.val, (queueField q), 1⟩ = some f from hf)
  have l_p := p.isLt
  have l_t := t.isLt
  have e0 : fldPair 16 (2 * p.val) = .ok p := fldPair_eq p rfl
  have e1 : fldN 32 t.val = .ok t := fldN_eq t rfl
  have e2 : fldQueue (queueField q) = .ok q := fldQueue_eq q
  have l_queue := queueField_lt q
  refine ⟨Nat.le_of_ble_eq_true rfl, by dsimp only; omega, Nat.lt_of_lt_of_le t.isLt (by decide), by dsimp only; omega, Nat.le_of_ble_eq_true rfl, ?_⟩
  exact form3_ok (k := .faDrain) e0 e1 e2

theorem faDrainv (p : Fin 16) (v : Fin 48) (q : Option (Fin 8)) : Statement (.faDrainv p v q) := by
  intro hw f hf
  obtain rfl := Option.some.inj (show some ⟨36, (2 * p.val), v.val, (queueField q), 2⟩ = some f from hf)
  have l_p := p.isLt
  have l_v := v.isLt
  have e0 : fldPair 16 (2 * p.val) = .ok p := fldPair_eq p rfl
  have e1 : fldN 48 v.val = .ok v := fldN_eq v rfl
  have e2 : fldQueue (queueField q) = .ok q := fldQueue_eq q
  have l_queue := queueField_lt q
  refine ⟨Nat.le_of_ble_eq_true rfl, by dsimp only; omega, Nat.lt_of_lt_of_le v.isLt (by decide), by dsimp only; omega, Nat.le_of_ble_eq_true rfl, ?_⟩
  exact form3_ok (k := .faDrainv) e0 e1 e2

theorem faAmax (d : Fin 32) (k : Fin 8) : Statement (.faAmax d k) := by
  intro hw f hf
  obtain rfl := Option.some.inj (show some ⟨36, d.val, k.val, 0, 3⟩ = some f from hf)
  have l_d := d.isLt
  have l_k := k.isLt
  have e0 : fldN 32 d.val = .ok d := fldN_eq d rfl
  have e1 : fldN 8 k.val = .ok k := fldN_eq k rfl
  have e2 : fld0 0 = .ok () := rfl
  refine ⟨Nat.le_of_ble_eq_true rfl, Nat.lt_of_lt_of_le d.isLt (by decide), Nat.lt_of_lt_of_le k.isLt (by decide), Nat.le_of_ble_eq_true rfl, Nat.le_of_ble_eq_true rfl, ?_⟩
  exact form3_ok (k := (fun d k _ => .faAmax d k)) e0 e1 e2

theorem faAmaxFinal (d : Fin 32) (k : Fin 8) : Statement (.faAmaxFinal d k) := by
  intro hw f hf
  obtain rfl := Option.some.inj (show some ⟨36, d.val, k.val, 0, 4⟩ = some f from hf)
  have l_d := d.isLt
  have l_k := k.isLt
  have e0 : fldN 32 d.val = .ok d := fldN_eq d rfl
  have e1 : fldN 8 k.val = .ok k := fldN_eq k rfl
  have e2 : fld0 0 = .ok () := rfl
  refine ⟨Nat.le_of_ble_eq_true rfl, Nat.lt_of_lt_of_le d.isLt (by decide), Nat.lt_of_lt_of_le k.isLt (by decide), Nat.le_of_ble_eq_true rfl, Nat.le_of_ble_eq_true rfl, ?_⟩
  exact form3_ok (k := (fun d k _ => .faAmaxFinal d k)) e0 e1 e2

theorem faModset (p : Fin 32) : Statement (.faModset p) := by
  intro hw f hf
  obtain rfl := Option.some.inj (show some ⟨37, p.val, 0, 0, 0⟩ = some f from hf)
  have l_p := p.isLt
  have e0 : fldN 32 p.val = .ok p := fldN_eq p rfl
  have e1 : fld0 0 = .ok () := rfl
  have e2 : fld0 0 = .ok () := rfl
  refine ⟨Nat.le_of_ble_eq_true rfl, Nat.lt_of_lt_of_le p.isLt (by decide), Nat.le_of_ble_eq_true rfl, Nat.le_of_ble_eq_true rfl, Nat.le_of_ble_eq_true rfl, ?_⟩
  exact form3_ok (k := (fun p _ _ => .faModset p)) e0 e1 e2

theorem faCrt (q : Fin 32) (j : Fin 8) (k : Fin 8) : Statement (.faCrt q j k) := by
  intro hw f hf
  obtain rfl := Option.some.inj (show some ⟨37, q.val, j.val, k.val, 1⟩ = some f from hf)
  have l_q := q.isLt
  have l_j := j.isLt
  have l_k := k.isLt
  have e0 : fldN 32 q.val = .ok q := fldN_eq q rfl
  have e1 : fldN 8 j.val = .ok j := fldN_eq j rfl
  have e2 : fldN 8 k.val = .ok k := fldN_eq k rfl
  refine ⟨Nat.le_of_ble_eq_true rfl, Nat.lt_of_lt_of_le q.isLt (by decide), Nat.lt_of_lt_of_le j.isLt (by decide), Nat.lt_of_lt_of_le k.isLt (by decide), Nat.le_of_ble_eq_true rfl, ?_⟩
  exact form3_ok (k := .faCrt) e0 e1 e2

theorem vproj (a : Fin 32) (k : Fin 8) : Statement (.vproj a k) := by
  intro hw f hf
  obtain rfl := Option.some.inj (show some ⟨38, a.val, 0, k.val, 0⟩ = some f from hf)
  have l_a := a.isLt
  have l_k := k.isLt
  have e0 : fldN 32 a.val = .ok a := fldN_eq a rfl
  have e1 : fld0 0 = .ok () := rfl
  have e2 : fldN 8 k.val = .ok k := fldN_eq k rfl
  refine ⟨Nat.le_of_ble_eq_true rfl, Nat.lt_of_lt_of_le a.isLt (by decide), Nat.le_of_ble_eq_true rfl, Nat.lt_of_lt_of_le k.isLt (by decide), Nat.le_of_ble_eq_true rfl, ?_⟩
  exact form3_ok (k := (fun a _ k => .vproj a k)) e0 e1 e2

theorem vprojThresh (a : Fin 32) (k : Fin 8) : Statement (.vprojThresh a k) := by
  intro hw f hf
  obtain rfl := Option.some.inj (show some ⟨38, a.val, 0, k.val, 1⟩ = some f from hf)
  have l_a := a.isLt
  have l_k := k.isLt
  have e0 : fldN 32 a.val = .ok a := fldN_eq a rfl
  have e1 : fld0 0 = .ok () := rfl
  have e2 : fldN 8 k.val = .ok k := fldN_eq k rfl
  refine ⟨Nat.le_of_ble_eq_true rfl, Nat.lt_of_lt_of_le a.isLt (by decide), Nat.le_of_ble_eq_true rfl, Nat.lt_of_lt_of_le k.isLt (by decide), Nat.le_of_ble_eq_true rfl, ?_⟩
  exact form3_ok (k := (fun a _ k => .vprojThresh a k)) e0 e1 e2

theorem vprojBwd (a : Fin 32) (k : Fin 8) : Statement (.vprojBwd a k) := by
  intro hw f hf
  obtain rfl := Option.some.inj (show some ⟨38, a.val, 0, k.val, 2⟩ = some f from hf)
  have l_a := a.isLt
  have l_k := k.isLt
  have e0 : fldN 32 a.val = .ok a := fldN_eq a rfl
  have e1 : fld0 0 = .ok () := rfl
  have e2 : fldN 8 k.val = .ok k := fldN_eq k rfl
  refine ⟨Nat.le_of_ble_eq_true rfl, Nat.lt_of_lt_of_le a.isLt (by decide), Nat.le_of_ble_eq_true rfl, Nat.lt_of_lt_of_le k.isLt (by decide), Nat.le_of_ble_eq_true rfl, ?_⟩
  exact form3_ok (k := (fun a _ k => .vprojBwd a k)) e0 e1 e2

theorem vpmerge (p : Fin 16) (c : Fin 32) (k : Fin 8) : Statement (.vpmerge p c k) := by
  intro hw f hf
  obtain rfl := Option.some.inj (show some ⟨38, (2 * p.val), c.val, k.val, 3⟩ = some f from hf)
  have l_p := p.isLt
  have l_c := c.isLt
  have l_k := k.isLt
  have e0 : fldPair 16 (2 * p.val) = .ok p := fldPair_eq p rfl
  have e1 : fldN 32 c.val = .ok c := fldN_eq c rfl
  have e2 : fldN 8 k.val = .ok k := fldN_eq k rfl
  refine ⟨Nat.le_of_ble_eq_true rfl, by dsimp only; omega, Nat.lt_of_lt_of_le c.isLt (by decide), Nat.lt_of_lt_of_le k.isLt (by decide), Nat.le_of_ble_eq_true rfl, ?_⟩
  exact form3_ok (k := .vpmerge) e0 e1 e2

theorem cp (a : Fin 16) (b : Fin 16) (k : Fin 32) : Statement (.cp a b k) := by
  intro hw f hf
  obtain rfl := Option.some.inj (show some ⟨40, (2 * a.val), (2 * b.val), k.val, 0⟩ = some f from hf)
  have l_a := a.isLt
  have l_b := b.isLt
  have l_k := k.isLt
  have h0 : 0 / 16 = 0 := by omega
  have e0 : fldPair 16 (2 * a.val) = .ok a := fldPair_eq a rfl
  have e1 : fldPair 16 (2 * b.val) = .ok b := fldPair_eq b rfl
  have e2 : fldN 32 k.val = .ok k := fldN_eq k rfl
  have e3 : fld0 (0 % 16) = .ok () := fld0_eq (by omega)
  refine ⟨Nat.le_of_ble_eq_true rfl, by dsimp only; omega, by dsimp only; omega, Nat.lt_of_lt_of_le k.isLt (by decide), Nat.le_of_ble_eq_true rfl, ?_⟩
  have hm : decodeMajor28 ⟨40, (2 * a.val), (2 * b.val), k.val, 0⟩ = form4 (fldPair 16 (2 * a.val)) (fldPair 16 (2 * b.val)) (fldN 32 k.val) (fld0 (0 % 16)) (fun a b k _ => .cp a b k) := by
    unfold decodeMajor28; dsimp only; rw [h0]; try rfl
  exact hm.trans (form4_ok (k := (fun a b k _ => .cp a b k)) e0 e1 e2 e3)

theorem cpTr (a : Fin 16) (b : Fin 16) (k : Fin 32) : Statement (.cpTr a b k) := by
  intro hw f hf
  obtain rfl := Option.some.inj (show some ⟨40, (2 * a.val), (2 * b.val), k.val, 16⟩ = some f from hf)
  have l_a := a.isLt
  have l_b := b.isLt
  have l_k := k.isLt
  have h0 : 16 / 16 = 1 := by omega
  have e0 : fldPair 16 (2 * a.val) = .ok a := fldPair_eq a rfl
  have e1 : fldPair 16 (2 * b.val) = .ok b := fldPair_eq b rfl
  have e2 : fldN 32 k.val = .ok k := fldN_eq k rfl
  have e3 : fld0 (16 % 16) = .ok () := fld0_eq (by omega)
  refine ⟨Nat.le_of_ble_eq_true rfl, by dsimp only; omega, by dsimp only; omega, Nat.lt_of_lt_of_le k.isLt (by decide), Nat.le_of_ble_eq_true rfl, ?_⟩
  have hm : decodeMajor28 ⟨40, (2 * a.val), (2 * b.val), k.val, 16⟩ = form4 (fldPair 16 (2 * a.val)) (fldPair 16 (2 * b.val)) (fldN 32 k.val) (fld0 (16 % 16)) (fun a b k _ => .cpTr a b k) := by
    unfold decodeMajor28; dsimp only; rw [h0]; try rfl
  exact hm.trans (form4_ok (k := (fun a b k _ => .cpTr a b k)) e0 e1 e2 e3)

theorem cpCvt (a : Fin 16) (b : Fin 16) (k : Fin 32) : Statement (.cpCvt a b k) := by
  intro hw f hf
  obtain rfl := Option.some.inj (show some ⟨40, (2 * a.val), (2 * b.val), k.val, 32⟩ = some f from hf)
  have l_a := a.isLt
  have l_b := b.isLt
  have l_k := k.isLt
  have h0 : 32 / 16 = 2 := by omega
  have e0 : fldPair 16 (2 * a.val) = .ok a := fldPair_eq a rfl
  have e1 : fldPair 16 (2 * b.val) = .ok b := fldPair_eq b rfl
  have e2 : fldN 32 k.val = .ok k := fldN_eq k rfl
  have e3 : fld0 (32 % 16) = .ok () := fld0_eq (by omega)
  refine ⟨Nat.le_of_ble_eq_true rfl, by dsimp only; omega, by dsimp only; omega, Nat.lt_of_lt_of_le k.isLt (by decide), Nat.le_of_ble_eq_true rfl, ?_⟩
  have hm : decodeMajor28 ⟨40, (2 * a.val), (2 * b.val), k.val, 32⟩ = form4 (fldPair 16 (2 * a.val)) (fldPair 16 (2 * b.val)) (fldN 32 k.val) (fld0 (32 % 16)) (fun a b k _ => .cpCvt a b k) := by
    unfold decodeMajor28; dsimp only; rw [h0]; try rfl
  exact hm.trans (form4_ok (k := (fun a b k _ => .cpCvt a b k)) e0 e1 e2 e3)

theorem cpRed (a : Fin 16) (b : Fin 16) (k : Fin 32) (rop : Fin 3) (rty : Fin 4) : Statement (.cpRed a b k rop rty) := by
  intro hw f hf
  obtain rfl := Option.some.inj (show some ⟨40, (2 * a.val), (2 * b.val), k.val, (48 + 4 * rop.val + rty.val)⟩ = some f from hf)
  have l_a := a.isLt
  have l_b := b.isLt
  have l_k := k.isLt
  have l_rop := rop.isLt
  have l_rty := rty.isLt
  have h0 : (48 + 4 * rop.val + rty.val) / 16 = 3 := by omega
  have e0 : fldPair 16 (2 * a.val) = .ok a := fldPair_eq a rfl
  have e1 : fldPair 16 (2 * b.val) = .ok b := fldPair_eq b rfl
  have e2 : fldN 32 k.val = .ok k := fldN_eq k rfl
  have e3 : fldN 3 ((48 + 4 * rop.val + rty.val) / 4 % 4) = .ok rop := fldN_eq rop (by omega)
  have e4 : fldN 4 ((48 + 4 * rop.val + rty.val) % 4) = .ok rty := fldN_eq rty (by omega)
  refine ⟨Nat.le_of_ble_eq_true rfl, by dsimp only; omega, by dsimp only; omega, Nat.lt_of_lt_of_le k.isLt (by decide), by dsimp only; omega, ?_⟩
  have hm : decodeMajor28 ⟨40, (2 * a.val), (2 * b.val), k.val, (48 + 4 * rop.val + rty.val)⟩ = form5 (fldPair 16 (2 * a.val)) (fldPair 16 (2 * b.val)) (fldN 32 k.val) (fldN 3 ((48 + 4 * rop.val + rty.val) / 4 % 4)) (fldN 4 ((48 + 4 * rop.val + rty.val) % 4)) .cpRed := by
    unfold decodeMajor28; dsimp only; rw [h0]; try rfl
  exact hm.trans (form5_ok (k := .cpRed) e0 e1 e2 e3 e4)

theorem cpRed2 (a : Fin 16) (b : Fin 16) (k : Fin 16) (rop : Fin 3) (rty : Fin 4) : Statement (.cpRed2 a b k rop rty) := by
  intro hw f hf
  obtain rfl := Option.some.inj (show some ⟨40, (2 * a.val), (2 * b.val), (2 * k.val), (64 + 4 * rop.val + rty.val)⟩ = some f from hf)
  have l_a := a.isLt
  have l_b := b.isLt
  have l_k := k.isLt
  have l_rop := rop.isLt
  have l_rty := rty.isLt
  have h0 : (64 + 4 * rop.val + rty.val) / 16 = 4 := by omega
  have e0 : fldPair 16 (2 * a.val) = .ok a := fldPair_eq a rfl
  have e1 : fldPair 16 (2 * b.val) = .ok b := fldPair_eq b rfl
  have e2 : fldPair 16 (2 * k.val) = .ok k := fldPair_eq k rfl
  have e3 : fldN 3 ((64 + 4 * rop.val + rty.val) / 4 % 4) = .ok rop := fldN_eq rop (by omega)
  have e4 : fldN 4 ((64 + 4 * rop.val + rty.val) % 4) = .ok rty := fldN_eq rty (by omega)
  refine ⟨Nat.le_of_ble_eq_true rfl, by dsimp only; omega, by dsimp only; omega, by dsimp only; omega, by dsimp only; omega, ?_⟩
  have hm : decodeMajor28 ⟨40, (2 * a.val), (2 * b.val), (2 * k.val), (64 + 4 * rop.val + rty.val)⟩ = form5 (fldPair 16 (2 * a.val)) (fldPair 16 (2 * b.val)) (fldPair 16 (2 * k.val)) (fldN 3 ((64 + 4 * rop.val + rty.val) / 4 % 4)) (fldN 4 ((64 + 4 * rop.val + rty.val) % 4)) .cpRed2 := by
    unfold decodeMajor28; dsimp only; rw [h0]; try rfl
  exact hm.trans (form5_ok (k := .cpRed2) e0 e1 e2 e3 e4)

theorem cpNest (a : Fin 32) : Statement (.cpNest a) := by
  intro hw f hf
  obtain rfl := Option.some.inj (show some ⟨41, a.val, 0, 0, 0⟩ = some f from hf)
  have l_a := a.isLt
  have e0 : fldN 32 a.val = .ok a := fldN_eq a rfl
  have e1 : fld0 0 = .ok () := rfl
  have e2 : fld0 0 = .ok () := rfl
  refine ⟨Nat.le_of_ble_eq_true rfl, Nat.lt_of_lt_of_le a.isLt (by decide), Nat.le_of_ble_eq_true rfl, Nat.le_of_ble_eq_true rfl, Nat.le_of_ble_eq_true rfl, ?_⟩
  exact form3_ok (k := (fun a _ _ => .cpNest a)) e0 e1 e2

theorem cpArm (a : Fin 32) (b : Fin 32) (c : Fin 32) : Statement (.cpArm a b c) := by
  intro hw f hf
  obtain rfl := Option.some.inj (show some ⟨41, a.val, b.val, c.val, 1⟩ = some f from hf)
  have l_a := a.isLt
  have l_b := b.isLt
  have l_c := c.isLt
  have e0 : fldN 32 a.val = .ok a := fldN_eq a rfl
  have e1 : fldN 32 b.val = .ok b := fldN_eq b rfl
  have e2 : fldN 32 c.val = .ok c := fldN_eq c rfl
  refine ⟨Nat.le_of_ble_eq_true rfl, Nat.lt_of_lt_of_le a.isLt (by decide), Nat.lt_of_lt_of_le b.isLt (by decide), Nat.lt_of_lt_of_le c.isLt (by decide), Nat.le_of_ble_eq_true rfl, ?_⟩
  exact form3_ok (k := .cpArm) e0 e1 e2

theorem cpWait : Statement (.cpWait) := by
  intro hw f hf
  obtain rfl := Option.some.inj (show some ⟨41, 0, 0, 0, 2⟩ = some f from hf)
  have e0 : fld0 0 = .ok () := rfl
  have e1 : fld0 0 = .ok () := rfl
  have e2 : fld0 0 = .ok () := rfl
  refine ⟨Nat.le_of_ble_eq_true rfl, Nat.le_of_ble_eq_true rfl, Nat.le_of_ble_eq_true rfl, Nat.le_of_ble_eq_true rfl, Nat.le_of_ble_eq_true rfl, ?_⟩
  exact form3_ok (k := (fun _ _ _ => .cpWait)) e0 e1 e2

theorem cpStat (d : Fin 32) : Statement (.cpStat d) := by
  intro hw f hf
  obtain rfl := Option.some.inj (show some ⟨41, d.val, 0, 0, 3⟩ = some f from hf)
  have l_d := d.isLt
  have e0 : fldN 32 d.val = .ok d := fldN_eq d rfl
  have e1 : fld0 0 = .ok () := rfl
  have e2 : fld0 0 = .ok () := rfl
  refine ⟨Nat.le_of_ble_eq_true rfl, Nat.lt_of_lt_of_le d.isLt (by decide), Nat.le_of_ble_eq_true rfl, Nat.le_of_ble_eq_true rfl, Nat.le_of_ble_eq_true rfl, ?_⟩
  exact form3_ok (k := (fun d _ _ => .cpStat d)) e0 e1 e2

theorem collAr (a : Fin 32) (fp8 : Bool) : Statement (.collAr a fp8) := by
  intro hw f hf
  obtain rfl := Option.some.inj (show some ⟨42, a.val, 0, 0, (0 + 8 * fp8.toNat)⟩ = some f from hf)
  have l_a := a.isLt
  have l_fp8 := fp8.toNat_lt
  have h0 : (0 + 8 * fp8.toNat) % 8 = 0 := by omega
  have e0 : fldN 32 a.val = .ok a := fldN_eq a rfl
  have e1 : fld0 0 = .ok () := rfl
  have e2 : fld0 0 = .ok () := rfl
  have e3 : fld0 ((0 + 8 * fp8.toNat) / 16) = .ok () := fld0_eq (by omega)
  have e4 : (.ok ((0 + 8 * fp8.toNat) / 8 % 2 == 1) : Except Reject Bool) = .ok fp8 := congrArg _ (beq_one fp8 (by omega))
  refine ⟨Nat.le_of_ble_eq_true rfl, Nat.lt_of_lt_of_le a.isLt (by decide), Nat.le_of_ble_eq_true rfl, Nat.le_of_ble_eq_true rfl, by dsimp only; omega, ?_⟩
  have hm : decodeMajor2A ⟨42, a.val, 0, 0, (0 + 8 * fp8.toNat)⟩ = form5 (fldN 32 a.val) (fld0 0) (fld0 0) (fld0 ((0 + 8 * fp8.toNat) / 16)) (.ok ((0 + 8 * fp8.toNat) / 8 % 2 == 1)) (fun a _ _ _ fp8 => .collAr a fp8) := by
    unfold decodeMajor2A; dsimp only; rw [h0]; try rfl
  exact hm.trans (form5_ok (k := (fun a _ _ _ fp8 => .collAr a fp8)) e0 e1 e2 e3 e4)

theorem collRs (a : Fin 32) (fp8 : Bool) : Statement (.collRs a fp8) := by
  intro hw f hf
  obtain rfl := Option.some.inj (show some ⟨42, a.val, 0, 0, (1 + 8 * fp8.toNat)⟩ = some f from hf)
  have l_a := a.isLt
  have l_fp8 := fp8.toNat_lt
  have h0 : (1 + 8 * fp8.toNat) % 8 = 1 := by omega
  have e0 : fldN 32 a.val = .ok a := fldN_eq a rfl
  have e1 : fld0 0 = .ok () := rfl
  have e2 : fld0 0 = .ok () := rfl
  have e3 : fld0 ((1 + 8 * fp8.toNat) / 16) = .ok () := fld0_eq (by omega)
  have e4 : (.ok ((1 + 8 * fp8.toNat) / 8 % 2 == 1) : Except Reject Bool) = .ok fp8 := congrArg _ (beq_one fp8 (by omega))
  refine ⟨Nat.le_of_ble_eq_true rfl, Nat.lt_of_lt_of_le a.isLt (by decide), Nat.le_of_ble_eq_true rfl, Nat.le_of_ble_eq_true rfl, by dsimp only; omega, ?_⟩
  have hm : decodeMajor2A ⟨42, a.val, 0, 0, (1 + 8 * fp8.toNat)⟩ = form5 (fldN 32 a.val) (fld0 0) (fld0 0) (fld0 ((1 + 8 * fp8.toNat) / 16)) (.ok ((1 + 8 * fp8.toNat) / 8 % 2 == 1)) (fun a _ _ _ fp8 => .collRs a fp8) := by
    unfold decodeMajor2A; dsimp only; rw [h0]; try rfl
  exact hm.trans (form5_ok (k := (fun a _ _ _ fp8 => .collRs a fp8)) e0 e1 e2 e3 e4)

theorem collAg (a : Fin 32) (fp8 : Bool) : Statement (.collAg a fp8) := by
  intro hw f hf
  obtain rfl := Option.some.inj (show some ⟨42, a.val, 0, 0, (2 + 8 * fp8.toNat)⟩ = some f from hf)
  have l_a := a.isLt
  have l_fp8 := fp8.toNat_lt
  have h0 : (2 + 8 * fp8.toNat) % 8 = 2 := by omega
  have e0 : fldN 32 a.val = .ok a := fldN_eq a rfl
  have e1 : fld0 0 = .ok () := rfl
  have e2 : fld0 0 = .ok () := rfl
  have e3 : fld0 ((2 + 8 * fp8.toNat) / 16) = .ok () := fld0_eq (by omega)
  have e4 : (.ok ((2 + 8 * fp8.toNat) / 8 % 2 == 1) : Except Reject Bool) = .ok fp8 := congrArg _ (beq_one fp8 (by omega))
  refine ⟨Nat.le_of_ble_eq_true rfl, Nat.lt_of_lt_of_le a.isLt (by decide), Nat.le_of_ble_eq_true rfl, Nat.le_of_ble_eq_true rfl, by dsimp only; omega, ?_⟩
  have hm : decodeMajor2A ⟨42, a.val, 0, 0, (2 + 8 * fp8.toNat)⟩ = form5 (fldN 32 a.val) (fld0 0) (fld0 0) (fld0 ((2 + 8 * fp8.toNat) / 16)) (.ok ((2 + 8 * fp8.toNat) / 8 % 2 == 1)) (fun a _ _ _ fp8 => .collAg a fp8) := by
    unfold decodeMajor2A; dsimp only; rw [h0]; try rfl
  exact hm.trans (form5_ok (k := (fun a _ _ _ fp8 => .collAg a fp8)) e0 e1 e2 e3 e4)

theorem collA2a (a : Fin 32) (fp8 : Bool) : Statement (.collA2a a fp8) := by
  intro hw f hf
  obtain rfl := Option.some.inj (show some ⟨42, a.val, 0, 0, (3 + 8 * fp8.toNat)⟩ = some f from hf)
  have l_a := a.isLt
  have l_fp8 := fp8.toNat_lt
  have h0 : (3 + 8 * fp8.toNat) % 8 = 3 := by omega
  have e0 : fldN 32 a.val = .ok a := fldN_eq a rfl
  have e1 : fld0 0 = .ok () := rfl
  have e2 : fld0 0 = .ok () := rfl
  have e3 : fld0 ((3 + 8 * fp8.toNat) / 16) = .ok () := fld0_eq (by omega)
  have e4 : (.ok ((3 + 8 * fp8.toNat) / 8 % 2 == 1) : Except Reject Bool) = .ok fp8 := congrArg _ (beq_one fp8 (by omega))
  refine ⟨Nat.le_of_ble_eq_true rfl, Nat.lt_of_lt_of_le a.isLt (by decide), Nat.le_of_ble_eq_true rfl, Nat.le_of_ble_eq_true rfl, by dsimp only; omega, ?_⟩
  have hm : decodeMajor2A ⟨42, a.val, 0, 0, (3 + 8 * fp8.toNat)⟩ = form5 (fldN 32 a.val) (fld0 0) (fld0 0) (fld0 ((3 + 8 * fp8.toNat) / 16)) (.ok ((3 + 8 * fp8.toNat) / 8 % 2 == 1)) (fun a _ _ _ fp8 => .collA2a a fp8) := by
    unfold decodeMajor2A; dsimp only; rw [h0]; try rfl
  exact hm.trans (form5_ok (k := (fun a _ _ _ fp8 => .collA2a a fp8)) e0 e1 e2 e3 e4)

theorem collBc (a : Fin 32) (fp8 : Bool) : Statement (.collBc a fp8) := by
  intro hw f hf
  obtain rfl := Option.some.inj (show some ⟨42, a.val, 0, 0, (4 + 8 * fp8.toNat)⟩ = some f from hf)
  have l_a := a.isLt
  have l_fp8 := fp8.toNat_lt
  have h0 : (4 + 8 * fp8.toNat) % 8 = 4 := by omega
  have e0 : fldN 32 a.val = .ok a := fldN_eq a rfl
  have e1 : fld0 0 = .ok () := rfl
  have e2 : fld0 0 = .ok () := rfl
  have e3 : fld0 ((4 + 8 * fp8.toNat) / 16) = .ok () := fld0_eq (by omega)
  have e4 : (.ok ((4 + 8 * fp8.toNat) / 8 % 2 == 1) : Except Reject Bool) = .ok fp8 := congrArg _ (beq_one fp8 (by omega))
  refine ⟨Nat.le_of_ble_eq_true rfl, Nat.lt_of_lt_of_le a.isLt (by decide), Nat.le_of_ble_eq_true rfl, Nat.le_of_ble_eq_true rfl, by dsimp only; omega, ?_⟩
  have hm : decodeMajor2A ⟨42, a.val, 0, 0, (4 + 8 * fp8.toNat)⟩ = form5 (fldN 32 a.val) (fld0 0) (fld0 0) (fld0 ((4 + 8 * fp8.toNat) / 16)) (.ok ((4 + 8 * fp8.toNat) / 8 % 2 == 1)) (fun a _ _ _ fp8 => .collBc a fp8) := by
    unfold decodeMajor2A; dsimp only; rw [h0]; try rfl
  exact hm.trans (form5_ok (k := (fun a _ _ _ fp8 => .collBc a fp8)) e0 e1 e2 e3 e4)

theorem collTm (a : Fin 32) (fp8 : Bool) : Statement (.collTm a fp8) := by
  intro hw f hf
  obtain rfl := Option.some.inj (show some ⟨42, a.val, 0, 0, (5 + 8 * fp8.toNat)⟩ = some f from hf)
  have l_a := a.isLt
  have l_fp8 := fp8.toNat_lt
  have h0 : (5 + 8 * fp8.toNat) % 8 = 5 := by omega
  have e0 : fldN 32 a.val = .ok a := fldN_eq a rfl
  have e1 : fld0 0 = .ok () := rfl
  have e2 : fld0 0 = .ok () := rfl
  have e3 : fld0 ((5 + 8 * fp8.toNat) / 16) = .ok () := fld0_eq (by omega)
  have e4 : (.ok ((5 + 8 * fp8.toNat) / 8 % 2 == 1) : Except Reject Bool) = .ok fp8 := congrArg _ (beq_one fp8 (by omega))
  refine ⟨Nat.le_of_ble_eq_true rfl, Nat.lt_of_lt_of_le a.isLt (by decide), Nat.le_of_ble_eq_true rfl, Nat.le_of_ble_eq_true rfl, by dsimp only; omega, ?_⟩
  have hm : decodeMajor2A ⟨42, a.val, 0, 0, (5 + 8 * fp8.toNat)⟩ = form5 (fldN 32 a.val) (fld0 0) (fld0 0) (fld0 ((5 + 8 * fp8.toNat) / 16)) (.ok ((5 + 8 * fp8.toNat) / 8 % 2 == 1)) (fun a _ _ _ fp8 => .collTm a fp8) := by
    unfold decodeMajor2A; dsimp only; rw [h0]; try rfl
  exact hm.trans (form5_ok (k := (fun a _ _ _ fp8 => .collTm a fp8)) e0 e1 e2 e3 e4)

theorem cmAdd (p : Fin 16) (vi : Fin 56) (vs : Fin 48) (ty : Fin 6) : Statement (.cmAdd p vi vs ty) := by
  intro hw f hf
  obtain rfl := Option.some.inj (show some ⟨44, (2 * p.val), vi.val, vs.val, (0 + ty.val)⟩ = some f from hf)
  have l_p := p.isLt
  have l_vi := vi.isLt
  have l_vs := vs.isLt
  have l_ty := ty.isLt
  have h0 : (0 + ty.val) / 16 = 0 := by omega
  have e0 : fldPair 16 (2 * p.val) = .ok p := fldPair_eq p rfl
  have e1 : fldN 56 vi.val = .ok vi := fldN_eq vi rfl
  have e2 : fldN 48 vs.val = .ok vs := fldN_eq vs rfl
  have e3 : fldN 6 ((0 + ty.val) % 16) = .ok ty := fldN_eq ty (by omega)
  refine ⟨Nat.le_of_ble_eq_true rfl, by dsimp only; omega, Nat.lt_of_lt_of_le vi.isLt (by decide), Nat.lt_of_lt_of_le vs.isLt (by decide), by dsimp only; omega, ?_⟩
  have hm : decodeMajor2C ⟨44, (2 * p.val), vi.val, vs.val, (0 + ty.val)⟩ = form4 (fldPair 16 (2 * p.val)) (fldN 56 vi.val) (fldN 48 vs.val) (fldN 6 ((0 + ty.val) % 16)) .cmAdd := by
    unfold decodeMajor2C; dsimp only; rw [h0]; try rfl
  exact hm.trans (form4_ok (k := .cmAdd) e0 e1 e2 e3)

theorem cmMin (p : Fin 16) (vi : Fin 56) (vs : Fin 48) (ty : Fin 6) : Statement (.cmMin p vi vs ty) := by
  intro hw f hf
  obtain rfl := Option.some.inj (show some ⟨44, (2 * p.val), vi.val, vs.val, (16 + ty.val)⟩ = some f from hf)
  have l_p := p.isLt
  have l_vi := vi.isLt
  have l_vs := vs.isLt
  have l_ty := ty.isLt
  have h0 : (16 + ty.val) / 16 = 1 := by omega
  have e0 : fldPair 16 (2 * p.val) = .ok p := fldPair_eq p rfl
  have e1 : fldN 56 vi.val = .ok vi := fldN_eq vi rfl
  have e2 : fldN 48 vs.val = .ok vs := fldN_eq vs rfl
  have e3 : fldN 6 ((16 + ty.val) % 16) = .ok ty := fldN_eq ty (by omega)
  refine ⟨Nat.le_of_ble_eq_true rfl, by dsimp only; omega, Nat.lt_of_lt_of_le vi.isLt (by decide), Nat.lt_of_lt_of_le vs.isLt (by decide), by dsimp only; omega, ?_⟩
  have hm : decodeMajor2C ⟨44, (2 * p.val), vi.val, vs.val, (16 + ty.val)⟩ = form4 (fldPair 16 (2 * p.val)) (fldN 56 vi.val) (fldN 48 vs.val) (fldN 6 ((16 + ty.val) % 16)) .cmMin := by
    unfold decodeMajor2C; dsimp only; rw [h0]; try rfl
  exact hm.trans (form4_ok (k := .cmMin) e0 e1 e2 e3)

theorem cmMax (p : Fin 16) (vi : Fin 56) (vs : Fin 48) (ty : Fin 6) : Statement (.cmMax p vi vs ty) := by
  intro hw f hf
  obtain rfl := Option.some.inj (show some ⟨44, (2 * p.val), vi.val, vs.val, (32 + ty.val)⟩ = some f from hf)
  have l_p := p.isLt
  have l_vi := vi.isLt
  have l_vs := vs.isLt
  have l_ty := ty.isLt
  have h0 : (32 + ty.val) / 16 = 2 := by omega
  have e0 : fldPair 16 (2 * p.val) = .ok p := fldPair_eq p rfl
  have e1 : fldN 56 vi.val = .ok vi := fldN_eq vi rfl
  have e2 : fldN 48 vs.val = .ok vs := fldN_eq vs rfl
  have e3 : fldN 6 ((32 + ty.val) % 16) = .ok ty := fldN_eq ty (by omega)
  refine ⟨Nat.le_of_ble_eq_true rfl, by dsimp only; omega, Nat.lt_of_lt_of_le vi.isLt (by decide), Nat.lt_of_lt_of_le vs.isLt (by decide), by dsimp only; omega, ?_⟩
  have hm : decodeMajor2C ⟨44, (2 * p.val), vi.val, vs.val, (32 + ty.val)⟩ = form4 (fldPair 16 (2 * p.val)) (fldN 56 vi.val) (fldN 48 vs.val) (fldN 6 ((32 + ty.val) % 16)) .cmMax := by
    unfold decodeMajor2C; dsimp only; rw [h0]; try rfl
  exact hm.trans (form4_ok (k := .cmMax) e0 e1 e2 e3)

theorem cmAnd (p : Fin 16) (vi : Fin 56) (vs : Fin 48) (ty : Fin 4) : Statement (.cmAnd p vi vs ty) := by
  intro hw f hf
  obtain rfl := Option.some.inj (show some ⟨44, (2 * p.val), vi.val, vs.val, (48 + ty.val)⟩ = some f from hf)
  have l_p := p.isLt
  have l_vi := vi.isLt
  have l_vs := vs.isLt
  have l_ty := ty.isLt
  have h0 : (48 + ty.val) / 16 = 3 := by omega
  have e0 : fldPair 16 (2 * p.val) = .ok p := fldPair_eq p rfl
  have e1 : fldN 56 vi.val = .ok vi := fldN_eq vi rfl
  have e2 : fldN 48 vs.val = .ok vs := fldN_eq vs rfl
  have e3 : fldN 4 ((48 + ty.val) % 16) = .ok ty := fldN_eq ty (by omega)
  refine ⟨Nat.le_of_ble_eq_true rfl, by dsimp only; omega, Nat.lt_of_lt_of_le vi.isLt (by decide), Nat.lt_of_lt_of_le vs.isLt (by decide), by dsimp only; omega, ?_⟩
  have hm : decodeMajor2C ⟨44, (2 * p.val), vi.val, vs.val, (48 + ty.val)⟩ = form4 (fldPair 16 (2 * p.val)) (fldN 56 vi.val) (fldN 48 vs.val) (fldN 4 ((48 + ty.val) % 16)) .cmAnd := by
    unfold decodeMajor2C; dsimp only; rw [h0]; try rfl
  exact hm.trans (form4_ok (k := .cmAnd) e0 e1 e2 e3)

theorem cmOr (p : Fin 16) (vi : Fin 56) (vs : Fin 48) (ty : Fin 4) : Statement (.cmOr p vi vs ty) := by
  intro hw f hf
  obtain rfl := Option.some.inj (show some ⟨44, (2 * p.val), vi.val, vs.val, (64 + ty.val)⟩ = some f from hf)
  have l_p := p.isLt
  have l_vi := vi.isLt
  have l_vs := vs.isLt
  have l_ty := ty.isLt
  have h0 : (64 + ty.val) / 16 = 4 := by omega
  have e0 : fldPair 16 (2 * p.val) = .ok p := fldPair_eq p rfl
  have e1 : fldN 56 vi.val = .ok vi := fldN_eq vi rfl
  have e2 : fldN 48 vs.val = .ok vs := fldN_eq vs rfl
  have e3 : fldN 4 ((64 + ty.val) % 16) = .ok ty := fldN_eq ty (by omega)
  refine ⟨Nat.le_of_ble_eq_true rfl, by dsimp only; omega, Nat.lt_of_lt_of_le vi.isLt (by decide), Nat.lt_of_lt_of_le vs.isLt (by decide), by dsimp only; omega, ?_⟩
  have hm : decodeMajor2C ⟨44, (2 * p.val), vi.val, vs.val, (64 + ty.val)⟩ = form4 (fldPair 16 (2 * p.val)) (fldN 56 vi.val) (fldN 48 vs.val) (fldN 4 ((64 + ty.val) % 16)) .cmOr := by
    unfold decodeMajor2C; dsimp only; rw [h0]; try rfl
  exact hm.trans (form4_ok (k := .cmOr) e0 e1 e2 e3)

theorem cmXor (p : Fin 16) (vi : Fin 56) (vs : Fin 48) (ty : Fin 4) : Statement (.cmXor p vi vs ty) := by
  intro hw f hf
  obtain rfl := Option.some.inj (show some ⟨44, (2 * p.val), vi.val, vs.val, (80 + ty.val)⟩ = some f from hf)
  have l_p := p.isLt
  have l_vi := vi.isLt
  have l_vs := vs.isLt
  have l_ty := ty.isLt
  have h0 : (80 + ty.val) / 16 = 5 := by omega
  have e0 : fldPair 16 (2 * p.val) = .ok p := fldPair_eq p rfl
  have e1 : fldN 56 vi.val = .ok vi := fldN_eq vi rfl
  have e2 : fldN 48 vs.val = .ok vs := fldN_eq vs rfl
  have e3 : fldN 4 ((80 + ty.val) % 16) = .ok ty := fldN_eq ty (by omega)
  refine ⟨Nat.le_of_ble_eq_true rfl, by dsimp only; omega, Nat.lt_of_lt_of_le vi.isLt (by decide), Nat.lt_of_lt_of_le vs.isLt (by decide), by dsimp only; omega, ?_⟩
  have hm : decodeMajor2C ⟨44, (2 * p.val), vi.val, vs.val, (80 + ty.val)⟩ = form4 (fldPair 16 (2 * p.val)) (fldN 56 vi.val) (fldN 48 vs.val) (fldN 4 ((80 + ty.val) % 16)) .cmXor := by
    unfold decodeMajor2C; dsimp only; rw [h0]; try rfl
  exact hm.trans (form4_ok (k := .cmXor) e0 e1 e2 e3)

theorem cmSwap (p : Fin 16) (vi : Fin 56) (vs : Fin 48) (ty : Fin 6) : Statement (.cmSwap p vi vs ty) := by
  intro hw f hf
  obtain rfl := Option.some.inj (show some ⟨44, (2 * p.val), vi.val, vs.val, (96 + ty.val)⟩ = some f from hf)
  have l_p := p.isLt
  have l_vi := vi.isLt
  have l_vs := vs.isLt
  have l_ty := ty.isLt
  have h0 : (96 + ty.val) / 16 = 6 := by omega
  have e0 : fldPair 16 (2 * p.val) = .ok p := fldPair_eq p rfl
  have e1 : fldN 56 vi.val = .ok vi := fldN_eq vi rfl
  have e2 : fldN 48 vs.val = .ok vs := fldN_eq vs rfl
  have e3 : fldN 6 ((96 + ty.val) % 16) = .ok ty := fldN_eq ty (by omega)
  refine ⟨Nat.le_of_ble_eq_true rfl, by dsimp only; omega, Nat.lt_of_lt_of_le vi.isLt (by decide), Nat.lt_of_lt_of_le vs.isLt (by decide), by dsimp only; omega, ?_⟩
  have hm : decodeMajor2C ⟨44, (2 * p.val), vi.val, vs.val, (96 + ty.val)⟩ = form4 (fldPair 16 (2 * p.val)) (fldN 56 vi.val) (fldN 48 vs.val) (fldN 6 ((96 + ty.val) % 16)) .cmSwap := by
    unfold decodeMajor2C; dsimp only; rw [h0]; try rfl
  exact hm.trans (form4_ok (k := .cmSwap) e0 e1 e2 e3)

theorem cmCas (p : Fin 16) (vi : Fin 56) (vs : Fin 24) (ty : Fin 6) : Statement (.cmCas p vi vs ty) := by
  intro hw f hf
  obtain rfl := Option.some.inj (show some ⟨44, (2 * p.val), vi.val, (2 * vs.val), (112 + ty.val)⟩ = some f from hf)
  have l_p := p.isLt
  have l_vi := vi.isLt
  have l_vs := vs.isLt
  have l_ty := ty.isLt
  have h0 : (112 + ty.val) / 16 = 7 := by omega
  have e0 : fldPair 16 (2 * p.val) = .ok p := fldPair_eq p rfl
  have e1 : fldN 56 vi.val = .ok vi := fldN_eq vi rfl
  have e2 : fldPair 24 (2 * vs.val) = .ok vs := fldPair_eq vs rfl
  have e3 : fldN 6 ((112 + ty.val) % 16) = .ok ty := fldN_eq ty (by omega)
  refine ⟨Nat.le_of_ble_eq_true rfl, by dsimp only; omega, Nat.lt_of_lt_of_le vi.isLt (by decide), by dsimp only; omega, by dsimp only; omega, ?_⟩
  have hm : decodeMajor2C ⟨44, (2 * p.val), vi.val, (2 * vs.val), (112 + ty.val)⟩ = form4 (fldPair 16 (2 * p.val)) (fldN 56 vi.val) (fldPair 24 (2 * vs.val)) (fldN 6 ((112 + ty.val) % 16)) .cmCas := by
    unfold decodeMajor2C; dsimp only; rw [h0]; try rfl
  exact hm.trans (form4_ok (k := .cmCas) e0 e1 e2 e3)

theorem cmEw (p : Fin 16) (vs : Fin 48) (ty : Fin 6) : Statement (.cmEw p vs ty) := by
  intro hw f hf
  obtain rfl := Option.some.inj (show some ⟨44, (2 * p.val), vs.val, 0, (128 + ty.val)⟩ = some f from hf)
  have l_p := p.isLt
  have l_vs := vs.isLt
  have l_ty := ty.isLt
  have h0 : (128 + ty.val) / 16 = 8 := by omega
  have e0 : fldPair 16 (2 * p.val) = .ok p := fldPair_eq p rfl
  have e1 : fldN 48 vs.val = .ok vs := fldN_eq vs rfl
  have e2 : fld0 0 = .ok () := rfl
  have e3 : fldN 6 ((128 + ty.val) % 16) = .ok ty := fldN_eq ty (by omega)
  refine ⟨Nat.le_of_ble_eq_true rfl, by dsimp only; omega, Nat.lt_of_lt_of_le vs.isLt (by decide), Nat.le_of_ble_eq_true rfl, by dsimp only; omega, ?_⟩
  have hm : decodeMajor2C ⟨44, (2 * p.val), vs.val, 0, (128 + ty.val)⟩ = form4 (fldPair 16 (2 * p.val)) (fldN 48 vs.val) (fld0 0) (fldN 6 ((128 + ty.val) % 16)) (fun p vs _ ty => .cmEw p vs ty) := by
    unfold decodeMajor2C; dsimp only; rw [h0]; try rfl
  exact hm.trans (form4_ok (k := (fun p vs _ ty => .cmEw p vs ty)) e0 e1 e2 e3)

theorem cmRed (p : Fin 16) (sd : Fin 32) (ty : Fin 5) : Statement (.cmRed p sd ty) := by
  intro hw f hf
  obtain rfl := Option.some.inj (show some ⟨44, (2 * p.val), sd.val, 0, (144 + ty.val)⟩ = some f from hf)
  have l_p := p.isLt
  have l_sd := sd.isLt
  have l_ty := ty.isLt
  have h0 : (144 + ty.val) / 16 = 9 := by omega
  have e0 : fldPair 16 (2 * p.val) = .ok p := fldPair_eq p rfl
  have e1 : fldN 32 sd.val = .ok sd := fldN_eq sd rfl
  have e2 : fld0 0 = .ok () := rfl
  have e3 : fldN 5 ((144 + ty.val) % 16) = .ok ty := fldN_eq ty (by omega)
  refine ⟨Nat.le_of_ble_eq_true rfl, by dsimp only; omega, Nat.lt_of_lt_of_le sd.isLt (by decide), Nat.le_of_ble_eq_true rfl, by dsimp only; omega, ?_⟩
  have hm : decodeMajor2C ⟨44, (2 * p.val), sd.val, 0, (144 + ty.val)⟩ = form4 (fldPair 16 (2 * p.val)) (fldN 32 sd.val) (fld0 0) (fldN 5 ((144 + ty.val) % 16)) (fun p sd _ ty => .cmRed p sd ty) := by
    unfold decodeMajor2C; dsimp only; rw [h0]; try rfl
  exact hm.trans (form4_ok (k := (fun p sd _ ty => .cmRed p sd ty)) e0 e1 e2 e3)

theorem cmMadd (p : Fin 16) (vi : Fin 56) (vm : Fin 48) : Statement (.cmMadd p vi vm) := by
  intro hw f hf
  obtain rfl := Option.some.inj (show some ⟨45, (2 * p.val), vi.val, vm.val, 0⟩ = some f from hf)
  have l_p := p.isLt
  have l_vi := vi.isLt
  have l_vm := vm.isLt
  have e0 : fldPair 16 (2 * p.val) = .ok p := fldPair_eq p rfl
  have e1 : fldN 56 vi.val = .ok vi := fldN_eq vi rfl
  have e2 : fldN 48 vm.val = .ok vm := fldN_eq vm rfl
  refine ⟨Nat.le_of_ble_eq_true rfl, by dsimp only; omega, Nat.lt_of_lt_of_le vi.isLt (by decide), Nat.lt_of_lt_of_le vm.isLt (by decide), Nat.le_of_ble_eq_true rfl, ?_⟩
  exact form3_ok (k := .cmMadd) e0 e1 e2

theorem cmProbe (p : Fin 16) (vk : Fin 56) (vr : Fin 48) : Statement (.cmProbe p vk vr) := by
  intro hw f hf
  obtain rfl := Option.some.inj (show some ⟨45, (2 * p.val), vk.val, vr.val, 1⟩ = some f from hf)
  have l_p := p.isLt
  have l_vk := vk.isLt
  have l_vr := vr.isLt
  have e0 : fldPair 16 (2 * p.val) = .ok p := fldPair_eq p rfl
  have e1 : fldN 56 vk.val = .ok vk := fldN_eq vk rfl
  have e2 : fldN 48 vr.val = .ok vr := fldN_eq vr rfl
  refine ⟨Nat.le_of_ble_eq_true rfl, by dsimp only; omega, Nat.lt_of_lt_of_le vk.isLt (by decide), Nat.lt_of_lt_of_le vr.isLt (by decide), Nat.le_of_ble_eq_true rfl, ?_⟩
  exact form3_ok (k := .cmProbe) e0 e1 e2

theorem iqDecl (d : Fin 32) (a : Fin 32) : Statement (.iqDecl d a) := by
  intro hw f hf
  obtain rfl := Option.some.inj (show some ⟨46, d.val, a.val, 0, 0⟩ = some f from hf)
  have l_d := d.isLt
  have l_a := a.isLt
  have e0 : fldN 32 d.val = .ok d := fldN_eq d rfl
  have e1 : fldN 32 a.val = .ok a := fldN_eq a rfl
  have e2 : fld0 0 = .ok () := rfl
  refine ⟨Nat.le_of_ble_eq_true rfl, Nat.lt_of_lt_of_le d.isLt (by decide), Nat.lt_of_lt_of_le a.isLt (by decide), Nat.le_of_ble_eq_true rfl, Nat.le_of_ble_eq_true rfl, ?_⟩
  exact form3_ok (k := (fun d a _ => .iqDecl d a)) e0 e1 e2

theorem iqEmit (p : Fin 16) (q : Fin 32) : Statement (.iqEmit p q) := by
  intro hw f hf
  obtain rfl := Option.some.inj (show some ⟨46, (2 * p.val), q.val, 0, 1⟩ = some f from hf)
  have l_p := p.isLt
  have l_q := q.isLt
  have e0 : fldPair 16 (2 * p.val) = .ok p := fldPair_eq p rfl
  have e1 : fldN 32 q.val = .ok q := fldN_eq q rfl
  have e2 : fld0 0 = .ok () := rfl
  refine ⟨Nat.le_of_ble_eq_true rfl, by dsimp only; omega, Nat.lt_of_lt_of_le q.isLt (by decide), Nat.le_of_ble_eq_true rfl, Nat.le_of_ble_eq_true rfl, ?_⟩
  exact form3_ok (k := (fun p q _ => .iqEmit p q)) e0 e1 e2

theorem iqClose (q : Fin 32) (b : Fin 32) : Statement (.iqClose q b) := by
  intro hw f hf
  obtain rfl := Option.some.inj (show some ⟨46, q.val, b.val, 0, 2⟩ = some f from hf)
  have l_q := q.isLt
  have l_b := b.isLt
  have e0 : fldN 32 q.val = .ok q := fldN_eq q rfl
  have e1 : fldN 32 b.val = .ok b := fldN_eq b rfl
  have e2 : fld0 0 = .ok () := rfl
  refine ⟨Nat.le_of_ble_eq_true rfl, Nat.lt_of_lt_of_le q.isLt (by decide), Nat.lt_of_lt_of_le b.isLt (by decide), Nat.le_of_ble_eq_true rfl, Nat.le_of_ble_eq_true rfl, ?_⟩
  exact form3_ok (k := (fun q b _ => .iqClose q b)) e0 e1 e2

theorem iqUndecl (q : Fin 32) : Statement (.iqUndecl q) := by
  intro hw f hf
  obtain rfl := Option.some.inj (show some ⟨46, q.val, 0, 0, 3⟩ = some f from hf)
  have l_q := q.isLt
  have e0 : fldN 32 q.val = .ok q := fldN_eq q rfl
  have e1 : fld0 0 = .ok () := rfl
  have e2 : fld0 0 = .ok () := rfl
  refine ⟨Nat.le_of_ble_eq_true rfl, Nat.lt_of_lt_of_le q.isLt (by decide), Nat.le_of_ble_eq_true rfl, Nat.le_of_ble_eq_true rfl, Nat.le_of_ble_eq_true rfl, ?_⟩
  exact form3_ok (k := (fun q _ _ => .iqUndecl q)) e0 e1 e2

theorem iqTake (p : Fin 16) (q : Fin 32) : Statement (.iqTake p q) := by
  intro hw f hf
  obtain rfl := Option.some.inj (show some ⟨47, (2 * p.val), q.val, 0, 0⟩ = some f from hf)
  have l_p := p.isLt
  have l_q := q.isLt
  have e0 : fldPair 16 (2 * p.val) = .ok p := fldPair_eq p rfl
  have e1 : fldN 32 q.val = .ok q := fldN_eq q rfl
  have e2 : fld0 0 = .ok () := rfl
  refine ⟨Nat.le_of_ble_eq_true rfl, by dsimp only; omega, Nat.lt_of_lt_of_le q.isLt (by decide), Nat.le_of_ble_eq_true rfl, Nat.le_of_ble_eq_true rfl, ?_⟩
  exact form3_ok (k := (fun p q _ => .iqTake p q)) e0 e1 e2

theorem iqApply (a : Fin 16) (b : Fin 16) : Statement (.iqApply a b) := by
  intro hw f hf
  obtain rfl := Option.some.inj (show some ⟨47, (2 * a.val), (2 * b.val), 0, 1⟩ = some f from hf)
  have l_a := a.isLt
  have l_b := b.isLt
  have e0 : fldPair 16 (2 * a.val) = .ok a := fldPair_eq a rfl
  have e1 : fldPair 16 (2 * b.val) = .ok b := fldPair_eq b rfl
  have e2 : fld0 0 = .ok () := rfl
  refine ⟨Nat.le_of_ble_eq_true rfl, by dsimp only; omega, by dsimp only; omega, Nat.le_of_ble_eq_true rfl, Nat.le_of_ble_eq_true rfl, ?_⟩
  exact form3_ok (k := (fun a b _ => .iqApply a b)) e0 e1 e2

theorem iqProbe (a : Fin 16) (b : Fin 16) : Statement (.iqProbe a b) := by
  intro hw f hf
  obtain rfl := Option.some.inj (show some ⟨47, (2 * a.val), (2 * b.val), 0, 2⟩ = some f from hf)
  have l_a := a.isLt
  have l_b := b.isLt
  have e0 : fldPair 16 (2 * a.val) = .ok a := fldPair_eq a rfl
  have e1 : fldPair 16 (2 * b.val) = .ok b := fldPair_eq b rfl
  have e2 : fld0 0 = .ok () := rfl
  refine ⟨Nat.le_of_ble_eq_true rfl, by dsimp only; omega, by dsimp only; omega, Nat.le_of_ble_eq_true rfl, Nat.le_of_ble_eq_true rfl, ?_⟩
  exact form3_ok (k := (fun a b _ => .iqProbe a b)) e0 e1 e2

theorem iqQwait (g : Fin 32) (b : Fin 32) : Statement (.iqQwait g b) := by
  intro hw f hf
  obtain rfl := Option.some.inj (show some ⟨47, g.val, b.val, 0, 3⟩ = some f from hf)
  have l_g := g.isLt
  have l_b := b.isLt
  have e0 : fldN 32 g.val = .ok g := fldN_eq g rfl
  have e1 : fldN 32 b.val = .ok b := fldN_eq b rfl
  have e2 : fld0 0 = .ok () := rfl
  refine ⟨Nat.le_of_ble_eq_true rfl, Nat.lt_of_lt_of_le g.isLt (by decide), Nat.lt_of_lt_of_le b.isLt (by decide), Nat.le_of_ble_eq_true rfl, Nat.le_of_ble_eq_true rfl, ?_⟩
  exact form3_ok (k := (fun g b _ => .iqQwait g b)) e0 e1 e2

theorem iqDone (q : Fin 32) : Statement (.iqDone q) := by
  intro hw f hf
  obtain rfl := Option.some.inj (show some ⟨47, q.val, 0, 0, 4⟩ = some f from hf)
  have l_q := q.isLt
  have e0 : fldN 32 q.val = .ok q := fldN_eq q rfl
  have e1 : fld0 0 = .ok () := rfl
  have e2 : fld0 0 = .ok () := rfl
  refine ⟨Nat.le_of_ble_eq_true rfl, Nat.lt_of_lt_of_le q.isLt (by decide), Nat.le_of_ble_eq_true rfl, Nat.le_of_ble_eq_true rfl, Nat.le_of_ble_eq_true rfl, ?_⟩
  exact form3_ok (k := (fun q _ _ => .iqDone q)) e0 e1 e2

theorem iqStat (d : Fin 32) (q : Fin 32) : Statement (.iqStat d q) := by
  intro hw f hf
  obtain rfl := Option.some.inj (show some ⟨47, d.val, q.val, 0, 5⟩ = some f from hf)
  have l_d := d.isLt
  have l_q := q.isLt
  have e0 : fldN 32 d.val = .ok d := fldN_eq d rfl
  have e1 : fldN 32 q.val = .ok q := fldN_eq q rfl
  have e2 : fld0 0 = .ok () := rfl
  refine ⟨Nat.le_of_ble_eq_true rfl, Nat.lt_of_lt_of_le d.isLt (by decide), Nat.lt_of_lt_of_le q.isLt (by decide), Nat.le_of_ble_eq_true rfl, Nat.le_of_ble_eq_true rfl, ?_⟩
  exact form3_ok (k := (fun d q _ => .iqStat d q)) e0 e1 e2

theorem iqFront (d : Fin 32) (q : Fin 32) : Statement (.iqFront d q) := by
  intro hw f hf
  obtain rfl := Option.some.inj (show some ⟨47, d.val, q.val, 0, 6⟩ = some f from hf)
  have l_d := d.isLt
  have l_q := q.isLt
  have e0 : fldN 32 d.val = .ok d := fldN_eq d rfl
  have e1 : fldN 32 q.val = .ok q := fldN_eq q rfl
  have e2 : fld0 0 = .ok () := rfl
  refine ⟨Nat.le_of_ble_eq_true rfl, Nat.lt_of_lt_of_le d.isLt (by decide), Nat.lt_of_lt_of_le q.isLt (by decide), Nat.le_of_ble_eq_true rfl, Nat.le_of_ble_eq_true rfl, ?_⟩
  exact form3_ok (k := (fun d q _ => .iqFront d q)) e0 e1 e2

theorem nmSgdf (a : Fin 16) (b : Fin 16) (g : Fin 16) : Statement (.nmSgdf a b g) := by
  intro hw f hf
  obtain rfl := Option.some.inj (show some ⟨48, (2 * a.val), (2 * b.val), (2 * g.val), 0⟩ = some f from hf)
  have l_a := a.isLt
  have l_b := b.isLt
  have l_g := g.isLt
  have e0 : fldPair 16 (2 * a.val) = .ok a := fldPair_eq a rfl
  have e1 : fldPair 16 (2 * b.val) = .ok b := fldPair_eq b rfl
  have e2 : fldPair 16 (2 * g.val) = .ok g := fldPair_eq g rfl
  refine ⟨Nat.le_of_ble_eq_true rfl, by dsimp only; omega, by dsimp only; omega, by dsimp only; omega, Nat.le_of_ble_eq_true rfl, ?_⟩
  exact form3_ok (k := .nmSgdf) e0 e1 e2

theorem nmAxpy (a : Fin 16) (b : Fin 16) (g : Fin 16) : Statement (.nmAxpy a b g) := by
  intro hw f hf
  obtain rfl := Option.some.inj (show some ⟨48, (2 * a.val), (2 * b.val), (2 * g.val), 1⟩ = some f from hf)
  have l_a := a.isLt
  have l_b := b.isLt
  have l_g := g.isLt
  have e0 : fldPair 16 (2 * a.val) = .ok a := fldPair_eq a rfl
  have e1 : fldPair 16 (2 * b.val) = .ok b := fldPair_eq b rfl
  have e2 : fldPair 16 (2 * g.val) = .ok g := fldPair_eq g rfl
  refine ⟨Nat.le_of_ble_eq_true rfl, by dsimp only; omega, by dsimp only; omega, by dsimp only; omega, Nat.le_of_ble_eq_true rfl, ?_⟩
  exact form3_ok (k := .nmAxpy) e0 e1 e2

theorem nmScale (a : Fin 16) (b : Fin 16) (g : Fin 16) : Statement (.nmScale a b g) := by
  intro hw f hf
  obtain rfl := Option.some.inj (show some ⟨48, (2 * a.val), (2 * b.val), (2 * g.val), 2⟩ = some f from hf)
  have l_a := a.isLt
  have l_b := b.isLt
  have l_g := g.isLt
  have e0 : fldPair 16 (2 * a.val) = .ok a := fldPair_eq a rfl
  have e1 : fldPair 16 (2 * b.val) = .ok b := fldPair_eq b rfl
  have e2 : fldPair 16 (2 * g.val) = .ok g := fldPair_eq g rfl
  refine ⟨Nat.le_of_ble_eq_true rfl, by dsimp only; omega, by dsimp only; omega, by dsimp only; omega, Nat.le_of_ble_eq_true rfl, ?_⟩
  exact form3_ok (k := .nmScale) e0 e1 e2

theorem nmSumsq (a : Fin 16) (b : Fin 16) (g : Fin 16) : Statement (.nmSumsq a b g) := by
  intro hw f hf
  obtain rfl := Option.some.inj (show some ⟨48, (2 * a.val), (2 * b.val), (2 * g.val), 3⟩ = some f from hf)
  have l_a := a.isLt
  have l_b := b.isLt
  have l_g := g.isLt
  have e0 : fldPair 16 (2 * a.val) = .ok a := fldPair_eq a rfl
  have e1 : fldPair 16 (2 * b.val) = .ok b := fldPair_eq b rfl
  have e2 : fldPair 16 (2 * g.val) = .ok g := fldPair_eq g rfl
  refine ⟨Nat.le_of_ble_eq_true rfl, by dsimp only; omega, by dsimp only; omega, by dsimp only; omega, Nat.le_of_ble_eq_true rfl, ?_⟩
  exact form3_ok (k := .nmSumsq) e0 e1 e2

theorem nmCast (a : Fin 16) (b : Fin 16) (g : Fin 16) : Statement (.nmCast a b g) := by
  intro hw f hf
  obtain rfl := Option.some.inj (show some ⟨48, (2 * a.val), (2 * b.val), (2 * g.val), 4⟩ = some f from hf)
  have l_a := a.isLt
  have l_b := b.isLt
  have l_g := g.isLt
  have e0 : fldPair 16 (2 * a.val) = .ok a := fldPair_eq a rfl
  have e1 : fldPair 16 (2 * b.val) = .ok b := fldPair_eq b rfl
  have e2 : fldPair 16 (2 * g.val) = .ok g := fldPair_eq g rfl
  refine ⟨Nat.le_of_ble_eq_true rfl, by dsimp only; omega, by dsimp only; omega, by dsimp only; omega, Nat.le_of_ble_eq_true rfl, ?_⟩
  exact form3_ok (k := .nmCast) e0 e1 e2

theorem nmFill (a : Fin 16) (b : Fin 16) (g : Fin 16) : Statement (.nmFill a b g) := by
  intro hw f hf
  obtain rfl := Option.some.inj (show some ⟨48, (2 * a.val), (2 * b.val), (2 * g.val), 5⟩ = some f from hf)
  have l_a := a.isLt
  have l_b := b.isLt
  have l_g := g.isLt
  have e0 : fldPair 16 (2 * a.val) = .ok a := fldPair_eq a rfl
  have e1 : fldPair 16 (2 * b.val) = .ok b := fldPair_eq b rfl
  have e2 : fldPair 16 (2 * g.val) = .ok g := fldPair_eq g rfl
  refine ⟨Nat.le_of_ble_eq_true rfl, by dsimp only; omega, by dsimp only; omega, by dsimp only; omega, Nat.le_of_ble_eq_true rfl, ?_⟩
  exact form3_ok (k := .nmFill) e0 e1 e2

theorem nmScatadd (a : Fin 16) (b : Fin 16) (g : Fin 16) : Statement (.nmScatadd a b g) := by
  intro hw f hf
  obtain rfl := Option.some.inj (show some ⟨48, (2 * a.val), (2 * b.val), (2 * g.val), 6⟩ = some f from hf)
  have l_a := a.isLt
  have l_b := b.isLt
  have l_g := g.isLt
  have e0 : fldPair 16 (2 * a.val) = .ok a := fldPair_eq a rfl
  have e1 : fldPair 16 (2 * b.val) = .ok b := fldPair_eq b rfl
  have e2 : fldPair 16 (2 * g.val) = .ok g := fldPair_eq g rfl
  refine ⟨Nat.le_of_ble_eq_true rfl, by dsimp only; omega, by dsimp only; omega, by dsimp only; omega, Nat.le_of_ble_eq_true rfl, ?_⟩
  exact form3_ok (k := .nmScatadd) e0 e1 e2

theorem nmWait : Statement (.nmWait) := by
  intro hw f hf
  obtain rfl := Option.some.inj (show some ⟨49, 0, 0, 0, 0⟩ = some f from hf)
  refine ⟨by dsimp only; omega, by dsimp only; omega, by dsimp only; omega, by dsimp only; omega, by dsimp only; omega, ?_⟩
  rfl

theorem nmWaitAll : Statement (.nmWaitAll) := by
  intro hw f hf
  obtain rfl := Option.some.inj (show some ⟨49, 0, 0, 1, 0⟩ = some f from hf)
  refine ⟨by dsimp only; omega, by dsimp only; omega, by dsimp only; omega, by dsimp only; omega, by dsimp only; omega, ?_⟩
  rfl

theorem nmStat (d : Fin 32) : Statement (.nmStat d) := by
  intro hw f hf
  obtain rfl := Option.some.inj (show some ⟨49, d.val, 0, 0, 1⟩ = some f from hf)
  have l_d := d.isLt
  have e0 : fldN 32 d.val = .ok d := fldN_eq d rfl
  have e1 : fld0 0 = .ok () := rfl
  have e2 : fld0 0 = .ok () := rfl
  refine ⟨Nat.le_of_ble_eq_true rfl, Nat.lt_of_lt_of_le d.isLt (by decide), Nat.le_of_ble_eq_true rfl, Nat.le_of_ble_eq_true rfl, Nat.le_of_ble_eq_true rfl, ?_⟩
  exact form3_ok (k := (fun d _ _ => .nmStat d)) e0 e1 e2

theorem stFlag (d : Fin 32) (a : Fin 32) : Statement (.stFlag d a) := by
  intro hw f hf
  obtain rfl := Option.some.inj (show some ⟨50, d.val, a.val, 0, 0⟩ = some f from hf)
  have l_d := d.isLt
  have l_a := a.isLt
  have e0 : fldN 32 d.val = .ok d := fldN_eq d rfl
  have e1 : fldN 32 a.val = .ok a := fldN_eq a rfl
  have e2 : fld0 0 = .ok () := rfl
  refine ⟨Nat.le_of_ble_eq_true rfl, Nat.lt_of_lt_of_le d.isLt (by decide), Nat.lt_of_lt_of_le a.isLt (by decide), Nat.le_of_ble_eq_true rfl, Nat.le_of_ble_eq_true rfl, ?_⟩
  exact form3_ok (k := (fun d a _ => .stFlag d a)) e0 e1 e2

theorem stFlag32 (d : Fin 32) (a : Fin 32) : Statement (.stFlag32 d a) := by
  intro hw f hf
  obtain rfl := Option.some.inj (show some ⟨50, d.val, a.val, 0, 1⟩ = some f from hf)
  have l_d := d.isLt
  have l_a := a.isLt
  have e0 : fldN 32 d.val = .ok d := fldN_eq d rfl
  have e1 : fldN 32 a.val = .ok a := fldN_eq a rfl
  have e2 : fld0 0 = .ok () := rfl
  refine ⟨Nat.le_of_ble_eq_true rfl, Nat.lt_of_lt_of_le d.isLt (by decide), Nat.lt_of_lt_of_le a.isLt (by decide), Nat.le_of_ble_eq_true rfl, Nat.le_of_ble_eq_true rfl, ?_⟩
  exact form3_ok (k := (fun d a _ => .stFlag32 d a)) e0 e1 e2

theorem lkPref (a : Fin 32) : Statement (.lkPref a) := by
  intro hw f hf
  obtain rfl := Option.some.inj (show some ⟨50, 0, a.val, 0, 2⟩ = some f from hf)
  have l_a := a.isLt
  have e0 : fld0 0 = .ok () := rfl
  have e1 : fldN 32 a.val = .ok a := fldN_eq a rfl
  have e2 : fld0 0 = .ok () := rfl
  refine ⟨Nat.le_of_ble_eq_true rfl, Nat.le_of_ble_eq_true rfl, Nat.lt_of_lt_of_le a.isLt (by decide), Nat.le_of_ble_eq_true rfl, Nat.le_of_ble_eq_true rfl, ?_⟩
  exact form3_ok (k := (fun _ a _ => .lkPref a)) e0 e1 e2

theorem lkFlush (a : Fin 32) : Statement (.lkFlush a) := by
  intro hw f hf
  obtain rfl := Option.some.inj (show some ⟨50, 0, a.val, 0, 3⟩ = some f from hf)
  have l_a := a.isLt
  have e0 : fld0 0 = .ok () := rfl
  have e1 : fldN 32 a.val = .ok a := fldN_eq a rfl
  have e2 : fld0 0 = .ok () := rfl
  refine ⟨Nat.le_of_ble_eq_true rfl, Nat.le_of_ble_eq_true rfl, Nat.lt_of_lt_of_le a.isLt (by decide), Nat.le_of_ble_eq_true rfl, Nat.le_of_ble_eq_true rfl, ?_⟩
  exact form3_ok (k := (fun _ a _ => .lkFlush a)) e0 e1 e2

theorem lkInval (a : Fin 32) : Statement (.lkInval a) := by
  intro hw f hf
  obtain rfl := Option.some.inj (show some ⟨50, 0, a.val, 0, 4⟩ = some f from hf)
  have l_a := a.isLt
  have e0 : fld0 0 = .ok () := rfl
  have e1 : fldN 32 a.val = .ok a := fldN_eq a rfl
  have e2 : fld0 0 = .ok () := rfl
  refine ⟨Nat.le_of_ble_eq_true rfl, Nat.le_of_ble_eq_true rfl, Nat.lt_of_lt_of_le a.isLt (by decide), Nat.le_of_ble_eq_true rfl, Nat.le_of_ble_eq_true rfl, ?_⟩
  exact form3_ok (k := (fun _ a _ => .lkInval a)) e0 e1 e2

theorem pcount (d : Fin 32) (a : Fin 32) (path : Fin 4) : Statement (.pcount d a path) := by
  intro hw f hf
  obtain rfl := Option.some.inj (show some ⟨51, d.val, a.val, path.val, 0⟩ = some f from hf)
  have l_d := d.isLt
  have l_a := a.isLt
  have l_path := path.isLt
  have e0 : fldN 32 d.val = .ok d := fldN_eq d rfl
  have e1 : fldN 32 a.val = .ok a := fldN_eq a rfl
  have e2 : fldN 4 path.val = .ok path := fldN_eq path rfl
  refine ⟨Nat.le_of_ble_eq_true rfl, Nat.lt_of_lt_of_le d.isLt (by decide), Nat.lt_of_lt_of_le a.isLt (by decide), Nat.lt_of_lt_of_le path.isLt (by decide), Nat.le_of_ble_eq_true rfl, ?_⟩
  exact form3_ok (k := .pcount) e0 e1 e2

theorem fenceAck (a : Fin 32) : Statement (.fenceAck a) := by
  intro hw f hf
  obtain rfl := Option.some.inj (show some ⟨51, 0, a.val, 0, 1⟩ = some f from hf)
  have l_a := a.isLt
  have e0 : fld0 0 = .ok () := rfl
  have e1 : fldN 32 a.val = .ok a := fldN_eq a rfl
  have e2 : fld0 0 = .ok () := rfl
  refine ⟨Nat.le_of_ble_eq_true rfl, Nat.le_of_ble_eq_true rfl, Nat.lt_of_lt_of_le a.isLt (by decide), Nat.le_of_ble_eq_true rfl, Nat.le_of_ble_eq_true rfl, ?_⟩
  exact form3_ok (k := (fun _ a _ => .fenceAck a)) e0 e1 e2

theorem lkStat (d : Fin 32) (a : Fin 32) : Statement (.lkStat d a) := by
  intro hw f hf
  obtain rfl := Option.some.inj (show some ⟨51, d.val, a.val, 0, 2⟩ = some f from hf)
  have l_d := d.isLt
  have l_a := a.isLt
  have e0 : fldN 32 d.val = .ok d := fldN_eq d rfl
  have e1 : fldN 32 a.val = .ok a := fldN_eq a rfl
  have e2 : fld0 0 = .ok () := rfl
  refine ⟨Nat.le_of_ble_eq_true rfl, Nat.lt_of_lt_of_le d.isLt (by decide), Nat.lt_of_lt_of_le a.isLt (by decide), Nat.le_of_ble_eq_true rfl, Nat.le_of_ble_eq_true rfl, ?_⟩
  exact form3_ok (k := (fun d a _ => .lkStat d a)) e0 e1 e2

theorem nop : Statement (.nop) := by
  intro hw f hf
  obtain rfl := Option.some.inj (show some ⟨62, 0, 0, 0, 0⟩ = some f from hf)
  refine ⟨by dsimp only; omega, by dsimp only; omega, by dsimp only; omega, by dsimp only; omega, by dsimp only; omega, ?_⟩
  rfl

theorem hint (k : Fin 67108864) : Statement (.hint k) := by
  intro hw f hf
  obtain rfl := Option.some.inj (show some ⟨62, (k.val / 1048576), (k.val / 16384 % 64), (k.val / 256 % 64), (k.val % 256)⟩ = some f from hf)
  have l_k := k.isLt
  refine ⟨by dsimp only; omega, by dsimp only; omega, by dsimp only; omega, by dsimp only; omega, by dsimp only; omega, ?_⟩
  have hk : k.val ≠ 0 := by simpa using (show (k.val != 0) = true from hw)
  have h : ¬ (k.val / 1048576 = 0 ∧ k.val / 16384 % 64 = 0 ∧ k.val / 256 % 64 = 0 ∧ k.val % 256 = 0) := by omega
  have e0 : fldN 67108864 (k.val / 1048576 * 1048576 + k.val / 16384 % 64 * 16384 + k.val / 256 % 64 * 256 + k.val % 256) = .ok k :=
    fldN_eq k (by omega)
  exact (hint_form ⟨62, k.val / 1048576, k.val / 16384 % 64, k.val / 256 % 64, k.val % 256⟩ h).trans (form1_ok e0)

theorem illegalInstruction (w : BitVec 32) : Statement (.illegalInstruction w) := by
  intro _ f hf; exact nomatch (show none = some f from hf)

theorem instructionFetchFault (cause : BitVec 8) : Statement (.instructionFetchFault cause) := by
  intro _ f hf; exact nomatch (show none = some f from hf)

theorem engineRecordDelivery (thread : Nat) : Statement (.engineRecordDelivery thread) := by
  intro _ f hf; exact nomatch (show none = some f from hf)

theorem heldRecordWrite (core : Nat) : Statement (.heldRecordWrite core) := by
  intro _ f hf; exact nomatch (show none = some f from hf)

theorem vectorStripIssue (core : Nat) : Statement (.vectorStripIssue core) := by
  intro _ f hf; exact nomatch (show none = some f from hf)

theorem forkedProgramTake (die : Nat) : Statement (.forkedProgramTake die) := by
  intro _ f hf; exact nomatch (show none = some f from hf)

theorem barrierCompletion (pa : Nat) (bytes : Nat) : Statement (.barrierCompletion pa bytes) := by
  intro _ f hf; exact nomatch (show none = some f from hf)

theorem tagSweep (line : Nat) : Statement (.tagSweep line) := by
  intro _ f hf; exact nomatch (show none = some f from hf)

theorem armedCommandFire (near : Bool) (unit : Nat) (index : Nat) : Statement (.armedCommandFire near unit index) := by
  intro _ f hf; exact nomatch (show none = some f from hf)

theorem tileDefine (cluster : Nat) (tile : Nat) (word : BitVec 64) : Statement (.tileDefine cluster tile word) := by
  intro _ f hf; exact nomatch (show none = some f from hf)

theorem tileCmdRelease (cluster : Nat) (tile : Nat) : Statement (.tileCmdRelease cluster tile) := by
  intro _ f hf; exact nomatch (show none = some f from hf)

theorem tileCmdDiscard (cluster : Nat) (tile : Nat) : Statement (.tileCmdDiscard cluster tile) := by
  intro _ f hf; exact nomatch (show none = some f from hf)

theorem tileReady (cluster : Nat) (tile : Nat) : Statement (.tileReady cluster tile) := by
  intro _ f hf; exact nomatch (show none = some f from hf)

theorem tileDrainEnd (cluster : Nat) (tile : Nat) : Statement (.tileDrainEnd cluster tile) := by
  intro _ f hf; exact nomatch (show none = some f from hf)

theorem tileEmptyTimeout (core : Nat) : Statement (.tileEmptyTimeout core) := by
  intro _ f hf; exact nomatch (show none = some f from hf)

theorem swathBoundary : Statement (.swathBoundary) := by
  intro _ f hf; exact nomatch (show none = some f from hf)

theorem governorWindow : Statement (.governorWindow) := by
  intro _ f hf; exact nomatch (show none = some f from hf)

theorem preemptRequest (thread : Nat) : Statement (.preemptRequest thread) := by
  intro _ f hf; exact nomatch (show none = some f from hf)

theorem preemptLanding (thread : Nat) : Statement (.preemptLanding thread) := by
  intro _ f hf; exact nomatch (show none = some f from hf)

theorem plimExpiry (thread : Nat) : Statement (.plimExpiry thread) := by
  intro _ f hf; exact nomatch (show none = some f from hf)

theorem saveComplete (thread : Nat) : Statement (.saveComplete thread) := by
  intro _ f hf; exact nomatch (show none = some f from hf)

theorem slotResume (thread : Nat) : Statement (.slotResume thread) := by
  intro _ f hf; exact nomatch (show none = some f from hf)

theorem slotFree (thread : Nat) : Statement (.slotFree thread) := by
  intro _ f hf; exact nomatch (show none = some f from hf)

theorem bindGo (thread : Nat) : Statement (.bindGo thread) := by
  intro _ f hf; exact nomatch (show none = some f from hf)

theorem bindStateReady (thread : Nat) : Statement (.bindStateReady thread) := by
  intro _ f hf; exact nomatch (show none = some f from hf)

theorem hostQueueTake (device : Nat) (queue : Nat) : Statement (.hostQueueTake device queue) := by
  intro _ f hf; exact nomatch (show none = some f from hf)

theorem dependenceObserve (device : Nat) (entry : Nat) (dep : Nat) : Statement (.dependenceObserve device entry dep) := by
  intro _ f hf; exact nomatch (show none = some f from hf)

theorem predicateRead (device : Nat) (entry : Nat) : Statement (.predicateRead device entry) := by
  intro _ f hf; exact nomatch (show none = some f from hf)

theorem replacementMapInstall (rcb : Nat) : Statement (.replacementMapInstall rcb) := by
  intro _ f hf; exact nomatch (show none = some f from hf)

theorem pageWalk (core : Nat) (asid : Nat) (vas : List Nat) : Statement (.pageWalk core asid vas) := by
  intro _ f hf; exact nomatch (show none = some f from hf)

theorem cowCopy (die : Nat) (asid : Nat) (va : Nat) : Statement (.cowCopy die asid va) := by
  intro _ f hf; exact nomatch (show none = some f from hf)

theorem invcmd (die : Nat) : Statement (.invcmd die) := by
  intro _ f hf; exact nomatch (show none = some f from hf)

theorem snapcmd (die : Nat) : Statement (.snapcmd die) := by
  intro _ f hf; exact nomatch (show none = some f from hf)

theorem scrub (granule : Nat) : Statement (.scrub granule) := by
  intro _ f hf; exact nomatch (show none = some f from hf)

theorem uncorrectableError (granule : Nat) : Statement (.uncorrectableError granule) := by
  intro _ f hf; exact nomatch (show none = some f from hf)

theorem cfgRecovery (core : Nat) (shadow : Bool) : Statement (.cfgRecovery core shadow) := by
  intro _ f hf; exact nomatch (show none = some f from hf)

theorem cfgldPreemptHold (thread : Nat) : Statement (.cfgldPreemptHold thread) := by
  intro _ f hf; exact nomatch (show none = some f from hf)

theorem faContextExecute (core : Nat) : Statement (.faContextExecute core) := by
  intro _ f hf; exact nomatch (show none = some f from hf)

theorem copyExecute (engine : Nat) : Statement (.copyExecute engine) := by
  intro _ f hf; exact nomatch (show none = some f from hf)

theorem collReady (engine : Nat) (tag : Nat) (member : Nat) : Statement (.collReady engine tag member) := by
  intro _ f hf; exact nomatch (show none = some f from hf)

theorem collStart (engine : Nat) (tag : Nat) : Statement (.collStart engine tag) := by
  intro _ f hf; exact nomatch (show none = some f from hf)

theorem collAbort (engine : Nat) (tag : Nat) (cause : BitVec 8) : Statement (.collAbort engine tag cause) := by
  intro _ f hf; exact nomatch (show none = some f from hf)

theorem nmCommandStart (die : Nat) : Statement (.nmCommandStart die) := by
  intro _ f hf; exact nomatch (show none = some f from hf)

theorem nmCompletion (die : Nat) : Statement (.nmCompletion die) := by
  intro _ f hf; exact nomatch (show none = some f from hf)

theorem readShared (line : Nat) (die : Nat) : Statement (.readShared line die) := by
  intro _ f hf; exact nomatch (show none = some f from hf)

theorem readExclusive (line : Nat) (die : Nat) : Statement (.readExclusive line die) := by
  intro _ f hf; exact nomatch (show none = some f from hf)

theorem upgrade (line : Nat) (die : Nat) : Statement (.upgrade line die) := by
  intro _ f hf; exact nomatch (show none = some f from hf)

theorem writeBack (line : Nat) (die : Nat) : Statement (.writeBack line die) := by
  intro _ f hf; exact nomatch (show none = some f from hf)

theorem pushWrite (packet : Nat) : Statement (.pushWrite packet) := by
  intro _ f hf; exact nomatch (show none = some f from hf)

theorem uncachedRead (line : Nat) : Statement (.uncachedRead line) := by
  intro _ f hf; exact nomatch (show none = some f from hf)

theorem remoteAtomic (line : Nat) : Statement (.remoteAtomic line) := by
  intro _ f hf; exact nomatch (show none = some f from hf)

theorem invalidate (line : Nat) (die : Nat) : Statement (.invalidate line die) := by
  intro _ f hf; exact nomatch (show none = some f from hf)

theorem invalidateAcknowledgement (line : Nat) (die : Nat) : Statement (.invalidateAcknowledgement line die) := by
  intro _ f hf; exact nomatch (show none = some f from hf)

theorem dataResponse (line : Nat) (die : Nat) : Statement (.dataResponse line die) := by
  intro _ f hf; exact nomatch (show none = some f from hf)

theorem writeAcknowledgement (packet : Nat) : Statement (.writeAcknowledgement packet) := by
  intro _ f hf; exact nomatch (show none = some f from hf)

theorem multicastRead (member : Nat) (line : Nat) : Statement (.multicastRead member line) := by
  intro _ f hf; exact nomatch (show none = some f from hf)

theorem collectivePacket (engine : Nat) (tag : Nat) : Statement (.collectivePacket engine tag) := by
  intro _ f hf; exact nomatch (show none = some f from hf)

theorem queueRecord (packet : Nat) : Statement (.queueRecord packet) := by
  intro _ f hf; exact nomatch (show none = some f from hf)

theorem closingMarker (packet : Nat) : Statement (.closingMarker packet) := by
  intro _ f hf; exact nomatch (show none = some f from hf)

theorem markerAcknowledgement (packet : Nat) : Statement (.markerAcknowledgement packet) := by
  intro _ f hf; exact nomatch (show none = some f from hf)

theorem hostForward (pa : Nat) (bytes : List (BitVec 8)) : Statement (.hostForward pa bytes) := by
  intro _ f hf; exact nomatch (show none = some f from hf)

theorem flagRelease (packet : Nat) : Statement (.flagRelease packet) := by
  intro _ f hf; exact nomatch (show none = some f from hf)

theorem linkReplay (device : Nat) (port : Nat) : Statement (.linkReplay device port) := by
  intro _ f hf; exact nomatch (show none = some f from hf)

theorem linkDown (device : Nat) (port : Nat) : Statement (.linkDown device port) := by
  intro _ f hf; exact nomatch (show none = some f from hf)

theorem linkLoss (die : Nat) (dest : Nat) : Statement (.linkLoss die dest) := by
  intro _ f hf; exact nomatch (show none = some f from hf)

theorem routerFlitDiscard (flit : Nat × Nat) : Statement (.routerFlitDiscard flit) := by
  intro _ f hf; exact nomatch (show none = some f from hf)

theorem lreset (die : Nat) (dest : Nat) : Statement (.lreset die dest) := by
  intro _ f hf; exact nomatch (show none = some f from hf)

theorem hostWrite (pa : Nat) (bytes : List (BitVec 8)) : Statement (.hostWrite pa bytes) := by
  intro _ f hf; exact nomatch (show none = some f from hf)

theorem hostRead (pa : Nat) (size : Nat) : Statement (.hostRead pa size) := by
  intro _ f hf; exact nomatch (show none = some f from hf)

theorem hostAtomic (op : Nat) (wide : Bool) (pa : Nat) (operand : BitVec 64) (compare : BitVec 64) : Statement (.hostAtomic op wide pa operand compare) := by
  intro _ f hf; exact nomatch (show none = some f from hf)

theorem hostCompletionTimeout (thread : Nat) : Statement (.hostCompletionTimeout thread) := by
  intro _ f hf; exact nomatch (show none = some f from hf)

theorem batchDelivery (die : Nat) (queue : Nat) : Statement (.batchDelivery die queue) := by
  intro _ f hf; exact nomatch (show none = some f from hf)

theorem dcapRetry (die : Nat) (queue : Nat) : Statement (.dcapRetry die queue) := by
  intro _ f hf; exact nomatch (show none = some f from hf)

theorem powerRequestP (device : Nat) (state : Nat) : Statement (.powerRequestP device state) := by
  intro _ f hf; exact nomatch (show none = some f from hf)

theorem powerRequestD1 (device : Nat) : Statement (.powerRequestD1 device) := by
  intro _ f hf; exact nomatch (show none = some f from hf)

theorem powerRequestD2 (device : Nat) : Statement (.powerRequestD2 device) := by
  intro _ f hf; exact nomatch (show none = some f from hf)

theorem d1Exit (device : Nat) : Statement (.d1Exit device) := by
  intro _ f hf; exact nomatch (show none = some f from hf)

theorem d2Exit (device : Nat) : Statement (.d2Exit device) := by
  intro _ f hf; exact nomatch (show none = some f from hf)

theorem thermalTrip (die : Nat) : Statement (.thermalTrip die) := by
  intro _ f hf; exact nomatch (show none = some f from hf)

theorem powerOn (device : Nat) : Statement (.powerOn device) := by
  intro _ f hf; exact nomatch (show none = some f from hf)

theorem attestationRequest (device : Nat) : Statement (.attestationRequest device) := by
  intro _ f hf; exact nomatch (show none = some f from hf)

theorem attestationReport (device : Nat) : Statement (.attestationReport device) := by
  intro _ f hf; exact nomatch (show none = some f from hf)

theorem present (device : Nat) : Statement (.present device) := by
  intro _ f hf; exact nomatch (show none = some f from hf)

theorem debugTokenCheck (device : Nat) : Statement (.debugTokenCheck device) := by
  intro _ f hf; exact nomatch (show none = some f from hf)

theorem close (device : Nat) : Statement (.close device) := by
  intro _ f hf; exact nomatch (show none = some f from hf)

theorem ownerTransition (device : Nat) (record : BitVec 256 × BitVec 512) : Statement (.ownerTransition device record) := by
  intro _ f hf; exact nomatch (show none = some f from hf)

theorem registerWrite (pa : Nat) (bytes : List (BitVec 8)) : Statement (.registerWrite pa bytes) := by
  intro _ f hf; exact nomatch (show none = some f from hf)

theorem linkUp (device : Nat) (port : Nat) : Statement (.linkUp device port) := by
  intro _ f hf; exact nomatch (show none = some f from hf)

theorem powerLoss (device : Nat) : Statement (.powerLoss device) := by
  intro _ f hf; exact nomatch (show none = some f from hf)

theorem debugHalt (session : Nat × List (Nat × Option (BitVec 64))) : Statement (.debugHalt session) := by
  intro _ f hf; exact nomatch (show none = some f from hf)

theorem debugStep (unit : Nat) : Statement (.debugStep unit) := by
  intro _ f hf; exact nomatch (show none = some f from hf)

theorem responseOverdue (packet : Nat) : Statement (.responseOverdue packet) := by
  intro _ f hf; exact nomatch (show none = some f from hf)

theorem hostCompletion (thread : Nat) (status : Nat) (bytes : List (BitVec 8)) : Statement (.hostCompletion thread status bytes) := by
  intro _ f hf; exact nomatch (show none = some f from hf)

theorem manufacturingExit (device : Nat) (key : BitVec 256) : Statement (.manufacturingExit device key) := by
  intro _ f hf; exact nomatch (show none = some f from hf)

theorem fusedMinimumVersionRaise (device : Nat) (version : BitVec 32) : Statement (.fusedMinimumVersionRaise device version) := by
  intro _ f hf; exact nomatch (show none = some f from hf)

end Sys2Proof.Laws.RoundTrip
end

