-- ==== Sys2Proof/Safety.lean ====
section
/-! DEFINITION. The terms in which claims speak of states: the canonical form of memory, when an agent has a sequencer to run on,
and the frames: what two states have in common. -/

namespace Sys2Proof.Machine

/-- Memory is in its canonical form. -/
def State.memWf (s : State) : Prop := Memory.wf s.mem = true

/-- The agent in progress has a sequencer: a thread always, a context or a copy engine while a program runs on it (R13). -/
def hasProgram (s : State) : Prop :=
  match s.cur with
  | .thread _ => True
  | .ctx c => (ctx s c).prog.isSome = true
  | .engine n => (engine s n).prog.isSome = true

/-! ## Frames -/

/-- Two programs are the same but for their sequencers. -/
def progLike (p q : Option Prog) : Prop := q.map (fun p => (p.serial, p.iss)) = p.map (fun p => (p.serial, p.iss))

/-- The frame of an instruction that acts on nothing but its own sequencer: every other sequencer, everything else of every
thread (its flags, its system and vector registers), of every context and copy engine, and all the rest of the machine, every
byte of memory included, is as before. -/
structure OnlySeq (s t : State) : Prop where
  rest : { t with threads := s.threads, ctxs := s.ctxs, engines := s.engines } = s
  others : ∀ a, a ≠ s.cur → seqOf t a = seqOf s a
  threads : ∀ k, { thr t k with seq := (thr s k).seq } = thr s k
  ctxs : ∀ c, { ctx t c with prog := (ctx s c).prog } = ctx s c ∧ progLike (ctx s c).prog (ctx t c).prog
  engines : ∀ n, { engine t n with prog := (engine s n).prog } = engine s n ∧ progLike (engine s n).prog (engine t n).prog
  memory : ∀ a, readByte t a = readByte s a

/-- Nothing but the thread of a slot differs: every other thread, every other unit and every byte of memory is as before. -/
structure OnlyThread (k : Nat) (s t : State) : Prop where
  rest : { t with threads := s.threads } = s
  others : ∀ j, j ≠ k → thr t j = thr s j
  memory : ∀ a, readByte t a = readByte s a

/-- The registers of the sequencer in progress are as before but for register `d`, which holds `v`; s0 reads zero. -/
def wrote (d : Fin 32) (v : Word) (s t : State) : Prop :=
  ∀ r, x t r = if r = d ∧ r ≠ 0 then v else x s r

/-- No register of the sequencer in progress differs. -/
def regsSame (s t : State) : Prop := ∀ r, x t r = x s r

/-- The position of the sequencer in progress is where a word that completes without a transfer leaves it (R133). -/
def wentOn (s t : State) : Prop :=
  (curSeq t).pc = (curSeq (finish s)).pc ∧ (curSeq t).loops = (curSeq (finish s)).loops ∧ (curSeq t).landing = (curSeq (finish s)).landing

/-- The sequencer in progress goes to an address by a transfer, which makes no end test: its loop levels stay (R133). -/
def jumped (a : Word) (s t : State) : Prop := (curSeq t).pc = a ∧ (curSeq t).loops = (curSeq s).loops

/-! ## What the scalar instructions compute -/

/-- A number as a 64-bit register holds it, modulo 2^64. -/
def word (n : Int) : Word := BitVec.ofInt 64 n

/-- R158: the destination of each two-operand instruction of major 0x01 and the value the rule gives it. -/
def registerValue (s : State) : Instr → Option (Fin 32 × Word)
  | .add d a b => some (d, word ((x s a).toNat + (x s b).toNat))
  | .sub d a b => some (d, word ((x s a).toNat - (x s b).toNat))
  | .and d a b => some (d, x s a &&& x s b)
  | .or d a b => some (d, x s a ||| x s b)
  | .xor d a b => some (d, x s a ^^^ x s b)
  | .andn d a b => some (d, x s a &&& ~~~ x s b)
  | .sll d a b => some (d, word ((x s a).toNat * 2 ^ ((x s b).toNat % 64)))
  | .srl d a b => some (d, word ((x s a).toNat / 2 ^ ((x s b).toNat % 64)))
  | .sra d a b => some (d, word ((x s a).toInt / 2 ^ ((x s b).toNat % 64)))
  | .ror d a b => some (d, (x s a >>> ((x s b).toNat % 64)) ||| (x s a <<< (64 - (x s b).toNat % 64)))
  | .sltI64 d a b => some (d, if (x s a).toInt < (x s b).toInt then 1 else 0)
  | .sltN64 d a b => some (d, if (x s a).toNat < (x s b).toNat then 1 else 0)
  | .minI64 d a b => some (d, word (min (x s a).toInt (x s b).toInt))
  | .minN64 d a b => some (d, word (min (x s a).toNat (x s b).toNat))
  | .maxI64 d a b => some (d, word (max (x s a).toInt (x s b).toInt))
  | .maxN64 d a b => some (d, word (max (x s a).toNat (x s b).toNat))
  | _ => none

/-- R159: the destination of each immediate instruction and the value the rule gives it. -/
def immediateValue (s : State) : Instr → Option (Fin 32 × Word)
  | .addi d a imm => some (d, word ((x s a).toNat + imm.toInt))
  | .andi d a imm => some (d, x s a &&& word imm.toInt)
  | .ori d a imm => some (d, x s a ||| word imm.toInt)
  | .xori d a imm => some (d, x s a ^^^ word imm.toInt)
  | .sltiI64 d a imm => some (d, if (x s a).toInt < imm.toInt then 1 else 0)
  | .sltiN64 d a imm => some (d, if (x s a).toNat < (word imm.toInt).toNat then 1 else 0)
  | .slli d a sh => some (d, word ((x s a).toNat * 2 ^ sh.val))
  | .srli d a sh => some (d, word ((x s a).toNat / 2 ^ sh.val))
  | .srai d a sh => some (d, word ((x s a).toInt / 2 ^ sh.val))
  | .lui d imm => some (d, word (imm.toInt * 4096))
  | .apc d imm => some (d, word ((pcOf s).toNat + imm.toInt * 4096))
  | _ => none

/-- R160: the destination of each multiply and divide and the value the rule's table gives it. -/
def productValue (s : State) : Instr → Option (Fin 32 × Word)
  | .mul d a b => some (d, word ((x s a).toNat * (x s b).toNat))
  | .mulhI64 d a b => some (d, word ((x s a).toInt * (x s b).toInt / 2 ^ 64))
  | .mulhN64 d a b => some (d, word ((x s a).toNat * (x s b).toNat / 2 ^ 64))
  | .divI64 d a b => some (d, if x s b = 0 then word (-1) else word ((x s a).toInt.tdiv (x s b).toInt))
  | .divN64 d a b => some (d, if x s b = 0 then word (-1) else word ((x s a).toNat / (x s b).toNat))
  | .remI64 d a b => some (d, if x s b = 0 then x s a else word ((x s a).toInt.tmod (x s b).toInt))
  | .remN64 d a b => some (d, if x s b = 0 then x s a else word ((x s a).toNat % (x s b).toNat))
  | .mulI32 d a b => some (d, word ((((x s a).setWidth 32).toInt * ((x s b).setWidth 32).toInt).bmod (2 ^ 32)))
  | _ => none

/-- R162: the condition and the offset of each conditional branch. -/
def branchOf (s : State) : Instr → Option (Prop × BitVec 14)
  | .beq a b off => some (x s a = x s b, off)
  | .bne a b off => some (x s a ≠ x s b, off)
  | .bltI64 a b off => some ((x s a).toInt < (x s b).toInt, off)
  | .bgeI64 a b off => some ((x s b).toInt ≤ (x s a).toInt, off)
  | _ => none

/-- R158: the number of zero bits above the highest set bit. -/
structure LeadingZeros (v : Word) (n : Nat) : Prop where
  bound : n ≤ 64
  zeros : ∀ j, 64 - n ≤ j → v.getLsbD j = false
  stop : n < 64 → v.getLsbD (63 - n) = true

/-- R158: the number of zero bits below the lowest set bit. -/
structure TrailingZeros (v : Word) (n : Nat) : Prop where
  bound : n ≤ 64
  zeros : ∀ j, j < n → v.getLsbD j = false
  stop : n < 64 → v.getLsbD n = true

/-- R158: the destination of each counting instruction, and what the count must be. -/
def countOfBits (s : State) : Instr → Option (Fin 32 × (Nat → Prop))
  | .clz d a => some (d, LeadingZeros (x s a))
  | .ctz d a => some (d, TrailingZeros (x s a))
  | .popc d a => some (d, fun n => n = ((List.range 64).filter (fun j => (x s a).getLsbD j)).length)
  | _ => none

/-- R161: the position that a bit-field operand gives. -/
def bfPos (b : Word) : Nat := b.toNat % 64
/-- R161: the width that a bit-field operand gives. -/
def bfWidth (b : Word) : Nat := min (b.toNat / 256 % 128) (64 - b.toNat % 64)

/-- R161: the destination of each instruction of major 0x07, and bit `j` of what the rule's table gives it. -/
def fieldBits (s : State) : Instr → Option (Fin 32 × (Nat → Bool))
  | .bfxN64 d a b => some (d, fun j => decide (j < bfWidth (x s b)) && (x s a).getLsbD (bfPos (x s b) + j))
  | .bfxI64 d a b => some (d, fun j => decide (0 < bfWidth (x s b)) &&
      (x s a).getLsbD (bfPos (x s b) + min j (bfWidth (x s b) - 1)))
  | .bfi d a b => some (d, fun j =>
      if bfPos (x s b) ≤ j ∧ j < bfPos (x s b) + bfWidth (x s b) then (x s a).getLsbD (j - bfPos (x s b)) else (x s d).getLsbD j)
  | .bswap d a => some (d, fun j => (x s a).getLsbD ((7 - j / 8) * 8 + j % 8))
  | .brev d a => some (d, fun j => (x s a).getLsbD (63 - j))
  | _ => none

/-- The instruction completes, writes `v` to register `d` and nothing else but the position of its sequencer. -/
def writesRegister (i : Instr) (d : Fin 32) (v : Word) (s : State) : Prop :=
  ∃ t, exec i s = .next t ∧ wrote d v s t ∧ wentOn s t ∧ OnlySeq s t

/-- A state with what an access leaves on its way put back as in another: the fills that its misses ask for (R272, R337), the request that
the maker had outstanding for it (R352), what a line's home and its owner know of the line (R337), and the page that it finds checked,
with the tags of its lines (R125). -/
def accessed (t s : State) : State :=
  { t with misses := s.misses, hostReqs := s.hostReqs, llc := s.llc, dir := s.dir, checked := s.checked, tags := s.tags }

/-- R125: no line has another tag than before, but that it may carry domain 0. -/
def tagsKept (s t : State) : Prop := ∀ line, tagOf t line = tagOf s line ∨ tagOf t line = ⟨0, 0, 0, 0⟩

/-- The instruction completes, writes `v` to register `d` and nothing else but the position of its sequencer, beside what its access
leaves on its way. -/
def loadsRegister (i : Instr) (d : Fin 32) (v : Word) (s : State) : Prop :=
  ∃ t, exec i s = .next t ∧ wrote d v s t ∧ wentOn s t ∧ tagsKept s t ∧ OnlySeq s (accessed t s)

/-- The instruction completes and changes nothing but the position of its sequencer, beside what its access leaves on its way. -/
def accessGoesOn (i : Instr) (s : State) : Prop :=
  ∃ t, exec i s = .next t ∧ regsSame s t ∧ wentOn s t ∧ tagsKept s t ∧ OnlySeq s (accessed t s)

/-- The instruction completes and changes nothing but the position of its sequencer. -/
def onlyGoesOn (i : Instr) (s : State) : Prop := ∃ t, exec i s = .next t ∧ regsSame s t ∧ wentOn s t ∧ OnlySeq s t

/-- A word with these fields is no instruction: it raises cause 0x01 (R45, R64). -/
def noInstr (f : Fields) : Prop := ∃ e, decodeFields f = .error e

/-! ## Scalar memory -/

/-- R168: the plain loads: their size, whether they sign-extend, destination, base and offset. -/
def plainLoad : Instr → Option (Nat × Bool × Fin 32 × Fin 32 × BitVec 10)
  | .ldI8 d a e => some (1, true, d, a, e)
  | .ldN8 d a e => some (1, false, d, a, e)
  | .ldI16 d a e => some (2, true, d, a, e)
  | .ldN16 d a e => some (2, false, d, a, e)
  | .ldI32 d a e => some (4, true, d, a, e)
  | .ldN32 d a e => some (4, false, d, a, e)
  | .ld64 d a e => some (8, false, d, a, e)
  | _ => none

/-- R168: the plain stores: their size, data register, base and offset. -/
def plainStore : Instr → Option (Nat × Fin 32 × Fin 32 × BitVec 10)
  | .st8 d a e => some (1, d, a, e)
  | .st16 d a e => some (2, d, a, e)
  | .st32 d a e => some (4, d, a, e)
  | .st64 d a e => some (8, d, a, e)
  | _ => none

/-- R170: the acquiring loads. -/
def acquiringLoad : Instr → Option (Nat × Fin 32 × Fin 32 × BitVec 10)
  | .ldAcq64 d a e => some (8, d, a, e)
  | .ldAcqN32 d a e => some (4, d, a, e)
  | _ => none

/-- R170: the releasing stores. -/
def releasingStore : Instr → Option (Nat × Fin 32 × Fin 32 × BitVec 10)
  | .stRel64 d a e => some (8, d, a, e)
  | .stRel32 d a e => some (4, d, a, e)
  | _ => none

/-- R168: the value a load of `n` bytes gives its register. -/
def extended (n : Nat) (signed : Bool) (v : Nat) : Word := if signed then (BitVec.ofNat (8 * n) v).signExtend 64 else BitVec.ofNat 64 v

/-- The effective address of a scalar load or store: A + e (R168). -/
def addressOf (s : State) (a : Fin 32) (e : BitVec 10) : Word := word ((x s a).toNat + e.toInt)

/-- R169: steps 1 to 5 find the leaf and physical address of an access, with nothing to report and no page to copy. -/
structure Reaches (s : State) (w : Who) (rd wr : Bool) (align : Nat) (ea : Word) (p : Word) (pa : Nat) : Prop where
  leaf : translate s w rd wr align ea.toNat = .ok (p, pa)
  single : pteMc p = false
  sound : ptePsn p = false
  owned : wr = true → pteCow p = false ∧ snapHeld s w.die w.iss.asid ea.toNat = false

/-- R389: a device holds no staging set of a die that an older epoch of the pair has left incomplete. -/
def noStaleSet (s : State) (die dest : Nat) : Prop :=
  ∀ d ∈ declared s, devOfDie (d.1 / 256) = dest → ∀ g ∈ d.2.stages, g.die = die → g.epoch = (pair s die dest).epoch

/-- R351: requests for the bytes at an address travel: on the maker's own device, or over a path that is up, with no request of the maker
lost with its pair (R352) and no set that a packet would discard (R389). -/
def pathOpen (s : State) (w : Who) (pa : Nat) : Prop :=
  devOf pa = devOfDie w.die
    ∨ (pathFound s w.die (devOf pa) w.iss.cls = true ∧ (∀ h ∈ tabGet [] s.hostReqs w.req, h.answer = none) ∧ noStaleSet s w.die (devOf pa))

/-- R337, R351: a request for the bytes at an address finds its home, and the home serves no other request for the line. -/
def homeReached (s : State) (w : Who) (pa : Nat) : Prop := lineBusy s pa = false ∧ pathOpen s w pa

/-- R106: an address of memory that holds bytes: HBM, a scratchpad or common memory. -/
def isMemory (pa : Nat) : Prop :=
  match placeOf pa with
  | .hbm _ => True
  | .scratchpad _ _ => True
  | .common _ => True
  | _ => False

/-- R113, R339: a store through a leaf stays with the die's own memory system, not sent to a peer as a counted write. -/
def storedHere (w : Who) (p : Word) (pa : Nat) : Prop :=
  match placeOf pa with
  | .hbm _ => devOf pa = devOfDie w.die ∨ (pteDev p = false ∧ ptePush p = false)
  | _ => True

/-- R459: no cache holds a copy that a near-memory write has left behind: every copy holds what memory holds. -/
def cachesCurrent (s : State) : Prop := ∀ e ∈ s.llc, ∀ c, e.2 = some c → c.stale = none

/-- Nothing but bytes is touched by a write of `n` bytes at an address: no counted write on its way meets them, they are part of
no barrier object and of no read-only field of a live queue block or graph descriptor, no clock reset is due, and no copy in a
cache has to be written back. -/
structure QuietBytes (s : State) (pa n : Nat) : Prop where
  packets : ∀ q ∈ s.packets, q.performed = false → packetMeets q pa n = false
  barriers : ∀ b ∈ s.barriers, pa + n ≤ b ∨ b + 16 ≤ pa
  blocks : ∀ e ∈ declared s, pa + n ≤ e.2.qdr + 24 ∨ e.2.qdr + 64 ≤ pa
  graphs : ∀ e ∈ declared s, ∀ g va, e.2.gdesc = some (g, va) → pa + n ≤ g + 8 ∨ g + 12 ≤ pa
  resets : ∀ d, (dom s d).due = false
  copies : cachesCurrent s

/-- The `n` bytes at an address hold a number and every other byte of memory is as before. -/
def storedBytes (s t : State) (pa n v : Nat) : Prop :=
  readMem t pa n = v % 256 ^ n ∧ ∀ a, a < pa ∨ pa + n ≤ a → readByte t a = readByte s a

/-- R125: the writer tag of a line after a write by the sequencer in progress through a leaf: its own tag on a checked page when
it belongs to a race domain, otherwise the old one, or domain 0 where the page becomes checked. -/
def taggedLine (s t : State) (i : Issuer) (p : Word) (line : Nat) : Prop :=
  if pteChk p = true ∧ i.rdom ≠ 0 then tagOf t line = ⟨(dom s i.rdom).gen, i.rdom, i.agent, i.clock.epoch⟩
  else tagOf t line = tagOf s line ∨ tagOf t line = ⟨0, 0, 0, 0⟩

/-- A state with the bytes of memory and what an access leaves on its way put back as in another: what a store may change. -/
def withMemoryOf (t s : State) : State := { accessed t s with mem := s.mem, fresh := s.fresh }

/-- R345: the counted writes that a wait of the thread of a slot covers are all acknowledged, and none was lost. -/
structure AllAcked (s : State) (k : Nat) (dest : Option Nat) : Prop where
  fresh : (thr s k).snap = none
  none : awaitsAck s (dieOfThread k) dest s.serial = false
  kept : lostAmong s (dieOfThread k) dest s.serial k = .none

/-- R109, R113, R128: a release of the sequencer in progress at a scope has nothing to wait for. -/
def releaseOpen (s : State) (scope : Nat) : Prop :=
  match s.cur with
  | .thread k => vPending (thr s k) = false ∧ (4 ≤ scope → AllAcked s k none) ∧ epochFull s (thr s k).rdom (thr s k).agent = false
  | _ => ownPathWaits s = false ∧ ((curIssuer s).rdom = 0 ∨ (curIssuer s).clock.epoch < 0xFFFF)

/-- R123: the epoch of the thread of a slot has advanced by one from a clock, and its own entry with it; an agent outside every
domain has no clock. -/
def steppedFrom (t : State) (k : Nat) (c : Clock) : Prop :=
  (thr t k).rdom ≠ 0 → clockOf t (thr t k).rdom (thr t k).agent = ⟨c.epoch + 1, c.acq.set (thr t k).agent.toNat (c.epoch + 1) (by omega)⟩

/-- R172: an atomic of 4 or 8 bytes: its registers, scope and size, and the new value it gives the location (none when it
writes nothing) from the old one, the operand and the old destination. -/
def atomicOf : Instr → Option (Fin 32 × Fin 32 × Fin 32 × Fin 6 × Bool × ((n : Nat) → BitVec n → BitVec n → BitVec n → Option (BitVec n)))
  | .amoSwap d a b sc w => some (d, a, b, sc, w, fun _ _ y _ => some y)
  | .amoAdd d a b sc w => some (d, a, b, sc, w, fun _ o y _ => some (o + y))
  | .amoAnd d a b sc w => some (d, a, b, sc, w, fun _ o y _ => some (o &&& y))
  | .amoOr d a b sc w => some (d, a, b, sc, w, fun _ o y _ => some (o ||| y))
  | .amoXor d a b sc w => some (d, a, b, sc, w, fun _ o y _ => some (o ^^^ y))
  | .amoMinI d a b sc w => some (d, a, b, sc, w, fun _ o y _ => some (if y.slt o then y else o))
  | .amoMaxI d a b sc w => some (d, a, b, sc, w, fun _ o y _ => some (if o.slt y then y else o))
  | .amoMinN d a b sc w => some (d, a, b, sc, w, fun _ o y _ => some (if y.ult o then y else o))
  | .amoMaxN d a b sc w => some (d, a, b, sc, w, fun _ o y _ => some (if o.ult y then y else o))
  | .amoCas d a b sc w => some (d, a, b, sc, w, fun _ o y z => if o = z then some y else none)
  | _ => none

/-- R172: the atomic zero-extends the old value into its register. -/
def atomicUnsigned : Instr → Bool
  | .amoMinN .. => true
  | .amoMaxN .. => true
  | _ => false

/-- R173: what an atomic needs beside its translation: no race after its acquire, no poison, memory that holds bytes. -/
structure AtomicReady (s : State) (w : Who) (n : Nat) (p : Word) (pa scope : Nat) : Prop where
  memory : isMemory pa
  home : homeReached s w pa
  noRace : racing s (mergedWho s w (syncFor s w p pa)) p pa n = false
  clean : poisoned s pa n = false
  quiet : QuietBytes s pa n
  opened : releaseOpen s scope

/-! ## Barrier objects -/

/-- R177: a barrier-object instruction finds its object at a physical address. -/
structure ObjectAt (s : State) (wr : Bool) (ea : Word) (pa : Nat) : Prop where
  aligned : ea.toNat % 16 = 0
  place : barPlace pa = true
  home : homeReached s (whoBar s) pa
  leaf : ∃ p, Reaches s (whoBar s) (!wr) wr 1 ea p pa

/-- A state with what an update of a barrier object may change put back as in another: memory, armed commands that fire, what is
known of objects, and clocks. -/
def withObjectsOf (t s : State) : State :=
  { accessed t s with mem := s.mem, engines := s.engines, nms := s.nms, serial := s.serial, barriers := s.barriers,
                      arrivals := s.arrivals, domains := s.domains }

/-- R21..R24: an object after an arrival (`c` = 1) or an announcement (`c` = 0) of `n` bytes: its counts, its phase, and the
fields that stay. -/
structure Counted (o o' : Nat) (c n : Nat) : Prop where
  phase : barPhase o' = (if barTx o + n = 0 ∧ (barExpect o = 0 ∨ barCount o + c = barExpect o) then !barPhase o else barPhase o)
  count : barCount o' = (if barTx o + n = 0 ∧ barExpect o ≠ 0 ∧ barCount o + c = barExpect o then 0 else barCount o + c)
  bytes : barTx o' = barTx o + n
  expect : barExpect o' = barExpect o
  scope : barScope o' = barScope o

/-- R22: every byte of memory but an object's sixteen is as before. -/
def onlyObject (s t : State) (pa : Nat) : Prop := ∀ a, a < pa ∨ pa + 16 ≤ a → readByte t a = readByte s a

/-! ## Traps -/

/-- R142: a thread has entered its handler: P is in tepc (bits 1:0 and 63:57 read zero), the cause and ECLS in tcause, the value in
tval, HM is set, the scalar side is at tvec, its registers and loop levels are as before, and vector entries are parked. -/
def handlerOf (t : Thread) (p : Word) (cause : BitVec 8) (ecls : Nat) (val : Word) : Thread :=
  { t with st := .running, hm := true, tepc := p &&& 0x01FFFFFFFFFFFFFC, tcause := word (cause.toNat + ecls * 256), tval := val,
           seq := { t.seq with pc := t.tvec, landing := .none }, snap := none, vq := [], parked := t.parked ++ t.vq }

/-- Nothing but a thread differs, and the answers of the host that it no longer waits for. -/
def onlyTrapped (k : Nat) (s t : State) : Prop := OnlyThread k s { t with hostReqs := s.hostReqs }

/-- The traps that a thread's own instructions raise by the words of their rules: the cause, its value, and the resume address. -/
def ownTrap (s : State) (k : Nat) : Instr → Option (BitVec 8 × Word × Word)
  | .illegalInstruction w => some (0x01, w.setWidth 64, pcOf s)
  | .instructionFetchFault c => some (c, pcOf s, pcOf s)
  | .trap n => some (0x04, word n.val, pcOf s + 4)
  | .tret => if (thr s k).hm then none else some (0x02, tvalWord .tret, pcOf s)
  | .jalr _ a => if (x s a).toNat % 4 = 0 then none else some (0x03, x s a, pcOf s)
  | .lidx d n => if n.val < (curSeq s).loops.length then none else some (0x44, tvalWord (.lidx d n), pcOf s)
  | .lbrk n => if n.val < (curSeq s).loops.length then none else some (0x44, tvalWord (.lbrk n), pcOf s)
  | .loop c h e =>
    if 2 ^ 32 ≤ (x s c).toNat then some (0x44, tvalWord (.loop c h e), pcOf s)
    else if x s c = 0 then none
    else if 6 ≤ (curSeq s).loops.length then some (0x40, pcOf s, pcOf s)
    else match (curSeq s).loops.getLast? with
      | some l => if l.stop.toNat < (pcOf s + word (4 * e.val)).toNat then some (0x44, tvalWord (.loop c h e), pcOf s) else none
      | none => none
  | .sets r b =>
    if (r.val = 6 ∨ r.val = 9 ∨ r.val = 0x11 ∨ r.val = 0x12 ∨ r.val = 0x13) ∧ (thr s k).priv = false ∧ (thr s k).hm = false then
      some (0x02, tvalWord (.sets r b), pcOf s)
    else if r.val = 0 ∧ vtLegal (x s b) = false then some (0x01, tvalWord (.sets r b), pcOf s)
    else none
  | _ => none

/-! ## System registers -/

/-- R57, R186: the number of each system register and what `gets` returns of it to the thread of a slot. -/
def systemRegister (s : State) (k : Nat) : List (Nat × Word) :=
  let t := thr s k
  let c := core s (k / 4)
  [(0x00, t.vtype), (0x01, word t.vl), (0x02, BitVec.ofNat 64 (t.cur.val + t.pend.val * 4 + t.pv.toNat * 16 + t.share * 32)),
   (0x03, t.aflags.setWidth 64), (0x04, t.bvalid.setWidth 64),
   (0x06, (cluster s (k / 8)).windows ++ (cluster s (k / 8)).stalls),
   (0x07, t.tcause), (0x08, t.tval), (0x09, t.tvec), (0x0A, t.tepc),
   (0x11, BitVec.ofNat 64 (c.fqHead.toNat + c.fqTail.toNat * 2 ^ 6 + c.fqBase.toNat * 2 ^ 12 + c.fqAhead.toNat * 2 ^ 57 + c.fqEn.toNat * 2 ^ 63)),
   (0x12, t.rcb), (0x13, t.asid.setWidth 64), (0x14, t.clkseed.setWidth 64)]

/-- R392: what `fagrant` holds for a thread: its rows, the rows of the cluster that no context has, HOLD and BUSY. -/
def fagrantWord (s : State) (k : Nat) : Word :=
  let own := ctx s (k / 4)
  let a := ctx s (k / 8 * 2)
  let b := ctx s (k / 8 * 2 + 1)
  BitVec.ofNat 64 ((if own.holder = some k then own.rows else 0) + (128 - a.rows - b.rows) * 2 ^ 8
    + (if own.holder = some k then 2 ^ 16 else 0) + (if own.holder ≠ none ∧ own.holder ≠ some k then 2 ^ 17 else 0))

/-! ## The vector unit -/

/-- R135, R214: the instructions that enter the vector queue as dispatch finds them legal, with the scalar operands that their
entries copy. -/
def queuedOperands (s : State) : Instr → Option (Word × Word × Word)
  | .vbcast _ a => some ((x s a), 0, 0)
  | .vindex _ => some (0, 0, 0)
  | .vaddFloat _ _ _ _ => some (0, 0, 0)
  | .vsubFloat _ _ _ _ => some (0, 0, 0)
  | .vmulFloat _ _ _ _ => some (0, 0, 0)
  | .vdiv _ _ _ _ => some (0, 0, 0)
  | .vfma _ _ _ _ => some (0, 0, 0)
  | .vfms _ _ _ _ => some (0, 0, 0)
  | .vfnma _ _ _ _ => some (0, 0, 0)
  | .vminFloat _ _ _ _ => some (0, 0, 0)
  | .vmaxFloat _ _ _ _ => some (0, 0, 0)
  | .vabsFloat _ _ _ => some (0, 0, 0)
  | .vnegFloat _ _ _ => some (0, 0, 0)
  | .vsqrt _ _ _ => some (0, 0, 0)
  | .vexp2 _ _ _ => some (0, 0, 0)
  | .vaddInt _ _ _ _ => some (0, 0, 0)
  | .vsubInt _ _ _ _ => some (0, 0, 0)
  | .vmulInt _ _ _ _ => some (0, 0, 0)
  | .vmulhi _ _ _ _ => some (0, 0, 0)
  | .vminInt _ _ _ _ => some (0, 0, 0)
  | .vmaxInt _ _ _ _ => some (0, 0, 0)
  | .vaddsat _ _ _ _ => some (0, 0, 0)
  | .vsubsat _ _ _ _ => some (0, 0, 0)
  | .vabsInt _ _ _ => some (0, 0, 0)
  | .vnegInt _ _ _ => some (0, 0, 0)
  | .vmad _ _ _ _ => some (0, 0, 0)
  | .vand _ _ _ _ => some (0, 0, 0)
  | .vor _ _ _ _ => some (0, 0, 0)
  | .vxor _ _ _ _ => some (0, 0, 0)
  | .vandn _ _ _ _ => some (0, 0, 0)
  | .vnot _ _ _ => some (0, 0, 0)
  | .vsll _ _ _ _ => some (0, 0, 0)
  | .vsrl _ _ _ _ => some (0, 0, 0)
  | .vsra _ _ _ _ => some (0, 0, 0)
  | .vcmpEq _ _ _ _ => some (0, 0, 0)
  | .vcmpNe _ _ _ _ => some (0, 0, 0)
  | .vcmpLt _ _ _ _ => some (0, 0, 0)
  | .vcmpLe _ _ _ _ => some (0, 0, 0)
  | .vsel _ _ _ _ => some (0, 0, 0)
  | .mand _ _ _ => some (0, 0, 0)
  | .mor _ _ _ => some (0, 0, 0)
  | .mxor _ _ _ => some (0, 0, 0)
  | .mandn _ _ _ => some (0, 0, 0)
  | .mnot _ _ => some (0, 0, 0)
  | .vcvt _ _ _ _ => some (0, 0, 0)
  | .vlift _ _ b _ => some ((x s b), 0, 0)
  | .vsink _ _ b _ => some ((x s b), 0, 0)
  | .vpick _ _ _ _ => some (0, 0, 0)
  | .vpack _ _ _ => some (0, 0, 0)
  | .vprune _ _ _ => some (0, 0, 0)
  | .vzip _ _ _ _ => some (0, 0, 0)
  | .vunzip _ _ _ _ => some (0, 0, 0)
  | .vliftZ _ _ b _ => some ((x s b), 0, 0)
  | .vsinkZ _ _ b _ => some ((x s b), 0, 0)
  | .vpackK _ _ _ => some (0, 0, 0)
  | .vfoldAdd _ _ _ => some (0, 0, 0)
  | .vfoldMax _ _ _ => some (0, 0, 0)
  | .vfoldMin _ _ _ => some (0, 0, 0)
  | .vfoldAnd _ _ _ => some (0, 0, 0)
  | .vfoldOr _ _ _ => some (0, 0, 0)
  | .vfoldXor _ _ _ => some (0, 0, 0)
  | .vfoldAmax _ _ _ => some (0, 0, 0)
  | .vld _ sb _ _ _ _ => some ((x s sb), 0, 0)
  | .vlds _ sb ss _ _ _ => some ((x s sb), (x s ss), 0)
  | .vldx _ sb _ _ _ _ => some ((x s sb), 0, 0)
  | .vldb _ sb _ _ _ _ => some ((x s (pairLo sb)), (x s (pairHi sb)), 0)
  | .vldSpec _ sb _ _ _ _ => some ((x s sb), 0, 0)
  | .vldsSpec _ sb ss _ _ _ => some ((x s sb), (x s ss), 0)
  | .vldxSpec _ sb _ _ _ _ => some ((x s sb), 0, 0)
  | .vst _ sb _ _ _ _ => some ((x s sb), 0, 0)
  | .vsts _ sb ss _ _ _ => some ((x s sb), (x s ss), 0)
  | .vstx _ sb _ _ _ _ => some ((x s sb), 0, 0)
  | .vstb _ sb _ _ _ _ => some ((x s (pairLo sb)), (x s (pairHi sb)), 0)
  | .trow _ _ b _ => some ((x s b), 0, 0)
  | .tcol _ _ b _ => some ((x s b), 0, 0)
  | .vspec => some (0, 0, 0)
  | .vmerge _ _ _ => some (0, 0, 0)
  | .cmAdd p _ _ _ => some ((x s (pairLo p)), (x s (pairHi p)), 0)
  | .cmMin p _ _ _ => some ((x s (pairLo p)), (x s (pairHi p)), 0)
  | .cmMax p _ _ _ => some ((x s (pairLo p)), (x s (pairHi p)), 0)
  | .cmAnd p _ _ _ => some ((x s (pairLo p)), (x s (pairHi p)), 0)
  | .cmOr p _ _ _ => some ((x s (pairLo p)), (x s (pairHi p)), 0)
  | .cmXor p _ _ _ => some ((x s (pairLo p)), (x s (pairHi p)), 0)
  | .cmSwap p _ _ _ => some ((x s (pairLo p)), (x s (pairHi p)), 0)
  | .cmCas p _ _ _ => some ((x s (pairLo p)), (x s (pairHi p)), 0)
  | .cmEw p _ _ => some ((x s (pairLo p)), (x s (pairHi p)), 0)
  | .cmRed p sd _ => some ((x s (pairLo p)), (x s (pairHi p)), (x s sd))
  | .cmMadd p _ _ => some ((x s (pairLo p)), (x s (pairHi p)), 0)
  | .cmProbe p _ _ => some ((x s (pairLo p)), (x s (pairHi p)), 0)
  | _ => none

/-- R257: the queue entries that an instruction of the thread of a slot claims as it is dispatched. -/
def claimsOf (s : State) (k : Nat) (i : Instr) : List (Nat × Nat) := newClaims (thr s k) (vInfo i (thr s k) s).srcs

/-- R135, R186: the entry that an instruction of the thread of a slot leaves in the vector queue: its address, its operands, the
configuration and region that hold at it, the queue entries that it claims, and the one that a load into a queue is to fill; nothing
of it is done. -/
def queuedEntry (s : State) (k : Nat) (i : Instr) (ops : Word × Word × Word) : VEntry :=
  let t := thr s k
  { instr := i, pc := t.seq.pc, op0 := ops.1, op1 := ops.2.1, op2 := ops.2.2, op3 := 0, vtype := t.vtype, vl := t.vl, cur := t.cur,
    asid := t.asid, rcb := t.rcb, rid := t.rid, home := t.home, estart := 0, done := 0, blks := [], pushes := [], stored := [],
    target := (loadQueue i).map (fun _ => newEntryId s t), claims := claimsOf s k i, begun := false, flags := 0, released := false,
    stalled := false, arr := none }

/-- R257: the thread of a slot as an instruction reads it: the queue entries that it claims stand first in their queues. -/
def reader (s : State) (k : Nat) (i : Instr) : Thread := claimFirst (claimsOf s k i) (thr s k)

/-- A vector instruction of a running thread meets an empty vector queue that runs as it is filled, on a core no other slot of
which has a strip ready (R206), passes the checks of its dispatch (R214) and finds its sources ready (R258), within registers of
the size they have (R139). -/
structure RunsAlone (s : State) (k : Nat) (i : Instr) : Prop where
  cur : s.cur = .thread k
  running : (thr s k).st = .running
  unheld : (thr s k).heldTrap = false
  empty : (thr s k).vq = []
  now : (thr s k).vdefer = false
  alone : ∀ j, j / 4 = k / 4 → j ≠ k → stripReady s j = false
  legal : vCheck i k s = none
  sources : claimsReady (thr s k) (claimsOf s k i) = true
  fits : (thr s k).vl ≤ 32768 ∧ (thr s k).vl * vtBits (thr s k).vtype ≤ 262144

/-- A thread with the charge for the strips that another has issued (R206). -/
def charged (w t : Thread) : Thread := { w with credit := t.credit, spent := t.spent }

/-- A thread after a vector instruction of its own has run: the scalar side has gone on, the queue is empty, and of the rest only
vector registers, masks, load queues, validity bits, speculation, flags and the charge for its strips may differ. -/
def vectorRan (k : Nat) (s t : State) : Prop :=
  thr t k = { thr s k with seq := (thr (finish s) k).seq, vregs := (thr t k).vregs, mregs := (thr t k).mregs, queues := (thr t k).queues,
                           bvalid := (thr t k).bvalid, spec := (thr t k).spec, aflags := (thr t k).aflags,
                           credit := (thr t k).credit, spent := (thr t k).spent }

/-- The register file of a thread but for one register is as before, its masks, its validity bits and its speculation too. -/
structure OnlyRegister (d : Nat) (a b : Thread) : Prop where
  regs : ∀ r, r ≠ d → vreg b r = vreg a r
  masks : b.mregs = a.mregs
  valid : b.bvalid = a.bvalid
  spec : b.spec = a.spec

/-- An element of the destination of an element-wise instruction. -/
def targetElem (t : Thread) : VTarget → Nat → Nat
  | .reg r bits, e => elemBits (vreg t r) bits e
  | .mask k, e => (mbit t k e).toNat

/-- The element of a source, zero without one. -/
def sourceElem (t : Thread) (r : Option (Fin 56)) (e : Nat) : Nat × Bool :=
  match r with
  | some n => srcElem t n (vtBits t.vtype) e
  | none => (0, false)

/-- R232: the first source of an element-wise instruction at an element: `vsel` takes it by the mask bit. -/
def firstSource (t : Thread) (i : Instr) (sh : VShape) (e : Nat) : Option (Fin 56) :=
  match i with
  | .vsel _ _ _ m => if mbit t m e then sh.b else sh.a
  | _ => sh.a

/-- The old destination element, where the instruction reads it. -/
def oldElem (t : Thread) (sh : VShape) (e : Nat) : Nat × Bool :=
  match sh.old, sh.dst with
  | true, .reg r w => (elemBits (vreg t r) w e, elemPsn (vreg t r) w e)
  | _, _ => (0, false)

/-- R219..R234: the result of an element-wise instruction at an element, from the state before it. -/
def elementResult (t : Thread) (i : Instr) (op : Word) (sh : VShape) (e : Nat) : EOut :=
  vElem i t.vtype op (t.lanes[e % 64]'(Nat.mod_lt _ (by decide))).toNat e (sourceElem t (firstSource t i sh e) e).1 (sourceElem t sh.b e).1
    (oldElem t sh e).1 (elemBits (vreg t (match sh.a with | some a => a.val + 1 | none => 0)) 8 (blockOf t.vtype e))

/-- R208, R209: an element's block is valid, and that of its pair operand. -/
def elementValid (t : Thread) (sh : VShape) (e : Nat) : Bool :=
  blockOk t t.vtype e && (vtClass t.vtype != .s || pairOk t t.vtype (match sh.a with | some a => a.val + 1 | none => 0) e)

/-- An element-wise instruction outside speculation, with one result register, no random rounding, and no poisoned active
source. -/
structure ElementsSound (t : Thread) (i : Instr) (sh : VShape) : Prop where
  shape : vShape i t.vtype = some sh
  narrow : ∀ d a m f, i = .vcvt d a m f → f.val ≠ 9 ∧ fmtBits f.val ≤ vtBits t.vtype
  rounding : sh.steps = false ∨ vtRm t.vtype ≠ 5
  plain : t.spec = false
  sound : ∀ e, activeAt t t.vl sh.m e = true →
    (sourceElem t (firstSource t i sh e) e).2 = false ∧ (sourceElem t sh.a e).2 = false ∧ (sourceElem t sh.b e).2 = false
      ∧ (oldElem t sh e).2 = false ∧ pairPsn t t.vtype (match sh.a with | some a => a.val + 1 | none => 0) e = false

/-- R228, R229: what each integer instruction gives for elements of `n` bits; signed for iN formats. -/
def integerElement (signed : Bool) {n : Nat} (a b c : BitVec n) : Instr → Option (BitVec n)
  | .vaddInt .. => some (a + b)
  | .vsubInt .. => some (a - b)
  | .vmulInt .. => some (a * b)
  | .vmulhi .. => some (if signed then BitVec.ofInt n (a.toInt * b.toInt / 2 ^ n) else BitVec.ofNat n (a.toNat * b.toNat / 2 ^ n))
  | .vminInt .. => some (if (if signed then b.slt a else b.ult a) then b else a)
  | .vmaxInt .. => some (if (if signed then a.slt b else a.ult b) then b else a)
  | .vabsInt .. => some (if signed && a.msb then -a else a)
  | .vnegInt .. => some (-a)
  | .vmad .. => some (a * b + c)
  | .vand .. => some (a &&& b)
  | .vor .. => some (a ||| b)
  | .vxor .. => some (a ^^^ b)
  | .vandn .. => some (a &&& ~~~b)
  | .vnot .. => some (~~~a)
  | .vsll .. => some (a <<< (b.toNat % n))
  | .vsrl .. => some (a >>> (b.toNat % n))
  | .vsra .. => some (a.sshiftRight (b.toNat % n))
  | _ => none

/-- R233: bit `e` of the result of a mask operation. -/
def maskBit (t : Thread) (e : Nat) : Instr → Option (Fin 8 × Bool)
  | .mand d a b => some (d, mbit t a e && mbit t b e)
  | .mor d a b => some (d, mbit t a e || mbit t b e)
  | .mxor d a b => some (d, mbit t a e != mbit t b e)
  | .mandn d a b => some (d, mbit t a e && !mbit t b e)
  | .mnot d a => some (d, !mbit t a e)
  | _ => none

/-- What a permute does with an element of its destination: leave it, write code 0, or write an element of a source. -/
inductive Permuted where
  | keep
  | zero
  | from (r : Fin 56) (e : Nat)
  deriving DecidableEq, Repr

/-- R236..R239: the destination of each permute but `vprune`, and what it does with element `e`; `n` is its scalar operand. -/
def permuted (t : Thread) (n e : Nat) : Instr → Option (Fin 48 × Permuted)
  | .vlift d a _ m => some (d, if activeAt t t.vl m e then .from a ((e + (t.vl - n % t.vl)) % t.vl) else .keep)
  | .vsink d a _ m => some (d, if activeAt t t.vl m e then .from a ((e + n % t.vl) % t.vl) else .keep)
  | .vliftZ d a _ m => some (d, if activeAt t t.vl m e then (if n ≤ e then .from a (e - n) else .zero) else .keep)
  | .vsinkZ d a _ m => some (d, if activeAt t t.vl m e then (if e + n < t.vl then .from a (e + n) else .zero) else .keep)
  | .vpick d a b m => some (d, if activeAt t t.vl m e ∧ (srcElem t b 16 e).1 < t.vl then .from a (srcElem t b 16 e).1 else .keep)
  | .vzip d a b m => some (d, if activeAt t t.vl m e then (if e % 2 = 0 then .from a (e / 2) else .from b ((e - 1) / 2)) else .keep)
  | .vunzip d a b m => some (d, if activeAt t t.vl m e then (if 2 * e < t.vl then .from a (2 * e) else .from b (2 * e - t.vl)) else .keep)
  | .vpack d a k => some (d, match ((List.range t.vl).filter (mbit t k) ++ (List.range t.vl).filter (fun j => !mbit t k j))[e]? with
      | some j => .from a j
      | none => .keep)
  | .vpackK d a k => some (d, match ((List.range t.vl).filter (mbit t k))[e]? with
      | some j => .from a j
      | none => .keep)
  | _ => none

/-- The vector sources of a permute hold no poisoned element. -/
def cleanSources (t : Thread) (i : Instr) : Prop :=
  ∀ r : Fin 56, r.val ∈ (vInfo i t State.reset).srcs → ∀ e, (srcElem t r (vtBits t.vtype) e).2 = false ∧ (srcElem t r 16 e).2 = false

/-- R241: the kind, destination, source and mask of each reduction. -/
def reduction : Instr → Option (VFold × Fin 48 × Fin 56 × Fin 8)
  | .vfoldAdd d a m => some (.add, d, a, m)
  | .vfoldMax d a m => some (.max, d, a, m)
  | .vfoldMin d a m => some (.min, d, a, m)
  | .vfoldAnd d a m => some (.and, d, a, m)
  | .vfoldOr d a m => some (.or, d, a, m)
  | .vfoldXor d a m => some (.xor, d, a, m)
  | .vfoldAmax d a m => some (.amax, d, a, m)
  | _ => none

/-- R241: the reduction of integers of a format. -/
def integerFold (f : Nat) (kind : VFold) (l : List Int) : Int :=
  match kind with
  | .add => l.sum
  | .max => l.foldl max (if fmtSigned f then -(2 ^ (fmtBits f - 1)) else 0)
  | .min => l.foldl min (if fmtSigned f then 2 ^ (fmtBits f - 1) - 1 else 2 ^ fmtBits f - 1)
  | .amax => (l.map (fun v => (v.natAbs : Int))).foldl max 0
  | .and => l.foldl (fun a v => (BitVec.ofInt (fmtBits f) a &&& BitVec.ofInt (fmtBits f) v).toInt) (-1)
  | .or => l.foldl (fun a v => (BitVec.ofInt (fmtBits f) a ||| BitVec.ofInt (fmtBits f) v).toInt) 0
  | .xor => l.foldl (fun a v => (BitVec.ofInt (fmtBits f) a ^^^ BitVec.ofInt (fmtBits f) v).toInt) 0

/-! ## Vector memory -/

/-- R249, R251: the vector loads and stores of whole elements: whether it is a load, whether speculative, its data register field
and its mask. -/
def elementMove : Instr → Option (Bool × Bool × Fin 56 × Fin 8)
  | .vld d _ _ m _ _ => some (true, false, d, m)
  | .vlds d _ _ m _ _ => some (true, false, d, m)
  | .vldx d _ _ m _ _ => some (true, false, d, m)
  | .vldSpec d _ _ m _ _ => some (true, true, d, m)
  | .vldsSpec d _ _ m _ _ => some (true, true, d, m)
  | .vldxSpec d _ _ m _ _ => some (true, true, d, m)
  | .vst v _ _ m _ _ => some (false, false, v, m)
  | .vsts v _ _ m _ _ => some (false, false, v, m)
  | .vstx v _ _ m _ _ => some (false, false, v, m)
  | _ => none

/-- R251: the address of element `e` of a vector load or store, and whether the index it reads is poisoned. -/
def elementAddress (s : State) (t : Thread) (e : Nat) : Instr → Word × Bool
  | .vld _ b n _ _ _ => (x s b + word (32 * n.val + e * vtBits t.vtype / 8), false)
  | .vldSpec _ b n _ _ _ => (x s b + word (32 * n.val + e * vtBits t.vtype / 8), false)
  | .vst _ b n _ _ _ => (x s b + word (32 * n.val + e * vtBits t.vtype / 8), false)
  | .vlds _ b r _ _ _ => (x s b + word e * x s r, false)
  | .vldsSpec _ b r _ _ _ => (x s b + word e * x s r, false)
  | .vsts _ b r _ _ _ => (x s b + word e * x s r, false)
  | .vldx _ b v _ _ _ => (x s b + extended (max (vtBits t.vtype) 32 / 8) true (srcElem t v (max (vtBits t.vtype) 32) e).1, (srcElem t v (max (vtBits t.vtype) 32) e).2)
  | .vldxSpec _ b v _ _ _ => (x s b + extended (max (vtBits t.vtype) 32 / 8) true (srcElem t v (max (vtBits t.vtype) 32) e).1, (srcElem t v (max (vtBits t.vtype) 32) e).2)
  | .vstx _ b v _ _ _ => (x s b + extended (max (vtBits t.vtype) 32 / 8) true (srcElem t v (max (vtBits t.vtype) 32) e).1, (srcElem t v (max (vtBits t.vtype) 32) e).2)
  | _ => (0, false)

/-- The V path of the thread of a slot at its present instruction. -/
def vectorWho (s : State) (k : Nat) : Who :=
  ⟨dieOfThread k, tlbsOfCore s (coreOfThread k), .v, issuerNow s k (thr s k).seq.pc, k, some (coreOfThread k)⟩

/-- An access reaches ordinary memory at its home: its translation and checks pass (R169, R253), on a page that is not checked. -/
structure ReachesMemory (s : State) (w : Who) (rd wr : Bool) (n : Nat) (ea : Word) (p : Word) (pa : Nat) : Prop where
  found : Reaches s w rd wr n ea p pa
  memory : isMemory pa
  home : homeReached s w pa
  unchecked : pteChk p = false
  clean : poisoned s pa n = false

/-- Storing to the bytes that a predicate names does not change what an access finds. -/
def steadyUnder (s : State) (w : Who) (rd wr : Bool) (n : Nat) (ea : Word) (p : Word) (pa : Nat) (touched : Nat → Prop) : Prop :=
  ∀ m : List Host.Cell, (∀ a, ¬ touched a → cellGet m a = readByte s a) → translate { s with mem := m } w rd wr n ea.toNat = .ok (p, pa)

/-- R294, R297: the data register, index register and word type of each bank operation on indexed words. -/
def bankOp : Instr → Option (Nat × Fin 56 × Nat)
  | .cmAdd _ i v ty => some (v.val, i, ty.val)
  | .cmMin _ i v ty => some (v.val, i, ty.val)
  | .cmMax _ i v ty => some (v.val, i, ty.val)
  | .cmAnd _ i v ty => some (v.val, i, ty.val)
  | .cmOr _ i v ty => some (v.val, i, ty.val)
  | .cmXor _ i v ty => some (v.val, i, ty.val)
  | .cmSwap _ i v ty => some (v.val, i, ty.val)
  | .cmCas _ i v ty => some (2 * v.val, i, ty.val)
  | .cmMadd _ i v => some (v.val, i, 0)
  | _ => none

/-- R294, R297: the new word of an integer bank operation of `n` bits from the old one, the data element and, for `cm.cas`, the
element of the next register; none when nothing is written. Signed types are `i32` and `i64`. -/
def bankWord (signed : Bool) {n : Nat} (o v v2 : BitVec n) : Instr → Option (BitVec n)
  | .cmAdd .. => some (o + v)
  | .cmMin .. => some (if (if signed then v.slt o else v.ult o) then v else o)
  | .cmMax .. => some (if (if signed then o.slt v else o.ult v) then v else o)
  | .cmAnd .. => some (o &&& v)
  | .cmOr .. => some (o ||| v)
  | .cmXor .. => some (o ^^^ v)
  | .cmSwap .. => some v
  | .cmCas .. => if o = v then some v2 else none
  | .cmMadd .. => some (BitVec.ofInt n (max (-0x80000000) (min 0x7FFFFFFF (o.toInt + v.toInt))))
  | _ => none

/-! ## Numbers -/

/-- R78: the value of a code of a floating format, none for an infinity or a NaN. -/
def floatRat (f c : Nat) : Option ℚ :=
  let sh := fmtShape f
  let ex := c / 2 ^ sh.2.1 % 2 ^ sh.1
  let man := c % 2 ^ sh.2.1
  if (fmtHasInf f = true ∧ ex = 2 ^ sh.1 - 1) ∨ (f = 3 ∧ ex = 15 ∧ man = 7) then none
  else some ((if c.testBit (sh.1 + sh.2.1) then -1 else 1)
    * (if ex = 0 then (man : ℚ) * 2 ^ (1 - (sh.2.2 : ℤ) - sh.2.1) else ((2 : ℚ) ^ sh.2.1 + man) * 2 ^ ((ex : ℤ) - sh.2.2 - sh.2.1)))

/-- An exact value is given by how it compares with every rational number: here a rational one. -/
def exactAt (v q : ℚ) : Ordering := if v < q then .lt else if v = q then .eq else .gt

/-- The square root of a rational number that is not negative, as it compares with another. -/
def exactRoot (v q : ℚ) : Ordering := if q < 0 then .gt else exactAt v (q * q)

/-- R97: the part of the way from one member of a format to the next at which SR rounds up, for a stepped state of a lane. -/
def srPart (sr : Nat) : ℚ := (sr + 1) / 2 ^ 32

/-- R95, R97: the code `c`, of value `y`, is the member of a format that a rounding mode selects for an exact value, under SR by the
stepped state of the lane. -/
def selected (f rm sr : Nat) (v : ℚ → Ordering) (c : Nat) (y : ℚ) : Prop :=
  let members := fun (p : ℚ → Prop) => ∀ d z, d < 2 ^ fmtBits f → floatRat f d = some z → p z
  let down := v y ≠ .lt ∧ members (fun z => y < z → v z = .lt)
  let up := v y ≠ .gt ∧ members (fun z => z < y → v z = .gt)
  let near := fun (tie : ℚ → Prop) => members (fun z =>
    (y < z → v ((y + z) / 2) = .lt ∨ (v ((y + z) / 2) = .eq ∧ tie z)) ∧ (z < y → v ((y + z) / 2) = .gt ∨ (v ((y + z) / 2) = .eq ∧ tie z)))
  match rm with
  | 0 => near (fun _ => c % 2 = 0)
  | 1 => if v 0 = .lt then up else down
  | 2 => down
  | 3 => up
  | 4 => near (fun z => |z| < |y|)
  | _ => if v 0 = .lt then
      (up ∧ members (fun z => z < y → v (y + (z - y) * srPart sr) = .gt))
        ∨ (down ∧ v y ≠ .eq ∧ members (fun z => y < z → v (z + (y - z) * srPart sr) ≠ .gt))
    else (down ∧ members (fun z => y < z → v (y + (z - y) * srPart sr) = .lt))
        ∨ (up ∧ v y ≠ .eq ∧ members (fun z => z < y → v (z + (y - z) * srPart sr) ≠ .lt))

/-- R94, R96: the exact value overflows a floating format: rounded by the mode, as if exponents were unbounded, it is beyond the
largest finite; SR is judged as RNE (R97). -/
def beyond (f rm : Nat) (v : ℚ → Ordering) : Prop :=
  let top := (floatRat f (fmtMax f)).getD 0
  let ulp := top - (floatRat f (fmtMax f - 1)).getD 0
  let past := fun (q : ℚ) => if v 0 = .lt then v (-q) = .lt else v q = .gt
  let reaches := fun (q : ℚ) => if v 0 = .lt then v (-q) ≠ .gt else v q ≠ .lt
  match rm with
  | 1 => reaches (top + ulp)
  | 2 => if v 0 = .lt then past top else reaches (top + ulp)
  | 3 => if v 0 = .lt then reaches (top + ulp) else past top
  | 4 => reaches (top + ulp / 2)
  | _ => if fmtMax f % 2 = 0 then past (top + ulp / 2) else reaches (top + ulp / 2)

/-- R95, R96: an exact value rounded to a floating format: zero with a given sign, the member that the mode selects, of the value's
sign, with NX and UF, or, beyond the largest finite, infinity or the largest finite with OF and NX. -/
def Rounded (f rm sr : Nat) (zero : Bool) (v : ℚ → Ordering) (code : Nat) (flags : Flags7) : Prop :=
  let neg := decide (v 0 = .lt)
  let infinite := fmtHasInf f = true ∧ rm ≠ 1 ∧ (rm = 2 → neg = true) ∧ (rm = 3 → neg = false)
  (v 0 = .eq → code = signCode f zero ∧ flags = 0)
    ∧ (v 0 ≠ .eq → beyond f rm v → flags = fOF ||| fNX ∧ (infinite → code = signCode f neg + fmtInf f)
        ∧ (¬ infinite → code = signCode f neg + fmtMax f))
    ∧ (v 0 ≠ .eq → ¬ beyond f rm v → ∃ y, floatRat f code = some y ∧ selected f rm sr v code y
        ∧ code.testBit (fmtBits f - 1) = neg
        ∧ (v y = .eq → flags = 0)
        ∧ (v y ≠ .eq → y ≠ 0 → |y| < 2 ^ (1 - ((fmtShape f).2.2 : ℤ)) → flags = fNX ||| fUF)
        ∧ (v y ≠ .eq → y = 0 ∨ 2 ^ (1 - ((fmtShape f).2.2 : ℤ)) ≤ |y| → flags = fNX))

/-- R95, R97: the integer that a rounding mode selects for an exact value, under SR by the stepped state of the lane. -/
def selectedInt (rm sr : Nat) (v : ℚ → Ordering) (n : ℤ) : Prop :=
  let down := v n ≠ .lt ∧ v (n + 1) = .lt
  let up := v n ≠ .gt ∧ v (n - 1) = .gt
  let near := fun (tie : ℤ → Prop) => (v (n + 1 / 2) = .lt ∨ (v (n + 1 / 2) = .eq ∧ tie (n + 1)))
    ∧ (v (n - 1 / 2) = .gt ∨ (v (n - 1 / 2) = .eq ∧ tie (n - 1)))
  match rm with
  | 0 => near (fun _ => n % 2 = 0)
  | 1 => if v 0 = .lt then up else down
  | 2 => down
  | 3 => up
  | 4 => near (fun m => |m| < |n|)
  | _ => if v 0 = .lt then (up ∧ v (n - srPart sr) = .gt) ∨ (down ∧ v n ≠ .eq ∧ v (n + 1 - srPart sr) ≠ .gt)
    else (down ∧ v (n + srPart sr) = .lt) ∨ (up ∧ v n ≠ .eq ∧ v (n - 1 + srPart sr) ≠ .lt)

/-- R96: an exact value rounded to an integer format: beyond the range (judged under SR as under RNE) the nearer end of it with OF. -/
def RoundedInt (f rm sr : Nat) (v : ℚ → Ordering) (code : Nat) (flags : Flags7) : Prop :=
  let low : ℤ := if fmtSigned f then -(2 ^ (fmtBits f - 1)) else 0
  let high : ℤ := if fmtSigned f then 2 ^ (fmtBits f - 1) - 1 else 2 ^ fmtBits f - 1
  let held := fun (n : ℤ) => code = ((max low (min high n)) % 2 ^ fmtBits f).toNat
  ∃ m, selectedInt (if rm = 5 then 0 else rm) sr v m
    ∧ (m < low ∨ high < m → held m ∧ flags = fOF ||| fNX)
    ∧ (low ≤ m → m ≤ high → ∃ n, selectedInt rm sr v n ∧ held n ∧ flags = if v n = .eq then 0 else fNX)

/-- R84: the value of an LNS6 code: zero, or its constant scaled by its integer part. -/
def lnsRat (c : Nat) : ℚ :=
  if c % 32 = 0 then 0 else (if c.testBit 5 then -1 else 1) * (lnsT (c % 4) : ℚ) * 2 ^ ((c / 4 % 8 : Nat) - 16 : ℤ)

/-- R85: an exact rational value rounded to LNS6 by its logarithm. -/
def RoundedLns (v : ℚ) (code : Nat) (flags : Flags7) : Prop :=
  (v = 0 → code = 0 ∧ flags = 0)
    ∧ (v ≠ 0 → ∃ l : ℤ, 2 ^ (2 * l - 1) < |v| ^ 8 ∧ |v| ^ 8 < 2 ^ (2 * l + 1)
        ∧ (l < -15 → code = 0 ∧ flags = fUF ||| fNX)
        ∧ (15 < l → code = (if v < 0 then 63 else 31) ∧ flags = fOF ||| fNX)
        ∧ (-15 ≤ l → l ≤ 15 → code = (if v < 0 then 32 else 0) + (l + 16).toNat ∧ flags = if v = lnsRat code then 0 else fNX))

/-- A number that an operation works on: a NaN, signalling or not, an infinity of a sign, or a finite value with the sign of its code. -/
inductive Number where
  | nan (signalling : Bool)
  | infinity (neg : Bool)
  | finite (v : ℚ) (neg : Bool)
  deriving DecidableEq, Repr

/-- R78, R80: the number that a code of a floating format stands for. -/
def numberOf (f c : Nat) : Number :=
  let sign := c.testBit (fmtBits f - 1)
  match floatRat f c with
  | some v => .finite v sign
  | none =>
    if fmtHasInf f = true ∧ c % 2 ^ (fmtShape f).2.1 = 0 then .infinity sign
    else .nan (decide (f ≤ 2) && !c.testBit ((fmtShape f).2.1 - 1))

/-- The number with its sign inverted. -/
def Number.negated : Number → Number
  | .nan s => .nan s
  | .infinity n => .infinity (!n)
  | .finite v n => .finite (-v) (!n)

/-- R80: a signalling NaN. -/
def Number.signals : Number → Bool
  | .nan s => s
  | _ => false

/-- R224, R230: one number lies below another, none of them a NaN; `zeros` has -0 below +0. -/
def numberBelow (zeros : Bool) : Number → Number → Prop
  | .nan _, _ => False
  | _, .nan _ => False
  | .infinity a, .infinity b => a = true ∧ b = false
  | .infinity a, .finite _ _ => a = true
  | .finite _ _, .infinity b => b = false
  | .finite p a, .finite q b => p < q ∨ (zeros = true ∧ p = 0 ∧ q = 0 ∧ a = true ∧ b = false)

/-- What an operation comes to before rounding: a NaN, an invalid operation, an infinity (by a division by zero or not), or an exact
value with the sign that a zero takes. -/
inductive Exact where
  | nan
  | invalid
  | infinity (neg byZero : Bool)
  | value (v : ℚ → Ordering) (zero : Bool)

/-- R95, R96: the sum of two numbers. -/
def sumOf (rm : Nat) : Number → Number → Exact
  | .nan _, _ => .nan
  | _, .nan _ => .nan
  | .infinity a, .infinity b => if a = b then .infinity a false else .invalid
  | .infinity a, .finite _ _ => .infinity a false
  | .finite _ _, .infinity b => .infinity b false
  | .finite p a, .finite q b => .value (exactAt (p + q)) (if p = 0 ∧ q = 0 ∧ a = b then a else rm == 2)

/-- R96: the product of two numbers, none for an invalid one. -/
def productOf : Number → Number → Option Number
  | .nan a, _ => some (.nan a)
  | _, .nan b => some (.nan b)
  | .infinity a, .infinity b => some (.infinity (a != b))
  | .infinity a, .finite q b => if q = 0 then none else some (.infinity (a != b))
  | .finite p a, .infinity b => if p = 0 then none else some (.infinity (a != b))
  | .finite p a, .finite q b => some (.finite (p * q) (a != b))

/-- A number as an operation comes to it. -/
def Number.exact : Number → Exact
  | .nan _ => .nan
  | .infinity n => .infinity n false
  | .finite v n => .value (exactAt v) n

/-- R96: the quotient of two numbers. -/
def quotientOf : Number → Number → Exact
  | .nan _, _ => .nan
  | _, .nan _ => .nan
  | .infinity _, .infinity _ => .invalid
  | .infinity a, .finite _ b => .infinity (a != b) false
  | .finite _ a, .infinity b => .value (exactAt 0) (a != b)
  | .finite p a, .finite q b =>
    if q = 0 then (if p = 0 then .invalid else .infinity (a != b) true) else .value (exactAt (p / q)) (a != b)

/-- R96, R223: the square root of a number. -/
def rootOf : Number → Exact
  | .nan _ => .nan
  | .infinity n => if n then .invalid else .infinity false false
  | .finite p n => if p < 0 then .invalid else .value (exactRoot p) n

/-- R223: what each floating instruction comes to for the numbers of its operands, and whether an operand signals. -/
def floatArithmetic (rm : Nat) (a b c : Number) : Instr → Option (Exact × Bool)
  | .vaddFloat .. => some (sumOf rm a b, a.signals || b.signals)
  | .vsubFloat .. => some (sumOf rm a b.negated, a.signals || b.signals)
  | .vmulFloat .. => some (((productOf a b).map Number.exact).getD .invalid, a.signals || b.signals)
  | .vdiv .. => some (quotientOf a b, a.signals || b.signals)
  | .vfma .. => some (((productOf a b).map (fun p => sumOf rm p c)).getD .invalid, a.signals || b.signals || c.signals)
  | .vfms .. => some (((productOf a b).map (fun p => sumOf rm p c.negated)).getD .invalid, a.signals || b.signals || c.signals)
  | .vfnma .. => some (((productOf a b).map (fun p => sumOf rm p.negated c)).getD .invalid, a.signals || b.signals || c.signals)
  | .vsqrt .. => some (rootOf a, a.signals)
  | _ => none

/-- R80, R95, R96: the code and the flags that an operation gives in a format with NaNs. -/
def Gives (f rm sr : Nat) (x : Exact) (signals : Bool) (code : Nat) (flags : Flags7) : Prop :=
  match x with
  | .nan => code = fmtNan f ∧ flags = if signals then fNV else 0
  | .invalid => code = fmtNan f ∧ flags = fNV
  | .infinity neg byZero => code = signCode f neg + fmtInf f ∧ flags = if byZero then fDZ else 0
  | .value v zero => Rounded f rm sr zero v code flags

/-- R78, R82, R84: the number that a code of a format other than bfp16 stands for. -/
def codeNumber (f a : Nat) : Number :=
  let whole := fun (v : ℚ) => Number.finite v (decide (v < 0))
  if fmtIsInt f then whole ((if fmtSigned f then (BitVec.ofNat (fmtBits f) a).toInt else ((a % 2 ^ fmtBits f : Nat) : ℤ) : ℤ) : ℚ)
  else if f = 8 then whole (lnsRat a) else numberOf f a

/-- R78, R81, R82, R84, R86: the number that an element of a vtype stands for, with its block byte. -/
def elementNumber (vt : Word) (a scale : Nat) : Number :=
  let f := vtFmt vt
  let scaled := fun (n : Number) (k : ℤ) => match n with
    | .finite v s => .finite (v * 2 ^ k) s
    | n => n
  let whole := fun (v : ℚ) => Number.finite v (decide (v < 0))
  if f = 9 then scaled (whole ((BitVec.ofNat 16 a).toInt / 2 ^ 15)) (BitVec.ofNat 8 scale).toInt
  else
    let n := codeNumber f a
    if vtBlk vt = 0 then n else if scale = 255 then .nan false else scaled n ((scale : ℤ) - 127)

/-- R94, R96: the code of the largest magnitude of a sign in a format without infinity. -/
def largestMagnitude (f : Nat) (neg : Bool) : Nat :=
  if fmtIsInt f then
    (if fmtSigned f then (if neg then 2 ^ (fmtBits f - 1) else 2 ^ (fmtBits f - 1) - 1) else if neg then 0 else 2 ^ fmtBits f - 1)
  else if f = 8 then (if neg then 63 else 31) else signCode f neg + fmtMax f

/-- R94, R96, R85: the code and the flags of a number converted to a format other than bfp16, and whether its block loses its validity. -/
def Converted (f rm sr : Nat) (n : Number) (code : Nat) (flags : Flags7) (lost : Bool) : Prop :=
  match n with
  | .nan s =>
    if fmtFiniteOnly f then code = 0 ∧ flags = fNV ∧ lost = true else code = fmtNan f ∧ flags = (if s then fNV else 0) ∧ lost = false
  | .infinity neg =>
    lost = false ∧ (if fmtHasInf f then code = signCode f neg + fmtInf f ∧ flags = 0 else code = largestMagnitude f neg ∧ flags = fOF)
  | .finite v neg =>
    lost = false ∧ (if fmtIsInt f then RoundedInt f rm sr (exactAt v) code flags
      else if f = 8 then RoundedLns v code flags else Rounded f rm sr neg (exactAt v) code flags)

/-- R99: `group_sum` of products over a window of `w` bits, none standing for an invalid product: the f32 code and the flags. -/
def GroupSum (w : Nat) (ps : List (Option Number)) (code : Nat) (flags : Flags7) : Prop :=
  let bad := (∃ p ∈ ps, p = none ∨ ∃ s, p = some (.nan s)) ∨ (some (.infinity false) ∈ ps ∧ some (.infinity true) ∈ ps)
  let vs := ps.filterMap (fun p => match p with
    | some (.finite v _) => if v = 0 then none else some v
    | _ => none)
  (bad → code = fmtNan 0 ∧ flags = fNV)
    ∧ (¬ bad → ∀ neg, some (.infinity neg) ∈ ps → code = signCode 0 neg + fmtInf 0 ∧ flags = 0)
    ∧ (¬ bad → (∀ neg, some (.infinity neg) ∉ ps) → vs = [] → code = 0 ∧ flags = 0)
    ∧ (¬ bad → (∀ neg, some (.infinity neg) ∉ ps) → vs ≠ [] → ∃ u : ℤ,
        (∀ v ∈ vs, |v| < 2 ^ (u + w - 6)) ∧ (∃ v ∈ vs, 2 ^ (u + w - 7) ≤ |v|)
          ∧ let part := fun (v : ℚ) => if v < 0 then -⌊|v| / 2 ^ u⌋ else ⌊v / 2 ^ u⌋
            let sum : ℤ := (vs.map part).sum
            let sticky : ℚ := if ∃ v ∈ vs, (part v : ℚ) * 2 ^ u ≠ v then 1 / 2 else 0
            (sum = 0 → code = 0 ∧ flags = 0)
              ∧ (sum ≠ 0 → Rounded 0 0 0 false (exactAt ((sum + (if sum < 0 then -sticky else sticky)) * 2 ^ u)) code flags))

/-- R99, R242: groups summed and added in ascending order to an f32 accumulator. -/
def SummedGroups (w : Nat) : List (List (Option Number)) → Nat → Nat → Flags7 → Prop
  | [], acc, code, flags => code = acc ∧ flags = 0
  | g :: l, acc, code, flags => ∃ c cf a af rest, GroupSum w g c cf
      ∧ Gives 0 0 0 (sumOf 0 (numberOf 0 acc) (numberOf 0 c)) ((numberOf 0 acc).signals) a af
      ∧ SummedGroups w l a code rest ∧ flags = cf ||| af ||| rest

/-- R101: `exp2` of an f32 number. -/
def Exp2 (x : Number) (code : Nat) (flags : Flags7) : Prop :=
  match x with
  | .nan s => code = fmtNan 0 ∧ flags = if s then fNV else 0
  | .infinity neg => if neg then code = 0 ∧ flags = fUF ||| fNX else code = fmtInf 0 ∧ flags = 0
  | .finite v _ =>
    if v < -151 then code = 0 ∧ flags = fUF ||| fNX
    else if 128 ≤ v then code = fmtInf 0 ∧ flags = fOF ||| fNX
    else
      let n := ⌊v⌋
      let f := ⌊(v - n) * 2 ^ 24⌋.toNat
      let h := f / 2 ^ 16
      let d := f % 2 ^ 16
      let q : Nat := 2 ^ 32 + 0xB172 * d / 2 ^ 8 + 0x3D7F * d * d / 2 ^ 32
      ∃ (t : Nat) (m : ℤ) (fl : Flags7), ((t : ℚ) - 1 / 2) ^ 256 ≤ 2 ^ (h + 23 * 256) ∧ (2 : ℚ) ^ (h + 23 * 256) ≤ (t + 1 / 2) ^ 256
        ∧ selectedInt 0 0 (exactAt (t * q / 2 ^ 32)) m ∧ Rounded 0 0 0 false (exactAt (m * 2 ^ (n - 23))) code fl
        ∧ flags = if v = n ∧ -149 ≤ n ∧ n ≤ 127 then fl &&& ~~~ fNX else fl ||| fNX

/-- R235: a block of numbers converted to bfp16: the exponent byte, the mantissas and the flags; `bad` says that an element fails R209. -/
def BfpBlock (ns : List Number) (bad : Bool) (x : Nat) (ms : List ℤ) (flags : Flags7) : Prop :=
  let special := bad = true ∨ ∃ n ∈ ns, ∀ v s, n ≠ .finite v s
  let vs := ns.map (fun n => match n with | .finite v _ => v | _ => 0)
  let rounded := fun (k : ℤ) (l : List ℤ) => List.Forall₂ (fun v m => selectedInt 0 0 (exactAt (v * 2 ^ (15 - k))) m) vs l
  let inexact := fun (k : ℤ) (l : List ℤ) => ∃ j, j < vs.length ∧ (l.getD j 0 : ℚ) ≠ vs.getD j 0 * 2 ^ (15 - k)
  (special → x = 0x80 ∧ ms = ns.map (fun _ => 0)
      ∧ flags = (if ∃ s, Number.nan s ∈ ns then fNV else 0) ||| (if ∃ s, Number.infinity s ∈ ns then fOF else 0))
    ∧ (¬ special → (∀ v ∈ vs, v = 0) → x = 0 ∧ ms = ns.map (fun _ => 0) ∧ flags = 0)
    ∧ (¬ special → (∃ v ∈ vs, v ≠ 0) → ∃ (k0 k : ℤ) (l0 l : List ℤ),
        (∀ v ∈ vs, |v| < 2 ^ k0) ∧ -127 ≤ k0 ∧ (-127 < k0 → ∃ v ∈ vs, 2 ^ (k0 - 1) ≤ |v|)
          ∧ rounded k0 l0 ∧ k = (if 32768 ∈ l0 then k0 + 1 else k0) ∧ rounded k l
          ∧ (127 < k → x = 0x80 ∧ ms = ns.map (fun _ => 0) ∧ flags.getLsbD 2 = true)
          ∧ (k ≤ 127 → x = (k % 256).toNat ∧ ms = l ∧ (inexact k l → flags = if k = -127 then fNX ||| fUF else fNX)
              ∧ (¬ inexact k l → flags = 0)))

/-! ## Results of arrays, copies and near-memory commands -/

/-- The bits that raise a flag are those of the parts that raise it. -/
def flagsOf {ι : Type} (p : ι → Prop) (f : ι → Flags7) (fl : Flags7) : Prop :=
  ∀ b, b < 7 → (fl.getLsbD b = true ↔ ∃ j, p j ∧ (f j).getLsbD b = true)

/-- R224: the lesser or the greater (`up`) of two codes of a floating format. -/
def Extreme (f : Nat) (up : Bool) (a b code : Nat) (flags : Flags7) : Prop :=
  let x := numberOf f a
  let y := numberOf f b
  let nan := fun (n : Number) => ∃ s, n = .nan s
  let first := if up then numberBelow true y x else numberBelow true x y
  let second := if up then numberBelow true x y else numberBelow true y x
  (x.signals = true ∨ y.signals = true → flags = fNV) ∧ (x.signals = false → y.signals = false → flags = 0)
    ∧ (nan x → nan y → code = fmtNan f) ∧ (nan x → ¬ nan y → code = b) ∧ (¬ nan x → nan y → code = a)
    ∧ (¬ nan x → ¬ nan y → (code = a ∨ code = b) ∧ (first → code = a) ∧ (second → code = b))

/-- R96: a product rounded once. -/
def productExact (a b : Number) : Exact := ((productOf a b).map Number.exact).getD .invalid

/-- R96: a product and a sum rounded once, by RNE. -/
def fusedExact (a b c : Number) : Exact := ((productOf a b).map (fun p => sumOf 0 p c)).getD .invalid

/-! ### Accumulator tiles -/

/-- R399: cell `(i, j)` of a tile. -/
def tileCell (t : AccTile) (i j : Nat) : BitVec 64 := (tabGet 0 t.rows i).extractLsb' (64 * j) 64

/-- R411: FA_CONTEXT_EXECUTE, going on with the instruction at the head of the queue of a context, commits the row that it has come to and
leaves the array as in `u`. -/
structure CommitsRow (s : State) (c : Nat) (m : FaCmd) (u : State) : Prop where
  load : (ctx s c).load = none
  prog : (ctx s c).prog = none
  head : (ctx s c).queue.head? = some (.cmd m)
  ran : faRun c m s = .done u ∨ faRun c m s = .wait u
  row : (ctx u c).row = (ctx s c).row + 1

/-- R395: FA_CONTEXT_EXECUTE performs the instruction at the head of the queue of a context in one step and leaves the array as in `u`. -/
structure Performs (s : State) (c : Nat) (m : FaCmd) (u : State) : Prop where
  load : (ctx s c).load = none
  prog : (ctx s c).prog = none
  head : (ctx s c).queue.head? = some (.cmd m)
  ran : faRun c m s = .done u

/-- R400, R411: one step has committed row `i` of tile `k` under a type: each named cell and its flags satisfy a relation, the other cells
keep their values, or are zero when the type is new, and the flags are ORed. -/
def rowCommitted (s t : State) (c : Nat) (k ty : Fin 8) (i : Nat) (named : Nat → Prop) (cell : Nat → BitVec 64 → Flags7 → Prop) : Prop :=
  let a := accTile s c k
  let b := accTile t c k
  b.type = ty ∧ b.amax = a.amax ∧ (∀ k', k' ≠ k → accTile t c k' = accTile s c k')
    ∧ (∀ r j, j < 128 → (r ≠ i ∨ ¬ named j) → tileCell b r j = if a.type = ty then tileCell a r j else 0)
    ∧ ∃ f : Nat → Flags7, (∀ j, j < 128 → named j → cell j (tileCell b i j) (f j))
        ∧ ∃ fl, flagsOf (fun j => j < 128 ∧ named j) f fl ∧ b.flags = a.flags ||| fl

/-- R100: an exact sum kept within 64 bits, with SAT when it does not fit. -/
def Saturated (z : ℤ) (y : BitVec 64) (fl : Flags7) : Prop :=
  y.toInt = max (-(2 ^ 63)) (min (2 ^ 63 - 1) z) ∧ fl = if -(2 ^ 63) ≤ z ∧ z ≤ 2 ^ 63 - 1 then 0 else fSAT

/-- R399: a cell that holds an f32 code. -/
def FloatCell (y : BitVec 64) (p : Nat → Prop) : Prop := ∃ c, c < 2 ^ 32 ∧ y = BitVec.ofNat 64 c ∧ p c

/-- R399: a B cell from its exponent byte and its mantissa. -/
def blockCell (e : BitVec 8) (m : BitVec 16) : BitVec 64 := (e ++ m).setWidth 64

/-- R87: an exponent and a mantissa under the limits of an exponent. -/
def Limited (x : ℤ) (m : BitVec 16) (y : BitVec 64) (fl : Flags7) : Prop :=
  if 127 < x then y = blockCell 0x80 0 ∧ fl = fOF
  else if x < -127 then y = blockCell 0x81 0 ∧ fl = fUF
  else y = blockCell (BitVec.ofInt 8 x) m ∧ fl = 0

/-- R420: the cell that a pointwise instruction leaves where a cell held `x`: `ty` is the type it works in, `p` the modulus, `v` the entry's
element, `xw` its exponent, `a` the scalar operand. -/
def PointwiseCell (ty : Fin 8) (p v : Nat) (xw : ℤ) (a : Word) (x y : BitVec 64) (fl : Flags7) : Instr → Prop
  | .faPwTwid .. =>
    let n := numberOf 0 (x.toNat % 2 ^ 32)
    if ty = tyF then FloatCell y (fun c => Gives 0 0 0 (productExact n (numberOf 0 v)) (n.signals || (numberOf 0 v).signals) c fl)
    else if ty = tyR then fl = 0 ∧ (x.toNat * v < 2 ^ 62 → 0 < p → y.toNat = x.toNat * v % p)
    else
      fl = 0 ∧ (if x.extractLsb' 16 8 = 0x80 then y = (0x8000 : BitVec 16) ++ (0 : BitVec 48)
        else y = BitVec.ofInt 16 ((x.extractLsb' 16 8).toInt + xw) ++ BitVec.ofInt 48 ((x.extractLsb' 0 16).toInt * (BitVec.ofNat 16 v).toInt))
  | .faPwScale .. =>
    let n := numberOf 0 (x.toNat % 2 ^ 32)
    let b := numberOf 0 (a.toNat % 2 ^ 32)
    if ty = tyF then FloatCell y (fun c => Gives 0 0 0 (productExact n b) (n.signals || b.signals) c fl)
    else if ty = tyI then Saturated (x.toInt * a.toInt) y fl
    else if ty = tyR then fl = 0 ∧ (x.toNat < 2 ^ 31 → 0 < p → y.toNat = x.toNat * (a.toNat % p) % p)
    else if x.extractLsb' 16 8 = 0x80 then y = blockCell 0x80 0 ∧ fl = 0
    else Limited ((x.extractLsb' 16 8).toInt + (a.extractLsb' 0 8).toInt) (x.extractLsb' 0 16) y fl
  | .faPwAdd .. =>
    let n := numberOf 0 (x.toNat % 2 ^ 32)
    if ty = tyF then FloatCell y (fun c => Gives 0 0 0 (sumOf 0 n (numberOf 0 v)) (n.signals || (numberOf 0 v).signals) c fl)
    else if ty = tyI then Saturated (x.toInt + (BitVec.ofNat 32 v).toInt) y fl
    else fl = 0 ∧ (x.toNat + v < 2 ^ 62 → 0 < p → y.toNat = (x.toNat + v) % p)
  | .faPwRelu .. =>
    if ty = tyF then FloatCell y (fun c => Extreme 0 true (x.toNat % 2 ^ 32) 0 c fl)
    else if ty = tyI then fl = 0 ∧ y.toInt = max x.toInt 0
    else fl = 0 ∧ y = blockCell (x.extractLsb' 16 8) (if (x.extractLsb' 0 16).toInt < 0 then 0 else x.extractLsb' 0 16)
  | .faPwExp2 .. => FloatCell y (fun c => Exp2 (numberOf 0 (x.toNat % 2 ^ 32)) c fl)
  | .faPwModred .. => fl = 0 ∧ (0 < p → (y.toNat : ℤ) = x.toInt % p)
  | _ => False

/-- R420: the tile of a pointwise instruction, whether it names an entry, and the type it leaves for the type it works in. -/
def pointwise (ty : Fin 8) : Instr → Option (Fin 8 × Option (Fin 8) × Fin 8)
  | .faPwTwid e k => some (k, some e, if ty = tyB then tyP else ty)
  | .faPwScale _ k => some (k, none, ty)
  | .faPwAdd e k => some (k, some e, ty)
  | .faPwRelu k => some (k, none, ty)
  | .faPwExp2 k => some (k, none, tyF)
  | .faPwModred k => some (k, none, tyR)
  | _ => none

/-- R420: the type in which an entry's format has a Z tile work. -/
def entryType (f : Nat) : Fin 8 := if f = 0 then tyF else if f = 12 then tyI else if f = 16 then tyR else tyB

/-- R404, R405: bits of the image of a configuration from a byte of the data of an entry. -/
def imageBits (b : Bank) (e byte bit w : Nat) : Nat := b.data / 2 ^ (8 * (32 * bitsOf e 47 32 + byte) + bit) % 2 ^ w

/-- R402: bytes rounded up to a multiple of 32. -/
def padded (n : Nat) : Nat := (n + 31) / 32 * 32

/-- R405, R81: the code of weight `(k, j)` of a KIND 1 entry and its scale code, 127 where it has none. -/
def weightAt (b : Bank) (e k j : Nat) : Nat × Nat :=
  let w := fmtBits (bitsOf e 8 4)
  let n := blkLen (bitsOf e 11 9)
  let own := n ≠ 0 ∧ e.testBit 12 = false
  let row := padded (16 * w + if own then (128 + n - 1) / n else 0)
  (imageBits b e (k * row) (w * j) w,
    if n = 0 then 127 else if e.testBit 12 then imageBits b e ((bitsOf e 23 16 + 1) * row + 128 * (k / n) + j) 0 8 else imageBits b e (k * row + 16 * w + j / n) 0 8)

/-- R81, R412: the number of a code under a scale code. -/
def scaledNumber (f : Nat) (p : Nat × Nat) : Number :=
  if p.2 = 255 then .nan false
  else
    match codeNumber f p.1 with
    | .finite v s => .finite (v * 2 ^ ((p.2 : ℤ) - 127)) s
    | n => n

/-- R84: terms added to a 64-bit sum in order, each addition kept in range, and whether one was not. -/
def clampedSum (l : List ℤ) (x : ℤ) : ℤ × Bool :=
  l.foldl (fun a t => let z := max (-(2 ^ 63)) (min (2 ^ 63 - 1) (a.1 + t)); (z, a.2 || z != a.1 + t)) (x, false)

/-- R412: a cell of a product: the operands of each index (none where a sparse row has no value) with their weights, the old cell, and
the new one. -/
def DenseCell (f : Nat) (float : Bool) (win : Nat) (ps : List (Option (Nat × Nat) × (Nat × Nat))) (x y : BitVec 64) (fl : Flags7) : Prop :=
  if float then
    let terms := fun (g : Nat) => ((ps.drop (32 * g)).take 32).map (fun p => match p.1 with
      | some a => productOf (scaledNumber f a) (scaledNumber f p.2)
      | none => some (.finite 0 false))
    FloatCell y (fun c => SummedGroups win ((List.range ((ps.length + 31) / 32)).map terms) (x.toNat % 2 ^ 32) c fl)
  else if f = 8 then
    let codes := ps.map (fun p => match p.1 with | some a => lnsMul a.1 p.2.1 | none => (0, 0))
    let r := clampedSum (codes.map (fun q => ⌊lnsRat q.1 * 2 ^ 28⌋)) x.toInt
    y.toInt = r.1 ∧ flagsOf (fun q => q ∈ (0, if r.2 then fSAT else 0) :: codes) (fun q => q.2) fl
  else Saturated (x.toInt + (ps.map (fun p => match p.1 with
    | some a => (BitVec.ofNat (fmtBits f) a.1).toInt * (BitVec.ofNat (fmtBits f) p.2.1).toInt
    | none => 0)).sum) y fl

/-- R415: the column that point `p` of a row of `len` points has under the stride `2^k`. -/
def strideOf (len k p : Nat) : Nat := p % (len / 2 ^ k) * 2 ^ k + p / (len / 2 ^ k)

/-- R415: the point of a row of `len` points whose column under the stride `2^k` is `j`. -/
def pointOf (len k j : Nat) : Nat := j % 2 ^ k * (len / 2 ^ k) + j / 2 ^ k

/-- R404: the directory word of an entry of the live bank. -/
def bankEntry (b : Bank) (e : Nat) : Nat := bitsOf b.data (256 * e + 255) (256 * e)

/-- R402, R410: where the operand rows of a product or a stage come from. -/
def operandOf (c : Nat) (m : FaCmd) (pitch : Nat) : Opnd := if m.c0.getLsbD 4 then .treg (bitsOf m.c0.toNat 7 5) else opndOf c m.a0 m.a1 pitch

/-- R412: `fa.dense` and `fa.sparse` work in floats. -/
def floatProduct (f ablk blk : Nat) : Bool := f != 8 && (!(f == 10 || f == 18) || ablk != 0 || blk != 0)

/-- R412: the type of a product. -/
def productType (f ablk blk : Nat) : Fin 8 := if floatProduct f ablk blk then tyF else if f = 8 then tyL else tyI

/-- R413: the window of a product or a stage. -/
def productWindow (ablk e : Nat) : Nat :=
  if (ablk = 0 ∨ blkLen ablk = 32 ∨ blkLen ablk = 64)
      ∧ (bitsOf e 11 9 = 0 ∨ (e.testBit 12 = true ∧ (blkLen (bitsOf e 11 9) = 32 ∨ blkLen (bitsOf e 11 9) = 64))) then 64 else 96

/-- R405, R415: weight `(t, u)` of the block of a stage that output block `q` uses, with blocks of `n` points. -/
def stageWeight (b : Bank) (e n q t u : Nat) : Nat :=
  let w := fmtBits (bitsOf e 8 4)
  imageBits b e (q % (bitsOf e 31 24 + 1) * padded ((n * n * w + 7) / 8)) (w * (t * n + u)) w

/-- R88, R90, R87: a block of exact sums normalised from an exponent, by a static growth or the measured one: its exponent byte, mantissas
and flags. -/
def Normalised (grow : Option Nat) (x : ℤ) (acc : List ℤ) (e : BitVec 8) (ms : List ℤ) (fl : Flags7) : Prop :=
  let rounded := fun (g : ℤ) (l : List ℤ) => List.Forall₂ (fun a m => selectedInt 0 0 (exactAt (a / 2 ^ (15 + g))) m) acc l
  let inexact := fun (g : ℤ) (l : List ℤ) => ∃ j, j < acc.length ∧ (l.getD j 0 : ℚ) ≠ acc.getD j 0 / 2 ^ (15 + g)
  ∃ (g : ℤ) (l : List ℤ) (f : Flags7),
    (match grow with
      | some n => g = n ∧ ∃ r, rounded g r ∧ l = r.map (fun m => max (-32768) (min 32767 m))
          ∧ f = (if ∃ m ∈ r, m < -32768 ∨ 32767 < m then fSAT else 0) ||| (if inexact g l then fNX else 0)
      | none =>
        ((∀ a ∈ acc, a = 0) → g = 0 ∧ l = acc.map (fun _ => 0) ∧ f = 0)
          ∧ ((∃ a ∈ acc, a ≠ 0) → ∃ (n : Nat) (l0 : List ℤ),
              (∀ a ∈ acc, (if 0 ≤ a then a else -a - 1) < 2 ^ (n + 1)) ∧ (n = 0 ∨ ∃ a ∈ acc, 2 ^ n ≤ (if 0 ≤ a then a else -a - 1))
                ∧ rounded (n - 29) l0 ∧ g = (if 32768 ∈ l0 then (n : ℤ) - 28 else n - 29) ∧ rounded g l
                ∧ f = if inexact g l then fNX else 0))
      ∧ (if 127 < x + g then e = 0x80 ∧ ms = acc.map (fun _ => 0) ∧ fl = f ||| fOF
        else if x + g < -127 then e = 0x81 ∧ ms = acc.map (fun _ => 0) ∧ fl = f ||| fUF
        else e = BitVec.ofInt 8 (x + g) ∧ ms = l ∧ fl = f)

/-- R424: the number that a cell of a tile of a type stands for when it is drained. -/
def cellNumber (ty : Fin 8) (x : BitVec 64) : Number :=
  let whole := fun (v : ℚ) => Number.finite v (decide (v < 0))
  if ty = tyF then numberOf 0 (x.toNat % 2 ^ 32)
  else if ty = tyI then whole x.toInt
  else if ty = tyR then whole (x.toNat % 2 ^ 31 : Nat)
  else if ty = tyL then whole (x.toInt / 2 ^ 28)
  else if ty = tyB then
    (if x.extractLsb' 16 8 = 0x80 then .nan true else whole ((x.extractLsb' 0 16).toInt / 2 ^ 15 * 2 ^ (x.extractLsb' 16 8).toInt))
  else .finite 0 false

/-! ### Copies and collectives -/

/-- Bytes that lie at places, as a little-endian number: `k` of them from offset `o`. -/
def numberAt (s : State) (place : Nat → Nat) (o k : Nat) : Nat :=
  (List.range k).foldr (fun j v => (readByte s (place (o + j))).toNat + 256 * v) 0

/-- R169, R280, R316, R320: a byte that an engine reaches by translation: the leaf, the physical address under a rotation code on the
device that a group table names, in ordinary memory at its home, on a page that is not checked. -/
structure CopyReaches (s : State) (w : Who) (rd wr : Bool) (code : Nat) (dev : Option Nat) (ea : Word) (p : Word) (pa : Nat) : Prop where
  low : ea.toNat < 2 ^ 57
  leaf : leafOf s w.tlbs w.die w.iss.asid ea.toNat = some p
  place : pa = rotAddr code (onDevice dev (physOf p ea.toNat))
  allowed : (rd = true → pteRd p = true) ∧ (wr = true → pteWr p = true)
  reached : reachFor s w.die w.path wr p pa = none
  single : pteMc p = false
  sound : ptePsn p = false
  owned : wr = true → pteCow p = false ∧ snapHeld s w.die w.iss.asid ea.toNat = false
  memory : isMemory pa
  home : homeReached s w pa
  unchecked : pteChk p = false
  clean : rd = true → poisoned s pa 1 = false
  here : wr = true → storedHere w p pa

/-- R320: `n` bytes at addresses lie at places that an engine reaches, whatever is stored to the bytes that a predicate names. -/
def CopyReachesAll (s : State) (w : Who) (rd wr : Bool) (code : Nat) (dev : Option Nat) (n : Nat) (at_ : Nat → Word) (place : Nat → Nat)
    (touched : Nat → Prop) : Prop :=
  ∀ m : List Host.Cell, (∀ a, ¬ touched a → cellGet m a = readByte s a) →
    ∀ j, j < n → ∃ p, CopyReaches { s with mem := m } w rd wr code dev (at_ j) p (place j)

/-- R308, R320: the `n` destination bytes of a transfer: through translation, or in a tile on the engine's own device into which nothing
arrives in error. `rd` says that they are read as well. -/
structure CopyDestination (s : State) (w : Who) (rd : Bool) (tile : Option (Nat × Nat)) (code : Nat) (dev : Option Nat) (n : Nat)
    (at_ : Nat → Word) (place : Nat → Nat) : Prop where
  apart : ∀ i j, i < n → j < n → place i = place j → i = j
  quiet : ∀ j, j < n → QuietBytes s (place j) 1
  reached : match tile with
    | none => CopyReachesAll s w rd true code dev n at_ place (fun a => ∃ j, j < n ∧ place j = a)
    | some (ck, t) => devOfDie (ck / 16) = devOfDie w.die ∧ tileBase (tileEntry s ck t) % 32 = 0 ∧ ∀ j, j < n →
        place j = tileByte s ck t code (at_ j) ∧ (rd = true → poisoned s (place j) 1 = false)
          ∧ s.latent.contains (2 ^ 47 + place j / 64) = false ∧ (place j < tileAddr ck t ∨ tileAddr ck t + 32 ≤ place j)

/-- R312: one element of `reduce`: the sum (0), the lesser (1) or the greater (2) of two codes of f32 (0), bf16 (1) or i32 (3), the
left operand first. -/
def ReducedElement (op t p q r : Nat) (fl : Flags7) : Prop :=
  if t = 3 then
    let a := BitVec.ofNat 32 p
    let b := BitVec.ofNat 32 q
    fl = 0 ∧ r = (if op = 0 then a + b else if (if op = 1 then b.slt a else a.slt b) then b else a).toNat
  else if op = 0 then Gives t 0 0 (sumOf 0 (numberOf t p) (numberOf t q)) ((numberOf t p).signals || (numberOf t q).signals) r fl
  else Extreme t (op == 2) p q r fl

/-- R312: one bfp16 block of `reduce`, as a number of 96 bytes. -/
def ReducedBlock (op p q r : Nat) (fl : Flags7) : Prop :=
  let exponent := fun (b : Nat) => BitVec.ofNat 8 (b / 2 ^ 512)
  let value := fun (b j : Nat) => ((BitVec.ofNat 16 (b / 2 ^ (16 * j))).toInt : ℚ) / 2 ^ 15 * 2 ^ (exponent b).toInt
  let made := fun (j : Nat) => let a := value p j; let b := value q j; if op = 0 then a + b else if op = 1 then min a b else max a b
  if exponent p = 0x80 ∨ exponent q = 0x80 then r = 0x80 * 2 ^ 512 ∧ fl = 0
  else ∃ x ms, BfpBlock ((List.range 32).map (fun j => Number.finite (made j) (decide (made j < 0)))) false x ms fl
    ∧ r < 2 ^ 520 ∧ exponent r = BitVec.ofNat 8 x ∧ ∀ j, j < 32 → BitVec.ofNat 16 (r / 2 ^ (16 * j)) = BitVec.ofInt 16 (ms.getD j 0)

/-- R312: `reduce` over `n` bytes, each operand given by its bytes from an offset as a number. -/
def ReducedRow (op t n : Nat) (p q r : Nat → Nat → Nat) (fl : Flags7) : Prop :=
  let k := if t = 2 then 96 else if t = 1 then 2 else 4
  ∃ f : Nat → Flags7, flagsOf (fun j => k * (j + 1) ≤ n) f fl ∧ ∀ j, k * (j + 1) ≤ n →
    if t = 2 then ReducedBlock op (p (k * j) k) (q (k * j) k) (r (k * j) k) (f j)
    else ReducedElement op t (p (k * j) k) (q (k * j) k) (r (k * j) k) (f j)

/-- R312: `reduce` of two numbers of `n` bytes. -/
def Reduced (op t n p q r : Nat) (fl : Flags7) : Prop :=
  r < 256 ^ n ∧ ReducedRow op t n (sliceOf p) (sliceOf q) (sliceOf r) fl

/-- R306, R309, R311, R312: what a transfer of `n` source bytes leaves: `a` is the source, `b` the second stream, `old` and `new` the
destination before and after, each given by its bytes from an offset as a number. -/
def RowCopied (c : CopyCmd) (n : Nat) (a b old new : Nat → Nat → Nat) (fl : Flags7) : Prop :=
  match cpOp c with
  | 2 =>
    let ws := fmtBits (cpSfmt c) / 8
    let wt := fmtBits (cpDfmt c) / 8
    ∃ f : Nat → Flags7, flagsOf (fun j => j < n / ws) f fl
      ∧ ∀ j, j < n / ws → ∃ lost, Converted (cpDfmt c) 0 0 (codeNumber (cpSfmt c) (a (ws * j) ws)) (new (wt * j) wt) (f j) lost
  | 3 => ReducedRow (cpRop c) (cpRty c) n old a new fl
  | 4 => ReducedRow (cpRop c) (cpRty c) n a b new fl
  | _ => fl = 0 ∧ ∀ j, j < n → new j 1 = a j 1

/-- Bytes stored at places: every other byte of memory is as before. -/
def OnlyAt (s t : State) (n : Nat) (place : Nat → Nat) : Prop := ∀ a, (∀ j, j < n → place j ≠ a) → readByte t a = readByte s a

/-- R304: flags of a command are those of its thread. -/
def threadFlags (s t : State) (i : Issuer) (fl : Flags7) : Prop :=
  (thr s i.thread).bind = i.bind → (thr t i.thread).aflags = (thr s i.thread).aflags ||| fl

/-- R325: values reduced from the left. -/
def ReducedInOrder (op t n : Nat) : Nat → List Nat → Nat → Flags7 → Prop
  | a, [], r, fl => r = a ∧ fl = 0
  | a, v :: l, r, fl => ∃ b f g, Reduced op t n a v b f ∧ ReducedInOrder op t n b l r g ∧ fl = f ||| g

/-- R325: one level of the fixed tree: pairs of neighbours are reduced, and an unpaired value goes up as it is. -/
def ReducedPairs (op t n : Nat) : List Nat → List Nat → Flags7 → Prop
  | a :: b :: l, out, fl => ∃ v rest f g, Reduced op t n a b v f ∧ ReducedPairs op t n l rest g ∧ out = v :: rest ∧ fl = f ||| g
  | l, out, fl => out = l ∧ fl = 0

/-- R325: the fixed tree of `tm`, with at most `k` levels. -/
def ReducedTree (op t n : Nat) : Nat → List Nat → Nat → Flags7 → Prop
  | 0, l, r, fl => r = l.headD 0 ∧ fl = 0
  | k + 1, l, r, fl =>
    if l.length ≤ 1 then r = l.headD 0 ∧ fl = 0
    else ∃ up f g, ReducedPairs op t n l up f ∧ ReducedTree op t n k up r g ∧ fl = f ||| g

/-- R325 code 2: the value of member `m` after `j` steps; at each step the partner differs in one bit and the lower member's value is the
left operand. -/
def ReducedHalving (op t n : Nat) (vals : List Nat) : Nat → Nat → Nat → Flags7 → Prop
  | 0, m, r, fl => r = vals.getD m 0 ∧ fl = 0
  | j + 1, m, r, fl =>
    let q := m ^^^ 2 ^ j
    ∃ a b f g h, ReducedHalving op t n vals j (min m q) a f ∧ ReducedHalving op t n vals j (max m q) b g ∧ Reduced op t n a b r h
      ∧ fl = f ||| g ||| h

/-- R325: a unit of part `k` reduced over the members by an algorithm: 0 ring, 1 tree, 2 halving and doubling, 3 direct. -/
def ReducedUnit (alg op t n : Nat) (vals : List Nat) (k r : Nat) (fl : Flags7) : Prop :=
  let m := vals.length
  match alg with
  | 0 => ReducedInOrder op t n (vals.getD ((k + 1) % m) 0) ((List.range (m - 1)).map (fun i => vals.getD ((k + 2 + i) % m) 0)) r fl
  | 1 => ReducedTree op t n 9 vals r fl
  | 2 => ReducedHalving op t n vals (Nat.log2 m) k r fl
  | _ => ReducedInOrder op t n (vals.headD 0) vals.tail r fl

/-- R325: the algorithm that a code stands for: a code that is not accepted for the kind acts as direct exchange. -/
def algorithmOf (kind code n : Nat) : Nat :=
  if kind = 5 then 1
  else if (code = 0) ∨ (code = 1 ∧ (kind = 0 ∨ kind = 4)) ∨ (code = 2 ∧ kind ≤ 2 ∧ ∃ j, j ≤ 8 ∧ n = 2 ^ j) then code else 3

/-- R323: the bytes of the destination of a member from the bytes of every member's source, each given by its bytes from an offset as a
number. -/
def Collected (c : CopyCmd) (code : Nat) (val : Nat → Nat → Nat → Nat) (new : Nat → Nat → Nat) (fl : Flags7) : Prop :=
  let n := collN c
  let sz := collS c
  let unit := if collRty c = 2 then 96 else 32
  let reduced := fun (from_ len : Nat) (part : Nat → Nat) => ∃ f : Nat → Flags7, flagsOf (fun u => unit * (u + 1) ≤ len) f fl
    ∧ ∀ u, unit * (u + 1) ≤ len →
      ReducedUnit (algorithmOf (collKind c) code n) (collRop c) (collRty c) unit ((List.range n).map (fun m => val m (from_ + unit * u) unit))
        (part u) (new (unit * u) unit) (f u)
  match collKind c with
  | 1 => reduced (collMe c * (sz / n)) (sz / n) (fun _ => collMe c)
  | 2 => fl = 0 ∧ ∀ m j, m < n → j < sz → new (m * sz + j) 1 = val m j 1
  | 3 => fl = 0 ∧ ∀ m j, m < n → j < sz / n → new (m * (sz / n) + j) 1 = val m (collMe c * (sz / n) + j) 1
  | 4 => fl = 0 ∧ ∀ j, j < sz → new j 1 = val (collRoot c) j 1
  | _ => reduced 0 sz (fun u => u * n / (sz / unit))

/-! ### Near-memory commands -/

/-- R107, R455, R460: an access of an engine of a stack reaches `n` bytes of one granule in a place of a kind: its translation and checks pass,
on a page that is not checked. -/
structure NearReaches (s : State) (w : Who) (kind : Place → Bool) (rd wr : Bool) (n : Nat) (ea : Word) (p : Word) (pa : Nat) : Prop where
  found : Reaches s w rd wr 1 ea p pa
  place : kind (placeOf pa) = true
  normal : pteDev p = false
  still : wr = true → copyBusy s w.die w.iss.asid ea.toNat = false
  unchecked : pteChk p = false
  clean : rd = true → poisoned s pa n = false
  within : pa % 64 + n ≤ 64

/-- R451, R455: bytes of a source lie at places that an engine of a stack reaches. -/
def NearSource (s : State) (w : Who) (ea : Word) (n : Nat) (place : Nat → Nat) : Prop :=
  ∀ j, j < n → ∃ p, NearReaches s w inStack true false 1 (ea + BitVec.ofNat 64 j) p (place j)

/-- R455: an element of `nm.sgdf`, `nm.axpy` or `nm.scale` from its destination `y` and source `x`. -/
def NearElement (c : NmCmd) (y x r : Nat) (fl : Flags7) : Prop :=
  let f := bitsOf c.a1.toNat 28 24
  let num := numberOf f
  let single := fun (v : Nat) => numberOf 0 (v % 2 ^ 32)
  match c.op with
  | 0 =>
    let h := single (c.coef / 2 ^ 32)
    let k := single c.coef
    ∃ t f1 f2, Gives 0 0 0 (productExact h (num x)) (h.signals || (num x).signals) t f1
      ∧ Gives f 0 0 (fusedExact (num y) k (single t).negated) ((num y).signals || k.signals || (single t).signals) r f2 ∧ fl = f1 ||| f2
  | 1 =>
    let a := single c.b1.toNat
    Gives f 0 0 (fusedExact a (num x) (num y)) (a.signals || (num x).signals || (num y).signals) r fl
  | _ =>
    let a := single c.b1.toNat
    Gives f 0 0 (productExact a (num y)) (a.signals || (num y).signals) r fl

/-- R456: the coefficients of `nm.sgdf`: `f` below `h`, for the factor `k` with its flags. -/
def Coefficients (c : NmCmd) (k : Nat) (g : Flags7) (coef : Nat) (fl : Flags7) : Prop :=
  let eta := numberOf 0 (c.b1.toNat % 2 ^ 32)
  let lambda := numberOf 0 (c.b1.toNat / 2 ^ 32)
  ∃ p f h fp ff fh, p < 2 ^ 32 ∧ f < 2 ^ 32 ∧ h < 2 ^ 32
    ∧ Gives 0 0 0 (productExact eta lambda) (eta.signals || lambda.signals) p fp
    ∧ Gives 0 0 0 (sumOf 0 (.finite 1 false) (numberOf 0 p).negated) false f ff
    ∧ Gives 0 0 0 (productExact eta (numberOf 0 k)) (eta.signals || (numberOf 0 k).signals) h fh
    ∧ coef = f + 2 ^ 32 * h ∧ fl = fp ||| ff ||| g ||| fh

/-- R456: the factor `c` from the gate word `q` and the threshold `t`: none for cause 0x82. -/
def GateFactor (q t : Nat) (k : Nat) (g : Flags7) : Prop :=
  let one := 0x3F800000
  match numberOf 0 q, numberOf 0 t with
  | .infinity false, .finite tv _ => 0 < tv ∧ k = 0 ∧ g = 0
  | .finite qv _, .finite tv _ => 0 < tv ∧ 0 ≤ qv
      ∧ (qv ≤ tv * tv → k = one ∧ g = 0)
      ∧ (tv * tv < qv → ∃ r f1 f2, Gives 0 0 0 (rootOf (numberOf 0 q)) false r f1
          ∧ Gives 0 0 0 (quotientOf (numberOf 0 t) (numberOf 0 r)) false k f2 ∧ g = f1 ||| f2)
  | _, _ => False

/-- R455: the records of a granule of `nm.scatadd`, applied in order to the element of one index. -/
def Scattered (f i : Nat) : List (Nat × Nat) → Nat → Nat → Flags7 → Prop
  | [], y, r, fl => r = y ∧ fl = 0
  | a :: l, y, r, fl =>
    if a.1 = i then
      (if f = 12 then Scattered f i l ((y + a.2) % 2 ^ 32) r fl
      else ∃ z g h, Gives 0 0 0 (sumOf 0 (numberOf 0 y) (numberOf 0 a.2)) ((numberOf 0 y).signals || (numberOf 0 a.2).signals) z g
        ∧ Scattered f i l z r h ∧ fl = g ||| h)
    else Scattered f i l y r fl

/-- R295, R296: two integers of `n` bits combined: 0 the sum, 1 the difference, 2 the product, 3 the lesser, else the greater; the
old one stays where they are equal. -/
def bankPair (signed : Bool) (f : Nat) {n : Nat} (o v : BitVec n) : BitVec n :=
  match f with
  | 0 => o + v
  | 1 => o - v
  | 2 => o * v
  | 3 => if (if signed then v.slt o else v.ult o) then v else o
  | _ => if (if signed then o.slt v else o.ult v) then v else o

/-! ## Commands -/

/-- R62, R395: what each array instruction that needs no record and fills no queue puts into its command: its operand registers
as they are at issue, and the tile registers that it will read. -/
def arrayOperands (s : State) : Instr → Option (FaCmd → FaCmd)
  | .faStageFloat p c _ _ _ => some (pairOperands s p c)
  | .faStageBfp16 p c _ _ _ => some (pairOperands s p c)
  | .faStageMod p c _ _ _ => some (pairOperands s p c)
  | .faDense p c _ _ => some (pairOperands s p c)
  | .faSparse p c _ _ => some (fun m => { pairOperands s p c m with tileRegs := [] })
  | .faPwTwid _ _ => some id
  | .faPwScale a _ => some (fun m => { m with a0 := x s a })
  | .faPwAdd _ _ => some id
  | .faPwRelu _ => some id
  | .faPwExp2 _ => some id
  | .faPwModred _ => some id
  | .faBfpStatic a _ => some (fun m => { m with a0 := x s a })
  | .faBfpMeas _ => some id
  | .faZero a => some (fun m => { m with a0 := x s a })
  | .faModset a => some (fun m => { m with a0 := x s a })
  | .faCrt a _ _ => some (fun m => { m with a0 := x s a })
  | .vpmerge p c _ => some (fun m => { m with a0 := x s (pairLo p), a1 := x s (pairHi p), c0 := x s c })
  | .faDrain p t none => some (fun m => { m with a0 := x s (pairLo p), a1 := x s (pairHi p), tokens := sameTokens (x s t) })
  | _ => none
where
  /-- R410: the operand pair and the control pair, with the tile registers that the control names. -/
  pairOperands (s : State) (p c : Fin 16) (m : FaCmd) : FaCmd :=
    { m with a0 := x s (pairLo p), a1 := x s (pairHi p), c0 := x s (pairLo c), c1 := x s (pairHi c),
             tileRegs := tsrcRegs (coreOfThread m.iss.thread) (x s (pairLo c)) s }

/-- R432: the instructions of projections whose record a register names. -/
def projection : Instr → Option (Fin 32)
  | .vproj a _ => some a
  | .vprojThresh a _ => some a
  | .vprojBwd a _ => some a
  | _ => none

/-- A command of the thread of a slot as it is issued, before its operands. -/
def plainCommand (s : State) (k : Nat) (i : Instr) : FaCmd :=
  { iss := issuerNow s k (pcOf s), serial := s.serial, instr := i, a0 := 0, a1 := 0, c0 := 0, c1 := 0, tokens := 0, tileRegs := [],
    routes := [], record := 0, bad := none }

/-- The command joins the queue of the context of its thread's core, the thread goes on, and nothing else changes, beside what the
read of a record leaves on its way. -/
def commandQueued (s : State) (k : Nat) (i : Instr) (cmd : FaCmd) : Prop :=
  ∃ t, exec i s = .next t ∧ regsSame s t ∧ wentOn s t ∧ ctx t (k / 4) = { ctx s (k / 4) with queue := (ctx s (k / 4)).queue ++ [.cmd cmd] }
    ∧ (∀ c, c ≠ k / 4 → ctx t c = ctx s c) ∧ OnlySeq s { accessed t s with ctxs := s.ctxs, serial := s.serial }

/-- R306: the copy instructions: their code, operand pairs, second source and completion barrier; s0 names no barrier, and for
`cp.red2` the value 0 (log entry 51). -/
def copyForm (s : State) : Instr → Option (Nat × Fin 16 × Fin 16 × Word × Option Word)
  | .cp a b k => some (0x00, a, b, 0, if k = 0 then none else some (x s k))
  | .cpTr a b k => some (0x10, a, b, 0, if k = 0 then none else some (x s k))
  | .cpCvt a b k => some (0x20, a, b, 0, if k = 0 then none else some (x s k))
  | .cpRed a b k rop rty => some (0x30 + 4 * rop.val + rty.val, a, b, 0, if k = 0 then none else some (x s k))
  | .cpRed2 a b k rop rty =>
    some (0x40 + 4 * rop.val + rty.val, a, b, x s (pairLo k), if x s (pairHi k) = 0 then none else some (x s (pairHi k)))
  | _ => none

/-- R314, R321: the copy instructions whose register names a record: the kind, whether collective, and the register. -/
def recordForm : Instr → Option (Nat × Bool × Fin 32)
  | .cpNest a => some (1, false, a)
  | .collAr a fp8 => some (0 + 8 * fp8.toNat, true, a)
  | .collRs a fp8 => some (1 + 8 * fp8.toNat, true, a)
  | .collAg a fp8 => some (2 + 8 * fp8.toNat, true, a)
  | .collA2a a fp8 => some (3 + 8 * fp8.toNat, true, a)
  | .collBc a fp8 => some (4 + 8 * fp8.toNat, true, a)
  | .collTm a fp8 => some (5 + 8 * fp8.toNat, true, a)
  | _ => none

/-- A copy command of the thread of a slot as it is issued, with nothing of it done. -/
def freshCopy (s : State) (k kind fn : Nat) : CopyCmd :=
  { iss := issuerNow s k (pcOf s), serial := s.serial, prog := none, kind := kind, fn := fn, src := 0, sctl := 0, dst := 0, dctl := 0,
    second := 0, bar := none, record := 0, gtab := [], bad := none, started := false, idx := [0, 0, 0, 0], gran := 0, flags := 0,
    part := 0, done := 0, sent := [], lost := none, feed := [], stop := none }

/-- R302: the copy engine of a thread: the clusters of a die are divided among its four engines in order. -/
def engineNumber (k : Nat) : Nat := k / 128 * 4 + k / 8 % 16 / 4

/-- A copy command joins the queue of its engine, the thread goes on, and nothing else changes, beside what the read of a record
leaves on its way. -/
def copyQueued (s : State) (k : Nat) (i : Instr) (cmd : CopyCmd) : Prop :=
  ∃ t, exec i s = .next t ∧ regsSame s t ∧ wentOn s t ∧ (∀ n, n ≠ engineNumber k → engine t n = engine s n)
    ∧ engine t (engineNumber k) = { engine s (engineNumber k) with queue := (engine s (engineNumber k)).queue ++ [cmd] }
    ∧ OnlySeq s { accessed t s with engines := s.engines, serial := s.serial }

/-- R452: the number of each near-memory operation and its operand pairs. -/
def nearForm : Instr → Option (Nat × Fin 16 × Fin 16 × Fin 16)
  | .nmSgdf a b g => some (0, a, b, g)
  | .nmAxpy a b g => some (1, a, b, g)
  | .nmScale a b g => some (2, a, b, g)
  | .nmSumsq a b g => some (3, a, b, g)
  | .nmCast a b g => some (4, a, b, g)
  | .nmFill a b g => some (5, a, b, g)
  | .nmScatadd a b g => some (6, a, b, g)
  | _ => none

/-- R368: a queue handle of a thread names a declared queue of a device that is not lost to it. -/
def queueNamed (s : State) (k : Nat) (h : Word) (key : Nat) (q : Iq) : Prop :=
  handleQueue s h = some (key, q) ∧ queueLost s (k / 128) key = false

/-- Ranges of addresses, each a base and a length, of which no two meet. -/
def apart (l : List (Nat × Nat)) : Prop := l.Pairwise (fun a b => a.1 + a.2 ≤ b.1 ∨ b.1 + b.2 ≤ a.1)

/-- An address lies in no range of a list. -/
def outside (l : List (Nat × Nat)) (a : Nat) : Prop := ∀ r ∈ l, a < r.1 ∨ r.1 + r.2 ≤ a

/-- No counted write is on its way, and no vector store has gathered one. -/
def noWritesDue (s : State) : Prop := s.packets = [] ∧ ∀ p ∈ s.threads, ∀ e ∈ p.2.vq ++ p.2.parked, e.pushes = []

/-- R347: a word of `lk.stat` that reports a port: its link is up, a replay is in progress on it, the peer device, the link retries;
every other bit is 0. -/
def portFields (r : Word) (up retrying : Bool) (peer retries : Nat) : Prop :=
  r.getLsbD 0 = up ∧ r.getLsbD 1 = retrying ∧ r.extractLsb' 2 6 = 0 ∧ r.extractLsb' 8 8 = BitVec.ofNat 8 peer
    ∧ r.extractLsb' 16 32 = BitVec.ofNat 32 (min retries 0xFFFFFFFF) ∧ r.extractLsb' 48 16 = 0

/-- R366, R369, R370, R376, R379, R380: the queue instructions that join the vector queue, the operands that their entries copy,
and whether their operands are well formed. -/
def queueForm (s : State) : Instr → Option (Word × Word × Word × Word × Bool)
  | .iqEmit p q => some (x s (pairLo p), x s (pairHi p), x s q, 0, decide ((x s (pairHi p)).toNat / 2 ^ 30 % 2 ^ 18 = 0))
  | .iqClose q b => some (x s q, x s b, 0, 0, decide ((x s b).toNat / 2 ^ 22 % 2 ^ 10 = 0 ∧ (x s b).toNat / 2 ^ 33 = 0))
  | .iqApply a b => some (x s (pairLo a), x s (pairHi a), x s (pairLo b), x s (pairHi b), decide ((x s (pairHi a)).toNat / 2 ^ 24 % 2 ^ 24 = 0))
  | .iqProbe a b => some (x s (pairLo a), x s (pairHi a), x s (pairLo b), x s (pairHi b), decide ((x s (pairHi a)).toNat / 2 ^ 26 % 2 ^ 22 = 0))
  | .iqDone q => some (x s q, 0, 0, 0, true)
  | _ => none

/-- The thread after the queue entries that an instruction of its slot claims have been popped (R257). -/
def popped (s : State) (k : Nat) (i : Instr) (t : Thread) : Thread := popClaims (claimsOf s k i) t

/-- R217: an element of a vtype as `vtos` extends it to 64 bits: signed integers and bfp16 mantissas by their sign. -/
def elementWord (vt : Word) (v : Nat) : Word :=
  if (vtClass vt = .i ∧ fmtSigned (vtFmt vt) = true) ∨ vtFmt vt = 9 then (BitVec.ofNat (vtBits vt) v).signExtend 64 else BitVec.ofNat 64 v

/-- R251, R252: an element at an address, of 8 bits or more or of fewer, reads as a value from ordinary memory. -/
def ElementRead (s : State) (w : Who) (bits e : Nat) (ea : Word) (v : Nat) : Prop :=
  if 8 ≤ bits then ∃ p pa, ReachesMemory s w true false (bits / 8) ea p pa ∧ pteDev p = false ∧ v = readFor s w p pa (bits / 8)
  else ∃ p pa, ReachesMemory s w true false 1 ea p pa ∧ pteDev p = false ∧
    (if e * bits % 8 + bits ≤ 8 then v = readFor s w p pa 1 / 2 ^ (e * bits % 8) % 2 ^ bits
     else ∃ p' pa', ReachesMemory s w true false 1 (ea + 1) p' pa' ∧ pteDev p' = false ∧
       v = (readFor s w p pa 1 + 256 * readFor s w p' pa' 1) / 2 ^ (e * bits % 8) % 2 ^ bits)

/-- R262: why an element of a speculative load is not loaded: its index is poisoned, its page is of device class, or its address
does not translate. -/
def notLoaded (s : State) (w : Who) (bits e : Nat) (ea : Word) (psn : Bool) : Prop :=
  psn = true ∨ pteDev (leafDev s w bits e ea) = true ∨ ∃ c, translate s w true false (max 1 (bits / 8)) ea.toNat = .error c

/-- A store of `n` bytes reaches ordinary memory of the die's own system, and what else the instruction stores does not change
how. -/
def StoreReaches (s : State) (w : Who) (n : Nat) (ea : Word) (pa : Nat) (touched : Nat → Prop) : Prop :=
  ∃ p, ReachesMemory s w false true n ea p pa ∧ storedHere w p pa ∧ QuietBytes s pa n ∧ steadyUnder s w false true n ea p pa touched

/-- R251, R254: the byte `q` of the elements of a unit-stride access is part of a governed element. -/
def coveredByte (t : Thread) (m : Fin 8) (q : Nat) : Prop :=
  ∃ e, governedAt t t.vl m e = true ∧ e * vtBits t.vtype / 8 ≤ q ∧ q ≤ (e * vtBits t.vtype + vtBits t.vtype - 1) / 8

/-- R251: the bytes of a unit-stride store from a base reach memory at `f`, each at its own address, with whole elements
aligned and together. -/
structure UnitStride (s : State) (k : Nat) (m : Fin 8) (base : Word) (f : Nat → Nat) (touched : Nat → Prop) : Prop where
  aligned : 8 ≤ vtBits (thr s k).vtype → base.toNat % (vtBits (thr s k).vtype / 8) = 0
  together : ∀ e j, governedAt (thr s k) (thr s k).vl m e = true → j < vtBits (thr s k).vtype / 8 →
    f (e * (vtBits (thr s k).vtype / 8) + j) = f (e * (vtBits (thr s k).vtype / 8)) + j
  bytes : ∀ q, coveredByte (thr s k) m q → StoreReaches s (vectorWho s k) 1 (base + word q) (f q) touched
  apart : ∀ q r, coveredByte (thr s k) m q → coveredByte (thr s k) m r → f q = f r → q = r

/-- A state with what a unit-stride store may change put back as in another: as `withMemoryOf`, and the poison of granules that it
writes whole. -/
def withGranulesOf (t s : State) : State := { withMemoryOf t s with poison := s.poison, latent := s.latent }

/-- R252, R254: bit `b` of byte `q` of a unit-stride store by a thread: of its element where that is governed, of memory where not. -/
def storedBit (s : State) (t : Thread) (r : Fin 56) (m : Fin 8) (f : Nat → Nat) (q b : Nat) : Bool :=
  let e := (8 * q + b) / vtBits t.vtype
  if governedAt t t.vl m e then
    (if blockOk t t.vtype e then (srcElem t r (vtBits t.vtype) e).1 else 0).testBit ((8 * q + b) % vtBits t.vtype)
  else (readByte s (f q)).getLsbD b

/-- R292: the address of element `e` of a bank operation on words of `n` bytes; indices are 32-bit and signed. -/
def bankAddress (s : State) (t : Thread) (p : Fin 16) (idx : Option (Fin 56)) (n e : Nat) : Word :=
  match idx with
  | some i => x s (pairLo p) + (BitVec.ofNat 32 (srcElem t i 32 e).1).signExtend 64
  | none => x s (pairLo p) + word (n * e)

/-- R292, R293: an element of a bank operation reaches the common memory of its own die, on a page that is not checked. -/
def BankReaches (s : State) (w : Who) (wr : Bool) (n : Nat) (ea : Word) (pa : Nat) (touched : Nat → Prop) : Prop :=
  ∃ p, ReachesMemory s w (!wr) wr n ea p pa ∧ placeOf pa = .common (w.die % 32) ∧ devOf pa = devOfDie w.die ∧ QuietBytes s pa n ∧
    steadyUnder s w (!wr) wr n ea p pa touched

/-- R290, R293: the control word of a bank operation: its mask, SUB and SCOPE; a scope that waits for acknowledgements finds
nothing to wait for, and no write of the thread lost. -/
structure BankControl (s : State) (k : Nat) (c : Word) (m : Fin 8) (sub : Nat) : Prop where
  mask : m.val = c.toNat % 8
  sub : sub = c.toNat / 8 % 8
  scope : 4 ≤ c.toNat / 256 % 8 →
    awaitsAck s (dieOfThread k) none s.serial = false ∧ lostAmong s (dieOfThread k) none s.serial k = none

/-- The last of the governed elements below `e` that addresses the same word. -/
def lastBefore (t : Thread) (m : Fin 8) (pa : Nat → Nat) (e : Nat) : Option Nat :=
  ((List.range e).filter (fun j => governedAt t t.vl m j && pa j == pa e)).getLast?

/-! ## Steps of the machine -/

/-- R3: the LLC of a die has room for one more line. -/
def llcHasRoom (s : State) (die : Nat) : Prop := (s.llc.filter (fun e => e.1 / 2 ^ 46 == die)).length < 786432

/-- R284: the entry of a tile holds a number, and nothing else differs, no byte of memory outside that entry included. -/
structure TileChanged (ck n v : Nat) (s t : State) : Prop where
  entry : tileEntry t ck n = v
  rest : { t with mem := s.mem } = s
  others : ∀ a, a < tileAddr ck n ∨ tileAddr ck n + 32 ≤ a → readByte t a = readByte s a

/-- Nothing that comes before a turn is due: no step of the agenda, and none of the steps that come first. -/
def nothingDue (s : State) : Prop := s.agenda = [] ∧ firstOf s (dueRuns s) = none

/-- The next turn is an agent's: the engines had theirs, or have nothing to do. -/
def agentsTurn (s : State) : Prop := s.engTurn = false ∨ firstOf s (engineRuns s) = none

/-- The agents whose turns come next, in order: those left of a round, or all of a new one. -/
def nextAgents (s : State) : List Agent := if s.turns.isEmpty then agentsOf s else s.turns

/-- The word `w` is what the sequencer in progress fetches at its PC: the page may be fetched from, its memory is reached, and the
four bytes at the physical address, read as its die reads them, least significant byte first, are `w` (R43, R264). -/
def fetches (s : State) (w : Nat) : Prop :=
  ∃ p pa, fetchAddr s (whoFetch s) (pcOf s) = .ok (p, pa) ∧ pteMc p = false ∧ placeOf pa ≠ .hostAperture
    ∧ homeReached s (whoFetch s) pa ∧ poisoned s pa 4 = false ∧ readFor s (whoFetch s) p pa 4 = w

/-- The fetched word is the instruction `i`: what the sequencer in progress decodes and may run (R61); any other word is the
event of an illegal word (R64). -/
def wordRuns (s : State) (w : Nat) (i : Instr) : Prop :=
  (decodeWord w = .ok i ∧ mayRun s.cur i = true)
    ∨ ((∀ j, decodeWord w = .ok j → mayRun s.cur j = false) ∧ i = .illegalInstruction (BitVec.ofNat 32 w))

/-- R474: the device is not traced after a step: no session is open on it, and it is not in Manufacturing. -/
def untraced (o : Out) (dev : Nat) : Prop := ∀ t, o = .next t → dbgOf t dev = 0 ∧ (device t dev).sec ≠ 2

/-- The state in which the thread of a slot executes its word, when its turn comes. -/
def threadTurn (s : State) (k : Nat) (l : List Agent) : State :=
  observeMap k (readySlot k { s with turns := l, engTurn := !s.engTurn })

/-- The thread of a slot goes on with its instructions at its next turn: it is not halted, it owes no trap, no landing and no
delivery comes first, it has a turn on the core, and its core's vector sequencer has no strip to go on with. -/
structure GoesOn (s : State) (k : Nat) : Prop where
  powered : runsNow s (devOfDie (dieOfThread k)) = true
  notHalted : (thr s k).halted = false
  noTrapOwed : (thr s k).owed = none
  noLanding : landDue s k = false
  noDelivery : deliveryDue (thr s k) = false
  itsTurn : mayIssue s k = true
  noStrip : ∀ j, j / 4 = k / 4 → stripReady s j = true → (thr s j).vdefer = true

end Sys2Proof.Machine
end

