-- ==== Sys2Proof/Certificates/Slice0/Obligations.lean ====
section
/-! DEFINITION. The statements about the model, for the provers: each `def Obligations.<Name>` says what its name says. -/

open Sys2Proof Sys2Proof.Machine

/-- R158: On a sequencer that has a program, each two-operand form of R158 (add, sub, and, or, xor, andn, sll, srl, sra, ror,
slt, min, max) completes, writes the value of the rule's table to d (nothing when d is s0), moves on as R133 says, and
changes no other register, flag, unit or byte of memory; clz, ctz and popc do the same with the count of the rule; a nonzero
b field in these three, and function codes 0x13-0x17, 0x19-0x1F and 0x22-0xFF, are no instructions. -/
def Obligations.RegisterArithmetic : Prop :=
  (∀ (s : State) (i : Instr) (d : Fin 32) (v : Word), hasProgram s → registerValue s i = some (d, v) → writesRegister i d v s)
    ∧ (∀ (s : State) (i : Instr) (d : Fin 32) (count : Nat → Prop), hasProgram s → countOfBits s i = some (d, count) →
        ∃ n, count n ∧ writesRegister i d (word n) s)
    ∧ (∀ f1 f2 f3 fn : Nat, (fn = 0x10 ∨ fn = 0x11 ∨ fn = 0x12) → f3 ≠ 0 → noInstr ⟨1, f1, f2, f3, fn⟩)
    ∧ (∀ f1 f2 f3 fn : Nat, (0x13 ≤ fn ∧ fn ≤ 0x17 ∨ 0x19 ≤ fn ∧ fn ≤ 0x1F ∨ 0x22 ≤ fn ∧ fn ≤ 0xFF) → noInstr ⟨1, f1, f2, f3, fn⟩)

/-- R159, R156, R133: On a sequencer that has a program, addi, the eight forms of major 0x03, lui and apc complete, write the
value of R159 to d (nothing when d is s0; apc adds to its own address), move on as R133 says, and change no other register,
flag, unit or byte of memory; a shift immediate with a nonzero bit among bits 10:6 is no instruction. -/
def Obligations.ImmediateArithmetic : Prop :=
  (∀ (s : State) (i : Instr) (d : Fin 32) (v : Word), hasProgram s → immediateValue s i = some (d, v) → writesRegister i d v s)
    ∧ (∀ f1 f2 f3 fn : Nat, f3 < 64 → fn < 256 → 5 ≤ f3 / 8 → (f3 % 8 * 256 + fn) / 64 ≠ 0 → noInstr ⟨3, f1, f2, f3, fn⟩)

/-- R160: On a sequencer that has a program, every form of major 0x06 completes for all operands and writes the value of
R160's table to d: the product bits, the truncated quotient or the remainder with the sign of the dividend, all ones or A
when B is zero; it raises no cause and changes no flag nor anything else but the position of its sequencer. Function codes
0x08-0xFF are reserved. -/
def Obligations.MultiplyDivide : Prop :=
  (∀ (s : State) (i : Instr) (d : Fin 32) (v : Word), hasProgram s → productValue s i = some (d, v) → writesRegister i d v s)
    ∧ (∀ f1 f2 f3 fn : Nat, 8 ≤ fn → noInstr ⟨6, f1, f2, f3, fn⟩)

/-- R161: On a sequencer that has a program, bfx, bfi, bswap and brev complete and write to d a value whose every bit is the
one R161's table gives, with the position and width taken from B as the rule says (other bits of B ignored, zero for a zero
width, the old d for bfi), and change nothing else but the position of the sequencer. A nonzero b field of bswap and brev,
and function codes 0x05-0xFF, are no instructions. -/
def Obligations.BitFields : Prop :=
  (∀ (s : State) (i : Instr) (d : Fin 32) (bit : Nat → Bool), hasProgram s → fieldBits s i = some (d, bit) →
      ∃ v : Word, (∀ j, j < 64 → v.getLsbD j = bit j) ∧ writesRegister i d v s)
    ∧ (∀ f1 f2 f3 fn : Nat, (fn = 3 ∨ fn = 4) → f3 ≠ 0 → noInstr ⟨7, f1, f2, f3, fn⟩)
    ∧ (∀ f1 f2 f3 fn : Nat, 5 ≤ fn → noInstr ⟨7, f1, f2, f3, fn⟩)

/-- R133, R132, R207, R164, R167: When the word at p has completed without a transfer: with no active level, or an innermost
level whose END is another word, the sequencer goes to p + 4 and the levels stay; with an innermost level that ends at p and
whose INDEX + 1 is below COUNT, INDEX counts up and the sequencer goes to START (with START and END as the replacement map of
the thread's region has them, where it names the level's loop word; without a map they stay); otherwise the level is left and
the test is made again on the levels around it. Nothing but the sequencer's position and levels changes. (That INDEX + 1 is
compared without wrapping is the model's reading.) On a sequencer that has a program, loop with a count of zero acts as the
completion of the word at PC + 4E and pushes nothing; with a count of 1 to 2^32-1, fewer than six active levels and an end
word not beyond the end of the innermost level, it pushes a level with that count, INDEX 0, START PC + 4 and END PC + 4E, and
goes to PC + 4. The hint has no effect. Nothing else changes. On a sequencer with more than k active levels, lbrk k
completes: the k + 1 innermost levels are left, and the sequencer goes on as if the word that ended the outermost of them had
just completed, with the end test of the levels that remain; nothing else changes. With at most k active levels it raises
cause 0x44. -/
def Obligations.Loops : Prop :=
  (∀ (s : State) (p : Word) (b : Bool), hasProgram s →
    (∀ r, x (loopEnd p b s) r = x s r) ∧ OnlySeq s (loopEnd p b s)
    ∧ ((∀ l, (curSeq s).loops.getLast? = some l → l.stop ≠ p) →
        (curSeq (loopEnd p b s)).loops = (curSeq s).loops ∧ pcOf (loopEnd p b s) = p + 4)
    ∧ (∀ ls l, (curSeq s).loops = ls ++ [l] → l.stop = p → l.index.toNat + 1 < l.count.toNat →
        (curSeq (loopEnd p b s)).loops = ls ++ [{ replaceLevel (curMap s) l with index := l.index + 1 }]
          ∧ pcOf (loopEnd p b s) = (replaceLevel (curMap s) l).start ∧ (curSeq (loopEnd p b s)).landing = .boundary
          ∧ ((∀ e ∈ curMap s, e.1 ≠ l.start - 4) → replaceLevel (curMap s) l = l))
    ∧ (∀ ls l, (curSeq s).loops = ls ++ [l] → l.stop = p → ¬ l.index.toNat + 1 < l.count.toNat →
        curSeq (loopEnd p b s) = curSeq (loopEnd p true (setLoops s ls))))
  ∧ ((∀ (s : State) (c : Fin 32) (hint : Fin 7) (e : Fin 16384), hasProgram s →
    let stop : Word := pcOf s + word (4 * e.val)
    (x s c = 0 → ∃ t, exec (.loop c hint e) s = .next t ∧ regsSame s t ∧ OnlySeq s t
        ∧ pcOf t = pcOf (loopEnd stop false s) ∧ (curSeq t).loops = (curSeq (loopEnd stop false s)).loops)
    ∧ (0 < (x s c).toNat → (x s c).toNat < 2 ^ 32 → (curSeq s).loops.length < 6 →
        (∀ l, (curSeq s).loops.getLast? = some l → stop.toNat ≤ l.stop.toNat) →
        ∃ t, exec (.loop c hint e) s = .next t ∧ regsSame s t ∧ OnlySeq s t ∧ pcOf t = pcOf s + 4
          ∧ (curSeq t).loops = (curSeq s).loops ++ [⟨(x s c).setWidth 32, 0, pcOf s + 4, stop⟩]))
  ∧ (∀ (s : State) (k : Fin 6), hasProgram s →
    (∀ (outer inner : List Level) (l : Level), (curSeq s).loops = outer ++ [l] ++ inner → inner.length = k.val →
        ∃ t, exec (.lbrk k) s = .next t ∧ regsSame s t ∧ OnlySeq s t
          ∧ curSeq t = curSeq (loopEnd l.stop true (setLoops s outer)))
      ∧ ((curSeq s).loops.length ≤ k.val → exec (.lbrk k) s = raise 0x44 (tvalWord (.lbrk k)) s)))

/-- R162: On a sequencer that has a program, beq, bne, blt.i64 and bge.i64 complete. When the comparison holds, the sequencer
goes to PC + 4 * sext(offset) with its loop levels as they were (no end test); otherwise it goes on as R133 says. No
register, flag, unit or byte of memory changes. -/
def Obligations.Branches : Prop :=
  ∀ (s : State) (i : Instr) (c : Prop) (off : BitVec 14), hasProgram s → branchOf s i = some (c, off) →
    (c → ∃ t, exec i s = .next t ∧ regsSame s t ∧ jumped (word ((pcOf s).toNat + 4 * off.toInt)) s t ∧ OnlySeq s t)
      ∧ (¬ c → onlyGoesOn i s)

/-- R163, R133, R156: On a sequencer that has a program, jal writes PC + 4 to s31 and goes to PC + 4 * sext(offset); jalr
with a target that is a multiple of 4 goes to the value that its source register held before, and writes PC + 4 to d (nothing
when d is s0). The loop levels stay; nothing else changes. -/
def Obligations.Jumps : Prop :=
  ∀ s : State, hasProgram s →
    (∀ off, ∃ t, exec (.jal off) s = .next t ∧ wrote 31 (pcOf s + 4) s t ∧ jumped (word ((pcOf s).toNat + 4 * off.toInt)) s t
      ∧ OnlySeq s t)
    ∧ (∀ d a, (x s a).toNat % 4 = 0 →
        ∃ t, exec (.jalr d a) s = .next t ∧ wrote d (pcOf s + 4) s t ∧ jumped (x s a) s t ∧ OnlySeq s t)

/-- R166: The word with major 0x01, function 0x20, an a field of 0 to 5 and a zero b field is lidx d, k, and with any other a
field or b field it is no instruction. With k below the depth it completes, writes INDEX[depth - 1 - k] zero-extended to d
and goes on, changing nothing else; with k not below the depth it raises cause 0x44. -/
def Obligations.LoopIndex : Prop :=
  (∀ (d : Fin 32) (k : Fin 6), decodeFields ⟨1, d.val, k.val, 0, 0x20⟩ = .ok (.lidx d k))
    ∧ (∀ f1 f2 f3 : Nat, 6 ≤ f2 ∨ f3 ≠ 0 → noInstr ⟨1, f1, f2, f3, 0x20⟩)
    ∧ ∀ (s : State) (d : Fin 32) (k : Fin 6), hasProgram s →
      (∀ l, k.val < (curSeq s).loops.length → (curSeq s).loops[(curSeq s).loops.length - 1 - k.val]? = some l →
          writesRegister (.lidx d k) d (word l.index.toNat) s)
        ∧ ((curSeq s).loops.length ≤ k.val → exec (.lidx d k) s = raise 0x44 (tvalWord (.lidx d k)) s)

/-- R63, R174, R175, R176, R133: On a sequencer that has a program, nop, every hint, fence.acq at every scope, fence at a
scope below domain, and xfence (with no vector access outstanding when its mask names the V path) complete and change nothing
but the position of the sequencer: no register, flag, other unit or byte of memory. Every word of major 0x3E decodes to one
of the first two, and every kind of sequencer runs it. -/
def Obligations.OnlyThePositionMoves : Prop :=
  (∀ s : State, hasProgram s →
      onlyGoesOn .nop s ∧ (∀ k, onlyGoesOn (.hint k) s) ∧ (∀ sc, onlyGoesOn (.fenceAcq sc) s)
        ∧ (∀ sc : Fin 6, sc.val < 4 → onlyGoesOn (.fence sc) s)
        ∧ (∀ mask : Fin 128, (mask.val.testBit 1 = true → orderWaits s = false) → onlyGoesOn (.xfence mask) s))
    ∧ ∀ (a : Agent) (w : Nat), w < 2 ^ 26 → ∃ i, (i = .nop ∨ ∃ k, i = .hint k) ∧ decodeWord (0x3E * 2 ^ 26 + w) = .ok i
        ∧ mayRun a i = true

/-- R168, R169, R156, R337: On a sequencer that has a program and no earlier ordered vector access to wait for, a plain load
whose address is aligned, readable and found by the translation, that races with no write, reads no poisoned granule and does
not go to the host, and finds its home, completes: it writes the loaded bytes, sign- or zero-extended, to d (nothing when d
is s0), moves on, and changes nothing else, no byte of memory included, beside the fills that its misses ask for (log 60),
the request it had outstanding, what the home and the owner of the line know of it, and the tags of a page that becomes
checked with it, which then carry domain 0 (log 66). The bytes are those of memory wherever no cache holds a copy that a
near-memory write has left behind. -/
def Obligations.PlainLoads : Prop :=
  ∀ (s : State) (i : Instr) (n : Nat) (signed : Bool) (d a : Fin 32) (e : BitVec 10) (p : Word) (pa : Nat),
    hasProgram s → plainLoad i = some (n, signed, d, a, e) → cWaits s = false →
    Reaches s (curWho s) true false n (addressOf s a e) p pa → racing s (curWho s) p pa n = false → poisoned s pa n = false →
    placeOf pa ≠ .hostAperture → homeReached s (curWho s) pa →
    loadsRegister i d (extended n signed (readFor s (curWho s) p pa n)) s
      ∧ (isMemory pa → cachesCurrent s → readFor s (curWho s) p pa n = readMem s pa n)

/-- R168, R169, R125, R156, R113, R341, R356: On a sequencer that has a program and no earlier ordered vector access to wait
for, a plain store whose address is aligned, writable and found by the translation, on no copy-on-write or poisoned page,
that races with no write, to memory of the die's own system that finds its home, completes: the bytes at the computed address
hold the low bytes of the data register, every other byte of memory is as before, the line has the writer's tag on a checked
page in a race domain, no register or flag changes, and beside memory, cache copies, tags and what the access leaves on its
way nothing but the position of the sequencer differs. (What accesses leave on their way, the fills of misses and the pages
that become checked, is the model's reading: log entries 60 and 66.) Under the conditions of a plain store, one to a peer's
HBM through a PEER-PUSH leaf whose destination has fewer than 4096 unacknowledged writes completes by sending one counted
write of exactly those bytes, not yet performed (on an unchecked page), with the pair's next sequence number; one to the
device's own host aperture completes by issuing one write of those bytes to the host. Neither changes a register or a byte of
memory. -/
def Obligations.PlainStores : Prop :=
  (∀ (s : State) (i : Instr) (n : Nat) (d a : Fin 32) (e : BitVec 10) (p : Word) (pa : Nat),
    hasProgram s → plainStore i = some (n, d, a, e) → cWaits s = false →
    Reaches s (curWho s) false true n (addressOf s a e) p pa → racing s (curWho s) p pa n = false →
    isMemory pa → homeReached s (curWho s) pa → storedHere (curWho s) p pa → QuietBytes s pa n →
    ∃ t, exec i s = .next t ∧ regsSame s t ∧ wentOn s t ∧ storedBytes s t pa n (x s d).toNat
      ∧ taggedLine s t (curWho s).iss p (pa / 64) ∧ (∀ line, line ≠ pa / 64 → tagOf t line = tagOf s line ∨ tagOf t line = ⟨0, 0, 0, 0⟩)
      ∧ OnlySeq s (withMemoryOf t s))
  ∧ (∀ (s : State) (i : Instr) (n : Nat) (d a : Fin 32) (e : BitVec 10) (p : Word) (pa : Nat),
    hasProgram s → plainStore i = some (n, d, a, e) → cWaits s = false →
    Reaches s (curWho s) false true n (addressOf s a e) p pa → racing s (curWho s) p pa n = false → QuietBytes s pa n →
    ((∃ die, placeOf pa = .hbm die) → devOf pa ≠ devOfDie (curWho s).die → pteDev p = false → ptePush p = true →
        pteChk p = false → pairFull s (curWho s).die (devOf pa) = false →
        ∃ t pk, exec i s = .next t ∧ regsSame s t ∧ wentOn s t ∧ t.mem = s.mem ∧ t.packets = s.packets ++ [pk]
          ∧ pk.pieces = [(pa, n, (x s d).toNat % 256 ^ n)] ∧ pk.performed = false ∧ pk.kind = .push
          ∧ pk.die = (curWho s).die ∧ pk.dest = devOf pa ∧ pk.seq = (pair s (curWho s).die (devOf pa)).next
          ∧ OnlySeq s { accessed t s with packets := s.packets, pairs := s.pairs, serial := s.serial, fresh := s.fresh })
      ∧ (placeOf pa = .hostAperture → devOf pa = devOfDie (curWho s).die →
        ∃ t, exec i s = .next t ∧ regsSame s t ∧ wentOn s t ∧ OnlySeq s { accessed t s with hostOut := s.hostOut }
          ∧ t.hostOut = s.hostOut ++ [(hostAddr s pa, bytesOfNat n (x s d).toNat)]))

/-- R169, R155, R107, R253: For a plain load or store with no earlier ordered vector access to wait for, the first that
applies of these is raised, with the effective address as its value and nothing performed: 0x10 for address bits 63:57, 0x03
for a misaligned address, 0x10 for a page not present, 0x11 without permission, the path-class cause (0x70 unless it was
outstanding when its pair was lost), for a store to a copy-on-write page 0x12 when the pool is empty (otherwise it waits for
the copy), 0x30 for a poisoned page, 0x20 for a race, and for a load 0x30 for a poisoned granule (of memory of its own
device; not through a multicast leaf from the race on). The store waits while a snapshot holds its page. From the translation
on, the fill of its miss is asked for whatever the checks find (log 60), and a page that becomes checked has lines of domain
0 (log 66). -/
def Obligations.AccessFaultOrder : Prop :=
  ∀ (s : State) (i : Instr) (rd : Bool) (n : Nat) (d a : Fin 32) (e : BitVec 10), cWaits s = false →
    ((rd = true ∧ ∃ sg, plainLoad i = some (n, sg, d, a, e)) ∨ (rd = false ∧ plainStore i = some (n, d, a, e))) →
    let ea := addressOf s a e
    let w := curWho s
    let s' := noteAccess w ea.toNat s
    (2 ^ 57 ≤ ea.toNat → exec i s = raise 0x10 ea s)
    ∧ (ea.toNat < 2 ^ 57 → ea.toNat % n ≠ 0 → exec i s = raise 0x03 ea s)
    ∧ (ea.toNat < 2 ^ 57 → ea.toNat % n = 0 → leafOf s w.tlbs w.die w.iss.asid ea.toNat = none → exec i s = raise 0x10 ea s')
    ∧ (∀ p, ea.toNat < 2 ^ 57 → ea.toNat % n = 0 → leafOf s w.tlbs w.die w.iss.asid ea.toNat = some p →
        (if rd then pteRd p else pteWr p) = false → exec i s = raise 0x11 ea s')
    ∧ (∀ p c, ea.toNat < 2 ^ 57 → ea.toNat % n = 0 → leafOf s w.tlbs w.die w.iss.asid ea.toNat = some p →
        (if rd then pteRd p else pteWr p) = true → pteMc p = false → reachFor s w.die w.path (!rd) p (physOf p ea.toNat) = some c →
        (c = 0x70 → lostRequest s w ea.toNat = false) → exec i s = raise c ea s')
    ∧ (∀ p pa, translate s w rd (!rd) n ea.toNat = .ok (p, pa) →
        let held := snapHeld s w.die w.iss.asid ea.toNat
        (rd = false → held = true → exec i s = .next s')
        ∧ (rd = false → held = false → pteCow p = true →
          (poolNext s w.die (pteSize p) = none → exec i s = raise 0x12 ea s')
          ∧ (poolNext s w.die (pteSize p) ≠ none → exec i s = .next (wantCopy w.die w.iss.asid ea.toNat s')))
        ∧ ((rd = true ∨ (held = false ∧ pteCow p = false)) → ptePsn p = true → exec i s = raise 0x30 ea s')
        ∧ ((rd = true ∨ (held = false ∧ pteCow p = false)) → ptePsn p = false → pteMc p = false → racing s' w p pa n = true →
          exec i s = raise 0x20 ea s')
        ∧ (rd = true → ptePsn p = false → pteMc p = false → racing s' w p pa n = false → isMemory pa → devOf pa = devOfDie w.die →
          poisoned s pa n = true → exec i s = raise 0x30 ea s'))

/-- R170, R123, R124, R168, R125: On a thread with no earlier ordered vector access to wait for, ld.acq of a readable,
aligned, unpoisoned address outside the host aperture, that races with no write once the sync block is merged, completes: d
receives the zero-extended bytes, the position moves on, and nothing else changes but what the access leaves on its way and,
on a checked page for a thread of a race domain, its clock, which becomes the entrywise maximum with the line's sync block
except in its own entry. (What an access leaves on its way: log entries 60 and 66.) On a thread whose release has nothing to
wait for, st.rel to writable memory of the die's own system that races with no write completes, with the position moving on
and no register changed. On an unchecked page or outside a race domain it stores its bytes and changes nothing else but what
a plain store changes. On a checked page of a thread in a race domain, with the sync block apart from the stored bytes, it
also leaves in each entry of the block the maximum of the entry and the thread's clock, tags the line with the old epoch, and
advances the epoch by one. -/
def Obligations.AcquireLoadsReleaseStores : Prop :=
  (∀ (s : State) (i : Instr) (k n : Nat) (d a : Fin 32) (e : BitVec 10) (p : Word) (pa : Nat),
    s.cur = .thread k → acquiringLoad i = some (n, d, a, e) → cWaits s = false →
    Reaches s (curWho s) true false n (addressOf s a e) p pa → placeOf pa ≠ .hostAperture → homeReached s (curWho s) pa →
    poisoned s pa n = false → racing s (mergedWho s (curWho s) (syncFor s (curWho s) p pa)) p pa n = false →
    ∃ t, exec i s = .next t ∧ wrote d (extended n false (readFor s (curWho s) p pa n)) s t ∧ wentOn s t ∧ tagsKept s t
      ∧ OnlySeq s { accessed t s with domains := s.domains }
      ∧ (syncFor s (curWho s) p pa = none → t.domains = s.domains)
      ∧ (∀ b, syncFor s (curWho s) p pa = some b → ∀ j : Fin 256,
          (clockOf t (thr s k).rdom (thr s k).agent).acq[j] =
            if j.val = (thr s k).agent.toNat then (clockOf s (thr s k).rdom (thr s k).agent).acq[j]
            else max (clockOf s (thr s k).rdom (thr s k).agent).acq[j] (blockEntry s b j.val)))
  ∧ (∀ (s : State) (i : Instr) (k n : Nat) (d a : Fin 32) (e : BitVec 10) (p : Word) (pa : Nat),
    s.cur = .thread k → releasingStore i = some (n, d, a, e) →
    Reaches s (curWho s) false true n (addressOf s a e) p pa → racing s (curWho s) p pa n = false →
    isMemory pa → homeReached s (curWho s) pa → storedHere (curWho s) p pa → QuietBytes s pa n → releaseOpen s 3 →
    (syncFor s (curWho s) p pa = none →
        ∃ t, exec i s = .next t ∧ regsSame s t ∧ wentOn s t ∧ storedBytes s t pa n (x s d).toNat ∧ OnlySeq s (withMemoryOf t s))
      ∧ (∀ b, syncFor s (curWho s) p pa = some b → pa + n ≤ b ∨ b + 512 ≤ pa →
        ∃ t, exec i s = .next t ∧ regsSame s t ∧ wentOn s t ∧ readMem t pa n = (x s d).toNat % 256 ^ n
          ∧ (∀ a, (a < pa ∨ pa + n ≤ a) → (a < b ∨ b + 512 ≤ a) → readByte t a = readByte s a)
          ∧ (∀ j : Fin 256, blockEntry t b j.val = max (blockEntry s b j.val) (clockOf s (thr s k).rdom (thr s k).agent).acq[j] % 65536)
          ∧ taggedLine s t (curWho s).iss p (pa / 64) ∧ steppedFrom t k (clockOf s (thr s k).rdom (thr s k).agent)
          ∧ OnlySeq s { withMemoryOf t s with domains := s.domains }))

/-- R172, R171, R173, R123, R46: On a thread with no earlier ordered vector access to wait for, each sized atomic on readable
and writable memory completes: d receives the old value, sign-extended (zero-extended by amo.min.n and amo.max.n), the
location holds the new value of R172 or, when the operation writes nothing, its old one, and every other byte of memory
outside the line's sync block is as before. Outside a race domain or on an unchecked page nothing else changes but tags and
cache copies. On a thread with no earlier ordered vector access to wait for, amo.cas16 on readable and writable memory
outside a race domain or on an unchecked page completes: the pair d receives the 16 old bytes, the location receives the pair
b when they equal the old pair d and stays otherwise, and every other byte of memory and everything else but tags and cache
copies is as before. -/
def Obligations.Atomics : Prop :=
  (∀ (s : State) (i : Instr) (k : Nat) (d a b : Fin 32) (scope : Fin 6) (wide : Bool) f (p : Word) (pa : Nat),
    s.cur = .thread k → atomicOf i = some (d, a, b, scope, wide, f) → cWaits s = false →
    let n := if wide then 8 else 4
    Reaches s (curWho s) true true n (x s a) p pa → AtomicReady s (curWho s) n p pa scope.val →
    let old : BitVec (8 * n) := BitVec.ofNat (8 * n) (readMem s pa n)
    let new := f (8 * n) old ((x s b).setWidth (8 * n)) ((x s d).setWidth (8 * n))
    (∀ blk, syncFor s (curWho s) p pa = some blk → pa + n ≤ blk ∨ blk + 512 ≤ pa) →
    ∃ t, exec i s = .next t ∧ wrote d (if atomicUnsigned i then old.setWidth 64 else old.signExtend 64) s t ∧ wentOn s t
      ∧ readMem t pa n = (new.getD old).toNat
      ∧ (∀ c, (c < pa ∨ pa + n ≤ c) → (∀ blk, syncFor s (curWho s) p pa = some blk → c < blk ∨ blk + 512 ≤ c) → readByte t c = readByte s c)
      ∧ (∀ line, new = none ∨ line ≠ pa / 64 → tagOf t line = tagOf s line ∨ tagOf t line = ⟨0, 0, 0, 0⟩)
      ∧ OnlySeq s { withMemoryOf t s with domains := s.domains }
      ∧ (syncFor s (curWho s) p pa = none → t.domains = s.domains))
  ∧ (∀ (s : State) (k : Nat) (d b : Fin 16) (a : Fin 32) (scope : Fin 6) (p : Word) (pa : Nat),
    s.cur = .thread k → cWaits s = false →
    Reaches s (curWho s) true true 16 (x s a) p pa → AtomicReady s (curWho s) 16 p pa scope.val → syncFor s (curWho s) p pa = none →
    let old := readMem s pa 16
    ∃ t, exec (.amoCas16 d a b scope) s = .next t ∧ wentOn s t
      ∧ (∀ r, x t r = if r = 0 then 0 else if r = pairLo d then BitVec.ofNat 64 old
          else if r = pairHi d then BitVec.ofNat 64 (old / 2 ^ 64) else x s r)
      ∧ storedBytes s t pa 16 (if old = pairNat s d then pairNat s b else old) ∧ OnlySeq s (withMemoryOf t s))

/-- R174, R175, R123, R345, R130: On a thread, fence at domain or system scope with every vector access performed and every
counted write of its die acknowledged and none lost completes and changes nothing but the position; while some are
unacknowledged the slot waits with the wait's snapshot kept. fence.rel with nothing to wait for completes and changes nothing
but the position and, for a thread of a race domain, its clock, whose epoch and own entry advance by one. -/
def Obligations.FencesAndReleases : Prop :=
  ∀ (s : State) (k : Nat) (scope : Fin 6), s.cur = .thread k →
    (4 ≤ scope.val → vPending (thr s k) = false → AllAcked s k none → onlyGoesOn (.fence scope) s)
    ∧ (4 ≤ scope.val → vPending (thr s k) = false → (thr s k).snap = none → awaitsAck s (dieOfThread k) none s.serial = true →
        ∃ t, exec (.fence scope) s = .next t ∧ thr t k = { thr s k with st := .waiting, snap := some s.serial } ∧ OnlyThread k s t)
    ∧ (releaseOpen s scope.val → ∃ t, exec (.fenceRel scope) s = .next t ∧ regsSame s t ∧ wentOn s t
        ∧ OnlySeq s { t with domains := s.domains } ∧ ((thr s k).rdom = 0 → t.domains = s.domains)
        ∧ steppedFrom t k (clockOf s (thr s k).rdom (thr s k).agent))

/-- R22, R23, R24, R26, R177, R178: On a sequencer that has a program and nothing to wait for, bar.arrive of at most 2^31-1
bytes on an object with a legal SCOPE and EXPECT above COUNT, whose TXPEND stays in range, completes: COUNT and TXPEND count
up, the phase flips and COUNT clears exactly when COUNT = EXPECT and TXPEND = 0, d receives the prior phase; bar.expect
announces bytes without arriving, with the flip test for EXPECT = 0 too. At a flip every command armed on the object for the
old phase has fired, the gates of near-memory commands among them, and ARMD is clear. Outside the object no byte of memory
changes. The object carries no clock. The model's reading (log 64): the access needs write permission alone, and neither a
race nor the poison of the object stops it. -/
def Obligations.BarrierArrivals : Prop :=
  ∀ (s : State) (a b : Fin 32) (pa : Nat), hasProgram s → cWaits s = false → ObjectAt s true (x s a) pa →
    let o := barRead s pa
    let n := (x s b).toNat
    barScope o < 4 → barClk o = false → (∀ d, (dom s d).due = false) → n < 2 ^ 31 → barTx o + n < 2 ^ 31 →
    (∀ d : Fin 32, barCount o < barExpect o → releaseOpen s (barScope o + 1) →
        ∃ t, exec (.barArrive d a b) s = .next t ∧ wrote d (if barPhase o then 1 else 0) s t ∧ wentOn s t
          ∧ Counted o (barRead t pa) 1 n ∧ onlyObject s t pa ∧ OnlySeq s (withObjectsOf t s)
          ∧ (barTx o + n = 0 → barCount o + 1 = barExpect o → barArmd (barRead t pa) = false
              ∧ (∀ e, ∀ c ∈ (engine t e).armed, c.obj = pa → c.phase = barPhase o → c.fired = true)
              ∧ ∀ e, ∀ c ∈ (nm t e).queue ++ (nm t e).gates, c.gate = some (pa, barPhase o) → c.firedAt ≠ 0))
      ∧ (∃ t, exec (.barExpect a b) s = .next t ∧ regsSame s t ∧ wentOn s t ∧ Counted o (barRead t pa) 0 n ∧ onlyObject s t pa
          ∧ OnlySeq s (withObjectsOf t s))

/-- R177, R179, R130, R180, R21, R22: On a sequencer that has a program and nothing to wait for, with an object of legal
SCOPE and no clock: when its phase differs from bit 0 of B, bar.wait completes and changes nothing but the position (and what
the access leaves on its way), and bar.test writes 1 to d; when it is the same, bar.test writes 0 and bar.wait leaves a
thread waiting at the instruction, with nothing else changed (but what the access leaves on its way). The model's reading
(log 64): read permission alone is needed, and neither a race nor the poison of the object stops them. On a sequencer that
has a program and nothing to wait for, bar.init on an object without ARMD, with bits 63:36 of B zero and a legal SCOPE,
completes and writes the sixteen bytes: EXPECT, SCOPE, CLK and CLKBLK from B, COUNT, TXPEND, PHASE, ARMD and WATCH zero; no
other byte changes. With ARMD set, a nonzero bit among 63:36 or a reserved SCOPE it raises cause 0x43 with the object's
address. The model's reading (log 64): WATCH too is zero after it, write permission alone is needed, and neither a race nor
the poison of the object stops it. -/
def Obligations.BarrierWaitsAndInit : Prop :=
  (∀ (s : State) (a b : Fin 32) (pa : Nat), hasProgram s → cWaits s = false → ObjectAt s false (x s a) pa →
    barScope (barRead s pa) < 4 → barClk (barRead s pa) = false →
    (barPhase (barRead s pa) ≠ (x s b).getLsbD 0 →
        (∃ t, exec (.barWait a b) s = .next t ∧ regsSame s t ∧ wentOn s t ∧ tagsKept s t ∧ OnlySeq s (accessed t s))
          ∧ ∀ d, loadsRegister (.barTest d a b) d 1 s)
      ∧ (barPhase (barRead s pa) = (x s b).getLsbD 0 → (∀ d, loadsRegister (.barTest d a b) d 0 s)
        ∧ ∀ k, s.cur = .thread k →
          ∃ t, exec (.barWait a b) s = .next t ∧ thr t k = { thr s k with st := .waiting } ∧ OnlyThread k s (accessed t s)))
  ∧ (∀ (s : State) (a b : Fin 32) (pa : Nat), hasProgram s → cWaits s = false → ObjectAt s true (x s a) pa →
    let v := (x s b).toNat
    (v < 2 ^ 36 → v / 2 ^ 16 % 8 < 4 → barArmd (barRead s pa) = false →
        ∃ t, exec (.barInit a b) s = .next t ∧ regsSame s t ∧ wentOn s t ∧ onlyObject s t pa ∧ OnlySeq s (withObjectsOf t s)
          ∧ barRead t pa = v % 2 ^ 16 + v / 2 ^ 16 % 8 * 2 ^ 65 + v / 2 ^ 19 % 2 * 2 ^ 68 + v / 2 ^ 20 * 2 ^ 96)
      ∧ (2 ^ 36 ≤ v ∨ 4 ≤ v / 2 ^ 16 % 8 ∨ barArmd (barRead s pa) = true →
        ∃ s', accessed s' s = s ∧ exec (.barInit a b) s = raise 0x43 (x s a) s'))

/-- R142, R141, R155, R140, R185, R163, R164, R166, R167, R57, R64, R76: On a thread outside handler mode with a handler and
an empty vector queue, each of these takes its trap and does nothing else: an illegal word and a fetch fault with their
causes, trap k with cause 0x04 and value k (resuming at the next word), tret outside handler mode (0x02), jalr to a
misaligned target (0x03), lidx and lbrk beyond the depth (0x44), loop beyond its limits (0x44, 0x40), sets of a privileged
register without privilege (0x02) and of an illegal vtype (0x01). The resume address is in tepc, the cause in tcause, its
value in tval, HM is set, the pc is tvec; registers, loop levels, memory and all else are as before. -/
def Obligations.TrapEntry : Prop :=
  ∀ (s : State) (k : Nat) (i : Instr) (cause : BitVec 8) (val pc : Word), s.cur = .thread k → ownTrap s k i = some (cause, val, pc) →
    (thr s k).hm = false → (thr s k).tvec ≠ 0 → (thr s k).vq = [] →
    ∃ t, exec i s = .next t ∧ thr t k = handlerOf (thr s k) pc cause 0 val ∧ onlyTrapped k s t

/-- R143, R148, R192, R144, R185: On a running thread with an empty vector queue that is in handler mode or has no handler,
whose fault record queue is not enabled and whose region suspends, a trap of the thread's own instruction leaves the slot
suspended, with no handler entered: HM, tvec, tepc, tcause, tval, the registers and the loop levels are as before. On a
thread in handler mode with an empty vector queue, tret completes: HM is clear, the parked vector entries are the queue
again, the scalar side is at tepc, and nothing else of the thread or the machine changes. -/
def Obligations.TrapReportAndReturn : Prop :=
  (∀ (s : State) (k : Nat) (cause : BitVec 8) (val : Word), s.cur = .thread k → (thr s k).vq = [] →
    (thr s k).st = .running → ((thr s k).hm = true ∨ (thr s k).tvec = 0) → (core s (k / 4)).fqEn = false →
    policyOf s (thr s k).home = 0 →
    ∃ t, raise cause val s = .next t ∧ thr t k = { thr s k with st := .suspended, snap := none, heldTrap := false } ∧ ∀ j, j ≠ k → thr t j = thr s j)
  ∧ (∀ (s : State) (k : Nat), s.cur = .thread k → (thr s k).hm = true → (thr s k).vq = [] →
    ∃ t, exec .tret s = .next t ∧ OnlyThread k s t
      ∧ thr t k = { thr s k with hm := false, vq := (thr s k).parked, parked := [],
                                 seq := { (thr s k).seq with pc := (thr s k).tepc, landing := .none } })

/-- R186, R57, R134, R138, R141, R146, R392, R8: On a thread, gets of each of the 21 system registers completes and writes to
d what R186 gives: vtype, vl, vcfg, aflags, bvalid bits 63:0, fagrant, fagovstat, tcause, tval, tvec, tepc, the six loopstk
levels (INDEX above COUNT; zero for an inactive level), fqbase, rcb, asid and clkseed. It changes nothing else. On a thread
that may write it, sets of vtype (a legal value), tcause, tval, tvec, tepc, an active or inactive loopstk level, rcb, asid or
fagovstat completes and changes that register alone (reserved bits read zero; rcb takes its region identifier and its chain
with it, the model's reading, log 55; an inactive level ignores the write), and the position of the thread. On a thread that
may write it, sets fqbase completes: TAIL takes bits 11:6, BASE and EN take their bits unless records are unconsumed and
either of them would change, HEAD and AHEAD stay, and nothing else of the machine changes but the position of the thread and
the record bookkeeping of that core. -/
def Obligations.SystemRegisters : Prop :=
  (∀ (s : State) (k : Nat) (d : Fin 32) (r : Fin 21), s.cur = .thread k →
    (∀ v, (r.val, v) ∈ systemRegister s k → writesRegister (.gets d r) d v s)
      ∧ (r.val = 5 → writesRegister (.gets d r) d (fagrantWord s k) s)
      ∧ (∀ n, r.val = 0x0B + n → n < 6 →
          writesRegister (.gets d r) d (match (thr s k).seq.loops[n]? with | some l => l.index ++ l.count | none => 0) s))
  ∧ ((∀ (s : State) (k : Nat) (b : Fin 32), s.cur = .thread k → ((thr s k).priv = true ∨ (thr s k).hm = true) →
    let v := x s b
    let t0 := thr s k
    let q := (finish s)
    let sets := fun (r : Fin 21) (w : Thread) => ∃ t, exec (.sets r b) s = .next t ∧ OnlyThread k s t
      ∧ thr t k = { w with seq := (thr q k).seq }
    (vtLegal v = true → sets 0 { t0 with vtype := v })
      ∧ sets 7 { t0 with tcause := v &&& 0xFFF } ∧ sets 8 { t0 with tval := v }
      ∧ sets 9 { t0 with tvec := v &&& 0x01FFFFFFFFFFFFFC } ∧ sets 10 { t0 with tepc := v &&& 0x01FFFFFFFFFFFFFC }
      ∧ sets 0x13 { t0 with asid := v.setWidth 16 }
      ∧ (let w : Thread := { t0 with rcb := v, rid := BitVec.ofNat 20 (readMem s v.toNat 64), home := homeOf s v.toNat }
        ∃ t, exec (.sets 0x12 b) s = .next t ∧ OnlyThread k s t ∧ thr t k = { w with seq := (thr (finish (setThr s k w)) k).seq })
      ∧ (∀ (r : Fin 21) (n : Nat), r.val = 0x0B + n → n < 6 → ∃ t, exec (.sets r b) s = .next t ∧ OnlyThread k s t
          ∧ thr t k = { t0 with seq := (thr t k).seq }
          ∧ (t0.seq.loops.length ≤ n → (thr t k).seq = (thr q k).seq)
          ∧ (∀ l, t0.seq.loops[n]? = some l → thr t k =
              thr (finish (setLoops s (t0.seq.loops.set n { l with count := v.setWidth 32, index := (v >>> 32).setWidth 32 }))) k))
      ∧ (∃ t, exec (.sets 6 b) s = .next t ∧ OnlySeq s { t with clusters := s.clusters } ∧ regsSame s t ∧ wentOn s t
          ∧ (cluster t (k / 8)).stalls = v.setWidth 32 ∧ (cluster t (k / 8)).windows = (v >>> 32).setWidth 32))
  ∧ (∀ (s : State) (k : Nat) (b : Fin 32), s.cur = .thread k → ((thr s k).priv = true ∨ (thr s k).hm = true) →
    let v := (x s b).toNat
    let c := core s (k / 4)
    let base := BitVec.ofNat 45 (v / 2 ^ 12)
    let en := v.testBit 63
    let keep : Bool := decide (c.fqHead ≠ c.fqTail) && (base != c.fqBase || en != c.fqEn)
    ∃ t, exec (.sets 0x11 b) s = .next t ∧ regsSame s t ∧ wentOn s t ∧ OnlySeq s { t with cores := s.cores }
      ∧ (∀ j, j ≠ k / 4 → core t j = core s j)
      ∧ (core t (k / 4)).fqTail = BitVec.ofNat 6 (v / 2 ^ 6) ∧ (core t (k / 4)).fqHead = c.fqHead ∧ (core t (k / 4)).fqAhead = c.fqAhead
      ∧ (core t (k / 4)).fqBase = (if keep then c.fqBase else base) ∧ (core t (k / 4)).fqEn = (if keep then c.fqEn else en)
      ∧ (core t (k / 4)).tiles = c.tiles ∧ (core t (k / 4)).tlb = c.tlb ∧ (core t (k / 4)).held = c.held))

/-- R16, R17, R182, R115, R18, R19, R183, R129, R184: On a thread with fewer than four forked programs outstanding and no
vector access pending, fork_f of a thread that holds its core's attachment (with room in the context's queue) and fork_x with
fewer than sixteen entries in the die's queue complete: one program is appended whose pc is PC + 4 * sext(offset), whose
registers are the thread's and whose loop stack is empty, and its serial number joins the thread's outstanding forks; no
register of the thread and no byte of memory changes. fork_f without the attachment raises cause 0x42. On a thread with no
forked program outstanding, join changes nothing but the position, and exit with an empty vector queue leaves the slot
retiring; with programs still running both leave the slot waiting; with an unreported fault record join and exit take its
trap. On a factor array context, exit ends the forked program and takes it from its thread's count; on a copy engine it does
so once no command of the program is left. On a thread, yield completes: the position moves on, no register or byte of memory
changes, and the slot issues nothing before each other running slot of its core has had its turn. -/
def Obligations.ForkedPrograms : Prop :=
  (∀ (s : State) (k : Nat) (off : BitVec 14), s.cur = .thread k →
    ((ctx s (k / 4)).holder ≠ some k → exec (.forkF off) s = raise 0x42 (tvalWord (.forkF off)) s)
    ∧ (forksOut s k < 4 → vPending (thr s k) = false →
      let p : Prog := ⟨⟨word ((pcOf s).toNat + 4 * off.toInt), (thr s k).seq.regs, [], .none⟩, s.serial, issuerNow s k (pcOf s)⟩
      ((ctx s (k / 4)).holder = some k → (ctx s (k / 4)).queue.length < 32 →
          ∃ t, exec (.forkF off) s = .next t ∧ regsSame s t ∧ wentOn s t ∧ (thr t k).forks = (thr s k).forks ++ [s.serial]
            ∧ ctx t (k / 4) = { ctx s (k / 4) with queue := (ctx s (k / 4)).queue ++ [.start p] }
            ∧ (∀ c, c ≠ k / 4 → ctx t c = ctx s c) ∧ (∀ j, j ≠ k → thr t j = thr s j) ∧ t.mem = s.mem)
        ∧ ((tabGet [] s.forkQs (k / 128)).length < 16 →
          ∃ t, exec (.forkX off) s = .next t ∧ regsSame s t ∧ wentOn s t ∧ (thr t k).forks = (thr s k).forks ++ [s.serial]
            ∧ tabGet [] t.forkQs (k / 128) = tabGet [] s.forkQs (k / 128) ++ [p]
            ∧ (∀ j, j ≠ k → thr t j = thr s j) ∧ t.mem = s.mem)))
  ∧ ((∀ s : State,
    (∀ k, s.cur = .thread k → (thr s k).forkFaults = [] → forksOut s k = 0 →
        onlyGoesOn .join s
          ∧ ((thr s k).vq = [] → ∃ t, exec .exit s = .next t ∧ thr t k = { thr s k with st := .retiring, exited := true } ∧ OnlyThread k s t))
    ∧ (∀ k, s.cur = .thread k → (thr s k).forkFaults = [] → forksOut s k ≠ 0 → ∀ i, (i = .join ∨ i = .exit) →
        ∃ t, exec i s = .next t ∧ thr t k = { thr s k with st := .waiting } ∧ OnlyThread k s t)
    ∧ (∀ k d l, s.cur = .thread k → (thr s k).forkFaults = d :: l → d.flags = 0 → d.ecls < 16 → (thr s k).vq = [] → (thr s k).hm = false →
        (thr s k).tvec ≠ 0 → ∀ i, (i = .join ∨ i = .exit) →
        ∃ t, exec i s = .next t ∧ onlyTrapped k s t
          ∧ thr t k = handlerOf { thr s k with forkFaults := l } (pcOf s) d.cause d.ecls d.addr)
    ∧ (∀ c p, s.cur = .ctx c → (ctx s c).prog = some p →
        ∃ t, exec .exit s = .next t ∧ ctx t c = { ctx s c with prog := none }
          ∧ (thr t p.iss.thread).forks = (thr s p.iss.thread).forks.filter (· != p.serial) ∧ t.mem = s.mem)
    ∧ (∀ n p, s.cur = .engine n → (engine s n).prog = some p → engineBusy (engine s n) p.serial = false →
        ∃ t, exec .exit s = .next t ∧ engine t n = { engine s n with prog := none }
          ∧ (thr t p.iss.thread).forks = (thr s p.iss.thread).forks.filter (· != p.serial) ∧ t.mem = s.mem))
  ∧ (∀ (s : State) (k : Nat), s.cur = .thread k →
    ∃ t, exec .yield s = .next t ∧ OnlyThread k s t ∧ regsSame s t ∧ (thr t k).seq.pc = pcOf (finish s) ∧ (thr t k).seq.loops = (curSeq (finish s)).loops
      ∧ (∀ j, j ∈ (thr t k).yieldWait ↔ j / 4 = k / 4 ∧ j ≠ k ∧ (thr s j).st = .running)
      ∧ thr t k = { thr s k with yieldWait := (thr t k).yieldWait, seq := (thr t k).seq }))

/-- R188, R201, R194, R196: On a privileged thread whose release has nothing to wait for, launch of a readable, aligned,
unpoisoned 64-byte record in memory completes. With a free intake entry, the first of them holds the record (for a
well-formed record that waits for a dependence or a predicate: nothing started or observed yet, every dependence to be read)
and d receives 3072 + its index; with no free entry d receives all ones and the intake is as before. The lowest free entry is
the model's choice, since the spec leaves which open (log 68). Beside the intake, the thread's clock and what the access
leaves on its way nothing else changes, no byte of memory included. An address that is no multiple of 64 raises cause 0x03
before anything else. -/
def Obligations.Launches : Prop :=
  (∀ (s : State) (k : Nat) (d a : Fin 32), s.cur = .thread k → (x s a).toNat % 64 ≠ 0 → exec (.launch d a) s = raise 0x03 (x s a) s)
  ∧ ∀ (s : State) (k : Nat) (d a : Fin 32) (p : Word) (pa : Nat), s.cur = .thread k → cWaits s = false →
    Reaches s (curWho s) true false 64 (x s a) p pa → racing s (curWho s) p pa 64 = false → poisoned s pa 64 = false → isMemory pa →
    homeReached s (curWho s) pa → ((thr s k).priv = true ∨ (thr s k).hm = true) → releaseOpen s 3 →
    let r : BitVec 512 := BitVec.ofNat 512 (readFor s (curWho s) p pa 64)
    let dev := devOfDie (dieOfThread k)
    (∀ e, e < 1024 → intakeAt s dev e = none → (∀ j, j < e → intakeAt s dev j ≠ none) → recordMalformed s r = false →
        (recNdep r ≠ 0 ∨ recCond r = true) →
        ∃ t, exec (.launch d a) s = .next t ∧ wrote d (word (3072 + e)) s t ∧ wentOn s t
          ∧ OnlySeq s { accessed t s with intake := s.intake, domains := s.domains }
          ∧ intakeAt t dev e = some { dev := dev, record := r, seen := [], ready := false, started := [], ended := 0, killed := false,
                                      refused := false, cause := 0, binds := [], look := List.range (recNdep r), ending := none, reading := false, image := 0 })
      ∧ ((∀ e, e < 1024 → intakeAt s dev e ≠ none) →
        ∃ t, exec (.launch d a) s = .next t ∧ wrote d (word (-1)) s t ∧ wentOn s t ∧ OnlySeq s { accessed t s with domains := s.domains })

/-- R135, R214, R186, R256, R257, R258, R215, R76, R138, R139: For each vector and bank instruction that is queued, on a
thread: one that a check of R214 refuses raises that cause; otherwise, where strips are left to the sequencer's own steps,
one that finds the queue holding fewer than sixteen entries (a load into a queue that has left for the memory pipeline is
held no more, R258) completes on the scalar side by appending its entry, which holds its address, scalar operands, vtype, vl,
configuration and region at dispatch, the load-queue entries that it claims, and moving on (a load into a queue takes its
entry there, not yet ready); one that finds sixteen changes nothing. Nothing else of the machine changes. On a thread with an
empty vector queue, vsetl with a legal vtype completes: a pending configuration takes effect and clears every register, vtype
is B, vl is the lesser of A and the cap (VLMAX at the configuration, and 2^VLCEIL) rounded down to whole blocks, every
validity bit is set, speculation ends, parked entries are discarded (with the load-queue entries that a parked load has not
filled: log 19), d receives vl, and masks, other queue entries, flags and generators stay. An illegal vtype raises cause 0x01
with the thread as it was. -/
def Obligations.VectorDispatchAndLength : Prop :=
  (∀ (s : State) (k : Nat) (i : Instr) (ops : Word × Word × Word), s.cur = .thread k → queuedOperands s i = some ops →
    (∀ c, vCheck i k s = some c → exec i s = raise c (tvalWord i) s)
      ∧ (vCheck i k s = none → (thr s k).vdefer = true → queueUse (thr s k) s [] (thr s k).vq < 16 →
        ∃ t, exec i s = .next t ∧ OnlyThread k s { t with serial := s.serial }
          ∧ thr t k = { thr s k with seq := (thr (finish s) k).seq, vq := (thr s k).vq ++ [queuedEntry s k i ops], queues := (thr t k).queues }
          ∧ (loadQueue i = none → (thr t k).queues = (thr s k).queues)
          ∧ ∀ q : Fin 8, loadQueue i = some q.val → (∀ r : Fin 8, r ≠ q → (thr t k).queues[r] = (thr s k).queues[r])
            ∧ ∃ en, (thr t k).queues[q] = (thr s k).queues[q] ++ [en] ∧ (queuedEntry s k i ops).target = some en.id ∧ en.ready = false
              ∧ en.vl = (thr s k).vl ∧ en.width = vtBits (thr s k).vtype)
      ∧ (vCheck i k s = none → (thr s k).vdefer = true → 16 ≤ queueUse (thr s k) s [] (thr s k).vq → exec i s = .next s))
  ∧ (∀ (s : State) (k : Nat) (d a b : Fin 32), s.cur = .thread k → (thr s k).vq = [] →
    let t0 := thr s k
    let cur := if t0.pv then t0.pend else t0.cur
    let most := min (x s a).toNat (min (vlmax cur t0.share (vtBits (x s b))) (2 ^ t0.vlceil))
    let len := blkLen (vtBlk (x s b))
    (vtLegal (x s b) = true → ∃ (t : State) (n : Nat), exec (.vsetl d a b) s = .next t ∧ wrote d (word n) s t ∧ wentOn s t ∧ OnlyThread k s t
        ∧ (len = 0 → n = most) ∧ (0 < len → n % len = 0 ∧ n ≤ most ∧ most < n + len)
        ∧ thr t k = { t0 with seq := (thr t k).seq, vregs := if t0.pv then [] else t0.vregs, cur := cur, pv := false, vtype := x s b,
                              vl := n, bvalid := BitVec.allOnes 32768, spec := false, parked := [],
                              queues := (t0.parked.foldl discardEntry t0).queues })
      ∧ (vtLegal (x s b) = false → exec (.vsetl d a b) s = raise 0x01 (tvalWord (.vsetl d a b)) s))

/-- R216, R217, R218, R186, R98, R136: On a thread: vcfg completes and notes the pending configuration. With an empty vector
queue, mtos writes the count of set bits below vl and the first of them (2^32-1 for none); vtos, where its dispatch checks
pass, its source is ready and the element is not poisoned, writes the element sign- or zero-extended, or zero at or above vl,
and pops a queue it names; sets of aflags, bvalid bits 63:0 and clkseed (which seeds every generator lane) take effect as
their queue entry runs, where no other slot of the core has a strip ready. Nothing else of the machine changes. (An element
of an S-class vtype zero-extends, and one of an invalid block is its code as held: the model's choice, log entry 54.) -/
def Obligations.VectorScalarExchange : Prop :=
  ∀ (s : State) (k : Nat), s.cur = .thread k →
    let t0 := thr s k
    (∀ n, ∃ t, exec (.vcfg n) s = .next t ∧ OnlyThread k s t ∧ thr t k = { t0 with seq := (thr (finish s) k).seq, pend := n, pv := true })
      ∧ (t0.vq = [] → ∀ (d : Fin 32) (m : Fin 8),
        let set := (List.range t0.vl).filter (mbit t0 m)
        writesRegister (.mtos d m) d (word (set.length + set.headD (2 ^ 32 - 1) * 2 ^ 32)) s)
      ∧ (t0.vq = [] → ∀ (d b : Fin 32) (a : Fin 56), vCheck (.vtos d a b) k s = none →
        let cs := newClaims t0 [a.val]
        let v := srcElem (claimFirst cs t0) a (vtBits t0.vtype) (x s b).toNat
        claimsReady t0 cs = true → ((x s b).toNat < t0.vl → v.2 = false) →
        ∃ t, exec (.vtos d a b) s = .next t ∧ OnlyThread k s t ∧ wentOn s t
          ∧ wrote d (if t0.vl ≤ (x s b).toNat then 0 else elementWord t0.vtype v.1) s t
          ∧ thr t k = { t0 with seq := (thr t k).seq, queues := (popClaims cs t0).queues })
      ∧ (t0.vq = [] → t0.vdefer = false → t0.heldTrap = false → t0.st = .running →
        (∀ j, j / 4 = k / 4 → j ≠ k → stripReady s j = false) → ∀ b : Fin 32,
        let ran := fun (r : Fin 21) (w : Thread) => ∃ t, exec (.sets r b) s = .next t ∧ OnlyThread k s t
          ∧ thr t k = { w with seq := (thr (finish s) k).seq }
        ran 3 { t0 with aflags := (x s b).setWidth 7 }
          ∧ ran 4 { t0 with bvalid := BitVec.ofNat 32768 (t0.bvalid.toNat / 2 ^ 64 * 2 ^ 64 + (x s b).toNat) }
          ∧ ran 0x14 { t0 with clkseed := (x s b).setWidth 32, lanes := Vector.ofFn (fun j =>
              if (x s b).setWidth 32 + BitVec.ofNat 32 j.val = 0 then 1 else (x s b).setWidth 32 + BitVec.ofNat 32 j.val) })

/-- R208, R209, R210, R211, R103, R219, R232, R234: An element-wise instruction that runs alone on sound elements (no
poisoned active source, outside speculation, no random rounding, one result register) completes: each active element of the
destination holds its result, computed from the sources as they were before (zero where its block is invalid), unpoisoned;
other elements, other registers and masks are as before; the flags of active valid elements are ORed into aflags; a block's
validity is lost only to a NaN that the destination format cannot hold. Nothing else of the machine changes but the position
of the thread and the queues it popped. -/
def Obligations.ElementWise : Prop :=
  ∀ (s : State) (k : Nat) (i : Instr) (sh : VShape) (ops : Word × Word × Word),
    RunsAlone s k i → queuedOperands s i = some ops → ElementsSound (reader s k i) i sh →
    let t0 := reader s k i
    let live := fun e => activeAt t0 t0.vl sh.m e = true ∧ elementValid t0 sh e = true
    ∃ t, exec i s = .next t ∧ OnlyThread k s t ∧ vectorRan k s t ∧ (thr t k).queues = (popped s k i t0).queues ∧ (thr t k).spec = false
      ∧ (∀ e, targetElem (thr t k) sh.dst e =
          if activeAt t0 t0.vl sh.m e then
            (if elementValid t0 sh e then
              (elementResult t0 i ops.1 sh e).code % 2 ^ (match sh.dst with | .reg _ w => w | .mask _ => 1)
            else 0)
          else targetElem t0 sh.dst e)
      ∧ (match sh.dst with
          | .reg d w => (∀ r, r ≠ d → vreg (thr t k) r = vreg t0 r) ∧ (thr t k).mregs = t0.mregs
              ∧ ∀ e, elemPsn (vreg (thr t k) d) w e = if activeAt t0 t0.vl sh.m e then false else elemPsn (vreg t0 d) w e
          | .mask m => (thr t k).vregs = t0.vregs ∧ ∀ n e, n ≠ m → mbit (thr t k) n e = mbit t0 n e)
      ∧ (∀ j, j < 7 → ((thr t k).aflags.getLsbD j = true ↔
          t0.aflags.getLsbD j = true ∨ ∃ e, live e ∧ (elementResult t0 i ops.1 sh e).flags.getLsbD j = true))
      ∧ (∀ b, b < 32768 → ((thr t k).bvalid.getLsbD b = false ↔ t0.bvalid.getLsbD b = false
          ∨ consulted t0.vtype = true ∧ ∃ e, live e ∧ blockOf t0.vtype e = b ∧ (elementResult t0 i ops.1 sh e).nan = true))

/-- R228, R229, R230: On elements of an integer format of n bits, the result of each instruction of R228 and R229 is the one
of n-bit arithmetic (signed comparisons, high product and magnitude for iN formats; a shift by the amount modulo n) with no
flag; vaddsat and vsubsat give the exact sum or difference when the format holds it, and otherwise the nearer end of its
range with SAT alone; vcmp gives the bit of its relation. -/
def Obligations.IntegerElements : Prop :=
  ∀ (t : Thread) (i : Instr) (op : Word) (sh : VShape) (e : Nat), vShape i t.vtype = some sh → vtClass t.vtype = .i →
    let n := vtBits t.vtype
    let signed := fmtSigned (vtFmt t.vtype)
    let a := BitVec.ofNat n (sourceElem t (firstSource t i sh e) e).1
    let b := BitVec.ofNat n (sourceElem t sh.b e).1
    let num := fun (v : BitVec n) => if signed then v.toInt else (v.toNat : Int)
    let low : Int := if signed then -(2 ^ (n - 1)) else 0
    let high : Int := if signed then 2 ^ (n - 1) - 1 else 2 ^ n - 1
    let sat := fun (v : Int) (r : EOut) => r.nan = false ∧ (BitVec.ofNat n r.code : BitVec n) = BitVec.ofInt n (max low (min high v))
      ∧ r.flags = if low ≤ v ∧ v ≤ high then 0 else 0x20
    let holds := fun (p : Prop) (r : EOut) => r.flags = 0 ∧ r.nan = false ∧ ((p ∧ r.code = 1) ∨ (¬ p ∧ r.code = 0))
    (∀ v, integerElement signed a b (BitVec.ofNat n (oldElem t sh e).1) i = some v → elementResult t i op sh e = ⟨v.toNat, 0, false⟩)
      ∧ (∀ d x y m, i = .vaddsat d x y m → sat (num a + num b) (elementResult t i op sh e))
      ∧ (∀ d x y m, i = .vsubsat d x y m → sat (num a - num b) (elementResult t i op sh e))
      ∧ (∀ d x y m, i = .vcmpEq d x y m → holds (a = b) (elementResult t i op sh e))
      ∧ (∀ d x y m, i = .vcmpNe d x y m → holds (a ≠ b) (elementResult t i op sh e))
      ∧ (∀ d x y m, i = .vcmpLt d x y m → holds (num a < num b) (elementResult t i op sh e))
      ∧ (∀ d x y m, i = .vcmpLe d x y m → holds (num a ≤ num b) (elementResult t i op sh e))

/-- R233, R245, R243, R244, R247, R209: A mask operation that runs alone completes: bit e below vl of its destination is the
operation on bits e of its sources as they were, bits at or above vl and the other masks are as before; vspec sets
speculation and clears every bit of m0. No vector register, validity bit or flag, and nothing else of the machine but the
position of the thread, changes. Running alone without poison and with no array instruction that still reads the tile
register: trow puts each active element below 64 in its cell of the row that the scalar operand names modulo 64
(sign-extended for a signed format), other cells staying; tcol takes the low bits of each cell of the column into active
elements; an element of an invalid block counts as zero. vmerge ends speculation and copies each element that its mask
selects, when none is marked in m0 or poisoned. Nothing else changes but the position of the thread and the queues popped.
(That vmerge moves element codes only under an S-class vtype is the model's choice: log entry 67.) -/
def Obligations.MasksTilesAndMerge : Prop :=
  (∀ (s : State) (k : Nat) (i : Instr), RunsAlone s k i →
    let t0 := thr s k
    (∀ (d : Fin 8) (f : Nat → Bool), (∀ e, maskBit t0 e i = some (d, f e)) →
        ∃ t, exec i s = .next t ∧ OnlyThread k s t
          ∧ thr t k = charged { t0 with seq := (thr (finish s) k).seq, mregs := (thr t k).mregs } (thr t k)
          ∧ (∀ e, mbit (thr t k) d e = if e < t0.vl then f e else mbit t0 d e) ∧ ∀ n e, n ≠ d → mbit (thr t k) n e = mbit t0 n e)
      ∧ (i = .vspec → ∃ t, exec i s = .next t ∧ OnlyThread k s t
          ∧ thr t k = charged { t0 with seq := (thr (finish s) k).seq, spec := true, mregs := (thr t k).mregs } (thr t k)
          ∧ (∀ e, mbit (thr t k) 0 e = false) ∧ ∀ n e, n ≠ 0 → mbit (thr t k) n e = mbit t0 n e))
  ∧ (∀ (s : State) (k : Nat) (i : Instr), RunsAlone s k i →
    let t0 := reader s k i
    let bits := vtBits t0.vtype
    let cn := k / 4
    (∀ (n : Fin 8) (a : Fin 56) (b : Fin 32) (m : Fin 8), i = .trow n a b m → tileInUse s k n.val = false →
        (∀ e, (srcElem t0 a bits e).2 = false) →
        let v := fun e => if blockOk t0 t0.vtype e then BitVec.ofNat bits (srcElem t0 a bits e).1 else 0
        ∃ t, exec i s = .next t ∧ OnlyThread k s { t with cores := s.cores } ∧ vectorRan k s t ∧ (thr t k).vregs = t0.vregs
          ∧ (thr t k).mregs = t0.mregs ∧ (thr t k).aflags = t0.aflags ∧ (thr t k).queues = (popped s k i t0).queues
          ∧ (∀ j, j ≠ cn → core t j = core s j) ∧ core t cn = { core s cn with tiles := (core t cn).tiles }
          ∧ (∀ n', n' ≠ n → (core t cn).tiles[n'] = (core s cn).tiles[n'])
          ∧ ∀ r c, r < 64 → c < 64 → elemBits (core t cn).tiles[n] 32 (64 * r + c) =
              if r = (x s b).toNat % 64 ∧ activeAt t0 t0.vl m c = true then
                (if vtClass t0.vtype = .i ∧ fmtSigned (vtFmt t0.vtype) = true then ((v c).signExtend 32).toNat else (v c).toNat)
              else elemBits (core s cn).tiles[n] 32 (64 * r + c))
      ∧ (∀ (d : Fin 48) (n : Fin 8) (b : Fin 32) (m : Fin 8), i = .tcol d n b m → tileInUse s k n.val = false →
        (∀ e, elemPsn (core s cn).tiles[n] 32 e = false) →
        ∃ t, exec i s = .next t ∧ OnlyThread k s t ∧ vectorRan k s t ∧ OnlyRegister d.val t0 (thr t k) ∧ (thr t k).aflags = t0.aflags
          ∧ ∀ e, elemBits (vreg (thr t k) d.val) bits e =
              if e < 64 ∧ activeAt t0 t0.vl m e = true then
                (if blockOk t0 t0.vtype e then elemBits (core s cn).tiles[n] 32 (64 * e + (x s b).toNat % 64) % 2 ^ bits else 0)
              else elemBits (vreg t0 d.val) bits e)
      ∧ (∀ (d : Fin 48) (v : Fin 56) (m : Fin 8), i = .vmerge d v m →
        (∀ e, mbit t0 m e = true → mbit t0 0 e = false ∧ (srcElem t0 v bits e).2 = false ∧ pairPsn t0 t0.vtype (v.val + 1) e = false) →
        ∃ t, exec i s = .next t ∧ OnlyThread k s t ∧ vectorRan k s t ∧ (thr t k).spec = false ∧ (thr t k).aflags = t0.aflags
          ∧ (thr t k).mregs = t0.mregs ∧ (thr t k).bvalid = t0.bvalid ∧ (∀ r, r ≠ d.val → vreg (thr t k) r = vreg t0 r)
          ∧ ∀ e, elemBits (vreg (thr t k) d.val) bits e =
              if e < t0.vl ∧ mbit t0 m e = true then
                (if blockOk t0 t0.vtype e && (vtClass t0.vtype != .s || pairOk t0 t0.vtype (v.val + 1) e) then (srcElem t0 v bits e).1 else 0)
              else elemBits (vreg t0 d.val) bits e))

/-- R236, R237, R238, R239, R240, R209: A permute that runs alone on sources without poison completes: each element of its
destination is left, zero, or the element of the source that R236 to R239 name, as the sources were before (zero where the
block of either is invalid). vprune writes for each group of eight the elements that fewer than four go before in the order
of magnitude, in index order, and their indices as nibbles of the group's metadata word; elements at or above vl and invalid
ones count as zero. Other registers, masks, validity bits and flags, and all else but the position of the thread and the
queues it popped, stay. (A vpick index at or above vl in an invalid block, and a queue entry of another width named as vb,
are the model's choices: log entry 67.) -/
def Obligations.Permutes : Prop :=
  ∀ (s : State) (k : Nat) (i : Instr) (ops : Word × Word × Word),
    RunsAlone s k i → queuedOperands s i = some ops → cleanSources (reader s k i) i →
    let t0 := reader s k i
    let bits := vtBits t0.vtype
    (∀ (d : Fin 48) (f : Nat → Permuted), (∀ e, permuted t0 ops.1.toNat e i = some (d, f e)) →
        ∃ t, exec i s = .next t ∧ OnlyThread k s t ∧ vectorRan k s t ∧ OnlyRegister d.val t0 (thr t k) ∧ (thr t k).aflags = t0.aflags
          ∧ (thr t k).queues = (popped s k i t0).queues
          ∧ ∀ e, elemBits (vreg (thr t k) d.val) bits e = match f e with
              | .keep => elemBits (vreg t0 d.val) bits e
              | .zero => 0
              | .from r j => if blockOk t0 t0.vtype e ∧ blockOk t0 t0.vtype j then (srcElem t0 r bits j).1 else 0)
      ∧ (∀ (d b : Fin 48) (a : Fin 56), i = .vprune d a b → d ≠ b →
        let code := fun e => if e < t0.vl ∧ blockOk t0 t0.vtype e then (srcElem t0 a bits e).1 else 0
        let group := fun h => (List.range 8).map (fun j => (j, cmpVal (vtClass t0.vtype) (vtFmt t0.vtype) (code (8 * h + j))))
        let kept := fun h => (List.range 8).filter (fun j => decide (((group h).filter (fun u =>
          pruneBefore u (j, cmpVal (vtClass t0.vtype) (vtFmt t0.vtype) (code (8 * h + j))))).length < 4))
        ∃ t, exec i s = .next t ∧ OnlyThread k s t ∧ vectorRan k s t ∧ (∀ r, r ≠ d.val → r ≠ b.val → vreg (thr t k) r = vreg t0 r)
          ∧ (thr t k).mregs = t0.mregs ∧ (thr t k).bvalid = t0.bvalid ∧ (thr t k).aflags = t0.aflags
          ∧ (∀ h, 8 * h < t0.vl → (kept h).length = 4
              ∧ (∀ j, j < 4 → elemBits (vreg (thr t k) d.val) bits (4 * h + j) =
                  if blockOk t0 t0.vtype (4 * h + j) then code (8 * h + (kept h).getD j 0) else 0)
              ∧ elemBits (vreg (thr t k) b.val) 16 h = (kept h).getD 0 0 + 16 * (kept h).getD 1 0 + 256 * (kept h).getD 2 0 + 4096 * (kept h).getD 3 0)
          ∧ ∀ e, 4 * ((t0.vl + 7) / 8) ≤ e → elemBits (vreg (thr t k) d.val) bits e = elemBits (vreg t0 d.val) bits e)

/-- R241, R242, R209: A reduction that runs alone over valid blocks and unpoisoned elements, without random rounding,
completes: element 0 of its destination is the reduction of the active elements, which for an integer format is the exact one
of R241 modulo the width, and its flags are ORed into aflags; every other bit of the register, other registers and masks
stay. With an invalid block among them element 0 is zero and no flag is set; with vl zero nothing is written. -/
def Obligations.Folds : Prop :=
  ∀ (s : State) (k : Nat) (i : Instr) (kind : VFold) (d : Fin 48) (a : Fin 56) (m : Fin 8),
    RunsAlone s k i → reduction i = some (kind, d, a, m) →
    let t0 := reader s k i
    let bits := vtBits t0.vtype
    let es := (List.range t0.vl).filter (activeAt t0 t0.vl m)
    let valid := blockOk t0 t0.vtype 0 && es.all (blockOk t0 t0.vtype)
    let out := foldOut kind t0.vtype (t0.lanes[0]).toNat t0.vl (es.map (fun e => (e, (srcElem t0 a bits e).1)))
    (∀ e ∈ es, (srcElem t0 a bits e).2 = false) → (kind = .add → vtClass t0.vtype = .f → vtFmt t0.vtype = 0 ∨ vtRm t0.vtype ≠ 5) →
    (∃ t, exec i s = .next t ∧ OnlyThread k s t ∧ vectorRan k s t ∧ OnlyRegister d.val t0 (thr t k)
        ∧ (thr t k).queues = (popped s k i t0).queues
        ∧ (0 < t0.vl → elemBits (vreg (thr t k) d.val) out.1 0 = if valid then out.2.code % 2 ^ out.1 else 0)
        ∧ (0 < t0.vl → (vreg (thr t k) d.val).bits.toNat / 2 ^ out.1 = (vreg t0 d.val).bits.toNat / 2 ^ out.1)
        ∧ (t0.vl = 0 → vreg (thr t k) d.val = vreg t0 d.val)
        ∧ (thr t k).aflags = if 0 < t0.vl ∧ valid = true then t0.aflags ||| out.2.flags else t0.aflags)
      ∧ (vtClass t0.vtype = .i → out.1 = bits ∧ out.2.flags = 0
        ∧ (BitVec.ofNat bits out.2.code : BitVec bits) =
          BitVec.ofInt bits (integerFold (vtFmt t0.vtype) kind (es.map (fun e => intVal (vtFmt t0.vtype) (srcElem t0 a bits e).1))))

/-- R213, R234, R235, R94: A vcvt that runs alone without poison or random rounding to a wider format completes: active
element e is element e mod c of register d + e div c, where c is the elements of the target that a register holds (zero where
its block is invalid), and other elements and registers stay. A vcvt into bfp16 over valid blocks writes in each block of 32
the mantissas that the block's shared exponent gives (zero past vl) and the exponent byte in the register after the group; a
NaN source clears the validity bit of its block where the bits are consulted (R94). -/
def Obligations.WideningConversions : Prop :=
  ∀ (s : State) (k : Nat) (d : Fin 48) (a : Fin 56) (m : Fin 8) (target : Fin 19), RunsAlone s k (.vcvt d a m target) →
    let t0 := reader s k (.vcvt d a m target)
    let bits := vtBits t0.vtype
    let wide := fmtBits target.val
    let c := 2 ^ Nat.log2 (8 * regBytes t0.cur t0.share / wide)
    let ok := fun e => blockOk t0 t0.vtype e && (vtClass t0.vtype != .s || pairOk t0 t0.vtype (a.val + 1) e)
    let scale := fun e => elemBits (vreg t0 (a.val + 1)) 8 (blockOf t0.vtype e)
    (∀ e, e < t0.vl → (srcElem t0 a bits e).2 = false ∧ pairPsn t0 t0.vtype (a.val + 1) e = false) →
    (target ≠ 9 → bits < wide → c * wide ≤ 262144 → (vtRm t0.vtype ≠ 5 ∨ target = 8) →
        ∃ t, exec (.vcvt d a m target) s = .next t ∧ OnlyThread k s t ∧ vectorRan k s t ∧ (thr t k).mregs = t0.mregs
          ∧ (∀ e, e < t0.vl → elemBits (vreg (thr t k) (d.val + e / c)) wide (e % c) =
              if activeAt t0 t0.vl m e then
                (if ok e then (elCvt t0.vtype target.val (vtRm t0.vtype) (t0.lanes[e % 64]'(Nat.mod_lt _ (by decide))).toNat
                  (srcElem t0 a bits e).1 (scale e)).code % 2 ^ wide else 0)
              else elemBits (vreg t0 (d.val + e / c)) wide (e % c))
          ∧ ∀ r, (∀ e, e < t0.vl → r ≠ d.val + e / c) → vreg (thr t k) r = vreg t0 r)
      ∧ (target = 9 → (∀ e, e < t0.vl → ok e = true) →
        let g := cvtGroup t0 9
        let per := if g = 1 then t0.vl + 32 else 2 ^ Nat.log2 (8 * regBytes t0.cur t0.share / 16)
        min per (32 * ((t0.vl + 31) / 32)) * 16 ≤ 262144 →
        let val := fun e => cvtSource t0.vtype (srcElem t0 a bits e).1 (scale e)
        let block := fun b => bfpConvert (((List.range 32).filter (fun j => 32 * b + j < t0.vl)).map (fun j => val (32 * b + j))) false
        ∃ t, exec (.vcvt d a m target) s = .next t ∧ OnlyThread k s t ∧ vectorRan k s t ∧ (thr t k).mregs = t0.mregs
          ∧ (∀ b, b < 32768 → ((thr t k).bvalid.getLsbD b = false ↔ t0.bvalid.getLsbD b = false
              ∨ consulted t0.vtype = true ∧ ∃ e, e < t0.vl ∧ blockOf t0.vtype e = b ∧ isNanV (val e) = true))
          ∧ (∀ b j, 32 * b < t0.vl → j < 32 → elemBits (vreg (thr t k) (d.val + (32 * b + j) / per)) 16 ((32 * b + j) % per) =
              if 32 * b + j < t0.vl then (((block b).2.1.getD j 0) % 65536).toNat else 0)
          ∧ ∀ b, 32 * b < t0.vl → elemBits (vreg (thr t k) (d.val + g)) 8 b = (block b).1 % 256)

/-- R251, R252, R256, R258, R262, R209: A vector load that runs alone, all of whose governed elements of valid blocks read
from ordinary memory (or, for a speculative load, are not loadable because the index is poisoned, the page is of device class
or the address does not translate), completes: each governed element is what memory holds at the address of R251, zero for an
invalid block, and zero, poisoned and marked in m0 for one not loaded; other elements stay. A destination that is a queue
gets a new ready entry instead of writing a register. No byte of memory and nothing else of the machine changes, beside what
the accesses leave on their way. (What the accesses leave on their way: log entries 60 and 66.) -/
def Obligations.VectorLoads : Prop :=
  ∀ (s : State) (k : Nat) (i : Instr) (spec : Bool) (d : Fin 56) (m : Fin 8) (v : Nat → Nat) (lost : Nat → Bool),
    RunsAlone s k i → elementMove i = some (true, spec, d, m) →
    let t0 := reader s k i
    let bits := vtBits t0.vtype
    let w := vectorWho s k
    let hit := fun e => if spec then activeAt t0 t0.vl m e else governedAt t0 t0.vl m e
    (∀ e, hit e = true → blockOk t0 t0.vtype e = true →
      if lost e then spec = true ∧ notLoaded s w bits e (elementAddress s t0 e i).1 (elementAddress s t0 e i).2
      else (elementAddress s t0 e i).2 = false ∧ ElementRead s w bits e (elementAddress s t0 e i).1 (v e)
        ∧ pteDev (leafDev s w bits e (elementAddress s t0 e i).1) = false) →
    let value := fun e => if blockOk t0 t0.vtype e && !lost e then v e % 2 ^ bits else 0
    ∃ t, exec i s = .next t ∧ OnlyThread k s { accessed t s with serial := s.serial } ∧ vectorRan k s t
      ∧ (d.val < 48 → t.serial = s.serial) ∧ (thr t k).bvalid = t0.bvalid ∧ (thr t k).spec = t0.spec ∧ (thr t k).aflags = t0.aflags
      ∧ (∀ n e, mbit (thr t k) n e = (mbit t0 n e || decide (n = 0) && hit e && blockOk t0 t0.vtype e && lost e))
      ∧ (d.val < 48 → (thr t k).queues = (popped s k i t0).queues ∧ (∀ r, r ≠ d.val → vreg (thr t k) r = vreg t0 r)
        ∧ ∀ e, elemBits (vreg (thr t k) d.val) bits e = (if hit e then value e else elemBits (vreg t0 d.val) bits e)
          ∧ elemPsn (vreg (thr t k) d.val) bits e =
            (if hit e then blockOk t0 t0.vtype e && lost e else elemPsn (vreg t0 d.val) bits e))
      ∧ (∀ q : Fin 8, d.val = 48 + q.val → (thr t k).vregs = t0.vregs
        ∧ (∀ r : Fin 8, r ≠ q → (thr t k).queues[r] = (popped s k i t0).queues[r])
        ∧ ∃ en, (thr t k).queues[q] = (popped s k i t0).queues[q] ++ [en] ∧ en.vl = t0.vl ∧ en.width = bits ∧ en.ready = true
          ∧ ∀ e, hit e = true → elemBits en.data bits e = value e ∧ elemPsn en.data bits e = (blockOk t0 t0.vtype e && lost e))

/-- R254, R250, R252, R208: On a pair format, vldb that runs alone with readable block bytes and (where the byte is not the
invalid mark) elements completes: each block with a governed element has its byte in the block register and its validity bit
set unless the byte is the mark, its governed elements are loaded, zero for an invalid block, and all else stays. vstb stores
for each such block its byte (the mark for an invalid block), and its governed elements (zero for an invalid block), bit for
bit, and changes no other byte of memory and no register (it may clear the poison of granules that it writes whole). -/
def Obligations.ScaleBlockMoves : Prop :=
  ∀ (s : State) (k : Nat) (r : Fin 24) (p : Fin 16) (n : Fin 64) (m : Fin 8) (ord ovt : Bool),
    let t0 := thr s k
    let bits := vtBits t0.vtype
    let w := vectorWho s k
    let hit := fun e => governedAt t0 t0.vl m e
    let base := x s (pairLo p) + word (32 * n.val)
    let scaled := fun b => ∃ e, hit e = true ∧ blockOf t0.vtype e = b
    vtLegal t0.vtype = true →
    (RunsAlone s k (.vldb r p n m ord ovt) → ∀ (mark : Nat → Nat) (v : Nat → Nat),
        (∀ b, scaled b → ∃ pt pa, ReachesMemory s w true false 1 (x s (pairHi p) + word b) pt pa ∧ mark b = readFor s w pt pa 1) →
        (∀ e, hit e = true → mark (blockOf t0.vtype e) ≠ badByte t0.vtype →
          ElementRead s w bits e (base + word (e * bits / 8)) (v e) ∧ pteDev (leafAt s w (base + word (e * bits / 8))) = false) →
        ∃ t, exec (.vldb r p n m ord ovt) s = .next t ∧ OnlyThread k s (accessed t s) ∧ vectorRan k s t ∧ (thr t k).mregs = t0.mregs
          ∧ (thr t k).aflags = t0.aflags ∧ (thr t k).spec = t0.spec
          ∧ (∀ q, q ≠ 2 * r.val → q ≠ 2 * r.val + 1 → vreg (thr t k) q = vreg t0 q)
          ∧ (∀ e, elemBits (vreg (thr t k) (2 * r.val)) bits e =
              if hit e then (if mark (blockOf t0.vtype e) = badByte t0.vtype then 0 else v e % 2 ^ bits) else elemBits (vreg t0 (2 * r.val)) bits e)
          ∧ (∀ b, scaled b → elemBits (vreg (thr t k) (2 * r.val + 1)) 8 b = mark b % 256
              ∧ (thr t k).bvalid.getLsbD b = (mark b != badByte t0.vtype))
          ∧ ∀ b, ¬ scaled b → elemBits (vreg (thr t k) (2 * r.val + 1)) 8 b = elemBits (vreg t0 (2 * r.val + 1)) 8 b
              ∧ (thr t k).bvalid.getLsbD b = t0.bvalid.getLsbD b)
      ∧ (RunsAlone s k (.vstb r p n m ord ovt) → ∀ f g : Nat → Nat,
        let touched := fun a => (∃ q, coveredByte t0 m q ∧ f q = a) ∨ ∃ b, scaled b ∧ g b = a
        UnitStride s k m base f touched →
        (∀ b, scaled b → StoreReaches s w 1 (x s (pairHi p) + word b) (g b) touched) →
        (∀ b c, scaled b → scaled c → g b = g c → b = c) → (∀ q b, coveredByte t0 m q → scaled b → f q ≠ g b) →
        (∀ e, hit e = true → blockOk t0 t0.vtype e = true →
          elemPsn (vreg t0 (2 * r.val)) bits e = false ∧ elemPsn (vreg t0 (2 * r.val + 1)) 8 (blockOf t0.vtype e) = false) →
        ∃ t, exec (.vstb r p n m ord ovt) s = .next t ∧ OnlyThread k s (withGranulesOf t s)
          ∧ thr t k = charged { t0 with seq := (thr (finish s) k).seq } (thr t k)
          ∧ (∀ a, ¬ touched a → readByte t a = readByte s a)
          ∧ (∀ b, scaled b → (readByte t (g b)).toNat =
              if t0.bvalid.getLsbD b then elemBits (vreg t0 (2 * r.val + 1)) 8 b else badByte t0.vtype)
          ∧ ∀ q b, coveredByte t0 m q → b < 8 → (readByte t (f q)).getLsbD b = storedBit s t0 ⟨2 * r.val, by omega⟩ m f q b)

/-- R251, R252, R253, R263: A vector store that runs alone, whose governed elements reach ordinary memory of the die's own
system on unchecked pages and are not poisoned, completes and changes no register. A strided or indexed store leaves at the
computed address of each governed element its bytes (zero for an invalid block, nothing for one of an indexed store), a later
element over an earlier one, and every other byte as before. A unit-stride store of any element width leaves each bit of a
governed element in its place, and every other bit of memory as before; the poison of granules that it writes whole may be
cleared. -/
def Obligations.VectorStores : Prop :=
  ∀ (s : State) (k : Nat) (i : Instr) (r : Fin 56) (m : Fin 8), RunsAlone s k i → elementMove i = some (false, false, r, m) →
    let t0 := reader s k i
    let bits := vtBits t0.vtype
    let w := vectorWho s k
    let indexed : Bool := match i with | .vstx .. => true | _ => false
    let hit := fun e => governedAt t0 t0.vl m e && (blockOk t0 t0.vtype e || !indexed)
    let value := fun e => if blockOk t0 t0.vtype e then (srcElem t0 r bits e).1 else 0
    let ran := fun t => exec i s = .next t ∧ OnlyThread k s (withGranulesOf t s)
      ∧ thr t k = charged { t0 with seq := (thr (finish s) k).seq, queues := (popped s k i t0).queues } (thr t k)
    (∀ e, hit e = true → blockOk t0 t0.vtype e = true → (srcElem t0 r bits e).2 = false ∧ (elementAddress s t0 e i).2 = false) →
    (8 ≤ bits → (∀ d b n m o v, i ≠ .vst d b n m o v) → ∀ pa : Nat → Nat,
        let spans := fun e a => hit e = true ∧ pa e ≤ a ∧ a < pa e + bits / 8
        (∀ e, hit e = true → StoreReaches s w (bits / 8) (elementAddress s t0 e i).1 (pa e) (fun a => ∃ e, spans e a)) →
        ∃ t, ran t ∧ t.poison = s.poison ∧ t.latent = s.latent ∧ (∀ a, (∀ e, ¬ spans e a) → readByte t a = readByte s a)
          ∧ ∀ e a, spans e a → (∀ e', e < e' → ¬ spans e' a) → (readByte t a).toNat = value e / 256 ^ (a - pa e) % 256)
      ∧ (∀ b n m' o v, i = .vst r b n m' o v → ∀ f : Nat → Nat,
        let touched := fun a => ∃ q, coveredByte t0 m q ∧ f q = a
        UnitStride s k m (x s b + word (32 * n.val)) f touched →
        ∃ t, ran t ∧ (∀ a, ¬ touched a → readByte t a = readByte s a)
          ∧ ∀ q b, coveredByte t0 m q → b < 8 → (readByte t (f q)).getLsbD b = storedBit s t0 r m f q b)

/-- R289, R290, R292, R293, R294, R295, R297, R296, R298: A bank operation on words that runs alone, with its addresses in
common memory of its own die on unchecked pages and nothing poisoned, completes: taking elements in ascending order, each
finds as old value what an earlier element with the same address left, else memory; its word becomes the combination
(unchanged when nothing is written); every operation but cm.ew leaves the old value in the data element; no other byte and no
other register changes. For integer types the combination is that of n-bit arithmetic, comparison or choice, clamped to 32
bits by cm.madd, and cm.ew sets the sum, difference, product, lesser or greater of the old word and the data element that SUB
names, with no flag. cm.red that runs alone with its elements and its destination in common memory of its own die on
unchecked pages, nothing poisoned, completes: with an active element the destination becomes the combination of itself and
the reduction (for integer types the sum modulo the width, the lesser or the greater of its old word and every element, with
no flag), otherwise nothing is written; no other byte and no register changes. cm.probe that runs alone over buckets that its
governed elements do not share completes: the status and slot of R298 are in the element of vr, and a key is written to the
lowest empty slot only when it is absent, the bucket has room and INS is set; nothing else changes. -/
def Obligations.BankOperations : Prop :=
  (∀ (s : State) (k : Nat) (i : Instr) (o : CmOp) (p : Fin 16) (m : Fin 8) (sub : Nat) (ops : Word × Word × Word) (pa : Nat → Nat),
    RunsAlone s k i → cmOp i = some o → o.op ≠ 11 → queuedOperands s i = some ops → ops.1 = x s (pairLo p) → ops.2.1 = x s (pairHi p) →
    BankControl s k ops.2.1 m sub →
    let t0 := reader s k i
    let n := o.bits / 8
    let hit := fun e => governedAt t0 t0.vl m e
    let data := fun e => elemBits (vreg t0 o.reg) o.bits e
    let data2 := fun e => if o.op = 7 then elemBits (vreg t0 (o.reg + 1)) o.bits e else 0
    let spans := fun e a => hit e = true ∧ pa e ≤ a ∧ a < pa e + n
    (t0.vl * o.bits ≤ 262144) →
    (∀ e, hit e = true → elemPsn (vreg t0 o.reg) o.bits e = false ∧ (o.op = 7 → elemPsn (vreg t0 (o.reg + 1)) o.bits e = false)
      ∧ (∀ r, o.idx = some r → (srcElem t0 r 32 e).2 = false)
      ∧ BankReaches s (vectorWho s k) true n (bankAddress s t0 p o.idx n e) (pa e) (fun a => ∃ e, spans e a)) →
    (∃ (t : State) (old new : Nat → Nat), exec i s = .next t ∧ OnlyThread k s (withMemoryOf t s) ∧ vectorRan k s t
        ∧ (thr t k).mregs = t0.mregs ∧ (thr t k).bvalid = t0.bvalid ∧ (thr t k).spec = t0.spec
        ∧ (thr t k).queues = (popped s k i t0).queues
        ∧ (∀ e, hit e = true → old e = (match lastBefore t0 m pa e with | some j => new j | none => readMem s (pa e) n)
            ∧ new e = ((cmNew o sub (old e) (data e) (data2 e)).1.getD (old e)) % 2 ^ o.bits)
        ∧ (∀ e, hit e = true → (∀ j, e < j → hit j = true → pa j ≠ pa e) → readMem t (pa e) n = new e)
        ∧ (∀ a, (∀ e, ¬ spans e a) → readByte t a = readByte s a)
        ∧ (∀ r, r ≠ o.reg → vreg (thr t k) r = vreg t0 r)
        ∧ (∀ j, j < 7 → ((thr t k).aflags.getLsbD j = true ↔ t0.aflags.getLsbD j = true
            ∨ ∃ e, hit e = true ∧ (cmNew o sub (old e) (data e) (data2 e)).2.getLsbD j = true))
        ∧ ∀ e, elemBits (vreg (thr t k) o.reg) o.bits e = if hit e = true ∧ o.op ≠ 8 then old e else data e)
      ∧ (o.ty < 4 → o.op ≠ 8 → ∀ (old v v2 : BitVec o.bits),
          (cmNew o sub old.toNat v.toNat v2.toNat).1 = (bankWord (decide (o.ty < 2)) old v v2 i).map BitVec.toNat)
      ∧ (o.ty < 4 → o.op = 8 → ∀ (old v v2 : BitVec o.bits),
          cmNew o sub old.toNat v.toNat v2.toNat = (some (bankPair (decide (o.ty < 2)) sub old v).toNat, 0)))
  ∧ (∀ (s : State) (k : Nat) (p : Fin 16) (m : Fin 8) (sub : Nat),
    let t0 := thr s k
    let w := vectorWho s k
    let c := x s (pairHi p)
    let hit := fun e => governedAt t0 t0.vl m e
    let es := (List.range t0.vl).filter hit
    BankControl s k c m sub →
    (∀ (sd : Fin 32) (ty : Fin 5) (dst : Nat) (pa : Nat → Nat), RunsAlone s k (.cmRed p sd ty) →
        let n := cmBits ty.val / 8
        (es ≠ [] → BankReaches s w true n (x s sd) dst (fun _ => False)) →
        (∀ e, hit e = true → BankReaches s w false n (bankAddress s t0 p none n e) (pa e) (fun _ => False)) →
        let r := cmReduce sub ty.val t0.vl (es.map (fun e => (e, readMem s (pa e) n)))
        let v := cmArith (match sub with | 0 => 0 | 1 => 3 | _ => 4) ty.val (readMem s dst n) r.1
        ∃ t, exec (.cmRed p sd ty) s = .next t ∧ OnlyThread k s (withMemoryOf t s)
          ∧ (es = [] → t.mem = s.mem ∧ thr t k = charged { t0 with seq := (thr (finish s) k).seq } (thr t k))
          ∧ (es ≠ [] → storedBytes s t dst n v.1
              ∧ thr t k = charged { t0 with seq := (thr (finish s) k).seq, aflags := t0.aflags ||| r.2 ||| v.2 } (thr t k)
              ∧ (ty.val < 4 → r.2 ||| v.2 = 0 ∧ BitVec.ofNat (cmBits ty.val) v.1 =
                  (es.map (fun e => BitVec.ofNat (cmBits ty.val) (readMem s (pa e) n))).foldl
                    (bankPair (decide (ty.val < 2)) (match sub with | 0 => 0 | 1 => 3 | _ => 4)) (BitVec.ofNat (cmBits ty.val) (readMem s dst n)))))
      ∧ (∀ (key : Fin 56) (vr : Fin 48) (pa : Nat → Nat), RunsAlone s k (.cmProbe p key vr) → t0.vl * 64 ≤ 262144 →
        let t0 := reader s k (.cmProbe p key vr)
        let out := fun e => elemBits (vreg t0 vr.val) 64 e
        let spans := fun e a => hit e = true ∧ pa e ≤ a ∧ a < pa e + 64
        let slot := fun e j => readMem s (pa e + 8 * j) 8
        let want := fun e => (srcElem t0 key 64 e).1
        (∀ e, hit e = true → elemPsn (vreg t0 vr.val) 64 e = false ∧ (srcElem t0 key 64 e).2 = false
          ∧ BankReaches s w true 64 (x s (pairLo p) + word (out e / 64 * 64)) (pa e) (fun a => ∃ e, spans e a)) →
        (∀ e j a, e ≠ j → spans e a → ¬ spans j a) →
        ∃ t, exec (.cmProbe p key vr) s = .next t ∧ OnlyThread k s (withMemoryOf t s) ∧ vectorRan k s t
          ∧ OnlyRegister vr.val t0 (thr t k) ∧ (thr t k).aflags = t0.aflags
          ∧ (∀ e, hit e = false → elemBits (vreg (thr t k) vr.val) 64 e = out e)
          ∧ (∀ a, (∀ e, ¬ spans e a) → readByte t a = readByte s a)
          ∧ ∀ e, hit e = true →
            let found := fun st j => elemBits (vreg (thr t k) vr.val) 64 e = out e / 64 * 64 + st * 8 + j
            let same := ∀ a, spans e a → readByte t a = readByte s a
            let absent := ∀ j, j < 8 → slot e j ≠ want e
            (want e = 0 → found 4 0 ∧ same)
              ∧ (∀ j, want e ≠ 0 → j < 8 → slot e j = want e → (∀ h, h < j → slot e h ≠ want e) → found 0 j ∧ same)
              ∧ (want e ≠ 0 → absent → (∀ j, j < 8 → slot e j ≠ 0) → found 3 0 ∧ same)
              ∧ (∀ j, want e ≠ 0 → absent → j < 8 → slot e j = 0 → (∀ h, h < j → slot e h ≠ 0) →
                  if c.getLsbD 6 then
                    found 1 j ∧ readMem t (pa e + 8 * j) 8 = want e ∧ ∀ a, spans e a → (a < pa e + 8 * j ∨ pa e + 8 * j + 8 ≤ a) → readByte t a = readByte s a
                  else found 2 j ∧ same)))

/-- R78, R79, R80, R84, R85, R94, R95, R96, R97, R223, R234: For every legal vtype of the F class and all operand codes,
vadd, vsub, vmul, vdiv, vfma, vfms, vfnma and vsqrt give what the rules give for their operands: the canonical NaN with NV
for a signalling operand or an invalid operation, an infinity of the right sign (with DZ for a division by zero), or the
exact value rounded once: the member of the format that the mode selects (nearest with ties to even or away, towards zero,
down, up, or by the lane's generator under SR), zero with its sign, infinity or the largest finite beyond the range with OF
and NX, UF and NX as R96 says. Under every vtype vcvt gives, for the number that the element and its block byte stand for,
the same rounding into a floating target, the nearest end of the range with OF or the selected integer into an integer one,
and the code of the nearest logarithm into lns6, with the codes and flags of R94 for NaNs and infinities. (That an overflow
is judged on the rounded value, that lns6 underflow is inexact, and that minus infinity goes to 0 with OF in an unsigned
format are log entry 20's readings.) -/
def Obligations.FloatArithmetic : Prop :=
  ∀ (t : Thread) (i : Instr) (op : Word) (sh : VShape) (e : Nat), vShape i t.vtype = some sh → vtLegal t.vtype = true →
    let f := vtFmt t.vtype
    let rm := vtRm t.vtype
    let sr := (t.lanes[e % 64]'(Nat.mod_lt _ (by decide))).toNat
    let out := elementResult t i op sh e
    let a := (sourceElem t (firstSource t i sh e) e).1
    let b := (sourceElem t sh.b e).1
    let c := (oldElem t sh e).1
    (∀ x, vtClass t.vtype = .f → floatArithmetic rm (numberOf f a) (numberOf f b) (numberOf f c) i = some x →
        out.nan = false ∧ Gives f rm sr x.1 x.2 out.code out.flags)
      ∧ (∀ d y m target, i = .vcvt d y m target → target ≠ 9 →
        Converted target.val rm sr (elementNumber t.vtype a (elemBits (vreg t (y.val + 1)) 8 (blockOf t.vtype e))) out.code out.flags out.nan)

/-- R80, R83, R101, R224, R225, R226, R230: For a legal vtype of the F class: vmin and vmax give the operand that is not NaN,
the canonical NaN for two, and otherwise the lesser or greater operand with -0 below +0; vabs clears and vneg inverts the
sign, and both give the canonical NaN for a NaN; compares take -0 and +0 as equal, NaN as unordered; NV is set by a
signalling operand, and by any NaN in vcmp.lt and vcmp.le; no other flag is. vexp2 (f32) gives R101 bit by bit. For the L
class: vmul gives R83's product with SAT and UF, vabs the code with sign 0, vneg the code of the other sign (0 for a zero
code), vmin and vmax the operand of lesser or greater value (va's when they are equal), and compares go by value. -/
def Obligations.ElementCodes : Prop :=
  ∀ (t : Thread) (i : Instr) (op : Word) (sh : VShape) (e : Nat), vShape i t.vtype = some sh → vtLegal t.vtype = true →
    let f := vtFmt t.vtype
    let top := 2 ^ (fmtBits f - 1)
    let out := elementResult t i op sh e
    let a := (sourceElem t (firstSource t i sh e) e).1
    let b := (sourceElem t sh.b e).1
    let nan := fun (n : Number) => ∃ s, n = .nan s
    let nv := fun (p : Prop) => (p ∧ out.flags = fNV) ∨ (¬ p ∧ out.flags = 0)
    let bit := fun (p : Prop) => (p ∧ out.code = 1) ∨ (¬ p ∧ out.code = 0)
    (vtClass t.vtype = .f →
        let x := numberOf f a
        let y := numberOf f b
        let signals := x.signals = true ∨ y.signals = true
        let least := fun (p q : Nat) => (nan x → nan y → out.code = fmtNan f) ∧ (nan x → ¬ nan y → out.code = b)
          ∧ (¬ nan x → nan y → out.code = a)
          ∧ (¬ nan x → ¬ nan y → ((numberBelow true (numberOf f p) (numberOf f q) → out.code = a)
              ∧ (¬ numberBelow true (numberOf f p) (numberOf f q) → numberBelow true (numberOf f q) (numberOf f p) → out.code = b)
              ∧ (out.code = a ∨ out.code = b)))
        out.nan = false
          ∧ (∀ d p q m, i = .vminFloat d p q m → nv signals ∧ least a b)
          ∧ (∀ d p q m, i = .vmaxFloat d p q m → nv signals ∧ least b a)
          ∧ (∀ d p m, i = .vabsFloat d p m → nv (x.signals = true) ∧ (nan x → out.code = fmtNan f) ∧ (¬ nan x → out.code = a % top))
          ∧ (∀ d p m, i = .vnegFloat d p m → nv (x.signals = true) ∧ (nan x → out.code = fmtNan f) ∧ (¬ nan x → out.code = a ^^^ top))
          ∧ (∀ d p q m, i = .vcmpEq d p q m → nv signals ∧ bit (¬ nan x ∧ ¬ nan y ∧ ¬ numberBelow false x y ∧ ¬ numberBelow false y x))
          ∧ (∀ d p q m, i = .vcmpNe d p q m → nv signals ∧ bit (¬ (¬ nan x ∧ ¬ nan y ∧ ¬ numberBelow false x y ∧ ¬ numberBelow false y x)))
          ∧ (∀ d p q m, i = .vcmpLt d p q m → nv (nan x ∨ nan y) ∧ bit (numberBelow false x y))
          ∧ (∀ d p q m, i = .vcmpLe d p q m → nv (nan x ∨ nan y) ∧ bit (¬ nan x ∧ ¬ nan y ∧ ¬ numberBelow false y x))
          ∧ (∀ d p m, i = .vexp2 d p m → f = 0 → Exp2 x out.code out.flags))
      ∧ (vtClass t.vtype = .l →
        let sign := fun (c : Nat) => c / 32 % 2
        out.nan = false
          ∧ (∀ d p q m, i = .vmulFloat d p q m →
              let l : Int := (a % 32 : Nat) + (b % 32 : Nat) - 32
              let neg := if sign a = sign b then 0 else 32
              if a % 32 = 0 ∨ b % 32 = 0 then out.code = 0 ∧ out.flags = 0
              else if 15 < l then out.code = neg + 31 ∧ out.flags = fSAT
              else if l < -15 then out.code = 0 ∧ out.flags = fUF
              else out.code = neg + (l + 16).toNat ∧ out.flags = 0)
          ∧ (∀ d p m, i = .vabsFloat d p m → out.code = a % 32 ∧ out.flags = 0)
          ∧ (∀ d p m, i = .vnegFloat d p m → out.code = (if a % 32 = 0 then 0 else a ^^^ 32) ∧ out.flags = 0)
          ∧ (∀ d p q m, i = .vminFloat d p q m → out.code = (if lnsRat b < lnsRat a then b else a) ∧ out.flags = 0)
          ∧ (∀ d p q m, i = .vmaxFloat d p q m → out.code = (if lnsRat a < lnsRat b then b else a) ∧ out.flags = 0)
          ∧ (∀ d p q m, i = .vcmpEq d p q m → bit (lnsRat a = lnsRat b) ∧ out.flags = 0)
          ∧ (∀ d p q m, i = .vcmpNe d p q m → bit (lnsRat a ≠ lnsRat b) ∧ out.flags = 0)
          ∧ (∀ d p q m, i = .vcmpLt d p q m → bit (lnsRat a < lnsRat b) ∧ out.flags = 0)
          ∧ (∀ d p q m, i = .vcmpLe d p q m → bit (lnsRat a ≤ lnsRat b) ∧ out.flags = 0))

/-- R80, R84, R94, R99, R235, R241, R242: For all elements given with their numbers: the F-class vfold.add sums the values of
each group of 32 elements by R99 over a window of 64 bits and adds the groups in ascending order to an f32 accumulator by
RNE, from which a bf16 or f16 result is rounded by the mode in force; vfold.max and vfold.min give the greatest or least code
(-0 below +0, minus or plus infinity for none) and vfold.amax the greatest magnitude with sign 0 (zero for none), or the
canonical NaN for any NaN, with NV for a signalling one. The L-class vfold.add gives the exact sum of the R84 values rounded
to f32 by RNE, max and min a code of greatest or least value (code 0 for none; of equal zero codes the earlier operand's
stays, log entry 67), amax the code of greatest magnitude with sign 0. A block converted into bfp16 has the exponent,
mantissas and flags of R235 (when the exponent would pass 127, whether NX is set beside OF is left to the mantissas formed
before, as R235 says of NX). -/
def Obligations.FloatFolds : Prop :=
  (∀ (vt : Word) (sr vl : Nat) (es : List (Nat × Nat)), vtLegal vt = true → vl ≤ 32768 → es.length ≤ 32768 →
      (∀ p ∈ es, p.1 < vl ∧ p.2 < 2 ^ vtBits vt) →
    let f := vtFmt vt
    let top := 2 ^ (fmtBits f - 1)
    let anyNan := ∃ p ∈ es, ∃ s, numberOf f p.2 = .nan s
    let nv := if ∃ p ∈ es, numberOf f p.2 = .nan true then fNV else 0
    (vtClass vt = .f →
        (let r := foldOut .add vt sr vl es
         let groups := (List.range ((vl + 31) / 32)).map (fun g => (es.filter (fun p => p.1 / 32 == g)).map (fun p => some (numberOf f p.2)))
         r.1 = fmtBits f ∧ ∃ acc fl, SummedGroups 64 groups 0 acc fl
           ∧ (f = 0 → r.2.code = acc ∧ r.2.flags = fl)
           ∧ (f ≠ 0 → ∃ cf, Gives f (vtRm vt) sr (numberOf 0 acc).exact false r.2.code cf ∧ r.2.flags = fl ||| cf))
        ∧ (∀ (kind : VFold) (up : Bool), kind = (if up then .max else .min) →
            let r := foldOut kind vt sr vl es
            r.1 = fmtBits f ∧ (anyNan → r.2.code = fmtNan f ∧ r.2.flags = nv)
              ∧ (¬ anyNan → r.2.flags = 0 ∧ (es = [] → r.2.code = signCode f up + fmtInf f) ∧ (es ≠ [] → ∃ p ∈ es, p.2 = r.2.code)
                ∧ ∀ p ∈ es, ¬ (if up then numberBelow true (numberOf f r.2.code) (numberOf f p.2) else numberBelow true (numberOf f p.2) (numberOf f r.2.code))))
        ∧ (let r := foldOut .amax vt sr vl es
           r.1 = fmtBits f ∧ (anyNan → r.2.code = fmtNan f ∧ r.2.flags = nv)
             ∧ (¬ anyNan → r.2.flags = 0 ∧ (es = [] → r.2.code = 0) ∧ (es ≠ [] → ∃ p ∈ es, p.2 % top = r.2.code) ∧ ∀ p ∈ es, p.2 % top ≤ r.2.code)))
      ∧ (vtClass vt = .l →
        (let r := foldOut .add vt sr vl es
         r.1 = 32 ∧ Rounded 0 0 0 false (exactAt ((es.map (fun p => lnsRat p.2)).sum)) r.2.code r.2.flags)
        ∧ (∀ (kind : VFold) (up : Bool), kind = (if up then .max else .min) →
            let r := foldOut kind vt sr vl es
            r.1 = fmtBits f ∧ r.2.flags = 0 ∧ (es = [] → r.2.code = 0) ∧ (es ≠ [] → ∃ p ∈ es, p.2 = r.2.code)
              ∧ ∀ p ∈ es, if up then lnsRat p.2 ≤ lnsRat r.2.code else lnsRat r.2.code ≤ lnsRat p.2)
        ∧ (let r := foldOut .amax vt sr vl es
           r.1 = fmtBits f ∧ r.2.flags = 0 ∧ r.2.code < 32 ∧ (es = [] → r.2.code = 0) ∧ (es ≠ [] → ∃ p ∈ es, p.2 % 32 = r.2.code)
             ∧ ∀ p ∈ es, p.2 % 32 ≤ r.2.code)))
  ∧ (∀ (vt : Word) (bad : Bool) (es : List (Nat × Nat)), vtLegal vt = true → (∀ p ∈ es, p.1 < 2 ^ vtBits vt ∧ p.2 < 256) →
    let r := bfpConvert (es.map (fun p => cvtSource vt p.1 p.2)) bad
    BfpBlock (es.map (fun p => elementNumber vt p.1 p.2)) bad r.1 r.2.1 r.2.2)

/-- R395, R401, R410, R423, R425, R432, R407: On a thread that holds its core's attachment, with room in the context's queue
and no earlier vector move of a tile register it reads, each array instruction of majors 0x21 to 0x26 completes by appending
one command with its operand registers (for vproj forms also its 128-byte record, readable and unpoisoned; for a drain into a
queue, with fa.drain or with fa.drainv, its entries are made there) and moving on; without the attachment each of them raises
cause 0x42. fa.commit needs only the room. Nothing else changes. -/
def Obligations.ArrayCommands : Prop :=
  ∀ (s : State) (k : Nat), s.cur = .thread k →
    let x0 := ctx s (k / 4)
    (x0.queue.length < 32 → commandQueued s k .faCommit (plainCommand s k .faCommit))
      ∧ (x0.holder ≠ some k → ∀ i, (arrayOperands s i).isSome = true ∨ (projection i).isSome = true ∨ (∃ p a q, i = .faDrain p a q)
          ∨ (∃ p v q, i = .faDrainv p v q ∧ v.val < regCount (thr s k).cur) → exec i s = raise 0x42 (tvalWord i) s)
      ∧ (x0.holder = some k → x0.queue.length < 32 →
        (∀ i f, arrayOperands s i = some f → tilePending (thr s k) (f (plainCommand s k i)).tileRegs = false →
            commandQueued s k i (f (plainCommand s k i)))
          ∧ (∀ i a p pa p' pa', projection i = some a → cWaits s = false →
            Reaches s (curWho s) true false 64 (x s a) p pa → Reaches s (curWho s) true false 64 (x s a + 64) p' pa' →
            (∀ q r, (q = p ∧ r = pa ∨ q = p' ∧ r = pa') → racing s (curWho s) q r 64 = false ∧ poisoned s r 64 = false
              ∧ isMemory r ∧ homeReached s (curWho s) r) →
            commandQueued s k i { plainCommand s k i with a0 := x s a, record := readFor s (curWho s) p pa 64
                                                                                  + 2 ^ 512 * readFor s (curWho s) p' pa' 64 })
          ∧ ((thr s k).vq = [] → ∀ (p : Fin 16) (v : Fin 48), v.val < regCount (thr s k).cur →
            let tiles := (List.range 8).filter (fun j => (x s (pairLo p)).toNat.testBit j)
            (∀ m, elemPsn (vreg (thr s k) v.val) (vtBits (thr s k).vtype) m = false) →
            ∃ tokens, (∀ m, m < tiles.length → tokens / 16 ^ m % 16 = elemBits (vreg (thr s k) v.val) (vtBits (thr s k).vtype) m % 16)
              ∧ commandQueued s k (.faDrainv p v none)
                  { plainCommand s k (.faDrainv p v none) with a0 := x s (pairLo p), a1 := x s (pairHi p), tokens := tokens })
          ∧ ((thr s k).vq = [] → ∀ (p : Fin 16) (q : Fin 8) (i : Instr) (token : Nat → Nat),
            (∃ a, i = .faDrain p a (some q) ∧ ∀ m, token m = (x s a).toNat % 16)
              ∨ (∃ v : Fin 48, i = .faDrainv p v (some q) ∧ v.val < regCount (thr s k).cur
                  ∧ (∀ m, elemPsn (vreg (thr s k) v.val) (vtBits (thr s k).vtype) m = false)
                  ∧ ∀ m, token m = elemBits (vreg (thr s k) v.val) (vtBits (thr s k).vtype) m % 16) →
            ∃ tokens, (∀ m, m < ((List.range 8).filter (fun j => (x s (pairLo p)).toNat.testBit j)).length → tokens / 16 ^ m % 16 = token m) ∧
            let cmd : FaCmd := { plainCommand s k i with a0 := x s (pairLo p), a1 := x s (pairHi p), tokens := tokens }
            let rs := drainRoutes s (k / 4) cmd (some q)
            let rows := ctlRows (x s (pairLo p)) x0.rows
            let es := drainEntries s.serial (s.serial + rs.length * rows) rows rs
            groupsUsed (thr s k) + (es.map (fun e => queueGroups e.vl e.width)).sum ≤ 16 →
            ∃ t, exec i s = .next t ∧ regsSame s t ∧ wentOn s t
              ∧ ctx t (k / 4) = { x0 with queue := x0.queue ++ [.cmd { cmd with routes := rs, serial := s.serial + rs.length * rows }] }
              ∧ (∀ c, c ≠ k / 4 → ctx t c = ctx s c)
              ∧ thr t k = { thr s k with seq := (thr t k).seq, queues := (thr s k).queues.set q ((thr s k).queues[q] ++ es) }
              ∧ OnlyThread k s { t with ctxs := s.ctxs, serial := s.serial }))

/-- R393, R394, R397, R426, R392, R406, R407, R89, R301: On a thread whose earlier array instructions have completed:
fa.attach of n granules to a context that no other thread holds makes the thread its holder and raises its rows towards 32n
as far as the cluster has rows; fa.detach of n takes that many granules and drops the rows above from every accumulator, and
of 0 releases everything; fa.wait only goes on; each of these otherwise waits. fa.amax and fa.amax.final of a tile that is
not empty, once the earlier instructions that name it have completed (for fa.amax: or have drained it), write its
maximum-magnitude register to d. Nothing else changes. On a thread with no commit in its context's queue, no program on the
context and no load pending, fa.cfgld leaves a load of its image pending with its operands, and the thread waiting; once that
load is done, it goes on and the context holds no load. A step of a context with nothing else to do goes on with the load
that a bound thread waits for, of a legal address and length: with the shadow empty meanwhile it copies the next 32-byte word
that its die's own stack holds readable and sound, and once it has copied them all and the image is well formed, the shadow
is that image, with its address, its signature and the bounds of its blocks, and the load is done. Nothing else changes, the
live configuration least of all. -/
def Obligations.ArrayAttachment : Prop :=
  (∀ (s : State) (k : Nat), s.cur = .thread k →
    let c := k / 4
    let x0 := ctx s c
    let left := 128 - (ctx s (c / 2 * 2)).rows - (ctx s (c / 2 * 2 + 1)).rows
    let only := fun (i : Instr) (x1 : Ctx) => ∃ t, exec i s = .next t ∧ regsSame s t ∧ wentOn s t ∧ ctx t c = x1
      ∧ (∀ j, j ≠ c → ctx t j = ctx s j) ∧ OnlySeq s { t with ctxs := s.ctxs }
    (faQuiet s k = true →
        onlyGoesOn .faWait s
          ∧ (∀ n : Fin 5, x0.holder = none ∨ x0.holder = some k →
            let more := if x0.rows < 32 * n.val then 32 * min (n.val - x0.rows / 32) (left / 32) else 0
            only (.faAttach n) { x0 with holder := some k, rows := x0.rows + more })
          ∧ (x0.holder = some k → only (.faDetach 0) { x0 with holder := none, rows := 0, acc := Vector.replicate 8 AccTile.init })
          ∧ (∀ n : Fin 5, n ≠ 0 → x0.holder = some k → ∃ acc, only (.faDetach n) { x0 with rows := x0.rows - 32 * min n.val (x0.rows / 32), acc := acc }
              ∧ ∀ j : Fin 8, acc[j] = { x0.acc[j] with rows := acc[j].rows }
                ∧ ∀ p, p ∈ acc[j].rows ↔ p ∈ x0.acc[j].rows ∧ p.1 < x0.rows - 32 * min n.val (x0.rows / 32)))
      ∧ (faQuiet s k = false → ∀ i, (i = .faWait ∨ (∃ n, i = .faAttach n) ∨ ∃ n, i = .faDetach n) →
        ∃ t, exec i s = .next t ∧ thr t k = { thr s k with st := .waiting } ∧ OnlyThread k s t)
      ∧ (∀ (d : Fin 32) (a : Fin 8) (i : Instr) (final : Bool), (i = .faAmax d a ∧ final = false ∨ i = .faAmaxFinal d a ∧ final = true) →
        x0.holder = some k → accPending s k a final = false → x0.acc[a].type ≠ tyE → writesRegister i d x0.acc[a].amax s))
  ∧ (∀ (s : State) (k : Nat) (p : Fin 16), s.cur = .thread k →
    let c := k / 4
    let cmd : FaCmd := { plainCommand s k (.faCfgld p) with a0 := x s (pairLo p), a1 := x s (pairHi p) }
    (commitQueued s k = false → (ctx s c).prog = none → (ctx s c).load = none →
        ∃ t, exec (.faCfgld p) s = .next t ∧ thr t k = { thr s k with st := .waiting } ∧ ctx t c = { ctx s c with load := some (cmd, false), loading := none }
          ∧ (∀ j, j ≠ c → ctx t j = ctx s j) ∧ OnlyThread k s { t with ctxs := s.ctxs, serial := s.serial })
      ∧ (∀ l : FaCmd, (ctx s c).load = some (l, true) → l.iss.thread = k → l.iss.bind = (thr s k).bind → l.iss.pc = pcOf s →
        ∃ t, exec (.faCfgld p) s = .next t ∧ regsSame s t ∧ wentOn s t ∧ ctx t c = { ctx s c with load := none }
          ∧ (∀ j, j ≠ c → ctx t j = ctx s j) ∧ OnlySeq s { t with ctxs := s.ctxs })
      ∧ (∀ (l : FaCmd) (q : Fin 16), (ctx s c).load = some (l, false) → loadLive s l = true → l.instr = .faCfgld q →
        (ctx s c).prog = none → (ctx s c).queue = [] →
        let n := l.a1.toNat
        let copied := (ctx s c).loading.getD (0, 0)
        let w := whoF s c l.iss
        let only := fun (x1 : Ctx) => ∃ t, exec (.faContextExecute c) s = .next t ∧ ctx t c = x1 ∧ (∀ j, j ≠ c → ctx t j = ctx s j)
          ∧ accessed { t with ctxs := s.ctxs } s = s
        l.a0.toNat % 32 = 0 → 256 ≤ n → n ≤ 65536 → n % 32 = 0 →
        (copied.1 < n / 32 → ∀ (p : Word) (pa d : Nat), Reaches s w true false 1 (l.a0 + word (32 * copied.1)) p pa → placeOf pa = .hbm d →
            racing s w p pa 32 = false → poisoned s pa 32 = false → homeReached s w pa →
            only { ctx s c with shadow := none, loading := some (copied.1 + 1, copied.2 + readFor s w p pa 32 * 256 ^ (32 * copied.1)) })
          ∧ (n / 32 ≤ copied.1 → imgOk copied.2 n = true →
            only { ctx s c with load := some (l, true), loading := none,
                                shadow := some { addr := l.a0, len := n, data := copied.2, rid := l.iss.rid, asid := l.iss.asid,
                                                 sig := signature l.iss.rid n copied.2,
                                                 beta := Vector.ofFn (fun e => imgBeta copied.2 e.val), failed := false } })))

/-- R302, R306, R314, R318, R319, R321, R62: On a thread with fewer than 64 commands in its engine's queue, each copy
instruction completes by appending one command with its operand registers, cp.nest with the record its register names as it
is read at issue, and each collective with such a record that R324 does not refuse; cp.arm, with checks that pass, arms the
command at its object while the object's phase is the one it waits for and room is left, and queues it (its acquire
performed) when the phase has passed. cp.wait goes on with no command of the thread outstanding and waits otherwise; cp.stat
writes the two counts. Nothing else changes. (A zero barrier operand of cp.red2 names no barrier, and records are read by the
engine's own path at issue: the model's readings, log entries 51 and 52.) -/
def Obligations.CopyCommands : Prop :=
  ∀ (s : State) (k : Nat), s.cur = .thread k →
    let n := engineNumber k
    let e := engine s n
    let w := whoX n (issuerNow s k (pcOf s))
    let mine := fun (c : CopyCmd) => c.prog == none && c.iss.thread == k && c.iss.bind == (thr s k).bind
    let issued := (e.queue.filter mine).length + (e.colls.filter (fun l => mine l.cmd)).length + (e.armed.filter (fun a => a.fired && mine a.cmd)).length
    let unfired := (e.armed.filter (fun a => !a.fired && mine a.cmd)).length
    (e.queue.length < 64 →
        (∀ i fn a b second bar, copyForm s i = some (fn, a, b, second, bar) →
            copyQueued s k i { freshCopy s k 0 fn with src := x s (pairLo a), sctl := x s (pairHi a), dst := x s (pairLo b),
                                                       dctl := x s (pairHi b), second := second, bar := bar })
          ∧ (∀ i a rec gtab bad u, recordForm i = some (1, false, a) → nestRead w (x s a) s = .ok (rec, gtab, bad) u → accessed u s = s →
            copyQueued s k i { freshCopy s k 1 0 with record := rec, gtab := gtab, bad := bad, bar := barNamed (bitsOf rec 376 320) })
          ∧ (∀ i kind a rec gtab u, recordForm i = some (kind, true, a) → collRead w (x s a) s = .ok (rec, gtab, none) u → accessed u s = s →
            let cmd := { freshCopy s k 2 kind with record := rec, gtab := gtab, bar := barNamed (bitsOf rec 376 320) }
            collCheck u (n / 4) cmd = none → copyQueued s k i cmd))
      ∧ (∀ (a b c : Fin 32) rec gtab pa u v, nestRead w (x s a) s = .ok (rec, gtab, none) u →
        let cmd := { freshCopy s k 1 0 with record := rec, gtab := gtab, bar := barNamed (bitsOf rec 376 320) }
        armCheck w cmd (x s b) u = .ok pa v → accessed v s = s →
        (barPhase (barRead s pa) ≠ (x s c).getLsbD 0 → e.queue.length < 64 → copyQueued s k (.cpArm a b c) (firedCmd s pa cmd))
          ∧ (barPhase (barRead s pa) = (x s c).getLsbD 0 → e.armed.length < 16 →
            ∃ t, exec (.cpArm a b c) s = .next t ∧ regsSame s t ∧ wentOn s t
              ∧ engine t n = { e with armed := e.armed ++ [⟨pa, (x s c).getLsbD 0, false, cmd⟩] }
              ∧ barArmd (barRead t pa) = true ∧ barPhase (barRead t pa) = barPhase (barRead s pa)
              ∧ (∀ a, a < pa ∨ pa + 16 ≤ a → readByte t a = readByte s a) ∧ (∀ m, m ≠ n → engine t m = engine s m)
              ∧ OnlySeq s { accessed t s with engines := s.engines, serial := s.serial, mem := s.mem, barriers := s.barriers }))
      ∧ (issued = 0 → onlyGoesOn .cpWait s)
      ∧ (issued ≠ 0 → ∃ t, exec .cpWait s = .next t ∧ thr t k = { thr s k with st := .waiting } ∧ OnlyThread k s t)
      ∧ ∀ d, writesRegister (.cpStat d) d (word (issued % 2 ^ 16 + unfired % 2 ^ 16 * 2 ^ 16)) s

/-- R26, R450, R452, R453, R454, R457, R464, R465: On a thread with no vector access outstanding, whose first operand
translates into HBM of its own device, with room in that die's engine and no request in service for a line of the command:
each near-memory instruction without a gate completes by appending its command; with a gate whose phase has passed it appends
it ready to start, and with one still to come it arms the object (ARMD and the bit of the engine's die in WATCH are set, and
PHASE, COUNT and every other bit of the object stay) and takes a slot; nothing else changes but that object and the cached
lines that are recalled. nm.wait goes on when every command of the thread is held at a gate, nm.wait all when there is none,
and otherwise they wait; nm.stat writes the counts. -/
def Obligations.NearMemoryCommands : Prop :=
  ∀ (s : State) (k : Nat), s.cur = .thread k →
    let own := s.nms.flatMap (fun p => (p.2.queue ++ p.2.gates ++ p.2.active.toList).filter
      (fun c => c.iss.thread == k && c.iss.bind == (thr s k).bind))
    (∀ i op a b g p pa d, nearForm i = some (op, a, b, g) → vPending (thr s k) = false →
        translate s (curWho s) true false 1 (x s (pairLo a)).toNat = .ok (p, pa) → pteMc p = false → placeOf pa = .hbm d →
        devOf pa = devOfDie (k / 128) →
        let die := devOf pa * 32 + d
        let cmd : NmCmd :=
          { iss := issuerNow s k (pcOf s), serial := s.serial, op := op, a := x s (pairLo a), a1 := x s (pairHi a), b := x s (pairLo b),
            b1 := x s (pairHi b), g := if g = 0 then 0 else x s (pairLo g), g1 := if g = 0 then 0 else x s (pairHi g), plain := decide (g = 0),
            gate := none, firedAt := 0, slot := false, ready := false, coef := 0, number := 0, gran := 0, done := 0, flags := 0, wrote := [],
            stop := none }
        let added := fun (c : NmCmd) (o : Option Nat) => ∃ t, exec i s = .next t ∧ regsSame s t ∧ wentOn s t
          ∧ (cachesCurrent s → ∀ a, (∀ p, o = some p → a < p ∨ p + 16 ≤ a) → readByte t a = readByte s a)
          ∧ (cachesCurrent s → ∀ p, o = some p → (barRead t p).testBit 69 = true ∧ (barRead t p).testBit (72 + die % 32) = true
              ∧ ∀ b, b ≠ 69 → b ≠ 72 + die % 32 → (barRead t p).testBit b = (barRead s p).testBit b)
          ∧ OnlySeq s { accessed t s with nms := s.nms, serial := s.serial, mem := s.mem, barriers := s.barriers, fresh := s.fresh }
          ∧ nm t die = { nm s die with queue := (nm s die).queue ++ [c] } ∧ (∀ j, j ≠ die → nm t j = nm s j)
        recallBusy die cmd s = false → (nm s die).queue.length < 64 →
        (cmd.g = 0 → added cmd none)
          ∧ (∀ o, cmd.g ≠ 0 → nmGateBad cmd = false → nmObject (nmWho die cmd) (nmGateAddr cmd) s = .ok (o, s) →
            (barPhase (barRead s o) ≠ cmd.g.getLsbD 0 →
                added { cmd with gate := some (o, cmd.g.getLsbD 0), firedAt := s.serial + 1, ready := true } none)
              ∧ (barPhase (barRead s o) = cmd.g.getLsbD 0 → nmHeld (nm s die) < 32 →
                added { cmd with gate := some (o, cmd.g.getLsbD 0), slot := true } (some o))))
      ∧ ((thr s k).snap = none → own.all (fun c => c.gate.isSome && (c.firedAt == 0 || decide (s.serial < c.firedAt))) = true → onlyGoesOn .nmWait s)
      ∧ (own = [] → onlyGoesOn .nmWaitAll s)
      ∧ (own ≠ [] → ∃ t, exec .nmWaitAll s = .next t ∧ thr t k = { thr s k with st := .waiting } ∧ OnlyThread k s t)
      ∧ ∀ d, writesRegister (.nmStat d) d
          (word (own.length % 2 ^ 16 + (own.filter (fun c => c.gate.isSome && c.firedAt == 0)).length % 2 ^ 16 * 2 ^ 16)) s

/-- R361, R362, R363, R364, R365, R368: On a thread with no ordered vector access to wait for, iq.decl of a readable,
writable, aligned block of its die's common memory that R364 does not refuse, without a graph, completes: with a free queue
number the lowest is declared with what the block says and d receives its handle, with none d receives all ones; no byte
outside the block's status half changes. iq.undecl of a named queue with no record pending and no batch available or held,
open or quiescent, frees its number; no byte outside its block's status half and the hayrake's counts changes. -/
def Obligations.QueueDeclarations : Prop :=
  ∀ (s : State) (k : Nat), s.cur = .thread k → cWaits s = false →
    let die := k / 128
    (∀ (d a : Fin 32) (p : Word) (pa : Nat), (x s a).toNat % 256 = 0 → Reaches s (curWho s) true true 1 (x s a) p pa →
        devOf pa = devOfDie die → placeOf pa = .common (die % 32) → racing s (curWho s) p pa 256 = false → poisoned s pa 256 = false →
        let v := readVisible s pa 256
        let q := qdrQueue pa v (issuerNow s k (pcOf s)) none
        v / 2 ^ 64 % 2 ^ 57 = 0 → qdrBad s (devOfDie die) v = false →
        bufferOk s die q (BitVec.ofNat 64 (v / 2 ^ 128 % 2 ^ 57)) (32 * (v / 2 ^ 192 % 2 ^ 24)) = true →
        (∀ n, n < 256 → iqAt s (die * 256 + n) = none → (∀ j, j < n → iqAt s (die * 256 + j) ≠ none) →
            ∃ t, exec (.iqDecl d a) s = .next t ∧ wrote d (word (handleOf (die * 256 + n))) s t ∧ wentOn s t
              ∧ iqAt t (die * 256 + n) = some q ∧ (∀ j, j ≠ die * 256 + n → iqAt t j = iqAt s j)
              ∧ (∀ b, b < pa + 32 ∨ pa + 64 ≤ b → readByte t b = readByte s b)
              ∧ OnlySeq s { accessed t s with iqs := s.iqs, mem := s.mem, tags := s.tags })
          ∧ ((∀ n, n < 256 → iqAt s (die * 256 + n) ≠ none) → loadsRegister (.iqDecl d a) d (word (-1)) s))
      ∧ (∀ (r : Fin 32) (key : Nat) (q : Iq), queueNamed s k (x s r) key q → q.pend = 0 → q.avail = false → q.held = false →
        (q.qstate = 1 ∨ q.qstate = 2) → q.gdesc = none →
        let held := windowBase (key / 256) + 0x800010
        ∃ t, exec (.iqUndecl r) s = .next t ∧ regsSame s t ∧ wentOn s t ∧ iqAt t key = none ∧ (∀ j, j ≠ key → iqAt t j = iqAt s j)
          ∧ (∀ b, (b < q.qdr + 32 ∨ q.qdr + 64 ≤ b) → (b < held ∨ held + 8 ≤ b) → readByte t b = readByte s b)
          ∧ OnlySeq s { t with iqs := s.iqs, mem := s.mem, tags := s.tags })

/-- R366, R368, R369, R370, R375, R376, R379, R380, R384, R385: On a thread where strips are left to the sequencer's own
steps, iq.emit, close, apply, probe and done with well-formed operands and room append their entry (iq.done marks the batch
it ends), and with ill-formed ones raise 0x01. With no ordered access to wait for and a named queue: iq.take of an available
batch hands it to the thread with its buffer and count; iq.stat and iq.front write the fields of R385; iq.qwait of a graph
whose header it may read (no race, no poison, its home reached) goes on when every queue of the graph is declared and its
through-batch has reached the operand, and otherwise waits. -/
def Obligations.QueueInstructions : Prop :=
  ∀ (s : State) (k : Nat), s.cur = .thread k →
    (∀ i a b c d ok, queueForm s i = some (a, b, c, d, ok) →
        (ok = false → exec i s = raise 0x01 (tvalWord i) s)
          ∧ (ok = true → (thr s k).vdefer = true → queueUse (thr s k) s [] (thr s k).vq < 16 →
            ∃ t, exec i s = .next t ∧ OnlyThread k s { t with iqs := s.iqs }
              ∧ ((∀ r, i ≠ .iqDone r) → t.iqs = s.iqs)
              ∧ (∀ r key q, i = .iqDone r → handleQueue s (x s r) = some (key, q) → holdsBatch s k q = true →
                  iqAt t key = some { q with doneSent := true } ∧ ∀ j, j ≠ key → iqAt t j = iqAt s j)
              ∧ thr t k = { thr s k with seq := (thr (finish s) k).seq, vq := (thr s k).vq ++ [{ queuedEntry s k i (a, b, c) with op3 := d }] }))
      ∧ (cWaits s = false → ∀ (r : Fin 32) (key : Nat) (q : Iq), queueNamed s k (x s r) key q →
        (∀ p, q.tags = [] → (holdsBatch s k q = false ∨ q.doneSent = true) → q.avail = true →
            ∃ t, exec (.iqTake p r) s = .next t ∧ wentOn s t ∧ OnlySeq s { t with iqs := s.iqs, mem := s.mem, tags := s.tags }
              ∧ (∀ h, x t h = if h = 0 then 0 else if h = pairHi p then word (q.n + q.nextd.toNat * 2 ^ 48)
                  else if h = pairLo p then word (readMem s (q.qdr + 16) 8 % 2 ^ 57) else x s h)
              ∧ iqAt t key = some { q with avail := false, held := true, holder := some (k, (thr s k).bind), doneSent := false }
              ∧ (∀ j, j ≠ key → iqAt t j = iqAt s j) ∧ ∀ b, b < q.qdr + 32 ∨ q.qdr + 64 ≤ b → readByte t b = readByte s b)
          ∧ (∀ d, writesRegister (.iqStat d r) d (word (q.pend % 2 ^ 32 + q.front.toNat * 2 ^ 32 + q.qthru.toNat * 2 ^ 48)) s)
          ∧ (∀ d, writesRegister (.iqFront d r) d
              (word (q.nextd.toNat + q.avail.toNat * 2 ^ 16 + q.held.toNat * 2 ^ 17 + q.qstate % 4 * 2 ^ 18)) s))
      ∧ (cWaits s = false → ∀ (g b : Fin 32) (p : Word) (pa c : Nat), (x s g).toNat % 64 = 0 → Reaches s (curWho s) true false 1 (x s g) p pa →
        placeOf pa = .common c → racing s (curWho s) p pa 16 = false → poisoned s pa 16 = false → homeReached s (curWho s) pa →
        (x s b).toNat < 2 ^ 16 →
        let h := readVisible s pa 16
        let passed : Prop := h / 2 ^ 80 % 2 ^ 13 = h % 2 ^ 12 + 1 ∧ precedesEq ((x s b).setWidth 16) (BitVec.ofNat 16 (h / 2 ^ 64)) = true
        (passed → accessGoesOn (.iqQwait g b) s)
          ∧ (¬ passed → ∃ t, exec (.iqQwait g b) s = .next t ∧ thr t k = { thr s k with st := .waiting } ∧ OnlyThread k s (accessed t s)))

/-- R342, R343, R344, R345, R346, R347: On a thread with no vector access outstanding: st.flag and st.flag.32 to memory of
its own device store as a releasing store does, and to an unchecked page of a peer, outside a race domain, send one flag of
exactly those bytes, performing nothing here. lk.pref, lk.flush and lk.inval of an address that translates, whose home serves
no request for the line, go on and change nothing but copies of lines, and no byte of memory that copies agree with; lk.pref
of one that does not translate only goes on. pcount writes the count of unacknowledged writes of a path to a device (zero for
its own or none); fence.ack goes on when those it covers are acknowledged and none was lost, and refuses a number that is no
device; lk.stat writes the fields that R347 gives each selector: of a port, of a destination, an entry or the count of the
loss log, else 0. -/
def Obligations.LinkInstructions : Prop :=
  ∀ (s : State) (k : Nat), s.cur = .thread k → vPending (thr s k) = false → cWaits s = false →
    (∀ i n d a p pa, (i = .stFlag d a ∧ n = 8 ∨ i = .stFlag32 d a ∧ n = 4) → Reaches s (curWho s) false true n (x s a) p pa →
        racing s (curWho s) p pa n = false → syncFor s (curWho s) p pa = none →
        (isMemory pa → devOf pa = devOfDie (k / 128) → homeReached s (curWho s) pa → QuietBytes s pa n → releaseOpen s 3 →
            ∃ t, exec i s = .next t ∧ regsSame s t ∧ wentOn s t ∧ storedBytes s t pa n (x s d).toNat ∧ OnlySeq s (withMemoryOf t s))
          ∧ (devOf pa ≠ devOfDie (k / 128) → pairFull s (k / 128) (devOf pa) = false → pteChk p = false →
            (∀ q ∈ s.packets, q.thread = k → q.bind = (thr s k).bind → q.performed = true) → barrierRefuses s pa n pa (pa + n) = false →
            ∃ t pk, exec i s = .next t ∧ regsSame s t ∧ wentOn s t ∧ t.mem = s.mem ∧ t.packets = s.packets ++ [pk]
              ∧ pk.pieces = [(pa, n, (x s d).toNat % 256 ^ n)] ∧ pk.performed = false ∧ pk.kind = .flag ∧ pk.die = k / 128
              ∧ pk.dest = devOf pa ∧ pk.seq = (pair s (k / 128) (devOf pa)).next
              ∧ OnlySeq s { accessed t s with packets := s.packets, pairs := s.pairs, serial := s.serial, fresh := s.fresh }))
      ∧ (∀ i a p pa, (i = .lkPref a ∨ i = .lkFlush a ∨ i = .lkInval a) →
        translate s (curWho s) true false 1 (x s a).toNat = .ok (p, pa) → lineBusy s pa = false →
        ∃ t, exec i s = .next t ∧ regsSame s t ∧ wentOn s t ∧ (cachesCurrent s → ∀ b, readByte t b = readByte s b)
          ∧ OnlySeq s { accessed t s with mem := s.mem, fresh := s.fresh })
      ∧ (∀ a c, translate s (curWho s) true false 1 (x s a).toNat = .error c → accessGoesOn (.lkPref a) s)
      ∧ (∀ (d a : Fin 32) (path : Fin 4),
        let v := (x s a).toNat
        let sent := s.packets.filter (fun q => q.die == k / 128 && q.dest == v && q.path.val == path.val)
        writesRegister (.pcount d a path) d (if 255 < v ∨ v = devOfDie (k / 128) then 0 else word sent.length) s)
      ∧ (∀ a : Fin 32, (a = 0 → AllAcked s k none → onlyGoesOn (.fenceAck a) s)
          ∧ (a ≠ 0 → (x s a).toNat ≤ 255 → (x s a).toNat = devOfDie (k / 128) ∨ AllAcked s k (some (x s a).toNat) → onlyGoesOn (.fenceAck a) s)
          ∧ (a ≠ 0 → 255 < (x s a).toNat → exec (.fenceAck a) s = raise 0x70 (x s a) s))
      ∧ ∀ d a, ∃ r : Word, writesRegister (.lkStat d a) d r s ∧
        let v := (x s a).toNat
        let dev := devOfDie (k / 128)
        let whole := fun port => s.linksDown.contains (dev * 32 + port) = false
        let retrying := fun port => s.replaying.contains (dev * 32 + port)
        let retries := fun port => tabGet 0 s.retries (dev * 32 + port)
        let joined := fun port peer far => decide (whole port) && inDomain s dev peer && !s.linksDown.contains (peer * 32 + far)
        (v < 30 → portFields r (joined v (peerOf dev v) (portTo (peerOf dev v) dev)) (retrying v) (peerOf dev v) (retries v))
          ∧ (v = 30 → ((port30 s dev).testBit 5 = false → r = 0) ∧ ((port30 s dev).testBit 5 = true → port30 s dev % 32 < 30 →
              let peer := peerOf dev (port30 s dev % 32)
              portFields r (joined 30 peer (carrier s peer (portTo peer dev))) (retrying 30) peer (retries 30)))
          ∧ (v = 31 → (dev % 16 ≠ 0 → r = 0) ∧ (dev % 16 = 0 → portFields r (decide (whole 31)) (retrying 31) dev (retries 31)))
          ∧ (∀ n, n ≤ 255 → v = 0x100 + n →
              let sent := s.packets.filter (fun q => q.die == k / 128 && q.dest == n)
              let p := pair s (k / 128) n
              r.extractLsb' 0 16 = p.next ∧ r.extractLsb' 16 16 = ((sent.map Packet.seq).head?.getD p.next)
                ∧ r.extractLsb' 32 13 = BitVec.ofNat 13 sent.length ∧ r.extractLsb' 45 3 = 0 ∧ r.getLsbD 48 = p.lost
                ∧ r.extractLsb' 49 4 = p.epoch ∧ r.extractLsb' 53 11 = 0)
          ∧ (∀ e, e ≤ 15 → v = 0x200 + e → r = (tabGet [] s.lossLog (k / 128)).getD e 0)
          ∧ (v = 0x210 → r = word (tabGet 0 s.lossCount (k / 128) % 2 ^ 32))
          ∧ (32 ≤ v → v < 0x100 ∨ 0x210 < v → r = 0)

/-- R399, R400, R402, R405, R411, R412, R414, R415, R416, R420, R421, R424: Each row that FA_CONTEXT_EXECUTE commits holds in
its named cells what the rules give for the operand row as it is read and for the live configuration: fa.dense and fa.sparse
the sums of products (floats in groups of 32 by R99 and RNE, integers exactly with saturation, logarithms by R84), added to
the old cells under ACC; fa.stage the sums over the blocks of a stage at their strides (floats; residues modulo p; bfp16
normalised by the declared or the measured growth); the pointwise instructions the values of R420's table. Other cells stay,
or are zero where the type is new; flags are ORed; AMAX and the other tiles stay. fa.bfp.static and fa.bfp.meas normalise
every block of a P tile, fa.crt reconstructs each cell from its residues, fa.zero and fa.modset set what they name. A drained
row holds its cells converted by RNE, and AMAX rises through the magnitudes of its cells. (The four block bytes of a bfp16
stage row at byte 256 are log entry 44's reading, and ACC on an old tile of the result type log entry 46's.) -/
def Obligations.ArrayResults : Prop :=
  (∀ (s : State) (c : Nat) (m : FaCmd) (u : State) (b : Bank), CommitsRow s c m u →
    let n := (ctx s c).row
    let p := ((ctx s c).modulus.getD 0).toNat
    let goes := fun (q : State → Prop) => ∃ t, exec (.faContextExecute c) s = .next t ∧ (ctx t c).acc = (ctx u c).acc ∧ q t
    let i := bitsOf m.c0.toNat 14 8 + n
    let e := bankEntry b (bitsOf m.c0.toNat 2 0)
    let ablk := bitsOf m.c0.toNat 40 38
    let scale := fun (at_ v j : Nat) => if blkLen ablk = 0 then 127 else v / 256 ^ (at_ + j / blkLen ablk) % 256
    let old := fun (k ty : Fin 8) (j : Nat) => if m.c0.getLsbD 3 = true ∧ (accTile s c k).type = ty then tileCell (accTile s c k) i j else 0
    let who := whoF s c m.iss
    (∀ (ty k out : Fin 8) (ent : Option (Fin 8)), pointwise ty m.instr = some (k, ent, out) →
        let was := accWas s c k
        let pe := match ent with | some x => bankEntry b x.val | none => 0
        let w := fmtBits (bitsOf pe 8 4)
        (ent ≠ none → (ctx s c).live = some b) →
        (was.type = tyZ ∧ ent ≠ none ∧ ty = entryType (bitsOf pe 8 4) ∨ (was.type ≠ tyZ ∧ ty = was.type) ∨ (was.type = tyZ ∧ ent = none)) →
        goes (fun t => rowCommitted s t c k out n (fun _ => True) (fun j y fl =>
          PointwiseCell ty p (imageBits b pe 0 (w * j) w) (BitVec.ofNat 8 (pe / 2 ^ 48)).toInt m.a0 (tileCell was n j) y fl m.instr)))
      ∧ ((ctx s c).live = some b →
        let kk := bitsOf e 23 16 + 1
        let blk := bitsOf e 11 9
        (∀ (d : Fin 16) (d2 : Fin 16) (k : Fin 8) (f : Fin 10), m.instr = .faDense d d2 k f →
            let fm := productFmt f.val
            let w := fmtBits fm
            let eb := (kk * w + 7) / 8
            let bytes := if blkLen ablk = 0 then eb else padded (eb + (kk + blkLen ablk - 1) / blkLen ablk)
            let ty := productType fm ablk blk
            ∃ v, opndRow s c who (operandOf c m (bitsOf m.a1.toNat 15 0)) [(0, bytes)] w kk i = .ok v
              ∧ goes (fun t => rowCommitted s t c k ty i (fun _ => True) (fun j y fl =>
                DenseCell fm (floatProduct fm ablk blk) (productWindow ablk e)
                  ((List.range kk).map (fun r => (some (v / 2 ^ (w * r) % 2 ^ w, scale eb v r), weightAt b e r j))) (old k ty j) y fl)))
          ∧ (∀ (d : Fin 16) (d2 : Fin 16) (k : Fin 8) (f : Fin 10), m.instr = .faSparse d d2 k f →
            let fm := productFmt f.val
            let w := fmtBits fm
            let bytes := kk / 2 * w / 8
            let ty := productType fm 0 blk
            ∃ v ms, opndRow s c who (operandOf c m bytes) [(0, bytes)] w (kk / 2) i = .ok v ∧ metaWords s who m kk i = .ok ms
              ∧ (∀ h, h < kk / 8 → ∀ x, x < 4 → ms.getD h 0 / 16 ^ x % 16 < 8 ∧ (x < 3 → ms.getD h 0 / 16 ^ x % 16 < ms.getD h 0 / 16 ^ (x + 1) % 16))
              ∧ goes (fun t => rowCommitted s t c k ty i (fun _ => True) (fun j y fl =>
                DenseCell fm (floatProduct fm 0 blk) (productWindow 0 e)
                  ((List.range kk).map (fun r => (((List.range 4).find? (fun x => ms.getD (r / 8) 0 / 16 ^ x % 16 == r % 8)).map
                    (fun x => (v / 2 ^ (w * (4 * (r / 8) + x)) % 2 ^ w, 127)), weightAt b e r j))) (old k ty j) y fl)))
          ∧ (let len := 2 ^ bitsOf m.c0.toNat 25 23
             let sin := bitsOf m.c0.toNat 28 26
             let sout := bitsOf m.c0.toNat 31 29
             let fm := bitsOf e 8 4
             let w := fmtBits fm
             let from_ := operandOf c m (bitsOf m.a1.toNat 15 0)
             let point := fun (j : Nat) => pointOf len sout j
             (∀ (d d2 : Fin 16) (k : Fin 8) (x : Fin 7) (l : Bool), m.instr = .faStageFloat d d2 k x l →
                let bs := 2 ^ (x.val + 1)
                let parts := (0, (len * w + 7) / 8) :: if blkLen ablk = 0 then [] else [(16 * w, (len + blkLen ablk - 1) / blkLen ablk)]
                ∃ v, opndRow s c who from_ parts w len i = .ok v
                  ∧ goes (fun t => rowCommitted s t c k tyF i (fun j => j < len) (fun j y fl =>
                    let q := point j / bs
                    let input := fun (z : Nat) => strideOf len sin (q * bs + z)
                    FloatCell y (fun a => SummedGroups (productWindow ablk e) ((List.range ((bs + 31) / 32)).map (fun g =>
                      ((List.range bs).filter (fun z => z / 32 == g)).map (fun z =>
                        productOf (numberOf fm (stageWeight b e bs q (point j % bs) z)) (scaledNumber fm (v / 2 ^ (w * input z) % 2 ^ w, scale (16 * w) v (input z))))))
                      ((old k tyF j).toNat % 2 ^ 32) a fl))))
               ∧ (∀ (d d2 : Fin 16) (k : Fin 8) (x : Fin 7) (l : Bool), m.instr = .faStageMod d d2 k x l →
                let bs := 2 ^ (x.val + 1)
                ∃ v, opndRow s c who from_ [(0, (len * w + 7) / 8)] w len i = .ok v
                  ∧ goes (fun t => rowCommitted s t c k tyR i (fun j => j < len) (fun j y fl =>
                    let q := point j / bs
                    fl = 0 ∧ ((old k tyR j).toNat < 2 ^ 61 → y.toNat = ((old k tyR j).toNat + ((List.range bs).map (fun z =>
                      stageWeight b e bs q (point j % bs) z * (v / 2 ^ (32 * strideOf len sin (q * bs + z)) % 2 ^ 32))).sum) % p))))
               ∧ (∀ (d d2 : Fin 16) (k : Fin 8) (x : Fin 7) (l : Bool), m.instr = .faStageBfp16 d d2 k x l →
                let bs := 2 ^ (x.val + 1)
                let xw := (BitVec.ofNat 8 (e / 2 ^ 48)).toInt
                ∃ v, opndRow s c who from_ [(0, (len * w + 7) / 8), (256, 4)] w len i = .ok v
                  ∧ goes (fun t => rowCommitted s t c k tyB i (fun j => j < 32 * ((len + 31) / 32)) (fun j y fl =>
                    let xs := fun (q : Nat) => (BitVec.ofNat 8 (v / 256 ^ (256 + q))).toInt
                    let mant := fun (z : Nat) => (BitVec.ofNat 16 (v / 2 ^ (16 * z))).toInt
                    if xw = -128 ∨ ∃ q, q < 4 ∧ xs q = -128 then y = blockCell 0x80 0 ∧ fl = 0
                    else ∃ (xr : ℤ) (m' : Nat → ℤ), (∀ q, q < 4 → xs q ≤ xr) ∧ (∃ q, q < 4 ∧ xs q = xr)
                      ∧ (∀ z, z < len → selectedInt 0 0 (exactAt (mant z / 2 ^ (xr - xs (z / 32)))) (m' z))
                      ∧ ∃ (ex : BitVec 8) (ms : List ℤ) (f : Flags7),
                        Normalised (if m.c0.getLsbD 35 then none else some (bitsOf m.c0.toNat 34 32)) (xr + xw)
                          ((List.range 32).map (fun o =>
                            let z := 32 * (j / 32) + o
                            let q := point z / bs
                            if z < len then ((List.range bs).map (fun g =>
                              (BitVec.ofNat 16 (stageWeight b e bs q (point z % bs) g)).toInt * m' (strideOf len sin (q * bs + g)))).sum else 0)) ex ms f
                        ∧ y = blockCell ex (BitVec.ofInt 16 (ms.getD (j % 32) 0))
                        ∧ fl = f ||| (if ∃ z, z < len ∧ (m' z : ℚ) ≠ mant z / 2 ^ (xr - xs (z / 32)) then fNX else 0)))))))
  ∧ (∀ (s : State) (c : Nat) (m : FaCmd) (u : State), Performs s c m u →
    let goes := fun (q : State → Prop) => ∃ t, exec (.faContextExecute c) s = .next t ∧ (ctx t c).acc = (ctx u c).acc ∧ q t
    let rows := (ctx s c).rows
    let others := fun (k : Fin 8) (t : State) => (∀ k', k' ≠ k → accTile t c k' = accTile s c k') ∧ (accTile t c k).amax = (accTile s c k).amax
      ∧ ∀ r j, rows ≤ r → tileCell (accTile t c k) r j = tileCell (accTile s c k) r j
    (∀ (k : Fin 8) (grow : Option Nat), ((∃ a, m.instr = .faBfpStatic a k ∧ grow = some (m.a0.toNat % 8)) ∨ (m.instr = .faBfpMeas k ∧ grow = none)) →
        goes (fun t => (accTile t c k).type = tyB ∧ others k t ∧ ∃ f : Nat × Nat → Flags7,
          (∃ fl, flagsOf (fun z => z.1 < rows ∧ z.2 < 4) f fl ∧ (accTile t c k).flags = (accTile s c k).flags ||| fl)
            ∧ ∀ r q, r < rows → q < 4 →
              let x := ((tileCell (accTile s c k) r (32 * q)).extractLsb' 48 16).toInt
              if x = -32768 then f (r, q) = 0 ∧ ∀ o, o < 32 → tileCell (accTile t c k) r (32 * q + o) = blockCell 0x80 0
              else ∃ ex ms, Normalised grow x ((List.range 32).map (fun o => ((tileCell (accTile s c k) r (32 * q + o)).extractLsb' 0 48).toInt)) ex ms (f (r, q))
                ∧ ∀ o, o < 32 → tileCell (accTile t c k) r (32 * q + o) = blockCell ex (BitVec.ofInt 16 (ms.getD o 0))))
      ∧ (∀ (d : Fin 32) (j k : Fin 8), m.instr = .faCrt d j k →
        let p1 := bitsOf m.a0.toNat 30 0
        let p2 := bitsOf m.a0.toNat 62 32
        goes (fun t => (accTile t c k).type = tyI ∧ (accTile t c k).flags = (accTile s c k).flags ∧ others k t ∧ ∀ r z, r < rows → z < 128 →
          ∃ v : ℤ, 0 ≤ v ∧ v < p1 * p2 ∧ v % p1 = (tileCell (accTile s c k) r z).toNat ∧ v % p2 = (tileCell (accTile s c j) r z).toNat
            ∧ (tileCell (accTile t c k) r z).toInt = if (p1 * p2 - 1) / 2 < v then v - p1 * p2 else v))
      ∧ (∀ (d : Fin 32), m.instr = .faZero d → goes (fun t => ∀ k : Fin 8,
          let a := accTile s c k
          let z := accTile t c k
          if m.a0.getLsbD k.val then
            (z.flags = if m.a0.getLsbD 9 then m.a0.extractLsb' 11 7 else a.flags) ∧ (z.amax = if m.a0.getLsbD 10 then 0 else a.amax)
              ∧ (m.a0.getLsbD 8 = true → z.type = tyZ ∧ ∀ r j, tileCell z r j = 0) ∧ (m.a0.getLsbD 8 = false → z.type = a.type ∧ z.rows = a.rows)
          else z = a))
      ∧ (∀ (d : Fin 32), m.instr = .faModset d → goes (fun t => (ctx t c).modulus = some (m.a0.setWidth 31) ∧ (ctx t c).acc = (ctx s c).acc)))
  ∧ (∀ (ty : Fin 8) (f : Nat) (cs : List Nat), cs.length = 128 → (∀ v ∈ cs, v < 2 ^ 64) → (f ≤ 4 ∨ f = 12 ∨ f = 13 ∨ f = 9) →
    let r := drainRow ty f cs
    let cell := fun (j : Nat) => BitVec.ofNat 64 (cs.getD j 0)
    (f ≠ 9 → ∃ g : Nat → Flags7, flagsOf (fun j => j < 128) g r.2 ∧ ∀ j, j < 128 → ∃ lost,
        Converted f 0 0 (cellNumber ty (cell j)) (r.1 / 2 ^ (fmtBits f * j) % 2 ^ fmtBits f) (g j) lost)
      ∧ (f = 9 → ty = tyB → r.2 = 0 ∧ (∀ j, j < 128 → BitVec.ofNat 16 (r.1 / 2 ^ (16 * j)) = (cell j).extractLsb' 0 16)
          ∧ ∀ q, q < 4 → BitVec.ofNat 8 (r.1 / 256 ^ (256 + q)) = (cell (32 * q)).extractLsb' 16 8)
      ∧ (f = 9 → ty ≠ tyB → ∃ g : Nat → Flags7, flagsOf (fun q => q < 4) g r.2 ∧ ∀ q, q < 4 → ∃ x ms,
          BfpBlock ((List.range 32).map (fun o => cellNumber ty (cell (32 * q + o)))) false x ms (g q)
            ∧ r.1 / 256 ^ (256 + q) % 256 = x ∧ ∀ o, o < 32 → BitVec.ofNat 16 (r.1 / 2 ^ (16 * (32 * q + o))) = BitVec.ofInt 16 (ms.getD o 0)))
  ∧ (∀ (ty : Fin 8) (a v : Nat), v < 2 ^ 64 →
    (ty = tyI → amaxRaise ty a v = max a (BitVec.ofNat 64 v).toInt.natAbs)
      ∧ (ty = tyR → amaxRaise ty a v = max a (v % 2 ^ 31))
      ∧ (ty ≠ tyI → ty ≠ tyR → a = 0x7FC00000 → amaxRaise ty a v = a)
      ∧ (ty ≠ tyI → ty ≠ tyR → a ≠ 0x7FC00000 → match cellNumber ty (BitVec.ofNat 64 v) with
          | .nan _ => amaxRaise ty a v = 0x7FC00000
          | .infinity _ => amaxRaise ty a v = max a (fmtInf 0)
          | .finite q _ => ∃ code fl, Rounded 0 0 0 false (exactAt |q|) code fl ∧ amaxRaise ty a v = max a code))

/-- R280, R303, R304, R306, R308, R309, R311, R312, R316, R323, R324, R325: COPY_EXECUTE of a checked copy command that names
no barrier performs one row: its destination bytes (through translation under DROT, or in a tile) hold the source row as it
was (copy, and transpose with 32-byte words going down a column), each element converted by RNE, reduce(ROP, RTYPE,
destination, source), or reduce of the two streams with the first as the left operand; a nest without PSRC and FP8 does the
same for one transfer (KIND 0 a copy, KIND 1 reduce with the destination as the left operand); COLLECTIVE_PACKET of the
oldest started collective without FP8 or a route table sends its source to the members of its group, and once it has what it
needs writes the bytes of R323, reductions in the order of R325 for the start packet's code. No other byte of memory changes,
and the flags are kept for the command or ORed into its thread. One transfer a step is the model's choice (log 6), as is how
members go on (log 53). -/
def Obligations.CopyResults : Prop :=
  (∀ (s : State) (n : Nat) (c : CopyCmd) (rest : List CopyCmd), (engine s n).queue = c :: rest → (engine s n).colls = [] →
    c.started = true → c.bar = none → c.lost = none → c.stop = none → c.sent = [] → (∀ q ∈ s.packets, q.id < s.serial) →
    let w := whoX n c.iss
    let flagged := fun (t : State) (more : Prop) (fl : Flags7) =>
      (more → ∃ h, (engine t n).queue = h :: rest ∧ h.flags = c.flags ||| fl) ∧ (¬ more → (engine t n).queue = rest ∧ threadFlags s t c.iss (c.flags ||| fl))
    (c.kind = 0 → cpCheck c = none → cpOp c ≤ 4 → cpRop c ≤ 2 → c.gran = 0 →
      let r := c.idx.headD 0
      let m := cpRowb c
      let k := cpDstRow c
      let row := fun (a : Word) (j : Nat) => a + BitVec.ofNat 64 (r * cpSpitch c + j)
      let at_ := fun (j : Nat) => cpDst c + BitVec.ofNat 64 (if cpOp c = 1 then j / 32 * cpDpitch c + 32 * r + j % 32 else r * cpDpitch c + j)
      ∀ ps ps2 pd : Nat → Nat,
        let touched := fun (a : Nat) => ∃ j, j < k ∧ pd j = a
        CopyReachesAll s w true false (cpSrot c) none m (row c.src) ps touched →
        (cpOp c = 4 → CopyReachesAll s w true false (cpSrot c) none m (row c.second) ps2 touched) →
        CopyDestination s w (cpOp c == 3) (cpTile c) (cpDrot c) none k at_ pd →
        (∀ i j, i < m → j < k → ps i ≠ pd j ∧ (cpOp c = 4 → ps2 i ≠ pd j)) →
        ∃ t fl, exec (.copyExecute n) s = .next t ∧ RowCopied c m (numberAt s ps) (numberAt s ps2) (numberAt s pd) (numberAt t pd) fl
          ∧ OnlyAt s t k pd ∧ flagged t (r + 1 < cpRows c) fl)
    ∧ (c.kind = 1 → nestCheck s (n / 4) c = none → nestPsrc c = false → nestFp8 c = false → 32 * c.gran < nestChunk c → (nestBlocks c = true → c.gran % 3 = 0) →
      let m := nestChunk c - 32 * c.gran
      ∀ ps pd : Nat → Nat,
        CopyReachesAll s w true false 0 (nestSdev c) m (fun j => nestSrc c + BitVec.ofNat 64 (32 * c.gran + j)) ps (fun a => ∃ j, j < m ∧ pd j = a) →
        CopyDestination s w (nestKind c == 1) none 0 (nestDdev c) m (fun j => nestDst c + BitVec.ofNat 64 (32 * c.gran + j)) pd →
        (∀ i j, i < m → j < m → ps i ≠ pd j) →
        ∃ t fl, exec (.copyExecute n) s = .next t ∧ OnlyAt s t m pd ∧ flagged t (nestNext c ≠ none) fl
          ∧ (nestKind c = 0 → fl = 0 ∧ ∀ j, j < m → numberAt t pd j 1 = numberAt s ps j 1)
          ∧ (nestKind c = 1 → ReducedRow (nestF c 6 5) (nestRty c) m (numberAt s pd) (numberAt s ps) (numberAt t pd) fl)))
  ∧ (∀ (s : State) (n : Nat) (a : Coll) (rest : List Coll), (engine s n).colls = a :: rest → a.started = true → a.start.isSome = true →
    a.cmd.lost = none → a.cmd.stop = none → collRoute a.cmd = false → collCheck s (n / 4) a.cmd = none → collKind a.cmd ≤ 5 →
    let c := a.cmd
    let w := whoX n c.iss
    let k := collDstBytes c
    let needed := fun (m : Nat) => if collKind c = 4 then m = collRoot c else m < collN c
    (a.got = 0 → a.data = 0 → (collKind c = 4 → collMe c = collRoot c) → tabGet none a.inbox (collMe c) = none →
      (∃ m, needed m ∧ m ≠ collMe c ∧ tabGet none a.inbox m = none) →
      (∀ m, needed m → tabGet none a.inbox m = none → (pair s (n / 4) (c.gtab.getD m 0)).lost = false) → (∀ b ∈ rest, b.cmd.serial ≠ c.serial) →
      ∀ ps : Nat → Nat, cachesCurrent s → CopyReachesAll s w true false 0 none (collS c) (fun j => collSbase c + BitVec.ofNat 64 j) ps (fun _ => False) →
        ∃ t, exec (.collectivePacket n (collTag c)) s = .next t ∧ (∀ b, readByte t b = readByte s b)
          ∧ ∀ (e i : Nat) (b : Coll), (engine s e).colls[i]? = some b → collTag b.cmd = collTag c → b.cmd.gtab = c.gtab → b.start.isSome = true →
            ∃ b' : Coll, (engine t e).colls[i]? = some b' ∧ tabGet none b'.inbox (collMe c) = some (numberAt s ps 0 (collS c)))
    ∧ (collFp8 c = false → a.out = none → a.put = 0 → c.bar = none → c.sent = [] → (∀ q ∈ s.packets, q.id < s.serial) →
      ∀ (val : Nat → Nat) (pd : Nat → Nat), (∀ m, needed m → tabGet none a.inbox m = some (val m) ∧ val m < 256 ^ collS c) →
        CopyDestination s w false none 0 none k (fun j => collDbase c + BitVec.ofNat 64 j) pd →
        ∃ t fl, exec (.collectivePacket n (collTag c)) s = .next t ∧ Collected c (a.start.getD 0) (fun m => sliceOf (val m)) (numberAt t pd) fl
          ∧ OnlyAt s t k pd ∧ threadFlags s t c.iss (c.flags ||| fl) ∧ (engine t n).colls = (a :: rest).filter (fun b => b.cmd.serial != c.serial)))

/-- R99, R450, R451, R453, R455, R456: A granule of nm.sgdf, nm.axpy, nm.scale, nm.cast or nm.fill that reaches its bytes
leaves in its destination what R455's table gives for each element of the destination and source as they were (the fused
forms rounded once, the fused decay with its own rounding of the product, conversions by RNE, the pattern in every 8 bytes)
and changes no other byte; nm.sumsq adds the exact squares in groups of 32 to its running sum and after the last granule
writes the sum as one word; nm.scatadd applies the eight records of a granule in order to the elements they name, or stops
with cause 0x81 when an index is not below LIMIT; nm.sgdf takes the coefficients of R456 when it starts, with the factor of
its gate word when it is gated, or stops with cause 0x82. The flags are kept for the command. One granule a NM_COMMAND_START
is the model's choice (log 6), and the sum held between granules is the model's own state. -/
def Obligations.NearMemoryResults : Prop :=
  (∀ (s : State) (d : Nat) (c : NmCmd), (nm s d).active = some c → c.stop = none → c.gran < nmGrans c → nmCheck c = none → c.op ≤ 6 →
    let w := nmWho d c
    let f := bitsOf c.a1.toNat 28 24
    let wd := fmtBits f
    let off := BitVec.ofNat 64 (64 * c.gran)
    let goes := fun (fl : Flags7) (lines : Nat → Prop) (done : Nat) (coef : Nat) (q : State → Prop) =>
      ∃ t wrote, exec (.nmCommandStart d) s = .next t ∧ (∀ l, l ∈ wrote ↔ lines l ∨ l ∈ c.wrote)
        ∧ (nm t d).active = some { c with gran := c.gran + 1, flags := c.flags ||| fl, wrote := wrote, done := done, coef := coef } ∧ q t
    ((c.op ≤ 2 ∨ c.op = 4 ∨ c.op = 5) → ∀ (p : Word) (pa : Nat) (ps : Nat → Nat),
      NearReaches s w inStack (decide (c.op ≤ 2)) true 64 (c.a + off) p pa →
      (c.op ≤ 1 → NearSource s w (c.b + off) 64 ps) →
      (c.op = 4 → NearSource s w (c.b + BitVec.ofNat 64 (nmSrcStep c * c.gran)) (nmSrcStep c) ps) →
      ∃ fl v, goes fl (fun l => l = pa / 64) (c.done + 64) c.coef (fun t => storedBytes s t pa 64 v)
        ∧ (c.op ≤ 2 → ∃ g : Nat → Flags7, flagsOf (fun j => j < 512 / wd) g fl ∧ ∀ j, j < 512 / wd →
            NearElement c (readMem s pa 64 / 2 ^ (wd * j) % 2 ^ wd) (numberAt s ps (wd / 8 * j) (wd / 8)) (v / 2 ^ (wd * j) % 2 ^ wd) (g j))
        ∧ (c.op = 4 → let df := bitsOf c.a1.toNat 36 32
            let wt := fmtBits df
            ∃ g : Nat → Flags7, flagsOf (fun j => j < 512 / wt) g fl ∧ ∀ j, j < 512 / wt → ∃ lost,
              Converted df 0 0 (numberOf f (numberAt s ps (wd / 8 * j) (wd / 8))) (v / 2 ^ (wt * j) % 2 ^ wt) (g j) lost)
        ∧ (c.op = 5 → fl = 0 ∧ ∀ j, j < 8 → v / 2 ^ (64 * j) % 2 ^ 64 = c.b1.toNat))
    ∧ (c.op = 3 → ∀ ps : Nat → Nat, NearSource s w (c.a + off) 64 ps →
      let acc := c.coef % 2 ^ 32
      let last := c.gran + 1 = nmGrans c
      let squares := fun (l : List Nat) => l.map (fun x => productOf (numberOf f x) (numberOf f x))
      let now := (List.range (512 / wd)).map (fun j => numberAt s ps (wd / 8 * j) (wd / 8))
      let before := if f = 0 ∧ c.gran % 2 = 1 then (List.range 16).map (fun j => c.coef / 2 ^ 32 / 2 ^ (32 * j) % 2 ^ 32) else []
      (f = 0 → c.gran % 2 = 0 → ¬ last → goes 0 (fun _ => False) c.done (acc + 2 ^ 32 * numberAt s ps 0 64) (fun t => ∀ a, readByte t a = readByte s a))
        ∧ ((f = 1 ∨ c.gran % 2 = 1 ∨ last) → ∃ sum fl, SummedGroups 64 [squares (before ++ now)] acc sum fl
          ∧ (¬ last → goes fl (fun _ => False) c.done sum (fun t => ∀ a, readByte t a = readByte s a))
          ∧ (last → ∀ p pa, NearReaches s w (· == .common (d % 32)) false true 4 c.b p pa → QuietBytes s pa 4 → homeReached s w pa →
            goes fl (fun _ => False) 4 sum (fun t => storedBytes s t pa 4 sum))))
    ∧ (c.op = 6 → ∀ ps : Nat → Nat, NearSource s w (c.b + off) 64 ps →
      let records := (List.range 8).map (fun j => (numberAt s ps (8 * j) 4, numberAt s ps (8 * j + 4) 4))
      let named := fun (i : Nat) => ∃ r ∈ records, r.1 = i
      ((∃ i, named i ∧ bitsOf c.b1.toNat 31 0 ≤ i) → ∃ t atc, exec (.nmCommandStart d) s = .next t ∧ (nm t d).active = some { c with stop := some (0x81, atc) }
          ∧ { t with nms := s.nms } = s)
        ∧ ((∀ i, named i → i < bitsOf c.b1.toNat 31 0) → ∀ el : Nat → Nat,
          (∀ i j, named i → named j → i ≠ j → el i + 4 ≤ el j ∨ el j + 4 ≤ el i) →
          (∀ m : List Host.Cell, (∀ a, (∀ i, named i → a < el i ∨ el i + 4 ≤ a) → cellGet m a = readByte s a) →
            ∀ i, named i → ∃ p, NearReaches { s with mem := m } w inStack true true 4 (c.a + BitVec.ofNat 64 (4 * i)) p (el i)) →
          ∃ (fl : Flags7) (g : Nat → Flags7), flagsOf named g fl ∧ goes fl (fun l => ∃ i, named i ∧ l = el i / 64) (c.done + 32) c.coef (fun t =>
            (∀ i, named i → Scattered f i records (readMem s (el i) 4) (readMem t (el i) 4) (g i))
              ∧ ∀ a, (∀ i, named i → a < el i ∨ el i + 4 ≤ a) → readByte t a = readByte s a))))
  ∧ (∀ (s : State) (d : Nat) (c : NmCmd), (nm s d).active = none → c.op = 0 →
    let started := fun (t : State) (k : Nat) (g : Flags7) => ∃ c' coef fl, (nm t d).active = some c' ∧ Coefficients c k g coef fl ∧ c'.coef = coef ∧ c'.flags = fl
      ∧ c'.gran = c.gran ∧ c'.stop = c.stop
    (∀ l, (∀ g ∈ (nm s d).gates, g.firedAt = 0) → (nm s d).queue = c :: l → c.gate = none → c.g1 = 0 → nmCheck c = none →
      ∃ t, exec (.nmCommandStart d) s = .next t ∧ started t 0x3F800000 0 ∧ ∀ a, readByte t a = readByte s a)
    ∧ (c ∈ (nm s d).gates → (∀ g ∈ (nm s d).gates, g ≠ c → g.firedAt = 0) → c.firedAt ≠ 0 → c.ready = true → c.gate.isSome = true →
      ∀ p pa, NearReaches s (nmWho d c) gatePlace true false 4 (nmGateAddr c + 32) p pa →
        let word := readMem s pa 4
        let limit := c.a1.toNat / 2 ^ 32
        ∃ t, exec (.nmCommandStart d) s = .next t ∧ (∀ a, readByte t a = readByte s a)
          ∧ ((∃ k g, GateFactor word limit k g) → ∃ k g, GateFactor word limit k g ∧ started t k g)
          ∧ ((∀ k g, ¬ GateFactor word limit k g) → ∃ c' atc, (nm t d).active = some c' ∧ c'.stop = some (0x82, atc) ∧ c'.gran = c.gran)))

/-- R149, R150, R130, R473, R305, R148, R205, R206, R203, R204, R19, R153: For each step about a thread, where its rule lets
it happen it completes, with this effect. PREEMPT_REQUEST and PLIM_EXPIRY are noted; PREEMPT_LANDING, CFGLD_PREEMPT_HOLD and
DEBUG_HALT suspend the thread, its position and registers kept and the request consumed; a halt session reads and writes a
scalar register of a thread that stands still (the numbers by which it names the fields are the model's: log entry 34);
SLOT_RESUME runs it again and DEBUG_STEP gives it the next turn, for one instruction (log entry 34); ENGINE_RECORD_DELIVERY
takes the trap of the oldest record; HELD_RECORD_WRITE writes the oldest held record and makes its delivery wait;
VECTOR_STRIP_ISSUE runs a strip of the first slot in order and charges it (in halves of a unit, the bank operations as the
memory instructions, and 4 groups or 1 at a fault: the model's reading, log entry 43); BIND_GO makes the bound thread that
its fields, the installed image and the control block give (the lesser VL where VLG differs: log entry 39), or sets BERR and
changes nothing else where the slot is not free; BIND_STATE_READY runs a bound thread; SLOT_FREE frees a retiring slot with
nothing outstanding; SAVE_COMPLETE frees a suspended one that is saved. -/
def Obligations.ThreadEvents : Prop :=
  ∀ (s : State) (k : Nat), isThread k = true →
    let t0 := thr s k
    ((t0.st = .running ∨ t0.st = .waiting) →
        ∃ t, exec (.preemptRequest k) s = .next t ∧ OnlyThread k s t ∧ thr t k = { t0 with preq := true })
      ∧ (t0.preq = true → ∃ t, exec (.plimExpiry k) s = .next t ∧ OnlyThread k s t ∧ thr t k = { t0 with plim := true })
      ∧ (landable s k = true → ∃ t, exec (.preemptLanding k) s = .next t ∧ (thr t k).st = .suspended ∧ (thr t k).preq = false
        ∧ (thr t k).plim = false
        ∧ (t0.vq = [] → (ctx s (k / 4)).load = none →
            (thr t k).seq = t0.seq ∧ (thr t k).vregs = t0.vregs ∧ (thr t k).mregs = t0.mregs ∧ onlyTrapped k s t))
      ∧ (t0.preq = true → inLoad s k = some false → elementBusy s k = false → (ctx s (k / 4)).ending = false → (stopQueue k s).isSome = true →
        ∃ t, exec (.cfgldPreemptHold k) s = .next t ∧ (thr t k).st = .suspended ∧ (thr t k).preq = false
          ∧ (t0.vq = [] → (thr t k).seq = t0.seq ∧ (ctx t (k / 4)).load = none ∧ (ctx t (k / 4)).shadow = none
              ∧ onlyTrapped k s { t with ctxs := s.ctxs }))
      ∧ (t0.st = .suspended → t0.halted = false →
        ∃ t, exec (.slotResume k) s = .next t ∧ OnlyThread k s t ∧ thr t k = { t0 with st := .running, late := false })
      ∧ (haltReaches s k = true → (t0.st = .running ∨ t0.st = .waiting) →
        ∃ t, exec (.debugHalt (k, [])) s = .next t ∧ onlyTrapped k s t
          ∧ thr t k = { t0 with st := .suspended, halted := true, dbgStep := false, snap := none, yieldWait := [] })
      ∧ (haltReaches s k = true → t0.st = .suspended → ∀ r : Fin 32,
        exec (.debugHalt (k, [(r.val, none)])) s = .next { s with debugOut := s.debugOut ++ [t0.seq.regs[r]] }
          ∧ ∀ v, r ≠ 0 → ∃ t, exec (.debugHalt (k, [(r.val, some v)])) s = .next t ∧ OnlyThread k s t
            ∧ thr t k = { t0 with seq := { t0.seq with regs := t0.seq.regs.set r v } })
      ∧ (haltReaches s k = true → t0.st = .suspended → t0.halted = true →
        ∃ t, exec (.debugStep k) s = .next t ∧ OnlyThread k s { t with turns := s.turns } ∧ thr t k = { t0 with dbgStep := true }
          ∧ t.turns = .thread k :: s.turns)
      ∧ (∀ d l, canDeliver t0 = true → scalarBusy s k = false → t0.deliv = d :: l → t0.tvec ≠ 0 → d.ecls < 16 →
        ∃ t, exec (.engineRecordDelivery k) s = .next t ∧ onlyTrapped k s t
          ∧ thr t k = handlerOf { t0 with deliv := l, aflags := t0.aflags ||| d.flags } t0.seq.pc d.cause d.ecls d.addr)
      ∧ (∀ h l f a u, let c := core s (k / 4)
        c.held = h :: l → fqFull c h.addrs.length = false → recordBusy h.iss h.addrs.length s = false → h.use = .engine f → h.iss.thread = k →
        recordWrite h.iss h.record h.addrs (setCore s (k / 4) { c with held := l }) = .ok (a, u) → stillBound u h.iss = true →
        ∃ t, exec (.heldRecordWrite (k / 4)) s = .next t ∧ t.mem = u.mem ∧ core t (k / 4) = core u (k / 4)
          ∧ (thr t k).deliv = (thr u k).deliv ++ [⟨recordCause h.record, a, recordEcls h.record, f⟩] ∧ ∀ j, j ≠ k → thr t j = thr u j)
      ∧ (∀ en v l u cost, t0.vq = en :: v → stripOrder s (k / 4) = k :: l →
        (vStep k s = .done u ∧ cost = stripCost en * groupsLeft en + wholeCost en.instr
          ∨ vStep k s = .fault u ∧ cost = stripCost en * min (groupsLeft en) (if isVMem en.instr then 4 else 1)
          ∨ ∃ e' v', vStep k s = .more u ∧ (thr u k).vq = e' :: v' ∧ cost = stripCost en * (e'.estart / 64 - en.estart / 64)) →
        ∃ t, exec (.vectorStripIssue (k / 4)) s = .next t ∧ t.mem = u.mem ∧ (∀ j, j ≠ k → thr t j = thr u j)
          ∧ thr t k = { thr u k with credit := (thr u k).credit - cost, spent := (thr u k).spent + cost })
      ∧ (t0.st ≠ .free → exec (.bindGo k) s = .next (setBerr k true s))
      ∧ (∀ n, t0.st = .free →
        let b := bindRead s k
        let img := n.image
        let dev := devOfDie (k / 128)
        intakeAt s dev (b % 1024) = some n → bindBad s k b n = false →
        (claimsTiles n.record img && tilesTaken s k) = false →
        img / 2 ^ 64 % 16 ≤ grantedLog n.record img (b / 2 ^ 22 % 16) (b / 2 ^ 26 % 16) →
        ∃ t, exec (.bindGo k) s = .next t ∧ thr t k = boundThread s b n img ∧ (∀ j, j ≠ k → thr t j = thr s j)
          ∧ intakeAt t dev (b % 1024) = some { n with started := setInsert (b / 2 ^ 10 % 4096) n.started, binds := n.binds ++ [s.serial + 1] })
      ∧ (t0.st = .bound → t0.restore = none → t0.killed = false →
        ∃ t, exec (.bindStateReady k) s = .next t ∧ OnlyThread k s t ∧ thr t k = { t0 with st := .running })
      ∧ (∀ h, t0.st = .bound → t0.restore = some h → restoreBad s k (readMem s h.toNat 64) = false → t0.killed = false →
        ∃ t, exec (.bindStateReady k) s = .next t
          ∧ thr t k = { thr (restoreThread k h.toNat s) k with st := .running } ∧ ∀ j, j ≠ k → thr t j = thr (restoreThread k h.toNat s) j)
      ∧ (∀ n, t0.st = .retiring → asyncBusy s k = false → t0.deliv = [] → t0.forkFaults = [] →
        intakeAt s (devOfDie (k / 128)) t0.entry = some n → n.refused = false → n.ended ≠ recNthr n.record →
        ∃ t, exec (.slotFree k) s = .next t ∧ thr t k = Thread.init ∧ (∀ j, j ≠ k → thr t j = thr s j)
          ∧ intakeAt t (devOfDie (k / 128)) t0.entry = some { n with ended := n.ended + 1, killed := n.killed || t0.killed })
      ∧ (let pa := bindRead s k / 2 ^ 64 % 2 ^ 52
        t0.st = .suspended → asyncBusy s k = false → t0.forks = [] → t0.forkFaults = [] → t0.deliv = [] → t0.heldTrap = false → t0.owed = none →
        pa % 4096 = 0 → savePlace pa = true → savePlace (pa + saveSize s k - 1) = true →
        (∀ n, intakeAt s (devOfDie (k / 128)) t0.entry = some n → n.refused = false) →
        ∃ t, exec (.saveComplete k) s = .next t ∧ thr t k = Thread.init ∧ ∀ j, j ≠ k → thr t j = thr s j)

/-- R30, R37, R39, R205, R284, R285, R286, R287: For each step about tiles and windows, where its rule lets it happen it
completes, with this effect. TILE_DEFINE of a legal word gives an empty tile its fields and nothing filled; TILE_CMD_RELEASE
makes a ready tile draining and TILE_CMD_DISCARD makes it empty; each of the three only marks the entry as rejected in
another state. TILE_READY makes a filling tile ready once all its bytes are accepted and its copies have finished, and
TILE_DRAIN_END makes a draining one empty once its reads have finished; a tile that a writer which stopped has left short
stays filling. TILE_EMPTY_TIMEOUT gives up a read refused for two swaths where its tile is still empty. SWATH_BOUNDARY
advances the counter, zeroes every cluster's issue counts and gives running threads their credit (8192 units for each share,
counted in halves: log entry 43); GOVERNOR_WINDOW zeroes the issue counts. A step about a tile changes its entry alone. -/
def Obligations.TileAndWindowEvents : Prop :=
  (∀ (s : State) (ck n : Nat), isTile ck n = true →
      let e := tileEntry s ck n
      (∀ w : BitVec 64, tileState e = 0 → w.toNat / 2 ^ 22 % 2 ^ 10 = 0 → w.toNat / 2 ^ 55 = 0 → tileBase w.toNat % 32 = 0 → tileSize w.toNat % 32 = 0 →
          tileBase w.toNat + tileSize w.toNat ≤ 0x400000 →
          ∃ t v, exec (.tileDefine ck n w) s = .next t ∧ TileChanged ck n v s t ∧ v % 2 ^ 64 = w.toNat ∧ tileState v = 0 ∧ tileFilled v = 0)
        ∧ (∀ w : BitVec 64, tileState e ≠ 0 → ∃ t, exec (.tileDefine ck n w) s = .next t ∧ TileChanged ck n (tileReject e) s t)
        ∧ (tileState e = 2 → ∃ t v, exec (.tileCmdRelease ck n) s = .next t ∧ TileChanged ck n v s t ∧ tileState v = 3 ∧ v % 2 ^ 64 = e % 2 ^ 64
          ∧ tileFilled v = tileFilled e)
        ∧ (tileState e ≠ 2 → ∃ t, exec (.tileCmdRelease ck n) s = .next t ∧ TileChanged ck n (tileReject e) s t)
        ∧ (tileState e = 2 → ∃ t v, exec (.tileCmdDiscard ck n) s = .next t ∧ TileChanged ck n v s t ∧ tileState v = 0 ∧ tileFilled v = 0
          ∧ v % 2 ^ 64 = e % 2 ^ 64)
        ∧ (tileState e ≠ 2 → ∃ t, exec (.tileCmdDiscard ck n) s = .next t ∧ TileChanged ck n (tileReject e) s t)
        ∧ (tileState e = 1 → tileFilled e = tileSize e → tileWriting s ck n = false → n ∉ (cluster s ck).unfilled →
          ∃ t v, exec (.tileReady ck n) s = .next t ∧ TileChanged ck n v s t ∧ tileState v = 2 ∧ v % 2 ^ 64 = e % 2 ^ 64)
        ∧ (tileState e = 3 → tileReading s ck n = false →
          ∃ t v, exec (.tileDrainEnd ck n) s = .next t ∧ TileChanged ck n v s t ∧ tileState v = 0 ∧ tileFilled v = 0))
    ∧ (∀ (s : State) (c n : Nat), (ctx s c).tileWait = some (n, 2) →
      ∃ t, exec (.tileEmptyTimeout c) s = .next t ∧ (∀ j, j ≠ c → ctx t j = ctx s j) ∧ { t with ctxs := s.ctxs } = s
        ∧ ctx t c = { ctx s c with tileWait := if tileState (tileEntry s (c / 2) n) = 0 then some (n, 3) else none })
    ∧ (∀ s : State, ∃ t, exec .governorWindow s = .next t ∧ (∀ ck, cluster t ck = { cluster s ck with issued := 0 })
        ∧ { t with clusters := s.clusters } = s)
    ∧ ∀ s : State, ∃ t, exec .swathBoundary s = .next t ∧ t.swath = s.swath + 1
        ∧ (∀ ck, cluster t ck = { cluster s ck with issued := 0, fai := [] })
        ∧ ∀ k, thr t k = (if (thr s k).st = .running then { thr s k with credit := 16384 * (thr s k).share, spent := 0 } else { thr s k with spent := 0 })

/-- R16, R22, R26, R128, R311, R324, R329, R335, R395, R408, R450, R459: For each step of the engines, where its rule lets it
happen it completes, with this effect. FORKED_PROGRAM_TAKE: the lowest idle copy engine takes the oldest program.
BARRIER_COMPLETION: bytes are reported to an object. TAG_SWEEP clears a tag of an old generation. ARMED_COMMAND_FIRE: a fired
command joins its copy engine's queue, or may start at a near-memory engine. FA_CONTEXT_EXECUTE: a context takes a forked
program or performs the command at its queue's head. CFG_RECOVERY takes the words read again where their signature agrees,
and marks the bank failed where not. COPY_EXECUTE starts a command, or performs a transfer of a started one (one transfer,
and one granule of a near-memory command, at a step: the model's choice, log entry 6). COLL_READY, COLL_START, COLL_ABORT: a
member that is ready, started or aborted is noted, started or stopped. COLLECTIVE_PACKET: the engine's oldest collective goes
on with what it has, once it is started, and a younger one waits for it (how far one packet takes it is the model's choice:
log entry 53). NM_COMMAND_START starts the oldest command that may start, or performs a granule. NM_COMPLETION: a command
that has ended leaves the engine, its lines invalidated, its flags with its thread. -/
def Obligations.EngineEvents : Prop :=
  ∀ s : State,
    (∀ d p l e, tabGet [] s.forkQs d = p :: l → e < 4 → (engine s (d * 4 + e)).prog = none → (∀ j, j < e → (engine s (d * 4 + j)).prog ≠ none) →
        ∃ t, exec (.forkedProgramTake d) s = .next t ∧ engine t (d * 4 + e) = { engine s (d * 4 + e) with prog := some p }
          ∧ tabGet [] t.forkQs d = l ∧ (∀ n, n ≠ d * 4 + e → engine t n = engine s n) ∧ { t with forkQs := s.forkQs, engines := s.engines } = s)
      ∧ (∀ (pa n o : Nat) (flips : Bool), barPlace pa = true → barApply (.complete n) (barRead s pa) = some (o, flips) →
        (flips = true → barClk o = false) →
        ∃ t, exec (.barrierCompletion pa n) s = .next t ∧ (flips = false → barRead t pa = o % 2 ^ 128) ∧ barPhase (barRead t pa) = barPhase o
          ∧ (∀ a, a < pa ∨ pa + 16 ≤ a → readByte t a = readByte s a) ∧ t.threads = s.threads)
      ∧ (∀ line, (tagOf s line).dom ≠ 0 → (tagOf s line).gen ≠ (dom s (tagOf s line).dom).gen → (dom s (tagOf s line).dom).due = false →
        ∃ t, exec (.tagSweep line) s = .next t ∧ (tagOf t line).dom = 0 ∧ (∀ l, l ≠ line → tagOf t l = tagOf s l) ∧ { t with tags := s.tags } = s)
      ∧ (∀ n j a, (engine s n).armed[j]? = some a → a.fired = true → fireHeld s a.cmd.iss.rdom (some a.obj) = false →
        (engine s n).queue.length < 64 →
        ∃ t, exec (.armedCommandFire false n j) s = .next t ∧ (engine t n).queue = (engine s n).queue ++ [firedCmd s a.obj a.cmd]
          ∧ (engine t n).armed = (engine s n).armed.eraseIdx j ∧ { t with engines := s.engines } = s)
      ∧ (∀ d j c, ((nm s d).gates ++ (nm s d).queue)[j]? = some c → c.gate ≠ none → c.firedAt ≠ 0 → c.ready = false →
        fireHeld s c.iss.rdom (c.gate.map (·.1)) = false → recallBusy d c s = false →
        ∃ t, exec (.armedCommandFire true d j) s = .next t ∧ { t with nms := s.nms, llc := s.llc, dir := s.dir, mem := s.mem } = s
          ∧ (cachesCurrent s → t.mem = s.mem)
          ∧ ∀ m, m ∈ (nm s d).gates ++ (nm s d).queue → m.serial = c.serial → { m with ready := true } ∈ (nm t d).gates ++ (nm t d).queue)
      ∧ (∀ c p l, (ctx s c).load = none → (ctx s c).prog = none → (ctx s c).queue = .start p :: l →
        ∃ t, exec (.faContextExecute c) s = .next t ∧ ctx t c = { ctx s c with queue := l, prog := some p } ∧ { t with ctxs := s.ctxs } = s)
      ∧ (∀ c m l u, (ctx s c).load = none → (ctx s c).prog = none → (ctx s c).queue = .cmd m :: l → faRun c m s = .done u →
        ∃ t, exec (.faContextExecute c) s = .next t ∧ { t with ctxs := u.ctxs } = u ∧ (ctx t c).queue = l ∧ (ctx t c).acc = (ctx u c).acc)
      ∧ (∀ c shadow b img, (if shadow then (ctx s c).shadow else (ctx s c).live) = some b →
        imgCopy (whoF s c (bankIssuer b)) b.addr (b.len / 32) 0 s = .ok img →
        let b' := if signature b.rid b.len img = b.sig then { b with data := img } else { b with failed := true }
        ∃ t, exec (.cfgRecovery c shadow) s = .next t ∧ { t with ctxs := s.ctxs, mem := s.mem } = s
          ∧ ctx t c = (if shadow then { ctx s c with shadow := some b' } else { ctx s c with live := some b' })
          ∧ (signature b.rid b.len img ≠ b.sig → t.mem = s.mem))
      ∧ (∀ n c l u, (engine s n).queue = c :: l → c.kind = 0 → c.started = false → cpCheck c = none → cpTile c = none →
        (∃ o, barOf (whoX n c.iss) c.bar s = .ok o u) →
        ∃ t, exec (.copyExecute n) s = .next t ∧ (engine t n).queue = { c with started := true } :: (engine u n).queue.tail
          ∧ { t with engines := u.engines } = u)
      ∧ (∀ n c l c' u, (engine s n).queue = c :: l → c.kind = 0 → c.started = true → c.lost = none → c.stop = none → (engine s n).colls = [] →
        let r := c.idx.headD 0
        walkUnits (cpUnit (whoX n c.iss)) ((cpUnits c r).filter (fun v => decide (c.gran ≤ v.gran))) c s = .all c' u →
        sentPending u c' = false → c'.bar = none →
        ∃ t, exec (.copyExecute n) s = .next t ∧ t.mem = u.mem
          ∧ (engine t n).queue = (if r + 1 < cpRows c then { c' with idx := [r + 1, 0, 0, 0], gran := 0, part := 0, sent := [] } :: (engine u n).queue.tail
              else (engine u n).queue.tail))
      ∧ (∀ n tag m l, collAt s n tag (fun l => collMe l.cmd == 0 && !l.ready.contains m && decide (m < collN l.cmd)
          && memberIssued s tag l.cmd.gtab m) = some l →
        let l' := { l with ready := setInsert m l.ready }
        (l'.ready.length ≠ collN l.cmd → ∃ t, exec (.collReady n tag m) s = .next t ∧ t = putColl n l' s)
          ∧ (∀ v u, l'.ready.length = collN l.cmd → startCode n l' s = .ok v u →
            ∃ t, exec (.collReady n tag m) s = .next t ∧ t = mapGroup false tag l.cmd.gtab (fun a => { a with start := some v }) (putColl n l' u)))
      ∧ (∀ n tag l, collAt s n tag (fun l => l.start.isSome && !l.started) = some l →
        ∃ t, exec (.collStart n tag) s = .next t ∧ t = putColl n { l with started := true } s)
      ∧ (∀ n tag cause l, collAt s n tag (fun l => l.abort == some cause) = some l →
        ∃ t, exec (.collAbort n tag cause) s = .next t ∧ t = collStop n l cause false s)
      ∧ (∀ n a l, (engine s n).colls = a :: l → a.started = true →
        exec (.collectivePacket n (collTag a.cmd)) s = .next (advanceColl n a.cmd.serial s))
      ∧ (∀ n a l b, (engine s n).colls = a :: l → b ∈ l → b.started = true → collTag b.cmd ≠ collTag a.cmd →
        exec (.collectivePacket n (collTag b.cmd)) s = .next s)
      ∧ (∀ d c l, (nm s d).active = none → (∀ g ∈ (nm s d).gates, g.firedAt = 0) → (nm s d).queue = c :: l → c.gate = none → c.g = 0 → c.g1 = 0 →
        nmCheck c = none → c.op ≠ 0 →
        ∃ t, exec (.nmCommandStart d) s = .next t ∧ { t with nms := s.nms } = s
          ∧ nm t d = { nm s d with queue := l, active := some { c with number := (nm s d).count + 1, slot := false }, count := (nm s d).count + 1 })
      ∧ (∀ d c c' u, (nm s d).active = some c → c.stop = none → c.gran < nmGrans c → nmGranule d c s = .ok (c', u) → (c.op = 3 → c.gran + 1 ≠ nmGrans c) →
        ∃ t, exec (.nmCommandStart d) s = .next t ∧ { t with nms := u.nms } = u
          ∧ nm t d = { nm u d with active := some { c' with gran := c.gran + 1, done := c.done + nmGranBytes c } })
      ∧ (∀ d c, (nm s d).active = some c → c.stop = none → nmGrans c ≤ c.gran → c.g1 = 0 → (thr s c.iss.thread).bind = c.iss.bind →
        (∀ line ∈ c.wrote, lineBusy s (64 * line) = false) →
        ∃ t, exec (.nmCompletion d) s = .next t ∧ nm t d = { nm s d with active := none }
          ∧ thr t c.iss.thread = { thr s c.iss.thread with aflags := (thr s c.iss.thread).aflags ||| c.flags }
          ∧ (∀ line ∈ c.wrote, ∀ e ∈ t.llc, e.1 % 2 ^ 46 ≠ line) ∧ (cachesCurrent s → t.mem = s.mem)
          ∧ { t with nms := s.nms, threads := s.threads, llc := s.llc, dir := s.dir, mem := s.mem } = s)

/-- R337, R338, R340, R346, R350: For each message about a line of HBM, where its rule lets it come it completes, with this
effect. A request that finds one in service joins its queue. Otherwise READ_SHARED makes an owner keep S, leaves the line
unowned and adds the requester to the sharers; READ_EXCLUSIVE and UPGRADE send an invalidation to each die that may hold a
copy, and with none to send make the requester the owner. INVALIDATE takes the copy of its die away, an M copy merged first;
INVALIDATE_ACKNOWLEDGEMENT is counted, and the last makes the requester the owner; DATA_RESPONSE gives the requester its
copy, S or E, and ends the service. WRITE_BACK takes an M copy away and leaves the line unowned. UNCACHED_READ and
MULTICAST_READ make an owner keep S and add no one; REMOTE_ATOMIC leaves no copy; the three wait for a request in service. No
message changes a thread, another line's entry, or a byte of memory that every copy agrees with. -/
def Obligations.CoherenceEvents : Prop :=
  ∀ (s : State) (line die : Nat), isHbmLine line = true → isDie die = true →
    let e := dirEntry s line
    let owner := fun d => if d = lineHome line then none else some d
    let quiet := fun t => t.threads = s.threads ∧ (cachesCurrent s → t.mem = s.mem) ∧ ∀ l, l ≠ line → dirEntry t l = dirEntry s l
    (∀ i r, (i = .readShared line die ∧ r = .readShared ∨ i = .readExclusive line die ∧ r = .readExclusive ∨ i = .upgrade line die ∧ r = .upgrade) →
        e.req ≠ none → ∃ t, exec i s = .next t ∧ quiet t ∧ dirEntry t line = { e with queue := e.queue ++ [(r, die)] })
      ∧ (e.req = none → e.queue = [] →
        (∃ t, exec (.readShared line die) s = .next t ∧ quiet t ∧ (dirEntry t line).req = some (.readShared, die) ∧ (dirEntry t line).owner = none
            ∧ (die ≠ lineHome line → die ∈ (dirEntry t line).sharers)
            ∧ ∀ o, e.owner = some o → o ∈ (dirEntry t line).sharers ∧ ∀ c, llcCopy t o line = some c → c.st = .shared)
          ∧ (∃ t, exec (.readExclusive line die) s = .next t ∧ quiet t ∧ (dirEntry t line).req = some (.readExclusive, die)
            ∧ (dirEntry t line).acks = invTargets s line die
            ∧ (invTargets s line die = [] → dirEntry t line = { DirEntry.init with owner := owner die, req := some (.readExclusive, die) }))
          ∧ (∀ c, llcCopy s die line = some c → ∃ t, exec (.upgrade line die) s = .next t ∧ quiet t ∧ (dirEntry t line).acks = invTargets s line die
            ∧ (invTargets s line die ≠ [] → (dirEntry t line).req = some (.upgrade, die))
            ∧ (invTargets s line die = [] → llcCopy t die line = some { c with st := .exclusive } ∧ dirEntry t line = { DirEntry.init with owner := owner die })))
      ∧ (die ∈ e.acks → ∃ t, exec (.invalidate line die) s = .next t ∧ quiet t ∧ llcCopy t die line = none ∧ { t with llc := s.llc, mem := s.mem } = s)
      ∧ (die ∈ e.acks → llcCopy s die line = none → e.acks.filter (· != die) ≠ [] →
        ∃ t, exec (.invalidateAcknowledgement line die) s = .next t ∧ quiet t ∧ dirEntry t line = { e with acks := e.acks.filter (· != die) })
      ∧ (∀ d, die ∈ e.acks → llcCopy s die line = none → e.acks.filter (· != die) = [] → e.req = some (.readExclusive, d) →
        ∃ t, exec (.invalidateAcknowledgement line die) s = .next t ∧ quiet t
          ∧ dirEntry t line = { DirEntry.init with owner := owner d, req := e.req, queue := e.queue })
      ∧ (∀ r, e.acks = [] → e.req = some (r, die) → r ≠ .upgrade → e.queue = [] → llcHasRoom s die ∨ (llcCopy s die line).isSome = true →
        ∃ t, exec (.dataResponse line die) s = .next t ∧ quiet t ∧ dirEntry t line = { e with req := none }
          ∧ llcCopy t die line = some ⟨if r = .readShared then .shared else .exclusive, none, 0⟩)
      ∧ (∀ st d, llcCopy s die line = some ⟨.modified, st, d⟩ →
        ∃ t, exec (.writeBack line die) s = .next t ∧ quiet t ∧ llcCopy t die line = none ∧ dirEntry t line = { e with owner := none })
      ∧ (∀ i, e.req ≠ none → (i = .uncachedRead line ∨ i = .remoteAtomic line) → exec i s = .next s)
      ∧ (∀ i, e.req = none → (i = .uncachedRead line ∨ ∃ m, m < 256 ∧ line = m * 2 ^ 38 + line % 2 ^ 38 ∧ i = .multicastRead m line) →
        ∃ t, exec i s = .next t ∧ quiet t ∧ (dirEntry t line).owner = none ∧ (e.owner = none → t = s)
          ∧ ∀ o, e.owner = some o → dirEntry t line = addSharer o { e with owner := none } ∧ ∀ c, llcCopy t o line = some c → c.st = .shared)
      ∧ (e.req = none → ∃ t, exec (.remoteAtomic line) s = .next t ∧ quiet t ∧ dirEntry t line = dirCleared e ∧ ∀ c ∈ t.llc, c.1 % 2 ^ 46 ≠ line)

/-- R337, R341, R342, R347, R351, R352, R353: For each step of the fabric, where its rule lets it happen it completes, with
this effect. PUSH_WRITE and FLAG_RELEASE of a write that may be performed store its bytes at their home, and it is performed;
one that must wait stays as it is. WRITE_ACKNOWLEDGEMENT of a performed write takes it away, and its sequence number is kept
while the window of an unacknowledged one holds it. ROUTER_FLIT_DISCARD marks a write gone and counts it. RESPONSE_OVERDUE
leaves a performed write alone and sends another again while a path is up. LINK_REPLAY counts a retry; LINK_DOWN and LINK_UP
put the link in the list of links that are down and take it out, and LINK_DOWN sends again the writes that it stopped.
LINK_LOSS marks the pair lost with nothing of it on its way; LRESET clears it with the next epoch. (What a loss with nothing
outstanding does, an LRESET of a pair that is not lost, the lost writes that a waiting fence.ack still covers, and RETRYING
as a list of ports are the model's reading: log entry 37.) -/
def Obligations.FabricEvents : Prop :=
  (∀ (s : State) (id : Nat) (p : Packet), packetAt s id = some p →
      (p.performed = false → ∃ t, exec (if p.kind = .flag then .flagRelease id else .pushWrite id) s = .next t
          ∧ (canPerform s p = false → t = s)
          ∧ (canPerform s p = true → noStaleSet s p.die p.dest → t.threads = s.threads
              ∧ t.packets = s.packets.map (fun q => if q.id = id then { q with performed := true } else q)
              ∧ ∀ pa n v, p.pieces = [(pa, n, v)] → isMemory pa → cachesCurrent s →
                  (∀ b ∈ s.barriers, pa + n ≤ b ∨ b + 16 ≤ pa) → (∀ e ∈ declared s, pa + n ≤ e.2.qdr + 24 ∨ e.2.qdr + 64 ≤ pa) →
                  (∀ e ∈ declared s, ∀ g va, e.2.gdesc = some (g, va) → pa + n ≤ g + 8 ∨ g + 12 ≤ pa) → storedBytes s t pa n v))
        ∧ (p.performed = true → ∃ t, exec (.writeAcknowledgement id) s = .next t ∧ t.packets = s.packets.filter (fun q => q.id != id)
            ∧ (∀ q ∈ t.packets, q.die = p.die → q.dest = p.dest → (p.seq - q.seq).toNat < 256 → p.seq ∈ (pair t p.die p.dest).acked)
            ∧ { t with packets := s.packets, pairs := s.pairs } = s)
        ∧ (∀ d, isDie d = true → p.performed = false → p.gone = false →
          ∃ t, exec (.routerFlitDiscard (id, d)) s = .next t ∧ { t with packets := s.packets, mem := s.mem } = s
            ∧ t.packets = s.packets.map (fun q => if q.id = id then { q with gone := true } else q))
        ∧ (p.performed = true → exec (.responseOverdue id) s = .next s)
        ∧ (p.performed = false → ∃ t, exec (.responseOverdue id) s = .next t ∧ { t with packets := s.packets, fresh := s.fresh } = s
            ∧ ([0, 1, 2, 3].any (pathUp s (devOfDie p.die) p.dest) = false → t = s)
            ∧ ([0, 1, 2, 3].any (pathUp s (devOfDie p.die) p.dest) = true →
                ∃ path, t.packets = s.packets.map (fun q => if q.id = id then { q with path := path, gone := false } else q))))
    ∧ (∀ (s : State) (dev port : Nat), isPort s dev port = true →
      (∃ t, exec (.linkReplay dev port) s = .next t ∧ { t with retries := s.retries, replaying := s.replaying } = s
          ∧ dev * 32 + port ∈ t.replaying
          ∧ tabGet 0 t.retries (dev * 32 + port) = min (tabGet 0 s.retries (dev * 32 + port) + 1) (2 ^ 32 - 1))
        ∧ (∃ t, exec (.linkDown dev port) s = .next t ∧ dev * 32 + port ∈ t.linksDown
            ∧ t.packets.map (fun q => (q.id, q.performed, q.pieces)) = s.packets.map (fun q => (q.id, q.performed, q.pieces))
            ∧ { t with linksDown := s.linksDown, replaying := s.replaying, packets := s.packets, fresh := s.fresh } = s)
        ∧ ∃ t, exec (.linkUp dev port) s = .next t ∧ dev * 32 + port ∉ t.linksDown ∧ { t with linksDown := s.linksDown } = s)
    ∧ ∀ (s : State) (die dest : Nat), isDie die = true → dest < 256 →
      (inDomain s (devOfDie die) dest = true → dest ≠ devOfDie die → (pair s die dest).lost = false →
        ∃ t, exec (.linkLoss die dest) s = .next t ∧ (pair t die dest).lost = true ∧ unacked t die dest = []
          ∧ (s.packets = [] → s.iqs = [] →
              pair t die dest = { pair s die dest with lost := true } ∧ (∀ n, engine t n = engine s n) ∧ t.mem = s.mem ∧ t.threads = s.threads))
      ∧ ∃ t, exec (.lreset die dest) s = .next t ∧ { t with pairs := s.pairs } = s
        ∧ pair t die dest = { pair s die dest with lost := false, epoch := (pair s die dest).epoch + 1,
                                                   lostWrites := (pair s die dest).lostWrites.filter (covered s) }

/-- R372, R373, R374, R381, R386, R387: For each step about queues, where its rule lets it happen it completes, with this
effect. QUEUE_RECORD: a record of a route queue that finds its delivery queue, an open batch and room joins its staging set.
CLOSING_MARKER sets what the set needs. MARKER_ACKNOWLEDGEMENT goes away, and with it the marker and the kept records that it
covers. Each leaves flight. BATCH_DELIVERY makes the next batch available with the number of its records where the buffer is
usable and large enough, and otherwise refuses it: the queue is set aside with the number it needs; with no batch due nothing
happens. DCAP_RETRY opens a refused queue again for a further try, and changes no byte outside the status half of its block. -/
def Obligations.QueueEvents : Prop :=
  (∀ (s : State) (id : Nat) (p : IqPacket) (key : Nat) (q : Iq) (u : State), iqPacketAt s id = some p → arrival p s = .ok (key, q, u) →
      batchShut q p.slot p.batch = false →
      (∀ r, p.kind = .record r → hayRoom u (key / 256) = true → (stageOf' q p).need = none →
          ∃ t, exec (.queueRecord id) s = .next t ∧ (∀ x ∈ t.iqPackets, x.id ≠ id)
            ∧ iqAt t key = some (putStage q { stageOf' q p with
                recs := (stageOf' q p).recs ++ [⟨p.slot, p.batch, maskRec q r.data.toNat, r.psn⟩] }))
        ∧ (∀ n, p.kind = .marker n → batchFar q p.batch = false → n ≠ (stageOf' q p).recs.length →
          ∃ t, exec (.closingMarker id) s = .next t ∧ (∀ x ∈ t.iqPackets, x.id ≠ id)
            ∧ iqAt t key = some (putStage q { stageOf' q p with need := some n })))
    ∧ (∀ (s : State) (id : Nat) (p : IqPacket), iqPacketAt s id = some p → p.kind = .ack → p.gone = false →
      let key := p.die * 256 + p.queue
      (iqAt s key = none →
          ∃ t, exec (.markerAcknowledgement id) s = .next t ∧ t = { s with iqPackets := s.iqPackets.filter (fun x => x.id != id) })
        ∧ (∀ q, iqAt s key = some q → frontDue q = false →
          ∃ t q', exec (.markerAcknowledgement id) s = .next t ∧ iqAt t key = some q' ∧ (∀ x ∈ t.iqPackets, x.id ≠ id)
            ∧ q'.marks = q.marks.filter (fun m => !(m.batch == p.batch && m.handle == p.handle && m.slot == p.slot))
            ∧ q'.kept = q.kept.filter (fun r => !(keptFor q p.handle p.slot p.batch).contains r)))
    ∧ ∀ (s : State) (die n : Nat) (q : Iq), n < 256 → iqAt s (die * 256 + n) = some q →
      (deliverable q = false → exec (.batchDelivery die n) s = .next s)
        ∧ (deliverable q = true →
          let rs := deliveredOf q q.nextd
          let usable := bufferOk s die q (iqDbuf s q) (32 * iqDcap s q) && decide (rs.length ≤ iqDcap s q)
          (usable = true → ∃ t q', exec (.batchDelivery die n) s = .next t ∧ iqAt t (die * 256 + n) = some q' ∧ q'.avail = true ∧ q'.n = rs.length
              ∧ q'.recs = q.recs.filter (fun r => r.batch != q.nextd) ∧ q'.nextd = q.nextd ∧ t.threads = s.threads)
            ∧ (usable = false → ∃ t q', exec (.batchDelivery die n) s = .next t ∧ iqAt t (die * 256 + n) = some q' ∧ q'.qstate = 2
              ∧ q'.need = rs.length ∧ q'.recs = q.recs ∧ q'.avail = false))
        ∧ (q.qstate = 2 → ∃ t, exec (.dcapRetry die n) s = .next t ∧ iqAt t (die * 256 + n) = some { q with qstate := 1, retry := true }
          ∧ (∀ j, j ≠ die * 256 + n → iqAt t j = iqAt s j) ∧ ∀ a, a < q.qdr + 32 ∨ q.qdr + 64 ≤ a → readByte t a = readByte s a)

/-- R196, R197, R199, R207, R272, R273, R274, R276, R277, R299, R300: For each step of dispatch, translation and error
handling, where its rule lets it happen it completes, with this effect. HOST_QUEUE_TAKE gives a pending record to a free
intake entry and advances CONSIDX, or marks a malformed queue. DEPENDENCE_OBSERVE notes a satisfied dependence, and starts
the record with the last; a zero signal is read again. PREDICATE_READ starts the record, or completes it for a zero.
REPLACEMENT_MAP_INSTALL puts the map's words in force, writes BAD and advances RGEN (a word whose NEW is misaligned counts as
bad: log entry 41). PAGE_WALK fills both TLBs of a core with the leaf it finds (a full TLB drops its oldest entry: log entry
42). COW_COPY, where a pool has a page, gives the new page the bytes of the old, names the new page in every replica of the
leaf with COW and CBSY zero and its other bits as they were, takes every TLB entry of the page on the device away, advances
HEAD and puts the old page into the pool's entry; no other byte changes but the count COWS. With an empty pool the write is
left to take its cause. INVCMD removes the TLB entries it covers and counts itself done. SNAPCMD marks the writable leaves of
its range and counts them, or reports a malformed command. SCRUB poisons and logs a granule of a bank that holds an error,
and UNCORRECTABLE_ERROR poisons its granule. (The numbers by which the last two name errors are the model's: log entry 65.) -/
def Obligations.DispatchAndPageEvents : Prop :=
  (∀ (s : State) (dev q : Nat), dev < 256 → q < 32 → hqEn (hqRead s dev q) = true →
      let d := hqRead s dev q
      (hqBad d = true → ∃ t, exec (.hostQueueTake dev q) s = .next t ∧ (hqRead t dev q).testBit 69 = true ∧ (hqRead t dev q).testBit 68 = false
          ∧ { t with mem := s.mem } = s)
        ∧ (hqBad d = false → hqPending d ≠ 0 → ∀ e u,
          intakeEnter dev (BitVec.ofNat 512 (readMem s (dev * 2 ^ 44 + d % 2 ^ 44 + 64 * (d / 2 ^ 128 % 2 ^ 32 % 2 ^ (d / 2 ^ 64 % 16))) 64)) s = some (e, u) →
          ∃ t, exec (.hostQueueTake dev q) s = .next t ∧ t.intake = u.intake ∧ hqRead t dev q / 2 ^ 128 % 2 ^ 32 = (d / 2 ^ 128 + 1) % 2 ^ 32
            ∧ tabGet 0 t.hqNext dev = (q + 1) % 32))
    ∧ (∀ (s : State) (dev e : Nat) (n : Intake), intakeAt s dev e = some n → n.ready = false → n.reading = false → n.ending = none →
      (∀ j v u, j < recNdep n.record → signalLoad dev (recRcb n.record) (depAddr n.record j) s = .ok v u →
          let n' := { n with look := n.look.filter (· != j), seen := setInsert j n.seen }
          (v = 0 → ∃ t, exec (.dependenceObserve dev e j) s = .next t ∧ t = setIntake u dev e { n with look := n.look.filter (· != j) })
            ∧ (v % 256 = 1 ∨ v % 256 = 7 → ∃ t, exec (.dependenceObserve dev e j) s = .next t
              ∧ (n'.seen.length ≠ recNdep n.record ∨ recCond n.record = true → t = setIntake u dev e n')
              ∧ (n'.seen.length = recNdep n.record → recCond n.record = false → t = becomeReady dev e (setIntake u dev e n'))))
        ∧ (∀ v u, predicateDue n = true → signalLoad dev (recRcb n.record) (sigAddr n.record (recF n.record 383 352)) s = .ok v u →
          exec (.predicateRead dev e) s = .next (if v = 0 then complete dev e 7 0 u else becomeReady dev e u)))
    ∧ (∀ (s : State) (rcb : Nat), rcb % 64 = 0 → rcbRead s rcb % 2 ^ 20 ≠ 0 →
      let va := rcbRead s rcb / 2 ^ 320 % 2 ^ 64
      let w := dispatchWho s (devOf rcb) rcb
      let advanced := fun t => rcbRead t rcb / 2 ^ 384 % 2 ^ 16 = (rcbRead s rcb / 2 ^ 384 + 1) % 2 ^ 16
      (va = 0 → ∃ t, exec (.replacementMapInstall rcb) s = .next t ∧ tabGet [] t.maps rcb = [] ∧ { t with maps := s.maps, mem := s.mem } = s ∧ advanced t)
        ∧ (∀ l bad p pa u, va ≠ 0 → mapOf w va s = .ok (some (l, bad)) u → u.mem = s.mem →
          translate u w false false 1 va = .ok (p, pa) → placeOf pa ≠ .hostAperture → pa + 4 ≤ rcb ∨ rcb + 64 ≤ pa →
          ∃ t, exec (.replacementMapInstall rcb) s = .next t ∧ tabGet [] t.maps rcb = l ∧ readMem t (pa + 2) 2 = bad % 2 ^ 16
            ∧ { t with maps := u.maps, mem := u.mem, tags := u.tags } = u ∧ advanced t))
    ∧ (∀ (s : State) (cn asid : Nat), isDie (cn / 32) = true →
      (∀ vas, ∃ t, exec (.pageWalk cn asid vas) s = .next t ∧ { t with cores := s.cores, clusters := s.clusters } = s)
        ∧ (∀ va, walk s (cn / 32) (BitVec.ofNat 16 asid) va = none → exec (.pageWalk cn asid [va]) s = .next s)
        ∧ (∀ va p l a, va < 2 ^ 57 → walk s (cn / 32) (BitVec.ofNat 16 asid) va = some (p, l, a) →
          ∃ t, exec (.pageWalk cn asid [va]) s = .next t
            ∧ (core t cn).tlb = tlbFill 512 ⟨BitVec.ofNat 16 asid, va - va % pageBytes p, p⟩ (core s cn).tlb
            ∧ (cluster t (cn / 2)).tlb = tlbFill 8192 ⟨BitVec.ofNat 16 asid, va - va % pageBytes p, p⟩ (cluster s (cn / 2)).tlb))
    ∧ (∀ (s : State) (die : Nat), isDie die = true →
      (∀ asid va, copyBusy s die (BitVec.ofNat 16 asid) va = false →
          let s1 := { s with cows := s.cows.filter (· != (die, BitVec.ofNat 16 asid, va)) }
          (∀ p l a, walk s die (BitVec.ofNat 16 asid) va = some (p, l, a) → pteCow p = true → pteWr p = true → poolNext s die (pteSize p) = none →
              exec (.cowCopy die asid va) s = .next s1)
            ∧ ∀ p l a ent, walk s die (BitVec.ofNat 16 asid) va = some (p, l, a) → pteCow p = true → pteWr p = true →
              poolNext s die (pteSize p) = some ent →
              let old := ptePa p
              let new := readMem s ent 8 / 2 ^ 12 % 2 ^ 40 * 4096
              let n := pageBytes p
              let leaf := firstReplica p a
              let pool := poolAddr die (pteSize p)
              apart [(new, n), (old, n), (leaf, 8 * replicas (pteSize p)), (ent, 8), (pool, 16), (windowBase die + 0x300008, 8)] →
              (∀ j, j < n → (∃ d, placeOf (new + j) = .hbm d) ∧ ∃ d, placeOf (old + j) = .hbm d) →
              ∃ t v, exec (.cowCopy die asid va) s = .next t ∧ t.threads = s.threads
                ∧ (∀ j, j < n → readByte t (new + j) = readByte s (old + j))
                ∧ (∀ i, i < replicas (pteSize p) → readMem t (leaf + 8 * i) 8 = v.toNat)
                ∧ ptePa v = new ∧ pteCow v = false ∧ v.getLsbD 11 = false
                ∧ (∀ b, b ≠ 8 → b ≠ 11 → b < 12 ∨ 51 < b → v.getLsbD b = p.getLsbD b)
                ∧ readMem t ent 8 = old + 1 ∧ readMem t pool 16 / 2 ^ 64 % 2 ^ 32 = (readMem s pool 16 / 2 ^ 64 + 1) % 2 ^ 32
                ∧ (∀ b, outside [(new, n), (leaf, 8 * replicas (pteSize p)), (ent, 8), (pool, 16), (windowBase die + 0x300008, 8)] b →
                  readByte t b = readByte s b)
                ∧ (∀ cn, devOfDie (dieOfCore cn) = devOfDie die → ∀ e ∈ (core t cn).tlb, tlbOverlaps (BitVec.ofNat 16 asid) (va - va % n) n e = false)
                ∧ ∀ ck, devOfDie (ck / 16) = devOfDie die → ∀ e ∈ (cluster t ck).tlb, tlbOverlaps (BitVec.ofNat 16 asid) (va - va % n) n e = false)
        ∧ (let c := readMem s (tuBase die + 0x10) 16
          c / 2 ^ 22 % 2 ^ 42 = 0 → c / 2 ^ 121 % 2 ^ 7 = 0 →
          let va := c / 2 ^ 64 % 2 ^ 57
          let n := 4096 * 4 ^ (c / 2 ^ 18 % 16)
          let covered := fun (e : TlbEntry) => (c.testBit 16 || e.asid == BitVec.ofNat 16 c) && (c.testBit 17 || tlbOverlaps e.asid (va - va % n) n e)
          ∃ t, exec (.invcmd die) s = .next t
            ∧ (∀ cn, (core t cn).tlb = if devOfDie (dieOfCore cn) = devOfDie die then (core s cn).tlb.filter (fun e => !covered e) else (core s cn).tlb)
            ∧ (∀ ck, (cluster t ck).tlb = if devOfDie (ck / 16) = devOfDie die then (cluster s ck).tlb.filter (fun e => !covered e) else (cluster s ck).tlb)
            ∧ (noWritesDue s → readMem t (tuBase die + 0x20) 4 = 0
                ∧ readMem t (tuBase die + 0x24) 4 = (readMem s (tuBase die + 0x24) 4 + 1) % 2 ^ 32))
        ∧ (let c := readMem s (tuBase die + 0x40) 32
          let st := tuBase die + 0x60
          let u := writeMem s st 1 1
          let leaves := fun v => snapLeaves v die (BitVec.ofNat 16 c) (c / 2 ^ 64 % 2 ^ 57 + 4096 * (c / 2 ^ 128 % 2 ^ 32)) (c / 2 ^ 128 % 2 ^ 32) (c / 2 ^ 64 % 2 ^ 57)
          (c / 2 ^ 128 % 2 ^ 32 = 0 → ∃ t, exec (.snapcmd die) s = .next t ∧ readMem t st 1 = 2 ∧ { t with mem := s.mem } = s)
            ∧ (c / 2 ^ 16 % 2 ^ 48 = 0 → c / 2 ^ 121 % 2 ^ 7 = 0 → c / 2 ^ 128 % 2 ^ 32 ≠ 0 → (leaves s).length ≤ c / 2 ^ 160 % 2 ^ 32 →
              (leaves u).any (fun q => (readMem u (firstReplica q.1 q.2) 8).testBit 11) = false → noWritesDue s → tabGet 0 s.snapWaits die = 0 →
              ∃ t, exec (.snapcmd die) s = .next t ∧ readMem t st 4 = 0 ∧ readMem t (st + 4) 4 = (leaves u).length % 2 ^ 32 ∧ t.threads = s.threads)))
    ∧ ∀ (s : State) (g d : Nat), g < 2 ^ 46 → granuleDie g = some d →
      (poisoned s (64 * g) 64 = false → exec (.scrub g) s = .next s)
        ∧ (poisoned s (64 * g) 64 = true → (∀ k, placeOf (64 * g) ≠ .hbm k) →
          ∃ t, exec (.scrub g) s = .next t ∧ g ∈ t.poison ∧ g ∉ t.latent ∧ t.threads = s.threads)
        ∧ ∃ t, exec (.uncorrectableError g) s = .next t ∧ g ∈ t.poison ∧ t.threads = s.threads

/-- R355, R356, R357, R466, R467, R468, R469, R471, R475, R476, R477, R478: For each request from outside and each event of a
device, where its rule lets it happen it completes, with this effect. HOST_WRITE, HOST_FORWARD and REGISTER_WRITE store the
bytes they reach and no other, or nothing; HOST_READ replies with the bytes, HOST_ATOMIC with the old value, storing the new,
or they are refused; a request that must wait waits; HOST_COMPLETION and HOST_COMPLETION_TIMEOUT answer the oldest request.
POWER_REQUEST_P waits for a swath; POWER_REQUEST_D1 and D2 are granted to an idle device, D1_EXIT returns to the state before
it, D2_EXIT restarts the firmware where the image held in HBM is as it was started, and otherwise boots cold; THERMAL_TRIP is
kept for the next swath; POWER_ON boots once; POWER_LOSS keeps what is fused. ATTESTATION_REQUEST forms a report,
ATTESTATION_REPORT delivers it. PRESENT takes a token, DEBUG_TOKEN_CHECK opens a session for a good one and counts a refused
one, CLOSE ends it. OWNER_TRANSITION with the vendor's signature over the key's bytes, MANUFACTURING_EXIT and
FUSED_MINIMUM_VERSION_RAISE by signed firmware fuse their value once. (The model's choices: reply statuses 0 and 1, log entry
27, and 2 for poison, log entry 28; a refused image counted as a boot and the place of the image in HBM, log entry 31; the
owner key kept over POWER_LOSS, the bytes that the vendor signs, and P requests in D1 and D2, log entry 32.) -/
def Obligations.HostAndDeviceEvents : Prop :=
  (∀ (s : State) (i : Instr) (mgmt : Bool) (pa : Nat) (l : List (BitVec 8)), l ≠ [] → l.length ≤ 512 → pa < 2 ^ 52 →
      (i = .hostWrite pa l ∧ mgmt = false ∨ i = .hostForward pa l ∧ mgmt = false ∨ i = .registerWrite pa l ∧ mgmt = true) →
      (requestHeld s s.waiting (.write mgmt pa l) = true → exec i s = .next { s with waiting := s.waiting ++ [.write mgmt pa l] })
        ∧ (requestHeld s s.waiting (.write mgmt pa l) = false →
          (pathReaches s mgmt pa = false → exec i s = .next s)
            ∧ ((∀ j, j < l.length → pathReaches s mgmt (pa + j) = true) → isMemory pa → pa % 64 + l.length ≤ 64 → QuietBytes s pa l.length →
              ∃ t, exec i s = .next t ∧ storedBytes s t pa l.length (numOfBytes l) ∧ t.threads = s.threads)
            ∧ (∀ die, isDie die = true → pa = windowBase die + 8 → l.length = 8 → pathReaches s mgmt pa = true →
              ∃ t, exec i s = .next t ∧ readMem t pa 4 = numOfBytes l % 2 ^ 32 ∧ { t with mem := s.mem } = s)))
    ∧ (∀ (s : State) (pa n : Nat), 0 < n → n ≤ 4096 → pa < 2 ^ 52 → requestHeld s s.waiting (.read pa n) = false →
      ((∀ j, j < n → pathReaches s false (pa + j) = true) → cachesCurrent s →
          ∃ t, exec (.hostRead pa n) s = .next t ∧ t.mem = s.mem ∧ t.threads = s.threads
            ∧ t.hostReplies = s.hostReplies ++ [(if poisoned s pa n then 2 else 0, (List.range n).map (fun j => pathByte s (pa + j)))])
        ∧ (pathReaches s false pa = false → exec (.hostRead pa n) s = .next { s with hostReplies := s.hostReplies ++ [(1, [])] }))
    ∧ (∀ (s : State) (op pa : Nat) (wide : Bool) (a b : BitVec 64), 1 ≤ op → op ≤ 3 → pa < 2 ^ 52 →
      requestHeld s s.waiting (.atomic op wide pa a b) = false →
      let n := if wide then 8 else 4
      let old := readMem s pa n
      let new := if op = 1 then old + a.toNat else if op = 2 then a.toNat else if old = b.toNat % 256 ^ n then a.toNat else old
      (pathReaches s false pa = true → isMemory pa → pa % n = 0 → poisoned s pa n = false → QuietBytes s pa n →
          ∃ t, exec (.hostAtomic op wide pa a b) s = .next t ∧ storedBytes s t pa n new
            ∧ t.hostReplies = s.hostReplies ++ [(0, bytesOfNat n old)] ∧ t.threads = s.threads)
        ∧ (pathReaches s false pa = false →
          exec (.hostAtomic op wide pa a b) s = .next { s with hostReplies := s.hostReplies ++ [(1, [])] }))
    ∧ (∀ (s : State) (r status : Nat) (l : List (BitVec 8)), (∃ h ∈ tabGet [] s.hostReqs r, h.answer = none) → status ≤ 3 →
      (∃ t, exec (.hostCompletion r status l) s = .next t ∧ { t with hostReqs := s.hostReqs } = s
          ∧ tabGet [] t.hostReqs r = answerFirst status (numOfBytes l) (tabGet [] s.hostReqs r))
        ∧ ∃ t, exec (.hostCompletionTimeout r) s = .next t ∧ { t with hostReqs := s.hostReqs } = s
          ∧ tabGet [] t.hostReqs r = answerFirst 4 0 (tabGet [] s.hostReqs r))
    ∧ (∀ (s : State) (d : Nat), d < 256 →
      let v := device s d
      (∀ n, n < 4 → ∃ t, exec (.powerRequestP d n) s = .next t ∧ (device t d).pending = some n ∧ powerState t d = powerState s d
          ∧ readMem t (windowBase (d * 32)) 1 / 16 % 8 = n)
        ∧ (powerIdle s d = true → powerState s d < 4 →
          ∃ t, exec (.powerRequestD1 d) s = .next t ∧ powerState t d = 4 ∧ (device t d).prior = powerState s d)
        ∧ (powerIdle s d = true → powerState s d ≠ 6 →
          ∃ t, exec (.powerRequestD2 d) s = .next t ∧ powerState t d = 6 ∧ (device t d).pending = none
            ∧ ∀ k, devOfDie (dieOfThread k) = d → thr t k = Thread.init)
        ∧ (powerIdle s d = false → ∃ t, exec (.powerRequestD2 d) s = .next t ∧ powerState t d = powerState s d ∧ t.threads = s.threads)
        ∧ (powerState s d = 4 → v.prior < 8 → ∃ t, exec (.d1Exit d) s = .next t ∧ powerState t d = v.prior ∧ { t with mem := s.mem } = s)
        ∧ (powerState s d = 6 → v.running ≠ none → poisoned s (firmwareBase d) v.imageLen = false →
          sha512 v.imageLen (readMem s (firmwareBase d) v.imageLen) = v.awake →
          ∃ t, exec (.d2Exit d) s = .next t ∧ powerState t d = 0 ∧ device t d = { v with d2x := v.d2x + 1 })
        ∧ (powerState s d = 6 → v.running = none ∨ sha512 v.imageLen (readMem s (firmwareBase d) v.imageLen) ≠ v.awake →
          ∃ t, exec (.d2Exit d) s = .next t ∧ powerState t d = 0 ∧ (device t d).boots = v.boots + 1)
        ∧ (∀ die, die < 24 → ∃ t, exec (.thermalTrip (d * 32 + die)) s = .next t ∧ device t d = { v with trip := true, pending := none }
            ∧ readMem t (windowBase (d * 32 + die) + 1) 1 % 2 = 1)
        ∧ (v.running = none → ∃ t, exec (.powerOn d) s = .next t ∧ (device t d).boots = v.boots + 1 ∧ (device t d).off = false)
        ∧ ((secstat s d).testBit 4 = false → ∃ t, exec (.attestationRequest d) s = .next t ∧ device t d = { v with report := some (reportNow s d) }
            ∧ (secstat t d).testBit 4 = true)
        ∧ (∀ r, v.report = some r → ∃ t, exec (.attestationReport d) s = .next t ∧ device t d = { v with report := none }
            ∧ readMem t (securityBase d + 0x80) 344 = r.toNat ∧ readMem t (securityBase d + 0x40) 32 = 0 ∧ (secstat t d).testBit 4 = false)
        ∧ (v.token = none → ∃ t, exec (.present d) s = .next t
            ∧ device t d = { v with token := some (BitVec.ofNat 1280 (readMem s (debugBase d + 0x40) 160)) })
        ∧ (∀ tok, v.token = some tok → tokenGood s d tok.toNat = true → tok.toNat / 2 ^ 8 % 4 = 1 ∨ v.sec = 2 →
          ∃ t, exec (.debugTokenCheck d) s = .next t ∧ dbgOf t d = tok.toNat / 2 ^ 8 % 4
            ∧ device t d = { v with token := none, tokh := sha512 160 tok.toNat, rids := tokenRids tok.toNat })
        ∧ (∀ tok, v.token = some tok → tokenGood s d tok.toNat = false →
          ∃ t, exec (.debugTokenCheck d) s = .next t ∧ device t d = { v with token := none } ∧ t.threads = s.threads
            ∧ readMem t (debugBase d + 4) 4 = min (readMem s (debugBase d + 4) 4 + 1) (2 ^ 32 - 1))
        ∧ (dbgOf s d = 0 → exec (.close d) s = .next s)
        ∧ (dbgOf s d ≠ 0 → ∃ t, exec (.close d) s = .next t ∧ dbgOf t d = 0 ∧ device t d = { v with tokh := 0, rids := [] })
        ∧ (∀ key sig, v.sec = 0 → v.running ≠ none → ed25519Verify Config.vendorKey 32 key.toNat sig = true →
          ∃ t, exec (.ownerTransition d (key, sig)) s = .next t
            ∧ device t d = { v with sec := 1, owner := key, ownh := sha512 32 key.toNat } ∧ { t with devices := s.devices, mem := s.mem } = s)
        ∧ (∀ key sig, v.sec = 0 → v.running ≠ none → ed25519Verify Config.vendorKey 32 key.toNat sig = false →
          exec (.ownerTransition d (key, sig)) s = .next s)
        ∧ (∀ key, v.sec = 2 → ∃ t, exec (.manufacturingExit d key) s = .next t ∧ device t d = { v with sec := 0, idseed := some key }
            ∧ { t with devices := s.devices, mem := s.mem } = s)
        ∧ (∀ n : BitVec 32, v.running ≠ none → v.signed = true → ∃ t, exec (.fusedMinimumVersionRaise d n) s = .next t
            ∧ device t d = { v with minver := if v.minver.toNat < n.toNat then n else v.minver })
        ∧ ∃ t, exec (.powerLoss d) s = .next t
          ∧ device t d = { Device.init with boots := v.boots, idseed := v.idseed, ownh := v.ownh, owner := v.owner, minver := v.minver,
                                            sec := v.sec, off := true })

/-- R43, R44, R45, R50: For every instruction that is well formed and has a word, with every operand at every value that its
encoding admits, the word fits in 32 bits and the decoder reads the same instruction back from it; and for every 32-bit word
that the decoder accepts, the instruction it gives is well formed and has that very word, so that no bit of a word is ignored
and no two words mean the same instruction. -/
def Obligations.DecodeAndEncodeAgree : Prop :=
  (∀ (i : Instr) (n : Nat), i.wellFormed = true → encode i = some n → n < 2 ^ 32 ∧ decodeWord n = .ok i)
    ∧ (∀ (n : Nat) (i : Instr), n < 2 ^ 32 → decodeWord n = .ok i → i.wellFormed = true ∧ encode i = some n)

/-- R44, R63, R64: Fifteen words of the worked encodings, one for each of several groups, decode to the instruction and the
operands that their fields give; a word of major 0x00 or 0x3F decodes to no instruction, and every word of major 0x3E decodes
to nop or to a hint. -/
def Obligations.WordsDecode : Prop :=
  decodeWord 0x54404264 = .ok (.vfma 4 1 2 3) ∧ decodeWord 0x74410200 = .ok (.vst 4 4 2 0 false false)
    ∧ decodeWord 0x08517FFF = .ok (.addi 5 5 0x3FFF#14) ∧ decodeWord 0x34700003 = .ok (.loop 7 0 3)
    ∧ decodeWord 0x24503FFD = .ok (.bne 5 0 0x3FFD#14) ∧ decodeWord 0x48100008 = .ok (.forkX 8#14)
    ∧ decodeWord 0x40000083 = .ok (.xfence 3) ∧ decodeWord 0xF8000000 = .ok .nop ∧ decodeWord 0x4C000001 = .ok .exit
    ∧ decodeWord 0xB0604204 = .ok (.cmAdd 3 1 2 4) ∧ decodeWord 0x90E6C001 = .ok (.faDrain 7 27 none)
    ∧ decodeWord 0xBC454000 = .ok (.iqTake 2 21) ∧ decodeWord 0xC4000100 = .ok .nmWaitAll
    ∧ decodeWord 0xCD438000 = .ok (.pcount 20 14 0) ∧ decodeWord 0xA0418A41 = .ok (.cpRed2 2 3 5 0 1)
    ∧ (∀ n : Nat, n < 2 ^ 32 → (n / 2 ^ 26 = 0 ∨ n / 2 ^ 26 = 0x3F) → decodeWord n = .error .badMajor)
    ∧ (∀ n : Nat, n < 2 ^ 26 → decodeWord (0x3E * 2 ^ 26 + n) = .ok .nop ∨ ∃ k : Fin 67108864, k.val = n ∧ decodeWord (0x3E * 2 ^ 26 + n) = .ok (.hint k))

/-- R43, R61, R64, R129, R207, R264, R474: When nothing is due before an agent's turn and the first turn is that of a thread
that goes on, of a factor array context or of a copy engine that runs and that no halt session holds, and the four bytes at
its PC can be fetched, then the step is exec of the instruction that they decode to, on the state in which the agent has its
turn, beside the fills and the outstanding request that the fetch leaves on its way; or of the illegal-word event where they
decode to none or to one this sequencer does not execute; with a trace entry beside it where its device is traced. At an OLD
word of its region's replacement map, the thread runs the replacing word at its own address instead. A step on the agenda
comes before all else. (The order of turns is the model's own: log entry 2.) -/
def Obligations.StepRunsTheWord : Prop :=
  (∀ (s : State) (i : Instr) (l : List Instr), s.agenda = i :: l → step s = exec i { s with agenda := l })
    ∧ (∀ (s : State) (k : Nat) (l : List Agent) (w : Nat) (i : Instr), nothingDue s → agentsTurn s → nextAgents s = .thread k :: l → GoesOn s k →
        let u := threadTurn s k l
        let r := readySlot k { s with turns := l, engTurn := !s.engTurn }
        (replacedAt u k (pcOf u) = none → fetches u w → wordRuns u w i →
          ∃ v, accessed v u = u ∧ step s = traceRetire k r (exec i v)
            ∧ (untraced (exec i v) (devOfDie (dieOfThread k)) → step s = exec i v))
          ∧ (∀ new n, replacedAt u k (pcOf u) = some (new, n) → wordRuns u n.toNat i →
              let v := setSeq u { curSeq u with pc := new }
              step s = traceRetire k r (exec i v) ∧ (untraced (exec i v) (devOfDie (dieOfThread k)) → step s = exec i v)))
    ∧ (∀ (s : State) (c : Nat) (l : List Agent) (w : Nat) (i : Instr), nothingDue s → agentsTurn s → nextAgents s = .ctx c :: l →
        runsNow s (devOfDie (dieOfCore c)) = true → ctxStopped s c = false → unitHeld s (2 ^ 21 + c) = false →
        let u := { s with turns := l, engTurn := !s.engTurn, cur := .ctx c, steps := setErase (2 ^ 21 + c) s.steps }
        fetches u w → wordRuns u w i →
        ∃ v, accessed v u = u ∧ step s = traceProgram (dieOfCore c) { u with steps := s.steps } (exec i v)
          ∧ (untraced (exec i v) (devOfDie (dieOfCore c)) → step s = exec i v))
    ∧ (∀ (s : State) (n : Nat) (l : List Agent) (w : Nat) (i : Instr), nothingDue s → agentsTurn s → nextAgents s = .engine n :: l →
        runsNow s (devOfDie (n / 4)) = true → stopped s 4 (n / 4) (n % 4) = false → unitHeld s (2 ^ 22 + n) = false →
        let u := { s with turns := l, engTurn := !s.engTurn, cur := .engine n, steps := setErase (2 ^ 22 + n) s.steps }
        fetches u w → wordRuns u w i →
        ∃ v, accessed v u = u ∧ step s = traceProgram (n / 4) { u with steps := s.steps } (exec i v)
          ∧ (untraced (exec i v) (devOfDie (n / 4)) → step s = exec i v))

/-- R5, R106: From every state whose memory lists its bytes at strictly rising addresses and lists no byte that an unlisted
address would read as, a step that gives a next state gives one whose memory is in that form again: equal memories are equal
data after any instruction, event, copy, scrub or reset of a region. -/
def Obligations.MemoryStaysCanonical : Prop :=
  ∀ s t : State, s.memWf → step s = .next t → t.memWf

/-- R37, R149, R325, R334, R467, R284, R202, R106: In the reset state the memory is in its canonical form and lists nothing;
every thread slot is free; no context or engine runs a program or holds a command; no fault record is held; the swath counter
is 0; the device is in state P0; every pre-emption limit reads 8192, every selection-table entry 3, every link timeout
0x100000, every DOMAIN register 0xFFFF rows and columns, every budget record no limit and WC = 1, and every tile is empty.
(That bytes the spec gives no reset contents read as zero is the model's choice: log entry 1.) -/
def Obligations.ResetState : Prop :=
  State.reset.memWf ∧ State.reset.mem = [] ∧ State.reset.swath = 0
    ∧ (∀ k, (thr State.reset k).st = .free)
    ∧ (∀ c, (ctx State.reset c).prog = none ∧ (ctx State.reset c).queue = [] ∧ (core State.reset c).held = [])
    ∧ (∀ n, (engine State.reset n).prog = none ∧ (engine State.reset n).queue = [])
    ∧ (∀ dev die : Nat, dev < 256 → die < 24 →
        let d := dieKey dev die
        powerState State.reset dev = 0
          ∧ readMem State.reset (windowBase d + 8) 8 = 8192
          ∧ (∀ e, e < 640 → readMem State.reset (windowBase d + 0x400000 + e) 1 = 3)
          ∧ readMem State.reset (windowBase d + 0x500080) 8 = 0x100000
          ∧ readMem State.reset (windowBase d + 0x5000A0) 8 = 0xFFFFFFFF
          ∧ (∀ c, c < 16 → readMem State.reset (windowBase d + 0x10000 + 16 * c) 16 = 2 ^ 101 - 1)
          ∧ (∀ c j, c < 16 → j < 256 → readMem State.reset (clusterWindowBase (d * 16 + c) + 0x10000 + 32 * j) 32 = 0))
end

