-- ==== Sys2Proof/Laws/Tab.lean ====
section
/-! SUPPORT. The laws of sparse tables and of sets of numbers: reading after writing, and the order that writing keeps. -/

namespace Sys2Proof.Machine

/-- The numbers of a table rise strictly. -/
def Tab.sorted {α : Type} (t : Tab α) : Prop := t.Pairwise (fun a b => a.1 < b.1)

@[simp] theorem tabGet_nil {α : Type} (d : α) (k : Nat) : tabGet d [] k = d := rfl

theorem tabGet_insert_self {α : Type} (d v : α) (t : Tab α) (k : Nat) : tabGet d (tabInsert k v t) k = v := by
  induction t with
  | nil => simp [tabInsert, tabGet]
  | cons p t ih =>
    obtain ⟨k', v'⟩ := p
    simp only [tabInsert]
    split
    · simp [tabGet]
    · split
      · simp [tabGet]
      · rename_i h; simp [tabGet, h, ih]

theorem tabGet_insert_ne {α : Type} (d v : α) (t : Tab α) {k j : Nat} (h : j ≠ k) :
    tabGet d (tabInsert k v t) j = tabGet d t j := by
  induction t with
  | nil => simp [tabInsert, tabGet, h]
  | cons p t ih =>
    obtain ⟨k', v'⟩ := p
    simp only [tabInsert]
    split
    · simp [tabGet, h]
    · split
      · rename_i hk; subst hk; simp [tabGet, h]
      · by_cases hj : j = k' <;> simp [tabGet, hj, ih]

theorem tabGet_erase_self {α : Type} (d : α) (t : Tab α) (k : Nat) : tabGet d (tabErase k t) k = d := by
  induction t with
  | nil => rfl
  | cons p t ih =>
    obtain ⟨k', v'⟩ := p
    by_cases hk : k' = k
    · subst hk; simpa [tabErase] using ih
    · simp only [tabErase] at ih
      simp [tabErase, hk, tabGet, Ne.symm hk, ih]

theorem tabGet_erase_ne {α : Type} (d : α) (t : Tab α) {k j : Nat} (h : j ≠ k) :
    tabGet d (tabErase k t) j = tabGet d t j := by
  induction t with
  | nil => rfl
  | cons p t ih =>
    obtain ⟨k', v'⟩ := p
    simp only [tabErase] at ih
    by_cases hk : k' = k
    · subst hk; simp [tabErase, tabGet, h, ih]
    · by_cases hj : j = k' <;> simp [tabErase, hk, tabGet, hj, ih]

/-- An entry reads as it was written last. -/
@[simp] theorem tabGet_set_self {α : Type} [DecidableEq α] (d v : α) (t : Tab α) (k : Nat) :
    tabGet d (tabSet d t k v) k = v := by
  simp only [tabSet]
  split
  · rename_i h; simp [tabGet_erase_self, h]
  · exact tabGet_insert_self d v t k

/-- Writing an entry leaves the others alone. -/
theorem tabGet_set_ne {α : Type} [DecidableEq α] (d v : α) (t : Tab α) {k j : Nat} (h : j ≠ k) :
    tabGet d (tabSet d t k v) j = tabGet d t j := by
  simp only [tabSet]
  split
  · exact tabGet_erase_ne d t h
  · exact tabGet_insert_ne d v t h

/-- The entry written, or the old one. -/
theorem tabGet_set {α : Type} [DecidableEq α] (d v : α) (t : Tab α) (k j : Nat) :
    tabGet d (tabSet d t k v) j = if j = k then v else tabGet d t j := by
  by_cases h : j = k
  · subst h; simp
  · simp [h, tabGet_set_ne d v t h]

theorem tabErase_sorted {α : Type} (k : Nat) {t : Tab α} (h : Tab.sorted t) : Tab.sorted (tabErase k t) :=
  List.Pairwise.filter _ h

theorem mem_tabInsert {α : Type} {k : Nat} {v : α} {t : Tab α} {p : Nat × α} (h : p ∈ tabInsert k v t) : p = (k, v) ∨ p ∈ t := by
  induction t with
  | nil => simpa [tabInsert] using h
  | cons q t ih =>
    obtain ⟨k', v'⟩ := q
    simp only [tabInsert] at h
    split at h
    · simpa using h
    · split at h
      · rcases List.mem_cons.1 h with h | h
        · exact .inl h
        · exact .inr (List.mem_cons_of_mem _ h)
      · rcases List.mem_cons.1 h with h | h
        · exact .inr (by simp [h])
        · rcases ih h with h | h
          · exact .inl h
          · exact .inr (List.mem_cons_of_mem _ h)

theorem tabInsert_sorted {α : Type} (k : Nat) (v : α) {t : Tab α} (h : Tab.sorted t) : Tab.sorted (tabInsert k v t) := by
  induction t with
  | nil => simp [tabInsert, Tab.sorted]
  | cons q t ih =>
    obtain ⟨k', v'⟩ := q
    have h' := List.pairwise_cons.1 h
    simp only [tabInsert]
    split
    · rename_i hk
      refine List.pairwise_cons.2 ⟨?_, h⟩
      intro p hp
      rcases List.mem_cons.1 hp with hp | hp
      · simpa [hp] using hk
      · exact Nat.lt_trans hk (h'.1 p hp)
    · split
      · rename_i hk; subst hk
        exact List.pairwise_cons.2 ⟨h'.1, h'.2⟩
      · rename_i hk hk'
        refine List.pairwise_cons.2 ⟨?_, ih h'.2⟩
        intro p hp
        rcases mem_tabInsert hp with hp | hp
        · subst hp; simp; omega
        · exact h'.1 p hp

/-- Writing an entry keeps the order of a table. -/
theorem tabSet_sorted {α : Type} [DecidableEq α] (d : α) (k : Nat) (v : α) {t : Tab α} (h : Tab.sorted t) :
    Tab.sorted (tabSet d t k v) := by
  simp only [tabSet]
  split
  · exact tabErase_sorted k h
  · exact tabInsert_sorted k v h

end Sys2Proof.Machine
end

