-- ==== Sys2Proof/Laws/State.lean ====
section
/-! SUPPORT. What each update of State leaves and writes: one lemma per update and field, and the reads of units after writes. -/

namespace Sys2Proof.Machine

/-! ## `setThr` -/

@[simp] theorem setThr_cores (s : State) (k : Nat) (v : Thread) : (setThr s k v).cores = s.cores := rfl
@[simp] theorem setThr_clusters (s : State) (k : Nat) (v : Thread) : (setThr s k v).clusters = s.clusters := rfl
@[simp] theorem setThr_ctxs (s : State) (k : Nat) (v : Thread) : (setThr s k v).ctxs = s.ctxs := rfl
@[simp] theorem setThr_engines (s : State) (k : Nat) (v : Thread) : (setThr s k v).engines = s.engines := rfl
@[simp] theorem setThr_nms (s : State) (k : Nat) (v : Thread) : (setThr s k v).nms = s.nms := rfl
@[simp] theorem setThr_llc (s : State) (k : Nat) (v : Thread) : (setThr s k v).llc = s.llc := rfl
@[simp] theorem setThr_dir (s : State) (k : Nat) (v : Thread) : (setThr s k v).dir = s.dir := rfl
@[simp] theorem setThr_linksDown (s : State) (k : Nat) (v : Thread) : (setThr s k v).linksDown = s.linksDown := rfl
@[simp] theorem setThr_retries (s : State) (k : Nat) (v : Thread) : (setThr s k v).retries = s.retries := rfl
@[simp] theorem setThr_replaying (s : State) (k : Nat) (v : Thread) : (setThr s k v).replaying = s.replaying := rfl
@[simp] theorem setThr_lossLog (s : State) (k : Nat) (v : Thread) : (setThr s k v).lossLog = s.lossLog := rfl
@[simp] theorem setThr_lossCount (s : State) (k : Nat) (v : Thread) : (setThr s k v).lossCount = s.lossCount := rfl
@[simp] theorem setThr_iqs (s : State) (k : Nat) (v : Thread) : (setThr s k v).iqs = s.iqs := rfl
@[simp] theorem setThr_iqPackets (s : State) (k : Nat) (v : Thread) : (setThr s k v).iqPackets = s.iqPackets := rfl
@[simp] theorem setThr_hayStalls (s : State) (k : Nat) (v : Thread) : (setThr s k v).hayStalls = s.hayStalls := rfl
@[simp] theorem setThr_devices (s : State) (k : Nat) (v : Thread) : (setThr s k v).devices = s.devices := rfl
@[simp] theorem setThr_hostReplies (s : State) (k : Nat) (v : Thread) : (setThr s k v).hostReplies = s.hostReplies := rfl
@[simp] theorem setThr_hostReqs (s : State) (k : Nat) (v : Thread) : (setThr s k v).hostReqs = s.hostReqs := rfl
@[simp] theorem setThr_hostOut (s : State) (k : Nat) (v : Thread) : (setThr s k v).hostOut = s.hostOut := rfl
@[simp] theorem setThr_cows (s : State) (k : Nat) (v : Thread) : (setThr s k v).cows = s.cows := rfl
@[simp] theorem setThr_misses (s : State) (k : Nat) (v : Thread) : (setThr s k v).misses = s.misses := rfl
@[simp] theorem setThr_installed (s : State) (k : Nat) (v : Thread) : (setThr s k v).installed = s.installed := rfl
@[simp] theorem setThr_invWaits (s : State) (k : Nat) (v : Thread) : (setThr s k v).invWaits = s.invWaits := rfl
@[simp] theorem setThr_snapWaits (s : State) (k : Nat) (v : Thread) : (setThr s k v).snapWaits = s.snapWaits := rfl
@[simp] theorem setThr_waiting (s : State) (k : Nat) (v : Thread) : (setThr s k v).waiting = s.waiting := rfl
@[simp] theorem setThr_domains (s : State) (k : Nat) (v : Thread) : (setThr s k v).domains = s.domains := rfl
@[simp] theorem setThr_checked (s : State) (k : Nat) (v : Thread) : (setThr s k v).checked = s.checked := rfl
@[simp] theorem setThr_policies (s : State) (k : Nat) (v : Thread) : (setThr s k v).policies = s.policies := rfl
@[simp] theorem setThr_aborts (s : State) (k : Nat) (v : Thread) : (setThr s k v).aborts = s.aborts := rfl
@[simp] theorem setThr_intake (s : State) (k : Nat) (v : Thread) : (setThr s k v).intake = s.intake := rfl
@[simp] theorem setThr_hqNext (s : State) (k : Nat) (v : Thread) : (setThr s k v).hqNext = s.hqNext := rfl
@[simp] theorem setThr_maps (s : State) (k : Nat) (v : Thread) : (setThr s k v).maps = s.maps := rfl
@[simp] theorem setThr_spaces (s : State) (k : Nat) (v : Thread) : (setThr s k v).spaces = s.spaces := rfl
@[simp] theorem setThr_saves (s : State) (k : Nat) (v : Thread) : (setThr s k v).saves = s.saves := rfl
@[simp] theorem setThr_halts (s : State) (k : Nat) (v : Thread) : (setThr s k v).halts = s.halts := rfl
@[simp] theorem setThr_steps (s : State) (k : Nat) (v : Thread) : (setThr s k v).steps = s.steps := rfl
@[simp] theorem setThr_debugOut (s : State) (k : Nat) (v : Thread) : (setThr s k v).debugOut = s.debugOut := rfl
@[simp] theorem setThr_pairs (s : State) (k : Nat) (v : Thread) : (setThr s k v).pairs = s.pairs := rfl
@[simp] theorem setThr_packets (s : State) (k : Nat) (v : Thread) : (setThr s k v).packets = s.packets := rfl
@[simp] theorem setThr_forkQs (s : State) (k : Nat) (v : Thread) : (setThr s k v).forkQs = s.forkQs := rfl
@[simp] theorem setThr_mem (s : State) (k : Nat) (v : Thread) : (setThr s k v).mem = s.mem := rfl
@[simp] theorem setThr_poison (s : State) (k : Nat) (v : Thread) : (setThr s k v).poison = s.poison := rfl
@[simp] theorem setThr_latent (s : State) (k : Nat) (v : Thread) : (setThr s k v).latent = s.latent := rfl
@[simp] theorem setThr_tags (s : State) (k : Nat) (v : Thread) : (setThr s k v).tags = s.tags := rfl
@[simp] theorem setThr_barriers (s : State) (k : Nat) (v : Thread) : (setThr s k v).barriers = s.barriers := rfl
@[simp] theorem setThr_arrivals (s : State) (k : Nat) (v : Thread) : (setThr s k v).arrivals = s.arrivals := rfl
@[simp] theorem setThr_swath (s : State) (k : Nat) (v : Thread) : (setThr s k v).swath = s.swath := rfl
@[simp] theorem setThr_serial (s : State) (k : Nat) (v : Thread) : (setThr s k v).serial = s.serial := rfl
@[simp] theorem setThr_savedVq (s : State) (k : Nat) (v : Thread) : (setThr s k v).savedVq = s.savedVq := rfl
@[simp] theorem setThr_fresh (s : State) (k : Nat) (v : Thread) : (setThr s k v).fresh = s.fresh := rfl
@[simp] theorem setThr_cur (s : State) (k : Nat) (v : Thread) : (setThr s k v).cur = s.cur := rfl
@[simp] theorem setThr_agenda (s : State) (k : Nat) (v : Thread) : (setThr s k v).agenda = s.agenda := rfl
@[simp] theorem setThr_turns (s : State) (k : Nat) (v : Thread) : (setThr s k v).turns = s.turns := rfl
@[simp] theorem setThr_engTurn (s : State) (k : Nat) (v : Thread) : (setThr s k v).engTurn = s.engTurn := rfl

/-! ## `setCore` -/

@[simp] theorem setCore_threads (s : State) (k : Nat) (v : Core) : (setCore s k v).threads = s.threads := rfl
@[simp] theorem setCore_clusters (s : State) (k : Nat) (v : Core) : (setCore s k v).clusters = s.clusters := rfl
@[simp] theorem setCore_ctxs (s : State) (k : Nat) (v : Core) : (setCore s k v).ctxs = s.ctxs := rfl
@[simp] theorem setCore_engines (s : State) (k : Nat) (v : Core) : (setCore s k v).engines = s.engines := rfl
@[simp] theorem setCore_nms (s : State) (k : Nat) (v : Core) : (setCore s k v).nms = s.nms := rfl
@[simp] theorem setCore_llc (s : State) (k : Nat) (v : Core) : (setCore s k v).llc = s.llc := rfl
@[simp] theorem setCore_dir (s : State) (k : Nat) (v : Core) : (setCore s k v).dir = s.dir := rfl
@[simp] theorem setCore_linksDown (s : State) (k : Nat) (v : Core) : (setCore s k v).linksDown = s.linksDown := rfl
@[simp] theorem setCore_retries (s : State) (k : Nat) (v : Core) : (setCore s k v).retries = s.retries := rfl
@[simp] theorem setCore_replaying (s : State) (k : Nat) (v : Core) : (setCore s k v).replaying = s.replaying := rfl
@[simp] theorem setCore_lossLog (s : State) (k : Nat) (v : Core) : (setCore s k v).lossLog = s.lossLog := rfl
@[simp] theorem setCore_lossCount (s : State) (k : Nat) (v : Core) : (setCore s k v).lossCount = s.lossCount := rfl
@[simp] theorem setCore_iqs (s : State) (k : Nat) (v : Core) : (setCore s k v).iqs = s.iqs := rfl
@[simp] theorem setCore_iqPackets (s : State) (k : Nat) (v : Core) : (setCore s k v).iqPackets = s.iqPackets := rfl
@[simp] theorem setCore_hayStalls (s : State) (k : Nat) (v : Core) : (setCore s k v).hayStalls = s.hayStalls := rfl
@[simp] theorem setCore_devices (s : State) (k : Nat) (v : Core) : (setCore s k v).devices = s.devices := rfl
@[simp] theorem setCore_hostReplies (s : State) (k : Nat) (v : Core) : (setCore s k v).hostReplies = s.hostReplies := rfl
@[simp] theorem setCore_hostReqs (s : State) (k : Nat) (v : Core) : (setCore s k v).hostReqs = s.hostReqs := rfl
@[simp] theorem setCore_hostOut (s : State) (k : Nat) (v : Core) : (setCore s k v).hostOut = s.hostOut := rfl
@[simp] theorem setCore_cows (s : State) (k : Nat) (v : Core) : (setCore s k v).cows = s.cows := rfl
@[simp] theorem setCore_misses (s : State) (k : Nat) (v : Core) : (setCore s k v).misses = s.misses := rfl
@[simp] theorem setCore_installed (s : State) (k : Nat) (v : Core) : (setCore s k v).installed = s.installed := rfl
@[simp] theorem setCore_invWaits (s : State) (k : Nat) (v : Core) : (setCore s k v).invWaits = s.invWaits := rfl
@[simp] theorem setCore_snapWaits (s : State) (k : Nat) (v : Core) : (setCore s k v).snapWaits = s.snapWaits := rfl
@[simp] theorem setCore_waiting (s : State) (k : Nat) (v : Core) : (setCore s k v).waiting = s.waiting := rfl
@[simp] theorem setCore_domains (s : State) (k : Nat) (v : Core) : (setCore s k v).domains = s.domains := rfl
@[simp] theorem setCore_checked (s : State) (k : Nat) (v : Core) : (setCore s k v).checked = s.checked := rfl
@[simp] theorem setCore_policies (s : State) (k : Nat) (v : Core) : (setCore s k v).policies = s.policies := rfl
@[simp] theorem setCore_aborts (s : State) (k : Nat) (v : Core) : (setCore s k v).aborts = s.aborts := rfl
@[simp] theorem setCore_intake (s : State) (k : Nat) (v : Core) : (setCore s k v).intake = s.intake := rfl
@[simp] theorem setCore_hqNext (s : State) (k : Nat) (v : Core) : (setCore s k v).hqNext = s.hqNext := rfl
@[simp] theorem setCore_maps (s : State) (k : Nat) (v : Core) : (setCore s k v).maps = s.maps := rfl
@[simp] theorem setCore_spaces (s : State) (k : Nat) (v : Core) : (setCore s k v).spaces = s.spaces := rfl
@[simp] theorem setCore_saves (s : State) (k : Nat) (v : Core) : (setCore s k v).saves = s.saves := rfl
@[simp] theorem setCore_halts (s : State) (k : Nat) (v : Core) : (setCore s k v).halts = s.halts := rfl
@[simp] theorem setCore_steps (s : State) (k : Nat) (v : Core) : (setCore s k v).steps = s.steps := rfl
@[simp] theorem setCore_debugOut (s : State) (k : Nat) (v : Core) : (setCore s k v).debugOut = s.debugOut := rfl
@[simp] theorem setCore_pairs (s : State) (k : Nat) (v : Core) : (setCore s k v).pairs = s.pairs := rfl
@[simp] theorem setCore_packets (s : State) (k : Nat) (v : Core) : (setCore s k v).packets = s.packets := rfl
@[simp] theorem setCore_forkQs (s : State) (k : Nat) (v : Core) : (setCore s k v).forkQs = s.forkQs := rfl
@[simp] theorem setCore_mem (s : State) (k : Nat) (v : Core) : (setCore s k v).mem = s.mem := rfl
@[simp] theorem setCore_poison (s : State) (k : Nat) (v : Core) : (setCore s k v).poison = s.poison := rfl
@[simp] theorem setCore_latent (s : State) (k : Nat) (v : Core) : (setCore s k v).latent = s.latent := rfl
@[simp] theorem setCore_tags (s : State) (k : Nat) (v : Core) : (setCore s k v).tags = s.tags := rfl
@[simp] theorem setCore_barriers (s : State) (k : Nat) (v : Core) : (setCore s k v).barriers = s.barriers := rfl
@[simp] theorem setCore_arrivals (s : State) (k : Nat) (v : Core) : (setCore s k v).arrivals = s.arrivals := rfl
@[simp] theorem setCore_swath (s : State) (k : Nat) (v : Core) : (setCore s k v).swath = s.swath := rfl
@[simp] theorem setCore_serial (s : State) (k : Nat) (v : Core) : (setCore s k v).serial = s.serial := rfl
@[simp] theorem setCore_savedVq (s : State) (k : Nat) (v : Core) : (setCore s k v).savedVq = s.savedVq := rfl
@[simp] theorem setCore_fresh (s : State) (k : Nat) (v : Core) : (setCore s k v).fresh = s.fresh := rfl
@[simp] theorem setCore_cur (s : State) (k : Nat) (v : Core) : (setCore s k v).cur = s.cur := rfl
@[simp] theorem setCore_agenda (s : State) (k : Nat) (v : Core) : (setCore s k v).agenda = s.agenda := rfl
@[simp] theorem setCore_turns (s : State) (k : Nat) (v : Core) : (setCore s k v).turns = s.turns := rfl
@[simp] theorem setCore_engTurn (s : State) (k : Nat) (v : Core) : (setCore s k v).engTurn = s.engTurn := rfl

/-! ## `setCluster` -/

@[simp] theorem setCluster_threads (s : State) (k : Nat) (v : Cluster) : (setCluster s k v).threads = s.threads := rfl
@[simp] theorem setCluster_cores (s : State) (k : Nat) (v : Cluster) : (setCluster s k v).cores = s.cores := rfl
@[simp] theorem setCluster_ctxs (s : State) (k : Nat) (v : Cluster) : (setCluster s k v).ctxs = s.ctxs := rfl
@[simp] theorem setCluster_engines (s : State) (k : Nat) (v : Cluster) : (setCluster s k v).engines = s.engines := rfl
@[simp] theorem setCluster_nms (s : State) (k : Nat) (v : Cluster) : (setCluster s k v).nms = s.nms := rfl
@[simp] theorem setCluster_llc (s : State) (k : Nat) (v : Cluster) : (setCluster s k v).llc = s.llc := rfl
@[simp] theorem setCluster_dir (s : State) (k : Nat) (v : Cluster) : (setCluster s k v).dir = s.dir := rfl
@[simp] theorem setCluster_linksDown (s : State) (k : Nat) (v : Cluster) : (setCluster s k v).linksDown = s.linksDown := rfl
@[simp] theorem setCluster_retries (s : State) (k : Nat) (v : Cluster) : (setCluster s k v).retries = s.retries := rfl
@[simp] theorem setCluster_replaying (s : State) (k : Nat) (v : Cluster) : (setCluster s k v).replaying = s.replaying := rfl
@[simp] theorem setCluster_lossLog (s : State) (k : Nat) (v : Cluster) : (setCluster s k v).lossLog = s.lossLog := rfl
@[simp] theorem setCluster_lossCount (s : State) (k : Nat) (v : Cluster) : (setCluster s k v).lossCount = s.lossCount := rfl
@[simp] theorem setCluster_iqs (s : State) (k : Nat) (v : Cluster) : (setCluster s k v).iqs = s.iqs := rfl
@[simp] theorem setCluster_iqPackets (s : State) (k : Nat) (v : Cluster) : (setCluster s k v).iqPackets = s.iqPackets := rfl
@[simp] theorem setCluster_hayStalls (s : State) (k : Nat) (v : Cluster) : (setCluster s k v).hayStalls = s.hayStalls := rfl
@[simp] theorem setCluster_devices (s : State) (k : Nat) (v : Cluster) : (setCluster s k v).devices = s.devices := rfl
@[simp] theorem setCluster_hostReplies (s : State) (k : Nat) (v : Cluster) : (setCluster s k v).hostReplies = s.hostReplies := rfl
@[simp] theorem setCluster_hostReqs (s : State) (k : Nat) (v : Cluster) : (setCluster s k v).hostReqs = s.hostReqs := rfl
@[simp] theorem setCluster_hostOut (s : State) (k : Nat) (v : Cluster) : (setCluster s k v).hostOut = s.hostOut := rfl
@[simp] theorem setCluster_cows (s : State) (k : Nat) (v : Cluster) : (setCluster s k v).cows = s.cows := rfl
@[simp] theorem setCluster_misses (s : State) (k : Nat) (v : Cluster) : (setCluster s k v).misses = s.misses := rfl
@[simp] theorem setCluster_installed (s : State) (k : Nat) (v : Cluster) : (setCluster s k v).installed = s.installed := rfl
@[simp] theorem setCluster_invWaits (s : State) (k : Nat) (v : Cluster) : (setCluster s k v).invWaits = s.invWaits := rfl
@[simp] theorem setCluster_snapWaits (s : State) (k : Nat) (v : Cluster) : (setCluster s k v).snapWaits = s.snapWaits := rfl
@[simp] theorem setCluster_waiting (s : State) (k : Nat) (v : Cluster) : (setCluster s k v).waiting = s.waiting := rfl
@[simp] theorem setCluster_domains (s : State) (k : Nat) (v : Cluster) : (setCluster s k v).domains = s.domains := rfl
@[simp] theorem setCluster_checked (s : State) (k : Nat) (v : Cluster) : (setCluster s k v).checked = s.checked := rfl
@[simp] theorem setCluster_policies (s : State) (k : Nat) (v : Cluster) : (setCluster s k v).policies = s.policies := rfl
@[simp] theorem setCluster_aborts (s : State) (k : Nat) (v : Cluster) : (setCluster s k v).aborts = s.aborts := rfl
@[simp] theorem setCluster_intake (s : State) (k : Nat) (v : Cluster) : (setCluster s k v).intake = s.intake := rfl
@[simp] theorem setCluster_hqNext (s : State) (k : Nat) (v : Cluster) : (setCluster s k v).hqNext = s.hqNext := rfl
@[simp] theorem setCluster_maps (s : State) (k : Nat) (v : Cluster) : (setCluster s k v).maps = s.maps := rfl
@[simp] theorem setCluster_spaces (s : State) (k : Nat) (v : Cluster) : (setCluster s k v).spaces = s.spaces := rfl
@[simp] theorem setCluster_saves (s : State) (k : Nat) (v : Cluster) : (setCluster s k v).saves = s.saves := rfl
@[simp] theorem setCluster_halts (s : State) (k : Nat) (v : Cluster) : (setCluster s k v).halts = s.halts := rfl
@[simp] theorem setCluster_steps (s : State) (k : Nat) (v : Cluster) : (setCluster s k v).steps = s.steps := rfl
@[simp] theorem setCluster_debugOut (s : State) (k : Nat) (v : Cluster) : (setCluster s k v).debugOut = s.debugOut := rfl
@[simp] theorem setCluster_pairs (s : State) (k : Nat) (v : Cluster) : (setCluster s k v).pairs = s.pairs := rfl
@[simp] theorem setCluster_packets (s : State) (k : Nat) (v : Cluster) : (setCluster s k v).packets = s.packets := rfl
@[simp] theorem setCluster_forkQs (s : State) (k : Nat) (v : Cluster) : (setCluster s k v).forkQs = s.forkQs := rfl
@[simp] theorem setCluster_mem (s : State) (k : Nat) (v : Cluster) : (setCluster s k v).mem = s.mem := rfl
@[simp] theorem setCluster_poison (s : State) (k : Nat) (v : Cluster) : (setCluster s k v).poison = s.poison := rfl
@[simp] theorem setCluster_latent (s : State) (k : Nat) (v : Cluster) : (setCluster s k v).latent = s.latent := rfl
@[simp] theorem setCluster_tags (s : State) (k : Nat) (v : Cluster) : (setCluster s k v).tags = s.tags := rfl
@[simp] theorem setCluster_barriers (s : State) (k : Nat) (v : Cluster) : (setCluster s k v).barriers = s.barriers := rfl
@[simp] theorem setCluster_arrivals (s : State) (k : Nat) (v : Cluster) : (setCluster s k v).arrivals = s.arrivals := rfl
@[simp] theorem setCluster_swath (s : State) (k : Nat) (v : Cluster) : (setCluster s k v).swath = s.swath := rfl
@[simp] theorem setCluster_serial (s : State) (k : Nat) (v : Cluster) : (setCluster s k v).serial = s.serial := rfl
@[simp] theorem setCluster_savedVq (s : State) (k : Nat) (v : Cluster) : (setCluster s k v).savedVq = s.savedVq := rfl
@[simp] theorem setCluster_fresh (s : State) (k : Nat) (v : Cluster) : (setCluster s k v).fresh = s.fresh := rfl
@[simp] theorem setCluster_cur (s : State) (k : Nat) (v : Cluster) : (setCluster s k v).cur = s.cur := rfl
@[simp] theorem setCluster_agenda (s : State) (k : Nat) (v : Cluster) : (setCluster s k v).agenda = s.agenda := rfl
@[simp] theorem setCluster_turns (s : State) (k : Nat) (v : Cluster) : (setCluster s k v).turns = s.turns := rfl
@[simp] theorem setCluster_engTurn (s : State) (k : Nat) (v : Cluster) : (setCluster s k v).engTurn = s.engTurn := rfl

/-! ## `setCtx` -/

@[simp] theorem setCtx_threads (s : State) (k : Nat) (v : Ctx) : (setCtx s k v).threads = s.threads := rfl
@[simp] theorem setCtx_cores (s : State) (k : Nat) (v : Ctx) : (setCtx s k v).cores = s.cores := rfl
@[simp] theorem setCtx_clusters (s : State) (k : Nat) (v : Ctx) : (setCtx s k v).clusters = s.clusters := rfl
@[simp] theorem setCtx_engines (s : State) (k : Nat) (v : Ctx) : (setCtx s k v).engines = s.engines := rfl
@[simp] theorem setCtx_nms (s : State) (k : Nat) (v : Ctx) : (setCtx s k v).nms = s.nms := rfl
@[simp] theorem setCtx_llc (s : State) (k : Nat) (v : Ctx) : (setCtx s k v).llc = s.llc := rfl
@[simp] theorem setCtx_dir (s : State) (k : Nat) (v : Ctx) : (setCtx s k v).dir = s.dir := rfl
@[simp] theorem setCtx_linksDown (s : State) (k : Nat) (v : Ctx) : (setCtx s k v).linksDown = s.linksDown := rfl
@[simp] theorem setCtx_retries (s : State) (k : Nat) (v : Ctx) : (setCtx s k v).retries = s.retries := rfl
@[simp] theorem setCtx_replaying (s : State) (k : Nat) (v : Ctx) : (setCtx s k v).replaying = s.replaying := rfl
@[simp] theorem setCtx_lossLog (s : State) (k : Nat) (v : Ctx) : (setCtx s k v).lossLog = s.lossLog := rfl
@[simp] theorem setCtx_lossCount (s : State) (k : Nat) (v : Ctx) : (setCtx s k v).lossCount = s.lossCount := rfl
@[simp] theorem setCtx_iqs (s : State) (k : Nat) (v : Ctx) : (setCtx s k v).iqs = s.iqs := rfl
@[simp] theorem setCtx_iqPackets (s : State) (k : Nat) (v : Ctx) : (setCtx s k v).iqPackets = s.iqPackets := rfl
@[simp] theorem setCtx_hayStalls (s : State) (k : Nat) (v : Ctx) : (setCtx s k v).hayStalls = s.hayStalls := rfl
@[simp] theorem setCtx_devices (s : State) (k : Nat) (v : Ctx) : (setCtx s k v).devices = s.devices := rfl
@[simp] theorem setCtx_hostReplies (s : State) (k : Nat) (v : Ctx) : (setCtx s k v).hostReplies = s.hostReplies := rfl
@[simp] theorem setCtx_hostReqs (s : State) (k : Nat) (v : Ctx) : (setCtx s k v).hostReqs = s.hostReqs := rfl
@[simp] theorem setCtx_hostOut (s : State) (k : Nat) (v : Ctx) : (setCtx s k v).hostOut = s.hostOut := rfl
@[simp] theorem setCtx_cows (s : State) (k : Nat) (v : Ctx) : (setCtx s k v).cows = s.cows := rfl
@[simp] theorem setCtx_misses (s : State) (k : Nat) (v : Ctx) : (setCtx s k v).misses = s.misses := rfl
@[simp] theorem setCtx_installed (s : State) (k : Nat) (v : Ctx) : (setCtx s k v).installed = s.installed := rfl
@[simp] theorem setCtx_invWaits (s : State) (k : Nat) (v : Ctx) : (setCtx s k v).invWaits = s.invWaits := rfl
@[simp] theorem setCtx_snapWaits (s : State) (k : Nat) (v : Ctx) : (setCtx s k v).snapWaits = s.snapWaits := rfl
@[simp] theorem setCtx_waiting (s : State) (k : Nat) (v : Ctx) : (setCtx s k v).waiting = s.waiting := rfl
@[simp] theorem setCtx_domains (s : State) (k : Nat) (v : Ctx) : (setCtx s k v).domains = s.domains := rfl
@[simp] theorem setCtx_checked (s : State) (k : Nat) (v : Ctx) : (setCtx s k v).checked = s.checked := rfl
@[simp] theorem setCtx_policies (s : State) (k : Nat) (v : Ctx) : (setCtx s k v).policies = s.policies := rfl
@[simp] theorem setCtx_aborts (s : State) (k : Nat) (v : Ctx) : (setCtx s k v).aborts = s.aborts := rfl
@[simp] theorem setCtx_intake (s : State) (k : Nat) (v : Ctx) : (setCtx s k v).intake = s.intake := rfl
@[simp] theorem setCtx_hqNext (s : State) (k : Nat) (v : Ctx) : (setCtx s k v).hqNext = s.hqNext := rfl
@[simp] theorem setCtx_maps (s : State) (k : Nat) (v : Ctx) : (setCtx s k v).maps = s.maps := rfl
@[simp] theorem setCtx_spaces (s : State) (k : Nat) (v : Ctx) : (setCtx s k v).spaces = s.spaces := rfl
@[simp] theorem setCtx_saves (s : State) (k : Nat) (v : Ctx) : (setCtx s k v).saves = s.saves := rfl
@[simp] theorem setCtx_halts (s : State) (k : Nat) (v : Ctx) : (setCtx s k v).halts = s.halts := rfl
@[simp] theorem setCtx_steps (s : State) (k : Nat) (v : Ctx) : (setCtx s k v).steps = s.steps := rfl
@[simp] theorem setCtx_debugOut (s : State) (k : Nat) (v : Ctx) : (setCtx s k v).debugOut = s.debugOut := rfl
@[simp] theorem setCtx_pairs (s : State) (k : Nat) (v : Ctx) : (setCtx s k v).pairs = s.pairs := rfl
@[simp] theorem setCtx_packets (s : State) (k : Nat) (v : Ctx) : (setCtx s k v).packets = s.packets := rfl
@[simp] theorem setCtx_forkQs (s : State) (k : Nat) (v : Ctx) : (setCtx s k v).forkQs = s.forkQs := rfl
@[simp] theorem setCtx_mem (s : State) (k : Nat) (v : Ctx) : (setCtx s k v).mem = s.mem := rfl
@[simp] theorem setCtx_poison (s : State) (k : Nat) (v : Ctx) : (setCtx s k v).poison = s.poison := rfl
@[simp] theorem setCtx_latent (s : State) (k : Nat) (v : Ctx) : (setCtx s k v).latent = s.latent := rfl
@[simp] theorem setCtx_tags (s : State) (k : Nat) (v : Ctx) : (setCtx s k v).tags = s.tags := rfl
@[simp] theorem setCtx_barriers (s : State) (k : Nat) (v : Ctx) : (setCtx s k v).barriers = s.barriers := rfl
@[simp] theorem setCtx_arrivals (s : State) (k : Nat) (v : Ctx) : (setCtx s k v).arrivals = s.arrivals := rfl
@[simp] theorem setCtx_swath (s : State) (k : Nat) (v : Ctx) : (setCtx s k v).swath = s.swath := rfl
@[simp] theorem setCtx_serial (s : State) (k : Nat) (v : Ctx) : (setCtx s k v).serial = s.serial := rfl
@[simp] theorem setCtx_savedVq (s : State) (k : Nat) (v : Ctx) : (setCtx s k v).savedVq = s.savedVq := rfl
@[simp] theorem setCtx_fresh (s : State) (k : Nat) (v : Ctx) : (setCtx s k v).fresh = s.fresh := rfl
@[simp] theorem setCtx_cur (s : State) (k : Nat) (v : Ctx) : (setCtx s k v).cur = s.cur := rfl
@[simp] theorem setCtx_agenda (s : State) (k : Nat) (v : Ctx) : (setCtx s k v).agenda = s.agenda := rfl
@[simp] theorem setCtx_turns (s : State) (k : Nat) (v : Ctx) : (setCtx s k v).turns = s.turns := rfl
@[simp] theorem setCtx_engTurn (s : State) (k : Nat) (v : Ctx) : (setCtx s k v).engTurn = s.engTurn := rfl

/-! ## `setEngine` -/

@[simp] theorem setEngine_threads (s : State) (k : Nat) (v : Engine) : (setEngine s k v).threads = s.threads := rfl
@[simp] theorem setEngine_cores (s : State) (k : Nat) (v : Engine) : (setEngine s k v).cores = s.cores := rfl
@[simp] theorem setEngine_clusters (s : State) (k : Nat) (v : Engine) : (setEngine s k v).clusters = s.clusters := rfl
@[simp] theorem setEngine_ctxs (s : State) (k : Nat) (v : Engine) : (setEngine s k v).ctxs = s.ctxs := rfl
@[simp] theorem setEngine_nms (s : State) (k : Nat) (v : Engine) : (setEngine s k v).nms = s.nms := rfl
@[simp] theorem setEngine_llc (s : State) (k : Nat) (v : Engine) : (setEngine s k v).llc = s.llc := rfl
@[simp] theorem setEngine_dir (s : State) (k : Nat) (v : Engine) : (setEngine s k v).dir = s.dir := rfl
@[simp] theorem setEngine_linksDown (s : State) (k : Nat) (v : Engine) : (setEngine s k v).linksDown = s.linksDown := rfl
@[simp] theorem setEngine_retries (s : State) (k : Nat) (v : Engine) : (setEngine s k v).retries = s.retries := rfl
@[simp] theorem setEngine_replaying (s : State) (k : Nat) (v : Engine) : (setEngine s k v).replaying = s.replaying := rfl
@[simp] theorem setEngine_lossLog (s : State) (k : Nat) (v : Engine) : (setEngine s k v).lossLog = s.lossLog := rfl
@[simp] theorem setEngine_lossCount (s : State) (k : Nat) (v : Engine) : (setEngine s k v).lossCount = s.lossCount := rfl
@[simp] theorem setEngine_iqs (s : State) (k : Nat) (v : Engine) : (setEngine s k v).iqs = s.iqs := rfl
@[simp] theorem setEngine_iqPackets (s : State) (k : Nat) (v : Engine) : (setEngine s k v).iqPackets = s.iqPackets := rfl
@[simp] theorem setEngine_hayStalls (s : State) (k : Nat) (v : Engine) : (setEngine s k v).hayStalls = s.hayStalls := rfl
@[simp] theorem setEngine_devices (s : State) (k : Nat) (v : Engine) : (setEngine s k v).devices = s.devices := rfl
@[simp] theorem setEngine_hostReplies (s : State) (k : Nat) (v : Engine) : (setEngine s k v).hostReplies = s.hostReplies := rfl
@[simp] theorem setEngine_hostReqs (s : State) (k : Nat) (v : Engine) : (setEngine s k v).hostReqs = s.hostReqs := rfl
@[simp] theorem setEngine_hostOut (s : State) (k : Nat) (v : Engine) : (setEngine s k v).hostOut = s.hostOut := rfl
@[simp] theorem setEngine_cows (s : State) (k : Nat) (v : Engine) : (setEngine s k v).cows = s.cows := rfl
@[simp] theorem setEngine_misses (s : State) (k : Nat) (v : Engine) : (setEngine s k v).misses = s.misses := rfl
@[simp] theorem setEngine_installed (s : State) (k : Nat) (v : Engine) : (setEngine s k v).installed = s.installed := rfl
@[simp] theorem setEngine_invWaits (s : State) (k : Nat) (v : Engine) : (setEngine s k v).invWaits = s.invWaits := rfl
@[simp] theorem setEngine_snapWaits (s : State) (k : Nat) (v : Engine) : (setEngine s k v).snapWaits = s.snapWaits := rfl
@[simp] theorem setEngine_waiting (s : State) (k : Nat) (v : Engine) : (setEngine s k v).waiting = s.waiting := rfl
@[simp] theorem setEngine_domains (s : State) (k : Nat) (v : Engine) : (setEngine s k v).domains = s.domains := rfl
@[simp] theorem setEngine_checked (s : State) (k : Nat) (v : Engine) : (setEngine s k v).checked = s.checked := rfl
@[simp] theorem setEngine_policies (s : State) (k : Nat) (v : Engine) : (setEngine s k v).policies = s.policies := rfl
@[simp] theorem setEngine_aborts (s : State) (k : Nat) (v : Engine) : (setEngine s k v).aborts = s.aborts := rfl
@[simp] theorem setEngine_intake (s : State) (k : Nat) (v : Engine) : (setEngine s k v).intake = s.intake := rfl
@[simp] theorem setEngine_hqNext (s : State) (k : Nat) (v : Engine) : (setEngine s k v).hqNext = s.hqNext := rfl
@[simp] theorem setEngine_maps (s : State) (k : Nat) (v : Engine) : (setEngine s k v).maps = s.maps := rfl
@[simp] theorem setEngine_spaces (s : State) (k : Nat) (v : Engine) : (setEngine s k v).spaces = s.spaces := rfl
@[simp] theorem setEngine_saves (s : State) (k : Nat) (v : Engine) : (setEngine s k v).saves = s.saves := rfl
@[simp] theorem setEngine_halts (s : State) (k : Nat) (v : Engine) : (setEngine s k v).halts = s.halts := rfl
@[simp] theorem setEngine_steps (s : State) (k : Nat) (v : Engine) : (setEngine s k v).steps = s.steps := rfl
@[simp] theorem setEngine_debugOut (s : State) (k : Nat) (v : Engine) : (setEngine s k v).debugOut = s.debugOut := rfl
@[simp] theorem setEngine_pairs (s : State) (k : Nat) (v : Engine) : (setEngine s k v).pairs = s.pairs := rfl
@[simp] theorem setEngine_packets (s : State) (k : Nat) (v : Engine) : (setEngine s k v).packets = s.packets := rfl
@[simp] theorem setEngine_forkQs (s : State) (k : Nat) (v : Engine) : (setEngine s k v).forkQs = s.forkQs := rfl
@[simp] theorem setEngine_mem (s : State) (k : Nat) (v : Engine) : (setEngine s k v).mem = s.mem := rfl
@[simp] theorem setEngine_poison (s : State) (k : Nat) (v : Engine) : (setEngine s k v).poison = s.poison := rfl
@[simp] theorem setEngine_latent (s : State) (k : Nat) (v : Engine) : (setEngine s k v).latent = s.latent := rfl
@[simp] theorem setEngine_tags (s : State) (k : Nat) (v : Engine) : (setEngine s k v).tags = s.tags := rfl
@[simp] theorem setEngine_barriers (s : State) (k : Nat) (v : Engine) : (setEngine s k v).barriers = s.barriers := rfl
@[simp] theorem setEngine_arrivals (s : State) (k : Nat) (v : Engine) : (setEngine s k v).arrivals = s.arrivals := rfl
@[simp] theorem setEngine_swath (s : State) (k : Nat) (v : Engine) : (setEngine s k v).swath = s.swath := rfl
@[simp] theorem setEngine_serial (s : State) (k : Nat) (v : Engine) : (setEngine s k v).serial = s.serial := rfl
@[simp] theorem setEngine_savedVq (s : State) (k : Nat) (v : Engine) : (setEngine s k v).savedVq = s.savedVq := rfl
@[simp] theorem setEngine_fresh (s : State) (k : Nat) (v : Engine) : (setEngine s k v).fresh = s.fresh := rfl
@[simp] theorem setEngine_cur (s : State) (k : Nat) (v : Engine) : (setEngine s k v).cur = s.cur := rfl
@[simp] theorem setEngine_agenda (s : State) (k : Nat) (v : Engine) : (setEngine s k v).agenda = s.agenda := rfl
@[simp] theorem setEngine_turns (s : State) (k : Nat) (v : Engine) : (setEngine s k v).turns = s.turns := rfl
@[simp] theorem setEngine_engTurn (s : State) (k : Nat) (v : Engine) : (setEngine s k v).engTurn = s.engTurn := rfl

/-! ## `writeMem` -/

@[simp] theorem writeMem_threads (s : State) (a n v : Nat) : (writeMem s a n v).threads = s.threads := rfl
@[simp] theorem writeMem_cores (s : State) (a n v : Nat) : (writeMem s a n v).cores = s.cores := rfl
@[simp] theorem writeMem_clusters (s : State) (a n v : Nat) : (writeMem s a n v).clusters = s.clusters := rfl
@[simp] theorem writeMem_ctxs (s : State) (a n v : Nat) : (writeMem s a n v).ctxs = s.ctxs := rfl
@[simp] theorem writeMem_engines (s : State) (a n v : Nat) : (writeMem s a n v).engines = s.engines := rfl
@[simp] theorem writeMem_nms (s : State) (a n v : Nat) : (writeMem s a n v).nms = s.nms := rfl
@[simp] theorem writeMem_llc (s : State) (a n v : Nat) : (writeMem s a n v).llc = s.llc := rfl
@[simp] theorem writeMem_dir (s : State) (a n v : Nat) : (writeMem s a n v).dir = s.dir := rfl
@[simp] theorem writeMem_linksDown (s : State) (a n v : Nat) : (writeMem s a n v).linksDown = s.linksDown := rfl
@[simp] theorem writeMem_retries (s : State) (a n v : Nat) : (writeMem s a n v).retries = s.retries := rfl
@[simp] theorem writeMem_replaying (s : State) (a n v : Nat) : (writeMem s a n v).replaying = s.replaying := rfl
@[simp] theorem writeMem_lossLog (s : State) (a n v : Nat) : (writeMem s a n v).lossLog = s.lossLog := rfl
@[simp] theorem writeMem_lossCount (s : State) (a n v : Nat) : (writeMem s a n v).lossCount = s.lossCount := rfl
@[simp] theorem writeMem_iqs (s : State) (a n v : Nat) : (writeMem s a n v).iqs = s.iqs := rfl
@[simp] theorem writeMem_iqPackets (s : State) (a n v : Nat) : (writeMem s a n v).iqPackets = s.iqPackets := rfl
@[simp] theorem writeMem_hayStalls (s : State) (a n v : Nat) : (writeMem s a n v).hayStalls = s.hayStalls := rfl
@[simp] theorem writeMem_devices (s : State) (a n v : Nat) : (writeMem s a n v).devices = s.devices := rfl
@[simp] theorem writeMem_hostReplies (s : State) (a n v : Nat) : (writeMem s a n v).hostReplies = s.hostReplies := rfl
@[simp] theorem writeMem_hostReqs (s : State) (a n v : Nat) : (writeMem s a n v).hostReqs = s.hostReqs := rfl
@[simp] theorem writeMem_hostOut (s : State) (a n v : Nat) : (writeMem s a n v).hostOut = s.hostOut := rfl
@[simp] theorem writeMem_cows (s : State) (a n v : Nat) : (writeMem s a n v).cows = s.cows := rfl
@[simp] theorem writeMem_misses (s : State) (a n v : Nat) : (writeMem s a n v).misses = s.misses := rfl
@[simp] theorem writeMem_installed (s : State) (a n v : Nat) : (writeMem s a n v).installed = s.installed := rfl
@[simp] theorem writeMem_invWaits (s : State) (a n v : Nat) : (writeMem s a n v).invWaits = s.invWaits := rfl
@[simp] theorem writeMem_snapWaits (s : State) (a n v : Nat) : (writeMem s a n v).snapWaits = s.snapWaits := rfl
@[simp] theorem writeMem_waiting (s : State) (a n v : Nat) : (writeMem s a n v).waiting = s.waiting := rfl
@[simp] theorem writeMem_domains (s : State) (a n v : Nat) : (writeMem s a n v).domains = s.domains := rfl
@[simp] theorem writeMem_checked (s : State) (a n v : Nat) : (writeMem s a n v).checked = s.checked := rfl
@[simp] theorem writeMem_policies (s : State) (a n v : Nat) : (writeMem s a n v).policies = s.policies := rfl
@[simp] theorem writeMem_aborts (s : State) (a n v : Nat) : (writeMem s a n v).aborts = s.aborts := rfl
@[simp] theorem writeMem_intake (s : State) (a n v : Nat) : (writeMem s a n v).intake = s.intake := rfl
@[simp] theorem writeMem_hqNext (s : State) (a n v : Nat) : (writeMem s a n v).hqNext = s.hqNext := rfl
@[simp] theorem writeMem_maps (s : State) (a n v : Nat) : (writeMem s a n v).maps = s.maps := rfl
@[simp] theorem writeMem_spaces (s : State) (a n v : Nat) : (writeMem s a n v).spaces = s.spaces := rfl
@[simp] theorem writeMem_saves (s : State) (a n v : Nat) : (writeMem s a n v).saves = s.saves := rfl
@[simp] theorem writeMem_halts (s : State) (a n v : Nat) : (writeMem s a n v).halts = s.halts := rfl
@[simp] theorem writeMem_steps (s : State) (a n v : Nat) : (writeMem s a n v).steps = s.steps := rfl
@[simp] theorem writeMem_debugOut (s : State) (a n v : Nat) : (writeMem s a n v).debugOut = s.debugOut := rfl
@[simp] theorem writeMem_pairs (s : State) (a n v : Nat) : (writeMem s a n v).pairs = s.pairs := rfl
@[simp] theorem writeMem_packets (s : State) (a n v : Nat) : (writeMem s a n v).packets = s.packets := rfl
@[simp] theorem writeMem_forkQs (s : State) (a n v : Nat) : (writeMem s a n v).forkQs = s.forkQs := rfl
@[simp] theorem writeMem_poison (s : State) (a n v : Nat) : (writeMem s a n v).poison = s.poison := rfl
@[simp] theorem writeMem_latent (s : State) (a n v : Nat) : (writeMem s a n v).latent = s.latent := rfl
@[simp] theorem writeMem_tags (s : State) (a n v : Nat) : (writeMem s a n v).tags = s.tags := rfl
@[simp] theorem writeMem_barriers (s : State) (a n v : Nat) : (writeMem s a n v).barriers = s.barriers := rfl
@[simp] theorem writeMem_arrivals (s : State) (a n v : Nat) : (writeMem s a n v).arrivals = s.arrivals := rfl
@[simp] theorem writeMem_swath (s : State) (a n v : Nat) : (writeMem s a n v).swath = s.swath := rfl
@[simp] theorem writeMem_serial (s : State) (a n v : Nat) : (writeMem s a n v).serial = s.serial := rfl
@[simp] theorem writeMem_savedVq (s : State) (a n v : Nat) : (writeMem s a n v).savedVq = s.savedVq := rfl
@[simp] theorem writeMem_fresh (s : State) (a n v : Nat) : (writeMem s a n v).fresh = s.fresh := rfl
@[simp] theorem writeMem_cur (s : State) (a n v : Nat) : (writeMem s a n v).cur = s.cur := rfl
@[simp] theorem writeMem_agenda (s : State) (a n v : Nat) : (writeMem s a n v).agenda = s.agenda := rfl
@[simp] theorem writeMem_turns (s : State) (a n v : Nat) : (writeMem s a n v).turns = s.turns := rfl
@[simp] theorem writeMem_engTurn (s : State) (a n v : Nat) : (writeMem s a n v).engTurn = s.engTurn := rfl

/-! ## `clearPoison` -/

@[simp] theorem clearPoison_threads (s : State) (a n : Nat) : (clearPoison s a n).threads = s.threads := rfl
@[simp] theorem clearPoison_cores (s : State) (a n : Nat) : (clearPoison s a n).cores = s.cores := rfl
@[simp] theorem clearPoison_clusters (s : State) (a n : Nat) : (clearPoison s a n).clusters = s.clusters := rfl
@[simp] theorem clearPoison_ctxs (s : State) (a n : Nat) : (clearPoison s a n).ctxs = s.ctxs := rfl
@[simp] theorem clearPoison_engines (s : State) (a n : Nat) : (clearPoison s a n).engines = s.engines := rfl
@[simp] theorem clearPoison_nms (s : State) (a n : Nat) : (clearPoison s a n).nms = s.nms := rfl
@[simp] theorem clearPoison_llc (s : State) (a n : Nat) : (clearPoison s a n).llc = s.llc := rfl
@[simp] theorem clearPoison_dir (s : State) (a n : Nat) : (clearPoison s a n).dir = s.dir := rfl
@[simp] theorem clearPoison_linksDown (s : State) (a n : Nat) : (clearPoison s a n).linksDown = s.linksDown := rfl
@[simp] theorem clearPoison_retries (s : State) (a n : Nat) : (clearPoison s a n).retries = s.retries := rfl
@[simp] theorem clearPoison_replaying (s : State) (a n : Nat) : (clearPoison s a n).replaying = s.replaying := rfl
@[simp] theorem clearPoison_lossLog (s : State) (a n : Nat) : (clearPoison s a n).lossLog = s.lossLog := rfl
@[simp] theorem clearPoison_lossCount (s : State) (a n : Nat) : (clearPoison s a n).lossCount = s.lossCount := rfl
@[simp] theorem clearPoison_iqs (s : State) (a n : Nat) : (clearPoison s a n).iqs = s.iqs := rfl
@[simp] theorem clearPoison_iqPackets (s : State) (a n : Nat) : (clearPoison s a n).iqPackets = s.iqPackets := rfl
@[simp] theorem clearPoison_hayStalls (s : State) (a n : Nat) : (clearPoison s a n).hayStalls = s.hayStalls := rfl
@[simp] theorem clearPoison_devices (s : State) (a n : Nat) : (clearPoison s a n).devices = s.devices := rfl
@[simp] theorem clearPoison_hostReplies (s : State) (a n : Nat) : (clearPoison s a n).hostReplies = s.hostReplies := rfl
@[simp] theorem clearPoison_hostReqs (s : State) (a n : Nat) : (clearPoison s a n).hostReqs = s.hostReqs := rfl
@[simp] theorem clearPoison_hostOut (s : State) (a n : Nat) : (clearPoison s a n).hostOut = s.hostOut := rfl
@[simp] theorem clearPoison_cows (s : State) (a n : Nat) : (clearPoison s a n).cows = s.cows := rfl
@[simp] theorem clearPoison_misses (s : State) (a n : Nat) : (clearPoison s a n).misses = s.misses := rfl
@[simp] theorem clearPoison_installed (s : State) (a n : Nat) : (clearPoison s a n).installed = s.installed := rfl
@[simp] theorem clearPoison_invWaits (s : State) (a n : Nat) : (clearPoison s a n).invWaits = s.invWaits := rfl
@[simp] theorem clearPoison_snapWaits (s : State) (a n : Nat) : (clearPoison s a n).snapWaits = s.snapWaits := rfl
@[simp] theorem clearPoison_waiting (s : State) (a n : Nat) : (clearPoison s a n).waiting = s.waiting := rfl
@[simp] theorem clearPoison_domains (s : State) (a n : Nat) : (clearPoison s a n).domains = s.domains := rfl
@[simp] theorem clearPoison_checked (s : State) (a n : Nat) : (clearPoison s a n).checked = s.checked := rfl
@[simp] theorem clearPoison_policies (s : State) (a n : Nat) : (clearPoison s a n).policies = s.policies := rfl
@[simp] theorem clearPoison_aborts (s : State) (a n : Nat) : (clearPoison s a n).aborts = s.aborts := rfl
@[simp] theorem clearPoison_intake (s : State) (a n : Nat) : (clearPoison s a n).intake = s.intake := rfl
@[simp] theorem clearPoison_hqNext (s : State) (a n : Nat) : (clearPoison s a n).hqNext = s.hqNext := rfl
@[simp] theorem clearPoison_maps (s : State) (a n : Nat) : (clearPoison s a n).maps = s.maps := rfl
@[simp] theorem clearPoison_spaces (s : State) (a n : Nat) : (clearPoison s a n).spaces = s.spaces := rfl
@[simp] theorem clearPoison_saves (s : State) (a n : Nat) : (clearPoison s a n).saves = s.saves := rfl
@[simp] theorem clearPoison_halts (s : State) (a n : Nat) : (clearPoison s a n).halts = s.halts := rfl
@[simp] theorem clearPoison_steps (s : State) (a n : Nat) : (clearPoison s a n).steps = s.steps := rfl
@[simp] theorem clearPoison_debugOut (s : State) (a n : Nat) : (clearPoison s a n).debugOut = s.debugOut := rfl
@[simp] theorem clearPoison_pairs (s : State) (a n : Nat) : (clearPoison s a n).pairs = s.pairs := rfl
@[simp] theorem clearPoison_packets (s : State) (a n : Nat) : (clearPoison s a n).packets = s.packets := rfl
@[simp] theorem clearPoison_forkQs (s : State) (a n : Nat) : (clearPoison s a n).forkQs = s.forkQs := rfl
@[simp] theorem clearPoison_mem (s : State) (a n : Nat) : (clearPoison s a n).mem = s.mem := rfl
@[simp] theorem clearPoison_tags (s : State) (a n : Nat) : (clearPoison s a n).tags = s.tags := rfl
@[simp] theorem clearPoison_barriers (s : State) (a n : Nat) : (clearPoison s a n).barriers = s.barriers := rfl
@[simp] theorem clearPoison_arrivals (s : State) (a n : Nat) : (clearPoison s a n).arrivals = s.arrivals := rfl
@[simp] theorem clearPoison_swath (s : State) (a n : Nat) : (clearPoison s a n).swath = s.swath := rfl
@[simp] theorem clearPoison_serial (s : State) (a n : Nat) : (clearPoison s a n).serial = s.serial := rfl
@[simp] theorem clearPoison_savedVq (s : State) (a n : Nat) : (clearPoison s a n).savedVq = s.savedVq := rfl
@[simp] theorem clearPoison_fresh (s : State) (a n : Nat) : (clearPoison s a n).fresh = s.fresh := rfl
@[simp] theorem clearPoison_cur (s : State) (a n : Nat) : (clearPoison s a n).cur = s.cur := rfl
@[simp] theorem clearPoison_agenda (s : State) (a n : Nat) : (clearPoison s a n).agenda = s.agenda := rfl
@[simp] theorem clearPoison_turns (s : State) (a n : Nat) : (clearPoison s a n).turns = s.turns := rfl
@[simp] theorem clearPoison_engTurn (s : State) (a n : Nat) : (clearPoison s a n).engTurn = s.engTurn := rfl

/-! ## `storeMem` -/

@[simp] theorem storeMem_threads (s : State) (a n v : Nat) : (storeMem s a n v).threads = s.threads := rfl
@[simp] theorem storeMem_cores (s : State) (a n v : Nat) : (storeMem s a n v).cores = s.cores := rfl
@[simp] theorem storeMem_clusters (s : State) (a n v : Nat) : (storeMem s a n v).clusters = s.clusters := rfl
@[simp] theorem storeMem_ctxs (s : State) (a n v : Nat) : (storeMem s a n v).ctxs = s.ctxs := rfl
@[simp] theorem storeMem_engines (s : State) (a n v : Nat) : (storeMem s a n v).engines = s.engines := rfl
@[simp] theorem storeMem_nms (s : State) (a n v : Nat) : (storeMem s a n v).nms = s.nms := rfl
@[simp] theorem storeMem_llc (s : State) (a n v : Nat) : (storeMem s a n v).llc = s.llc := rfl
@[simp] theorem storeMem_dir (s : State) (a n v : Nat) : (storeMem s a n v).dir = s.dir := rfl
@[simp] theorem storeMem_linksDown (s : State) (a n v : Nat) : (storeMem s a n v).linksDown = s.linksDown := rfl
@[simp] theorem storeMem_retries (s : State) (a n v : Nat) : (storeMem s a n v).retries = s.retries := rfl
@[simp] theorem storeMem_replaying (s : State) (a n v : Nat) : (storeMem s a n v).replaying = s.replaying := rfl
@[simp] theorem storeMem_lossLog (s : State) (a n v : Nat) : (storeMem s a n v).lossLog = s.lossLog := rfl
@[simp] theorem storeMem_lossCount (s : State) (a n v : Nat) : (storeMem s a n v).lossCount = s.lossCount := rfl
@[simp] theorem storeMem_iqs (s : State) (a n v : Nat) : (storeMem s a n v).iqs = s.iqs := rfl
@[simp] theorem storeMem_iqPackets (s : State) (a n v : Nat) : (storeMem s a n v).iqPackets = s.iqPackets := rfl
@[simp] theorem storeMem_hayStalls (s : State) (a n v : Nat) : (storeMem s a n v).hayStalls = s.hayStalls := rfl
@[simp] theorem storeMem_devices (s : State) (a n v : Nat) : (storeMem s a n v).devices = s.devices := rfl
@[simp] theorem storeMem_hostReplies (s : State) (a n v : Nat) : (storeMem s a n v).hostReplies = s.hostReplies := rfl
@[simp] theorem storeMem_hostReqs (s : State) (a n v : Nat) : (storeMem s a n v).hostReqs = s.hostReqs := rfl
@[simp] theorem storeMem_hostOut (s : State) (a n v : Nat) : (storeMem s a n v).hostOut = s.hostOut := rfl
@[simp] theorem storeMem_cows (s : State) (a n v : Nat) : (storeMem s a n v).cows = s.cows := rfl
@[simp] theorem storeMem_misses (s : State) (a n v : Nat) : (storeMem s a n v).misses = s.misses := rfl
@[simp] theorem storeMem_installed (s : State) (a n v : Nat) : (storeMem s a n v).installed = s.installed := rfl
@[simp] theorem storeMem_invWaits (s : State) (a n v : Nat) : (storeMem s a n v).invWaits = s.invWaits := rfl
@[simp] theorem storeMem_snapWaits (s : State) (a n v : Nat) : (storeMem s a n v).snapWaits = s.snapWaits := rfl
@[simp] theorem storeMem_waiting (s : State) (a n v : Nat) : (storeMem s a n v).waiting = s.waiting := rfl
@[simp] theorem storeMem_domains (s : State) (a n v : Nat) : (storeMem s a n v).domains = s.domains := rfl
@[simp] theorem storeMem_checked (s : State) (a n v : Nat) : (storeMem s a n v).checked = s.checked := rfl
@[simp] theorem storeMem_policies (s : State) (a n v : Nat) : (storeMem s a n v).policies = s.policies := rfl
@[simp] theorem storeMem_aborts (s : State) (a n v : Nat) : (storeMem s a n v).aborts = s.aborts := rfl
@[simp] theorem storeMem_intake (s : State) (a n v : Nat) : (storeMem s a n v).intake = s.intake := rfl
@[simp] theorem storeMem_hqNext (s : State) (a n v : Nat) : (storeMem s a n v).hqNext = s.hqNext := rfl
@[simp] theorem storeMem_maps (s : State) (a n v : Nat) : (storeMem s a n v).maps = s.maps := rfl
@[simp] theorem storeMem_spaces (s : State) (a n v : Nat) : (storeMem s a n v).spaces = s.spaces := rfl
@[simp] theorem storeMem_saves (s : State) (a n v : Nat) : (storeMem s a n v).saves = s.saves := rfl
@[simp] theorem storeMem_halts (s : State) (a n v : Nat) : (storeMem s a n v).halts = s.halts := rfl
@[simp] theorem storeMem_steps (s : State) (a n v : Nat) : (storeMem s a n v).steps = s.steps := rfl
@[simp] theorem storeMem_debugOut (s : State) (a n v : Nat) : (storeMem s a n v).debugOut = s.debugOut := rfl
@[simp] theorem storeMem_pairs (s : State) (a n v : Nat) : (storeMem s a n v).pairs = s.pairs := rfl
@[simp] theorem storeMem_packets (s : State) (a n v : Nat) : (storeMem s a n v).packets = s.packets := rfl
@[simp] theorem storeMem_forkQs (s : State) (a n v : Nat) : (storeMem s a n v).forkQs = s.forkQs := rfl
@[simp] theorem storeMem_tags (s : State) (a n v : Nat) : (storeMem s a n v).tags = s.tags := rfl
@[simp] theorem storeMem_barriers (s : State) (a n v : Nat) : (storeMem s a n v).barriers = s.barriers := rfl
@[simp] theorem storeMem_arrivals (s : State) (a n v : Nat) : (storeMem s a n v).arrivals = s.arrivals := rfl
@[simp] theorem storeMem_swath (s : State) (a n v : Nat) : (storeMem s a n v).swath = s.swath := rfl
@[simp] theorem storeMem_serial (s : State) (a n v : Nat) : (storeMem s a n v).serial = s.serial := rfl
@[simp] theorem storeMem_savedVq (s : State) (a n v : Nat) : (storeMem s a n v).savedVq = s.savedVq := rfl
@[simp] theorem storeMem_fresh (s : State) (a n v : Nat) : (storeMem s a n v).fresh = s.fresh := rfl
@[simp] theorem storeMem_cur (s : State) (a n v : Nat) : (storeMem s a n v).cur = s.cur := rfl
@[simp] theorem storeMem_agenda (s : State) (a n v : Nat) : (storeMem s a n v).agenda = s.agenda := rfl
@[simp] theorem storeMem_turns (s : State) (a n v : Nat) : (storeMem s a n v).turns = s.turns := rfl
@[simp] theorem storeMem_engTurn (s : State) (a n v : Nat) : (storeMem s a n v).engTurn = s.engTurn := rfl

/-! ## Reads of units after writes -/

@[simp] theorem thr_setThr_self (s : State) (k : Nat) (v : Thread) : thr (setThr s k v) k = v := tabGet_set_self _ _ _ _
theorem thr_setThr_ne (s : State) {k j : Nat} (v : Thread) (h : j ≠ k) : thr (setThr s k v) j = thr s j := tabGet_set_ne _ _ _ h
theorem thr_setThr (s : State) (k j : Nat) (v : Thread) : thr (setThr s k v) j = if j = k then v else thr s j := tabGet_set _ _ _ _ _
@[simp] theorem thr_setCore (s : State) (k j : Nat) (v : Core) : thr (setCore s k v) j = thr s j := rfl
@[simp] theorem thr_setCluster (s : State) (k j : Nat) (v : Cluster) : thr (setCluster s k v) j = thr s j := rfl
@[simp] theorem thr_setCtx (s : State) (k j : Nat) (v : Ctx) : thr (setCtx s k v) j = thr s j := rfl
@[simp] theorem thr_setEngine (s : State) (k j : Nat) (v : Engine) : thr (setEngine s k v) j = thr s j := rfl
@[simp] theorem thr_writeMem (s : State) (a n v : Nat) (j : Nat) : thr (writeMem s a n v) j = thr s j := rfl
@[simp] theorem thr_clearPoison (s : State) (a n : Nat) (j : Nat) : thr (clearPoison s a n) j = thr s j := rfl
@[simp] theorem thr_storeMem (s : State) (a n v : Nat) (j : Nat) : thr (storeMem s a n v) j = thr s j := rfl

@[simp] theorem core_setCore_self (s : State) (k : Nat) (v : Core) : core (setCore s k v) k = v := tabGet_set_self _ _ _ _
theorem core_setCore_ne (s : State) {k j : Nat} (v : Core) (h : j ≠ k) : core (setCore s k v) j = core s j := tabGet_set_ne _ _ _ h
theorem core_setCore (s : State) (k j : Nat) (v : Core) : core (setCore s k v) j = if j = k then v else core s j := tabGet_set _ _ _ _ _
@[simp] theorem core_setThr (s : State) (k j : Nat) (v : Thread) : core (setThr s k v) j = core s j := rfl
@[simp] theorem core_setCluster (s : State) (k j : Nat) (v : Cluster) : core (setCluster s k v) j = core s j := rfl
@[simp] theorem core_setCtx (s : State) (k j : Nat) (v : Ctx) : core (setCtx s k v) j = core s j := rfl
@[simp] theorem core_setEngine (s : State) (k j : Nat) (v : Engine) : core (setEngine s k v) j = core s j := rfl
@[simp] theorem core_writeMem (s : State) (a n v : Nat) (j : Nat) : core (writeMem s a n v) j = core s j := rfl
@[simp] theorem core_clearPoison (s : State) (a n : Nat) (j : Nat) : core (clearPoison s a n) j = core s j := rfl
@[simp] theorem core_storeMem (s : State) (a n v : Nat) (j : Nat) : core (storeMem s a n v) j = core s j := rfl

@[simp] theorem cluster_setCluster_self (s : State) (k : Nat) (v : Cluster) : cluster (setCluster s k v) k = v := tabGet_set_self _ _ _ _
theorem cluster_setCluster_ne (s : State) {k j : Nat} (v : Cluster) (h : j ≠ k) : cluster (setCluster s k v) j = cluster s j := tabGet_set_ne _ _ _ h
theorem cluster_setCluster (s : State) (k j : Nat) (v : Cluster) : cluster (setCluster s k v) j = if j = k then v else cluster s j := tabGet_set _ _ _ _ _
@[simp] theorem cluster_setThr (s : State) (k j : Nat) (v : Thread) : cluster (setThr s k v) j = cluster s j := rfl
@[simp] theorem cluster_setCore (s : State) (k j : Nat) (v : Core) : cluster (setCore s k v) j = cluster s j := rfl
@[simp] theorem cluster_setCtx (s : State) (k j : Nat) (v : Ctx) : cluster (setCtx s k v) j = cluster s j := rfl
@[simp] theorem cluster_setEngine (s : State) (k j : Nat) (v : Engine) : cluster (setEngine s k v) j = cluster s j := rfl
@[simp] theorem cluster_writeMem (s : State) (a n v : Nat) (j : Nat) : cluster (writeMem s a n v) j = cluster s j := rfl
@[simp] theorem cluster_clearPoison (s : State) (a n : Nat) (j : Nat) : cluster (clearPoison s a n) j = cluster s j := rfl
@[simp] theorem cluster_storeMem (s : State) (a n v : Nat) (j : Nat) : cluster (storeMem s a n v) j = cluster s j := rfl

@[simp] theorem ctx_setCtx_self (s : State) (k : Nat) (v : Ctx) : ctx (setCtx s k v) k = v := tabGet_set_self _ _ _ _
theorem ctx_setCtx_ne (s : State) {k j : Nat} (v : Ctx) (h : j ≠ k) : ctx (setCtx s k v) j = ctx s j := tabGet_set_ne _ _ _ h
theorem ctx_setCtx (s : State) (k j : Nat) (v : Ctx) : ctx (setCtx s k v) j = if j = k then v else ctx s j := tabGet_set _ _ _ _ _
@[simp] theorem ctx_setThr (s : State) (k j : Nat) (v : Thread) : ctx (setThr s k v) j = ctx s j := rfl
@[simp] theorem ctx_setCore (s : State) (k j : Nat) (v : Core) : ctx (setCore s k v) j = ctx s j := rfl
@[simp] theorem ctx_setCluster (s : State) (k j : Nat) (v : Cluster) : ctx (setCluster s k v) j = ctx s j := rfl
@[simp] theorem ctx_setEngine (s : State) (k j : Nat) (v : Engine) : ctx (setEngine s k v) j = ctx s j := rfl
@[simp] theorem ctx_writeMem (s : State) (a n v : Nat) (j : Nat) : ctx (writeMem s a n v) j = ctx s j := rfl
@[simp] theorem ctx_clearPoison (s : State) (a n : Nat) (j : Nat) : ctx (clearPoison s a n) j = ctx s j := rfl
@[simp] theorem ctx_storeMem (s : State) (a n v : Nat) (j : Nat) : ctx (storeMem s a n v) j = ctx s j := rfl

@[simp] theorem engine_setEngine_self (s : State) (k : Nat) (v : Engine) : engine (setEngine s k v) k = v := tabGet_set_self _ _ _ _
theorem engine_setEngine_ne (s : State) {k j : Nat} (v : Engine) (h : j ≠ k) : engine (setEngine s k v) j = engine s j := tabGet_set_ne _ _ _ h
theorem engine_setEngine (s : State) (k j : Nat) (v : Engine) : engine (setEngine s k v) j = if j = k then v else engine s j := tabGet_set _ _ _ _ _
@[simp] theorem engine_setThr (s : State) (k j : Nat) (v : Thread) : engine (setThr s k v) j = engine s j := rfl
@[simp] theorem engine_setCore (s : State) (k j : Nat) (v : Core) : engine (setCore s k v) j = engine s j := rfl
@[simp] theorem engine_setCluster (s : State) (k j : Nat) (v : Cluster) : engine (setCluster s k v) j = engine s j := rfl
@[simp] theorem engine_setCtx (s : State) (k j : Nat) (v : Ctx) : engine (setCtx s k v) j = engine s j := rfl
@[simp] theorem engine_writeMem (s : State) (a n v : Nat) (j : Nat) : engine (writeMem s a n v) j = engine s j := rfl
@[simp] theorem engine_clearPoison (s : State) (a n : Nat) (j : Nat) : engine (clearPoison s a n) j = engine s j := rfl
@[simp] theorem engine_storeMem (s : State) (a n v : Nat) (j : Nat) : engine (storeMem s a n v) j = engine s j := rfl

/-! ## Reads of memory after writes of units -/

@[simp] theorem readByte_setThr (s : State) (k : Nat) (v : Thread) (a : Nat) : readByte (setThr s k v) a = readByte s a := rfl
@[simp] theorem readMem_setThr (s : State) (k : Nat) (v : Thread) (a n : Nat) : readMem (setThr s k v) a n = readMem s a n := rfl
@[simp] theorem poisoned_setThr (s : State) (k : Nat) (v : Thread) (a n : Nat) : poisoned (setThr s k v) a n = poisoned s a n := rfl
@[simp] theorem readByte_setCore (s : State) (k : Nat) (v : Core) (a : Nat) : readByte (setCore s k v) a = readByte s a := rfl
@[simp] theorem readMem_setCore (s : State) (k : Nat) (v : Core) (a n : Nat) : readMem (setCore s k v) a n = readMem s a n := rfl
@[simp] theorem poisoned_setCore (s : State) (k : Nat) (v : Core) (a n : Nat) : poisoned (setCore s k v) a n = poisoned s a n := rfl
@[simp] theorem readByte_setCluster (s : State) (k : Nat) (v : Cluster) (a : Nat) : readByte (setCluster s k v) a = readByte s a := rfl
@[simp] theorem readMem_setCluster (s : State) (k : Nat) (v : Cluster) (a n : Nat) : readMem (setCluster s k v) a n = readMem s a n := rfl
@[simp] theorem poisoned_setCluster (s : State) (k : Nat) (v : Cluster) (a n : Nat) : poisoned (setCluster s k v) a n = poisoned s a n := rfl
@[simp] theorem readByte_setCtx (s : State) (k : Nat) (v : Ctx) (a : Nat) : readByte (setCtx s k v) a = readByte s a := rfl
@[simp] theorem readMem_setCtx (s : State) (k : Nat) (v : Ctx) (a n : Nat) : readMem (setCtx s k v) a n = readMem s a n := rfl
@[simp] theorem poisoned_setCtx (s : State) (k : Nat) (v : Ctx) (a n : Nat) : poisoned (setCtx s k v) a n = poisoned s a n := rfl
@[simp] theorem readByte_setEngine (s : State) (k : Nat) (v : Engine) (a : Nat) : readByte (setEngine s k v) a = readByte s a := rfl
@[simp] theorem readMem_setEngine (s : State) (k : Nat) (v : Engine) (a n : Nat) : readMem (setEngine s k v) a n = readMem s a n := rfl
@[simp] theorem poisoned_setEngine (s : State) (k : Nat) (v : Engine) (a n : Nat) : poisoned (setEngine s k v) a n = poisoned s a n := rfl

end Sys2Proof.Machine
end

