-- ==== Sys2Proof/Laws/Seq.lean ====
section
/-! SUPPORT. The laws of the sequencer in progress: its registers, its position, and what writing them leaves. -/

namespace Sys2Proof.Machine

@[simp] theorem setSeq_cur (s : State) (q : Seq) : (setSeq s q).cur = s.cur := by
  unfold setSeq putSeq; split <;> rfl

/-- The sequencer in progress reads as it was written. -/
theorem curSeq_setSeq (s : State) (q : Seq) (h : hasProgram s) : curSeq (setSeq s q) = q := by
  unfold hasProgram at h
  unfold curSeq setSeq
  cases hc : s.cur with
  | thread k => simp [putSeq, seqOf, hc]
  | ctx c =>
    rw [hc] at h
    obtain ⟨p, hp⟩ := Option.isSome_iff_exists.1 h
    simp [putSeq, seqOf, hc, hp]
  | engine n =>
    rw [hc] at h
    obtain ⟨p, hp⟩ := Option.isSome_iff_exists.1 h
    simp [putSeq, seqOf, hc, hp]

theorem hasProgram_setSeq (s : State) (q : Seq) : hasProgram (setSeq s q) ↔ hasProgram s := by
  unfold hasProgram
  rw [setSeq_cur]
  unfold setSeq
  cases hc : s.cur <;> simp [putSeq]

/-- Writing the sequencer twice. -/
theorem setSeq_regs (s : State) (q : Seq) (h : hasProgram s) : (curSeq (setSeq s q)).regs = q.regs := by rw [curSeq_setSeq s q h]

@[simp] theorem x_zero (s : State) : x s 0 = 0 := by simp [x]

theorem x_setSeq (s : State) (q : Seq) (h : hasProgram s) (r : Fin 32) : x (setSeq s q) r = if r = 0 then 0 else q.regs[r] := by
  simp [x, curSeq_setSeq s q h]

@[simp] theorem setX_cur (s : State) (d : Fin 32) (v : Word) : (setX s d v).cur = s.cur := by
  unfold setX; split <;> simp

theorem hasProgram_setX (s : State) (d : Fin 32) (v : Word) : hasProgram (setX s d v) ↔ hasProgram s := by
  unfold setX; split
  · rfl
  · exact hasProgram_setSeq _ _

/-- A register reads as it was written; a write to s0 is discarded; other registers are left alone. -/
theorem x_setX (s : State) (d : Fin 32) (v : Word) (h : hasProgram s) (r : Fin 32) :
    x (setX s d v) r = if r = d ∧ r ≠ 0 then v else x s r := by
  unfold setX
  by_cases hd : d = 0
  · subst hd
    by_cases hr : r = 0 <;> simp [hr]
  · rw [if_neg hd, x_setSeq _ _ h]
    by_cases hr : r = 0
    · simp [hr]
    · by_cases hrd : r = d
      · subst hrd; simp [hr]
      · have hne : d.val ≠ r.val := fun e => hrd (Fin.ext e.symm)
        simp [hr, hrd, x, hne]

/-- Going on changes no register. -/
theorem x_loopEnd (p : Word) (b : Bool) (s : State) (h : hasProgram s) (r : Fin 32) : x (loopEnd p b s) r = x s r := by
  unfold loopEnd
  rw [x_setSeq _ _ h]
  rfl

theorem x_finish (s : State) (h : hasProgram s) (r : Fin 32) : x (finish s) r = x s r := x_loopEnd _ _ _ h r

@[simp] theorem loopEnd_cur (p : Word) (b : Bool) (s : State) : (loopEnd p b s).cur = s.cur := by simp [loopEnd]
@[simp] theorem finish_cur (s : State) : (finish s).cur = s.cur := by simp [finish]

theorem hasProgram_loopEnd (p : Word) (b : Bool) (s : State) : hasProgram (loopEnd p b s) ↔ hasProgram s := hasProgram_setSeq _ _
theorem hasProgram_finish (s : State) : hasProgram (finish s) ↔ hasProgram s := hasProgram_setSeq _ _

/-! ## Frames -/

theorem OnlySeq.refl (s : State) : OnlySeq s s := ⟨rfl, fun _ _ => rfl, fun _ => rfl, fun _ => ⟨rfl, rfl⟩, fun _ => ⟨rfl, rfl⟩, fun _ => rfl⟩

/-- Writing the sequencer in progress changes nothing else. -/
theorem onlySeq_setSeq (s : State) (q : Seq) : OnlySeq s (setSeq s q) := by
  unfold setSeq
  cases hc : s.cur with
  | thread k =>
    refine ⟨rfl, ?_, ?_, fun _ => ⟨rfl, rfl⟩, fun _ => ⟨rfl, rfl⟩, fun _ => rfl⟩
    · intro a ha
      cases a with
      | thread j =>
        have : j ≠ k := fun e => ha (by rw [e, hc])
        simp [seqOf, putSeq, thr_setThr_ne _ _ this]
      | ctx c => rfl
      | engine n => rfl
    · intro j
      by_cases hj : j = k
      · subst hj; simp [putSeq]
      · simp [putSeq, thr_setThr_ne _ _ hj]
  | ctx c =>
    refine ⟨rfl, ?_, fun _ => rfl, ?_, fun _ => ⟨rfl, rfl⟩, fun _ => rfl⟩
    · intro a ha
      cases a with
      | thread j => rfl
      | ctx j =>
        have : j ≠ c := fun e => ha (by rw [e, hc])
        simp [seqOf, putSeq, ctx_setCtx_ne _ _ this]
      | engine n => rfl
    · intro j
      by_cases hj : j = c
      · subst hj
        refine ⟨by simp [putSeq], ?_⟩
        cases hp : (ctx s j).prog <;> simp [putSeq, progLike, hp]
      · simp [putSeq, ctx_setCtx_ne _ _ hj, progLike]
  | engine n =>
    refine ⟨rfl, ?_, fun _ => rfl, fun _ => ⟨rfl, rfl⟩, ?_, fun _ => rfl⟩
    · intro a ha
      cases a with
      | thread j => rfl
      | ctx c => rfl
      | engine j =>
        have : j ≠ n := fun e => ha (by rw [e, hc])
        simp [seqOf, putSeq, engine_setEngine_ne _ _ this]
    · intro j
      by_cases hj : j = n
      · subst hj
        refine ⟨by simp [putSeq], ?_⟩
        cases hp : (engine s j).prog <;> simp [putSeq, progLike, hp]
      · simp [putSeq, engine_setEngine_ne _ _ hj, progLike]

/-- Frames compose, when the agent in progress stays. -/
theorem OnlySeq.trans {s t u : State} (h : OnlySeq s t) (h' : OnlySeq t u) (hc : t.cur = s.cur) : OnlySeq s u := by
  refine ⟨?_, ?_, ?_, ?_, ?_, ?_⟩
  · have h1 := h.rest; have h2 := h'.rest
    rw [← h1]
    cases s; cases t; cases u; simp_all
  · intro a ha; rw [h'.others a (by rwa [hc]), h.others a ha]
  · intro k
    have h1 := h.threads k; have h2 := h'.threads k
    revert h1 h2
    cases thr s k; cases thr t k; cases thr u k
    intro h1 h2; simp_all
  · intro c
    obtain ⟨h1, h3⟩ := h.ctxs c; obtain ⟨h2, h4⟩ := h'.ctxs c
    refine ⟨?_, ?_⟩
    · revert h1 h2
      cases ctx s c; cases ctx t c; cases ctx u c
      intro h1 h2; simp_all
    · unfold progLike at *; rw [h4, h3]
  · intro n
    obtain ⟨h1, h3⟩ := h.engines n; obtain ⟨h2, h4⟩ := h'.engines n
    refine ⟨?_, ?_⟩
    · revert h1 h2
      cases engine s n; cases engine t n; cases engine u n
      intro h1 h2; simp_all
    · unfold progLike at *; rw [h4, h3]
  · intro a; rw [h'.memory a, h.memory a]

theorem onlySeq_setX (s : State) (d : Fin 32) (v : Word) : OnlySeq s (setX s d v) := by
  unfold setX; split
  · exact OnlySeq.refl s
  · exact onlySeq_setSeq _ _

theorem onlySeq_finish (s : State) : OnlySeq s (finish s) := onlySeq_setSeq _ _

/-- R133, R156: writing a register and going on. -/
theorem onlySeq_finish_setX (s : State) (d : Fin 32) (v : Word) : OnlySeq s (finish (setX s d v)) :=
  (onlySeq_setX s d v).trans (onlySeq_finish _) (setX_cur s d v)

theorem curSeq_setX (s : State) (d : Fin 32) (v : Word) (h : hasProgram s) :
    curSeq (setX s d v) = { curSeq s with regs := (curSeq (setX s d v)).regs } := by
  unfold setX; split
  · rfl
  · rw [curSeq_setSeq _ _ h]

/-- Writing the sequencer in progress changes no replacement map. -/
theorem curMap_setSeq (s : State) (q : Seq) : curMap (setSeq s q) = curMap s := by
  unfold curMap setSeq
  cases hc : s.cur with
  | thread k => simp [putSeq, hc, setThr_maps]
  | ctx c => simp [putSeq, hc]
  | engine n => simp [putSeq, hc]

theorem curMap_setX (s : State) (d : Fin 32) (v : Word) : curMap (setX s d v) = curMap s := by
  unfold setX; split
  · rfl
  · exact curMap_setSeq _ _

/-- R133: a register write does not change where the sequencer goes. -/
theorem wentOn_finish_setX (s : State) (d : Fin 32) (v : Word) (h : hasProgram s) : wentOn s (finish (setX s d v)) := by
  have h1 := curSeq_setX s d v h
  have h' : hasProgram (setX s d v) := (hasProgram_setX s d v).2 h
  unfold wentOn finish loopEnd pcOf
  rw [curSeq_setSeq _ _ h', curSeq_setSeq _ _ h, curMap_setX]
  rw [h1]
  exact ⟨rfl, rfl, rfl⟩

theorem wrote_finish_setX (s : State) (d : Fin 32) (v : Word) (h : hasProgram s) : wrote d v s (finish (setX s d v)) := by
  intro r
  rw [x_finish _ ((hasProgram_setX s d v).2 h), x_setX s d v h]

end Sys2Proof.Machine
end

