-- ==== Sys2Proof/Laws/Exception.lean ====
section
/-! SUPPORT. What the shared operations that complete an instruction or take an exception do, once for each. -/

namespace Sys2Proof.Machine

@[simp] theorem dropRequests_thr (k j : Nat) (s : State) : thr (dropRequests k s) j = thr s j := rfl

/-- A write of a thread slot changes that slot and nothing else. -/
theorem onlyThread_setThr (s : State) (k : Nat) (v : Thread) : OnlyThread k s (setThr s k v) :=
  ⟨rfl, fun _ h => thr_setThr_ne s v h, fun _ => rfl⟩

theorem onlyTrapped_setThr (s : State) (k : Nat) (v : Thread) : onlyTrapped k s (setThr (dropRequests k s) k v) :=
  ⟨rfl, fun _ h => thr_setThr_ne _ v h, fun _ => rfl⟩

/-- R156, R133: an instruction that writes one register and goes on. -/
theorem writeOn_spec (s : State) (d : Fin 32) (v : Word) (h : hasProgram s) :
    ∃ t, writeOn d v s = .next t ∧ wrote d v s t ∧ wentOn s t ∧ OnlySeq s t :=
  ⟨_, rfl, wrote_finish_setX s d v h, wentOn_finish_setX s d v h, onlySeq_finish_setX s d v⟩

/-- R142..R144: a thread outside its handler that has one enters it, and nothing but that thread changes. -/
theorem trapTo_spec (k : Nat) (cause : BitVec 8) (val : Word) (ecls : Nat) (s : State) (hm : (thr s k).hm = false)
    (hv : (thr s k).tvec ≠ 0) (he : ecls < 16) :
    onlyTrapped k s (trapTo k cause val ecls s)
      ∧ thr (trapTo k cause val ecls s) k = handlerOf (thr s k) (thr s k).seq.pc cause ecls val := by
  have : trapTo k cause val ecls s = setThr (dropRequests k s) k (handlerOf (thr s k) (thr s k).seq.pc cause ecls val) := by
    rw [trapTo, if_neg (by rw [hm]; rintro (h | h); exacts [Bool.noConfusion h, hv h])]
    simp only [handlerOf, handlerMask, Nat.mod_eq_of_lt he, word]
    have e : (cause.toNat : Int) + (ecls : Int) * 256 = ((cause.toNat + ecls * 256 : Nat) : Int) := by push_cast; rfl
    rw [e, BitVec.ofInt_natCast]
  rw [this]
  exact ⟨onlyTrapped_setThr _ _ _, thr_setThr_self _ _ _⟩

/-- R142: a cause raised by the instruction in progress of a thread with nothing in its vector queue. -/
theorem raise_spec (k : Nat) (cause : BitVec 8) (val : Word) (s : State) (hc : s.cur = .thread k) (hq : (thr s k).vq = []) :
    raise cause val s = .next (scalarFault k cause val 0 s) := by
  simp [raise, hc, hq]

end Sys2Proof.Machine
end

