-- ==== Sys2Proof/Tests/Slice0.lean ====
section
/-! SUPPORT. Tests of the model: words of the encoding tables, ill-formed instructions, single steps on small states, and for each
statement that has hypotheses a state and operands that meet them. Expected results come from the rules named. -/

set_option Elab.async false
set_option maxRecDepth 20000

namespace Sys2Proof.Tests

open Sys2Proof Sys2Proof.Machine

/-! ## Small states -/

/-- A translation of a page of `4096 * 4 ^ size` bytes in address space 0. -/
def page (va pa size flags : Nat) : TlbEntry := ⟨0, va, BitVec.ofNat 64 (size * 2 ^ 52 + pa + flags)⟩

/-- The pages of the tests: HBM of device 0 as it is, checked, read-only, copied on write, poisoned; HBM of device 1 with counted
writes; the host aperture; scratchpads, common memory and windows; an address on no page. -/
def pages : List TlbEntry :=
  [page 0 0 13 0x1F, page 0x4000000000 0 13 0x5F, page 0x8000000000 0 13 0x17, page 0xC000000000 0 13 0x11F, page 0x10000000000 0 13 0x41F,
   page 0x14000000000 0x100000000000 13 0x9F, page 0x18000000000 0x80000000000 13 0x1F, page 0xF0000000000 0xF0000000000 14 0x1F]

/-- A running thread at address 0x10000 with a handler: s1 as given, s2 at a barrier object's place in a scratchpad, s3 holds 5. -/
def plain (s1 : Word) : Thread :=
  { Thread.init with
    st := .running, tvec := 0x8000
    seq := { Seq.init with pc := 0x10000, regs := (((Vector.replicate 32 0).set 1 s1).set 2 0xF0000000000).set 3 5 } }

/-- The thread in slot 0 of core 0, and nothing else. -/
def one (t : Thread) : State :=
  { State.reset with threads := [(0, t)], cores := [(0, { Core.init with tlb := pages })], cur := .thread 0 }

/-- The plain state of the tests, and the same with another value in s1. -/
def base : State := one (plain 0x20000)
def at1 (v : Word) : State := one (plain v)

/-! ## Encodings -/

/-- The decoder reads the instruction from the word. -/
abbrev reads (w : Nat) (i : Instr) : Prop := (match decodeWord w with | .ok j => decide (j = i) | .error _ => false) = true

theorem decodes_major_01 :
    reads (0x04000000 + 9 * 2 ^ 20 + 13 * 2 ^ 14 + 21 * 2 ^ 8) (.add 9 13 21)
      ∧ reads (0x04000001 + 9 * 2 ^ 20 + 13 * 2 ^ 14 + 21 * 2 ^ 8) (.sub 9 13 21)
      ∧ reads (0x04000002 + 9 * 2 ^ 20 + 13 * 2 ^ 14 + 21 * 2 ^ 8) (.and 9 13 21)
      ∧ reads (0x04000003 + 9 * 2 ^ 20 + 13 * 2 ^ 14 + 21 * 2 ^ 8) (.or 9 13 21)
      ∧ reads (0x04000004 + 9 * 2 ^ 20 + 13 * 2 ^ 14 + 21 * 2 ^ 8) (.xor 9 13 21)
      ∧ reads (0x04000005 + 9 * 2 ^ 20 + 13 * 2 ^ 14 + 21 * 2 ^ 8) (.andn 9 13 21)
      ∧ reads (0x04000006 + 9 * 2 ^ 20 + 13 * 2 ^ 14 + 21 * 2 ^ 8) (.sll 9 13 21)
      ∧ reads (0x04000007 + 9 * 2 ^ 20 + 13 * 2 ^ 14 + 21 * 2 ^ 8) (.srl 9 13 21)
      ∧ reads (0x04000008 + 9 * 2 ^ 20 + 13 * 2 ^ 14 + 21 * 2 ^ 8) (.sra 9 13 21)
      ∧ reads (0x04000009 + 9 * 2 ^ 20 + 13 * 2 ^ 14 + 21 * 2 ^ 8) (.ror 9 13 21)
      ∧ reads (0x0400000A + 9 * 2 ^ 20 + 13 * 2 ^ 14 + 21 * 2 ^ 8) (.sltI64 9 13 21)
      ∧ reads (0x0400000B + 9 * 2 ^ 20 + 13 * 2 ^ 14 + 21 * 2 ^ 8) (.sltN64 9 13 21)
      ∧ reads (0x0400000C + 9 * 2 ^ 20 + 13 * 2 ^ 14 + 21 * 2 ^ 8) (.minI64 9 13 21)
      ∧ reads (0x0400000D + 9 * 2 ^ 20 + 13 * 2 ^ 14 + 21 * 2 ^ 8) (.minN64 9 13 21)
      ∧ reads (0x0400000E + 9 * 2 ^ 20 + 13 * 2 ^ 14 + 21 * 2 ^ 8) (.maxI64 9 13 21)
      ∧ reads (0x0400000F + 9 * 2 ^ 20 + 13 * 2 ^ 14 + 21 * 2 ^ 8) (.maxN64 9 13 21)
      ∧ reads (0x04000010 + 9 * 2 ^ 20 + 13 * 2 ^ 14) (.clz 9 13)
      ∧ reads (0x04000011 + 9 * 2 ^ 20 + 13 * 2 ^ 14) (.ctz 9 13)
      ∧ reads (0x04000012 + 9 * 2 ^ 20 + 13 * 2 ^ 14) (.popc 9 13)
      ∧ reads (0x04000018 + 9 * 2 ^ 20 + 13 * 2 ^ 14) (.jalr 9 13)
      ∧ reads (0x04000020 + 9 * 2 ^ 20 + 1 * 2 ^ 14) (.lidx 9 1)
      ∧ reads (0x04000021 + 3 * 2 ^ 14) (.lbrk 3) := by
  decide +kernel

theorem decodes_major_02 :
    reads (0x08000000 + 9 * 2 ^ 20 + 13 * 2 ^ 14 + 8197) (.addi 9 13 0x2005#14) := by
  decide +kernel

theorem decodes_major_03 :
    reads (0x0C000000 + 9 * 2 ^ 20 + 13 * 2 ^ 14 + 1029) (.andi 9 13 0x405#11)
      ∧ reads (0x0C000800 + 9 * 2 ^ 20 + 13 * 2 ^ 14 + 1029) (.ori 9 13 0x405#11)
      ∧ reads (0x0C001000 + 9 * 2 ^ 20 + 13 * 2 ^ 14 + 1029) (.xori 9 13 0x405#11)
      ∧ reads (0x0C001800 + 9 * 2 ^ 20 + 13 * 2 ^ 14 + 1029) (.sltiI64 9 13 0x405#11)
      ∧ reads (0x0C002000 + 9 * 2 ^ 20 + 13 * 2 ^ 14 + 1029) (.sltiN64 9 13 0x405#11)
      ∧ reads (0x0C002800 + 9 * 2 ^ 20 + 13 * 2 ^ 14 + 21) (.slli 9 13 21)
      ∧ reads (0x0C003000 + 9 * 2 ^ 20 + 13 * 2 ^ 14 + 21) (.srli 9 13 21)
      ∧ reads (0x0C003800 + 9 * 2 ^ 20 + 13 * 2 ^ 14 + 21) (.srai 9 13 21) := by
  decide +kernel

theorem decodes_major_04 :
    reads (0x10000000 + 9 * 2 ^ 20 + 524293) (.lui 9 0x80005#20) := by
  decide +kernel

theorem decodes_major_05 :
    reads (0x14000000 + 9 * 2 ^ 20 + 524293) (.apc 9 0x80005#20) := by
  decide +kernel

theorem decodes_major_06 :
    reads (0x18000000 + 9 * 2 ^ 20 + 13 * 2 ^ 14 + 21 * 2 ^ 8) (.mul 9 13 21)
      ∧ reads (0x18000001 + 9 * 2 ^ 20 + 13 * 2 ^ 14 + 21 * 2 ^ 8) (.mulhI64 9 13 21)
      ∧ reads (0x18000002 + 9 * 2 ^ 20 + 13 * 2 ^ 14 + 21 * 2 ^ 8) (.mulhN64 9 13 21)
      ∧ reads (0x18000003 + 9 * 2 ^ 20 + 13 * 2 ^ 14 + 21 * 2 ^ 8) (.divI64 9 13 21)
      ∧ reads (0x18000004 + 9 * 2 ^ 20 + 13 * 2 ^ 14 + 21 * 2 ^ 8) (.divN64 9 13 21)
      ∧ reads (0x18000005 + 9 * 2 ^ 20 + 13 * 2 ^ 14 + 21 * 2 ^ 8) (.remI64 9 13 21)
      ∧ reads (0x18000006 + 9 * 2 ^ 20 + 13 * 2 ^ 14 + 21 * 2 ^ 8) (.remN64 9 13 21)
      ∧ reads (0x18000007 + 9 * 2 ^ 20 + 13 * 2 ^ 14 + 21 * 2 ^ 8) (.mulI32 9 13 21) := by
  decide +kernel

theorem decodes_major_07 :
    reads (0x1C000000 + 9 * 2 ^ 20 + 13 * 2 ^ 14 + 21 * 2 ^ 8) (.bfxN64 9 13 21)
      ∧ reads (0x1C000001 + 9 * 2 ^ 20 + 13 * 2 ^ 14 + 21 * 2 ^ 8) (.bfxI64 9 13 21)
      ∧ reads (0x1C000002 + 9 * 2 ^ 20 + 13 * 2 ^ 14 + 21 * 2 ^ 8) (.bfi 9 13 21)
      ∧ reads (0x1C000003 + 9 * 2 ^ 20 + 13 * 2 ^ 14) (.bswap 9 13)
      ∧ reads (0x1C000004 + 9 * 2 ^ 20 + 13 * 2 ^ 14) (.brev 9 13) := by
  decide +kernel

theorem decodes_major_08 :
    reads (0x20000000 + 9 * 2 ^ 20 + 13 * 2 ^ 14 + 8197) (.beq 9 13 0x2005#14) := by
  decide +kernel

theorem decodes_major_09 :
    reads (0x24000000 + 9 * 2 ^ 20 + 13 * 2 ^ 14 + 8197) (.bne 9 13 0x2005#14) := by
  decide +kernel

theorem decodes_major_0A :
    reads (0x28000000 + 9 * 2 ^ 20 + 13 * 2 ^ 14 + 8197) (.bltI64 9 13 0x2005#14) := by
  decide +kernel

theorem decodes_major_0B :
    reads (0x2C000000 + 9 * 2 ^ 20 + 13 * 2 ^ 14 + 8197) (.bgeI64 9 13 0x2005#14) := by
  decide +kernel

theorem decodes_major_0C :
    reads (0x30000000 + 33554437) (.jal 0x2000005#26) := by
  decide +kernel

theorem decodes_major_0D :
    reads (0x34000000 + 9 * 2 ^ 20 + 6 * 2 ^ 14 + 9001) (.loop 9 6 9001) := by
  decide +kernel

theorem decodes_major_0E :
    reads (0x38000000 + 9 * 2 ^ 20 + 13 * 2 ^ 14 + 517) (.ldI8 9 13 0x205#10)
      ∧ reads (0x38000400 + 9 * 2 ^ 20 + 13 * 2 ^ 14 + 517) (.ldN8 9 13 0x205#10)
      ∧ reads (0x38000800 + 9 * 2 ^ 20 + 13 * 2 ^ 14 + 517) (.ldI16 9 13 0x205#10)
      ∧ reads (0x38000C00 + 9 * 2 ^ 20 + 13 * 2 ^ 14 + 517) (.ldN16 9 13 0x205#10)
      ∧ reads (0x38001000 + 9 * 2 ^ 20 + 13 * 2 ^ 14 + 517) (.ldI32 9 13 0x205#10)
      ∧ reads (0x38001400 + 9 * 2 ^ 20 + 13 * 2 ^ 14 + 517) (.ldN32 9 13 0x205#10)
      ∧ reads (0x38001800 + 9 * 2 ^ 20 + 13 * 2 ^ 14 + 517) (.ld64 9 13 0x205#10)
      ∧ reads (0x38001C00 + 9 * 2 ^ 20 + 13 * 2 ^ 14 + 517) (.ldAcq64 9 13 0x205#10)
      ∧ reads (0x38002000 + 9 * 2 ^ 20 + 13 * 2 ^ 14 + 517) (.st8 9 13 0x205#10)
      ∧ reads (0x38002400 + 9 * 2 ^ 20 + 13 * 2 ^ 14 + 517) (.st16 9 13 0x205#10)
      ∧ reads (0x38002800 + 9 * 2 ^ 20 + 13 * 2 ^ 14 + 517) (.st32 9 13 0x205#10)
      ∧ reads (0x38002C00 + 9 * 2 ^ 20 + 13 * 2 ^ 14 + 517) (.st64 9 13 0x205#10)
      ∧ reads (0x38003000 + 9 * 2 ^ 20 + 13 * 2 ^ 14 + 517) (.stRel64 9 13 0x205#10)
      ∧ reads (0x38003400 + 9 * 2 ^ 20 + 13 * 2 ^ 14 + 517) (.ldAcqN32 9 13 0x205#10)
      ∧ reads (0x38003800 + 9 * 2 ^ 20 + 13 * 2 ^ 14 + 517) (.stRel32 9 13 0x205#10) := by
  decide +kernel

theorem decodes_major_0F :
    reads (0x3C000000 + 9 * 2 ^ 20 + 13 * 2 ^ 14 + 21 * 2 ^ 8 + 5 * 2 ^ 5 + 1 * 2 ^ 4) (.amoSwap 9 13 21 5 true)
      ∧ reads (0x3C000001 + 9 * 2 ^ 20 + 13 * 2 ^ 14 + 21 * 2 ^ 8 + 5 * 2 ^ 5 + 1 * 2 ^ 4) (.amoAdd 9 13 21 5 true)
      ∧ reads (0x3C000002 + 9 * 2 ^ 20 + 13 * 2 ^ 14 + 21 * 2 ^ 8 + 5 * 2 ^ 5 + 1 * 2 ^ 4) (.amoAnd 9 13 21 5 true)
      ∧ reads (0x3C000003 + 9 * 2 ^ 20 + 13 * 2 ^ 14 + 21 * 2 ^ 8 + 5 * 2 ^ 5 + 1 * 2 ^ 4) (.amoOr 9 13 21 5 true)
      ∧ reads (0x3C000004 + 9 * 2 ^ 20 + 13 * 2 ^ 14 + 21 * 2 ^ 8 + 5 * 2 ^ 5 + 1 * 2 ^ 4) (.amoXor 9 13 21 5 true)
      ∧ reads (0x3C000005 + 9 * 2 ^ 20 + 13 * 2 ^ 14 + 21 * 2 ^ 8 + 5 * 2 ^ 5 + 1 * 2 ^ 4) (.amoMinI 9 13 21 5 true)
      ∧ reads (0x3C000006 + 9 * 2 ^ 20 + 13 * 2 ^ 14 + 21 * 2 ^ 8 + 5 * 2 ^ 5 + 1 * 2 ^ 4) (.amoMaxI 9 13 21 5 true)
      ∧ reads (0x3C000007 + 9 * 2 ^ 20 + 13 * 2 ^ 14 + 21 * 2 ^ 8 + 5 * 2 ^ 5 + 1 * 2 ^ 4) (.amoMinN 9 13 21 5 true)
      ∧ reads (0x3C000008 + 9 * 2 ^ 20 + 13 * 2 ^ 14 + 21 * 2 ^ 8 + 5 * 2 ^ 5 + 1 * 2 ^ 4) (.amoMaxN 9 13 21 5 true)
      ∧ reads (0x3C000009 + 9 * 2 ^ 20 + 13 * 2 ^ 14 + 21 * 2 ^ 8 + 5 * 2 ^ 5 + 1 * 2 ^ 4) (.amoCas 9 13 21 5 true)
      ∧ reads (0x3C00001A + 18 * 2 ^ 20 + 13 * 2 ^ 14 + 10 * 2 ^ 8 + 5 * 2 ^ 5) (.amoCas16 9 13 5 5) := by
  decide +kernel

theorem decodes_major_10 :
    reads (0x40000000 + 3 * 2 ^ 14) (.fence 3)
      ∧ reads (0x40000001 + 3 * 2 ^ 14) (.fenceRel 3)
      ∧ reads (0x40000002 + 3 * 2 ^ 14) (.fenceAcq 3)
      ∧ reads (0x40000080 + 83) (.xfence 0x53) := by
  decide +kernel

theorem decodes_major_11 :
    reads (0x44000000 + 9 * 2 ^ 20 + 13 * 2 ^ 14 + 21 * 2 ^ 8) (.barArrive 9 13 21)
      ∧ reads (0x44000001 + 9 * 2 ^ 14 + 13 * 2 ^ 8) (.barExpect 9 13)
      ∧ reads (0x44000002 + 9 * 2 ^ 14 + 13 * 2 ^ 8) (.barWait 9 13)
      ∧ reads (0x44000003 + 9 * 2 ^ 20 + 13 * 2 ^ 14 + 21 * 2 ^ 8) (.barTest 9 13 21)
      ∧ reads (0x44000004 + 9 * 2 ^ 14 + 13 * 2 ^ 8) (.barInit 9 13) := by
  decide +kernel

theorem decodes_major_12 :
    reads (0x48000000 + 8197) (.forkF 0x2005#14)
      ∧ reads (0x48100000 + 8197) (.forkX 0x2005#14) := by
  decide +kernel

theorem decodes_major_13 :
    reads (0x4C000000) (.join)
      ∧ reads (0x4C000001) (.exit)
      ∧ reads (0x4C000002) (.yield)
      ∧ reads (0x4C000008 + 9 * 2 ^ 14) (.trap 9)
      ∧ reads (0x4C000009) (.tret)
      ∧ reads (0x4C000010 + 9 * 2 ^ 20 + 13 * 2 ^ 14) (.gets 9 13)
      ∧ reads (0x4C000011 + 10 * 2 ^ 14 + 13 * 2 ^ 8) (.sets 10 13)
      ∧ reads (0x4C000018 + 9 * 2 ^ 20 + 13 * 2 ^ 14) (.launch 9 13) := by
  decide +kernel

theorem decodes_major_14 :
    reads (0x50000000 + 9 * 2 ^ 20 + 13 * 2 ^ 14 + 21 * 2 ^ 8) (.vsetl 9 13 21)
      ∧ reads (0x50000001 + 24 * 2 ^ 14) (.vcfg 2)
      ∧ reads (0x50000002 + 9 * 2 ^ 20 + 13 * 2 ^ 14 + 21 * 2 ^ 8) (.vtos 9 13 21)
      ∧ reads (0x50000003 + 9 * 2 ^ 20 + 5 * 2 ^ 14) (.mtos 9 5)
      ∧ reads (0x50000004 + 9 * 2 ^ 20 + 13 * 2 ^ 14) (.vbcast 9 13)
      ∧ reads (0x50000005 + 9 * 2 ^ 20) (.vindex 9) := by
  decide +kernel

theorem decodes_major_15 :
    reads (0x54000000 + 9 * 2 ^ 20 + 13 * 2 ^ 14 + 21 * 2 ^ 8 + 6 * 2 ^ 5) (.vaddFloat 9 13 21 6)
      ∧ reads (0x54000001 + 9 * 2 ^ 20 + 13 * 2 ^ 14 + 21 * 2 ^ 8 + 6 * 2 ^ 5) (.vsubFloat 9 13 21 6)
      ∧ reads (0x54000002 + 9 * 2 ^ 20 + 13 * 2 ^ 14 + 21 * 2 ^ 8 + 6 * 2 ^ 5) (.vmulFloat 9 13 21 6)
      ∧ reads (0x54000003 + 9 * 2 ^ 20 + 13 * 2 ^ 14 + 21 * 2 ^ 8 + 6 * 2 ^ 5) (.vdiv 9 13 21 6)
      ∧ reads (0x54000004 + 9 * 2 ^ 20 + 13 * 2 ^ 14 + 21 * 2 ^ 8 + 6 * 2 ^ 5) (.vfma 9 13 21 6)
      ∧ reads (0x54000005 + 9 * 2 ^ 20 + 13 * 2 ^ 14 + 21 * 2 ^ 8 + 6 * 2 ^ 5) (.vfms 9 13 21 6)
      ∧ reads (0x54000006 + 9 * 2 ^ 20 + 13 * 2 ^ 14 + 21 * 2 ^ 8 + 6 * 2 ^ 5) (.vfnma 9 13 21 6)
      ∧ reads (0x54000007 + 9 * 2 ^ 20 + 13 * 2 ^ 14 + 21 * 2 ^ 8 + 6 * 2 ^ 5) (.vminFloat 9 13 21 6)
      ∧ reads (0x54000008 + 9 * 2 ^ 20 + 13 * 2 ^ 14 + 21 * 2 ^ 8 + 6 * 2 ^ 5) (.vmaxFloat 9 13 21 6)
      ∧ reads (0x54000009 + 9 * 2 ^ 20 + 13 * 2 ^ 14 + 5 * 2 ^ 5) (.vabsFloat 9 13 5)
      ∧ reads (0x5400000A + 9 * 2 ^ 20 + 13 * 2 ^ 14 + 5 * 2 ^ 5) (.vnegFloat 9 13 5)
      ∧ reads (0x5400000B + 9 * 2 ^ 20 + 13 * 2 ^ 14 + 5 * 2 ^ 5) (.vsqrt 9 13 5)
      ∧ reads (0x5400000C + 9 * 2 ^ 20 + 13 * 2 ^ 14 + 5 * 2 ^ 5) (.vexp2 9 13 5) := by
  decide +kernel

theorem decodes_major_16 :
    reads (0x58000000 + 9 * 2 ^ 20 + 13 * 2 ^ 14 + 21 * 2 ^ 8 + 6 * 2 ^ 5) (.vaddInt 9 13 21 6)
      ∧ reads (0x58000001 + 9 * 2 ^ 20 + 13 * 2 ^ 14 + 21 * 2 ^ 8 + 6 * 2 ^ 5) (.vsubInt 9 13 21 6)
      ∧ reads (0x58000002 + 9 * 2 ^ 20 + 13 * 2 ^ 14 + 21 * 2 ^ 8 + 6 * 2 ^ 5) (.vmulInt 9 13 21 6)
      ∧ reads (0x58000003 + 9 * 2 ^ 20 + 13 * 2 ^ 14 + 21 * 2 ^ 8 + 6 * 2 ^ 5) (.vmulhi 9 13 21 6)
      ∧ reads (0x58000004 + 9 * 2 ^ 20 + 13 * 2 ^ 14 + 21 * 2 ^ 8 + 6 * 2 ^ 5) (.vminInt 9 13 21 6)
      ∧ reads (0x58000005 + 9 * 2 ^ 20 + 13 * 2 ^ 14 + 21 * 2 ^ 8 + 6 * 2 ^ 5) (.vmaxInt 9 13 21 6)
      ∧ reads (0x58000006 + 9 * 2 ^ 20 + 13 * 2 ^ 14 + 21 * 2 ^ 8 + 6 * 2 ^ 5) (.vaddsat 9 13 21 6)
      ∧ reads (0x58000007 + 9 * 2 ^ 20 + 13 * 2 ^ 14 + 21 * 2 ^ 8 + 6 * 2 ^ 5) (.vsubsat 9 13 21 6)
      ∧ reads (0x58000008 + 9 * 2 ^ 20 + 13 * 2 ^ 14 + 5 * 2 ^ 5) (.vabsInt 9 13 5)
      ∧ reads (0x58000009 + 9 * 2 ^ 20 + 13 * 2 ^ 14 + 5 * 2 ^ 5) (.vnegInt 9 13 5)
      ∧ reads (0x5800000A + 9 * 2 ^ 20 + 13 * 2 ^ 14 + 21 * 2 ^ 8 + 6 * 2 ^ 5) (.vmad 9 13 21 6) := by
  decide +kernel

theorem decodes_major_17 :
    reads (0x5C000000 + 9 * 2 ^ 20 + 13 * 2 ^ 14 + 21 * 2 ^ 8 + 6 * 2 ^ 5) (.vand 9 13 21 6)
      ∧ reads (0x5C000001 + 9 * 2 ^ 20 + 13 * 2 ^ 14 + 21 * 2 ^ 8 + 6 * 2 ^ 5) (.vor 9 13 21 6)
      ∧ reads (0x5C000002 + 9 * 2 ^ 20 + 13 * 2 ^ 14 + 21 * 2 ^ 8 + 6 * 2 ^ 5) (.vxor 9 13 21 6)
      ∧ reads (0x5C000003 + 9 * 2 ^ 20 + 13 * 2 ^ 14 + 21 * 2 ^ 8 + 6 * 2 ^ 5) (.vandn 9 13 21 6)
      ∧ reads (0x5C000004 + 9 * 2 ^ 20 + 13 * 2 ^ 14 + 5 * 2 ^ 5) (.vnot 9 13 5)
      ∧ reads (0x5C000005 + 9 * 2 ^ 20 + 13 * 2 ^ 14 + 21 * 2 ^ 8 + 6 * 2 ^ 5) (.vsll 9 13 21 6)
      ∧ reads (0x5C000006 + 9 * 2 ^ 20 + 13 * 2 ^ 14 + 21 * 2 ^ 8 + 6 * 2 ^ 5) (.vsrl 9 13 21 6)
      ∧ reads (0x5C000007 + 9 * 2 ^ 20 + 13 * 2 ^ 14 + 21 * 2 ^ 8 + 6 * 2 ^ 5) (.vsra 9 13 21 6) := by
  decide +kernel

theorem decodes_major_18 :
    reads (0x60000000 + 1 * 2 ^ 20 + 13 * 2 ^ 14 + 21 * 2 ^ 8 + 6 * 2 ^ 5) (.vcmpEq 1 13 21 6)
      ∧ reads (0x60000001 + 1 * 2 ^ 20 + 13 * 2 ^ 14 + 21 * 2 ^ 8 + 6 * 2 ^ 5) (.vcmpNe 1 13 21 6)
      ∧ reads (0x60000002 + 1 * 2 ^ 20 + 13 * 2 ^ 14 + 21 * 2 ^ 8 + 6 * 2 ^ 5) (.vcmpLt 1 13 21 6)
      ∧ reads (0x60000003 + 1 * 2 ^ 20 + 13 * 2 ^ 14 + 21 * 2 ^ 8 + 6 * 2 ^ 5) (.vcmpLe 1 13 21 6)
      ∧ reads (0x60000008 + 9 * 2 ^ 20 + 13 * 2 ^ 14 + 21 * 2 ^ 8 + 6 * 2 ^ 5) (.vsel 9 13 21 6)
      ∧ reads (0x60000010 + 1 * 2 ^ 20 + 5 * 2 ^ 14 + 5 * 2 ^ 8) (.mand 1 5 5)
      ∧ reads (0x60000011 + 1 * 2 ^ 20 + 5 * 2 ^ 14 + 5 * 2 ^ 8) (.mor 1 5 5)
      ∧ reads (0x60000012 + 1 * 2 ^ 20 + 5 * 2 ^ 14 + 5 * 2 ^ 8) (.mxor 1 5 5)
      ∧ reads (0x60000013 + 1 * 2 ^ 20 + 5 * 2 ^ 14 + 5 * 2 ^ 8) (.mandn 1 5 5)
      ∧ reads (0x60000014 + 1 * 2 ^ 20 + 5 * 2 ^ 14) (.mnot 1 5) := by
  decide +kernel

theorem decodes_major_19 :
    reads (0x64000000 + 9 * 2 ^ 20 + 13 * 2 ^ 14 + 5 * 2 ^ 5 + 6) (.vcvt 9 13 5 6) := by
  decide +kernel

theorem decodes_major_1A :
    reads (0x68000000 + 9 * 2 ^ 20 + 13 * 2 ^ 14 + 21 * 2 ^ 8 + 6 * 2 ^ 5) (.vlift 9 13 21 6)
      ∧ reads (0x68000001 + 9 * 2 ^ 20 + 13 * 2 ^ 14 + 21 * 2 ^ 8 + 6 * 2 ^ 5) (.vsink 9 13 21 6)
      ∧ reads (0x68000002 + 9 * 2 ^ 20 + 13 * 2 ^ 14 + 21 * 2 ^ 8 + 6 * 2 ^ 5) (.vpick 9 13 21 6)
      ∧ reads (0x68000003 + 9 * 2 ^ 20 + 13 * 2 ^ 14 + 5 * 2 ^ 5) (.vpack 9 13 5)
      ∧ reads (0x68000004 + 9 * 2 ^ 20 + 13 * 2 ^ 14 + 21 * 2 ^ 8) (.vprune 9 13 21)
      ∧ reads (0x68000005 + 9 * 2 ^ 20 + 13 * 2 ^ 14 + 21 * 2 ^ 8 + 6 * 2 ^ 5) (.vzip 9 13 21 6)
      ∧ reads (0x68000006 + 9 * 2 ^ 20 + 13 * 2 ^ 14 + 21 * 2 ^ 8 + 6 * 2 ^ 5) (.vunzip 9 13 21 6)
      ∧ reads (0x68000007 + 9 * 2 ^ 20 + 13 * 2 ^ 14 + 21 * 2 ^ 8 + 6 * 2 ^ 5) (.vliftZ 9 13 21 6)
      ∧ reads (0x68000008 + 9 * 2 ^ 20 + 13 * 2 ^ 14 + 21 * 2 ^ 8 + 6 * 2 ^ 5) (.vsinkZ 9 13 21 6)
      ∧ reads (0x68000009 + 9 * 2 ^ 20 + 13 * 2 ^ 14 + 5 * 2 ^ 5) (.vpackK 9 13 5) := by
  decide +kernel

theorem decodes_major_1B :
    reads (0x6C000000 + 9 * 2 ^ 20 + 13 * 2 ^ 14 + 5 * 2 ^ 5) (.vfoldAdd 9 13 5)
      ∧ reads (0x6C000001 + 9 * 2 ^ 20 + 13 * 2 ^ 14 + 5 * 2 ^ 5) (.vfoldMax 9 13 5)
      ∧ reads (0x6C000002 + 9 * 2 ^ 20 + 13 * 2 ^ 14 + 5 * 2 ^ 5) (.vfoldMin 9 13 5)
      ∧ reads (0x6C000003 + 9 * 2 ^ 20 + 13 * 2 ^ 14 + 5 * 2 ^ 5) (.vfoldAnd 9 13 5)
      ∧ reads (0x6C000004 + 9 * 2 ^ 20 + 13 * 2 ^ 14 + 5 * 2 ^ 5) (.vfoldOr 9 13 5)
      ∧ reads (0x6C000005 + 9 * 2 ^ 20 + 13 * 2 ^ 14 + 5 * 2 ^ 5) (.vfoldXor 9 13 5)
      ∧ reads (0x6C000006 + 9 * 2 ^ 20 + 13 * 2 ^ 14 + 5 * 2 ^ 5) (.vfoldAmax 9 13 5) := by
  decide +kernel

theorem decodes_major_1C :
    reads (0x70000000 + 9 * 2 ^ 20 + 13 * 2 ^ 14 + 21 * 2 ^ 8 + 6 * 2 ^ 5 + 1 * 2 ^ 4 + 1 * 2 ^ 3) (.vld 9 13 21 6 true true)
      ∧ reads (0x70000001 + 9 * 2 ^ 20 + 13 * 2 ^ 14 + 21 * 2 ^ 8 + 6 * 2 ^ 5 + 1 * 2 ^ 4 + 1 * 2 ^ 3) (.vlds 9 13 21 6 true true)
      ∧ reads (0x70000002 + 9 * 2 ^ 20 + 13 * 2 ^ 14 + 21 * 2 ^ 8 + 6 * 2 ^ 5 + 1 * 2 ^ 4 + 1 * 2 ^ 3) (.vldx 9 13 21 6 true true)
      ∧ reads (0x70000003 + 18 * 2 ^ 20 + 26 * 2 ^ 14 + 21 * 2 ^ 8 + 6 * 2 ^ 5 + 1 * 2 ^ 4 + 1 * 2 ^ 3) (.vldb 9 13 21 6 true true)
      ∧ reads (0x70000004 + 9 * 2 ^ 20 + 13 * 2 ^ 14 + 21 * 2 ^ 8 + 6 * 2 ^ 5 + 1 * 2 ^ 4 + 1 * 2 ^ 3) (.vldSpec 9 13 21 6 true true)
      ∧ reads (0x70000005 + 9 * 2 ^ 20 + 13 * 2 ^ 14 + 21 * 2 ^ 8 + 6 * 2 ^ 5 + 1 * 2 ^ 4 + 1 * 2 ^ 3) (.vldsSpec 9 13 21 6 true true)
      ∧ reads (0x70000006 + 9 * 2 ^ 20 + 13 * 2 ^ 14 + 21 * 2 ^ 8 + 6 * 2 ^ 5 + 1 * 2 ^ 4 + 1 * 2 ^ 3) (.vldxSpec 9 13 21 6 true true) := by
  decide +kernel

theorem decodes_major_1D :
    reads (0x74000000 + 9 * 2 ^ 20 + 13 * 2 ^ 14 + 21 * 2 ^ 8 + 6 * 2 ^ 5 + 1 * 2 ^ 4 + 1 * 2 ^ 3) (.vst 9 13 21 6 true true)
      ∧ reads (0x74000001 + 9 * 2 ^ 20 + 13 * 2 ^ 14 + 21 * 2 ^ 8 + 6 * 2 ^ 5 + 1 * 2 ^ 4 + 1 * 2 ^ 3) (.vsts 9 13 21 6 true true)
      ∧ reads (0x74000002 + 9 * 2 ^ 20 + 13 * 2 ^ 14 + 21 * 2 ^ 8 + 6 * 2 ^ 5 + 1 * 2 ^ 4 + 1 * 2 ^ 3) (.vstx 9 13 21 6 true true)
      ∧ reads (0x74000003 + 18 * 2 ^ 20 + 26 * 2 ^ 14 + 21 * 2 ^ 8 + 6 * 2 ^ 5 + 1 * 2 ^ 4 + 1 * 2 ^ 3) (.vstb 9 13 21 6 true true) := by
  decide +kernel

theorem decodes_major_1E :
    reads (0x78000000 + 1 * 2 ^ 20 + 13 * 2 ^ 14 + 21 * 2 ^ 8 + 6 * 2 ^ 5) (.trow 1 13 21 6)
      ∧ reads (0x78000001 + 9 * 2 ^ 20 + 5 * 2 ^ 14 + 21 * 2 ^ 8 + 6 * 2 ^ 5) (.tcol 9 5 21 6) := by
  decide +kernel

theorem decodes_major_1F :
    reads (0x7C000000) (.vspec)
      ∧ reads (0x7C000001 + 9 * 2 ^ 20 + 13 * 2 ^ 14 + 5 * 2 ^ 5) (.vmerge 9 13 5) := by
  decide +kernel

theorem decodes_major_20 :
    reads (0x80000000 + 4 * 2 ^ 8) (.faAttach 4)
      ∧ reads (0x80000001 + 4 * 2 ^ 8) (.faDetach 4)
      ∧ reads (0x80000002 + 18 * 2 ^ 20) (.faCfgld 9)
      ∧ reads (0x80000003) (.faCommit)
      ∧ reads (0x80000004) (.faWait) := by
  decide +kernel

theorem decodes_major_21 :
    reads (0x84000000 + 18 * 2 ^ 20 + 26 * 2 ^ 14 + 5 * 2 ^ 8 + 6 * 2 ^ 5 + 1 * 2 ^ 2) (.faStageFloat 9 13 5 6 true)
      ∧ reads (0x84000008 + 18 * 2 ^ 20 + 26 * 2 ^ 14 + 5 * 2 ^ 8 + 6 * 2 ^ 5 + 1 * 2 ^ 2) (.faStageBfp16 9 13 5 6 true)
      ∧ reads (0x84000010 + 18 * 2 ^ 20 + 26 * 2 ^ 14 + 5 * 2 ^ 8 + 6 * 2 ^ 5 + 1 * 2 ^ 2) (.faStageMod 9 13 5 6 true) := by
  decide +kernel

theorem decodes_major_22 :
    reads (0x88000000 + 18 * 2 ^ 20 + 26 * 2 ^ 14 + 5 * 2 ^ 8 + 6) (.faDense 9 13 5 6)
      ∧ reads (0x88000010 + 18 * 2 ^ 20 + 26 * 2 ^ 14 + 5 * 2 ^ 8 + 6) (.faSparse 9 13 5 6) := by
  decide +kernel

theorem decodes_major_23 :
    reads (0x8C000000 + 1 * 2 ^ 14 + 5 * 2 ^ 8) (.faPwTwid 1 5)
      ∧ reads (0x8C000001 + 9 * 2 ^ 20 + 5 * 2 ^ 8) (.faPwScale 9 5)
      ∧ reads (0x8C000002 + 1 * 2 ^ 14 + 5 * 2 ^ 8) (.faPwAdd 1 5)
      ∧ reads (0x8C000003 + 1 * 2 ^ 8) (.faPwRelu 1)
      ∧ reads (0x8C000004 + 1 * 2 ^ 8) (.faPwExp2 1)
      ∧ reads (0x8C000005 + 1 * 2 ^ 8) (.faPwModred 1)
      ∧ reads (0x8C000010 + 9 * 2 ^ 20 + 5 * 2 ^ 8) (.faBfpStatic 9 5)
      ∧ reads (0x8C000011 + 1 * 2 ^ 8) (.faBfpMeas 1) := by
  decide +kernel

theorem decodes_major_24 :
    reads (0x90000000 + 9 * 2 ^ 20) (.faZero 9)
      ∧ reads (0x90000001 + 18 * 2 ^ 20 + 13 * 2 ^ 14 + 51 * 2 ^ 8) (.faDrain 9 13 (some 3))
      ∧ reads (0x90000002 + 18 * 2 ^ 20 + 13 * 2 ^ 14 + 51 * 2 ^ 8) (.faDrainv 9 13 (some 3))
      ∧ reads (0x90000003 + 9 * 2 ^ 20 + 5 * 2 ^ 14) (.faAmax 9 5)
      ∧ reads (0x90000004 + 9 * 2 ^ 20 + 5 * 2 ^ 14) (.faAmaxFinal 9 5) := by
  decide +kernel

theorem decodes_major_25 :
    reads (0x94000000 + 9 * 2 ^ 20) (.faModset 9)
      ∧ reads (0x94000001 + 9 * 2 ^ 20 + 5 * 2 ^ 14 + 5 * 2 ^ 8) (.faCrt 9 5 5) := by
  decide +kernel

theorem decodes_major_26 :
    reads (0x98000000 + 9 * 2 ^ 20 + 5 * 2 ^ 8) (.vproj 9 5)
      ∧ reads (0x98000001 + 9 * 2 ^ 20 + 5 * 2 ^ 8) (.vprojThresh 9 5)
      ∧ reads (0x98000002 + 9 * 2 ^ 20 + 5 * 2 ^ 8) (.vprojBwd 9 5)
      ∧ reads (0x98000003 + 18 * 2 ^ 20 + 13 * 2 ^ 14 + 5 * 2 ^ 8) (.vpmerge 9 13 5) := by
  decide +kernel

theorem decodes_major_28 :
    reads (0xA0000000 + 18 * 2 ^ 20 + 26 * 2 ^ 14 + 21 * 2 ^ 8) (.cp 9 13 21)
      ∧ reads (0xA0000010 + 18 * 2 ^ 20 + 26 * 2 ^ 14 + 21 * 2 ^ 8) (.cpTr 9 13 21)
      ∧ reads (0xA0000020 + 18 * 2 ^ 20 + 26 * 2 ^ 14 + 21 * 2 ^ 8) (.cpCvt 9 13 21)
      ∧ reads (0xA0000030 + 18 * 2 ^ 20 + 26 * 2 ^ 14 + 21 * 2 ^ 8 + 2 * 2 ^ 2 + 1) (.cpRed 9 13 21 2 1)
      ∧ reads (0xA0000040 + 18 * 2 ^ 20 + 26 * 2 ^ 14 + 10 * 2 ^ 8 + 2 * 2 ^ 2 + 1) (.cpRed2 9 13 5 2 1) := by
  decide +kernel

theorem decodes_major_29 :
    reads (0xA4000000 + 9 * 2 ^ 20) (.cpNest 9)
      ∧ reads (0xA4000001 + 9 * 2 ^ 20 + 13 * 2 ^ 14 + 21 * 2 ^ 8) (.cpArm 9 13 21)
      ∧ reads (0xA4000002) (.cpWait)
      ∧ reads (0xA4000003 + 9 * 2 ^ 20) (.cpStat 9) := by
  decide +kernel

theorem decodes_major_2A :
    reads (0xA8000000 + 9 * 2 ^ 20 + 1 * 2 ^ 3) (.collAr 9 true)
      ∧ reads (0xA8000001 + 9 * 2 ^ 20 + 1 * 2 ^ 3) (.collRs 9 true)
      ∧ reads (0xA8000002 + 9 * 2 ^ 20 + 1 * 2 ^ 3) (.collAg 9 true)
      ∧ reads (0xA8000003 + 9 * 2 ^ 20 + 1 * 2 ^ 3) (.collA2a 9 true)
      ∧ reads (0xA8000004 + 9 * 2 ^ 20 + 1 * 2 ^ 3) (.collBc 9 true)
      ∧ reads (0xA8000005 + 9 * 2 ^ 20 + 1 * 2 ^ 3) (.collTm 9 true) := by
  decide +kernel

theorem decodes_major_2C :
    reads (0xB0000000 + 18 * 2 ^ 20 + 13 * 2 ^ 14 + 21 * 2 ^ 8 + 5) (.cmAdd 9 13 21 5)
      ∧ reads (0xB0000010 + 18 * 2 ^ 20 + 13 * 2 ^ 14 + 21 * 2 ^ 8 + 5) (.cmMin 9 13 21 5)
      ∧ reads (0xB0000020 + 18 * 2 ^ 20 + 13 * 2 ^ 14 + 21 * 2 ^ 8 + 5) (.cmMax 9 13 21 5)
      ∧ reads (0xB0000030 + 18 * 2 ^ 20 + 13 * 2 ^ 14 + 21 * 2 ^ 8 + 2) (.cmAnd 9 13 21 2)
      ∧ reads (0xB0000040 + 18 * 2 ^ 20 + 13 * 2 ^ 14 + 21 * 2 ^ 8 + 2) (.cmOr 9 13 21 2)
      ∧ reads (0xB0000050 + 18 * 2 ^ 20 + 13 * 2 ^ 14 + 21 * 2 ^ 8 + 2) (.cmXor 9 13 21 2)
      ∧ reads (0xB0000060 + 18 * 2 ^ 20 + 13 * 2 ^ 14 + 21 * 2 ^ 8 + 5) (.cmSwap 9 13 21 5)
      ∧ reads (0xB0000070 + 18 * 2 ^ 20 + 13 * 2 ^ 14 + 42 * 2 ^ 8 + 5) (.cmCas 9 13 21 5)
      ∧ reads (0xB0000080 + 18 * 2 ^ 20 + 13 * 2 ^ 14 + 3) (.cmEw 9 13 3)
      ∧ reads (0xB0000090 + 18 * 2 ^ 20 + 13 * 2 ^ 14 + 1) (.cmRed 9 13 1) := by
  decide +kernel

theorem decodes_major_2D :
    reads (0xB4000000 + 18 * 2 ^ 20 + 13 * 2 ^ 14 + 21 * 2 ^ 8) (.cmMadd 9 13 21)
      ∧ reads (0xB4000001 + 18 * 2 ^ 20 + 13 * 2 ^ 14 + 21 * 2 ^ 8) (.cmProbe 9 13 21) := by
  decide +kernel

theorem decodes_major_2E :
    reads (0xB8000000 + 9 * 2 ^ 20 + 13 * 2 ^ 14) (.iqDecl 9 13)
      ∧ reads (0xB8000001 + 18 * 2 ^ 20 + 13 * 2 ^ 14) (.iqEmit 9 13)
      ∧ reads (0xB8000002 + 9 * 2 ^ 20 + 13 * 2 ^ 14) (.iqClose 9 13)
      ∧ reads (0xB8000003 + 9 * 2 ^ 20) (.iqUndecl 9) := by
  decide +kernel

theorem decodes_major_2F :
    reads (0xBC000000 + 18 * 2 ^ 20 + 13 * 2 ^ 14) (.iqTake 9 13)
      ∧ reads (0xBC000001 + 18 * 2 ^ 20 + 26 * 2 ^ 14) (.iqApply 9 13)
      ∧ reads (0xBC000002 + 18 * 2 ^ 20 + 26 * 2 ^ 14) (.iqProbe 9 13)
      ∧ reads (0xBC000003 + 9 * 2 ^ 20 + 13 * 2 ^ 14) (.iqQwait 9 13)
      ∧ reads (0xBC000004 + 9 * 2 ^ 20) (.iqDone 9)
      ∧ reads (0xBC000005 + 9 * 2 ^ 20 + 13 * 2 ^ 14) (.iqStat 9 13)
      ∧ reads (0xBC000006 + 9 * 2 ^ 20 + 13 * 2 ^ 14) (.iqFront 9 13) := by
  decide +kernel

theorem decodes_major_30 :
    reads (0xC0000000 + 18 * 2 ^ 20 + 26 * 2 ^ 14 + 10 * 2 ^ 8) (.nmSgdf 9 13 5)
      ∧ reads (0xC0000001 + 18 * 2 ^ 20 + 26 * 2 ^ 14 + 10 * 2 ^ 8) (.nmAxpy 9 13 5)
      ∧ reads (0xC0000002 + 18 * 2 ^ 20 + 26 * 2 ^ 14 + 10 * 2 ^ 8) (.nmScale 9 13 5)
      ∧ reads (0xC0000003 + 18 * 2 ^ 20 + 26 * 2 ^ 14 + 10 * 2 ^ 8) (.nmSumsq 9 13 5)
      ∧ reads (0xC0000004 + 18 * 2 ^ 20 + 26 * 2 ^ 14 + 10 * 2 ^ 8) (.nmCast 9 13 5)
      ∧ reads (0xC0000005 + 18 * 2 ^ 20 + 26 * 2 ^ 14 + 10 * 2 ^ 8) (.nmFill 9 13 5)
      ∧ reads (0xC0000006 + 18 * 2 ^ 20 + 26 * 2 ^ 14 + 10 * 2 ^ 8) (.nmScatadd 9 13 5) := by
  decide +kernel

theorem decodes_major_31 :
    reads (0xC4000000) (.nmWait)
      ∧ reads (0xC4000100) (.nmWaitAll)
      ∧ reads (0xC4000001 + 9 * 2 ^ 20) (.nmStat 9) := by
  decide +kernel

theorem decodes_major_32 :
    reads (0xC8000000 + 9 * 2 ^ 20 + 13 * 2 ^ 14) (.stFlag 9 13)
      ∧ reads (0xC8000001 + 9 * 2 ^ 20 + 13 * 2 ^ 14) (.stFlag32 9 13)
      ∧ reads (0xC8000002 + 9 * 2 ^ 14) (.lkPref 9)
      ∧ reads (0xC8000003 + 9 * 2 ^ 14) (.lkFlush 9)
      ∧ reads (0xC8000004 + 9 * 2 ^ 14) (.lkInval 9) := by
  decide +kernel

theorem decodes_major_33 :
    reads (0xCC000000 + 9 * 2 ^ 20 + 13 * 2 ^ 14 + 1 * 2 ^ 8) (.pcount 9 13 1)
      ∧ reads (0xCC000001 + 9 * 2 ^ 14) (.fenceAck 9)
      ∧ reads (0xCC000002 + 9 * 2 ^ 20 + 13 * 2 ^ 14) (.lkStat 9 13) := by
  decide +kernel

theorem decodes_major_3E :
    reads (0xF8000000) (.nop)
      ∧ reads (0xF8000000 + 50000001) (.hint 50000001) := by
  decide +kernel

/-- R47, R48, R52, R53, R54, R57, R63: an ill-formed term for each check of `Instr.wellFormed`, at the boundary of the check. -/
theorem test_ill_formed :
    (Instr.loop 1 0 0).wellFormed = false ∧ (Instr.xfence 0).wellFormed = false ∧ (Instr.xfence 64).wellFormed = false
      ∧ (Instr.sets 1 3).wellFormed = false ∧ (Instr.sets 2 3).wellFormed = false ∧ (Instr.sets 5 3).wellFormed = false
      ∧ (Instr.hint 0).wellFormed = false
      ∧ (Instr.vsel 1 2 3 0).wellFormed = false ∧ (Instr.vsel 1 48 48 1).wellFormed = false ∧ (Instr.vpack 1 2 0).wellFormed = false
      ∧ (Instr.vpackK 1 2 0).wellFormed = false ∧ (Instr.vmerge 1 2 0).wellFormed = false ∧ (Instr.vprune 3 1 3).wellFormed = false
      ∧ (Instr.vstx 50 1 50 0 false false).wellFormed = false := by
  decide +kernel

/-- R47: no instruction with two vector sources names one queue in both. -/
theorem test_ill_formed_queues :
    ([.vaddFloat 1 48 48 0, .vsubFloat 1 49 49 0, .vmulFloat 1 50 50 0, .vdiv 1 51 51 0, .vfma 1 52 52 0, .vfms 1 53 53 0, .vfnma 1 54 54 0,
      .vminFloat 1 55 55 0, .vmaxFloat 1 48 48 0, .vaddInt 1 49 49 0, .vsubInt 1 50 50 0, .vmulInt 1 51 51 0, .vmulhi 1 52 52 0,
      .vminInt 1 53 53 0, .vmaxInt 1 54 54 0, .vaddsat 1 55 55 0, .vsubsat 1 48 48 0, .vmad 1 49 49 0, .vand 1 50 50 0, .vor 1 51 51 0,
      .vxor 1 52 52 0, .vandn 1 53 53 0, .vsll 1 54 54 0, .vsrl 1 55 55 0, .vsra 1 48 48 0, .vcmpEq 1 49 49 0, .vcmpNe 1 50 50 0,
      .vcmpLt 1 51 51 0, .vcmpLe 1 52 52 0, .vpick 1 53 53 0, .vzip 1 54 54 0, .vunzip 1 55 55 0] : List Instr).all
      (fun i => !i.wellFormed) = true := by
  decide +kernel

/-- R45, R50, R64: words that are no instruction: major 0x00, a function code that is not listed, a register field above 31, an odd
pair, a reserved field that is not zero, and a word whose fields are legal and whose instruction is ill formed. -/
theorem test_rejected :
    [0x00000000, 0xFFFFFFFF, 0x04000013, 0x06000000, 0xA0100000, 0x04000110, 0x34000000].map (fun w =>
        match decodeWord w with | .ok _ => none | .error e => some e)
      = [some .badMajor, some .badMajor, some .badFunction, some .badField, some .badField, some .reservedField, some .illFormed] := by
  decide +kernel

/-- R43: the word is the four bytes, the lowest address in bits 7:0, and the bytes after it are left. -/
theorem test_decode_bytes : (match decodeBytes [0xFF, 0x7F, 0x51, 0x08, 0xAA] with
    | .ok (i, l) => decide (i = .addi 5 5 0x3FFF#14) && decide (l = [0xAA]) | .error _ => false) = true := by
  decide +kernel

/-- The worked words of the encoding tables (R44, R54, R63). -/
theorem test_worked_words :
    reads 0x54404264 (.vfma 4 1 2 3) ∧ reads 0x74410200 (.vst 4 4 2 0 false false) ∧ reads 0x08517FFF (.addi 5 5 0x3FFF#14)
      ∧ reads 0x34700003 (.loop 7 0 3) ∧ reads 0x24503FFD (.bne 5 0 0x3FFD#14) ∧ reads 0x48100008 (.forkX 8#14)
      ∧ reads 0x40000083 (.xfence 3) ∧ reads 0xF8000000 .nop ∧ reads 0x50928B00 (.vsetl 9 10 11) ∧ reads 0x84C50008 (.faStageBfp16 6 10 0 0 false)
      ∧ reads 0xB9428000 (.iqDecl 20 10) ∧ reads 0xC4000100 .nmWaitAll := by
  decide +kernel

/-! ## Witnesses: the scalar side -/

/-- A state of a factor array context that runs a program. -/
def onCtx : State :=
  { State.reset with
    ctxs := [(0, { Ctx.init with prog := some ⟨{ Seq.init with pc := 0x10000 }, 7, issuerNow base 0 0x10000⟩ })], cur := .ctx 0 }

/-- A state of a copy engine that runs a program. -/
def onEngine : State :=
  { State.reset with
    engines := [(0, { Engine.init with prog := some ⟨{ Seq.init with pc := 0x10000 }, 7, issuerNow base 0 0x10000⟩ })], cur := .engine 0 }

theorem witness_hasProgram : hasProgram base ∧ hasProgram onCtx ∧ hasProgram onEngine := ⟨trivial, rfl, rfl⟩

theorem witness_RegisterArithmetic :
    hasProgram base ∧ registerValue base (.sub 4 3 1) = some (4, word ((5 : Int) - 0x20000)) ∧ (countOfBits base (.clz 4 3)).map Prod.fst = some 4
      ∧ (0x10 = 0x10 ∨ 0x10 = 0x11 ∨ 0x10 = 0x12) ∧ (0x13 ≤ 0x17 ∧ 0x19 ≤ 0x1F ∧ 0x22 ≤ 0xFF) :=
  ⟨trivial, by decide +kernel, rfl, by decide, by decide⟩

theorem witness_ImmediateArithmetic :
    hasProgram base ∧ immediateValue base (.addi 0 3 0x3FFF#14) = some (0, 4) ∧ (40 < 64 ∧ 64 < 256 ∧ 5 ≤ 40 / 8 ∧ (40 % 8 * 256 + 64) / 64 ≠ 0) :=
  ⟨trivial, by decide +kernel, by decide⟩

theorem witness_MultiplyDivide : hasProgram onCtx ∧ productValue onCtx (.divI64 4 5 6) = some (4, word (-1)) := ⟨rfl, by decide +kernel⟩

theorem witness_BitFields : hasProgram base ∧ (fieldBits base (.bfi 4 1 3)).map Prod.fst = some 4 := ⟨trivial, rfl⟩

/-- A thread with two active levels that end at the same word, the inner one at its last iteration or before it. -/
def looping (i : BitVec 32) : State :=
  one { plain 0x20000 with seq := { (plain 0x20000).seq with loops := [⟨4, 0, 0xFF00, 0x10000⟩, ⟨3, i, 0xFF80, 0x10000⟩] } }

theorem witness_EndTest :
    hasProgram base ∧ (curSeq base).loops = []
      ∧ hasProgram (looping 1) ∧ (curSeq (looping 1)).loops = [⟨4, 0, 0xFF00, 0x10000⟩] ++ [⟨3, 1, 0xFF80, 0x10000⟩] ∧ (1 : BitVec 32).toNat + 1 < (3 : BitVec 32).toNat
      ∧ hasProgram (looping 2) ∧ ¬ (2 : BitVec 32).toNat + 1 < (3 : BitVec 32).toNat :=
  ⟨trivial, rfl, trivial, rfl, by decide, trivial, by decide⟩

theorem witness_Branches :
    hasProgram onEngine ∧ branchOf onEngine (.beq 1 2 5#14) = some (x onEngine 1 = x onEngine 2, 5#14) ∧ x onEngine 1 = x onEngine 2
      ∧ branchOf base (.beq 1 3 5#14) = some (x base 1 = x base 3, 5#14) ∧ ¬ x base 1 = x base 3 :=
  ⟨rfl, rfl, by decide +kernel, rfl, by decide +kernel⟩

theorem witness_Jumps : hasProgram base ∧ (x base 1).toNat % 4 = 0 := ⟨trivial, by decide +kernel⟩

theorem witness_LoopStartAndBreak :
    hasProgram base ∧ x base 0 = 0 ∧ 0 < (x base 3).toNat ∧ (x base 3).toNat < 2 ^ 32 ∧ (curSeq base).loops.length < 6
      ∧ (0 < (x (looping 1) 3).toNat ∧ (pcOf (looping 1) + word (4 * 0)).toNat ≤ (0x10000 : Word).toNat)
      ∧ (curSeq (looping 1)).loops = [⟨4, 0, 0xFF00, 0x10000⟩] ++ [⟨3, 1, 0xFF80, 0x10000⟩] ++ [] ∧ ([] : List Level).length = (0 : Fin 6).val
      ∧ (curSeq (looping 1)).loops.length ≤ (2 : Fin 6).val :=
  ⟨trivial, by decide +kernel, by decide +kernel, by decide +kernel, by decide +kernel, by decide +kernel, rfl, rfl, by decide +kernel⟩

theorem witness_LoopIndex :
    hasProgram (looping 1) ∧ (1 : Fin 6).val < (curSeq (looping 1)).loops.length
      ∧ (curSeq (looping 1)).loops[(curSeq (looping 1)).loops.length - 1 - 1]? = some ⟨4, 0, 0xFF00, 0x10000⟩
      ∧ (curSeq base).loops.length ≤ (0 : Fin 6).val ∧ (6 ≤ 6 ∨ 0 ≠ 0) :=
  ⟨trivial, by decide +kernel, by decide +kernel, by decide +kernel, by decide⟩

theorem witness_OnlyThePositionMoves : hasProgram base ∧ (3 : Fin 6).val < 4 ∧ (3 : Fin 128).val.testBit 1 = true ∧ orderWaits base = false :=
  ⟨trivial, by decide, by decide, by decide +kernel⟩

/-! ## Witnesses: memory -/

abbrev leafMem : Word := (page 0 0 13 0x1F).leaf
abbrev leafChk : Word := (page 0 0 13 0x5F).leaf
abbrev leafPush : Word := (page 0 0x100000000000 13 0x9F).leaf
abbrev leafHost : Word := (page 0 0x80000000000 13 0x1F).leaf
abbrev leafFab : Word := (page 0 0xF0000000000 14 0x1F).leaf

theorem quiet {s : State} {pa n : Nat} (h1 : s.packets = []) (h2 : s.barriers = []) (h3 : s.iqs = [])
    (h4 : ∀ d, (dom s d).due = false) (h5 : s.llc = []) : QuietBytes s pa n := by
  refine ⟨?_, ?_, ?_, ?_, h4, ?_⟩ <;> simp [h1, h2, h3, h5, declared, cachesCurrent]

theorem quiet0 {s : State} {pa n : Nat} (h1 : s.packets = []) (h2 : s.barriers = []) (h3 : s.iqs = []) (h4 : s.domains = [])
    (h5 : s.llc = []) : QuietBytes s pa n :=
  quiet h1 h2 h3 (fun d => by simp only [dom, h4]; rfl) h5

theorem athome {s : State} {w : Who} {pa : Nat} (h : lineBusy s pa = false) (h' : devOf pa = devOfDie w.die) : homeReached s w pa := ⟨h, .inl h'⟩

theorem witness_PlainLoads :
    hasProgram base ∧ plainLoad (.ld64 4 1 0) = some (8, false, 4, 1, 0) ∧ cWaits base = false
      ∧ Reaches base (curWho base) true false 8 (addressOf base 1 0) leafMem 0x20000
      ∧ racing base (curWho base) leafMem 0x20000 8 = false ∧ poisoned base 0x20000 8 = false ∧ placeOf 0x20000 ≠ .hostAperture
      ∧ homeReached base (curWho base) 0x20000 ∧ isMemory 0x20000 ∧ cachesCurrent base :=
  ⟨trivial, rfl, by decide +kernel, ⟨by decide +kernel, by decide +kernel, by decide +kernel, fun h => nomatch h⟩,
    by decide +kernel, by decide +kernel, by decide +kernel, athome rfl rfl, trivial, fun _ h => nomatch h⟩

theorem witness_PlainStores :
    hasProgram base ∧ plainStore (.st16 3 1 (-2)) = some (2, 3, 1, -2) ∧ cWaits base = false
      ∧ Reaches base (curWho base) false true 2 (addressOf base 1 (-2)) leafMem 0x1FFFE
      ∧ racing base (curWho base) leafMem 0x1FFFE 2 = false ∧ isMemory 0x1FFFE ∧ homeReached base (curWho base) 0x1FFFE
      ∧ storedHere (curWho base) leafMem 0x1FFFE ∧ QuietBytes base 0x1FFFE 2 :=
  ⟨trivial, rfl, by decide +kernel, ⟨by decide +kernel, by decide +kernel, by decide +kernel, fun _ => by decide +kernel⟩, by decide +kernel,
    trivial, athome rfl rfl, .inl (by decide +kernel), quiet0 rfl rfl rfl rfl rfl⟩

theorem witness_PlainStores_peer :
    let s := at1 0x14000000100
    hasProgram s ∧ plainStore (.st64 3 1 0) = some (8, 3, 1, 0) ∧ cWaits s = false
      ∧ Reaches s (curWho s) false true 8 (addressOf s 1 0) leafPush 0x100000000100
      ∧ racing s (curWho s) leafPush 0x100000000100 8 = false ∧ QuietBytes s 0x100000000100 8
      ∧ (∃ die, placeOf 0x100000000100 = .hbm die) ∧ devOf 0x100000000100 ≠ devOfDie (curWho s).die ∧ pteDev leafPush = false
      ∧ ptePush leafPush = true ∧ pairFull s (curWho s).die (devOf 0x100000000100) = false :=
  ⟨trivial, rfl, by decide +kernel, ⟨by decide +kernel, by decide +kernel, by decide +kernel, fun _ => by decide +kernel⟩, by decide +kernel,
    quiet0 rfl rfl rfl rfl rfl, ⟨0, by decide +kernel⟩, by decide +kernel, by decide +kernel, by decide +kernel, by decide +kernel⟩

theorem witness_PlainStores_host :
    let s := at1 0x18000000000
    hasProgram s ∧ plainStore (.st8 3 1 0) = some (1, 3, 1, 0) ∧ cWaits s = false
      ∧ Reaches s (curWho s) false true 1 (addressOf s 1 0) leafHost 0x80000000000
      ∧ racing s (curWho s) leafHost 0x80000000000 1 = false ∧ QuietBytes s 0x80000000000 1
      ∧ placeOf 0x80000000000 = .hostAperture ∧ devOf 0x80000000000 = devOfDie (curWho s).die :=
  ⟨trivial, rfl, by decide +kernel, ⟨by decide +kernel, by decide +kernel, by decide +kernel, fun _ => by decide +kernel⟩, by decide +kernel,
    quiet0 rfl rfl rfl rfl rfl, by decide +kernel, by decide +kernel⟩

/-- Each cause of a plain access at the edge where it begins: a set address bit 57, a misaligned address, no page, no permission, a
place the path does not reach, a copy on write with an empty pool, a poisoned page, a poisoned granule. -/
theorem witness_AccessFaultOrder :
    let ea := fun (s : State) => (addressOf s 1 0).toNat
    let leaf := fun (s : State) => leafOf s (curWho s).tlbs (curWho s).die (curWho s).iss.asid (ea s)
    let ps := { base with poison := [0x20000 / 64] }
    (∀ v : Word, cWaits (at1 v) = false)
      ∧ 2 ^ 57 ≤ ea (at1 0x200000000000000)
      ∧ (ea (at1 0x1FFFFFFFFFFFFFC) < 2 ^ 57 ∧ ea (at1 0x1FFFFFFFFFFFFFC) % 8 ≠ 0)
      ∧ (ea (at1 0x1FFFFFFFFFFFFF8) < 2 ^ 57 ∧ ea (at1 0x1FFFFFFFFFFFFF8) % 8 = 0 ∧ leaf (at1 0x1FFFFFFFFFFFFF8) = none)
      ∧ (∃ p, leaf (at1 0x8000000000) = some p ∧ pteWr p = false)
      ∧ (∃ p, leaf (at1 0xF0020000000) = some p ∧ pteRd p = true ∧ pteMc p = false
          ∧ reachFor base (curWho base).die (curWho base).path false p (physOf p 0xF0020000000) = some 0x13)
      ∧ (∃ p pa, translate (at1 0xC000000000) (curWho base) false true 8 0xC000000000 = .ok (p, pa) ∧ pteCow p = true
          ∧ poolNext (at1 0xC000000000) (curWho base).die (pteSize p) = none)
      ∧ (∃ p pa, translate (at1 0x10000000000) (curWho base) true false 8 0x10000000000 = .ok (p, pa) ∧ ptePsn p = true)
      ∧ (∃ p pa, translate ps (curWho ps) true false 8 0x20000 = .ok (p, pa) ∧ ptePsn p = false ∧ pteMc p = false
          ∧ racing (noteAccess (curWho ps) 0x20000 ps) (curWho ps) p pa 8 = false ∧ isMemory pa ∧ devOf pa = devOfDie (curWho ps).die ∧ poisoned ps pa 8 = true) := by
  refine ⟨fun _ => rfl, by decide +kernel, by decide +kernel, by decide +kernel, ⟨(page 0 0 13 0x17).leaf, by decide +kernel⟩,
    ⟨leafFab, by decide +kernel⟩, ⟨(page 0 0 13 0x11F).leaf, 0, by decide +kernel⟩, ⟨(page 0 0 13 0x41F).leaf, 0, by decide +kernel⟩,
    ⟨leafMem, 0x20000, by decide +kernel, by decide +kernel, by decide +kernel, by decide +kernel, trivial, rfl, by decide +kernel⟩⟩

/-- A thread that is agent 1 of race domain 1, with s1 on a checked page. -/
def inDom : State := one { plain 0x4000020000 with rdom := 1, agent := 1 }

/-- A line that agent 2 of domain 1 wrote after what agent 1 knows of it. -/
def raced : State := { noteAccess (curWho inDom) (addressOf inDom 1 0).toNat inDom with tags := [(0x20000 / 64, ⟨0, 1, 2, 9⟩)] }

theorem witness_AccessFaultOrder_race :
    translate raced (curWho raced) true false 8 (addressOf raced 1 0).toNat = .ok (leafChk, 0x20000) ∧ ptePsn leafChk = false
      ∧ pteMc leafChk = false ∧ racing (noteAccess (curWho raced) (addressOf raced 1 0).toNat raced) (curWho raced) leafChk 0x20000 8 = true := by
  decide +kernel

/-- A page copied on write, a pool of sixteen entries with one left, and a snapshot of the page that takes its time. -/
def snapping : State :=
  let s := { one (plain 0x1000) with cores := [(0, { Core.init with tlb := [page 0x1000 0x2000 0 0x11F] })], snapWaits := [(0, 1)] }
  writeMem (writeMem s (poolAddr 0 0) 16 (4 * 2 ^ 52 + 2 ^ 64)) (windowBase 0 + 0x300040) 32 (0x1000 * 2 ^ 64 + 2 ^ 128)

theorem witness_AccessFaultOrder_copy :
    let s := { snapping with snapWaits := [] }
    translate s (curWho s) false true 8 0x1000 = .ok ((page 0x1000 0x2000 0 0x11F).leaf, 0x2000) ∧ snapHeld s (curWho s).die (curWho s).iss.asid 0x1000 = false
      ∧ pteCow (page 0x1000 0x2000 0 0x11F).leaf = true ∧ poolNext s (curWho s).die (pteSize (page 0x1000 0x2000 0 0x11F).leaf) ≠ none
      ∧ snapHeld snapping (curWho snapping).die (curWho snapping).iss.asid 0x1FF8 = true := by
  decide +kernel

theorem witness_AcquireLoads :
    inDom.cur = .thread 0 ∧ acquiringLoad (.ldAcq64 4 1 0) = some (8, 4, 1, 0) ∧ cWaits inDom = false
      ∧ Reaches inDom (curWho inDom) true false 8 (addressOf inDom 1 0) leafChk 0x20000 ∧ placeOf 0x20000 ≠ .hostAperture
      ∧ homeReached inDom (curWho inDom) 0x20000 ∧ poisoned inDom 0x20000 8 = false
      ∧ racing inDom (mergedWho inDom (curWho inDom) (syncFor inDom (curWho inDom) leafChk 0x20000)) leafChk 0x20000 8 = false
      ∧ (∃ b, syncFor inDom (curWho inDom) leafChk 0x20000 = some b) ∧ syncFor base (curWho base) leafMem 0x20000 = none :=
  ⟨rfl, rfl, by decide +kernel, ⟨by decide +kernel, by decide +kernel, by decide +kernel, fun h => nomatch h⟩, by decide +kernel,
    athome rfl rfl, by decide +kernel, by decide +kernel, ⟨_, rfl⟩, by decide +kernel⟩

theorem open_base : releaseOpen base 3 := ⟨by decide +kernel, fun h => absurd h (by decide), by decide +kernel⟩

theorem acked {s : State} {k : Nat} {d : Option Nat} (h : (thr s k).snap = none) (h1 : s.packets = []) (h2 : s.pairs = []) : AllAcked s k d :=
  ⟨h, by simp [awaitsAck, h1], by simp [lostAmong, h2]⟩

theorem witness_ReleaseStores :
    releasingStore (.stRel64 3 1 0) = some (8, 3, 1, 0) ∧ Reaches base (curWho base) false true 8 (addressOf base 1 0) leafMem 0x20000
      ∧ racing base (curWho base) leafMem 0x20000 8 = false ∧ isMemory 0x20000 ∧ homeReached base (curWho base) 0x20000
      ∧ storedHere (curWho base) leafMem 0x20000 ∧ QuietBytes base 0x20000 8 ∧ releaseOpen base 3 ∧ syncFor base (curWho base) leafMem 0x20000 = none :=
  ⟨rfl, ⟨by decide +kernel, by decide +kernel, by decide +kernel, fun _ => by decide +kernel⟩, by decide +kernel, trivial,
    athome rfl rfl, .inl (by decide +kernel), quiet0 rfl rfl rfl rfl rfl, open_base, by decide +kernel⟩

/-- The domain's sync area lies at 0x40000 in these states, away from the stored bytes. -/
def released : State := { inDom with domains := [(1, { dom inDom 1 with syncBase := 0x40000 })] }

theorem witness_ReleaseStores_checked :
    Reaches released (curWho released) false true 8 (addressOf released 1 0) leafChk 0x20000
      ∧ racing released (curWho released) leafChk 0x20000 8 = false ∧ homeReached released (curWho released) 0x20000 ∧ storedHere (curWho released) leafChk 0x20000
      ∧ QuietBytes released 0x20000 8 ∧ releaseOpen released 3
      ∧ ∃ b, syncFor released (curWho released) leafChk 0x20000 = some b ∧ (0x20000 + 8 ≤ b ∨ b + 512 ≤ 0x20000) :=
  ⟨⟨by decide +kernel, by decide +kernel, by decide +kernel, fun _ => by decide +kernel⟩, by decide +kernel, athome rfl rfl,
    .inl (by decide +kernel), quiet rfl rfl rfl (fun d => by unfold dom released; simp only [tabGet]; split <;> rfl) rfl,
    ⟨by decide +kernel, fun h => absurd h (by decide), by decide +kernel⟩, ⟨syncBlock released 1 0x20000, by decide +kernel, by decide +kernel⟩⟩

theorem witness_Atomics :
    (atomicOf (.amoCas 4 1 3 0 true)).isSome = true ∧ cWaits base = false
      ∧ Reaches base (curWho base) true true 8 (x base 1) leafMem 0x20000 ∧ AtomicReady base (curWho base) 8 leafMem 0x20000 3
      ∧ syncFor base (curWho base) leafMem 0x20000 = none
      ∧ Reaches base (curWho base) true true 16 (x base 1) leafMem 0x20000 ∧ AtomicReady base (curWho base) 16 leafMem 0x20000 3 :=
  ⟨rfl, by decide +kernel, ⟨by decide +kernel, by decide +kernel, by decide +kernel, fun _ => by decide +kernel⟩,
    ⟨trivial, athome rfl rfl, by decide +kernel, by decide +kernel, quiet0 rfl rfl rfl rfl rfl, open_base⟩, by decide +kernel,
    ⟨by decide +kernel, by decide +kernel, by decide +kernel, fun _ => by decide +kernel⟩,
    ⟨trivial, athome rfl rfl, by decide +kernel, by decide +kernel, quiet0 rfl rfl rfl rfl rfl, open_base⟩⟩

theorem witness_Atomics_checked :
    released.cur = .thread 0 ∧ cWaits released = false ∧ Reaches released (curWho released) true true 8 (x released 1) leafChk 0x20000
      ∧ AtomicReady released (curWho released) 8 leafChk 0x20000 3
      ∧ ∃ b, syncFor released (curWho released) leafChk 0x20000 = some b ∧ (0x20000 + 8 ≤ b ∨ b + 512 ≤ 0x20000) :=
  ⟨rfl, by decide +kernel, ⟨by decide +kernel, by decide +kernel, by decide +kernel, fun _ => by decide +kernel⟩,
    ⟨trivial, athome rfl rfl, by decide +kernel, by decide +kernel,
      quiet rfl rfl rfl (fun d => by unfold dom released; simp only [tabGet]; split <;> rfl) rfl,
      ⟨by decide +kernel, fun h => absurd h (by decide), by decide +kernel⟩⟩,
    ⟨syncBlock released 1 0x20000, by decide +kernel, by decide +kernel⟩⟩

/-- A counted write of slot 0 that nobody has acknowledged. -/
def sentOne : State := match exec (.st64 3 1 0) (at1 0x14000000100) with | .next t => t | _ => base

theorem witness_FencesAndReleases :
    vPending (thr base 0) = false ∧ AllAcked base 0 none ∧ releaseOpen base 5
      ∧ vPending (thr sentOne 0) = false ∧ (thr sentOne 0).snap = none ∧ awaitsAck sentOne (dieOfThread 0) none sentOne.serial = true :=
  ⟨by decide +kernel, acked (by decide +kernel) rfl rfl, ⟨by decide +kernel, fun _ => acked (by decide +kernel) rfl rfl, by decide +kernel⟩,
    by decide +kernel, by decide +kernel, by decide +kernel⟩

/-! ## Witnesses: barrier objects, traps, system registers, control -/

/-- The state with an object in a scratchpad that expects two arrivals, and s2 at it. -/
def obj : State := writeMem base 0xF0000000000 16 2

theorem object (wr : Bool) : ObjectAt obj wr (x obj 2) 0xF0000000000 :=
  ⟨by decide +kernel, by decide +kernel, athome rfl rfl, leafFab, by cases wr <;> decide +kernel, by decide +kernel, by decide +kernel, fun _ => by decide +kernel⟩

theorem witness_BarrierArrivals :
    hasProgram obj ∧ cWaits obj = false ∧ ObjectAt obj true (x obj 2) 0xF0000000000
      ∧ barScope (barRead obj 0xF0000000000) < 4 ∧ barClk (barRead obj 0xF0000000000) = false ∧ (∀ d, (dom obj d).due = false)
      ∧ (x obj 3).toNat < 2 ^ 31 ∧ barTx (barRead obj 0xF0000000000) + (x obj 3).toNat < 2 ^ 31
      ∧ barCount (barRead obj 0xF0000000000) < barExpect (barRead obj 0xF0000000000)
      ∧ releaseOpen obj (barScope (barRead obj 0xF0000000000) + 1) :=
  ⟨trivial, by decide +kernel, object true, by decide +kernel, by decide +kernel, fun _ => rfl, by decide +kernel, by decide +kernel,
    by decide +kernel, ⟨by decide +kernel, fun h => absurd h (by decide +kernel), by decide +kernel⟩⟩

/-- The last arrival without bytes: the premises of the flip. -/
def objLast : State := writeMem base 0xF0000000000 16 1

theorem witness_BarrierArrivals_flip :
    barTx (barRead objLast 0xF0000000000) + (x objLast 0).toNat = 0
      ∧ barCount (barRead objLast 0xF0000000000) + 1 = barExpect (barRead objLast 0xF0000000000)
      ∧ barCount (barRead objLast 0xF0000000000) < barExpect (barRead objLast 0xF0000000000) := by
  decide +kernel

theorem witness_BarrierWaitsAndInit :
    hasProgram obj ∧ cWaits obj = false ∧ ObjectAt obj false (x obj 2) 0xF0000000000
      ∧ barPhase (barRead obj 0xF0000000000) ≠ (x obj 3).getLsbD 0 ∧ barPhase (barRead obj 0xF0000000000) = (x obj 0).getLsbD 0 ∧ obj.cur = .thread 0
      ∧ ObjectAt obj true (x obj 2) 0xF0000000000 ∧ (x obj 3).toNat < 2 ^ 36 ∧ (x obj 3).toNat / 2 ^ 16 % 8 < 4
      ∧ barArmd (barRead obj 0xF0000000000) = false ∧ 2 ^ 36 ≤ (x obj 2).toNat :=
  ⟨trivial, by decide +kernel, object false, by decide +kernel, by decide +kernel, rfl, object true, by decide +kernel, by decide +kernel,
    by decide +kernel, by decide +kernel⟩

theorem witness_TrapEntry :
    ownTrap base 0 (.trap 7) = some (0x04, word 7, pcOf base + 4) ∧ ownTrap base 0 .tret = some (0x02, tvalWord .tret, pcOf base)
      ∧ ownTrap base 0 (.loop 2 0 1) = some (0x44, tvalWord (.loop 2 0 1), pcOf base)
      ∧ base.cur = .thread 0 ∧ (thr base 0).hm = false ∧ (thr base 0).tvec ≠ 0 ∧ (thr base 0).vq = [] :=
  ⟨rfl, by decide +kernel, by decide +kernel, rfl, by decide +kernel, by decide +kernel, by decide +kernel⟩

/-- The thread of slot 0 in its handler. -/
def handling : State := one { plain 0x20000 with hm := true, tepc := 0x10040 }

theorem witness_TrapReportAndReturn :
    handling.cur = .thread 0 ∧ (thr handling 0).vq = [] ∧ (thr handling 0).hm = true ∧ (Machine.core handling (0 / 4)).fqEn = false
      ∧ policyOf handling (thr handling 0).home = 0 ∧ (thr handling 0).st = .running ∧ (thr { base with threads := [] } 0).tvec = 0 :=
  ⟨rfl, by decide +kernel, by decide +kernel, by decide +kernel, by decide +kernel, by decide +kernel, by decide +kernel⟩

theorem witness_SystemRegisters :
    base.cur = .thread 0 ∧ (0x0A, (0 : Word)) ∈ systemRegister base 0 ∧ (0x10 : Fin 21).val = 0x0B + 5
      ∧ (thr handling 0).hm = true ∧ vtLegal (x handling 0) = true ∧ (thr (looping 1) 0).seq.loops[1]? = some ⟨3, 1, 0xFF80, 0x10000⟩
      ∧ (thr base 0).seq.loops.length ≤ 0 :=
  ⟨rfl, by decide +kernel, rfl, by decide +kernel, by decide +kernel, by decide +kernel, by decide +kernel⟩

/-- A thread in its handler whose core's fault queue holds one record, and s1 an fqbase that names another base and leaves EN. -/
def faulted : State :=
  { one { plain 0x8000000000030000 with hm := true } with
    cores := [(0, { Core.init with tlb := pages, fqHead := 1, fqTail := 0, fqBase := 0x20, fqEn := true })] }

theorem witness_SystemRegisters_fqbase :
    faulted.cur = .thread 0 ∧ (thr faulted 0).hm = true ∧ (Machine.core faulted (0 / 4)).fqHead ≠ (Machine.core faulted (0 / 4)).fqTail
      ∧ BitVec.ofNat 45 ((x faulted 1).toNat / 2 ^ 12) ≠ (Machine.core faulted (0 / 4)).fqBase ∧ (x faulted 1).toNat.testBit 63 = (Machine.core faulted (0 / 4)).fqEn
      ∧ (thr handling 0).hm = true ∧ (Machine.core handling (0 / 4)).fqHead = (Machine.core handling (0 / 4)).fqTail := by
  decide +kernel

/-- The thread of slot 0 holds the attachment of its core's context, with all 128 rows, and nothing queued. -/
def attached : State := { base with ctxs := [(0, { Ctx.init with holder := some 0, rows := 128 })] }

theorem witness_ForkedPrograms :
    (ctx base (0 / 4)).holder ≠ some 0 ∧ forksOut base 0 < 4 ∧ vPending (thr base 0) = false
      ∧ (ctx attached (0 / 4)).holder = some 0 ∧ (ctx attached (0 / 4)).queue.length < 32 ∧ (tabGet [] base.forkQs (0 / 128)).length < 16
      ∧ forksOut { base with threads := [(0, { plain 0 with forks := [1, 2, 3] })] } 0 < 4 := by
  decide +kernel

/-- A forked program of slot 0 still runs; or one of its records has not been delivered. -/
def forked : State := one { plain 0x20000 with forks := [7] }
def unreported : State := one { plain 0x20000 with forkFaults := [⟨0x30, 0x9000, 4, 0⟩] }

theorem witness_JoinExitYield :
    (thr base 0).forkFaults = [] ∧ forksOut base 0 = 0 ∧ (thr base 0).vq = []
      ∧ (thr forked 0).forkFaults = [] ∧ forksOut forked 0 ≠ 0
      ∧ (thr unreported 0).forkFaults = [⟨0x30, 0x9000, 4, 0⟩] ∧ (thr unreported 0).vq = [] ∧ (thr unreported 0).hm = false
      ∧ (thr unreported 0).tvec ≠ 0
      ∧ (ctx onCtx 0).prog.isSome = true ∧ (engine onEngine 0).prog.isSome = true ∧ engineBusy (engine onEngine 0) 7 = false := by
  decide +kernel

/-- The record in memory waits for one dependence: 64 bytes whose fields R191 allows. -/
def launching : State :=
  let s := one { plain 0x20000 with priv := true }
  writeMem (writeMem s 0x30000 64 (1 + 255 * 2 ^ 32)) 0x20000 64 (0x30000 * 2 ^ 128 + 2 ^ 266)

theorem witness_Launches :
    launching.cur = .thread 0 ∧ cWaits launching = false
      ∧ Reaches launching (curWho launching) true false 64 (x launching 1) leafMem 0x20000
      ∧ racing launching (curWho launching) leafMem 0x20000 64 = false ∧ poisoned launching 0x20000 64 = false ∧ isMemory 0x20000
      ∧ homeReached launching (curWho launching) 0x20000 ∧ (x inDom 3).toNat % 64 ≠ 0
      ∧ (thr launching 0).priv = true ∧ releaseOpen launching 3 ∧ intakeAt launching 0 0 = none
      ∧ recordMalformed launching (BitVec.ofNat 512 (readFor launching (curWho launching) leafMem 0x20000 64)) = false
      ∧ recNdep (BitVec.ofNat 512 (readFor launching (curWho launching) leafMem 0x20000 64)) ≠ 0 :=
  ⟨rfl, by decide +kernel, ⟨by decide +kernel, by decide +kernel, by decide +kernel, fun h => nomatch h⟩, by decide +kernel, by decide +kernel,
    trivial, athome rfl rfl, by decide +kernel, by decide +kernel, ⟨by decide +kernel, fun h => absurd h (by decide), by decide +kernel⟩, by decide +kernel, by decide +kernel, by decide +kernel⟩

/-- Every intake entry of device 0 is taken. -/
def fullIntake : State :=
  { launching with intake := (List.range 1024).map (fun e => (e, ⟨0, 0, [], false, [], 0, false, false, 0, [], [], none, false, 0⟩)) }

theorem witness_Launches_full : ∀ e, e < 1024 → intakeAt fullIntake 0 e ≠ none := by
  intro e h
  simp [intakeAt, fullIntake, List.find?_map, h]

/-! ## Witnesses: the vector unit -/

/-- A thread with a vtype, a length and two registers, v1 and v2, that hold nothing poisoned. -/
def vec (vt : Word) (vl : Nat) : State :=
  one { plain 0x20000 with vtype := vt, vl := vl, bvalid := BitVec.allOnes 32768,
                                  vregs := [(1, ⟨0x0000000380000005#262144, 0⟩), (2, ⟨0x0000000240400000#262144, 0⟩)] }

theorem alone {s : State} {i : Instr} (h1 : s.cur = .thread 0) (ht : s.threads = [(0, thr s 0)]) (h : (decide ((thr s 0).st = .running) && !(thr s 0).heldTrap
    && decide ((thr s 0).vq = []) && !(thr s 0).vdefer && decide (vCheck i 0 s = none) && claimsReady (thr s 0) (claimsOf s 0 i)
    && decide ((thr s 0).vl ≤ 32768 ∧ (thr s 0).vl * vtBits (thr s 0).vtype ≤ 262144)) = true) : RunsAlone s 0 i := by
  simp only [Bool.and_eq_true, decide_eq_true_eq, Bool.not_eq_true'] at h
  obtain ⟨⟨⟨⟨⟨⟨a, b⟩, c⟩, d⟩, e⟩, f⟩, g⟩ := h
  refine ⟨h1, a, b, c, d, fun j _ hj => ?_, e, f, g⟩
  have hi : thr s j = Thread.init := by rw [thr, ht]; simp [tabGet, hj]
  simp [stripReady, hi, Thread.init]

/-- An instruction that names no queue reads the thread as it is. -/
theorem reads_plain {s : State} {i : Instr} (h : claimsOf s 0 i = []) : reader s 0 i = thr s 0 := by simp [reader, h, claimFirst]

theorem psn_zero {n : Nat} {p : PBits n} (h : p.psn = 0) (w e : Nat) : elemPsn p w e = false := by simp [elemPsn, h]

/-- Every register of a thread is without poison. -/
theorem clean {t : Thread} (h : t.vregs = (thr (vec 0 0) 0).vregs) (r : Fin 56) (hr : r.val < 48) (w e : Nat) : (srcElem t r w e).2 = false := by
  have hq : queueOf r = none := by simp [queueOf]; omega
  have hv : (vreg t r.val).psn = 0 := by
    rw [vreg, h, show (thr (vec 0 0) 0).vregs = [(1, ⟨0x0000000380000005#262144, 0⟩), (2, ⟨0x0000000240400000#262144, 0⟩)] from rfl]
    simp only [tabGet]
    split
    · rfl
    · split <;> rfl
  simp only [srcElem, hq]; exact psn_zero hv w e

theorem vec_clean (vt : Word) (vl : Nat) (r : Fin 56) (hr : r.val < 48) (w e : Nat) : (srcElem (thr (vec vt vl) 0) r w e).2 = false :=
  clean rfl r hr w e

/-- `vec` with its strips left to the sequencer's own steps, and `n` instructions queued. -/
def deferred (n : Nat) : State :=
  one { thr (vec 12 2) 0 with
    vdefer := true, vq := (List.range n).map (fun i => queuedEntry (vec 12 2) 0 (.vindex 3) (word i, 0, 0)) }

theorem witness_VectorDispatch :
    base.cur = .thread 0 ∧ queuedOperands base (.vbcast 1 3) = some (5, 0, 0) ∧ vCheck (.vbcast 6 3) 0 base = some 0x41
      ∧ vCheck (.vaddInt 3 1 2 0) 0 (vec 0 2) = some 0x01
      ∧ (vCheck (.vaddInt 3 1 2 0) 0 (deferred 15) = none ∧ (thr (deferred 15) 0).vdefer = true ∧ queueUse (thr (deferred 15) 0) (deferred 15) [] (thr (deferred 15) 0).vq < 16)
      ∧ (vCheck (.vaddInt 3 1 2 0) 0 (deferred 16) = none ∧ (thr (deferred 16) 0).vdefer = true ∧ 16 ≤ queueUse (thr (deferred 16) 0) (deferred 16) [] (thr (deferred 16) 0).vq)
      ∧ loadQueue (.vld 48 2 0 0 false false) = some 0 ∧ vCheck (.vld 48 2 0 0 false false) 0 (deferred 0) = none := by
  decide +kernel

theorem witness_VectorLength :
    base.cur = .thread 0 ∧ (thr base 0).vq = [] ∧ vtLegal (x base 0) = true ∧ vtLegal (x base 2) = false ∧ 0 < blkLen (vtBlk 0x69) := by
  decide +kernel

theorem witness_VectorScalarExchange :
    (vec 12 2).cur = .thread 0 ∧ (thr (vec 12 2) 0).vq = [] ∧ vCheck (.vtos 4 1 0) 0 (vec 12 2) = none ∧ claimsReady (thr (vec 12 2) 0) (newClaims (thr (vec 12 2) 0) [1]) = true
      ∧ (srcElem (claimFirst (newClaims (thr (vec 12 2) 0) [1]) (thr (vec 12 2) 0)) 1 (vtBits (thr (vec 12 2) 0).vtype) (x (vec 12 2) 0).toNat).2 = false
      ∧ (thr (vec 12 2) 0).vdefer = false ∧ (thr (vec 12 2) 0).heldTrap = false ∧ (thr (vec 12 2) 0).st = .running
      ∧ ∀ j, j / 4 = 0 / 4 → j ≠ 0 → stripReady (vec 12 2) j = false :=
  ⟨rfl, by decide +kernel, by decide +kernel, by decide +kernel, vec_clean 12 2 1 (by decide) _ _, by decide +kernel, by decide +kernel, by decide +kernel,
    fun j h1 h2 => (alone (i := .vindex 3) rfl rfl (by decide +kernel) : RunsAlone (vec 12 2) 0 _).alone j h1 h2⟩

theorem witness_ElementWise :
    RunsAlone (vec 12 2) 0 (.vaddInt 3 1 2 0) ∧ queuedOperands (vec 12 2) (.vaddInt 3 1 2 0) = some (0, 0, 0)
      ∧ ElementsSound (reader (vec 12 2) 0 (.vaddInt 3 1 2 0)) (.vaddInt 3 1 2 0) ⟨0, some 1, some 2, false, .reg 3 32, false⟩
      ∧ RunsAlone (vec 0 2) 0 (.vfma 3 1 2 0)
      ∧ ElementsSound (reader (vec 0 2) 0 (.vfma 3 1 2 0)) (.vfma 3 1 2 0) ⟨0, some 1, some 2, true, .reg 3 32, true⟩ :=
  ⟨alone rfl rfl (by decide +kernel), by decide +kernel,
    reads_plain (s := vec 12 2) (i := .vaddInt 3 1 2 0) (by decide +kernel) ▸
    ⟨by decide +kernel, fun _ _ _ _ h => (nomatch h), .inl rfl, by decide +kernel, fun e _ =>
      ⟨vec_clean 12 2 1 (by decide) _ e, vec_clean 12 2 1 (by decide) _ e, vec_clean 12 2 2 (by decide) _ e, rfl, rfl⟩⟩,
    alone rfl rfl (by decide +kernel),
    reads_plain (s := vec 0 2) (i := .vfma 3 1 2 0) (by decide +kernel) ▸
    ⟨by decide +kernel, fun _ _ _ _ h => (nomatch h), .inr (by decide +kernel), by decide +kernel, fun e _ =>
      ⟨vec_clean 0 2 1 (by decide) _ e, vec_clean 0 2 1 (by decide) _ e, vec_clean 0 2 2 (by decide) _ e, vec_clean 0 2 3 (by decide) _ e, rfl⟩⟩⟩

theorem witness_IntegerElements :
    vShape (.vaddsat 3 1 2 0) (thr (vec 14 2) 0).vtype = some ⟨0, some 1, some 2, false, .reg 3 8, false⟩ ∧ vtClass (thr (vec 14 2) 0).vtype = .i
      ∧ integerElement false (5 : BitVec 8) 6 7 (.vmad 3 1 2 0) = some 37 := by
  decide +kernel

/-- Masks m1 and m2 set, and the tile registers claimed. -/
def masked (vt : Word) (spec : Bool) : State :=
  one { thr (vec vt 2) 0 with mregs := ((Vector.replicate 8 0).set 1 1).set 2 3, tiles := true, spec := spec }

theorem witness_MasksTilesAndMerge :
    RunsAlone (masked 12 false) 0 (.mand 3 1 2) ∧ (∀ e, maskBit (thr (masked 12 false) 0) e (.mand 3 1 2)
        = some (3, mbit (thr (masked 12 false) 0) 1 e && mbit (thr (masked 12 false) 0) 2 e))
      ∧ RunsAlone (masked 12 false) 0 .vspec
      ∧ RunsAlone (masked 12 false) 0 (.trow 4 1 3 0) ∧ RunsAlone (masked 12 false) 0 (.tcol 4 7 3 0)
      ∧ tileInUse (masked 12 false) 0 4 = false ∧ tileInUse (masked 12 false) 0 7 = false
      ∧ RunsAlone (masked 12 true) 0 (.vmerge 3 1 1) :=
  ⟨alone rfl rfl (by decide +kernel), fun _ => rfl, alone rfl rfl (by decide +kernel), alone rfl rfl (by decide +kernel), alone rfl rfl (by decide +kernel),
    by decide +kernel, by decide +kernel, alone rfl rfl (by decide +kernel)⟩

theorem witness_MasksTilesAndMerge_clean :
    (∀ e, (srcElem (thr (masked 12 false) 0) 1 32 e).2 = false) ∧ (∀ e, elemPsn (Machine.core (masked 12 false) 0).tiles[(7 : Fin 8)] 32 e = false)
      ∧ ∀ e, mbit (thr (masked 12 true) 0) 1 e = true → mbit (thr (masked 12 true) 0) 0 e = false ∧ (srcElem (thr (masked 12 true) 0) 1 32 e).2 = false
        ∧ pairPsn (thr (masked 12 true) 0) 12 2 e = false := by
  refine ⟨fun e => clean rfl 1 (by decide) 32 e, fun e => psn_zero (by decide +kernel) 32 e, fun e _ => ⟨?_, clean rfl 1 (by decide) 32 e, rfl⟩⟩
  · have h : (thr (masked 12 true) 0).mregs[(0 : Fin 8)] = 0 := by decide +kernel
    simp only [mbit, h]; exact BitVec.getLsbD_zero

theorem clean_one {i : Instr} {vt : Word} {vl : Nat} (hc : claimsOf (vec vt vl) 0 i = [])
    (h : (vInfo i (thr (vec vt vl) 0) State.reset).srcs.all (fun r => decide (r < 48)) = true) : cleanSources (reader (vec vt vl) 0 i) i := by
  rw [reads_plain hc]
  intro r hr e
  have := List.all_eq_true.mp h r.val hr
  simp only [decide_eq_true_eq] at this
  exact ⟨vec_clean vt vl r this _ e, vec_clean vt vl r this _ e⟩

theorem witness_Permutes :
    RunsAlone (vec 12 2) 0 (.vlift 3 1 3 0) ∧ queuedOperands (vec 12 2) (.vlift 3 1 3 0) = some (5, 0, 0)
      ∧ cleanSources (reader (vec 12 2) 0 (.vlift 3 1 3 0)) (.vlift 3 1 3 0)
      ∧ (∀ e, permuted (thr (vec 12 2) 0) 5 e (.vliftZ 3 1 3 0) = some (3, if activeAt (thr (vec 12 2) 0) 2 0 e then
          (if 5 ≤ e then .from 1 (e - 5) else .zero) else .keep))
      ∧ RunsAlone (vec 0 2) 0 (.vprune 3 1 4) ∧ cleanSources (reader (vec 0 2) 0 (.vprune 3 1 4)) (.vprune 3 1 4) ∧ (3 : Fin 48) ≠ 4 :=
  ⟨alone rfl rfl (by decide +kernel), by decide +kernel, clean_one (by decide +kernel) (by decide +kernel), fun _ => rfl, alone rfl rfl (by decide +kernel),
    clean_one (by decide +kernel) (by decide +kernel), by decide⟩

theorem witness_Folds :
    RunsAlone (vec 12 2) 0 (.vfoldMax 3 1 0) ∧ reduction (.vfoldMax 3 1 0) = some (.max, 3, 1, 0)
      ∧ (∀ e ∈ (List.range 2).filter (activeAt (thr (vec 12 2) 0) 2 0), (srcElem (thr (vec 12 2) 0) 1 32 e).2 = false)
      ∧ vtClass (thr (vec 12 2) 0).vtype = .i ∧ RunsAlone (vec 0 2) 0 (.vfoldAdd 3 1 0) ∧ vtFmt (thr (vec 0 2) 0).vtype = 0 :=
  ⟨alone rfl rfl (by decide +kernel), rfl, fun e _ => vec_clean 12 2 1 (by decide) 32 e, by decide +kernel, alone rfl rfl (by decide +kernel), by decide +kernel⟩

theorem witness_WideningConversions :
    RunsAlone (vec 12 2) 0 (.vcvt 4 1 0 13) ∧ RunsAlone (vec 0 2) 0 (.vcvt 4 1 0 9)
      ∧ (∀ e, e < 2 → (srcElem (thr (vec 12 2) 0) 1 32 e).2 = false ∧ pairPsn (thr (vec 12 2) 0) 12 2 e = false)
      ∧ vtBits (thr (vec 12 2) 0).vtype < fmtBits 13 ∧ 2 ^ Nat.log2 (8 * regBytes (thr (vec 12 2) 0).cur (thr (vec 12 2) 0).share / 64) * 64 ≤ 262144
      ∧ vtRm (thr (vec 12 2) 0).vtype ≠ 5 ∧ (∀ e, blockOk (thr (vec 0 2) 0) (thr (vec 0 2) 0).vtype e = true)
      ∧ vtClass (thr (vec 0 2) 0).vtype ≠ .s ∧ cvtGroup (thr (vec 0 2) 0) 9 = 1 ∧ min (2 + 32) (32 * ((2 + 31) / 32)) * 16 ≤ 262144
      ∧ (∀ e, (srcElem (thr (vec 0 2) 0) 1 32 e).2 = false ∧ pairPsn (thr (vec 0 2) 0) 0 2 e = false) :=
  ⟨alone rfl rfl (by decide +kernel), alone rfl rfl (by decide +kernel), fun e _ => ⟨vec_clean 12 2 1 (by decide) 32 e, rfl⟩, by decide +kernel, by decide +kernel,
    by decide +kernel, fun _ => rfl, by decide +kernel, by decide +kernel, by decide, fun e => ⟨vec_clean 0 2 1 (by decide) 32 e, rfl⟩⟩

/-! ## Witnesses: vector memory -/

/-- `vec` with s2 and s3 in HBM, s4 in common memory, s5 and s7 zero, and s6 in common memory. -/
def mov (vt : Word) : State :=
  one { thr (vec vt 1) 0 with
    seq := { Seq.init with
      pc := 0x10000, regs := ((((Vector.replicate 32 0).set 2 0x30000).set 3 0x31000).set 4 0xF0010000000).set 6 0xF0010000100 } }

theorem only0 {t : Thread} {m : Fin 8} {e : Nat} (h : governedAt t 1 m e = true) : e = 0 := by
  simp only [governedAt, Bool.and_eq_true, decide_eq_true_eq] at h; omega

theorem free {s : State} {pa : Nat} (h : s.dir = []) : lineBusy s pa = false := by
  unfold lineBusy; split
  · simp [dirEntry, h, tabGet, DirEntry.init]
  · rfl

/-- An access of `n` bytes to HBM at 0x20000 + 0x10000 * j, or to common memory, reaches memory. -/
theorem reachesHbm {s : State} {w : Who} {rd wr : Bool} {n : Nat} {ea : Word} {pa : Nat} (h : translate s w rd wr n ea.toNat = .ok (leafMem, pa))
    (hs : snapHeld s w.die w.iss.asid ea.toNat = false) (hh : devOf pa = devOfDie w.die)
    (h1 : isMemory pa) (h2 : poisoned s pa n = false) (hd : s.dir = [] := by rfl) : ReachesMemory s w rd wr n ea leafMem pa :=
  ⟨⟨h, by decide +kernel, by decide +kernel, fun _ => ⟨by decide +kernel, hs⟩⟩, h1, ⟨free hd, .inl hh⟩, by decide +kernel, h2⟩

theorem reachesFab {s : State} {w : Who} {rd wr : Bool} {n : Nat} {ea : Word} {pa : Nat} (h : translate s w rd wr n ea.toNat = .ok (leafFab, pa))
    (hs : snapHeld s w.die w.iss.asid ea.toNat = false) (hh : devOf pa = devOfDie w.die)
    (h1 : isMemory pa) (h2 : poisoned s pa n = false) (hd : s.dir = [] := by rfl) : ReachesMemory s w rd wr n ea leafFab pa :=
  ⟨⟨h, by decide +kernel, by decide +kernel, fun _ => ⟨by decide +kernel, hs⟩⟩, h1, ⟨free hd, .inl hh⟩, by decide +kernel, h2⟩

theorem witness_VectorLoads :
    RunsAlone (mov 12) 0 (.vld 3 2 0 0 false false) ∧ elementMove (.vld 3 2 0 0 false false) = some (true, false, 3, 0)
      ∧ (∀ e, governedAt (thr (mov 12) 0) 1 0 e = true →
          (elementAddress (mov 12) (thr (mov 12) 0) e (.vld 3 2 0 0 false false)).2 = false
          ∧ ElementRead (mov 12) (vectorWho (mov 12) 0) 32 e (elementAddress (mov 12) (thr (mov 12) 0) e (.vld 3 2 0 0 false false)).1 0
          ∧ pteDev (leafDev (mov 12) (vectorWho (mov 12) 0) 32 e (elementAddress (mov 12) (thr (mov 12) 0) e (.vld 3 2 0 0 false false)).1) = false)
      ∧ RunsAlone (mov 12) 0 (.vldsSpec 48 5 5 0 false false)
      ∧ notLoaded (mov 12) (vectorWho (mov 12) 0) 32 0 (0x1FFFFFFFFFFFFFC : Word) false := by
  refine ⟨alone rfl rfl (by decide +kernel), rfl, fun e he => ?_, alone rfl rfl (by decide +kernel), .inr (.inr ⟨0x10, by decide +kernel⟩)⟩
  obtain rfl := only0 he
  exact ⟨rfl, ⟨leafMem, 0x30000, reachesHbm (by decide +kernel) rfl (by decide +kernel) trivial (by decide +kernel), by decide +kernel, by decide +kernel⟩, by decide +kernel⟩

theorem steadyMov {vt : Word} {wr rd : Bool} {n : Nat} {ea : Word} {p : Word} {pa : Nat} {touched : Nat → Prop}
    (h : ∀ m, translate { mov vt with mem := m } (vectorWho (mov vt) 0) rd wr n ea.toNat = .ok (p, pa)) :
    steadyUnder (mov vt) (vectorWho (mov vt) 0) rd wr n ea p pa touched := fun m _ => h m

theorem witness_VectorStores :
    RunsAlone (mov 12) 0 (.vsts 1 2 5 0 false false) ∧ elementMove (.vsts 1 2 5 0 false false) = some (false, false, 1, 0)
      ∧ (∀ e, (srcElem (thr (mov 12) 0) 1 32 e).2 = false)
      ∧ (∀ e, governedAt (thr (mov 12) 0) 1 0 e = true → ∀ touched,
          StoreReaches (mov 12) (vectorWho (mov 12) 0) 4 (elementAddress (mov 12) (thr (mov 12) 0) e (.vsts 1 2 5 0 false false)).1 0x30000 touched) := by
  refine ⟨alone rfl rfl (by decide +kernel), rfl, clean rfl 1 (by decide) 32, fun e he touched => ?_⟩
  obtain rfl := only0 he
  exact ⟨leafMem, reachesHbm (by decide +kernel) rfl (by decide +kernel) trivial (by decide +kernel), .inl (by decide +kernel), quiet0 rfl rfl rfl rfl rfl, steadyMov fun m => rfl⟩

/-- The bytes of element 0 of a unit-stride access of 16 or 32 bits at 0x30000. -/
theorem strideMov (vt : Word) (vl : (thr (mov vt) 0).vl = 1) (hb : vtBits (thr (mov vt) 0).vtype = 32 ∨ vtBits (thr (mov vt) 0).vtype = 16)
    (touched : Nat → Prop) (h : ∀ q : Nat, q < 4 → StoreReaches (mov vt) (vectorWho (mov vt) 0) 1 (0x30000 + word q) (0x30000 + q) touched) :
    UnitStride (mov vt) 0 0 0x30000 (fun q => 0x30000 + q) touched := by
  have hq : ∀ q, coveredByte (thr (mov vt) 0) 0 q → q < 4 := by
    rintro q ⟨e, he, h1, h2⟩
    rw [vl] at he
    obtain rfl := only0 he
    rcases hb with h | h <;> rw [h] at h2 <;> omega
  constructor
  · intro; rcases hb with h | h <;> rw [h] <;> rfl
  · intro e j _ _; omega
  · intro q hc; exact h q (hq q hc)
  · intro q r _ _ e; exact Nat.add_left_cancel e

theorem byteReaches (vt : Word) (h0 : ∀ q : Fin 4, translate (mov vt) (vectorWho (mov vt) 0) false true 1 (0x30000 + word q.val : Word).toNat = .ok (leafMem, 0x30000 + q.val))
    (h : ∀ m, ∀ q : Fin 4, translate { mov vt with mem := m } (vectorWho (mov vt) 0) false true 1 (0x30000 + word q.val : Word).toNat = .ok (leafMem, 0x30000 + q.val))
    (hp : ∀ q : Fin 4, poisoned (mov vt) (0x30000 + q.val) 1 = false)
    (hs : ∀ q : Fin 4, devOf (0x30000 + q.val) = devOfDie (vectorWho (mov vt) 0).die)
    (touched : Nat → Prop) (q : Nat) (hq : q < 4) :
    StoreReaches (mov vt) (vectorWho (mov vt) 0) 1 (0x30000 + word q) (0x30000 + q) touched := by
  have hm : ∀ q : Fin 4, placeOf (0x30000 + q.val) = .hbm 0 := by decide +kernel
  have hl := hm ⟨q, hq⟩
  simp only at hl
  refine ⟨leafMem, reachesHbm (h0 ⟨q, hq⟩) rfl (hs ⟨q, hq⟩) ?_ (hp ⟨q, hq⟩), ?_, quiet0 rfl rfl rfl rfl rfl, fun m _ => h m ⟨q, hq⟩⟩
  · rw [isMemory, hl]; trivial
  · rw [storedHere, hl]; exact .inl (hs ⟨q, hq⟩)

theorem witness_VectorStores_unit :
    RunsAlone (mov 12) 0 (.vst 1 2 0 0 false false) ∧ x (mov 12) 2 + word (32 * 0) = 0x30000
      ∧ ∀ touched, UnitStride (mov 12) 0 0 0x30000 (fun q => 0x30000 + q) touched :=
  ⟨alone rfl rfl (by decide +kernel), by decide +kernel, fun touched => strideMov 12 (by decide +kernel) (by decide +kernel) touched
    (byteReaches 12 (by decide +kernel) (fun m q => by fin_cases q <;> rfl) (by decide +kernel) (by decide +kernel) touched)⟩

/-- A pair format: bfp16 with its block bytes at s3. -/
theorem witness_ScaleBlockMoves :
    vtLegal (thr (mov 0x69) 0).vtype = true ∧ RunsAlone (mov 0x69) 0 (.vldb 2 1 0 0 false false) ∧ RunsAlone (mov 0x69) 0 (.vstb 1 1 0 0 false false)
      ∧ (∀ b, (∃ e, governedAt (thr (mov 0x69) 0) 1 0 e = true ∧ blockOf 0x69 e = b) →
          b = 0 ∧ ReachesMemory (mov 0x69) (vectorWho (mov 0x69) 0) true false 1 (x (mov 0x69) (pairHi 1) + word b) leafMem 0x31000
          ∧ readFor (mov 0x69) (vectorWho (mov 0x69) 0) leafMem 0x31000 1 ≠ badByte 0x69
          ∧ ∀ touched, StoreReaches (mov 0x69) (vectorWho (mov 0x69) 0) 1 (x (mov 0x69) (pairHi 1) + word b) 0x31000 touched)
      ∧ (∀ e, governedAt (thr (mov 0x69) 0) 1 0 e = true →
          ElementRead (mov 0x69) (vectorWho (mov 0x69) 0) 16 e (x (mov 0x69) (pairLo 1) + word (e * 16 / 8)) 0
          ∧ pteDev (leafAt (mov 0x69) (vectorWho (mov 0x69) 0) (x (mov 0x69) (pairLo 1) + word (e * 16 / 8))) = false
          ∧ elemPsn (vreg (thr (mov 0x69) 0) 2) 16 e = false ∧ elemPsn (vreg (thr (mov 0x69) 0) 3) 8 0 = false)
      ∧ (∀ touched, UnitStride (mov 0x69) 0 0 0x30000 (fun q => 0x30000 + q) touched)
      ∧ ∀ q, q < 4 → 0x30000 + q ≠ 0x31000 := by
  refine ⟨by decide +kernel, alone rfl rfl (by decide +kernel), alone rfl rfl (by decide +kernel), ?_, fun e he => ?_, fun touched => strideMov 0x69 (by decide +kernel)
    (by decide +kernel) touched (byteReaches 0x69 (by decide +kernel) (fun m q => by fin_cases q <;> rfl) (by decide +kernel) (by decide +kernel) touched),
    fun q h => by omega⟩
  · rintro b ⟨e, he, rfl⟩
    obtain rfl := only0 he
    exact ⟨by decide +kernel, reachesHbm (by decide +kernel) rfl (by decide +kernel) trivial (by decide +kernel), by decide +kernel, fun touched =>
      ⟨leafMem, reachesHbm (by decide +kernel) rfl (by decide +kernel) trivial (by decide +kernel), .inl (by decide +kernel), quiet0 rfl rfl rfl rfl rfl, steadyMov fun m => rfl⟩⟩
  · obtain rfl := only0 he
    exact ⟨⟨leafMem, 0x30000, reachesHbm (by decide +kernel) rfl (by decide +kernel) trivial (by decide +kernel), by decide +kernel, by decide +kernel⟩,
      by decide +kernel, by decide +kernel, by decide +kernel⟩

theorem bankHere {vt : Word} {wr : Bool} {n : Nat} {ea : Word} {pa : Nat} {touched : Nat → Prop}
    (h0 : translate (mov vt) (vectorWho (mov vt) 0) (!wr) wr n ea.toNat = .ok (leafFab, pa))
    (h : ∀ m, translate { mov vt with mem := m } (vectorWho (mov vt) 0) (!wr) wr n ea.toNat = .ok (leafFab, pa))
    (h1 : placeOf pa = .common ((vectorWho (mov vt) 0).die % 32)) (h2 : devOf pa = devOfDie (vectorWho (mov vt) 0).die) (h3 : poisoned (mov vt) pa n = false) :
    BankReaches (mov vt) (vectorWho (mov vt) 0) wr n ea pa touched :=
  ⟨leafFab, reachesFab h0 rfl h2 (by rw [isMemory, h1]; trivial) h3, h1, h2, quiet0 rfl rfl rfl rfl rfl, steadyMov h⟩

theorem witness_BankOperations :
    RunsAlone (mov 12) 0 (.cmAdd 2 3 2 0) ∧ (∃ o, cmOp (.cmAdd 2 3 2 0) = some o ∧ o.op ≠ 11 ∧ o.op ≠ 8 ∧ o.ty < 4 ∧ (thr (mov 12) 0).vl * o.bits ≤ 262144)
      ∧ queuedOperands (mov 12) (.cmAdd 2 3 2 0) = some (x (mov 12) (pairLo 2), x (mov 12) (pairHi 2), 0)
      ∧ BankControl (mov 12) 0 (x (mov 12) (pairHi 2)) 0 0
      ∧ (∀ r : Fin 56, r.val < 48 → ∀ e, (srcElem (thr (mov 12) 0) r 32 e).2 = false)
      ∧ (∀ e touched, governedAt (thr (mov 12) 0) 1 0 e = true →
          BankReaches (mov 12) (vectorWho (mov 12) 0) true 4 (bankAddress (mov 12) (thr (mov 12) 0) 2 (some 3) 4 e) 0xF0010000000 touched)
      ∧ RunsAlone (mov 12) 0 (.cmRed 2 6 0)
      ∧ (∀ touched, BankReaches (mov 12) (vectorWho (mov 12) 0) true 4 (x (mov 12) 6) 0xF0010000100 touched)
      ∧ (∀ e touched, governedAt (thr (mov 12) 0) 1 0 e = true →
          BankReaches (mov 12) (vectorWho (mov 12) 0) false 4 (bankAddress (mov 12) (thr (mov 12) 0) 2 none 4 e) 0xF0010000000 touched)
      ∧ RunsAlone (mov 13) 0 (.cmProbe 2 1 3) ∧ (thr (mov 13) 0).vl * 64 ≤ 262144
      ∧ (∀ touched, BankReaches (mov 13) (vectorWho (mov 13) 0) true 64 (x (mov 13) (pairLo 2) + word 0) 0xF0010000000 touched) := by
  refine ⟨alone rfl rfl (by decide +kernel), ⟨_, rfl, by decide, by decide, by decide, by decide +kernel⟩, by decide +kernel,
    ⟨by decide +kernel, by decide +kernel, fun h => absurd h (by decide +kernel)⟩, fun r hr e => clean (t := thr (mov 12) 0) rfl r hr 32 e, fun e touched he => ?_,
    alone rfl rfl (by decide +kernel), fun touched => bankHere (by decide +kernel) (fun m => rfl) (by decide +kernel) (by decide +kernel) (by decide +kernel), fun e touched he => ?_,
    alone rfl rfl (by decide +kernel), by decide +kernel, fun touched => bankHere (by decide +kernel) (fun m => rfl) (by decide +kernel) (by decide +kernel) (by decide +kernel)⟩
  · obtain rfl := only0 he
    rw [show bankAddress (mov 12) (thr (mov 12) 0) 2 (some 3) 4 0 = 0xF0010000000 by decide +kernel]
    exact bankHere (by decide +kernel) (fun m => rfl) (by decide +kernel) (by decide +kernel) (by decide +kernel)
  · obtain rfl := only0 he
    exact bankHere (by decide +kernel) (fun m => rfl) (by decide +kernel) (by decide +kernel) (by decide +kernel)

/-! ## Witnesses: commands and queues -/

theorem witness_ArrayCommands :
    (ctx base (0 / 4)).queue.length < 32 ∧ (arrayOperands base (.faZero 3)).isSome = true ∧ (ctx base (0 / 4)).holder ≠ some 0
      ∧ attached.cur = .thread 0 ∧ (ctx attached (0 / 4)).holder = some 0 ∧ (ctx attached (0 / 4)).queue.length < 32
      ∧ tilePending (thr attached 0) [3] = false ∧ projection (.vproj 1 0) = some 1 ∧ cWaits attached = false
      ∧ Reaches attached (curWho attached) true false 64 (x attached 1) leafMem 0x20000
      ∧ Reaches attached (curWho attached) true false 64 (x attached 1 + 64) leafMem 0x20040
      ∧ (racing attached (curWho attached) leafMem 0x20000 64 = false ∧ poisoned attached 0x20000 64 = false ∧ isMemory 0x20000
        ∧ homeReached attached (curWho attached) 0x20000)
      ∧ (racing attached (curWho attached) leafMem 0x20040 64 = false ∧ poisoned attached 0x20040 64 = false ∧ isMemory 0x20040
        ∧ homeReached attached (curWho attached) 0x20040)
      ∧ (thr attached 0).vq = [] ∧ (5 : Fin 48).val < regCount (thr attached 0).cur
      ∧ groupsUsed (thr attached 0) + ([] : List Nat).sum ≤ 16 :=
  ⟨by decide +kernel, rfl, by decide +kernel, rfl, by decide +kernel, by decide +kernel, by decide +kernel, rfl, by decide +kernel,
    ⟨by decide +kernel, by decide +kernel, by decide +kernel, fun h => nomatch h⟩, ⟨by decide +kernel, by decide +kernel, by decide +kernel, fun h => nomatch h⟩,
    ⟨by decide +kernel, by decide +kernel, trivial, athome rfl rfl⟩, ⟨by decide +kernel, by decide +kernel, trivial, athome rfl rfl⟩, by decide +kernel, by decide +kernel, by decide +kernel⟩

theorem witness_ArrayCommands_drain :
    (∀ m, elemPsn (vreg (thr attached 0) 5) (vtBits (thr attached 0).vtype) m = false)
      ∧ (let cmd : FaCmd := { plainCommand attached 0 (.faDrain 1 3 (some 2)) with a0 := x attached 2, a1 := x attached 3, tokens := sameTokens (x attached 3) }
        let rs := drainRoutes attached (0 / 4) cmd (some 2)
        let rows := ctlRows (x attached 2) (ctx attached (0 / 4)).rows
        groupsUsed (thr attached 0) + ((drainEntries 0 (0 + rs.length * rows) rows rs).map (fun e => queueGroups e.vl e.width)).sum ≤ 16) :=
  ⟨fun m => psn_zero (by decide +kernel) _ m, by decide +kernel⟩

/-- A context whose queue holds an instruction of the thread of slot 0. -/
def busyCtx : State :=
  { attached with ctxs := [(0, { Ctx.init with holder := some 0, rows := 128, queue := [.cmd (plainCommand attached 0 .faCommit)] })] }

/-- A context with an accumulator tile that is not empty. -/
def filled : State :=
  { attached with ctxs := [(0, { Ctx.init with holder := some 0, rows := 128, acc := (Vector.replicate 8 AccTile.init).set 2 ⟨1, [], 0, 7⟩ })] }

/-- The leaf through which `State.withFetchWord` maps HBM. -/
abbrev leafFetch : Word := match translate (State.reset.withFetchWord 32 0) ⟨0, [], .x, issuerNow base 0 0, 0, none⟩ true false 1 0x20000 with | .ok (p, _) => p | _ => 0

/-- The load of an image of 256 zero bytes (eight entries of KIND 0) at 0x20000, in an address space whose tables map it. -/
def loadCmd : FaCmd :=
  { plainCommand base 0 (.faCfgld 1) with a0 := 0x20000, a1 := 256 }
def loading (done : Bool) : State :=
  { State.reset.withFetchWord 32 0xF8000000 with
    threads := [(0, plain 0x20000)], ctxs := [(0, { Ctx.init with load := some (loadCmd, done) })] }

theorem witness_ArrayAttachment :
    faQuiet base 0 = true ∧ (ctx base 0).holder = none ∧ faQuiet attached 0 = true ∧ (ctx attached (0 / 4)).holder = some 0 ∧ (2 : Fin 5) ≠ 0
      ∧ faQuiet busyCtx 0 = false ∧ (ctx filled (0 / 4)).holder = some 0 ∧ accPending filled 0 2 true = false ∧ accPending filled 0 2 false = false ∧ (ctx filled (0 / 4)).acc[(2 : Fin 8)].type ≠ tyE
      ∧ commitQueued attached 0 = false ∧ (ctx attached (0 / 4)).prog = none ∧ (ctx attached (0 / 4)).load = none
      ∧ loadCmd.iss.thread = 0 ∧ loadCmd.iss.bind = (thr (loading true) 0).bind
      ∧ loadCmd.iss.pc = pcOf (loading true) ∧ loadLive (loading false) loadCmd = true := by
  decide +kernel

/-- The same with every word of the image copied. -/
def copied : State := { loading false with ctxs := [(0, { Ctx.init with load := some (loadCmd, false), loading := some (8, 0) })] }

theorem witness_ArrayConfiguration :
    (ctx (loading true) (0 / 4)).load = some (loadCmd, true) ∧ loadCmd.instr = .faCfgld 1 ∧ (ctx (loading false) 0).load = some (loadCmd, false)
      ∧ loadLive (loading false) loadCmd = true ∧ loadLive copied loadCmd = true ∧ (ctx (loading false) 0).prog = none ∧ (ctx (loading false) 0).queue = []
      ∧ loadCmd.a0.toNat % 32 = 0 ∧ 256 ≤ loadCmd.a1.toNat ∧ loadCmd.a1.toNat ≤ 65536 ∧ loadCmd.a1.toNat % 32 = 0
      ∧ ((ctx (loading false) 0).loading.getD (0, 0)).1 < 256 / 32 ∧ 256 / 32 ≤ ((ctx copied 0).loading.getD (0, 0)).1 ∧ imgOk 0 256 = true := by
  decide +kernel

theorem witness_ArrayConfiguration_word :
    let w := whoF (loading false) 0 loadCmd.iss
    Reaches (loading false) w true false 1 (loadCmd.a0 + word (32 * 0)) leafFetch 0x20000 ∧ placeOf 0x20000 = .hbm 0
      ∧ racing (loading false) w leafFetch 0x20000 32 = false ∧ poisoned (loading false) 0x20000 32 = false ∧ homeReached (loading false) w 0x20000 :=
  ⟨⟨by decide +kernel, by decide +kernel, by decide +kernel, fun h => nomatch h⟩, by decide +kernel, by decide +kernel, by decide +kernel,
    ⟨by decide +kernel, .inl (by decide +kernel)⟩⟩

/-- Slot 0 in an address space whose tables map HBM, with a record at 0x20000: a nest of kind 0, and s1 at it. -/
def recorded (v : Nat) : State := writeMem { State.reset.withFetchWord 32 0xF8000000 with threads := [(0, plain 0x20000)] } 0x20000 64 v

theorem witness_CopyCommands :
    (engine base (engineNumber 0)).queue.length < 64 ∧ (copyForm base (.cpRed 1 2 3 0 1)).isSome = true
      ∧ recordForm (.cpNest 1) = some (1, false, 1) ∧ recordForm (.collAg 1 true) = some (10, true, 1)
      ∧ (match nestRead (whoX 0 (issuerNow (recorded 0) 0 0x10000)) 0x20000 (recorded 0) with | .ok (r, g, b) t => decide (r = 0 ∧ g = [] ∧ b = none ∧ accessed t (recorded 0) = recorded 0) | _ => false) = true
      ∧ (match collRead (whoX 0 (issuerNow (recorded 0) 0 0x10000)) 0x20000 (recorded 0) with | .ok (r, g, b) t => decide (r = 0 ∧ g.length = 1 ∧ b = none ∧ accessed t (recorded 0) = recorded 0
            ∧ collCheck t 0 { freshCopy (recorded 0) 0 2 10 with record := r, gtab := g } = none) | _ => false) = true
      ∧ (engine base (engineNumber 0)).armed.length < 16 := by
  decide +kernel

/-- As `recorded`, with a nest of one level, chunks of 32 bytes and one iteration; scratchpads are mapped too. -/
def nested : State :=
  writeMem (writeMem { State.reset.withFetchWord 32 0xF8000000 with threads := [(0, plain 0x20000)] } 0x20000 96 (1 + 32 * 2 ^ 64 + 2 ^ 512))
    0x30F0 8 (14 * 2 ^ 52 + 0xF0000000000 + 0x1F)

theorem witness_CopyCommands_arm :
    (match nestRead (whoX 0 (issuerNow nested 0 0x10000)) 0x20000 nested with | .ok (r, g, b) _ => decide (r = 1 + 32 * 2 ^ 64 + 2 ^ 512 ∧ g = [] ∧ b = none) | _ => false) = true
      ∧ (match armCheck (whoX 0 (issuerNow nested 0 0x10000)) { freshCopy nested 0 1 0 with record := 1 + 32 * 2 ^ 64 + 2 ^ 512 } 0xF0000000000 nested with
          | .ok pa _ => decide (pa = 0xF0000000000 ∧ barPhase (barRead nested pa) ≠ (x nested 3).getLsbD 0 ∧ barPhase (barRead nested pa) = (x nested 0).getLsbD 0)
          | _ => false) = true := by
  decide +kernel

/-- A gate at that object, awaited in phase 1 or phase 0. -/
def gated (phase : Word) : NmCmd :=
  { iss := issuerNow nested 0 0x10000, serial := 0, op := 5, a := 0x20000, a1 := 0, b := 0, b1 := 0, g := 0xF0000000000 + phase, g1 := 0, plain := false,
    gate := none, firedAt := 0, slot := false, ready := false, coef := 0, number := 0, gran := 0, done := 0, flags := 0, wrote := [], stop := none }

theorem witness_NearMemoryCommands_gate :
    (gated 1).g ≠ 0 ∧ nmGateBad (gated 1) = false
      ∧ (match nmObject (nmWho 0 (gated 1)) (nmGateAddr (gated 1)) nested with | .ok (o, t) => decide (o = 0xF0000000000 ∧ t = nested) | _ => false) = true
      ∧ barPhase (barRead nested 0xF0000000000) ≠ (gated 1).g.getLsbD 0 ∧ barPhase (barRead nested 0xF0000000000) = (gated 0).g.getLsbD 0 := by
  decide +kernel

theorem witness_NearMemoryCommands :
    nearForm (.nmFill 1 0 0) = some (5, 1, 0, 0) ∧ vPending (thr base 0) = false ∧ recallBusy 0 (gated 0) (mov 12) = false
      ∧ translate (mov 12) (curWho (mov 12)) true false 1 (x (mov 12) (pairLo 1)).toNat = .ok (leafMem, 0x30000) ∧ pteMc leafMem = false
      ∧ placeOf 0x30000 = .hbm 0 ∧ devOf 0x30000 = devOfDie (0 / 128) ∧ (nm (mov 12) 0).queue.length < 64 ∧ nmHeld (nm (mov 12) 0) < 32
      ∧ (thr base 0).snap = none := by
  decide +kernel

/-- A declaration block in common memory: records with one key byte and no value, an empty buffer, and s1 at the block. -/
def declaring : State := writeMem (at1 0xF0010000000) 0xF0010000000 256 64

theorem witness_QueueDeclarations :
    declaring.cur = .thread 0 ∧ cWaits declaring = false ∧ (x declaring 1).toNat % 256 = 0
      ∧ Reaches declaring (curWho declaring) true true 1 (x declaring 1) leafFab 0xF0010000000
      ∧ devOf 0xF0010000000 = devOfDie 0 ∧ placeOf 0xF0010000000 = .common (0 % 32) ∧ racing declaring (curWho declaring) leafFab 0xF0010000000 256 = false
      ∧ poisoned declaring 0xF0010000000 256 = false ∧ readMem declaring 0xF0010000000 256 = 64 ∧ 64 / 2 ^ 64 % 2 ^ 57 = 0 ∧ qdrBad declaring (devOfDie 0) 64 = false
      ∧ bufferOk declaring 0 (qdrQueue 0xF0010000000 64 (issuerNow declaring 0 (pcOf declaring)) none) 0 0 = true ∧ iqAt declaring 0 = none :=
  ⟨rfl, by decide +kernel, by decide +kernel, ⟨by decide +kernel, by decide +kernel, by decide +kernel, fun _ => by decide +kernel⟩,
    by decide +kernel, by decide +kernel, by decide +kernel, by decide +kernel, by decide +kernel, by decide, by decide +kernel, by decide +kernel, by decide +kernel⟩

/-- Queue 0 of die 0, declared; with a batch available or not. -/
def queued (avail : Bool) : State :=
  { declaring with iqs := [(0, some { qdrQueue 0xF0010000000 64 (issuerNow declaring 0 0x10000) none with avail := avail })], threads := [(0, plain 0)] }

theorem witness_QueueInstructions :
    (queueForm base (.iqDone 1)).isSome = true ∧ (queueForm (at1 (2 ^ 22)) (.iqClose 0 1)).map (fun f => f.2.2.2.2) = some false
      ∧ cWaits (queued true) = false ∧ x (queued true) 1 = 0
      ∧ (∃ q, queueNamed (queued true) 0 0 0 q ∧ q.tags = [] ∧ holdsBatch (queued true) 0 q = false ∧ q.avail = true)
      ∧ (∃ q, queueNamed (queued false) 0 0 0 q ∧ q.pend = 0 ∧ q.avail = false ∧ q.held = false ∧ q.qstate = 1 ∧ q.gdesc = none)
      ∧ (x declaring 1).toNat % 64 = 0 ∧ (x declaring 3).toNat < 2 ^ 16
      ∧ Reaches declaring (curWho declaring) true false 1 (x declaring 1) leafFab 0xF0010000000 ∧ placeOf 0xF0010000000 = .common 0
      ∧ racing declaring (curWho declaring) leafFab 0xF0010000000 16 = false ∧ poisoned declaring 0xF0010000000 16 = false
      ∧ homeReached declaring (curWho declaring) 0xF0010000000 ∧ (thr (deferred 15) 0).vdefer = true
      ∧ queueUse (thr (deferred 15) 0) (deferred 15) [] (thr (deferred 15) 0).vq < 16 := by
  refine ⟨rfl, by decide +kernel, by decide +kernel, by decide +kernel, ?_, ?_, by decide +kernel, by decide +kernel,
    ⟨by decide +kernel, by decide +kernel, by decide +kernel, fun h => nomatch h⟩, by decide +kernel, by decide +kernel, by decide +kernel, athome rfl rfl,
    by decide +kernel, by decide +kernel⟩
  · exact ⟨{ qdrQueue 0xF0010000000 64 (issuerNow declaring 0 0x10000) none with avail := true }, ⟨rfl, by decide +kernel⟩,
      by decide +kernel, by decide +kernel, by decide +kernel⟩
  · exact ⟨{ qdrQueue 0xF0010000000 64 (issuerNow declaring 0 0x10000) none with avail := false }, ⟨rfl, by decide +kernel⟩,
      by decide +kernel, by decide +kernel, by decide +kernel, by decide +kernel, by decide +kernel⟩

theorem witness_LinkInstructions :
    vPending (thr base 0) = false ∧ cWaits base = false ∧ Reaches base (curWho base) false true 8 (x base 1) leafMem 0x20000
      ∧ racing base (curWho base) leafMem 0x20000 8 = false ∧ QuietBytes base 0x20000 8 ∧ syncFor base (curWho base) leafMem 0x20000 = none
      ∧ isMemory 0x20000 ∧ devOf 0x20000 = devOfDie (0 / 128) ∧ homeReached base (curWho base) 0x20000 ∧ base.packets = [] ∧ pteChk leafPush = false
      ∧ pairFull base 0 1 = false ∧ barrierRefuses base 0x100000000000 8 0x100000000000 0x100000000008 = false ∧ releaseOpen base 3 ∧ devOf 0x100000000000 ≠ devOfDie (0 / 128)
      ∧ translate base (curWho base) true false 1 (x base 1).toNat = .ok (leafMem, 0x20000) ∧ lineBusy base 0x20000 = false ∧ cachesCurrent base
      ∧ AllAcked base 0 none ∧ (x base 3).toNat ≤ 255 ∧ AllAcked base 0 (some (x base 3).toNat) ∧ 255 < (x base 1).toNat ∧ (3 : Fin 32) ≠ 0 :=
  ⟨by decide +kernel, by decide +kernel, ⟨by decide +kernel, by decide +kernel, by decide +kernel, fun _ => by decide +kernel⟩, by decide +kernel,
    quiet0 rfl rfl rfl rfl rfl, by decide +kernel, trivial, by decide +kernel, athome rfl rfl, rfl, by decide +kernel, by decide +kernel, by decide +kernel, open_base,
    by decide +kernel, by decide +kernel, rfl, (fun _ h => nomatch h), acked (by decide +kernel) rfl rfl, by decide +kernel, acked (by decide +kernel) rfl rfl, by decide +kernel, by decide⟩

/-- A device whose domain has port 30 in place of a link, and device 0 at a multiple of 16: the reports of ports 30 and 31. -/
theorem witness_LinkInstructions_ports : (port30 base 0).testBit 5 = false ∧ devOfDie (0 / 128) % 16 = 0
    ∧ (port30 (writeMem base (windowBase 0 + 0x500088) 1 0x23) 0).testBit 5 = true ∧ port30 (writeMem base (windowBase 0 + 0x500088) 1 0x23) 0 % 32 < 30 := by
  decide +kernel
/-! ## Witnesses: the steps of the device and its surroundings -/

def wanted : State := one { plain 0 with preq := true }
def suspended : State := one { plain 0 with st := .suspended }
def halting : State := { base with devices := [(0, { Device.init with sec := 2 })] }
def halted : State := { one { plain 0 with st := .suspended, halted := true } with devices := [(0, { Device.init with sec := 2 })] }
def told : State := one { plain 0 with deliv := [⟨0x30, 0x9000, 4, 0⟩] }
def retiring : State :=
  { one { plain 0 with st := .retiring } with
    intake := [(0, ⟨0, BitVec.ofNat 512 (0x100000000000000000000000000000000000000000000000000000000000000000000), [], true, [0], 0, false, false, 0, [], [], none, false, 0⟩)] }

/-- A thread whose load of a configuration is in progress, to be pre-empted. -/
def heldLoad : State :=
  { loading false with threads := [(0, { plain 0x20000 with st := .waiting, preq := true })] }

/-- A core with an event ring of one page at 0x30000, and a record of its thread held. -/
def ringed : State :=
  let s := { State.reset.withFetchWord 32 0xF8000000 with threads := [(0, plain 0)] }
  { s with cores := [(0, { Core.init with fqBase := 0x30, fqEn := true, held := [⟨issuerNow s 0 0x10000, 0x30, [], .engine 0⟩] })] }

/-- A vector instruction on 32-bit integers at the head of the queue of a thread. -/
def striped (vl : Nat) (i : Instr) : State :=
  one { thr (vec 12 vl) 0 with vq := [queuedEntry (vec 12 vl) 0 i (0x200000000000000, 0, 0)] }

/-- A control block at 0x30000, an image of one code section of 8 bytes at 0x20000 as the installer reads it, a ready record of one
thread that names both, and a bind record of slot 0 for it. -/
def startRecord : BitVec 512 := BitVec.ofNat 512 (0x30000 * 2 ^ 128 + 0x20000)
def blocks : State :=
  { writeMem (writeMem (writeMem (State.reset.withFetchWord 32 0xF8000000)
      0x20000 256 (0x46594F42 + 2 ^ 32 + 128 * 2 ^ 48 + 2 ^ 74 + 2 ^ 80 + 256 * 2 ^ 288 + 128 * 2 ^ 320
        + (1 + 2 ^ 10 + 2 * 2 ^ 11 + 160 * 2 ^ 32 + 8 * 2 ^ 64) * 2 ^ 1024))
      0x30000 64 (1 + 255 * 2 ^ 32 + 16 * 2 ^ 128 + 16 * 2 ^ 144)) (bindAddr 0) 64 (2 ^ 22) with
    threads := [] }
def installed : Nat := readMem blocks 0x20000 256
def bindEntry : Intake := ⟨0, startRecord, [], true, [], 0, false, false, 0, [], [], none, false, installed⟩
def bindable : State := { blocks with intake := [(0, bindEntry)] }

/-- A slot to be saved at 0x40000. -/
def saving : State := writeMem suspended (bindAddr 0) 64 (0x40000 * 2 ^ 64)

theorem witness_ThreadEvents :
    isThread 0 = true ∧ (thr base 0).st = .running ∧ (thr suspended 0).st ≠ .running ∧ (thr suspended 0).st ≠ .waiting
      ∧ (thr wanted 0).preq = true ∧ landable wanted 0 = true ∧ (thr wanted 0).vq = [] ∧ (ctx wanted (0 / 4)).load = none
      ∧ (thr heldLoad 0).preq = true ∧ inLoad heldLoad 0 = some false ∧ elementBusy heldLoad 0 = false ∧ (ctx heldLoad (0 / 4)).ending = false ∧ scalarBusy told 0 = false ∧ (thr heldLoad 0).vq = []
      ∧ (thr suspended 0).halted = false ∧ haltReaches halting 0 = true ∧ (thr halting 0).st = .running
      ∧ haltReaches halted 0 = true ∧ (thr halted 0).st = .suspended ∧ (thr halted 0).halted = true
      ∧ canDeliver (thr told 0) = true ∧ (thr told 0).deliv = [⟨0x30, 0x9000, 4, 0⟩] ∧ (thr told 0).tvec ≠ 0
      ∧ (stopQueue 0 heldLoad).isSome = true ∧ (thr (one { plain 0 with st := .bound }) 0).restore = none
      ∧ (thr (one { plain 0 with st := .bound }) 0).killed = false
      ∧ restoreBad (writeMem (one { plain 0 with st := .bound, restore := some 0x40000 }) 0x40000 64 (1 + 2 ^ 18)) 0
          (readMem (writeMem (one { plain 0 with st := .bound, restore := some 0x40000 }) 0x40000 64 (1 + 2 ^ 18)) 0x40000 64) = false := by
  decide +kernel

theorem witness_ThreadEvents_more :
    (∃ h, (Machine.core ringed (0 / 4)).held = [h] ∧ fqFull (Machine.core ringed (0 / 4)) h.addrs.length = false ∧ recordBusy h.iss h.addrs.length ringed = false ∧ h.use = .engine 0 ∧ h.iss.thread = 0
        ∧ (match recordWrite h.iss h.record h.addrs (setCore ringed (0 / 4) { Machine.core ringed (0 / 4) with held := [] }) with
            | .ok (_, u) => stillBound u h.iss | .error _ => false) = true)
      ∧ (match vStep 0 (striped 2 (.vxor 3 1 2 0)) with | .done _ => true | _ => false) = true ∧ stripOrder (striped 2 (.vxor 3 1 2 0)) (0 / 4) = [0]
      ∧ (match vStep 0 (striped 65 (.vxor 3 1 2 0)) with | .more u => !(thr u 0).vq.isEmpty | _ => false) = true
      ∧ (match vStep 0 (striped 2 (.vld 3 1 0 0 false false)) with | .fault _ => true | _ => false) = true
      ∧ asyncBusy retiring 0 = false ∧ (thr retiring 0).st = .retiring
      ∧ (∃ n, intakeAt retiring (devOfDie (0 / 128)) (thr retiring 0).entry = some n ∧ n.refused = false ∧ n.ended ≠ recNthr n.record)
      ∧ ((thr retiring 0).deliv = [] ∧ (thr retiring 0).forkFaults = [])
      ∧ asyncBusy saving 0 = false ∧ ((thr saving 0).st = .suspended ∧ (thr saving 0).forks = [] ∧ (thr saving 0).forkFaults = []
          ∧ (thr saving 0).deliv = [] ∧ (thr saving 0).heldTrap = false ∧ (thr saving 0).owed = none)
      ∧ intakeAt saving (devOfDie (0 / 128)) (thr saving 0).entry = none
      ∧ (let pa := bindRead saving 0 / 2 ^ 64 % 2 ^ 52;
          pa % 4096 = 0 ∧ savePlace pa = true ∧ savePlace (pa + saveSize saving 0 - 1) = true) := by
  refine ⟨⟨_, rfl, by decide +kernel, by decide +kernel, rfl, rfl, by decide +kernel⟩, by decide +kernel, by decide +kernel, by decide +kernel,
    by decide +kernel, by decide +kernel, by decide +kernel, ⟨_, rfl, by decide +kernel, by decide +kernel⟩, by decide +kernel, by decide +kernel, by decide +kernel,
    by decide +kernel, by decide +kernel⟩

theorem witness_ThreadEvents_bind :
    (thr bindable 0).st = .free ∧ intakeAt bindable 0 (bindRead bindable 0 % 1024) = some bindEntry ∧ bindBad bindable 0 (bindRead bindable 0) bindEntry = false
      ∧ installed ≠ 0 ∧ (claimsTiles startRecord installed && tilesTaken bindable 0) = false
      ∧ installed / 2 ^ 64 % 16 ≤ grantedLog startRecord installed (bindRead bindable 0 / 2 ^ 22 % 16) (bindRead bindable 0 / 2 ^ 26 % 16) := by
  decide +kernel
def tile (v : Nat) : State := writeMem base (tileAddr 0 0) 32 v

theorem witness_TileAndWindowEvents :
    isTile 0 0 = true ∧ tileState (tileEntry base 0 0) = 0 ∧ (32 * 2 ^ 32 : BitVec 64).toNat / 2 ^ 22 % 2 ^ 10 = 0
      ∧ (32 * 2 ^ 32 : BitVec 64).toNat / 2 ^ 55 = 0 ∧ tileBase (32 * 2 ^ 32 : BitVec 64).toNat % 32 = 0 ∧ tileSize (32 * 2 ^ 32 : BitVec 64).toNat % 32 = 0
      ∧ tileBase (32 * 2 ^ 32 : BitVec 64).toNat + tileSize (32 * 2 ^ 32 : BitVec 64).toNat ≤ 0x400000
      ∧ tileState (tileEntry (tile (2 ^ 64)) 0 0) ≠ 0 ∧ tileState (tileEntry (tile (2 * 2 ^ 64)) 0 0) = 2
      ∧ tileState (tileEntry (tile (2 ^ 64 + 32 * 2 ^ 32 + 32 * 2 ^ 96)) 0 0) = 1
      ∧ tileFilled (tileEntry (tile (2 ^ 64 + 32 * 2 ^ 32 + 32 * 2 ^ 96)) 0 0) = tileSize (tileEntry (tile (2 ^ 64 + 32 * 2 ^ 32 + 32 * 2 ^ 96)) 0 0)
      ∧ tileWriting base 0 0 = false ∧ tileState (tileEntry (tile (3 * 2 ^ 64)) 0 0) = 3 ∧ tileReading base 0 0 = false ∧ 0 ∉ (cluster base 0).unfilled
      ∧ (ctx { base with ctxs := [(0, { Ctx.init with tileWait := some (5, 2) })] } 0).tileWait = some (5, 2) ∧ base.devices = [] := by
  decide +kernel

def forkedProgram : Prog := ⟨{ Seq.init with pc := 0x10000 }, 7, issuerNow base 0 0x10000⟩
def aCopy : CopyCmd := { freshCopy base 0 0 0 with src := 0x20000, sctl := 0x10000000, dst := 0x30000, dctl := 0x400000000 }
def member (me : Nat) : Coll :=
  { cmd := { aCopy with record := 1 + 256 * me, kind := 2, gtab := [0, 4] }, ready := [], start := none, started := false, got := 0, data := 0,
    inbox := [], out := none, put := 0, table := none, pos := 0, gran := 0, abort := none }
def filling : NmCmd := { gated 0 with a1 := 1, g := 0 }
def aBank : Bank := { addr := 0x20000, len := 256, data := 0, rid := 1, asid := 0, sig := 0, beta := Vector.replicate 8 8, failed := false }
def nmWith (n : Nm) : State := { base with nms := [(0, n)] }
def engWith (e : Engine) : State := { base with engines := [(0, e)] }

def gathering : State := engWith { Engine.init with colls := [member 0, member 1] }

/-- An address space whose tables map HBM. -/
def mapped : State := { State.reset.withFetchWord 32 0xF8000000 with threads := [(0, plain 0)] }

/-- The same with a started copy at the head of its engine's queue; a context with an instruction of the thread's and a bank; a near-memory
engine with a command that runs. -/
def startedCopy : CopyCmd := { aCopy with started := true }
def copying : State := { mapped with engines := [(0, { Engine.init with queue := [startedCopy] })] }
def committing : State := { busyCtx with ctxs := [(0, { ctx busyCtx 0 with shadow := some aBank })] }
def fillingNow : State := { mapped with nms := [(0, ⟨[], [], some filling, 0⟩)] }
def firedGate : NmCmd := { filling with gate := some (0xF0000000000, true), firedAt := 1 }

theorem witness_EngineEvents :
    (tabGet [] [(0, [forkedProgram])] 0 = forkedProgram :: [] ∧ (engine onEngine (0 * 4 + 1)).prog = none ∧ ∀ j, j < 1 → (engine onEngine (0 * 4 + j)).prog ≠ none)
      ∧ (ctx committing 0).load = none ∧ (ctx committing 0).prog = none ∧ (ctx committing 0).queue = [.cmd (plainCommand attached 0 .faCommit)]
      ∧ (match faRun 0 (plainCommand attached 0 .faCommit) committing with | .done _ => true | _ => false) = true
      ∧ ((engine (engWith { Engine.init with armed := [⟨0xF0000000000, true, true, aCopy⟩] }) 0).armed[0]?.map (fun a => a.fired) = some true
        ∧ fireHeld base aCopy.iss.rdom (some 0xF0000000000) = false)
      ∧ (((nm (nmWith ⟨[], [firedGate], none, 0⟩) 0).gates)[0]?.map (fun c => c.ready) = some false
        ∧ fireHeld base filling.iss.rdom (some 0xF0000000000) = false ∧ recallBusy 0 firedGate (nmWith ⟨[], [firedGate], none, 0⟩) = false)
      ∧ aCopy.kind = 0 ∧ aCopy.started = false ∧ cpCheck aCopy = none ∧ cpTile aCopy = none ∧ aCopy.bar = none
      ∧ (match barOf (whoX 0 aCopy.iss) aCopy.bar base with | .ok _ _ => true | _ => false) = true
      ∧ (engine copying 0).queue = [startedCopy] ∧ startedCopy.lost = none ∧ startedCopy.stop = none ∧ (engine copying 0).colls = []
      ∧ (match walkUnits (cpUnit (whoX 0 startedCopy.iss)) ((cpUnits startedCopy 0).filter (fun v => decide (startedCopy.gran ≤ v.gran))) startedCopy copying with
          | .all c u => !sentPending u c && c.bar.isNone && decide (c.done = 64) | _ => false) = true
      ∧ (collAt gathering 0 0 (fun l => collMe l.cmd == 0 && !l.ready.contains 1 && decide (1 < collN l.cmd) && memberIssued gathering 0 l.cmd.gtab 1)).isSome = true
      ∧ (setInsert 1 (member 0).ready).length ≠ collN (member 0).cmd ∧ (setInsert 1 [0]).length = collN (member 0).cmd
      ∧ (match startCode 0 (member 0) gathering with | .ok _ _ => true | _ => false) = true := by
  decide +kernel

/-- A started collective, and one of tag 1 behind it. -/
def begun (tag : Nat) : Coll := let m := member 0; { m with cmd := { m.cmd with record := m.cmd.record + 2 ^ 32 * tag }, started := true }

theorem witness_EngineEvents_members :
      (collAt (engWith { Engine.init with colls := [{ member 0 with start := some 0 }] }) 0 0 (fun l => l.start.isSome && !l.started)).isSome = true
      ∧ (collAt (engWith { Engine.init with colls := [{ member 0 with abort := some 0x71 }] }) 0 0 (fun l => l.abort == some 0x71)).isSome = true
      ∧ (engine (engWith { Engine.init with colls := [begun 0, begun 1] }) 0).colls = [begun 0, begun 1] ∧ (begun 0).started = true
      ∧ (begun 1).started = true ∧ collTag (begun 1).cmd ≠ collTag (begun 0).cmd
      ∧ nmCheck filling = none ∧ filling.op ≠ 0 ∧ filling.g = 0 ∧ filling.g1 = 0 ∧ filling.gate = none
      ∧ (nm (nmWith ⟨[filling], [], none, 0⟩) 0).queue = filling :: [] ∧ (nm fillingNow 0).active = some filling
      ∧ filling.stop = none ∧ filling.gran < nmGrans filling ∧ (match nmGranule 0 filling fillingNow with | .ok _ => true | .error _ => false) = true
      ∧ nmGrans { filling with gran := 1, wrote := [0x800] } ≤ 1 ∧ lineBusy base (64 * 0x800) = false ∧ (thr base filling.iss.thread).bind = filling.iss.bind
      ∧ barPlace 0xF0000000000 = true ∧ (barApply (.complete 1) (barRead base 0xF0000000000)).map Prod.snd = some false
      ∧ (barApply (.complete 1) (barRead (writeMem base 0xF0000000000 16 (2 ^ 32)) 0xF0000000000)).map (fun p => p.2 && !barClk p.1) = some true := by
  decide +kernel

theorem witness_EngineEvents_more :
    (ctx { base with ctxs := [(0, { Ctx.init with queue := [.start forkedProgram], shadow := some aBank, live := some aBank })] } 0).live = some aBank
      ∧ (match imgCopy (whoF (loading false) 0 (bankIssuer aBank)) aBank.addr (aBank.len / 32) 0 (loading false) with
          | .ok v => decide (v = 0) | .error _ => false) = true
      ∧ signature aBank.rid aBank.len 0 ≠ aBank.sig ∧ signature aBank.rid aBank.len 0 = { aBank with sig := signature 1 256 0 }.sig
      ∧ (tagOf { base with tags := [(0x800, ⟨1, 1, 2, 9⟩)] } 0x800).dom ≠ 0
      ∧ (tagOf { base with tags := [(0x800, ⟨1, 1, 2, 9⟩)] } 0x800).gen ≠ (dom base 1).gen ∧ (dom base 1).due = false := by
  decide +kernel

/-- Line 0x800 of die 0 with a directory entry and a copy in die 1's LLC. -/
def lined (e : DirEntry) (c : Option LlcLine) : State := { base with dir := [(0x800, e)], llc := [(2 ^ 46 + 0x800, c)] }

theorem witness_CoherenceEvents :
    isHbmLine 0x800 = true ∧ isDie 1 = true ∧ ((dirEntry base 0x800).req = none ∧ (dirEntry base 0x800).queue = [])
      ∧ invTargets base 0x800 1 = [] ∧ invTargets (lined { DirEntry.init with sharers := [1] } none) 0x800 0 ≠ []
      ∧ (dirEntry (lined { DirEntry.init with req := some (.readShared, 1) } none) 0x800).req ≠ none
      ∧ ((dirEntry (lined { DirEntry.init with req := some (.readShared, 1) } none) 0x800).acks = []
        ∧ (dirEntry (lined { DirEntry.init with req := some (.readShared, 1) } none) 0x800).queue = [])
      ∧ 1 ∈ (dirEntry (lined { DirEntry.init with acks := [1] } (some ⟨.shared, none, 0⟩)) 0x800).acks
      ∧ llcCopy (lined DirEntry.init (some ⟨.shared, none, 0⟩)) 1 0x800 = some ⟨.shared, none, 0⟩
      ∧ (dirEntry (lined { DirEntry.init with acks := [1], req := some (.readExclusive, 2) } none) 0x800).acks = [1]
      ∧ llcCopy (lined { DirEntry.init with acks := [1, 3], req := some (.readExclusive, 2) } none) 1 0x800 = none
      ∧ llcCopy (lined DirEntry.init (some ⟨.modified, none, 0⟩)) 1 0x800 = some ⟨.modified, none, 0⟩
      ∧ (0x800 : Nat) = 0 * 2 ^ 38 + 0x800 % 2 ^ 38 ∧ base.llc = [] := by
  decide +kernel

theorem witness_CoherenceEvents_room : llcHasRoom base 1 ∧ cachesCurrent base := ⟨by unfold llcHasRoom; decide +kernel, fun _ h => nomatch h⟩

/-- A push write of 8 bytes from die 0 to device 1, performed or not. -/
def pushed (k : PacketKind) (done : Bool) : Packet :=
  { id := 1, die := 0, dest := 1, path := 0, seq := 0, epoch := 0, kind := k, cpath := true, vpath := false, iss := issuerNow base 0 0x10000,
    pieces := [(0x100000000100, 8, 5)], ppush := true, performed := done, gone := false }
def flying (k : PacketKind) (done : Bool) : State := { base with packets := [pushed k done], pairs := [(1, { Pair.init with next := 1 })] }

theorem witness_FabricEvents :
    packetAt (flying .push false) 1 = some (pushed .push false) ∧ canPerform (flying .push false) (pushed .push false) = true
      ∧ canPerform (flying .flag false) (pushed .flag false) = true
      ∧ canPerform (flying .push false) { pushed .push false with epoch := 1 } = false
      ∧ (match placeOf 0x100000000100 with | .hbm _ => true | _ => false) = true ∧ (flying .push false).barriers = [] ∧ declared (flying .push false) = []
      ∧ (pushed .push true).performed = true ∧ packetAt (flying .push true) 1 = some (pushed .push true) ∧ (pushed .push false).gone = false
      ∧ [0, 1, 2, 3].any (pathUp (flying .push false) (devOfDie 0) 1) = true
      ∧ [0, 1, 2, 3].any (pathUp { flying .push false with linksDown := List.range 32 } (devOfDie 0) 1) = false
      ∧ isPort base 0 0 = true ∧ base.packets = [] ∧ isDie 0 = true ∧ inDomain base (devOfDie 0) 1 = true ∧ (1 : Nat) ≠ devOfDie 0
      ∧ (pair base 0 1).lost = false ∧ base.iqs = [] := by
  decide +kernel

def arriving (k : IqKind) : IqPacket := { id := 1, die := 0, queue := 3, handle := 0, slot := 0, batch := 0, vc := 0, epoch := 0, kind := k, gone := false }
def waitingQueue (f : Iq → Iq) (p : List IqPacket) : State :=
  { declaring with iqs := [(0, some (f (qdrQueue 0xF0010000000 64 (issuerNow declaring 0 0x10000) none)))], iqPackets := p }

theorem witness_QueueEvents :
    (∀ k ∈ [IqKind.record ⟨0, 0, 5, false⟩, IqKind.marker 1],
        (match arrival (arriving k) (waitingQueue id [arriving k]) with
          | .ok (key, q, u) => decide (key = 0) && !batchShut q 0 0 && hayRoom u 0 && (stageOf' q (arriving k)).need.isNone && !batchFar q 0
              && decide (1 ≠ (stageOf' q (arriving k)).recs.length)
          | .error _ => false) = true)
      ∧ (iqPacketAt (waitingQueue id [arriving .ack]) 1).isSome = true ∧ iqAt (waitingQueue id [arriving .ack]) (0 * 256 + 3) = none
      ∧ (iqAt (waitingQueue id [{ arriving .ack with queue := 0 }]) 0).map frontDue = some false
      ∧ (iqAt (waitingQueue id []) 0).map deliverable = some false
      ∧ (iqAt (waitingQueue (fun q => { q with front := 1 }) []) 0).map deliverable = some true
      ∧ (iqAt (waitingQueue (fun q => { q with front := 1 }) []) 0).map (fun q =>
          bufferOk (waitingQueue (fun q => { q with front := 1 }) []) 0 q (iqDbuf (waitingQueue id []) q) (32 * iqDcap (waitingQueue id []) q)
            && decide ((deliveredOf q q.nextd).length ≤ iqDcap (waitingQueue id []) q)) = some true
      ∧ (iqAt (waitingQueue (fun q => { q with front := 1, recs := [⟨0, 0, 5, false⟩] }) []) 0).map (fun q =>
          deliverable q && decide (iqDcap (waitingQueue id []) q < (deliveredOf q q.nextd).length)) = some true
      ∧ (iqAt (waitingQueue (fun q => { q with qstate := 2 }) []) 0).map (fun q => q.qstate) = some 2 := by
  decide +kernel

def hosted (v : Nat) : State := writeMem base (hqAddr 0 0) 32 v
/-- A record in the intake whose dependences lie at 0x40000 and up. -/
def depending (n : Nat) (cond : Nat) (v : Nat) : State :=
  { writeMem bindable 0x40000 8 v with
    intake := [(0, ⟨0, BitVec.ofNat 512 (0x30000 * 2 ^ 128 + 0x40000 * 2 ^ 192 + cond * 2 ^ 265 + n * 2 ^ 266), [], false, [], 0, false, false, 0, [], List.range n, none, false, 0⟩)] }
def signalIs (s : State) (v : Nat) : Bool :=
  match intakeAt s 0 0 with
  | some n => (match signalLoad 0 (recRcb n.record) (depAddr n.record 0) s with | .ok w _ => decide (w = v) | _ => false)
      && (match signalLoad 0 (recRcb n.record) (sigAddr n.record (recF n.record 383 352)) s with | .ok w _ => decide (w = v) | _ => false)
  | none => false

theorem witness_DispatchAndPageEvents :
    hqEn (hqRead (hosted (2 ^ 68)) 0 0) = true ∧ hqBad (hqRead (hosted (2 ^ 68)) 0 0) = true
      ∧ hqEn (hqRead (hosted (2 ^ 68 + 4 * 2 ^ 64 + 2 ^ 96)) 0 0) = true ∧ hqBad (hqRead (hosted (2 ^ 68 + 4 * 2 ^ 64 + 2 ^ 96)) 0 0) = false
      ∧ hqPending (hqRead (hosted (2 ^ 68 + 4 * 2 ^ 64 + 2 ^ 96)) 0 0) ≠ 0
      ∧ (intakeEnter 0 (BitVec.ofNat 512 (readMem (hosted (2 ^ 68 + 4 * 2 ^ 64 + 2 ^ 96)) 0 64)) (hosted (2 ^ 68 + 4 * 2 ^ 64 + 2 ^ 96))).isSome = true
      ∧ signalIs (depending 1 0 0) 0 = true ∧ signalIs (depending 2 0 1) 1 = true ∧ signalIs (depending 1 0 7) 7 = true
      ∧ (intakeAt (depending 2 0 1) 0 0).map (fun n => decide (n.ready = false ∧ n.reading = false ∧ n.ending = none ∧ (setInsert 0 n.seen).length ≠ recNdep n.record)) = some true
      ∧ (intakeAt (depending 1 0 1) 0 0).map (fun n => decide ((setInsert 0 n.seen).length = recNdep n.record ∧ recCond n.record = false)) = some true
      ∧ (intakeAt (depending 0 1 0) 0 0).map predicateDue = some true ∧ signalIs (depending 0 1 0) 0 = true ∧ signalIs (depending 0 1 5) 5 = true
      ∧ walk base 0 0 0x10000 = none ∧ (walk bindable 0 0 0x10000).isSome = true ∧ isDie (0 / 32) = true ∧ (0x10000 : Nat) < 2 ^ 57
      ∧ granuleDie 0x800 = some 0 ∧ poisoned base (64 * 0x800) 64 = false := by
  decide +kernel

/-- A control block at 0x30000 whose map at 0x50000 has one entry: the word at 0x1000, replaced by the `loop` word at 0x50080. -/
def remapping : State :=
  writeMem (writeMem (writeMem (writeMem bindable 0x30028 8 0x50000) 0x50000 2 1) 0x50040 16 (0x1000 + 0x50080 * 2 ^ 64)) 0x50080 4 (0x0D * 2 ^ 26)

theorem witness_DispatchAndPageEvents_map :
    rcbRead bindable 0x30000 % 2 ^ 20 ≠ 0 ∧ rcbRead bindable 0x30000 / 2 ^ 320 % 2 ^ 64 = 0
      ∧ (let va := rcbRead remapping 0x30000 / 2 ^ 320 % 2 ^ 64
        let w := dispatchWho remapping (devOf 0x30000) 0x30000
        va ≠ 0 ∧ (match mapOf w va remapping with
          | .ok r u => r == some ([(0x1000, 0x50080, 0x34000000)], 0) && u.mem == remapping.mem
              && (match translate u w false false 1 va with
                | .ok (_, pa) => decide (pa = 0x50000 ∧ placeOf pa ≠ .hostAperture ∧ (pa + 4 ≤ 0x30000 ∨ 0x30000 + 64 ≤ pa))
                | .error _ => false)
          | _ => false) = true) := by
  decide +kernel

/-- A page copied on write at the scratchpads' address, and the pool of `n` entries. -/
def cowed (n : Nat) : State :=
  writeMem (writeMem bindable 0x30F0 8 (14 * 2 ^ 52 + 0xF0000000000 + 0x11F)) (poolAddr 0 14) 16 (4 * 2 ^ 52 + n * 2 ^ 64)

/-- A page of 4096 bytes at 0x40000 copied on write, mapped at 2^39 through tables at 0x5000 up, and a pool whose page lies at 0x50000. -/
def smallCow : State :=
  writeMem (writeMem (writeMem (writeMem (writeMem (writeMem bindable 0x3008 8 0x5001) 0x5000 8 0x6001) 0x6000 8 0x7001) 0x7000 8 0x4011F)
    (poolAddr 0 0) 16 (0x9000 + 4 * 2 ^ 52 + 2 ^ 96)) 0x9000 8 0x50001

theorem witness_DispatchAndPageEvents_cow :
    copyBusy smallCow 0 0 (2 ^ 39) = false ∧ walk smallCow 0 0 (2 ^ 39) = some (0x4011F, 0, 0x7000) ∧ pteCow 0x4011F = true ∧ pteWr 0x4011F = true
      ∧ poolNext smallCow 0 (pteSize 0x4011F) = some 0x9000 ∧ pageBytes 0x4011F = 4096 ∧ ptePa 0x4011F = 0x40000 ∧ readMem smallCow 0x9000 8 / 2 ^ 12 % 2 ^ 40 * 4096 = 0x50000
      ∧ apart [(0x50000, 4096), (0x40000, 4096), (firstReplica 0x4011F 0x7000, 8 * replicas (pteSize 0x4011F)), (0x9000, 8), (poolAddr 0 (pteSize 0x4011F), 16),
          (windowBase 0 + 0x300008, 8)]
      ∧ ∀ j, j < 4096 → (∃ d, placeOf (0x50000 + j) = .hbm d) ∧ ∃ d, placeOf (0x40000 + j) = .hbm d := by
  refine ⟨by decide +kernel, by decide +kernel, by decide +kernel, by decide +kernel, by decide +kernel, by decide +kernel, by decide +kernel, by decide +kernel,
    by unfold apart; decide +kernel, fun j hj => ⟨⟨0, ?_⟩, ⟨0, ?_⟩⟩⟩ <;>
  · unfold placeOf localOf
    rw [Nat.mod_eq_of_lt (by omega), if_pos (by omega), Nat.mod_eq_of_lt (by omega), if_pos (by omega), Nat.div_eq_of_lt (by omega)]

theorem witness_DispatchAndPageEvents_units :
    copyBusy (cowed 0) 0 0 0xF0000000000 = false
      ∧ (walk (cowed 0) 0 0 0xF0000000000).map (fun p => pteCow p.1 && pteWr p.1 && (poolNext (cowed 0) 0 (pteSize p.1)).isNone) = some true
      ∧ (cowPerform 0 0 0x10000 (cowed 0)).isSome = true
      ∧ (readMem base (tuBase 0 + 0x10) 16 / 2 ^ 22 % 2 ^ 42 = 0 ∧ readMem base (tuBase 0 + 0x10) 16 / 2 ^ 121 % 2 ^ 7 = 0)
      ∧ readMem base (tuBase 0 + 0x40) 32 / 2 ^ 128 % 2 ^ 32 = 0
      ∧ (let s := writeMem base (tuBase 0 + 0x40) 32 (2 ^ 128 + 2 ^ 160)
        let c := readMem s (tuBase 0 + 0x40) 32
        c / 2 ^ 16 % 2 ^ 48 = 0 ∧ c / 2 ^ 121 % 2 ^ 7 = 0 ∧ c / 2 ^ 128 % 2 ^ 32 ≠ 0 ∧ c / 2 ^ 160 % 2 ^ 32 = 1
          ∧ (snapLeaves s 0 (BitVec.ofNat 16 c) (c / 2 ^ 64 % 2 ^ 57 + 4096 * (c / 2 ^ 128 % 2 ^ 32)) (c / 2 ^ 128 % 2 ^ 32) (c / 2 ^ 64 % 2 ^ 57)).length ≤ 1
          ∧ (snapLeaves (writeMem s (tuBase 0 + 0x60) 1 1) 0 (BitVec.ofNat 16 c) (c / 2 ^ 64 % 2 ^ 57 + 4096 * (c / 2 ^ 128 % 2 ^ 32)) (c / 2 ^ 128 % 2 ^ 32)
              (c / 2 ^ 64 % 2 ^ 57)).any (fun q => (readMem (writeMem s (tuBase 0 + 0x60) 1 1) (firstReplica q.1 q.2) 8).testBit 11) = false
          ∧ s.packets = [] ∧ (∀ p ∈ s.threads, ∀ e ∈ p.2.vq ++ p.2.parked, e.pushes = []) ∧ tabGet 0 s.snapWaits 0 = 0)
      ∧ poisoned { base with latent := [0xF0000000000 / 64] } 0xF0000000000 64 = true ∧ (match placeOf 0xF0000000000 with | .hbm _ => false | _ => true) = true := by
  decide +kernel

def device0 (v : Device) : State := { base with devices := [(0, v)] }
def powered (n : Nat) (v : Device) : State := writeMem (device0 v) (windowBase 0) 8 n
def asleep : Device := { Device.init with running := some 0, awake := sha512 0 0 }

theorem witness_HostAndDeviceEvents :
    (requestHeld base base.waiting (.write false 0x20000 [5]) = false ∧ requestHeld base [.write false 0x20000 [5]] (.write false 0x20000 [5]) = true)
      ∧ pathReaches base false 0x80000000000 = false ∧ (match placeOf 0x20000 with | .hbm d => d == 0 | _ => false) = true
      ∧ (pathReaches base false 0x20000 = true ∧ pathReaches base true 0x20000 = true ∧ pathReaches base false (windowBase 0 + 8) = true)
      ∧ base.llc = [] ∧ poisoned base 0x20000 8 = false ∧ requestHeld base base.waiting (.read 0x20000 8) = false
      ∧ requestHeld base base.waiting (.atomic 3 true 0x20000 1 0) = false
      ∧ (∃ h ∈ tabGet [] [(0, [(⟨0x80000000000, 0, 8, 0, 0, 0, none⟩ : HostWait)])] 0, h.answer = none)
      ∧ powerIdle State.reset 0 = true ∧ powerState State.reset 0 < 4 ∧ powerIdle base 0 = false ∧ powerState (powered 4 Device.init) 0 = 4
      ∧ (device (powered 4 Device.init) 0).prior < 8 ∧ (device base 0).running = none ∧ dbgOf base 0 = 0 ∧ (secstat base 0).testBit 4 = false
      ∧ (device (device0 { Device.init with report := some 0 }) 0).report = some 0 ∧ (device base 0).token = none
      ∧ (device (device0 { Device.init with token := some 0 }) 0).token = some 0 ∧ tokenGood base 0 0 = false ∧ dbgOf (writeMem base (debugBase 0) 1 1) 0 ≠ 0
      ∧ (device (device0 { Device.init with running := some 0 }) 0).sec = 0 ∧ (device (device0 { Device.init with running := some 0 }) 0).running ≠ none
      ∧ (device (device0 { Device.init with running := some 0, signed := true }) 0).signed = true ∧ (device (device0 { Device.init with sec := 2 }) 0).sec = 2 := by
  decide +kernel

theorem witness_HostAndDeviceEvents_d2 :
    powerState (powered 6 asleep) 0 = 6 ∧ (device (powered 6 asleep) 0).running ≠ none
      ∧ poisoned (powered 6 asleep) (firmwareBase 0) (device (powered 6 asleep) 0).imageLen = false
      ∧ sha512 (device (powered 6 asleep) 0).imageLen (readMem (powered 6 asleep) (firmwareBase 0) (device (powered 6 asleep) 0).imageLen)
          = (device (powered 6 asleep) 0).awake
      ∧ powerState (powered 6 Device.init) 0 = 6 ∧ (device (powered 6 Device.init) 0).running = none :=
  ⟨by decide +kernel, by decide +kernel, rfl, rfl, by decide +kernel, by decide +kernel⟩

/-- A locked device that runs firmware takes the vendor's signature over a key, or refuses another. -/
theorem witness_HostAndDeviceEvents_owner (key : BitVec 256) (sig : BitVec 512) :
    (device (device0 asleep) 0).sec = 0 ∧ (device (device0 asleep) 0).running ≠ none
      ∧ (ed25519Verify Config.vendorKey 32 key.toNat sig = true ∨ ed25519Verify Config.vendorKey 32 key.toNat sig = false) :=
  ⟨rfl, by simp [device0, asleep, device, tabGet], (Bool.eq_false_or_eq_true _)⟩

/-- A device in Manufacturing whose identity seed and nonce are known, and a token for it that asks for a session of kind 1. -/
def tokened : State :=
  { device0 { Device.init with sec := 2, idseed := some 1 } with mem := (List.range 32).map (fun i => ⟨debugBase 0 + 0x20 + i, 0⟩) }

theorem witness_HostAndDeviceEvents_token :
    let tok := 2 ^ 8 + (idpubOf tokened 0).toNat * 2 ^ 64
    tokenGood tokened 0 tok = true ∧ (tok / 2 ^ 8 % 4 = 1 ∨ (device tokened 0).sec = 2) := by
  decide +kernel
/-! ## Witnesses: results of the array, of copies and of the near-memory engines -/

/-- An image of six entries: matrices of 1 and 8 rows of bf16, stages of one 2 by 2 block in bf16, bfp16 and n32, and a vector of f32. -/
def results : Bank :=
  { aBank with
    len := 3168
    data := (1 + 2 ^ 4 + 8 * 2 ^ 32) + (1 + 2 ^ 4 + 7 * 2 ^ 16 + 16 * 2 ^ 32) * 2 ^ 256 + (2 + 2 ^ 4 + 80 * 2 ^ 32) * 2 ^ 512
      + (2 + 9 * 2 ^ 4 + 3 * 2 ^ 9 + 81 * 2 ^ 32) * 2 ^ 768 + (2 + 16 * 2 ^ 4 + 82 * 2 ^ 32) * 2 ^ 1024 + (3 + 83 * 2 ^ 32) * 2 ^ 1280 }

/-- A context of one row with that image, a modulus, tile 2 of a type, and an instruction of the thread's at its head. -/
def working (ty : Fin 8) (i : Instr) (a0 c0 c1 : Word) : State :=
  let s : State := { one { plain 0x20000 with tiles := true } with clusters := [(0, { Cluster.init with tlb := pages })], ctxs := [(0, { Ctx.init with holder := some 0, rows := 1 })] }
  let m : FaCmd := { plainCommand s 0 i with a0 := a0, c0 := c0, c1 := c1 }
  { s with ctxs := [(0, { ctx s 0 with live := some results, modulus := some 65537#31, queue := [.cmd m]
                                       acc := ((Vector.replicate 8 AccTile.init).set 2 ⟨ty, [], 0, 0⟩).set 3 ⟨ty, [], 0, 0⟩ })] }
def headCmd (s : State) : FaCmd := match (ctx s 0).queue with | .cmd m :: _ => m | _ => plainCommand s 0 .faCommit
def commits (s : State) : Bool := match faRun 0 (headCmd s) s with | .done u => decide ((ctx u 0).row = (ctx s 0).row + 1) | _ => false

def performs (s : State) : Bool := match faRun 0 (headCmd s) s with | .done _ => true | _ => false

theorem commitsRow {s : State} (h : commits s = true) (h1 : (ctx s 0).load = none) (h2 : (ctx s 0).prog = none)
    (h3 : (ctx s 0).queue.head? = some (.cmd (headCmd s))) : ∃ u, CommitsRow s 0 (headCmd s) u := by
  unfold commits at h
  cases hr : faRun 0 (headCmd s) s with
  | done u => exact ⟨u, h1, h2, h3, .inl hr, by simpa [hr] using h⟩
  | _ => simp [hr] at h

theorem performsAll {s : State} (h : performs s = true) (h1 : (ctx s 0).load = none) (h2 : (ctx s 0).prog = none)
    (h3 : (ctx s 0).queue.head? = some (.cmd (headCmd s))) : ∃ u, Performs s 0 (headCmd s) u := by
  unfold performs at h
  cases hr : faRun 0 (headCmd s) s with
  | done u => exact ⟨u, h1, h2, h3, hr⟩
  | _ => simp [hr] at h

/-- Each product, stage and pointwise instruction on the context, with a first operand and a control word under which it commits its row. -/
def rowWork : List State :=
  [working 2 (.faDense 0 0 2 0) 0 16 0, working 2 (.faSparse 0 0 2 0) 0xF0000000000 (1 + 2 ^ 36) 0x3210,
   working 2 (.faStageFloat 0 0 2 0 false) 0 (2 + 16 + 2 ^ 23) 0, working 5 (.faStageBfp16 0 0 2 0 false) 0xF0000000000 (3 + 2 ^ 23 + 2 ^ 35) 0,
   working 4 (.faStageMod 0 0 2 0 false) 0 (4 + 16 + 2 ^ 23) (1 + 2 ^ 32), working 2 (.faPwTwid 5 2) 0 0 0, working 2 (.faPwScale 1 2) 0 0 0,
   working 2 (.faPwAdd 5 2) 0 0 0, working 1 (.faPwAdd 5 2) 0 0 0, working 2 (.faPwRelu 2) 0 0 0, working 2 (.faPwExp2 2) 0 0 0,
   working 3 (.faPwModred 2) 0 0 0, working 1 (.faPwModred 2) 0 0 0]

theorem witness_ArrayResults : ∀ s ∈ rowWork, (∃ u, CommitsRow s 0 (headCmd s) u) ∧ (ctx s 0).live = some results := by
  have h : ∀ s ∈ rowWork, commits s = true ∧ (ctx s 0).load = none ∧ (ctx s 0).prog = none
      ∧ (ctx s 0).queue.head? = some (.cmd (headCmd s)) ∧ (ctx s 0).live = some results := by decide +kernel
  exact fun s hs => ⟨commitsRow (h s hs).1 (h s hs).2.1 (h s hs).2.2.1 (h s hs).2.2.2.1, (h s hs).2.2.2.2⟩

def wholeWork : List State :=
  [working 6 (.faBfpStatic 1 2) 0 0 0, working 6 (.faBfpMeas 2) 0 0 0, working 4 (.faCrt 1 3 2) (65537 + 65539 * 2 ^ 32) 0 0,
   working 2 (.faZero 1) 0xFF 0 0, working 2 (.faModset 1) 65537 0 0]

theorem witness_ArrayResults_whole : ∀ s ∈ wholeWork, ∃ u, Performs s 0 (headCmd s) u := by
  have h : ∀ s ∈ wholeWork, performs s = true ∧ (ctx s 0).load = none ∧ (ctx s 0).prog = none
      ∧ (ctx s 0).queue.head? = some (.cmd (headCmd s)) := by decide +kernel
  exact fun s hs => performsAll (h s hs).1 (h s hs).2.1 (h s hs).2.2.1 (h s hs).2.2.2

/-- A row of 128 zero cells, and a cell of an F tile above an AMAX that is no NaN. -/
theorem witness_ArrayResults_drain : (List.replicate 128 0).length = 128 ∧ (∀ v ∈ List.replicate 128 0, v < 2 ^ 64) ∧ (0x3F800000 : Nat) < 2 ^ 64
    ∧ (tyF : Fin 8) ≠ tyI ∧ (tyF : Fin 8) ≠ tyR ∧ (0 : Nat) ≠ 0x7FC00000 := by
  refine ⟨List.length_replicate, fun v h => ?_, by decide, by decide, by decide, by decide⟩
  rw [List.eq_of_mem_replicate h]; decide

/-- A vector thread of the F class, of the L class, and operands of each form. -/
theorem witness_FloatArithmetic :
    vtLegal 0 = true ∧ vtClass 0 = .f ∧ (∀ i ∈ [Instr.vaddFloat 3 1 2 0, .vsubFloat 3 1 2 0, .vmulFloat 3 1 2 0, .vdiv 3 1 2 0, .vfma 3 1 2 0, .vfms 3 1 2 0, .vfnma 3 1 2 0,
        .vsqrt 3 1 0], (vShape i 0).isSome = true ∧ (floatArithmetic 0 (numberOf 0 0x3F800000) (numberOf 0 0x3F800000) (numberOf 0 0) i).isSome = true)
      ∧ (vShape (.vcvt 4 2 0 1) 0).isSome = true ∧ (1 : Fin 19) ≠ 9 := by
  decide +kernel

theorem witness_ElementCodes :
    (∀ i ∈ [Instr.vminFloat 3 1 2 0, .vmaxFloat 3 1 2 0, .vabsFloat 3 1 0, .vnegFloat 3 1 0, .vcmpEq 3 1 2 0, .vcmpNe 3 1 2 0, .vcmpLt 3 1 2 0, .vcmpLe 3 1 2 0, .vexp2 3 1 0],
        (vShape i 0).isSome = true)
      ∧ vtLegal 8 = true ∧ vtClass 8 = .l
      ∧ ∀ i ∈ [Instr.vmulFloat 3 1 2 0, .vabsFloat 3 1 0, .vnegFloat 3 1 0, .vminFloat 3 1 2 0, .vmaxFloat 3 1 2 0, .vcmpEq 3 1 2 0, .vcmpNe 3 1 2 0, .vcmpLt 3 1 2 0,
          .vcmpLe 3 1 2 0], (vShape i 8).isSome = true := by
  decide +kernel

theorem witness_FloatFolds : vtLegal 0 = true ∧ vtClass 0 = .f ∧ vtLegal 8 = true ∧ vtClass 8 = .l
    ∧ (∀ p ∈ [((0 : Nat), (0x3F800000 : Nat)), (33, 0x40000000)], p.1 < 64 ∧ p.2 < 2 ^ vtBits 0) ∧ (∀ p ∈ [((0 : Nat), (17 : Nat))], p.1 < 2 ∧ p.2 < 2 ^ vtBits 8)
    ∧ ∀ p ∈ [((0x3F800000 : Nat), (127 : Nat))], p.1 < 2 ^ vtBits 0 ∧ p.2 < 256 := by
  decide +kernel

/-! ### Copies and collectives -/

/-- The bytes that hold the tables of the address space that `State.withFetchWord` builds. -/
def tables : List (Nat × Nat) := [(windowBase 0 + 0x300000, 8), (0x1000, 16), (0x2000, 8), (0x3000, 8)]

theorem walk_kept {t : State} (h : ∀ r ∈ tables, ∀ i, i < r.2 → readByte t (r.1 + i) = readByte mapped (r.1 + i)) {va : Nat} (hv : va < 2 ^ 39) :
    walk t 0 0 va = some (0xE000000000001F, 3, 0x3000) := by
  have k : ∀ r ∈ tables, readMem t r.1 r.2 = readMem mapped r.1 r.2 := fun r hr => cellsRead_congr _ _ _ _ (h r hr)
  have e : asidRoot t 0 0 = some 0x2000 := by
    have e0 : ttBase t 0 = ttBase mapped 0 := by unfold ttBase; rw [k (windowBase 0 + 0x300000, 8) (by decide +kernel)]
    have e1 : asidEntryAddr t 0 0 = 0x1000 := by unfold asidEntryAddr; rw [e0]; decide +kernel
    unfold asidRoot
    rw [e1, k (0x1000, 16) (by decide +kernel)]
    decide +kernel
  unfold walk
  rw [e]
  have a4 : pteAddr 0x2000 va 4 = 0x2000 := by unfold pteAddr; omega
  have a3 : pteAddr 0x3000 va 3 = 0x3000 := by unfold pteAddr; omega
  have p4 : BitVec.ofNat 64 (readMem t 0x2000 8) = 0x3001#64 := by rw [k (0x2000, 8) (by decide +kernel)]; decide +kernel
  have p3 : BitVec.ofNat 64 (readMem t 0x3000 8) = 0xE000000000001F#64 := by rw [k (0x3000, 8) (by decide +kernel)]; decide +kernel
  simp only [walkFrom, a4, p4]
  have q : ptePa 0x3001#64 = 0x3000 := by decide +kernel
  have z : (pteBit 0x3001#64 0, pteBit 0x3001#64 1, bitsOf (0x3001#64).toNat 11 2, bitsOf (0x3001#64).toNat 63 52) = (true, false, 0, 0) := by decide +kernel
  have z' : (pteBit 0xE000000000001F#64 0, pteBit 0xE000000000001F#64 1, leafMalformed 0xE000000000001F#64 3) = (true, true, false) := by decide +kernel
  simp only [Prod.mk.injEq] at z z'
  simp [z, z', q, a3, p3]
  decide +kernel

theorem low_place {pa : Nat} (h : pa < 2 ^ 30) : placeOf pa = .hbm 0 ∧ devOf pa = 0 := by
  unfold placeOf localOf devOf
  rw [Nat.mod_eq_of_lt (by omega), if_pos (by omega), Nat.mod_eq_of_lt (by omega), if_pos (by omega), Nat.div_eq_of_lt (by omega), Nat.div_eq_of_lt (by omega)]
  exact ⟨rfl, rfl⟩

/-- An engine of device 0 reaches every byte below 2^30 of a state that keeps those tables. -/
theorem engine_reaches {s : State} {w : Who} (ht : w.tlbs = []) (hd : w.die = 0) (ha : w.iss.asid = 0) (hp : w.path = .x)
    (hm : ∀ r ∈ tables, ∀ i, i < r.2 → readByte s (r.1 + i) = readByte mapped (r.1 + i)) (h1 : s.dir = []) (h2 : s.poison = []) (h3 : s.latent = [])
    (h4 : s.snapWaits = []) {ea : Word} (hv : ea.toNat < 2 ^ 30) (rd wr : Bool) : CopyReaches s w rd wr 0 none ea 0xE000000000001F ea.toNat := by
  have hw : walk s 0 0 ea.toNat = some (0xE000000000001F, 3, 0x3000) := walk_kept hm (by omega)
  have hpl := low_place hv
  have hphys : physOf 0xE000000000001F ea.toNat = ea.toNat := by
    have e1 : ptePa 0xE000000000001F = 0 := by decide +kernel
    have e2 : pageBytes 0xE000000000001F = 2 ^ 40 := by decide +kernel
    unfold physOf; rw [e1, e2]; omega
  have hn : devOfDie 0 = 0 := rfl
  constructor
  · omega
  · unfold leafOf; rw [ht, hd, ha, hw]; rfl
  · unfold rotAddr onDevice; simp only [hphys, hpl.1]
  · exact ⟨fun _ => by decide +kernel, fun _ => by decide +kernel⟩
  · unfold reachFor reach; simp [hd, hp, hpl.1, hpl.2, hn]
  · decide +kernel
  · decide +kernel
  · intro _; exact ⟨by decide +kernel, by unfold snapHeld; rw [h4]; rfl⟩
  · unfold isMemory; rw [hpl.1]; trivial
  · refine athome ?_ ?_
    · unfold lineBusy dirEntry; rw [hpl.1, h1]; rfl
    · rw [hpl.2, hd]; rfl
  · decide +kernel
  · intro _; unfold poisoned; rw [h2, h3]; rfl
  · intro _; unfold storedHere; rw [hpl.1]; exact .inl (by rw [hpl.2, hd]; rfl)

/-- The same for `n` bytes that follow an address, whatever is stored to bytes that lie in no table. -/
theorem engine_reaches_all {s : State} {w : Who} (ht : w.tlbs = []) (hd : w.die = 0) (ha : w.iss.asid = 0) (hp : w.path = .x) (hs : s.mem = mapped.mem)
    (h1 : s.dir = []) (h2 : s.poison = []) (h3 : s.latent = []) (h4 : s.snapWaits = []) {ea n : Nat} (hv : ea + n ≤ 2 ^ 30) (rd wr : Bool)
    {touched : Nat → Prop} (hm : ∀ r ∈ tables, ∀ i, i < r.2 → ¬ touched (r.1 + i)) :
    CopyReachesAll s w rd wr 0 none n (fun j => BitVec.ofNat 64 (ea + j)) (fun j => ea + j) touched := by
  intro m h j hj
  have e : (BitVec.ofNat 64 (ea + j)).toNat = ea + j := by rw [BitVec.toNat_ofNat]; omega
  refine ⟨0xE000000000001F, ?_⟩
  have := engine_reaches (s := { s with mem := m }) (ea := BitVec.ofNat 64 (ea + j)) ht hd ha hp
    (fun r hr i hi => by have := h _ (hm r hr i hi); unfold readByte at this ⊢; rw [← hs]; exact this) h1 h2 h3 h4 (by omega) rd wr
  rwa [e] at this

/-- The bytes of a range above the tables of HBM and below those of the windows. -/
theorem off_tables {a n : Nat} (h : 0x4000 ≤ a) (h' : a + n ≤ 2 ^ 30) : ∀ r ∈ tables, ∀ i, i < r.2 → ¬ ∃ j, j < n ∧ a + j = r.1 + i := by
  have e : tables = [(0xF0020300000, 8), (0x1000, 16), (0x2000, 8), (0x3000, 8)] := by decide +kernel
  rw [e]
  rintro r hr i hi ⟨j, hj, hji⟩
  simp only [List.mem_cons, List.not_mem_nil, or_false] at hr
  rcases hr with rfl | rfl | rfl | rfl <;> simp only at hi hji <;> omega

theorem engine_writes {s : State} {w : Who} (ht : w.tlbs = []) (hd : w.die = 0) (ha : w.iss.asid = 0) (hp : w.path = .x) (hs : s.mem = mapped.mem)
    (h1 : s.dir = []) (h2 : s.poison = []) (h3 : s.latent = []) (h4 : s.snapWaits = []) (h5 : s.packets = []) (h6 : s.barriers = []) (h7 : s.iqs = []) (h8 : s.domains = [])
    (h9 : s.llc = []) {ea n : Nat} (hl : 0x4000 ≤ ea) (hv : ea + n ≤ 2 ^ 30) (rd : Bool) :
    CopyDestination s w rd none 0 none n (fun j => BitVec.ofNat 64 (ea + j)) (fun j => ea + j) :=
  ⟨fun _ _ _ _ h => by simpa using h, fun _ _ => quiet0 h5 h6 h7 h8 h9, engine_reaches_all ht hd ha hp hs h1 h2 h3 h4 hv rd true (off_tables hl hv)⟩

theorem witness_CopyResults :
    let c := startedCopy
    let w := whoX 0 c.iss
    (engine copying 0).queue = [c] ∧ (engine copying 0).colls = [] ∧ c.started = true ∧ c.bar = none ∧ c.lost = none ∧ c.stop = none ∧ c.sent = []
      ∧ c.kind = 0 ∧ cpCheck c = none ∧ cpOp c = 0 ∧ cpRop c ≤ 2 ∧ c.gran = 0 ∧ cpTile c = none ∧ cpRowb c = 64 ∧ cpDstRow c = 64 ∧ cpSrot c = 0 ∧ cpDrot c = 0
      ∧ c.idx.headD 0 = 0 ∧ c.src = 0x20000 ∧ cpDst c = 0x30000 ∧ copying.packets = []
      ∧ CopyReachesAll copying w true false 0 none 64 (fun j => BitVec.ofNat 64 (0x20000 + j)) (fun j => 0x20000 + j) (fun a => ∃ j, j < 64 ∧ 0x30000 + j = a)
      ∧ CopyDestination copying w false none 0 none 64 (fun j => BitVec.ofNat 64 (0x30000 + j)) (fun j => 0x30000 + j)
      ∧ ∀ i j, i < 64 → j < 64 → 0x20000 + i ≠ 0x30000 + j :=
  ⟨rfl, rfl, rfl, rfl, rfl, rfl, rfl, rfl, by decide +kernel, by decide +kernel, by decide +kernel, rfl, by decide +kernel, by decide +kernel, by decide +kernel,
    by decide +kernel, by decide +kernel, rfl, rfl, by decide +kernel, rfl,
    engine_reaches_all (s := copying) (w := whoX 0 startedCopy.iss) (ea := 0x20000) rfl rfl (by decide +kernel) rfl rfl rfl rfl rfl rfl (by decide) true false (off_tables (by decide) (by decide)),
    engine_writes (s := copying) (w := whoX 0 startedCopy.iss) (ea := 0x30000) rfl rfl (by decide +kernel) rfl rfl rfl rfl rfl rfl rfl rfl rfl rfl rfl (by decide) (by decide) false, fun _ _ _ _ => by omega⟩

/-- A nest of one level that copies 64 bytes; a reduction of two rows in memory; a started member of an all-reduce of 64 bytes over devices
0 and 1, with some members' sources in its inbox. -/
def nestCmd : CopyCmd := { startedCopy with kind := 1, record := 1 + 64 * 2 ^ 64 + 0x20000 * 2 ^ 128 + 0x30000 * 2 ^ 192 + 2 ^ 512 }
def reducing : CopyCmd := { startedCopy with fn := 64, second := 0x28000 }
def collecting (inbox : List (Nat × Option Nat)) : Coll :=
  { member 0 with cmd := { startedCopy with kind := 2, record := 1 + 64 * 2 ^ 64 + 0x20000 * 2 ^ 128 + 0x30000 * 2 ^ 192, gtab := [0, 1] },
                  started := true, start := some 0, inbox := inbox }

theorem witness_CopyResults_nest :
    nestCheck mapped 0 nestCmd = none ∧ nestPsrc nestCmd = false ∧ nestFp8 nestCmd = false ∧ nestChunk nestCmd = 64 ∧ nestCmd.gran = 0 ∧ nestBlocks nestCmd = false
      ∧ nestSdev nestCmd = none ∧ nestDdev nestCmd = none ∧ nestSrc nestCmd = 0x20000 ∧ nestDst nestCmd = 0x30000
      ∧ cpOp reducing = 4 ∧ cpCheck reducing = none ∧ cpRowb reducing = 64 ∧ reducing.second = 0x28000 := by
  decide +kernel

theorem witness_CopyResults_collective :
    let a := collecting []
    let full := collecting [(0, some 5), (1, some 6)]
    let c := a.cmd
    (engine (engWith { Engine.init with colls := [a] }) 0).colls = [a] ∧ a.started = true ∧ a.start.isSome = true ∧ c.lost = none ∧ c.stop = none ∧ collRoute c = false
      ∧ collCheck mapped 0 c = none ∧ collKind c = 0 ∧ collN c = 2 ∧ collMe c = 0 ∧ collS c = 64 ∧ collDstBytes c = 64 ∧ collFp8 c = false ∧ c.bar = none ∧ c.sent = []
      ∧ a.got = 0 ∧ a.data = 0 ∧ a.out = none ∧ a.put = 0 ∧ tabGet none a.inbox 0 = none ∧ tabGet none a.inbox 1 = none
      ∧ (∀ m, m < 2 → (pair mapped 0 (c.gtab.getD m 0)).lost = false)
      ∧ (∀ m, m < 2 → ∃ v, tabGet none full.inbox m = some v ∧ v < 256 ^ 64) ∧ collSbase c = 0x20000 ∧ collDbase c = 0x30000 := by
  refine ⟨rfl, rfl, rfl, rfl, rfl, by decide +kernel, by decide +kernel, by decide +kernel, by decide +kernel, by decide +kernel, by decide +kernel, by decide +kernel,
    by decide +kernel, rfl, rfl, rfl, rfl, rfl, rfl, rfl, rfl, by decide +kernel, ?_, by decide +kernel, by decide +kernel⟩
  intro m hm
  have : m = 0 ∨ m = 1 := by omega
  rcases this with rfl | rfl
  · exact ⟨5, rfl, by decide⟩
  · exact ⟨6, rfl, by decide⟩

/-! ### Near-memory commands -/

/-- An engine of a stack of device 0 reaches every byte below 2^30 of a state that keeps those tables. -/
theorem near_reaches {s : State} {w : Who} (ht : w.tlbs = []) (hd : w.die = 0) (ha : w.iss.asid = 0) (hp : w.path = .n)
    (hm : ∀ r ∈ tables, ∀ i, i < r.2 → readByte s (r.1 + i) = readByte mapped (r.1 + i)) (h2 : s.poison = []) (h3 : s.latent = [])
    (h4 : s.snapWaits = []) {ea : Word} {n : Nat} (hv : ea.toNat < 2 ^ 30) (hn : ea.toNat % 64 + n ≤ 64) (rd wr : Bool) :
    NearReaches s w inStack rd wr n ea 0xE000000000001F ea.toNat := by
  have hw : walk s 0 0 ea.toNat = some (0xE000000000001F, 3, 0x3000) := walk_kept hm (by omega)
  have hpl := low_place hv
  have hphys : physOf 0xE000000000001F ea.toNat = ea.toNat := by
    have e1 : ptePa 0xE000000000001F = 0 := by decide +kernel
    have e2 : pageBytes 0xE000000000001F = 2 ^ 40 := by decide +kernel
    unfold physOf; rw [e1, e2]; omega
  have hl : leafOf s w.tlbs w.die w.iss.asid ea.toNat = some 0xE000000000001F := by unfold leafOf; rw [ht, hd, ha, hw]; rfl
  have hn0 : devOfDie 0 = 0 := rfl
  have f : (pteRd 0xE000000000001F, pteWr 0xE000000000001F, pteMc 0xE000000000001F) = (true, true, false) := by decide +kernel
  simp only [Prod.mk.injEq] at f
  have hc : pteCow 0xE000000000001F = false := by decide +kernel
  have hsn : snapHeld s w.die w.iss.asid ea.toNat = false := by unfold snapHeld; rw [h4]; rfl
  constructor
  · refine ⟨?_, f.2.2, by decide +kernel, fun _ => ⟨hc, hsn⟩⟩
    unfold Machine.translate
    rw [if_neg (by omega), if_neg (by omega), hl]
    simp only [f, hphys, reachFor, reach, hd, hp, hpl.1, hpl.2, hn0]
    cases rd <;> cases wr <;> simp
  · rw [hpl.1]; rfl
  · decide +kernel
  · intro _; unfold copyBusy; rw [hsn, hd, ha, hw]; simp only [hc]; rfl
  · decide +kernel
  · intro _; unfold poisoned; rw [h2, h3]; rfl
  · exact hn

/-- A command of an engine, its ranges at 0x20000 and 0x28000, and a state in which it runs. -/
def nearCmd (op : Nat) (a1 b1 : Word) : NmCmd := { filling with op := op, a1 := a1, b := if op = 2 ∨ op = 5 then 0 else 0x28000, b1 := b1 }
def nearNow (c : NmCmd) : State := { mapped with nms := [(0, ⟨[], [], some c, 0⟩)] }

theorem near_source (c : NmCmd) (h : c.iss = filling.iss) {ea n : Nat} (hv : ea + n ≤ 2 ^ 30) :
    NearSource (nearNow c) (nmWho 0 c) (BitVec.ofNat 64 ea) n (fun j => ea + j) := by
  intro j hj
  have e : (BitVec.ofNat 64 ea + BitVec.ofNat 64 j).toNat = ea + j := by simp; omega
  refine ⟨0xE000000000001F, ?_⟩
  have := near_reaches (s := nearNow c) (w := nmWho 0 c) (ea := BitVec.ofNat 64 ea + BitVec.ofNat 64 j) (n := 1) rfl rfl
    (by show c.iss.asid = 0; rw [h]; rfl) rfl (fun _ _ _ _ => rfl) rfl rfl rfl (by omega) (by omega) true false
  rwa [e] at this

theorem witness_NearMemoryResults :
    (∀ c ∈ [nearCmd 0 1 0, nearCmd 1 1 0, nearCmd 2 1 0, nearCmd 4 1 0, nearCmd 5 1 7],
        (nm (nearNow c) 0).active = some c ∧ c.stop = none ∧ c.gran < nmGrans c ∧ nmCheck c = none ∧ c.op ≤ 6 ∧ c.a + BitVec.ofNat 64 (64 * c.gran) = 0x20000
          ∧ (c.op ≤ 1 → c.b + BitVec.ofNat 64 (64 * c.gran) = 0x28000) ∧ (c.op = 4 → nmSrcStep c = 64 ∧ c.b + BitVec.ofNat 64 (nmSrcStep c * c.gran) = 0x28000))
      ∧ ∀ c, c.iss = filling.iss → NearReaches (nearNow c) (nmWho 0 c) inStack true true 64 0x20000 0xE000000000001F 0x20000
        ∧ NearSource (nearNow c) (nmWho 0 c) 0x28000 64 (fun j => 0x28000 + j) :=
  ⟨by decide +kernel, fun c h => ⟨near_reaches (s := nearNow c) (w := nmWho 0 c) (ea := 0x20000) (n := 64) rfl rfl (by show c.iss.asid = 0; rw [h]; rfl) rfl (fun _ _ _ _ => rfl) rfl rfl rfl (by decide) (by decide) true true,
    near_source c h (by decide)⟩⟩

/-- An address space whose tables map common memory as well, and a command in it that adds up squares. -/
def fabric : State := writeMem mapped 0x30F0 8 (14 * 2 ^ 52 + 0xF0000000000 + 0x1F)
def squaring (n : Word) : NmCmd := { nearCmd 3 n 0 with b := 0xF0010000000 }
def summing (n : Word) : State := { fabric with nms := [(0, ⟨[], [], some (squaring n), 0⟩)] }

theorem witness_NearMemoryResults_sum :
    (∀ n, (nm (summing n) 0).active = some (squaring n) ∧ (squaring n).stop = none ∧ (squaring n).op = 3)
      ∧ ((squaring 1).gran < nmGrans (squaring 1) ∧ nmCheck (squaring 1) = none) ∧ ((squaring 2).gran < nmGrans (squaring 2) ∧ nmCheck (squaring 2) = none)
      ∧ NearReaches (summing 1) (nmWho 0 (squaring 1)) (· == .common (0 % 32)) false true 4 0xF0010000000 leafFab 0xF0010000000
      ∧ QuietBytes (summing 1) 0xF0010000000 4 ∧ homeReached (summing 1) (nmWho 0 (squaring 1)) 0xF0010000000 :=
  ⟨fun _ => ⟨rfl, rfl, rfl⟩, ⟨by decide +kernel, by decide +kernel⟩, ⟨by decide +kernel, by decide +kernel⟩,
    ⟨⟨by decide +kernel, by decide +kernel, by decide +kernel, fun _ => by decide +kernel⟩, by decide +kernel, by decide +kernel, fun _ => by decide +kernel, by decide +kernel,
      (fun h => nomatch h), by decide⟩, quiet0 rfl rfl rfl rfl rfl, athome (by decide +kernel) rfl⟩

/-- Eight records of zeros: each names element 0, which lies below a limit of 1 and not below a limit of 0. -/
theorem witness_NearMemoryResults_scatter :
    let c := nearCmd 6 1 1
    let s := nearNow c
    let records := (List.range 8).map (fun j => (numberAt s (fun j => 0x28000 + j) (8 * j) 4, numberAt s (fun j => 0x28000 + j) (8 * j + 4) 4))
    (nm s 0).active = some c ∧ c.stop = none ∧ c.gran < nmGrans c ∧ nmCheck c = none ∧ nmCheck (nearCmd 6 1 0) = none
      ∧ NearSource s (nmWho 0 c) 0x28000 64 (fun j => 0x28000 + j) ∧ records = List.replicate 8 (0, 0) ∧ bitsOf c.b1.toNat 31 0 = 1
      ∧ ∀ m : List Host.Cell, (∀ a, (a < 0x20000 ∨ 0x20000 + 4 ≤ a) → cellGet m a = readByte s a) →
        NearReaches { s with mem := m } (nmWho 0 c) inStack true true 4 0x20000 0xE000000000001F 0x20000 := by
  refine ⟨rfl, rfl, by decide +kernel, by decide +kernel, by decide +kernel, near_source (nearCmd 6 1 1) rfl (by decide), by decide +kernel, by decide +kernel, fun m h => ?_⟩
  have off := off_tables (a := 0x20000) (n := 4) (by decide) (by decide)
  exact near_reaches (s := { nearNow (nearCmd 6 1 1) with mem := m }) (w := nmWho 0 (nearCmd 6 1 1)) rfl rfl rfl rfl
    (fun r hr i hi => h _ (by
      by_contra hh
      exact off r hr i hi ⟨r.1 + i - 0x20000, by omega, by omega⟩)) rfl rfl rfl (by decide) (by decide) true true

/-- A gated `nm.sgdf` whose gate has fired, with its word, 0, in common memory, and a threshold of 1 or 0. -/
def gatedDecay (limit : Word) : NmCmd :=
  { nearCmd 0 (1 + limit * 2 ^ 32) 0 with g := 0xF0010000000, gate := some (0xF0010000000, true), firedAt := 1, ready := true }
def gatedState (limit : Word) : State := { fabric with nms := [(0, ⟨[], [gatedDecay limit], none, 0⟩)] }

theorem witness_NearMemoryResults_start :
    (let c := nearCmd 0 1 0
      let s : State := { mapped with nms := [(0, ⟨[c], [], none, 0⟩)] }
      (nm s 0).active = none ∧ (nm s 0).queue = [c] ∧ (nm s 0).gates = [] ∧ c.op = 0 ∧ c.gate = none ∧ c.g1 = 0 ∧ nmCheck c = none)
      ∧ (∀ l, (nm (gatedState l) 0).active = none ∧ (nm (gatedState l) 0).gates = [gatedDecay l] ∧ (gatedDecay l).op = 0 ∧ (gatedDecay l).firedAt ≠ 0
        ∧ (gatedDecay l).ready = true ∧ (gatedDecay l).gate.isSome = true ∧ readMem (gatedState l) 0xF0010000020 4 = 0)
      ∧ ((gatedDecay 0x3F800000).a1.toNat / 2 ^ 32 = 0x3F800000 ∧ (gatedDecay 0).a1.toNat / 2 ^ 32 = 0)
      ∧ (∀ l, nmGateAddr (gatedDecay l) + 32 = 0xF0010000020)
      ∧ NearReaches (gatedState 0x3F800000) (nmWho 0 (gatedDecay 0x3F800000)) gatePlace true false 4 0xF0010000020 leafFab 0xF0010000020
      ∧ NearReaches (gatedState 0) (nmWho 0 (gatedDecay 0)) gatePlace true false 4 0xF0010000020 leafFab 0xF0010000020
      ∧ GateFactor 0 0x3F800000 0x3F800000 0 ∧ ∀ k g, ¬ GateFactor 0 0 k g := by
  have z : numberOf 0 0 = .finite 0 false := by decide +kernel
  have o : numberOf 0 0x3F800000 = .finite 1 false := by decide +kernel
  have h : readMem fabric 0xF0010000020 4 = 0 := by decide +kernel
  have r : ∀ l, Machine.translate (gatedState l) (nmWho 0 (gatedDecay l)) true false 1 (0xF0010000020 : Word).toNat = .ok (leafFab, 0xF0010000020) →
      NearReaches (gatedState l) (nmWho 0 (gatedDecay l)) gatePlace true false 4 0xF0010000020 leafFab 0xF0010000020 := fun l e =>
    ⟨⟨e, by decide +kernel, by decide +kernel, fun h => nomatch h⟩, by decide +kernel, by decide +kernel, (fun h => nomatch h), by decide +kernel, fun _ => rfl, by decide⟩
  exact ⟨⟨rfl, rfl, rfl, rfl, rfl, rfl, by decide +kernel⟩, fun l => ⟨rfl, rfl, rfl, by show (1 : Nat) ≠ 0; decide, rfl, rfl, by unfold readMem at h ⊢; exact h⟩,
    by decide +kernel, fun l => by show BitVec.ofNat 64 (bitsOf (0xF0010000000 : Word).toNat 56 4 * 16) + 32 = _; decide +kernel,
    r _ (by decide +kernel), r _ (by decide +kernel), by simp [GateFactor, z, o], fun k g h => by simp [GateFactor, z] at h⟩
/-! ## Witnesses: the machine -/

theorem witness_DecodeAndEncodeAgree :
    (Instr.addi 5 5 0x3FFF#14).wellFormed = true ∧ encode (.addi 5 5 0x3FFF#14) = some 0x08517FFF ∧ reads 0x08517FFF (.addi 5 5 0x3FFF#14) := by
  decide +kernel

/-- `addi s5, s5, -1` where slot 0 fetches next. -/
def placed : State := State.reset.withFetchWord 32 0x08517FFF

theorem goes {s : State} {k : Nat} (h : (runsNow s (devOfDie (dieOfThread k)) && !(thr s k).halted && (thr s k).owed.isNone && !landDue s k
    && !deliveryDue (thr s k) && mayIssue s k && [0, 1, 2, 3].all (fun i => !stripReady s (k / 4 * 4 + i))) = true) : GoesOn s k := by
  simp only [Bool.and_eq_true, Bool.not_eq_true', Option.isNone_iff_eq_none, List.all_eq_true] at h
  obtain ⟨⟨⟨⟨⟨⟨a, b⟩, c⟩, d⟩, e⟩, f⟩, g⟩ := h
  refine ⟨a, b, c, d, e, f, fun j hj hr => ?_⟩
  have := g (j % 4) (by have : j % 4 < 4 := Nat.mod_lt _ (by decide); interval_cases j % 4 <;> decide)
  rw [← hj, Nat.div_add_mod'] at this
  rw [hr] at this; cases this

theorem witness_StepRunsTheWord :
    nothingDue placed ∧ agentsTurn placed ∧ nextAgents placed = [.thread 0] ∧ GoesOn placed 0 ∧ replacedAt (threadTurn placed 0 []) 0 (pcOf (threadTurn placed 0 [])) = none
      ∧ dbgOf placed (devOfDie (dieOfThread 0)) = 0 :=
  ⟨⟨rfl, by decide +kernel⟩, .inl rfl, rfl, goes (by decide +kernel), by decide +kernel, by decide +kernel⟩

theorem addi_word : decodeWord 0x08517FFF = .ok (.addi 5 5 0x3FFF#14) := by
  have h : reads 0x08517FFF (.addi 5 5 0x3FFF#14) := by decide +kernel
  unfold reads at h
  split at h <;> simp_all

theorem witness_StepRunsTheWord_word :
    fetches (threadTurn placed 0 []) 0x08517FFF ∧ wordRuns (threadTurn placed 0 []) 0x08517FFF (.addi 5 5 0x3FFF#14) :=
  ⟨⟨0xE000000000001F, placeAddr, by decide +kernel, by decide +kernel, by decide +kernel, ⟨by decide +kernel, .inl (by decide +kernel)⟩, by decide +kernel, by decide +kernel⟩,
    .inl ⟨addi_word, by decide +kernel⟩⟩

/-- The same word at 0x20000 in place of the word that is next. -/
def replaced : State := { placed with maps := [(0, [(pcOf placed, 0x20000, 0x08517FFF)])] }

theorem witness_StepRunsTheWord_replaced :
    nothingDue replaced ∧ agentsTurn replaced ∧ nextAgents replaced = [.thread 0] ∧ GoesOn replaced 0
      ∧ replacedAt (threadTurn replaced 0 []) 0 (pcOf (threadTurn replaced 0 [])) = some (0x20000, 0x08517FFF)
      ∧ dbgOf replaced (devOfDie (dieOfThread 0)) = 0 ∧ mayRun (threadTurn replaced 0 []).cur (.addi 5 5 0x3FFF#14) = true :=
  ⟨⟨rfl, by decide +kernel⟩, .inl rfl, rfl, goes (by decide +kernel), by decide +kernel, by decide +kernel, by decide +kernel⟩

/-- A context, and a copy engine, whose program is at the same word. -/
def forkedHere (a : Agent) : State :=
  let p : Prog := ⟨{ Seq.init with pc := pcOf placed }, 7, issuerNow placed 0 (pcOf placed)⟩
  { placed with threads := [], ctxs := [(0, { Ctx.init with prog := some p })], engines := [(0, { Engine.init with prog := some p })], turns := [a] }

theorem witness_StepRunsTheWord_ctx :
    nothingDue (forkedHere (.ctx 0)) ∧ agentsTurn (forkedHere (.ctx 0)) ∧ nextAgents (forkedHere (.ctx 0)) = [.ctx 0] ∧ runsNow (forkedHere (.ctx 0)) (devOfDie (dieOfCore 0)) = true
      ∧ ctxStopped (forkedHere (.ctx 0)) 0 = false ∧ fetches { forkedHere (.ctx 0) with turns := [], engTurn := true, cur := .ctx 0 } 0x08517FFF
      ∧ wordRuns { forkedHere (.ctx 0) with turns := [], engTurn := true, cur := .ctx 0 } 0x08517FFF (.addi 5 5 0x3FFF#14) :=
  ⟨⟨rfl, by decide +kernel⟩, .inl rfl, rfl, by decide +kernel, by decide +kernel,
    ⟨0xE000000000001F, placeAddr, by decide +kernel, by decide +kernel, by decide +kernel, ⟨by decide +kernel, .inl (by decide +kernel)⟩, by decide +kernel, by decide +kernel⟩,
    .inl ⟨addi_word, by decide +kernel⟩⟩

theorem witness_StepRunsTheWord_engine :
    nothingDue (forkedHere (.engine 0)) ∧ agentsTurn (forkedHere (.engine 0)) ∧ nextAgents (forkedHere (.engine 0)) = [.engine 0] ∧ runsNow (forkedHere (.engine 0)) (devOfDie (0 / 4)) = true
      ∧ stopped (forkedHere (.engine 0)) 4 (0 / 4) (0 % 4) = false ∧ fetches { forkedHere (.engine 0) with turns := [], engTurn := true, cur := .engine 0 } 0x08517FFF
      ∧ wordRuns { forkedHere (.engine 0) with turns := [], engTurn := true, cur := .engine 0 } 0x08517FFF (.addi 5 5 0x3FFF#14) :=
  ⟨⟨rfl, by decide +kernel⟩, .inl rfl, rfl, by decide +kernel, by decide +kernel,
    ⟨0xE000000000001F, placeAddr, by decide +kernel, by decide +kernel, by decide +kernel, ⟨by decide +kernel, .inl (by decide +kernel)⟩, by decide +kernel, by decide +kernel⟩,
    .inl ⟨addi_word, by decide +kernel⟩⟩

theorem witness_MemoryStaysCanonical : placed.memWf ∧ (match step placed with | .next _ => true | _ => false) = true :=
  ⟨(by decide +kernel : Memory.wf placed.mem = true), by decide +kernel⟩
/-! ## Single steps, with results calculated by hand from the rules named -/

/-- A value of the next state, when there is one. -/
def after {α : Type} (o : Host.Outcome State Fault Refusal) (f : State → α) : Option α :=
  match o with | .next t => some (f t) | _ => none

/-- What an instruction leaves in s4 with s1 given (s3 is 5). -/
def gives (s1 : Word) (i : Instr) : Option Word := after (exec i (at1 s1)) (fun t => x t 4)

/-- R158: 2^64 - 1 + 5 wraps to 4; a shift by 69 shifts by 5; signed and unsigned order differ at -1. -/
theorem test_alu :
    gives (-1) (.add 4 1 3) = some 4 ∧ gives 69 (.sll 4 3 1) = some 160 ∧ gives (-1) (.sltI64 4 1 3) = some 1 ∧ gives (-1) (.sltN64 4 1 3) = some 0
      ∧ gives 1 (.ror 4 3 1) = some 0x8000000000000002 ∧ gives 0 (.clz 4 1) = some 64 ∧ gives (-16) (.sra 4 1 3) = some (-1) := by
  decide +kernel

/-- R159: immediates are sign-extended; `lui` of the most negative constant. -/
theorem test_immediates :
    gives 0 (.addi 4 0 0x2000#14) = some (-8192) ∧ gives 7 (.sltiN64 4 1 0x7FF#11) = some 1 ∧ gives 0 (.lui 4 0x80000#20) = some (-2147483648)
      ∧ gives 0 (.apc 4 1#20) = some 0x11000 := by
  decide +kernel

/-- R160: the columns B = 0 and A = -2^63, B = -1 of the table; a remainder takes the sign of the dividend. -/
theorem test_divide :
    gives 0 (.divI64 4 3 1) = some (-1) ∧ gives 0 (.remI64 4 3 1) = some 5 ∧ gives (-1) (.mulhI64 4 1 3) = some (-1) ∧ gives (-1) (.mulhN64 4 1 3) = some 4
      ∧ gives (-7) (.remI64 4 1 3) = some (-2) ∧ gives (-7) (.divI64 4 1 3) = some (-1) ∧ gives 0x40000000 (.mulI32 4 1 3) = some 0x40000000 := by
  decide +kernel

/-- R161: a field of 8 bits at bit 4, signed; a width that is cut at bit 63; reversed bytes. -/
theorem test_fields :
    after (exec (.bfxI64 4 1 3) (one { plain 0x0000000000000FA0 with seq := { (plain 0xFA0).seq with regs := (plain 0xFA0).seq.regs.set 3 0x804 } })) (fun t => x t 4) = some (-6)
      ∧ gives 0x7F3C (.bfxN64 4 3 1) = some 0 ∧ gives 0x0102030405060708 (.bswap 4 1) = some 0x0807060504030201 ∧ gives 1 (.brev 4 1) = some 0x8000000000000000 := by
  decide +kernel

/-- R162, R163: a taken branch backwards; a jump to an address that is no word traps with cause 0x03 and its target. -/
theorem test_control :
    after (exec (.bne 1 3 0x3FFD#14) base) pcOf = some 0xFFF4 ∧ after (exec (.beq 1 3 0x3FFD#14) base) pcOf = some 0x10004
      ∧ after (exec (.jal 4#26) base) (fun t => (pcOf t, x t 31)) = some (0x10010, 0x10004)
      ∧ after (exec (.jalr 4 3) base) (fun t => (pcOf t, x t 4, (thr t 0).tcause, (thr t 0).tval, (thr t 0).tepc)) = some (0x8000, 0, 3, 5, 0x10000) := by
  decide +kernel

/-- The loop of two levels that the table in the section on hardware loops runs: at its END word. -/
def searching (i0 i1 : BitVec 32) (pc : Word) : State :=
  one { plain 0x20000 with seq := { (plain 0x20000).seq with pc := pc, loops := [⟨3, i0, 0x2010, 0x2028⟩, ⟨4, i1, 0x2014, 0x2028⟩] } }

/-- R133, R166, R167: the rows of that table: the fourth pass of row 0 ends the inner level, and `lbrk 1` leaves both. -/
theorem test_loops :
    after (exec (.addi 4 4 4#14) (searching 0 3 0x2028)) (fun t => (pcOf t, (curSeq t).loops)) = some (0x2010, [⟨3, 1, 0x2010, 0x2028⟩])
      ∧ after (exec (.addi 4 4 4#14) (searching 1 1 0x2028)) (fun t => (pcOf t, (curSeq t).loops.length)) = some (0x2014, 2)
      ∧ after (exec (.lidx 7 0) (searching 1 2 0x201C)) (fun t => x t 7) = some 2 ∧ after (exec (.lidx 6 1) (searching 1 2 0x2020)) (fun t => x t 6) = some 1
      ∧ after (exec (.lbrk 1) (searching 1 2 0x2024)) (fun t => (pcOf t, (curSeq t).loops)) = some (0x202C, []) := by
  decide +kernel

/-- The words of that fragment. -/
theorem test_loop_words :
    reads 0x34100007 (.loop 1 0 7) ∧ reads 0x38311000 (.ldI32 3 4 0#10) ∧ reads 0x2C300004 (.bgeI64 3 0 4#14) ∧ reads 0x04700020 (.lidx 7 0)
      ∧ reads 0x04604020 (.lidx 6 1) ∧ reads 0x04004021 (.lbrk 1) ∧ reads 0x08410004 (.addi 4 4 4#14) := by
  decide +kernel

/-- Eight bytes 0x80, 0x81, ... 0x87 at 0x20000. -/
def bytes : State := writeMem base 0x20000 8 0x8786858483828180

/-- R168, R169: sign and zero extension, byte order, an unaligned address (cause 0x03, nothing read). -/
theorem test_loads :
    after (exec (.ldI8 4 1 1#10) bytes) (fun t => x t 4) = some 0xFFFFFFFFFFFFFF81 ∧ after (exec (.ldN16 4 1 2#10) bytes) (fun t => x t 4) = some 0x8382
      ∧ after (exec (.ldI32 4 1 4#10) bytes) (fun t => x t 4) = some 0xFFFFFFFF87868584
      ∧ after (exec (.ld64 4 1 4#10) bytes) (fun t => (x t 4, pcOf t, (thr t 0).tcause)) = some (0, 0x8000, 3) := by
  decide +kernel

/-- R168: a store writes its bytes and no other, low byte first. -/
theorem test_stores :
    after (exec (.st16 3 1 2#10) bytes) (fun t => readMem t 0x20000 8) = some 0x8786858400058180
      ∧ after (exec (.st64 2 1 8#10) bytes) (fun t => (readMem t 0x2000D 1, readMem t 0x20000 8)) = some (0x0F, 0x8786858483828180) := by
  decide +kernel

/-- R172: old values come back sign-extended but for the unsigned forms; a compare that fails writes nothing. -/
theorem test_atomics :
    after (exec (.amoAdd 4 1 3 3 false) bytes) (fun t => (x t 4, readMem t 0x20000 8)) = some (0xFFFFFFFF83828180, 0x8786858483828185)
      ∧ after (exec (.amoMinN 4 1 3 3 false) bytes) (fun t => (x t 4, readMem t 0x20000 8)) = some (0x83828180, 0x8786858400000005)
      ∧ after (exec (.amoCas 4 1 3 3 true) bytes) (fun t => (x t 4, readMem t 0x20000 8)) = some (0x8786858483828180, 0x8786858483828180) := by
  decide +kernel

/-- R22..R24, R178: the last of two arrivals flips the phase and clears the count; the prior phase comes back. -/
theorem test_barrier :
    after (exec (.barArrive 4 2 0) (writeMem base 0xF0000000000 16 (2 + 2 ^ 16))) (fun t => (x t 4, readMem t 0xF0000000000 16)) = some (0, 2 + 2 ^ 64)
      ∧ after (exec (.barArrive 4 2 3) obj) (fun t => (x t 4, readMem t 0xF0000000000 16)) = some (0, 2 + 2 ^ 16 + 5 * 2 ^ 32) := by
  decide +kernel

/-- A thread with vl elements of a format, v1 and v2 as given. -/
def lanes (vt : Word) (n : Nat) (a b : BitVec 262144) : State :=
  one { plain 0x20000 with vtype := vt, vl := n, bvalid := BitVec.allOnes 32768, vregs := [(1, ⟨a, 0⟩), (2, ⟨b, 0⟩)] }

/-- An element of v3 after an instruction. -/
def elem (s : State) (i : Instr) (e : Nat) : Option Nat := after (exec i s) (fun t => ((vreg (thr t 0) 3).bits.toNat / 2 ^ (32 * e)) % 2 ^ 32)

/-- R223: f32 sums: 1 + 2^-24 is a tie and rounds to even, 1 + 3 * 2^-24 rounds up; infinities of both signs give the quiet NaN. -/
theorem test_float_add :
    elem (lanes 0 2 0x3F8000003F800000#262144 0x3440000033800000#262144) (.vaddFloat 3 1 2 0) 0 = some 0x3F800000
      ∧ elem (lanes 0 2 0x3F8000003F800000#262144 0x3440000033800000#262144) (.vaddFloat 3 1 2 0) 1 = some 0x3F800002
      ∧ elem (lanes 0 1 0x7F800000#262144 0xFF800000#262144) (.vaddFloat 3 1 2 0) 0 = some 0x7FC00000 := by
  decide +kernel

/-- R228: integer elements wrap, saturate, and differ by sign. -/
theorem test_vector_integers :
    elem (lanes 0x0C 1 0x7FFFFFFF#262144 1#262144) (.vaddInt 3 1 2 0) 0 = some 0x80000000 ∧ elem (lanes 0x0C 1 0x7FFFFFFF#262144 1#262144) (.vaddsat 3 1 2 0) 0 = some 0x7FFFFFFF
      ∧ elem (lanes 0x0C 1 0xFFFFFFFF#262144 1#262144) (.vmaxInt 3 1 2 0) 0 = some 1 ∧ elem (lanes 0x10 1 0xFFFFFFFF#262144 1#262144) (.vmaxInt 3 1 2 0) 0 = some 0xFFFFFFFF := by
  decide +kernel

/-- The worked speculative scan: `vsetl` of 8 n32 elements, and `vmerge` of the three elements before the terminator. -/
def scanned : State :=
  one { plain 0x20000 with vtype := 0x10, vl := 8, bvalid := BitVec.allOnes 32768, spec := true, mregs := ((Vector.replicate 8 0).set 0 0xC0).set 2 7,
                           vregs := [(1, ⟨7 + 3 * 2 ^ 32 + 9 * 2 ^ 64 + 4 * 2 ^ 128, 3 * 2 ^ 192⟩)] }

theorem test_scan :
    after (exec (.vmerge 3 1 2) scanned) (fun t => ((vreg (thr t 0) 3).bits.toNat, (thr t 0).spec, (thr t 0).mregs[0])) = some (7 + 3 * 2 ^ 32 + 9 * 2 ^ 64, false, 0xC0#32768)
      ∧ after (exec (.mtos 7 1) (one { thr scanned 0 with mregs := ((Vector.replicate 8 0).set 1 8) })) (fun t => x t 7) = some 0x0000000300000001 := by
  decide +kernel

/-- R142, R185, R64: a `trap` and an illegal word enter the handler at tvec with the pc saved; R144: `tret` goes back. -/
theorem test_traps :
    after (exec (.trap 7) base) (fun t => (pcOf t, (thr t 0).tcause, (thr t 0).tval)) = some (0x8000, 4, 7)
      ∧ after (exec (.illegalInstruction 0xFC000000) base) (fun t => (pcOf t, (thr t 0).tepc, (thr t 0).tcause, (thr t 0).hm)) = some (0x8000, 0x10000, 1, true)
      ∧ after (exec .tret handling) (fun t => (pcOf t, (thr t 0).hm)) = some (0x10040, false) := by
  decide +kernel

/-- FIPS 180-4's example: SHA-512 of the three bytes "abc". -/
theorem test_sha512 : sha512 3 0x636261 = 0x9fa44ca54fc99a2a0ee83c6423444d45bdebfea3233cba36a8c14f272a9992219ad3554be6ee9e0aa27ea9894efae612314120ae497341ccba7a6193a135afdd#512 := by decide +kernel

/-- RFC 8032, section 7.1, test 1: the public key of the seed, and the signature of the empty message. -/
theorem test_ed25519 :
    ed25519Public 0x607fae1c03ac3b701969327b69c54944c42cec92f44a84ba605afdef9db1619d#256 = 0x1a5107f7681a02af2523a6daf372e10e3a0764c9d3fe4bd5b70ab18201985ad7#256
      ∧ ed25519Verify 0x1a5107f7681a02af2523a6daf372e10e3a0764c9d3fe4bd5b70ab18201985ad7#256 0 0 0xb107a8e4341516524be5b59f0f55bd26bb4f91c70391ec6ac3ba3901582b85f5501492265e073d874d9e5b81e7f87848a826e80cce2869072ac60c3004356e5#512 = true := by
  decide +kernel
end Sys2Proof.Tests
end

section
/-!
PROOFS. Memory stays in its canonical form (O59).

The model writes `mem` in four places only: `writeMem` (`cellsWrite`), `copyRange` (`cellSet` over the cells moved), and `forget` and
`zeroRange` (a filter); the laws of `Memory.wf` close those. Everything else passes the state on. So each function of the model that gives
a state has one lemma `<function>_memWf`: from a state in canonical form it gives one in canonical form. The lemmas stand in the order
of the model's files, and each cites the lemmas of the functions that its own function calls.

A function that gives an answer beside the state (`Res`, `Walk`, `Flow`, ...) is spoken of through the state that its answer holds
(`Res.state`, ...); `Res.memWf_of_ok` and its like read that fact off in one case of a `match`.
-/

namespace Sys2Proof.Machine

variable {s : State}

/-- The state that an access leaves. -/
abbrev Res.state {α : Type} : Res α → State
  | .ok _ s => s
  | .exc _ s => s
  | .lost _ s => s
  | .wait s => s

/-- What an acknowledgement leaves. -/
abbrev AckState.state : AckState → State
  | .done s => s
  | .wait s => s
  | .lost _ s => s

/-- What a walk over units leaves. -/
abbrev Walk.state : Walk → State
  | .all _ s => s
  | .stop _ _ _ s => s
  | .wait _ s => s

/-- What a step of a collective leaves. -/
abbrev Flow.state : Flow → State
  | .go _ s => s
  | .stop _ _ s => s
  | .wait _ s => s

/-- What a vector strip leaves. -/
abbrev VRes.state : VRes → State
  | .more s => s
  | .done s => s
  | .fault s => s
  | .wait s => s

/-- What a window of a vector access leaves. -/
abbrev WinOut.state : WinOut → State
  | .more _ s => s
  | .done _ s => s
  | .fault _ _ s => s
  | .wait _ s => s

/-- What a release of the vector unit leaves. -/
abbrev VGate.state : VGate → State
  | .go s => s
  | .wait s => s
  | .lost _ s => s

/-- What a factor array command leaves. -/
abbrev FaRes.state : FaRes → State
  | .done s => s
  | .stop _ _ _ _ _ s => s
  | .wait s => s
  | .unready s => s

/-- What a read of a tile leaves. -/
abbrev TileRead.state : TileRead → State
  | .go s => s
  | .wait s => s
  | .empty s => s

/-- What a row sent leaves. -/
abbrev Sent.state : Sent → State
  | .all s => s
  | .stop _ _ s => s
  | .wait s => s

/-- A step that gives a next state gives one whose memory is canonical. -/
def Out.memWf (o : Out) : Prop := ∀ t, o = .next t → t.memWf

/-- What a gate passes or stops with keeps memory canonical. -/
def Gate.memWf (g : Gate) : Prop := (∀ s, g = .go s → s.memWf) ∧ ∀ o, g = .stop o → o.memWf

theorem Out.next_memWf (hs : s.memWf) : Out.memWf (.next s) := by
  rintro t ⟨⟩
  exact hs

theorem Out.fault_memWf {r} : Out.memWf (.fault r) := nofun

theorem Gate.go_memWf (hs : s.memWf) : Gate.memWf (.go s) :=
  ⟨by rintro t ⟨⟩; exact hs, nofun⟩

theorem Gate.stop_memWf {o} (ho : o.memWf) : Gate.memWf (.stop o) :=
  ⟨nofun, by rintro t ⟨⟩; exact ho⟩

theorem memWf_foldl {α : Type} {f : State → α → State} {l : List α} (hf : ∀ s a, s.memWf → (f s a).memWf) (hs : s.memWf) :
    (l.foldl f s).memWf :=
  List.foldlRecOn l f hs (fun t ht a _ => hf t a ht)

theorem Res.memWf_of_ok {α : Type} {r : Res α} {v t} (h : r.state.memWf) (e : r = .ok v t) : t.memWf := by subst e; exact h

theorem Res.memWf_of_exc {α : Type} {r : Res α} {c t} (h : r.state.memWf) (e : r = .exc c t) : t.memWf := by subst e; exact h

theorem Res.memWf_of_lost {α : Type} {r : Res α} {c t} (h : r.state.memWf) (e : r = .lost c t) : t.memWf := by subst e; exact h

theorem Res.memWf_of_wait {α : Type} {r : Res α} {t} (h : r.state.memWf) (e : r = .wait t) : t.memWf := by subst e; exact h

theorem AckState.memWf_of_done {r : AckState} {t} (h : r.state.memWf) (e : r = .done t) : t.memWf := by subst e; exact h

theorem AckState.memWf_of_wait {r : AckState} {t} (h : r.state.memWf) (e : r = .wait t) : t.memWf := by subst e; exact h

theorem AckState.memWf_of_lost {r : AckState} {a t} (h : r.state.memWf) (e : r = .lost a t) : t.memWf := by subst e; exact h

theorem Walk.memWf_of_all {r : Walk} {c t} (h : r.state.memWf) (e : r = .all c t) : t.memWf := by subst e; exact h

theorem Walk.memWf_of_stop {r : Walk} {x g c t} (h : r.state.memWf) (e : r = .stop x g c t) : t.memWf := by subst e; exact h

theorem Walk.memWf_of_wait {r : Walk} {c t} (h : r.state.memWf) (e : r = .wait c t) : t.memWf := by subst e; exact h

theorem Flow.memWf_of_go {r : Flow} {l t} (h : r.state.memWf) (e : r = .go l t) : t.memWf := by subst e; exact h

theorem Flow.memWf_of_stop {r : Flow} {x l t} (h : r.state.memWf) (e : r = .stop x l t) : t.memWf := by subst e; exact h

theorem Flow.memWf_of_wait {r : Flow} {l t} (h : r.state.memWf) (e : r = .wait l t) : t.memWf := by subst e; exact h

theorem VRes.memWf_of_more {r : VRes} {t} (h : r.state.memWf) (e : r = .more t) : t.memWf := by subst e; exact h

theorem VRes.memWf_of_done {r : VRes} {t} (h : r.state.memWf) (e : r = .done t) : t.memWf := by subst e; exact h

theorem VRes.memWf_of_fault {r : VRes} {t} (h : r.state.memWf) (e : r = .fault t) : t.memWf := by subst e; exact h

theorem VRes.memWf_of_wait {r : VRes} {t} (h : r.state.memWf) (e : r = .wait t) : t.memWf := by subst e; exact h

theorem WinOut.memWf_of_more {r : WinOut} {n t} (h : r.state.memWf) (e : r = .more n t) : t.memWf := by subst e; exact h

theorem WinOut.memWf_of_done {r : WinOut} {n t} (h : r.state.memWf) (e : r = .done n t) : t.memWf := by subst e; exact h

theorem WinOut.memWf_of_fault {r : WinOut} {n l t} (h : r.state.memWf) (e : r = .fault n l t) : t.memWf := by subst e; exact h

theorem WinOut.memWf_of_wait {r : WinOut} {n t} (h : r.state.memWf) (e : r = .wait n t) : t.memWf := by subst e; exact h

theorem VGate.memWf_of_go {r : VGate} {t} (h : r.state.memWf) (e : r = .go t) : t.memWf := by subst e; exact h

theorem VGate.memWf_of_wait {r : VGate} {t} (h : r.state.memWf) (e : r = .wait t) : t.memWf := by subst e; exact h

theorem VGate.memWf_of_lost {r : VGate} {a t} (h : r.state.memWf) (e : r = .lost a t) : t.memWf := by subst e; exact h

theorem FaRes.memWf_of_done {r : FaRes} {t} (h : r.state.memWf) (e : r = .done t) : t.memWf := by subst e; exact h

theorem FaRes.memWf_of_stop {r : FaRes} {c b v k f t} (h : r.state.memWf) (e : r = .stop c b v k f t) : t.memWf := by subst e; exact h

theorem FaRes.memWf_of_wait {r : FaRes} {t} (h : r.state.memWf) (e : r = .wait t) : t.memWf := by subst e; exact h

theorem FaRes.memWf_of_unready {r : FaRes} {t} (h : r.state.memWf) (e : r = .unready t) : t.memWf := by subst e; exact h

theorem TileRead.memWf_of_go {r : TileRead} {t} (h : r.state.memWf) (e : r = .go t) : t.memWf := by subst e; exact h

theorem TileRead.memWf_of_wait {r : TileRead} {t} (h : r.state.memWf) (e : r = .wait t) : t.memWf := by subst e; exact h

theorem TileRead.memWf_of_empty {r : TileRead} {t} (h : r.state.memWf) (e : r = .empty t) : t.memWf := by subst e; exact h

theorem Sent.memWf_of_all {r : Sent} {t} (h : r.state.memWf) (e : r = .all t) : t.memWf := by subst e; exact h

theorem Sent.memWf_of_stop {r : Sent} {c n t} (h : r.state.memWf) (e : r = .stop c n t) : t.memWf := by subst e; exact h

theorem Sent.memWf_of_wait {r : Sent} {t} (h : r.state.memWf) (e : r = .wait t) : t.memWf := by subst e; exact h

theorem Out.memWf_of_next {r : Out} {t} (h : r.memWf) (e : r = .next t) : t.memWf := h t e

theorem Gate.memWf_of_go {r : Gate} {t} (h : r.memWf) (e : r = .go t) : t.memWf := h.1 t e

theorem Gate.memWf_of_stop {r : Gate} {o} (h : r.memWf) (e : r = .stop o) : o.memWf := h.2 o e

theorem memWf_of_mem_eq {t : State} (hs : s.memWf) (e : t.mem = s.mem := by with_reducible rfl) :
    t.memWf := by unfold State.memWf; rw [e]; exact hs

theorem memWf_ite {a b : State} {c : Prop} [Decidable c] (ha : a.memWf) (hb : b.memWf) : (if c then a else b).memWf := by
  split <;> assumption

theorem memWf_ite_of {α : Type} {f : α → State} {a b : α} {c : Prop} [Decidable c] (ha : (f a).memWf) (hb : (f b).memWf) :
    (f (if c then a else b)).memWf := by
  split <;> assumption

theorem memWf_getD {o : Option State} (ho : ∀ t, o = some t → t.memWf) (hs : s.memWf) : (o.getD s).memWf := by
  cases o with
  | none => exact hs
  | some t => exact ho t rfl

theorem Out.memWf_ite {a b : Out} {c : Prop} [Decidable c] (ha : a.memWf) (hb : b.memWf) : Out.memWf (if c then a else b) := by
  split <;> assumption

theorem eq_ok_of_toOption {ε α : Type} {x : Except ε α} {a} (e : x.toOption = some a) : x = .ok a := by
  cases x with
  | error => nomatch e
  | ok =>
    cases e
    rfl

/-! ## Bytes of memory, poison and tags -/

theorem writeMem_memWf {pa n v} (hs : s.memWf) : (writeMem s pa n v).memWf := cellsWrite_wf pa n v hs

theorem poisonAt_memWf {pa} (hs : s.memWf) : (poisonAt s pa).memWf :=
  hs

theorem clearPoison_memWf {pa n} (hs : s.memWf) : (clearPoison s pa n).memWf :=
  hs

theorem storeMem_memWf {pa n v} (hs : s.memWf) : (storeMem s pa n v).memWf :=
  clearPoison_memWf (writeMem_memWf hs)

/-! ## Units, the trace and the error counts -/

theorem setThr_memWf {k t} (hs : s.memWf) : (setThr s k t).memWf :=
  hs

theorem setCore_memWf {c v} (hs : s.memWf) : (setCore s c v).memWf :=
  hs

theorem setCluster_memWf {c v} (hs : s.memWf) : (setCluster s c v).memWf :=
  hs

theorem setCtx_memWf {c v} (hs : s.memWf) : (setCtx s c v).memWf :=
  hs

theorem setEngine_memWf {n v} (hs : s.memWf) : (setEngine s n v).memWf :=
  hs

theorem putSeq_memWf {a q} (hs : s.memWf) : (putSeq s a q).memWf := by
  unfold putSeq
  split
  · exact setThr_memWf hs
  · exact setCtx_memWf hs
  · exact setEngine_memWf hs

theorem setSeq_memWf {q} (hs : s.memWf) : (setSeq s q).memWf :=
  putSeq_memWf hs

theorem setLoops_memWf {l} (hs : s.memWf) : (setLoops s l).memWf :=
  setSeq_memWf hs

theorem loopEnd_memWf {p b} (hs : s.memWf) : (loopEnd p b s).memWf :=
  setSeq_memWf hs

theorem finish_memWf (hs : s.memWf) : (finish s).memWf :=
  loopEnd_memWf hs

theorem jump_memWf {l t} (hs : s.memWf) : (jump l t s).memWf :=
  setSeq_memWf hs

theorem setDevice_memWf {d v} (hs : s.memWf) : (setDevice s d v).memWf :=
  hs

theorem traceEntry_memWf {kind die tid addr word} (hs : s.memWf) : (traceEntry kind die tid addr word s).memWf := by
  unfold traceEntry
  extract_lets
  split
  · exact hs
  · exact writeMem_memWf (writeMem_memWf hs)

theorem dropFailed_memWf {r} (hs : s.memWf) : (dropFailed r s).memWf :=
  hs

theorem rasCount_memWf {die idx cause pa} (hs : s.memWf) : (rasCount die idx cause pa s).memWf := by
  unfold rasCount
  exact traceEntry_memWf (writeMem_memWf (writeMem_memWf (writeMem_memWf hs)))

/-! ## Scalar operands -/

theorem setX_memWf {r v} (hs : s.memWf) : (setX s r v).memWf := by
  unfold setX
  split
  · exact hs
  · exact setSeq_memWf hs

theorem setPairX_memWf {p v} (hs : s.memWf) : (setPairX s p v).memWf :=
  setX_memWf (setX_memWf hs)

/-! ## Translation and copies on write -/

theorem clearTags_memWf {pa n} (hs : s.memWf) : (clearTags s pa n).memWf :=
  hs

theorem writePlain_memWf {pa n v} (hs : s.memWf) : (writePlain s pa n v).memWf :=
  clearTags_memWf (writeMem_memWf hs)

theorem writeReplicas_memWf {p addr new} (hs : s.memWf) : (writeReplicas p addr new s).memWf :=
  memWf_foldl (fun _ _ ht => writePlain_memWf ht) hs

theorem noteChecked_memWf {die asid va p} (hs : s.memWf) : (noteChecked die asid va p s).memWf :=
  memWf_ite hs hs

theorem noteWalk_memWf {c asid va} (hs : s.memWf) : (noteWalk c asid va s).memWf := by
  unfold noteWalk
  split
  · exact hs
  · split
    · exact hs
    · split
      · exact hs
      · extract_lets
        split <;> exact hs

theorem dropTlb_memWf {dev f} (hs : s.memWf) : (dropTlb dev f s).memWf :=
  hs

theorem copyRange_memWf {src dst n} (hs : s.memWf) : (copyRange src dst n s).memWf :=
  foldl_cellSet_wf _ (filter_wf _ hs)

theorem cowPerform_memWf {die asid va} (hs : s.memWf) {t} (e : cowPerform die asid va s = some t) : t.memWf := by
  unfold cowPerform at e
  split at e
  · cases e
    exact dropTlb_memWf hs
  · split at e
    · cases e
      exact dropTlb_memWf hs
    · split at e
      · nomatch e
      · cases e
        exact writeMem_memWf (writePlain_memWf (dropTlb_memWf (writeReplicas_memWf (copyRange_memWf (writePlain_memWf hs)))))

/-! ## Regions and their events -/

theorem eventWrite_memWf {q cause evt tid rid value} (hs : s.memWf) : (eventWrite q cause evt tid rid value s).memWf := by
  unfold eventWrite
  split
  · exact hs
  · extract_lets
    split
    · exact writeMem_memWf hs
    · exact writeMem_memWf (writeMem_memWf hs)

theorem noteCause_memWf {bind cause} (hs : s.memWf) : (noteCause bind cause s).memWf :=
  hs

theorem reportTo_memWf {h rid k bind cause value evt} (hs : s.memWf) : (reportTo h rid k bind cause value evt s).memWf := by
  unfold reportTo
  extract_lets _ slot t
  have ht : t.memWf := noteCause_memWf (eventWrite_memWf hs)
  cases slot with
  | none => exact ht
  | some _ => exact traceEntry_memWf ht

/-! ## Race domains -/

theorem setDom_memWf {d v} (hs : s.memWf) : (setDom s d v).memWf :=
  hs

theorem setClock_memWf {d agent c} (hs : s.memWf) : (setClock s d agent c).memWf :=
  setDom_memWf hs

theorem clearTag_memWf {line} (hs : s.memWf) : (clearTag s line).memWf :=
  hs

theorem joinBlock_memWf {d c blk} (hs : s.memWf) : (joinBlock d c blk s).memWf :=
  writeMem_memWf (setDom_memWf hs)

theorem epochStep_memWf {d agent} (hs : s.memWf) : (epochStep d agent s).memWf := by
  unfold epochStep
  split
  · exact hs
  · extract_lets _ _ s1 _
    have hs1 : s1.memWf := setClock_memWf hs
    split
    · exact setDom_memWf hs1
    · exact hs1

theorem epochReset_memWf {d} (hs : s.memWf) : (epochReset d s).memWf := by
  unfold epochReset
  exact memWf_foldl (fun _ _ ht => writeMem_memWf ht) (memWf_of_mem_eq (setDom_memWf hs))

theorem dueReset_memWf {d} (hs : s.memWf) : (dueReset d s).memWf := by
  unfold dueReset
  split
  · exact epochReset_memWf hs
  · exact hs

theorem writeTag_memWf {d agent epoch line} (hs : s.memWf) : (writeTag s d agent epoch line).memWf := by
  unfold writeTag
  split
  · exact hs
  · exact dueReset_memWf hs

theorem bindAgent_memWf {d agent k} (hs : s.memWf) : (bindAgent d agent k s).memWf := by
  unfold bindAgent
  split
  · exact hs
  · exact setDom_memWf hs

theorem freeAgent_memWf {d agent} (hs : s.memWf) : (freeAgent d agent s).memWf := by
  unfold freeAgent
  split
  · exact hs
  · exact setDom_memWf hs

/-! ## Barrier objects -/

theorem setNm_memWf {d v} (hs : s.memWf) : (setNm s d v).memWf :=
  hs

theorem fireArmed_memWf {pa phase} (hs : s.memWf) : (fireArmed pa phase s).memWf :=
  hs

theorem flipResets_memWf {pa arr} (hs : s.memWf) : (flipResets pa arr s).memWf :=
  memWf_foldl (fun _ _ ht => memWf_ite (memWf_ite (setDom_memWf ht) (epochReset_memWf ht)) ht) hs

theorem barUpdate_memWf {u pa agent} (hs : s.memWf) {t} (e : barUpdate u pa agent s = some t) : t.memWf := by
  unfold barUpdate at e
  split at e
  · nomatch e
  · extract_lets _ _ _ _ v w at e
    have hv : v.memWf := storeMem_memWf (memWf_of_mem_eq hs)
    have hw : w.memWf := fireArmed_memWf (memWf_of_mem_eq hv)
    split at e
    · cases e
      exact memWf_ite (flipResets_memWf hw) hw
    · cases e
      exact storeMem_memWf (memWf_of_mem_eq hs)

theorem barArm_memWf {pa p die} (hs : s.memWf) : (barArm pa p die s).2.memWf := by
  unfold barArm
  extract_lets
  split
  · exact hs
  · exact cellsWrite_wf _ _ _ hs

/-! ## Reach -/

theorem setPair_memWf {die dest v} (hs : s.memWf) : (setPair s die dest v).memWf :=
  hs

/-! ## Fault records, traps and ends of programs -/

theorem recordStore_memWf {k asid va n v} (hs : s.memWf) {t} (e : recordStore k asid va n v s = .ok t) : t.memWf := by
  unfold recordStore at e
  split at e
  · nomatch e
  · split at e
    · nomatch e
    · split at e
      · nomatch e
      · split at e
        · nomatch e
        · split at e
          · nomatch e
          · next u hu =>
            have hu : u.memWf := by
              split at hu
              · exact cowPerform_memWf hs hu
              · cases hu
                exact hs
            split at e
            · nomatch e
            · split at e
              · nomatch e
              · cases e
                exact clearTags_memWf (storeMem_memWf hu)

theorem addrStores_memWf {k asid base i l t} (hs : s.memWf) (e : addrStores k asid base i l s = .ok t) : t.memWf := by
  induction l generalizing i s with
  | nil =>
    cases e
    exact hs
  | cons a l ih =>
    unfold addrStores at e
    split at e
    · nomatch e
    · exact ih (recordStore_memWf hs ‹_›) e

theorem recordWrite_memWf {i r addrs} (hs : s.memWf) {v₁ t} (e : recordWrite i r addrs s = .ok (v₁, t)) : t.memWf := by
  unfold recordWrite at e
  extract_lets at e
  split at e
  · nomatch e
  · split at e
    · nomatch e
    · split at e
      · nomatch e
      · cases e
        exact setCore_memWf (recordStore_memWf (addrStores_memWf hs ‹_›) ‹_›)

theorem ringFull_memWf {h} (hs : s.memWf) : (ringFull h s).memWf := by
  unfold ringFull
  extract_lets
  split
  · exact hs
  · exact reportTo_memWf (setCore_memWf hs)

theorem recordHold_memWf {h} (hs : s.memWf) : (recordHold h s).memWf :=
  ringFull_memWf (setCore_memWf hs)

theorem quietLost_memWf {i cause} (hs : s.memWf) : (quietLost i cause s).memWf := by
  unfold quietLost
  exact memWf_of_mem_eq (reportTo_memWf hs)

theorem recordQuiet_memWf {i r} (hs : s.memWf) : (recordQuiet i r s).memWf := by
  unfold recordQuiet
  split
  · exact recordHold_memWf hs
  · split
    · exact recordWrite_memWf hs ‹_›
    · exact quietLost_memWf hs

theorem endProgram_memWf {cn} (hs : s.memWf) : (endProgram cn s).memWf := by
  unfold endProgram
  split
  · exact recordQuiet_memWf (setCtx_memWf hs)
  · exact setCtx_memWf hs

theorem stopForks_memWf {k b} (hs : s.memWf) : (stopForks k b s).memWf := by
  unfold stopForks
  extract_lets _ _ s1 _ _ _ s2 s3 _ _ s4 s5 s6
  have hs1 : s1.memWf := by
    unfold s1
    split
    · split
      · split
        · exact setCtx_memWf hs
        · exact endProgram_memWf hs
      · exact hs
    · exact hs
  have hs2 : s2.memWf := setCtx_memWf hs1
  have hs3 : s3.memWf := memWf_foldl (fun t _ ht => recordQuiet_memWf ht) hs2
  clear_value s3
  have hs5 : s5.memWf := memWf_foldl (fun t _ ht => recordQuiet_memWf ht) hs3
  have hs6 : s6.memWf := by
    refine memWf_foldl ?_ hs5
    intro t _ ht
    extract_lets _ _ s7
    have hs7 : s7.memWf := by
      unfold s7
      split
      · split
        · exact recordQuiet_memWf (setEngine_memWf ht)
        · exact ht
      · exact ht
    exact setEngine_memWf hs7
  clear_value s6
  exact hs6

theorem dropRequests_memWf {k} (hs : s.memWf) : (dropRequests k s).memWf :=
  hs

theorem reportDeliveries_memWf {k l} (hs : s.memWf) : (reportDeliveries k l s).memWf :=
  memWf_foldl (fun _ _ ht => reportTo_memWf ht) hs

theorem killThread_memWf {k} (hs : s.memWf) : (killThread k s).memWf := by
  unfold killThread
  extract_lets _ s1 _ _ s2 _ _ _ _ _ _ _
  have hs1 : s1.memWf := stopForks_memWf hs
  have hs2 : s2.memWf := reportDeliveries_memWf hs1
  split
  · exact setThr_memWf (dropRequests_memWf (dropRequests_memWf hs2))
  · exact setThr_memWf (dropRequests_memWf (dropRequests_memWf hs2))
  · exact setThr_memWf (dropRequests_memWf (dropRequests_memWf hs2))
  · exact setThr_memWf hs
  · exact hs

theorem requestPreempt_memWf {k} (hs : s.memWf) : (requestPreempt k s).memWf := by
  unfold requestPreempt
  extract_lets
  split
  · exact setThr_memWf hs
  · exact hs

theorem orAflags_memWf {k f} (hs : s.memWf) : (orAflags k f s).memWf := by
  unfold orAflags
  split
  · exact hs
  · exact setThr_memWf hs

theorem applyPolicy_memWf {h rcb} (hs : s.memWf) : (applyPolicy h rcb s).memWf := by
  unfold applyPolicy
  split
  · exact memWf_foldl (fun _ _ ht => requestPreempt_memWf ht) hs
  · exact memWf_foldl (fun _ _ ht => killThread_memWf ht) hs
  · exact hs

theorem policyDue_memWf (hs : s.memWf) : (policyDue s).memWf := by
  unfold policyDue
  split
  · exact hs
  · exact applyPolicy_memWf hs

theorem reportFault_memWf {k cause value} (hs : s.memWf) : (reportFault k cause value s).memWf :=
  applyPolicy_memWf (reportTo_memWf (setThr_memWf (dropRequests_memWf hs)))

theorem trapTo_memWf {k cause val ecls} (hs : s.memWf) : (trapTo k cause val ecls s).memWf := by
  unfold trapTo
  extract_lets
  split
  · exact reportFault_memWf hs
  · exact setThr_memWf (dropRequests_memWf hs)

theorem takeOwed_memWf {u d k} (hs : s.memWf) : (takeOwed u d k s).memWf := by
  unfold takeOwed
  extract_lets _ s1
  have hs1 : s1.memWf := setThr_memWf hs
  split
  · exact reportFault_memWf hs1
  · exact trapTo_memWf hs1

theorem trapNow_memWf {u d i} (hs : s.memWf) : (trapNow u d i s).memWf := by
  unfold trapNow
  extract_lets
  split
  · exact reportTo_memWf hs
  · split
    · exact setThr_memWf hs
    · exact takeOwed_memWf hs

theorem vectorTrap_memWf {k cause val ecls} (hs : s.memWf) : (vectorTrap k cause val ecls s).memWf :=
  trapNow_memWf hs

theorem recordDone_memWf {u i r addr} (hs : s.memWf) : (recordDone u i r addr s).memWf := by
  unfold recordDone
  extract_lets
  split
  · exact hs
  · exact trapNow_memWf hs
  · exact trapNow_memWf hs
  · split
    · exact setThr_memWf hs
    · exact reportTo_memWf hs
  · split
    · exact setThr_memWf hs
    · exact reportTo_memWf hs

theorem reportSoon_memWf {k cause} (hs : s.memWf) : (reportSoon k cause s).memWf := by
  unfold reportSoon
  split
  · exact setThr_memWf hs
  · exact reportFault_memWf hs

theorem recordLost_memWf {u i cause} (hs : s.memWf) : (recordLost u i cause s).memWf := by
  unfold recordLost
  extract_lets
  split
  · exact quietLost_memWf hs
  · split
    · exact reportFault_memWf (setThr_memWf hs)
    · exact reportTo_memWf hs
  · split
    · exact reportFault_memWf (setThr_memWf hs)
    · exact reportTo_memWf hs
  · split
    · exact reportSoon_memWf (orAflags_memWf hs)
    · exact reportTo_memWf hs
  · split
    · exact reportSoon_memWf (orAflags_memWf hs)
    · exact reportTo_memWf hs

theorem markHeld_memWf {u k} (hs : s.memWf) : (markHeld u k s).memWf := by
  unfold markHeld
  split
  · exact setThr_memWf hs
  · exact setThr_memWf hs
  · exact hs

theorem writeRecord_memWf {u i r addrs} (hs : s.memWf) : (writeRecord u i r addrs s).memWf := by
  unfold writeRecord
  split
  · exact markHeld_memWf (recordHold_memWf hs)
  · split
    · exact recordDone_memWf (recordWrite_memWf hs ‹_›)
    · exact recordLost_memWf hs

theorem scalarFault_memWf {k cause val ecls} (hs : s.memWf) : (scalarFault k cause val ecls s).memWf := by
  unfold scalarFault
  extract_lets
  split
  · exact writeRecord_memWf hs
  · exact trapTo_memWf hs

theorem stopProgram_memWf {a cause brow vcur chunk fl} (hs : s.memWf) : (stopProgram a cause brow vcur chunk fl s).memWf := by
  unfold stopProgram
  split
  · exact hs
  · split
    · exact hs
    · exact writeRecord_memWf (setThr_memWf (setCtx_memWf (dropFailed_memWf hs)))
  · split
    · exact hs
    · exact writeRecord_memWf (setThr_memWf (setEngine_memWf (dropFailed_memWf hs)))

theorem raise_memWf {cause val} (hs : s.memWf) : (raise cause val s).memWf := by
  unfold raise
  split
  · split
    · exact Out.next_memWf (scalarFault_memWf hs)
    · exact Out.next_memWf hs
  · exact Out.next_memWf (stopProgram_memWf hs)

theorem blockOn_memWf (hs : s.memWf) : (blockOn s).memWf := by
  unfold blockOn
  split
  · exact Out.next_memWf (setThr_memWf hs)
  · exact Out.next_memWf hs

theorem stall_memWf (hs : s.memWf) : (stall s).memWf :=
  Out.next_memWf hs

/-! ## Scalar instructions -/

theorem writeOn_memWf {d v} (hs : s.memWf) : (writeOn d v s).memWf :=
  Out.next_memWf (finish_memWf (setX_memWf hs))

theorem execJalr_memWf {d a} (hs : s.memWf) : (execJalr d a s).memWf := by
  unfold execJalr
  extract_lets
  split
  · exact raise_memWf hs
  · exact Out.next_memWf (jump_memWf (setX_memWf hs))

theorem execLidx_memWf {d k} (hs : s.memWf) : (execLidx d k s).memWf := by
  unfold execLidx
  split
  · exact writeOn_memWf hs
  · exact raise_memWf hs

theorem execLbrk_memWf {k} (hs : s.memWf) : (execLbrk k s).memWf := by
  unfold execLbrk
  extract_lets
  split
  · split
    · exact Out.next_memWf (loopEnd_memWf (setLoops_memWf hs))
    · exact raise_memWf hs
  · exact raise_memWf hs

theorem branch_memWf {taken off} (hs : s.memWf) : (branch taken off s).memWf := by
  unfold branch
  split
  · exact Out.next_memWf (jump_memWf hs)
  · exact Out.next_memWf (finish_memWf hs)

theorem execLoop_memWf {c hint e} (hs : s.memWf) : (execLoop c hint e s).memWf := by
  unfold execLoop
  extract_lets
  split
  · exact raise_memWf hs
  · split
    · exact Out.next_memWf (loopEnd_memWf hs)
    · split
      · exact raise_memWf hs
      · split
        · exact raise_memWf hs
        · exact Out.next_memWf (setSeq_memWf hs)

/-! ## Incremental queues: their objects -/

theorem setIqRaw_memWf {key q} (hs : s.memWf) : (setIqRaw key q s).memWf :=
  hs

theorem qdrWrite_memWf {key q} (hs : s.memWf) : (qdrWrite key q s).memWf :=
  writePlain_memWf hs

theorem setIq_memWf {key q} (hs : s.memWf) : (setIq key q s).memWf :=
  qdrWrite_memWf (setIqRaw_memWf hs)

theorem iqProtect_memWf {o : State} {pa n} (hs : s.memWf) : (iqProtect o pa n s).memWf := by
  unfold iqProtect
  refine memWf_foldl ?_ hs
  intro _ _ ht
  extract_lets _ s1
  have hs1 : s1.memWf := by
    unfold s1
    split
    · split
      · exact writeMem_memWf ht
      · exact ht
    · exact ht
  split
  · split
    · exact setIq_memWf hs1
    · exact qdrWrite_memWf hs1
  · exact hs1

theorem hayStat_memWf {die} (hs : s.memWf) : (hayStat die s).memWf :=
  writeMem_memWf hs

theorem dropStale_memWf {die dest} (hs : s.memWf) : (dropStale die dest s).memWf :=
  memWf_foldl (fun _ _ ht => memWf_ite (hayStat_memWf (setIqRaw_memWf ht)) ht) hs

theorem graphUpdate_memWf {g tell} (hs : s.memWf) : (graphUpdate g tell s).memWf := by
  unfold graphUpdate
  extract_lets _ _ s1
  have hs1 : s1.memWf := writePlain_memWf hs
  split
  · split
    · exact reportTo_memWf hs1
    · exact hs1
  · exact hs1

theorem slotWrite_memWf {q} (hs : s.memWf) : (slotWrite q s).memWf := by
  unfold slotWrite
  split
  · exact hs
  · exact graphUpdate_memWf (writePlain_memWf hs)

/-! ## Links and packets -/

theorem choosePath_memWf {die dest cls seq} (hs : s.memWf) : (choosePath s die dest cls seq).2.memWf := by
  unfold choosePath
  split <;> exact hs

theorem sendPacket_memWf {kind c v i die dest pieces push done} (hs : s.memWf) :
    (sendPacket kind c v i die dest pieces push done s).memWf := by
  unfold sendPacket
  extract_lets _ r _ t
  have ht : t.memWf := setPair_memWf (choosePath_memWf hs)
  clear_value t
  exact ht

theorem mergeLine_memWf {f line} (hs : s.memWf) : (mergeLine f line s).memWf := by
  unfold mergeLine
  refine memWf_foldl ?_ hs
  intro _ _ ht
  split
  · split
    · exact memWf_foldl (fun _ _ hu => memWf_ite (writeMem_memWf hu) hu) ht
    · exact ht
  · exact ht

theorem dropCopies_memWf {line} (hs : s.memWf) : (dropCopies line s).memWf := by
  unfold dropCopies
  exact memWf_of_mem_eq (mergeLine_memWf hs)

theorem setDir_memWf {line e} (hs : s.memWf) : (setDir line e s).memWf :=
  hs

theorem setLlc_memWf {die line c} (hs : s.memWf) : (setLlc die line c s).memWf :=
  hs

theorem demote_memWf {die line} (hs : s.memWf) : (demote die line s).memWf := by
  unfold demote
  split
  · exact hs
  · exact setLlc_memWf (mergeLine_memWf hs)

theorem fetchOwner_memWf {line} (hs : s.memWf) : (fetchOwner line s).memWf := by
  unfold fetchOwner
  extract_lets
  split
  · exact hs
  · exact setDir_memWf (demote_memWf hs)

theorem llcRoom_memWf {die} (hs : s.memWf) : (llcRoom die s).memWf := by
  unfold llcRoom
  extract_lets
  split
  · exact hs
  · split
    · exact hs
    · extract_lets _ t
      have ht : t.memWf := mergeLine_memWf (memWf_of_mem_eq hs)
      exact memWf_of_mem_eq ht

theorem hostStore_memWf {pa n data} (hs : s.memWf) : (hostStore pa n data s).memWf :=
  hs

theorem storeBank_memWf {pa n v} (hs : s.memWf) : (storeBank pa n v s).memWf :=
  iqProtect_memWf (memWf_foldl (fun _ _ ht => writeMem_memWf ht) (storeMem_memWf hs))

theorem storeHome_memWf {pa n v} (hs : s.memWf) : (storeHome pa n v s).memWf := by
  unfold storeHome
  split
  · exact storeMem_memWf (dropCopies_memWf hs)
  · exact hostStore_memWf hs
  · exact storeBank_memWf hs

theorem performPacket_memWf {p} (hs : s.memWf) : (performPacket p s).memWf :=
  memWf_foldl (fun _ _ ht => storeHome_memWf ht) (memWf_of_mem_eq (dropStale_memWf hs))

theorem settleWrites_memWf {pa n} (hs : s.memWf) : (settleWrites pa n s).memWf :=
  memWf_foldl (fun _ _ ht => performPacket_memWf ht) hs

theorem ackPacket_memWf {p} (hs : s.memWf) : (ackPacket p s).memWf :=
  setPair_memWf hs

/-! ## Attestation and the device window -/

theorem setPst_memWf {d n} (hs : s.memWf) : (setPst d n s).memWf :=
  memWf_foldl (fun _ _ ht => writeMem_memWf ht) hs

theorem attRequest_memWf {d} (hs : s.memWf) : (attRequest d s).memWf := by
  unfold attRequest
  split
  · exact hs
  · exact writeMem_memWf (setDevice_memWf hs)

theorem attStore_memWf {d o n v} (hs : s.memWf) : (attStore d o n v s).memWf := by
  unfold attStore
  extract_lets _ _ s1
  have hs1 : s1.memWf := memWf_ite (writeMem_memWf hs) hs
  split
  · exact attRequest_memWf hs1
  · exact hs1

/-! ## Tiles -/

theorem setTileEntry_memWf {ck n v} (hs : s.memWf) : (setTileEntry ck n v s).memWf :=
  writeMem_memWf hs

theorem clusterWindowStore_memWf {ck o n v} (hs : s.memWf) : (clusterWindowStore ck o n v s).memWf := by
  unfold clusterWindowStore
  split
  · exact writeMem_memWf hs
  · split
    · extract_lets
      split
      · exact setTileEntry_memWf hs
      · split
        · exact setTileEntry_memWf hs
        · exact hs
    · exact hs

/-! ## Accesses -/

theorem Res.next_memWf {α β : Type} {r : Res α} {f : α → State → Res β} (hr : r.state.memWf) (hf : ∀ v s, s.memWf → (f v s).state.memWf) :
    (r.next f).state.memWf := by
  cases r with
  | ok v s => exact hf v s hr
  | exc => exact hr
  | lost => exact hr
  | wait => exact hr

theorem wantCopy_memWf {die asid va} (hs : s.memWf) : (wantCopy die asid va s).memWf :=
  memWf_ite hs hs

theorem noteAccess_memWf {w ea} (hs : s.memWf) : (noteAccess w ea s).memWf := by
  unfold noteAccess
  extract_lets s1
  have hs1 : s1.memWf := noteWalk_memWf hs
  split
  · exact hs1
  · exact noteChecked_memWf hs1

theorem noteTried_memWf {w ea} (hs : s.memWf) : (noteTried w ea s).memWf := by
  unfold noteTried
  split
  · exact noteAccess_memWf hs
  · exact hs

theorem resolve_memWf {w rd wr align ea} (hs : s.memWf) : (resolve s w rd wr align ea).state.memWf := by
  unfold resolve
  extract_lets _ s1
  have hs1 : s1.memWf := memWf_ite (noteTried_memWf hs) hs
  split
  · split <;> exact hs1
  · split
    · exact hs1
    · split
      · split
        · exact hs1
        · exact wantCopy_memWf hs1
      · split <;> exact hs1

theorem tagLines_memWf {w p pa n} (hs : s.memWf) : (tagLines w p pa n s).memWf := by
  unfold tagLines
  split
  · exact memWf_foldl (fun _ _ ht => writeTag_memWf ht) hs
  · exact hs

theorem noteLine_memWf {w p pa} (hs : s.memWf) : (noteLine w p pa s).memWf :=
  memWf_ite hs hs

theorem hostAccess_memWf {w pa op n operand compare} (hs : s.memWf) : (hostAccess w pa op n operand compare s).state.memWf := by
  unfold hostAccess
  extract_lets
  split
  · exact hs
  · split
    · exact hs
    · split
      · exact hs
      · split
        · exact hs
        · split <;> exact hs

theorem remoteGate_memWf {w pa op n operand compare} (hs : s.memWf) : (remoteGate w pa op n operand compare s).state.memWf := by
  unfold remoteGate
  split
  · exact hs
  · extract_lets
    split
    · exact hs
    · split
      · exact dropStale_memWf (memWf_ite hs hs)
      · split <;> exact hs

theorem askedFrom_memWf {s0 : State} (hs0 : s0.memWf) : (askedFrom s0 s).memWf :=
  hs0

theorem waitFrom_memWf {s0 : State} (hs0 : s0.memWf) : (waitFrom s0 s).memWf :=
  hs0

theorem wholeOr_memWf {α : Type} {r : Res α} (hs : s.memWf) (hr : r.state.memWf) : (wholeOr s r).state.memWf := by
  cases r with
  | ok => exact hr
  | exc => exact askedFrom_memWf hs
  | lost => exact askedFrom_memWf hs
  | wait => exact waitFrom_memWf hs

theorem multicastLoad_memWf {w p pa n} (hs : s.memWf) : (multicastLoad w p pa n s).state.memWf := by
  unfold multicastLoad
  extract_lets _ _ _ _ s1 _
  have hs1 : s1.memWf := memWf_foldl (fun _ _ ht => fetchOwner_memWf ht) hs
  split
  · exact hs
  · split
    · exact hs
    · split
      · exact hs
      · split
        · exact hs
        · split
          · exact hs
          · split
            · exact hs
            · split
              · exact hs
              · split
                · exact hs
                · split
                  · exact hs1
                  · exact setThr_memWf hs1

theorem readMiss_memWf {w p pa n} (hs : s.memWf) : (readMiss w p pa n s).state.memWf := by
  unfold readMiss
  split
  · exact hs
  · exact noteLine_memWf (fetchOwner_memWf hs)

theorem readAt_memWf {w p pa n} (hs : s.memWf) : (readAt w p pa n s).state.memWf := by
  unfold readAt
  split
  · exact hostAccess_memWf hs
  · split
    · split <;> exact hs
    · exact Res.next_memWf (remoteGate_memWf hs) (fun _ _ ht => memWf_ite_of ht (readMiss_memWf ht))
  · exact Res.next_memWf (remoteGate_memWf hs) (fun _ _ ht => memWf_ite_of ht ht)

theorem loadAt_memWf {w p pa n} (hs : s.memWf) : (loadAt w p pa n s).state.memWf := by
  unfold loadAt
  split
  · exact multicastLoad_memWf hs
  · split
    · exact hs
    · exact readAt_memWf hs

theorem load_memWf {w align n ea} (hs : s.memWf) : (load w align n ea s).state.memWf :=
  Res.next_memWf (resolve_memWf hs) (fun _ _ ht => loadAt_memWf ht)

theorem ownLine_memWf {die pa n v} (hs : s.memWf) : (ownLine die pa n v s).memWf := by
  unfold ownLine
  extract_lets _ _ _ s1 s2 _ s3 _ _ base
  have hs1 : s1.memWf := mergeLine_memWf hs
  have hs2 : s2.memWf := hs1
  have hs3 : s3.memWf := memWf_ite hs2 (llcRoom_memWf hs2)
  have hbase : base.memWf := storeMem_memWf hs3
  exact hbase

theorem pushDone_memWf {kind w p pa n v} (hs : s.memWf) : (pushDone kind w p pa n v s).memWf :=
  sendPacket_memWf (tagLines_memWf (storeHome_memWf hs))

theorem pushTo_memWf {kind w p pa n v} (hs : s.memWf) : (pushTo kind w p pa n v s).state.memWf := by
  unfold pushTo
  extract_lets
  split
  · exact hs
  · split
    · split
      · exact hs
      · exact pushDone_memWf (memWf_foldl (fun _ _ ht => performPacket_memWf ht) hs)
    · exact sendPacket_memWf hs

theorem copyTo_memWf {kind w p n v pa} (hs : s.memWf) : (copyTo kind w p n v s pa).memWf := by
  unfold copyTo
  extract_lets s1
  have hs1 : s1.memWf := settleWrites_memWf hs
  split
  · exact tagLines_memWf (storeHome_memWf hs1)
  · split
    · exact pushDone_memWf hs1
    · exact sendPacket_memWf hs1

theorem multicastStore_memWf {kind w p pa n v} (hs : s.memWf) : (multicastStore kind w p pa n v s).state.memWf := by
  unfold multicastStore
  extract_lets
  split
  · exact hs
  · split
    · exact hs
    · exact memWf_foldl (fun _ _ ht => copyTo_memWf ht) hs

theorem pushNow_memWf {w p pa n v} (hs : s.memWf) : (pushNow w p pa n v s).state.memWf := by
  unfold pushNow
  split
  · exact hs
  · exact pushDone_memWf hs

theorem storeAt_memWf {w p pa n v lo hi} (hs : s.memWf) : (storeAt w p pa n v lo hi s).state.memWf := by
  unfold storeAt
  split
  · exact multicastStore_memWf hs
  · split
    · exact hs
    · split
      · exact hs
      · extract_lets t bank
        have ht : t.memWf := settleWrites_memWf hs
        have hbank : (bank ()).state.memWf :=
          memWf_ite_of ht (Res.next_memWf (remoteGate_memWf ht) (fun _ u hu => tagLines_memWf (storeBank_memWf hu)))
        split
        · split
          · exact pushNow_memWf ht
          · split
            · exact pushTo_memWf ht
            · exact Res.next_memWf (memWf_ite_of ht (memWf_ite_of ht (remoteGate_memWf ht)))
                (fun _ u hu => tagLines_memWf (ownLine_memWf hu))
        · split
          · exact tagLines_memWf (hostStore_memWf ht)
          · exact pushTo_memWf ht
        · exact tagLines_memWf (clusterWindowStore_memWf ht)
        · exact hbank
        · exact hbank
        · exact tagLines_memWf (attStore_memWf ht)
        · exact ht

theorem store_memWf {w align n ea v} (hs : s.memWf) : (store w align n ea v s).state.memWf :=
  Res.next_memWf (resolve_memWf hs) (fun _ _ ht => storeAt_memWf ht)

/-! ## Acquire, release and atomics -/

theorem linkTrap_memWf {k cause} (hs : s.memWf) : (linkTrap k cause s).memWf :=
  writeRecord_memWf hs

theorem accessFault_memWf {cause ea} (hs : s.memWf) : (accessFault cause ea s).memWf :=
  raise_memWf hs

theorem accessLost_memWf {cause} (hs : s.memWf) : (accessLost cause s).memWf := by
  unfold accessLost
  split
  · split
    · exact Out.next_memWf (linkTrap_memWf hs)
    · exact Out.next_memWf hs
  · exact Out.next_memWf (stopProgram_memWf hs)

theorem closeAccess_memWf {α : Type} {ea} {r : Res α} {f : α → State → Out} (hr : r.state.memWf) (hf : ∀ v s, s.memWf → (f v s).memWf) :
    (closeAccess ea r f).memWf := by
  cases r with
  | ok v s => exact hf v s hr
  | exc => exact accessFault_memWf hr
  | lost => exact accessLost_memWf hr
  | wait => exact stall_memWf hr

theorem toldLost_memWf {k snap} (hs : s.memWf) : (toldLost k snap s).memWf :=
  hs

theorem ackWait_memWf {k dest} (hs : s.memWf) : (ackWait k dest s).state.memWf := by
  unfold ackWait
  extract_lets _ _ s1
  have hs1 : s1.memWf := memWf_ite (setThr_memWf hs) hs
  split
  · exact setThr_memWf hs
  · split
    · exact toldLost_memWf hs1
    · exact hs1

theorem setCurClock_memWf {c} (hs : s.memWf) : (setCurClock c s).memWf := by
  unfold setCurClock
  extract_lets
  split
  · exact hs
  · split
    · exact setClock_memWf hs
    · exact setCtx_memWf hs
    · exact setEngine_memWf hs

theorem curEpochStep_memWf (hs : s.memWf) : (curEpochStep s).memWf := by
  unfold curEpochStep
  extract_lets
  split
  · exact epochStep_memWf hs
  · exact setCurClock_memWf hs

theorem curJoin_memWf {blk} (hs : s.memWf) : (curJoin blk s).memWf := by
  unfold curJoin
  extract_lets
  split
  · split
    · exact hs
    · exact joinBlock_memWf hs
  · exact hs

theorem curMerge_memWf {blk} (hs : s.memWf) : (curMerge blk s).memWf := by
  unfold curMerge
  extract_lets
  split
  · split
    · exact hs
    · exact setCurClock_memWf hs
  · exact hs

theorem epochTold_memWf {i} (hs : s.memWf) : (epochTold i s).memWf := by
  unfold epochTold
  split
  · exact hs
  · exact reportTo_memWf (setDom_memWf hs)

theorem epochGate_memWf (hs : s.memWf) : (epochGate s).memWf := by
  unfold epochGate
  extract_lets
  split
  · split
    · exact Gate.stop_memWf (blockOn_memWf (epochTold_memWf hs))
    · exact Gate.go_memWf hs
  · split
    · exact Gate.stop_memWf (blockOn_memWf (epochTold_memWf hs))
    · exact Gate.go_memWf hs

theorem releaseGate_memWf {scope step} (hs : s.memWf) : (releaseGate scope step s).memWf := by
  unfold releaseGate
  split
  · exact Gate.stop_memWf (stall_memWf hs)
  · split
    · split
      · split
        · have ht := AckState.memWf_of_done (ackWait_memWf hs) ‹_›
          split
          · exact epochGate_memWf ht
          · exact Gate.go_memWf ht
        · exact Gate.stop_memWf (blockOn_memWf (AckState.memWf_of_wait (ackWait_memWf hs) ‹_›))
        · exact Gate.stop_memWf (Out.next_memWf (trapTo_memWf (AckState.memWf_of_lost (ackWait_memWf hs) ‹_›)))
      · split
        · exact epochGate_memWf hs
        · exact Gate.go_memWf hs
    · split
      · exact Gate.stop_memWf (stall_memWf hs)
      · split
        · exact epochGate_memWf hs
        · exact Gate.go_memWf hs

/-! ## Scalar loads, stores, atomics and barriers -/

theorem scalarLoad_memWf {n sg d a off} (hs : s.memWf) : (scalarLoad n sg d a off s).memWf := by
  unfold scalarLoad
  extract_lets
  split
  · exact stall_memWf hs
  · exact closeAccess_memWf (load_memWf hs) (fun _ _ ht => writeOn_memWf ht)

theorem acquireLoad_memWf {n d a off} (hs : s.memWf) : (acquireLoad n d a off s).memWf := by
  unfold acquireLoad
  extract_lets
  split
  · exact stall_memWf hs
  · exact closeAccess_memWf (Res.next_memWf (resolve_memWf hs)
      (fun _ _ ht => Res.next_memWf (loadAt_memWf ht) (fun _ _ hu => curMerge_memWf hu))) (fun _ _ ht => writeOn_memWf ht)

theorem scalarStore_memWf {n d a off} (hs : s.memWf) : (scalarStore n d a off s).memWf := by
  unfold scalarStore
  extract_lets _ close
  have hclose : ∀ r : Res Unit, r.state.memWf → (close r).memWf := by
    intro r hr
    unfold close
    split
    · exact accessFault_memWf hr
    · exact closeAccess_memWf hr (fun _ t ht => Out.next_memWf (finish_memWf ht))
  split
  · exact stall_memWf hs
  · exact hclose _ (store_memWf hs)

theorem releaseStore_memWf {n ea v} (hs : s.memWf) : (releaseStore n ea v s).memWf := by
  unfold releaseStore
  extract_lets _ close
  have hclose : ∀ r : Res Unit, r.state.memWf → (close r).memWf := by
    intro r hr
    unfold close
    split
    · exact accessFault_memWf hr
    · exact closeAccess_memWf hr (fun _ t ht => Out.next_memWf (finish_memWf ht))
  split
  · have ht := Res.memWf_of_ok (resolve_memWf hs) ‹_›
    extract_lets
    split
    · exact Gate.memWf_of_stop (releaseGate_memWf ht) ‹_›
    · exact hclose _ (Res.next_memWf (storeAt_memWf (Gate.memWf_of_go (releaseGate_memWf ht) ‹_›))
        (fun _ u hu => memWf_ite (curEpochStep_memWf (curJoin_memWf hu)) hu))
  · exact accessFault_memWf (Res.memWf_of_exc (resolve_memWf hs) ‹_›)
  · exact accessLost_memWf (Res.memWf_of_lost (resolve_memWf hs) ‹_›)
  · exact stall_memWf (Res.memWf_of_wait (resolve_memWf hs) ‹_›)

theorem atomicAt_memWf {op n w p pa b cmp} (hs : s.memWf) : (atomicAt op n w p pa b cmp s).state.memWf := by
  unfold atomicAt
  split
  · exact hs
  · split
    · exact hs
    · exact hs
    · exact hs
    · split
      · split
        · exact hs
        · extract_lets
          split
          · exact hs
          · exact Res.next_memWf (hostAccess_memWf hs) (fun _ _ ht => memWf_ite (tagLines_memWf ht) ht)
      · exact hs
    · split
      · exact hs
      · split
        · exact hs
        · refine Res.next_memWf (remoteGate_memWf hs) ?_
          intro _ _ ht
          split
          · exact ht
          · split
            · exact ht
            · extract_lets s1 _
              have hs1 : s1.memWf := settleWrites_memWf ht
              split
              · exact tagLines_memWf (storeHome_memWf hs1)
              · split
                · exact dropCopies_memWf hs1
                · exact hs1

theorem amo_memWf {op n scope a b cmp} {f : Nat → State → State} (hf : ∀ v s, s.memWf → (f v s).memWf) (hs : s.memWf) :
    (amo op n scope a b cmp f s).memWf := by
  unfold amo
  extract_lets
  split
  · exact stall_memWf hs
  · split
    · exact accessFault_memWf (Res.memWf_of_exc (resolve_memWf hs) ‹_›)
    · exact accessLost_memWf (Res.memWf_of_lost (resolve_memWf hs) ‹_›)
    · exact stall_memWf (Res.memWf_of_wait (resolve_memWf hs) ‹_›)
    · have ht := Res.memWf_of_ok (resolve_memWf hs) ‹_›
      extract_lets
      split
      · exact Gate.memWf_of_stop (releaseGate_memWf ht) ‹_›
      · have hu := Gate.memWf_of_go (releaseGate_memWf ht) ‹_›
        split
        · exact accessFault_memWf (Res.memWf_of_exc (atomicAt_memWf hu) ‹_›)
        · exact accessFault_memWf (Res.memWf_of_exc (atomicAt_memWf hu) ‹_›)
        · exact accessLost_memWf (Res.memWf_of_lost (atomicAt_memWf hu) ‹_›)
        · exact stall_memWf (Res.memWf_of_wait (atomicAt_memWf hu) ‹_›)
        · have hu1 := Res.memWf_of_ok (atomicAt_memWf hu) ‹_›
          exact Out.next_memWf (finish_memWf (hf _ _ (memWf_ite (curEpochStep_memWf (curJoin_memWf (curMerge_memWf hu1))) hu1)))

theorem amoSized_memWf {op zx d a b scope wide} (hs : s.memWf) : (amoSized op zx d a b scope wide s).memWf :=
  amo_memWf (fun _ _ ht => setX_memWf ht) hs

theorem fenceAckTo_memWf {dest} (hs : s.memWf) : (fenceAckTo dest s).memWf := by
  unfold fenceAckTo
  split
  · split
    · exact Out.next_memWf (finish_memWf (AckState.memWf_of_done (ackWait_memWf hs) ‹_›))
    · exact blockOn_memWf (AckState.memWf_of_wait (ackWait_memWf hs) ‹_›)
    · exact Out.next_memWf (trapTo_memWf (AckState.memWf_of_lost (ackWait_memWf hs) ‹_›))
  · exact Out.next_memWf (finish_memWf hs)

theorem execFence_memWf {scope} (hs : s.memWf) : (execFence scope s).memWf := by
  unfold execFence
  split
  · exact Out.next_memWf (finish_memWf hs)
  · split
    · exact stall_memWf hs
    · exact fenceAckTo_memWf hs

theorem execFenceRel_memWf {scope} (hs : s.memWf) : (execFenceRel scope s).memWf := by
  unfold execFenceRel
  split
  · exact Gate.memWf_of_stop (releaseGate_memWf hs) ‹_›
  · exact Out.next_memWf (finish_memWf (curEpochStep_memWf (Gate.memWf_of_go (releaseGate_memWf hs) ‹_›)))

theorem execXfence_memWf {mask} (hs : s.memWf) : (execXfence mask s).memWf := by
  unfold execXfence
  split
  · exact stall_memWf hs
  · exact Out.next_memWf (finish_memWf hs)

theorem barObject_memWf {wr ea} (hs : s.memWf) : (barObject wr ea s).state.memWf := by
  unfold barObject
  split
  · exact hs
  · exact Res.next_memWf (resolve_memWf hs) (fun _ _ ht => memWf_ite_of ht
      (memWf_ite_of (Res.next_memWf (remoteGate_memWf ht) (fun _ _ hu => hu)) ht))

theorem scopedObject_memWf {wr ea} (hs : s.memWf) : (scopedObject wr ea s).state.memWf :=
  Res.next_memWf (barObject_memWf hs) (fun _ _ ht => memWf_ite_of ht ht)

theorem execBarArrive_memWf {d a b} (hs : s.memWf) : (execBarArrive d a b s).memWf := by
  unfold execBarArrive
  extract_lets
  split
  · exact stall_memWf hs
  · split
    · exact accessFault_memWf hs
    · refine closeAccess_memWf (scopedObject_memWf hs) ?_
      intro _ _ ht
      split
      · exact Gate.memWf_of_stop (releaseGate_memWf ht) ‹_›
      · have hu := Gate.memWf_of_go (releaseGate_memWf ht) ‹_›
        extract_lets _ _ released
        have hreleased : released.memWf := curEpochStep_memWf (curJoin_memWf hu)
        split
        · exact writeOn_memWf (barUpdate_memWf hreleased ‹_›)
        · split
          · exact stall_memWf hu
          · exact accessFault_memWf hreleased

theorem execBarExpect_memWf {a b} (hs : s.memWf) : (execBarExpect a b s).memWf := by
  unfold execBarExpect
  extract_lets
  split
  · exact stall_memWf hs
  · split
    · exact accessFault_memWf hs
    · refine closeAccess_memWf (scopedObject_memWf hs) ?_
      intro _ _ ht
      split
      · exact Out.next_memWf (finish_memWf (barUpdate_memWf ht ‹_›))
      · exact accessFault_memWf ht

theorem execBarWait_memWf {a b} (hs : s.memWf) : (execBarWait a b s).memWf := by
  unfold execBarWait
  extract_lets
  split
  · exact stall_memWf hs
  · refine closeAccess_memWf (scopedObject_memWf hs) ?_
    intro _ t ht
    split
    · exact Out.next_memWf (finish_memWf (curMerge_memWf ht))
    · exact blockOn_memWf ht

theorem execBarTest_memWf {d a b} (hs : s.memWf) : (execBarTest d a b s).memWf := by
  unfold execBarTest
  extract_lets
  split
  · exact stall_memWf hs
  · refine closeAccess_memWf (scopedObject_memWf hs) ?_
    intro _ t ht
    split
    · exact writeOn_memWf (curMerge_memWf ht)
    · exact writeOn_memWf ht

theorem execBarInit_memWf {a b} (hs : s.memWf) : (execBarInit a b s).memWf := by
  unfold execBarInit
  extract_lets
  split
  · exact stall_memWf hs
  · refine closeAccess_memWf (barObject_memWf hs) ?_
    intro _ t ht
    split
    · exact accessFault_memWf ht
    · exact Out.next_memWf (finish_memWf (memWf_of_mem_eq (storeMem_memWf ht)))

/-! ## Copy commands -/

theorem xResolve_memWf {w rd wr code dev ea} (hs : s.memWf) : (xResolve w rd wr code dev ea s).state.memWf := by
  unfold xResolve
  split
  · exact hs
  · split
    · exact hs
    · extract_lets _ s1
      have hs1 : s1.memWf := noteAccess_memWf hs
      split
      · exact hs1
      · split
        · split <;> exact hs1
        · split
          · exact hs1
          · split
            · split
              · exact hs1
              · exact wantCopy_memWf hs1
            · split <;> exact hs1

theorem tileWrite_memWf {ck t pa n v} (hs : s.memWf) : (tileWrite ck t pa n v s).memWf := by
  unfold tileWrite
  extract_lets s1 _
  have hs1 : s1.memWf := clearTags_memWf (storeBank_memWf hs)
  split
  · exact hs1
  · exact setTileEntry_memWf hs1

theorem fillBegins_memWf {ck t} (hs : s.memWf) : (fillBegins s ck t).memWf :=
  memWf_ite hs hs

theorem tileTake_memWf {ck t e} (hs : s.memWf) : (tileTake ck t e s).memWf :=
  setCluster_memWf (setTileEntry_memWf (fillBegins_memWf hs))

theorem tileLeft_memWf {d} (hs : s.memWf) : (tileLeft d s).memWf := by
  unfold tileLeft
  split
  · exact hs
  · exact setCluster_memWf hs

theorem tileGate_memWf {w ck pa n} (hs : s.memWf) : (tileGate w ck pa n s).state.memWf := by
  unfold tileGate
  extract_lets
  split
  · exact hs
  · split
    · split <;> exact hs
    · exact remoteGate_memWf hs

theorem readPiece_memWf {w d wr a n} (hs : s.memWf) : (readPiece w d wr a n s).state.memWf := by
  unfold readPiece
  split
  · exact Res.next_memWf (xResolve_memWf hs) (fun _ _ ht => memWf_ite_of ht (loadAt_memWf ht))
  · exact Res.next_memWf (tileGate_memWf hs) (fun _ _ ht => memWf_ite_of ht ht)

theorem writePiece_memWf {w d a n v} (hs : s.memWf) : (writePiece w d a n v s).state.memWf := by
  unfold writePiece
  split
  · exact Res.next_memWf (xResolve_memWf hs) (fun _ t ht => storeAt_memWf ht)
  · extract_lets
    refine Res.next_memWf (tileGate_memWf hs) ?_
    intro _ t ht
    split
    · exact ht
    · exact tileWrite_memWf ht

theorem readPieces_memWf {w d wr l} (hs : s.memWf) : (readPieces w d wr l s).state.memWf := by
  induction l generalizing s with
  | nil => exact hs
  | cons a l ih =>
    exact Res.next_memWf (readPiece_memWf hs) (fun _ t ht => Res.next_memWf (ih ht) (fun _ u hu => hu))

theorem writePieces_memWf {w d l v} (hs : s.memWf) : (writePieces w d l v s).state.memWf := by
  induction l generalizing v s with
  | nil => exact hs
  | cons a l ih => exact Res.next_memWf (writePiece_memWf hs) (fun _ t ht => ih ht)

theorem xRead_memWf {w d wr a n} (hs : s.memWf) : (xRead w d wr a n s).state.memWf :=
  wholeOr_memWf hs (readPieces_memWf hs)

theorem xWrite_memWf {w d a n v} (hs : s.memWf) : (xWrite w d a n v s).state.memWf :=
  wholeOr_memWf hs (writePieces_memWf hs)

theorem clearRun_memWf {w d a before n} (hs : s.memWf) : (clearRun w d a before n s).memWf := by
  unfold clearRun
  refine memWf_foldl ?_ hs
  intro _ _ ht
  extract_lets
  split
  · split
    · split
      · exact clearPoison_memWf ht
      · exact ht
    · exact ht
  · exact ht

theorem bankAt_memWf {w wr a} (hs : s.memWf) : (bankAt w wr a s).state.memWf := by
  unfold bankAt
  split
  · exact hs
  · exact Res.next_memWf (xResolve_memWf hs) (fun _ _ ht => memWf_ite_of ht (memWf_ite_of ht ht))

theorem barOf_memWf {w a} (hs : s.memWf) : (barOf w a s).state.memWf := by
  unfold barOf
  split
  · exact hs
  · exact Res.next_memWf (bankAt_memWf hs) (fun _ _ ht => ht)

theorem reportBytes_memWf {w a n} (hs : s.memWf) : (reportBytes w a n s).state.memWf := by
  unfold reportBytes
  refine Res.next_memWf (barOf_memWf hs) ?_
  intro _ _ ht
  split
  · exact ht
  · split
    · exact barUpdate_memWf ht ‹_›
    · exact ht

theorem setHeadCmd_memWf {n c} (hs : s.memWf) : (setHeadCmd n c s).memWf :=
  setEngine_memWf hs

theorem popCmd_memWf {n} (hs : s.memWf) : (popCmd n s).memWf :=
  setEngine_memWf hs

theorem cmdFlags_memWf {i f} (hs : s.memWf) : (cmdFlags i f s).memWf := by
  unfold cmdFlags
  split
  · exact orAflags_memWf hs
  · exact hs

theorem cpRecord_memWf {n i cause idx gran} (hs : s.memWf) : (cpRecord n i cause idx gran s).memWf :=
  writeRecord_memWf hs

theorem cpUnit_memWf {w c u} (hs : s.memWf) : (cpUnit w c u s).state.memWf := by
  unfold cpUnit
  extract_lets
  refine wholeOr_memWf hs (Res.next_memWf (xRead_memWf hs) ?_)
  intro _ _ ht
  extract_lets made
  have hmade : made.state.memWf := by
    unfold made
    split
    · exact ht
    · exact Res.next_memWf (xRead_memWf ht) (fun _ _ hu1 => hu1)
    · exact Res.next_memWf (xRead_memWf ht) (fun _ _ hu1 => hu1)
    · exact ht
  exact Res.next_memWf hmade (fun _ _ hu1 => Res.next_memWf (xWrite_memWf hu1) (fun _ _ hu2 => memWf_ite hu2 (clearRun_memWf hu2)))

theorem walkUnits_memWf {f : CopyCmd → Unit32 → State → Res Flags7} {l c} (hf : ∀ c u s, s.memWf → (f c u s).state.memWf) (hs : s.memWf) :
    (walkUnits f l c s).state.memWf := by
  induction l generalizing c s with
  | nil => exact hs
  | cons u l ih =>
    unfold walkUnits
    split
    · exact ih (Res.memWf_of_ok (hf _ _ _ hs) ‹_›)
    · exact Res.memWf_of_exc (hf _ _ _ hs) ‹_›
    · exact Res.memWf_of_lost (hf _ _ _ hs) ‹_›
    · exact Res.memWf_of_wait (hf _ _ _ hs) ‹_›

theorem cpStop_memWf {n w c cause gran} (hs : s.memWf) : (cpStop n w c cause gran s).memWf := by
  unfold cpStop
  extract_lets _ ended
  have hended : ∀ (s : State), s.memWf → (ended s).memWf := fun _ ht => cpRecord_memWf
    (cmdFlags_memWf (tileLeft_memWf (popCmd_memWf (dropFailed_memWf ht))))
  split
  · exact setHeadCmd_memWf hs
  · split
    · exact hended _ hs
    · split
      · exact hended _ (Res.memWf_of_ok (reportBytes_memWf hs) ‹_›)
      · exact hended _ (Res.memWf_of_exc (reportBytes_memWf hs) ‹_›)
      · exact hended _ (Res.memWf_of_lost (reportBytes_memWf hs) ‹_›)
      · exact setHeadCmd_memWf (Res.memWf_of_wait (reportBytes_memWf hs) ‹_›)

theorem cpTransferEnd_memWf {n w c next} (hs : s.memWf) : (cpTransferEnd n w c next s).memWf := by
  unfold cpTransferEnd
  split
  · exact setHeadCmd_memWf hs
  · split
    · exact setHeadCmd_memWf (Res.memWf_of_wait (reportBytes_memWf hs) ‹_›)
    · exact cpStop_memWf (Res.memWf_of_exc (reportBytes_memWf hs) ‹_›)
    · exact cpStop_memWf (Res.memWf_of_lost (reportBytes_memWf hs) ‹_›)
    · have ht := Res.memWf_of_ok (reportBytes_memWf hs) ‹_›
      split
      · exact setHeadCmd_memWf ht
      · exact cmdFlags_memWf (popCmd_memWf ht)

theorem unlessLost_memWf {n w c} {f : State} (hs : s.memWf) (hf : f.memWf) : (unlessLost n w c s f).memWf := by
  unfold unlessLost
  split
  · exact cpStop_memWf hs
  · exact cpStop_memWf hs
  · exact hf

theorem cpTransfer_memWf {n c} (hs : s.memWf) : (cpTransfer n c s).memWf := by
  unfold cpTransfer
  extract_lets
  refine unlessLost_memWf hs ?_
  split
  · exact setHeadCmd_memWf (Walk.memWf_of_wait (walkUnits_memWf (fun _ _ _ ht => cpUnit_memWf ht) hs) ‹_›)
  · exact cpStop_memWf (Walk.memWf_of_stop (walkUnits_memWf (fun _ _ _ ht => cpUnit_memWf ht) hs) ‹_›)
  · exact cpTransferEnd_memWf (Walk.memWf_of_all (walkUnits_memWf (fun _ _ _ ht => cpUnit_memWf ht) hs) ‹_›)

theorem cpBegin_memWf {n c} (hs : s.memWf) : (cpBegin n c s).memWf := by
  unfold cpBegin
  extract_lets _ refuse
  have hrefuse : ∀ (e : BitVec 8) (s : State), s.memWf → (refuse e s).memWf :=
    fun _ _ ht => cpRecord_memWf (popCmd_memWf (dropFailed_memWf ht))
  split
  · exact hrefuse _ _ hs
  · split
    · exact hrefuse _ _ (Res.memWf_of_exc (barOf_memWf hs) ‹_›)
    · exact hrefuse _ _ (Res.memWf_of_lost (barOf_memWf hs) ‹_›)
    · exact Res.memWf_of_wait (barOf_memWf hs) ‹_›
    · have ht := Res.memWf_of_ok (barOf_memWf hs) ‹_›
      split
      · exact setHeadCmd_memWf ht
      · split
        · exact hrefuse _ _ ht
        · extract_lets
          split
          · exact ht
          · exact hrefuse _ _ ht
          · split
            · exact hrefuse _ _ ht
            · exact setHeadCmd_memWf (tileTake_memWf ht)

/-! ## Nests -/

theorem nestBytes_memWf {w fb c g n} (hs : s.memWf) : (nestBytes w fb c g n s).state.memWf := by
  unfold nestBytes
  split
  · exact hs
  · exact xRead_memWf hs

theorem nestSource_memWf {w fb c u} (hs : s.memWf) : (nestSource w fb c u s).state.memWf :=
  memWf_ite_of (Res.next_memWf (nestBytes_memWf hs) (fun _ _ ht => ht)) (Res.next_memWf (nestBytes_memWf hs) (fun _ _ ht => ht))

theorem nestUnit_memWf {w fb c u} (hs : s.memWf) : (nestUnit w fb c u s).state.memWf := by
  unfold nestUnit
  extract_lets
  refine wholeOr_memWf hs (Res.next_memWf (nestSource_memWf hs) ?_)
  intro _ _ ht
  extract_lets made
  have hmade : made.state.memWf := memWf_ite_of (Res.next_memWf (xRead_memWf ht) (fun _ _ hu1 => hu1)) ht
  exact Res.next_memWf hmade (fun _ _ hu1 => Res.next_memWf (xWrite_memWf hu1) (fun _ _ hu2 => clearRun_memWf hu2))

theorem nestTransfer_memWf {n c} (hs : s.memWf) : (nestTransfer n c s).memWf := by
  unfold nestTransfer
  extract_lets
  refine unlessLost_memWf hs ?_
  split
  · exact setHeadCmd_memWf (Walk.memWf_of_wait (walkUnits_memWf (fun _ _ _ ht => nestUnit_memWf ht) hs) ‹_›)
  · exact cpStop_memWf (Walk.memWf_of_stop (walkUnits_memWf (fun _ _ _ ht => nestUnit_memWf ht) hs) ‹_›)
  · have ht := Walk.memWf_of_all (walkUnits_memWf (fun _ _ _ ht => nestUnit_memWf ht) hs) ‹_›
    extract_lets
    split
    · exact cpTransferEnd_memWf ht
    · exact setHeadCmd_memWf ht

theorem nestRefused_memWf {w c} (hs : s.memWf) : (nestRefused w c s).state.memWf := by
  unfold nestRefused
  split
  · exact hs
  · exact Res.next_memWf (memWf_ite_of (Res.next_memWf (bankAt_memWf hs) (fun _ t ht => ht)) hs)
      (fun _ t ht => Res.next_memWf (barOf_memWf ht) (fun _ u hu => hu))

theorem nestBegin_memWf {n c} (hs : s.memWf) : (nestBegin n c s).memWf := by
  unfold nestBegin
  extract_lets refuse
  have hrefuse : ∀ (e : BitVec 8) (s : State), s.memWf → (refuse e s).memWf :=
    fun _ _ ht => cpRecord_memWf (popCmd_memWf (dropFailed_memWf ht))
  split
  · exact hrefuse _ _ (Res.memWf_of_exc (nestRefused_memWf hs) ‹_›)
  · exact hrefuse _ _ (Res.memWf_of_lost (nestRefused_memWf hs) ‹_›)
  · exact Res.memWf_of_wait (nestRefused_memWf hs) ‹_›
  · exact setHeadCmd_memWf (Res.memWf_of_ok (nestRefused_memWf hs) ‹_›)

theorem nestRead_memWf {w a} (hs : s.memWf) : (nestRead w a s).state.memWf := by
  unfold nestRead
  split
  · exact hs
  · extract_lets all
    have hall : all.state.memWf := Res.next_memWf (xRead_memWf hs)
      (fun _ t ht => Res.next_memWf (memWf_ite_of ht (xRead_memWf ht)) (fun _ u hu => hu))
    clear_value all
    split
    · exact hall
    · exact hall
    · exact hall
    · extract_lets
      split
      · split
        · exact Res.memWf_of_ok (xRead_memWf hall) ‹_›
        · exact Res.memWf_of_exc (xRead_memWf hall) ‹_›
        · exact Res.memWf_of_lost (xRead_memWf hall) ‹_›
        · exact Res.memWf_of_wait (xRead_memWf hall) ‹_›
      · exact hall

/-! ## Collectives -/

theorem collRead_memWf {w a} (hs : s.memWf) : (collRead w a s).state.memWf := by
  unfold collRead
  split
  · exact hs
  · extract_lets all
    have hall : all.state.memWf := Res.next_memWf (xRead_memWf hs)
      (fun _ t ht => Res.next_memWf (xRead_memWf ht) (fun _ u hu => hu))
    clear_value all
    split <;> exact hall

theorem mapGroup_memWf {sent tag g f} (hs : s.memWf) : (mapGroup sent tag g f s).memWf :=
  hs

theorem sendAbort_memWf {c sent cause} (hs : s.memWf) : (sendAbort c sent cause s).memWf := by
  unfold sendAbort
  exact memWf_of_mem_eq (mapGroup_memWf hs)

theorem putColl_memWf {n l} (hs : s.memWf) : (putColl n l s).memWf :=
  setEngine_memWf hs

theorem dropColl_memWf {n l} (hs : s.memWf) : (dropColl n l s).memWf :=
  setEngine_memWf hs

theorem collStopped_memWf {n l cause own bytes} (hs : s.memWf) : (collStopped n l cause own bytes s).memWf := by
  unfold collStopped
  extract_lets _ _ _ ended
  have hended : ∀ (s : State), s.memWf → (ended s).memWf := by
    intro _ ht
    unfold ended
    extract_lets _ s1 s2
    have hs1 : s1.memWf := dropColl_memWf (dropFailed_memWf ht)
    have hs2 : s2.memWf := memWf_ite (sendAbort_memWf hs1) hs1
    exact cpRecord_memWf (cmdFlags_memWf hs2)
  split
  · exact putColl_memWf hs
  · split
    · exact hended _ hs
    · split
      · exact hended _ (Res.memWf_of_ok (reportBytes_memWf hs) ‹_›)
      · exact hended _ (Res.memWf_of_exc (reportBytes_memWf hs) ‹_›)
      · exact hended _ (Res.memWf_of_lost (reportBytes_memWf hs) ‹_›)
      · exact putColl_memWf (Res.memWf_of_wait (reportBytes_memWf hs) ‹_›)

theorem collStop_memWf {n l cause own} (hs : s.memWf) : (collStop n l cause own s).memWf :=
  collStopped_memWf hs

theorem collDone_memWf {n l} (hs : s.memWf) : (collDone n l s).memWf := by
  unfold collDone
  extract_lets
  split
  · exact putColl_memWf hs
  · split
    · exact cmdFlags_memWf (dropColl_memWf (Res.memWf_of_ok (reportBytes_memWf hs) ‹_›))
    · exact putColl_memWf (Res.memWf_of_wait (reportBytes_memWf hs) ‹_›)
    · exact collStopped_memWf (Res.memWf_of_exc (reportBytes_memWf hs) ‹_›)
    · exact collStopped_memWf (Res.memWf_of_lost (reportBytes_memWf hs) ‹_›)

theorem gather_memWf {w k l} (hs : s.memWf) : (gather w k l s).state.memWf := by
  induction k generalizing l s with
  | zero => exact hs
  | succ k ih =>
    unfold gather
    split
    · exact hs
    · extract_lets
      split
      · exact ih (Res.memWf_of_ok (xRead_memWf hs) ‹_›)
      · exact Res.memWf_of_exc (xRead_memWf hs) ‹_›
      · exact Res.memWf_of_lost (xRead_memWf hs) ‹_›
      · exact Res.memWf_of_wait (xRead_memWf hs) ‹_›

theorem scatter_memWf {w v k l} (hs : s.memWf) : (scatter w v k l s).state.memWf := by
  induction k generalizing l s with
  | zero => exact hs
  | succ k ih =>
    unfold scatter
    split
    · exact hs
    · extract_lets
      split
      · exact ih (clearRun_memWf (Res.memWf_of_ok (xWrite_memWf hs) ‹_›))
      · exact Res.memWf_of_exc (xWrite_memWf hs) ‹_›
      · exact Res.memWf_of_lost (xWrite_memWf hs) ‹_›
      · exact Res.memWf_of_wait (xWrite_memWf hs) ‹_›

theorem collAdvance_memWf {n l} (hs : s.memWf) : (collAdvance n l s).memWf := by
  unfold collAdvance
  extract_lets _ _ me gathered
  have hgathered : gathered.state.memWf := memWf_ite_of (gather_memWf hs) hs
  clear_value gathered
  split
  · exact putColl_memWf hgathered
  · exact collStop_memWf hgathered
  · extract_lets t u
    have ht : t.memWf := putColl_memWf hgathered
    have hu : u.memWf := memWf_ite (mapGroup_memWf ht) ht
    split
    · split
      · exact putColl_memWf (Flow.memWf_of_wait (scatter_memWf hu) ‹_›)
      · exact collStop_memWf (Flow.memWf_of_stop (scatter_memWf hu) ‹_›)
      · exact collDone_memWf (Flow.memWf_of_go (scatter_memWf hu) ‹_›)
    · split
      · exact collStop_memWf hu
      · exact hu

theorem tableRead_memWf {w c} (hs : s.memWf) : (tableRead w c s).state.memWf :=
  Res.next_memWf (xRead_memWf hs) (fun _ _ ht => Res.next_memWf (xRead_memWf ht) (fun _ _ hu => hu))

theorem seed_memWf {w off k l} (hs : s.memWf) : (seed w off k l s).state.memWf := by
  induction k generalizing l s with
  | zero => exact hs
  | succ k ih =>
    unfold seed
    split
    · exact hs
    · extract_lets n a
      have hall := wholeOr_memWf hs (Res.next_memWf
        (xRead_memWf (w := w) (d := .mem 0 none) (wr := false) (a := collSbase l.cmd + BitVec.ofNat 64 l.got) (n := n) hs)
        (fun v t ht => xWrite_memWf (w := w) (d := .mem 0 none) (a := a) (n := n) (v := v) ht))
      split
      · exact ih (clearRun_memWf (Res.memWf_of_ok hall ‹_›))
      · exact Res.memWf_of_exc hall ‹_›
      · exact Res.memWf_of_lost hall ‹_›
      · exact Res.memWf_of_wait hall ‹_›

theorem entSend_memWf {n w tb i l} (hs : s.memWf) : (entSend n w tb i l s).state.memWf := by
  unfold entSend
  extract_lets
  split
  · exact hs
  · split
    · exact Res.memWf_of_exc (xRead_memWf hs) ‹_›
    · exact Res.memWf_of_lost (xRead_memWf hs) ‹_›
    · exact Res.memWf_of_wait (xRead_memWf hs) ‹_›
    · exact mapGroup_memWf (putColl_memWf (Res.memWf_of_ok (xRead_memWf hs) ‹_›))

theorem entPlace_memWf {w tb i v k l} (hs : s.memWf) : (entPlace w tb i v k l s).state.memWf := by
  induction k generalizing l s with
  | zero => exact hs
  | succ k ih =>
    unfold entPlace
    extract_lets _ _ _ _ _ _ wrote
    have hwrote : wrote.state.memWf := memWf_ite_of
      (Res.next_memWf (xRead_memWf hs) (fun _ t ht => Res.next_memWf (xWrite_memWf ht) (fun _ u hu => hu)))
      (Res.next_memWf (xWrite_memWf hs) (fun _ t ht => ht))
    split
    · exact hs
    · split
      · exact ih (clearRun_memWf (Res.memWf_of_ok (wholeOr_memWf hs hwrote) ‹_›))
      · exact Res.memWf_of_exc (wholeOr_memWf hs hwrote) ‹_›
      · exact Res.memWf_of_lost (wholeOr_memWf hs hwrote) ‹_›
      · exact Res.memWf_of_wait (wholeOr_memWf hs hwrote) ‹_›

theorem routeWalk_memWf {n w tb k l} (hs : s.memWf) : (routeWalk n w tb k l s).state.memWf := by
  induction k generalizing l s with
  | zero => exact hs
  | succ k ih =>
    unfold routeWalk
    extract_lets
    split
    · exact hs
    · extract_lets r
      have hr : r.state.memWf := memWf_ite_of (entSend_memWf hs) (entPlace_memWf hs)
      clear_value r
      split
      · exact ih (putColl_memWf hr)
      · exact hr

theorem routeGo_memWf {n w tb l} (hs : s.memWf) : (routeGo n w tb l s).memWf := by
  unfold routeGo
  extract_lets c
  have hseed : ∀ f, (match seedAt c with
      | some off => seed w off (collS c / 32 + 1) l s
      | none => .go { l with got := collS c } s) = f → f.state.memWf := by
    rintro f rfl
    split
    · exact seed_memWf hs
    · exact hs
  split
  · exact collStop_memWf hs
  · split
    · exact collStop_memWf hs
    · split
      · next e => exact putColl_memWf (hseed _ e)
      · next e => exact collStop_memWf (hseed _ e)
      · next t e =>
        have ht : t.memWf := hseed _ e
        split
        · exact putColl_memWf (Flow.memWf_of_wait (routeWalk_memWf (putColl_memWf ht)) ‹_›)
        · exact collStop_memWf (Flow.memWf_of_stop (routeWalk_memWf (putColl_memWf ht)) ‹_›)
        · have hu := Flow.memWf_of_go (routeWalk_memWf (putColl_memWf ht)) ‹_›
          split
          · exact collDone_memWf hu
          · split
            · exact collStop_memWf hu
            · exact putColl_memWf hu

theorem routeAdvance_memWf {n l} (hs : s.memWf) : (routeAdvance n l s).memWf := by
  unfold routeAdvance
  extract_lets
  split
  · exact routeGo_memWf hs
  · split
    · exact collStop_memWf (Res.memWf_of_exc (tableRead_memWf hs) ‹_›)
    · exact collStop_memWf (Res.memWf_of_lost (tableRead_memWf hs) ‹_›)
    · exact Res.memWf_of_wait (tableRead_memWf hs) ‹_›
    · exact routeGo_memWf (Res.memWf_of_ok (tableRead_memWf hs) ‹_›)

theorem collBegin_memWf {n c} (hs : s.memWf) : (collBegin n c s).memWf := by
  unfold collBegin
  split
  · exact hs
  · extract_lets refuse
    have hrefuse : ∀ (e : BitVec 8) (s : State), s.memWf → (refuse e s).memWf :=
      fun _ _ ht => cpRecord_memWf (sendAbort_memWf (popCmd_memWf (dropFailed_memWf ht)))
    split
    · exact hrefuse _ _ (Res.memWf_of_exc (barOf_memWf hs) ‹_›)
    · exact hrefuse _ _ (Res.memWf_of_lost (barOf_memWf hs) ‹_›)
    · exact Res.memWf_of_wait (barOf_memWf hs) ‹_›
    · exact memWf_of_mem_eq (setEngine_memWf (popCmd_memWf (Res.memWf_of_ok (barOf_memWf hs) ‹_›)))

theorem startCode_memWf {n l} (hs : s.memWf) : (startCode n l s).state.memWf := by
  unfold startCode
  extract_lets
  split
  · exact xRead_memWf hs
  · split <;> exact hs

theorem execCollReady_memWf {n tag m} (hs : s.memWf) : (execCollReady n tag m s).memWf := by
  unfold execCollReady
  split
  · exact Out.fault_memWf
  · extract_lets
    split
    · split
      · exact Out.next_memWf (mapGroup_memWf (putColl_memWf (Res.memWf_of_ok (startCode_memWf hs) ‹_›)))
      · exact Out.next_memWf (collStop_memWf (Res.memWf_of_exc (startCode_memWf hs) ‹_›))
      · exact Out.next_memWf (collStop_memWf (Res.memWf_of_lost (startCode_memWf hs) ‹_›))
      · exact Out.next_memWf (Res.memWf_of_wait (startCode_memWf hs) ‹_›)
    · exact Out.next_memWf (putColl_memWf hs)

theorem execCollStart_memWf {n tag} (hs : s.memWf) : (execCollStart n tag s).memWf := by
  unfold execCollStart
  split
  · exact Out.fault_memWf
  · exact Out.next_memWf (putColl_memWf hs)

theorem execCollAbort_memWf {n tag cause} (hs : s.memWf) : (execCollAbort n tag cause s).memWf := by
  unfold execCollAbort
  split
  · exact Out.fault_memWf
  · exact Out.next_memWf (collStop_memWf hs)

theorem advanceColl_memWf {n serial} (hs : s.memWf) : (advanceColl n serial s).memWf := by
  unfold advanceColl
  split
  · exact hs
  · split
    · exact collStop_memWf hs
    · exact collStopped_memWf hs
    · split
      · exact routeAdvance_memWf hs
      · exact collAdvance_memWf hs

theorem execCollectivePacket_memWf {n tag} (hs : s.memWf) : (execCollectivePacket n tag s).memWf := by
  unfold execCollectivePacket
  extract_lets
  split
  · exact Out.fault_memWf
  · exact Out.next_memWf (memWf_foldl (fun _ _ ht => memWf_ite (advanceColl_memWf ht) ht) hs)

/-! ## Launches -/

theorem imageByte_memWf {w va} (hs : s.memWf) : (imageByte w va s).state.memWf :=
  Res.next_memWf (resolve_memWf hs) (fun _ _ ht => memWf_ite_of (Res.next_memWf (multicastLoad_memWf ht) (fun _ _ hu => hu))
    (readAt_memWf ht))

theorem imageBytes_memWf {w va k} (hs : s.memWf) : (imageBytes w va k s).state.memWf := by
  induction k generalizing va s with
  | zero => exact hs
  | succ k ih => exact Res.next_memWf (imageByte_memWf hs) (fun _ t ht => Res.next_memWf (ih ht) (fun _ u hu => hu))

theorem imageOf_memWf {w va} (hs : s.memWf) : (imageOf w va s).state.memWf :=
  wholeOr_memWf hs (Res.next_memWf (imageBytes_memWf hs) (fun _ _ ht => Res.next_memWf (imageBytes_memWf ht)
    (fun _ _ hu => memWf_ite_of hu hu)))

theorem placeSection_memWf {die asid base img e} (hs : s.memWf) : (placeSection die asid base img s e).memWf := by
  unfold placeSection
  extract_lets _ _ s1
  have hs1 : s1.memWf := by
    unfold s1
    refine memWf_foldl ?_ hs
    intro _ _ ht
    split
    · exact ht
    · exact writeReplicas_memWf ht
  refine memWf_foldl ?_ hs1
  intro _ _ ht
  split
  · exact ht
  · exact writePlain_memWf ht

theorem installImage_memWf {die asid va img} (hs : s.memWf) : (installImage die asid va img s).memWf := by
  unfold installImage
  split
  · exact hs
  · exact memWf_of_mem_eq (memWf_foldl (fun _ _ ht => placeSection_memWf ht) hs)

theorem setIntake_memWf {dev e v} (hs : s.memWf) : (setIntake s dev e v).memWf :=
  hs

theorem dispatchEvent_memWf {dev rcb cause value} (hs : s.memWf) : (dispatchEvent dev rcb cause value s).memWf :=
  reportTo_memWf hs

theorem lookAll_memWf {dev} (hs : s.memWf) : (lookAll dev s).memWf :=
  hs

theorem signalStore_memWf {w ea v} (hs : s.memWf) : (signalStore w ea v s).state.memWf := by
  unfold signalStore
  split
  · have ht := Res.memWf_of_wait (store_memWf hs) ‹_›
    split
    · exact ht
    · split
      · exact ht
      · next hu => exact store_memWf (cowPerform_memWf (by exact ht) hu)
  · exact store_memWf hs

theorem complete_memWf {dev e status cause} (hs : s.memWf) : (complete dev e status cause s).memWf := by
  unfold complete
  split
  · exact hs
  · extract_lets _ done _
    have hdone : ∀ (s : State), s.memWf → (done s).memWf := fun _ ht => lookAll_memWf ht
    split
    · exact hdone _ (Res.memWf_of_ok (signalStore_memWf hs) ‹_›)
    · exact hdone _ (dispatchEvent_memWf (Res.memWf_of_exc (signalStore_memWf hs) ‹_›))
    · exact hdone _ (dispatchEvent_memWf (Res.memWf_of_lost (signalStore_memWf hs) ‹_›))
    · exact setIntake_memWf (Res.memWf_of_wait (signalStore_memWf hs) ‹_›)

theorem becomeReady_memWf {dev e} (hs : s.memWf) : (becomeReady dev e s).memWf := by
  unfold becomeReady
  split
  · exact hs
  · extract_lets
    split
    · exact complete_memWf (Res.memWf_of_exc (imageOf_memWf hs) ‹_›)
    · exact complete_memWf (Res.memWf_of_lost (imageOf_memWf hs) ‹_›)
    · exact setIntake_memWf (Res.memWf_of_wait (imageOf_memWf hs) ‹_›)
    · extract_lets _ s1
      have hs1 : s1.memWf := installImage_memWf (Res.memWf_of_ok (imageOf_memWf hs) ‹_›)
      split
      · exact complete_memWf hs1
      · exact setIntake_memWf hs1

theorem settleRefused_memWf {dev e} (hs : s.memWf) : (settleRefused dev e s).memWf := by
  unfold settleRefused
  split
  · exact hs
  · split
    · exact complete_memWf hs
    · exact hs

theorem refuseRecord_memWf {dev e} (hs : s.memWf) : (refuseRecord dev e s).memWf := by
  unfold refuseRecord
  split
  · exact hs
  · exact settleRefused_memWf (setIntake_memWf hs)

theorem intakeEnter_memWf {dev r} (hs : s.memWf) {n t} (e : intakeEnter dev r s = some (n, t)) : t.memWf := by
  unfold intakeEnter at e
  split at e
  · nomatch e
  · extract_lets at e
    split at e
    · cases e
      exact complete_memWf (setIntake_memWf hs)
    · cases e
      exact memWf_ite (becomeReady_memWf (setIntake_memWf hs)) (setIntake_memWf hs)

theorem signalLoad_memWf {dev rcb ea} (hs : s.memWf) : (signalLoad dev rcb ea s).state.memWf :=
  Res.next_memWf (resolve_memWf hs) (fun _ _ ht => loadAt_memWf ht)

theorem execDependenceObserve_memWf {dev e j} (hs : s.memWf) : (execDependenceObserve dev e j s).memWf := by
  unfold execDependenceObserve
  split
  · exact Out.fault_memWf
  · split
    · exact Out.next_memWf (complete_memWf (setIntake_memWf hs))
    · extract_lets _ _ failed _
      have hfailed : ∀ (c : BitVec 8) (s : State), s.memWf → (failed c s).memWf :=
        fun _ _ ht => complete_memWf (dispatchEvent_memWf (setIntake_memWf ht))
      split
      · exact Out.fault_memWf
      · split
        · exact Out.next_memWf (hfailed _ _ (Res.memWf_of_exc (signalLoad_memWf hs) ‹_›))
        · exact Out.next_memWf (hfailed _ _ (Res.memWf_of_lost (signalLoad_memWf hs) ‹_›))
        · exact Out.next_memWf (Res.memWf_of_wait (signalLoad_memWf hs) ‹_›)
        · have ht := Res.memWf_of_ok (signalLoad_memWf hs) ‹_›
          split
          · exact Out.next_memWf (setIntake_memWf ht)
          · split
            · exact Out.next_memWf (memWf_ite (becomeReady_memWf (setIntake_memWf ht)) (setIntake_memWf ht))
            · exact Out.next_memWf (complete_memWf (setIntake_memWf ht))

theorem execPredicateRead_memWf {dev e} (hs : s.memWf) : (execPredicateRead dev e s).memWf := by
  unfold execPredicateRead
  split
  · exact Out.fault_memWf
  · extract_lets
    split
    · split
      · exact Out.next_memWf (complete_memWf (dispatchEvent_memWf (Res.memWf_of_exc (signalLoad_memWf hs) ‹_›)))
      · exact Out.next_memWf (complete_memWf (dispatchEvent_memWf (Res.memWf_of_lost (signalLoad_memWf hs) ‹_›)))
      · exact Out.next_memWf (Res.memWf_of_wait (signalLoad_memWf hs) ‹_›)
      · have ht := Res.memWf_of_ok (signalLoad_memWf hs) ‹_›
        exact Out.next_memWf (memWf_ite (complete_memWf ht) (becomeReady_memWf ht))
    · exact Out.fault_memWf

theorem execHostQueueTake_memWf {dev q} (hs : s.memWf) : (execHostQueueTake dev q s).memWf := by
  unfold execHostQueueTake
  extract_lets
  split
  · exact Out.fault_memWf
  · split
    · exact Out.next_memWf (writeMem_memWf hs)
    · split
      · exact Out.next_memWf hs
      · exact Out.next_memWf (memWf_of_mem_eq (writeMem_memWf (intakeEnter_memWf hs ‹_›)))

/-! ## Vector registers -/

theorem setHead_memWf {k en} (hs : s.memWf) : (setHead k en s).memWf :=
  setThr_memWf hs

theorem popHead_memWf {k en} (hs : s.memWf) : (popHead k en s).memWf :=
  setThr_memWf hs

theorem stopEntryAtc_memWf {atc k en cause estart mask addrs} (hs : s.memWf) :
    (stopEntryAtc atc k en cause estart mask addrs s).state.memWf :=
  writeRecord_memWf (setHead_memWf hs)

theorem stopEntryLost_memWf {k en cause} (hs : s.memWf) : (stopEntryLost k en cause s).state.memWf :=
  writeRecord_memWf (setHead_memWf hs)

theorem stopEntry_memWf {k en cause estart mask addrs} (hs : s.memWf) : (stopEntry k en cause estart mask addrs s).state.memWf :=
  stopEntryAtc_memWf hs

/-! ## Vector memory -/

theorem VWin.fault_memWf {v : VWin} {e c a lost} (hs : s.memWf) : (v.fault e c a lost s).s.memWf :=
  hs

theorem VWin.did_memWf {v : VWin} {j} (hs : s.memWf) : (v.did j s).s.memWf :=
  hs

theorem VWin.block_memWf {v : VWin} (hs : s.memWf) : (v.block s).s.memWf :=
  hs

theorem VWin.wrote_memWf {v : VWin} {pa n} (hv : v.s.memWf) : (v.wrote pa n).s.memWf := by
  unfold VWin.wrote
  extract_lets
  split
  · exact clearPoison_memWf hv
  · exact hv

theorem loadElem_memWf {w bits e ea} (hs : s.memWf) : (loadElem w bits e ea s).state.memWf := by
  unfold loadElem
  split
  · exact load_memWf hs
  · extract_lets
    split
    · exact Res.next_memWf (load_memWf hs) (fun _ _ ht => ht)
    · exact wholeOr_memWf hs (Res.next_memWf (load_memWf hs) (fun _ _ ht => Res.next_memWf (load_memWf ht) (fun _ _ hu => hu)))

theorem sendLine_memWf {w o l} (hs : s.memWf) {t} (e : sendLine w o l s = some t) : t.memWf := by
  unfold sendLine at e
  split at e
  · cases e
    exact hs
  · extract_lets at e
    split at e
    · nomatch e
    · cases e
      refine memWf_foldl ?_ hs
      intro u _ hu
      extract_lets _ u1
      have hu1 : u1.memWf := memWf_ite (memWf_foldl (fun _ _ h => clearPoison_memWf h) hu) hu
      split
      · exact sendPacket_memWf hu1
      · split
        · exact hu1
        · exact memWf_foldl (fun _ _ h => storeHome_memWf (settleWrites_memWf h)) hu1

theorem sendLines_memWf {w o l} (hs : s.memWf) : (sendLines w o l s).2.memWf := by
  unfold sendLines
  refine List.foldlRecOn (motive := fun r : List Gathered × State => r.2.memWf) _ _ hs ?_
  intro r hr ln _
  extract_lets
  split
  · exact hr
  · exact sendLine_memWf hr ‹_›

theorem sendFirst_memWf {w o} {v : VWin} {p pa n} (hv : v.s.memWf) : (sendFirst w o v p pa n).s.memWf := by
  unfold sendFirst
  extract_lets _ r v1
  have hr : r.2.memWf := sendLines_memWf hv
  have hv1 : v1.s.memWf := memWf_ite_of hr hv
  split
  · exact hv
  · split
    · exact VWin.block_memWf hv1
    · split
      · exact VWin.block_memWf hv1
      · exact hv1

theorem storeNow_memWf {w o} {v : VWin} {e n ea p pa val wide} {f : VWin → VWin} (hf : ∀ v : VWin, v.s.memWf → (f v).s.memWf)
    (hv : v.s.memWf) : (storeNow w o v e n ea p pa val wide f).s.memWf := by
  unfold storeNow
  extract_lets _ _ _ s
  have hs : s.memWf := memWf_ite (memWf_foldl (fun _ _ ht => tagLines_memWf (storeHome_memWf (settleWrites_memWf ht))) hv) hv
  split
  · split
    · exact VWin.fault_memWf hv
    · split
      · exact VWin.block_memWf hv
      · exact hf _ hs
  · split
    · exact VWin.fault_memWf (Res.memWf_of_exc (storeAt_memWf hv) ‹_›)
    · exact VWin.fault_memWf (Res.memWf_of_lost (storeAt_memWf hv) ‹_›)
    · exact VWin.block_memWf (Res.memWf_of_wait (storeAt_memWf hv) ‹_›)
    · have ht := Res.memWf_of_ok (storeAt_memWf hv) ‹_›
      exact hf _ (memWf_ite_of (VWin.wrote_memWf ht) ht)

theorem storePiece_memWf {w o} {v : VWin} {e n ea val wide} {f : VWin → VWin} (hf : ∀ v : VWin, v.s.memWf → (f v).s.memWf)
    (hv : v.s.memWf) : (storePiece w o v e n ea val wide f).s.memWf := by
  unfold storePiece
  split
  · exact VWin.fault_memWf (Res.memWf_of_exc (resolve_memWf hv) ‹_›)
  · exact VWin.fault_memWf (Res.memWf_of_lost (resolve_memWf hv) ‹_›)
  · exact VWin.block_memWf (Res.memWf_of_wait (resolve_memWf hv) ‹_›)
  · split
    · exact hv
    · extract_lets v1
      have hv1 : v1.s.memWf := sendFirst_memWf (Res.memWf_of_ok (resolve_memWf hv) ‹_›)
      split
      · exact hv1
      · exact storeNow_memWf (fun _ h => hf _ h) hv1

theorem oldByte_memWf {w} {v : VWin} {ea} (hv : v.s.memWf) : (oldByte w v ea).2.memWf := by
  unfold oldByte
  split
  · extract_lets s
    have hs : s.memWf := settleWrites_memWf (Res.memWf_of_ok (resolve_memWf hv) ‹_›)
    split <;> exact hs
  · exact hv

theorem storeTwo_memWf {w o} {v : VWin} {j e ea b wide} (hv : v.s.memWf) : (storeTwo w o v j e ea b wide).s.memWf := by
  unfold storeTwo
  generalize hr : (resolve v.s w false true 1 ea).next _ = r
  have hr : r.state.memWf :=
    hr ▸ Res.next_memWf (resolve_memWf hv) (fun _ _ ht => Res.next_memWf (resolve_memWf ht) (fun _ _ hu => hu))
  split
  · exact VWin.fault_memWf hr
  · exact VWin.fault_memWf hr
  · exact VWin.block_memWf hr
  · split
    · exact hv
    · extract_lets v1 v2 t
      have hv1 : v1.s.memWf := sendFirst_memWf hr
      have hv2 : v2.s.memWf := memWf_ite_of hv1 (sendFirst_memWf hv1)
      have ht : t.s.memWf := storeNow_memWf (fun _ h => storeNow_memWf (fun _ h => VWin.did_memWf h) h) hv2
      split
      · exact hv2
      · split
        · exact ht
        · split
          · exact VWin.fault_memWf (askedFrom_memWf hv2)
          · exact VWin.block_memWf (waitFrom_memWf hv2)

theorem storeElem_memWf {w o} {v : VWin} {j e bits ea val wide} (hv : v.s.memWf) : (storeElem w o v j e bits ea val wide).s.memWf := by
  unfold storeElem
  split
  · exact storePiece_memWf (fun _ h => VWin.did_memWf h) hv
  · extract_lets _ r _ q
    have hr : r.2.memWf := oldByte_memWf hv
    have hq : q.2.memWf := oldByte_memWf hr
    split
    · exact storePiece_memWf (fun _ h => VWin.did_memWf h) hr
    · exact storeTwo_memWf hq

theorem setLoaded_memWf {k o en bits e v psn} (hs : s.memWf) : (setLoaded k o en bits e v psn s).memWf :=
  setThr_memWf hs

theorem specFault_memWf {k o en} {v : VWin} {j bits e} (hs : s.memWf) : (specFault k o en v j bits e s).s.memWf :=
  VWin.did_memWf (setThr_memWf (setLoaded_memWf (dropFailed_memWf hs)))

theorem loadOne_memWf {k o en w} {v : VWin} {j e} (hv : v.s.memWf) : (loadOne k o en w v j e).s.memWf := by
  unfold loadOne
  extract_lets
  split
  · exact VWin.did_memWf (setLoaded_memWf hv)
  · split
    · split
      · exact specFault_memWf hv
      · split
        · exact specFault_memWf (Res.memWf_of_exc (loadElem_memWf hv) ‹_›)
        · exact specFault_memWf (Res.memWf_of_lost (loadElem_memWf hv) ‹_›)
        · exact VWin.block_memWf (Res.memWf_of_wait (loadElem_memWf hv) ‹_›)
        · exact VWin.did_memWf (setLoaded_memWf (Res.memWf_of_ok (loadElem_memWf hv) ‹_›))
    · split
      · exact VWin.fault_memWf hv
      · split
        · exact hv
        · split
          · exact VWin.fault_memWf (Res.memWf_of_exc (loadElem_memWf hv) ‹_›)
          · exact VWin.fault_memWf (Res.memWf_of_lost (loadElem_memWf hv) ‹_›)
          · exact VWin.block_memWf (Res.memWf_of_wait (loadElem_memWf hv) ‹_›)
          · exact VWin.did_memWf (setLoaded_memWf (Res.memWf_of_ok (loadElem_memWf hv) ‹_›))

theorem storeOne_memWf {k o en w} {v : VWin} {j e} (hv : v.s.memWf) : (storeOne k o en w v j e).s.memWf := by
  unfold storeOne
  extract_lets
  split
  · split
    · exact VWin.did_memWf hv
    · exact storeElem_memWf hv
  · split
    · exact VWin.fault_memWf hv
    · exact storeElem_memWf hv

theorem blockByte_memWf {k o en w} {v : VWin} {e} (hv : v.s.memWf) : (blockByte k o en w v e).s.memWf := by
  unfold blockByte
  extract_lets _ _ _ _ _ _ r
  have hr : r.s.memWf := storePiece_memWf (fun _ h => h) hv
  refine memWf_ite_of (f := VWin.s) hv (memWf_ite_of (f := VWin.s) hv ?_)
  split
  · split
    · exact hv
    · split
      · exact Res.memWf_of_exc (load_memWf hv) ‹_›
      · exact Res.memWf_of_lost (load_memWf hv) ‹_›
      · exact VWin.block_memWf (Res.memWf_of_wait (load_memWf hv) ‹_›)
      · exact setThr_memWf (Res.memWf_of_ok (load_memWf hv) ‹_›)
  · split
    · exact hv
    · split
      · exact hv
      · split <;> exact hr

theorem windowElem_memWf {k o en w} {v : VWin} {j} (hv : v.s.memWf) : (windowElem k o en w v j).s.memWf := by
  unfold windowElem
  extract_lets _ _ _ v1
  have hv1 : v1.s.memWf := memWf_ite_of (blockByte_memWf hv) hv
  split
  · exact hv
  · split
    · exact hv1
    · exact VWin.fault_memWf hv1
    · exact hv1
    · split
      · exact loadOne_memWf hv1
      · exact storeOne_memWf hv1

theorem endLoad_memWf {k o en} (hs : s.memWf) : (endLoad k o en s).memWf := by
  unfold endLoad
  split
  · exact hs
  · exact setThr_memWf hs

theorem vWindow_memWf {k o en} (hs : s.memWf) : (vWindow k o en s).s.memWf :=
  List.foldlRecOn (motive := fun v : VWin => v.s.memWf) _ _ hs (fun _ hv _ _ => windowElem_memWf hv)

theorem sendGathered_memWf {k o en} {f : VEntry → State → WinOut} (hf : ∀ en s, s.memWf → (f en s).state.memWf) (hs : s.memWf) :
    (sendGathered k o en s f).state.memWf := by
  unfold sendGathered
  extract_lets r _
  have hr : r.2.memWf := sendLines_memWf hs
  split
  · exact hf _ _ hr
  · exact hr

theorem vWindows_succ {k o n en} : vWindows k o (n + 1) en s =
    let v := vWindow k o en s
    let en := { en with done := v.done, pushes := v.pushes, stored := v.stored, blks := v.blks }
    if v.blocked then .wait en v.s
    else if !v.faults.isEmpty then sendGathered k o en v.s (fun en s => .fault en v.faults s)
    else if en.vl ≤ en.estart + 256 then sendGathered k o en v.s .done
    else
      let en := { en with estart := en.estart + 256, done := 0, blks := [] }
      if granuleSplit o en then vWindows k o n en v.s else .more en v.s :=
  rfl

theorem vWindows_memWf {k o n en} (hs : s.memWf) : (vWindows k o n en s).state.memWf := by
  induction n generalizing en s with
  | zero => exact hs
  | succ n ih =>
    rw [vWindows_succ]
    extract_lets v
    have hv : v.s.memWf := vWindow_memWf hs
    clear_value v
    split
    · exact hv
    · split
      · exact sendGathered_memWf (fun _ _ h => h) hv
      · split
        · exact sendGathered_memWf (fun _ _ h => h) hv
        · split
          · exact ih hv
          · exact hv

theorem vMemWindow_memWf {k o en} (hs : s.memWf) : (vMemWindow k o en s).state.memWf := by
  unfold vMemWindow
  split
  · exact setHead_memWf (WinOut.memWf_of_more (vWindows_memWf hs) ‹_›)
  · exact popHead_memWf (endLoad_memWf (WinOut.memWf_of_done (vWindows_memWf hs) ‹_›))
  · exact setHead_memWf (WinOut.memWf_of_wait (vWindows_memWf hs) ‹_›)
  · have ht := WinOut.memWf_of_fault (vWindows_memWf hs) ‹_›
    split
    · exact stopEntryLost_memWf ht
    · exact stopEntry_memWf ht

theorem cmCheck_memWf {w wr n ea} (hs : s.memWf) : (cmCheck w wr n ea s).state.memWf := by
  unfold cmCheck
  split
  · exact memWf_ite (noteTried_memWf hs) hs
  · split
    · exact noteTried_memWf hs
    · exact Res.next_memWf (resolve_memWf hs) (fun _ t ht => memWf_ite_of (f := Res.state) ht ht)

theorem cmPass_memWf {w wr n addrs} (hs : s.memWf) : (cmPass w wr n addrs s).state.memWf := by
  unfold cmPass
  refine List.foldlRecOn (motive := fun r : Res (List VFault) => r.state.memWf) _ _ hs ?_
  intro r hr a _
  refine Res.next_memWf hr ?_
  intro _ t ht
  split
  · exact Res.memWf_of_ok (cmCheck_memWf ht) ‹_›
  · exact Res.memWf_of_exc (cmCheck_memWf ht) ‹_›
  · exact Res.memWf_of_lost (cmCheck_memWf ht) ‹_›
  · exact Res.memWf_of_wait (cmCheck_memWf ht) ‹_›

theorem cmSync_memWf {k w p pa} (hs : s.memWf) : (cmSync k w p pa s).memWf := by
  unfold cmSync
  split
  · exact hs
  · exact epochStep_memWf (joinBlock_memWf (setClock_memWf hs))

theorem cmElem_memWf {k o en t0} {v : CmWork} {e} (hv : v.s.memWf) : (cmElem k o en t0 v e).s.memWf := by
  unfold cmElem
  extract_lets
  split
  · exact hv
  · split
    · exact hv
    · split
      · exact Res.memWf_of_exc (cmCheck_memWf hv) ‹_›
      · exact Res.memWf_of_lost (cmCheck_memWf hv) ‹_›
      · exact Res.memWf_of_wait (cmCheck_memWf hv) ‹_›
      · have ht := Res.memWf_of_ok (cmCheck_memWf hv) ‹_›
        split
        · exact ht
        · split
          · exact ht
          · split
            · exact epochTold_memWf ht
            · extract_lets _ _ s s1 _ s2 s3
              have hs : s.memWf := memWf_ite (tagLines_memWf (storeBank_memWf ht)) ht
              have hs1 : s1.memWf := cmSync_memWf hs
              have hs2 : s2.memWf := by
                unfold s2
                split
                · exact cmSync_memWf (tagLines_memWf (storeBank_memWf ht))
                · exact ht
              have hs3 : s3.memWf := memWf_ite hs2 (setThr_memWf hs2)
              split
              · exact setThr_memWf hs1
              · exact hs3

theorem cmRelease_memWf {k en} {f : Unit → VRes} (hf : (f ()).state.memWf) (hs : s.memWf) : (cmRelease k en s f).state.memWf := by
  unfold cmRelease
  split
  · exact hf
  · split
    · exact hs
    · split
      · exact vectorTrap_memWf (setHead_memWf hs)
      · exact hf

theorem cmStrip_memWf {k o en} (hs : s.memWf) : (cmStrip k o en s).state.memWf := by
  unfold cmStrip
  extract_lets _ _ _ _ _ go _
  have hgo : ∀ t : State, t.memWf → (go t).state.memWf := by
    intro t ht
    unfold go
    extract_lets v
    have hv : v.s.memWf := by
      refine List.foldlRecOn (motive := fun v : CmWork => v.s.memWf) _ _ ht ?_
      intro v hv e _
      split
      · exact hv
      · exact cmElem_memWf hv
    split
    · exact stopEntry_memWf hv
    · split
      · exact setHead_memWf hv
      · split
        · exact popHead_memWf hv
        · exact setHead_memWf hv
  refine cmRelease_memWf ?_ hs
  split
  · exact hgo _ hs
  · split
    · exact Res.memWf_of_exc (cmPass_memWf hs) ‹_›
    · exact Res.memWf_of_lost (cmPass_memWf hs) ‹_›
    · exact Res.memWf_of_wait (cmPass_memWf hs) ‹_›
    · have ht := Res.memWf_of_ok (cmPass_memWf hs) ‹_›
      split
      · exact hgo _ ht
      · exact stopEntry_memWf ht

theorem cmRedRun_memWf {k ty dst en} (hs : s.memWf) : (cmRedRun k ty dst en s).state.memWf := by
  unfold cmRedRun
  extract_lets _ _ _ _ _ stop
  have hstop : ∀ (fs : List VFault) (c : BitVec 8) (s : State), s.memWf → (stop fs c s).state.memWf := by
    intro _ _ _ ht
    unfold stop
    split <;> exact stopEntry_memWf ht
  split
  · exact popHead_memWf hs
  · refine cmRelease_memWf ?_ hs
    split
    · exact Res.memWf_of_exc (cmPass_memWf hs) ‹_›
    · exact Res.memWf_of_lost (cmPass_memWf hs) ‹_›
    · exact Res.memWf_of_wait (cmPass_memWf hs) ‹_›
    · have ht := Res.memWf_of_ok (cmPass_memWf hs) ‹_›
      split
      · exact Res.memWf_of_wait (cmCheck_memWf ht) ‹_›
      · exact hstop _ _ _ (Res.memWf_of_lost (cmCheck_memWf ht) ‹_›)
      · exact hstop _ _ _ (Res.memWf_of_exc (cmCheck_memWf ht) ‹_›)
      · have hu := Res.memWf_of_ok (cmCheck_memWf ht) ‹_›
        split
        · exact hstop _ _ _ hu
        · extract_lets
          split
          · exact stopEntry_memWf hu
          · split
            · unfold stop
              split <;> exact stopEntry_memWf hu
            · split
              · unfold stop
                split <;> exact stopEntry_memWf hu
              · split
                · exact epochTold_memWf hu
                · exact popHead_memWf (cmSync_memWf (tagLines_memWf (storeBank_memWf hu)))

/-! ## Incremental queues -/

theorem writeOpen_memWf {pa} (hs : s.memWf) : (writeOpen pa s).memWf :=
  writePlain_memWf hs

theorem haySpill_memWf {die} (hs : s.memWf) : (haySpill die s).memWf := by
  unfold haySpill
  extract_lets
  split
  · exact writeOpen_memWf hs
  · exact hs

theorem hayWait_memWf {die} (hs : s.memWf) : (hayWait die s).memWf :=
  hayStat_memWf hs

theorem iqRecord_memWf {die q cause batch} (hs : s.memWf) : (iqRecord die q cause batch s).memWf :=
  writeRecord_memWf hs

theorem iqSend_memWf {key h slot vc b kind} (hs : s.memWf) : (iqSend key h slot vc b kind s).memWf :=
  hs

theorem sendMarker_memWf {key b d} (hs : s.memWf) : (sendMarker key b s d).memWf := by
  unfold sendMarker
  split
  · exact hs
  · extract_lets s1
    have hs1 : s1.memWf := setIqRaw_memWf hs
    split
    · exact hs1
    · exact iqSend_memWf hs1

theorem iqThru_memWf {key} (hs : s.memWf) : (iqThru key s).memWf := by
  unfold iqThru
  split
  · exact hs
  · extract_lets _ _ s1
    have hs1 : s1.memWf := setIq_memWf hs
    split
    · exact hs1
    · exact slotWrite_memWf hs1

theorem iqAdvance_memWf {key n} (hs : s.memWf) : (iqAdvance key n s).memWf := by
  induction n generalizing s with
  | zero => exact iqThru_memWf hs
  | succ n ih =>
    unfold iqAdvance
    split
    · exact hs
    · split
      · exact ih (memWf_ite (setIqRaw_memWf hs) (memWf_foldl (fun _ _ h => sendMarker_memWf h) (setIqRaw_memWf hs)))
      · exact iqThru_memWf hs

theorem frontRetry_memWf (hs : s.memWf) : (frontRetry s).memWf := by
  unfold frontRetry
  refine memWf_foldl ?_ hs
  intro _ _ ht
  split
  · split
    · exact iqAdvance_memWf ht
    · exact ht
  · exact ht

theorem iqAccept_memWf {key slot r} (hs : s.memWf) : (iqAccept key slot r s).memWf := by
  unfold iqAccept
  split
  · exact hs
  · split
    · exact hayStat_memWf (haySpill_memWf (setIq_memWf hs))
    · split
      · exact hs
      · extract_lets _ _ s1 s2
        have hs1 : s1.memWf := by
          unfold s1
          split
          · exact writeOpen_memWf hs
          · exact hs
        have hs2 : s2.memWf := setIq_memWf hs1
        split
        · exact iqSend_memWf hs2
        · exact hs2

theorem iqStop_memWf {k en cause e addr} (hs : s.memWf) : (iqStop k en cause e addr s).state.memWf :=
  stopEntry_memWf hs

theorem iqStopLost_memWf {k en cause e} (hs : s.memWf) : (iqStopLost k en cause e s).state.memWf :=
  stopEntryLost_memWf hs

theorem stallHead_memWf {k en} (hs : s.memWf) : (stallHead k en s).state.memWf :=
  setHead_memWf hs

theorem emitRun_memWf {k n en} (hs : s.memWf) : (emitRun k n en s).state.memWf := by
  induction n generalizing en s with
  | zero => exact setHead_memWf hs
  | succ n ih =>
    unfold emitRun
    extract_lets
    split
    · exact popHead_memWf hs
    · split
      · exact iqStop_memWf hs
      · split
        · exact iqStop_memWf (Res.memWf_of_exc (load_memWf hs) ‹_›)
        · exact iqStopLost_memWf (Res.memWf_of_lost (load_memWf hs) ‹_›)
        · exact stallHead_memWf (Res.memWf_of_wait (load_memWf hs) ‹_›)
        · have ht := Res.memWf_of_ok (load_memWf hs) ‹_›
          split
          · exact iqStop_memWf ht
          · split
            · exact iqStop_memWf ht
            · split
              · exact stallHead_memWf ht
              · split
                · exact stallHead_memWf (memWf_ite (hayWait_memWf ht) ht)
                · exact ih (iqAccept_memWf ht)

theorem emitStrip_memWf {k en} (hs : s.memWf) : (emitStrip k en s).state.memWf := by
  unfold emitStrip
  extract_lets
  split
  · exact iqStop_memWf hs
  · split
    · exact iqStop_memWf hs
    · split
      · exact iqStop_memWf hs
      · split
        · exact iqStop_memWf hs
        · exact emitRun_memWf hs

theorem vRelease_memWf {k scope} (hs : s.memWf) : (vRelease k scope s).state.memWf := by
  unfold vRelease
  extract_lets
  split
  · exact hs
  · split
    · exact hs
    · split
      · exact epochTold_memWf hs
      · exact epochStep_memWf hs

theorem iqReplay_memWf {key b} (hs : s.memWf) : (iqReplay key b s).memWf := by
  unfold iqReplay
  split
  · exact hs
  · extract_lets s1 s2
    have hs1 : s1.memWf := by
      unfold s1
      refine memWf_foldl ?_ hs
      intro _ _ ht
      split
      · split
        · exact iqSend_memWf ht
        · exact ht
      · exact ht
    have hs2 : s2.memWf := memWf_foldl (fun _ _ ht => memWf_ite (iqSend_memWf ht) ht) hs1
    exact setIq_memWf hs2

theorem closeRun_memWf {k en} (hs : s.memWf) : (closeRun k en s).state.memWf := by
  unfold closeRun
  extract_lets
  split
  · exact iqStop_memWf hs
  · split
    · exact iqStop_memWf hs
    · split
      · split
        · exact popHead_memWf hs
        · split
          · exact iqAdvance_memWf hs
          · exact popHead_memWf (iqAdvance_memWf hs)
      · split
        · exact VGate.memWf_of_wait (memWf_ite_of (f := VGate.state) (a := .go s) hs (vRelease_memWf hs)) ‹_›
        · exact vectorTrap_memWf (VGate.memWf_of_lost (memWf_ite_of (f := VGate.state) (a := .go s) hs (vRelease_memWf hs)) ‹_›)
        · have ht := VGate.memWf_of_go (memWf_ite_of (f := VGate.state) (a := .go s) hs (vRelease_memWf hs)) ‹_›
          split
          · split
            · exact iqStop_memWf ht
            · split
              · exact iqStop_memWf ht
              · exact popHead_memWf (iqReplay_memWf ht)
          · split
            · exact iqStop_memWf ht
            · split
              · exact iqStop_memWf ht
              · split
                · exact setHead_memWf ht
                · extract_lets u
                  have hu : u.memWf := iqAdvance_memWf (setIqRaw_memWf ht)
                  split
                  · split
                    · exact setHead_memWf hu
                    · exact popHead_memWf hu
                  · exact popHead_memWf hu

theorem doneRun_memWf {k en} (hs : s.memWf) : (doneRun k en s).state.memWf := by
  unfold doneRun
  split
  · exact iqStop_memWf hs
  · split
    · exact iqStop_memWf hs
    · split
      · exact iqStop_memWf hs
      · split
        · exact VGate.memWf_of_wait (vRelease_memWf hs) ‹_›
        · exact vectorTrap_memWf (VGate.memWf_of_lost (vRelease_memWf hs) ‹_›)
        · exact popHead_memWf (iqAdvance_memWf (setIqRaw_memWf (VGate.memWf_of_go (vRelease_memWf hs) ‹_›)))

theorem iqFreeHolder_memWf {k b} (hs : s.memWf) : (iqFreeHolder k b s).memWf :=
  memWf_foldl (fun _ _ ht => memWf_ite (setIq_memWf ht) ht) hs

theorem arrPhys_memWf {w wr va n} (hs : s.memWf) : (arrPhys w wr va n s).state.memWf :=
  Res.next_memWf (resolve_memWf hs) (fun _ _ ht => memWf_ite_of ht (memWf_ite_of ht (memWf_ite_of ht ht)))

theorem arrStop_memWf {α : Type} {va} {r : Res α} {v t} (hr : r.state.memWf) (e : arrStop va r = .ok (v, t)) : t.memWf := by
  cases r with
  | ok => cases e; exact hr
  | exc => nomatch e
  | lost => nomatch e
  | wait => nomatch e

theorem arrStop_error_memWf {α : Type} {va} {r : Res α} {x} (hr : r.state.memWf) (e : arrStop va r = .error x) : x.2.state.memWf := by
  cases r with
  | ok => nomatch e
  | exc => cases e; exact hr
  | lost => cases e; exact hr
  | wait => cases e; exact hr

theorem iqUndone_memWf {k en e} {x : ArrStop} (hs : s.memWf) (hx : x.2.state.memWf) : (iqUndone k en e x s).state.memWf := by
  unfold iqUndone
  split
  · exact iqStop_memWf (Res.memWf_of_exc hx ‹_›)
  · exact iqStopLost_memWf (Res.memWf_of_lost hx ‹_›)
  · exact stallHead_memWf (Res.memWf_of_wait hx ‹_›)
  · exact stallHead_memWf hs

theorem scanFrom_memWf {w wr base n f i v t} (hs : s.memWf) (e : scanFrom w wr base n f i s = .ok (v, t)) : t.memWf := by
  induction f generalizing i s v t with
  | zero =>
    cases e
    exact hs
  | succ f ih =>
    unfold scanFrom at e
    extract_lets at e
    split at e
    · nomatch e
    · have ht := arrStop_memWf (arrPhys_memWf hs) ‹_›
      extract_lets at e
      split at e
      · split at e
        · cases e
          exact ih ht ‹_›
        · nomatch e
      · cases e
        exact ht

theorem scanFrom_error_memWf {w wr base n f i x} (hs : s.memWf) (e : scanFrom w wr base n f i s = .error x) : x.2.state.memWf := by
  induction f generalizing i s x with
  | zero => nomatch e
  | succ f ih =>
    unfold scanFrom at e
    extract_lets at e
    split at e
    · cases e
      exact arrStop_error_memWf (arrPhys_memWf hs) ‹_›
    · have ht := arrStop_memWf (arrPhys_memWf hs) ‹_›
      extract_lets at e
      split at e
      · split at e
        · nomatch e
        · cases e
          exact ih ht ‹_›
      · nomatch e

theorem arrOf_memWf {w wr a} (hs : s.memWf) {v₁ t} (e : arrOf w wr a s = .ok (v₁, t)) : t.memWf := by
  unfold arrOf at e
  split at e
  · nomatch e
  · split at e
    · nomatch e
    · extract_lets at e
      split at e
      · nomatch e
      · split at e
        · nomatch e
        · split at e
          · nomatch e
          · cases e
            exact arrStop_memWf (arrPhys_memWf hs) ‹_›

theorem arrOf_error_memWf {w wr a} (hs : s.memWf) {x} (e : arrOf w wr a s = .error x) : x.2.state.memWf := by
  unfold arrOf at e
  split at e
  · cases e
    exact hs
  · split at e
    · cases e
      exact arrStop_error_memWf (arrPhys_memWf hs) ‹_›
    · have ht := arrStop_memWf (arrPhys_memWf hs) ‹_›
      extract_lets at e
      split at e
      · cases e
        exact ht
      · split at e
        · cases e
          exact ht
        · split at e
          · cases e
            exact ht
          · nomatch e

theorem arrKept_memWf {w wr a en} (hs : s.memWf) {v₁ t} (e : arrKept w wr a en s = .ok (v₁, t)) : t.memWf := by
  unfold arrKept at e
  split at e
  · cases e
    exact hs
  · exact arrOf_memWf hs e

theorem arrKept_error_memWf {w wr a en} (hs : s.memWf) {x} (e : arrKept w wr a en s = .error x) : x.2.state.memWf := by
  unfold arrKept at e
  split at e
  · nomatch e
  · exact arrOf_error_memWf hs e

theorem arrSync_memWf {k w l} (hs : s.memWf) : (arrSync k w l s).memWf := by
  unfold arrSync
  extract_lets
  split
  · exact hs
  · exact epochStep_memWf (memWf_foldl (fun _ _ ht => joinBlock_memWf ht) (setClock_memWf hs))

theorem holdOver_memWf {s' : State} (hs : s.memWf) : (holdOver s s').memWf :=
  hs

theorem applyRun_memWf {k base logb n en} (hs : s.memWf) : (applyRun k base logb n en s).state.memWf := by
  induction n generalizing en s with
  | zero => exact setHead_memWf hs
  | succ n ih =>
    unfold applyRun
    extract_lets _ w ea oa
    split
    · exact ih hs
    · split
      · exact popHead_memWf hs
      · split
        · exact iqStop_memWf (Res.memWf_of_exc (load_memWf hs) ‹_›)
        · exact iqStopLost_memWf (Res.memWf_of_lost (load_memWf hs) ‹_›)
        · exact stallHead_memWf (Res.memWf_of_wait (load_memWf hs) ‹_›)
        · have ht := Res.memWf_of_ok (load_memWf hs) ‹_›
          split
          · exact iqUndone_memWf ht (scanFrom_error_memWf ht ‹_›)
          · have hu := scanFrom_memWf ht ‹_›
            extract_lets
            split
            · exact iqStop_memWf hu
            · extract_lets
              split
              · exact stallHead_memWf (epochTold_memWf hu)
              · split
                · exact iqUndone_memWf hu (arrStop_error_memWf (memWf_ite_of (b := Res.ok (0, 0) _) (arrPhys_memWf hu) hu) ‹_›)
                · have hu1 := arrStop_memWf (memWf_ite_of (b := Res.ok (0, 0) _) (arrPhys_memWf hu) hu) ‹_›
                  split
                  · exact iqStop_memWf (holdOver_memWf hu1)
                  · exact iqStopLost_memWf (holdOver_memWf hu1)
                  · exact stallHead_memWf (holdOver_memWf hu1)
                  · have hu2 := Res.memWf_of_ok (memWf_ite_of (a := Res.ok () _) hu1 (store_memWf hu1)) ‹_›
                    extract_lets s1 s2
                    have hs1 : s1.memWf := memWf_ite (tagLines_memWf (storeBank_memWf hu2)) hu2
                    have hs2 : s2.memWf := arrSync_memWf (tagLines_memWf (storeBank_memWf hs1))
                    split
                    · exact stopEntryAtc_memWf (orAflags_memWf hs2)
                    · exact ih hs2

theorem applyStrip_memWf {k en} (hs : s.memWf) : (applyStrip k en s).state.memWf := by
  unfold applyStrip
  extract_lets
  split
  · exact iqStop_memWf hs
  · split
    · exact iqUndone_memWf hs (arrKept_error_memWf hs ‹_›)
    · have ht := arrKept_memWf hs ‹_›
      split
      · exact iqStop_memWf ht
      · exact applyRun_memWf ht

theorem writeProducts_memWf {w out c l r} (hs : s.memWf) (e : writeProducts w out c l s = .ok r) : r.state.memWf := by
  induction l generalizing s with
  | nil =>
    cases e
    exact hs
  | cons a l ih =>
    unfold writeProducts at e
    extract_lets at e
    split at e
    · nomatch e
    · cases e
      exact Res.memWf_of_lost (store_memWf hs) ‹_›
    · cases e
      exact Res.memWf_of_wait (store_memWf hs) ‹_›
    · exact ih (Res.memWf_of_ok (store_memWf hs) ‹_›) e

theorem probeRun_memWf {k base logb n en} (hs : s.memWf) : (probeRun k base logb n en s).state.memWf := by
  induction n generalizing en s with
  | zero => exact setHead_memWf hs
  | succ n ih =>
    unfold probeRun
    extract_lets
    split
    · exact popHead_memWf hs
    · split
      · exact iqStop_memWf (Res.memWf_of_exc (load_memWf hs) ‹_›)
      · exact iqStopLost_memWf (Res.memWf_of_lost (load_memWf hs) ‹_›)
      · exact stallHead_memWf (Res.memWf_of_wait (load_memWf hs) ‹_›)
      · have ht := Res.memWf_of_ok (load_memWf hs) ‹_›
        split
        · exact ih ht
        · split
          · exact iqUndone_memWf ht (scanFrom_error_memWf ht ‹_›)
          · have hu := scanFrom_memWf ht ‹_›
            extract_lets _ _ s1
            have hs1 : s1.memWf := arrSync_memWf hu
            clear_value s1
            split
            · exact stallHead_memWf (epochTold_memWf hu)
            · split
              · exact iqStop_memWf hs1
              · split
                · exact iqStop_memWf (Res.memWf_of_exc (load_memWf hs1) ‹_›)
                · exact iqStopLost_memWf (Res.memWf_of_lost (load_memWf hs1) ‹_›)
                · exact stallHead_memWf (Res.memWf_of_wait (load_memWf hs1) ‹_›)
                · have hu1 := Res.memWf_of_ok (load_memWf hs1) ‹_›
                  extract_lets
                  split
                  · exact iqStop_memWf hu1
                  · split
                    · exact iqStop_memWf hu1
                    · have hu2 := writeProducts_memWf hu1 ‹_›
                      split
                      · exact ih (Res.memWf_of_ok (memWf_ite_of (a := Res.ok () _) hu2 (store_memWf hu2)) ‹_›)
                      · exact stallHead_memWf (holdOver_memWf hu1)
                      · exact iqStop_memWf (holdOver_memWf hu1)
                      · exact iqStopLost_memWf (holdOver_memWf hu1)
                    · exact stallHead_memWf (holdOver_memWf hu1)
                    · exact iqStop_memWf (holdOver_memWf hu1)
                    · exact iqStopLost_memWf (holdOver_memWf hu1)

theorem probeStrip_memWf {k en} (hs : s.memWf) : (probeStrip k en s).state.memWf := by
  unfold probeStrip
  extract_lets
  split
  · exact iqStop_memWf hs
  · split
    · exact iqUndone_memWf hs (arrKept_error_memWf hs ‹_›)
    · have ht := arrKept_memWf hs ‹_›
      extract_lets
      split
      · exact iqStop_memWf ht
      · split
        · exact probeRun_memWf ht
        · split
          · exact iqStop_memWf (Res.memWf_of_exc (load_memWf ht) ‹_›)
          · exact iqStopLost_memWf (Res.memWf_of_lost (load_memWf ht) ‹_›)
          · exact Res.memWf_of_wait (load_memWf ht) ‹_›
          · have hu := Res.memWf_of_ok (load_memWf ht) ‹_›
            split
            · exact iqStop_memWf hu
            · split
              · exact probeRun_memWf (Res.memWf_of_ok (memWf_ite_of (b := Res.ok () _) (store_memWf hu) hu) ‹_›)
              · exact Res.memWf_of_wait (memWf_ite_of (b := Res.ok () _) (store_memWf hu) hu) ‹_›
              · exact iqStop_memWf (Res.memWf_of_exc (memWf_ite_of (b := Res.ok () _) (store_memWf hu) hu) ‹_›)
              · exact iqStopLost_memWf (Res.memWf_of_lost (memWf_ite_of (b := Res.ok () _) (store_memWf hu) hu) ‹_›)

theorem iqStrip_memWf {k en r} (hs : s.memWf) (e : iqStrip k en s = some r) : r.state.memWf := by
  unfold iqStrip at e
  split at e
  · cases e; exact emitStrip_memWf hs
  · cases e; exact closeRun_memWf hs
  · cases e; exact doneRun_memWf hs
  · cases e; exact applyStrip_memWf hs
  · cases e; exact probeStrip_memWf hs
  · nomatch e

theorem deliverWrite_memWf {die q b a l} (hs : s.memWf) : (deliverWrite die q b a l s).memWf := by
  induction l generalizing a s with
  | nil => exact hs
  | cons r l ih =>
    unfold deliverWrite
    refine ih ?_
    split
    · exact memWf_ite (poisonAt_memWf (clearTags_memWf (storeBank_memWf hs))) (clearTags_memWf (storeBank_memWf hs))
    · exact hs

theorem execBatchDelivery_memWf {die queue} (hs : s.memWf) : (execBatchDelivery die queue s).memWf := by
  unfold execBatchDelivery
  extract_lets
  split
  · exact Out.fault_memWf
  · split
    · exact Out.next_memWf hs
    · extract_lets _ _ _ _ refuse _ s1
      have hrefuse : ∀ (c : BitVec 8), Out.memWf (refuse c) := fun _ => Out.next_memWf (iqRecord_memWf (setIq_memWf hs))
      have hs1 : s1.memWf := deliverWrite_memWf hs
      split
      · exact hrefuse _
      · split
        · exact hrefuse _
        · exact Out.next_memWf (hayStat_memWf (setIq_memWf hs1))

theorem execDcapRetry_memWf {die queue} (hs : s.memWf) : (execDcapRetry die queue s).memWf := by
  unfold execDcapRetry
  extract_lets
  split
  · exact Out.fault_memWf
  · split
    · exact Out.next_memWf (setIq_memWf hs)
    · exact Out.next_memWf hs

theorem iqSwath_memWf (hs : s.memWf) : (iqSwath s).memWf :=
  memWf_foldl (fun _ _ ht => memWf_ite (setIqRaw_memWf ht) ht) hs

theorem dropIqPacket_memWf {id} (hs : s.memWf) : (dropIqPacket id s).memWf :=
  hs

theorem refuseSet_memWf {p} (hs : s.memWf) : (refuseSet p s).memWf := by
  unfold refuseSet
  extract_lets s1
  have hs1 : s1.memWf := hs
  split
  · split
    · exact hs1
    · exact iqRecord_memWf (setIqRaw_memWf hs1)
  · exact hs1

theorem arrival_memWf {p key q t} (hs : s.memWf) (e : arrival p s = .ok (key, q, t)) : t.memWf := by
  unfold arrival at e
  split at e
  · nomatch e
  · split at e
    · nomatch e
    · extract_lets u at e
      have hu : u.memWf := dropStale_memWf hs
      clear_value u
      split at e
      · nomatch e
      · split at e
        · nomatch e
        · split at e
          · nomatch e
          · cases e
            exact hu

theorem arrival_error_memWf {p o} (hs : s.memWf) (e : arrival p s = .error o) : o.memWf := by
  unfold arrival at e
  split at e
  · cases e
    exact Out.next_memWf hs
  · split at e
    · cases e
      exact Out.next_memWf (dropIqPacket_memWf hs)
    · extract_lets u at e
      have hu : u.memWf := dropStale_memWf hs
      clear_value u
      split at e
      · cases e
        exact Out.next_memWf (dropIqPacket_memWf hu)
      · split at e
        · cases e
          exact Out.next_memWf (refuseSet_memWf hu)
        · split at e
          · cases e
            exact Out.next_memWf (refuseSet_memWf hu)
          · nomatch e

theorem mergeStage_memWf {key q g} (hs : s.memWf) : (mergeStage key q g s).memWf :=
  iqSend_memWf (iqAdvance_memWf (setIqRaw_memWf hs))

theorem settleStage_memWf {key q g} (hs : s.memWf) : (settleStage key q g s).memWf := by
  unfold settleStage
  split
  · exact mergeStage_memWf hs
  · exact setIq_memWf hs

theorem execQueueRecord_memWf {id} (hs : s.memWf) : (execQueueRecord id s).memWf := by
  unfold execQueueRecord
  split
  · exact Out.fault_memWf
  · split
    · split
      · exact arrival_error_memWf hs ‹_›
      · have ht := arrival_memWf hs ‹_›
        split
        · exact Out.next_memWf (dropIqPacket_memWf ht)
        · split
          · exact Out.next_memWf (hayWait_memWf ht)
          · exact Out.next_memWf (hayStat_memWf (haySpill_memWf (settleStage_memWf (dropIqPacket_memWf ht))))
    · exact Out.fault_memWf

theorem execClosingMarker_memWf {id} (hs : s.memWf) : (execClosingMarker id s).memWf := by
  unfold execClosingMarker
  split
  · exact Out.fault_memWf
  · split
    · split
      · exact arrival_error_memWf hs ‹_›
      · have ht := arrival_memWf hs ‹_›
        split
        · exact Out.next_memWf (iqSend_memWf (dropIqPacket_memWf ht))
        · split
          · exact Out.next_memWf ht
          · exact Out.next_memWf (settleStage_memWf (dropIqPacket_memWf ht))
    · exact Out.fault_memWf

theorem execMarkerAcknowledgement_memWf {id} (hs : s.memWf) : (execMarkerAcknowledgement id s).memWf := by
  unfold execMarkerAcknowledgement
  split
  · exact Out.fault_memWf
  · split
    · split
      · exact Out.next_memWf hs
      · extract_lets s1 _
        have hs1 : s1.memWf := dropIqPacket_memWf hs
        split
        · exact Out.next_memWf hs1
        · exact Out.next_memWf (iqAdvance_memWf (setIqRaw_memWf hs1))
    · exact Out.fault_memWf

theorem iqLoss_memWf {die dest} (hs : s.memWf) : (iqLoss die dest s).memWf :=
  memWf_foldl (fun _ _ ht => memWf_ite (iqRecord_memWf (setIq_memWf ht)) ht) hs

/-! ## Vector strips -/

theorem elemStrip_memWf {k sh en} (hs : s.memWf) : (elemStrip k sh en s).state.memWf := by
  unfold elemStrip
  extract_lets _ _ _ _ _ s1
  have hs1 : s1.memWf := setThr_memWf hs
  split
  · exact stopEntry_memWf hs1
  · split
    · exact popHead_memWf hs1
    · exact setHead_memWf hs1

theorem wholeDone_memWf {k en fl t} (hs : s.memWf) : (wholeDone k en fl t s).state.memWf :=
  popHead_memWf (setThr_memWf hs)

theorem wholePoison_memWf {k en} (hs : s.memWf) : (wholePoison k en s).state.memWf :=
  stopEntry_memWf hs

theorem movesRun_memWf {k d ms en} (hs : s.memWf) : (movesRun k d ms en s).state.memWf := by
  unfold movesRun
  extract_lets
  split
  · exact wholePoison_memWf hs
  · exact wholeDone_memWf hs

theorem pruneRun_memWf {k d a b en} (hs : s.memWf) : (pruneRun k d a b en s).state.memWf := by
  unfold pruneRun
  extract_lets
  split
  · exact wholePoison_memWf hs
  · exact wholeDone_memWf hs

theorem foldRun_memWf {k f d a m en} (hs : s.memWf) : (foldRun k f d a m en s).state.memWf := by
  unfold foldRun
  extract_lets
  split
  · exact wholeDone_memWf hs
  · split
    · exact wholeDone_memWf hs
    · split
      · exact wholePoison_memWf hs
      · exact wholeDone_memWf hs

theorem cvtWide_memWf {k d a m target en} (hs : s.memWf) : (cvtWide k d a m target en s).state.memWf := by
  unfold cvtWide
  extract_lets
  split
  · exact wholePoison_memWf hs
  · exact wholeDone_memWf hs

theorem cvtBfp_memWf {k d a en} (hs : s.memWf) : (cvtBfp k d a en s).state.memWf := by
  unfold cvtBfp
  extract_lets
  split
  · exact wholePoison_memWf hs
  · exact wholeDone_memWf hs

theorem maskRun_memWf {k d f en} (hs : s.memWf) : (maskRun k d f en s).state.memWf :=
  wholeDone_memWf hs

theorem trowRun_memWf {k tk a m en} (hs : s.memWf) : (trowRun k tk a m en s).state.memWf := by
  unfold trowRun
  extract_lets _ _ _ _ _ _ _ _ _ _ s1
  have hs1 : s1.memWf := setCore_memWf hs
  split
  · exact wholePoison_memWf hs
  · exact wholeDone_memWf hs1

theorem tcolRun_memWf {k d tk m en} (hs : s.memWf) : (tcolRun k d tk m en s).state.memWf := by
  unfold tcolRun
  extract_lets
  split
  · exact wholePoison_memWf hs
  · exact wholeDone_memWf hs

theorem mergeStrip_memWf {k d vs mk en} (hs : s.memWf) : (mergeStrip k d vs mk en s).state.memWf := by
  unfold mergeStrip
  extract_lets _ _ _ _ s1
  have hs1 : s1.memWf := setThr_memWf hs
  split
  · exact stopEntry_memWf hs1
  · split
    · exact popHead_memWf hs1
    · exact setHead_memWf hs1

theorem vStrip_memWf {k en} (hs : s.memWf) : (vStrip k en s).state.memWf := by
  unfold vStrip
  extract_lets
  split
  · exact iqStrip_memWf hs ‹_›
  · split
    · exact vMemWindow_memWf hs
    · exact cmStrip_memWf hs
    · exact movesRun_memWf hs
    · exact foldRun_memWf hs
    · generalize en.instr = i
      have hshape : (match vShape i en.vtype with
          | some sh => elemStrip k sh en s
          | none => .done (popHead k en s)).state.memWf := by
        split
        · exact elemStrip_memWf hs
        · exact popHead_memWf hs
      cases i
      case cmRed => exact cmRedRun_memWf hs
      case vprune => exact pruneRun_memWf hs
      case mand | mor | mxor | mandn | mnot => exact maskRun_memWf hs
      case trow => exact memWf_ite_of (f := VRes.state) hs (trowRun_memWf hs)
      case tcol => exact memWf_ite_of (f := VRes.state) hs (tcolRun_memWf hs)
      case vspec => exact wholeDone_memWf hs
      case vmerge => exact mergeStrip_memWf hs
      case sets => exact wholeDone_memWf hs
      case vcvt => exact memWf_ite_of (cvtBfp_memWf hs) (memWf_ite_of (cvtWide_memWf hs) (hshape))
      all_goals exact hshape

theorem chargeStrip_memWf {k cost} (hs : s.memWf) : (chargeStrip k cost s).memWf :=
  setThr_memWf hs

theorem withClaims_memWf {k en} (hs : s.memWf) : (withClaims k en s).memWf := by
  unfold withClaims
  split
  · exact hs
  · exact setThr_memWf hs

theorem vAhead_memWf {k} (hs : s.memWf) : (vAhead k s).state.memWf := by
  unfold vAhead
  split
  · exact hs
  · extract_lets put
    have hput : ∀ (e : VEntry) (s : State), s.memWf → (put e s).memWf := fun _ _ ht => setThr_memWf ht
    split
    · exact chargeStrip_memWf (hput _ _ (WinOut.memWf_of_more (vWindows_memWf (withClaims_memWf hs)) ‹_›))
    · exact setThr_memWf (chargeStrip_memWf (endLoad_memWf (WinOut.memWf_of_done (vWindows_memWf (withClaims_memWf hs)) ‹_›)))
    · have ht := WinOut.memWf_of_wait (vWindows_memWf (withClaims_memWf hs)) ‹_›
      split
      · exact ht
      · exact setThr_memWf ht
    · have ht := WinOut.memWf_of_fault (vWindows_memWf (withClaims_memWf hs)) ‹_›
      split
      · exact ht
      · exact setThr_memWf ht

theorem vStep_memWf {k} (hs : s.memWf) : (vStep k s).state.memWf := by
  unfold vStep
  extract_lets
  split
  · exact hs
  · split
    · exact hs
    · split
      · split
        · exact vAhead_memWf (VRes.memWf_of_wait (vStrip_memWf (withClaims_memWf hs)) ‹_›)
        · exact vStrip_memWf (withClaims_memWf hs)
      · exact vAhead_memWf hs

theorem strip_memWf {k} (hs : s.memWf) : (strip k s).1.memWf := by
  unfold strip
  split
  · exact hs
  · split
    · exact chargeStrip_memWf (VRes.memWf_of_more (vStep_memWf hs) ‹_›)
    · exact chargeStrip_memWf (VRes.memWf_of_done (vStep_memWf hs) ‹_›)
    · exact chargeStrip_memWf (VRes.memWf_of_fault (vStep_memWf hs) ‹_›)
    · exact VRes.memWf_of_wait (vStep_memWf hs) ‹_›

theorem issueStrip_memWf {l} (hs : s.memWf) : (issueStrip l s).1.memWf := by
  induction l generalizing s with
  | nil => exact hs
  | cons k l ih =>
    unfold issueStrip
    extract_lets r
    have hr : r.1.memWf := strip_memWf hs
    split
    · exact hr
    · exact ih hr

theorem vRun_memWf {k n} (hs : s.memWf) : (vRun k n s).memWf := by
  induction n generalizing s with
  | zero => exact hs
  | succ n ih =>
    unfold vRun
    split
    · extract_lets r
      have hr : r.1.memWf := strip_memWf hs
      split
      · exact ih hr
      · exact hr
    · exact hs

theorem vKick_memWf {k} (hs : s.memWf) : (vKick k s).memWf := by
  unfold vKick
  split
  · exact hs
  · exact vRun_memWf hs

theorem vEnqueue_memWf {k i op0 op1 op2} (hs : s.memWf) : (vEnqueue k i op0 op1 op2 s).memWf := by
  unfold vEnqueue
  extract_lets
  split <;> exact setThr_memWf hs

theorem vPush_memWf {k i op0 op1 op2} (hs : s.memWf) : (vPush k i op0 op1 op2 s).memWf := by
  unfold vPush
  split
  · exact Out.next_memWf (vKick_memWf hs)
  · exact Out.next_memWf (vKick_memWf (finish_memWf (vEnqueue_memWf hs)))

theorem vIssue_memWf {i op0 op1 op2} (hs : s.memWf) : (vIssue i op0 op1 op2 s).memWf := by
  unfold vIssue
  split
  · split
    · exact raise_memWf hs
    · exact vPush_memWf hs
  · exact raise_memWf hs

/-! ## Control instructions -/

theorem forkCount_memWf {k} (hs : s.memWf) : (forkCount k s).memWf :=
  setThr_memWf hs

theorem execForkF_memWf {off} (hs : s.memWf) : (execForkF off s).memWf := by
  unfold execForkF
  split
  · extract_lets
    split
    · exact raise_memWf hs
    · split
      · exact blockOn_memWf hs
      · split
        · exact stall_memWf hs
        · exact Out.next_memWf (finish_memWf (forkCount_memWf (setCtx_memWf hs)))
  · exact raise_memWf hs

theorem execForkX_memWf {off} (hs : s.memWf) : (execForkX off s).memWf := by
  unfold execForkX
  split
  · extract_lets
    split
    · exact blockOn_memWf hs
    · split
      · exact stall_memWf hs
      · exact Out.next_memWf (finish_memWf (forkCount_memWf hs))
  · exact raise_memWf hs

theorem joinThen_memWf {k} {f : State → Out} (hf : ∀ s, s.memWf → (f s).memWf) (hs : s.memWf) : (joinThen k f s).memWf := by
  unfold joinThen
  extract_lets
  split
  · split
    · exact Out.next_memWf (trapTo_memWf (orAflags_memWf (setThr_memWf hs)))
    · exact Out.next_memWf hs
  · split
    · exact hf _ hs
    · exact blockOn_memWf hs

theorem execJoin_memWf (hs : s.memWf) : (execJoin s).memWf := by
  unfold execJoin
  split
  · exact joinThen_memWf (fun _ ht => Out.next_memWf (finish_memWf ht)) hs
  · exact raise_memWf hs

theorem forkEnds_memWf {i serial} (hs : s.memWf) : (forkEnds i serial s).memWf :=
  setThr_memWf hs

theorem execExit_memWf (hs : s.memWf) : (execExit s).memWf := by
  unfold execExit
  split
  · refine joinThen_memWf ?_ hs
    intro t ht
    split
    · exact Out.next_memWf (setThr_memWf ht)
    · exact stall_memWf ht
  · split
    · exact Out.next_memWf (forkEnds_memWf (setCtx_memWf hs))
    · exact Out.fault_memWf
  · split
    · split
      · exact stall_memWf hs
      · exact Out.next_memWf (forkEnds_memWf (setEngine_memWf hs))
    · exact Out.fault_memWf

theorem execYield_memWf (hs : s.memWf) : (execYield s).memWf := by
  unfold execYield
  split
  · exact Out.next_memWf (setThr_memWf (finish_memWf hs))
  · exact raise_memWf hs

theorem execTrap_memWf {n} (hs : s.memWf) : (execTrap n s).memWf := by
  unfold execTrap
  split
  · extract_lets
    split
    · exact Out.next_memWf (trapTo_memWf (setThr_memWf hs))
    · exact Out.next_memWf hs
  · exact raise_memWf hs

theorem execTret_memWf (hs : s.memWf) : (execTret s).memWf := by
  unfold execTret
  split
  · extract_lets
    split
    · exact raise_memWf hs
    · split
      · exact Out.next_memWf (setThr_memWf hs)
      · exact stall_memWf hs
  · exact raise_memWf hs

theorem execGets_memWf {d r} (hs : s.memWf) : (execGets d r s).memWf := by
  unfold execGets
  split
  · exact writeOn_memWf hs
  · exact raise_memWf hs

theorem setsNow_memWf {r v k} (hs : s.memWf) : (setsNow r v k s).memWf := by
  unfold setsNow
  extract_lets
  split
  · exact setThr_memWf hs
  · exact setCluster_memWf hs
  · exact setThr_memWf hs
  · exact setThr_memWf hs
  · exact setThr_memWf hs
  · exact setThr_memWf hs
  · exact setCore_memWf hs
  · exact setThr_memWf hs
  · exact setThr_memWf hs
  · exact setThr_memWf hs

theorem execSets_memWf {r b} (hs : s.memWf) : (execSets r b s).memWf := by
  unfold execSets
  split
  · extract_lets
    split
    · exact raise_memWf hs
    · split
      · exact raise_memWf hs
      · split
        · exact raise_memWf hs
        · split
          · exact vPush_memWf hs
          · exact Out.next_memWf (finish_memWf (setsNow_memWf hs))
  · exact raise_memWf hs

theorem execLaunch_memWf {d a} (hs : s.memWf) : (execLaunch d a s).memWf := by
  unfold execLaunch
  split
  · extract_lets
    split
    · exact raise_memWf hs
    · split
      · exact stall_memWf hs
      · refine closeAccess_memWf (load_memWf hs) ?_
        intro _ _ ht
        extract_lets
        split
        · exact raise_memWf ht
        · split
          · exact Gate.memWf_of_stop (releaseGate_memWf ht) ‹_›
          · extract_lets s1
            have hs1 : s1.memWf := curEpochStep_memWf (Gate.memWf_of_go (releaseGate_memWf ht) ‹_›)
            split
            · exact writeOn_memWf (intakeEnter_memWf hs1 ‹_›)
            · exact writeOn_memWf hs1
  · exact raise_memWf hs

/-! ## Issue of copy commands -/

theorem pushCmd_memWf {n c} (hs : s.memWf) : (pushCmd n c s).memWf :=
  setEngine_memWf hs

theorem issueCmd_memWf {i kind fn} {f : Nat → CopyCmd → State → Res CopyCmd} (hf : ∀ n c s, s.memWf → (f n c s).state.memWf)
    (hs : s.memWf) : (issueCmd i kind fn f s).memWf := by
  unfold issueCmd
  split
  · exact raise_memWf hs
  · split
    · exact blockOn_memWf hs
    · split
      · exact Out.next_memWf (finish_memWf (pushCmd_memWf (Res.memWf_of_ok (hf _ _ _ hs) ‹_›)))
      · exact stall_memWf (Res.memWf_of_wait (hf _ _ _ hs) ‹_›)
      · exact Out.next_memWf (finish_memWf (cpRecord_memWf (Res.memWf_of_exc (hf _ _ _ hs) ‹_›)))
      · exact Out.next_memWf (finish_memWf (cpRecord_memWf (Res.memWf_of_lost (hf _ _ _ hs) ‹_›)))

theorem issueCopy_memWf {i fn a b second bar} (hs : s.memWf) : (issueCopy i fn a b second bar s).memWf :=
  issueCmd_memWf (fun _ _ _ ht => ht) hs

theorem withRecord_memWf {r c} (hr : r.state.memWf) : (withRecord r c).state.memWf :=
  Res.next_memWf hr (fun _ _ hs => hs)

theorem issueColl_memWf {i kind a fp8} (hs : s.memWf) : (issueColl i kind a fp8 s).memWf := by
  unfold issueColl
  refine issueCmd_memWf ?_ hs
  intro _ _ t ht
  refine Res.next_memWf (withRecord_memWf (collRead_memWf ht)) ?_
  intro _ u hu
  split <;> exact hu

theorem armCheck_memWf {w c obj} (hs : s.memWf) : (armCheck w c obj s).state.memWf :=
  Res.next_memWf (nestRefused_memWf hs) (fun _ _ ht => bankAt_memWf ht)

theorem execCpArm_memWf {a b c} (hs : s.memWf) : (execCpArm a b c s).memWf := by
  unfold execCpArm
  split
  · exact raise_memWf hs
  · extract_lets
    split
    · exact stall_memWf (Res.memWf_of_wait (withRecord_memWf (nestRead_memWf hs)) ‹_›)
    · exact stall_memWf (Res.memWf_of_exc (withRecord_memWf (nestRead_memWf hs)) ‹_›)
    · exact stall_memWf (Res.memWf_of_lost (withRecord_memWf (nestRead_memWf hs)) ‹_›)
    · have ht := Res.memWf_of_ok (withRecord_memWf (nestRead_memWf hs)) ‹_›
      split
      · exact stall_memWf (Res.memWf_of_wait (armCheck_memWf ht) ‹_›)
      · exact Out.next_memWf (finish_memWf (cpRecord_memWf (Res.memWf_of_exc (armCheck_memWf ht) ‹_›)))
      · exact Out.next_memWf (finish_memWf (cpRecord_memWf (Res.memWf_of_lost (armCheck_memWf ht) ‹_›)))
      · have hu := Res.memWf_of_ok (armCheck_memWf ht) ‹_›
        split
        · split
          · exact blockOn_memWf hu
          · exact Out.next_memWf (finish_memWf (pushCmd_memWf hu))
        · split
          · exact blockOn_memWf hu
          · exact Out.next_memWf (finish_memWf (setEngine_memWf (memWf_of_mem_eq (barArm_memWf hu))))

theorem execCpWait_memWf (hs : s.memWf) : (execCpWait s).memWf := by
  unfold execCpWait
  split
  · exact raise_memWf hs
  · split
    · exact Out.next_memWf (finish_memWf hs)
    · exact blockOn_memWf hs

theorem execCpStat_memWf {d} (hs : s.memWf) : (execCpStat d s).memWf := by
  unfold execCpStat
  split
  · exact raise_memWf hs
  · exact writeOn_memWf hs

theorem execCopyExecute_memWf {n} (hs : s.memWf) : (execCopyExecute n s).memWf := by
  unfold execCopyExecute
  split
  · exact Out.fault_memWf
  · refine Out.next_memWf ?_
    split
    · split
      · split
        · exact cpTransfer_memWf hs
        · exact hs
      · exact cpBegin_memWf hs
    · split
      · split
        · exact nestTransfer_memWf hs
        · exact hs
      · exact nestBegin_memWf hs
    · exact collBegin_memWf hs

theorem execForkedProgramTake_memWf {d} (hs : s.memWf) : (execForkedProgramTake d s).memWf := by
  unfold execForkedProgramTake
  split
  · exact Out.next_memWf (setEngine_memWf hs)
  · exact Out.fault_memWf

theorem execBarrierCompletion_memWf {pa bytes} (hs : s.memWf) : (execBarrierCompletion pa bytes s).memWf := by
  unfold execBarrierCompletion
  split
  · exact Out.next_memWf (memWf_getD (fun _ e => barUpdate_memWf hs e) hs)
  · exact Out.fault_memWf

/-! ## Near-memory commands -/

theorem recallLine_memWf {line} (hs : s.memWf) : (recallLine line s).memWf :=
  dropCopies_memWf hs

theorem recallRange_memWf {w va n} (hs : s.memWf) : (recallRange w va n s).memWf :=
  memWf_foldl (fun _ _ ht => memWf_ite (recallLine_memWf ht) ht) hs

theorem nmRecall_memWf {die c} (hs : s.memWf) : (nmRecall die c s).memWf := by
  unfold nmRecall
  split
  · exact hs
  · exact memWf_foldl (fun _ _ ht => recallRange_memWf ht) hs

theorem nmResolve_memWf {w rd wr ea} (hs : s.memWf) {v₁ v₂ t} (e : nmResolve w rd wr ea s = .ok (v₁, v₂, t)) : t.memWf := by
  unfold nmResolve at e
  extract_lets found u at e
  have hu : u.memWf := noteTried_memWf hs
  clear_value found u
  split at e
  · nomatch e
  · split at e
    · nomatch e
    · split at e
      · split at e
        · nomatch e
        · split at e
          · nomatch e
          · split at e
            · nomatch e
            · cases e
              exact cowPerform_memWf hu ‹_›
      · split at e
        · nomatch e
        · cases e
          exact hu

theorem nmObject_memWf {w a} (hs : s.memWf) {v₁ t} (e : nmObject w a s = .ok (v₁, t)) : t.memWf := by
  unfold nmObject at e
  split at e
  · nomatch e
  · split at e
    · nomatch e
    · split at e
      · nomatch e
      · split at e
        · cases e
          exact nmResolve_memWf hs ‹_›
        · nomatch e

theorem nmBarrier_memWf {w a} (hs : s.memWf) {v₁ t} (e : nmBarrier w a s = .ok (v₁, t)) : t.memWf := by
  unfold nmBarrier at e
  split at e
  · cases e
    exact hs
  · split at e
    · nomatch e
    · cases e
      exact nmObject_memWf hs ‹_›

theorem nmAccess_memWf {w place rd wr ea n} (hs : s.memWf) {v₁ v₂ t} (e : nmAccess w place rd wr ea n s = .ok (v₁, v₂, t)) : t.memWf := by
  unfold nmAccess at e
  split at e
  · nomatch e
  · split at e
    · nomatch e
    · split at e
      · nomatch e
      · split at e
        · nomatch e
        · split at e
          · nomatch e
          · cases e
            exact nmResolve_memWf hs ‹_›

theorem nmSource_memWf {w ea n} (hs : s.memWf) {v₁ t} (e : nmSource w ea n s = .ok (v₁, t)) : t.memWf := by
  unfold nmSource at e
  revert v₁ t
  refine List.foldlRecOn (motive := fun r : Except (BitVec 8) (Nat × State) => ∀ {v t}, r = .ok (v, t) → t.memWf) _ _ ?_ ?_
  · intro _ _ e
    cases e
    exact hs
  · intro r ih i _ v t e
    split at e
    · nomatch e
    · split at e
      · nomatch e
      · cases e
        exact nmAccess_memWf (ih rfl) ‹_›

theorem leaveStale_memWf {line} (hs : s.memWf) : (leaveStale line s).memWf :=
  hs

theorem nmWrite_memWf {w p pa n v} (hs : s.memWf) : (nmWrite w p pa n v s).memWf :=
  tagLines_memWf (storeMem_memWf (leaveStale_memWf hs))

theorem nmCoef_memWf {die c} (hs : s.memWf) {v₁ v₂ t} (e : nmCoef die c s = .ok (v₁, v₂, t)) : t.memWf := by
  grind [nmCoef, nmAccess_memWf]

theorem nmScatCheck_memWf {w a l} (hs : s.memWf) {t} (e : nmScatCheck w a l s = .ok t) : t.memWf := by
  induction l generalizing s with
  | nil =>
    cases e
    exact hs
  | cons r l ih =>
    unfold nmScatCheck at e
    split at e
    · nomatch e
    · exact ih (nmAccess_memWf hs ‹_›) e

theorem nmScatApply_memWf {w c l} {x : Flags7 × List Nat × State} (hx : x.2.2.memWf) : (nmScatApply w c l x).2.2.memWf := by
  induction l generalizing x with
  | nil => exact hx
  | cons r l ih =>
    unfold nmScatApply
    split
    · exact ih hx
    · exact ih (nmWrite_memWf (nmResolve_memWf hx ‹_›))

theorem nmGranule_memWf {die c} (hs : s.memWf) {v₁ t} (e : nmGranule die c s = .ok (v₁, t)) : t.memWf := by
  unfold nmGranule at e
  extract_lets at e
  split at e
  · split at e
    · nomatch e
    · cases e
      exact nmSource_memWf hs ‹_›
  · split at e
    · nomatch e
    · extract_lets at e
      split at e
      · nomatch e
      · split at e
        · nomatch e
        · cases e
          exact nmScatApply_memWf (nmScatCheck_memWf (nmSource_memWf hs ‹_›) ‹_›)
  · split at e
    · nomatch e
    · have ht := nmAccess_memWf hs ‹_›
      split at e
      · nomatch e
      · next u hsrc =>
        have hu : u.memWf := by
          split at hsrc
          · exact nmSource_memWf ht hsrc
          · cases hsrc
            exact ht
        split at e
        · nomatch e
        · cases e
          exact nmWrite_memWf (nmAccess_memWf hu ‹_›)

theorem nmSumWrite_memWf {die c sum} (hs : s.memWf) {t} (e : nmSumWrite die c sum s = .ok t) : t.memWf := by
  unfold nmSumWrite at e
  extract_lets at e
  split at e
  · nomatch e
  · split at e
    · nomatch e
    · cases e
      exact tagLines_memWf (storeBank_memWf (nmAccess_memWf hs ‹_›))

theorem nmStop_memWf {die c cause} (hs : s.memWf) : (nmStop die c cause s).memWf :=
  setNm_memWf hs

theorem nmRecord_memWf {die i number gran cause atc} (hs : s.memWf) : (nmRecord die i number gran cause atc s).memWf :=
  writeRecord_memWf hs

theorem nmRefuse_memWf {die c cause} (hs : s.memWf) : (nmRefuse die c cause s).memWf :=
  nmRecord_memWf (setNm_memWf hs)

theorem nmGoOn_memWf {die c} (hs : s.memWf) : (nmGoOn die c s).memWf := by
  unfold nmGoOn
  split
  · split
    · exact hs
    · exact nmStop_memWf hs
  · have ht := nmGranule_memWf hs ‹_›
    split
    · split
      · split
        · exact hs
        · exact nmStop_memWf ht
      · exact setNm_memWf (nmSumWrite_memWf ht ‹_›)
    · exact setNm_memWf ht

theorem nmChecked_memWf {die c} {was : State} {go : State → State} (hw : was.memWf) (hgo : ∀ s, s.memWf → (go s).memWf) (hs : s.memWf) :
    (nmChecked die c was s go).memWf := by
  unfold nmChecked
  split
  · exact nmRefuse_memWf hs
  · split
    · split
      · exact hw
      · exact nmRefuse_memWf hs
    · exact hgo _ (nmBarrier_memWf hs ‹_›)

theorem nmBegin_memWf {die c} (hs : s.memWf) : (nmBegin die c s).memWf := by
  unfold nmBegin
  extract_lets _ _ s1
  have hs1 : s1.memWf := setNm_memWf hs
  split
  · split
    · exact nmStop_memWf hs1
    · exact setNm_memWf (nmCoef_memWf hs1 ‹_›)
  · exact hs1

theorem execNmCommandStart_memWf {die} (hs : s.memWf) : (execNmCommandStart die s).memWf := by
  unfold execNmCommandStart
  extract_lets
  split
  · split
    · exact Out.fault_memWf
    · exact Out.next_memWf (nmGoOn_memWf hs)
  · split
    · exact Out.next_memWf (nmBegin_memWf (setNm_memWf hs))
    · split
      · exact Out.fault_memWf
      · split
        · exact Out.next_memWf (nmChecked_memWf hs (fun _ ht => nmBegin_memWf ht) (setNm_memWf hs))
        · split
          · exact Out.next_memWf (nmChecked_memWf hs (fun _ ht => setNm_memWf ht) (setNm_memWf hs))
          · exact Out.next_memWf hs

theorem nmReport_memWf {die c n} (hs : s.memWf) {t} (e : nmReport die c n s = .ok t) : t.memWf := by
  unfold nmReport at e
  split at e
  · nomatch e
  · cases e
    exact nmBarrier_memWf hs ‹_›
  · split at e
    · cases e
      exact barUpdate_memWf (nmBarrier_memWf hs ‹_›) ‹_›
    · nomatch e

theorem execNmCompletion_memWf {die} (hs : s.memWf) : (execNmCompletion die s).memWf := by
  unfold execNmCompletion
  split
  · exact Out.fault_memWf
  · split
    · exact Out.fault_memWf
    · split
      · exact Out.next_memWf hs
      · extract_lets _ t u
        have ht : t.memWf := memWf_foldl (fun _ _ h => dropCopies_memWf h) (setNm_memWf hs)
        have hu : u.memWf := cmdFlags_memWf ht
        split
        · split
          · exact Out.next_memWf (nmReport_memWf hu ‹_›)
          · exact Out.next_memWf (nmRecord_memWf hu)
        · exact Out.next_memWf (nmRecord_memWf (memWf_getD (fun _ e => nmReport_memWf hu (eq_ok_of_toOption e)) hu))

theorem nmError_memWf {granule} (hs : s.memWf) : (nmError granule s).memWf := by
  unfold nmError
  refine memWf_foldl ?_ hs
  intro _ _ ht
  split
  · split
    · exact rasCount_memWf (nmStop_memWf ht)
    · exact ht
  · exact ht

theorem nmAccept_memWf {die c} (hs : s.memWf) : (nmAccept die c s).memWf :=
  Out.next_memWf (finish_memWf (setNm_memWf (memWf_of_mem_eq (nmRecall_memWf hs))))

theorem nmArm_memWf {die pa c} (hs : s.memWf) : (nmArm die pa c s).memWf := by
  unfold nmArm
  extract_lets
  split
  · exact nmAccept_memWf hs
  · split
    · exact blockOn_memWf hs
    · exact nmAccept_memWf (barArm_memWf hs)

theorem nmIssue_memWf {op a b g} (hs : s.memWf) : (nmIssue op a b g s).memWf := by
  unfold nmIssue
  split
  · extract_lets _ _ found t
    have ht : t.memWf := noteTried_memWf hs
    clear_value found t
    split
    · exact raise_memWf ht
    · split
      · split
        · exact raise_memWf ht
        · extract_lets
          split
          · exact stall_memWf ht
          · split
            · exact blockOn_memWf ht
            · split
              · exact nmAccept_memWf ht
              · split
                · exact Out.next_memWf (finish_memWf (nmRecord_memWf ht))
                · split
                  · split
                    · exact stall_memWf ht
                    · exact Out.next_memWf (finish_memWf (nmRecord_memWf ht))
                  · exact nmArm_memWf (nmObject_memWf ht ‹_›)
      · exact raise_memWf ht
  · exact raise_memWf hs

theorem nmFire_memWf {die index} (hs : s.memWf) : (nmFire die index s).memWf := by
  unfold nmFire
  extract_lets
  split
  · split
    · exact Out.next_memWf hs
    · split
      · exact Out.next_memWf (setNm_memWf (nmRecall_memWf hs))
      · exact Out.fault_memWf
  · exact Out.fault_memWf

theorem copyFire_memWf {n index} (hs : s.memWf) : (copyFire n index s).memWf := by
  unfold copyFire
  extract_lets
  split
  · split
    · exact Out.fault_memWf
    · split
      · exact Out.next_memWf hs
      · exact Out.next_memWf (setEngine_memWf hs)
  · exact Out.fault_memWf

theorem execArmedCommandFire_memWf {near u index} (hs : s.memWf) : (execArmedCommandFire near u index s).memWf := by
  unfold execArmedCommandFire
  split
  · split
    · split
      · exact Out.next_memWf hs
      · exact nmFire_memWf hs
    · exact Out.fault_memWf
  · split
    · split
      · exact Out.next_memWf hs
      · exact copyFire_memWf hs
    · exact Out.fault_memWf

theorem execNmWait_memWf (hs : s.memWf) : (execNmWait s).memWf := by
  unfold execNmWait
  split
  · extract_lets
    split
    · exact Out.next_memWf (finish_memWf (setThr_memWf hs))
    · exact blockOn_memWf (setThr_memWf hs)
  · exact raise_memWf hs

theorem execNmWaitAll_memWf (hs : s.memWf) : (execNmWaitAll s).memWf := by
  unfold execNmWaitAll
  split
  · split
    · exact Out.next_memWf (finish_memWf hs)
    · exact blockOn_memWf hs
  · exact raise_memWf hs

theorem execNmStat_memWf {d} (hs : s.memWf) : (execNmStat d s).memWf := by
  unfold execNmStat
  split
  · exact writeOn_memWf hs
  · exact raise_memWf hs

/-! ## The directory -/

theorem addLlc_memWf {die line c} (hs : s.memWf) : (addLlc die line c s).memWf := by
  unfold addLlc
  exact memWf_of_mem_eq (memWf_ite hs (llcRoom_memWf hs))

theorem shareLine_memWf {die line} (hs : s.memWf) : (shareLine die line s).memWf := by
  unfold shareLine
  split
  · exact hs
  · exact addLlc_memWf (memWf_ite (demote_memWf (fetchOwner_memWf hs)) (setDir_memWf (demote_memWf (fetchOwner_memWf hs))))

theorem cleanLine_memWf {line} (hs : s.memWf) : (cleanLine line s).memWf :=
  memWf_foldl (fun _ _ ht => demote_memWf ht) (fetchOwner_memWf hs)

theorem grant_memWf {line} (hs : s.memWf) : (grant line s).memWf := by
  unfold grant
  extract_lets
  split
  · exact addLlc_memWf (setDir_memWf hs)
  · exact setDir_memWf hs
  · exact hs

theorem dirServe_memWf {r line die} (hs : s.memWf) : (dirServe r line die s).memWf := by
  unfold dirServe
  split
  · exact setDir_memWf (demote_memWf (fetchOwner_memWf hs))
  · extract_lets _ _ s1
    have hs1 : s1.memWf := setDir_memWf hs
    split
    · exact grant_memWf hs1
    · exact hs1

theorem dirGo_memWf {line n} (hs : s.memWf) : (dirGo line n s).memWf := by
  induction n generalizing s with
  | zero => exact hs
  | succ n ih =>
    unfold dirGo
    extract_lets
    split
    · exact ih (dirServe_memWf (setDir_memWf hs))
    · exact hs

theorem dirNext_memWf {line} (hs : s.memWf) : (dirNext line s).memWf :=
  dirGo_memWf hs

theorem dirRequest_memWf {r line die} (hs : s.memWf) : (dirRequest r line die s).memWf := by
  unfold dirRequest
  split
  · exact Out.fault_memWf
  · exact Out.next_memWf (dirNext_memWf (setDir_memWf hs))

theorem execInvalidate_memWf {line die} (hs : s.memWf) : (execInvalidate line die s).memWf := by
  unfold execInvalidate
  split
  · exact Out.fault_memWf
  · exact Out.next_memWf (setLlc_memWf (demote_memWf hs))

theorem execInvalidateAcknowledgement_memWf {line die} (hs : s.memWf) : (execInvalidateAcknowledgement line die s).memWf := by
  unfold execInvalidateAcknowledgement
  extract_lets _ _ s1
  have hs1 : s1.memWf := setDir_memWf hs
  split
  · exact Out.fault_memWf
  · exact Out.next_memWf (memWf_ite (dirNext_memWf (grant_memWf hs1)) hs1)

theorem execDataResponse_memWf {line die} (hs : s.memWf) : (execDataResponse line die s).memWf := by
  unfold execDataResponse
  extract_lets
  split
  · exact Out.fault_memWf
  · split
    · split
      · exact Out.next_memWf (dirNext_memWf (addLlc_memWf (setDir_memWf hs)))
      · exact Out.fault_memWf
    · split
      · exact Out.next_memWf (dirNext_memWf (addLlc_memWf (setDir_memWf hs)))
      · exact Out.fault_memWf
    · exact Out.fault_memWf

theorem execWriteBack_memWf {line die} (hs : s.memWf) : (execWriteBack line die s).memWf := by
  unfold execWriteBack
  split
  · exact Out.next_memWf (setDir_memWf (setLlc_memWf (demote_memWf hs)))
  · exact Out.fault_memWf

theorem execUncachedRead_memWf {line} (hs : s.memWf) : (execUncachedRead line s).memWf := by
  unfold execUncachedRead
  split
  · exact Out.next_memWf (memWf_ite hs (fetchOwner_memWf hs))
  · exact Out.fault_memWf

theorem execRemoteAtomic_memWf {line} (hs : s.memWf) : (execRemoteAtomic line s).memWf := by
  unfold execRemoteAtomic
  split
  · exact Out.next_memWf (memWf_ite hs (recallLine_memWf hs))
  · exact Out.fault_memWf

theorem execMulticastRead_memWf {member line} (hs : s.memWf) : (execMulticastRead member line s).memWf := by
  unfold execMulticastRead
  extract_lets
  split
  · exact Out.next_memWf (memWf_ite (fetchOwner_memWf hs) hs)
  · exact Out.fault_memWf

/-! ## Flags and line operations -/

theorem flagSend_memWf {n w p pa ea v} (hs : s.memWf) : (flagSend n w p pa ea v s).memWf := by
  unfold flagSend
  extract_lets blk
  split
  · exact stall_memWf hs
  · generalize hg : (if blk.isSome then epochGate s else .go s) = gate
    have hgate : gate.memWf := by
      subst hg
      split
      · exact epochGate_memWf hs
      · exact Gate.go_memWf hs
    split
    · exact Gate.memWf_of_stop hgate rfl
    · have ht := Gate.memWf_of_go hgate rfl
      extract_lets sent
      have hsent : sent.state.memWf :=
        memWf_ite_of (multicastStore_memWf ht) (memWf_ite_of ht (memWf_ite_of ht (pushTo_memWf ht)))
      clear_value sent
      split
      · exact accessFault_memWf hsent
      · exact closeAccess_memWf hsent
          (fun _ u hu => Out.next_memWf (finish_memWf (memWf_ite (curEpochStep_memWf (curJoin_memWf hu)) hu)))

theorem flagStore_memWf {n word d a} (hs : s.memWf) : (flagStore n word d a s).memWf := by
  unfold flagStore
  split
  · extract_lets
    split
    · exact stall_memWf hs
    · split
      · exact accessFault_memWf (Res.memWf_of_exc (resolve_memWf hs) ‹_›)
      · exact accessLost_memWf (Res.memWf_of_lost (resolve_memWf hs) ‹_›)
      · exact stall_memWf (Res.memWf_of_wait (resolve_memWf hs) ‹_›)
      · have ht := Res.memWf_of_ok (resolve_memWf hs) ‹_›
        split
        · exact releaseStore_memWf ht
        · exact flagSend_memWf ht
  · exact raise_memWf hs

theorem execLkPref_memWf {a} (hs : s.memWf) : (execLkPref a s).memWf := by
  unfold execLkPref
  split
  · extract_lets w found t
    have ht : t.memWf := noteTried_memWf hs
    clear_value found t
    split
    · exact stall_memWf hs
    · split
      · exact Out.next_memWf (finish_memWf ht)
      · split
        · exact Out.next_memWf (finish_memWf ht)
        · split
          · exact stall_memWf ht
          · exact Out.next_memWf (finish_memWf (shareLine_memWf ht))
  · exact raise_memWf hs

theorem lineForm_memWf {word} {f : Nat → State → State} {a} (hf : ∀ l s, s.memWf → (f l s).memWf) (hs : s.memWf) :
    (lineForm word f a s).memWf := by
  unfold lineForm
  split
  · extract_lets found _ t
    have ht : t.memWf := noteTried_memWf hs
    clear_value found t
    split
    · exact stall_memWf hs
    · split
      · exact accessFault_memWf ht
      · split
        · exact Out.next_memWf (finish_memWf ht)
        · split
          · exact stall_memWf ht
          · exact Out.next_memWf (finish_memWf (hf _ _ ht))
  · exact raise_memWf hs

theorem execPcount_memWf {d a path} (hs : s.memWf) : (execPcount d a path s).memWf := by
  unfold execPcount
  split
  · extract_lets
    split
    · exact stall_memWf hs
    · exact writeOn_memWf hs
  · exact raise_memWf hs

theorem execFenceAck_memWf {a} (hs : s.memWf) : (execFenceAck a s).memWf := by
  unfold execFenceAck
  split
  · extract_lets
    split
    · exact raise_memWf hs
    · split
      · exact stall_memWf hs
      · split
        · exact Out.next_memWf (finish_memWf hs)
        · exact fenceAckTo_memWf hs
  · exact raise_memWf hs

theorem execLkStat_memWf {d a} (hs : s.memWf) : (execLkStat d a s).memWf := by
  unfold execLkStat
  split
  · exact writeOn_memWf hs
  · exact raise_memWf hs

/-! ## The fabric -/

theorem execPushWrite_memWf {id} (hs : s.memWf) : (execPushWrite id s).memWf := by
  unfold execPushWrite
  split
  · exact Out.fault_memWf
  · split
    · exact Out.fault_memWf
    · exact Out.next_memWf (memWf_ite (performPacket_memWf hs) hs)

theorem execFlagRelease_memWf {id} (hs : s.memWf) : (execFlagRelease id s).memWf := by
  unfold execFlagRelease
  split
  · exact Out.fault_memWf
  · split
    · exact Out.fault_memWf
    · exact Out.next_memWf (memWf_ite (performPacket_memWf hs) hs)

theorem execWriteAcknowledgement_memWf {id} (hs : s.memWf) : (execWriteAcknowledgement id s).memWf := by
  unfold execWriteAcknowledgement
  split
  · exact Out.fault_memWf
  · split
    · exact Out.next_memWf (ackPacket_memWf hs)
    · exact Out.fault_memWf

theorem resend_memWf {p} (hs : s.memWf) : (resend p s).memWf := by
  unfold resend
  extract_lets _ r
  have hr : r.2.memWf := choosePath_memWf hs
  clear_value r
  split
  · exact hr
  · exact hs

theorem execResponseOverdue_memWf {id} (hs : s.memWf) : (execResponseOverdue id s).memWf := by
  unfold execResponseOverdue
  split
  · exact Out.next_memWf (memWf_ite hs (resend_memWf hs))
  · exact Out.next_memWf (memWf_ite hs hs)
  · exact Out.fault_memWf

theorem execRouterFlitDiscard_memWf {flit} (hs : s.memWf) : (execRouterFlitDiscard flit s).memWf := by
  unfold execRouterFlitDiscard
  split
  · split
    · exact Out.fault_memWf
    · split
      · split
        · exact Out.fault_memWf
        · exact Out.next_memWf (rasCount_memWf hs)
      · split
        · exact Out.fault_memWf
        · exact Out.next_memWf (rasCount_memWf hs)
      · exact Out.next_memWf (rasCount_memWf hs)

theorem execLinkReplay_memWf {dev port} (hs : s.memWf) : (execLinkReplay dev port s).memWf := by
  unfold execLinkReplay
  split
  · exact Out.next_memWf hs
  · exact Out.fault_memWf

theorem replayEnd_memWf (hs : s.memWf) : (replayEnd s).memWf :=
  hs

theorem execLinkDown_memWf {dev port} (hs : s.memWf) : (execLinkDown dev port s).memWf := by
  unfold execLinkDown
  split
  · exact Out.next_memWf (memWf_foldl (fun _ _ ht => resend_memWf ht) hs)
  · exact Out.fault_memWf

theorem execLinkUp_memWf {dev port} (hs : s.memWf) : (execLinkUp dev port s).memWf := by
  unfold execLinkUp
  split
  · exact Out.next_memWf hs
  · exact Out.fault_memWf

theorem lossEntry_memWf {die w} (hs : s.memWf) : (lossEntry die w s).memWf :=
  hs

theorem lossRecord_memWf {die dest l} (hs : s.memWf) : (lossRecord die dest l s).memWf := by
  unfold lossRecord
  split
  · exact hs
  · exact writeRecord_memWf (setPair_memWf (lossEntry_memWf hs))

theorem loseRequests_memWf {die dest} (hs : s.memWf) : (loseRequests die dest s).memWf :=
  hs

theorem loseCommands_memWf {die ids} (hs : s.memWf) : (loseCommands die ids s).memWf :=
  memWf_foldl (fun _ _ ht => setEngine_memWf ht) hs

theorem execLinkLoss_memWf {die dest} (hs : s.memWf) : (execLinkLoss die dest s).memWf := by
  unfold execLinkLoss
  split
  · exact Out.fault_memWf
  · extract_lets _ _ _ s1 _ s2 s3 s4
    have hs1 : s1.memWf := hs
    have hs2 : s2.memWf := setPair_memWf hs1
    have hs3 : s3.memWf := loseCommands_memWf hs2
    have hs4 : s4.memWf := memWf_foldl (fun _ _ ht => lossRecord_memWf ht) hs3
    exact Out.next_memWf (iqLoss_memWf (loseRequests_memWf hs4))

theorem resetLoss_memWf {die dest} (hs : s.memWf) : (resetLoss die dest s).memWf :=
  setPair_memWf hs

theorem execLreset_memWf {die dest} (hs : s.memWf) : (execLreset die dest s).memWf := by
  unfold execLreset
  split
  · exact Out.next_memWf (resetLoss_memWf hs)
  · exact Out.fault_memWf

/-! ## Factor array: configuration -/

theorem stopAt_memWf {cause brow} (hs : s.memWf) : (stopAt cause brow s).state.memWf :=
  hs

theorem imgWord_memWf {w a} (hs : s.memWf) : (imgWord w a s).state.memWf := by
  unfold imgWord
  refine Res.next_memWf (xResolve_memWf hs) ?_
  intro _ _ ht
  split
  · exact ht
  · split
    · exact loadAt_memWf ht
    · exact ht

theorem faLoading_memWf {c l} (hs : s.memWf) : (faLoading c l s).memWf :=
  setCtx_memWf hs

theorem faLoad_memWf {c i a len} (hs : s.memWf) : (faLoad c i a len s).state.memWf := by
  unfold faLoad
  extract_lets _ _ stopped _
  have hstopped : ∀ (e : BitVec 8) (s : State), s.memWf → (stopped e s).state.memWf := fun _ _ ht => faLoading_memWf ht
  split
  · exact stopAt_memWf hs
  · split
    · split
      · exact faLoading_memWf (Res.memWf_of_ok (imgWord_memWf hs) ‹_›)
      · exact hstopped _ _ (Res.memWf_of_exc (imgWord_memWf hs) ‹_›)
      · exact hstopped _ _ (Res.memWf_of_lost (imgWord_memWf hs) ‹_›)
      · exact faLoading_memWf (Res.memWf_of_wait (imgWord_memWf hs) ‹_›)
    · split
      · exact setCtx_memWf hs
      · exact hstopped _ _ hs

theorem faCommitNow_memWf {c} (hs : s.memWf) : (faCommitNow c s).memWf := by
  unfold faCommitNow
  split
  · exact setCtx_memWf hs
  · exact hs

/-! ## Factor array: operands -/

theorem setAcc_memWf {c k t} (hs : s.memWf) : (setAcc c k t s).memWf :=
  setCtx_memWf hs

theorem accFlags_memWf {c k f} (hs : s.memWf) : (accFlags c k f s).memWf :=
  setAcc_memWf hs

theorem tileReadAt_memWf {c ref} (hs : s.memWf) : (tileReadAt c ref s).state.memWf := by
  unfold tileReadAt
  split
  · exact hs
  · extract_lets
    split
    · exact setCtx_memWf hs
    · split
      · split
        · split
          · split
            · exact setCtx_memWf hs
            · exact hs
          · exact setCtx_memWf hs
        · exact setCtx_memWf hs
      · exact setCtx_memWf hs

theorem tileLastUse_memWf {ref last} (hs : s.memWf) : (tileLastUse ref last s).memWf := by
  unfold tileLastUse
  split
  · exact hs
  · split
    · exact setTileEntry_memWf hs
    · exact hs

theorem rowMark_memWf {c k n} (hs : s.memWf) : (rowMark c k n s).memWf :=
  setCtx_memWf hs

theorem rowsRun_memWf {c k ty f rows} (hs : s.memWf) : (rowsRun c k ty f rows s).state.memWf := by
  unfold rowsRun
  extract_lets
  split
  · exact hs
  · split
    · split <;> exact setAcc_memWf (rowMark_memWf hs)
    · split
      · exact hs
      · exact accFlags_memWf hs

theorem checkStop_memWf {c k rs p} (hs : s.memWf) : (checkStop c k rs p s).state.memWf := by
  unfold checkStop
  split
  · exact hs
  · exact accFlags_memWf hs

theorem withOperand_memWf {c w cmd k rs parts pitch bits cnt last rows own} {f : (Nat → Except (BitVec 8) Nat) → State → FaRes}
    (hs : s.memWf) (hf : ∀ g s, s.memWf → (f g s).state.memWf) :
    (withOperand c w cmd k rs parts pitch bits cnt last rows own s f).state.memWf := by
  unfold withOperand
  extract_lets
  split
  · exact hf _ _ hs
  · split
    · split
      · exact stopAt_memWf hs
      · split
        · exact checkStop_memWf hs
        · exact hf _ _ hs
    · split
      · exact stopAt_memWf hs
      · exact checkStop_memWf hs
      · split
        · exact TileRead.memWf_of_wait (tileReadAt_memWf hs) ‹_›
        · exact stopAt_memWf (TileRead.memWf_of_empty (tileReadAt_memWf hs) ‹_›)
        · exact hf _ _ (tileLastUse_memWf (TileRead.memWf_of_go (tileReadAt_memWf hs) ‹_›))

theorem lastUsed_memWf {c cmd last r} (hr : r.state.memWf) : (lastUsed c cmd last r).state.memWf := by
  cases r with
  | stop =>
    dsimp only [lastUsed, FaRes.state] at hr ⊢
    split
    · split
      · exact setTileEntry_memWf hr
      · exact hr
    · exact hr
  | done => exact hr
  | wait => exact hr
  | unready => exact hr

/-! ## Factor array: compute -/

theorem faDenseRun_memWf {c cmd p k pf} (hs : s.memWf) : (faDenseRun c cmd p k pf s).state.memWf := by
  unfold faDenseRun
  extract_lets
  split
  · exact stopAt_memWf hs
  · split
    · exact stopAt_memWf hs
    · extract_lets
      split
      · exact stopAt_memWf hs
      · exact withOperand_memWf hs (fun _ _ ht => rowsRun_memWf ht)

theorem faSparseRun_memWf {c cmd k pf} (hs : s.memWf) : (faSparseRun c cmd k pf s).state.memWf := by
  unfold faSparseRun
  extract_lets
  split
  · exact stopAt_memWf hs
  · split
    · exact stopAt_memWf hs
    · extract_lets
      split
      · exact stopAt_memWf hs
      · exact withOperand_memWf hs (fun _ _ ht => rowsRun_memWf ht)

theorem faStageRun_memWf {c cmd p k mode bsz last} (hs : s.memWf) : (faStageRun c cmd p k mode bsz last s).state.memWf := by
  unfold faStageRun
  extract_lets
  split
  · exact stopAt_memWf hs
  · split
    · exact stopAt_memWf hs
    · extract_lets
      split
      · split
        · exact stopAt_memWf hs
        · refine withOperand_memWf hs ?_
          intro _ _ ht
          split <;> exact rowsRun_memWf ht
      · split
        · exact stopAt_memWf hs
        · refine withOperand_memWf hs ?_
          intro _ _ ht
          split <;> exact rowsRun_memWf ht

theorem faModsetRun_memWf {c v} (hs : s.memWf) : (faModsetRun c v s).state.memWf := by
  unfold faModsetRun
  extract_lets
  split
  · exact stopAt_memWf hs
  · exact setCtx_memWf hs

theorem faCrtRun_memWf {c v j k} (hs : s.memWf) : (faCrtRun c v j k s).state.memWf := by
  unfold faCrtRun
  extract_lets
  split
  · exact stopAt_memWf hs
  · split
    · exact stopAt_memWf hs
    · split
      · exact stopAt_memWf hs
      · split
        · exact accFlags_memWf hs
        · exact setAcc_memWf hs

theorem pwRun_memWf {c k newTy ok needsP f} (hs : s.memWf) : (pwRun c k newTy ok needsP f s).state.memWf := by
  unfold pwRun
  split
  · exact stopAt_memWf hs
  · split
    · exact stopAt_memWf hs
    · exact rowsRun_memWf hs

theorem pwEntry_memWf {c k cent} {f : Fin 8 → Bank → Nat → FaRes} (hf : ∀ t b e, (f t b e).state.memWf) (hs : s.memWf) :
    (pwEntry c k cent s f).state.memWf := by
  unfold pwEntry
  extract_lets
  split
  · exact stopAt_memWf hs
  · split
    · exact stopAt_memWf hs
    · extract_lets
      split
      · exact stopAt_memWf hs
      · exact hf _ _ _

theorem faPwTwidRun_memWf {c e k} (hs : s.memWf) : (faPwTwidRun c e k s).state.memWf :=
  pwEntry_memWf (fun _ _ _ => pwRun_memWf hs) hs

theorem faPwAddRun_memWf {c e k} (hs : s.memWf) : (faPwAddRun c e k s).state.memWf :=
  pwEntry_memWf (fun _ _ _ => pwRun_memWf hs) hs

theorem faPwScaleRun_memWf {c a k} (hs : s.memWf) : (faPwScaleRun c a k s).state.memWf := by
  unfold faPwScaleRun
  extract_lets
  split
  · exact stopAt_memWf hs
  · split
    · exact hs
    · exact pwRun_memWf hs

theorem faPwReluRun_memWf {c k} (hs : s.memWf) : (faPwReluRun c k s).state.memWf := by
  unfold faPwReluRun
  extract_lets
  split
  · exact stopAt_memWf hs
  · split
    · exact hs
    · exact pwRun_memWf hs

theorem faPwExp2Run_memWf {c k} (hs : s.memWf) : (faPwExp2Run c k s).state.memWf := by
  unfold faPwExp2Run
  extract_lets
  split
  · exact stopAt_memWf hs
  · exact pwRun_memWf hs

theorem faPwModredRun_memWf {c k} (hs : s.memWf) : (faPwModredRun c k s).state.memWf := by
  unfold faPwModredRun
  extract_lets
  split
  · exact stopAt_memWf hs
  · exact pwRun_memWf hs

theorem faBfpRun_memWf {c g ok k} (hs : s.memWf) : (faBfpRun c g ok k s).state.memWf := by
  unfold faBfpRun
  extract_lets
  split
  · exact stopAt_memWf hs
  · split
    · exact stopAt_memWf hs
    · exact setAcc_memWf hs

theorem faZeroRun_memWf {c v} (hs : s.memWf) : (faZeroRun c v s).state.memWf := by
  unfold faZeroRun
  split
  · exact stopAt_memWf hs
  · exact setCtx_memWf hs

/-! ## Factor array: drain -/

theorem deliverRows_memWf {k q serial width rows} (hs : s.memWf) : (deliverRows k q serial width rows s).memWf :=
  setThr_memWf hs

theorem dropRows_memWf {k serial} (hs : s.memWf) : (dropRows k serial s).memWf :=
  setThr_memWf hs

theorem feedNest_memWf {n bytes v} (hs : s.memWf) : (feedNest n bytes v s).memWf := by
  unfold feedNest
  split
  · exact setHeadCmd_memWf hs
  · exact hs

theorem sendRows_memWf {w d a rb off l} (hs : s.memWf) : (sendRows w d a rb off l s).state.memWf := by
  induction l generalizing off s with
  | nil => exact hs
  | cons p l ih =>
    unfold sendRows
    extract_lets
    split
    · exact ih (clearRun_memWf (Res.memWf_of_ok (xWrite_memWf hs) ‹_›))
    · exact Res.memWf_of_exc (xWrite_memWf hs) ‹_›
    · exact Res.memWf_of_lost (xWrite_memWf hs) ‹_›
    · exact Res.memWf_of_wait (xWrite_memWf hs) ‹_›

theorem feedRows_memWf {n rb l} (hs : s.memWf) : (feedRows n rb l s).state.memWf := by
  induction l generalizing s with
  | nil => exact hs
  | cons p l ih =>
    unfold feedRows
    split
    · exact feedNest_memWf hs
    · exact ih (feedNest_memWf hs)

theorem sendTile_memWf {w ck t rb rows rs} (hs : s.memWf) : (sendTile w ck t rb rows rs s).state.memWf := by
  unfold sendTile
  split
  · exact hs
  · exact hs
  · have hrows := sendRows_memWf (w := w) (d := .tile ck t 0) (a := 0) (rb := rb) (off := 0) (l := rows) (tileTake_memWf (ck := ck) (t :=
      t) (e := ‹_›) hs)
    split
    · exact tileLeft_memWf (Sent.memWf_of_stop hrows ‹_›)
    · exact hrows

theorem sendOpen_memWf {c cmd q made r n} (hs : s.memWf) : (sendOpen c cmd q made r n s).state.memWf := by
  unfold sendOpen
  extract_lets
  split
  · split
    · exact hs
    · exact hs
    · exact tileTake_memWf hs
  · exact hs
  · split <;> exact hs
  · split
    · exact hs
    · split <;> exact hs

theorem sendRow_memWf {c w cmd q r j i v} (hs : s.memWf) : (sendRow c w cmd q r j i v s).state.memWf := by
  unfold sendRow
  extract_lets
  split
  · split
    · exact tileLeft_memWf (Sent.memWf_of_stop (sendRows_memWf hs) ‹_›)
    · exact sendRows_memWf hs
  · exact sendRows_memWf hs
  · split
    · exact deliverRows_memWf hs
    · exact hs
  · split
    · exact hs
    · split
      · exact hs
      · split
        · exact setCtx_memWf (Sent.memWf_of_all (feedRows_memWf hs) ‹_›)
        · exact feedRows_memWf hs

theorem flagWord_memWf {w r f} (hs : s.memWf) : (flagWord w r f s).state.memWf := by
  unfold flagWord
  split
  · exact hs
  · extract_lets
    split
    · exact hs
    · exact Res.next_memWf (xRead_memWf hs) (fun _ _ ht => xWrite_memWf ht)

theorem routeAdvance'_memWf {ck tok r n} (hs : s.memWf) : (routeAdvance' ck tok r n s).memWf := by
  unfold routeAdvance'
  split
  · exact writeMem_memWf hs
  · exact hs

theorem routeCopy_memWf {c tok} (hs : s.memWf) : (routeCopy c tok s).2.memWf := by
  unfold routeCopy
  split
  · exact hs
  · exact setCtx_memWf hs

theorem drainUndo_memWf {c k} (hs : s.memWf) : (drainUndo c k s).memWf :=
  setAcc_memWf hs

theorem drainEnd_memWf {c w cmd k tok r rows z} {s0 : State} (hs0 : s0.memWf) : (drainEnd c w cmd k tok r rows z s0).state.memWf := by
  unfold drainEnd
  extract_lets _ _ _ ended
  have hended : ended.state.memWf :=
    Res.next_memWf (flagWord_memWf (cmdFlags_memWf (accFlags_memWf hs0))) (fun _ t ht => reportBytes_memWf ht)
  clear_value ended
  split
  · exact waitFrom_memWf hs0
  · exact stopAt_memWf hended
  · exact stopAt_memWf hended
  · exact setAcc_memWf (routeAdvance'_memWf hended)

theorem drainTile_memWf {c w cmd q k m rows z} {s0 : State} (hs0 : s0.memWf) : (drainTile c w cmd q k m rows z s0).state.memWf := by
  unfold drainTile
  extract_lets _ _ made _ _ copy
  have hcopy : copy.2.memWf := by
    unfold copy
    cases made with
    | none => exact routeCopy_memWf hs0
    | some p => exact setCtx_memWf hs0
  split
  · split
    · exact stopAt_memWf hs0
    · split
      · exact stopAt_memWf hs0
      · split
        · exact stopAt_memWf hcopy
        · exact setAcc_memWf (rowMark_memWf hcopy)
  · split
    · exact setCtx_memWf (Res.memWf_of_ok (sendOpen_memWf hs0) ‹_›)
    · exact waitFrom_memWf hs0
    · exact stopAt_memWf (drainUndo_memWf (Res.memWf_of_exc (sendOpen_memWf hs0) ‹_›))
    · exact stopAt_memWf (drainUndo_memWf (Res.memWf_of_lost (sendOpen_memWf hs0) ‹_›))
  · split
    · exact drainEnd_memWf hs0
    · split
      · exact waitFrom_memWf hs0
      · exact stopAt_memWf (drainUndo_memWf (Sent.memWf_of_stop (sendRow_memWf hs0) ‹_›))
      · exact setAcc_memWf (setCtx_memWf (Sent.memWf_of_all (sendRow_memWf hs0) ‹_›))

theorem drainTiles_memWf {c w cmd q rows z l} (hs : s.memWf) : (drainTiles c w cmd q rows z l s).state.memWf := by
  induction l generalizing s with
  | nil => exact setCtx_memWf hs
  | cons p l ih =>
    unfold drainTiles
    split
    · exact ih (setCtx_memWf (FaRes.memWf_of_done (drainTile_memWf hs) ‹_›))
    · exact setCtx_memWf (FaRes.memWf_of_stop (drainTile_memWf hs) ‹_›)
    · exact FaRes.memWf_of_wait (drainTile_memWf hs) ‹_›
    · exact FaRes.memWf_of_unready (drainTile_memWf hs) ‹_›

theorem faDrainRun_memWf {c cmd q} (hs : s.memWf) : (faDrainRun c cmd q s).state.memWf := by
  unfold faDrainRun
  extract_lets _ _ _ go
  have hgo : ∀ (s : State), s.memWf → (go s).state.memWf := fun _ ht => drainTiles_memWf ht
  split
  · exact hgo _ hs
  · split
    · exact stopAt_memWf hs
    · split
      · exact stopAt_memWf hs
      · split
        · exact stopAt_memWf (Res.memWf_of_exc (barOf_memWf hs) ‹_›)
        · exact stopAt_memWf (Res.memWf_of_lost (barOf_memWf hs) ‹_›)
        · exact Res.memWf_of_wait (barOf_memWf hs) ‹_›
        · exact hgo _ (Res.memWf_of_ok (barOf_memWf hs) ‹_›)

/-! ## Factor array: vocabulary projections -/

theorem vpSpill_memWf {w} {s0 : State} {l} (hs0 : s0.memWf) (hs : s.memWf) : (vpSpill w s0 l s).state.memWf := by
  induction l generalizing s with
  | nil => exact hs
  | cons p l ih =>
    unfold vpSpill
    split
    · exact ih hs
    · split
      · exact ih (Res.memWf_of_ok (xWrite_memWf hs) ‹_›)
      · exact hs0
      · exact hs0
      · exact waitFrom_memWf hs0

theorem vpCommit_memWf {c v ch} (hs : s.memWf) : (vpCommit c v ch s).memWf :=
  setCtx_memWf (memWf_ite (setTileEntry_memWf hs) hs)

theorem vpStop_memWf {v ch row cause} (hs : s.memWf) : (vpStop v ch row cause s).state.memWf :=
  hs

theorem vpChunk_memWf {c w k v mode ch} (hs : s.memWf) : (vpChunk c w k v mode ch s).state.memWf := by
  unfold vpChunk
  extract_lets
  split
  · exact vpStop_memWf hs
  · split
    · exact vpStop_memWf hs
    · exact vpStop_memWf hs
    · split
      · exact vpStop_memWf hs
      · split
        · exact Sent.memWf_of_wait (vpSpill_memWf hs hs) ‹_›
        · exact vpStop_memWf (Sent.memWf_of_stop (vpSpill_memWf hs hs) ‹_›)
        · exact vpCommit_memWf (setAcc_memWf (Sent.memWf_of_all (vpSpill_memWf hs hs) ‹_›))

theorem vpChunks_memWf {c v n} {f : Nat → State → FaRes} (hf : ∀ ch s, s.memWf → (f ch s).state.memWf) (hs : s.memWf) :
    (vpChunks c v f n s).state.memWf := by
  induction n generalizing s with
  | zero => exact setCtx_memWf hs
  | succ n ih =>
    unfold vpChunks
    extract_lets ch
    split
    · exact setCtx_memWf hs
    · have hread : (if (ctx s c).row ≠ 0 then TileRead.go s else tileReadAt c (some (clusterOfCore c, vpTile v ch)) s).state.memWf :=
        memWf_ite_of (a := .go s) hs (tileReadAt_memWf hs)
      split
      · exact TileRead.memWf_of_wait hread ‹_›
      · exact vpStop_memWf (setCtx_memWf (TileRead.memWf_of_empty hread ‹_›))
      · have ht := TileRead.memWf_of_go hread ‹_›
        split
        · exact ih (FaRes.memWf_of_done (hf _ _ ht) ‹_›)
        · exact setCtx_memWf (FaRes.memWf_of_stop (hf _ _ ht) ‹_›)
        · exact setCtx_memWf (FaRes.memWf_of_wait (hf _ _ ht) ‹_›)
        · exact FaRes.memWf_of_unready (hf _ _ ht) ‹_›

theorem vpRefuse_memWf {v cause} (hs : s.memWf) : (vpRefuse v cause s).state.memWf :=
  hs

theorem vpStart_memWf {form c w k v} (hs : s.memWf) : (vpStart form c w k v s).state.memWf := by
  unfold vpStart
  extract_lets _ _ begun _
  have hbegun : ∀ (s : State), s.memWf → (begun s).state.memWf := fun _ ht => setCtx_memWf ht
  split
  · split
    · exact vpRefuse_memWf hs
    · split
      · exact vpRefuse_memWf hs
      · exact hbegun _ (setAcc_memWf hs)
  · split
    · exact vpRefuse_memWf hs
    · split
      · exact vpRefuse_memWf hs
      · split
        · exact hs
        · exact hbegun _ hs

theorem vpRun_memWf {form c cmd} {start : Who → State → FaRes} {chunk : Who → Nat → State → FaRes}
    (hstart : ∀ w s, s.memWf → (start w s).state.memWf) (hchunk : ∀ w ch s, s.memWf → (chunk w ch s).state.memWf) (hs : s.memWf) :
    (vpRun form c cmd start chunk s).state.memWf := by
  unfold vpRun
  extract_lets _ _ go
  have hgo : ∀ (a : State), a.memWf → (go a).state.memWf := fun _ ht => vpChunks_memWf (fun _ _ hu => hchunk _ _ _ hu) ht
  split
  · exact stopAt_memWf hs
  · split
    · exact hgo _ hs
    · split
      · exact vpRefuse_memWf hs
      · split
        · exact TileRead.memWf_of_wait (tileReadAt_memWf hs) ‹_›
        · exact vpRefuse_memWf (TileRead.memWf_of_empty (tileReadAt_memWf hs) ‹_›)
        · have ht := TileRead.memWf_of_go (tileReadAt_memWf hs) ‹_›
          split
          · exact hgo _ (FaRes.memWf_of_done (hstart _ _ ht) ‹_›)
          · exact hstart _ _ ht

theorem vprojRun_memWf {form c cmd k} (hs : s.memWf) : (vprojRun form c cmd k s).state.memWf :=
  vpRun_memWf (fun _ _ ht => vpStart_memWf ht) (fun _ _ _ ht => vpChunk_memWf ht) hs

theorem vpmergeRun_memWf {c cmd k} (hs : s.memWf) : (vpmergeRun c cmd k s).state.memWf := by
  unfold vpmergeRun
  extract_lets _ _ _ _ _ _ _ _ go
  have hgo : ∀ (s : State), s.memWf → (go s).state.memWf := fun _ ht => rowsRun_memWf ht
  split
  · exact hgo _ hs
  · split
    · exact stopAt_memWf hs
    · split
      · exact stopAt_memWf hs
      · split
        · exact stopAt_memWf hs
        · split
          · exact stopAt_memWf hs
          · split
            · exact stopAt_memWf hs
            · split
              · exact TileRead.memWf_of_wait (tileReadAt_memWf hs) ‹_›
              · exact stopAt_memWf (TileRead.memWf_of_empty (tileReadAt_memWf hs) ‹_›)
              · exact hgo _ (TileRead.memWf_of_go (tileReadAt_memWf hs) ‹_›)

theorem bwdStart_memWf {c w k v} (hs : s.memWf) : (bwdStart c w k v s).state.memWf := by
  unfold bwdStart
  extract_lets _ _ begun
  have hbegun : ∀ (s : State), s.memWf → (begun s).state.memWf := fun _ ht => setCtx_memWf ht
  split
  · exact vpRefuse_memWf hs
  · split
    · exact vpRefuse_memWf hs
    · split
      · exact hs
      · split
        · exact hs
        · split
          · exact hbegun _ (setAcc_memWf hs)
          · exact hbegun _ hs

theorem bwdDrain_memWf {c w cmd k v r de} {s0 : State} (hs0 : s0.memWf) : (bwdDrain c w cmd k v r de s0).state.memWf := by
  unfold bwdDrain
  extract_lets _ _ _ _ send
  have hsend : (send s0).state.memWf := by
    unfold send
    match rtKind r with
    | 1 => exact sendTile_memWf hs0
    | 2 => exact sendRows_memWf hs0
    | 0 | _ + 3 =>
      refine memWf_ite_of (f := Sent.state) (a := .stop 0x55 0 s0) hs0 ?_
      split
      · exact hs0
      · exact feedRows_memWf hs0
  split
  · exact waitFrom_memWf hs0
  · exact Sent.memWf_of_stop hsend ‹_›
  · extract_lets t
    have ht : t.memWf := accFlags_memWf (Sent.memWf_of_all hsend ‹_›)
    clear_value t
    split
    · exact waitFrom_memWf hs0
    · exact Res.memWf_of_exc (flagWord_memWf (cmdFlags_memWf ht)) ‹_›
    · exact Res.memWf_of_lost (flagWord_memWf (cmdFlags_memWf ht)) ‹_›
    · exact routeAdvance'_memWf (Res.memWf_of_ok (flagWord_memWf (cmdFlags_memWf ht)) ‹_›)

theorem bwdChunk_memWf {c w cmd k ch} (hs : s.memWf) : (bwdChunk c w cmd k ch s).state.memWf := by
  unfold bwdChunk
  extract_lets _ _ _ _ copy _ _
  have hcopy : copy.2.memWf := routeCopy_memWf hs
  split
  · exact vpStop_memWf hs
  · split
    · exact vpStop_memWf hs
    · exact vpStop_memWf hs
    · exact vpStop_memWf hs
    · split
      · exact vpStop_memWf hcopy
      · extract_lets
        split
        · exact Sent.memWf_of_wait (bwdDrain_memWf hcopy) ‹_›
        · exact vpStop_memWf (Sent.memWf_of_stop (bwdDrain_memWf hcopy) ‹_›)
        · exact vpCommit_memWf (setAcc_memWf (Sent.memWf_of_all (bwdDrain_memWf hcopy) ‹_›))

theorem vprojBwdRun_memWf {c cmd k} (hs : s.memWf) : (vprojBwdRun c cmd k s).state.memWf :=
  vpRun_memWf (fun _ _ ht => bwdStart_memWf ht) (fun _ _ _ ht => bwdChunk_memWf ht) hs

theorem vprRead_memWf {w a} (hs : s.memWf) : (vprRead w a s).state.memWf := by
  unfold vprRead
  split
  · exact hs
  · generalize hr : (load w 64 64 a s).next _ = r
    have hr : r.state.memWf := hr ▸ Res.next_memWf (load_memWf hs) (fun _ t ht => Res.next_memWf (load_memWf ht) (fun _ u hu => hu))
    split <;> exact hr

/-! ## Factor array: commands -/

theorem faDelay_memWf {c} (hs : s.memWf) : (faDelay c s).memWf := by
  unfold faDelay
  split
  · exact hs
  · exact setCtx_memWf (setCluster_memWf hs)

theorem faCharge_memWf {c cls} (hs : s.memWf) : (faCharge c cls s).memWf :=
  setCtx_memWf (setCluster_memWf hs)

theorem faAttachNow_memWf {c k n} (hs : s.memWf) : (faAttachNow c k n s).state.memWf := by
  unfold faAttachNow
  extract_lets
  split
  · exact stopAt_memWf hs
  · exact setCtx_memWf hs

theorem faRelease_memWf {c} (hs : s.memWf) : (faRelease c s).memWf :=
  setCtx_memWf hs

theorem faDetachNow_memWf {c k n} (hs : s.memWf) : (faDetachNow c k n s).state.memWf := by
  unfold faDetachNow
  extract_lets
  split
  · exact stopAt_memWf hs
  · split
    · exact faRelease_memWf hs
    · exact setCtx_memWf hs

theorem faPerform_memWf {c cmd} (hs : s.memWf) : (faPerform c cmd s).state.memWf := by
  unfold faPerform
  split
  · exact faAttachNow_memWf hs
  · exact faDetachNow_memWf hs
  · exact faLoad_memWf hs
  · exact faCommitNow_memWf hs
  · exact lastUsed_memWf (faStageRun_memWf hs)
  · exact lastUsed_memWf (faStageRun_memWf hs)
  · exact lastUsed_memWf (faStageRun_memWf hs)
  · exact lastUsed_memWf (faDenseRun_memWf hs)
  · exact lastUsed_memWf (faSparseRun_memWf hs)
  · exact faPwTwidRun_memWf hs
  · exact faPwScaleRun_memWf hs
  · exact faPwAddRun_memWf hs
  · exact faPwReluRun_memWf hs
  · exact faPwExp2Run_memWf hs
  · exact faPwModredRun_memWf hs
  · exact faBfpRun_memWf hs
  · exact faBfpRun_memWf hs
  · exact faZeroRun_memWf hs
  · exact faDrainRun_memWf hs
  · exact faDrainRun_memWf hs
  · exact faModsetRun_memWf hs
  · exact faCrtRun_memWf hs
  · exact vprojRun_memWf hs
  · exact vprojRun_memWf hs
  · exact vprojBwdRun_memWf hs
  · exact vpmergeRun_memWf hs
  · exact hs

theorem faRun_memWf {c cmd} (hs : s.memWf) : (faRun c cmd s).state.memWf := by
  unfold faRun
  split
  · exact faPerform_memWf hs
  · split
    · exact faDelay_memWf hs
    · split
      · exact hs
      · split
        · exact faCharge_memWf (FaRes.memWf_of_done (faPerform_memWf hs) ‹_›)
        · exact faCharge_memWf (FaRes.memWf_of_stop (faPerform_memWf hs) ‹_›)
        · exact faCharge_memWf (FaRes.memWf_of_wait (faPerform_memWf hs) ‹_›)
        · exact setCtx_memWf (FaRes.memWf_of_unready (faPerform_memWf hs) ‹_›)

theorem faIdle_memWf {c} (hs : s.memWf) : (faIdle c s).memWf :=
  setCtx_memWf hs

theorem dropItem_memWf {x1} (hs : s.memWf) : (dropItem s x1).memWf := by
  unfold dropItem
  split
  · exact dropRows_memWf hs
  · exact forkEnds_memWf hs

theorem faStopThread_memWf {c cmd cause brow vcur chunk fl} (hs : s.memWf) : (faStopThread c cmd cause brow vcur chunk fl s).memWf :=
  writeRecord_memWf (dropRows_memWf (memWf_foldl (fun _ _ ht => dropItem_memWf ht) (setCtx_memWf hs)))

theorem loadStep_memWf {c} (hs : s.memWf) : (loadStep c s).memWf := by
  unfold loadStep
  split
  · split
    · split
      · exact setCtx_memWf (FaRes.memWf_of_done (faPerform_memWf hs) ‹_›)
      · exact writeRecord_memWf (setCtx_memWf (FaRes.memWf_of_stop (faPerform_memWf hs) ‹_›))
      · exact FaRes.memWf_of_wait (faPerform_memWf hs) ‹_›
      · exact FaRes.memWf_of_unready (faPerform_memWf hs) ‹_›
    · exact faLoading_memWf (setCtx_memWf hs)
  · exact hs

theorem execFaContextExecute_memWf {c} (hs : s.memWf) : (execFaContextExecute c s).memWf := by
  unfold execFaContextExecute
  split
  · exact Out.fault_memWf
  · extract_lets s1 _
    have hs1 : s1.memWf := loadStep_memWf hs
    split
    · exact Out.next_memWf hs1
    · split
      · exact Out.next_memWf hs1
      · exact Out.next_memWf (setCtx_memWf hs1)
      · split
        · exact Out.next_memWf (faIdle_memWf (setCtx_memWf (FaRes.memWf_of_done (faRun_memWf hs1) ‹_›)))
        · exact Out.next_memWf (faStopThread_memWf (faIdle_memWf (setCtx_memWf (FaRes.memWf_of_stop (faRun_memWf hs1) ‹_›))))
        · exact Out.next_memWf (FaRes.memWf_of_wait (faRun_memWf hs1) ‹_›)
        · exact Out.next_memWf (FaRes.memWf_of_unready (faRun_memWf hs1) ‹_›)

theorem faPush_memWf {c cmd} (hs : s.memWf) : (faPush c cmd s).memWf :=
  setCtx_memWf hs

theorem faAfter_memWf {c r} (hr : r.state.memWf) : (faAfter c r).memWf := by
  cases r with
  | done => exact Out.next_memWf (finish_memWf (faIdle_memWf hr))
  | stop => exact Out.next_memWf (stopProgram_memWf (faIdle_memWf hr))
  | wait => exact Out.next_memWf hr
  | unready => exact Out.next_memWf hr

theorem faIssue_memWf {i} {f : FaCmd → State → Res FaCmd} (hf : ∀ c s, s.memWf → (f c s).state.memWf) (hs : s.memWf) :
    (faIssue i f s).memWf := by
  unfold faIssue
  split
  · extract_lets
    split
    · exact raise_memWf hs
    · split
      · exact blockOn_memWf hs
      · split
        · have ht := Res.memWf_of_ok (hf _ _ hs) ‹_›
          split
          · exact stall_memWf ht
          · exact Out.next_memWf (finish_memWf (faPush_memWf ht))
        · exact stall_memWf (Res.memWf_of_wait (hf _ _ hs) ‹_›)
        · exact raise_memWf (Res.memWf_of_exc (hf _ _ hs) ‹_›)
        · exact raise_memWf (Res.memWf_of_lost (hf _ _ hs) ‹_›)
  · split
    · exact Out.fault_memWf
    · split
      · exact Out.next_memWf (stopProgram_memWf hs)
      · split
        · exact faAfter_memWf (faRun_memWf hs)
        · split
          · exact faAfter_memWf (faRun_memWf (setCtx_memWf (Res.memWf_of_ok (hf _ _ hs) ‹_›)))
          · exact stall_memWf (Res.memWf_of_wait (hf _ _ hs) ‹_›)
          · exact Out.next_memWf (stopProgram_memWf (Res.memWf_of_exc (hf _ _ hs) ‹_›))
          · exact Out.next_memWf (stopProgram_memWf (Res.memWf_of_lost (hf _ _ hs) ‹_›))
  · exact raise_memWf hs

theorem faWith_memWf {f c} (hs : s.memWf) : (faWith f c s).state.memWf :=
  hs

theorem faPairs_memWf {p c} {s0 : State} {cmd} (hs : s.memWf) : (faPairs p c s0 cmd s).state.memWf :=
  hs

theorem faDirect_memWf {i} (hs : s.memWf) : (faDirect i s).memWf := by
  unfold faDirect
  split
  · extract_lets
    split
    · exact blockOn_memWf hs
    · split
      · exact Out.next_memWf (finish_memWf (FaRes.memWf_of_done (faPerform_memWf hs) ‹_›))
      · exact Out.next_memWf (writeRecord_memWf (finish_memWf (FaRes.memWf_of_stop (faPerform_memWf hs) ‹_›)))
      · exact stall_memWf (FaRes.memWf_of_wait (faPerform_memWf hs) ‹_›)
      · exact stall_memWf (FaRes.memWf_of_unready (faPerform_memWf hs) ‹_›)
  · exact faAfter_memWf (faPerform_memWf hs)
  · exact raise_memWf hs

theorem execFaWait_memWf (hs : s.memWf) : (execFaWait s).memWf := by
  unfold execFaWait
  split
  · split
    · exact Out.next_memWf (finish_memWf hs)
    · exact blockOn_memWf hs
  · exact Out.next_memWf (finish_memWf hs)
  · exact raise_memWf hs

theorem execFaCfgld_memWf {p} (hs : s.memWf) : (execFaCfgld p s).memWf := by
  unfold execFaCfgld
  extract_lets
  split
  · extract_lets
    split
    · split
      · split
        · exact Out.next_memWf (finish_memWf (setCtx_memWf hs))
        · exact blockOn_memWf hs
      · split
        · exact blockOn_memWf hs
        · split
          · exact blockOn_memWf hs
          · exact blockOn_memWf (setCtx_memWf hs)
    · split
      · exact blockOn_memWf hs
      · exact blockOn_memWf (setCtx_memWf hs)
  · split
    · exact Out.next_memWf hs
    · split
      · have ht := Out.memWf_of_next (faAfter_memWf (faPerform_memWf hs)) ‹_›
        exact Out.next_memWf (memWf_ite (endProgram_memWf ht) ht)
      · exact faAfter_memWf (faPerform_memWf hs)
  · exact raise_memWf hs

theorem execFaCommit_memWf (hs : s.memWf) : (execFaCommit s).memWf := by
  unfold execFaCommit
  split
  · extract_lets
    split
    · exact blockOn_memWf hs
    · exact Out.next_memWf (finish_memWf (faPush_memWf hs))
  · exact faAfter_memWf (faPerform_memWf hs)
  · exact raise_memWf hs

theorem drainIssue_memWf {i p tokens q} (hs : s.memWf) : (drainIssue i p tokens q s).memWf := by
  unfold drainIssue
  extract_lets
  split
  · extract_lets
    split
    · exact raise_memWf hs
    · split
      · exact stall_memWf hs
      · split
        · exact raise_memWf hs
        · split
          · exact blockOn_memWf hs
          · exact faIssue_memWf (fun _ _ ht => faWith_memWf ht) (setThr_memWf hs)
  · exact raise_memWf hs
  · exact faIssue_memWf (fun _ _ ht => faWith_memWf ht) hs

theorem execFaDrainv_memWf {p v q} (hs : s.memWf) : (execFaDrainv p v q s).memWf := by
  unfold execFaDrainv
  extract_lets
  split
  · extract_lets
    split
    · exact raise_memWf hs
    · split
      · exact raise_memWf hs
      · split
        · exact stall_memWf hs
        · split
          · exact Out.next_memWf (writeRecord_memWf hs)
          · exact drainIssue_memWf hs
  · split
    · exact drainIssue_memWf hs
    · exact raise_memWf hs
  · exact raise_memWf hs

theorem amaxRead_memWf {i d a final} (hs : s.memWf) : (amaxRead i d a final s).memWf := by
  unfold amaxRead
  split
  · extract_lets
    split
    · exact raise_memWf hs
    · split
      · exact stall_memWf hs
      · split
        · exact stall_memWf hs
        · split
          · exact Out.next_memWf (writeRecord_memWf hs)
          · exact writeOn_memWf hs
  · split
    · exact Out.fault_memWf
    · split
      · exact Out.next_memWf (stopProgram_memWf hs)
      · split
        · have ht := FaRes.memWf_of_done (faRun_memWf (setCtx_memWf hs)) ‹_›
          split
          · exact Out.next_memWf (stopProgram_memWf (faIdle_memWf ht))
          · exact writeOn_memWf (faIdle_memWf ht)
        · exact Out.next_memWf (FaRes.memWf_of_stop (faRun_memWf (setCtx_memWf hs)) ‹_›)
        · exact Out.next_memWf (FaRes.memWf_of_wait (faRun_memWf (setCtx_memWf hs)) ‹_›)
        · exact Out.next_memWf (FaRes.memWf_of_unready (faRun_memWf (setCtx_memWf hs)) ‹_›)
  · exact raise_memWf hs

theorem withVpr_memWf {a} {s0 : State} {cmd} (hs : s.memWf) : (withVpr a s0 cmd s).state.memWf := by
  unfold withVpr
  split
  · exact hs
  · exact Res.next_memWf (vprRead_memWf hs) (fun _ _ ht => ht)

/-! ## Issue of queue instructions -/

theorem iqRaise_memWf {cause} (hs : s.memWf) : (iqRaise cause s).memWf := by
  unfold iqRaise
  split
  · split
    · exact Out.next_memWf (writeRecord_memWf hs)
    · exact Out.next_memWf hs
  · exact Out.next_memWf (stopProgram_memWf hs)

theorem iqScalar_memWf {i} {f : Nat → State → Out} (hf : ∀ k s, s.memWf → (f k s).memWf) (hs : s.memWf) : (iqScalar i f s).memWf := by
  unfold iqScalar
  split
  · split
    · exact stall_memWf hs
    · exact hf _ _ hs
  · exact raise_memWf hs

theorem iqNamed_memWf {i h} {f : Nat → Nat → Iq → State → Out} (hf : ∀ k key q s, s.memWf → (f k key q s).memWf) (hs : s.memWf) :
    (iqNamed i h f s).memWf := by
  unfold iqNamed
  refine iqScalar_memWf ?_ hs
  intro _ _ ht
  split
  · exact iqRaise_memWf ht
  · split
    · exact raise_memWf ht
    · exact hf _ _ _ _ ht

theorem iqDispatch_memWf {i a b c d} {f : Nat → State → State} (hf : ∀ k s, s.memWf → (f k s).memWf) (hs : s.memWf) :
    (iqDispatch i a b c d f s).memWf := by
  unfold iqDispatch
  split
  · extract_lets
    split
    · exact Out.next_memWf (vKick_memWf hs)
    · exact Out.next_memWf (vKick_memWf (finish_memWf (setThr_memWf (hf _ _ hs))))
  · exact raise_memWf hs

theorem graphOf_memWf {w va qix base} (hs : s.memWf) : (graphOf s w va qix base).state.memWf := by
  unfold graphOf
  split
  · exact hs
  · split
    · exact hs
    · split
      · exact Res.memWf_of_exc (resolve_memWf hs) ‹_›
      · exact Res.memWf_of_lost (resolve_memWf hs) ‹_›
      · exact Res.memWf_of_wait (resolve_memWf hs) ‹_›
      · refine Res.next_memWf (loadAt_memWf (Res.memWf_of_ok (resolve_memWf hs) ‹_›)) ?_
        intro _ _ ht1
        extract_lets
        split
        · exact Res.next_memWf (loadAt_memWf ht1) (fun _ _ hu => memWf_ite_of hu hu)
        · exact ht1

theorem graphSlot_memWf {g qix slot ndecl} (hs : s.memWf) : (graphSlot g qix slot ndecl s).memWf :=
  graphUpdate_memWf (writePlain_memWf (writePlain_memWf hs))

theorem closeGraph_memWf {va r} {f : Option Nat → State → Out} (hr : r.state.memWf) (hf : ∀ v s, s.memWf → (f v s).memWf) :
    (closeGraph va r f).memWf := by
  unfold closeGraph
  split
  · split
    · exact iqRaise_memWf hr
    · exact raise_memWf hr
  · exact closeAccess_memWf hr hf

theorem execIqDecl_memWf {d a} (hs : s.memWf) : (execIqDecl d a s).memWf := by
  unfold execIqDecl
  refine iqScalar_memWf ?_ hs
  intro _ t ht
  extract_lets
  split
  · exact raise_memWf ht
  · refine closeAccess_memWf (resolve_memWf ht) ?_
    intro _ u hu
    split
    · exact raise_memWf hu
    · refine closeAccess_memWf (loadAt_memWf hu) ?_
      intro _ v hv
      extract_lets
      refine Out.memWf_ite (iqRaise_memWf hv) (Out.memWf_ite (iqRaise_memWf hv) ?_)
      refine closeGraph_memWf (graphOf_memWf hv) ?_
      intro g w hw
      split
      · exact writeOn_memWf hw
      · extract_lets _ t1
        have ht1 : t1.memWf := tagLines_memWf (setIq_memWf hw)
        cases g with
        | none => exact writeOn_memWf ht1
        | some p => exact writeOn_memWf (graphSlot_memWf ht1)

theorem execIqUndecl_memWf {q} (hs : s.memWf) : (execIqUndecl q s).memWf := by
  unfold execIqUndecl
  refine iqNamed_memWf ?_ hs
  intro _ _ _ _ ht
  split
  · exact iqRaise_memWf ht
  · extract_lets s1
    have hs1 : s1.memWf := hayStat_memWf (setIqRaw_memWf (qdrWrite_memWf ht))
    refine Out.next_memWf (finish_memWf ?_)
    split
    · exact graphSlot_memWf hs1
    · exact hs1

theorem execIqEmit_memWf {p q} (hs : s.memWf) : (execIqEmit p q s).memWf := by
  unfold execIqEmit
  extract_lets
  split
  · exact raise_memWf hs
  · exact iqDispatch_memWf (fun _ _ ht => ht) hs

theorem execIqClose_memWf {q b} (hs : s.memWf) : (execIqClose q b s).memWf := by
  unfold execIqClose
  extract_lets
  split
  · exact raise_memWf hs
  · exact iqDispatch_memWf (fun _ _ ht => ht) hs

theorem execIqApply_memWf {a b} (hs : s.memWf) : (execIqApply a b s).memWf := by
  unfold execIqApply
  extract_lets
  split
  · exact raise_memWf hs
  · exact iqDispatch_memWf (fun _ _ ht => ht) hs

theorem execIqProbe_memWf {a b} (hs : s.memWf) : (execIqProbe a b s).memWf := by
  unfold execIqProbe
  extract_lets
  split
  · exact raise_memWf hs
  · exact iqDispatch_memWf (fun _ _ ht => ht) hs

theorem noteDone_memWf {h k} (hs : s.memWf) : (noteDone h k s).memWf := by
  unfold noteDone
  split
  · split
    · exact setIqRaw_memWf hs
    · exact hs
  · exact hs

theorem execIqTake_memWf {p q} (hs : s.memWf) : (execIqTake p q s).memWf := by
  unfold execIqTake
  refine iqNamed_memWf ?_ hs
  intro _ _ _ t ht
  split
  · exact iqRaise_memWf ht
  · split
    · exact iqRaise_memWf ht
    · split
      · exact blockOn_memWf ht
      · exact Out.next_memWf (finish_memWf (setX_memWf (setX_memWf (setIq_memWf ht))))

theorem execIqQwait_memWf {g b} (hs : s.memWf) : (execIqQwait g b s).memWf := by
  unfold execIqQwait
  refine iqScalar_memWf ?_ hs
  intro _ t ht
  extract_lets
  split
  · exact raise_memWf ht
  · refine closeAccess_memWf (resolve_memWf ht) ?_
    intro _ u hu
    refine Out.memWf_ite (raise_memWf hu) (Out.memWf_ite (iqRaise_memWf hu) ?_)
    refine closeAccess_memWf (loadAt_memWf hu) ?_
    intro _ v hv
    exact Out.memWf_ite (Out.next_memWf (finish_memWf hv)) (blockOn_memWf hv)

/-! ## Save areas -/

theorem savePBits_memWf {n pa bytes} {p : PBits n} (hs : s.memWf) : (savePBits pa bytes p s).memWf :=
  memWf_foldl (fun _ _ ht => memWf_ite ht (poisonAt_memWf ht)) (storeMem_memWf hs)

theorem saveWord_memWf {pa bytes v} (hs : s.memWf) : (saveWord pa bytes v s).memWf :=
  storeMem_memWf hs

theorem saveAcc_memWf {pa g x} (hs : s.memWf) : (saveAcc pa g x s).memWf := by
  unfold saveAcc
  refine memWf_foldl ?_ hs
  intro _ _ ht
  split
  · exact ht
  · exact saveWord_memWf (memWf_foldl (fun _ _ hu => saveWord_memWf hu) ht)

theorem saveThread_memWf {k pa} (hs : s.memWf) : (saveThread k pa s).memWf := by
  unfold saveThread
  extract_lets _ s1 _ _ _ _ _ _ _ _ s2 s3 s4 s5 s6 s7 s8 s9 s10 s11 s12 s13 s14 s15 s16 s17 s18 s19 _
  have hs1 : s1.memWf := hs
  have hs2 : s2.memWf := saveWord_memWf hs1
  have hs3 : s3.memWf := saveWord_memWf hs2
  have hs4 : s4.memWf := saveWord_memWf hs3
  have hs5 : s5.memWf := saveWord_memWf hs4
  have hs6 : s6.memWf := saveWord_memWf hs5
  have hs7 : s7.memWf := saveWord_memWf hs6
  have hs8 : s8.memWf := saveWord_memWf hs7
  have hs9 : s9.memWf := saveWord_memWf hs8
  have hs10 : s10.memWf := saveWord_memWf hs9
  have hs11 : s11.memWf := saveWord_memWf hs10
  have hs12 : s12.memWf := memWf_foldl (fun _ _ ht => savePBits_memWf ht) hs11
  have hs13 : s13.memWf := saveWord_memWf hs12
  have hs14 : s14.memWf := saveWord_memWf hs13
  have hs15 : s15.memWf := memWf_foldl (fun _ _ ht => saveWord_memWf ht) hs14
  have hs16 : s16.memWf := saveWord_memWf hs15
  have hs17 : s17.memWf := memWf_foldl (fun _ _ ht => savePBits_memWf ht) hs16
  have hs18 : s18.memWf := memWf_ite (memWf_foldl (fun _ _ ht => savePBits_memWf ht) hs17) hs17
  have hs19 : s19.memWf := memWf_ite (saveAcc_memWf hs18) hs18
  exact clearTags_memWf hs19

theorem restoreThread_memWf {k pa} (hs : s.memWf) : (restoreThread k pa s).memWf := by
  unfold restoreThread
  extract_lets _ _ _ _ _ _ _ _ _ _ _ _ s1 _ s2 _ _ _ s3
  have hs1 : s1.memWf := setThr_memWf hs
  have hs2 : s2.memWf := memWf_ite (setCore_memWf hs1) hs1
  have hs3 : s3.memWf := memWf_ite (setCtx_memWf hs2) hs2
  split
  · exact setClock_memWf hs3
  · exact hs3

/-! ## Thread slots -/

theorem deliver_memWf {k} (hs : s.memWf) : (deliver k s).memWf := by
  unfold deliver
  split
  · exact hs
  · exact trapTo_memWf (orAflags_memWf (setThr_memWf hs))

theorem execEngineRecordDelivery_memWf {k} (hs : s.memWf) : (execEngineRecordDelivery k s).memWf := by
  unfold execEngineRecordDelivery
  split
  · exact Out.next_memWf (deliver_memWf hs)
  · exact Out.fault_memWf

theorem execHeldRecordWrite_memWf {cn} (hs : s.memWf) : (execHeldRecordWrite cn s).memWf := by
  unfold execHeldRecordWrite
  extract_lets
  split
  · exact Out.fault_memWf
  · split
    · split
      · exact Out.fault_memWf
      · exact Out.next_memWf (ringFull_memWf hs)
    · split
      · exact Out.fault_memWf
      · extract_lets s1
        have hs1 : s1.memWf := setCore_memWf hs
        refine Out.next_memWf ?_
        split
        · exact recordDone_memWf (recordWrite_memWf hs1 ‹_›)
        · exact recordLost_memWf hs1

theorem threadEnded_memWf {dev e killed} (hs : s.memWf) : (threadEnded dev e killed s).memWf := by
  unfold threadEnded
  split
  · exact hs
  · extract_lets _ s1
    have hs1 : s1.memWf := setIntake_memWf hs
    split
    · exact settleRefused_memWf hs1
    · split
      · exact complete_memWf hs1
      · exact hs1

theorem execSlotFree_memWf {k} (hs : s.memWf) : (execSlotFree k s).memWf := by
  unfold execSlotFree
  extract_lets _ s1 s2 s3
  have hs1 : s1.memWf := reportDeliveries_memWf hs
  have hs2 : s2.memWf := memWf_ite (faRelease_memWf hs1) hs1
  have hs3 : s3.memWf := freeAgent_memWf (iqFreeHolder_memWf hs2)
  split
  · exact Out.fault_memWf
  · exact Out.next_memWf (threadEnded_memWf (setThr_memWf hs3))

theorem setBerr_memWf {k b} (hs : s.memWf) : (setBerr k b s).memWf :=
  writeMem_memWf hs

theorem bindNow_memWf {k} (hs : s.memWf) : (bindNow k s).memWf := by
  unfold bindNow
  extract_lets _ _ _ refuse
  have hrefuse : refuse.memWf := setBerr_memWf hs
  have hberr : (setBerr k false s).memWf := setBerr_memWf hs
  split
  · exact hrefuse
  · split
    · exact hrefuse
    · split
      · exact hrefuse
      · split
        · exact hrefuse
        · split
          · exact refuseRecord_memWf hrefuse
          · extract_lets _ t u
            have ht : t.memWf := setThr_memWf (memWf_of_mem_eq hberr)
            clear_value t
            have hu : u.memWf := setIntake_memWf ht
            exact bindAgent_memWf (memWf_of_mem_eq hu)

theorem execBindGo_memWf {k} (hs : s.memWf) : (execBindGo k s).memWf := by
  unfold execBindGo
  split
  · exact Out.next_memWf (bindNow_memWf hs)
  · exact Out.fault_memWf

theorem leaveSlot_memWf {k} (hs : s.memWf) : (leaveSlot k s).memWf :=
  setDom_memWf (setThr_memWf hs)

theorem slotRuns_memWf {k} (hs : s.memWf) : (slotRuns k s).memWf := by
  unfold slotRuns
  extract_lets _ s1
  have hs1 : s1.memWf := setThr_memWf hs
  split
  · exact killThread_memWf hs1
  · exact hs1

theorem execBindStateReady_memWf {k} (hs : s.memWf) : (execBindStateReady k s).memWf := by
  unfold execBindStateReady
  extract_lets
  split
  · exact Out.fault_memWf
  · split
    · exact Out.next_memWf (slotRuns_memWf hs)
    · split
      · extract_lets s1
        have hs1 : s1.memWf := leaveSlot_memWf (reportTo_memWf hs)
        exact Out.next_memWf (memWf_ite (threadEnded_memWf hs1) (settleRefused_memWf hs1))
      · exact Out.next_memWf (slotRuns_memWf (restoreThread_memWf hs))

theorem sendEntries_memWf {k} (hs : s.memWf) : (sendEntries k s).memWf := by
  unfold sendEntries
  extract_lets r
  have hr : r.2.memWf := by
    refine List.foldlRecOn (motive := fun r : List VEntry × State => r.2.memWf) _ _ hs ?_
    intro r hr en _
    split
    · exact sendLines_memWf hr
    · exact hr
  exact setThr_memWf hr

theorem stopQueue_memWf {k} (hs : s.memWf) {t} (e : stopQueue k s = some t) : t.memWf := by
  unfold stopQueue at e
  extract_lets at e
  split at e
  · cases e
    exact setThr_memWf (sendEntries_memWf hs)
  · nomatch e

theorem stopEntry4F_memWf {k} (hs : s.memWf) : (stopEntry4F k s).memWf :=
  memWf_foldl (fun _ _ ht => recordQuiet_memWf ht) hs

theorem closeLoad_memWf {k} (hs : s.memWf) : (closeLoad k s).memWf := by
  unfold closeLoad
  split
  · extract_lets _ t
    have ht : t.memWf := setCtx_memWf hs
    clear_value t
    have hu : (finish { t with cur := .thread k }).memWf := finish_memWf (memWf_of_mem_eq ht)
    exact memWf_of_mem_eq hu
  · exact hs

theorem landNow_memWf {k} (hs : s.memWf) : (landNow k s).memWf := by
  unfold landNow
  extract_lets t
  have ht : t.memWf :=
    stopEntry4F_memWf (closeLoad_memWf (memWf_getD (fun _ e => stopQueue_memWf hs e) hs))
  exact setThr_memWf (dropRequests_memWf (dropRequests_memWf ht))

theorem execPreemptRequest_memWf {k} (hs : s.memWf) : (execPreemptRequest k s).memWf := by
  unfold execPreemptRequest
  split
  · exact Out.next_memWf (requestPreempt_memWf hs)
  · exact Out.fault_memWf

theorem execPreemptLanding_memWf {k} (hs : s.memWf) : (execPreemptLanding k s).memWf := by
  unfold execPreemptLanding
  split
  · exact Out.next_memWf (landNow_memWf hs)
  · exact Out.fault_memWf

theorem execPlimExpiry_memWf {k} (hs : s.memWf) : (execPlimExpiry k s).memWf := by
  unfold execPlimExpiry
  extract_lets
  split
  · exact Out.next_memWf (setThr_memWf hs)
  · exact Out.fault_memWf

theorem execCfgldPreemptHold_memWf {k} (hs : s.memWf) : (execCfgldPreemptHold k s).memWf := by
  unfold execCfgldPreemptHold
  split
  · exact Out.next_memWf (endProgram_memWf (setCtx_memWf hs))
  · split
    · exact Out.next_memWf (landNow_memWf (setCtx_memWf hs))
    · exact Out.fault_memWf

theorem execSaveComplete_memWf {k} (hs : s.memWf) : (execSaveComplete k s).memWf := by
  unfold execSaveComplete
  extract_lets _ _ s1 s2
  have hs1 : s1.memWf := saveThread_memWf hs
  have hs2 : s2.memWf := memWf_ite (faRelease_memWf hs1) hs1
  split
  · exact Out.fault_memWf
  · exact Out.next_memWf (settleRefused_memWf (leaveSlot_memWf (iqFreeHolder_memWf hs2)))

theorem execSlotResume_memWf {k} (hs : s.memWf) : (execSlotResume k s).memWf := by
  unfold execSlotResume
  extract_lets
  split
  · exact Out.next_memWf (setThr_memWf hs)
  · exact Out.fault_memWf

theorem mapRead_memWf {α : Type} {r : Res α} (hr : r.state.memWf) : (mapRead r).state.memWf := by
  cases r with
  | ok => exact hr
  | exc => exact hr
  | lost => exact hr
  | wait => exact hr

theorem mapEntry_memWf {w va} (hs : s.memWf) : (mapEntry w va s).state.memWf := by
  unfold mapEntry
  refine Res.next_memWf (mapRead_memWf (imageBytes_memWf hs)) ?_
  intro _ _ ht
  split
  · exact ht
  · exact Res.next_memWf (mapRead_memWf (imageBytes_memWf ht)) (fun _ _ hu => hu)

theorem mapEntries_memWf {w va n} (hs : s.memWf) : (mapEntries w va n s).state.memWf := by
  induction n generalizing s with
  | zero => exact hs
  | succ n ih => exact Res.next_memWf (ih hs) (fun _ t ht => Res.next_memWf (mapEntry_memWf ht) (fun _ u hu => hu))

theorem mapOf_memWf {w va} (hs : s.memWf) : (mapOf w va s).state.memWf := by
  unfold mapOf
  split
  · exact hs
  · refine wholeOr_memWf hs (Res.next_memWf (mapRead_memWf (imageBytes_memWf hs)) ?_)
    intro _ _ ht
    split
    · split
      · exact Res.next_memWf (mapEntries_memWf ht) (fun _ _ hu => hu)
      · exact ht
    · exact ht

theorem execReplacementMapInstall_memWf {rcb} (hs : s.memWf) : (execReplacementMapInstall rcb s).memWf := by
  unfold execReplacementMapInstall
  split
  · exact Out.fault_memWf
  · extract_lets
    split
    · have ht := Res.memWf_of_ok (mapOf_memWf hs) ‹_›
      extract_lets u
      have hu : u.memWf := by
        unfold u
        split
        · split
          · exact memWf_ite (hostStore_memWf ht) (writePlain_memWf ht)
          · exact ht
        · exact ht
      exact Out.next_memWf (memWf_of_mem_eq (writeMem_memWf hu))
    · exact Out.next_memWf (Res.memWf_of_exc (mapOf_memWf hs) ‹_›)
    · exact Out.next_memWf (Res.memWf_of_lost (mapOf_memWf hs) ‹_›)
    · exact Out.next_memWf (Res.memWf_of_wait (mapOf_memWf hs) ‹_›)

theorem observeMap_memWf {k} (hs : s.memWf) : (observeMap k s).memWf := by
  unfold observeMap
  extract_lets
  split
  · exact hs
  · exact setThr_memWf hs

/-! ## Engines and tiles -/

theorem execVectorStripIssue_memWf {cn} (hs : s.memWf) : (execVectorStripIssue cn s).memWf := by
  unfold execVectorStripIssue
  split
  · exact Out.fault_memWf
  · exact Out.next_memWf (issueStrip_memWf hs)

theorem execTagSweep_memWf {line} (hs : s.memWf) : (execTagSweep line s).memWf :=
  Out.next_memWf (memWf_ite hs (dueReset_memWf (clearTag_memWf hs)))

theorem execTileDefine_memWf {ck n w} (hs : s.memWf) : (execTileDefine ck n w s).memWf := by
  unfold execTileDefine
  split
  · exact Out.next_memWf (setTileEntry_memWf hs)
  · exact Out.fault_memWf

theorem execTileCmdRelease_memWf {ck n} (hs : s.memWf) : (execTileCmdRelease ck n s).memWf := by
  unfold execTileCmdRelease
  split
  · exact Out.next_memWf (setTileEntry_memWf hs)
  · exact Out.fault_memWf

theorem execTileCmdDiscard_memWf {ck n} (hs : s.memWf) : (execTileCmdDiscard ck n s).memWf := by
  unfold execTileCmdDiscard
  split
  · exact Out.next_memWf (setTileEntry_memWf hs)
  · exact Out.fault_memWf

theorem execTileReady_memWf {ck n} (hs : s.memWf) : (execTileReady ck n s).memWf := by
  unfold execTileReady
  extract_lets
  split
  · exact Out.next_memWf (memWf_ite hs (setTileEntry_memWf hs))
  · exact Out.fault_memWf

theorem execTileDrainEnd_memWf {ck n} (hs : s.memWf) : (execTileDrainEnd ck n s).memWf := by
  unfold execTileDrainEnd
  extract_lets
  split
  · exact Out.next_memWf (memWf_ite hs (setTileEntry_memWf hs))
  · exact Out.fault_memWf

theorem execTileEmptyTimeout_memWf {c} (hs : s.memWf) : (execTileEmptyTimeout c s).memWf := by
  unfold execTileEmptyTimeout
  split
  · split <;> exact Out.next_memWf (setCtx_memWf hs)
  · exact Out.fault_memWf

theorem countTileWaits_memWf (hs : s.memWf) : (countTileWaits s).memWf :=
  hs

theorem windowsRestart_memWf (hs : s.memWf) : (windowsRestart s).memWf :=
  hs

theorem pstateBoundary_memWf (hs : s.memWf) : (pstateBoundary s).memWf := by
  unfold pstateBoundary
  refine memWf_foldl ?_ hs
  intro _ _ ht
  extract_lets
  split
  · exact ht
  · exact setPst_memWf (setDevice_memWf ht)

theorem execSwathBoundary_memWf (hs : s.memWf) : (execSwathBoundary s).memWf := by
  unfold execSwathBoundary
  extract_lets s1 s2
  have hs1 : s1.memWf := hs
  have hs2 : s2.memWf := countTileWaits_memWf (iqSwath_memWf hs1)
  exact Out.next_memWf (pstateBoundary_memWf (memWf_foldl (fun _ _ ht => lookAll_memWf ht) hs2))

theorem fillWalk_memWf {cn asid va} (hs : s.memWf) : (fillWalk cn asid va s).memWf := by
  unfold fillWalk
  split
  · exact hs
  · exact setCluster_memWf (setCore_memWf hs)

theorem execPageWalk_memWf {cn asid vas} (hs : s.memWf) : (execPageWalk cn asid vas s).memWf := by
  unfold execPageWalk
  split
  · exact Out.fault_memWf
  · exact Out.next_memWf (memWf_foldl (fun _ _ ht => fillWalk_memWf ht) hs)

theorem missFill_memWf {m} (hs : s.memWf) : (missFill m s).memWf := by
  unfold missFill
  extract_lets t
  have ht : t.memWf := hs
  split
  · exact fillWalk_memWf ht
  · split
    · exact hs
    · exact shareLine_memWf ht

theorem execCowCopy_memWf {die asid va} (hs : s.memWf) : (execCowCopy die asid va s).memWf := by
  unfold execCowCopy
  extract_lets _ t
  have ht : t.memWf := hs
  clear_value t
  split
  · exact Out.fault_memWf
  · split
    · exact Out.next_memWf hs
    · exact Out.next_memWf (memWf_getD (fun _ e => cowPerform_memWf ht e) ht)

theorem invalidateEnd_memWf {die} (hs : s.memWf) : (invalidateEnd die s).memWf := by
  unfold invalidateEnd
  extract_lets _ _ s1
  have hs1 : s1.memWf := hs
  split
  · exact hs
  · exact writeMem_memWf (writeMem_memWf hs1)

theorem invalidateNow_memWf {die} (hs : s.memWf) : (invalidateNow die s).memWf := by
  unfold invalidateNow
  extract_lets _ _ _ _ t u
  have hu : u.memWf := writeMem_memWf (dropTlb_memWf hs)
  clear_value u
  split
  · exact hs
  · exact invalidateEnd_memWf (memWf_of_mem_eq hu)

theorem execInvcmd_memWf {die} (hs : s.memWf) : (execInvcmd die s).memWf := by
  unfold execInvcmd
  split
  · exact Out.next_memWf (invalidateNow_memWf hs)
  · exact Out.fault_memWf

theorem snapMark_memWf {log i l} (hs : s.memWf) : (snapMark log i l s).memWf := by
  induction l generalizing i s with
  | nil => exact hs
  | cons p l ih => exact ih (writePlain_memWf (writeReplicas_memWf hs))

theorem snapGo_memWf {die} (hs : s.memWf) : (snapGo die s).memWf := by
  unfold snapGo
  extract_lets _ _ _ _ _ _ _ t u v _ w
  have hu : u.memWf := memWf_ite (memWf_of_mem_eq (dropTlb_memWf hs)) hs
  have hw : w.memWf := writePlain_memWf (snapMark_memWf hu)
  clear_value w
  split
  · exact hs
  · split
    · exact hs
    · split
      · exact hu
      · exact memWf_of_mem_eq (writeMem_memWf (writeMem_memWf hw))

theorem snapNow_memWf {die} (hs : s.memWf) : (snapNow die s).memWf := by
  unfold snapNow
  extract_lets
  split
  · exact writeMem_memWf hs
  · split
    · exact writeMem_memWf hs
    · exact snapGo_memWf (writeMem_memWf hs)

theorem execSnapcmd_memWf {die} (hs : s.memWf) : (execSnapcmd die s).memWf := by
  unfold execSnapcmd
  split
  · exact Out.next_memWf (snapNow_memWf hs)
  · exact Out.fault_memWf

theorem execScrub_memWf {n} (hs : s.memWf) : (execScrub n s).memWf := by
  unfold execScrub
  extract_lets
  split
  · split
    · exact Out.fault_memWf
    · split
      · exact Out.next_memWf (rasCount_memWf hs)
      · exact Out.next_memWf (memWf_ite (rasCount_memWf (poisonAt_memWf hs)) hs)
  · split
    · exact Out.next_memWf (rasCount_memWf hs)
    · exact Out.fault_memWf

theorem registerError_memWf {m} (hs : s.memWf) : (registerError m s).memWf := by
  unfold registerError
  split
  · extract_lets
    split
    · exact Out.next_memWf (rasCount_memWf (setThr_memWf hs))
    · exact Out.fault_memWf
  · extract_lets
    split
    · exact Out.next_memWf (rasCount_memWf (setCore_memWf hs))
    · exact Out.fault_memWf

theorem hayError_memWf {m} (hs : s.memWf) : (hayError m s).memWf := by
  unfold hayError
  split
  · exact Out.fault_memWf
  · split
    · exact Out.next_memWf (rasCount_memWf (setIqRaw_memWf hs))
    · exact Out.fault_memWf

theorem execUncorrectableError_memWf {n} (hs : s.memWf) : (execUncorrectableError n s).memWf := by
  unfold execUncorrectableError
  extract_lets
  split
  · exact hayError_memWf hs
  · split
    · exact registerError_memWf hs
    · split
      · exact Out.fault_memWf
      · split
        · exact Out.next_memWf (rasCount_memWf (nmError_memWf (poisonAt_memWf hs)))
        · split
          · exact Out.next_memWf hs
          · exact Out.fault_memWf

theorem execCfgRecovery_memWf {c shadow} (hs : s.memWf) : (execCfgRecovery c shadow s).memWf := by
  unfold execCfgRecovery
  extract_lets
  split
  · exact Out.fault_memWf
  · exact Out.next_memWf (memWf_ite (rasCount_memWf (setCtx_memWf hs)) (setCtx_memWf hs))

/-! ## Fetch -/

theorem fetchWord_memWf {pc} (hs : s.memWf) : (fetchWord s pc).state.memWf := by
  unfold fetchWord
  extract_lets _ _ s1
  have hs1 : s1.memWf := noteTried_memWf hs
  split
  · split <;> exact hs1
  · split
    · exact multicastLoad_memWf hs1
    · exact readAt_memWf hs1

/-! ## Management of memory and devices -/

theorem setPref_memWf {d} (hs : s.memWf) : (setPref d s).memWf :=
  writeMem_memWf hs

theorem forget_memWf {d f} (hs : s.memWf) : (forget d f s).memWf := filter_wf _ hs

theorem wipeUnits_memWf {d} (hs : s.memWf) : (wipeUnits d s).memWf :=
  hs

theorem writeBackAll_memWf {d} (hs : s.memWf) : (writeBackAll d s).memWf :=
  memWf_foldl (fun _ _ ht => demote_memWf ht) hs

theorem newNonce_memWf {d} (hs : s.memWf) : (newNonce d s).memWf := by
  unfold newNonce
  exact memWf_of_mem_eq (writeMem_memWf hs)

theorem setDbg_memWf {d lvl} (hs : s.memWf) : (setDbg d lvl s).memWf :=
  writeMem_memWf (writeMem_memWf hs)

theorem closeSession_memWf {d} (hs : s.memWf) : (closeSession d s).memWf := by
  unfold closeSession
  split
  · exact hs
  · exact memWf_of_mem_eq (memWf_of_mem_eq (setDevice_memWf (setDbg_memWf hs)))

theorem execClose_memWf {d} (hs : s.memWf) : (execClose d s).memWf := by
  unfold execClose
  split
  · exact Out.next_memWf (closeSession_memWf hs)
  · exact Out.fault_memWf

theorem presentNow_memWf {d} (hs : s.memWf) : (presentNow d s).memWf := by
  unfold presentNow
  split
  · exact hs
  · exact setDevice_memWf (writeMem_memWf hs)

theorem execPresent_memWf {d} (hs : s.memWf) : (execPresent d s).memWf := by
  unfold execPresent
  split
  · exact Out.next_memWf (presentNow_memWf hs)
  · exact Out.fault_memWf

theorem zeroRange_memWf {pa n} (hs : s.memWf) : (zeroRange pa n s).memWf := filter_wf _ hs

theorem clearSlot_memWf {k} (hs : s.memWf) : (clearSlot k s).memWf := by
  unfold clearSlot
  extract_lets _ _ _ _ s1 _ s2 s3 s4 s5 _ s6
  have hs1 : s1.memWf := stopForks_memWf hs
  have hs2 : s2.memWf := memWf_ite (endProgram_memWf (faLoading_memWf hs1)) hs1
  have hs3 : s3.memWf := memWf_ite (faRelease_memWf hs2) hs2
  have hs4 : s4.memWf := iqFreeHolder_memWf hs3
  have hs5 : s5.memWf := memWf_ite (writeMem_memWf (zeroRange_memWf hs4)) hs4
  have hs6 : s6.memWf := setDom_memWf (setThr_memWf (dropRequests_memWf hs5))
  split
  · exact hs6
  · exact complete_memWf hs6

theorem clearUnnamed_memWf {d rids} (hs : s.memWf) : (clearUnnamed d rids s).memWf := by
  unfold clearUnnamed
  extract_lets _ _ _ _ _ s1 s2 s3
  have hs1 : s1.memWf := memWf_foldl (fun _ _ ht => clearSlot_memWf ht) hs
  have hs2 : s2.memWf := memWf_foldl (fun _ _ ht => zeroRange_memWf ht) hs1
  have hs3 : s3.memWf := memWf_foldl (fun _ _ ht => writeMem_memWf (zeroRange_memWf ht)) hs2
  exact memWf_foldl (fun _ _ ht => zeroRange_memWf ht) hs3

theorem execDebugTokenCheck_memWf {d} (hs : s.memWf) : (execDebugTokenCheck d s).memWf := by
  unfold execDebugTokenCheck
  split
  · exact Out.fault_memWf
  · extract_lets _ _ _ s1 s11 _ _ s12
    have hs1 : s1.memWf := setDevice_memWf (writeMem_memWf hs)
    have hs11 : s11.memWf := newNonce_memWf hs1
    have hs12 : s12.memWf := setDbg_memWf (setDevice_memWf hs11)
    split
    · exact Out.next_memWf (memWf_ite (clearUnnamed_memWf hs12) hs12)
    · exact Out.next_memWf (writeMem_memWf hs11)

theorem debugPut_memWf {u f v} (hs : s.memWf) : (debugPut u f v s).memWf := by
  unfold debugPut
  split
  · exact setThr_memWf hs
  · split
    · extract_lets
      split
      · exact setAcc_memWf hs
      · exact setCtx_memWf hs
    · split
      · exact setEngine_memWf hs
      · exact hs

theorem debugAccess_memWf {u l} (hs : s.memWf) : (debugAccess u l s).memWf := by
  unfold debugAccess
  refine memWf_foldl ?_ hs
  intro _ _ ht
  split
  · exact ht
  · exact debugPut_memWf ht

theorem execDebugHalt_memWf {session} (hs : s.memWf) : (execDebugHalt session s).memWf := by
  unfold execDebugHalt
  split
  · split
    · exact Out.fault_memWf
    · split
      · extract_lets
        split
        · exact Out.next_memWf (debugAccess_memWf (setThr_memWf hs))
        · split
          · exact Out.next_memWf (debugAccess_memWf hs)
          · exact Out.fault_memWf
      · exact Out.next_memWf (debugAccess_memWf hs)

theorem execDebugStep_memWf {u} (hs : s.memWf) : (execDebugStep u s).memWf := by
  unfold execDebugStep
  split
  · exact Out.fault_memWf
  · split
    · extract_lets _ base
      have hbase : base.memWf := setThr_memWf hs
      split
      · exact Out.next_memWf hbase
      · exact Out.fault_memWf
    · split
      · exact Out.next_memWf hs
      · exact Out.fault_memWf

theorem fuseRegisters_memWf {d} (hs : s.memWf) : (fuseRegisters d s).memWf :=
  writeMem_memWf (writeMem_memWf (writeMem_memWf (writeMem_memWf hs)))

theorem msixSend_memWf {d i} (hs : s.memWf) : (msixSend d i s).memWf := by
  unfold msixSend
  extract_lets
  split
  · exact cellsWrite_wf _ _ _ hs
  · exact hs

theorem raiseVector_memWf {d i} (hs : s.memWf) : (raiseVector d i s).memWf :=
  msixSend_memWf (writeMem_memWf hs)

theorem raiseVector0_memWf {d} (hs : s.memWf) : (raiseVector0 d s).memWf :=
  raiseVector_memWf hs

theorem coldBoot_memWf {d} (hs : s.memWf) : (coldBoot d s).memWf := by
  unfold coldBoot
  extract_lets _ s1 _ _ _ _ _ s2 _ _
  have hs1 : s1.memWf := setPst_memWf (setDevice_memWf hs)
  have hs2 : s2.memWf := writeMem_memWf (zeroRange_memWf hs1)
  split
  · exact setDevice_memWf hs2
  · exact raiseVector0_memWf (setDevice_memWf hs1)

theorem execPowerOn_memWf {d} (hs : s.memWf) : (execPowerOn d s).memWf := by
  unfold execPowerOn
  split
  · exact Out.fault_memWf
  · exact Out.next_memWf (coldBoot_memWf (newNonce_memWf (fuseRegisters_memWf (closeSession_memWf (setDevice_memWf hs)))))

theorem execPowerLoss_memWf {d} (hs : s.memWf) : (execPowerLoss d s).memWf := by
  unfold execPowerLoss
  split
  · exact Out.fault_memWf
  · exact Out.next_memWf (memWf_of_mem_eq (setDevice_memWf (forget_memWf (wipeUnits_memWf hs))))

theorem execAttestationRequest_memWf {d} (hs : s.memWf) : (execAttestationRequest d s).memWf := by
  unfold execAttestationRequest
  split
  · exact Out.next_memWf (attRequest_memWf hs)
  · exact Out.fault_memWf

theorem execAttestationReport_memWf {d} (hs : s.memWf) : (execAttestationReport d s).memWf := by
  unfold execAttestationReport
  split
  · exact Out.fault_memWf
  · exact Out.next_memWf (writeMem_memWf (writeMem_memWf (writeMem_memWf (setDevice_memWf hs))))

theorem execOwnerTransition_memWf {d record} (hs : s.memWf) : (execOwnerTransition d record s).memWf := by
  unfold execOwnerTransition
  split
  · extract_lets
    split
    · exact Out.next_memWf (memWf_ite (fuseRegisters_memWf (setDevice_memWf hs)) hs)
    · exact Out.fault_memWf

theorem execManufacturingExit_memWf {d key} (hs : s.memWf) : (execManufacturingExit d key s).memWf := by
  unfold execManufacturingExit
  extract_lets
  split
  · exact Out.next_memWf (fuseRegisters_memWf (setDevice_memWf hs))
  · exact Out.fault_memWf

theorem execFusedMinimumVersionRaise_memWf {d version} (hs : s.memWf) : (execFusedMinimumVersionRaise d version s).memWf := by
  unfold execFusedMinimumVersionRaise
  extract_lets
  split
  · exact Out.next_memWf (memWf_ite (fuseRegisters_memWf (setDevice_memWf hs)) hs)
  · exact Out.fault_memWf

theorem enterD2_memWf {d} (hs : s.memWf) : (enterD2 d s).memWf := by
  unfold enterD2
  extract_lets s1 s2 _
  have hs1 : s1.memWf := newNonce_memWf (closeSession_memWf (writeBackAll_memWf hs))
  have hs2 : s2.memWf := forget_memWf (wipeUnits_memWf hs1)
  exact setPst_memWf (setDevice_memWf hs2)

theorem powerRequest_memWf {d n} (hs : s.memWf) : (powerRequest d n s).memWf := by
  unfold powerRequest
  split
  · exact hs
  · extract_lets _ s1 _
    have hs1 : s1.memWf := writeMem_memWf hs
    split
    · exact setDevice_memWf hs1
    · split
      · exact setPref_memWf hs1
      · split
        · split
          · exact hs1
          · exact setPst_memWf (setDevice_memWf hs1)
        · exact enterD2_memWf hs1

theorem execPowerRequestP_memWf {d n} (hs : s.memWf) : (execPowerRequestP d n s).memWf := by
  unfold execPowerRequestP
  split
  · exact Out.next_memWf (powerRequest_memWf hs)
  · exact Out.fault_memWf

theorem execPowerRequestD1_memWf {d} (hs : s.memWf) : (execPowerRequestD1 d s).memWf := by
  unfold execPowerRequestD1
  split
  · exact Out.next_memWf (powerRequest_memWf hs)
  · exact Out.fault_memWf

theorem execPowerRequestD2_memWf {d} (hs : s.memWf) : (execPowerRequestD2 d s).memWf := by
  unfold execPowerRequestD2
  split
  · exact Out.next_memWf (powerRequest_memWf hs)
  · exact Out.fault_memWf

theorem execD1Exit_memWf {d} (hs : s.memWf) : (execD1Exit d s).memWf := by
  unfold execD1Exit
  split
  · exact Out.next_memWf (setPst_memWf hs)
  · exact Out.fault_memWf

theorem execD2Exit_memWf {d} (hs : s.memWf) : (execD2Exit d s).memWf := by
  unfold execD2Exit
  split
  · extract_lets
    split
    · exact Out.next_memWf (setPst_memWf (setDevice_memWf hs))
    · exact Out.next_memWf (coldBoot_memWf hs)
  · exact Out.fault_memWf

theorem execThermalTrip_memWf {die} (hs : s.memWf) : (execThermalTrip die s).memWf := by
  unfold execThermalTrip
  split
  · exact Out.fault_memWf
  · exact Out.next_memWf (setDevice_memWf (writeMem_memWf hs))

/-! ## The host path -/

theorem storePlain_memWf {pa n v} (hs : s.memWf) : (storePlain pa n v s).memWf :=
  clearTags_memWf (storeHome_memWf (settleWrites_memWf hs))

theorem windowStore_memWf {dk o n v} (hs : s.memWf) : (windowStore dk o n v s).memWf := by
  unfold windowStore
  extract_lets
  split
  · exact hs
  · extract_lets t
    have ht : t.memWf := writeMem_memWf hs
    clear_value t
    exact memWf_ite (storePlain_memWf hs) <| memWf_ite (memWf_ite (attStore_memWf hs) hs) <|
      memWf_ite (memWf_ite (powerRequest_memWf ht) ht) <| memWf_ite (bindNow_memWf ht) <| memWf_ite (invalidateNow_memWf ht) <|
      memWf_ite (snapNow_memWf ht) <| memWf_ite (resetLoss_memWf ht) <| memWf_ite (memWf_ite (presentNow_memWf ht) ht) <|
      memWf_ite (msixSend_memWf ht) <| memWf_ite (memWf_ite (closeSession_memWf ht) ht) ht

theorem logOnly_memWf {dk cause pa} (hs : s.memWf) : (logOnly dk cause pa s).memWf := by
  unfold logOnly
  exact memWf_of_mem_eq (writeMem_memWf (writeMem_memWf hs))

theorem bankStore_memWf {dk pa n v} (hs : s.memWf) : (bankStore dk pa n v s).memWf :=
  memWf_foldl (fun _ _ ht => logOnly_memWf (writeMem_memWf ht)) (storePlain_memWf hs)

theorem windowRequest_memWf {dk o n v} (hs : s.memWf) : (windowRequest dk o n v s).memWf :=
  memWf_foldl (fun _ _ ht => logOnly_memWf ht) (memWf_foldl (fun _ _ ht => windowStore_memWf ht) hs)

theorem writeRequest_memWf {pa n v} (hs : s.memWf) : (writeRequest pa n v s).memWf := by
  unfold writeRequest
  extract_lets
  split
  · exact memWf_foldl (fun _ _ ht => storePlain_memWf ht) hs
  · exact bankStore_memWf hs
  · exact bankStore_memWf hs
  · exact memWf_foldl (fun _ _ ht => clusterWindowStore_memWf ht) hs
  · exact windowRequest_memWf hs
  · exact hs

theorem raiseWritten_memWf {pa bytes} (hs : s.memWf) : (raiseWritten pa bytes s).memWf := by
  unfold raiseWritten
  extract_lets
  split
  · exact hs
  · refine memWf_foldl ?_ hs
    intro _ _ ht
    extract_lets
    split
    · exact raiseVector_memWf ht
    · exact ht

theorem requestWrite_memWf {mgmt pa bytes} (hs : s.memWf) : (requestWrite mgmt pa bytes s).memWf := by
  unfold requestWrite
  extract_lets _ s1
  have hs1 : s1.memWf := memWf_foldl (fun _ _ ht => writeRequest_memWf ht) hs
  split
  · split
    · exact raiseWritten_memWf hs1
    · exact hs1
  · exact hs

theorem reply_memWf {status bytes} (hs : s.memWf) : (reply status bytes s).memWf :=
  hs

theorem hostReadNow_memWf {pa n} (hs : s.memWf) : (hostReadNow pa n s).memWf := by
  unfold hostReadNow
  split
  · exact reply_memWf (memWf_foldl (fun _ _ ht => memWf_ite (fetchOwner_memWf ht) ht) hs)
  · exact reply_memWf hs

theorem hostAtomicNow_memWf {op wide pa operand compare} (hs : s.memWf) : (hostAtomicNow op wide pa operand compare s).memWf := by
  unfold hostAtomicNow
  extract_lets _ _ s1 _
  have hs1 : s1.memWf := settleWrites_memWf (memWf_ite (recallLine_memWf hs) hs)
  split
  · exact hs
  · split
    · exact reply_memWf hs
    · split
      · exact reply_memWf hs
      · extract_lets s2
        have hs2 : s2.memWf := by
          unfold s2
          split
          · exact clearTags_memWf (storeHome_memWf hs1)
          · exact hs1
        exact reply_memWf hs2

theorem requestNow_memWf {r} (hs : s.memWf) : (requestNow r s).memWf := by
  unfold requestNow
  split
  · exact requestWrite_memWf hs
  · exact hostReadNow_memWf hs
  · exact hostAtomicNow_memWf hs

theorem request_memWf {r} (hs : s.memWf) : (request r s).memWf :=
  Out.next_memWf (memWf_ite hs (requestNow_memWf hs))

theorem waitingNow_memWf (hs : s.memWf) : (waitingNow s).memWf :=
  memWf_foldl (fun _ _ ht => memWf_ite ht (requestNow_memWf ht)) hs

theorem execHostWrite_memWf {pa bytes} (hs : s.memWf) : (execHostWrite pa bytes s).memWf := by
  unfold execHostWrite
  split
  · exact Out.fault_memWf
  · exact request_memWf hs

theorem execHostForward_memWf {pa bytes} (hs : s.memWf) : (execHostForward pa bytes s).memWf := by
  unfold execHostForward
  split
  · exact Out.fault_memWf
  · exact request_memWf hs

theorem execRegisterWrite_memWf {pa bytes} (hs : s.memWf) : (execRegisterWrite pa bytes s).memWf := by
  unfold execRegisterWrite
  split
  · exact Out.fault_memWf
  · exact request_memWf hs

theorem execHostRead_memWf {pa n} (hs : s.memWf) : (execHostRead pa n s).memWf := by
  unfold execHostRead
  split
  · exact Out.fault_memWf
  · exact request_memWf hs

theorem execHostAtomic_memWf {op wide pa operand compare} (hs : s.memWf) : (execHostAtomic op wide pa operand compare s).memWf := by
  unfold execHostAtomic
  split
  · exact Out.fault_memWf
  · exact request_memWf hs

theorem answerHost_memWf {r st v} (hs : s.memWf) : (answerHost r st v s).memWf := by
  unfold answerHost
  extract_lets
  split
  · exact Out.next_memWf hs
  · exact Out.fault_memWf

theorem execHostCompletion_memWf {thread status bytes} (hs : s.memWf) : (execHostCompletion thread status bytes s).memWf := by
  unfold execHostCompletion
  split
  · exact Out.fault_memWf
  · exact answerHost_memWf hs

/-! ## Vector instructions -/

theorem vSync_memWf {i} {f : Nat → State → Out} (hf : ∀ k s, s.memWf → (f k s).memWf) (hs : s.memWf) : (vSync i f s).memWf := by
  unfold vSync
  split
  · split
    · exact hf _ _ hs
    · exact stall_memWf hs
  · exact raise_memWf hs

theorem execVsetl_memWf {d a b} (hs : s.memWf) : (execVsetl d a b s).memWf := by
  unfold execVsetl
  split
  · exact vSync_memWf (fun _ _ ht => writeOn_memWf (setThr_memWf ht)) hs
  · exact raise_memWf hs

theorem execVcfg_memWf {n} (hs : s.memWf) : (execVcfg n s).memWf := by
  unfold execVcfg
  split
  · exact Out.next_memWf (finish_memWf (setThr_memWf hs))
  · exact raise_memWf hs

theorem execVtos_memWf {d a b} (hs : s.memWf) : (execVtos d a b s).memWf := by
  unfold execVtos
  refine vSync_memWf ?_ hs
  intro _ _ ht
  extract_lets
  split
  · exact raise_memWf ht
  · split
    · exact stall_memWf ht
    · split
      · exact writeOn_memWf (setThr_memWf ht)
      · split
        · exact Out.next_memWf (writeRecord_memWf ht)
        · exact writeOn_memWf (setThr_memWf ht)

/-! ## The instruction -/

theorem exec_memWf {i} (hs : s.memWf) : Out.memWf (exec i s) := by
  cases i <;> dsimp only [exec]
  case add | sub | and | or | xor | andn | sll | srl | sra | ror | sltI64 | sltN64 | minI64 | minN64 | maxI64 | maxN64 | clz | ctz |
      popc | addi | andi | ori | xori | sltiI64 | sltiN64 | slli | srli | srai | lui | apc | mul | mulhI64 | mulhN64 | divI64 | divN64 |
      remI64 | remN64 | mulI32 | bfxN64 | bfxI64 | bfi | bswap | brev =>
    exact writeOn_memWf hs
  case jalr => exact execJalr_memWf hs
  case lidx => exact execLidx_memWf hs
  case lbrk => exact execLbrk_memWf hs
  case beq | bne | bltI64 | bgeI64 => exact branch_memWf hs
  case jal => exact Out.next_memWf (jump_memWf (setX_memWf hs))
  case loop => exact execLoop_memWf hs
  case ldI8 | ldN8 | ldI16 | ldN16 | ldI32 | ldN32 | ld64 => exact scalarLoad_memWf hs
  case ldAcq64 | ldAcqN32 => exact acquireLoad_memWf hs
  case st8 | st16 | st32 | st64 => exact scalarStore_memWf hs
  case stRel64 | stRel32 => exact releaseStore_memWf hs
  case amoSwap | amoAdd | amoAnd | amoOr | amoXor | amoMinI | amoMaxI | amoMinN | amoMaxN | amoCas => exact amoSized_memWf hs
  case amoCas16 => exact amo_memWf (fun _ _ ht => setPairX_memWf ht) hs
  case fence => exact execFence_memWf hs
  case fenceRel => exact execFenceRel_memWf hs
  case fenceAcq | nop | hint => exact Out.next_memWf (finish_memWf hs)
  case xfence => exact execXfence_memWf hs
  case barArrive => exact execBarArrive_memWf hs
  case barExpect => exact execBarExpect_memWf hs
  case barWait => exact execBarWait_memWf hs
  case barTest => exact execBarTest_memWf hs
  case barInit => exact execBarInit_memWf hs
  case forkF => exact execForkF_memWf hs
  case forkX => exact execForkX_memWf hs
  case join => exact execJoin_memWf hs
  case exit => exact execExit_memWf hs
  case yield => exact execYield_memWf hs
  case trap => exact execTrap_memWf hs
  case tret => exact execTret_memWf hs
  case gets => exact execGets_memWf hs
  case sets => exact execSets_memWf hs
  case launch => exact execLaunch_memWf hs
  case vsetl => exact execVsetl_memWf hs
  case vcfg => exact execVcfg_memWf hs
  case vtos => exact execVtos_memWf hs
  case mtos => exact vSync_memWf (fun _ _ ht => writeOn_memWf ht) hs
  case vbcast | vindex | vaddFloat | vsubFloat | vmulFloat | vdiv | vfma | vfms | vfnma | vminFloat | vmaxFloat | vabsFloat | vnegFloat |
      vsqrt | vexp2 | vaddInt | vsubInt | vmulInt | vmulhi | vminInt | vmaxInt | vaddsat | vsubsat | vabsInt | vnegInt | vmad | vand |
      vor | vxor | vandn | vnot | vsll | vsrl | vsra | vcmpEq | vcmpNe | vcmpLt | vcmpLe | vsel | mand | mor | mxor | mandn | mnot |
      vcvt | vlift | vsink | vpick | vpack | vprune | vzip | vunzip | vliftZ | vsinkZ | vpackK | vfoldAdd | vfoldMax | vfoldMin |
      vfoldAnd | vfoldOr | vfoldXor | vfoldAmax | vld | vlds | vldx | vldb | vldSpec | vldsSpec | vldxSpec | vst | vsts | vstx | vstb |
      trow | tcol | vspec | vmerge | cmAdd | cmMin | cmMax | cmAnd | cmOr | cmXor | cmSwap | cmCas | cmEw | cmRed | cmMadd | cmProbe =>
    exact vIssue_memWf hs
  case faAttach | faDetach => exact faDirect_memWf hs
  case faCfgld => exact execFaCfgld_memWf hs
  case faCommit => exact execFaCommit_memWf hs
  case faWait => exact execFaWait_memWf hs
  case faStageFloat | faStageBfp16 | faStageMod | faDense => exact faIssue_memWf (fun _ _ ht => faPairs_memWf ht) hs
  case faSparse => exact faIssue_memWf (fun _ _ ht => Res.next_memWf (faPairs_memWf ht) (fun _ _ hu => hu)) hs
  case faPwTwid | faPwScale | faPwAdd | faPwRelu | faPwExp2 | faPwModred | faBfpStatic | faBfpMeas | faZero | faModset | faCrt | vpmerge =>
    exact faIssue_memWf (fun _ _ ht => faWith_memWf ht) hs
  case faDrain => exact drainIssue_memWf hs
  case faDrainv => exact execFaDrainv_memWf hs
  case faAmax | faAmaxFinal => exact amaxRead_memWf hs
  case vproj | vprojThresh | vprojBwd => exact faIssue_memWf (fun _ _ ht => withVpr_memWf ht) hs
  case cp | cpTr | cpCvt | cpRed | cpRed2 => exact issueCopy_memWf hs
  case cpNest => exact issueCmd_memWf (fun _ _ _ ht => withRecord_memWf (nestRead_memWf ht)) hs
  case cpArm => exact execCpArm_memWf hs
  case cpWait => exact execCpWait_memWf hs
  case cpStat => exact execCpStat_memWf hs
  case collAr | collRs | collAg | collA2a | collBc | collTm => exact issueColl_memWf hs
  case iqDecl => exact execIqDecl_memWf hs
  case iqEmit => exact execIqEmit_memWf hs
  case iqClose => exact execIqClose_memWf hs
  case iqUndecl => exact execIqUndecl_memWf hs
  case iqTake => exact execIqTake_memWf hs
  case iqApply => exact execIqApply_memWf hs
  case iqProbe => exact execIqProbe_memWf hs
  case iqQwait => exact execIqQwait_memWf hs
  case iqDone => exact iqDispatch_memWf (fun _ _ ht => noteDone_memWf ht) hs
  case iqStat | iqFront => exact iqNamed_memWf (fun _ _ _ _ ht => writeOn_memWf ht) hs
  case nmSgdf | nmAxpy | nmScale | nmSumsq | nmCast | nmFill | nmScatadd => exact nmIssue_memWf hs
  case nmWait => exact execNmWait_memWf hs
  case nmWaitAll => exact execNmWaitAll_memWf hs
  case nmStat => exact execNmStat_memWf hs
  case stFlag | stFlag32 => exact flagStore_memWf hs
  case lkPref => exact execLkPref_memWf hs
  case lkFlush => exact lineForm_memWf (fun _ _ ht => cleanLine_memWf ht) hs
  case lkInval => exact lineForm_memWf (fun _ _ ht => recallLine_memWf ht) hs
  case pcount => exact execPcount_memWf hs
  case fenceAck => exact execFenceAck_memWf hs
  case lkStat => exact execLkStat_memWf hs
  case illegalInstruction | instructionFetchFault => exact raise_memWf hs
  case engineRecordDelivery => exact execEngineRecordDelivery_memWf hs
  case heldRecordWrite => exact execHeldRecordWrite_memWf hs
  case vectorStripIssue => exact execVectorStripIssue_memWf hs
  case forkedProgramTake => exact execForkedProgramTake_memWf hs
  case barrierCompletion => exact execBarrierCompletion_memWf hs
  case tagSweep => exact execTagSweep_memWf hs
  case armedCommandFire => exact execArmedCommandFire_memWf hs
  case tileDefine => exact execTileDefine_memWf hs
  case tileCmdRelease => exact execTileCmdRelease_memWf hs
  case tileCmdDiscard => exact execTileCmdDiscard_memWf hs
  case tileReady => exact execTileReady_memWf hs
  case tileDrainEnd => exact execTileDrainEnd_memWf hs
  case tileEmptyTimeout => exact execTileEmptyTimeout_memWf hs
  case swathBoundary => exact execSwathBoundary_memWf hs
  case governorWindow => exact Out.next_memWf (windowsRestart_memWf hs)
  case preemptRequest => exact execPreemptRequest_memWf hs
  case preemptLanding => exact execPreemptLanding_memWf hs
  case plimExpiry => exact execPlimExpiry_memWf hs
  case saveComplete => exact execSaveComplete_memWf hs
  case slotResume => exact execSlotResume_memWf hs
  case slotFree => exact execSlotFree_memWf hs
  case bindGo => exact execBindGo_memWf hs
  case bindStateReady => exact execBindStateReady_memWf hs
  case hostQueueTake => exact execHostQueueTake_memWf hs
  case dependenceObserve => exact execDependenceObserve_memWf hs
  case predicateRead => exact execPredicateRead_memWf hs
  case replacementMapInstall => exact execReplacementMapInstall_memWf hs
  case pageWalk => exact execPageWalk_memWf hs
  case cowCopy => exact execCowCopy_memWf hs
  case invcmd => exact execInvcmd_memWf hs
  case snapcmd => exact execSnapcmd_memWf hs
  case scrub => exact execScrub_memWf hs
  case uncorrectableError => exact execUncorrectableError_memWf hs
  case cfgRecovery => exact execCfgRecovery_memWf hs
  case cfgldPreemptHold => exact execCfgldPreemptHold_memWf hs
  case faContextExecute => exact execFaContextExecute_memWf hs
  case copyExecute => exact execCopyExecute_memWf hs
  case collReady => exact execCollReady_memWf hs
  case collStart => exact execCollStart_memWf hs
  case collAbort => exact execCollAbort_memWf hs
  case nmCommandStart => exact execNmCommandStart_memWf hs
  case nmCompletion => exact execNmCompletion_memWf hs
  case readShared | readExclusive | upgrade => exact dirRequest_memWf hs
  case writeBack => exact execWriteBack_memWf hs
  case pushWrite => exact execPushWrite_memWf hs
  case uncachedRead => exact execUncachedRead_memWf hs
  case remoteAtomic => exact execRemoteAtomic_memWf hs
  case invalidate => exact execInvalidate_memWf hs
  case invalidateAcknowledgement => exact execInvalidateAcknowledgement_memWf hs
  case dataResponse => exact execDataResponse_memWf hs
  case writeAcknowledgement => exact execWriteAcknowledgement_memWf hs
  case multicastRead => exact execMulticastRead_memWf hs
  case collectivePacket => exact execCollectivePacket_memWf hs
  case queueRecord => exact execQueueRecord_memWf hs
  case closingMarker => exact execClosingMarker_memWf hs
  case markerAcknowledgement => exact execMarkerAcknowledgement_memWf hs
  case hostForward => exact execHostForward_memWf hs
  case flagRelease => exact execFlagRelease_memWf hs
  case linkReplay => exact execLinkReplay_memWf hs
  case linkDown => exact execLinkDown_memWf hs
  case linkLoss => exact execLinkLoss_memWf hs
  case routerFlitDiscard => exact execRouterFlitDiscard_memWf hs
  case lreset => exact execLreset_memWf hs
  case hostWrite => exact execHostWrite_memWf hs
  case hostRead => exact execHostRead_memWf hs
  case hostAtomic => exact execHostAtomic_memWf hs
  case hostCompletionTimeout => exact answerHost_memWf hs
  case batchDelivery => exact execBatchDelivery_memWf hs
  case dcapRetry => exact execDcapRetry_memWf hs
  case powerRequestP => exact execPowerRequestP_memWf hs
  case powerRequestD1 => exact execPowerRequestD1_memWf hs
  case powerRequestD2 => exact execPowerRequestD2_memWf hs
  case d1Exit => exact execD1Exit_memWf hs
  case d2Exit => exact execD2Exit_memWf hs
  case thermalTrip => exact execThermalTrip_memWf hs
  case powerOn => exact execPowerOn_memWf hs
  case attestationRequest => exact execAttestationRequest_memWf hs
  case attestationReport => exact execAttestationReport_memWf hs
  case present => exact execPresent_memWf hs
  case debugTokenCheck => exact execDebugTokenCheck_memWf hs
  case close => exact execClose_memWf hs
  case ownerTransition => exact execOwnerTransition_memWf hs
  case registerWrite => exact execRegisterWrite_memWf hs
  case linkUp => exact execLinkUp_memWf hs
  case powerLoss => exact execPowerLoss_memWf hs
  case debugHalt => exact execDebugHalt_memWf hs
  case debugStep => exact execDebugStep_memWf hs
  case responseOverdue => exact execResponseOverdue_memWf hs
  case hostCompletion => exact execHostCompletion_memWf hs
  case manufacturingExit => exact execManufacturingExit_memWf hs
  case fusedMinimumVersionRaise => exact execFusedMinimumVersionRaise_memWf hs

/-! ## Turns -/

theorem runWord_memWf {w} (hs : s.memWf) : (runWord w s).memWf := by
  unfold runWord
  split
  · split <;> exact exec_memWf hs
  · exact exec_memWf hs

theorem runNext_memWf (hs : s.memWf) : (runNext s).memWf := by
  unfold runNext
  split
  · exact runWord_memWf (Res.memWf_of_ok (fetchWord_memWf hs) ‹_›)
  · exact exec_memWf (Res.memWf_of_exc (fetchWord_memWf hs) ‹_›)
  · exact accessLost_memWf (Res.memWf_of_lost (fetchWord_memWf hs) ‹_›)
  · exact Out.next_memWf (Res.memWf_of_wait (fetchWord_memWf hs) ‹_›)

theorem runSlot_memWf {k} (hs : s.memWf) : (runSlot k s).memWf := by
  unfold runSlot
  extract_lets s1 _
  have hs1 : s1.memWf := observeMap_memWf hs
  split
  · exact runWord_memWf (setSeq_memWf hs1)
  · exact runNext_memWf hs1

theorem traceRetire_memWf {k} {o : Out} (ho : o.memWf) : (traceRetire k s o).memWf := by
  unfold traceRetire
  split
  · split
    · exact Out.next_memWf (traceEntry_memWf (ho _ rfl))
    · exact ho
  · exact ho

theorem traceProgram_memWf {die} {o : Out} (ho : o.memWf) : (traceProgram die s o).memWf := by
  unfold traceProgram
  split
  · extract_lets
    split
    · exact Out.next_memWf (traceEntry_memWf (ho _ rfl))
    · exact ho
  · exact ho

theorem tookTurn_memWf {k} (hs : s.memWf) : (tookTurn k s).memWf :=
  hs

theorem readySlot_memWf {k} (hs : s.memWf) : (readySlot k s).memWf := by
  unfold readySlot
  exact memWf_of_mem_eq (setThr_memWf (tookTurn_memWf hs))

theorem kickQueue_memWf {k} (hs : s.memWf) : (kickQueue k s).memWf :=
  issueStrip_memWf hs

theorem stepHalted_memWf {k} (hs : s.memWf) : (stepHalted k s).memWf := by
  unfold stepHalted
  extract_lets _ s1
  have hs1 : s1.memWf := readySlot_memWf (setThr_memWf hs)
  split
  · have ht := Out.memWf_of_next (traceRetire_memWf (runSlot_memWf hs1)) ‹_›
    exact Out.next_memWf (memWf_ite (setThr_memWf ht) ht)
  · exact traceRetire_memWf (runSlot_memWf hs1)

theorem beforeIssue_memWf {k} (hs : s.memWf) {t} (e : beforeIssue k s = some t) : t.memWf := by
  unfold beforeIssue at e
  split at e
  · split at e
    · nomatch e
    · cases e
      exact takeOwed_memWf hs
  · split at e
    · cases e
      exact memWf_ite (landNow_memWf hs) hs
    · split at e
      · cases e
        exact memWf_ite (deliver_memWf hs) hs
      · nomatch e

theorem runThread_memWf {k} (hs : s.memWf) : (runThread k s).memWf := by
  unfold runThread
  split
  · exact Out.next_memWf hs
  · split
    · split
      · exact stepHalted_memWf hs
      · exact Out.next_memWf hs
    · split
      · exact Out.next_memWf (landNow_memWf hs)
      · extract_lets s1
        have hs1 : s1.memWf := kickQueue_memWf hs
        split
        · exact Out.next_memWf hs1
        · split
          · exact Out.next_memWf (beforeIssue_memWf hs1 ‹_›)
          · split
            · exact traceRetire_memWf (runSlot_memWf (readySlot_memWf hs1))
            · exact Out.next_memWf (tookTurn_memWf hs1)

theorem unitStepped_memWf {u} (hs : s.memWf) : (unitStepped u s).memWf :=
  hs

theorem runAgent_memWf {a} (hs : s.memWf) : (runAgent a s).memWf := by
  unfold runAgent
  split
  · exact runThread_memWf hs
  · split
    · exact traceProgram_memWf (runNext_memWf (memWf_of_mem_eq (unitStepped_memWf hs)))
    · exact Out.next_memWf hs
  · split
    · exact traceProgram_memWf (runNext_memWf (memWf_of_mem_eq (unitStepped_memWf hs)))
    · exact Out.next_memWf hs

theorem nextTurn_memWf (hs : s.memWf) : (nextTurn s).memWf := by
  unfold nextTurn
  split
  · exact Out.next_memWf hs
  · exact runAgent_memWf hs

theorem firstOf_memWf {l : List (State → Out)} {t} (hl : ∀ f ∈ l, (f s).memWf) (e : firstOf s l = some t) : t.memWf := by
  induction l with
  | nil => nomatch e
  | cons f l ih =>
    unfold firstOf at e
    have hrest := ih (fun g hg => hl g (List.mem_cons_of_mem _ hg))
    split at e
    · split at e
      · exact hrest e
      · cases e
        exact hl f List.mem_cons_self _ ‹_›
    · exact hrest e

theorem ctxTurn_memWf {c} (hs : s.memWf) : (ctxTurn c s).memWf := by
  unfold ctxTurn
  split
  · exact Out.next_memWf hs
  · split
    · split
      · exact Out.next_memWf hs
      · exact Out.next_memWf (unitStepped_memWf (setCluster_memWf (Out.memWf_of_next (execFaContextExecute_memWf hs) ‹_›)))
    · exact execFaContextExecute_memWf hs

theorem unitRun_memWf {u} {f : State → Out} (hf : ∀ s, s.memWf → (f s).memWf) (hs : s.memWf) : (unitRun u f s).memWf := by
  unfold unitRun
  split
  · exact Out.next_memWf hs
  · split
    · exact Out.next_memWf (memWf_ite hs (unitStepped_memWf (Out.memWf_of_next (hf _ hs) ‹_›)))
    · exact hf _ hs

/-- Every run of the list keeps memory in its canonical form. -/
def RunsKeepMemWf (l : List (State → Out)) : Prop := ∀ f ∈ l, ∀ s : State, s.memWf → (f s).memWf

namespace RunsKeepMemWf

theorem nil : RunsKeepMemWf [] := nofun

theorem cons {f l} (hf : ∀ s : State, s.memWf → (f s).memWf) (hl : RunsKeepMemWf l) : RunsKeepMemWf (f :: l) :=
  List.forall_mem_cons.mpr ⟨hf, hl⟩

theorem single {f} (hf : ∀ s : State, s.memWf → (f s).memWf) : RunsKeepMemWf [f] := cons hf nil

theorem append_iff {l m} : RunsKeepMemWf (l ++ m) ↔ RunsKeepMemWf l ∧ RunsKeepMemWf m :=
  List.forall_mem_append

theorem append {l m} (hl : RunsKeepMemWf l) (hm : RunsKeepMemWf m) : RunsKeepMemWf (l ++ m) :=
  append_iff.mpr ⟨hl, hm⟩

theorem map {α : Type} {l : List α} {g : α → State → Out} (hg : ∀ a, ∀ s : State, s.memWf → (g a s).memWf) :
    RunsKeepMemWf (l.map g) :=
  List.forall_mem_map.mpr fun a _ => hg a

theorem flatMap {α : Type} {l : List α} {g : α → List (State → Out)} (hg : ∀ a, RunsKeepMemWf (g a)) :
    RunsKeepMemWf (l.flatMap g) := by
  intro f hf
  obtain ⟨a, _, ha⟩ := List.mem_flatMap.mp hf
  exact hg a f ha

theorem ite {c : Prop} [Decidable c] {l m} (hl : RunsKeepMemWf l) (hm : RunsKeepMemWf m) :
    RunsKeepMemWf (if c then l else m) := by
  split <;> assumption

theorem unitRun {u l} (hl : RunsKeepMemWf l) : RunsKeepMemWf (l.map (unitRun u)) :=
  List.forall_mem_map.mpr fun f hf _ hs => unitRun_memWf (hl f hf) hs

end RunsKeepMemWf

theorem hostQueueRuns_memWf : RunsKeepMemWf (hostQueueRuns s) :=
  .map fun _ _ hs => execHostQueueTake_memWf hs

theorem resetRuns_memWf : RunsKeepMemWf (resetRuns s) :=
  .map fun _ _ hs => Out.next_memWf (dueReset_memWf hs)

theorem dueRuns_memWf : RunsKeepMemWf (dueRuns s) := by
  unfold dueRuns
  simp only [RunsKeepMemWf.append_iff, and_assoc]
  refine ⟨?_, ?_, ?_, ?_, ?_, ?_, ?_, hostQueueRuns_memWf, ?_, ?_, ?_, ?_, ?_, resetRuns_memWf, ?_, ?_, ?_⟩
  · exact .single fun _ hs => Out.next_memWf (policyDue_memWf hs)
  · exact .map fun _ _ hs => Out.next_memWf (missFill_memWf hs)
  · exact .map fun _ _ hs => execCowCopy_memWf hs
  · exact .map fun _ _ hs => Out.next_memWf (invalidateEnd_memWf hs)
  · exact .map fun _ _ hs => Out.next_memWf (snapGo_memWf hs)
  · exact .single fun _ hs => Out.next_memWf (waitingNow_memWf hs)
  · refine .flatMap fun _ => .append (.append ?_ ?_) ?_
    · exact .ite (.single fun _ hs => execDependenceObserve_memWf hs) (.map fun _ _ hs => execDependenceObserve_memWf hs)
    · exact .ite (.single fun _ hs => execPredicateRead_memWf hs) .nil
    · exact .ite (.single fun _ hs => Out.next_memWf (becomeReady_memWf hs)) .nil
  · exact .flatMap fun _ => .ite .nil (.single fun _ hs => execHeldRecordWrite_memWf hs)
  · refine .flatMap fun _ => ?_
    split
    · exact .single fun _ hs => execBindStateReady_memWf hs
    · exact .single fun _ hs => execSlotFree_memWf hs
    · exact .nil
  · exact .flatMap fun _ => .cons (fun _ hs => execTileReady_memWf hs) (.single fun _ hs => execTileDrainEnd_memWf hs)
  · refine .flatMap fun _ => ?_
    split
    · exact .single fun _ hs => execTileEmptyTimeout_memWf hs
    · exact .nil
  · exact .map fun _ _ hs => execTagSweep_memWf hs
  · exact .single fun _ hs => Out.next_memWf (frontRetry_memWf hs)
  · exact .flatMap fun _ => .map fun _ _ hs => execArmedCommandFire_memWf hs
  · refine .flatMap fun _ => .append (.map fun _ _ hs => execArmedCommandFire_memWf hs) ?_
    intro f hf
    obtain ⟨l, _, hl⟩ := List.mem_filterMap.mp hf
    obtain ⟨cause, _, rfl⟩ := Option.map_eq_some_iff.mp hl
    exact fun _ hs => execCollAbort_memWf hs

theorem engineRuns_memWf : RunsKeepMemWf (engineRuns s) := by
  unfold engineRuns
  simp only [RunsKeepMemWf.append_iff, and_assoc]
  refine ⟨?_, ?_, ?_, ?_, ?_, ?_, ?_, ?_, ?_⟩
  · exact .single fun _ hs => Out.next_memWf (replayEnd_memWf hs)
  · exact .flatMap fun _ => .cons (fun _ hs => execAttestationReport_memWf hs) (.single fun _ hs => execDebugTokenCheck_memWf hs)
  · exact .flatMap fun _ => .cons (fun _ hs => execWriteAcknowledgement_memWf hs)
      (.cons (fun _ hs => execFlagRelease_memWf hs) (.single fun _ hs => execPushWrite_memWf hs))
  · refine .flatMap fun _ => .ite .nil (.unitRun ?_)
    exact .cons (fun _ hs => execNmCompletion_memWf hs) (.single fun _ hs => execNmCommandStart_memWf hs)
  · exact .map fun _ _ hs => execForkedProgramTake_memWf hs
  · refine .flatMap fun _ => .ite .nil (.unitRun (.append ?_ (.flatMap fun _ => .append ?_ ?_)))
    · exact .ite .nil (.single fun _ hs => execCopyExecute_memWf hs)
    · exact .map fun _ _ hs => execCollReady_memWf hs
    · exact .cons (fun _ hs => execCollStart_memWf hs) (.single fun _ hs => execCollectivePacket_memWf hs)
  · exact .map fun _ _ hs => ctxTurn_memWf hs
  · exact .flatMap fun _ => .ite .nil (.single fun _ hs => execBatchDelivery_memWf hs)
  · exact .flatMap fun _ => .cons (fun _ hs => execMarkerAcknowledgement_memWf hs)
      (.cons (fun _ hs => execClosingMarker_memWf hs) (.single fun _ hs => execQueueRecord_memWf hs))

theorem ownStep_memWf (hs : s.memWf) : (ownStep s).memWf := by
  unfold ownStep
  split
  · exact Out.next_memWf (firstOf_memWf (fun f hf => dueRuns_memWf f hf s hs) ‹_›)
  · split
    · split
      · exact Out.next_memWf (memWf_of_mem_eq (firstOf_memWf (fun f hf => engineRuns_memWf f hf s hs) ‹_›))
      · exact nextTurn_memWf (memWf_of_mem_eq hs)
    · exact nextTurn_memWf (memWf_of_mem_eq hs)

/-! ## The step -/

theorem step_memWf (hs : s.memWf) : Out.memWf (step s) := by
  unfold step
  split
  · exact exec_memWf hs
  · exact ownStep_memWf hs

end Sys2Proof.Machine

namespace Sys2Proof
open Machine

/-- Settles O59: `step` either runs the first instruction of the agenda (`exec_memWf`) or takes the model's own turn
(`ownStep_memWf`), and both keep memory in its canonical form. -/
theorem memoryStaysCanonical : Obligations.MemoryStaysCanonical := by
  intro s t hs h
  exact step_memWf hs t h

end Sys2Proof
end

section
/-!
PROOFS. What the reset state reads (O60): the place of a control register in the address map, and the reset value of its bytes.
-/

namespace Sys2Proof.Machine

/-! ## The windows of a die in the address map (R106) -/

theorem localOf_dieBase {dev die o : Nat} (hdie : die < 24) (ho : o < 0x40000000) :
    localOf (dieBase (dieKey dev die) + o) = 0xF0000000000 + die * 0x40000000 + o := by
  unfold localOf dieBase dieKey
  omega

theorem localOf_window {dev die o : Nat} (hdie : die < 24) (ho : o < 0x10000000) :
    localOf (windowBase (dieKey dev die) + o) = 0xF0000000000 + die * 0x40000000 + (0x20000000 + o) := by
  rw [windowBase, Nat.add_assoc, localOf_dieBase hdie (by omega)]

theorem placeOf_window {dev die o : Nat} (hdie : die < 24) (ho : o < 0x10000000) :
    placeOf (windowBase (dieKey dev die) + o) = .dieWindow die := by
  have hd : (0xF0000000000 + die * 0x40000000 + (0x20000000 + o) - 0xF0000000000) / 0x40000000 = die := by omega
  simp only [placeOf, localOf_window hdie ho, hd]
  rw [if_neg (by omega), if_neg (by omega), if_neg (by omega), if_neg (by omega), if_neg (by omega), if_neg (by omega),
    if_neg (by omega), if_neg (by omega), if_neg (by omega), if_pos (by omega)]

theorem placeOf_clusterWindow {dev die c o : Nat} (hdie : die < 24) (hc : c < 16) (ho : o < 0x400000) :
    placeOf (clusterWindowBase (dieKey dev die * 16 + c) + o) = .clusterWindow die c := by
  have hb : clusterWindowBase (dieKey dev die * 16 + c) + o = dieBase (dieKey dev die) + (c * 0x800000 + 0x400000 + o) := by
    rw [clusterWindowBase, scratchBase, show (dieKey dev die * 16 + c) / 16 = dieKey dev die by omega]
    omega
  have hl := localOf_dieBase (dev := dev) hdie (o := c * 0x800000 + 0x400000 + o) (by omega)
  have hd : (0xF0000000000 + die * 0x40000000 + (c * 0x800000 + 0x400000 + o) - 0xF0000000000) / 0x40000000 = die := by omega
  have hk : (0xF0000000000 + die * 0x40000000 + (c * 0x800000 + 0x400000 + o) - 0xF0000000000) % 0x40000000 / 0x800000 = c := by omega
  simp only [placeOf, hb, hl, hd, hk]
  rw [if_neg (by omega), if_neg (by omega), if_neg (by omega), if_neg (by omega), if_neg (by omega), if_pos (by omega),
    if_neg (by omega)]

/-! ## Reset values -/

theorem resetByte_of_dieWindow {pa k : Nat} (h : placeOf pa = .dieWindow k) :
    resetByte pa =
      let o := localOf pa % 0x10000000
      if k = 0 ∧ ((0xA00020 ≤ o ∧ o < 0xA00040) ∨ (0xB00020 ≤ o ∧ o < 0xB00040)) then keyResetByte (devOf pa) o
      else windowResetByte o := by
  rw [resetByte, h]

theorem resetByte_of_cluster {pa k c : Nat} (h : placeOf pa = .clusterWindow k c) : resetByte pa = 0 := by
  rw [resetByte, h]

/-- Below the security block a die window reads its registers' reset values. -/
theorem resetByte_window {dev die o : Nat} (hdie : die < 24) (ho : o < 0xA00000) :
    resetByte (windowBase (dieKey dev die) + o) = windowResetByte o := by
  have hm : localOf (windowBase (dieKey dev die) + o) % 0x10000000 = o := by
    rw [localOf_window hdie (by omega)]; omega
  rw [resetByte_of_dieWindow (placeOf_window hdie (by omega)), hm]
  exact if_neg (by omega)

theorem resetByte_clusterWindow {dev die c o : Nat} (hdie : die < 24) (hc : c < 16) (ho : o < 0x400000) :
    resetByte (clusterWindowBase (dieKey dev die * 16 + c) + o) = 0 :=
  resetByte_of_cluster (placeOf_clusterWindow hdie hc ho)

/-- A read of bytes each of which is the byte of a number at its place. -/
theorem readMem_eq_of_bytes {s : State} {a n v : Nat} (h : ∀ i, i < n → readByte s (a + i) = byteOf v i) :
    readMem s a n = v % 256 ^ n := by
  rw [readMem, ← cellsRead_write_self s.mem a n v]
  exact cellsRead_congr _ _ _ _ fun i hi => by rw [cellGet_write_in _ _ _ _ _ hi]; exact h i hi

/-- After reset a register of a die window reads the number whose bytes are the reset values. -/
theorem readMem_reset_window {dev die o n v : Nat} (hdie : die < 24) (ho : o + n ≤ 0xA00000)
    (h : ∀ i, i < n → windowResetByte (o + i) = byteOf v i) :
    readMem State.reset (windowBase (dieKey dev die) + o) n = v % 256 ^ n :=
  readMem_eq_of_bytes fun i hi => by
    rw [Nat.add_assoc, ← h i hi, ← resetByte_window (dev := dev) hdie (by omega)]
    rfl

theorem readMem_reset_clusterWindow {dev die c o n : Nat} (hdie : die < 24) (hc : c < 16) (ho : o + n ≤ 0x400000) :
    readMem State.reset (clusterWindowBase (dieKey dev die * 16 + c) + o) n = 0 := by
  rw [readMem_eq_of_bytes (v := 0), Nat.zero_mod]
  intro i hi
  rw [Nat.add_assoc, byteOf, Nat.zero_div]
  exact resetByte_clusterWindow hdie hc (by omega)

/-- R202: every budget record reads no limit and WC = 1. -/
theorem readMem_reset_budget {dev die c : Nat} (hdie : die < 24) (hc : c < 16) :
    readMem State.reset (windowBase (dieKey dev die) + 0x10000 + 16 * c) 16 = 2 ^ 101 - 1 := by
  rw [Nat.add_assoc]
  refine readMem_reset_window (v := 0x1FFFFFFFFFFFFFFFFFFFFFFFFF) hdie (by omega) fun i hi => ?_
  rw [windowResetByte, if_neg (by omega), if_pos (by omega), show (0x10000 + 16 * c + i) % 16 = i by omega]

/-- R325: every selection-table entry reads 3. -/
theorem readMem_reset_selection {dev die e : Nat} (hdie : die < 24) (he : e < 640) :
    readMem State.reset (windowBase (dieKey dev die) + 0x400000 + e) 1 = 3 := by
  rw [Nat.add_assoc]
  refine readMem_reset_window (v := 3) hdie (by omega) fun i hi => ?_
  obtain rfl : i = 0 := by omega
  rw [windowResetByte, if_neg (by omega), if_neg (by omega), if_pos (by omega)]
  rfl

/-- R467: after reset every device is in state P0. -/
theorem powerState_reset (dev : Nat) : powerState State.reset dev = 0 := by
  have h : readMem State.reset (windowBase (dieKey dev 0) + 0) 1 = 0 % 256 ^ 1 :=
    readMem_reset_window (by omega) (by omega) (by decide)
  rw [Nat.add_zero, dieKey, Nat.add_zero] at h
  rw [powerState, h, Nat.zero_mod, Nat.zero_mod]

end Sys2Proof.Machine

namespace Sys2Proof
open Machine

/-- Settles O60: the tables of the reset state are empty, so every unit reads as its default; a window register reads the bytes
that `windowResetByte` gives it. -/
theorem resetState : Obligations.ResetState := by
  refine ⟨memory_nil_wf, rfl, rfl, fun _ => rfl, fun _ => ⟨rfl, rfl, rfl⟩, fun _ => ⟨rfl, rfl⟩, fun dev die _ hdie => ?_⟩
  refine ⟨powerState_reset dev, ?plim, fun _ he => readMem_reset_selection hdie he, ?timeout, ?domain,
    fun _ hc => readMem_reset_budget hdie hc, fun c j hc hj => ?tile⟩
  case plim => exact readMem_reset_window (v := 8192) hdie (by omega) (by decide)
  case timeout => exact readMem_reset_window (v := 0x100000) hdie (by omega) (by decide)
  case domain => exact readMem_reset_window (v := 0xFFFFFFFF) hdie (by omega) (by decide)
  case tile =>
    rw [Nat.add_assoc]
    exact readMem_reset_clusterWindow hdie hc (by omega)

end Sys2Proof
end

section
/-!
PROOFS. Tiles, swaths and windows (O49): the laws of bit fields of a number, what each command leaves in a tile's entry, and what a
swath boundary leaves of the units.
-/

namespace Sys2Proof.Machine

/-! ## Bit fields of a number -/

theorem testBit_bitsOf (v hi lo i : Nat) : (bitsOf v hi lo).testBit i = (decide (i < hi + 1 - lo) && v.testBit (lo + i)) := by
  rw [bitsOf, Nat.testBit_mod_two_pow, Nat.testBit_div_two_pow, Nat.add_comm i lo]

/-- A number as what lies above a field, the field, and what lies below it. -/
theorem setBits_eq {v hi lo : Nat} (x : Nat) (h : lo ≤ hi) :
    setBits v hi lo x = 2 ^ lo * (2 ^ (hi + 1 - lo) * (v / 2 ^ (hi + 1)) + x % 2 ^ (hi + 1 - lo)) + v % 2 ^ lo := by
  have hsplit : v = 2 ^ lo * (2 ^ (hi + 1 - lo) * (v / 2 ^ (hi + 1)) + bitsOf v hi lo) + v % 2 ^ lo := by
    have hdiv : v / 2 ^ (hi + 1) = v / 2 ^ lo / 2 ^ (hi + 1 - lo) := by
      rw [Nat.div_div_eq_div_mul, ← Nat.pow_add, Nat.add_sub_cancel' (by omega)]
    rw [hdiv, bitsOf, Nat.div_add_mod, Nat.div_add_mod]
  rw [setBits]
  rw [Nat.mul_add, Nat.mul_comm _ (bitsOf v hi lo)] at hsplit
  rw [Nat.mul_add, Nat.mul_comm _ (x % _)]
  omega

theorem testBit_setBits {v hi lo x : Nat} (h : lo ≤ hi) (i : Nat) :
    (setBits v hi lo x).testBit i = if lo ≤ i ∧ i ≤ hi then x.testBit (i - lo) else v.testBit i := by
  rw [setBits_eq x h, Nat.testBit_two_pow_mul_add _ (Nat.mod_lt _ (Nat.two_pow_pos _)),
    Nat.testBit_two_pow_mul_add _ (Nat.mod_lt _ (Nat.two_pow_pos _)), Nat.testBit_mod_two_pow, Nat.testBit_mod_two_pow,
    Nat.testBit_div_two_pow]
  by_cases hlo : i < lo
  · rw [if_pos hlo, if_neg (by omega), decide_eq_true hlo, Bool.true_and]
  · rw [if_neg hlo]
    by_cases hhi : i ≤ hi
    · rw [if_pos (by omega), if_pos (by omega), decide_eq_true (by omega), Bool.true_and]
    · rw [if_neg (by omega), if_neg (by omega), show i - lo - (hi + 1 - lo) + (hi + 1) = i by omega]

theorem bitsOf_setBits_self {v hi lo x : Nat} (h : lo ≤ hi) : bitsOf (setBits v hi lo x) hi lo = x % 2 ^ (hi + 1 - lo) := by
  refine Nat.eq_of_testBit_eq fun i => ?_
  rw [testBit_bitsOf, testBit_setBits h, Nat.testBit_mod_two_pow]
  by_cases hi' : i < hi + 1 - lo
  · rw [if_pos (by omega), Nat.add_sub_cancel_left]
  · rw [decide_eq_false hi', Bool.false_and, Bool.false_and]

/-- A field that another does not meet is left alone. -/
theorem bitsOf_setBits_apart {v hi lo hi' lo' x : Nat} (h : lo ≤ hi) (ha : hi' < lo ∨ hi < lo') :
    bitsOf (setBits v hi lo x) hi' lo' = bitsOf v hi' lo' := by
  refine Nat.eq_of_testBit_eq fun i => ?_
  rw [testBit_bitsOf, testBit_bitsOf, testBit_setBits h]
  by_cases hi'' : i < hi' + 1 - lo'
  · rw [if_neg (by omega)]
  · rw [decide_eq_false hi'', Bool.false_and, Bool.false_and]

theorem setBits_lt {v hi lo x n : Nat} (h : lo ≤ hi) (hn : hi < n) (hv : v < 2 ^ n) : setBits v hi lo x < 2 ^ n := by
  refine Nat.lt_pow_two_of_testBit _ fun i hi' => ?_
  rw [testBit_setBits h, if_neg (by omega)]
  exact Nat.testBit_lt_two_pow (lt_of_lt_of_le hv (Nat.pow_le_pow_right (by omega) hi'))

/-! ## Entries of the tile table (R284..R287) -/

theorem mod_two_pow_64_eq_bitsOf (v : Nat) : v % 2 ^ 64 = bitsOf v 63 0 := by
  rw [bitsOf, Nat.pow_zero, Nat.div_one]

/-- The 32 bytes of an entry as bits. -/
theorem two_pow_256 : 2 ^ 256 = 256 ^ 32 := by norm_num

theorem tileEntry_lt (s : State) (ck n : Nat) : tileEntry s ck n < 2 ^ 256 := by
  rw [two_pow_256]
  exact cellsRead_lt _ _ _

theorem tileReject_lt {e : Nat} (he : e < 2 ^ 256) : tileReject e < 2 ^ 256 := by
  rw [tileReject]
  exact setBits_lt (by omega) (by omega) he

theorem writeMem_rest (s : State) (a n v : Nat) : { writeMem s a n v with mem := s.mem } = s := rfl

/-- R284: a write of a tile's entry changes that entry and nothing else. -/
theorem tileChanged_setTileEntry {ck n v : Nat} (s : State) (hv : v < 2 ^ 256) :
    TileChanged ck n v s (setTileEntry ck n v s) := by
  rw [two_pow_256] at hv
  exact ⟨(readMem_writeMem_self _ _ _ _).trans (Nat.mod_eq_of_lt hv), writeMem_rest _ _ _ _, fun _ ha => readByte_writeMem_out _ _ _ _ _ ha⟩

/-- A field above bit 63 leaves the word that defines the tile alone. -/
theorem mod_two_pow_64_setBits {v hi lo x : Nat} (h : lo ≤ hi) (hlo : 64 ≤ lo) : setBits v hi lo x % 2 ^ 64 = v % 2 ^ 64 := by
  rw [mod_two_pow_64_eq_bitsOf, mod_two_pow_64_eq_bitsOf, bitsOf_setBits_apart h (by omega)]

/-- R285: the entry of an empty tile that a legal word defines. -/
theorem tileDefineEntry_legal {e w : Nat} (hs : tileState e = 0) (hw : bitsOf w 31 22 = 0 ∧ bitsOf w 63 55 = 0
    ∧ tileBase w % 32 = 0 ∧ tileSize w % 32 = 0 ∧ tileBase w + tileSize w ≤ 0x400000) (he : e < 2 ^ 256) :
    tileDefineEntry e w < 2 ^ 256 ∧ tileDefineEntry e w % 2 ^ 64 = w % 2 ^ 64 ∧ tileState (tileDefineEntry e w) = 0
      ∧ tileFilled (tileDefineEntry e w) = 0 := by
  rw [tileDefineEntry, if_pos ⟨hs, hw⟩]
  refine ⟨?_, ?_, ?_, ?_⟩
  · exact setBits_lt (by omega) (by omega) (setBits_lt (by omega) (by omega) (setBits_lt (by omega) (by omega) he))
  · rw [mod_two_pow_64_setBits (by omega) (by omega), mod_two_pow_64_setBits (by omega) (by omega), mod_two_pow_64_eq_bitsOf,
      bitsOf_setBits_self (by omega)]
  · rw [tileState, bitsOf_setBits_apart (by omega) (by omega), bitsOf_setBits_apart (by omega) (by omega),
      bitsOf_setBits_apart (by omega) (by omega)]
    exact hs
  · exact bitsOf_setBits_self (by omega)

theorem tileDefineEntry_of_not_empty {e w : Nat} (hs : tileState e ≠ 0) : tileDefineEntry e w = tileReject e :=
  if_neg fun h => hs h.1

/-- The entry with a state in its STATE field, which touches nothing of what the definition and FILLED say. -/
theorem setBits_state {e st : Nat} (hst : st < 4) (he : e < 2 ^ 256) :
    setBits e 65 64 st < 2 ^ 256 ∧ tileState (setBits e 65 64 st) = st ∧ setBits e 65 64 st % 2 ^ 64 = e % 2 ^ 64
      ∧ tileFilled (setBits e 65 64 st) = tileFilled e :=
  ⟨setBits_lt (by omega) (by omega) he, (bitsOf_setBits_self (by omega)).trans (Nat.mod_eq_of_lt hst),
    mod_two_pow_64_setBits (by omega) (by omega), bitsOf_setBits_apart (by omega) (by omega)⟩

/-- R286: the entry of a tile that is discarded. -/
theorem tileDiscardEntry_ready {e : Nat} (hs : tileState e = 2) (he : e < 2 ^ 256) :
    tileDiscardEntry e < 2 ^ 256 ∧ tileState (tileDiscardEntry e) = 0 ∧ tileFilled (tileDiscardEntry e) = 0
      ∧ tileDiscardEntry e % 2 ^ 64 = e % 2 ^ 64 := by
  obtain ⟨hlt, hst, hdef, -⟩ := setBits_state (st := 0) (by omega) he
  rw [tileDiscardEntry, if_pos hs]
  refine ⟨setBits_lt (by omega) (by omega) (setBits_lt (by omega) (by omega) hlt), ?_, ?_, ?_⟩
  · rw [tileState, bitsOf_setBits_apart (by omega) (by omega), bitsOf_setBits_apart (by omega) (by omega)]
    exact hst
  · rw [tileFilled, bitsOf_setBits_apart (by omega) (by omega), bitsOf_setBits_self (by omega), Nat.zero_mod]
  · rw [mod_two_pow_64_setBits (by omega) (by omega), mod_two_pow_64_setBits (by omega) (by omega), hdef]

/-- R287: the entry of a tile whose last read has finished. -/
theorem tileDrainedEntry_draining {e : Nat} (hs : tileState e = 3) (he : e < 2 ^ 256) :
    tileDrainedEntry e < 2 ^ 256 ∧ tileState (tileDrainedEntry e) = 0 ∧ tileFilled (tileDrainedEntry e) = 0 := by
  obtain ⟨hlt, hst, -⟩ := setBits_state (st := 0) (by omega) he
  rw [tileDrainedEntry, if_pos hs]
  refine ⟨setBits_lt (by omega) (by omega) hlt, ?_, bitsOf_setBits_self (by omega)⟩
  rw [tileState, bitsOf_setBits_apart (by omega) (by omega)]
  exact hst

/-! ## The steps about a tile -/

section Tile

variable {s : State} {ck n : Nat} (h : isTile ck n = true)
include h

theorem exec_tileDefine (w : BitVec 64) :
    exec (.tileDefine ck n w) s = .next (setTileEntry ck n (tileDefineEntry (tileEntry s ck n) w.toNat) s) :=
  if_pos h

theorem exec_tileCmdRelease : exec (.tileCmdRelease ck n) s = .next (setTileEntry ck n (tileReleaseEntry (tileEntry s ck n)) s) :=
  if_pos h

theorem exec_tileCmdDiscard : exec (.tileCmdDiscard ck n) s = .next (setTileEntry ck n (tileDiscardEntry (tileEntry s ck n)) s) :=
  if_pos h

/-- R287: a filling tile with all its bytes accepted, of which no copy is in progress and which no stopped writer left short. -/
theorem exec_tileReady (hs : tileState (tileEntry s ck n) = 1) (hf : tileFilled (tileEntry s ck n) = tileSize (tileEntry s ck n))
    (hw : tileWriting s ck n = false) (hu : n ∉ (cluster s ck).unfilled) :
    exec (.tileReady ck n) s = .next (setTileEntry ck n (setBits (tileEntry s ck n) 65 64 2) s) := by
  show execTileReady ck n s = _
  simp [execTileReady, tileReadyEntry, h, hs, hf, hw, hu]

theorem exec_tileDrainEnd (hs : tileState (tileEntry s ck n) = 3) (hr : tileReading s ck n = false) :
    exec (.tileDrainEnd ck n) s = .next (setTileEntry ck n (tileDrainedEntry (tileEntry s ck n)) s) := by
  show execTileDrainEnd ck n s = _
  simp [execTileDrainEnd, h, hs, hr]

end Tile

/-- R30: a read refused for two swaths is given up where its tile is still empty, and tried again where not. -/
theorem exec_tileEmptyTimeout {s : State} {c n : Nat} (h : (ctx s c).tileWait = some (n, 2)) :
    exec (.tileEmptyTimeout c) s = .next (setCtx s c { ctx s c with
      tileWait := if tileState (tileEntry s (c / 2) n) = 0 then some (n, 3) else none }) := by
  show execTileEmptyTimeout c s = _
  by_cases he : tileState (tileEntry s (c / 2) n) = 0 <;> simp [execTileEmptyTimeout, h, clusterOfCore, he]

/-! ## Swaths and windows (R37, R39) -/

/-- An entry of a table of which every entry has been changed by a function that keeps the default. -/
theorem tabGet_map {α : Type} (d : α) (f : α → α) (hd : f d = d) (t : Tab α) (k : Nat) :
    tabGet d (t.map (fun p => (p.1, f p.2))) k = f (tabGet d t k) := by
  induction t with
  | nil => exact hd.symm
  | cons p t ih =>
    simp only [List.map_cons, tabGet, ih]
    split <;> rfl

/-- What a swath boundary says of the units: the counter, the threads and the clusters. -/
def swathUnits (s : State) : BitVec 64 × Tab Thread × Tab Cluster := (s.swath, s.threads, s.clusters)

/-- A walk of steps each of which keeps an observation keeps it. -/
theorem foldl_keeps {α β : Type} (g : State → β) {f : State → α → State} (hf : ∀ s a, g (f s a) = g s) (l : List α) (s : State) :
    g (l.foldl f s) = g s :=
  List.foldlRecOn (motive := fun t => g t = g s) l f rfl (fun t ht a _ => (hf t a).trans ht)

theorem writeMem_swathUnits (s : State) (a n v : Nat) : swathUnits (writeMem s a n v) = swathUnits s := rfl

theorem setPst_swathUnits (d n : Nat) (s : State) : swathUnits (setPst d n s) = swathUnits s :=
  foldl_keeps _ (fun _ _ => writeMem_swathUnits _ _ _ _) _ _

theorem pstateBoundary_swathUnits (s : State) : swathUnits (pstateBoundary s) = swathUnits s := by
  refine foldl_keeps _ (fun t p => ?_) _ _
  dsimp only
  split
  · rfl
  · exact setPst_swathUnits _ _ _

theorem iqSwath_swathUnits (s : State) : swathUnits (iqSwath s) = swathUnits s := by
  refine foldl_keeps _ (fun t p => ?_) _ _
  split <;> rfl

/-- What a boundary does to the counters of queues, contexts, dispatch and power leaves the units alone. -/
theorem swathCounters_swathUnits (s : State) (l : List Nat) :
    swathUnits (pstateBoundary (l.foldl (fun s d => lookAll d s) (countTileWaits (iqSwath s)))) = swathUnits s := by
  rw [pstateBoundary_swathUnits, foldl_keeps swathUnits (f := fun s d => lookAll d s) (fun _ _ => rfl)]
  exact iqSwath_swathUnits s

/-- R37, R205: what a boundary leaves of a thread. -/
def swathThread (t : Thread) : Thread :=
  if t.st = .running then { t with credit := 16384 * t.share, spent := 0 } else { t with spent := 0 }

/-- R37, R39: what a boundary leaves of a cluster. -/
def swathCluster (c : Cluster) : Cluster := { c with issued := 0, fai := [] }

theorem exec_swathBoundary (s : State) : ∃ t, exec .swathBoundary s = .next t ∧ swathUnits t =
    (s.swath + 1, s.threads.map (fun p => (p.1, swathThread p.2)), s.clusters.map (fun p => (p.1, swathCluster p.2))) := by
  refine ⟨_, rfl, (swathCounters_swathUnits _ _).trans ?_⟩
  refine Prod.ext rfl (Prod.ext (List.map_congr_left fun p _ => ?_) rfl)
  dsimp only [swathThread]
  split <;> rfl

end Sys2Proof.Machine

namespace Sys2Proof
open Machine

/-- Settles O49. Each step about a tile writes its entry (`exec_tileDefine` and its like), and the laws of bit fields say what the
entry then holds; a window and a swath boundary map the tables of clusters and threads. -/
theorem tileAndWindowEvents : Obligations.TileAndWindowEvents := by
  refine ⟨fun s ck n h => ?_, fun s c n h => ?timeout, fun s => ?window, fun s => ?swath⟩
  · have he := tileEntry_lt s ck n
    have hrej := tileChanged_setTileEntry (ck := ck) (n := n) s (tileReject_lt he)
    refine ⟨fun w hs h1 h2 h3 h4 h5 => ?define, fun w hs => ?_, fun hs => ?release, fun hs => ?_, fun hs => ?discard,
      fun hs => ?_, fun hs hf hw hu => ?ready, fun hs hr => ?drained⟩
    case define =>
      have hw : bitsOf w.toNat 63 55 = 0 := by rw [bitsOf, h2, Nat.zero_mod]
      obtain ⟨hlt, hdef, hst, hfill⟩ := tileDefineEntry_legal hs ⟨h1, hw, h3, h4, h5⟩ he
      exact ⟨_, _, exec_tileDefine h w, tileChanged_setTileEntry s hlt, hdef.trans (Nat.mod_eq_of_lt w.isLt), hst, hfill⟩
    case release =>
      obtain ⟨hlt, hst, hdef, hfill⟩ := setBits_state (st := 3) (by omega) he
      refine ⟨_, _, exec_tileCmdRelease h, ?_, hst, hdef, hfill⟩
      rw [tileReleaseEntry, if_pos hs]
      exact tileChanged_setTileEntry s hlt
    case discard =>
      obtain ⟨hlt, hst, hfill, hdef⟩ := tileDiscardEntry_ready hs he
      exact ⟨_, _, exec_tileCmdDiscard h, tileChanged_setTileEntry s hlt, hst, hfill, hdef⟩
    case ready =>
      obtain ⟨hlt, hst, hdef, -⟩ := setBits_state (st := 2) (by omega) he
      exact ⟨_, _, exec_tileReady h hs hf hw hu, tileChanged_setTileEntry s hlt, hst, hdef⟩
    case drained =>
      obtain ⟨hlt, hst, hfill⟩ := tileDrainedEntry_draining hs he
      exact ⟨_, _, exec_tileDrainEnd h hs hr, tileChanged_setTileEntry s hlt, hst, hfill⟩
    · exact ⟨_, exec_tileDefine h w, by rw [tileDefineEntry_of_not_empty hs]; exact hrej⟩
    · exact ⟨_, exec_tileCmdRelease h, by rw [tileReleaseEntry, if_neg hs]; exact hrej⟩
    · exact ⟨_, exec_tileCmdDiscard h, by rw [tileDiscardEntry, if_neg hs]; exact hrej⟩
  case timeout => exact ⟨_, exec_tileEmptyTimeout h, fun j hj => ctx_setCtx_ne _ _ hj, rfl, ctx_setCtx_self _ _ _⟩
  case window => exact ⟨_, rfl, fun ck => tabGet_map Cluster.init (fun c => { c with issued := 0 }) rfl _ _, rfl⟩
  case swath =>
    obtain ⟨t, ht, hu⟩ := exec_swathBoundary s
    simp only [swathUnits, Prod.mk.injEq] at hu
    obtain ⟨hswath, hthr, hcl⟩ := hu
    refine ⟨t, ht, hswath, fun ck => ?_, fun k => ?_⟩
    · rw [cluster, hcl, tabGet_map _ swathCluster rfl]
      rfl
    · rw [thr, hthr, tabGet_map _ swathThread rfl]
      rfl

end Sys2Proof
end

section
/-!
PROOFS. Forked programs (O21): what going on leaves of a thread, frames of one thread, and one lemma for each control instruction.
-/

namespace Sys2Proof.Machine

/-! ## Going on, from a state that differs elsewhere -/

/-- R133: where a sequencer goes on depends on the sequencer and its replacement map alone. -/
theorem curSeq_finish_congr {s u : State} (hs : hasProgram s) (hu : hasProgram u) (hq : curSeq u = curSeq s)
    (hm : curMap u = curMap s) : curSeq (finish u) = curSeq (finish s) := by
  rw [finish, finish, loopEnd, loopEnd, curSeq_setSeq _ _ hs, curSeq_setSeq _ _ hu, pcOf, pcOf, hq, hm]

theorem regsSame_finish {s u : State} (hu : hasProgram u) (hq : curSeq u = curSeq s) : regsSame s (finish u) := by
  intro r
  rw [x_finish u hu, x, x, hq]

theorem wentOn_of_curSeq_eq {s t : State} (h : curSeq t = curSeq (finish s)) : wentOn s t := by
  rw [wentOn, h]
  exact ⟨rfl, rfl, rfl⟩

theorem curSeq_of_thread {s : State} {k : Nat} (hc : s.cur = .thread k) : curSeq s = (thr s k).seq := by
  rw [curSeq, hc, seqOf]

theorem curMap_of_thread {s : State} {k : Nat} (hc : s.cur = .thread k) : curMap s = tabGet [] s.maps (thr s k).rcb.toNat := by
  rw [curMap, hc]

theorem hasProgram_of_thread {s : State} {k : Nat} (hc : s.cur = .thread k) : hasProgram s := by
  rw [hasProgram, hc]
  trivial

theorem setSeq_of_thread {s : State} {k : Nat} (hc : s.cur = .thread k) (q : Seq) :
    setSeq s q = setThr s k { thr s k with seq := q } := by
  rw [setSeq, hc, putSeq]

/-- A thread goes on by a write of its own sequencer. -/
theorem finish_of_thread {s : State} {k : Nat} (hc : s.cur = .thread k) :
    finish s = setThr s k { thr s k with seq := curSeq (finish s) } := by
  rw [show curSeq (finish s) = _ from curSeq_setSeq s _ (hasProgram_of_thread hc)]
  exact setSeq_of_thread hc _

theorem thr_finish_self {s : State} {k : Nat} (hc : s.cur = .thread k) :
    thr (finish s) k = { thr s k with seq := curSeq (finish s) } :=
  (congrArg (fun t => thr t k) (finish_of_thread hc)).trans (thr_setThr_self _ _ _)

theorem thr_finish_ne {s : State} {k j : Nat} (hc : s.cur = .thread k) (h : j ≠ k) : thr (finish s) j = thr s j :=
  (congrArg (fun t => thr t j) (finish_of_thread hc)).trans (thr_setThr_ne _ _ h)

/-! ## Frames of one thread -/

theorem OnlyThread.trans {k : Nat} {s t u : State} (h : OnlyThread k s t) (h' : OnlyThread k t u) : OnlyThread k s u := by
  refine ⟨?_, fun j hj => (h'.others j hj).trans (h.others j hj), fun a => (h'.memory a).trans (h.memory a)⟩
  have h1 := h.rest
  have h2 := h'.rest
  rw [← h1, ← h2]

theorem onlyThread_finish {s : State} {k : Nat} (hc : s.cur = .thread k) : OnlyThread k s (finish s) := by
  rw [finish_of_thread hc]
  exact onlyThread_setThr _ _ _

/-- An instruction that does nothing but go on. -/
theorem onlyGoesOn_of_exec {i : Instr} {s : State} (hs : hasProgram s) (h : exec i s = .next (finish s)) : onlyGoesOn i s :=
  ⟨_, h, regsSame_finish hs rfl, wentOn_of_curSeq_eq rfl, onlySeq_finish s⟩

theorem blockOn_of_thread {s : State} {k : Nat} (hc : s.cur = .thread k) :
    blockOn s = .next (setThr s k { thr s k with st := .waiting }) := by
  rw [blockOn, hc]

/-! ## Forks (R16, R17, R182) -/

theorem forkTarget_eq (s : State) (off : BitVec 14) : forkTarget s off = word ((pcOf s).toNat + 4 * off.toInt) := by
  have hoff : off.signExtend 64 <<< 2 = BitVec.ofInt 64 (4 * off.toInt) := by
    rw [BitVec.shiftLeft_eq_mul_twoPow, BitVec.mul_comm, BitVec.ofInt_mul, BitVec.signExtend]
    rfl
  rw [forkTarget, word, BitVec.ofInt_add, BitVec.ofInt_natCast, BitVec.ofNat_toNat, BitVec.setWidth_eq, hoff]

/-- R17: the thread of a slot when a fork has been counted, of a state that differs from `s` in no thread. -/
theorem thr_forkCount {s u : State} (k j : Nat) (ht : u.threads = s.threads) (hn : u.serial = s.serial) :
    thr (forkCount k u) j = if j = k then { thr s k with forks := (thr s k).forks ++ [s.serial] } else thr s j := by
  have hthr : ∀ j, thr u j = thr s j := fun j => by rw [thr, thr, ht]
  rw [forkCount, thr_setThr, hthr, hn]
  exact congrArg (fun v => if j = k then _ else v) (hthr j)

/-- A fork has joined its queue and been counted: the thread goes on with the program outstanding. -/
theorem finish_forkCount {s u : State} {k : Nat} (hc : s.cur = .thread k) (hu : u.cur = s.cur) (ht : u.threads = s.threads)
    (hm : u.maps = s.maps) (hn : u.serial = s.serial) :
    regsSame s (finish (forkCount k u)) ∧ wentOn s (finish (forkCount k u))
      ∧ (thr (finish (forkCount k u)) k).forks = (thr s k).forks ++ [s.serial]
      ∧ (∀ j, j ≠ k → thr (finish (forkCount k u)) j = thr s j)
      ∧ (finish (forkCount k u)).ctxs = u.ctxs ∧ (finish (forkCount k u)).forkQs = u.forkQs
      ∧ (finish (forkCount k u)).mem = u.mem := by
  have hc' : (forkCount k u).cur = .thread k := hu.trans hc
  have hs := hasProgram_of_thread hc
  have hp := hasProgram_of_thread hc'
  have hself := (thr_forkCount k k ht hn).trans (if_pos rfl)
  have hq : curSeq (forkCount k u) = curSeq s := by rw [curSeq_of_thread hc', curSeq_of_thread hc, hself]
  have hmap : curMap (forkCount k u) = curMap s := by
    rw [curMap_of_thread hc', curMap_of_thread hc, hself]
    exact congrArg (fun m => tabGet [] m _) hm
  refine ⟨regsSame_finish hp hq, wentOn_of_curSeq_eq (curSeq_finish_congr hs hp hq hmap), ?_, fun j hj => ?_, ?_⟩
  · rw [thr_finish_self hc', hself]
  · rw [thr_finish_ne hc' hj, thr_forkCount k j ht hn, if_neg hj]
  · rw [finish_of_thread hc']
    exact ⟨rfl, rfl, rfl⟩

/-- R16: a program has joined the queue of a factor array context. -/
def queueOnCtx (c : Nat) (p : Prog) (s : State) : State := setCtx s c { ctx s c with queue := (ctx s c).queue ++ [.start p] }

/-- R16: a program has joined the queue of forks of a die's copy engines. -/
def queueOnDie (d : Nat) (p : Prog) (s : State) : State := { s with forkQs := tabSet [] s.forkQs d (tabGet [] s.forkQs d ++ [p]) }

theorem orderWaits_of_thread {s : State} {k : Nat} (hc : s.cur = .thread k) : orderWaits s = vPending (thr s k) := by
  rw [orderWaits, hc]

theorem execForkF_of_room {s : State} {k : Nat} {off : BitVec 14} (hc : s.cur = .thread k) (hh : (ctx s (k / 4)).holder = some k)
    (hf : forksOut s k < 4) (hv : vPending (thr s k) = false) (hr : (ctx s (k / 4)).queue.length < 32) :
    execForkF off s = .next (finish (forkCount k (queueOnCtx (k / 4) (forkStart s k (forkTarget s off)) s))) := by
  have hroom : ¬(4 ≤ forksOut s k ∨ 32 ≤ (ctx s (coreOfThread k)).queue.length) := by rw [coreOfThread]; omega
  have hgo : ¬orderWaits s = true := by rw [orderWaits_of_thread hc, hv]; exact Bool.false_ne_true
  rw [execForkF, hc]
  exact (if_neg (not_not_intro hh)).trans ((if_neg hroom).trans (if_neg hgo))

theorem execForkX_of_room {s : State} {k : Nat} {off : BitVec 14} (hc : s.cur = .thread k)
    (hf : forksOut s k < 4) (hv : vPending (thr s k) = false) (hr : (tabGet [] s.forkQs (k / 128)).length < 16) :
    execForkX off s = .next (finish (forkCount k (queueOnDie (k / 128) (forkStart s k (forkTarget s off)) s))) := by
  have hroom : ¬(4 ≤ forksOut s k ∨ 16 ≤ (tabGet [] s.forkQs (dieOfThread k)).length) := by rw [dieOfThread]; omega
  have hgo : ¬orderWaits s = true := by rw [orderWaits_of_thread hc, hv]; exact Bool.false_ne_true
  unfold execForkX
  split
  · rename_i j hj
    obtain rfl : k = j := Agent.thread.inj (hc.symm.trans hj)
    exact (if_neg hroom).trans (if_neg hgo)
  · exact absurd hc (‹∀ k, s.cur = .thread k → False› k)

/-- R16: the program that a fork starts. -/
theorem forkStart_eq {s : State} {k : Nat} (hc : s.cur = .thread k) (off : BitVec 14) :
    forkStart s k (forkTarget s off) =
      ⟨⟨word ((pcOf s).toNat + 4 * off.toInt), (thr s k).seq.regs, [], .none⟩, s.serial, issuerNow s k (pcOf s)⟩ := by
  rw [forkStart, forkTarget_eq, pcOf, curSeq_of_thread hc]

/-! ## Joins and ends (R18, R19, R183) -/

/-- R18: with a forked program still running and no record to report, the thread waits. -/
theorem joinThen_of_running {s : State} {k : Nat} (f : State → Out) (hc : s.cur = .thread k) (hr : (thr s k).forkFaults = [])
    (hf : forksOut s k ≠ 0) : joinThen k f s = .next (setThr s k { thr s k with st := .waiting }) := by
  rw [joinThen, hr]
  simp only [if_neg hf, blockOn_of_thread hc]

/-- R18: with no forked program outstanding, the thread goes on. -/
theorem joinThen_of_none {s : State} {k : Nat} (f : State → Out) (hr : (thr s k).forkFaults = []) (hf : forksOut s k = 0) :
    joinThen k f s = f s := by
  rw [joinThen, hr]
  simp only [if_pos hf]

/-- R18: the trap of a forked program's record. -/
theorem joinThen_of_record {s : State} {k : Nat} {d : Delivery} {l : List Delivery} (f : State → Out)
    (hr : (thr s k).forkFaults = d :: l) (hfl : d.flags = 0) (hq : (thr s k).vq = []) :
    joinThen k f s = .next (trapTo k d.cause d.addr d.ecls (setThr s k { thr s k with forkFaults := l })) := by
  rw [joinThen, hr]
  simp [hq, hfl, orAflags]

/-- `join` and `exit` of a thread wait as `joinThen` says. -/
theorem exec_join_or_exit {s : State} {k : Nat} {i : Instr} (hc : s.cur = .thread k) (hi : i = .join ∨ i = .exit) :
    ∃ f, exec i s = joinThen k f s := by
  rcases hi with rfl | rfl
  · exact ⟨_, by show execJoin s = _; rw [execJoin, hc]⟩
  · exact ⟨_, by show execExit s = _; rw [execExit, hc]⟩

/-- R142: the trap of a record that its thread has taken off its list. -/
theorem trapTo_forkFault {s : State} {k : Nat} {d : Delivery} {l : List Delivery} (hc : s.cur = .thread k) (he : d.ecls < 16)
    (hm : (thr s k).hm = false) (hv : (thr s k).tvec ≠ 0) :
    let t := trapTo k d.cause d.addr d.ecls (setThr s k { thr s k with forkFaults := l })
    onlyTrapped k s t ∧ thr t k = handlerOf { thr s k with forkFaults := l } (pcOf s) d.cause d.ecls d.addr := by
  have hself : thr (setThr s k { thr s k with forkFaults := l }) k = { thr s k with forkFaults := l } := thr_setThr_self _ _ _
  obtain ⟨htrap, hthr⟩ := trapTo_spec k d.cause d.addr d.ecls (setThr s k { thr s k with forkFaults := l })
    (by rw [hself]; exact hm) (by rw [hself]; exact hv) he
  refine ⟨(onlyThread_setThr s k _).trans htrap, hthr.trans ?_⟩
  rw [hself, pcOf, curSeq_of_thread hc]

/-! ## `yield` (R184) -/

theorem st_thr_finish {s : State} {k : Nat} (hc : s.cur = .thread k) (j : Nat) : (thr (finish s) j).st = (thr s j).st := by
  by_cases hj : j = k
  · rw [hj, thr_finish_self hc]
  · rw [thr_finish_ne hc hj]

/-- What `yield` leaves of a thread that has gone on: it waits for the other running slots of its core. -/
def yielded (k : Nat) (s : State) : Thread :=
  { thr s k with yieldWait := otherRunning s k, seq := { (thr s k).seq with landing := .yielded } }

theorem exec_yield {s : State} {k : Nat} (hc : s.cur = .thread k) :
    exec .yield s = .next (setThr (finish s) k (yielded k (finish s))) := by
  show execYield s = _
  rw [execYield, hc]
  rfl

theorem mem_otherRunning {s : State} {k j : Nat} :
    j ∈ otherRunning s k ↔ j / 4 = k / 4 ∧ j ≠ k ∧ (thr s j).st = .running := by
  simp only [otherRunning, coreOfThread, List.mem_filter, List.mem_map, List.mem_range, Bool.and_eq_true, bne_iff_ne, beq_iff_eq]
  refine and_congr_left fun _ => ⟨?_, fun h => ⟨j % 4, by omega, by omega⟩⟩
  rintro ⟨i, hi, rfl⟩
  omega

end Sys2Proof.Machine

namespace Sys2Proof
open Machine

/-- Settles O21. A fork changes the queue it joins and its thread (`finish_forkCount`); `join` and `exit` of a thread go by
`joinThen`, which has one lemma for each of its outcomes; the end of a program takes it from its thread. -/
theorem forkedPrograms : Obligations.ForkedPrograms := by
  refine ⟨fun s k off hc => ⟨fun hh => ?noAttachment, fun hf hv => ⟨fun hh hr => ?forkF, fun hr => ?forkX⟩⟩,
    fun s => ⟨fun k hc hr hf => ⟨?join, fun hq => ?exit⟩, fun k hc hr hf i hi => ?waits,
      fun k d l hc hr hfl he hq hm hv i hi => ?record, fun c p hc hp => ?ctx, fun n p hc hp hb => ?engine⟩, fun s k hc => ?yield⟩
  case noAttachment =>
    show execForkF off s = _
    rw [execForkF, hc]
    exact if_pos hh
  case forkF =>
    obtain ⟨hregs, hwent, hforks, hothers, hctxs, -, hmem⟩ := finish_forkCount (k := k)
      (u := queueOnCtx (k / 4) (forkStart s k (forkTarget s off)) s) hc rfl rfl rfl rfl
    refine ⟨_, execForkF_of_room hc hh hf hv hr, hregs, hwent, hforks, ?_, fun c hcn => ?_, hothers, hmem⟩
    · rw [ctx, hctxs, ← ctx, queueOnCtx, ctx_setCtx_self, forkStart_eq hc]
    · rw [ctx, hctxs, ← ctx, queueOnCtx, ctx_setCtx_ne _ _ hcn]
  case forkX =>
    obtain ⟨hregs, hwent, hforks, hothers, -, hqs, hmem⟩ := finish_forkCount (k := k)
      (u := queueOnDie (k / 128) (forkStart s k (forkTarget s off)) s) hc rfl rfl rfl rfl
    refine ⟨_, execForkX_of_room hc hf hv hr, hregs, hwent, hforks, ?_, hothers, hmem⟩
    rw [hqs, queueOnDie, tabGet_set_self, forkStart_eq hc]
  case join =>
    refine onlyGoesOn_of_exec (hasProgram_of_thread hc) ?_
    show execJoin s = _
    rw [execJoin, hc]
    exact joinThen_of_none _ hr hf
  case exit =>
    refine ⟨setThr s k { thr s k with st := .retiring, exited := true }, ?_, thr_setThr_self _ _ _, onlyThread_setThr _ _ _⟩
    show execExit s = _
    rw [execExit, hc]
    exact (joinThen_of_none _ hr hf).trans (if_pos (by simp [hq]))
  case waits =>
    obtain ⟨f, hx⟩ := exec_join_or_exit hc hi
    exact ⟨_, hx.trans (joinThen_of_running f hc hr hf), thr_setThr_self _ _ _, onlyThread_setThr _ _ _⟩
  case record =>
    obtain ⟨f, hx⟩ := exec_join_or_exit hc hi
    exact ⟨_, hx.trans (joinThen_of_record f hr hfl hq), trapTo_forkFault hc he hm hv⟩
  case ctx =>
    refine ⟨forkEnds p.iss p.serial (setCtx s c { ctx s c with prog := none }), ?_, ?_, ?_, rfl⟩
    · show execExit s = _
      rw [execExit, hc]
      simp only [hp]
    · rw [forkEnds, ctx_setThr, ctx_setCtx_self]
    · rw [forkEnds, thr_setThr_self]
      rfl
  case engine =>
    refine ⟨forkEnds p.iss p.serial (setEngine s n { engine s n with prog := none }), ?_, ?_, ?_, rfl⟩
    · show execExit s = _
      rw [execExit, hc]
      simp [hp, hb]
    · rw [forkEnds, engine_setThr, engine_setEngine_self]
    · rw [forkEnds, thr_setThr_self]
      rfl
  case yield =>
    have hself := thr_finish_self hc
    have hy : thr (setThr (finish s) k (yielded k (finish s))) k = yielded k (finish s) := thr_setThr_self _ _ _
    refine ⟨_, exec_yield hc, (onlyThread_finish hc).trans (onlyThread_setThr _ _ _), fun r => ?_, ?_, ?_, fun j => ?_, ?_⟩
    · rw [← x_finish s (hasProgram_of_thread hc), x, x, curSeq_of_thread (k := k) (by exact (finish_cur s).trans hc), hy, yielded, hself]
    · rw [hy, yielded, hself, pcOf]
    · rw [hy, yielded, hself]
    · rw [hy, yielded, mem_otherRunning, st_thr_finish hc]
    · rw [hy, yielded, hself]

end Sys2Proof
end

section
/-!
PROOFS. Issue of near-memory commands (O41). An access leaves its fills and its checked page behind (`sansNotes`), which no check
of a command reads; a recall touches lines, copies and their directory (`sansCopies`), and no byte where every copy is current.
-/

namespace Sys2Proof.Machine

/-! ## What an access notes: misses, checked pages, tags -/

/-- A state without what accesses note on their way. -/
def sansNotes (s : State) : State := { s with misses := [], checked := [], tags := [] }

theorem noteWalk_sansNotes (c : Option Nat) (asid : BitVec 16) (va : Nat) (s : State) :
    sansNotes (noteWalk c asid va s) = sansNotes s := by
  unfold noteWalk
  split
  · rfl
  · split
    · rfl
    · split
      · rfl
      · dsimp only
        split <;> rfl

theorem noteChecked_sansNotes (die : Nat) (asid : BitVec 16) (va : Nat) (p : Word) (s : State) :
    sansNotes (noteChecked die asid va p s) = sansNotes s := by
  unfold noteChecked
  dsimp only
  split <;> rfl

theorem noteTried_sansNotes (w : Who) (ea : Word) (s : State) : sansNotes (noteTried w ea s) = sansNotes s := by
  unfold noteTried noteAccess
  split
  · dsimp only
    split
    · exact noteWalk_sansNotes _ _ _ _
    · exact (noteChecked_sansNotes _ _ _ _ _).trans (noteWalk_sansNotes _ _ _ _)
  · rfl

section Notes

variable {s t : State} (h : sansNotes s = sansNotes t)
include h

theorem readMem_notes (a n : Nat) : readMem s a n = readMem t a n := (congrArg (fun u => readMem u a n) h :)
theorem walk_notes (die : Nat) (asid : BitVec 16) (va : Nat) : walk s die asid va = walk t die asid va :=
  (congrArg (fun u => walk u die asid va) h :)
theorem copyBusy_notes (die : Nat) (asid : BitVec 16) (va : Nat) : copyBusy s die asid va = copyBusy t die asid va :=
  (congrArg (fun u => copyBusy u die asid va) h :)
theorem translate_notes (w : Who) (rd wr : Bool) (n ea : Nat) : translate s w rd wr n ea = translate t w rd wr n ea :=
  (congrArg (fun u => translate u w rd wr n ea) h :)
theorem writeMem_notes (a n v : Nat) : sansNotes (writeMem s a n v) = sansNotes (writeMem t a n v) :=
  (congrArg (fun u => writeMem u a n v) h :)
theorem writePlain_notes (a n v : Nat) : sansNotes (writePlain s a n v) = sansNotes (writePlain t a n v) :=
  (congrArg (fun u => writeMem u a n v) h :)
theorem copyRange_notes (a b n : Nat) : sansNotes (copyRange a b n s) = sansNotes (copyRange a b n t) :=
  (congrArg (fun u => sansNotes (copyRange a b n u)) h :)
theorem dropTlb_notes (dev : Nat) (f : TlbEntry → Bool) : sansNotes (dropTlb dev f s) = sansNotes (dropTlb dev f t) :=
  (congrArg (fun u => sansNotes (dropTlb dev f u)) h :)

/-- R276: the count of copies at a register. -/
theorem countUp_notes (a : Nat) :
    sansNotes (writeMem s a 8 (if readMem s a 8 + 1 < 2 ^ 64 then readMem s a 8 + 1 else readMem s a 8)) =
      sansNotes (writeMem t a 8 (if readMem t a 8 + 1 < 2 ^ 64 then readMem t a 8 + 1 else readMem t a 8)) := by
  rw [readMem_notes h]
  exact writeMem_notes h _ _ _
theorem writeReplicas_notes (p : Word) (addr : Nat) (v : Word) :
    sansNotes (writeReplicas p addr v s) = sansNotes (writeReplicas p addr v t) := by
  unfold writeReplicas
  generalize List.range (replicas (pteSize p)) = l
  induction l generalizing s t with
  | nil => exact h
  | cons i l ih => exact ih (writePlain_notes h _ _ _)

/-- R276: the copy of a page reads and leaves nothing of them. -/
theorem cowPerform_notes (die : Nat) (asid : BitVec 16) (va : Nat) :
    (cowPerform die asid va s).map sansNotes = (cowPerform die asid va t).map sansNotes := by
  have hpool : ∀ k, poolNext s die k = poolNext t die k := fun k => (congrArg (fun u => poolNext u die k) h :)
  unfold cowPerform
  rw [walk_notes h]
  split
  · exact congrArg some (dropTlb_notes h _ _)
  · split
    · exact congrArg some (dropTlb_notes h _ _)
    · rw [hpool]
      split
      · rfl
      · dsimp only
        rw [readMem_notes h, readMem_notes h]
        exact congrArg some (countUp_notes (writePlain_notes (dropTlb_notes (writeReplicas_notes (copyRange_notes
          (writePlain_notes h _ _ _) _ _ _) _ _ _) _ _) _ _ _) _)

end Notes

/-- R253, R276: so does a translation for an engine, copies on write included. -/
theorem nmResolve_notes {s t : State} (h : sansNotes s = sansNotes t) (w : Who) (rd wr : Bool) (ea : Word) :
    (nmResolve w rd wr ea s).map (fun r => (r.1, r.2.1, sansNotes r.2.2))
      = (nmResolve w rd wr ea t).map (fun r => (r.1, r.2.1, sansNotes r.2.2)) := by
  have hn : sansNotes (noteTried w ea s) = sansNotes (noteTried w ea t) := by rw [noteTried_sansNotes, noteTried_sansNotes, h]
  unfold nmResolve
  rw [translate_notes h]
  dsimp only
  split
  · rfl
  · split
    · rfl
    · split
      · have hcow := cowPerform_notes hn w.die w.iss.asid ea.toNat
        revert hcow
        cases cowPerform w.die w.iss.asid ea.toNat (noteTried w ea s) <;>
          cases cowPerform w.die w.iss.asid ea.toNat (noteTried w ea t) <;> intro hcow
        case none.none => rfl
        case none.some => simp at hcow
        case some.none => simp at hcow
        case some.some u v =>
          have huv : sansNotes u = sansNotes v := Option.some.inj hcow
          simp only [translate_notes huv]
          split
          · rfl
          · split
            · rfl
            · simp [Except.map, huv]
      · split
        · rfl
        · simp [Except.map, hn]

theorem nmResolve_ok_notes {s t u : State} (h : sansNotes s = sansNotes t) {w : Who} {rd wr : Bool} {ea p : Word} {pa : Nat}
    (e : nmResolve w rd wr ea s = .ok (p, pa, u)) : ∃ v, nmResolve w rd wr ea t = .ok (p, pa, v) ∧ sansNotes v = sansNotes u := by
  have hr := nmResolve_notes h w rd wr ea
  rw [e] at hr
  cases ht : nmResolve w rd wr ea t with
  | error c => rw [ht] at hr; cases hr
  | ok r =>
    obtain ⟨p', pa', v⟩ := r
    rw [ht] at hr
    obtain ⟨rfl, rfl, huv⟩ : p = p' ∧ pa = pa' ∧ sansNotes u = sansNotes v := by simpa [Except.map] using hr
    exact ⟨v, rfl, huv.symm⟩

/-- R454, R457: an object found from one state is found from another that differs only there. -/
theorem nmObject_ok_notes {s t u : State} (h : sansNotes s = sansNotes t) {w : Who} {a : Word} {o : Nat}
    (e : nmObject w a s = .ok (o, u)) : ∃ v, nmObject w a t = .ok (o, v) ∧ sansNotes v = sansNotes u := by
  unfold nmObject at e ⊢
  rw [← copyBusy_notes h]
  by_cases hal : a.toNat % 16 ≠ 0
  · rw [if_pos hal] at e; cases e
  by_cases hcopy : copyBusy s w.die w.iss.asid a.toNat = true
  · rw [if_neg hal, if_pos hcopy] at e; cases e
  rw [if_neg hal, if_neg hcopy] at e ⊢
  cases hs : nmResolve w false true a s with
  | error c => rw [hs] at e; cases e
  | ok r =>
    obtain ⟨p, pa, s'⟩ := r
    obtain ⟨v, hv, hsv⟩ := nmResolve_ok_notes h hs
    rw [hs] at e
    rw [hv]
    dsimp only at e ⊢
    split at e
    · rename_i hplace
      cases e
      exact ⟨v, if_pos hplace, hsv⟩
    · cases e

/-! ## What a recall leaves (R337, R458, R459) -/

/-- A state without what a recall may touch. -/
def sansCopies (s : State) : State := { s with mem := [], llc := [], dir := [] }

theorem mergeLine_sansCopies (f : Nat → Bool) (line : Nat) (s : State) : sansCopies (mergeLine f line s) = sansCopies s := by
  refine foldl_keeps _ (fun t e => ?_) _ _
  split
  · split
    · refine foldl_keeps _ (fun u i => ?_) _ _
      split <;> rfl
    · rfl
  · rfl

theorem recallRange_sansCopies (w : Who) (va n : Nat) (s : State) : sansCopies (recallRange w va n s) = sansCopies s := by
  refine foldl_keeps _ (fun t l => ?_) _ _
  split
  · exact mergeLine_sansCopies _ _ _
  · rfl

theorem nmRecall_sansCopies (die : Nat) (c : NmCmd) (s : State) : sansCopies (nmRecall die c s) = sansCopies s := by
  unfold nmRecall
  split
  · rfl
  · exact foldl_keeps _ (fun t r => recallRange_sansCopies _ _ _ _) _ _

/-- R459: with every copy current no write-back changes memory. -/
theorem mergeLine_of_current {s : State} (h : cachesCurrent s) (f : Nat → Bool) (line : Nat) : mergeLine f line s = s := by
  refine List.foldlRecOn (motive := (· = s)) s.llc _ rfl fun t ht e he => ?_
  subst ht
  split
  · split
    · rename_i hc
      exact absurd (h e he _ hc) (by simp)
    · rfl
  · rfl

theorem dropCopies_of_current {s : State} (h : cachesCurrent s) (line : Nat) :
    cachesCurrent (dropCopies line s) ∧ (dropCopies line s).mem = s.mem := by
  unfold dropCopies
  rw [mergeLine_of_current h]
  exact ⟨fun e he => h e (List.mem_filter.mp he).1, rfl⟩

theorem recallRange_of_current {s : State} (h : cachesCurrent s) (w : Who) (va n : Nat) :
    cachesCurrent (recallRange w va n s) ∧ (recallRange w va n s).mem = s.mem := by
  refine List.foldlRecOn (motive := fun t => cachesCurrent t ∧ t.mem = s.mem) _ _ ⟨h, rfl⟩ fun t ht l _ => ?_
  split
  · obtain ⟨hc, hm⟩ := dropCopies_of_current ht.1 l
    exact ⟨hc, hm.trans ht.2⟩
  · exact ht

theorem nmRecall_mem_of_current {s : State} (h : cachesCurrent s) (die : Nat) (c : NmCmd) : (nmRecall die c s).mem = s.mem := by
  unfold nmRecall
  split
  · rfl
  · refine (List.foldlRecOn (motive := fun t => cachesCurrent t ∧ t.mem = s.mem) _ _ ⟨h, rfl⟩ fun t ht r _ => ?_).2
    obtain ⟨hc, hm⟩ := recallRange_of_current ht.1 (nmWho die c) r.1 r.2
    exact ⟨hc, hm.trans ht.2⟩

/-! ## Arming an object (R26, R457) -/

theorem barRead_lt (s : State) (pa : Nat) : barRead s pa < 2 ^ 128 := by
  rw [show 2 ^ 128 = 256 ^ 16 by norm_num]
  exact cellsRead_lt _ _ _

/-- The object that a gate of a die's engine is armed on: ARMD and the die's bit of WATCH. -/
def armedObject (die o : Nat) : Nat := setBits (o ||| 2 ^ (72 + die % 32)) 69 69 1

theorem armedObject_lt {die o : Nat} (h : o < 2 ^ 128) : armedObject die o < 2 ^ 128 :=
  setBits_lt (by omega) (by omega) (Nat.or_lt_two_pow h (Nat.pow_lt_pow_right (by omega) (by omega)))

theorem testBit_armedObject (die o b : Nat) :
    (armedObject die o).testBit b = (decide (b = 69) || decide (b = 72 + die % 32) || o.testBit b) := by
  rw [armedObject, testBit_setBits (by omega), Nat.testBit_or, Nat.testBit_two_pow]
  by_cases h69 : b = 69
  · subst h69; rfl
  · rw [if_neg (by omega), decide_eq_false h69, Bool.false_or, Bool.or_comm]
    exact congrArg (· || _) (decide_eq_decide.mpr eq_comm)

/-- An object has been armed by a die's engine. -/
def armObject (die pa : Nat) (s : State) : State :=
  { writeMem s pa 16 (armedObject die (barRead s pa)) with barriers := setInsert pa s.barriers }

/-- R26: an object in the phase awaited is armed. -/
theorem barArm_of_phase {s : State} {pa die : Nat} {p : Bool} (h : barPhase (barRead s pa) = p) :
    (barArm pa p die s).2 = armObject die pa s := by
  unfold barArm
  rw [if_neg (by simp [h])]
  rfl

section WrittenObject

variable (s : State) (pa n v : Nat) (l : List Nat)

theorem readMem_written (a k : Nat) : readMem { writeMem s pa n v with barriers := l } a k = readMem (writeMem s pa n v) a k := rfl
theorem readByte_written (a : Nat) : readByte { writeMem s pa n v with barriers := l } a = readByte (writeMem s pa n v) a := rfl
theorem llc_written : { writeMem s pa n v with barriers := l }.llc = s.llc := rfl
theorem nms_written : { writeMem s pa n v with barriers := l }.nms = s.nms := rfl
theorem serial_written : { writeMem s pa n v with barriers := l }.serial = s.serial := rfl

end WrittenObject

theorem barRead_armObject (die pa : Nat) (s : State) : barRead (armObject die pa s) pa = armedObject die (barRead s pa) := by
  have hlt := armedObject_lt (die := die) (barRead_lt s pa)
  rw [show 2 ^ 128 = 256 ^ 16 by norm_num] at hlt
  rw [barRead, armObject, readMem_written, readMem_writeMem_self, Nat.mod_eq_of_lt hlt]

theorem readByte_armObject (die : Nat) {pa a : Nat} (s : State) (h : a < pa ∨ pa + 16 ≤ a) :
    readByte (armObject die pa s) a = readByte s a := by
  rw [armObject, readByte_written, readByte_writeMem_out _ _ _ _ _ h]

/-! ## A command joins its engine's queue (R452, R454) -/

/-- R452: the command that a thread issues at its present address. -/
def nmCommand (s : State) (k op : Nat) (a b g : Fin 16) : NmCmd :=
  { iss := issuerNow s k (pcOf s), serial := 0, op := op, a := x s (pairLo a), a1 := x s (pairHi a), b := x s (pairLo b),
    b1 := x s (pairHi b), g := if g = 0 then 0 else x s (pairLo g), g1 := if g = 0 then 0 else x s (pairHi g),
    plain := decide (g = 0), gate := none, firedAt := 0, slot := false, ready := false, coef := 0, number := 0, gran := 0, done := 0,
    flags := 0, wrote := [], stop := none }

/-- R454: the operand of a command reaches HBM of the device of its thread, nothing that it waits for is pending, and its engine
has room. -/
structure NmAdmits (s : State) (k op : Nat) (a b g : Fin 16) (d pa : Nat) : Prop where
  onThread : s.cur = .thread k
  performed : vPending (thr s k) = false
  leaf : ∃ p, translate s (whoC s k) true false 1 (x s (pairLo a)).toNat = .ok (p, pa) ∧ pteMc p = false
  stack : placeOf pa = .hbm d
  own : devOf pa = devOfDie (k / 128)
  idle : recallBusy (dieKey (devOf pa) d) (nmCommand s k op a b g) s = false
  room : (nm s (dieKey (devOf pa) d)).queue.length < 64

/-- The state after the look at the first operand's page. -/
def nmLooked (s : State) (k : Nat) (a : Fin 16) : State := noteTried (whoC s k) (x s (pairLo a)) s

theorem nmLooked_sansNotes (s : State) (k : Nat) (a : Fin 16) : sansNotes (nmLooked s k a) = sansNotes s := noteTried_sansNotes _ _ _

/-- R454, R457: what is left of the issue of a command once its engine is known. -/
def nmQueue (die : Nat) (c : NmCmd) (s : State) : Out :=
  if orderWaits s || recallBusy die c s then stall s
  else if 64 ≤ (nm s die).queue.length then blockOn s
  else if c.g = 0 then nmAccept die c s
  else if nmGateBad c then .next (finish (nmRecord die c.iss (nm s die).count 0 0x01 0 s))
  else match nmObject (nmWho die c) (nmGateAddr c) s with
    | .error e => if e = 0 then stall s else .next (finish (nmRecord die c.iss (nm s die).count 0 e 0 s))
    | .ok (pa, s) => nmArm die pa c s

theorem nmIssue_eq_nmQueue {s : State} {k op : Nat} {a b g : Fin 16} {d pa : Nat} (h : NmAdmits s k op a b g d pa) :
    nmIssue op a b g s = nmQueue (dieKey (devOf pa) d) (nmCommand s k op a b g) (nmLooked s k a) := by
  obtain ⟨p, hleaf, hmc⟩ := h.leaf
  have hn := noteTried_sansNotes (whoC s k) (x s (pairLo a)) s
  have hx : ∀ r, x (noteTried (whoC s k) (x s (pairLo a)) s) r = x s r := fun r => (congrArg (fun u => x u r) hn :)
  have hiss : issuerNow (noteTried (whoC s k) (x s (pairLo a)) s) k (pcOf (noteTried (whoC s k) (x s (pairLo a)) s))
      = issuerNow s k (pcOf s) := (congrArg (fun u => issuerNow u k (pcOf u)) hn :)
  have hreach : ¬(pteMc p = true ∨ devOf pa ≠ devOfDie (dieOfThread k)) := by
    rw [hmc]
    exact not_or_intro Bool.false_ne_true (not_not_intro h.own)
  unfold nmIssue
  split
  · rename_i j hj
    obtain rfl : k = j := Agent.thread.inj (h.onThread.symm.trans hj)
    simp only [hleaf, h.stack, hx, hiss, decide_eq_true_eq]
    exact if_neg hreach
  · exact absurd h.onThread (‹∀ k, s.cur = .thread k → False› k)

/-- R454: an admitted command neither waits nor is refused, and goes by its gate. -/
theorem nmQueue_of_admits {s : State} {k op : Nat} {a b g : Fin 16} {d pa : Nat} (h : NmAdmits s k op a b g d pa) :
    let die := dieKey (devOf pa) d
    let c := nmCommand s k op a b g
    (c.g = 0 → nmQueue die c (nmLooked s k a) = nmAccept die c (nmLooked s k a))
      ∧ ∀ o u, c.g ≠ 0 → nmGateBad c = false → nmObject (nmWho die c) (nmGateAddr c) (nmLooked s k a) = .ok (o, u) →
        nmQueue die c (nmLooked s k a) = nmArm die o c u := by
  have hn := nmLooked_sansNotes s k a
  have hcur : (nmLooked s k a).cur = .thread k := (congrArg State.cur hn :).trans h.onThread
  have hthr : thr (nmLooked s k a) k = thr s k := (congrArg (fun u => thr u k) hn :)
  have hnm : nm (nmLooked s k a) (dieKey (devOf pa) d) = nm s (dieKey (devOf pa) d) := (congrArg (fun u => nm u _) hn :)
  have hidle : recallBusy (dieKey (devOf pa) d) (nmCommand s k op a b g) (nmLooked s k a) = false :=
    (congrArg (fun u => recallBusy _ (nmCommand s k op a b g) u) hn :).trans h.idle
  have hgo : ¬((orderWaits (nmLooked s k a) || recallBusy (dieKey (devOf pa) d) (nmCommand s k op a b g) (nmLooked s k a)) = true) := by
    rw [orderWaits_of_thread hcur, hthr, h.performed, hidle]
    exact Bool.false_ne_true
  have hspace : ¬64 ≤ (nm (nmLooked s k a) (dieKey (devOf pa) d)).queue.length := by
    rw [hnm]
    exact Nat.not_le_of_lt h.room
  dsimp only
  rw [nmQueue, if_neg hgo, if_neg hspace]
  refine ⟨fun hg => if_pos hg, fun o u hg hbad hobj => ?_⟩
  rw [if_neg hg, if_neg (by rw [hbad]; exact Bool.false_ne_true), hobj]

/-- R457: the phase of the gate has passed: the command joins the queue ready to start. -/
theorem nmArm_of_passed {s : State} {die o : Nat} {c : NmCmd} (h : barPhase (barRead s o) ≠ c.g.getLsbD 0) :
    nmArm die o c s = nmAccept die { c with gate := some (o, c.g.getLsbD 0), firedAt := s.serial + 1, ready := true } s :=
  if_pos (bne_iff_ne.mpr h)

/-- R26, R457: the phase is still to come: the object is armed and the command takes a slot. -/
theorem nmArm_of_coming {s : State} {die o : Nat} {c : NmCmd} (h : barPhase (barRead s o) = c.g.getLsbD 0)
    (hr : nmHeld (nm s die) < 32) :
    nmArm die o c s = nmAccept die { c with gate := some (o, c.g.getLsbD 0), slot := true }
      (armObject die o s) := by
  rw [← barArm_of_phase h]
  exact (if_neg (by simp [h])).trans (if_neg (Nat.not_le_of_lt hr))

/-- A state with what the issue of a near-memory command may change put back as in another, beside its thread. -/
def issuedRest (t s : State) : State :=
  { accessed t s with nms := s.nms, serial := s.serial, mem := s.mem, barriers := s.barriers, fresh := s.fresh }

theorem issuedRest_of_notes {s u : State} (h : sansNotes u = sansNotes s) : issuedRest u s = s :=
  (congrArg (fun v => issuedRest v s) h :)

/-- What the acceptance of a command leaves: it stands at the end of its engine's queue, the thread has gone on, and nothing else
differs from the state of its issue but what an access leaves, and memory and barrier objects, as they were before the acceptance
where every copy is current. -/
structure NmAccepted (s u : State) (die : Nat) (c : NmCmd) (t : State) : Prop where
  regs : regsSame s t
  went : wentOn s t
  memory : cachesCurrent u → t.mem = u.mem
  rest : OnlySeq s (issuedRest t s)
  queued : nm t die = { nm s die with queue := (nm s die).queue ++ [{ c with serial := s.serial }] }
  others : ∀ j, j ≠ die → nm t j = nm s j

/-- A command stands at the end of the queue of an engine. -/
def nmQueued (die : Nat) (c : NmCmd) (s : State) : State :=
  setNm { s with serial := s.serial + 1 } die { nm s die with queue := (nm s die).queue ++ [{ c with serial := s.serial }] }

theorem nmAccept_spec {s u : State} {k : Nat} (die : Nat) (c : NmCmd) (hc : s.cur = .thread k) (hu : issuedRest u s = s)
    (hn : u.nms = s.nms) (hs : u.serial = s.serial) : ∃ t, nmAccept die c u = .next t ∧ NmAccepted s u die c t := by
  have hrec := nmRecall_sansCopies die c u
  have hnms : ∀ j, nm (nmRecall die c u) j = nm s j := fun j =>
    congrArg (fun n => tabGet Nm.init n j) ((congrArg State.nms hrec :).trans hn)
  have hserial : (nmRecall die c u).serial = s.serial := (congrArg State.serial hrec :).trans hs
  have hv : issuedRest (nmQueued die c (nmRecall die c u)) s = s := (congrArg (fun w => issuedRest w s) hrec :).trans hu
  have hmem : cachesCurrent u → (nmQueued die c (nmRecall die c u)).mem = u.mem := fun h => nmRecall_mem_of_current h die c
  have hself : nm (nmQueued die c (nmRecall die c u)) die
      = { nm s die with queue := (nm s die).queue ++ [{ c with serial := s.serial }] } := by
    rw [← hnms, ← hserial]
    exact tabGet_set_self _ _ _ _
  have hothers : ∀ j, j ≠ die → nm (nmQueued die c (nmRecall die c u)) j = nm s j := fun j hj =>
    (tabGet_set_ne _ _ _ hj).trans (hnms j)
  refine ⟨finish (nmQueued die c (nmRecall die c u)), rfl, ?_⟩
  generalize nmQueued die c (nmRecall die c u) = v at hv hmem hself hothers
  have hcv : v.cur = .thread k := (congrArg State.cur hv :).trans hc
  have hthr : thr v k = thr s k := (congrArg (fun w => thr w k) hv :)
  have hq : curSeq v = curSeq s := (congrArg curSeq hv :)
  have hm : curMap v = curMap s := (congrArg curMap hv :)
  have hps := hasProgram_of_thread hc
  have hpv := hasProgram_of_thread hcv
  have hfin := finish_of_thread hcv
  refine ⟨regsSame_finish hpv hq, wentOn_of_curSeq_eq (curSeq_finish_congr hps hpv hq hm), fun h => ?_, ?_, ?_, fun j hj => ?_⟩
  · rw [hfin]
    exact hmem h
  · have hrest : issuedRest (finish v) s = setSeq s (curSeq (finish v)) := by
      rw [setSeq_of_thread hc, ← hthr]
      exact (congrArg (fun w => issuedRest w s) hfin).trans
        (congrArg (fun w => setThr w k { thr v k with seq := curSeq (finish v) }) hv :)
    rw [hrest]
    exact onlySeq_setSeq _ _
  · rw [hfin]
    exact hself
  · rw [hfin]
    exact hothers j hj

/-- The command is queued by the instruction, its object armed where `o` names one (R26, R454, R457). -/
def nmAdded (s : State) (i : Instr) (die : Nat) (c : NmCmd) (o : Option Nat) : Prop :=
  ∃ t, exec i s = .next t ∧ regsSame s t ∧ wentOn s t
    ∧ (cachesCurrent s → ∀ a, (∀ p, o = some p → a < p ∨ p + 16 ≤ a) → readByte t a = readByte s a)
    ∧ (cachesCurrent s → ∀ p, o = some p → (barRead t p).testBit 69 = true ∧ (barRead t p).testBit (72 + die % 32) = true
        ∧ ∀ b, b ≠ 69 → b ≠ 72 + die % 32 → (barRead t p).testBit b = (barRead s p).testBit b)
    ∧ OnlySeq s (issuedRest t s)
    ∧ nm t die = { nm s die with queue := (nm s die).queue ++ [c] } ∧ (∀ j, j ≠ die → nm t j = nm s j)

theorem cachesCurrent_congr {s u : State} (h : u.llc = s.llc) (hc : cachesCurrent s) : cachesCurrent u :=
  fun e he => hc e (h ▸ he)

/-- The acceptance of a command from a state that differs in what accesses note only. -/
theorem nmAdded_of_notes {s u : State} {k : Nat} {i : Instr} {die : Nat} {c : NmCmd} (hc : s.cur = .thread k)
    (hn : sansNotes u = sansNotes s) (h : exec i s = nmAccept die c u) : nmAdded s i die { c with serial := s.serial } none := by
  have hmem : u.mem = s.mem := (congrArg State.mem hn :)
  have hllc : u.llc = s.llc := (congrArg State.llc hn :)
  obtain ⟨t, ht, ha⟩ := nmAccept_spec die c hc (issuedRest_of_notes hn) (congrArg State.nms hn :) (congrArg State.serial hn :)
  refine ⟨t, h.trans ht, ha.regs, ha.went, fun hs a _ => ?_, nofun, ha.rest, ha.queued, ha.others⟩
  rw [readByte, readByte, ha.memory (cachesCurrent_congr hllc hs), hmem]

section Armed

variable (die o : Nat) (u : State)

theorem llc_armObject : (armObject die o u).llc = u.llc := llc_written _ _ _ _ _
theorem nms_armObject : (armObject die o u).nms = u.nms := nms_written _ _ _ _ _
theorem serial_armObject : (armObject die o u).serial = u.serial := serial_written _ _ _ _ _
theorem issuedRest_written (n v : Nat) (l : List Nat) (s : State) :
    issuedRest { writeMem u o n v with barriers := l } s = issuedRest u s := rfl
theorem issuedRest_armObject (s : State) : issuedRest (armObject die o u) s = issuedRest u s := issuedRest_written _ _ _ _ _ _

end Armed

/-- The acceptance of a command that has armed its object. -/
theorem nmAdded_of_armed {s u : State} {k : Nat} {i : Instr} {die o : Nat} {c : NmCmd} (hc : s.cur = .thread k)
    (hn : sansNotes u = sansNotes s) (h : exec i s = nmAccept die c (armObject die o u)) :
    nmAdded s i die { c with serial := s.serial } (some o) := by
  have hread : barRead u o = barRead s o := (congrArg (fun v => barRead v o) hn :)
  have hmem : ∀ a, readByte u a = readByte s a := fun a => (congrArg (fun v => readByte v a) hn :)
  have hllc : (armObject die o u).llc = s.llc := (llc_armObject die o u).trans (congrArg State.llc hn :)
  have hrest : issuedRest (armObject die o u) s = s := (issuedRest_armObject die o u s).trans (issuedRest_of_notes hn)
  have hnms : (armObject die o u).nms = s.nms := (nms_armObject die o u).trans (congrArg State.nms hn :)
  have hserial : (armObject die o u).serial = s.serial := (serial_armObject die o u).trans (congrArg State.serial hn :)
  obtain ⟨t, ht, ha⟩ := nmAccept_spec die c hc hrest hnms hserial
  have htmem : cachesCurrent s → t.mem = (armObject die o u).mem := fun hs => ha.memory (cachesCurrent_congr hllc hs)
  refine ⟨t, h.trans ht, ha.regs, ha.went, fun hs a hout => ?_, fun hs p hp => ?_, ha.rest, ha.queued, ha.others⟩
  · rw [← hmem, ← readByte_armObject die u (hout o rfl), readByte, readByte, htmem hs]
  · obtain rfl : o = p := Option.some.inj hp
    have hobj : barRead t o = armedObject die (barRead s o) := by
      rw [← hread, ← barRead_armObject die o u, barRead, barRead, readMem, readMem, htmem hs]
    simp only [hobj, testBit_armedObject]
    exact ⟨by simp, by simp, fun b h69 hw => by simp [h69, hw]⟩

theorem exec_of_nearForm {i : Instr} {op : Nat} {a b g : Fin 16} (s : State) (h : nearForm i = some (op, a, b, g)) :
    exec i s = nmIssue op a b g s := by
  unfold nearForm at h
  split at h <;> cases h <;> rfl

theorem curWho_of_thread {s : State} {k : Nat} (hc : s.cur = .thread k) : curWho s = whoC s k := by
  rw [curWho, ownerThread, hc]

section Admitted

variable {s : State} {k op : Nat} {a b g : Fin 16} {d pa : Nat} {i : Instr}

/-- R454: a command without a gate joins the queue. -/
theorem nmAdded_of_no_gate (h : NmAdmits s k op a b g d pa) (hi : nearForm i = some (op, a, b, g))
    (hg : (nmCommand s k op a b g).g = 0) :
    nmAdded s i (dieKey (devOf pa) d) { nmCommand s k op a b g with serial := s.serial } none :=
  nmAdded_of_notes h.onThread (nmLooked_sansNotes s k a)
    ((exec_of_nearForm s hi).trans ((nmIssue_eq_nmQueue h).trans ((nmQueue_of_admits h).1 hg)))

/-- R457: a command with a gate goes on to arm it, from a state that differs in what accesses note only. -/
theorem exec_eq_nmArm (h : NmAdmits s k op a b g d pa) (hi : nearForm i = some (op, a, b, g)) {o : Nat}
    (hg : (nmCommand s k op a b g).g ≠ 0) (hbad : nmGateBad (nmCommand s k op a b g) = false)
    (ho : nmObject (nmWho (dieKey (devOf pa) d) (nmCommand s k op a b g)) (nmGateAddr (nmCommand s k op a b g)) s = .ok (o, s)) :
    ∃ u, exec i s = nmArm (dieKey (devOf pa) d) o (nmCommand s k op a b g) u ∧ sansNotes u = sansNotes s := by
  obtain ⟨u, hu, hn⟩ := nmObject_ok_notes (nmLooked_sansNotes s k a).symm ho
  exact ⟨u, (exec_of_nearForm s hi).trans ((nmIssue_eq_nmQueue h).trans ((nmQueue_of_admits h).2 o u hg hbad hu)), hn⟩

/-- R457: a command whose gate's phase has passed joins the queue ready to start. -/
theorem nmAdded_of_passed (h : NmAdmits s k op a b g d pa) (hi : nearForm i = some (op, a, b, g)) {o : Nat}
    (hg : (nmCommand s k op a b g).g ≠ 0) (hbad : nmGateBad (nmCommand s k op a b g) = false)
    (ho : nmObject (nmWho (dieKey (devOf pa) d) (nmCommand s k op a b g)) (nmGateAddr (nmCommand s k op a b g)) s = .ok (o, s))
    (hp : barPhase (barRead s o) ≠ (nmCommand s k op a b g).g.getLsbD 0) :
    nmAdded s i (dieKey (devOf pa) d) { nmCommand s k op a b g with
      gate := some (o, (nmCommand s k op a b g).g.getLsbD 0), firedAt := s.serial + 1, ready := true, serial := s.serial } none := by
  obtain ⟨u, hu, hn⟩ := exec_eq_nmArm h hi hg hbad ho
  have hread : barRead u o = barRead s o := (congrArg (fun v => barRead v o) hn :)
  have hserial : u.serial = s.serial := (congrArg State.serial hn :)
  have harm := nmArm_of_passed (s := u) (die := dieKey (devOf pa) d) (o := o) (c := nmCommand s k op a b g) (by rw [hread]; exact hp)
  rw [hserial] at harm
  exact nmAdded_of_notes h.onThread hn (hu.trans harm)

/-- R26, R457: a command whose gate's phase is still to come arms the object. -/
theorem nmAdded_of_coming (h : NmAdmits s k op a b g d pa) (hi : nearForm i = some (op, a, b, g)) {o : Nat}
    (hg : (nmCommand s k op a b g).g ≠ 0) (hbad : nmGateBad (nmCommand s k op a b g) = false)
    (ho : nmObject (nmWho (dieKey (devOf pa) d) (nmCommand s k op a b g)) (nmGateAddr (nmCommand s k op a b g)) s = .ok (o, s))
    (hp : barPhase (barRead s o) = (nmCommand s k op a b g).g.getLsbD 0) (hroom : nmHeld (nm s (dieKey (devOf pa) d)) < 32) :
    nmAdded s i (dieKey (devOf pa) d) { nmCommand s k op a b g with
      gate := some (o, (nmCommand s k op a b g).g.getLsbD 0), slot := true, serial := s.serial } (some o) := by
  obtain ⟨u, hu, hn⟩ := exec_eq_nmArm h hi hg hbad ho
  have hread : barRead u o = barRead s o := (congrArg (fun v => barRead v o) hn :)
  have hnm : nm u (dieKey (devOf pa) d) = nm s (dieKey (devOf pa) d) := (congrArg (fun v => nm v (dieKey (devOf pa) d)) hn :)
  exact nmAdded_of_armed h.onThread hn (hu.trans (nmArm_of_coming (by rw [hread]; exact hp) (by rw [hnm]; exact hroom)))

end Admitted

/-! ## Waiting and status (R464, R465) -/

/-- An instruction that writes its sequencer as it was and goes on. -/
theorem onlyGoesOn_of_same_seq {i : Instr} {s : State} (hs : hasProgram s) (h : exec i s = .next (finish (setSeq s (curSeq s)))) :
    onlyGoesOn i s := by
  have hu := (hasProgram_setSeq s (curSeq s)).mpr hs
  have hq := curSeq_setSeq s (curSeq s) hs
  exact ⟨_, h, regsSame_finish hu hq, wentOn_of_curSeq_eq (curSeq_finish_congr hs hu hq (curMap_setSeq _ _)),
    (onlySeq_setSeq _ _).trans (onlySeq_finish _) (setSeq_cur _ _)⟩

/-- R464: with every command of the thread held at a gate, `nm.wait` goes on. -/
theorem exec_nmWait_of_held {s : State} {k : Nat} (hc : s.cur = .thread k) (hs : (thr s k).snap = none)
    (h : (nmOwn s k).all (nmUnfired s.serial) = true) : exec .nmWait s = .next (finish (setSeq s (curSeq s))) := by
  have ht : { thr s k with snap := none } = { thr s k with seq := curSeq s } := by rw [← hs, curSeq_of_thread hc]
  show execNmWait s = _
  rw [setSeq_of_thread hc, ← ht, execNmWait, hc]
  simp only [hs, Option.getD_none]
  exact if_pos h

theorem exec_nmWaitAll {s : State} {k : Nat} (hc : s.cur = .thread k) :
    exec .nmWaitAll s = if (nmOwn s k).isEmpty then .next (finish s) else blockOn s := by
  show execNmWaitAll s = _
  rw [execNmWaitAll, hc]

theorem exec_nmStat {s : State} {k : Nat} (d : Fin 32) (hc : s.cur = .thread k) :
    exec (.nmStat d) s = writeOn d (BitVec.ofNat 64 ((nmOwn s k).length % 2 ^ 16
      + ((nmOwn s k).filter (fun c => c.gate.isSome && c.firedAt == 0)).length % 2 ^ 16 * 2 ^ 16)) s := by
  show execNmStat d s = _
  rw [execNmStat, hc]

end Sys2Proof.Machine

namespace Sys2Proof
open Machine

/-- Settles O41. An admitted command goes by its gate (`nmQueue_of_admits`) from a state that differs from that of its issue in what
accesses note only, and its acceptance leaves what `NmAccepted` says; the waits and the status read the thread's own commands. -/
theorem nearMemoryCommands : Obligations.NearMemoryCommands := by
  intro s k hc own
  refine ⟨fun i op a b g p pa d hi hv htr hmc hpl hdev hbusy hroom => ?issue, fun hs h => ?wait, fun h => ?allDone,
    fun h => ?allWait, fun d => ?stat⟩
  case issue =>
    rw [curWho_of_thread hc] at htr
    have hadm : NmAdmits s k op a b g d pa := ⟨hc, hv, ⟨p, htr, hmc⟩, hpl, hdev, hbusy, hroom⟩
    exact ⟨fun hg => nmAdded_of_no_gate hadm hi hg, fun o hg hbad ho =>
      ⟨fun hp => nmAdded_of_passed hadm hi hg hbad ho hp, fun hp hheld => nmAdded_of_coming hadm hi hg hbad ho hp hheld⟩⟩
  case wait => exact onlyGoesOn_of_same_seq (hasProgram_of_thread hc) (exec_nmWait_of_held hc hs h)
  case allDone => exact onlyGoesOn_of_exec (hasProgram_of_thread hc) ((exec_nmWaitAll hc).trans (if_pos (List.isEmpty_iff.mpr h)))
  case allWait =>
    refine ⟨_, ((exec_nmWaitAll hc).trans (if_neg fun he => h (List.isEmpty_iff.mp he))).trans (blockOn_of_thread hc),
      thr_setThr_self _ _ _, onlyThread_setThr _ _ _⟩
  case stat =>
    rw [writesRegister, exec_nmStat d hc]
    exact_mod_cast writeOn_spec s d _ (hasProgram_of_thread hc)

end Sys2Proof
end

section
/-!
PROOFS. The encoding (O56). From instruction to word: the round trip of each instruction, gathered. From word to instruction: a
checked field is legal only as the encoder writes it, so each form answers only instructions that have the fields it was given, and so
does each group table.
-/

-- All group tables unfold `encodeFields`: elaborated at once they would wait for its equations in a thread each.
set_option Elab.async false

namespace Sys2Proof.Laws.RoundTrip

/-- Every instruction goes round: its word's fields decode to it. -/
theorem statement_all (i : Instr) : Statement i := by
  cases i
  exacts [add _ _ _, sub _ _ _, and _ _ _, or _ _ _, xor _ _ _, andn _ _ _, sll _ _ _, srl _ _ _, sra _ _ _, ror _ _ _,
    sltI64 _ _ _, sltN64 _ _ _, minI64 _ _ _, minN64 _ _ _, maxI64 _ _ _, maxN64 _ _ _, clz _ _, ctz _ _, popc _ _, jalr _ _,
    lidx _ _, lbrk _, addi _ _ _, andi _ _ _, ori _ _ _, xori _ _ _, sltiI64 _ _ _, sltiN64 _ _ _, slli _ _ _, srli _ _ _,
    srai _ _ _, lui _ _, apc _ _, mul _ _ _, mulhI64 _ _ _, mulhN64 _ _ _, divI64 _ _ _, divN64 _ _ _, remI64 _ _ _,
    remN64 _ _ _, mulI32 _ _ _, bfxN64 _ _ _, bfxI64 _ _ _, bfi _ _ _, bswap _ _, brev _ _, beq _ _ _, bne _ _ _, bltI64 _ _ _,
    bgeI64 _ _ _, jal _, loop _ _ _, ldI8 _ _ _, ldN8 _ _ _, ldI16 _ _ _, ldN16 _ _ _, ldI32 _ _ _, ldN32 _ _ _, ld64 _ _ _,
    ldAcq64 _ _ _, st8 _ _ _, st16 _ _ _, st32 _ _ _, st64 _ _ _, stRel64 _ _ _, ldAcqN32 _ _ _, stRel32 _ _ _,
    amoSwap _ _ _ _ _, amoAdd _ _ _ _ _, amoAnd _ _ _ _ _, amoOr _ _ _ _ _, amoXor _ _ _ _ _, amoMinI _ _ _ _ _,
    amoMaxI _ _ _ _ _, amoMinN _ _ _ _ _, amoMaxN _ _ _ _ _, amoCas _ _ _ _ _, amoCas16 _ _ _ _, fence _, fenceRel _,
    fenceAcq _, xfence _, barArrive _ _ _, barExpect _ _, barWait _ _, barTest _ _ _, barInit _ _, forkF _, forkX _, join, exit,
    yield, trap _, tret, gets _ _, sets _ _, launch _ _, vsetl _ _ _, vcfg _, vtos _ _ _, mtos _ _, vbcast _ _, vindex _,
    vaddFloat _ _ _ _, vsubFloat _ _ _ _, vmulFloat _ _ _ _, vdiv _ _ _ _, vfma _ _ _ _, vfms _ _ _ _, vfnma _ _ _ _,
    vminFloat _ _ _ _, vmaxFloat _ _ _ _, vabsFloat _ _ _, vnegFloat _ _ _, vsqrt _ _ _, vexp2 _ _ _, vaddInt _ _ _ _,
    vsubInt _ _ _ _, vmulInt _ _ _ _, vmulhi _ _ _ _, vminInt _ _ _ _, vmaxInt _ _ _ _, vaddsat _ _ _ _, vsubsat _ _ _ _,
    vabsInt _ _ _, vnegInt _ _ _, vmad _ _ _ _, vand _ _ _ _, vor _ _ _ _, vxor _ _ _ _, vandn _ _ _ _, vnot _ _ _,
    vsll _ _ _ _, vsrl _ _ _ _, vsra _ _ _ _, vcmpEq _ _ _ _, vcmpNe _ _ _ _, vcmpLt _ _ _ _, vcmpLe _ _ _ _, vsel _ _ _ _,
    mand _ _ _, mor _ _ _, mxor _ _ _, mandn _ _ _, mnot _ _, vcvt _ _ _ _, vlift _ _ _ _, vsink _ _ _ _, vpick _ _ _ _,
    vpack _ _ _, vprune _ _ _, vzip _ _ _ _, vunzip _ _ _ _, vliftZ _ _ _ _, vsinkZ _ _ _ _, vpackK _ _ _, vfoldAdd _ _ _,
    vfoldMax _ _ _, vfoldMin _ _ _, vfoldAnd _ _ _, vfoldOr _ _ _, vfoldXor _ _ _, vfoldAmax _ _ _, vld _ _ _ _ _ _,
    vlds _ _ _ _ _ _, vldx _ _ _ _ _ _, vldb _ _ _ _ _ _, vldSpec _ _ _ _ _ _, vldsSpec _ _ _ _ _ _, vldxSpec _ _ _ _ _ _,
    vst _ _ _ _ _ _, vsts _ _ _ _ _ _, vstx _ _ _ _ _ _, vstb _ _ _ _ _ _, trow _ _ _ _, tcol _ _ _ _, vspec, vmerge _ _ _,
    faAttach _, faDetach _, faCfgld _, faCommit, faWait, faStageFloat _ _ _ _ _, faStageBfp16 _ _ _ _ _, faStageMod _ _ _ _ _,
    faDense _ _ _ _, faSparse _ _ _ _, faPwTwid _ _, faPwScale _ _, faPwAdd _ _, faPwRelu _, faPwExp2 _, faPwModred _,
    faBfpStatic _ _, faBfpMeas _, faZero _, faDrain _ _ _, faDrainv _ _ _, faAmax _ _, faAmaxFinal _ _, faModset _, faCrt _ _ _,
    vproj _ _, vprojThresh _ _, vprojBwd _ _, vpmerge _ _ _, cp _ _ _, cpTr _ _ _, cpCvt _ _ _, cpRed _ _ _ _ _,
    cpRed2 _ _ _ _ _, cpNest _, cpArm _ _ _, cpWait, cpStat _, collAr _ _, collRs _ _, collAg _ _, collA2a _ _, collBc _ _,
    collTm _ _, cmAdd _ _ _ _, cmMin _ _ _ _, cmMax _ _ _ _, cmAnd _ _ _ _, cmOr _ _ _ _, cmXor _ _ _ _, cmSwap _ _ _ _,
    cmCas _ _ _ _, cmEw _ _ _, cmRed _ _ _, cmMadd _ _ _, cmProbe _ _ _, iqDecl _ _, iqEmit _ _, iqClose _ _, iqUndecl _,
    iqTake _ _, iqApply _ _, iqProbe _ _, iqQwait _ _, iqDone _, iqStat _ _, iqFront _ _, nmSgdf _ _ _, nmAxpy _ _ _,
    nmScale _ _ _, nmSumsq _ _ _, nmCast _ _ _, nmFill _ _ _, nmScatadd _ _ _, nmWait, nmWaitAll, nmStat _, stFlag _ _,
    stFlag32 _ _, lkPref _, lkFlush _, lkInval _, pcount _ _ _, fenceAck _, lkStat _ _, nop, hint _, illegalInstruction _,
    instructionFetchFault _, engineRecordDelivery _, heldRecordWrite _, vectorStripIssue _, forkedProgramTake _,
    barrierCompletion _ _, tagSweep _, armedCommandFire _ _ _, tileDefine _ _ _, tileCmdRelease _ _, tileCmdDiscard _ _,
    tileReady _ _, tileDrainEnd _ _, tileEmptyTimeout _, swathBoundary, governorWindow, preemptRequest _, preemptLanding _,
    plimExpiry _, saveComplete _, slotResume _, slotFree _, bindGo _, bindStateReady _, hostQueueTake _ _,
    dependenceObserve _ _ _, predicateRead _ _, replacementMapInstall _, pageWalk _ _ _, cowCopy _ _ _, invcmd _, snapcmd _,
    scrub _, uncorrectableError _, cfgRecovery _ _, cfgldPreemptHold _, faContextExecute _, copyExecute _, collReady _ _ _,
    collStart _ _, collAbort _ _ _, nmCommandStart _, nmCompletion _, readShared _ _, readExclusive _ _, upgrade _ _,
    writeBack _ _, pushWrite _, uncachedRead _, remoteAtomic _, invalidate _ _, invalidateAcknowledgement _ _, dataResponse _ _,
    writeAcknowledgement _, multicastRead _ _, collectivePacket _ _, queueRecord _, closingMarker _, markerAcknowledgement _,
    hostForward _ _, flagRelease _, linkReplay _ _, linkDown _ _, linkLoss _ _, routerFlitDiscard _, lreset _ _, hostWrite _ _,
    hostRead _ _, hostAtomic _ _ _ _ _, hostCompletionTimeout _, batchDelivery _ _, dcapRetry _ _, powerRequestP _ _,
    powerRequestD1 _, powerRequestD2 _, d1Exit _, d2Exit _, thermalTrip _, powerOn _, attestationRequest _, attestationReport _,
    present _, debugTokenCheck _, close _, ownerTransition _ _, registerWrite _ _, linkUp _ _, powerLoss _, debugHalt _,
    debugStep _, responseOverdue _, hostCompletion _ _ _, manufacturingExit _ _, fusedMinimumVersionRaise _ _]

end Sys2Proof.Laws.RoundTrip

namespace Sys2Proof

/-! ## From instruction to word -/

theorem encode_eq_some {i : Instr} {n : Nat} : encode i = some n ↔ ∃ f, encodeFields i = some f ∧ packFields f = n := by
  rw [encode]
  cases encodeFields i <;> simp

theorem decodeWord_eq_ok {n : Nat} {i : Instr} :
    decodeWord n = .ok i ↔ decodeFields (unpackFields n) = .ok i ∧ i.wellFormed = true := by
  rw [decodeWord]
  cases decodeFields (unpackFields n) with
  | error e => simp
  | ok j =>
    refine ⟨fun h => ?_, fun ⟨h, hw⟩ => ?_⟩
    · by_cases hj : j.wellFormed = true
      · obtain rfl := Except.ok.inj ((if_pos hj).symm.trans h)
        exact ⟨rfl, hj⟩
      · exact nomatch (if_neg hj).symm.trans h
    · obtain rfl := Except.ok.inj h
      exact if_pos hw

/-- R43: the word of a well-formed instruction has 32 bits and decodes to it. -/
theorem decodeWord_encode {i : Instr} {n : Nat} (hw : i.wellFormed = true) (h : encode i = some n) :
    n < 2 ^ 32 ∧ decodeWord n = .ok i := by
  obtain ⟨f, hf, rfl⟩ := encode_eq_some.mp h
  obtain ⟨h0, h1, h2, h3, hn, hd⟩ := Laws.RoundTrip.statement_all i hw f hf
  exact ⟨pack_lt f h0 h1 h2 h3 hn, decodeWord_eq_ok.mpr ⟨by rwa [unpack_pack f h1 h2 h3 hn h0], hw⟩⟩

theorem decodeWord_of_encode {i : Instr} {n : Nat} (hw : i.wellFormed = true) (h : encode i = some n) : decodeWord n = .ok i :=
  (decodeWord_encode hw h).2

/-! ## Checked fields: the one value from which each is read -/

@[simp] theorem fldN_eq_ok {k n : Nat} {v : Fin k} : fldN k n = .ok v ↔ n = v.val := by
  refine ⟨fun h => ?_, fldN_eq v⟩
  unfold fldN at h
  split at h
  · obtain rfl := Except.ok.inj h
    rfl
  · nomatch h

@[simp] theorem fldPair_eq_ok {k n : Nat} {v : Fin k} : fldPair k n = .ok v ↔ n = 2 * v.val := by
  refine ⟨fun h => ?_, fldPair_eq v⟩
  unfold fldPair at h
  split at h
  · split at h
    · obtain rfl := Except.ok.inj h
      dsimp only
      omega
    · nomatch h
  · nomatch h

@[simp] theorem fld0_eq_ok {n : Nat} {v : Unit} : fld0 n = .ok v ↔ n = 0 := by
  unfold fld0
  split <;> simp [*]

@[simp] theorem fld1_eq_ok {n : Nat} {v : Unit} : fld1 n = .ok v ↔ n = 1 := by
  unfold fld1
  split <;> simp [*]

@[simp] theorem fldCount_eq_ok {n : Nat} {v : Fin 4} : fldCount n = .ok v ↔ n = countOf v := by
  refine ⟨fun h => ?_, fun h => h ▸ fldCount_eq v⟩
  unfold fldCount at h
  split at h <;> cases h <;> rfl

@[simp] theorem fldQueue_eq_ok {n : Nat} {v : Option (Fin 8)} : fldQueue n = .ok v ↔ n = queueField v := by
  refine ⟨fun h => ?_, fun h => h ▸ fldQueue_eq v⟩
  unfold fldQueue at h
  split at h
  · cases h
    assumption
  · split at h
    · nomatch h
    · split at h
      · cases h
        simp only [queueField]
        omega
      · nomatch h

@[simp] theorem toNat_mod_two_beq_one (n : Nat) : (n % 2 == 1).toNat = n % 2 := by
  rcases Nat.mod_two_eq_zero_or_one n with h | h <;> rw [h] <;> rfl

/-! ## Forms: what they may answer -/

/-- Every instruction that the answer of a decoder may be has the fields `f`. -/
def AnswersFor (f : Fields) (r : Except Reject Instr) : Prop := ∀ i, r = .ok i → encodeFields i = some f

section Forms

variable {f : Fields} {α β γ δ ε ζ : Type} {x : Except Reject α} {y : Except Reject β} {z : Except Reject γ}
  {u : Except Reject δ} {t : Except Reject ε} {r : Except Reject ζ}

@[simp] theorem answersFor_error {e : Reject} : AnswersFor f (.error e) := fun _ h => nomatch h

@[simp] theorem answersFor_ok {i : Instr} : AnswersFor f (.ok i) ↔ encodeFields i = some f := by
  simp [AnswersFor]

@[simp] theorem answersFor_ite {p : Prop} [Decidable p] {q q' : Except Reject Instr} :
    AnswersFor f (if p then q else q') ↔ (p → AnswersFor f q) ∧ (¬p → AnswersFor f q') := by
  split <;> simp [*]

@[simp] theorem answersFor_form1 {k : α → Instr} :
    AnswersFor f (form1 x k) ↔ ∀ v, x = .ok v → encodeFields (k v) = some f := by
  cases x <;> simp [form1]

@[simp] theorem answersFor_form2 {k : α → β → Instr} :
    AnswersFor f (form2 x y k) ↔ ∀ v, x = .ok v → AnswersFor f (form1 y (k v)) := by
  cases x <;> simp [form2]

@[simp] theorem answersFor_form3 {k : α → β → γ → Instr} :
    AnswersFor f (form3 x y z k) ↔ ∀ v, x = .ok v → AnswersFor f (form2 y z (k v)) := by
  cases x <;> simp [form3]

@[simp] theorem answersFor_form4 {k : α → β → γ → δ → Instr} :
    AnswersFor f (form4 x y z u k) ↔ ∀ v, x = .ok v → AnswersFor f (form3 y z u (k v)) := by
  cases x <;> simp [form4]

@[simp] theorem answersFor_form5 {k : α → β → γ → δ → ε → Instr} :
    AnswersFor f (form5 x y z u t k) ↔ ∀ v, x = .ok v → AnswersFor f (form4 y z u t (k v)) := by
  cases x <;> simp [form5]

@[simp] theorem answersFor_form6 {k : α → β → γ → δ → ε → ζ → Instr} :
    AnswersFor f (form6 x y z u t r k) ↔ ∀ v, x = .ok v → AnswersFor f (form5 y z u t r (k v)) := by
  cases x <;> simp [form6]

end Forms

/-! ## Group tables

One lemma for each table of R50. Its rows are the cases of the function code; in each the form leaves equations between the fields of
the word and the operands, and these are what `encodeFields` puts together again. -/

/-- R50: the table of a major opcode answers only instructions that have the fields it was given. -/
def TableExact (m : Nat) (decode : Fields → Except Reject Instr) : Prop :=
  ∀ a b c n, a < 64 → b < 64 → c < 64 → n < 256 → AnswersFor ⟨m, a, b, c, n⟩ (decode ⟨m, a, b, c, n⟩)

theorem tableExact_01 : TableExact 0x01 decodeMajor01 := fun a b c n ha hb hc hn => by
  dsimp only [decodeMajor01]
  split <;> simp [encodeFields] <;> omega

theorem tableExact_02 : TableExact 0x02 decodeMajor02 := fun a b c n ha hb hc hn => by
  simp [decodeMajor02, encodeFields]
  omega

theorem tableExact_03 : TableExact 0x03 decodeMajor03 := fun a b c n ha hb hc hn => by
  dsimp only [decodeMajor03]
  split <;> simp [encodeFields] <;> omega

theorem tableExact_04 : TableExact 0x04 decodeMajor04 := fun a b c n ha hb hc hn => by
  simp [decodeMajor04, encodeFields]
  omega

theorem tableExact_05 : TableExact 0x05 decodeMajor05 := fun a b c n ha hb hc hn => by
  simp [decodeMajor05, encodeFields]
  omega

theorem tableExact_06 : TableExact 0x06 decodeMajor06 := fun a b c n ha hb hc hn => by
  dsimp only [decodeMajor06]
  split <;> simp [encodeFields] <;> omega

theorem tableExact_07 : TableExact 0x07 decodeMajor07 := fun a b c n ha hb hc hn => by
  dsimp only [decodeMajor07]
  split <;> simp [encodeFields] <;> omega

theorem tableExact_08 : TableExact 0x08 decodeMajor08 := fun a b c n ha hb hc hn => by
  simp [decodeMajor08, encodeFields]
  omega

theorem tableExact_09 : TableExact 0x09 decodeMajor09 := fun a b c n ha hb hc hn => by
  simp [decodeMajor09, encodeFields]
  omega

theorem tableExact_0A : TableExact 0x0A decodeMajor0A := fun a b c n ha hb hc hn => by
  simp [decodeMajor0A, encodeFields]
  omega

theorem tableExact_0B : TableExact 0x0B decodeMajor0B := fun a b c n ha hb hc hn => by
  simp [decodeMajor0B, encodeFields]
  omega

theorem tableExact_0C : TableExact 0x0C decodeMajor0C := fun a b c n ha hb hc hn => by
  simp [decodeMajor0C, encodeFields]
  omega

theorem tableExact_0D : TableExact 0x0D decodeMajor0D := fun a b c n ha hb hc hn => by
  simp [decodeMajor0D, encodeFields]
  omega

theorem tableExact_0E : TableExact 0x0E decodeMajor0E := fun a b c n ha hb hc hn => by
  dsimp only [decodeMajor0E]
  split <;> simp [encodeFields] <;> omega

theorem tableExact_0F : TableExact 0x0F decodeMajor0F := fun a b c n ha hb hc hn => by
  dsimp only [decodeMajor0F]
  split <;> simp [encodeFields] <;> omega

theorem tableExact_10 : TableExact 0x10 decodeMajor10 := fun a b c n ha hb hc hn => by
  dsimp only [decodeMajor10]
  split <;> simp [encodeFields] <;> omega

theorem tableExact_11 : TableExact 0x11 decodeMajor11 := fun a b c n ha hb hc hn => by
  dsimp only [decodeMajor11]
  split <;> simp [encodeFields] <;> omega

theorem tableExact_12 : TableExact 0x12 decodeMajor12 := fun a b c n ha hb hc hn => by
  dsimp only [decodeMajor12]
  split <;> simp [encodeFields] <;> omega

theorem tableExact_13 : TableExact 0x13 decodeMajor13 := fun a b c n ha hb hc hn => by
  dsimp only [decodeMajor13]
  split <;> simp [encodeFields] <;> omega

theorem tableExact_14 : TableExact 0x14 decodeMajor14 := fun a b c n ha hb hc hn => by
  dsimp only [decodeMajor14]
  split <;> simp [encodeFields] <;> omega

theorem tableExact_15 : TableExact 0x15 decodeMajor15 := fun a b c n ha hb hc hn => by
  dsimp only [decodeMajor15]
  split <;> simp [encodeFields] <;> omega

theorem tableExact_16 : TableExact 0x16 decodeMajor16 := fun a b c n ha hb hc hn => by
  dsimp only [decodeMajor16]
  split <;> simp [encodeFields] <;> omega

theorem tableExact_17 : TableExact 0x17 decodeMajor17 := fun a b c n ha hb hc hn => by
  dsimp only [decodeMajor17]
  split <;> simp [encodeFields] <;> omega

theorem tableExact_18 : TableExact 0x18 decodeMajor18 := fun a b c n ha hb hc hn => by
  dsimp only [decodeMajor18]
  split <;> simp [encodeFields] <;> omega

theorem tableExact_19 : TableExact 0x19 decodeMajor19 := fun a b c n ha hb hc hn => by
  simp [decodeMajor19, encodeFields]
  omega

theorem tableExact_1A : TableExact 0x1A decodeMajor1A := fun a b c n ha hb hc hn => by
  dsimp only [decodeMajor1A]
  split <;> simp [encodeFields] <;> omega

theorem tableExact_1B : TableExact 0x1B decodeMajor1B := fun a b c n ha hb hc hn => by
  dsimp only [decodeMajor1B]
  split <;> simp [encodeFields] <;> omega

theorem tableExact_1C : TableExact 0x1C decodeMajor1C := fun a b c n ha hb hc hn => by
  dsimp only [decodeMajor1C]
  split <;> simp [encodeFields] <;> omega

theorem tableExact_1D : TableExact 0x1D decodeMajor1D := fun a b c n ha hb hc hn => by
  dsimp only [decodeMajor1D]
  split <;> simp [encodeFields] <;> omega

theorem tableExact_1E : TableExact 0x1E decodeMajor1E := fun a b c n ha hb hc hn => by
  dsimp only [decodeMajor1E]
  split <;> simp [encodeFields] <;> omega

theorem tableExact_1F : TableExact 0x1F decodeMajor1F := fun a b c n ha hb hc hn => by
  dsimp only [decodeMajor1F]
  split <;> simp [encodeFields] <;> omega

theorem tableExact_20 : TableExact 0x20 decodeMajor20 := fun a b c n ha hb hc hn => by
  dsimp only [decodeMajor20]
  split <;> simp [encodeFields] <;> omega

theorem tableExact_21 : TableExact 0x21 decodeMajor21 := fun a b c n ha hb hc hn => by
  dsimp only [decodeMajor21]
  split <;> simp [encodeFields] <;> omega

theorem tableExact_22 : TableExact 0x22 decodeMajor22 := fun a b c n ha hb hc hn => by
  dsimp only [decodeMajor22]
  split <;> simp [encodeFields] <;> omega

theorem tableExact_23 : TableExact 0x23 decodeMajor23 := fun a b c n ha hb hc hn => by
  dsimp only [decodeMajor23]
  split <;> simp [encodeFields] <;> omega

theorem tableExact_24 : TableExact 0x24 decodeMajor24 := fun a b c n ha hb hc hn => by
  dsimp only [decodeMajor24]
  split <;> simp [encodeFields] <;> omega

theorem tableExact_25 : TableExact 0x25 decodeMajor25 := fun a b c n ha hb hc hn => by
  dsimp only [decodeMajor25]
  split <;> simp [encodeFields] <;> omega

theorem tableExact_26 : TableExact 0x26 decodeMajor26 := fun a b c n ha hb hc hn => by
  dsimp only [decodeMajor26]
  split <;> simp [encodeFields] <;> omega

theorem tableExact_28 : TableExact 0x28 decodeMajor28 := fun a b c n ha hb hc hn => by
  dsimp only [decodeMajor28]
  split <;> simp [encodeFields] <;> omega

theorem tableExact_29 : TableExact 0x29 decodeMajor29 := fun a b c n ha hb hc hn => by
  dsimp only [decodeMajor29]
  split <;> simp [encodeFields] <;> omega

theorem tableExact_2A : TableExact 0x2A decodeMajor2A := fun a b c n ha hb hc hn => by
  dsimp only [decodeMajor2A]
  split <;> simp [encodeFields] <;> omega

theorem tableExact_2C : TableExact 0x2C decodeMajor2C := fun a b c n ha hb hc hn => by
  dsimp only [decodeMajor2C]
  split <;> simp [encodeFields] <;> omega

theorem tableExact_2D : TableExact 0x2D decodeMajor2D := fun a b c n ha hb hc hn => by
  dsimp only [decodeMajor2D]
  split <;> simp [encodeFields] <;> omega

theorem tableExact_2E : TableExact 0x2E decodeMajor2E := fun a b c n ha hb hc hn => by
  dsimp only [decodeMajor2E]
  split <;> simp [encodeFields] <;> omega

theorem tableExact_2F : TableExact 0x2F decodeMajor2F := fun a b c n ha hb hc hn => by
  dsimp only [decodeMajor2F]
  split <;> simp [encodeFields] <;> omega

theorem tableExact_30 : TableExact 0x30 decodeMajor30 := fun a b c n ha hb hc hn => by
  dsimp only [decodeMajor30]
  split <;> simp [encodeFields] <;> omega

theorem tableExact_31 : TableExact 0x31 decodeMajor31 := fun a b c n ha hb hc hn => by
  dsimp only [decodeMajor31]
  split <;> simp [encodeFields] <;> omega

theorem tableExact_32 : TableExact 0x32 decodeMajor32 := fun a b c n ha hb hc hn => by
  dsimp only [decodeMajor32]
  split <;> simp [encodeFields] <;> omega

theorem tableExact_33 : TableExact 0x33 decodeMajor33 := fun a b c n ha hb hc hn => by
  dsimp only [decodeMajor33]
  split <;> simp [encodeFields] <;> omega

theorem tableExact_3E : TableExact 0x3E decodeMajor3E := fun a b c n ha hb hc hn => by
  refine answersFor_ite.mpr ⟨fun h => ?_, fun _ => ?_⟩
  · obtain ⟨rfl, rfl, rfl, rfl⟩ := h
    exact answersFor_ok.mpr rfl
  · simp [encodeFields]
    omega

/-! ## From word to instruction -/

/-- R44: fields that fit below the major opcode of a word. -/
structure Fields.Fits (f : Fields) : Prop where
  f1 : f.f1 < 64
  f2 : f.f2 < 64
  f3 : f.f3 < 64
  fn : f.fn < 256

theorem unpackFields_fits (n : Nat) : (unpackFields n).Fits :=
  ⟨Nat.mod_lt _ (by decide), Nat.mod_lt _ (by decide), Nat.mod_lt _ (by decide), Nat.mod_lt _ (by decide)⟩

/-- R44: the fields of a word make the word again. -/
theorem pack_unpack {n : Nat} (h : n < 2 ^ 32) : packFields (unpackFields n) = n := by
  simp only [packFields, unpackFields]
  omega

theorem TableExact.answersFor {m : Nat} {decode : Fields → Except Reject Instr} {f : Fields} (h : TableExact m decode)
    (hm : f.mj = m) (hf : f.Fits) : AnswersFor f (decode f) := by
  subst hm
  exact h _ _ _ _ hf.f1 hf.f2 hf.f3 hf.fn

theorem decodeFields_answersFor {f : Fields} (hf : f.Fits) : AnswersFor f (decodeFields f) := by
  unfold decodeFields
  split
  exacts [tableExact_01.answersFor ‹_› hf, tableExact_02.answersFor ‹_› hf, tableExact_03.answersFor ‹_› hf,
    tableExact_04.answersFor ‹_› hf, tableExact_05.answersFor ‹_› hf, tableExact_06.answersFor ‹_› hf,
    tableExact_07.answersFor ‹_› hf, tableExact_08.answersFor ‹_› hf, tableExact_09.answersFor ‹_› hf,
    tableExact_0A.answersFor ‹_› hf, tableExact_0B.answersFor ‹_› hf, tableExact_0C.answersFor ‹_› hf,
    tableExact_0D.answersFor ‹_› hf, tableExact_0E.answersFor ‹_› hf, tableExact_0F.answersFor ‹_› hf,
    tableExact_10.answersFor ‹_› hf, tableExact_11.answersFor ‹_› hf, tableExact_12.answersFor ‹_› hf,
    tableExact_13.answersFor ‹_› hf, tableExact_14.answersFor ‹_› hf, tableExact_15.answersFor ‹_› hf,
    tableExact_16.answersFor ‹_› hf, tableExact_17.answersFor ‹_› hf, tableExact_18.answersFor ‹_› hf,
    tableExact_19.answersFor ‹_› hf, tableExact_1A.answersFor ‹_› hf, tableExact_1B.answersFor ‹_› hf,
    tableExact_1C.answersFor ‹_› hf, tableExact_1D.answersFor ‹_› hf, tableExact_1E.answersFor ‹_› hf,
    tableExact_1F.answersFor ‹_› hf, tableExact_20.answersFor ‹_› hf, tableExact_21.answersFor ‹_› hf,
    tableExact_22.answersFor ‹_› hf, tableExact_23.answersFor ‹_› hf, tableExact_24.answersFor ‹_› hf,
    tableExact_25.answersFor ‹_› hf, tableExact_26.answersFor ‹_› hf, tableExact_28.answersFor ‹_› hf,
    tableExact_29.answersFor ‹_› hf, tableExact_2A.answersFor ‹_› hf, tableExact_2C.answersFor ‹_› hf,
    tableExact_2D.answersFor ‹_› hf, tableExact_2E.answersFor ‹_› hf, tableExact_2F.answersFor ‹_› hf,
    tableExact_30.answersFor ‹_› hf, tableExact_31.answersFor ‹_› hf, tableExact_32.answersFor ‹_› hf,
    tableExact_33.answersFor ‹_› hf, tableExact_3E.answersFor ‹_› hf, answersFor_error]

/-- Settles O56. An instruction's word decodes to it by the round trip of each instruction (`decodeWord_encode`); an accepted word is
the word of its instruction because every group table answers only instructions with the fields it was given
(`decodeFields_answersFor`). -/
theorem decodeAndEncodeAgree : Obligations.DecodeAndEncodeAgree := by
  refine ⟨fun i n hw h => decodeWord_encode hw h, fun n i hn h => ?_⟩
  obtain ⟨hd, hw⟩ := decodeWord_eq_ok.mp h
  exact ⟨hw, encode_eq_some.mpr ⟨_, decodeFields_answersFor (unpackFields_fits n) i hd, pack_unpack hn⟩⟩

end Sys2Proof
end

section
/-!
PROOFS. Worked words and words that change nothing but the position (O57, O9). A worked word decodes because it is the word of its
instruction (`decodeWord_of_encode`).
-/

namespace Sys2Proof

theorem decodeWord_of_error {n : Nat} {e : Reject} (h : decodeFields (unpackFields n) = .error e) : decodeWord n = .error e := by
  rw [decodeWord, h]

theorem unpackFields_mj {n : Nat} (h : n < 2 ^ 32) : (unpackFields n).mj = n / 2 ^ 26 := by
  simp only [unpackFields]
  omega

theorem decodeFields_badMajor {f : Fields} (h : f.mj = 0 ∨ f.mj = 0x3F) : decodeFields f = .error .badMajor := by
  obtain ⟨m, a, b, c, n⟩ := f
  rcases h with rfl | rfl <;> rfl

theorem encode_nop : encode .nop = some (0x3E * 2 ^ 26) := rfl

theorem encode_hint (k : Fin 67108864) : encode (.hint k) = some (0x3E * 2 ^ 26 + k.val) := by
  refine encode_eq_some.mpr ⟨_, rfl, ?_⟩
  simp only [packFields]
  omega

/-- R63: the words of major 0x3E are `nop` and the hints. -/
theorem decodeWord_major3E {n : Nat} (h : n < 2 ^ 26) :
    decodeWord (0x3E * 2 ^ 26 + n) = .ok .nop
      ∨ ∃ k : Fin 67108864, k.val = n ∧ decodeWord (0x3E * 2 ^ 26 + n) = .ok (.hint k) := by
  by_cases hn : n = 0
  · subst hn
    exact .inl (decodeWord_of_encode rfl encode_nop)
  · exact .inr ⟨⟨n, h⟩, rfl, decodeWord_of_encode (bne_iff_ne.mpr hn) (encode_hint _)⟩

/-- Settles O57. -/
theorem wordsDecode : Obligations.WordsDecode := by
  refine ⟨?_, ?_, ?_, ?_, ?_, ?_, ?_, ?_, ?_, ?_, ?_, ?_, ?_, ?_, ?_, fun n hn hm => ?illegal, fun _ => decodeWord_major3E⟩
  case illegal =>
    rw [← unpackFields_mj hn] at hm
    exact decodeWord_of_error (decodeFields_badMajor hm)
  all_goals exact decodeWord_of_encode rfl rfl

end Sys2Proof

namespace Sys2Proof.Machine

/-- R61: every kind of sequencer executes `nop` and the hints. -/
theorem mayRun_nop (a : Agent) : mayRun a .nop = true := by cases a <;> rfl

theorem mayRun_hint (a : Agent) (k : Fin 67108864) : mayRun a (.hint k) = true := by cases a <;> rfl

/-- R174: below domain scope a fence has nothing to wait for. -/
theorem exec_fence_of_lt {s : State} {scope : Fin 6} (h : scope.val < 4) : exec (.fence scope) s = .next (finish s) :=
  if_pos h

/-- R176: an `xfence` goes on once the V accesses that it orders are performed. -/
theorem exec_xfence_of_not_waiting {s : State} {mask : Fin 128} (h : mask.val.testBit 1 = true → orderWaits s = false) :
    exec (.xfence mask) s = .next (finish s) :=
  if_neg fun ⟨hv, hw⟩ => absurd (h hv) (by simp [hw])

end Sys2Proof.Machine

namespace Sys2Proof
open Machine

/-- Settles O9. Each of these instructions is `finish` alone (`onlyGoesOn_of_exec`). -/
theorem onlyThePositionMoves : Obligations.OnlyThePositionMoves := by
  refine ⟨fun s hs => ⟨onlyGoesOn_of_exec hs rfl, fun _ => onlyGoesOn_of_exec hs rfl, fun _ => onlyGoesOn_of_exec hs rfl,
    fun _ h => onlyGoesOn_of_exec hs (exec_fence_of_lt h),
    fun _ h => onlyGoesOn_of_exec hs (exec_xfence_of_not_waiting h)⟩, fun a w hw => ?_⟩
  obtain h | ⟨k, -, h⟩ := decodeWord_major3E hw
  · exact ⟨.nop, .inl rfl, h, mayRun_nop a⟩
  · exact ⟨.hint k, .inr ⟨k, rfl⟩, h, mayRun_hint a k⟩

end Sys2Proof
end

section
/-!
PROOFS. A step runs the word it fetches (O58): refuted. A fetch that misses in the LLC of its die goes to the home of the line, which
fetches the line from an M owner (R337, `fetchOwner`). Where a near-memory write has left that copy behind (R459), the bytes that the
owner has stored are written back to memory, and this is neither a fill nor an outstanding request: `accessed` does not put it back.
-/

namespace Sys2Proof.Machine

/-- `nop` where slot 0 of die 0 fetches next, in a line of which die 1 holds an M copy that a near-memory write has left behind: its
byte 63, which die 1 has stored, is 1 in the copy and 0 in memory. -/
def ownedElsewhere : State :=
  { State.reset.withFetchWord 32 0xF8000000 with
    llc := [(2 ^ 46 + placeAddr / 64, some ⟨.modified, some (2 ^ 504), 2 ^ 63⟩)]
    dir := [(placeAddr / 64, { DirEntry.init with owner := some 1 })] }

theorem readByte_ownedElsewhere : readByte ownedElsewhere (placeAddr + 63) = 0 := by decide +kernel

theorem exists_next_of_match {o : Out} {f : State → Byte} (h : (match o with | .next t => f t | _ => 0) = 1) :
    ∃ t, o = .next t ∧ f t = 1 := by
  cases o with
  | next t => exact ⟨t, rfl, h⟩
  | fault => exact absurd h (show (0 : Byte) ≠ 1 by decide)
  | refused => exact absurd h (show (0 : Byte) ≠ 1 by decide)

/-- The fetch of the `nop` writes back what die 1 has stored. -/
theorem step_ownedElsewhere : ∃ t, step ownedElsewhere = .next t ∧ readByte t (placeAddr + 63) = 1 :=
  exists_next_of_match (by decide +kernel)

theorem goesOn_ownedElsewhere : GoesOn ownedElsewhere 0 where
  powered := by decide +kernel
  notHalted := by decide +kernel
  noTrapOwed := by decide +kernel
  noLanding := by decide +kernel
  noDelivery := by decide +kernel
  itsTurn := by decide +kernel
  noStrip j hj h := by
    have hj4 : j < 4 := by omega
    have hnone : ∀ j < 4, stripReady ownedElsewhere j = false := by decide +kernel
    exact absurd (hnone j hj4) (by simp [h])

theorem fetches_ownedElsewhere : fetches (threadTurn ownedElsewhere 0 []) 0xF8000000 :=
  ⟨0xE000000000001F, placeAddr, by decide +kernel, by decide +kernel, by decide +kernel,
    ⟨by decide +kernel, .inl (by decide +kernel)⟩, by decide +kernel, by decide +kernel⟩

theorem untraced_ownedElsewhere :
    dbgOf ownedElsewhere (devOfDie (dieOfThread 0)) = 0 ∧ (device ownedElsewhere (devOfDie (dieOfThread 0))).sec ≠ 2 := by
  decide +kernel

theorem wordRuns_nop (s : State) : wordRuns s 0xF8000000 .nop :=
  .inl ⟨decodeWord_of_encode rfl encode_nop, mayRun_nop _⟩

theorem finish_mem (s : State) : (finish s).mem = s.mem := (congrArg State.mem (onlySeq_finish s).rest :)

theorem finish_devices (s : State) : (finish s).devices = s.devices := (congrArg State.devices (onlySeq_finish s).rest :)

theorem readByte_of_mem {s t : State} (h : t.mem = s.mem) (a : Nat) : readByte t a = readByte s a := by
  rw [readByte, readByte, h]

theorem mem_of_accessed {s t : State} (h : accessed t s = s) : t.mem = s.mem := (congrArg State.mem h :)

theorem devices_of_accessed {s t : State} (h : accessed t s = s) : t.devices = s.devices := (congrArg State.devices h :)

theorem threadTurn_mem (s : State) (k : Nat) (l : List Agent) : (threadTurn s k l).mem = s.mem := by
  unfold threadTurn observeMap
  dsimp only
  split <;> rfl

theorem threadTurn_devices (s : State) (k : Nat) (l : List Agent) : (threadTurn s k l).devices = s.devices := by
  unfold threadTurn observeMap
  dsimp only
  split <;> rfl

/-- R474: whether a step is traced depends on memory and the devices alone. -/
theorem untraced_of_eq {s t : State} {dev : Nat} (hmem : t.mem = s.mem) (hdev : t.devices = s.devices)
    (h : dbgOf s dev = 0 ∧ (device s dev).sec ≠ 2) : untraced (.next t) dev := by
  intro u hu
  obtain rfl := Host.Outcome.next.inj hu
  simpa only [dbgOf, readMem, device, hmem, hdev] using h

end Sys2Proof.Machine

namespace Sys2Proof
open Machine

/-- Refutes O58: in `ownedElsewhere` the step writes byte 63 of the fetched line back, while `nop`, from a state that differs in what
an access leaves on its way only, leaves memory as it was. -/
theorem not_stepRunsTheWord : ¬ Obligations.StepRunsTheWord := by
  intro h
  obtain ⟨-, hthread, -, -⟩ := h
  obtain ⟨v, hv, -, hstep⟩ := (hthread ownedElsewhere 0 [] 0xF8000000 .nop ⟨rfl, by decide +kernel⟩ (.inl rfl) rfl
    goesOn_ownedElsewhere).1 (by decide +kernel) fetches_ownedElsewhere (wordRuns_nop _)
  have hmem : (finish v).mem = ownedElsewhere.mem :=
    (finish_mem v).trans ((mem_of_accessed hv).trans (threadTurn_mem _ _ _))
  have hdev : (finish v).devices = ownedElsewhere.devices :=
    (finish_devices v).trans ((devices_of_accessed hv).trans (threadTurn_devices _ _ _))
  obtain ⟨t, ht, hbyte⟩ := step_ownedElsewhere
  have hnext : step ownedElsewhere = .next (finish v) := hstep (untraced_of_eq hmem hdev untraced_ownedElsewhere)
  obtain rfl : t = finish v := Host.Outcome.next.inj (ht.symm.trans hnext)
  have hsame : readByte (finish v) (placeAddr + 63) = readByte ownedElsewhere (placeAddr + 63) := readByte_of_mem hmem _
  rw [hbyte, readByte_ownedElsewhere] at hsame
  exact absurd hsame (by decide)

end Sys2Proof
end

section
/-!
PROOFS. Rounding (R95..R97). The exact value of an operation is a real number `r` that its comparisons see (`Sees`). The model holds its
magnitude as `m * 2^e`, or, for quotients and roots, with a last bit that stands for everything below (`Stands`). `RoundsAt g` says which of
two neighbours of a rising grid `g` a mode selects for a magnitude: of the integers, or of the magnitudes of a format (`magVal`).
-/

-- The check elaborates all files as one text: one declaration at a time keeps that within its memory.
set_option Elab.async false

namespace Sys2Proof.Machine

/-! ## Exact values as real numbers -/

/-- The comparisons of an exact value are those of a real number. -/
structure Sees (v : ℚ → Ordering) (r : ℝ) : Prop where
  lt : ∀ q : ℚ, v q = .lt ↔ r < q
  eq : ∀ q : ℚ, v q = .eq ↔ r = q
  gt : ∀ q : ℚ, v q = .gt ↔ (q : ℝ) < r

theorem sees_exactAt (v : ℚ) : Sees (exactAt v) v := by
  constructor <;> intro q <;> unfold exactAt <;> norm_cast
  all_goals
    rcases lt_trichotomy v q with h | rfl | h
    · simp [h, h.not_gt, h.ne]
    · simp
    · simp [h, h.not_gt, h.ne']

theorem sees_exactRoot {p : ℚ} (hp : 0 ≤ p) : Sees (exactRoot p) √(p : ℝ) := by
  have hroot : 0 ≤ √(p : ℝ) := Real.sqrt_nonneg _
  have hsq : √(p : ℝ) * √(p : ℝ) = p := Real.mul_self_sqrt (by exact_mod_cast hp)
  generalize √(p : ℝ) = x at hroot hsq
  have neg : ∀ q : ℚ, (q : ℝ) < 0 → exactRoot p q = .gt := fun q hq => if_pos (by exact_mod_cast hq)
  have pos : ∀ q : ℚ, (0 : ℝ) ≤ q → exactRoot p q = exactAt p (q * q) := fun q hq => if_neg (by exact_mod_cast not_lt.mpr hq)
  constructor <;> intro q <;> rcases lt_or_ge (q : ℝ) 0 with hq | hq
  · exact iff_of_false (by rw [neg q hq]; decide) (by linarith)
  · rw [pos q hq, (sees_exactAt p).lt, Rat.cast_mul, ← hsq]
    exact (mul_self_lt_mul_self_iff hroot hq).symm
  · exact iff_of_false (by rw [neg q hq]; decide) (by linarith)
  · rw [pos q hq, (sees_exactAt p).eq, Rat.cast_mul, ← hsq]
    exact mul_self_inj hroot hq
  · exact iff_of_true (neg q hq) (by linarith)
  · rw [pos q hq, (sees_exactAt p).gt, Rat.cast_mul, ← hsq]
    exact (mul_self_lt_mul_self_iff hq hroot).symm

section Sees
variable {v : ℚ → Ordering} {r : ℝ} (h : Sees v r)
include h

theorem Sees.ne_lt (q : ℚ) : v q ≠ .lt ↔ (q : ℝ) ≤ r := by rw [ne_eq, h.lt, not_lt]
theorem Sees.ne_gt (q : ℚ) : v q ≠ .gt ↔ r ≤ q := by rw [ne_eq, h.gt, not_lt]

end Sees

/-- A magnitude with a sign. -/
def signed (neg : Bool) (a : ℝ) : ℝ := if neg then -a else a

/-! ## The direction of a rounding -/

/-- R95, R97: a mode rounds a magnitude that lies a part `t` of the way from a neighbour `k` to the next up to the next. -/
def roundsUp (rm sr : ℕ) (neg : Bool) (k : ℕ) (t : ℝ) : Prop :=
  match rm with
  | 0 => 1 / 2 < t ∨ (t = 1 / 2 ∧ k % 2 = 1)
  | 1 => False
  | 2 => neg = true
  | 3 => neg = false
  | 4 => 1 / 2 ≤ t
  | _ => (sr + 1 : ℝ) / 2 ^ 32 ≤ t

/-- R95, R97: a mode selects member `c` of a rising grid for a magnitude. -/
def RoundsAt (g : ℕ → ℝ) (rm sr : ℕ) (neg : Bool) (a : ℝ) (c : ℕ) : Prop :=
  a = g c ∨ ∃ k, g k < a ∧ a < g (k + 1)
    ∧ ((roundsUp rm sr neg k ((a - g k) / (g (k + 1) - g k)) ∧ c = k + 1) ∨ (¬ roundsUp rm sr neg k ((a - g k) / (g (k + 1) - g k)) ∧ c = k))

/-- The magnitude `m * 2^e` stands for a real magnitude: it is that magnitude, or its odd last bit stands for a part of a unit. -/
def Stands (m : ℕ) (e : ℤ) (a : ℝ) : Prop :=
  a = m * (2 : ℝ) ^ e ∨ (m % 2 = 1 ∧ 2 ^ 64 ≤ m ∧ (m - 1 : ℝ) * 2 ^ e < a ∧ a < (m + 1 : ℝ) * 2 ^ e)

/-- The last bit of a magnitude stands for a part of a unit: the magnitude compares with even numbers as what it stands for. -/
theorem even_le_iff {r t : ℕ} {x : ℝ} (hr : r % 2 = 1) (ht : t % 2 = 0) (hlo : (r - 1 : ℝ) < x) (hhi : x < r + 1) :
    ((t : ℝ) ≤ x ↔ t ≤ r) ∧ ((t : ℝ) < x ↔ t < r) ∧ x ≠ t := by
  rcases Nat.lt_or_ge t r with h | h
  · have : (t : ℝ) ≤ r - 1 := by have : t + 1 ≤ r := h; have : ((t + 1 : ℕ) : ℝ) ≤ r := by exact_mod_cast this
                                 push_cast at this; linarith
    exact ⟨iff_of_true (by linarith) h.le, iff_of_true (by linarith) h, by intro h'; rw [h'] at hlo; linarith⟩
  · have h1 : r + 1 ≤ t := by omega
    have : (r + 1 : ℝ) ≤ t := by exact_mod_cast h1
    exact ⟨iff_of_false (by linarith) (by omega), iff_of_false (by linarith) (by omega), by intro h'; rw [h'] at hhi; linarith⟩

end Sys2Proof.Machine
end

section
/-!
PROOFS. The integers that a mode selects (R95): how the model shifts a magnitude and rounds it.
-/

set_option Elab.async false

namespace Sys2Proof.Machine

/-- A number `r` stands for a real one: it is that number, or it is odd and stands for a part of a unit. -/
theorem stood_cmp {r t sh : ℕ} {x : ℝ} (h : x = r ∨ (r % 2 = 1 ∧ 33 ≤ sh ∧ (r - 1 : ℝ) < x ∧ x < r + 1)) (ht : 33 ≤ sh → t % 2 = 0) :
    ((t : ℝ) ≤ x ↔ t ≤ r) ∧ ((t : ℝ) < x ↔ t < r) ∧ (x = t ↔ r = t) := by
  rcases h with rfl | ⟨hodd, hsh, hlo, hhi⟩
  · exact ⟨Nat.cast_le, Nat.cast_lt, Nat.cast_inj⟩
  · obtain ⟨h1, h2, h3⟩ := even_le_iff hodd (ht hsh) hlo hhi
    exact ⟨h1, h2, iff_of_false h3 (by have := ht hsh; omega)⟩

/-- The decision of `roundShift` for a number `2^sh * q + r`. -/
def shiftUp (rm sr : ℕ) (neg : Bool) (q r sh : ℕ) : Bool :=
  match rm with
  | 0 => decide (2 ^ sh < 2 * r) || (2 * r == 2 ^ sh && q % 2 == 1)
  | 1 => false
  | 2 => neg
  | 3 => !neg
  | 4 => decide (2 ^ sh ≤ 2 * r)
  | _ => decide (sr < (if sh ≤ 32 then r * 2 ^ (32 - sh) else r / 2 ^ (sh - 32)))

theorem roundShift_eq (rm sr : ℕ) (neg : Bool) (m sh : ℕ) : roundShift rm sr neg m sh =
    if m % 2 ^ sh = 0 then m / 2 ^ sh
    else if shiftUp rm sr neg (m / 2 ^ sh) (m % 2 ^ sh) sh then m / 2 ^ sh + 1 else m / 2 ^ sh := rfl

/-- R95, R97: the decision of the model is that of the mode, for the part `x / 2^sh` of the way. -/
theorem shiftUp_iff {rm sr q r sh : ℕ} {neg : Bool} {x : ℝ} (hr : r ≠ 0) (hlt : r < 2 ^ sh)
    (h : x = r ∨ (r % 2 = 1 ∧ 33 ≤ sh ∧ (r - 1 : ℝ) < x ∧ x < r + 1)) :
    shiftUp rm sr neg q r sh = true ↔ roundsUp rm sr neg q (x / 2 ^ sh) := by
  obtain ⟨s, rfl⟩ : ∃ s, sh = s + 1 := Nat.exists_eq_succ_of_ne_zero (by rintro rfl; exact hr (by simpa using hlt))
  have hs : (0 : ℝ) < 2 ^ s := by positivity
  have hhalf : 33 ≤ s + 1 → 2 ^ s % 2 = 0 := fun h => by
    obtain ⟨d, rfl⟩ : ∃ d, s = d + 1 := ⟨s - 1, by omega⟩
    rw [pow_succ]; omega
  obtain ⟨hle, hlt', heq⟩ := stood_cmp h hhalf
  push_cast at hle hlt' heq
  have e1 : 1 / 2 < x / 2 ^ (s + 1) ↔ 2 ^ s < r := by
    rw [← hlt', lt_div_iff₀ (by positivity), pow_succ]; constructor <;> intro h <;> linarith
  have e2 : x / 2 ^ (s + 1) = 1 / 2 ↔ r = 2 ^ s := by
    rw [← heq, div_eq_iff (by positivity), pow_succ]; constructor <;> intro h <;> linarith
  have e3 : 1 / 2 ≤ x / 2 ^ (s + 1) ↔ 2 ^ s ≤ r := by
    rw [← hle, le_div_iff₀ (by positivity), pow_succ]; constructor <;> intro h <;> linarith
  match rm with
  | 0 =>
    simp only [shiftUp, roundsUp, e1, e2, Bool.or_eq_true, Bool.and_eq_true, decide_eq_true_eq, beq_iff_eq]
    omega
  | 1 => simp [shiftUp, roundsUp]
  | 2 => simp [shiftUp, roundsUp]
  | 3 => simp [shiftUp, roundsUp]
  | 4 =>
    simp only [shiftUp, roundsUp, e3, decide_eq_true_eq]
    omega
  | n + 5 =>
    simp only [shiftUp, roundsUp, decide_eq_true_eq]
    by_cases h32 : s + 1 ≤ 32
    · rw [if_pos h32]
      obtain rfl : x = r := h.resolve_right fun h => by omega
      rw [div_le_div_iff₀ (by positivity) (by positivity), ← Nat.succ_le_iff]
      have : (2 : ℝ) ^ 32 = 2 ^ (32 - (s + 1)) * 2 ^ (s + 1) := by rw [← pow_add]; congr 1; omega
      rw [this, ← mul_assoc, mul_le_mul_iff_left₀ (by positivity)]
      norm_cast
    · rw [if_neg h32]
      obtain ⟨d, hd⟩ : ∃ d, s + 1 = d + 1 + 32 := ⟨s - 32, by omega⟩
      have heven : (sr + 1) * 2 ^ (d + 1) % 2 = 0 := by rw [pow_succ, ← mul_assoc]; omega
      obtain ⟨hcmp, -, -⟩ := stood_cmp (t := (sr + 1) * 2 ^ (d + 1)) h fun _ => heven
      rw [hd, Nat.add_sub_cancel, ← Nat.succ_le_iff, Nat.le_div_iff_mul_le (by positivity), Nat.succ_eq_add_one, ← hcmp, div_le_div_iff₀ (by positivity) (by positivity), pow_add (2 : ℝ) (d + 1) 32,
        ← mul_assoc, mul_le_mul_iff_left₀ (by positivity)]
      push_cast
      rfl

/-- R95, R97: a magnitude `x / 2^sh` rounded to an integer. -/
theorem roundShift_roundsAt {rm sr m sh : ℕ} {neg : Bool} {x : ℝ} (h : x = m ∨ (m % 2 = 1 ∧ 33 ≤ sh ∧ (m - 1 : ℝ) < x ∧ x < m + 1)) :
    RoundsAt (fun n => (n : ℝ)) rm sr neg (x / 2 ^ sh) (roundShift rm sr neg m sh)
      ∧ (m % 2 ^ sh = 0 ↔ ∃ n : ℕ, x / 2 ^ sh = n) := by
  have hpow : (0 : ℝ) < 2 ^ sh := by positivity
  have hm : 2 ^ sh * (m / 2 ^ sh) + m % 2 ^ sh = m := Nat.div_add_mod m _
  have hmR : (2 : ℝ) ^ sh * (m / 2 ^ sh : ℕ) + (m % 2 ^ sh : ℕ) = m := by exact_mod_cast hm
  have hr := Nat.mod_lt m (show 0 < 2 ^ sh by positivity)
  rw [roundShift_eq]
  generalize hq : m / 2 ^ sh = q at hm hmR
  generalize hrr : m % 2 ^ sh = r at hm hmR hr
  by_cases h0 : r = 0
  · have hx : x / 2 ^ sh = q := by
      rcases h with rfl | ⟨hodd, hsh, -, -⟩
      · rw [div_eq_iff (by positivity), ← hmR, h0]; push_cast; ring
      · obtain ⟨d, rfl⟩ : ∃ d, sh = d + 1 := ⟨sh - 1, by omega⟩
        rw [h0, pow_succ, mul_right_comm] at hm
        omega
    rw [if_pos h0]
    exact ⟨.inl hx, iff_of_true h0 ⟨q, hx⟩⟩
  · have hpart : (x - 2 ^ sh * q) = r ∨ (r % 2 = 1 ∧ 33 ≤ sh ∧ (r - 1 : ℝ) < x - 2 ^ sh * q ∧ x - 2 ^ sh * q < r + 1) := by
      refine h.imp (fun h => by rw [h]; linarith) fun ⟨hodd, hsh, hlo, hhi⟩ => ⟨?_, hsh, by linarith, by linarith⟩
      obtain ⟨d, rfl⟩ : ∃ d, sh = d + 1 := ⟨sh - 1, by omega⟩
      rw [pow_succ, mul_right_comm] at hm
      omega
    have h1 : (1 : ℝ) ≤ r := by exact_mod_cast Nat.one_le_iff_ne_zero.mpr h0
    have h2 : (r + 1 : ℝ) ≤ 2 ^ sh := by exact_mod_cast hr
    have hlo : (q : ℝ) < x / 2 ^ sh := by
      rw [lt_div_iff₀ hpow]; rcases hpart with h | ⟨-, -, h, -⟩ <;> linarith
    have hhi : x / 2 ^ sh < q + 1 := by
      rw [div_lt_iff₀ hpow]; rcases hpart with h | ⟨-, -, -, h⟩ <;> linarith
    have hup := shiftUp_iff (rm := rm) (sr := sr) (q := q) (neg := neg) h0 hr hpart
    have hdiv : (x - 2 ^ sh * q) / 2 ^ sh = (x / 2 ^ sh - q) / (((q + 1 : ℕ) : ℝ) - q) := by
      push_cast; field_simp; ring
    rw [if_neg h0]
    refine ⟨.inr ⟨q, hlo, by push_cast; exact hhi, ?_⟩, iff_of_false h0 ?_⟩
    · dsimp only
      rw [← hdiv]
      split
      · exact .inl ⟨hup.mp ‹_›, rfl⟩
      · exact .inr ⟨fun h => ‹¬ _› (hup.mpr h), rfl⟩
    · rintro ⟨n, hn⟩
      rw [hn] at hlo hhi
      have := Nat.cast_lt.mp hlo
      have : n < q + 1 := by exact_mod_cast hhi
      omega

end Sys2Proof.Machine
end

section
/-!
PROOFS. Magnitudes rounded to multiples of a power of two, and the magnitudes of a format as a rising grid (R78, R95).
-/

set_option Elab.async false

namespace Sys2Proof.Machine

/-- A magnitude rounded to a multiple of `2^q`, whose last bit, where it stands for a part of a unit, lies far enough below. -/
theorem roundTo_roundsAt {rm sr m : ℕ} {neg : Bool} {e q : ℤ} {a : ℝ}
    (h : a = m * (2 : ℝ) ^ e ∨ (m % 2 = 1 ∧ e + 33 ≤ q ∧ (m - 1 : ℝ) * 2 ^ e < a ∧ a < (m + 1 : ℝ) * 2 ^ e)) :
    RoundsAt (fun n => (n : ℝ)) rm sr neg (a / 2 ^ q) (roundTo rm sr neg m e q).1
      ∧ ((roundTo rm sr neg m e q).2 = false ↔ ∃ n : ℕ, a / 2 ^ q = n) := by
  unfold roundTo
  split
  · next hqe =>
    obtain rfl := h.resolve_right fun h => by omega
    have hx : (m : ℝ) * 2 ^ e / 2 ^ q = (m * 2 ^ (e - q).toNat : ℕ) := by
      obtain ⟨d, rfl⟩ : ∃ d : ℕ, e = q + d := ⟨(e - q).toNat, by omega⟩
      rw [zpow_add₀ two_ne_zero, show (q + d - q).toNat = d by omega, zpow_natCast]
      push_cast
      field_simp
    exact ⟨.inl hx, iff_of_true rfl ⟨_, hx⟩⟩
  · next hqe =>
    obtain ⟨d, rfl⟩ : ∃ d : ℕ, q = e + d := ⟨(q - e).toNat, by omega⟩
    have he : (0 : ℝ) < 2 ^ e := by positivity
    rw [show (e + d - e).toNat = d by omega, show a / (2 : ℝ) ^ (e + d) = a / 2 ^ e / 2 ^ d by rw [zpow_add₀ two_ne_zero, zpow_natCast, div_div]]
    obtain ⟨hr, hx⟩ := roundShift_roundsAt (rm := rm) (sr := sr) (neg := neg) (m := m) (sh := d) (x := a / 2 ^ e) (h.imp
      (fun h => by rw [h]; field_simp)
      fun ⟨hodd, hsh, hlo, hhi⟩ => ⟨hodd, by omega, by rwa [lt_div_iff₀ he], by rwa [div_lt_iff₀ he]⟩)
    exact ⟨hr, by rw [← hx]; simp⟩

/-- The weight of the leading bit of what a magnitude stands for. -/
theorem Stands.bounds {m : ℕ} {e : ℤ} {a : ℝ} (h : Stands m e a) (hm : m ≠ 0) :
    (2 : ℝ) ^ ((Nat.log2 m : ℤ) + e) ≤ a ∧ a < 2 ^ ((Nat.log2 m : ℤ) + e + 1) := by
  have he : (0 : ℝ) < 2 ^ e := by positivity
  have h1 : 2 ^ Nat.log2 m ≤ m := Nat.log2_self_le hm
  have h2 : m < 2 ^ (Nat.log2 m + 1) := Nat.lt_log2_self
  rw [add_right_comm, zpow_add₀ two_ne_zero, zpow_add₀ two_ne_zero _ e, ← Nat.cast_succ, zpow_natCast, zpow_natCast]
  rcases h with rfl | ⟨hodd, hbig, hlo, hhi⟩
  · constructor
    · gcongr; exact_mod_cast h1
    · gcongr; exact_mod_cast h2
  · have h3 : 2 ^ Nat.log2 m ≤ m - 1 := by
      obtain ⟨d, hd⟩ : ∃ d, Nat.log2 m = d + 1 := Nat.exists_eq_succ_of_ne_zero fun h0 => by rw [h0] at h2; omega
      rw [hd, pow_succ] at h1 ⊢
      omega
    have h3' : (2 : ℝ) ^ Nat.log2 m ≤ m - 1 := by
      have : ((2 ^ Nat.log2 m : ℕ) : ℝ) ≤ (m - 1 : ℕ) := by exact_mod_cast h3
      rw [Nat.cast_sub (by omega)] at this
      exact_mod_cast this
    have h2' : (m + 1 : ℝ) ≤ 2 ^ (Nat.log2 m + 1) := by exact_mod_cast h2
    exact ⟨(mul_le_mul_of_nonneg_right h3' he.le).trans hlo.le, hhi.trans_le (mul_le_mul_of_nonneg_right h2' he.le)⟩

theorem Stands.pos {m : ℕ} {e : ℤ} {a : ℝ} (h : Stands m e a) (hm : m ≠ 0) : 0 < a :=
  lt_of_lt_of_le (by positivity) (h.bounds hm).1

/-! ## The magnitudes of a floating format (R78) -/

/-- The exponent of the least positive magnitude of a format. -/
def minExp (f : ℕ) : ℤ := 1 - ((fmtShape f).2.2 : ℤ) - (fmtShape f).2.1

/-- R78: the magnitude of a code without sign, for exponents without bound. -/
def magVal (f c : ℕ) : ℚ :=
  if c / 2 ^ (fmtShape f).2.1 = 0 then c * 2 ^ minExp f
  else (2 ^ (fmtShape f).2.1 + (c % 2 ^ (fmtShape f).2.1 : ℕ)) * 2 ^ ((c / 2 ^ (fmtShape f).2.1 : ℕ) - 1 + minExp f)

theorem mantissa_pos (f : ℕ) : 1 ≤ (fmtShape f).2.1 ∧ (fmtShape f).2.1 ≤ 23 := by
  unfold fmtShape
  split <;> decide

theorem magVal_of_lt {f c : ℕ} (h : c < 2 ^ (fmtShape f).2.1) : magVal f c = c * 2 ^ minExp f := by
  rw [magVal, if_pos (Nat.div_eq_of_lt h)]

theorem magVal_normal {f k n : ℕ} (hn : n < 2 ^ (fmtShape f).2.1) :
    magVal f ((k + 1) * 2 ^ (fmtShape f).2.1 + n) = (2 ^ (fmtShape f).2.1 + n) * 2 ^ ((k : ℤ) + minExp f) := by
  have hp : 0 < 2 ^ (fmtShape f).2.1 := by positivity
  have hdiv : ((k + 1) * 2 ^ (fmtShape f).2.1 + n) / 2 ^ (fmtShape f).2.1 = k + 1 := by
    rw [mul_comm, Nat.mul_add_div hp, Nat.div_eq_of_lt hn, add_zero]
  rw [magVal, hdiv, if_neg (by omega), mul_comm (k + 1), Nat.mul_add_mod, Nat.mod_eq_of_lt hn]
  push_cast
  rw [add_sub_cancel_right]

/-- R78: the codes rise by one unit in the last place. -/
theorem magVal_succ (f c : ℕ) : magVal f (c + 1) = magVal f c + 2 ^ (((c / 2 ^ (fmtShape f).2.1 - 1 : ℕ) : ℤ) + minExp f) := by
  have hp : 0 < 2 ^ (fmtShape f).2.1 := by positivity
  have hc := Nat.div_add_mod c (2 ^ (fmtShape f).2.1)
  have hn := Nat.mod_lt c hp
  generalize hk : c / 2 ^ (fmtShape f).2.1 = k at hc
  generalize c % 2 ^ (fmtShape f).2.1 = n at hc hn
  subst hc
  have hcarry : n + 1 = 2 ^ (fmtShape f).2.1 → (n : ℚ) + 1 = 2 ^ (fmtShape f).2.1 := fun h => by exact_mod_cast h
  cases k with
  | zero =>
    rw [mul_zero, zero_add, Nat.zero_sub, Nat.cast_zero, zero_add, magVal_of_lt hn]
    obtain hn' | hn' : n + 1 < 2 ^ (fmtShape f).2.1 ∨ n + 1 = 2 ^ (fmtShape f).2.1 := by omega
    · rw [magVal_of_lt hn']; push_cast; ring
    · rw [show n + 1 = (0 + 1) * 2 ^ (fmtShape f).2.1 + 0 by omega, magVal_normal hp, ← hcarry hn', Nat.cast_zero, Nat.cast_zero, zero_add]
      ring
  | succ k =>
    rw [mul_comm, Nat.add_sub_cancel, magVal_normal hn, add_assoc]
    obtain hn' | hn' : n + 1 < 2 ^ (fmtShape f).2.1 ∨ n + 1 = 2 ^ (fmtShape f).2.1 := by omega
    · rw [magVal_normal hn']; push_cast; ring
    · rw [hn', show (k + 1) * 2 ^ (fmtShape f).2.1 + 2 ^ (fmtShape f).2.1 = (k + 1 + 1) * 2 ^ (fmtShape f).2.1 + 0 by ring, magVal_normal hp,
        show ((k + 1 : ℕ) : ℤ) + minExp f = (k + minExp f) + 1 by push_cast; ring, zpow_add_one₀ two_ne_zero, ← hcarry hn', Nat.cast_zero]
      ring

theorem magVal_strictMono (f : ℕ) : StrictMono (magVal f) :=
  strictMono_nat_of_lt_succ fun c => by rw [magVal_succ]; exact lt_add_of_pos_right _ (by positivity)

theorem magVal_zero (f : ℕ) : magVal f 0 = 0 := by rw [magVal_of_lt (by positivity)]; simp

/-- R78: the least normal magnitude. -/
theorem magVal_leastNormal (f : ℕ) : magVal f (2 ^ (fmtShape f).2.1) = 2 ^ (1 - ((fmtShape f).2.2 : ℤ)) := by
  have := magVal_normal (f := f) (k := 0) (n := 0) (by positivity)
  rw [zero_add, one_mul, add_zero] at this
  rw [this, minExp, ← zpow_natCast]
  push_cast
  rw [add_zero, ← zpow_add₀ two_ne_zero]
  congr 1
  ring

/-! ## Codes of rounded magnitudes -/

section MagCode

variable {f n : ℕ} {q : ℤ}

theorem magVal_magCode (hq : minExp f ≤ q) (hn : q = minExp f ∨ 2 ^ (fmtShape f).2.1 ≤ n) (hn' : n ≤ 2 ^ ((fmtShape f).2.1 + 1)) :
    magVal f (magCode f n q) = n * 2 ^ q := by
  have hp : 0 < 2 ^ (fmtShape f).2.1 := by positivity
  rw [pow_succ] at hn'
  unfold magCode
  dsimp only
  split
  · next h =>
    obtain rfl := hn.resolve_right (by omega)
    exact magVal_of_lt h
  · next h =>
    obtain ⟨k, hk⟩ : ∃ k : ℕ, q = k + minExp f := ⟨(q - minExp f).toNat, by omega⟩
    have hcode : (q + (fmtShape f).2.1 + (fmtShape f).2.2).toNat = k + 1 := by rw [minExp] at hk; omega
    obtain ⟨d, rfl⟩ : ∃ d, n = 2 ^ (fmtShape f).2.1 + d := ⟨n - 2 ^ (fmtShape f).2.1, by omega⟩
    rw [hcode, Nat.add_sub_cancel_left, hk]
    obtain hd | rfl : d < 2 ^ (fmtShape f).2.1 ∨ d = 2 ^ (fmtShape f).2.1 := by omega
    · rw [magVal_normal hd]; push_cast; rfl
    · have := magVal_normal (f := f) (k := k + 1) hp
      rw [show (k + 1) * 2 ^ (fmtShape f).2.1 + 2 ^ (fmtShape f).2.1 = (k + 1 + 1) * 2 ^ (fmtShape f).2.1 + 0 by ring, this,
        show ((k + 1 : ℕ) : ℤ) + minExp f = (k + minExp f) + 1 by push_cast; ring, zpow_add_one₀ two_ne_zero]
      push_cast; ring

theorem magCode_succ (hq : minExp f ≤ q) (hn : q = minExp f ∨ 2 ^ (fmtShape f).2.1 ≤ n) : magCode f (n + 1) q = magCode f n q + 1 := by
  unfold magCode
  dsimp only
  obtain h | h | h : n + 1 < 2 ^ (fmtShape f).2.1 ∨ n + 1 = 2 ^ (fmtShape f).2.1 ∨ 2 ^ (fmtShape f).2.1 ≤ n := by omega
  · rw [if_pos h, if_pos (by omega)]
  · obtain rfl := hn.resolve_right (by omega)
    rw [if_neg (by omega), if_pos (by omega), ← h, Nat.sub_self, minExp, show ((1 : ℤ) - (fmtShape f).2.2 - (fmtShape f).2.1 + (fmtShape f).2.1 + (fmtShape f).2.2).toNat = 1 by omega]
    omega
  · rw [if_neg (by omega), if_neg (by omega)]
    omega

theorem magCode_mod_two : magCode f n q % 2 = n % 2 := by
  obtain ⟨d, hd⟩ : ∃ d, (fmtShape f).2.1 = d + 1 := ⟨(fmtShape f).2.1 - 1, by have := mantissa_pos f; omega⟩
  unfold magCode
  dsimp only
  split
  · rfl
  · next h => rw [hd, pow_succ, ← mul_assoc] at *; omega

end MagCode

theorem roundsUp_congr {rm sr : ℕ} {neg : Bool} {k k' : ℕ} {t t' : ℝ} (hk : k % 2 = k' % 2) (ht : t = t') :
    roundsUp rm sr neg k t ↔ roundsUp rm sr neg k' t' := by
  subst ht
  unfold roundsUp
  rw [hk]

/-- A magnitude rounded to a multiple of its unit in the last place is rounded among the magnitudes of the format. -/
theorem RoundsAt.magCode {f rm sr n : ℕ} {neg : Bool} {q : ℤ} {a : ℝ} (h : RoundsAt (fun n => (n : ℝ)) rm sr neg (a / 2 ^ q) n)
    (hq : minExp f ≤ q) (hlo : q = minExp f ∨ 2 ^ ((fmtShape f).2.1 : ℤ) * 2 ^ q ≤ a) (hhi : a < 2 ^ ((fmtShape f).2.1 + 1 : ℤ) * 2 ^ q) :
    RoundsAt (fun c => (magVal f c : ℝ)) rm sr neg a (magCode f n q) ∧ ((∃ n : ℕ, a / 2 ^ q = n) ↔ ∃ c, a = magVal f c) := by
  have hpos : (0 : ℝ) < 2 ^ q := by positivity
  have hval : ∀ k : ℕ, (q = minExp f ∨ 2 ^ (fmtShape f).2.1 ≤ k) → k ≤ 2 ^ ((fmtShape f).2.1 + 1) → (magVal f (Machine.magCode f k q) : ℝ) = k * 2 ^ q :=
    fun k h1 h2 => by rw [magVal_magCode hq h1 h2]; push_cast; rfl
  rw [zpow_natCast] at hlo
  rw [← Nat.cast_succ, zpow_natCast] at hhi
  have hexact : ∀ n : ℕ, a / 2 ^ q = n → a = magVal f (Machine.magCode f n q) := fun n hn => by
    rw [div_eq_iff hpos.ne'] at hn
    subst hn
    refine (hval n (hlo.imp_right fun h => ?_) ?_).symm
    · exact_mod_cast le_of_mul_le_mul_right h hpos
    · exact_mod_cast (lt_of_mul_lt_mul_right hhi hpos.le).le
  rcases h with hn | ⟨k, hk, hk', hup⟩
  · exact ⟨.inl (hexact n hn), iff_of_true ⟨n, hn⟩ ⟨_, hexact n hn⟩⟩
  · dsimp only at hk hk' hup
    rw [lt_div_iff₀ hpos] at hk
    rw [div_lt_iff₀ hpos] at hk'
    have hklo : q = minExp f ∨ 2 ^ (fmtShape f).2.1 ≤ k := hlo.imp_right fun h => by
      have : (2 : ℝ) ^ (fmtShape f).2.1 < (k + 1 : ℕ) := lt_of_mul_lt_mul_right (h.trans_lt hk') hpos.le
      have : 2 ^ (fmtShape f).2.1 < k + 1 := by exact_mod_cast this
      omega
    have hkhi : k < 2 ^ ((fmtShape f).2.1 + 1) := by exact_mod_cast lt_of_mul_lt_mul_right (hk.trans hhi) hpos.le
    have hcode := magCode_succ hq hklo
    have e0 := hval k hklo hkhi.le
    have e1 := hval (k + 1) (hklo.imp_right (by omega)) hkhi
    rw [hcode] at e1
    have hpart : (a - magVal f (Machine.magCode f k q)) / (magVal f (Machine.magCode f k q + 1) - magVal f (Machine.magCode f k q))
        = (a / 2 ^ q - k) / ((k + 1 : ℕ) - k) := by
      rw [e0, e1]; push_cast; field_simp
    have hcongr := roundsUp_congr (rm := rm) (sr := sr) (neg := neg) (magCode_mod_two (f := f) (n := k) (q := q)) hpart
    refine ⟨.inr ⟨Machine.magCode f k q, by simpa only [e0] using hk, by simpa only [e1] using hk', ?_⟩, iff_of_false ?_ ?_⟩
    · dsimp only
      rw [hcongr]
      exact hup.imp (fun ⟨h, e⟩ => ⟨h, by rw [e, hcode]⟩) fun ⟨h, e⟩ => ⟨h, by rw [e]⟩
    · rintro ⟨n, hn⟩
      rw [div_eq_iff hpos.ne'] at hn
      rw [hn] at hk hk'
      have h1 : k < n := by exact_mod_cast lt_of_mul_lt_mul_right hk hpos.le
      have h2 : n < k + 1 := by exact_mod_cast lt_of_mul_lt_mul_right hk' hpos.le
      omega
    · rintro ⟨c, rfl⟩
      rw [← e0] at hk
      rw [← e1] at hk'
      have h1 := (magVal_strictMono f).lt_iff_lt.mp (by exact_mod_cast hk)
      have h2 := (magVal_strictMono f).lt_iff_lt.mp (by exact_mod_cast hk')
      omega

/-- R95: a magnitude rounded to a floating format, for exponents without bound. -/
theorem roundsAt_ulpExp {f rm sr m : ℕ} {neg : Bool} {e : ℤ} {a : ℝ} (h : Stands m e a) (hm : m ≠ 0) :
    RoundsAt (fun c => (magVal f c : ℝ)) rm sr neg a (magCode f (roundTo rm sr neg m e (ulpExp f m e)).1 (ulpExp f m e))
      ∧ ((roundTo rm sr neg m e (ulpExp f m e)).2 = false ↔ ∃ c, a = magVal f c) := by
  obtain ⟨hlo, hhi⟩ := h.bounds hm
  have hmb := (mantissa_pos f).2
  have hq : ulpExp f m e = max ((Nat.log2 m : ℤ) + e) (1 - ((fmtShape f).2.2 : ℤ)) - (fmtShape f).2.1 := rfl
  have hmin := show minExp f = 1 - ((fmtShape f).2.2 : ℤ) - (fmtShape f).2.1 from rfl
  generalize ulpExp f m e = q at hq
  obtain ⟨hr, hx⟩ := roundTo_roundsAt (rm := rm) (sr := sr) (neg := neg) (m := m) (e := e) (q := q) (a := a) (h.imp_right
    fun ⟨hodd, hbig, h⟩ => ⟨hodd, by
      have : 64 ≤ Nat.log2 m := (Nat.le_log2 hm).mpr hbig
      omega, h⟩)
  obtain ⟨h1, h2⟩ := hr.magCode (f := f) (by omega) (by
      rcases le_total ((Nat.log2 m : ℤ) + e) (1 - ((fmtShape f).2.2 : ℤ)) with h | h
      · left; omega
      · right; rw [← zpow_add₀ two_ne_zero, hq, max_eq_left h]; convert hlo using 2; ring) (by
      rw [← zpow_add₀ two_ne_zero]
      exact hhi.trans_le (zpow_le_zpow_right₀ one_le_two (by omega)))
  exact ⟨h1, hx.trans h2⟩

end Sys2Proof.Machine
end

section
/-!
PROOFS. The codes and the members of a floating format (R78, R80).
-/

set_option Elab.async false

namespace Sys2Proof.Machine

/-! ## Codes of a floating format -/

theorem signBit_eq {f : ℕ} (hf : f ≤ 7) : fmtBits f - 1 = (fmtShape f).1 + (fmtShape f).2.1 := by
  interval_cases f <;> rfl

theorem fmtMax_lt {f : ℕ} (hf : f ≤ 7) : fmtMax f < 2 ^ (fmtBits f - 1) := by
  interval_cases f <;> decide

/-- R78: the special codes are those beyond the largest finite magnitude. -/
theorem special_iff {f d : ℕ} (hf : f ≤ 7) :
    ((fmtHasInf f = true ∧ d / 2 ^ (fmtShape f).2.1 % 2 ^ (fmtShape f).1 = 2 ^ (fmtShape f).1 - 1)
      ∨ (f = 3 ∧ d / 2 ^ (fmtShape f).2.1 % 2 ^ (fmtShape f).1 = 15 ∧ d % 2 ^ (fmtShape f).2.1 = 7))
      ↔ fmtMax f < d % 2 ^ (fmtBits f - 1) := by
  have hbits := signBit_eq hf
  have hdiv : d % 2 ^ (fmtBits f - 1) / 2 ^ (fmtShape f).2.1 = d / 2 ^ (fmtShape f).2.1 % 2 ^ (fmtShape f).1 := by
    rw [hbits, add_comm, pow_add, Nat.mod_mul_right_div_self]
  have hlt : d % 2 ^ (fmtBits f - 1) < 2 ^ (fmtBits f - 1) := Nat.mod_lt _ (by positivity)
  have hmod : d % 2 ^ (fmtBits f - 1) % 2 ^ (fmtShape f).2.1 = d % 2 ^ (fmtShape f).2.1 :=
    Nat.mod_mod_of_dvd _ (pow_dvd_pow 2 (by omega))
  rw [← hdiv, ← hmod]
  generalize d % 2 ^ (fmtBits f - 1) = r at hlt
  interval_cases f <;> simp [fmtHasInf, fmtShape, fmtMax, fmtBits] at hlt ⊢ <;> omega

theorem floatRat_eq {f d : ℕ} (hf : f ≤ 7) : floatRat f d = if fmtMax f < d % 2 ^ (fmtBits f - 1) then none
    else some ((if d.testBit (fmtBits f - 1) then -1 else 1) * magVal f (d % 2 ^ (fmtBits f - 1))) := by
  have hspecial := special_iff (d := d) hf
  have hbits := signBit_eq hf
  have hdiv : d % 2 ^ (fmtBits f - 1) / 2 ^ (fmtShape f).2.1 = d / 2 ^ (fmtShape f).2.1 % 2 ^ (fmtShape f).1 := by
    rw [hbits, add_comm, pow_add, Nat.mod_mul_right_div_self]
  have hmod : d % 2 ^ (fmtBits f - 1) % 2 ^ (fmtShape f).2.1 = d % 2 ^ (fmtShape f).2.1 :=
    Nat.mod_mod_of_dvd _ (pow_dvd_pow 2 (by omega))
  unfold floatRat
  dsimp only
  by_cases h : fmtMax f < d % 2 ^ (fmtBits f - 1)
  · rw [if_pos (hspecial.mpr h), if_pos h]
  · rw [if_neg (mt hspecial.mp h), if_neg h, ← hbits, magVal, hdiv, hmod, minExp]
    congr 2
    split
    · next h0 =>
      have := Nat.div_add_mod (d % 2 ^ (fmtBits f - 1)) (2 ^ (fmtShape f).2.1)
      rw [hdiv, hmod, h0] at this
      rw [← this, mul_zero, zero_add]
    · rw [show (((d / 2 ^ (fmtShape f).2.1 % 2 ^ (fmtShape f).1 : ℕ) : ℤ) - 1 + (1 - ((fmtShape f).2.2 : ℤ) - (fmtShape f).2.1))
        = ((d / 2 ^ (fmtShape f).2.1 % 2 ^ (fmtShape f).1 : ℕ) : ℤ) - (fmtShape f).2.2 - (fmtShape f).2.1 by ring]

/-- The sign and the magnitude of a code. -/
theorem signCode_parts {f c : ℕ} (neg : Bool) (hc : c < 2 ^ (fmtBits f - 1)) :
    (signCode f neg + c).testBit (fmtBits f - 1) = neg ∧ (signCode f neg + c) % 2 ^ (fmtBits f - 1) = c := by
  cases neg
  · simp [signCode, Nat.testBit_lt_two_pow hc, Nat.mod_eq_of_lt hc]
  · simp [signCode, Nat.testBit_two_pow_add_eq, Nat.testBit_lt_two_pow hc, Nat.mod_eq_of_lt hc]

theorem floatRat_signCode {f c : ℕ} (hf : f ≤ 7) (neg : Bool) (hc : c ≤ fmtMax f) :
    floatRat f (signCode f neg + c) = some ((if neg then -1 else 1) * magVal f c) := by
  obtain ⟨h1, h2⟩ := signCode_parts neg (hc.trans_lt (fmtMax_lt hf))
  rw [floatRat_eq hf, h1, h2, if_neg (by omega)]

/-- A finite member of a floating format. -/
def IsMember (f : ℕ) (w : ℝ) : Prop := ∃ s j, j ≤ fmtMax f ∧ w = signed s (magVal f j)

theorem IsMember.neg {f : ℕ} {w : ℝ} (h : IsMember f w) : IsMember f (-w) := by
  obtain ⟨s, j, hj, rfl⟩ := h
  exact ⟨!s, j, hj, by cases s <;> simp [signed]⟩

theorem isMember_of_floatRat {f d : ℕ} {z : ℚ} (hf : f ≤ 7) (h : floatRat f d = some z) : IsMember f z := by
  rw [floatRat_eq hf] at h
  split at h
  · cases h
  · obtain rfl := Option.some.inj h
    exact ⟨d.testBit (fmtBits f - 1), _, not_lt.mp ‹_›, by rw [signed]; split <;> simp⟩

theorem magVal_nonneg (f j : ℕ) : (0 : ℝ) ≤ magVal f j := by
  have := (magVal_strictMono f).monotone (Nat.zero_le j)
  rw [magVal_zero] at this
  exact_mod_cast this

/-- A member beyond a magnitude lies at or beyond the next. -/
theorem IsMember.next_le {f c : ℕ} {w : ℝ} (h : IsMember f w) (hw : (magVal f c : ℝ) < w) : (magVal f (c + 1) : ℝ) ≤ w ∧ c < fmtMax f := by
  obtain ⟨s, j, hj, rfl⟩ := h
  have hmono := magVal_strictMono f
  have h0 := magVal_nonneg f
  cases s
  · have hw' : (magVal f c : ℝ) < magVal f j := hw
    have hlt : c < j := hmono.lt_iff_lt.mp (by exact_mod_cast hw')
    exact ⟨Rat.cast_le.mpr (hmono.monotone hlt), by omega⟩
  · have : (magVal f c : ℝ) < -magVal f j := hw
    linarith [h0 c, h0 j]

/-- A member below a magnitude lies at or below the one before. -/
theorem IsMember.le_prev {f c : ℕ} {w : ℝ} (h : IsMember f w) (hw : w < (magVal f (c + 1) : ℝ)) : w ≤ (magVal f c : ℝ) := by
  obtain ⟨s, j, -, rfl⟩ := h
  have hmono := magVal_strictMono f
  have h0 := magVal_nonneg f
  cases s
  · have hw' : (magVal f j : ℝ) < magVal f (c + 1) := hw
    have hlt : j < c + 1 := hmono.lt_iff_lt.mp (by exact_mod_cast hw')
    exact Rat.cast_le.mpr (hmono.monotone (Nat.le_of_lt_succ hlt))
  · show -(magVal f j : ℝ) ≤ _
    linarith [h0 c, h0 j]

/-! ## The member selected (R95, R97) -/

section Selected

variable {f rm sr c : ℕ} {neg : Bool} {v : ℚ → Ordering} {a : ℝ} {y : ℚ} {b : ℝ}

/-- R95: the neighbour below a magnitude is selected. -/
theorem selected_inner (hf : f ≤ 7) (hv : Sees v (signed neg a)) (ha : 0 < a) (hy : (y : ℝ) = signed neg b) (hb : b ≤ a)
    (hnext : ∀ w, IsMember f w → b < w → a < w) (h0 : rm = 0 → ∀ w, IsMember f w → b < w → a < (b + w) / 2 ∨ (a = (b + w) / 2 ∧ c % 2 = 0))
    (h2 : rm = 2 → neg = false) (h3 : rm = 3 → neg = true) (h4 : rm = 4 → ∀ w, IsMember f w → b < w → a < (b + w) / 2)
    (h5 : 5 ≤ rm → ∀ w, IsMember f w → b < w → a < b + (w - b) * ((sr + 1) / 2 ^ 32)) : selected f rm sr v c y := by
  have hm : ∀ {d : ℕ} {z : ℚ}, floatRat f d = some z → IsMember f z := fun h => isMember_of_floatRat hf h
  cases neg <;> simp only [signed, Bool.false_eq_true, if_false, if_true] at hv hy
  · have hpos : v 0 ≠ .lt := by rw [hv.ne_lt]; simp [ha.le]
    have down : v y ≠ .lt ∧ ∀ d z, d < 2 ^ fmtBits f → floatRat f d = some z → y < z → v z = .lt := by
      refine ⟨by rw [hv.ne_lt, hy]; exact hb, fun d z _ hz hyz => ?_⟩
      rw [hv.lt]
      exact hnext _ (hm hz) (by rw [← hy]; exact_mod_cast hyz)
    unfold selected
    match rm, h0, h2, h3, h4, h5 with
    | 0, h0, _, _, _, _ =>
      refine fun d z _ hz => ⟨fun hyz => ?_, fun hzy => .inl ?_⟩
      · rw [hv.lt, hv.eq]; push_cast; rw [hy]
        exact h0 rfl _ (hm hz) (by rw [← hy]; exact_mod_cast hyz)
      · have : (z : ℝ) < y := by exact_mod_cast hzy
        rw [hv.gt]; push_cast; linarith
    | 1, _, _, _, _, _ => simpa only [if_neg hpos] using down
    | 2, _, _, _, _, _ => exact down
    | 3, _, _, h3, _, _ => cases h3 rfl
    | 4, _, _, _, h4, _ =>
      refine fun d z _ hz => ⟨fun hyz => .inl ?_, fun hzy => .inl ?_⟩
      · rw [hv.lt]; push_cast; rw [hy]
        exact h4 rfl _ (hm hz) (by rw [← hy]; exact_mod_cast hyz)
      · have : (z : ℝ) < y := by exact_mod_cast hzy
        rw [hv.gt]; push_cast; linarith
    | n + 5, _, _, _, _, h5 =>
      change ite (v 0 = .lt) _ _
      rw [if_neg hpos]
      refine .inl ⟨down, fun d z _ hz hyz => ?_⟩
      rw [hv.lt, srPart]; push_cast; rw [hy]
      exact h5 (by omega) _ (hm hz) (by rw [← hy]; exact_mod_cast hyz)
  · have hneg : v 0 = .lt := by rw [hv.lt]; simp [ha]
    have hflip : ∀ {z : ℚ}, z < y → b < -(z : ℝ) := fun {z} h => by
      have : (z : ℝ) < y := by exact_mod_cast h
      linarith
    have up : v y ≠ .gt ∧ ∀ d z, d < 2 ^ fmtBits f → floatRat f d = some z → z < y → v z = .gt := by
      refine ⟨by rw [hv.ne_gt, hy]; linarith, fun d z _ hz hzy => ?_⟩
      rw [hv.gt]
      linarith [hnext _ (hm hz).neg (hflip hzy)]
    unfold selected
    match rm, h0, h2, h3, h4, h5 with
    | 0, h0, _, _, _, _ =>
      refine fun d z _ hz => ⟨fun hyz => .inl ?_, fun hzy => ?_⟩
      · have : (y : ℝ) < z := by exact_mod_cast hyz
        rw [hv.lt]; push_cast; linarith
      · rw [hv.gt, hv.eq]; push_cast; rw [hy]
        exact (h0 rfl _ (hm hz).neg (hflip hzy)).imp (fun h => by linarith) fun ⟨h, e⟩ => ⟨by linarith, e⟩
    | 1, _, _, _, _, _ => simpa only [if_pos hneg] using up
    | 2, _, h2, _, _, _ => cases h2 rfl
    | 3, _, _, _, _, _ => exact up
    | 4, _, _, _, h4, _ =>
      refine fun d z _ hz => ⟨fun hyz => .inl ?_, fun hzy => .inl ?_⟩
      · have : (y : ℝ) < z := by exact_mod_cast hyz
        rw [hv.lt]; push_cast; linarith
      · rw [hv.gt]; push_cast; rw [hy]
        linarith [h4 rfl _ (hm hz).neg (hflip hzy)]
    | n + 5, _, _, _, _, h5 =>
      change ite (v 0 = .lt) _ _
      rw [if_pos hneg]
      refine .inl ⟨up, fun d z _ hz hzy => ?_⟩
      rw [hv.gt, srPart]; push_cast; rw [hy]
      linarith [h5 (by omega) _ (hm hz).neg (hflip hzy)]

/-- R95: the neighbour above a magnitude is selected. -/
theorem selected_outer (hf : f ≤ 7) (hv : Sees v (signed neg a)) (ha : 0 < a) (hy : (y : ℝ) = signed neg b) (hb : a < b)
    (hprev : ∀ w, IsMember f w → w < b → w < a) (h0 : rm = 0 → ∀ w, IsMember f w → w < b → (b + w) / 2 < a ∨ (a = (b + w) / 2 ∧ c % 2 = 0))
    (h1 : rm ≠ 1) (h2 : rm = 2 → neg = true) (h3 : rm = 3 → neg = false)
    (h4 : rm = 4 → ∀ w, IsMember f w → w < b → (b + w) / 2 < a ∨ (a = (b + w) / 2 ∧ |w| < b))
    (h5 : 5 ≤ rm → ∀ w, IsMember f w → w < b → w + (b - w) * ((sr + 1) / 2 ^ 32) ≤ a) : selected f rm sr v c y := by
  have hm : ∀ {d : ℕ} {z : ℚ}, floatRat f d = some z → IsMember f z := fun h => isMember_of_floatRat hf h
  have habs : |b| = b := abs_of_pos (ha.trans hb)
  cases neg <;> simp only [signed, Bool.false_eq_true, if_false, if_true] at hv hy
  · have hpos : v 0 ≠ .lt := by rw [hv.ne_lt]; simp [ha.le]
    have hlt : ∀ {z : ℚ}, z < y → (z : ℝ) < b := fun h => by rw [← hy]; exact_mod_cast h
    have hne : v y ≠ .eq := by rw [ne_eq, hv.eq, hy]; exact hb.ne
    have up : v y ≠ .gt ∧ ∀ d z, d < 2 ^ fmtBits f → floatRat f d = some z → z < y → v z = .gt := by
      refine ⟨by rw [hv.ne_gt, hy]; exact hb.le, fun d z _ hz hzy => ?_⟩
      rw [hv.gt]
      exact hprev _ (hm hz) (hlt hzy)
    have above : ∀ {z : ℚ}, y < z → v ((y + z) / 2) = .lt := fun {z} hyz => by
      have : (y : ℝ) < z := by exact_mod_cast hyz
      rw [hv.lt]; push_cast; linarith
    unfold selected
    match rm, h0, h1, h2, h3, h4, h5 with
    | 0, h0, _, _, _, _, _ =>
      refine fun d z _ hz => ⟨fun hyz => .inl (above hyz), fun hzy => ?_⟩
      rw [hv.gt, hv.eq]; push_cast; rw [hy]
      exact h0 rfl _ (hm hz) (hlt hzy)
    | 1, _, h1, _, _, _, _ => exact absurd rfl h1
    | 2, _, _, h2, _, _, _ => cases h2 rfl
    | 3, _, _, _, _, _, _ => exact up
    | 4, _, _, _, _, h4, _ =>
      refine fun d z _ hz => ⟨fun hyz => .inl (above hyz), fun hzy => ?_⟩
      rw [hv.gt, hv.eq]; push_cast; rw [hy]
      refine (h4 rfl _ (hm hz) (hlt hzy)).imp_right fun ⟨h, e⟩ => ⟨h, ?_⟩
      have : |(z : ℝ)| < |(y : ℝ)| := by rw [hy, habs]; exact e
      exact_mod_cast this
    | n + 5, _, _, _, _, _, h5 =>
      change ite (v 0 = .lt) _ _
      rw [if_neg hpos]
      refine .inr ⟨up, hne, fun d z _ hz hzy => ?_⟩
      rw [hv.ne_lt, srPart]; push_cast; rw [hy]
      exact h5 (by omega) _ (hm hz) (hlt hzy)
  · have hneg : v 0 = .lt := by rw [hv.lt]; simp [ha]
    have hflip : ∀ {z : ℚ}, y < z → -(z : ℝ) < b := fun {z} h => by
      have : (y : ℝ) < z := by exact_mod_cast h
      linarith
    have hne : v y ≠ .eq := by rw [ne_eq, hv.eq, hy]; intro h; linarith
    have down : v y ≠ .lt ∧ ∀ d z, d < 2 ^ fmtBits f → floatRat f d = some z → y < z → v z = .lt := by
      refine ⟨by rw [hv.ne_lt, hy]; linarith, fun d z _ hz hyz => ?_⟩
      rw [hv.lt]
      linarith [hprev _ (hm hz).neg (hflip hyz)]
    have below : ∀ {z : ℚ}, z < y → v ((y + z) / 2) = .gt := fun {z} hzy => by
      have : (z : ℝ) < y := by exact_mod_cast hzy
      rw [hv.gt]; push_cast; linarith
    unfold selected
    match rm, h0, h1, h2, h3, h4, h5 with
    | 0, h0, _, _, _, _, _ =>
      refine fun d z _ hz => ⟨fun hyz => ?_, fun hzy => .inl (below hzy)⟩
      rw [hv.lt, hv.eq]; push_cast; rw [hy]
      exact (h0 rfl _ (hm hz).neg (hflip hyz)).imp (fun h => by linarith) fun ⟨h, e⟩ => ⟨by linarith, e⟩
    | 1, _, h1, _, _, _, _ => exact absurd rfl h1
    | 2, _, _, _, _, _, _ => exact down
    | 3, _, _, _, h3, _, _ => cases h3 rfl
    | 4, _, _, _, _, h4, _ =>
      refine fun d z _ hz => ⟨fun hyz => ?_, fun hzy => .inl (below hzy)⟩
      rw [hv.lt, hv.eq]; push_cast; rw [hy]
      refine (h4 rfl _ (hm hz).neg (hflip hyz)).imp (fun h => by linarith) fun ⟨h, e⟩ => ⟨by linarith, ?_⟩
      have : |(z : ℝ)| < |(y : ℝ)| := by rw [hy, abs_neg, habs, ← abs_neg]; exact e
      exact_mod_cast this
    | n + 5, _, _, _, _, _, h5 =>
      change ite (v 0 = .lt) _ _
      rw [if_pos hneg]
      refine .inr ⟨down, hne, fun d z _ hz hyz => ?_⟩
      rw [hv.ne_gt, srPart]; push_cast; rw [hy]
      linarith [h5 (by omega) _ (hm hz).neg (hflip hyz)]

end Selected

end Sys2Proof.Machine
end

section
/-!
PROOFS. From a rounded magnitude to the member that a mode selects, and the end of the range (R95, R96).
-/

set_option Elab.async false

namespace Sys2Proof.Machine

theorem RoundsAt.between {g : ℕ → ℝ} {rm sr c k : ℕ} {neg : Bool} {a : ℝ} (hg : StrictMono g) (h : RoundsAt g rm sr neg a c) (hlo : g k < a)
    (hhi : a < g (k + 1)) :
    (roundsUp rm sr neg k ((a - g k) / (g (k + 1) - g k)) ∧ c = k + 1) ∨ (¬ roundsUp rm sr neg k ((a - g k) / (g (k + 1) - g k)) ∧ c = k) := by
  rcases h with rfl | ⟨j, hj, hj', hup⟩
  · have := hg.lt_iff_lt.mp hlo
    have := hg.lt_iff_lt.mp hhi
    omega
  · have := hg.lt_iff_lt.mp (hlo.trans hj')
    have := hg.lt_iff_lt.mp (hj.trans hhi)
    obtain rfl : j = k := by omega
    exact hup

theorem magReal_strictMono (f : ℕ) : StrictMono (fun c => (magVal f c : ℝ)) := fun _ _ h => Rat.cast_lt.mpr (magVal_strictMono f h)

section
variable {f rm sr c : ℕ} {neg : Bool} {v : ℚ → Ordering} {a : ℝ} {y : ℚ}

/-- R95: an exact value that is a member is selected by every mode. -/
theorem selected_exact (hv : Sees v y) : selected f rm sr v c y := by
  have down : v y ≠ .lt ∧ ∀ d z, d < 2 ^ fmtBits f → floatRat f d = some z → y < z → v z = .lt :=
    ⟨by rw [hv.ne_lt], fun d z _ _ h => by rw [hv.lt]; exact_mod_cast h⟩
  have up : v y ≠ .gt ∧ ∀ d z, d < 2 ^ fmtBits f → floatRat f d = some z → z < y → v z = .gt :=
    ⟨by rw [hv.ne_gt], fun d z _ _ h => by rw [hv.gt]; exact_mod_cast h⟩
  have near : ∀ tie : ℚ → Prop, ∀ d z, d < 2 ^ fmtBits f → floatRat f d = some z →
      (y < z → v ((y + z) / 2) = .lt ∨ (v ((y + z) / 2) = .eq ∧ tie z)) ∧ (z < y → v ((y + z) / 2) = .gt ∨ (v ((y + z) / 2) = .eq ∧ tie z)) :=
    fun tie d z _ _ => ⟨fun h => .inl (by rw [hv.lt, Rat.cast_lt]; linarith), fun h => .inl (by rw [hv.gt, Rat.cast_lt]; linarith)⟩
  have part : 0 < srPart sr := by unfold srPart; positivity
  unfold selected
  match rm with
  | 0 => exact near _
  | 1 =>
    change ite (v 0 = .lt) _ _
    split
    · exact up
    · exact down
  | 2 => exact down
  | 3 => exact up
  | 4 => exact near _
  | n + 5 =>
    change ite (v 0 = .lt) _ _
    split
    · exact .inl ⟨up, fun d z _ _ h => by rw [hv.gt, Rat.cast_lt]; nlinarith⟩
    · exact .inl ⟨down, fun d z _ _ h => by rw [hv.lt, Rat.cast_lt]; nlinarith⟩

/-- R95, R97: a mode that does not round up selects the neighbour below. -/
theorem selected_of_not_roundsUp (hf : f ≤ 7) (hv : Sees v (signed neg a)) (ha : 0 < a) (hy : (y : ℝ) = signed neg (magVal f c))
    (hlo : (magVal f c : ℝ) < a) (hhi : a < magVal f (c + 1))
    (hup : ¬ roundsUp rm sr neg c ((a - magVal f c) / (magVal f (c + 1) - magVal f c))) : selected f rm sr v c y := by
  have hgap : (0 : ℝ) < magVal f (c + 1) - magVal f c := by linarith
  have hnext : ∀ w, IsMember f w → (magVal f c : ℝ) < w → (magVal f (c + 1) : ℝ) ≤ w := fun w hw h => (hw.next_le h).1
  generalize (magVal f (c + 1) : ℝ) = n at hhi hup hgap hnext
  generalize (magVal f c : ℝ) = b at hy hlo hup hgap hnext
  refine selected_inner hf hv ha hy hlo.le (fun w hw h => hhi.trans_le (hnext w hw h)) ?_ ?_ ?_ ?_ ?_
  · rintro rfl w hw h
    simp only [roundsUp, not_or, not_and, lt_div_iff₀ hgap, div_eq_iff hgap.ne', not_lt] at hup
    obtain ⟨hle, htie⟩ := hup
    have := hnext w hw h
    rcases lt_or_ge a ((b + w) / 2) with h1 | h1
    · exact .inl h1
    · have h2 : a - b = 1 / 2 * (n - b) := by linarith
      exact .inr ⟨by linarith, by have := htie h2; omega⟩
  · rintro rfl; simpa [roundsUp] using hup
  · rintro rfl; simpa [roundsUp] using hup
  · rintro rfl w hw h
    simp only [roundsUp, le_div_iff₀ hgap, not_le] at hup
    linarith [hnext w hw h]
  · intro h5 w hw h
    obtain ⟨k, rfl⟩ := Nat.exists_eq_add_of_le' h5
    simp only [roundsUp, le_div_iff₀ hgap, not_le] at hup
    have hp : (0 : ℝ) < (sr + 1) / 2 ^ 32 := by positivity
    nlinarith [mul_le_mul_of_nonneg_left (sub_le_sub_right (hnext w hw h) b) hp.le]

/-- R95, R97: a mode that rounds up selects the neighbour above. -/
theorem selected_of_roundsUp (hf : f ≤ 7) (hv : Sees v (signed neg a)) (ha : 0 < a) (hy : (y : ℝ) = signed neg (magVal f (c + 1)))
    (hlo : (magVal f c : ℝ) < a) (hhi : a < magVal f (c + 1))
    (hup : roundsUp rm sr neg c ((a - magVal f c) / (magVal f (c + 1) - magVal f c))) : selected f rm sr v (c + 1) y := by
  have hgap : (0 : ℝ) < magVal f (c + 1) - magVal f c := by linarith
  have hprev : ∀ w, IsMember f w → w < magVal f (c + 1) → w ≤ (magVal f c : ℝ) := fun w hw h => hw.le_prev h
  have hb0 := magVal_nonneg f c
  generalize (magVal f (c + 1) : ℝ) = n at hy hhi hup hgap hprev
  generalize (magVal f c : ℝ) = b at hlo hup hgap hprev hb0
  refine selected_outer hf hv ha hy hhi (fun w hw h => (hprev w hw h).trans_lt hlo) ?_ ?_ ?_ ?_ ?_ ?_
  · rintro rfl w hw h
    simp only [roundsUp, lt_div_iff₀ hgap, div_eq_iff hgap.ne'] at hup
    have := hprev w hw h
    rcases lt_or_ge ((n + w) / 2) a with h1 | h1
    · exact .inl h1
    · rcases hup with hup | ⟨hup, hodd⟩
      · linarith
      · exact .inr ⟨by linarith, by omega⟩
  · rintro rfl; exact hup
  · rintro rfl; exact hup
  · rintro rfl; exact hup
  · rintro rfl w hw h
    simp only [roundsUp, le_div_iff₀ hgap] at hup
    have := hprev w hw h
    rcases lt_or_ge ((n + w) / 2) a with h1 | h1
    · exact .inl h1
    · have h2 : w = b := by linarith
      exact .inr ⟨by linarith, by rw [h2, abs_of_nonneg hb0]; linarith⟩
  · intro h5 w hw h
    obtain ⟨k, rfl⟩ := Nat.exists_eq_add_of_le' h5
    simp only [roundsUp, le_div_iff₀ hgap] at hup
    have hp : (sr + 1 : ℝ) / 2 ^ 32 < 1 := by
      by_contra hge
      nlinarith
    nlinarith [mul_nonneg (sub_nonneg.mpr (hprev w hw h)) (sub_nonneg.mpr hp.le)]

/-- The result of a rounding within the largest finite magnitude is the member that the mode selects. -/
theorem selected_of_roundsAt {j sr' : ℕ} (hf : f ≤ 7) (hv : Sees v (signed neg a)) (ha : 0 < a)
    (hc : RoundsAt (fun c => (magVal f c : ℝ)) rm sr neg a c)
    (hj : RoundsAt (fun c => (magVal f c : ℝ)) (if rm = 5 then 0 else rm) sr' neg a j) (hjc : rm ≠ 5 → j = c) (hjm : j ≤ fmtMax f)
    (hy : (y : ℝ) = signed neg (magVal f (min c (fmtMax f)))) :
    selected f rm sr v (min c (fmtMax f)) y ∧ ((∃ k, a = magVal f k) ↔ a = magVal f (min c (fmtMax f))) := by
  have hmono := magReal_strictMono f
  rcases hc with hexact | ⟨k, hlo, hhi, hup⟩
  · have hcm : c ≤ fmtMax f := by
      rcases hj with hj | ⟨i, hi, hi', -⟩
      · rwa [← hmono.injective (hj.symm.trans hexact)]
      · rw [hexact] at hi hi'
        have := hmono.lt_iff_lt.mp hi
        have := hmono.lt_iff_lt.mp hi'
        omega
    rw [min_eq_left hcm] at hy ⊢
    rw [hexact, ← hy] at hv
    exact ⟨selected_exact hv, iff_of_true ⟨c, hexact⟩ hexact⟩
  · have hnot : ∀ i, a ≠ (magVal f i : ℝ) := fun i h => by
      rw [h] at hlo hhi
      have := hmono.lt_iff_lt.mp hlo
      have := hmono.lt_iff_lt.mp hhi
      omega
    have hkj : k ≤ j := by rcases hj.between hmono hlo hhi with ⟨-, h⟩ | ⟨-, h⟩ <;> omega
    refine ⟨?_, iff_of_false (fun ⟨i, hi⟩ => hnot i hi) (hnot _)⟩
    rcases hup with ⟨hup, rfl⟩ | ⟨hup, rfl⟩
    · rcases Nat.lt_or_ge k (fmtMax f) with hk | hk
      · rw [min_eq_left hk] at hy ⊢
        exact selected_of_roundsUp hf hv ha hy hlo hhi hup
      · -- only the generator can round up here: the largest finite magnitude stays
        obtain rfl : k = fmtMax f := by omega
        have h5 : rm = 5 := by by_contra h; have := hjc h; omega
        subst h5
        rw [min_eq_right (Nat.le_succ _)] at hy ⊢
        have hnone : ∀ w, IsMember f w → ¬ (magVal f (fmtMax f) : ℝ) < w := fun w hw h => absurd (hw.next_le h).2 (lt_irrefl _)
        exact selected_inner hf hv ha hy (le_of_lt hlo) (fun w hw h => absurd h (hnone w hw)) (fun h => by cases h) (fun h => by cases h) (fun h => by cases h)
          (fun h => by cases h) (fun _ w hw h => absurd h (hnone w hw))
    · rw [min_eq_left (hkj.trans hjm)] at hy ⊢
      exact selected_of_not_roundsUp hf hv ha hy hlo hhi hup

end

/-! ## Overflow (R94, R96) -/

theorem fmtMax_step {f : ℕ} (hf : f ≤ 7) : 1 ≤ fmtMax f ∧ (fmtMax f - 1) / 2 ^ (fmtShape f).2.1 = fmtMax f / 2 ^ (fmtShape f).2.1 := by
  interval_cases f <;> decide

theorem floatRat_of_le {f c : ℕ} (hf : f ≤ 7) (hc : c ≤ fmtMax f) : floatRat f c = some (magVal f c) := by
  simpa [signCode] using floatRat_signCode hf false hc

/-- R94, R96: an overflow is judged on the rounded value. -/
theorem beyond_iff {f rm sr j : ℕ} {neg : Bool} {v : ℚ → Ordering} {a : ℝ} (hf : f ≤ 7) (hrm : rm ≤ 5) (hv : Sees v (signed neg a)) (ha : 0 < a)
    (hj : RoundsAt (fun c => (magVal f c : ℝ)) (if rm = 5 then 0 else rm) sr neg a j) : beyond f rm v ↔ fmtMax f < j := by
  have hmono := magReal_strictMono f
  have hpast : ∀ q : ℚ, (if v 0 = .lt then v (-q) = .lt else v q = .gt) ↔ (q : ℝ) < a := fun q => by
    simp only [hv.lt, hv.gt]
    cases neg <;> simp [signed, ha, ha.le]
  have hreaches : ∀ q : ℚ, (if v 0 = .lt then v (-q) ≠ .gt else v q ≠ .lt) ↔ (q : ℝ) ≤ a := fun q => by
    simp only [hv.lt, hv.ne_lt, hv.ne_gt]
    cases neg <;> simp [signed, ha, ha.le]
  have hsign : v 0 = .lt ↔ neg = true := by rw [hv.lt]; cases neg <;> simp [signed, ha, ha.le]
  obtain ⟨h1, hstep⟩ := fmtMax_step hf
  have htop := floatRat_of_le hf (le_refl (fmtMax f))
  have hbelow := floatRat_of_le hf (Nat.sub_le (fmtMax f) 1)
  have hsucc : magVal f (fmtMax f + 1) = magVal f (fmtMax f) + (magVal f (fmtMax f) - magVal f (fmtMax f - 1)) := by
    have e1 := magVal_succ f (fmtMax f)
    have e2 := magVal_succ f (fmtMax f - 1)
    rw [Nat.sub_add_cancel h1, hstep] at e2
    linarith
  have hover : fmtMax f < j ↔ (magVal f (fmtMax f + 1) : ℝ) ≤ a ∨ ((magVal f (fmtMax f) : ℝ) < a ∧ a < magVal f (fmtMax f + 1)
      ∧ roundsUp (if rm = 5 then 0 else rm) sr neg (fmtMax f)
          ((a - magVal f (fmtMax f)) / (magVal f (fmtMax f + 1) - magVal f (fmtMax f)))) := by
    rcases le_or_gt (magVal f (fmtMax f + 1) : ℝ) a with h | h
    · refine iff_of_true ?_ (.inl h)
      rcases hj with hj | ⟨k, hk, hk', hup⟩
      · rw [hj] at h
        exact hmono.le_iff_le.mp h
      · have := hmono.lt_iff_lt.mp (h.trans_lt hk')
        rcases hup with ⟨-, rfl⟩ | ⟨-, rfl⟩ <;> omega
    · rcases le_or_gt a (magVal f (fmtMax f) : ℝ) with h' | h'
      · refine iff_of_false ?_ (by rintro (h1 | ⟨h1, -⟩) <;> linarith)
        rcases hj with hj | ⟨k, hk, hk', hup⟩
        · rw [hj] at h'
          exact not_lt.mpr (hmono.le_iff_le.mp h')
        · have := hmono.lt_iff_lt.mp (hk.trans_le h')
          rcases hup with ⟨-, rfl⟩ | ⟨-, rfl⟩ <;> omega
      · rcases hj.between hmono h' h with ⟨hup, rfl⟩ | ⟨hup, rfl⟩
        · exact iff_of_true (Nat.lt_succ_self _) (.inr ⟨h', h, hup⟩)
        · exact iff_of_false (lt_irrefl _) (by rintro (h1 | ⟨-, -, h1⟩); exacts [absurd h1 (not_le.mpr h), hup h1])
  have hgap : (0 : ℝ) < magVal f (fmtMax f + 1) - magVal f (fmtMax f) := sub_pos.mpr (hmono (Nat.lt_succ_self _))
  rw [hover]
  have hulp : ((magVal f (fmtMax f) - magVal f (fmtMax f - 1) : ℚ) : ℝ) = magVal f (fmtMax f + 1) - magVal f (fmtMax f) := by
    rw [hsucc]; push_cast; ring
  simp only [beyond, htop, hbelow, Option.getD_some]
  rw [← Rat.cast_inj (α := ℝ)] at hsucc
  generalize magVal f (fmtMax f) - magVal f (fmtMax f - 1) = u at hulp hsucc ⊢
  generalize magVal f (fmtMax f) = t at hulp hsucc hgap ⊢
  generalize (magVal f (fmtMax f + 1) : ℝ) = n at hulp hsucc hgap ⊢
  -- rounding outwards: the exact value is past the largest finite
  have outwards : (t : ℝ) < a ↔ n ≤ a ∨ ((t : ℝ) < a ∧ a < n) :=
    ⟨fun h => (le_or_gt n a).imp_right fun h' => ⟨h, h'⟩, fun h => h.elim (fun h => by linarith) And.left⟩
  -- rounding to nearest: the exact value has come half a unit past it
  have half : (t + u / 2 : ℝ) ≤ a ↔ n ≤ a ∨ ((t : ℝ) < a ∧ a < n ∧ 1 / 2 * (n - t) ≤ a - t) :=
    ⟨fun h => (le_or_gt n a).imp_right fun h' => ⟨by linarith, h', by linarith⟩, fun h => h.elim (fun h => by linarith) fun ⟨_, _, h⟩ => by linarith⟩
  have pastHalf : (t + u / 2 : ℝ) < a ↔ n ≤ a ∨ ((t : ℝ) < a ∧ a < n ∧ 1 / 2 * (n - t) < a - t) :=
    ⟨fun h => (le_or_gt n a).imp_right fun h' => ⟨by linarith, h', by linarith⟩, fun h => h.elim (fun h => by linarith) fun ⟨_, _, h⟩ => by linarith⟩
  have even : (if fmtMax f % 2 = 0 then (t + u / 2 : ℝ) < a else (t + u / 2 : ℝ) ≤ a)
      ↔ n ≤ a ∨ ((t : ℝ) < a ∧ a < n ∧ (1 / 2 * (n - t) < a - t ∨ (a - t = 1 / 2 * (n - t) ∧ fmtMax f % 2 = 1))) := by
    split
    · next h => simp [pastHalf, h]
    · next h => simp [half, Nat.mod_two_ne_zero.mp h, le_iff_lt_or_eq, eq_comm]
  have hn : (t + u : ℝ) = n := by linarith
  obtain rfl | rfl | rfl | rfl | rfl | rfl : rm = 0 ∨ rm = 1 ∨ rm = 2 ∨ rm = 3 ∨ rm = 4 ∨ rm = 5 := by omega
  case inl | inr.inr.inr.inr.inr =>
    simp only [hpast, hreaches, roundsUp, lt_div_iff₀ hgap, div_eq_iff hgap.ne', if_true, OfNat.zero_ne_ofNat, if_false]
    push_cast
    exact even
  · simp only [hreaches, roundsUp]
    push_cast
    simp [hn]
  · simp only [hpast, hreaches, roundsUp]
    push_cast
    rw [hn]
    cases neg
    · simp [hsign]
    · simpa [hsign] using outwards
  · simp only [hpast, hreaches, roundsUp]
    push_cast
    rw [hn]
    cases neg
    · simpa [hsign] using outwards
    · simp [hsign]
  · simp only [hreaches, roundsUp, le_div_iff₀ hgap]
    push_cast
    exact half

end Sys2Proof.Machine
end

section
/-!
PROOFS. The model rounds to a floating format (R95, R96) and to the integers.
-/

set_option Elab.async false

namespace Sys2Proof.Machine

/-! ## Rounding to a floating format (R95, R96) -/

theorem signed_ne_zero {neg : Bool} {a : ℝ} (ha : 0 < a) : signed neg a ≠ 0 := by
  cases neg <;> simp [signed, ha.ne']

theorem cast_signed (neg : Bool) (q : ℚ) : (((if neg then -1 else 1) * q : ℚ) : ℝ) = signed neg q := by
  cases neg <;> simp [signed]

theorem signed_inj {neg : Bool} {a b : ℝ} : signed neg a = signed neg b ↔ a = b := by
  cases neg <;> simp [signed]

/-- Ties look at the last bit alone. -/
theorem selected_congr {f rm sr c c' : ℕ} {v : ℚ → Ordering} {y : ℚ} (h : c' % 2 = c % 2) (hs : selected f rm sr v c y) :
    selected f rm sr v c' y := by
  unfold selected at hs ⊢
  rwa [h]

theorem signCode_add_mod_two {f : ℕ} (hf : f ≤ 7) (neg : Bool) (d : ℕ) : (signCode f neg + d) % 2 = d % 2 := by
  have hbits : fmtBits f - 1 ≠ 0 := by interval_cases f <;> decide
  have htwo : 2 ∣ 2 ^ (fmtBits f - 1) := dvd_pow_self 2 hbits
  cases neg
  · simp [signCode]
  · simp only [signCode, if_true]
    omega

theorem rndFloat_zero {f rm sr : ℕ} {neg : Bool} {e : ℤ} {v : ℚ → Ordering} (hv : Sees v 0) :
    Rounded f rm sr neg v (rndFloat f rm sr neg 0 e).1 (rndFloat f rm sr neg 0 e).2 := by
  have h0 : v 0 = .eq := by rw [hv.eq]; simp
  exact ⟨fun _ => ⟨rfl, rfl⟩, fun h => absurd h0 h, fun h => absurd h0 h⟩

/-- R95, R96: the model rounds what a magnitude stands for. -/
theorem rndFloat_rounded {f rm sr m : ℕ} {neg z : Bool} {e : ℤ} {a : ℝ} {v : ℚ → Ordering} (hf : f ≤ 7) (hrm : rm ≤ 5) (hm : m ≠ 0)
    (hs : Stands m e a) (hv : Sees v (signed neg a)) :
    Rounded f rm sr z v (rndFloat f rm sr neg m e).1 (rndFloat f rm sr neg m e).2 := by
  have ha := hs.pos hm
  have h0 : v 0 ≠ .eq := by rw [ne_eq, hv.eq, Rat.cast_zero]; exact signed_ne_zero ha
  have hneg : decide (v 0 = .lt) = neg := by
    rw [Bool.eq_iff_iff, decide_eq_true_eq, hv.lt]
    cases neg <;> simp [signed, ha, ha.le]
  obtain ⟨hc, hx⟩ := roundsAt_ulpExp (f := f) (rm := rm) (sr := sr) (neg := neg) hs hm
  obtain ⟨j, hj, hjc, hcode⟩ : ∃ j, (∃ sr', RoundsAt (fun c => (magVal f c : ℝ)) (if rm = 5 then 0 else rm) sr' neg a j)
      ∧ (rm ≠ 5 → j = magCode f (roundTo rm sr neg m e (ulpExp f m e)).1 (ulpExp f m e))
      ∧ (if rm = 5 then magCode f (roundTo 0 0 neg m e (ulpExp f m e)).1 (ulpExp f m e)
          else magCode f (roundTo rm sr neg m e (ulpExp f m e)).1 (ulpExp f m e)) = j := by
    by_cases h5 : rm = 5
    · exact ⟨_, ⟨0, by rw [if_pos h5]; exact (roundsAt_ulpExp hs hm).1⟩, fun h => absurd h5 h, if_pos h5⟩
    · exact ⟨_, ⟨sr, by rw [if_neg h5]; exact hc⟩, fun _ => rfl, if_neg h5⟩
  obtain ⟨sr', hj⟩ := hj
  have hbeyond := beyond_iff hf hrm hv ha hj
  unfold rndFloat
  rw [if_neg hm]
  dsimp only
  rw [hcode]
  generalize magCode f (roundTo rm sr neg m e (ulpExp f m e)).1 (ulpExp f m e) = c at hc hjc
  generalize (roundTo rm sr neg m e (ulpExp f m e)).2 = inexact at hx
  unfold Rounded
  dsimp only
  rw [hneg]
  refine ⟨fun h => absurd h h0, fun _ hb => ?_, fun _ hb => ?_⟩
  · rw [if_pos (hbeyond.mp hb)]
    have hinf : (fmtHasInf f && (rm == 0 || rm == 4 || rm == 5 || (rm == 2 && neg) || (rm == 3 && !neg))) = true
        ↔ fmtHasInf f = true ∧ rm ≠ 1 ∧ (rm = 2 → neg = true) ∧ (rm = 3 → neg = false) := by
      cases neg <;> interval_cases rm <;> simp
    exact ⟨rfl, fun h => by rw [if_pos (hinf.mpr h)], fun h => by rw [if_neg (mt hinf.mp h)]⟩
  · have hjm := not_lt.mp (mt hbeyond.mpr hb)
    rw [if_neg (not_lt.mpr hjm)]
    have hcm : min c (fmtMax f) ≤ fmtMax f := min_le_right _ _
    have hy := cast_signed neg (magVal f (min c (fmtMax f)))
    obtain ⟨hsel, hexact⟩ := selected_of_roundsAt hf hv ha hc hj hjc hjm hy
    obtain ⟨hbit, -⟩ := signCode_parts neg (hcm.trans_lt (fmtMax_lt hf))
    have heq : ∀ y : ℚ, (y : ℝ) = signed neg (magVal f (min c (fmtMax f))) → (v y = .eq ↔ inexact = false) := fun y hy => by
      rw [hv.eq, hy, signed_inj, ← hexact, hx]
    generalize min c (fmtMax f) = d at hcm hy hsel hbit heq
    have hmono := magVal_strictMono f
    have habs : |((if neg then -1 else 1) * magVal f d : ℚ)| = magVal f d := by
      have : 0 ≤ magVal f d := by exact_mod_cast magVal_nonneg f d
      cases neg <;> simp [abs_of_nonneg this]
    have hnormal : |((if neg then -1 else 1) * magVal f d : ℚ)| < 2 ^ (1 - ((fmtShape f).2.2 : ℤ)) ↔ d < 2 ^ (fmtShape f).2.1 := by
      rw [habs, ← magVal_leastNormal, hmono.lt_iff_lt]
    have hzero : ((if neg then -1 else 1) * magVal f d : ℚ) = 0 ↔ d = 0 := by
      rw [← abs_eq_zero, habs, ← magVal_zero f, hmono.injective.eq_iff]
    refine ⟨_, floatRat_signCode hf neg hcm, ?_, hbit, fun h => ?_, fun h h1 h2 => ?_, fun h h1 => ?_⟩
    · exact selected_congr (signCode_add_mod_two hf neg d) hsel
    · rw [(heq _ hy).mp h]; simp [fIf]
    · have hi : inexact = true := Bool.eq_true_of_not_eq_false (mt (heq _ hy).mpr h)
      simp [fIf, hi, hnormal.mp h2, mt hzero.mpr h1]
    · have hi : inexact = true := Bool.eq_true_of_not_eq_false (mt (heq _ hy).mpr h)
      have hsub : ¬ (d ≠ 0 ∧ d < 2 ^ (fmtShape f).2.1) := fun ⟨h2, h3⟩ => h1.elim (fun h => h2 (hzero.mp h)) fun h => not_lt.mpr h (hnormal.mpr h3)
      have hsub' : (d != 0 && decide (d < 2 ^ (fmtShape f).2.1)) = false := by simpa using hsub
      simp [fIf, hi, hsub']

/-! ## Rounding to an integer format (R95..R97) -/

section

variable {rm sr : ℕ} {neg : Bool} {v : ℚ → Ordering} {a : ℝ}

theorem selectedInt_exact {n : ℤ} (hv : Sees v n) : selectedInt rm sr v n := by
  have part : (0 : ℝ) < ((srPart sr : ℚ) : ℝ) := by unfold srPart; push_cast; positivity
  have down : v n ≠ .lt ∧ v (n + 1) = .lt := ⟨by simp [hv.ne_lt], by simp [hv.lt]⟩
  have up : v n ≠ .gt ∧ v (n - 1) = .gt := ⟨by simp [hv.ne_gt], by simp [hv.gt]⟩
  have near : ∀ tie : ℤ → Prop, (v (n + 1 / 2) = .lt ∨ (v (n + 1 / 2) = .eq ∧ tie (n + 1)))
      ∧ (v (n - 1 / 2) = .gt ∨ (v (n - 1 / 2) = .eq ∧ tie (n - 1))) := fun _ => ⟨.inl (by simp [hv.lt]), .inl (by simp [hv.gt])⟩
  unfold selectedInt
  match rm with
  | 0 => exact near fun _ => n % 2 = 0
  | 1 =>
    change ite (v 0 = .lt) _ _
    split
    · exact up
    · exact down
  | 2 => exact down
  | 3 => exact up
  | 4 => exact near fun m => |m| < |n|
  | n + 5 =>
    change ite (v 0 = .lt) _ _
    split
    · exact .inl ⟨up, by simp [hv.gt, part]⟩
    · exact .inl ⟨down, by simp [hv.lt, part]⟩

/-- A natural number with a sign. -/
def signedInt (neg : Bool) (n : ℕ) : ℤ := if neg then -(n : ℤ) else n

theorem signedInt_even (neg : Bool) (n : ℕ) : signedInt neg n % 2 = 0 ↔ n % 2 = 0 := by
  cases neg <;> simp only [signedInt, if_true, if_false, Bool.false_eq_true] <;> omega

/-- R95, R97: the model selects the integer that the mode selects. -/
theorem selectedInt_of_roundsAt {n : ℕ} (hv : Sees v (signed neg a)) (h : RoundsAt (fun n => (n : ℝ)) rm sr neg a n) :
    selectedInt rm sr v (signedInt neg n) := by
  rcases h with rfl | ⟨k, hlo, hhi, hup⟩
  · exact selectedInt_exact (by convert hv using 1; cases neg <;> simp [signedInt, signed])
  simp only [Nat.cast_add, Nat.cast_one, add_sub_cancel_left, div_one] at hlo hhi hup
  have ha : 0 < a := (Nat.cast_nonneg k).trans_lt hlo
  have hsign : v 0 = .lt ↔ neg = true := by rw [hv.lt]; cases neg <;> simp [signed, ha, ha.le]
  -- the neighbour within, and the neighbour without, as floor and ceiling of a sign
  have down : ∀ y : ℤ, y = signedInt neg (if neg then k + 1 else k) → v y ≠ .lt ∧ v (y + 1) = .lt ∧ v y ≠ .eq := by
    rintro y rfl
    rw [hv.ne_lt, hv.lt, ne_eq, hv.eq]
    cases neg <;> simp only [signedInt, signed, if_true, if_false, Bool.false_eq_true] <;> push_cast <;>
      exact ⟨by linarith, by linarith, fun h => by linarith⟩
  have up : ∀ y : ℤ, y = signedInt neg (if neg then k else k + 1) → v y ≠ .gt ∧ v (y - 1) = .gt ∧ v y ≠ .eq := by
    rintro y rfl
    rw [hv.ne_gt, hv.gt, ne_eq, hv.eq]
    cases neg <;> simp only [signedInt, signed, if_true, if_false, Bool.false_eq_true] <;> push_cast <;>
      exact ⟨by linarith, by linarith, fun h => by linarith⟩
  have near : ∀ (n : ℕ) (tie : ℤ → Prop), a < n + 1 / 2 ∨ (a = n + 1 / 2 ∧ tie (signedInt neg (n + 1))) →
      n - 1 / 2 < a ∨ (a = n - 1 / 2 ∧ tie (if neg then -(n : ℤ) + 1 else n - 1)) →
      (v ((signedInt neg n : ℤ) + 1 / 2) = .lt ∨ (v ((signedInt neg n : ℤ) + 1 / 2) = .eq ∧ tie (signedInt neg n + 1)))
        ∧ (v ((signedInt neg n : ℤ) - 1 / 2) = .gt ∨ (v ((signedInt neg n : ℤ) - 1 / 2) = .eq ∧ tie (signedInt neg n - 1))) := by
    intro n tie h1 h2
    simp only [hv.lt, hv.gt, hv.eq]
    cases neg <;> simp only [signedInt, signed, if_true, if_false, Bool.false_eq_true] at h1 h2 ⊢ <;> push_cast at h1 h2 ⊢
    · exact ⟨h1, h2⟩
    · exact ⟨h2.imp (fun h => by linarith) fun ⟨h, t⟩ => ⟨by linarith, t⟩,
        h1.imp (fun h => by linarith) fun ⟨h, t⟩ => ⟨by linarith, by convert t using 1; ring⟩⟩
  revert hup
  match rm with
  | 0 =>
    intro hup
    refine near n (fun _ => signedInt neg n % 2 = 0) ?_ ?_ <;> simp only [roundsUp, signedInt_even] at hup ⊢ <;> rcases hup with ⟨hup, rfl⟩ | ⟨hup, rfl⟩
    · left; push_cast; linarith
    · rcases lt_or_ge a (n + 1 / 2) with h | h
      · exact .inl h
      · have h1 : a - n = 1 / 2 := by by_contra h1; exact hup (.inl (lt_of_le_of_ne (by linarith) (Ne.symm h1)))
        exact .inr ⟨by linarith, by by_contra h2; exact hup (.inr ⟨h1, by omega⟩)⟩
    · push_cast
      rcases hup with hup | ⟨hup, hodd⟩
      · left; linarith
      · exact .inr ⟨by linarith, by omega⟩
    · left; linarith
  | 1 =>
    intro hup
    obtain ⟨-, rfl⟩ := hup.resolve_left fun h => h.1
    change ite (v 0 = .lt) _ _
    cases neg
    · rw [if_neg (by simp [hsign])]
      exact ⟨(down _ rfl).1, (down _ rfl).2.1⟩
    · rw [if_pos (by simp [hsign])]
      exact ⟨(up _ rfl).1, (up _ rfl).2.1⟩
  | 2 =>
    intro hup
    have hd := down (signedInt neg n) (congrArg (signedInt neg) (by cases neg <;> simpa [roundsUp] using hup))
    exact ⟨hd.1, hd.2.1⟩
  | 3 =>
    intro hup
    have hu := up (signedInt neg n) (congrArg (signedInt neg) (by cases neg <;> simpa [roundsUp] using hup))
    exact ⟨hu.1, hu.2.1⟩
  | 4 =>
    intro hup
    refine near n (fun m => |m| < |signedInt neg n|) ?_ ?_ <;> simp only [roundsUp] at hup <;> rcases hup with ⟨hup, rfl⟩ | ⟨hup, rfl⟩
    · left; push_cast; linarith
    · left; linarith
    · rcases eq_or_lt_of_le hup with h | h
      · refine .inr ⟨by push_cast; linarith, ?_⟩
        rw [Int.abs_eq_natAbs, Int.abs_eq_natAbs]
        cases neg <;> simp only [signedInt, if_true, if_false, Bool.false_eq_true] <;> omega
      · left; push_cast; linarith
    · left; linarith
  | i + 5 =>
    intro hup
    simp only [roundsUp] at hup
    change ite (v 0 = .lt) _ _
    cases neg
    · rw [if_neg (by simp [hsign])]
      rcases hup with ⟨hup, rfl⟩ | ⟨hup, rfl⟩
      · obtain ⟨h1, h2, h3⟩ := up (signedInt false (k + 1)) rfl
        refine .inr ⟨⟨h1, h2⟩, h3, ?_⟩
        rw [hv.ne_lt]
        simp only [signedInt, signed, srPart, if_false, Bool.false_eq_true]
        push_cast
        linarith
      · obtain ⟨h1, h2, h3⟩ := down (signedInt false n) rfl
        refine .inl ⟨⟨h1, h2⟩, ?_⟩
        rw [hv.lt]
        simp only [signedInt, signed, srPart, if_false, Bool.false_eq_true]
        push_cast
        linarith
    · rw [if_pos (by simp [hsign])]
      rcases hup with ⟨hup, rfl⟩ | ⟨hup, rfl⟩
      · obtain ⟨h1, h2, h3⟩ := down (signedInt true (k + 1)) rfl
        refine .inr ⟨⟨h1, h2⟩, h3, ?_⟩
        rw [hv.ne_gt]
        simp only [signedInt, signed, srPart, if_true]
        push_cast
        linarith
      · obtain ⟨h1, h2, h3⟩ := up (signedInt true n) rfl
        refine .inl ⟨⟨h1, h2⟩, ?_⟩
        rw [hv.gt]
        simp only [signedInt, signed, srPart, if_true]
        push_cast
        linarith

end

end Sys2Proof.Machine
end

section
/-!
PROOFS. The model rounds to an integer format (R95..R97) and to the logarithms (R85).
-/

set_option Elab.async false

namespace Sys2Proof.Machine

theorem RoundsAt.exact_iff {g : ℕ → ℝ} {rm sr n : ℕ} {neg : Bool} {a : ℝ} (hg : StrictMono g) (h : RoundsAt g rm sr neg a n) :
    a = g n ↔ ∃ k, a = g k := by
  refine ⟨fun h => ⟨n, h⟩, fun ⟨k, hk⟩ => ?_⟩
  rcases h with h | ⟨j, hj, hj', -⟩
  · exact h
  · rw [hk] at hj hj'
    have := hg.lt_iff_lt.mp hj
    have := hg.lt_iff_lt.mp hj'
    omega

/-- R96: the code and the flags of a rounded integer `n` in a format, where the integer `j` tells whether it overflows. -/
def heldInt (f : ℕ) (j n : ℤ) (inexact : Bool) : ℕ × Flags7 :=
  let beyond := decide (j < intLo f) || decide (intHi f < j)
  (((max (intLo f) (min (intHi f) (if beyond then j else n))) % 2 ^ fmtBits f).toNat, fIf beyond (fOF ||| fNX) ||| fIf inexact fNX)

theorem rndInt_eq (f rm sr : ℕ) (neg : Bool) (m : ℕ) (e : ℤ) : rndInt f rm sr neg m e =
    heldInt f (if rm = 5 then signedInt neg (roundTo 0 0 neg m e 0).1 else signedInt neg (roundTo rm sr neg m e 0).1)
      (signedInt neg (roundTo rm sr neg m e 0).1) (roundTo rm sr neg m e 0).2 := rfl

/-- R95..R97: the model rounds a finite value to an integer format. -/
theorem rndInt_rounded {f rm sr m : ℕ} {neg : Bool} {e : ℤ} {v : ℚ → Ordering} (hv : Sees v (signed neg (m * (2 : ℝ) ^ e))) :
    RoundedInt f rm sr v (rndInt f rm sr neg m e).1 (rndInt f rm sr neg m e).2 := by
  have hround : ∀ rm sr, RoundsAt (fun n => (n : ℝ)) rm sr neg (m * (2 : ℝ) ^ e) (roundTo rm sr neg m e 0).1
      ∧ ((roundTo rm sr neg m e 0).2 = false ↔ ∃ n : ℕ, m * (2 : ℝ) ^ e = n) := fun rm sr => by
    simpa using roundTo_roundsAt (rm := rm) (sr := sr) (neg := neg) (m := m) (e := e) (q := 0) (.inl rfl)
  obtain ⟨hr, hx⟩ := hround rm sr
  have hsel := selectedInt_of_roundsAt hv hr
  have hexact : v (signedInt neg (roundTo rm sr neg m e 0).1) = .eq ↔ (roundTo rm sr neg m e 0).2 = false := by
    rw [hv.eq, hx, ← hr.exact_iff Nat.strictMono_cast, ← signed_inj (neg := neg)]
    cases neg <;> simp [signed, signedInt]
  obtain ⟨j, hj, hcode⟩ : ∃ j, selectedInt (if rm = 5 then 0 else rm) sr v j
      ∧ (if rm = 5 then signedInt neg (roundTo 0 0 neg m e 0).1 else signedInt neg (roundTo rm sr neg m e 0).1) = j := by
    by_cases h5 : rm = 5
    · exact ⟨_, by rw [if_pos h5]; exact selectedInt_of_roundsAt (sr := sr) hv (hround 0 0).1, if_pos h5⟩
    · exact ⟨_, by rw [if_neg h5]; exact hsel, if_neg h5⟩
  rw [rndInt_eq, hcode]
  unfold heldInt
  dsimp only
  refine ⟨j, hj, fun h => ?_, fun hlo hhi => ⟨_, hsel, ?_, ?_⟩⟩
  · have hb : (decide (j < intLo f) || decide (intHi f < j)) = true := by rw [Bool.or_eq_true, decide_eq_true_eq, decide_eq_true_eq]; exact h
    rw [hb]
    exact ⟨rfl, by cases (roundTo rm sr neg m e 0).2 <;> rfl⟩
  all_goals
    have hb : (decide (j < intLo f) || decide (intHi f < j)) = false := by
      rw [Bool.or_eq_false_iff, decide_eq_false_iff_not, decide_eq_false_iff_not, not_lt, not_lt]; exact ⟨hlo, hhi⟩
    rw [hb]
  · rfl
  · simp only [hexact]
    cases (roundTo rm sr neg m e 0).2 <;> rfl

/-! ## Finite values -/

/-- The value of a sign, a magnitude and an exponent. -/
def finRat (neg : Bool) (m : ℕ) (e : ℤ) : ℚ := (if neg then -1 else 1) * (m * 2 ^ e)

theorem cast_finRat (neg : Bool) (m : ℕ) (e : ℤ) : (finRat neg m e : ℝ) = signed neg (m * (2 : ℝ) ^ e) := by
  rw [finRat, cast_signed]; push_cast; rfl

theorem sees_finRat (neg : Bool) (m : ℕ) (e : ℤ) : Sees (exactAt (finRat neg m e)) (signed neg (m * (2 : ℝ) ^ e)) := by
  rw [← cast_finRat]; exact sees_exactAt _

theorem finRat_zero (neg : Bool) (e : ℤ) : finRat neg 0 e = 0 := by simp [finRat]

theorem finRat_eq_zero {neg : Bool} {m : ℕ} {e : ℤ} : finRat neg m e = 0 ↔ m = 0 := by
  rw [finRat]
  have : (2 : ℚ) ^ e ≠ 0 := by positivity
  cases neg <;> simp [this]

theorem finRat_lt_zero {neg : Bool} {m : ℕ} {e : ℤ} (hm : m ≠ 0) : finRat neg m e < 0 ↔ neg = true := by
  have : (0 : ℚ) < m * 2 ^ e := by have := Nat.pos_of_ne_zero hm; positivity
  cases neg <;> simp [finRat, this, this.le]

theorem unitsOf_eq {neg : Bool} {m : ℕ} {e u : ℤ} (h : u ≤ e) : (unitsOf neg m e u : ℚ) * 2 ^ u = finRat neg m e := by
  obtain ⟨d, rfl⟩ : ∃ d : ℕ, e = u + d := ⟨(e - u).toNat, by omega⟩
  unfold unitsOf finRat
  rw [show (u + d - u).toNat = d by omega, zpow_add₀ two_ne_zero, zpow_natCast]
  cases neg <;> push_cast <;> simp <;> ring

/-! ## Rounding to lns6 (R85) -/

theorem lnsVal_eq (c : ℕ) (h : c % 32 ≠ 0) : lnsVal c = .fin (c.testBit 5) (lnsT (c % 4)) ((c / 4 % 8 : ℕ) - 16) := by
  unfold lnsVal
  dsimp only
  rw [if_neg h, show c % 32 % 4 = c % 4 by omega, show c % 32 / 4 = c / 4 % 8 by omega]

theorem lnsRat_eq (c : ℕ) (h : c % 32 ≠ 0) : lnsRat c = finRat (c.testBit 5) (lnsT (c % 4)) ((c / 4 % 8 : ℕ) - 16) := by
  rw [lnsRat, if_neg h, finRat, mul_assoc]

/-- R85: no binary value lies midway between two logarithms. -/
theorem pow_eight_ne (m : ℕ) (e l : ℤ) : ((m : ℚ) * 2 ^ e) ^ 8 ≠ 2 ^ (2 * l - 1) := by
  intro h
  have hm : (m : ℚ) ^ 8 = 2 ^ (2 * l - 1 - 8 * e) := by
    rw [zpow_sub₀ two_ne_zero, ← h, mul_pow, ← zpow_natCast (2 ^ e) 8, ← zpow_mul, mul_comm e]
    field_simp
    norm_num
  have hm1 : (1 : ℚ) ≤ (m : ℚ) ^ 8 := by
    have : m ≠ 0 := by rintro rfl; have : (2 : ℚ) ^ (2 * l - 1 - 8 * e) ≠ 0 := by positivity
                       exact this (by rw [← hm]; norm_num)
    exact_mod_cast Nat.one_le_pow _ _ (Nat.pos_of_ne_zero this)
  obtain ⟨j, hj⟩ : ∃ j : ℕ, 2 * l - 1 - 8 * e = j := ⟨(2 * l - 1 - 8 * e).toNat, by
    have : 0 ≤ 2 * l - 1 - 8 * e := by
      by_contra hneg
      rw [hm] at hm1
      exact absurd hm1 (not_le.mpr (zpow_lt_one_of_neg₀ one_lt_two (by omega)))
    omega⟩
  rw [hj, zpow_natCast] at hm
  have hmn : m ^ 8 = 2 ^ j := by exact_mod_cast hm
  obtain ⟨i, -, rfl⟩ := (Nat.dvd_prime_pow Nat.prime_two).mp ((dvd_pow_self m (by norm_num)).trans hmn.dvd)
  rw [← pow_mul] at hmn
  have := Nat.pow_right_injective (le_refl 2) hmn
  omega

/-- R85: the magnitude is that of a code of lns6. -/
def lnsExact (m : ℕ) (e : ℤ) (c : ℕ) : Bool :=
  match lnsVal c with
  | .fin _ m' e' => unitsOf false m e (min e e') == unitsOf false m' e' (min e e')
  | _ => false

theorem unitsOf_eq_iff {n n' : Bool} {m m' : ℕ} {e e' : ℤ} :
    unitsOf n m e (min e e') = unitsOf n' m' e' (min e e') ↔ finRat n m e = finRat n' m' e' := by
  rw [← unitsOf_eq (min_le_left e e'), ← unitsOf_eq (min_le_right e e'), mul_left_inj' (by positivity), Int.cast_inj]

theorem lnsExact_iff {neg : Bool} {m c : ℕ} {e : ℤ} (h1 : 1 ≤ c) (h2 : c ≤ 31) :
    lnsExact m e c = true ↔ finRat neg m e = lnsRat ((if neg then 32 else 0) + c) := by
  have hc : c.testBit 5 = false := Nat.testBit_lt_two_pow (by omega)
  have hcode : ((if neg then 32 else 0) + c) % 32 = c ∧ ((if neg then 32 else 0) + c) % 4 = c % 4 ∧ ((if neg then 32 else 0) + c) / 4 % 8 = c / 4 % 8
      ∧ ((if neg then 32 else 0) + c).testBit 5 = neg := by
    interval_cases c <;> cases neg <;> decide
  obtain ⟨e1, e2, e3, e4⟩ := hcode
  rw [lnsExact, lnsVal_eq c (by omega), lnsRat_eq _ (by omega), e2, e3, e4]
  dsimp only
  rw [beq_iff_eq, unitsOf_eq_iff]
  cases neg <;> simp [finRat]

theorem rndLns_eq (neg : Bool) (m : ℕ) (e : ℤ) : rndLns neg m e =
    if m = 0 then (0, 0)
    else
      let l : ℤ := ((Nat.log2 (m ^ 8) : ℤ) + 8 * e + 1) / 2
      if l < -15 then (0, fUF ||| fNX)
      else ((if neg then 32 else 0) + (min l 15 + 16).toNat, fIf (decide (15 < l)) fOF ||| fIf (!lnsExact m e (min l 15 + 16).toNat) fNX) := rfl

theorem rndLns_rounded (neg : Bool) (m : ℕ) (e : ℤ) : RoundedLns (finRat neg m e) (rndLns neg m e).1 (rndLns neg m e).2 := by
  refine ⟨fun h => ?_, fun h => ?_⟩
  · rw [finRat_eq_zero] at h
    rw [rndLns, if_pos h]
    exact ⟨rfl, rfl⟩
  have hm : m ≠ 0 := mt finRat_eq_zero.mpr h
  have hm8 : m ^ 8 ≠ 0 := pow_ne_zero 8 hm
  have habs : |finRat neg m e| = m * 2 ^ e := by
    have : (0 : ℚ) ≤ m * 2 ^ e := by positivity
    cases neg <;> simp [finRat, abs_of_nonneg this]
  have h8 : |finRat neg m e| ^ 8 = (m ^ 8 : ℕ) * 2 ^ (8 * e) := by
    rw [habs, mul_pow, ← zpow_natCast (2 ^ e) 8, ← zpow_mul, mul_comm e]; push_cast; rfl
  have hlo : (2 : ℚ) ^ ((Nat.log2 (m ^ 8) : ℤ) + 8 * e) ≤ |finRat neg m e| ^ 8 := by
    rw [h8, zpow_add₀ two_ne_zero, zpow_natCast]
    gcongr
    exact_mod_cast Nat.log2_self_le hm8
  have hhi : |finRat neg m e| ^ 8 < (2 : ℚ) ^ ((Nat.log2 (m ^ 8) : ℤ) + 8 * e + 1) := by
    rw [h8, add_right_comm, zpow_add₀ two_ne_zero, ← Nat.cast_succ, zpow_natCast]
    gcongr
    exact_mod_cast Nat.lt_log2_self
  obtain ⟨l, hl⟩ : ∃ l : ℤ, l = ((Nat.log2 (m ^ 8) : ℤ) + 8 * e + 1) / 2 := ⟨_, rfl⟩
  have hlo' : (2 : ℚ) ^ (2 * l - 1) < |finRat neg m e| ^ 8 :=
    lt_of_le_of_ne ((zpow_le_zpow_right₀ one_le_two (by omega)).trans hlo) (by rw [habs]; exact (pow_eight_ne m e l).symm)
  refine ⟨l, hlo', hhi.trans_le (zpow_le_zpow_right₀ one_le_two (by omega)), ?_⟩
  rw [rndLns_eq, if_neg hm]
  dsimp only
  rw [← hl]
  have hsign : finRat neg m e < 0 ↔ neg = true := finRat_lt_zero hm
  refine ⟨fun hl1 => by rw [if_pos hl1]; exact ⟨rfl, rfl⟩, ?_, ?_⟩
  · intro hl2
    rw [if_neg (by omega), min_eq_right hl2.le, show ((15 : ℤ) + 16).toNat = 31 from rfl,
      Bool.eq_false_iff.mpr (mt (lnsExact_iff (neg := neg) (by decide) (by decide)).mp ?_)]
    · simp only [hsign]
      cases neg <;> simp [fIf, hl2]
    · intro heq
      have hbig : (2 : ℚ) ^ (31 : ℤ) ≤ 2 ^ (2 * l - 1) := zpow_le_zpow_right₀ one_le_two (by omega)
      have hmax : |finRat neg m e| ^ 8 ≤ 2 ^ (31 : ℤ) := by
        rw [heq, lnsRat_eq _ (by cases neg <;> decide), finRat, abs_mul, mul_pow]
        have hs : ∀ b : Bool, |(if b = true then -1 else 1 : ℚ)| = 1 := fun b => by cases b <;> simp
        rw [hs]
        cases neg <;> norm_num [lnsT]
      linarith
  · intro hl1 hl2
    rw [if_neg (by omega), min_eq_left hl2, decide_eq_false (show ¬ 15 < l by omega)]
    obtain ⟨c, hc⟩ : ∃ c, (l + 16).toNat = c := ⟨_, rfl⟩
    have hexact := lnsExact_iff (neg := neg) (m := m) (e := e) (c := c) (by omega) (by omega)
    simp only [hc, hsign, ← hexact]
    refine ⟨trivial, ?_⟩
    cases lnsExact m e c <;> simp [fIf]

end Sys2Proof.Machine
end

section
/-!
PROOFS. The numbers that values of the model stand for (R78..R86), and conversions (R94, R234).
-/

set_option Elab.async false

namespace Sys2Proof.Machine

/-! ## The numbers of values -/

/-- The number that a value of the model stands for. -/
def numberVal : FVal → Number
  | .nan s => .nan s
  | .inf n => .infinity n
  | .fin n m e => .finite (finRat n m e) n

theorem signals_numberVal (x : FVal) : (numberVal x).signals = isSig x := by cases x <;> rfl

theorem numberVal_negVal (x : FVal) : numberVal (negVal x) = (numberVal x).negated := by
  rcases x with s | n | ⟨n, m, e⟩
  · rfl
  · rfl
  · cases n <;> simp [numberVal, negVal, Number.negated, finRat]

theorem isSig_negVal (x : FVal) : isSig (negVal x) = isSig x := by cases x <;> rfl

/-- R78, R80: the model reads a code of a floating format as the number that it stands for. -/
theorem numberVal_floatVal {f : ℕ} (hf : f ≤ 7) (b : ℕ) : numberVal (floatVal f b) = numberOf f b := by
  have hbits := signBit_eq hf
  have htop : (b % 2 ^ (fmtShape f).2.1).testBit ((fmtShape f).2.1 - 1) = b.testBit ((fmtShape f).2.1 - 1) := by
    rw [Nat.testBit_mod_two_pow]; simp [show (fmtShape f).2.1 - 1 < (fmtShape f).2.1 by have := mantissa_pos f; omega]
  unfold numberOf floatRat floatVal
  dsimp only
  rw [hbits]
  by_cases h1 : fmtHasInf f = true ∧ b / 2 ^ (fmtShape f).2.1 % 2 ^ (fmtShape f).1 = 2 ^ (fmtShape f).1 - 1
  · rw [if_pos h1, if_pos (Or.inl h1)]
    dsimp only
    by_cases h0 : b % 2 ^ (fmtShape f).2.1 = 0
    · rw [if_pos h0, if_pos ⟨h1.1, h0⟩]; rfl
    · rw [if_neg h0, if_neg (fun h => h0 h.2), htop]
      have : (f != 4) = decide (f ≤ 2) := by
        have hle : f ≤ 2 ∨ f = 4 := by
          have := h1.1
          interval_cases f <;> simp_all [fmtHasInf]
        rcases hle with h | rfl
        · simp [h, show f ≠ 4 by omega]
        · rfl
      rw [this]; rfl
  · rw [if_neg h1]
    by_cases h2 : f = 3 ∧ b / 2 ^ (fmtShape f).2.1 % 2 ^ (fmtShape f).1 = 15 ∧ b % 2 ^ (fmtShape f).2.1 = 7
    · obtain rfl := h2.1
      rw [if_pos h2, if_pos (Or.inr h2)]
      rfl
    · rw [if_neg h2, if_neg (not_or.mpr ⟨h1, h2⟩)]
      dsimp only
      split
      · rfl
      · simp only [numberVal, finRat]; push_cast; rfl

theorem numberVal_ofInt (i : ℤ) : numberVal (ofInt i) = .finite i (decide ((i : ℚ) < 0)) := by
  have h : ((i.natAbs : ℤ) : ℚ) = ((|i| : ℤ) : ℚ) := by rw [Int.abs_eq_natAbs]
  simp only [numberVal, ofInt, finRat, zpow_zero, mul_one, Int.cast_lt_zero]
  rw [← Int.cast_natCast (R := ℚ), h]
  congr 1
  by_cases hi : i < 0
  · simp [hi, abs_of_neg hi]
  · simp [hi, abs_of_nonneg (not_lt.mp hi)]

theorem toInt_ofNat_eq {n b : ℕ} (hb : b < 2 ^ n) : (BitVec.ofNat n b).toInt = if b.testBit (n - 1) then (b : ℤ) - 2 ^ n else b := by
  rw [BitVec.toInt_eq_msb_cond, BitVec.msb_eq_getLsbD_last, BitVec.toNat_ofNat, Nat.mod_eq_of_lt hb, BitVec.getLsbD_ofNat]
  rcases Nat.eq_zero_or_pos n with rfl | hn
  · obtain rfl : b = 0 := by simpa using hb
    simp
  · simp [show n - 1 < n by omega]

/-- R82: the model reads an integer element as two's complement, or unsigned. -/
theorem intVal_eq {f b : ℕ} (hb : b < 2 ^ fmtBits f) :
    intVal f b = if fmtSigned f then (BitVec.ofNat (fmtBits f) b).toInt else ((b % 2 ^ fmtBits f : ℕ) : ℤ) := by
  rw [intVal, toInt_ofNat_eq hb, Nat.mod_eq_of_lt hb]

theorem numberVal_lnsVal (c : ℕ) : numberVal (lnsVal c) = .finite (lnsRat c) (decide (lnsRat c < 0)) := by
  by_cases h : c % 32 = 0
  · simp [lnsVal, lnsRat, h, numberVal, finRat_zero]
  · have hT : lnsT (c % 4) ≠ 0 := by unfold lnsT; split <;> decide
    rw [lnsVal_eq c h, lnsRat_eq c h, numberVal]
    congr 1
    rw [Bool.eq_iff_iff, decide_eq_true_eq, finRat_lt_zero hT]

/-- R78, R82, R84: the model reads a code of a format other than bfp16 as the number that it stands for. -/
theorem numberVal_elemVal {f b : ℕ} (hf : f ≤ 18) (h9 : f ≠ 9) (hb : b < 2 ^ fmtBits f) : numberVal (elemVal f b) = codeNumber f b := by
  unfold elemVal codeNumber
  dsimp only
  by_cases hint : fmtIsInt f = true
  · rw [if_pos hint, if_pos hint, numberVal_ofInt, intVal_eq hb]
  · rw [if_neg hint, if_neg hint]
    by_cases h8 : f = 8
    · rw [if_pos h8, if_pos h8, numberVal_lnsVal]
    · rw [if_neg h8, if_neg h8, if_neg h9]
      exact numberVal_floatVal (by simp [fmtIsInt] at hint; omega) b

/-- A number scaled by a power of two. -/
def Number.scaled : Number → ℤ → Number
  | .finite v s, k => .finite (v * 2 ^ k) s
  | n, _ => n

theorem numberVal_scaleVal (x : FVal) (k : ℤ) : numberVal (scaleVal x k) = (numberVal x).scaled k := by
  rcases x with s | n | ⟨n, m, e⟩
  · rfl
  · rfl
  · simp [numberVal, scaleVal, Number.scaled, finRat, zpow_add₀, mul_assoc]

theorem elementNumber_eq (vt : Word) (a scale : ℕ) : elementNumber vt a scale =
    if vtFmt vt = 9 then (Number.finite ((BitVec.ofNat 16 a).toInt / 2 ^ 15) (decide (((BitVec.ofNat 16 a).toInt / 2 ^ 15 : ℚ) < 0))).scaled (BitVec.ofNat 8 scale).toInt
    else if vtBlk vt = 0 then codeNumber (vtFmt vt) a
    else if scale = 255 then .nan false else (codeNumber (vtFmt vt) a).scaled ((scale : ℤ) - 127) := by
  unfold elementNumber
  dsimp only
  by_cases h9 : vtFmt vt = 9
  · rw [if_pos h9, if_pos h9]; rfl
  rw [if_neg h9, if_neg h9]
  by_cases h0 : vtBlk vt = 0
  · rw [if_pos h0, if_pos h0]
  rw [if_neg h0, if_neg h0]
  cases codeNumber (vtFmt vt) a <;> rfl

theorem bfpExp_eq {c : ℕ} (hc : c < 256) : bfpExp c = (BitVec.ofNat 8 c).toInt := by
  rw [toInt_ofNat_eq (n := 8) hc, bfpExp]
  have : c.testBit 7 = decide (128 ≤ c) := by
    rw [Nat.testBit_eq_decide_div_mod_eq]
    simp only [decide_eq_decide]
    omega
  rw [show 8 - 1 = 7 from rfl, this]
  by_cases h : 128 ≤ c
  · rw [if_neg (by omega), if_pos (by simpa using h)]; rfl
  · rw [if_pos (by omega), if_neg (by simpa using h)]

theorem vtLegal_fmt {vt : Word} (h : vtLegal vt = true) : vtFmt vt ≤ 18 ∧ vtRm vt ≤ 5 ∧ (vtFmt vt = 9 → vtBlk vt = 3) := by
  simp only [vtLegal, Bool.and_eq_true, decide_eq_true_eq] at h
  obtain ⟨⟨⟨⟨-, hf⟩, -⟩, hrm⟩, hb⟩ := h
  exact ⟨hf, hrm, fun h9 => by simpa [h9] using hb⟩

/-- R81, R86, R234: the model reads an element of a vtype, with its block byte, as the number that it stands for. -/
theorem numberVal_cvtSource {vt : Word} {a c : ℕ} (hl : vtLegal vt = true) (ha : a < 2 ^ vtBits vt) (hc : c < 256) :
    numberVal (cvtSource vt a c) = elementNumber vt a c := by
  obtain ⟨hf, -, -⟩ := vtLegal_fmt hl
  rw [elementNumber_eq]
  unfold cvtSource
  dsimp only
  by_cases h9 : vtFmt vt = 9
  · rw [vtBits, h9] at ha
    rw [if_pos h9, if_pos h9, numberVal_scaleVal, bfpExp_eq hc]
    have : elemVal 9 a = ofInt (BitVec.ofNat 16 a).toInt := by rw [toInt_ofNat_eq (n := 16) ha]; rfl
    rw [this, numberVal_ofInt]
    simp only [Number.scaled]
    congr 1
    · rw [zpow_sub₀ two_ne_zero]; ring
    · rw [decide_eq_decide, div_lt_iff₀ (by norm_num), zero_mul]
  · have hn := numberVal_elemVal hf h9 ha
    rw [if_neg h9, if_neg h9]
    by_cases h0 : vtBlk vt = 0
    · rw [if_neg (not_not.mpr h0), if_pos h0, hn]
    · rw [if_pos h0, if_neg h0]
      split
      · rfl
      · rw [numberVal_scaleVal, hn]

/-! ## Conversions (R85, R94..R96) -/

theorem fIf_or (a b : Bool) (f : Flags7) : fIf a f ||| fIf b f = fIf (a || b) f := by cases a <;> cases b <;> simp [fIf]

/-- R95, R96: the model rounds a finite value to a floating format; a zero has the sign of the value. -/
theorem rndFloat_finRat {f rm : ℕ} (sr : ℕ) (hf : f ≤ 7) (hrm : rm ≤ 5) {n z : Bool} {m : ℕ} {e : ℤ} {q : ℚ} (hq : q = finRat n m e)
    (hz : m = 0 → n = z) : Rounded f rm sr z (exactAt q) (rndFloat f rm sr n m e).1 (rndFloat f rm sr n m e).2 := by
  have hsees := sees_finRat n m e
  rw [← hq] at hsees
  by_cases hm : m = 0
  · obtain rfl := hz hm
    subst hm
    exact rndFloat_zero (by simpa [signed] using hsees)
  · exact rndFloat_rounded hf hrm hm (.inl rfl) hsees

/-- R94..R96: the model rounds a value to a format as the rules convert its number. -/
theorem rndTo_converted {f rm : ℕ} (sr : ℕ) (hf : f ≤ 18) (h9 : f ≠ 9) (hrm : rm ≤ 5) (x : FVal) :
    Converted f rm sr (numberVal x) (rndTo f rm sr x).1 ((rndTo f rm sr x).2.1 ||| fIf (isSig x) fNV) (rndTo f rm sr x).2.2 := by
  rcases x with s | n | ⟨n, m, e⟩
  · show if _ then _ else _
    unfold rndTo
    dsimp only
    split
    · exact ⟨rfl, by cases s <;> simp [fIf, isSig], rfl⟩
    · exact ⟨rfl, by cases s <;> simp [fIf, isSig], rfl⟩
  · refine ⟨by unfold rndTo; dsimp only; split <;> rfl, ?_⟩
    unfold rndTo
    dsimp only
    split <;> exact ⟨rfl, by simp [isSig, fIf]⟩
  · have hflags : (rndTo f rm sr (.fin n m e)).2.1 ||| fIf (isSig (.fin n m e)) fNV = (rndTo f rm sr (.fin n m e)).2.1 := by simp [isSig, fIf]
    rw [hflags]
    refine ⟨rfl, ?_⟩
    unfold rndTo
    dsimp only
    by_cases hint : fmtIsInt f = true
    · rw [if_pos hint, if_pos hint]
      exact rndInt_rounded (sees_finRat n m e)
    rw [if_neg hint, if_neg hint]
    by_cases h8 : f = 8
    · rw [if_pos h8, if_pos h8]
      exact rndLns_rounded n m e
    rw [if_neg h8, if_neg h8]
    exact rndFloat_finRat sr (by simp [fmtIsInt] at hint; omega) hrm rfl fun _ => rfl

end Sys2Proof.Machine
end

section
/-!
PROOFS. Sums, products and quotients before they are rounded (R96, R223).
-/

set_option Elab.async false

namespace Sys2Proof.Machine

/-! ## What an operation comes to (R96, R223) -/

/-- A value with the flags of its operation is what an operation comes to before rounding. -/
def Comes (x : Exact) (signals : Bool) (p : FVal × Flags7) : Prop :=
  match x with
  | .nan => p = (.nan false, if signals then fNV else 0)
  | .invalid => p = (.nan false, fNV)
  | .infinity neg byZero => p = (.inf neg, if byZero then fDZ else 0)
  | .value v zero => ∃ neg m e, p = (.fin neg m e, 0) ∧ (m = 0 → Sees v 0 ∧ neg = zero)
      ∧ (m ≠ 0 → ∃ a, Stands m e a ∧ Sees v (signed neg a))

/-- R80, R95, R96: the model rounds it to a format with NaNs and infinities. -/
theorem Comes.gives {f rm : ℕ} {x : Exact} {signals : Bool} {p : FVal × Flags7} (h : Comes x signals p) (hf : f ≤ 2) (hrm : rm ≤ 5) (sr : ℕ) :
    Gives f rm sr x signals (rndTo f rm sr p.1).1 (p.2 ||| (rndTo f rm sr p.1).2.1) := by
  have hfinite : fmtFiniteOnly f = false := by interval_cases f <;> rfl
  have hinf : fmtHasInf f = true := by interval_cases f <;> rfl
  cases x with
  | nan =>
    obtain rfl := h
    simp [Gives, rndTo, hfinite, fIf]
  | invalid =>
    obtain rfl := h
    simp [Gives, rndTo, hfinite, fIf]
  | infinity neg byZero =>
    obtain rfl := h
    simp [Gives, rndTo, hinf]
  | value v zero =>
    obtain ⟨neg, m, e, rfl, hzero, hpos⟩ := h
    have hr : rndTo f rm sr (.fin neg m e) = ((rndFloat f rm sr neg m e).1, (rndFloat f rm sr neg m e).2, false) := by
      unfold rndTo
      dsimp only
      rw [if_neg (by interval_cases f <;> decide), if_neg (by omega)]
    show Rounded f rm sr zero v _ (0#7 ||| _)
    rw [hr, BitVec.zero_or]
    by_cases hm : m = 0
    · obtain ⟨hv, rfl⟩ := hzero hm
      subst hm
      exact rndFloat_zero (e := e) hv
    · obtain ⟨a, ha, hv⟩ := hpos hm
      exact rndFloat_rounded (by omega) hrm hm ha hv

/-- A finite value comes to its own rational number. -/
theorem comes_fin {neg zero : Bool} {m : ℕ} {e : ℤ} {q : ℚ} (signals : Bool) (hq : q = finRat neg m e) (hz : m = 0 → neg = zero) :
    Comes (.value (exactAt q) zero) signals (.fin neg m e, 0) := by
  subst hq
  exact ⟨neg, m, e, rfl, fun h => ⟨by subst h; simpa [signed] using sees_finRat neg 0 e, hz h⟩, fun _ => ⟨_, .inl rfl, sees_finRat neg m e⟩⟩

theorem comes_numberVal (x : FVal) (h : isSig x = false) : Comes (numberVal x).exact false (x, 0) := by
  rcases x with s | n | ⟨n, m, e⟩
  · obtain rfl : s = false := h
    rfl
  · rfl
  · exact comes_fin false rfl fun _ => rfl

theorem finRat_intSign (z u : ℤ) : finRat (decide (z < 0)) z.natAbs u = z * 2 ^ u := by
  have h : (z.natAbs : ℚ) = |(z : ℚ)| := by rw [← Int.cast_abs, Int.abs_eq_natAbs, Int.cast_natCast]
  rw [finRat, h]
  by_cases hz : z < 0
  · have : (z : ℚ) < 0 := by exact_mod_cast hz
    simp [hz, abs_of_neg this]
  · have : (0 : ℚ) ≤ z := by exact_mod_cast not_lt.mp hz
    simp [hz, abs_of_nonneg this]

/-- R95, R96: the sum of two values. -/
theorem comes_addVal (rm : ℕ) (x y : FVal) : Comes (sumOf rm (numberVal x) (numberVal y)) (isSig x || isSig y) (addVal rm x y) := by
  rcases x with s | s | ⟨s, m, e⟩ <;> rcases y with t | t | ⟨t, n, g⟩
  case fin.fin =>
    have hsum : finRat s m e + finRat t n g = (unitsOf s m e (min e g) + unitsOf t n g (min e g) : ℤ) * 2 ^ min e g := by
      rw [← unitsOf_eq (min_le_left e g), ← unitsOf_eq (min_le_right e g)]; push_cast; ring
    have hpow : (2 : ℚ) ^ min e g ≠ 0 := by positivity
    show Comes (.value (exactAt (finRat s m e + finRat t n g)) (if finRat s m e = 0 ∧ finRat t n g = 0 ∧ s = t then s else rm == 2)) _ (addVal _ _ _)
    simp only [finRat_eq_zero, hsum]
    unfold addVal
    dsimp only
    generalize unitsOf s m e (min e g) + unitsOf t n g (min e g) = z at hsum
    by_cases hz : z = 0
    · rw [if_pos hz]
      refine comes_fin _ (by rw [hz, finRat_zero]; simp) fun _ => ?_
      by_cases hm : m = 0 ∧ n = 0
      · simp [hm, zeroSign]
      · rw [if_neg hm, if_neg fun h => hm ⟨h.1, h.2.1⟩]
    · rw [if_neg hz]
      exact comes_fin _ (finRat_intSign z _).symm fun h => absurd (Int.natAbs_eq_zero.mp h) hz
  all_goals simp only [addVal, sumOf, numberVal, Comes, isSig, fIf, Bool.or_false, Bool.false_or]
  case nan.nan => rfl
  case inf.inf => by_cases h : s = t <;> simp [h]
  all_goals rfl

/-- R96: the product of two values: a NaN, an invalid operation, or a number. -/
theorem mulVal_cases (x y : FVal) :
    (productOf (numberVal x) (numberVal y) = none ∧ mulVal x y = (.nan false, fNV))
      ∨ (∃ s, productOf (numberVal x) (numberVal y) = some (.nan s) ∧ mulVal x y = (.nan false, fIf (isSig x || isSig y) fNV))
      ∨ ∃ p, productOf (numberVal x) (numberVal y) = some (numberVal p) ∧ mulVal x y = (p, 0) ∧ isNanV p = false ∧ isSig x = false ∧ isSig y = false := by
  rcases x with s | s | ⟨s, m, e⟩ <;> rcases y with t | t | ⟨t, n, g⟩
  case fin.fin =>
    refine .inr (.inr ⟨.fin (s != t) (m * n) (e + g), ?_, rfl, rfl, rfl, rfl⟩)
    have : finRat s m e * finRat t n g = finRat (s != t) (m * n) (e + g) := by
      simp only [finRat, zpow_add₀ (two_ne_zero (α := ℚ))]
      cases s <;> cases t <;> push_cast <;> simp <;> ring
    simp [productOf, numberVal, this]
  case inf.inf => exact .inr (.inr ⟨.inf (s != t), rfl, rfl, rfl, rfl, rfl⟩)
  case inf.fin =>
    by_cases hn : n = 0
    · exact .inl (by simp [productOf, numberVal, mulVal, finRat_eq_zero, hn])
    · exact .inr (.inr ⟨.inf (s != t), by simp [productOf, numberVal, mulVal, finRat_eq_zero, hn, isNanV, isSig]⟩)
  case fin.inf =>
    by_cases hm : m = 0
    · exact .inl (by simp [productOf, numberVal, mulVal, finRat_eq_zero, hm])
    · exact .inr (.inr ⟨.inf (s != t), by simp [productOf, numberVal, mulVal, finRat_eq_zero, hm, isNanV, isSig]⟩)
  all_goals exact .inr (.inl (by simp [productOf, numberVal, mulVal, isSig]))

theorem isSig_of_not_nan {x : FVal} (h : isNanV x = false) : isSig x = false := by
  cases x with
  | nan => cases h
  | inf => rfl
  | fin => rfl

theorem comes_mulVal (x y : FVal) : Comes (productExact (numberVal x) (numberVal y)) (isSig x || isSig y) (mulVal x y) := by
  rcases mulVal_cases x y with ⟨h, e⟩ | ⟨s, h, e⟩ | ⟨p, h, e, hp, hx, hy⟩ <;> rw [productExact, h, e]
  · rfl
  · simp [Number.exact, Comes, fIf]
  · rw [hx, hy]
    exact comes_numberVal p (isSig_of_not_nan hp)

/-- R96: a product, its sign kept or inverted, and a sum, before they are rounded once. -/
theorem comes_fused {g : Number → Number} {h : FVal → FVal} (hg : ∀ p, numberVal (h p) = g (numberVal p)) (hnan : ∀ p, isNanV (h p) = isNanV p)
    (hsome : ∀ s, g (.nan s) = .nan s) (rm : ℕ) (x y z : FVal) :
    Comes (((productOf (numberVal x) (numberVal y)).map (fun p => sumOf rm (g p) (numberVal z))).getD .invalid) (isSig x || isSig y || isSig z)
      ((addVal rm (h (mulVal x y).1) z).1, (mulVal x y).2 ||| (addVal rm (h (mulVal x y).1) z).2) := by
  have hkeep : h (.nan false) = .nan false := by
    have h1 := hg (.nan false)
    rw [show numberVal (.nan false) = .nan false from rfl, hsome] at h1
    cases he : h (.nan false) <;> rw [he] at h1 <;> cases h1
    rfl
  have hadd : addVal rm (.nan false) z = (.nan false, fIf (isSig z) fNV) := by cases z <;> rfl
  rcases mulVal_cases x y with ⟨e, e'⟩ | ⟨s, e, e'⟩ | ⟨p, e, e', hp, hx, hy⟩ <;> rw [e, e']
  · rw [hkeep, hadd]
    show ((_, _) : FVal × Flags7) = _
    cases isSig z <;> rfl
  · rw [hkeep, hadd, Option.map_some, Option.getD_some, hsome]
    simp only [sumOf, Comes]
    rw [fIf_or]
    rfl
  · rw [hx, hy, Option.map_some, Option.getD_some, ← hg]
    have := comes_addVal rm (h p) z
    rw [isSig_of_not_nan ((hnan p).trans hp)] at this
    simpa using this

/-- R96: the quotient of two values, its lowest bit standing for the rest. -/
theorem comes_divVal (x y : FVal) : Comes (quotientOf (numberVal x) (numberVal y)) (isSig x || isSig y) (divVal x y) := by
  rcases x with s | s | ⟨s, m, e⟩ <;> rcases y with t | t | ⟨t, n, g⟩
  case fin.fin =>
    show Comes (if finRat t n g = 0 then (if finRat s m e = 0 then .invalid else .infinity (s != t) true)
      else .value (exactAt (finRat s m e / finRat t n g)) (s != t)) _ (divVal (.fin s m e) (.fin t n g))
    simp only [finRat_eq_zero]
    unfold divVal
    dsimp only
    by_cases hn : n = 0
    · rw [if_pos hn, if_pos hn]
      split <;> rfl
    rw [if_neg hn, if_neg hn]
    obtain ⟨k, hk⟩ : ∃ k, k = 100 + Nat.log2 n := ⟨_, rfl⟩
    rw [← hk]
    have hnpos : 0 < n := Nat.pos_of_ne_zero hn
    have hdiv := Nat.div_add_mod (m * 2 ^ k) n
    have hmod := Nat.mod_lt (m * 2 ^ k) hnpos
    generalize hq : m * 2 ^ k / n = q at hdiv
    generalize m * 2 ^ k % n = r at hdiv hmod
    obtain ⟨d, hd⟩ : ∃ d, d = e - g - k := ⟨_, rfl⟩
    have hdR : (m : ℝ) * 2 ^ k = n * q + r := by exact_mod_cast hdiv.symm
    have hnR : (0 : ℝ) < n := by exact_mod_cast hnpos
    have ha : (m : ℝ) * 2 ^ e / (n * 2 ^ g) = (q + r / n) * 2 ^ d := by
      rw [hd, zpow_sub₀ two_ne_zero, zpow_sub₀ two_ne_zero, zpow_natCast]
      have : (q : ℝ) + r / n = m * 2 ^ k / n := by rw [hdR]; field_simp
      rw [this]
      field_simp
    have hval : ((finRat s m e / finRat t n g : ℚ) : ℝ) = signed (s != t) (m * (2 : ℝ) ^ e / (n * 2 ^ g)) := by
      rw [Rat.cast_div, cast_finRat, cast_finRat]
      cases s <;> cases t <;> simp [signed, neg_div, div_neg]
    have hsees := sees_exactAt (finRat s m e / finRat t n g)
    rw [hval] at hsees
    refine ⟨s != t, 2 * q + (if r = 0 then 0 else 1), d - 1, by rw [hd], fun h0 => ⟨?_, rfl⟩, fun h0 => ⟨_, ?_, hsees⟩⟩
    · have hr : r = 0 := by by_contra h; simp [h] at h0
      have hq0 : q = 0 := by simpa [hr] using h0
      have hm : (m : ℝ) = 0 := by
        have : (m : ℝ) * 2 ^ k = 0 := by rw [hdR, hq0, hr]; simp
        simpa using this
      rw [hm] at hsees
      simpa [signed] using hsees
    · have hpow : (2 : ℝ) ^ d = 2 * 2 ^ (d - 1) := by rw [zpow_sub_one₀ two_ne_zero]; ring
      have hd1 : (0 : ℝ) < 2 ^ (d - 1) := by positivity
      rw [ha, hpow]
      by_cases hr : r = 0
      · left
        rw [hr]
        push_cast
        simp
        ring
      · right
        have hr0 : (0 : ℝ) < r := by exact_mod_cast Nat.pos_of_ne_zero hr
        have hr1 : (r : ℝ) / n < 1 := by rw [div_lt_one hnR]; exact_mod_cast hmod
        have hr2 : 0 < (r : ℝ) / n := by positivity
        rw [if_neg hr]
        refine ⟨by omega, ?_, ?_, ?_⟩
        · have hm : m ≠ 0 := by
            rintro rfl
            simp at hdiv
            omega
          have hn2 : n < 2 ^ (Nat.log2 n + 1) := Nat.lt_log2_self
          have hq63 : 2 ^ 63 ≤ q := by
            rw [← hq, Nat.le_div_iff_mul_le hnpos]
            calc 2 ^ 63 * n ≤ 2 ^ 63 * 2 ^ (Nat.log2 n + 1) := by gcongr
              _ ≤ 2 ^ k := by rw [← pow_add, hk]; exact Nat.pow_le_pow_right (by norm_num) (by omega)
              _ ≤ m * 2 ^ k := Nat.le_mul_of_pos_left _ (Nat.pos_of_ne_zero hm)
          omega
        · push_cast
          nlinarith
        · push_cast
          nlinarith
  all_goals simp only [divVal, quotientOf, numberVal, Comes, isSig, fIf, Bool.or_false, Bool.false_or]
  case fin.inf => exact comes_fin false (by rw [finRat_zero]) fun _ => rfl
  all_goals rfl

end Sys2Proof.Machine
end

section
/-!
PROOFS. Square roots before they are rounded (R96, R223).
-/

set_option Elab.async false

namespace Sys2Proof.Machine

/-! ## Square roots (R96, R223) -/

/-- The digit-by-digit root is the integer square root. -/
theorem isqrt_eq_sqrt : ∀ {n v : ℕ}, v < 4 ^ n → isqrt n v = Nat.sqrt v
  | 0, v, h => by
    obtain rfl : v = 0 := by simpa using h
    rfl
  | n + 1, v, h => by
    have hq : v / 4 < 4 ^ n := by rw [pow_succ] at h; omega
    have hlo := Nat.sqrt_le (v / 4)
    have hhi := Nat.lt_succ_sqrt (v / 4)
    rw [isqrt, isqrt_eq_sqrt hq]
    generalize Nat.sqrt (v / 4) = r at hlo hhi
    have hlo' : (2 * r) * (2 * r) ≤ v := by have : 4 * (r * r) ≤ v := by omega
                                            linarith
    have hhi' : v < (2 * r + 1 + 1) * (2 * r + 1 + 1) := by have : v < 4 * (r.succ * r.succ) := by omega
                                                            rw [Nat.succ_eq_add_one] at this
                                                            linarith
    split
    · exact Nat.eq_sqrt.mpr ⟨‹_›, hhi'⟩
    · exact Nat.eq_sqrt.mpr ⟨hlo', not_le.mp ‹_›⟩

theorem comes_sqrtVal (x : FVal) : Comes (rootOf (numberVal x)) (isSig x) (sqrtVal x) := by
  rcases x with s | s | ⟨s, m, e⟩
  · rfl
  · cases s <;> rfl
  show Comes (if finRat s m e < 0 then .invalid else .value (exactRoot (finRat s m e)) s) _ (sqrtVal (.fin s m e))
  unfold sqrtVal
  dsimp only
  by_cases hm : m = 0
  · subst hm
    rw [finRat_zero, if_neg (lt_irrefl _), if_pos rfl]
    have h0 := sees_exactRoot (le_refl 0)
    rw [Rat.cast_zero, Real.sqrt_zero] at h0
    exact ⟨s, 0, 0, rfl, fun _ => ⟨h0, rfl⟩, fun h => absurd rfl h⟩
  rw [if_neg hm]
  cases s
  case true =>
    rw [if_pos ((finRat_lt_zero hm).mpr rfl)]
    rfl
  have hnn : 0 ≤ finRat false m e := not_lt.mp (mt (finRat_lt_zero hm).mp Bool.false_ne_true)
  rw [if_neg (not_lt.mpr hnn), if_neg Bool.false_ne_true]
  obtain ⟨e', m', he', hm'⟩ : ∃ (e' : ℤ) (m' : ℕ), (if e % 2 = 0 then e else e - 1) = e' ∧ (if e % 2 = 0 then m else 2 * m) = m' := ⟨_, _, rfl, rfl⟩
  rw [he', hm']
  have heven : e' % 2 = 0 := by rw [← he']; split <;> omega
  have hm0 : 1 ≤ m' := by rw [← hm']; split <;> omega
  have hval : (finRat false m e : ℝ) = m' * (2 : ℝ) ^ e' := by
    rw [cast_finRat, ← he', ← hm']
    show (m : ℝ) * 2 ^ e = _
    split
    · rfl
    · rw [zpow_sub_one₀ two_ne_zero]; push_cast; field_simp
  obtain ⟨d, rfl⟩ : ∃ d, e' = 2 * d := ⟨e' / 2, by omega⟩
  rw [Int.mul_ediv_cancel_left _ (by norm_num)]
  have hfuel : m' * 4 ^ 100 < 4 ^ (Nat.log2 (m' * 4 ^ 100) / 2 + 1) := by
    generalize m' * 4 ^ 100 = v
    rw [show 4 ^ (v.log2 / 2 + 1) = 2 ^ (2 * (v.log2 / 2 + 1)) by rw [pow_mul]; norm_num]
    exact Nat.lt_log2_self.trans_le (Nat.pow_le_pow_right two_pos (by omega))
  rw [isqrt_eq_sqrt hfuel]
  have hlo := Nat.sqrt_le (m' * 4 ^ 100)
  have hhi := Nat.lt_succ_sqrt (m' * 4 ^ 100)
  have hbig : 2 ^ 100 ≤ Nat.sqrt (m' * 4 ^ 100) := by
    rw [Nat.le_sqrt]
    calc 2 ^ 100 * 2 ^ 100 = 1 * 4 ^ 100 := by norm_num
      _ ≤ m' * 4 ^ 100 := by gcongr
  have hsees := sees_exactRoot hnn
  have hroot : √(finRat false m e : ℝ) = √((m' * 4 ^ 100 : ℕ) : ℝ) * 2 ^ (d - 100) := by
    have : (m' : ℝ) * 2 ^ (2 * d) = ((m' * 4 ^ 100 : ℕ) : ℝ) * (2 ^ (d - 100)) ^ 2 := by
      rw [← zpow_natCast (2 ^ (d - 100)) 2, ← zpow_mul, show (d - 100) * ((2 : ℕ) : ℤ) = 2 * d - 200 by push_cast; ring, zpow_sub₀ two_ne_zero]
      push_cast
      norm_num
      ring
    rw [hval, this, Real.sqrt_mul (by positivity), Real.sqrt_sq (by positivity)]
  rw [hroot] at hsees
  generalize m' * 4 ^ 100 = v at hlo hhi hbig hsees hfuel ⊢
  generalize Nat.sqrt v = r at hlo hhi hbig ⊢
  have hpow : (2 : ℝ) ^ (d - 100) = 2 * 2 ^ (d - 101) := by
    rw [show d - 100 = d - 101 + 1 by ring, zpow_add_one₀ two_ne_zero]; ring
  have hpos : (0 : ℝ) < 2 ^ (d - 101) := by positivity
  have hle : (r : ℝ) ≤ √(v : ℝ) := Real.le_sqrt_of_sq_le (by rw [pow_two]; exact_mod_cast hlo)
  have hlt : √(v : ℝ) < r + 1 := by
    rw [Real.sqrt_lt' (by positivity), pow_two]
    exact_mod_cast hhi
  refine ⟨false, 2 * r + (if r * r = v then 0 else 1), d - 101, rfl, fun h0 => by omega, fun _ => ⟨_, ?_, hsees⟩⟩
  by_cases hsq : r * r = v
  · left
    have : √(v : ℝ) = r := by rw [← hsq]; push_cast; exact Real.sqrt_mul_self (by positivity)
    rw [this, if_pos hsq, hpow]
    push_cast
    ring
  · right
    have hne : (r : ℝ) < √(v : ℝ) := lt_of_le_of_ne hle fun h => hsq (by
      have : (r : ℝ) * r = v := by rw [h]; exact Real.mul_self_sqrt (by positivity)
      exact_mod_cast this)
    rw [if_neg hsq, hpow]
    refine ⟨by omega, by omega, ?_, ?_⟩ <;> push_cast <;> nlinarith

end Sys2Proof.Machine
end

section
/-!
PROOFS. The floating instructions and conversions (O35), and a conversion that O36 does not allow for.
-/

set_option Elab.async false

namespace Sys2Proof.Machine

/-! ## Elements (R223, R234) -/

theorem vtClass_f {vt : Word} (h : vtClass vt = .f) : vtFmt vt ≤ 2 := by
  unfold vtClass at h
  dsimp only at h
  split at h
  · cases h
  · split at h
    · assumption
    · split at h
      · cases h
      · split at h <;> cases h

theorem outRound_gives {f rm sr : ℕ} {x : Exact} {signals signals' : Bool} {p : FVal × Flags7} {out : EOut} (h : Comes x signals p) (hf : f ≤ 2) (hrm : rm ≤ 5)
    (hsig : signals' = signals) (hout : out = outRound f rm sr p) : out.nan = false ∧ Gives f rm sr x signals' out.code out.flags := by
  subst hsig hout
  exact ⟨rfl, h.gives hf hrm sr⟩

/-- R223: what an F-class instruction computes for an element. -/
theorem vElem_gives {i : Instr} {vt : Word} (op : Word) (sr e : ℕ) {a b c : ℕ} (blk : ℕ) {x : Exact × Bool} (hcls : vtClass vt = .f) (hrm : vtRm vt ≤ 5)
    (hx : floatArithmetic (vtRm vt) (numberOf (vtFmt vt) a) (numberOf (vtFmt vt) b) (numberOf (vtFmt vt) c) i = some x) :
    (vElem i vt op sr e a b c blk).nan = false
      ∧ Gives (vtFmt vt) (vtRm vt) sr x.1 x.2 (vElem i vt op sr e a b c blk).code (vElem i vt op sr e a b c blk).flags := by
  have hf := vtClass_f hcls
  have hnum : ∀ d, numberOf (vtFmt vt) d = numberVal (floatVal (vtFmt vt) d) := fun d => (numberVal_floatVal (by omega) d).symm
  simp only [hnum] at hx
  generalize hout : vElem i vt op sr e a b c blk = out
  have hnone : none = some x → out.nan = false ∧ Gives (vtFmt vt) (vtRm vt) sr x.1 x.2 out.code out.flags := nofun
  cases i with
  | vaddFloat =>
    cases hx
    exact outRound_gives (comes_addVal _ _ _) hf hrm (by simp only [signals_numberVal]) hout.symm
  | vsubFloat =>
    cases hx
    rw [← numberVal_negVal]
    exact outRound_gives (comes_addVal _ _ _) hf hrm (by simp only [signals_numberVal, isSig_negVal]) hout.symm
  | vmulFloat =>
    cases hx
    refine outRound_gives (comes_mulVal (floatVal (vtFmt vt) a) (floatVal (vtFmt vt) b)) hf hrm (by simp only [signals_numberVal]) ?_
    rw [← hout]
    show (if vtClass vt == .l then elLnsMul a b else elMul (vtFmt vt) (vtRm vt) sr a b) = _
    rw [hcls]
    rfl
  | vdiv =>
    cases hx
    exact outRound_gives (comes_divVal _ _) hf hrm (by simp only [signals_numberVal]) hout.symm
  | vfma =>
    cases hx
    exact outRound_gives (comes_fused (g := id) (h := id) (fun _ => rfl) (fun _ => rfl) (fun _ => rfl) _ _ _ _) hf hrm
      (by simp only [signals_numberVal]) hout.symm
  | vfms =>
    cases hx
    rw [← numberVal_negVal]
    exact outRound_gives (comes_fused (g := id) (h := id) (fun _ => rfl) (fun _ => rfl) (fun _ => rfl) _ _ _ _) hf hrm
      (by simp only [signals_numberVal, isSig_negVal]) hout.symm
  | vfnma =>
    cases hx
    exact outRound_gives (comes_fused numberVal_negVal (fun x => by cases x <;> rfl) (fun _ => rfl) _ _ _ _) hf hrm
      (by simp only [signals_numberVal]) hout.symm
  | vsqrt =>
    cases hx
    exact outRound_gives (comes_sqrtVal _) hf hrm (by simp only [signals_numberVal]) hout.symm
  | _ => exact hnone hx

/-- R77: an element of a source has the width of the element format. -/
theorem sourceElem_lt (t : Thread) (r : Option (Fin 56)) (e : ℕ) : (sourceElem t r e).1 < 2 ^ vtBits t.vtype := by
  have hpos : 0 < 2 ^ vtBits t.vtype := by positivity
  unfold sourceElem srcElem
  split
  · split
    · exact Nat.mod_lt _ hpos
    · split
      · exact hpos
      · split
        · exact Nat.mod_lt _ hpos
        · exact hpos
  · exact hpos

end Sys2Proof.Machine

namespace Sys2Proof
open Machine

/-- Settles O35: the model computes exact values, or values whose last bit stands for the rest, and rounds them among the magnitudes of
the format (`rndFloat_rounded`), the integers (`rndInt_rounded`) or the logarithms (`rndLns_rounded`). -/
theorem floatArithmetic : Obligations.FloatArithmetic := by
  intro t i op sh e hsh hlegal
  obtain ⟨hf, hrm, -⟩ := vtLegal_fmt hlegal
  refine ⟨fun x hcls hx => vElem_gives op _ e _ hcls hrm hx, ?_⟩
  rintro d y m target rfl htarget
  obtain rfl : sh = ⟨m, some y, none, false, .reg d.val (fmtBits target.val), target.val != 8⟩ := (Option.some.inj hsh).symm
  have h9 : target.val ≠ 9 := fun h => htarget (Fin.ext h)
  have hc : elemBits (vreg t (y.val + 1)) 8 (blockOf t.vtype e) < 256 := Nat.mod_lt _ (by norm_num)
  have := rndTo_converted (t.lanes[e % 64]'(Nat.mod_lt _ (by decide))).toNat (by omega) h9 hrm
    (cvtSource t.vtype (sourceElem t (some y) e).1 (elemBits (vreg t (y.val + 1)) 8 (blockOf t.vtype e)))
  rw [numberVal_cvtSource hlegal (sourceElem_lt t (some y) e) hc] at this
  exact this

/-! ## Element codes (R94) -/

/-- A thread of the F class with a NaN as element 0 of register 1. -/
def nanThread : Thread := { Thread.init with vregs := [(1, ⟨0x7FC00000, 0⟩)] }

/-- Refutes O36: `vcvt` of a NaN from f32 into the finite-only e2m3 says that a NaN was lost, where the statement has every instruction of
the F class say that none was. -/
theorem not_elementCodes : ¬ Obligations.ElementCodes := by
  intro h
  have hnan := ((h nanThread (.vcvt 3 1 0 5) 0 ⟨0, some 1, none, false, .reg 3 6, true⟩ 0 (by decide) (by decide)).1 (by decide)).1
  exact absurd hnan (by decide +kernel)

end Sys2Proof
end

section
/-!
PROOFS. Codes of results, the order of values, and folds that keep an extreme one (R80, R224, R241).
-/

set_option Elab.async false

namespace Sys2Proof.Machine

/-! ## Codes of results -/

/-- R80, R96: a finite value is rounded to a finite code or to an infinity. -/
theorem rndFloat_code (f rm sr : ℕ) (n : Bool) (m : ℕ) (e : ℤ) :
    ∃ s d, (rndFloat f rm sr n m e).1 = signCode f s + d ∧ (d ≤ fmtMax f ∨ (fmtHasInf f = true ∧ d = fmtInf f)) := by
  unfold rndFloat
  by_cases hm : m = 0
  · rw [if_pos hm]
    exact ⟨n, 0, rfl, .inl (Nat.zero_le _)⟩
  rw [if_neg hm]
  dsimp only
  generalize (if rm = 5 then magCode f (roundTo 0 0 n m e (ulpExp f m e)).1 (ulpExp f m e) else magCode f (roundTo rm sr n m e (ulpExp f m e)).1 (ulpExp f m e)) = j
  by_cases hj : fmtMax f < j
  · rw [if_pos hj]
    dsimp only
    split
    · next h => exact ⟨n, _, rfl, .inr ⟨((Bool.and_eq_true _ _).mp h).1, rfl⟩⟩
    · exact ⟨n, _, rfl, .inl (le_refl _)⟩
  · rw [if_neg hj]
    exact ⟨n, _, rfl, .inl (min_le_right _ _)⟩

theorem numberOf_signCode {f d : ℕ} (hf : f ≤ 2) (s : Bool) (hd : d ≤ fmtMax f ∨ d = fmtInf f) :
    (numberOf f (signCode f s + d)).signals = false ∧ signCode f s + d < 2 ^ fmtBits f := by
  have hbits : 2 ^ fmtBits f = 2 ^ (fmtBits f - 1) + 2 ^ (fmtBits f - 1) := by interval_cases f <;> decide
  have hs : signCode f s ≤ 2 ^ (fmtBits f - 1) := by cases s <;> simp [signCode]
  rcases hd with hd | rfl
  · refine ⟨?_, by have := hd.trans_lt (fmtMax_lt (f := f) (by omega)); omega⟩
    unfold numberOf
    dsimp only
    rw [floatRat_signCode (by omega) s hd]
    rfl
  · rw [← numberVal_floatVal (by omega)]
    interval_cases f <;> cases s <;> exact ⟨rfl, by decide⟩

/-- R80: the model's rounding to a format with NaNs gives no signalling NaN, and a code of the width of the format. -/
theorem rndTo_quiet {f : ℕ} (hf : f ≤ 2) (rm sr : ℕ) (x : FVal) :
    isSig (floatVal f (rndTo f rm sr x).1) = false ∧ (rndTo f rm sr x).1 < 2 ^ fmtBits f := by
  have hfinite : fmtFiniteOnly f = false := by interval_cases f <;> rfl
  have hinf : fmtHasInf f = true := by interval_cases f <;> rfl
  rcases x with s | n | ⟨n, m, e⟩ <;> unfold rndTo <;> dsimp only
  · rw [if_neg (by simp [hfinite])]
    dsimp only
    interval_cases f <;> exact ⟨rfl, by decide⟩
  · rw [if_pos hinf, ← signals_numberVal, numberVal_floatVal (by omega)]
    exact numberOf_signCode hf n (.inr rfl)
  · rw [if_neg (by interval_cases f <;> decide), if_neg (by omega)]
    obtain ⟨s, d, h, hd⟩ := rndFloat_code f rm sr n m e
    rw [h, ← signals_numberVal, numberVal_floatVal (by omega)]
    exact numberOf_signCode hf s (hd.imp_right And.right)

/-! ## The order of values (R224, R230) -/

theorem isNanV_iff (x : FVal) : isNanV x = true ↔ ∃ s, numberVal x = .nan s := by cases x <;> simp [isNanV, numberVal]

theorem unitsOf_lt_iff {n n' : Bool} {m m' : ℕ} {e e' : ℤ} :
    unitsOf n m e (min e e') < unitsOf n' m' e' (min e e') ↔ finRat n m e < finRat n' m' e' := by
  rw [← unitsOf_eq (min_le_left e e'), ← unitsOf_eq (min_le_right e e'), mul_lt_mul_iff_left₀ (by positivity), Int.cast_lt]

theorem ltVal_iff (z : Bool) (x y : FVal) : ltVal z x y = true ↔ numberBelow z (numberVal x) (numberVal y) := by
  rcases x with s | s | ⟨s, m, e⟩ <;> rcases y with t | t | ⟨t, n, g⟩
  case fin.fin => simp [ltVal, numberVal, numberBelow, unitsOf_lt_iff, finRat_eq_zero, and_assoc]
  all_goals simp [ltVal, numberVal, numberBelow]

theorem numberBelow_irrefl (z : Bool) (a : Number) : ¬ numberBelow z a a := by
  cases a <;> simp [numberBelow]

theorem numberBelow_trans {z : Bool} {a b c : Number} (h : numberBelow z a b) (h' : numberBelow z b c) : numberBelow z a c := by
  rcases a with s | s | ⟨p, s⟩ <;> rcases b with t | t | ⟨q, t⟩ <;> rcases c with u | u | ⟨r, u⟩ <;> simp_all [numberBelow]
  rcases h with h | ⟨rfl, rfl, rfl, -, rfl⟩ <;> rcases h' with h' | ⟨-, h1, rfl, h2, rfl⟩
  · exact .inl (h.trans h')
  · exact .inl (h1 ▸ h)
  · exact .inl h'
  · cases h2

/-- Folding by a strict order keeps an element that none of the list exceeds: the first, or one that exceeds the first. -/
theorem foldl_extreme {α : Type} {R : α → α → Prop} {F : α → α → α} (hirr : ∀ a, ¬ R a a) (htrans : ∀ a b c, R a b → R b c → R a c)
    (l : List α) (a : α) (hF : ∀ b ∈ a :: l, ∀ c ∈ l, (R b c → F b c = c) ∧ (¬ R b c → F b c = b)) :
    (l.foldl F a = a ∨ (l.foldl F a ∈ l ∧ R a (l.foldl F a))) ∧ ∀ c ∈ l, ¬ R (l.foldl F a) c := by
  induction l generalizing a with
  | nil => exact ⟨.inl rfl, by simp⟩
  | cons c l ih =>
    have hstep : F a c = c ∨ F a c = a := by
      obtain ⟨h1, h2⟩ := hF a (by simp) c (by simp)
      by_cases h : R a c
      · exact .inl (h1 h)
      · exact .inr (h2 h)
    obtain ⟨hmem, hall⟩ := ih (F a c) fun b hb d hd => hF b (by
      rcases List.mem_cons.mp hb with rfl | hb
      · rcases hstep with h | h <;> simp [h]
      · simp [hb]) d (by simp [hd])
    obtain ⟨hup, hkeep⟩ := hF a (by simp) c (by simp)
    rw [List.foldl_cons]
    by_cases hac : R a c
    · rw [hup hac] at hmem hall ⊢
      refine ⟨.inr (hmem.elim (fun h => by rw [h]; exact ⟨by simp, hac⟩) fun ⟨h1, h2⟩ => ⟨by simp [h1], htrans _ _ _ hac h2⟩),
        List.forall_mem_cons.mpr ⟨fun h => ?_, hall⟩⟩
      exact hmem.elim (fun e => hirr c (by rwa [e] at h)) fun ⟨_, h2⟩ => hirr c (htrans _ _ _ h2 h)
    · rw [hkeep hac] at hmem hall ⊢
      refine ⟨hmem.imp_right fun ⟨h1, h2⟩ => ⟨by simp [h1], h2⟩, List.forall_mem_cons.mpr ⟨fun h => ?_, hall⟩⟩
      exact hmem.elim (fun e => hac (by rwa [e] at h)) fun ⟨_, h2⟩ => hac (htrans _ _ _ h2 h)

/-! ## The greatest and the least codes (R241) -/

theorem numberOf_nan_iff {f c : ℕ} (hf : f ≤ 7) : isNanV (floatVal f c) = true ↔ ∃ s, numberOf f c = .nan s := by
  rw [isNanV_iff, numberVal_floatVal hf]

theorem numberOf_signals_iff {f c : ℕ} (hf : f ≤ 7) : isSig (floatVal f c) = true ↔ numberOf f c = .nan true := by
  rw [← signals_numberVal, numberVal_floatVal hf]
  cases numberOf f c <;> simp [Number.signals]

/-- R224: of two codes that are no NaN, the one that the other does not exceed. -/
theorem minMaxCode_of_not_nan {f a c : ℕ} (hf : f ≤ 7) (up : Bool) (ha : ¬ ∃ s, numberOf f a = .nan s) (hc : ¬ ∃ s, numberOf f c = .nan s) :
    (minMaxCode f up a c).1 =
      if ltVal true (floatVal f (if up then a else c)) (floatVal f (if up then c else a)) then c else a := by
  unfold minMaxCode
  rw [← numberOf_nan_iff hf, Bool.not_eq_true] at ha hc
  cases up <;> simp [ha, hc]

/-- R241: the order by which a maximum (`up`) or a minimum prefers the second code. -/
def prefers (f : ℕ) (up : Bool) (a c : ℕ) : Prop :=
  if up then numberBelow true (numberOf f a) (numberOf f c) else numberBelow true (numberOf f c) (numberOf f a)

theorem prefers_irrefl (f : ℕ) (up : Bool) (a : ℕ) : ¬ prefers f up a a := by
  cases up <;> exact numberBelow_irrefl _ _

theorem prefers_trans (f : ℕ) (up : Bool) (a b c : ℕ) (h : prefers f up a b) (h' : prefers f up b c) : prefers f up a c := by
  cases up
  · exact numberBelow_trans h' h
  · exact numberBelow_trans h h'

theorem minMaxCode_prefers {f a c : ℕ} (hf : f ≤ 7) {up : Bool} (ha : ¬ ∃ s, numberOf f a = .nan s) (hc : ¬ ∃ s, numberOf f c = .nan s) :
    (prefers f up a c → (minMaxCode f up a c).1 = c) ∧ (¬ prefers f up a c → (minMaxCode f up a c).1 = a) := by
  have h : prefers f up a c ↔ ltVal true (floatVal f (if up then a else c)) (floatVal f (if up then c else a)) = true := by
    rw [ltVal_iff, numberVal_floatVal hf, numberVal_floatVal hf]
    cases up <;> rfl
  rw [minMaxCode_of_not_nan hf up ha hc, h]
  exact ⟨fun h => if_pos h, fun h => if_neg h⟩

theorem signCode_testBit_add_mod {f c : ℕ} (hf : f ≤ 7) (hc : c < 2 ^ fmtBits f) :
    signCode f (c.testBit (fmtBits f - 1)) + c % 2 ^ (fmtBits f - 1) = c := by
  have hbits : fmtBits f = fmtBits f - 1 + 1 := by interval_cases f <;> rfl
  rw [hbits, pow_succ] at hc
  have hlt : c / 2 ^ (fmtBits f - 1) < 2 := Nat.div_lt_of_lt_mul hc
  have hparts := Nat.div_add_mod c (2 ^ (fmtBits f - 1))
  rw [Nat.testBit_eq_decide_div_mod_eq, Nat.mod_eq_of_lt hlt, signCode]
  interval_cases h : c / 2 ^ (fmtBits f - 1)
  · simpa using hparts
  · simpa using hparts

/-- R78: an infinity has one code for each sign. -/
theorem code_of_infinity {f c : ℕ} (hf : f ≤ 2) (hc : c < 2 ^ fmtBits f) {s : Bool} (h : numberOf f c = .infinity s) :
    c = signCode f s + fmtInf f := by
  unfold numberOf at h
  dsimp only at h
  split at h
  · cases h
  next hnone =>
    split at h
    · next hinf =>
      obtain rfl := Number.infinity.inj h
      rw [floatRat_eq (by omega)] at hnone
      split at hnone
      · next hmax =>
        obtain ⟨-, hexp⟩ | ⟨h3, -⟩ := (special_iff (by omega)).mpr hmax
        · have hmag : c % 2 ^ (fmtBits f - 1) = fmtInf f := by
            rw [signBit_eq (by omega), add_comm, pow_add, Nat.mod_mul, hinf.2, hexp]
            interval_cases f <;> rfl
          rw [← hmag, signCode_testBit_add_mod (by omega) hc]
        · omega
      · cases hnone
    · cases h

/-- R241: the fold of codes that are no NaN. -/
theorem foldFloat_extreme {f : ℕ} (hf : f ≤ 2) (up : Bool) {cs : List ℕ} (hcs : ∀ c ∈ cs, c < 2 ^ fmtBits f)
    (hn : ∀ c ∈ cs, ¬ ∃ s, numberOf f c = .nan s) :
    let r := cs.foldl (fun a c => (minMaxCode f up a c).1) (signCode f up + fmtInf f)
    (cs = [] → r = signCode f up + fmtInf f) ∧ (cs ≠ [] → r ∈ cs) ∧ ∀ c ∈ cs, ¬ prefers f up r c := by
  have hstart : numberOf f (signCode f up + fmtInf f) = .infinity up := by
    rw [← numberVal_floatVal (by omega)]
    interval_cases f <;> cases up <;> rfl
  obtain ⟨hmem, hall⟩ := foldl_extreme (prefers_irrefl f up) (prefers_trans f up) cs (signCode f up + fmtInf f) fun b hb c hc =>
    minMaxCode_prefers (by omega) (by
      rcases List.mem_cons.mp hb with rfl | hb
      · rw [hstart]; simp
      · exact hn b hb) (hn c hc)
  refine ⟨fun h => by rw [h]; rfl, fun hne => hmem.elim (fun h => ?_) And.left, hall⟩
  rw [h] at hall ⊢
  obtain ⟨c, l, rfl⟩ := List.exists_cons_of_ne_nil hne
  have hc := hall c (by simp)
  have : numberOf f c = .infinity up := by
    have hnot := hn c (by simp)
    unfold prefers at hc
    rw [hstart] at hc
    cases hnc : numberOf f c <;> rw [hnc] at hc hnot <;> cases up <;> simp_all [numberBelow]
  rw [code_of_infinity hf (hcs c (by simp)) this]
  simp

end Sys2Proof.Machine
end

section
/-!
PROOFS. Sums of groups over a window (R99).
-/

set_option Elab.async false

namespace Sys2Proof.Machine

/-! ## The window of a group -/

theorem abs_finRat (n : Bool) (m : ℕ) (e : ℤ) : |finRat n m e| = m * 2 ^ e := by
  have h : (0 : ℚ) ≤ m * 2 ^ e := by positivity
  cases n <;> simp [finRat, abs_of_nonneg h]

/-- The power of two of the leading bit of a value. -/
def leadExp (t : Bool × ℕ × ℤ) : ℤ := (Nat.log2 t.2.1 : ℤ) + t.2.2

/-- The value of a sign, a magnitude and an exponent. -/
def tripleRat (t : Bool × ℕ × ℤ) : ℚ := finRat t.1 t.2.1 t.2.2

theorem leadExp_bounds {t : Bool × ℕ × ℤ} (hm : t.2.1 ≠ 0) : 2 ^ leadExp t ≤ |tripleRat t| ∧ |tripleRat t| < 2 ^ (leadExp t + 1) := by
  have he : (0 : ℚ) < 2 ^ t.2.2 := by positivity
  rw [tripleRat, abs_finRat, leadExp, show (Nat.log2 t.2.1 : ℤ) + t.2.2 + 1 = ((Nat.log2 t.2.1 + 1 : ℕ) : ℤ) + t.2.2 by push_cast; ring,
    zpow_add₀ two_ne_zero, zpow_add₀ two_ne_zero, mul_le_mul_iff_left₀ he, mul_lt_mul_iff_left₀ he, zpow_natCast, zpow_natCast]
  exact ⟨by exact_mod_cast Nat.log2_self_le hm, by exact_mod_cast Nat.lt_log2_self⟩

/-- The greatest of the leading exponents of a list. -/
theorem foldl_max_leadExp (v : Bool × ℕ × ℤ) (l : List (Bool × ℕ × ℤ)) :
    let top := l.foldl (fun a t => max a ((Nat.log2 t.2.1 : ℤ) + t.2.2)) ((Nat.log2 v.2.1 : ℤ) + v.2.2)
    (∀ t ∈ v :: l, leadExp t ≤ top) ∧ ∃ t ∈ v :: l, leadExp t = top := by
  have h := foldl_extreme (R := fun a b : ℤ => a < b) (F := max) lt_irrefl (fun _ _ _ => lt_trans) (l.map leadExp) (leadExp v)
    fun b _ c _ => ⟨fun h => max_eq_right h.le, fun h => max_eq_left (not_lt.mp h)⟩
  rw [List.foldl_map] at h
  obtain ⟨hmem, hall⟩ := h
  have hfirst : leadExp v ≤ l.foldl (fun a t => max a (leadExp t)) (leadExp v) := hmem.elim (fun h => h.ge) fun h => h.2.le
  refine ⟨List.forall_mem_cons.mpr ⟨hfirst, fun t ht => not_lt.mp (hall _ (List.mem_map_of_mem ht))⟩, ?_⟩
  rcases hmem with h | ⟨h, -⟩
  · exact ⟨v, by simp, h.symm⟩
  · obtain ⟨t, ht, he⟩ := List.mem_map.mp h
    exact ⟨t, by simp [ht], he⟩

/-! ## The parts of the terms above the window's end -/

/-- The whole units of `2^u` in a magnitude. -/
def wholeUnits (m : ℕ) (e u : ℤ) : ℕ := if u ≤ e then m * 2 ^ (e - u).toNat else m / 2 ^ (u - e).toNat

/-- Whether a magnitude has bits below `2^u`. -/
def bitsBelow (m : ℕ) (e u : ℤ) : Bool := if u ≤ e then false else m % 2 ^ (u - e).toNat != 0

theorem div_zpow_of_le {m : ℕ} {e u : ℤ} (h : u ≤ e) : (m : ℚ) * 2 ^ e / 2 ^ u = (m * 2 ^ (e - u).toNat : ℕ) := by
  obtain ⟨d, hd⟩ : ∃ d : ℕ, e - u = d := ⟨(e - u).toNat, by omega⟩
  rw [mul_div_assoc, ← zpow_sub₀ two_ne_zero, hd, zpow_natCast, Int.toNat_natCast]
  push_cast
  rfl

theorem div_zpow_of_lt {m : ℕ} {e u : ℤ} (h : e < u) : (m : ℚ) * 2 ^ e / 2 ^ u = m / (2 ^ (u - e).toNat : ℕ) := by
  obtain ⟨d, hd⟩ : ∃ d : ℕ, u - e = d := ⟨(u - e).toNat, by omega⟩
  rw [mul_div_assoc, ← zpow_sub₀ two_ne_zero, show e - u = -(d : ℤ) by omega, hd, zpow_neg, zpow_natCast, Int.toNat_natCast]
  push_cast
  rfl

theorem wholeUnits_eq (m : ℕ) (e u : ℤ) : (wholeUnits m e u : ℤ) = ⌊(m : ℚ) * 2 ^ e / 2 ^ u⌋ := by
  unfold wholeUnits
  by_cases h : u ≤ e
  · rw [if_pos h, div_zpow_of_le h, Int.floor_natCast]
  · rw [if_neg h, div_zpow_of_lt (not_le.mp h), Rat.floor_natCast_div_natCast, Int.natCast_ediv]

theorem bitsBelow_iff (m : ℕ) (e u : ℤ) : bitsBelow m e u = true ↔ (wholeUnits m e u : ℚ) * 2 ^ u ≠ m * 2 ^ e := by
  have hu : (2 : ℚ) ^ u ≠ 0 := by positivity
  rw [ne_eq, ← eq_div_iff hu]
  unfold bitsBelow wholeUnits
  by_cases h : u ≤ e
  · simp only [if_pos h, div_zpow_of_le h]
    simp
  · have hp : ((2 ^ (u - e).toNat : ℕ) : ℚ) ≠ 0 := by positivity
    simp only [if_neg h, div_zpow_of_lt (not_le.mp h)]
    rw [eq_div_iff hp, ← Nat.cast_mul, Nat.cast_inj, bne_iff_ne, not_iff_not, ← Nat.dvd_iff_mod_eq_zero]
    exact ⟨Nat.div_mul_cancel, fun h => ⟨_, by rw [mul_comm]; exact h.symm⟩⟩

/-- R99: the part of a value above the window's end, towards zero. -/
def partAbove (u : ℤ) (v : ℚ) : ℤ := if v < 0 then -⌊|v| / 2 ^ u⌋ else ⌊v / 2 ^ u⌋

theorem partAbove_tripleRat {t : Bool × ℕ × ℤ} (hm : t.2.1 ≠ 0) (u : ℤ) :
    partAbove u (tripleRat t) = if t.1 then -(wholeUnits t.2.1 t.2.2 u : ℤ) else wholeUnits t.2.1 t.2.2 u := by
  obtain ⟨n, m, e⟩ := t
  rw [partAbove, wholeUnits_eq, tripleRat, abs_finRat]
  simp only [finRat_lt_zero hm]
  cases n <;> simp [finRat]

theorem partAbove_ne_iff {t : Bool × ℕ × ℤ} (hm : t.2.1 ≠ 0) (u : ℤ) :
    (partAbove u (tripleRat t) : ℚ) * 2 ^ u ≠ tripleRat t ↔ bitsBelow t.2.1 t.2.2 u = true := by
  rw [partAbove_tripleRat hm, bitsBelow_iff, tripleRat, finRat]
  cases t.1 <;> simp

/-! ## The sum of a group -/

/-- What a value of the model stands for in a group: a NaN stands for an invalid product and for any NaN. -/
def StandsFor (p : Option Number) : FVal → Prop
  | .nan _ => p = none ∨ ∃ s, p = some (.nan s)
  | .inf n => p = some (.infinity n)
  | .fin n m e => p = some (.finite (finRat n m e) n)

theorem standsFor_numberVal (x : FVal) : StandsFor (some (numberVal x)) x := by
  cases x <;> simp [StandsFor, numberVal]

/-- The finite values other than zero of a list. -/
def nonzeroTriples (vs : List FVal) : List (Bool × ℕ × ℤ) :=
  vs.filterMap (fun v => match v with | .fin s m e => if m = 0 then none else some (s, m, e) | _ => none)

theorem nonzeroTriples_ne {vs : List FVal} {t : Bool × ℕ × ℤ} (h : t ∈ nonzeroTriples vs) : t.2.1 ≠ 0 := by
  obtain ⟨v, -, hv⟩ := List.mem_filterMap.mp h
  rcases v with s | s | ⟨s, m, e⟩
  · cases hv
  · cases hv
  · by_cases hm : m = 0
    · simp [hm] at hv
    · simp only [if_neg hm] at hv
      cases hv
      exact hm

section
variable {ι : Type} {l : List ι} {p : ι → Option Number} {v : ι → FVal} (h : ∀ i ∈ l, StandsFor (p i) (v i))
include h

theorem nonzero_numbers : (l.map p).filterMap (fun p => match p with
    | some (.finite v _) => if v = 0 then none else some v
    | _ => none) = (nonzeroTriples (l.map v)).map tripleRat := by
  rw [nonzeroTriples, List.map_filterMap, List.filterMap_map, List.filterMap_map]
  refine List.filterMap_congr fun i hi => ?_
  have hi := h i hi
  simp only [Function.comp_apply]
  generalize p i = q, v i = x at hi ⊢
  rcases x with s | s | ⟨s, m, e⟩
  · rcases hi with rfl | ⟨s, rfl⟩ <;> rfl
  · obtain rfl := hi
    rfl
  · obtain rfl := hi
    by_cases hm : m = 0 <;> simp [finRat_eq_zero, hm, tripleRat]

theorem any_nan_iff : (l.map v).any isNanV = true ↔ ∃ q ∈ l.map p, q = none ∨ ∃ s, q = some (.nan s) := by
  rw [List.any_map, List.any_eq_true]
  simp only [List.mem_map, exists_exists_and_eq_and, Function.comp_apply]
  refine exists_congr fun i => and_congr_right fun hi => ?_
  have hi := h i hi
  generalize p i = q, v i = x at hi ⊢
  rcases x with s | s | ⟨s, m, e⟩
  · exact ⟨fun _ => hi, fun _ => rfl⟩
  all_goals obtain rfl := hi; simp [isNanV]

theorem any_infinity_iff (s : Bool) : (l.map v).any (· == .inf s) = true ↔ some (.infinity s) ∈ l.map p := by
  rw [List.any_map, List.any_eq_true, List.mem_map]
  refine exists_congr fun i => and_congr_right fun hi => ?_
  have hi := h i hi
  simp only [Function.comp_apply, beq_iff_eq]
  generalize p i = q, v i = x at hi ⊢
  rcases x with t | t | ⟨t, m, e⟩
  · rcases hi with rfl | ⟨s, rfl⟩ <;> simp
  all_goals obtain rfl := hi; simp

end

/-- R99: the sum of finite values of which at least one is not zero. -/
def tripleSum (w : ℕ) (v : Bool × ℕ × ℤ) (l : List (Bool × ℕ × ℤ)) : ℕ × Flags7 :=
  let u := l.foldl (fun a t => max a ((Nat.log2 t.2.1 : ℤ) + t.2.2)) ((Nat.log2 v.2.1 : ℤ) + v.2.2) - w + 7
  let sum := ((v :: l).map fun t => if t.1 then -(wholeUnits t.2.1 t.2.2 u : ℤ) else wholeUnits t.2.1 t.2.2 u).sum
  if sum = 0 then (0, 0)
  else rndFloat 0 RNE 0 (decide (sum < 0)) (2 * sum.natAbs + if (v :: l).any fun t => bitsBelow t.2.1 t.2.2 u then 1 else 0) (u - 1)

theorem groupSum_eq (vs : List FVal) (w : ℕ) : groupSum vs w =
    if vs.any isNanV = true ∨ (vs.any (· == .inf false) = true ∧ vs.any (· == .inf true) = true) then (fmtNan 0, fNV)
    else if vs.any (· == .inf false) = true then (fmtInf 0, 0)
    else if vs.any (· == .inf true) = true then (signCode 0 true + fmtInf 0, 0)
    else match nonzeroTriples vs with
      | [] => (0, 0)
      | v :: l => tripleSum w v l := by
  unfold groupSum
  dsimp only
  split_ifs
  · rfl
  · rfl
  · rfl
  generalize hfins : List.filterMap _ vs = fins
  rw [show nonzeroTriples vs = fins from hfins]
  rcases fins with _ | ⟨v, l⟩
  · rfl
  dsimp only
  unfold tripleSum
  dsimp only
  set u := l.foldl (fun a t => max a ((Nat.log2 t.2.1 : ℤ) + t.2.2)) ((Nat.log2 v.2.1 : ℤ) + v.2.2) - w + 7
  have hts : ∀ t : Bool × ℕ × ℤ, (if u ≤ t.2.2 then (t.1, t.2.1 * 2 ^ (t.2.2 - u).toNat, false)
      else (t.1, t.2.1 / 2 ^ (u - t.2.2).toNat, t.2.1 % 2 ^ (u - t.2.2).toNat != 0)) = (t.1, wholeUnits t.2.1 t.2.2 u, bitsBelow t.2.1 t.2.2 u) := by
    intro t
    unfold wholeUnits bitsBelow
    split <;> rfl
  simp only [hts, ← List.sum_eq_foldl, List.map_map, Function.comp_def, List.any_map]

theorem tripleSum_rounded (w : ℕ) (v : Bool × ℕ × ℤ) (l : List (Bool × ℕ × ℤ)) (hne : ∀ t ∈ v :: l, t.2.1 ≠ 0) : ∃ u : ℤ,
    (∀ q ∈ (v :: l).map tripleRat, |q| < 2 ^ (u + w - 6)) ∧ (∃ q ∈ (v :: l).map tripleRat, 2 ^ (u + w - 7) ≤ |q|)
      ∧ let part := fun (v : ℚ) => if v < 0 then -⌊|v| / 2 ^ u⌋ else ⌊v / 2 ^ u⌋
        let sum : ℤ := (((v :: l).map tripleRat).map part).sum
        let sticky : ℚ := if ∃ q ∈ (v :: l).map tripleRat, (part q : ℚ) * 2 ^ u ≠ q then 1 / 2 else 0
        (sum = 0 → (tripleSum w v l).1 = 0 ∧ (tripleSum w v l).2 = 0)
          ∧ (sum ≠ 0 → Rounded 0 0 0 false (exactAt ((sum + (if sum < 0 then -sticky else sticky)) * 2 ^ u)) (tripleSum w v l).1 (tripleSum w v l).2) := by
  obtain ⟨hall, t, ht, htop⟩ := foldl_max_leadExp v l
  unfold tripleSum
  set top := l.foldl (fun a t => max a ((Nat.log2 t.2.1 : ℤ) + t.2.2)) ((Nat.log2 v.2.1 : ℤ) + v.2.2)
  have hmono : ∀ {a b : ℤ}, a ≤ b → (2 : ℚ) ^ a ≤ 2 ^ b := fun h => zpow_le_zpow_right₀ one_le_two h
  refine ⟨top - w + 7, ?_, ⟨tripleRat t, List.mem_map_of_mem ht, ?_⟩, ?_⟩
  · rw [List.forall_mem_map]
    intro t ht
    exact (leadExp_bounds (hne t ht)).2.trans_le (hmono (by have := hall t ht; omega))
  · exact (hmono (by omega)).trans (leadExp_bounds (hne t ht)).1
  dsimp only
  set u := top - w + 7
  have hsum : (((v :: l).map tripleRat).map (partAbove u)).sum
      = ((v :: l).map fun t => if t.1 then -(wholeUnits t.2.1 t.2.2 u : ℤ) else wholeUnits t.2.1 t.2.2 u).sum := by
    rw [List.map_map]
    exact congrArg _ (List.map_congr_left fun t ht => partAbove_tripleRat (hne t ht) u)
  have hsticky : (∃ q ∈ (v :: l).map tripleRat, (partAbove u q : ℚ) * 2 ^ u ≠ q) ↔ ((v :: l).any fun t => bitsBelow t.2.1 t.2.2 u) = true := by
    rw [List.any_eq_true]
    simp only [List.mem_map, exists_exists_and_eq_and]
    exact exists_congr fun t => and_congr_right fun ht => partAbove_ne_iff (hne t ht) u
  change ((((v :: l).map tripleRat).map (partAbove u)).sum = 0 → _) ∧ ((((v :: l).map tripleRat).map (partAbove u)).sum ≠ 0 → Rounded 0 0 0 false
    (exactAt (((((v :: l).map tripleRat).map (partAbove u)).sum + (if (((v :: l).map tripleRat).map (partAbove u)).sum < 0
      then -(if ∃ q ∈ (v :: l).map tripleRat, (partAbove u q : ℚ) * 2 ^ u ≠ q then 1 / 2 else 0)
      else (if ∃ q ∈ (v :: l).map tripleRat, (partAbove u q : ℚ) * 2 ^ u ≠ q then 1 / 2 else 0))) * 2 ^ u)) _ _)
  rw [hsum]
  simp only [hsticky]
  generalize ((v :: l).map fun t => if t.1 then -(wholeUnits t.2.1 t.2.2 u : ℤ) else wholeUnits t.2.1 t.2.2 u).sum = z
  generalize ((v :: l).any fun t => bitsBelow t.2.1 t.2.2 u) = b
  refine ⟨fun hz => by rw [if_pos hz]; exact ⟨rfl, rfl⟩, fun hz => ?_⟩
  rw [if_neg hz]
  refine rndFloat_finRat 0 (by omega) (by decide) ?_ fun h => absurd h (by omega)
  rw [finRat, zpow_sub_one₀ two_ne_zero]
  have hcast : (z.natAbs : ℚ) = |(z : ℚ)| := by rw [← Int.cast_abs, Int.abs_eq_natAbs, Int.cast_natCast]
  by_cases h0 : z < 0
  · have : (z : ℚ) < 0 := by exact_mod_cast h0
    cases b <;> simp [h0, hcast, abs_of_neg this] <;> ring
  · have : (0 : ℚ) ≤ z := by exact_mod_cast not_lt.mp h0
    cases b <;> simp [h0, hcast, abs_of_nonneg this] <;> ring

/-- R99: the model sums a group over its window. -/
theorem groupSum_groupSum {ι : Type} {l : List ι} {p : ι → Option Number} {v : ι → FVal} (h : ∀ i ∈ l, StandsFor (p i) (v i)) (w : ℕ) :
    GroupSum w (l.map p) (groupSum (l.map v) w).1 (groupSum (l.map v) w).2 := by
  have hbad : ((∃ q ∈ l.map p, q = none ∨ ∃ s, q = some (.nan s)) ∨ (some (.infinity false) ∈ l.map p ∧ some (.infinity true) ∈ l.map p))
      ↔ ((l.map v).any isNanV = true ∨ ((l.map v).any (· == .inf false) = true ∧ (l.map v).any (· == .inf true) = true)) := by
    rw [any_nan_iff h, any_infinity_iff h, any_infinity_iff h]
  rw [groupSum_eq]
  unfold GroupSum
  dsimp only
  generalize hfins : List.filterMap _ (l.map p) = qs
  obtain rfl : qs = (nonzeroTriples (l.map v)).map tripleRat := hfins.symm.trans (nonzero_numbers h)
  simp only [hbad]
  by_cases hb : (l.map v).any isNanV = true ∨ ((l.map v).any (· == .inf false) = true ∧ (l.map v).any (· == .inf true) = true)
  · rw [if_pos hb]
    exact ⟨fun _ => ⟨rfl, rfl⟩, fun h => absurd hb h, fun h => absurd hb h, fun h => absurd hb h⟩
  rw [if_neg hb]
  simp only [hb, false_imp_iff, not_false_eq_true, true_imp_iff, true_and]
  simp only [← any_infinity_iff h]
  by_cases hp : (l.map v).any (· == .inf false) = true
  · have hn : ¬ (l.map v).any (· == .inf true) = true := fun hn => hb (.inr ⟨hp, hn⟩)
    rw [if_pos hp]
    refine ⟨fun neg hneg => ?_, fun hno => absurd hp (hno false), fun hno => absurd hp (hno false)⟩
    cases neg
    · exact ⟨by simp [signCode], rfl⟩
    · exact absurd hneg hn
  rw [if_neg hp]
  by_cases hn : (l.map v).any (· == .inf true) = true
  · rw [if_pos hn]
    refine ⟨fun neg hneg => ?_, fun hno => absurd hn (hno true), fun hno => absurd hn (hno true)⟩
    cases neg
    · exact absurd hneg hp
    · exact ⟨rfl, rfl⟩
  rw [if_neg hn]
  have hno : ∀ neg, ¬ (l.map v).any (· == .inf neg) = true := Bool.forall_bool.mpr ⟨hp, hn⟩
  refine ⟨fun neg hneg => absurd hneg (hno neg), fun _ hvs => ?_, fun _ hvs => ?_⟩
  · rw [List.map_eq_nil_iff.mp hvs]
    exact ⟨rfl, rfl⟩
  · have hne := fun t => nonzeroTriples_ne (vs := l.map v) (t := t)
    generalize nonzeroTriples (l.map v) = ts at hvs hne ⊢
    rcases ts with _ | ⟨t, ts⟩
    · exact absurd rfl hvs
    · exact tripleSum_rounded w t ts hne

end Sys2Proof.Machine
end

section
/-!
PROOFS. Groups added to an accumulator, and reductions of floats (R241, R242).
-/

set_option Elab.async false

namespace Sys2Proof.Machine

/-! ## Groups added in ascending order (R99, R242) -/

theorem rndFloat_quiet (rm sr : ℕ) (n : Bool) (m : ℕ) (e : ℤ) : isSig (floatVal 0 (rndFloat 0 rm sr n m e).1) = false := by
  obtain ⟨s, d, h, hd⟩ := rndFloat_code 0 rm sr n m e
  rw [h, ← signals_numberVal, numberVal_floatVal (by omega)]
  exact (numberOf_signCode (by omega) s (hd.imp_right And.right)).1

/-- R80: the sum of a group is no signalling NaN. -/
theorem groupSum_quiet (vs : List FVal) (w : ℕ) : isSig (floatVal 0 (groupSum vs w).1) = false := by
  rw [groupSum_eq]
  split_ifs
  · rfl
  · rfl
  · rfl
  · rcases nonzeroTriples vs with _ | ⟨v, l⟩ <;> dsimp only
    · rfl
    · unfold tripleSum
      dsimp only
      split_ifs
      · rfl
      all_goals exact rndFloat_quiet _ _ _ _ _

/-- One group added to the accumulator. -/
def addGroup (w : ℕ) (a : ℕ × Flags7) (g : List FVal) : ℕ × Flags7 :=
  ((addCode 0 RNE 0 a.1 (groupSum g w).1).1, a.2 ||| (groupSum g w).2 ||| (addCode 0 RNE 0 a.1 (groupSum g w).1).2)

theorem foldl_addGroup (w : ℕ) (gs : List (List FVal)) (a : ℕ) (fl : Flags7) :
    gs.foldl (addGroup w) (a, fl) = ((addGroups gs w a).1, fl ||| (addGroups gs w a).2) := by
  have hdef : ∀ gs a, addGroups gs w a = gs.foldl (addGroup w) (a, 0) := fun _ _ => rfl
  rw [hdef]
  induction gs generalizing a fl with
  | nil => simp
  | cons g gs ih =>
    rw [List.foldl_cons, List.foldl_cons, ih, addGroup, ih (addGroup w (a, 0) g).1, addGroup]
    simp [BitVec.or_assoc]

theorem addGroups_cons (g : List FVal) (gs : List (List FVal)) (w acc : ℕ) : addGroups (g :: gs) w acc =
    let s := groupSum g w
    let a := addCode 0 RNE 0 acc s.1
    ((addGroups gs w a.1).1, s.2 ||| a.2 ||| (addGroups gs w a.1).2) := by
  show gs.foldl (addGroup w) (addGroup w (acc, 0) g) = _
  rw [addGroup, foldl_addGroup]
  simp

theorem addCode_gives (acc c : ℕ) (hc : isSig (floatVal 0 c) = false) :
    Gives 0 0 0 (sumOf 0 (numberOf 0 acc) (numberOf 0 c)) (numberOf 0 acc).signals (addCode 0 RNE 0 acc c).1 (addCode 0 RNE 0 acc c).2 := by
  have h := (comes_addVal 0 (floatVal 0 acc) (floatVal 0 c)).gives (f := 0) (rm := 0) (by omega) (by omega) 0
  rw [numberVal_floatVal (by omega), numberVal_floatVal (by omega), hc, Bool.or_false, ← signals_numberVal, numberVal_floatVal (by omega)] at h
  exact h

/-- R99, R242: the model adds groups to an accumulator. -/
theorem addGroups_summedGroups {ι : Type} {p : ι → Option Number} {v : ι → FVal} (w : ℕ) (gs : List (List ι)) (acc : ℕ)
    (h : ∀ g ∈ gs, ∀ i ∈ g, StandsFor (p i) (v i)) :
    SummedGroups w (gs.map (·.map p)) acc (addGroups (gs.map (·.map v)) w acc).1 (addGroups (gs.map (·.map v)) w acc).2 := by
  induction gs generalizing acc with
  | nil => exact ⟨rfl, rfl⟩
  | cons g gs ih =>
    rw [List.map_cons, List.map_cons, addGroups_cons]
    exact ⟨_, _, _, _, _, groupSum_groupSum (h g (by simp)) w, addCode_gives acc _ (groupSum_quiet _ w),
      ih _ fun g hg => h g (by simp [hg]), rfl⟩

theorem addGroups_quiet (gs : List (List FVal)) (w acc : ℕ) (h : isSig (floatVal 0 acc) = false) :
    isSig (floatVal 0 (addGroups gs w acc).1) = false := by
  induction gs generalizing acc with
  | nil => exact h
  | cons g gs ih =>
    rw [addGroups_cons]
    exact ih _ (rndTo_quiet (by omega) _ _ _).1

/-! ## Reductions of floats (R241, R242) -/

section
variable {vt : Word} {vl : ℕ} {es : List (ℕ × ℕ)}

/-- R242: the groups of 32 of the active elements. -/
def elementGroups (vl : ℕ) (es : List (ℕ × ℕ)) : List (List (ℕ × ℕ)) :=
  (List.range ((vl + 31) / 32)).map fun g => es.filter fun p => p.1 / 32 == g

theorem foldGroups_eq (f vl : ℕ) (es : List (ℕ × ℕ)) : foldGroups vl (es.map (fun e => (e.1, floatVal f e.2)))
    = addGroups ((elementGroups vl es).map (·.map fun e => floatVal f e.2)) 64 0 := by
  simp only [foldGroups, elementGroups, List.map_map, List.filter_map, Function.comp_def]

/-- R241, R242: the sum of floats. -/
theorem foldOut_add_f (sr : ℕ) (hcls : vtClass vt = .f) (hrm : vtRm vt ≤ 5) :
    let f := vtFmt vt
    let r := foldOut .add vt sr vl es
    r.1 = fmtBits f ∧ ∃ acc fl, SummedGroups 64 ((elementGroups vl es).map (·.map fun p => some (numberOf f p.2))) 0 acc fl
      ∧ (f = 0 → r.2.code = acc ∧ r.2.flags = fl)
      ∧ (f ≠ 0 → ∃ cf, Gives f (vtRm vt) sr (numberOf 0 acc).exact false r.2.code cf ∧ r.2.flags = fl ||| cf) := by
  have hf := vtClass_f hcls
  dsimp only
  unfold foldOut
  rw [hcls]
  dsimp only
  rw [foldGroups_eq]
  have hsum := addGroups_summedGroups (p := fun e => some (numberOf (vtFmt vt) e.2)) (v := fun e => floatVal (vtFmt vt) e.2) 64 (elementGroups vl es) 0
    fun g _ e _ => by rw [← numberVal_floatVal (by omega)]; exact standsFor_numberVal _
  have hquiet := addGroups_quiet ((elementGroups vl es).map (·.map fun e => floatVal (vtFmt vt) e.2)) 64 0 rfl
  generalize addGroups _ 64 0 = r at hsum hquiet
  by_cases h0 : vtFmt vt = 0
  · rw [if_pos h0]
    exact ⟨rfl, _, _, hsum, fun _ => ⟨rfl, rfl⟩, fun h => absurd h0 h⟩
  · rw [if_neg h0]
    refine ⟨rfl, _, _, hsum, fun h => absurd h h0, fun _ => ⟨(cvtCode 0 (vtFmt vt) (vtRm vt) sr r.1).2.1, ?_, rfl⟩⟩
    have h := (comes_numberVal _ hquiet).gives hf hrm sr
    rw [numberVal_floatVal (by omega)] at h
    have helem : elemVal 0 r.1 = floatVal 0 r.1 := rfl
    simpa [cvtCode, helem, hquiet, fIf] using h

theorem any_nan_codes (hf : vtFmt vt ≤ 7) : ((es.map (fun e => e.2)).any (fun c => isNanV (floatVal (vtFmt vt) c)) = true)
    ↔ ∃ p ∈ es, ∃ s, numberOf (vtFmt vt) p.2 = .nan s := by
  simp [List.any_eq_true, isNanV_iff, numberVal_floatVal hf]

theorem any_sig_codes (hf : vtFmt vt ≤ 7) : fIf ((es.map (fun e => e.2)).any (fun c => isSig (floatVal (vtFmt vt) c))) fNV
    = if ∃ p ∈ es, numberOf (vtFmt vt) p.2 = .nan true then fNV else 0 := by
  unfold fIf
  congr 1
  simp [List.any_eq_true, numberOf_signals_iff hf]

/-- R241: the greatest and the least of floats. -/
theorem foldOut_extreme_f (sr : ℕ) (hcls : vtClass vt = .f) (hes : ∀ p ∈ es, p.2 < 2 ^ fmtBits (vtFmt vt)) (up : Bool) :
    let f := vtFmt vt
    let anyNan := ∃ p ∈ es, ∃ s, numberOf f p.2 = .nan s
    let r := foldOut (if up then .max else .min) vt sr vl es
    r.1 = fmtBits f ∧ (anyNan → r.2.code = fmtNan f ∧ r.2.flags = if ∃ p ∈ es, numberOf f p.2 = .nan true then fNV else 0)
      ∧ (¬ anyNan → r.2.flags = 0 ∧ (es = [] → r.2.code = signCode f up + fmtInf f) ∧ (es ≠ [] → ∃ p ∈ es, p.2 = r.2.code)
        ∧ ∀ p ∈ es, ¬ (if up then numberBelow true (numberOf f r.2.code) (numberOf f p.2) else numberBelow true (numberOf f p.2) (numberOf f r.2.code))) := by
  have hf := vtClass_f hcls
  dsimp only
  have hout : foldOut (if up then .max else .min) vt sr vl es
      = (fmtBits (vtFmt vt), ⟨(foldFloat (vtFmt vt) up (es.map fun e => e.2)).1, (foldFloat (vtFmt vt) up (es.map fun e => e.2)).2, false⟩) := by
    unfold foldOut
    rw [hcls]
    cases up <;> rfl
  rw [hout, foldFloat, ← any_sig_codes (es := es) (by omega), ← any_nan_codes (es := es) (by omega)]
  refine ⟨rfl, fun h => by rw [if_pos h]; exact ⟨rfl, rfl⟩, fun h => ?_⟩
  rw [if_neg h]
  rw [any_nan_codes (by omega)] at h
  have hn : ∀ c ∈ es.map (fun e => e.2), ¬ ∃ s, numberOf (vtFmt vt) c = .nan s :=
    List.forall_mem_map.mpr fun p hp hs => h ⟨p, hp, hs⟩
  obtain ⟨hnil, hmem, hall⟩ := foldFloat_extreme hf up (List.forall_mem_map.mpr hes) hn
  refine ⟨rfl, fun h => hnil (by rw [h]; rfl), fun h => ?_, fun p hp => hall p.2 (List.mem_map_of_mem hp)⟩
  obtain ⟨p, hp, hr⟩ := List.mem_map.mp (hmem (by simpa using h))
  exact ⟨p, hp, hr⟩

/-- The greatest of a list of naturals, 0 for none. -/
theorem foldl_max_zero (g : ℕ → ℕ) (es : List (ℕ × ℕ)) :
    let r := ((es.map fun e => e.2).map g).foldl max 0
    (es = [] → r = 0) ∧ (es ≠ [] → ∃ p ∈ es, g p.2 = r) ∧ ∀ p ∈ es, g p.2 ≤ r := by
  obtain ⟨hmem, hall⟩ := foldl_extreme (R := fun a b : ℕ => a < b) (F := max) lt_irrefl (fun _ _ _ => lt_trans) ((es.map fun e => e.2).map g) 0
    fun b _ c _ => ⟨fun h => max_eq_right h.le, fun h => max_eq_left (not_lt.mp h)⟩
  have hle : ∀ p ∈ es, g p.2 ≤ ((es.map fun e => e.2).map g).foldl max 0 := fun p hp => not_lt.mp (hall _ (by
    simpa using ⟨p.1, p.2, hp, rfl⟩))
  refine ⟨fun h => by rw [h]; rfl, fun hne => ?_, hle⟩
  rcases hmem with h | ⟨h, -⟩
  · obtain ⟨p, l, rfl⟩ := List.exists_cons_of_ne_nil hne
    exact ⟨p, by simp, le_antisymm (hle p (by simp)) (by rw [h]; exact Nat.zero_le _)⟩
  · rw [List.map_map, List.mem_map] at h
    obtain ⟨p, hp, he⟩ := h
    exact ⟨p, hp, by rw [List.map_map]; exact he⟩

/-- R241: the greatest magnitude of floats. -/
theorem foldOut_amax_f (sr : ℕ) (hcls : vtClass vt = .f) :
    let f := vtFmt vt
    let top := 2 ^ (fmtBits f - 1)
    let anyNan := ∃ p ∈ es, ∃ s, numberOf f p.2 = .nan s
    let r := foldOut .amax vt sr vl es
    r.1 = fmtBits f ∧ (anyNan → r.2.code = fmtNan f ∧ r.2.flags = if ∃ p ∈ es, numberOf f p.2 = .nan true then fNV else 0)
      ∧ (¬ anyNan → r.2.flags = 0 ∧ (es = [] → r.2.code = 0) ∧ (es ≠ [] → ∃ p ∈ es, p.2 % top = r.2.code) ∧ ∀ p ∈ es, p.2 % top ≤ r.2.code) := by
  have hf := vtClass_f hcls
  dsimp only
  unfold foldOut
  rw [hcls]
  dsimp only
  rw [← any_sig_codes (es := es) (by omega), ← any_nan_codes (es := es) (by omega)]
  by_cases h : (es.map (fun e => e.2)).any (fun c => isNanV (floatVal (vtFmt vt) c)) = true
  · rw [if_pos h]
    exact ⟨rfl, fun _ => ⟨rfl, rfl⟩, fun hn => absurd h hn⟩
  · rw [if_neg h]
    exact ⟨rfl, fun hn => absurd hn h, fun _ => ⟨rfl, foldl_max_zero (· % 2 ^ (fmtBits (vtFmt vt) - 1)) es⟩⟩

end

end Sys2Proof.Machine
end

section
/-!
PROOFS. Reductions of logarithms (R84, R241).
-/

set_option Elab.async false

namespace Sys2Proof.Machine

/-! ## Reductions of logarithms (R84, R241) -/

theorem vtClass_l {vt : Word} (h : vtClass vt = .l) : vtFmt vt = 8 := by
  unfold vtClass at h
  dsimp only at h
  split at h
  · cases h
  · split at h
    · cases h
    · split at h
      · assumption
      · split at h <;> cases h

theorem lnsTerm_eq (c : ℕ) : (lnsTerm c : ℚ) * 2 ^ (-28 : ℤ) = lnsRat c := by
  unfold lnsTerm lnsRat
  dsimp only
  by_cases h : c % 32 = 0
  · simp [h]
  · rw [if_neg h, if_neg h, show c % 32 % 4 = c % 4 by omega, show c % 32 / 4 = c / 4 % 8 by omega,
      show ((c / 4 % 8 : ℕ) - 16 : ℤ) = ((c / 4 % 8 + 12 : ℕ) : ℤ) + (-28) by push_cast; ring, zpow_add₀ two_ne_zero, zpow_natCast]
    split <;> push_cast <;> ring

theorem abs_lnsTerm_le (c : ℕ) : |lnsTerm c| ≤ 2 ^ 32 := by
  unfold lnsTerm
  dsimp only
  split
  · simp
  have hT : (lnsT (c % 32 % 4) : ℤ) ≤ 2 ^ 13 := by unfold lnsT; split <;> norm_num
  have hpow : (2 : ℤ) ^ (c % 32 / 4 + 12) ≤ 2 ^ 19 := pow_le_pow_right₀ (by norm_num) (by omega)
  have hle : (lnsT (c % 32 % 4) : ℤ) * 2 ^ (c % 32 / 4 + 12) ≤ 2 ^ 13 * 2 ^ 19 := mul_le_mul hT hpow (by positivity) (by positivity)
  have hpos : (0 : ℤ) ≤ (lnsT (c % 32 % 4) : ℤ) * 2 ^ (c % 32 / 4 + 12) := by positivity
  split
  · rw [abs_neg, abs_of_nonneg hpos]; exact hle
  · rw [abs_of_nonneg hpos]; exact hle

/-- R84: terms that stay within the accumulator are summed exactly. -/
theorem satSum_eq {B : ℤ} (l : List ℤ) (acc : ℤ) (hl : ∀ t ∈ l, |t| ≤ B) (hacc : |acc| + l.length * B < 2 ^ 63) :
    satSum l acc = (acc + l.sum, 0) := by
  induction l generalizing acc with
  | nil => simp [satSum]
  | cons t l ih =>
    have ht := hl t (by simp)
    have hB : 0 ≤ l.length * B := mul_nonneg (by positivity) ((abs_nonneg t).trans ht)
    have hsum := abs_add_le acc t
    simp only [List.length_cons, Nat.cast_add, Nat.cast_one, add_mul, one_mul] at hacc
    obtain ⟨hlo, hhi⟩ := abs_lt.mp (show |acc + t| < 2 ^ 63 by omega)
    have hstep : sat64 (acc + t) = (acc + t, 0) := by
      unfold sat64
      rw [if_neg (by omega), if_neg (by omega)]
    have hcons : satSum (t :: l) acc = satSum l (acc + t) := by
      show List.foldl _ ((sat64 (acc + t)).1, 0 ||| (sat64 (acc + t)).2) l = _
      rw [hstep, show (0 : Flags7) ||| (acc + t, (0 : Flags7)).2 = 0 from BitVec.zero_or]
      rfl
    rw [hcons, ih (acc + t) (fun t h => hl t (by simp [h])) (by omega), List.sum_cons, add_assoc]

section
variable {vt : Word} {vl : ℕ} {es : List (ℕ × ℕ)}

/-- R84, R241: the sum of logarithms. -/
theorem foldOut_add_l (sr : ℕ) (hcls : vtClass vt = .l) (hlen : es.length ≤ 32768) :
    let r := foldOut .add vt sr vl es
    r.1 = 32 ∧ Rounded 0 0 0 false (exactAt ((es.map (fun p => lnsRat p.2)).sum)) r.2.code r.2.flags := by
  have hsat : satSum ((es.map fun e => e.2).map lnsTerm) 0 = (((es.map fun e => e.2).map lnsTerm).sum, 0) := by
    rw [satSum_eq (B := 2 ^ 32) _ 0 (List.forall_mem_map.mpr fun c _ => abs_lnsTerm_le c), zero_add]
    simp only [List.length_map, abs_zero, zero_add]
    have : (es.length : ℤ) ≤ 32768 := by exact_mod_cast hlen
    omega
  have hsum : (es.map (fun p => lnsRat p.2)).sum = (((es.map fun e => e.2).map lnsTerm).sum : ℤ) * 2 ^ (-28 : ℤ) := by
    rw [Int.cast_list_sum, ← List.sum_map_mul_right]
    simp only [List.map_map, Function.comp_def, lnsTerm_eq]
  dsimp only
  unfold foldOut
  rw [hcls]
  dsimp only
  rw [hsat, hsum, ← finRat_intSign]
  refine ⟨rfl, ?_⟩
  show Rounded _ _ _ _ _ _ (0 ||| (lnsReadout _).2)
  rw [show ∀ x : Flags7, 0 ||| x = x from fun x => BitVec.zero_or]
  exact rndFloat_finRat 0 (by omega) (by decide) rfl fun h => by simpa using (Int.natAbs_eq_zero.mp h).ge

/-- R84, R241: whether a logarithm stands strictly further towards the end sought. -/
def lnsPrefers (up : Bool) (a c : ℕ) : Prop := if up then lnsRat a < lnsRat c else lnsRat c < lnsRat a

theorem lnsPrefers_trans (up : Bool) (a b c : ℕ) (h : lnsPrefers up a b) (h' : lnsPrefers up b c) : lnsPrefers up a c := by
  cases up
  · exact lt_trans (α := ℚ) h' h
  · exact lt_trans (α := ℚ) h h'

theorem elLnsMinMax_code (up : Bool) (a c : ℕ) :
    (lnsPrefers up a c → (elLnsMinMax up a c).code = c) ∧ (¬ lnsPrefers up a c → (elLnsMinMax up a c).code = a) := by
  have hlt : ∀ a c, ltVal false (lnsVal a) (lnsVal c) = true ↔ lnsRat a < lnsRat c := fun a c => by
    rw [ltVal_iff, numberVal_lnsVal, numberVal_lnsVal]
    simp [numberBelow]
  cases up <;> simp +contextual [lnsPrefers, elLnsMinMax, hlt, plainOut]

/-- R84, R241: the greatest and the least of logarithms. -/
theorem foldOut_extreme_l (sr : ℕ) (hcls : vtClass vt = .l) (up : Bool) :
    let r := foldOut (if up then .max else .min) vt sr vl es
    r.1 = fmtBits (vtFmt vt) ∧ r.2.flags = 0 ∧ (es = [] → r.2.code = 0) ∧ (es ≠ [] → ∃ p ∈ es, p.2 = r.2.code)
      ∧ ∀ p ∈ es, if up then lnsRat p.2 ≤ lnsRat r.2.code else lnsRat r.2.code ≤ lnsRat p.2 := by
  have hout : foldOut (if up then .max else .min) vt sr vl es = (fmtBits (vtFmt vt), plainOut (match es.map (fun e => e.2) with
      | [] => 0
      | c :: l => l.foldl (fun a c => (elLnsMinMax up a c).code) c)) := by
    unfold foldOut
    rw [hcls]
    cases up <;> rfl
  dsimp only
  rcases es with _ | ⟨e, es⟩
  · rw [hout]
    exact ⟨rfl, rfl, fun _ => rfl, fun h => absurd rfl h, by simp⟩
  obtain ⟨hmem, hall⟩ := foldl_extreme (R := lnsPrefers up) (F := fun a c => (elLnsMinMax up a c).code)
    (fun a => by cases up <;> simp [lnsPrefers]) (lnsPrefers_trans up)
    (es.map fun e => e.2) e.2 fun b _ c _ => elLnsMinMax_code up b c
  generalize hr : (es.map fun e => e.2).foldl (fun a c => (elLnsMinMax up a c).code) e.2 = r at hmem hall
  rw [hout.trans (show _ = (fmtBits (vtFmt vt), plainOut r) by rw [← hr]; rfl)]
  have hfirst : ¬ lnsPrefers up r e.2 := by
    rcases hmem with rfl | ⟨-, h⟩
    · cases up <;> simp [lnsPrefers]
    · exact fun h' => by cases up <;> exact lt_asymm (α := ℚ) h h'
  have hle : ∀ p ∈ e :: es, ¬ lnsPrefers up r p.2 := List.forall_mem_cons.mpr ⟨hfirst, fun p hp => hall _ (List.mem_map_of_mem hp)⟩
  refine ⟨rfl, rfl, fun h => (by simp at h), fun _ => ?_, fun p hp => ?_⟩
  · rcases hmem with rfl | ⟨h, -⟩
    · exact ⟨e, by simp, rfl⟩
    · obtain ⟨p, hp, h⟩ := List.mem_map.mp h
      exact ⟨p, by simp [hp], h⟩
  · have h := hle p hp
    cases up <;> simpa [lnsPrefers, plainOut] using h

/-- R241: the greatest magnitude of logarithms. -/
theorem foldOut_amax_l (sr : ℕ) (hcls : vtClass vt = .l) :
    let r := foldOut .amax vt sr vl es
    r.1 = fmtBits (vtFmt vt) ∧ r.2.flags = 0 ∧ r.2.code < 32 ∧ (es = [] → r.2.code = 0) ∧ (es ≠ [] → ∃ p ∈ es, p.2 % 32 = r.2.code)
      ∧ ∀ p ∈ es, p.2 % 32 ≤ r.2.code := by
  obtain ⟨hnil, hmem, hall⟩ := foldl_max_zero (· % 32) es
  dsimp only
  unfold foldOut
  rw [hcls]
  refine ⟨rfl, rfl, ?_, hnil, hmem, hall⟩
  by_cases h : es = []
  · exact (hnil h).trans_lt (by norm_num)
  · obtain ⟨p, -, hp⟩ := hmem h
    exact hp.symm.trans_lt (Nat.mod_lt _ (by norm_num))

end

end Sys2Proof.Machine
end

section
/-!
PROOFS. Blocks of bfp16 (R235), and O37.
-/

set_option Elab.async false

namespace Sys2Proof.Machine

/-! ## Blocks of bfp16 (R235) -/

/-- The finite value of a sign, a magnitude and an exponent. -/
def tripleVal (t : Bool × ℕ × ℤ) : FVal := .fin t.1 t.2.1 t.2.2

/-- R235: the mantissa of a value for a block exponent. -/
def mantissaFor (k : ℤ) (t : Bool × ℕ × ℤ) : ℤ := signedInt t.1 (roundTo 0 0 t.1 t.2.1 (t.2.2 + 15 - k) 0).1

/-- R235: whether the mantissa of a value for a block exponent is inexact. -/
def inexactFor (k : ℤ) (t : Bool × ℕ × ℤ) : Bool := (roundTo 0 0 t.1 t.2.1 (t.2.2 + 15 - k) 0).2

theorem bfpFrom_eq (ts : List (Bool × ℕ × ℤ)) (k : ℤ) : bfpFrom ts k = (ts.map (mantissaFor k), ts.any (inexactFor k)) := by
  simp only [bfpFrom, List.map_map, List.any_map]
  rfl

theorem tripleRat_scaled (t : Bool × ℕ × ℤ) (k : ℤ) : tripleRat t * 2 ^ (15 - k) = finRat t.1 t.2.1 (t.2.2 + 15 - k) := by
  rw [tripleRat, finRat, finRat, add_sub_assoc, zpow_add₀ two_ne_zero]
  ring

theorem mantissaFor_selected (k : ℤ) (t : Bool × ℕ × ℤ) : selectedInt 0 0 (exactAt (tripleRat t * 2 ^ (15 - k))) (mantissaFor k t) := by
  rw [tripleRat_scaled]
  refine selectedInt_of_roundsAt (sees_finRat _ _ _) ?_
  simpa using (roundTo_roundsAt (rm := 0) (sr := 0) (neg := t.1) (m := t.2.1) (e := t.2.2 + 15 - k) (q := 0) (.inl rfl)).1

theorem inexactFor_iff (k : ℤ) (t : Bool × ℕ × ℤ) : inexactFor k t = true ↔ (mantissaFor k t : ℚ) ≠ tripleRat t * 2 ^ (15 - k) := by
  obtain ⟨hr, hx⟩ := roundTo_roundsAt (rm := 0) (sr := 0) (neg := t.1) (m := t.2.1) (e := t.2.2 + 15 - k) (q := 0) (.inl rfl)
  rw [zpow_zero, div_one] at hr hx
  rw [← hr.exact_iff Nat.strictMono_cast] at hx
  rw [← Bool.not_eq_false, not_iff_not, inexactFor, hx, tripleRat_scaled, mantissaFor, finRat]
  rw [← @Rat.cast_inj ℝ]
  push_cast
  cases t.1 <;> simp [signedInt, eq_comm]

theorem rounded_mantissas (ts : List (Bool × ℕ × ℤ)) (k : ℤ) :
    List.Forall₂ (fun v m => selectedInt 0 0 (exactAt (v * 2 ^ (15 - k))) m) (ts.map tripleRat) (ts.map (mantissaFor k)) := by
  rw [List.forall₂_map_left_iff, List.forall₂_map_right_iff, List.forall₂_same]
  exact fun t _ => mantissaFor_selected k t

theorem inexact_mantissas (ts : List (Bool × ℕ × ℤ)) (k : ℤ) :
    (∃ j, j < (ts.map tripleRat).length ∧ ((ts.map (mantissaFor k)).getD j 0 : ℚ) ≠ (ts.map tripleRat).getD j 0 * 2 ^ (15 - k))
      ↔ ts.any (inexactFor k) = true := by
  rw [List.any_eq_true]
  simp only [inexactFor_iff, List.length_map]
  constructor
  · rintro ⟨j, hj, h⟩
    refine ⟨ts[j], List.getElem_mem hj, ?_⟩
    simpa [List.getD_eq_getElem?_getD, List.getElem?_eq_getElem hj] using h
  · rintro ⟨t, ht, h⟩
    obtain ⟨j, hj, rfl⟩ := List.getElem_of_mem ht
    refine ⟨j, hj, ?_⟩
    simpa [List.getD_eq_getElem?_getD, List.getElem?_eq_getElem hj] using h

/-- R235: the exponent before the mantissas are formed. -/
def startExp (v : Bool × ℕ × ℤ) (l : List (Bool × ℕ × ℤ)) : ℤ :=
  max (l.foldl (fun a w => max a ((Nat.log2 w.2.1 : ℤ) + w.2.2)) ((Nat.log2 v.2.1 : ℤ) + v.2.2) + 1) (-127)

/-- R235: the exponent after a mantissa that rounds past the end. -/
def blockExp (ts : List (Bool × ℕ × ℤ)) (k : ℤ) : ℤ := if (ts.map (mantissaFor k)).any (· == 32768) then k + 1 else k

theorem bfpConvert_special {vs : List FVal} {bad : Bool} (h : bad = true ∨ vs.any isNanV = true ∨ vs.any (fun v => match v with | .inf _ => true | _ => false) = true) :
    bfpConvert vs bad = (0x80, vs.map (fun _ => (0 : ℤ)), fIf (vs.any isNanV) fNV ||| fIf (vs.any (fun v => match v with | .inf _ => true | _ => false)) fOF) := by
  unfold bfpConvert
  exact if_pos h

theorem bfpConvert_finite (ts : List (Bool × ℕ × ℤ)) : bfpConvert (ts.map tripleVal) false = match ts.filter (fun v => v.2.1 != 0) with
    | [] => (0, (ts.map tripleVal).map (fun _ => 0), 0)
    | v :: l =>
      let k := blockExp ts (startExp v l)
      if 127 < k then (0x80, (ts.map tripleVal).map (fun _ => 0), fOF ||| fIf (ts.any (inexactFor k)) fNX)
      else ((k % 256).toNat, ts.map (mantissaFor k), fIf (ts.any (inexactFor k)) fNX ||| fIf (ts.any (inexactFor k) && k == -127) fUF) := by
  have hfins : ∀ F : FVal → Option (Bool × ℕ × ℤ), (∀ t, F (tripleVal t) = some t) → (ts.map tripleVal).filterMap F = ts := fun F hF => by
    rw [List.filterMap_map, show F ∘ tripleVal = some from funext hF, List.filterMap_some]
  unfold bfpConvert
  dsimp only
  rw [hfins _ fun _ => rfl, if_neg (by simp [tripleVal, isNanV])]
  generalize List.filter _ ts = nz
  rcases nz with _ | ⟨v, l⟩
  · rfl
  dsimp only
  simp only [show max (l.foldl (fun a w => max a ((Nat.log2 w.2.1 : ℤ) + w.2.2)) ((Nat.log2 v.2.1 : ℤ) + v.2.2) + 1) (-127) = startExp v l from rfl,
    bfpFrom_eq]
  unfold blockExp
  split <;> rfl

theorem exists_triples {vs : List FVal} (h : ∀ v ∈ vs, ∃ n m e, v = .fin n m e) : ∃ ts : List (Bool × ℕ × ℤ), vs = ts.map tripleVal := by
  induction vs with
  | nil => exact ⟨[], rfl⟩
  | cons v vs ih =>
    obtain ⟨n, m, e, rfl⟩ := h v (by simp)
    obtain ⟨ts, rfl⟩ := ih fun v hv => h v (by simp [hv])
    exact ⟨(n, m, e) :: ts, rfl⟩

theorem tripleRat_eq_zero {t : Bool × ℕ × ℤ} : tripleRat t = 0 ↔ t.2.1 = 0 := finRat_eq_zero

/-- R235: the exponent at which the mantissas are first formed bounds the values, and is the least that does, from -127 on. -/
theorem startExp_bounds {ts l : List (Bool × ℕ × ℤ)} {v : Bool × ℕ × ℤ} (hnz : ts.filter (fun v => v.2.1 != 0) = v :: l) :
    (∀ q ∈ ts.map tripleRat, |q| < 2 ^ startExp v l) ∧ -127 ≤ startExp v l
      ∧ (-127 < startExp v l → ∃ q ∈ ts.map tripleRat, 2 ^ (startExp v l - 1) ≤ |q|) := by
  have hmem : ∀ t, t ∈ v :: l ↔ t ∈ ts ∧ t.2.1 ≠ 0 := fun t => by rw [← hnz, List.mem_filter, bne_iff_ne]
  obtain ⟨hall, t, ht, htop⟩ := foldl_max_leadExp v l
  have hmono : ∀ {a b : ℤ}, a ≤ b → (2 : ℚ) ^ a ≤ 2 ^ b := fun h => zpow_le_zpow_right₀ one_le_two h
  unfold startExp
  refine ⟨List.forall_mem_map.mpr fun s hs => ?_, le_max_right _ _, fun hlt => ⟨tripleRat t, List.mem_map_of_mem ((hmem t).mp ht).1, ?_⟩⟩
  · by_cases h0 : s.2.1 = 0
    · rw [tripleRat_eq_zero.mpr h0, abs_zero]
      positivity
    · refine (leadExp_bounds h0).2.trans_le (hmono (le_max_of_le_left ?_))
      have := hall s ((hmem s).mpr ⟨hs, h0⟩)
      omega
  · refine (hmono ?_).trans (leadExp_bounds ((hmem t).mp ht).2).1
    rw [htop]
    omega

/-- R235: the model converts a block of finite values. -/
theorem bfpConvert_finite_block (ts : List (Bool × ℕ × ℤ)) :
    BfpBlock ((ts.map tripleVal).map numberVal) false (bfpConvert (ts.map tripleVal) false).1 (bfpConvert (ts.map tripleVal) false).2.1
      (bfpConvert (ts.map tripleVal) false).2.2 := by
  have hspecial : ¬ (false = true ∨ ∃ n ∈ (ts.map tripleVal).map numberVal, ∀ v s, n ≠ .finite v s) := by
    rintro (h | ⟨n, hn, h⟩)
    · cases h
    · rw [List.map_map] at hn
      obtain ⟨t, -, rfl⟩ := List.mem_map.mp hn
      exact h _ _ rfl
  have hvs : ∀ F : Number → ℚ, (∀ v s, F (.finite v s) = v) → ((ts.map tripleVal).map numberVal).map F = ts.map tripleRat := fun F hF => by
    simp only [List.map_map]
    exact List.map_congr_left fun t _ => hF _ _
  have hzeros : ((ts.map tripleVal).map fun _ => (0 : ℤ)) = ((ts.map tripleVal).map numberVal).map fun _ => 0 := by
    simp only [List.map_map]
    rfl
  rw [bfpConvert_finite]
  unfold BfpBlock
  dsimp only
  rw [hvs _ fun _ _ => rfl]
  refine ⟨fun h => absurd h hspecial, fun _ hzero => ?_, fun _ hne => ?_⟩
  · have hnil : ts.filter (fun v => v.2.1 != 0) = [] := by
      simp only [List.mem_map, forall_exists_index, and_imp, forall_apply_eq_imp_iff₂, tripleRat_eq_zero] at hzero
      simpa [List.filter_eq_nil_iff] using hzero
    rw [hnil]
    exact ⟨rfl, hzeros, rfl⟩
  · obtain ⟨q, hq, hq0⟩ := hne
    obtain ⟨t, ht, rfl⟩ := List.mem_map.mp hq
    have htf : t ∈ ts.filter (fun v => v.2.1 != 0) := by simpa [List.mem_filter] using ⟨ht, mt tripleRat_eq_zero.mpr hq0⟩
    cases hnz : ts.filter (fun v => v.2.1 != 0) with
    | nil => simp [hnz] at htf
    | cons v l =>
      obtain ⟨hall, hmin, hleast⟩ := startExp_bounds hnz
      have hblock : blockExp ts (startExp v l) = if 32768 ∈ ts.map (mantissaFor (startExp v l)) then startExp v l + 1 else startExp v l := by
        unfold blockExp
        simp only [List.any_eq_true, beq_iff_eq, exists_eq_right]
      refine ⟨startExp v l, blockExp ts (startExp v l), _, _, hall, hmin, hleast, rounded_mantissas ts _, hblock, rounded_mantissas ts _, fun hk => ?_, fun hk => ?_⟩
      · dsimp only
        rw [if_pos hk]
        exact ⟨rfl, hzeros, by
          cases ts.any _
          · show (fOF ||| fIf false fNX).getLsbD 2 = true
            decide
          · show (fOF ||| fIf true fNX).getLsbD 2 = true
            decide⟩
      · dsimp only
        rw [if_neg (not_lt.mpr hk), inexact_mantissas]
        refine ⟨rfl, rfl, fun h => ?_, fun h => ?_⟩
        · rw [h]
          by_cases h127 : blockExp ts (startExp v l) = -127 <;> simp [h127, fIf]
        · rw [Bool.not_eq_true] at h
          show fIf (ts.any _) fNX ||| fIf (ts.any _ && _) fUF = 0
          rw [h]
          show fIf false fNX ||| fIf false fUF = 0
          decide

/-- R235: the model converts a block of values. -/
theorem bfpConvert_bfpBlock (vs : List FVal) (bad : Bool) :
    BfpBlock (vs.map numberVal) bad (bfpConvert vs bad).1 (bfpConvert vs bad).2.1 (bfpConvert vs bad).2.2 := by
  by_cases hs : bad = true ∨ vs.any isNanV = true ∨ vs.any (fun v => match v with | .inf _ => true | _ => false) = true
  · have hspecial : bad = true ∨ ∃ n ∈ vs.map numberVal, ∀ v s, n ≠ .finite v s := by
      simp only [List.any_eq_true] at hs
      rcases hs with h | ⟨v, hv, h⟩ | ⟨v, hv, h⟩
      · exact .inl h
      all_goals
        refine .inr ⟨_, List.mem_map_of_mem hv, ?_⟩
        cases v <;> simp_all [isNanV, numberVal]
    have hnan : (∃ s, Number.nan s ∈ vs.map numberVal) ↔ vs.any isNanV = true := by
      simp only [List.any_eq_true, isNanV_iff, List.mem_map]
      exact ⟨fun ⟨s, v, hv, h⟩ => ⟨v, hv, s, h⟩, fun ⟨v, hv, s, h⟩ => ⟨s, v, hv, h⟩⟩
    have hinf : (∃ s, Number.infinity s ∈ vs.map numberVal) ↔ vs.any (fun v => match v with | .inf _ => true | _ => false) = true := by
      simp only [List.any_eq_true, List.mem_map]
      constructor
      · rintro ⟨s, v, hv, h⟩
        exact ⟨v, hv, by cases v <;> simp_all [numberVal]⟩
      · rintro ⟨v, hv, h⟩
        rcases v with s | s | ⟨n, m, e⟩
        · simp at h
        · exact ⟨s, _, hv, rfl⟩
        · simp at h
    rw [bfpConvert_special hs]
    refine ⟨fun _ => ⟨rfl, by rw [List.map_map]; rfl, ?_⟩, fun h => absurd hspecial h, fun h => absurd hspecial h⟩
    unfold fIf
    simp only [hnan, hinf]
  · simp only [not_or, Bool.not_eq_true, List.any_eq_false] at hs
    obtain ⟨rfl, hnan, hinf⟩ := hs
    obtain ⟨ts, rfl⟩ := exists_triples (vs := vs) fun v hv => by
      have h1 := hnan v hv
      have h2 := hinf v hv
      rcases v with s | s | ⟨n, m, e⟩
      · simp [isNanV] at h1
      · simp at h2
      · exact ⟨n, m, e, rfl⟩
    exact bfpConvert_finite_block ts

end Sys2Proof.Machine

namespace Sys2Proof
open Machine

/-- Settles O37: the model sums groups over their window and adds them in order; the folds by an order keep an extreme code;
a block of bfp16 is formed at the exponent that bounds its values. -/
theorem floatFolds : Obligations.FloatFolds := by
  unfold Obligations.FloatFolds
  refine ⟨fun vt sr vl es hl _ hlen hes => ?_, fun vt bad es hl hes => ?_⟩
  · obtain ⟨-, hrm, -⟩ := vtLegal_fmt hl
    refine ⟨fun hcls => ?_, fun hcls => ?_⟩
    · refine ⟨by simpa only [elementGroups, List.map_map, Function.comp_def] using foldOut_add_f (vl := vl) (es := es) sr hcls hrm, fun kind up hkind => ?_, foldOut_amax_f sr hcls⟩
      subst hkind
      exact foldOut_extreme_f sr hcls (fun p hp => (hes p hp).2) up
    · refine ⟨foldOut_add_l sr hcls hlen, fun kind up hkind => ?_, foldOut_amax_l sr hcls⟩
      subst hkind
      exact foldOut_extreme_l sr hcls up
  · have hmap : es.map (fun p => elementNumber vt p.1 p.2) = (es.map fun p => cvtSource vt p.1 p.2).map numberVal := by
      rw [List.map_map]
      exact List.map_congr_left fun p hp => (numberVal_cvtSource hl (hes p hp).1 (hes p hp).2).symm
    dsimp only
    rw [hmap]
    exact bfpConvert_bfpBlock _ bad

end Sys2Proof
end

section
/-!
PROOFS. The accesses of near-memory engines (R455, R460).
-/

set_option Elab.async false

namespace Sys2Proof.Machine

/-! ## Bytes at places as numbers -/

theorem numberAt_succ (s : State) (ps : ℕ → ℕ) (o k : ℕ) : numberAt s ps o (k + 1) = (readByte s (ps o)).toNat + 256 * numberAt s ps (o + 1) k := by
  unfold numberAt
  rw [List.range_succ_eq_map, List.foldr_cons, List.foldr_map]
  exact congrArg (fun f => (readByte s (ps o)).toNat + 256 * (List.range k).foldr f 0) (funext fun j => funext fun v => by
    rw [show o + Nat.succ j = o + 1 + j by omega])

theorem numberAt_add (s : State) (ps : ℕ → ℕ) (o j k : ℕ) : numberAt s ps o (j + k) = numberAt s ps o j + 256 ^ j * numberAt s ps (o + j) k := by
  induction j generalizing o with
  | zero => simp [numberAt]
  | succ j ih =>
    rw [show j + 1 + k = j + k + 1 by omega, numberAt_succ, numberAt_succ, ih, show o + 1 + j = o + (j + 1) by omega]
    ring

theorem numberAt_lt (s : State) (ps : ℕ → ℕ) (o k : ℕ) : numberAt s ps o k < 256 ^ k := by
  induction k generalizing o with
  | zero => simp [numberAt]
  | succ k ih =>
    rw [numberAt_succ, pow_succ]
    have := ih (o + 1)
    have := (readByte s (ps o)).isLt
    omega

theorem numberAt_eq_readMem {s : State} {ps : ℕ → ℕ} {o k pa : ℕ} (h : ∀ j, j < k → ps (o + j) = pa + j) : numberAt s ps o k = readMem s pa k := by
  induction k generalizing o pa with
  | zero => rfl
  | succ k ih =>
    have h0 : ps o = pa := h 0 (by omega)
    rw [numberAt_succ, h0, ih (pa := pa + 1) fun j hj => by rw [show o + 1 + j = o + (j + 1) by omega, h _ (by omega)]; omega]
    rfl

theorem numberAt_field {s : State} {ps : ℕ → ℕ} {o k n : ℕ} (h : o + k ≤ n) : numberAt s ps 0 n / 256 ^ o % 256 ^ k = numberAt s ps o k := by
  obtain ⟨r, rfl⟩ := Nat.exists_eq_add_of_le h
  rw [show o + k + r = o + (k + r) by omega, numberAt_add, Nat.zero_add, Nat.add_mul_div_left _ _ (by positivity),
    Nat.div_eq_of_lt (numberAt_lt s ps 0 o), Nat.zero_add, numberAt_add, Nat.add_mul_mod_self_left, Nat.mod_eq_of_lt (numberAt_lt s ps o k)]

theorem numberAt_congr {s t : State} (h : ∀ a, readByte t a = readByte s a) (ps : ℕ → ℕ) (o k : ℕ) : numberAt t ps o k = numberAt s ps o k := by
  simp only [numberAt, h]

/-! ## Bytes of one line -/

theorem walkFrom_page (s : State) {va va' : ℕ} (h : va / 4096 = va' / 4096) (lvl tbl : ℕ) : walkFrom s va lvl tbl = walkFrom s va' lvl tbl := by
  have haddr : ∀ tbl lvl, pteAddr tbl va lvl = pteAddr tbl va' lvl := fun tbl lvl => by
    unfold pteAddr
    rw [pow_add, show 2 ^ 12 = 4096 by norm_num, ← Nat.div_div_eq_div_mul, ← Nat.div_div_eq_div_mul, h]
  induction lvl generalizing tbl with
  | zero => simp only [walkFrom, haddr]
  | succ lvl ih => simp only [walkFrom, haddr, ih]

theorem walk_page (s : State) (die : ℕ) (asid : BitVec 16) {va va' : ℕ} (h : va / 4096 = va' / 4096) : walk s die asid va = walk s die asid va' := by
  unfold walk
  split
  · rfl
  · exact walkFrom_page s h _ _

theorem physOf_add {p : Word} {va j : ℕ} (h : va % 64 + j < 64) : physOf p (va + j) = physOf p va + j := by
  have hdvd : 64 ∣ pageBytes p := ⟨64 * 4 ^ pteSize p, by unfold pageBytes; ring⟩
  obtain ⟨m, hm⟩ := hdvd
  have hpos : 0 < m := by
    have : 0 < pageBytes p := by unfold pageBytes; positivity
    rw [hm] at this
    exact Nat.pos_of_mul_pos_left this
  unfold physOf
  have key : ∀ x, x % (64 * m) = x % 64 + 64 * (x / 64 % m) := fun x => Nat.mod_mul
  rw [hm, key, key, show (va + j) / 64 = va / 64 by omega, show (va + j) % 64 = va % 64 + j by omega]
  omega

theorem translate_ok {s : State} {w : Who} {rd wr : Bool} {ea : ℕ} {p : Word} {pa : ℕ} (h : translate s w rd wr 1 ea = .ok (p, pa)) :
    ea < 2 ^ 57 ∧ leafOf s w.tlbs w.die w.iss.asid ea = some p ∧ pa = physOf p ea := by
  unfold translate at h
  split at h
  · cases h
  next h57 =>
  split at h
  · cases h
  split at h
  · cases h
  next q hq =>
  have hpa : p = q ∧ pa = physOf q ea := by
    split at h
    · cases h
    · split at h
      · cases h; exact ⟨rfl, rfl⟩
      · split at h
        · cases h
        · cases h; exact ⟨rfl, rfl⟩
  obtain ⟨rfl, rfl⟩ := hpa
  exact ⟨not_le.mp h57, hq, rfl⟩

theorem poisoned_line (s : State) {pa n : ℕ} (hn : 0 < n) (h : pa % 64 + n ≤ 64) : poisoned s pa n = poisoned s pa 1 := by
  unfold poisoned
  congr 1
  funext g
  rw [← Bool.decide_and, ← Bool.decide_and, decide_eq_decide]
  omega

/-! ## Accesses of engines (R460) -/

/-- R276: a page that an access finds is neither copied nor refused. -/
theorem nmResolve_reaches {s u : State} {w : Who} {rd wr : Bool} {ea p : Word} {pa : ℕ} (h : Reaches s w rd wr 1 ea p pa)
    (hu : translate u w rd wr 1 ea.toNat = translate s w rd wr 1 ea.toNat) : nmResolve w rd wr ea u = .ok (p, pa, noteTried w ea u) := by
  obtain ⟨htr, hmc, hpsn, howned⟩ := h
  unfold nmResolve
  rw [hu, htr]
  dsimp only
  rw [if_neg (by simp [hmc]), if_neg (fun h => by simp [(howned h.1).1] at h), if_neg (by simp [hpsn])]

/-- R460: an access that reaches its bytes goes through, whatever earlier accesses have noted. -/
theorem nmAccess_reaches {s u : State} {w : Who} {place : Place → Bool} {rd wr : Bool} {n : ℕ} {ea p : Word} {pa : ℕ}
    (h : NearReaches s w place rd wr n ea p pa) (hu : sansNotes u = sansNotes s) : nmAccess w place rd wr ea n u = .ok (p, pa, noteTried w ea u) := by
  obtain ⟨hfound, hplace, hdev, hstill, hchk, hclean, -⟩ := h
  have hout : nmOutside w place rd wr ea u = false := by
    unfold nmOutside
    rw [translate_notes hu, hfound.leaf]
    simp [hdev, hplace]
  have hbusy : (wr && decide (ea.toNat < 2 ^ 57) && copyBusy u w.die w.iss.asid ea.toNat) = false := by
    cases wr with
    | false => simp
    | true => rw [copyBusy_notes hu, hstill rfl, Bool.and_false]
  have hnotes : sansNotes (noteTried w ea u) = sansNotes s := (noteTried_sansNotes w ea u).trans hu
  have hpoison : ¬ (rd = true ∧ poisoned (noteTried w ea u) pa n = true) := fun ⟨hr, hp⟩ => by
    rw [show poisoned (noteTried w ea u) pa n = poisoned s pa n from (congrArg (fun u => poisoned u pa n) hnotes :), hclean hr] at hp
    cases hp
  unfold nmAccess
  rw [hout, if_neg Bool.false_ne_true, hbusy, if_neg Bool.false_ne_true, nmResolve_reaches hfound (translate_notes hu ..)]
  dsimp only
  rw [if_neg (by simp [racing, hchk]), if_neg hpoison]

/-! ## Sources (R451) -/

section
variable {s : State} {w : Who} {ea : Word} {n : ℕ} {ps : ℕ → ℕ} (htlb : w.tlbs = []) (h : NearSource s w ea n ps)
include htlb h

omit htlb h in
theorem same_page {a j k : ℕ} (h : a % 64 + k ≤ 64) (hj : j < k) : (a + j) / 4096 = a / 4096 := by omega

/-- R455: the bytes of one line of a source lie in order at one place, and one access reaches them. -/
theorem NearSource.line {o k : ℕ} (hk : 0 < k) (hn : o + k ≤ n) (hline : (ea + BitVec.ofNat 64 o).toNat % 64 + k ≤ 64) :
    (∃ p, NearReaches s w inStack true false k (ea + BitVec.ofNat 64 o) p (ps o)) ∧ ∀ j, j < k → ps (o + j) = ps o + j := by
  obtain ⟨p, hp⟩ := h o (by omega)
  obtain ⟨h57, hleaf, hpa⟩ := translate_ok hp.found.leaf
  have hmod : ∀ j, j < k → physOf p ((ea + BitVec.ofNat 64 o).toNat + j) = ps o + j := fun j hj => by
    rw [hpa, physOf_add (by omega)]
  have hphys : ∀ q m, (ps o = physOf q m) → m % 64 = physOf q m % 64 := fun q m _ => by
    have hdvd : 64 ∣ pageBytes q := ⟨64 * 4 ^ pteSize q, by unfold pageBytes; ring⟩
    unfold physOf ptePa
    rw [Nat.add_mod, Nat.mod_mod_of_dvd _ hdvd]
    omega
  have hwithin : ps o % 64 + k ≤ 64 := by
    rw [hpa, ← hphys p _ hpa]
    exact hline
  refine ⟨⟨p, hp.found, hp.place, hp.normal, hp.still, hp.unchecked, fun hr => ?_, hwithin⟩, fun j hj => ?_⟩
  · rw [poisoned_line s hk hwithin]
    exact hp.clean hr
  · obtain ⟨q, hq⟩ := h (o + j) (by omega)
    obtain ⟨-, hleaf', hpa'⟩ := translate_ok hq.found.leaf
    have hea : (ea + BitVec.ofNat 64 (o + j)).toNat = (ea + BitVec.ofNat 64 o).toNat + j := by
      rw [show ea + BitVec.ofNat 64 (o + j) = ea + BitVec.ofNat 64 o + BitVec.ofNat 64 j by rw [BitVec.ofNat_add, BitVec.add_assoc],
        BitVec.toNat_add, BitVec.toNat_ofNat]
      omega
    rw [hea] at hleaf' hpa'
    have hsame : leafOf s w.tlbs w.die w.iss.asid ((ea + BitVec.ofNat 64 o).toNat + j) = leafOf s w.tlbs w.die w.iss.asid (ea + BitVec.ofNat 64 o).toNat := by
      rw [htlb]
      simp only [leafOf, List.find?_nil]
      rw [walk_page s _ _ (same_page hline hj)]
    obtain rfl : q = p := Option.some.inj (hleaf'.symm.trans (hsame.trans hleaf))
    rw [hpa', hmod j hj]

omit htlb h in
theorem min_lines (n m : ℕ) : min n (64 * (m + 1)) = min n (64 * m) + min 64 (n - 64 * m) := by omega

omit htlb h in
theorem min_whole_lines {n m : ℕ} (h : m + 1 ≤ (n + 63) / 64) : min n (64 * m) = 64 * m := by omega

omit htlb h in
theorem min_line_within {a n m : ℕ} (h : a % 64 + min 64 n ≤ 64) : a % 64 + min 64 (n - 64 * m) ≤ 64 := by omega

/-- R451: the engine reads a source that it reaches. -/
theorem nmSource_reaches {u : State} (hu : sansNotes u = sansNotes s) (hal : ea.toNat % 64 + min 64 n ≤ 64) :
    ∃ t, nmSource w ea n u = .ok (numberAt s ps 0 n, t) ∧ sansNotes t = sansNotes s := by
  have hpre : ∀ m, m ≤ (n + 63) / 64 → ∃ t, (List.range m).foldl (fun r i => match r with
      | .error c => .error c
      | .ok (v, s) => match nmAccess w inStack true false (ea + BitVec.ofNat 64 (64 * i)) (min 64 (n - 64 * i)) s with
        | .error c => .error c
        | .ok (_, pa, s) => .ok (v + 256 ^ (64 * i) * readMem s pa (min 64 (n - 64 * i)), s)) (.ok (0, u) : Except (BitVec 8) (ℕ × State))
      = .ok (numberAt s ps 0 (min n (64 * m)), t) ∧ sansNotes t = sansNotes s := by
    intro m
    induction m with
    | zero => exact fun _ => ⟨u, by simp [numberAt], hu⟩
    | succ m ih =>
      intro hm
      obtain ⟨t, ht, hnotes⟩ := ih (by omega)
      have haddr : (ea + BitVec.ofNat 64 (64 * m)).toNat % 64 = ea.toNat % 64 := by
        rw [BitVec.toNat_add, BitVec.toNat_ofNat]
        omega
      obtain ⟨⟨p, hp⟩, hplaces⟩ := h.line htlb (o := 64 * m) (k := min 64 (n - 64 * m)) (by omega) (by omega) (by rw [haddr]; exact min_line_within hal)
      refine ⟨noteTried w (ea + BitVec.ofNat 64 (64 * m)) t, ?_, (noteTried_sansNotes _ _ _).trans hnotes⟩
      rw [List.range_succ, List.foldl_append, ht, List.foldl_cons, List.foldl_nil]
      dsimp only
      rw [nmAccess_reaches hp hnotes]
      dsimp only
      rw [readMem_notes ((noteTried_sansNotes w (ea + BitVec.ofNat 64 (64 * m)) t).trans hnotes), ← numberAt_eq_readMem hplaces,
        min_lines, numberAt_add, min_whole_lines hm, Nat.zero_add]
  obtain ⟨t, ht, hnotes⟩ := hpre _ (le_refl _)
  refine ⟨t, ?_, hnotes⟩
  rw [show min n (64 * ((n + 63) / 64)) = n by omega] at ht
  exact ht

end

end Sys2Proof.Machine
end

section
/-!
PROOFS. The elements of near-memory commands (R455).
-/

set_option Elab.async false

namespace Sys2Proof.Machine

/-! ## Fields of a number -/

theorem joinFields_field (w : ℕ) (l : List ℕ) (j : ℕ) (hj : j < l.length) : joinFields w l / 2 ^ (w * j) % 2 ^ w = l[j] % 2 ^ w := by
  induction l generalizing j with
  | nil => simp at hj
  | cons a l ih =>
    rw [joinFields]
    cases j with
    | zero => simp
    | succ j =>
      rw [Nat.mul_succ, Nat.add_comm (w * j), pow_add, ← Nat.div_div_eq_div_mul, Nat.add_mul_div_left _ _ (by positivity),
        Nat.div_eq_of_lt (Nat.mod_lt _ (by positivity)), Nat.zero_add]
      exact ih j (by simpa using hj)

theorem joinFields_lt (w : ℕ) (l : List ℕ) : joinFields w l < 2 ^ (w * l.length) := by
  induction l with
  | nil => simp [joinFields]
  | cons a l ih =>
    rw [joinFields, List.length_cons, Nat.mul_succ, Nat.add_comm (w * l.length), pow_add]
    have := Nat.mod_lt a (show 0 < 2 ^ w by positivity)
    nlinarith [Nat.two_pow_pos w]

theorem foldl_flags_bit {α : Type} (F : α → Flags7) (l : List α) (f : Flags7) (b : ℕ) :
    (l.foldl (fun f a => f ||| F a) f).getLsbD b = true ↔ f.getLsbD b = true ∨ ∃ a ∈ l, (F a).getLsbD b = true := by
  induction l generalizing f with
  | nil => simp
  | cons a l ih => simp [ih, or_assoc]

theorem zipMap_map {α β γ : Type} (F : α → β → γ) (g : ℕ → α) (h : ℕ → β) (l : List ℕ) :
    zipMap F (l.map g) (l.map h) = l.map fun j => F (g j) (h j) := by
  induction l with
  | nil => rfl
  | cons a l ih => exact congrArg _ ih

theorem joinFlagged_field (w n : ℕ) (F : ℕ → ℕ × Flags7) {j : ℕ} (hj : j < n) :
    (joinFlagged w ((List.range n).map F)).1 / 2 ^ (w * j) % 2 ^ w = (F j).1 % 2 ^ w := by
  rw [joinFlagged, joinFields_field _ _ _ (by simpa using hj)]
  simp

theorem joinFlagged_lt (w n : ℕ) (F : ℕ → ℕ × Flags7) : (joinFlagged w ((List.range n).map F)).1 < 2 ^ (w * n) := by
  simpa [joinFlagged] using joinFields_lt w (((List.range n).map F).map (·.1))

theorem joinFlagged_flags (w n : ℕ) (F : ℕ → ℕ × Flags7) :
    flagsOf (fun j => j < n) (fun j => (F j).2) (joinFlagged w ((List.range n).map F)).2 := by
  intro b _
  simp [joinFlagged, foldl_flags_bit]

/-! ## Codes of results -/

theorem elemVal_float {f : ℕ} (hf : f ≤ 7) (b : ℕ) : elemVal f b = floatVal f b := by
  unfold elemVal
  rw [if_neg (by simp [fmtIsInt]; omega), if_neg (by omega), if_neg (by omega)]

theorem floatVal_low (b : ℕ) : floatVal 0 (b % 2 ^ 32) = floatVal 0 b := by
  have hexp : b % 2 ^ 32 / 2 ^ 23 % 2 ^ 8 = b / 2 ^ 23 % 2 ^ 8 := by omega
  have hman : b % 2 ^ 32 % 2 ^ 23 = b % 2 ^ 23 := by omega
  have hsign : (b % 2 ^ 32).testBit (8 + 23) = b.testBit (8 + 23) := by rw [Nat.testBit_mod_two_pow]; simp
  unfold floatVal
  rw [show fmtShape 0 = (8, 23, 127) from rfl]
  dsimp only
  rw [hexp, hman, hsign]

theorem numberOf_low (b : ℕ) : numberOf 0 (b % 2 ^ 32) = numberVal (floatVal 0 b) := by
  rw [← numberVal_floatVal (by omega), floatVal_low]

/-- R80, R94: rounding gives a code of the width of the format. -/
theorem rndTo_lt {f : ℕ} (hf : f ≤ 4) (rm sr : ℕ) (x : FVal) : (rndTo f rm sr x).1 < 2 ^ fmtBits f := by
  rcases x with s | n | ⟨n, m, e⟩
  · interval_cases f <;> exact of_decide_eq_true rfl
  · interval_cases f <;> cases n <;> exact of_decide_eq_true rfl
  · unfold rndTo
    dsimp only
    rw [if_neg (by interval_cases f <;> decide), if_neg (by omega)]
    obtain ⟨s, d, h, hd⟩ := rndFloat_code f rm sr n m e
    have hmax := fmtMax_lt (f := f) (by omega)
    have hinf : fmtInf f < 2 ^ (fmtBits f - 1) := by interval_cases f <;> decide
    have hs : signCode f s ≤ 2 ^ (fmtBits f - 1) := by cases s <;> simp [signCode]
    have hbits : 2 ^ fmtBits f = 2 ^ (fmtBits f - 1) + 2 ^ (fmtBits f - 1) := by interval_cases f <;> decide
    rw [h]
    rcases hd with hd | ⟨-, rfl⟩ <;> omega

theorem cvtCode_converted {src dst : ℕ} (hs : src ≤ 7) (hd : dst ≤ 7) (b : ℕ) :
    Converted dst 0 0 (numberOf src b) (cvtCode src dst RNE 0 b).1 (cvtCode src dst RNE 0 b).2.1 (cvtCode src dst RNE 0 b).2.2 := by
  have h := rndTo_converted (rm := 0) 0 (show dst ≤ 18 by omega) (by omega) (by omega) (elemVal src b)
  rw [elemVal_float hs, numberVal_floatVal hs, ← elemVal_float hs] at h
  exact h

/-! ## Elements (R455) -/

theorem nmRound_gives {f : ℕ} {x : Exact} {signals : Bool} {p : FVal × Flags7} (h : Comes x signals p) (hf : f ≤ 2) :
    Gives f 0 0 x signals (nmRound f p).1 (nmRound f p).2 := h.gives hf (by omega) 0

theorem nmRound_lt {f : ℕ} (hf : f ≤ 2) (p : FVal × Flags7) : (nmRound f p).1 < 2 ^ fmtBits f := rndTo_lt (by omega) _ _ _

theorem nmRound_quiet (p : FVal × Flags7) : isSig (floatVal 0 (nmRound 0 p).1) = false := (rndTo_quiet (by omega) _ _ _).1

theorem nmFma_gives {f : ℕ} (hf : f ≤ 2) (a x y : FVal) :
    Gives f 0 0 (fusedExact (numberVal a) (numberVal x) (numberVal y)) (isSig a || isSig x || isSig y) (nmFma f a x y).1 (nmFma f a x y).2 :=
  nmRound_gives (comes_fused (g := id) (h := id) (fun _ => rfl) (fun _ => rfl) (fun _ => rfl) 0 a x y) hf

/-- R455: the model computes an element of `nm.sgdf`, `nm.axpy` or `nm.scale`. -/
theorem nmElem_nearElement {c : NmCmd} (hf : nmFmt c ≤ 2) (hop : c.op ≤ 2) (y x : ℕ) :
    NearElement c y x (nmElem c y x).1 (nmElem c y x).2 ∧ (nmElem c y x).1 < 2 ^ fmtBits (nmFmt c) := by
  have hnum : ∀ v, numberOf (bitsOf c.a1.toNat 28 24) v = numberVal (elemVal (nmFmt c) v) := fun v => by
    rw [elemVal_float (by omega), numberVal_floatVal (by omega)]; rfl
  unfold NearElement nmElem
  dsimp only
  simp only [hnum, numberOf_low, floatVal_low, signals_numberVal]
  generalize c.op = op at hop
  interval_cases op
  · refine ⟨⟨_, _, _, nmRound_gives (comes_mulVal _ _) (by omega), ?_, rfl⟩, nmRound_lt hf _⟩
    rw [← numberVal_negVal, ← isSig_negVal (floatVal 0 (nmRound 0 _).1)]
    exact nmFma_gives hf _ _ _
  · show Gives _ _ _ _ _ _ _ ∧ _
    exact ⟨nmFma_gives hf _ _ _, nmRound_lt hf _⟩
  · show Gives _ _ _ _ _ _ _ ∧ _
    exact ⟨nmRound_gives (comes_mulVal _ _) hf, nmRound_lt hf _⟩

end Sys2Proof.Machine
end

section
/-!
PROOFS. Granules of near-memory commands (R451, R455).
-/

set_option Elab.async false

namespace Sys2Proof.Machine

/-! ## One step of an engine at work (R451) -/

theorem exec_nmCommandStart (d : ℕ) (s : State) : exec (.nmCommandStart d) s = execNmCommandStart d s := by rfl

theorem nm_setNm (s : State) (d : ℕ) (v : Nm) : nm (setNm s d v) d = v := tabGet_set_self _ _ _ _

theorem mem_setInsert (k a : ℕ) (l : List ℕ) : a ∈ setInsert k l ↔ a = k ∨ a ∈ l := by
  induction l with
  | nil => simp [setInsert]
  | cons b l ih =>
    unfold setInsert
    split
    · simp
    · split
      · next h => subst h; simp
      · rw [List.mem_cons, ih, List.mem_cons]
        tauto

theorem mem_foldl_setInsert (ls l : List ℕ) (a : ℕ) : a ∈ ls.foldl (fun a l => setInsert l a) l ↔ a ∈ ls ∨ a ∈ l := by
  induction ls generalizing l with
  | nil => simp
  | cons b ls ih =>
    rw [List.foldl_cons, ih, mem_setInsert, List.mem_cons]
    tauto

/-- R451: the engine of a die performs a granule of its command `c`, raising flags and writing lines. -/
def NmGoes (s : State) (d : ℕ) (c : NmCmd) (fl : Flags7) (lines : ℕ → Prop) (done coef : ℕ) (q : State → Prop) : Prop :=
  ∃ t wrote, exec (.nmCommandStart d) s = .next t ∧ (∀ l, l ∈ wrote ↔ lines l ∨ l ∈ c.wrote)
    ∧ (nm t d).active = some { c with gran := c.gran + 1, flags := c.flags ||| fl, wrote := wrote, done := done, coef := coef } ∧ q t

section
variable {s : State} {d : ℕ} {c : NmCmd} (hact : (nm s d).active = some c) (hstop : c.stop = none) (hgran : c.gran < nmGrans c)
include hact hstop hgran

theorem exec_goOn : exec (.nmCommandStart d) s = .next (nmGoOn d c s) := by
  rw [exec_nmCommandStart]
  unfold execNmCommandStart
  dsimp only
  rw [hact]
  have hend : nmEnded c = false := by
    unfold nmEnded
    rw [hstop, decide_eq_false (not_le.mpr hgran)]
    rfl
  dsimp only
  rw [hend, if_neg Bool.false_ne_true]

/-- R451: a granule other than the last of `nm.sumsq`. -/
theorem nmGoes_of_granule {fl : Flags7} {ls : List ℕ} {coef : ℕ} {t : State} (hstep : nmGranule d c s = .ok ({ nmDid c fl ls with coef := coef }, t))
    (hlast : ¬ (c.op = 3 ∧ c.gran + 1 = nmGrans c)) {q : State → Prop} (hq : ∀ v, q (setNm t d v)) {lines : ℕ → Prop} (hlines : ∀ l, lines l ↔ l ∈ ls) :
    NmGoes s d c fl lines (c.done + nmGranBytes c) coef q := by
  refine ⟨nmGoOn d c s, ls.foldl (fun a l => setInsert l a) c.wrote, exec_goOn hact hstop hgran, fun l => by rw [mem_foldl_setInsert, hlines], ?_⟩
  have hgo : nmGoOn d c s = setNm t d { nm t d with active := some { nmDid c fl ls with coef := coef, gran := c.gran + 1, done := c.done + nmGranBytes c } } := by
    unfold nmGoOn
    rw [hstep]
    dsimp only
    rw [if_neg hlast]
  rw [hgo, nm_setNm]
  exact ⟨rfl, hq _⟩

end

/-! ## Checked operands (R454) -/

theorem nmCheck_none {c : NmCmd} (h : nmCheck c = none) : nmFmtOk c.op (nmFmt c) = true ∧ (c.op = 4 → nmFmtOk 4 (nmDfmt c) = true)
    ∧ c.a.toNat % 64 = 0 ∧ (nmSecond c ≠ 0 → c.b.toNat % nmSecond c = 0) := by
  unfold nmCheck at h
  obtain ⟨-, h⟩ | ⟨h1, h⟩ := ite_eq_iff.mp h
  · cases h
  obtain ⟨-, h⟩ | ⟨h2, -⟩ := ite_eq_iff.mp h
  · cases h
  rw [not_or, not_or, not_or, not_or, not_or] at h1
  obtain ⟨-, -, -, hfmt, hdst, -⟩ := h1
  rw [not_or, not_and, not_not, not_not] at h2
  exact ⟨by simpa using hfmt, fun h4 => by simpa [h4] using hdst, h2⟩

theorem add_granules_mod {a : Word} {k n : ℕ} (hk : k ∣ 64) (ha : a.toNat % k = 0) (hn : n % k = 0) : (a + BitVec.ofNat 64 n).toNat % k = 0 := by
  have h64 : k ∣ 2 ^ 64 := hk.trans ⟨2 ^ 58, by norm_num⟩
  rw [BitVec.toNat_add, BitVec.toNat_ofNat, Nat.mod_mod_of_dvd _ h64, Nat.add_mod, Nat.mod_mod_of_dvd _ h64, ha, hn, Nat.zero_mod]

/-- R454: the source of a granule lies in one line, or fills lines. -/
theorem nmSource_aligned {c : NmCmd} (h : nmCheck c = none) (hop : c.op = 0 ∨ c.op = 1 ∨ c.op = 4 ∨ c.op = 6) :
    (c.b + BitVec.ofNat 64 (nmSrcStep c * c.gran)).toNat % 64 + min 64 (nmSrcStep c) ≤ 64 := by
  obtain ⟨hfmt, hdst, -, hb⟩ := nmCheck_none h
  have hstep : nmSecond c = min 64 (nmSrcStep c) ∧ min 64 (nmSrcStep c) ∣ 64 ∧ min 64 (nmSrcStep c) ∣ nmSrcStep c ∧ min 64 (nmSrcStep c) ≠ 0 := by
    by_cases h4 : c.op = 4
    · rw [h4] at hfmt
      have hd := hdst h4
      simp only [nmFmtOk, decide_eq_true_eq] at hfmt hd
      unfold nmSecond nmSrcStep
      rw [h4, if_pos rfl]
      generalize nmFmt c = f at hfmt
      generalize nmDfmt c = g at hd
      interval_cases f <;> interval_cases g <;> decide
    · unfold nmSecond nmSrcStep
      rw [if_neg h4]
      rcases hop with e | e | e | e
      · rw [e]; exact of_decide_eq_true rfl
      · rw [e]; exact of_decide_eq_true rfl
      · exact absurd e h4
      · rw [e]; exact of_decide_eq_true rfl
  obtain ⟨hsec, hdvd, hmul, hpos⟩ := hstep
  have hmod := add_granules_mod hdvd (by rw [← hsec]; exact hb (by rw [hsec]; exact hpos))
    (Nat.mod_eq_zero_of_dvd (hmul.mul_right c.gran) : nmSrcStep c * c.gran % min 64 (nmSrcStep c) = 0)
  obtain ⟨m, hm⟩ := hdvd
  obtain ⟨e, he⟩ := Nat.dvd_of_mod_eq_zero hmod
  generalize min 64 (nmSrcStep c) = k at hm he hpos
  rw [he, hm, Nat.mul_mod_mul_left]
  have : e % m < m := Nat.mod_lt _ (Nat.pos_of_ne_zero fun h0 => by rw [h0] at hm; omega)
  nlinarith

/-! ## Bytes written (R458) -/

theorem nmWrite_eq {w : Who} {p : Word} (hchk : pteChk p = false) (pa n v : ℕ) (s : State) : nmWrite w p pa n v s = storeMem (leaveStale (pa / 64) s) pa n v := by
  unfold nmWrite tagLines
  rw [hchk, if_neg Bool.false_ne_true]

/-- R458: what an engine's write leaves, once its command is put back. -/
theorem storedBytes_nmWrite {s t : State} (ht : sansNotes t = sansNotes s) {w : Who} {p : Word} (hchk : pteChk p = false) (pa n v d : ℕ) (u : Nm) :
    storedBytes s (setNm (nmWrite w p pa n v t) d u) pa n v := by
  rw [nmWrite_eq hchk]
  refine ⟨readMem_storeMem_self (leaveStale (pa / 64) t) pa n v, fun a ha => ?_⟩
  exact (readByte_storeMem_out (leaveStale (pa / 64) t) pa n v a ha).trans (congrArg (fun u => readByte u a) ht :)

/-! ## Commands that rewrite their granule (R455) -/

/-- R455: a granule of `nm.sgdf`, `nm.axpy`, `nm.scale`, `nm.cast` or `nm.fill`. -/
theorem nmGranule_rewrites {s : State} {d : ℕ} {c : NmCmd} (hop : c.op ≤ 2 ∨ c.op = 4 ∨ c.op = 5) (hcheck : nmCheck c = none) {p : Word} {pa : ℕ} {ps : ℕ → ℕ}
    (hdst : NearReaches s (nmWho d c) inStack (decide (c.op ≤ 2)) true 64 (c.a + BitVec.ofNat 64 (64 * c.gran)) p pa)
    (hsrc : c.op = 0 ∨ c.op = 1 ∨ c.op = 4 → NearSource s (nmWho d c) (c.b + BitVec.ofNat 64 (nmSrcStep c * c.gran)) (nmSrcStep c) ps) :
    ∃ t src, (c.op = 0 ∨ c.op = 1 ∨ c.op = 4 → src = numberAt s ps 0 (nmSrcStep c)) ∧ sansNotes t = sansNotes s
      ∧ nmGranule d c s = .ok (nmDid c (nmResult c (readMem s pa 64) src).2 [pa / 64], nmWrite (nmWho d c) p pa 64 (nmResult c (readMem s pa 64) src).1 t) := by
  have hread : ∃ t src, (c.op = 0 ∨ c.op = 1 ∨ c.op = 4 → src = numberAt s ps 0 (nmSrcStep c)) ∧ sansNotes t = sansNotes s
      ∧ (if c.op = 0 ∨ c.op = 1 ∨ c.op = 4 then nmSource (nmWho d c) (c.b + BitVec.ofNat 64 (nmSrcStep c * c.gran)) (nmSrcStep c)
          (noteTried (nmWho d c) (c.a + BitVec.ofNat 64 (64 * c.gran)) s) else .ok (0, noteTried (nmWho d c) (c.a + BitVec.ofNat 64 (64 * c.gran)) s)) = .ok (src, t) := by
    by_cases h : c.op = 0 ∨ c.op = 1 ∨ c.op = 4
    · obtain ⟨t, ht, hn⟩ := nmSource_reaches rfl (hsrc h) (noteTried_sansNotes (nmWho d c) (c.a + BitVec.ofNat 64 (64 * c.gran)) s)
        (nmSource_aligned hcheck (by tauto))
      exact ⟨t, _, fun _ => rfl, hn, by rw [if_pos h]; exact ht⟩
    · exact ⟨_, 0, fun h' => absurd h' h, noteTried_sansNotes _ _ _, if_neg h⟩
  obtain ⟨t, src, hval, hn, hread⟩ := hread
  have hn' := (noteTried_sansNotes (nmWho d c) (c.a + BitVec.ofNat 64 (64 * c.gran)) t).trans hn
  refine ⟨_, src, hval, hn', ?_⟩
  unfold nmGranule
  dsimp only
  split
  · omega
  · omega
  · rw [nmAccess_reaches hdst rfl]
    dsimp only
    rw [hread]
    dsimp only
    rw [nmAccess_reaches hdst hn]
    dsimp only
    rw [readMem_notes hn']

end Sys2Proof.Machine
end

section
/-!
PROOFS. What a granule that is rewritten holds (R455).
-/

set_option Elab.async false

namespace Sys2Proof.Machine

theorem numberAt_bits {s : State} {ps : ℕ → ℕ} {w j n : ℕ} (hw : 8 ∣ w) (h : w / 8 * j + w / 8 ≤ n) :
    numberAt s ps 0 n / 2 ^ (w * j) % 2 ^ w = numberAt s ps (w / 8 * j) (w / 8) := by
  obtain ⟨b, rfl⟩ := hw
  rw [Nat.mul_div_cancel_left _ (by norm_num)] at h ⊢
  rw [← numberAt_field h, show (256 : ℕ) = 2 ^ 8 by norm_num, ← pow_mul, ← pow_mul, Nat.mul_assoc]

theorem nmDid_coef (c : NmCmd) (fl : Flags7) (ls : List ℕ) : nmDid c fl ls = { nmDid c fl ls with coef := c.coef } := rfl

/-- R455: `nm.scale` reads no source. -/
theorem nearElement_scale {c : NmCmd} (h : c.op = 2) {y x x' r : ℕ} {fl : Flags7} (hx : NearElement c y x r fl) : NearElement c y x' r fl := by
  unfold NearElement at hx ⊢
  rw [h] at hx ⊢
  exact hx

theorem nmFmt_le {c : NmCmd} (h : nmCheck c = none) (hop : c.op ≤ 3) : nmFmt c ≤ 1 := by
  obtain ⟨hfmt, -⟩ := nmCheck_none h
  unfold nmFmtOk at hfmt
  split at hfmt
  · omega
  · omega
  · omega
  · simpa using hfmt

/-! ## The bytes of a granule (R455) -/

theorem nmResult_elements {c : NmCmd} (hop : c.op ≤ 2) (old src : ℕ) : nmResult c old src
    = joinFlagged (fmtBits (nmFmt c)) ((List.range (512 / fmtBits (nmFmt c))).map fun j =>
        nmElem c (old / 2 ^ (fmtBits (nmFmt c) * j) % 2 ^ fmtBits (nmFmt c)) (src / 2 ^ (fmtBits (nmFmt c) * j) % 2 ^ fmtBits (nmFmt c))) := by
  unfold nmResult fieldsOf
  dsimp only
  split
  · omega
  · omega
  · rw [zipMap_map]

theorem nmResult_cast {c : NmCmd} (hop : c.op = 4) (old src : ℕ) : nmResult c old src
    = joinFlagged (fmtBits (nmDfmt c)) ((List.range (512 / fmtBits (nmDfmt c))).map fun j =>
        ((cvtCode (nmFmt c) (nmDfmt c) RNE 0 (src / 2 ^ (fmtBits (nmFmt c) * j) % 2 ^ fmtBits (nmFmt c))).1,
          (cvtCode (nmFmt c) (nmDfmt c) RNE 0 (src / 2 ^ (fmtBits (nmFmt c) * j) % 2 ^ fmtBits (nmFmt c))).2.1)) := by
  unfold nmResult cvtBytes fieldsOf
  rw [hop]
  dsimp only
  rw [List.map_map]
  rfl

section
variable {c : NmCmd} {s : State} {ps : ℕ → ℕ} (hcheck : nmCheck c = none) (old src : ℕ)
include hcheck

/-- R455: the elements of `nm.sgdf`, `nm.axpy` and `nm.scale`. -/
theorem nmResult_near (hop : c.op ≤ 2) (hsrc : c.op ≤ 1 → src = numberAt s ps 0 64) :
    let wd := fmtBits (nmFmt c)
    ∃ g : ℕ → Flags7, flagsOf (fun j => j < 512 / wd) g (nmResult c old src).2 ∧ ∀ j, j < 512 / wd →
      NearElement c (old / 2 ^ (wd * j) % 2 ^ wd) (numberAt s ps (wd / 8 * j) (wd / 8)) ((nmResult c old src).1 / 2 ^ (wd * j) % 2 ^ wd) (g j) := by
  have hf := nmFmt_le hcheck (by omega)
  dsimp only
  rw [nmResult_elements hop]
  refine ⟨_, joinFlagged_flags _ _ _, fun j hj => ?_⟩
  rw [joinFlagged_field _ _ _ hj]
  obtain ⟨hel, hlt⟩ := nmElem_nearElement (c := c) (by omega) hop (old / 2 ^ (fmtBits (nmFmt c) * j) % 2 ^ fmtBits (nmFmt c))
    (src / 2 ^ (fmtBits (nmFmt c) * j) % 2 ^ fmtBits (nmFmt c))
  rw [Nat.mod_eq_of_lt hlt]
  by_cases h1 : c.op ≤ 1
  · have hfield : src / 2 ^ (fmtBits (nmFmt c) * j) % 2 ^ fmtBits (nmFmt c) = numberAt s ps (fmtBits (nmFmt c) / 8 * j) (fmtBits (nmFmt c) / 8) := by
      rw [hsrc h1]
      generalize nmFmt c = f at hf hj
      have hbits : fmtBits f = 32 ∨ fmtBits f = 16 := by interval_cases f <;> decide
      refine numberAt_bits ?_ ?_ <;> rcases hbits with h | h <;> rw [h] at hj ⊢ <;> omega
    rw [hfield] at hel ⊢
    exact hel
  · exact nearElement_scale (by omega) hel

/-- R455: the elements of `nm.cast`. -/
theorem nmResult_converted (hop : c.op = 4) (hsrc : src = numberAt s ps 0 (nmSrcStep c)) :
    let f := nmFmt c
    let wd := fmtBits f
    let wt := fmtBits (nmDfmt c)
    ∃ g : ℕ → Flags7, flagsOf (fun j => j < 512 / wt) g (nmResult c old src).2 ∧ ∀ j, j < 512 / wt → ∃ lost,
      Converted (nmDfmt c) 0 0 (numberOf f (numberAt s ps (wd / 8 * j) (wd / 8))) ((nmResult c old src).1 / 2 ^ (wt * j) % 2 ^ wt) (g j) lost := by
  obtain ⟨hfmt, hdst, -⟩ := nmCheck_none hcheck
  have hd := hdst hop
  rw [hop] at hfmt
  simp only [nmFmtOk, decide_eq_true_eq] at hfmt hd
  dsimp only
  rw [nmResult_cast hop]
  refine ⟨_, joinFlagged_flags _ _ _, fun j hj => ?_⟩
  have hfield : src / 2 ^ (fmtBits (nmFmt c) * j) % 2 ^ fmtBits (nmFmt c) = numberAt s ps (fmtBits (nmFmt c) / 8 * j) (fmtBits (nmFmt c) / 8) := by
    rw [hsrc, nmSrcStep, if_pos hop]
    generalize nmFmt c = f at hfmt
    generalize nmDfmt c = g at hd hj
    obtain ⟨hdvd, hle⟩ : 8 ∣ fmtBits f ∧ fmtBits f / 8 * j + fmtBits f / 8 ≤ 64 * fmtBits f / fmtBits g := by
      interval_cases f <;> interval_cases g <;> simp only [fmtBits] at hj ⊢ <;> omega
    exact numberAt_bits hdvd hle
  have hlt : ∀ b, (cvtCode (nmFmt c) (nmDfmt c) RNE 0 b).1 < 2 ^ fmtBits (nmDfmt c) := fun b => rndTo_lt hd _ _ _
  rw [joinFlagged_field _ _ _ hj, hfield, Nat.mod_eq_of_lt (hlt _)]
  exact ⟨_, cvtCode_converted (by omega) (by omega) _⟩

omit hcheck in
/-- R455: the pattern of `nm.fill`. -/
theorem nmResult_fill (hop : c.op = 5) : (nmResult c old src).2 = 0 ∧ ∀ j, j < 8 → (nmResult c old src).1 / 2 ^ (64 * j) % 2 ^ 64 = c.b1.toNat := by
  have h : nmResult c old src = (joinFields 64 (List.replicate 8 c.b1.toNat), 0) := by
    unfold nmResult
    rw [hop]
    rfl
  rw [h]
  refine ⟨rfl, fun j hj => ?_⟩
  rw [joinFields_field _ _ _ (by simpa using hj), List.getElem_replicate, Nat.mod_eq_of_lt c.b1.isLt]

end

section
variable {s : State} {d : ℕ} {c : NmCmd} (hact : (nm s d).active = some c) (hstop : c.stop = none) (hgran : c.gran < nmGrans c) (hcheck : nmCheck c = none)
include hact hstop hgran hcheck

omit hact hstop hgran hcheck in
/-- R451: a command that rewrites its destination does so by 64 bytes. -/
theorem nmGranBytes_rewrites (hop : c.op ≤ 2 ∨ c.op = 4 ∨ c.op = 5) : nmGranBytes c = 64 := by
  unfold nmGranBytes
  split
  · omega
  · omega
  · rfl

omit hact hstop hgran hcheck in
theorem not_scatadd (hop : c.op ≤ 2 ∨ c.op = 4 ∨ c.op = 5) : ¬ (c.op = 3 ∧ c.gran + 1 = nmGrans c) := fun h => by omega

/-- R451, R455: one granule of a command that rewrites its destination. -/
theorem rewrites_spec (hop : c.op ≤ 2 ∨ c.op = 4 ∨ c.op = 5) {p : Word} {pa : ℕ} {ps : ℕ → ℕ}
    (hdst : NearReaches s (nmWho d c) inStack (decide (c.op ≤ 2)) true 64 (c.a + BitVec.ofNat 64 (64 * c.gran)) p pa)
    (hsrc : c.op ≤ 1 → NearSource s (nmWho d c) (c.b + BitVec.ofNat 64 (64 * c.gran)) 64 ps)
    (hcast : c.op = 4 → NearSource s (nmWho d c) (c.b + BitVec.ofNat 64 (nmSrcStep c * c.gran)) (nmSrcStep c) ps) :
    let f := nmFmt c
    let wd := fmtBits f
    ∃ fl v, NmGoes s d c fl (fun l => l = pa / 64) (c.done + 64) c.coef (fun t => storedBytes s t pa 64 v)
      ∧ (c.op ≤ 2 → ∃ g : ℕ → Flags7, flagsOf (fun j => j < 512 / wd) g fl ∧ ∀ j, j < 512 / wd →
          NearElement c (readMem s pa 64 / 2 ^ (wd * j) % 2 ^ wd) (numberAt s ps (wd / 8 * j) (wd / 8)) (v / 2 ^ (wd * j) % 2 ^ wd) (g j))
      ∧ (c.op = 4 → let df := bitsOf c.a1.toNat 36 32
          let wt := fmtBits df
          ∃ g : ℕ → Flags7, flagsOf (fun j => j < 512 / wt) g fl ∧ ∀ j, j < 512 / wt → ∃ lost,
            Converted df 0 0 (numberOf f (numberAt s ps (wd / 8 * j) (wd / 8))) (v / 2 ^ (wt * j) % 2 ^ wt) (g j) lost)
      ∧ (c.op = 5 → fl = 0 ∧ ∀ j, j < 8 → v / 2 ^ (64 * j) % 2 ^ 64 = c.b1.toNat) := by
  have hstep : c.op ≤ 1 → nmSrcStep c = 64 := fun h => by unfold nmSrcStep; rw [if_neg (by omega)]
  have hsrc' : c.op = 0 ∨ c.op = 1 ∨ c.op = 4 → NearSource s (nmWho d c) (c.b + BitVec.ofNat 64 (nmSrcStep c * c.gran)) (nmSrcStep c) ps := fun h => by
    by_cases h1 : c.op ≤ 1
    · rw [hstep h1]; exact hsrc h1
    · exact hcast (by omega)
  obtain ⟨t, src, hval, hn, hgo⟩ := nmGranule_rewrites hop hcheck hdst hsrc'
  refine ⟨(nmResult c (readMem s pa 64) src).2, (nmResult c (readMem s pa 64) src).1, ?_, fun h => ?_, fun h => ?_, nmResult_fill _ _⟩
  · rw [nmDid_coef] at hgo
    have h := nmGoes_of_granule hact hstop hgran hgo (not_scatadd hop) (q := fun t => storedBytes s t pa 64 _)
      (fun v => storedBytes_nmWrite hn hdst.unchecked _ _ _ _ _) (lines := fun l => l = pa / 64) (by simp)
    rwa [nmGranBytes_rewrites hop] at h
  · exact nmResult_near hcheck _ _ h fun h1 => by rw [hval (by omega), hstep h1]
  · have hdf : nmDfmt c = bitsOf c.a1.toNat 36 32 := by unfold nmDfmt; rw [if_neg (by omega)]
    rw [← hdf]
    exact nmResult_converted hcheck _ _ h (hval (by omega))

end

end Sys2Proof.Machine
end

section
/-!
PROOFS. The sums of squares of `nm.sumsq` (R455).
-/

set_option Elab.async false

namespace Sys2Proof.Machine

/-! ## Bytes that meet nothing but memory -/

theorem foldl_fixed_mem {α β : Type} {F : β → α → β} {l : List α} (h : ∀ a ∈ l, ∀ b, F b a = b) (b : β) : l.foldl F b = b := by
  induction l with
  | nil => rfl
  | cons a l ih =>
    rw [List.foldl_cons, h a (by simp)]
    exact ih fun a ha => h a (by simp [ha])

theorem barriers_apart {s : State} {pa n : ℕ} (h : ∀ b ∈ s.barriers, pa + n ≤ b ∨ b + 16 ≤ pa) :
    ∀ b ∈ s.barriers, (decide (pa < b + 16) && decide (b < pa + n)) = false := fun b hb => by
  have := h b hb
  rw [← Bool.decide_and, decide_eq_false]
  omega

theorem barrierRefuses_apart {s : State} {pa n lo hi : ℕ} (h : ∀ b ∈ s.barriers, pa + n ≤ b ∨ b + 16 ≤ pa) : barrierRefuses s pa n lo hi = false := by
  unfold barrierRefuses partOfBarrier
  rw [Bool.or_eq_false_iff, List.any_eq_false, List.any_eq_false]
  exact ⟨fun b hb => by simp [barriers_apart h b hb], fun b hb => by simp [barriers_apart h b hb]⟩

theorem storeBank_apart {s : State} {pa n : ℕ} (v : ℕ) (hb : ∀ b ∈ s.barriers, pa + n ≤ b ∨ b + 16 ≤ pa)
    (hq : ∀ e ∈ declared s, pa + n ≤ e.2.qdr + 24 ∨ e.2.qdr + 64 ≤ pa)
    (hg : ∀ e ∈ declared s, ∀ g va, e.2.gdesc = some (g, va) → pa + n ≤ g + 8 ∨ g + 12 ≤ pa) : storeBank pa n v s = storeMem s pa n v := by
  have hnone : s.barriers.filter (fun b => decide (pa < b + 16) && decide (b < pa + n)) = [] :=
    List.filter_eq_nil_iff.mpr fun b hmem => by simp [barriers_apart hb b hmem]
  unfold storeBank
  dsimp only
  rw [hnone]
  show iqProtect s pa n (storeMem s pa n v) = storeMem s pa n v
  unfold iqProtect
  refine foldl_fixed_mem (fun e he t => ?_) _
  have hq := hq e he
  have hg := hg e he
  dsimp only
  rw [if_neg (by omega)]
  rcases hgd : e.2.gdesc with _ | ⟨g, va⟩
  · rfl
  · have := hg g va hgd
    dsimp only
    rw [if_neg (by omega)]

/-! ## Squares (R99, R455) -/

/-- R455: the square of an element. -/
def squareOf (f x : ℕ) : FVal × Flags7 := mulVal (elemVal f x) (elemVal f x)

theorem square_standsFor {f : ℕ} (hf : f ≤ 7) (x : ℕ) : StandsFor (productOf (numberOf f x) (numberOf f x)) (squareOf f x).1 := by
  rw [squareOf, ← numberVal_floatVal hf, ← elemVal_float hf]
  rcases mulVal_cases (elemVal f x) (elemVal f x) with ⟨h, e⟩ | ⟨s, h, e⟩ | ⟨p, h, e, -⟩ <;> rw [h, e]
  · exact .inl rfl
  · exact .inr ⟨s, rfl⟩
  · exact standsFor_numberVal p

/-- R99: a product that raises a flag is a NaN, which makes its group raise it. -/
theorem square_flags {f x : ℕ} {l : List ℕ} (hx : x ∈ l) (w acc : ℕ) :
    (addGroups [l.map fun x => (squareOf f x).1] w acc).2 ||| (squareOf f x).2 = (addGroups [l.map fun x => (squareOf f x).1] w acc).2 := by
  have hnan : isNanV (squareOf f x).1 = true → (groupSum (l.map fun x => (squareOf f x).1) w).2 = fNV := fun h => by
    rw [groupSum_eq, if_pos (.inl (List.any_eq_true.mpr ⟨_, List.mem_map_of_mem hx, h⟩))]
  have habsorb : ∀ a b : Flags7, fNV ||| a ||| b ||| fNV = fNV ||| a ||| b := fun a b => by
    rw [BitVec.or_comm, ← BitVec.or_assoc, ← BitVec.or_assoc, BitVec.or_self]
  rw [addGroups_cons]
  dsimp only
  rw [squareOf] at hnan ⊢
  rcases mulVal_cases (elemVal f x) (elemVal f x) with ⟨-, e⟩ | ⟨s, -, e⟩ | ⟨p, -, e, -⟩ <;> rw [e] at hnan ⊢
  · rw [hnan rfl]
    exact habsorb _ _
  · rw [hnan rfl]
    cases isSig (elemVal f x) || isSig (elemVal f x)
    · exact BitVec.or_zero
    · exact habsorb _ _
  · exact BitVec.or_zero

/-- R455: the codes whose squares make a group: those of the granule, after those that a first granule of two has left. -/
def squaredCodes (c : NmCmd) (v : ℕ) : List ℕ :=
  (if nmFmt c = 0 ∧ c.gran % 2 = 1 then fieldsOf 32 16 (c.coef / 2 ^ 32) else []) ++ fieldsOf (fmtBits (nmFmt c)) (512 / fmtBits (nmFmt c)) v

theorem nmSumStep_keeps {c : NmCmd} (v : ℕ) (hf : nmFmt c = 0) (hg : c.gran % 2 = 0) (hl : c.gran + 1 ≠ nmGrans c) :
    nmSumStep c v = (c.coef % 2 ^ 32 + 2 ^ 32 * v, 0) := by
  unfold nmSumStep
  dsimp only
  rw [if_pos (by simp [hf, hg, hl]), Nat.mul_comm v]

theorem nmSumStep_sums {c : NmCmd} (v : ℕ) (h : nmFmt c = 1 ∨ c.gran % 2 = 1 ∨ c.gran + 1 = nmGrans c) :
    nmSumStep c v = addGroups [(squaredCodes c v).map fun x => (squareOf (nmFmt c) x).1] 64 (c.coef % 2 ^ 32) := by
  have hcodes : (if decide (nmFmt c = 0) && decide (c.gran % 2 = 1) then nmSquares c (c.coef / 2 ^ 32) ++ nmSquares c v else nmSquares c v)
      = (squaredCodes c v).map (squareOf (nmFmt c)) := by
    unfold squaredCodes nmSquares
    by_cases hw : nmFmt c = 0 ∧ c.gran % 2 = 1
    · rw [if_pos (by simpa using hw), if_pos hw, List.map_append, hw.1]
      rfl
    · rw [if_neg (by simpa using hw), if_neg hw]
      rfl
  unfold nmSumStep
  dsimp only
  rw [if_neg (by simp; omega), hcodes]
  simp only [List.map_map, List.foldl_map]
  refine Prod.ext rfl ?_
  dsimp only
  have hfix : ∀ l : List ℕ, (∀ x ∈ l, x ∈ squaredCodes c v) →
      l.foldl (fun f x => f ||| (squareOf (nmFmt c) x).2) (addGroups [(squaredCodes c v).map fun x => (squareOf (nmFmt c) x).1] 64 (c.coef % 2 ^ 32)).2
        = (addGroups [(squaredCodes c v).map fun x => (squareOf (nmFmt c) x).1] 64 (c.coef % 2 ^ 32)).2 := by
    intro l hl
    induction l with
    | nil => rfl
    | cons x l ih => rw [List.foldl_cons, square_flags (hl x (by simp)), ih fun y hy => hl y (by simp [hy])]
  exact hfix _ fun x hx => hx

end Sys2Proof.Machine
end

section
/-!
PROOFS. The granules of `nm.sumsq` (R455).
-/

set_option Elab.async false

namespace Sys2Proof.Machine

theorem fieldsOf_numberAt {s : State} {ps : ℕ → ℕ} {w n k : ℕ} (hw : 8 ∣ w) (h : w * n ≤ 8 * k) :
    fieldsOf w n (numberAt s ps 0 k) = (List.range n).map fun j => numberAt s ps (w / 8 * j) (w / 8) := by
  unfold fieldsOf
  refine List.map_congr_left fun j hj => numberAt_bits hw ?_
  obtain ⟨b, rfl⟩ := hw
  rw [Nat.mul_div_cancel_left _ (by norm_num)]
  have hj : j + 1 ≤ n := List.mem_range.mp hj
  have := Nat.mul_le_mul_left b hj
  have : b * n ≤ k := by rw [Nat.mul_assoc] at h; exact Nat.le_of_mul_le_mul_left h (by norm_num)
  nlinarith

section
variable {s : State} {d : ℕ} {c : NmCmd} (hact : (nm s d).active = some c) (hstop : c.stop = none) (hgran : c.gran < nmGrans c) (hcheck : nmCheck c = none)
  (hop : c.op = 3)
include hact hstop hgran hcheck hop

omit hact hstop hgran hcheck in
theorem nmGranule_squares {ps : ℕ → ℕ} (hcheck : nmCheck c = none) (hsrc : NearSource s (nmWho d c) (c.a + BitVec.ofNat 64 (64 * c.gran)) 64 ps) :
    ∃ t, nmGranule d c s = .ok ({ nmDid c (nmSumStep c (numberAt s ps 0 64)).2 [] with coef := (nmSumStep c (numberAt s ps 0 64)).1 }, t)
      ∧ sansNotes t = sansNotes s := by
  obtain ⟨-, -, ha, -⟩ := nmCheck_none hcheck
  have hal : (c.a + BitVec.ofNat 64 (64 * c.gran)).toNat % 64 = 0 := add_granules_mod (dvd_refl 64) ha (Nat.mul_mod_right 64 c.gran)
  obtain ⟨t, ht, hn⟩ := nmSource_reaches rfl hsrc rfl (by rw [hal]; decide)
  refine ⟨t, ?_, hn⟩
  unfold nmGranule
  rw [hop]
  dsimp only
  rw [ht]
  rfl

/-- R455: a granule of `nm.sumsq` that is not its last. -/
theorem squares_goes {ps : ℕ → ℕ} (hsrc : NearSource s (nmWho d c) (c.a + BitVec.ofNat 64 (64 * c.gran)) 64 ps) (hlast : ¬ c.gran + 1 = nmGrans c) :
    NmGoes s d c (nmSumStep c (numberAt s ps 0 64)).2 (fun _ => False) c.done (nmSumStep c (numberAt s ps 0 64)).1 (fun t => ∀ a, readByte t a = readByte s a) := by
  obtain ⟨t, ht, hn⟩ := nmGranule_squares hop hcheck hsrc
  have hbytes : nmGranBytes c = 0 := by unfold nmGranBytes; rw [hop]; rfl
  have h := nmGoes_of_granule hact hstop hgran ht (fun h => hlast h.2) (q := fun t => ∀ a, readByte t a = readByte s a)
    (fun v a => (congrArg (fun u => readByte u a) hn :)) (lines := fun _ => False) (by simp)
  rwa [hbytes] at h

/-- R455: the last granule of `nm.sumsq`. -/
theorem squares_ends {ps : ℕ → ℕ} (hsrc : NearSource s (nmWho d c) (c.a + BitVec.ofNat 64 (64 * c.gran)) 64 ps) (hlast : c.gran + 1 = nmGrans c) {p : Word} {pa : ℕ}
    (hdst : NearReaches s (nmWho d c) (· == .common (d % 32)) false true 4 c.b p pa) (hquiet : QuietBytes s pa 4) :
    NmGoes s d c (nmSumStep c (numberAt s ps 0 64)).2 (fun _ => False) 4 (nmSumStep c (numberAt s ps 0 64)).1
      (fun t => storedBytes s t pa 4 (nmSumStep c (numberAt s ps 0 64)).1) := by
  obtain ⟨t, ht, hn⟩ := nmGranule_squares hop hcheck hsrc
  generalize nmSumStep c (numberAt s ps 0 64) = r at ht ⊢
  have hn' : sansNotes (noteTried (nmWho d c) c.b t) = sansNotes s := (noteTried_sansNotes _ _ _).trans hn
  have hbar : (noteTried (nmWho d c) c.b t).barriers = s.barriers := (congrArg State.barriers hn' :)
  have hdecl : declared (noteTried (nmWho d c) c.b t) = declared s := (congrArg declared hn' :)
  have hwrite : nmSumWrite d c r.1 t = .ok (storeMem (noteTried (nmWho d c) c.b t) pa 4 r.1) := by
    unfold nmSumWrite
    dsimp only
    rw [nmAccess_reaches hdst hn]
    dsimp only
    rw [barrierRefuses_apart (by rw [hbar]; exact hquiet.barriers), if_neg Bool.false_ne_true,
      storeBank_apart r.1 (by rw [hbar]; exact hquiet.barriers) (by rw [hdecl]; exact hquiet.blocks) (by rw [hdecl]; exact hquiet.graphs)]
    unfold tagLines
    rw [hdst.unchecked, if_neg Bool.false_ne_true]
  have hgo : nmGoOn d c s = setNm (storeMem (noteTried (nmWho d c) c.b t) pa 4 r.1) d { nm (storeMem (noteTried (nmWho d c) c.b t) pa 4 r.1) d with
      active := some { nmDid c r.2 [] with coef := r.1, gran := c.gran + 1, done := 4 } } := by
    unfold nmGoOn
    rw [ht]
    dsimp only
    rw [if_pos ⟨hop, hlast⟩, hwrite]
  refine ⟨nmGoOn d c s, c.wrote, exec_goOn hact hstop hgran, by simp, ?_⟩
  rw [hgo, nm_setNm]
  exact ⟨rfl, readMem_storeMem_self _ pa 4 r.1, fun a ha =>
    (readByte_storeMem_out (noteTried (nmWho d c) c.b t) pa 4 r.1 a ha).trans (congrArg (fun u => readByte u a) hn' :)⟩

/-- R99, R451, R455: the granules of `nm.sumsq`. -/
theorem squares_spec {ps : ℕ → ℕ} (hsrc : NearSource s (nmWho d c) (c.a + BitVec.ofNat 64 (64 * c.gran)) 64 ps) :
    let f := nmFmt c
    let wd := fmtBits f
    let acc := c.coef % 2 ^ 32
    let last := c.gran + 1 = nmGrans c
    let squares := fun (l : List ℕ) => l.map (fun x => productOf (numberOf f x) (numberOf f x))
    let now := (List.range (512 / wd)).map (fun j => numberAt s ps (wd / 8 * j) (wd / 8))
    let before := if f = 0 ∧ c.gran % 2 = 1 then (List.range 16).map (fun j => c.coef / 2 ^ 32 / 2 ^ (32 * j) % 2 ^ 32) else []
    (f = 0 → c.gran % 2 = 0 → ¬ last → NmGoes s d c 0 (fun _ => False) c.done (acc + 2 ^ 32 * numberAt s ps 0 64) (fun t => ∀ a, readByte t a = readByte s a))
      ∧ ((f = 1 ∨ c.gran % 2 = 1 ∨ last) → ∃ sum fl, SummedGroups 64 [squares (before ++ now)] acc sum fl
        ∧ (¬ last → NmGoes s d c fl (fun _ => False) c.done sum (fun t => ∀ a, readByte t a = readByte s a))
        ∧ (last → ∀ p pa, NearReaches s (nmWho d c) (· == .common (d % 32)) false true 4 c.b p pa → QuietBytes s pa 4 → homeReached s (nmWho d c) pa →
          NmGoes s d c fl (fun _ => False) 4 sum (fun t => storedBytes s t pa 4 sum))) := by
  have hf := nmFmt_le hcheck (by omega)
  have hgoes := squares_goes hact hstop hgran hcheck hop hsrc
  have hends := fun hlast p pa => squares_ends hact hstop hgran hcheck hop hsrc hlast (p := p) (pa := pa)
  have hcodes : squaredCodes c (numberAt s ps 0 64)
      = (if nmFmt c = 0 ∧ c.gran % 2 = 1 then (List.range 16).map (fun j => c.coef / 2 ^ 32 / 2 ^ (32 * j) % 2 ^ 32) else [])
        ++ (List.range (512 / fmtBits (nmFmt c))).map fun j => numberAt s ps (fmtBits (nmFmt c) / 8 * j) (fmtBits (nmFmt c) / 8) := by
    unfold squaredCodes
    congr 1
    generalize nmFmt c = f at hf
    have hbits : fmtBits f = 32 ∨ fmtBits f = 16 := by interval_cases f <;> decide
    refine fieldsOf_numberAt ?_ ?_ <;> rcases hbits with h | h <;> rw [h] <;> decide
  dsimp only
  rw [← hcodes]
  refine ⟨fun h0 hg hl => ?_, fun h => ?_⟩
  · rw [nmSumStep_keeps _ h0 hg hl] at hgoes
    exact hgoes hl
  · rw [nmSumStep_sums _ h] at hgoes hends
    refine ⟨_, _, ?_, hgoes, fun hl p pa hp hq _ => hends hl p pa hp hq⟩
    have hsum := addGroups_summedGroups (p := fun x => productOf (numberOf (nmFmt c) x) (numberOf (nmFmt c) x)) (v := fun x => (squareOf (nmFmt c) x).1) 64
      [squaredCodes c (numberAt s ps 0 64)] (c.coef % 2 ^ 32) fun g _ x _ => square_standsFor (by omega) x
    exact hsum

end

end Sys2Proof.Machine
end

section
/-!
PROOFS. The records of `nm.scatadd` (R455).
-/

set_option Elab.async false

namespace Sys2Proof.Machine

/-! ## What an engine's write leaves as it was -/

/-- A state without what accesses note, and without the copies and the poison that a write of an engine may change. -/
def sansWrites (s : State) : State := { s with misses := [], checked := [], tags := [], llc := [], poison := [], latent := [] }

/-- All of a state but its bytes is as in another, where translation looks. -/
def onlyBytes (s u : State) : Prop := sansWrites u = sansWrites { s with mem := u.mem }

theorem onlyBytes_of_notes {s u : State} (h : sansNotes u = sansNotes s) : onlyBytes s u := by
  have hmem : u.mem = s.mem := (congrArg State.mem h :)
  rw [onlyBytes, hmem]
  exact (congrArg sansWrites h :)

theorem onlyBytes.noteTried {s u : State} (h : onlyBytes s u) (w : Who) (ea : Word) : onlyBytes s (noteTried w ea u) := by
  have hn := noteTried_sansNotes w ea u
  have hmem : (Machine.noteTried w ea u).mem = u.mem := (congrArg State.mem hn :)
  rw [onlyBytes, hmem, ← (show sansWrites u = sansWrites { s with mem := u.mem } from h)]
  exact (congrArg sansWrites hn :)

theorem onlyBytes.nmWrite {s u : State} (h : onlyBytes s u) {w : Who} {p : Word} (hchk : pteChk p = false) (pa n v : ℕ) :
    onlyBytes s (nmWrite w p pa n v u) := by
  rw [nmWrite_eq hchk]
  exact (congrArg (fun t => { t with mem := cellsWrite u.mem pa n v }) h :)

theorem onlyBytes.translate {s u : State} (h : onlyBytes s u) (w : Who) (rd wr : Bool) (n ea : ℕ) :
    translate u w rd wr n ea = translate { s with mem := u.mem } w rd wr n ea := (congrArg (fun t => Machine.translate t w rd wr n ea) h :)

/-! ## One record (R455) -/

theorem nmAddElem_lt (c : NmCmd) (y v : ℕ) : (nmAddElem c y v).1 < 2 ^ 32 := by
  unfold nmAddElem
  split
  · exact Nat.mod_lt _ (by positivity)
  · exact rndTo_lt (f := 0) (by omega) _ _ _

/-- R455: a record added to the element that it names, before the records that follow. -/
theorem scattered_cons {c : NmCmd} {a : ℕ × ℕ} {l : List (ℕ × ℕ)} {y r : ℕ} {fl : Flags7} (h : Scattered (nmFmt c) a.1 l (nmAddElem c y a.2).1 r fl) :
    Scattered (nmFmt c) a.1 (a :: l) y r ((nmAddElem c y a.2).2 ||| fl) := by
  unfold Scattered
  rw [if_pos rfl]
  unfold nmAddElem at h ⊢
  by_cases hf : nmFmt c = 12
  · rw [if_pos hf] at h ⊢
    rw [if_pos hf]
    simpa using h
  · rw [if_neg hf] at h ⊢
    rw [if_neg hf]
    refine ⟨_, _, _, ?_, h, rfl⟩
    have := (comes_addVal 0 (floatVal 0 y) (floatVal 0 a.2)).gives (f := 0) (rm := 0) (by omega) (by omega) 0
    rw [← signals_numberVal, ← signals_numberVal, numberVal_floatVal (by omega), numberVal_floatVal (by omega)] at this
    exact this

theorem scattered_skip {f i : ℕ} {a : ℕ × ℕ} {l : List (ℕ × ℕ)} {y r : ℕ} {fl : Flags7} (hi : a.1 ≠ i) (h : Scattered f i l y r fl) :
    Scattered f i (a :: l) y r fl := by
  unfold Scattered
  rw [if_neg hi]
  exact h

theorem exists_update_bit {named : ℕ → Prop} {i : ℕ} (hi : named i) (f : Flags7) (g : ℕ → Flags7) (b : ℕ) :
    (f.getLsbD b = true ∨ ∃ j, named j ∧ (g j).getLsbD b = true) ↔ ∃ j, named j ∧ (Function.update g i (f ||| g i) j).getLsbD b = true := by
  constructor
  · rintro (h | ⟨j, hj, h⟩)
    · exact ⟨i, hi, by rw [Function.update_self, BitVec.getLsbD_or, h, Bool.true_or]⟩
    · refine ⟨j, hj, ?_⟩
      by_cases hji : j = i
      · subst hji
        rw [Function.update_self, BitVec.getLsbD_or, h, Bool.or_true]
      · rwa [Function.update_of_ne hji]
  · rintro ⟨j, hj, h⟩
    by_cases hji : j = i
    · subst hji
      rw [Function.update_self, BitVec.getLsbD_or, Bool.or_eq_true] at h
      exact h.imp_right fun h => ⟨j, hj, h⟩
    · rw [Function.update_of_ne hji] at h
      exact .inr ⟨j, hj, h⟩

/-! ## The records of a granule (R455) -/

section
variable {s : State} {w : Who} {c : NmCmd} {named : ℕ → Prop} {el : ℕ → ℕ}
  (hapart : ∀ i j, named i → named j → i ≠ j → el i + 4 ≤ el j ∨ el j + 4 ≤ el i)
  (hreach : ∀ m : List Host.Cell, (∀ a, (∀ i, named i → a < el i ∨ el i + 4 ≤ a) → cellGet m a = readByte s a) →
    ∀ i, named i → ∃ p, NearReaches { s with mem := m } w inStack true true 4 (c.a + BitVec.ofNat 64 (4 * i)) p (el i))
include hreach

theorem nmScatCheck_reaches (l : List (ℕ × ℕ)) (hl : ∀ r ∈ l, named r.1) {u : State} (hu : sansNotes u = sansNotes s) :
    ∃ t, nmScatCheck w c.a l u = .ok t ∧ sansNotes t = sansNotes s := by
  induction l generalizing u with
  | nil => exact ⟨u, rfl, hu⟩
  | cons r l ih =>
    obtain ⟨p, hp⟩ := hreach s.mem (fun _ _ => rfl) r.1 (hl r (by simp))
    obtain ⟨t, ht, hn⟩ := ih (fun q hq => hl q (by simp [hq])) ((noteTried_sansNotes w (c.a + BitVec.ofNat 64 (4 * r.1)) u).trans hu)
    refine ⟨t, ?_, hn⟩
    rw [nmScatCheck, nmAccess_reaches (s := s) hp hu]
    exact ht

include hapart in
/-- R455: the records of a list applied in order, from a state whose bytes alone are others than at first. -/
theorem nmScatApply_spec (l : List (ℕ × ℕ)) (hl : ∀ r ∈ l, named r.1) (fl : Flags7) (ls : List ℕ) {u : State} (hu : onlyBytes s u)
    (hout : ∀ a, (∀ i, named i → a < el i ∨ el i + 4 ≤ a) → readByte u a = readByte s a) :
    ∃ g : ℕ → Flags7, (∀ b, (nmScatApply w c l (fl, ls, u)).1.getLsbD b = true ↔ fl.getLsbD b = true ∨ ∃ i, named i ∧ (g i).getLsbD b = true)
      ∧ (∀ k, k ∈ (nmScatApply w c l (fl, ls, u)).2.1 ↔ k ∈ ls ∨ ∃ r ∈ l, k = el r.1 / 64)
      ∧ (∀ i, named i → Scattered (nmFmt c) i l (readMem u (el i) 4) (readMem (nmScatApply w c l (fl, ls, u)).2.2 (el i) 4) (g i))
      ∧ ∀ a, (∀ i, named i → a < el i ∨ el i + 4 ≤ a) → readByte (nmScatApply w c l (fl, ls, u)).2.2 a = readByte s a := by
  induction l generalizing fl ls u with
  | nil => exact ⟨fun _ => 0, by simp [nmScatApply], by simp [nmScatApply], fun i _ => ⟨rfl, rfl⟩, hout⟩
  | cons r l ih =>
    have hr := hl r (by simp)
    obtain ⟨p, hp⟩ := hreach u.mem hout r.1 hr
    have hres := nmResolve_reaches hp.found (hu.translate w true true 1 _)
    have hnotes := noteTried_sansNotes w (c.a + BitVec.ofNat 64 (4 * r.1)) u
    have hread : ∀ a n, readMem (noteTried w (c.a + BitVec.ofNat 64 (4 * r.1)) u) a n = readMem u a n := fun a n => readMem_notes hnotes a n
    have happly : nmScatApply w c (r :: l) (fl, ls, u) = nmScatApply w c l (fl ||| (nmAddElem c (readMem u (el r.1) 4) r.2).2, setInsert (el r.1 / 64) ls,
        nmWrite w p (el r.1) 4 (nmAddElem c (readMem u (el r.1) 4) r.2).1 (noteTried w (c.a + BitVec.ofNat 64 (4 * r.1)) u)) := by
      rw [nmScatApply, hres]
      dsimp only
      rw [hread]
    have hbytes := (hu.noteTried w (c.a + BitVec.ofNat 64 (4 * r.1))).nmWrite (w := w) hp.unchecked (el r.1) 4 (nmAddElem c (readMem u (el r.1) 4) r.2).1
    have hself : readMem (nmWrite w p (el r.1) 4 (nmAddElem c (readMem u (el r.1) 4) r.2).1 (noteTried w (c.a + BitVec.ofNat 64 (4 * r.1)) u)) (el r.1) 4
        = (nmAddElem c (readMem u (el r.1) 4) r.2).1 := by
      rw [nmWrite_eq hp.unchecked, readMem_storeMem_self]
      exact Nat.mod_eq_of_lt (nmAddElem_lt c _ _)
    have hkeep : ∀ a, a < el r.1 ∨ el r.1 + 4 ≤ a → readByte (nmWrite w p (el r.1) 4 (nmAddElem c (readMem u (el r.1) 4) r.2).1
        (noteTried w (c.a + BitVec.ofNat 64 (4 * r.1)) u)) a = readByte u a := fun a ha => by
      rw [nmWrite_eq hp.unchecked]
      exact (readByte_storeMem_out (leaveStale (el r.1 / 64) (noteTried w (c.a + BitVec.ofNat 64 (4 * r.1)) u)) _ _ _ a ha).trans
        (congrArg (fun t => readByte t a) hnotes :)
    rw [happly]
    generalize nmWrite w p (el r.1) 4 (nmAddElem c (readMem u (el r.1) 4) r.2).1 (noteTried w (c.a + BitVec.ofNat 64 (4 * r.1)) u) = t at hbytes hself hkeep ⊢
    obtain ⟨g, hfl, hls, hsc, hfin⟩ := ih (fun q hq => hl q (by simp [hq])) (fl ||| (nmAddElem c (readMem u (el r.1) 4) r.2).2) (setInsert (el r.1 / 64) ls) hbytes
      fun a ha => (hkeep a (ha r.1 hr)).trans (hout a ha)
    refine ⟨Function.update g r.1 ((nmAddElem c (readMem u (el r.1) 4) r.2).2 ||| g r.1), fun b => ?_, fun k => ?_, fun i hi => ?_, hfin⟩
    · rw [hfl, BitVec.getLsbD_or, Bool.or_eq_true, or_assoc, exists_update_bit hr]
    · rw [hls, mem_setInsert, List.exists_mem_cons_iff]
      tauto
    · have h := hsc i hi
      by_cases hir : i = r.1
      · subst hir
        rw [hself] at h
        rw [Function.update_self]
        exact scattered_cons h
      · have hsame : readMem t (el i) 4 = readMem u (el i) 4 := cellsRead_congr _ _ _ _ fun k hk => hkeep _ (by
          have := hapart i r.1 hi hr hir
          omega)
        rw [hsame] at h
        rw [Function.update_of_ne hir]
        exact scattered_skip (Ne.symm hir) h

end

/-! ## A granule of records (R455) -/

section
variable {s : State} {d : ℕ} {c : NmCmd} (hact : (nm s d).active = some c) (hstop : c.stop = none) (hgran : c.gran < nmGrans c) (hcheck : nmCheck c = none)
  (hop : c.op = 6) {ps : ℕ → ℕ} (hsrc : NearSource s (nmWho d c) (c.b + BitVec.ofNat 64 (64 * c.gran)) 64 ps)

theorem nmRecords_numberAt (s : State) (ps : ℕ → ℕ) : nmRecords (numberAt s ps 0 64) = (List.range 8).map fun j => (numberAt s ps (8 * j) 4, numberAt s ps (8 * j + 4) 4) := by
  unfold nmRecords
  rw [fieldsOf_numberAt (by decide) (by decide), List.map_map]
  refine List.map_congr_left fun j _ => ?_
  have hlt := numberAt_lt s ps (8 * j) 4
  have hadd := numberAt_add s ps (8 * j) 4 4
  simp only [Function.comp_apply, show 64 / 8 = 8 from rfl]
  rw [hadd]
  exact Prod.ext (by dsimp only; omega) (by dsimp only; omega)

include hcheck hop hsrc in
theorem nmSource_records : ∃ u, nmSource (nmWho d c) (c.b + BitVec.ofNat 64 (64 * c.gran)) 64 s = .ok (numberAt s ps 0 64, u) ∧ sansNotes u = sansNotes s := by
  have hstep : nmSrcStep c = 64 := by unfold nmSrcStep; rw [if_neg (by omega)]
  have hal := nmSource_aligned hcheck (by omega)
  rw [hstep] at hal
  exact nmSource_reaches rfl hsrc rfl hal

include hact hstop hgran hcheck hop hsrc in
/-- R455: a record that names an element past the last stops the command. -/
theorem records_stop (h : ∃ r ∈ nmRecords (numberAt s ps 0 64), c.b1.toNat % 2 ^ 32 ≤ r.1) :
    ∃ t atc, exec (.nmCommandStart d) s = .next t ∧ (nm t d).active = some { c with stop := some (0x81, atc) } ∧ { t with nms := s.nms } = s := by
  obtain ⟨u, hu, -⟩ := nmSource_records hcheck hop hsrc
  have hstep : nmGranule d c s = .error 0x81 := by
    unfold nmGranule
    rw [hop]
    dsimp only
    rw [hu]
    dsimp only
    rw [if_pos (by simpa using h)]
    rfl
  have hgo : nmGoOn d c s = nmStop d c 0x81 s := by
    unfold nmGoOn
    rw [hstep]
    rfl
  refine ⟨nmStop d c 0x81 s, if nmDstPoisoned d c s then 2 else 0, by rw [exec_goOn hact hstop hgran, hgo], ?_, rfl⟩
  rw [nmStop, nm_setNm]

include hact hstop hgran hcheck hop hsrc in
/-- R455: the records of a granule are added to the elements that they name. -/
theorem records_goes (h : ∀ r ∈ nmRecords (numberAt s ps 0 64), r.1 < c.b1.toNat % 2 ^ 32) {named : ℕ → Prop} {el : ℕ → ℕ}
    (hnamed : ∀ i, named i ↔ ∃ r ∈ nmRecords (numberAt s ps 0 64), r.1 = i)
    (hapart : ∀ i j, named i → named j → i ≠ j → el i + 4 ≤ el j ∨ el j + 4 ≤ el i)
    (hreach : ∀ m : List Host.Cell, (∀ a, (∀ i, named i → a < el i ∨ el i + 4 ≤ a) → cellGet m a = readByte s a) →
      ∀ i, named i → ∃ p, NearReaches { s with mem := m } (nmWho d c) inStack true true 4 (c.a + BitVec.ofNat 64 (4 * i)) p (el i)) :
    ∃ (fl : Flags7) (g : ℕ → Flags7), flagsOf named g fl ∧ NmGoes s d c fl (fun l => ∃ i, named i ∧ l = el i / 64) (c.done + 32) c.coef (fun t =>
      (∀ i, named i → Scattered (nmFmt c) i (nmRecords (numberAt s ps 0 64)) (readMem s (el i) 4) (readMem t (el i) 4) (g i))
        ∧ ∀ a, (∀ i, named i → a < el i ∨ el i + 4 ≤ a) → readByte t a = readByte s a) := by
  have hall : ∀ r ∈ nmRecords (numberAt s ps 0 64), named r.1 := fun r hr => (hnamed _).mpr ⟨r, hr, rfl⟩
  obtain ⟨u, hu, hn⟩ := nmSource_records hcheck hop hsrc
  obtain ⟨v, hv, hnv⟩ := nmScatCheck_reaches hreach _ hall hn
  have hread : ∀ a, readByte v a = readByte s a := fun a => (congrArg (fun t => readByte t a) hnv :)
  obtain ⟨g, hfl, hls, hsc, hfin⟩ := nmScatApply_spec hapart hreach _ hall 0 [] (onlyBytes_of_notes hnv) fun a _ => hread a
  have hstep : nmGranule d c s = .ok (nmDid c (nmScatApply (nmWho d c) c (nmRecords (numberAt s ps 0 64)) (0, [], v)).1
      (nmScatApply (nmWho d c) c (nmRecords (numberAt s ps 0 64)) (0, [], v)).2.1, (nmScatApply (nmWho d c) c (nmRecords (numberAt s ps 0 64)) (0, [], v)).2.2) := by
    unfold nmGranule
    rw [hop]
    dsimp only
    rw [hu]
    dsimp only
    rw [if_neg (by simpa using h), hv]
    rfl
  generalize nmScatApply (nmWho d c) c (nmRecords (numberAt s ps 0 64)) (0, [], v) = x at hfl hls hsc hfin hstep
  rw [nmDid_coef] at hstep
  have hbytes : nmGranBytes c = 32 := by unfold nmGranBytes; rw [hop]; rfl
  have hgoes := nmGoes_of_granule hact hstop hgran hstep (fun h => by omega) (q := fun t =>
      (∀ i, named i → Scattered (nmFmt c) i (nmRecords (numberAt s ps 0 64)) (readMem s (el i) 4) (readMem t (el i) 4) (g i))
        ∧ ∀ a, (∀ i, named i → a < el i ∨ el i + 4 ≤ a) → readByte t a = readByte s a)
    (fun _ => ⟨fun i hi => by have := hsc i hi; rw [readMem_notes hnv] at this; exact this, hfin⟩) (lines := fun l => ∃ i, named i ∧ l = el i / 64) fun l => by
      rw [hls]
      simp only [hnamed, List.not_mem_nil, false_or]
      exact ⟨fun ⟨i, ⟨r, hr, hi⟩, hl⟩ => ⟨r, hr, by rw [hl, hi]⟩, fun ⟨r, hr, hl⟩ => ⟨r.1, ⟨r, hr, rfl⟩, hl⟩⟩
  rw [hbytes] at hgoes
  exact ⟨x.1, g, fun b _ => by simpa using hfl b, hgoes⟩

end

end Sys2Proof.Machine
end

section
/-!
PROOFS. The coefficients of `nm.sgdf` and its start (R450, R456).
-/

set_option Elab.async false

namespace Sys2Proof.Machine

/-! ## Coefficients (R456) -/

/-- R456: the coefficients for a factor with its flags. -/
def closeCoef (c : NmCmd) (k : ℕ × Flags7) : ℕ × Flags7 :=
  let p := mulCode 0 RNE 0 (c.b1.toNat % 2 ^ 32) (c.b1.toNat / 2 ^ 32)
  let f := nmRound 0 (addVal RNE (floatVal 0 0x3F800000) (negVal (floatVal 0 p.1)))
  let h := mulCode 0 RNE 0 (c.b1.toNat % 2 ^ 32) k.1
  (f.1 + h.1 * 2 ^ 32, p.2 ||| f.2 ||| k.2 ||| h.2)

theorem mulCode_gives (a b : ℕ) : Gives 0 0 0 (productExact (numberOf 0 a) (numberOf 0 b)) ((numberOf 0 a).signals || (numberOf 0 b).signals)
    (mulCode 0 RNE 0 a b).1 (mulCode 0 RNE 0 a b).2 := by
  have h := (comes_mulVal (floatVal 0 a) (floatVal 0 b)).gives (f := 0) (rm := 0) (by omega) (by omega) 0
  rw [← signals_numberVal, ← signals_numberVal, numberVal_floatVal (by omega), numberVal_floatVal (by omega)] at h
  exact h

theorem numberVal_one : numberVal (floatVal 0 0x3F800000) = .finite 1 false := by
  show Number.finite (finRat false (2 ^ 23 + 0) (127 - 127 - 23)) false = .finite 1 false
  norm_num [finRat]

theorem closeCoef_coefficients (c : NmCmd) (k : ℕ × Flags7) : Coefficients c k.1 k.2 (closeCoef c k).1 (closeCoef c k).2 := by
  have hquiet : isSig (floatVal 0 (mulCode 0 RNE 0 (c.b1.toNat % 2 ^ 32) (c.b1.toNat / 2 ^ 32)).1) = false := (rndTo_quiet (by omega) _ _ _).1
  have hone := nmRound_gives (comes_addVal 0 (floatVal 0 0x3F800000) (negVal (floatVal 0 (mulCode 0 RNE 0 (c.b1.toNat % 2 ^ 32) (c.b1.toNat / 2 ^ 32)).1)))
    (f := 0) (by omega)
  rw [numberVal_one, numberVal_negVal, numberVal_floatVal (by omega), isSig_negVal, hquiet, show isSig (floatVal 0 0x3F800000) = false from rfl, Bool.or_false] at hone
  refine ⟨_, _, _, _, _, _, rndTo_lt (f := 0) (by omega) _ _ _, nmRound_lt (f := 0) (by omega) _, rndTo_lt (f := 0) (by omega) _ _ _, mulCode_gives _ _, hone,
    mulCode_gives _ _, ?_, rfl⟩
  rw [Nat.mul_comm]
  rfl

/-! ## The factor of the gate word (R456) -/

/-- R456: the factor with its flags for a gate word and a threshold; none for cause 0x82. -/
def factorOf (q t : FVal) : Option (ℕ × Flags7) :=
  if isNanV q = true ∨ ltVal false q (.fin false 0 0) = true ∨ (match t with | .fin .. => false | _ => true) = true ∨ ltVal false (.fin false 0 0) t = false then none
  else if ltVal false (mulVal t t).1 q then
    let r := nmRound 0 (sqrtVal q)
    let k := nmRound 0 (divVal t (floatVal 0 r.1))
    some (k.1, r.2 ||| k.2)
  else some (0x3F800000, 0)

theorem ltVal_finite (s t : Bool) (m n : ℕ) (e g : ℤ) : ltVal false (.fin s m e) (.fin t n g) = true ↔ finRat s m e < finRat t n g := by
  rw [ltVal_iff]
  simp [numberVal, numberBelow]

theorem factorOf_finite (s t : Bool) (m n : ℕ) (e g : ℤ) : factorOf (.fin s m e) (.fin t n g) =
    if finRat s m e < 0 ∨ finRat t n g ≤ 0 then none
    else if finRat t n g * finRat t n g < finRat s m e then
      some ((nmRound 0 (divVal (.fin t n g) (floatVal 0 (nmRound 0 (sqrtVal (.fin s m e))).1))).1,
        (nmRound 0 (sqrtVal (.fin s m e))).2 ||| (nmRound 0 (divVal (.fin t n g) (floatVal 0 (nmRound 0 (sqrtVal (.fin s m e))).1))).2)
    else some (0x3F800000, 0) := by
  have hsq : ltVal false (mulVal (.fin t n g) (.fin t n g)).1 (.fin s m e) = true ↔ finRat t n g * finRat t n g < finRat s m e := by
    have hmul : finRat (t != t) (n * n) (g + g) = finRat t n g * finRat t n g := by
      rw [finRat, finRat, zpow_add₀ two_ne_zero]
      cases t <;> simp <;> ring
    rw [← hmul]
    exact ltVal_finite _ _ _ _ _ _
  unfold factorOf
  simp only [hsq, ← Bool.not_eq_true, ltVal_finite, finRat_zero, isNanV, false_or, Bool.false_eq_true, not_lt]

theorem factorOf_infinity (t : Bool) (n : ℕ) (g : ℤ) : factorOf (.inf false) (.fin t n g) = if finRat t n g ≤ 0 then none else some (0, 0) := by
  unfold factorOf
  simp only [← Bool.not_eq_true, ltVal_finite, finRat_zero, isNanV, false_or, Bool.false_eq_true, not_lt, show ltVal false (.inf false) (.fin false 0 0) = false from rfl]
  by_cases h : finRat t n g ≤ 0
  · rw [if_pos h, if_pos h]
  · rw [if_neg h, if_neg h]
    have ht : t = false := by
      by_contra ht
      rw [Bool.not_eq_false] at ht
      exact h (by rw [ht, finRat]; simp; positivity)
    subst ht
    have hroot : nmRound 0 (sqrtVal (.inf false)) = (fmtInf 0, 0) := by decide
    have hquot : nmRound 0 (divVal (.fin false n g) (floatVal 0 (fmtInf 0))) = (0, 0) := by
      show nmRound 0 (.fin false 0 0, 0) = (0, 0)
      decide
    rw [if_pos (show ltVal false (mulVal (.fin false n g) (.fin false n g)).1 (.inf false) = true from rfl), hroot]
    dsimp only
    rw [hquot]
    rfl

theorem nmRound_quotient (t : Bool) (n : ℕ) (g : ℤ) (r : FVal × Flags7) :
    Gives 0 0 0 (quotientOf (numberVal (.fin t n g)) (numberOf 0 (nmRound 0 r).1)) false (nmRound 0 (divVal (.fin t n g) (floatVal 0 (nmRound 0 r).1))).1
      (nmRound 0 (divVal (.fin t n g) (floatVal 0 (nmRound 0 r).1))).2 := by
  have h := nmRound_gives (comes_divVal (.fin t n g) (floatVal 0 (nmRound 0 r).1)) (f := 0) (by omega)
  rw [nmRound_quiet, numberVal_floatVal (by omega)] at h
  exact h

/-- R456: the model takes the factor from the gate word. -/
theorem factorOf_gateFactor (q t : ℕ) : (∀ k, factorOf (floatVal 0 q) (floatVal 0 t) = some k → GateFactor q t k.1 k.2)
    ∧ (factorOf (floatVal 0 q) (floatVal 0 t) = none → ∀ k g, ¬ GateFactor q t k g) := by
  unfold GateFactor
  rw [← numberVal_floatVal (by omega) q, ← numberVal_floatVal (by omega) t]
  generalize floatVal 0 q = x
  generalize floatVal 0 t = y
  have hlimit : ∀ x y : FVal, (match y with | .fin .. => false | _ => true) = true → factorOf x y = none := fun x y h => if_pos (.inr (.inr (.inl h)))
  rcases x with s | s | ⟨s, m, e⟩
  case nan =>
    have hnone : factorOf (.nan s) y = none := if_pos (.inl rfl)
    rw [hnone]
    exact ⟨nofun, fun _ _ _ h => h⟩
  case inf =>
    cases s with
    | true =>
      have hnone : factorOf (.inf true) y = none := if_pos (.inr (.inl rfl))
      rw [hnone]
      exact ⟨nofun, fun _ _ _ h => by cases y <;> exact h⟩
    | false =>
      rcases y with t | t | ⟨t, n, g⟩
      · rw [hlimit _ _ rfl]
        exact ⟨nofun, fun _ _ _ h => h⟩
      · rw [hlimit _ _ rfl]
        exact ⟨nofun, fun _ _ _ h => h⟩
      · rw [factorOf_infinity]
        show (∀ k : ℕ × Flags7, _ → 0 < finRat t n g ∧ k.1 = 0 ∧ k.2 = 0) ∧ (_ → ∀ k g', ¬ (0 < finRat t n g ∧ k = 0 ∧ g' = 0))
        by_cases h : finRat t n g ≤ 0
        · rw [if_pos h]
          exact ⟨nofun, fun _ _ _ hk => absurd hk.1 (not_lt.mpr h)⟩
        · rw [if_neg h]
          exact ⟨fun k hk => by cases hk; exact ⟨not_le.mp h, rfl, rfl⟩, nofun⟩
  case fin =>
    rcases y with t | t | ⟨t, n, g⟩
    · rw [hlimit _ _ rfl]
      exact ⟨nofun, fun _ _ _ h => h⟩
    · rw [hlimit _ _ rfl]
      exact ⟨nofun, fun _ _ _ h => h⟩
    · rw [factorOf_finite]
      by_cases hbad : finRat s m e < 0 ∨ finRat t n g ≤ 0
      · rw [if_pos hbad]
        exact ⟨nofun, fun _ k f ⟨ht, hq, _⟩ => hbad.elim (not_lt.mpr hq) (not_le.mpr ht)⟩
      rw [if_neg hbad]
      obtain ⟨hq, ht⟩ := not_or.mp hbad
      by_cases hlt : finRat t n g * finRat t n g < finRat s m e
      · rw [if_pos hlt]
        refine ⟨fun k hk => ?_, nofun⟩
        cases hk
        exact ⟨not_le.mp ht, not_lt.mp hq, fun h => absurd hlt (not_lt.mpr h), fun _ =>
          ⟨_, _, _, nmRound_gives (comes_sqrtVal (.fin s m e)) (by omega), nmRound_quotient t n g _, rfl⟩⟩
      · rw [if_neg hlt]
        refine ⟨fun k hk => ?_, nofun⟩
        cases hk
        exact ⟨not_le.mp ht, not_lt.mp hq, fun _ => ⟨rfl, rfl⟩, fun h => absurd h hlt⟩

/-! ## The start (R450) -/

theorem nmAcquire_eq (s : State) (c : NmCmd) : ∃ k, nmAcquire s c = { c with iss := { c.iss with clock := k } } := by
  unfold nmAcquire
  split
  · split
    · split
      · exact ⟨_, rfl⟩
      · exact ⟨_, rfl⟩
    · exact ⟨_, rfl⟩
  · exact ⟨_, rfl⟩

/-- R450: the command of a gate table that has fired alone is the one that fired first. -/
theorem nmFired_only {l : List NmCmd} {c : NmCmd} (hc : c ∈ l) (hfired : c.firedAt ≠ 0) (honly : ∀ g ∈ l, g ≠ c → g.firedAt = 0) : nmFired l = some c := by
  have hall : ∀ g ∈ l.filter (fun c => c.firedAt != 0), g = c := fun g hg => by
    obtain ⟨hl, hf⟩ := List.mem_filter.mp hg
    by_contra hne
    rw [honly g hl hne] at hf
    cases hf
  have hmem : c ∈ l.filter (fun c => c.firedAt != 0) := List.mem_filter.mpr ⟨hc, by simpa using hfired⟩
  unfold nmFired
  generalize l.filter (fun c => c.firedAt != 0) = l at hall hmem
  rcases l with _ | ⟨a, l⟩
  · cases hmem
  · obtain rfl := hall a (by simp)
    rw [List.foldl_cons]
    have hrest : ∀ l : List NmCmd, (∀ g ∈ l, g = a) → l.foldl (fun b c => match b with
        | none => some c
        | some d => if c.firedAt < d.firedAt then some c else some d) (some a) = some a := by
      intro l hl
      induction l with
      | nil => rfl
      | cons b l ih =>
        obtain rfl := hl b (by simp)
        rw [List.foldl_cons]
        dsimp only
        rw [if_neg (lt_irrefl _)]
        exact ih fun g hg => hl g (by simp [hg])
    exact hrest l fun g hg => hall g (by simp [hg])

theorem nmFired_none {l : List NmCmd} (h : ∀ g ∈ l, g.firedAt = 0) : nmFired l = none := by
  have hnil : l.filter (fun c => c.firedAt != 0) = [] := List.filter_eq_nil_iff.mpr fun g hg => by simp [h g hg]
  unfold nmFired
  rw [hnil]
  rfl

/-- R456: `nm.sgdf` without a gate. -/
theorem nmCoef_plain (d : ℕ) {c : NmCmd} (s : State) (h : c.gate = none) :
    nmCoef d c s = .ok ((closeCoef c (0x3F800000, 0)).1, (closeCoef c (0x3F800000, 0)).2, s) := by
  unfold nmCoef
  rw [h]
  rfl

/-- R456: `nm.sgdf` with a gate, whose word is reached. -/
theorem nmCoef_gated {d : ℕ} {c : NmCmd} {s : State} (h : c.gate.isSome = true) {p : Word} {pa : ℕ}
    (hp : NearReaches s (nmWho d c) gatePlace true false 4 (nmGateAddr c + 32) p pa) :
    nmCoef d c s = match factorOf (floatVal 0 (readMem s pa 4)) (floatVal 0 (c.a1.toNat / 2 ^ 32)) with
      | none => .error 0x82
      | some k => .ok ((closeCoef c k).1, (closeCoef c k).2, noteTried (nmWho d c) (nmGateAddr c + 32) s) := by
  obtain ⟨g, hg⟩ := Option.isSome_iff_exists.mp h
  have hread := readMem_notes (noteTried_sansNotes (nmWho d c) (nmGateAddr c + 32) s) pa 4
  unfold nmCoef
  rw [hg]
  dsimp only
  rw [nmAccess_reaches hp rfl]
  dsimp only
  rw [hread]
  unfold factorOf
  generalize floatVal 0 (readMem s pa 4) = q
  rcases floatVal 0 (c.a1.toNat / 2 ^ 32) with t | t | ⟨t, n, g⟩ <;> dsimp only
  · rw [if_pos (.inr (.inr (.inl rfl))), if_pos (.inr (.inr (.inl rfl)))]
  · rw [if_pos (.inr (.inr (.inl rfl))), if_pos (.inr (.inr (.inl rfl)))]
  · split
    · rfl
    · split <;> rfl

/-- R460: what an engine's access reaches rests neither on the engines nor on the clock of its maker. -/
theorem NearReaches.setNm {s : State} {d : ℕ} {c : NmCmd} {place : Place → Bool} {rd wr : Bool} {n : ℕ} {ea p : Word} {pa : ℕ}
    (h : NearReaches s (nmWho d c) place rd wr n ea p pa) (v : Nm) {c' : NmCmd} {k : Clock} (hc : c'.iss = { c.iss with clock := k }) :
    NearReaches (setNm s d v) (nmWho d c') place rd wr n ea p pa := by
  have hw : nmWho d c' = { nmWho d c with iss := { c.iss with clock := k } } := by unfold nmWho; rw [hc]
  rw [hw]
  exact ⟨⟨h.found.leaf, h.found.single, h.found.sound, h.found.owned⟩, h.place, h.normal, h.still, h.unchecked, h.clean, h.within⟩

/-- R450, R456: `nm.sgdf` as it starts, in a state whose engine is free. -/
def NmStarted (t : State) (d : ℕ) (c : NmCmd) (k : ℕ) (g : Flags7) : Prop :=
  ∃ c' coef fl, (nm t d).active = some c' ∧ Coefficients c k g coef fl ∧ c'.coef = coef ∧ c'.flags = fl ∧ c'.gran = c.gran ∧ c'.stop = c.stop

/-- R450, R457: a command as it begins: with its number, out of its gate table, its clock as its gate leaves it. -/
def begun (c : NmCmd) (n : BitVec 32) (k : Clock) : NmCmd := { c with number := n, slot := false, iss := { c.iss with clock := k } }

/-- R450: a command of `nm.sgdf` begins. -/
theorem nmBegin_sgdf {d : ℕ} {c : NmCmd} (hop : c.op = 0) (s : State) : ∃ (n : BitVec 32) (k : Clock) (v : Nm),
    nmBegin d c s = match nmCoef d (begun c n k) (setNm s d v) with
      | .error x => nmStop d (begun c n k) x (setNm s d v)
      | .ok (a, fl, t) => setNm t d { nm t d with active := some { begun c n k with coef := a, flags := fl } } := by
  obtain ⟨k, hk⟩ := nmAcquire_eq s { c with number := (nm s d).count + 1, slot := false }
  refine ⟨(nm s d).count + 1, k, { nm s d with count := (nm s d).count + 1, active := some (nmAcquire s { c with number := (nm s d).count + 1, slot := false }) }, ?_⟩
  unfold nmBegin
  dsimp only
  rw [hk]
  dsimp only
  rw [if_pos hop]
  rfl

/-- R456: `nm.sgdf` without a gate starts with the factor 1. -/
theorem nmBegin_plain {d : ℕ} {c : NmCmd} (hop : c.op = 0) (hgate : c.gate = none) (s : State) :
    NmStarted (nmBegin d c s) d c 0x3F800000 0 ∧ ∀ a, readByte (nmBegin d c s) a = readByte s a := by
  obtain ⟨n, k, v, h⟩ := nmBegin_sgdf (d := d) hop s
  rw [h, nmCoef_plain d (c := begun c n k) _ hgate]
  exact ⟨⟨_, _, _, congrArg Nm.active (nm_setNm _ _ _), closeCoef_coefficients c (0x3F800000, 0), rfl, rfl, rfl, rfl⟩, fun _ => rfl⟩

/-- R456: `nm.sgdf` with a gate starts with the factor of its gate word, or stops. -/
theorem nmBegin_gated {d : ℕ} {c : NmCmd} (hop : c.op = 0) (hgate : c.gate.isSome = true) {s : State} {p : Word} {pa : ℕ}
    (hp : NearReaches s (nmWho d c) gatePlace true false 4 (nmGateAddr c + 32) p pa) :
    (∀ a, readByte (nmBegin d c s) a = readByte s a)
      ∧ ((∃ k g, GateFactor (readMem s pa 4) (c.a1.toNat / 2 ^ 32) k g) → ∃ k g, GateFactor (readMem s pa 4) (c.a1.toNat / 2 ^ 32) k g ∧ NmStarted (nmBegin d c s) d c k g)
      ∧ ((∀ k g, ¬ GateFactor (readMem s pa 4) (c.a1.toNat / 2 ^ 32) k g) → ∃ c' atc, (nm (nmBegin d c s) d).active = some c' ∧ c'.stop = some (0x82, atc) ∧ c'.gran = c.gran) := by
  obtain ⟨n, k, v, h⟩ := nmBegin_sgdf (d := d) hop s
  have hcoef := nmCoef_gated (c := begun c n k) hgate (hp.setNm v rfl)
  obtain ⟨hsome, hnone⟩ := factorOf_gateFactor (readMem s pa 4) (c.a1.toNat / 2 ^ 32)
  rw [h, hcoef, show readMem (setNm s d v) pa 4 = readMem s pa 4 from rfl, show (begun c n k).a1 = c.a1 from rfl]
  dsimp only
  cases hf : factorOf (floatVal 0 (readMem s pa 4)) (floatVal 0 (c.a1.toNat / 2 ^ 32)) with
  | none =>
    refine ⟨fun _ => rfl, fun ⟨k, g, hk⟩ => absurd hk (hnone hf k g), fun _ =>
      ⟨_, if nmDstPoisoned d (begun c n k) (setNm s d v) then 2 else 0, congrArg Nm.active (nm_setNm _ _ _), rfl, rfl⟩⟩
  | some k =>
    refine ⟨fun a => (congrArg (fun u => readByte u a) (noteTried_sansNotes _ (nmGateAddr c + 32) (setNm s d v)) :), fun _ => ⟨k.1, k.2, hsome k hf, ?_⟩,
      fun hno => absurd (hsome k hf) (hno _ _)⟩
    exact ⟨_, _, _, congrArg Nm.active (nm_setNm _ _ _), closeCoef_coefficients c k, rfl, rfl, rfl, rfl⟩

end Sys2Proof.Machine
end

section
/-!
PROOFS. The start of a near-memory command in its engine (R450), and O47.
-/

set_option Elab.async false

namespace Sys2Proof.Machine

/-! ## The start from the gate table and from the queue (R450) -/

section
variable {s : State} {d : ℕ} {c : NmCmd} (hidle : (nm s d).active = none)
include hidle

theorem exec_begin_queued {l : List NmCmd} (hgates : ∀ g ∈ (nm s d).gates, g.firedAt = 0) (hqueue : (nm s d).queue = c :: l) (hgate : c.gate = none)
    (hbar : c.g1 = 0) (hcheck : nmCheck c = none) : exec (.nmCommandStart d) s = .next (nmBegin d c (setNm s d { nm s d with queue := l })) := by
  rw [exec_nmCommandStart]
  unfold execNmCommandStart
  dsimp only
  rw [hidle, nmFired_none hgates, hqueue]
  dsimp only [Option.filter_none]
  rw [if_pos (by rw [hgate]; rfl)]
  unfold nmChecked nmBarrier
  rw [hcheck, if_pos hbar]

theorem exec_begin_fired (hc : c ∈ (nm s d).gates) (honly : ∀ g ∈ (nm s d).gates, g ≠ c → g.firedAt = 0) (hfired : c.firedAt ≠ 0) (hready : c.ready = true) :
    exec (.nmCommandStart d) s = .next (nmBegin d c (setNm s d { nm s d with gates := (nm s d).gates.filter (fun g => g.serial != c.serial) })) := by
  rw [exec_nmCommandStart]
  unfold execNmCommandStart
  dsimp only
  rw [hidle, nmFired_only hc hfired honly, Option.filter_some, if_pos hready]

end

end Sys2Proof.Machine

namespace Sys2Proof
open Machine

/-- Settles O47: a granule reads what it reaches (`nmSource_reaches`), computes each element with one rounding and writes its bytes;
sums of squares go by groups, records are added one by one, and `nm.sgdf` starts with the factor of its gate word. -/
theorem nearMemoryResults : Obligations.NearMemoryResults := by
  unfold Obligations.NearMemoryResults
  refine ⟨fun s d c hact hstop hgran hcheck _ => ⟨fun hop p pa ps hdst hsrc hcast => ?_, fun hop ps hsrc => ?_, fun hop ps hsrc => ?_⟩,
    fun s d c hidle hop => ⟨fun l hgates hqueue hgate hbar hcheck => ?_, fun hc honly hfired hready hgate p pa hp => ?_⟩⟩
  · exact rewrites_spec hact hstop hgran hcheck hop hdst hsrc hcast
  · exact squares_spec hact hstop hgran hcheck hop hsrc
  · have hlimit : bitsOf c.b1.toNat 31 0 = c.b1.toNat % 2 ^ 32 := by simp [bitsOf]
    dsimp only
    rw [hlimit, ← nmRecords_numberAt]
    refine ⟨fun ⟨i, ⟨r, hr, hi⟩, hle⟩ => records_stop hact hstop hgran hcheck hop hsrc ⟨r, hr, hi ▸ hle⟩, fun h el hapart hreach => ?_⟩
    exact records_goes hact hstop hgran hcheck hop hsrc (fun r hr => h r.1 ⟨r, hr, rfl⟩) (fun _ => Iff.rfl) hapart hreach
  · exact ⟨_, exec_begin_queued hidle hgates hqueue hgate hbar hcheck, nmBegin_plain hop hgate _⟩
  · exact ⟨_, exec_begin_fired hidle hc honly hfired hready, nmBegin_gated hop hgate (hp.setNm _ (k := c.iss.clock) rfl)⟩

end Sys2Proof
end

section
/-!
PROOFS. The end test and the loop instructions (O5): one equation for each outcome of `endTest`, where `loopEnd` leaves the sequencer, and
one lemma for each outcome of `loop` and `lbrk`.
-/

-- The check elaborates all files as one text: one declaration at a time keeps that within its memory.
set_option Elab.async false

namespace Sys2Proof.Machine

/-! ## The end test (R133, R207) -/

theorem endTest_of_ne {m : List (Word × Word × BitVec 32)} {p : Word} {b : Bool} :
    ∀ {ls : List Level}, (∀ l, ls.head? = some l → l.stop ≠ p) → endTest m p ls b = (ls, p + 4, b)
  | [], _ => rfl
  | l :: _, h => if_neg (h l rfl).symm

theorem endTest_cons_of_lt {m : List (Word × Word × BitVec 32)} {p : Word} {b : Bool} {l : Level} (ls : List Level)
    (hstop : l.stop = p) (hlt : l.index.toNat + 1 < l.count.toNat) :
    endTest m p (l :: ls) b = ({ replaceLevel m l with index := l.index + 1 } :: ls, (replaceLevel m l).start, true) := by
  rw [endTest, if_pos hstop.symm, if_pos hlt]

theorem endTest_cons_of_not_lt {m : List (Word × Word × BitVec 32)} {p : Word} {b : Bool} {l : Level} (ls : List Level)
    (hstop : l.stop = p) (hlt : ¬ l.index.toNat + 1 < l.count.toNat) : endTest m p (l :: ls) b = endTest m p ls true := by
  rw [endTest, if_pos hstop.symm, if_neg hlt]

theorem replaceLevel_of_unnamed {m : List (Word × Word × BitVec 32)} {l : Level} (h : ∀ e ∈ m, e.1 ≠ l.start - 4) :
    replaceLevel m l = l := by
  have hnone : m.find? (fun e => e.1 == l.start - 4) = none :=
    List.find?_eq_none.2 fun e he => by rw [beq_iff_eq]; exact h e he
  rw [replaceLevel, hnone]

/-- R133: a sequencer after the end test has given the levels left, the next address, and whether a boundary has passed. -/
def Seq.tested (q : Seq) (r : List Level × Word × Bool) : Seq :=
  { q with pc := r.2.1, loops := r.1.reverse, landing := if r.2.2 then .boundary else .none }

section
variable {s : State} (h : hasProgram s)
include h

theorem curSeq_loopEnd (p : Word) (b : Bool) :
    curSeq (loopEnd p b s) = (curSeq s).tested (endTest (curMap s) p (curSeq s).loops.reverse b) := curSeq_setSeq _ _ h

theorem curSeq_loopEnd_of_ne {p : Word} {b : Bool} (hne : ∀ l, (curSeq s).loops.getLast? = some l → l.stop ≠ p) :
    curSeq (loopEnd p b s) = { curSeq s with pc := p + 4, landing := if b then .boundary else .none } := by
  rw [curSeq_loopEnd h, endTest_of_ne (by rwa [List.head?_reverse]), Seq.tested, List.reverse_reverse]

theorem curSeq_loopEnd_of_lt {p : Word} {b : Bool} {ls : List Level} {l : Level} (hl : (curSeq s).loops = ls ++ [l])
    (hstop : l.stop = p) (hlt : l.index.toNat + 1 < l.count.toNat) :
    curSeq (loopEnd p b s) = { curSeq s with
      pc := (replaceLevel (curMap s) l).start
      loops := ls ++ [{ replaceLevel (curMap s) l with index := l.index + 1 }]
      landing := .boundary } := by
  rw [curSeq_loopEnd h, hl, List.reverse_concat, endTest_cons_of_lt _ hstop hlt, Seq.tested, List.reverse_cons,
    List.reverse_reverse, if_pos rfl]

theorem curSeq_setLoops (ls : List Level) : curSeq (setLoops s ls) = { curSeq s with loops := ls } := curSeq_setSeq _ _ h

theorem hasProgram_setLoops (ls : List Level) : hasProgram (setLoops s ls) := (hasProgram_setSeq _ _).2 h

/-- A level whose iterations are done is left, and the end test goes on with the levels around it. -/
theorem curSeq_loopEnd_of_not_lt {p : Word} {b : Bool} {ls : List Level} {l : Level} (hl : (curSeq s).loops = ls ++ [l])
    (hstop : l.stop = p) (hlt : ¬ l.index.toNat + 1 < l.count.toNat) :
    curSeq (loopEnd p b s) = curSeq (loopEnd p true (setLoops s ls)) := by
  rw [curSeq_loopEnd h, curSeq_loopEnd (hasProgram_setLoops h ls), curSeq_setLoops h, setLoops, curMap_setSeq, hl,
    List.reverse_concat, endTest_cons_of_not_lt _ hstop hlt]
  rfl

theorem regsSame_setSeq {q : Seq} (hq : q.regs = (curSeq s).regs) : regsSame s (setSeq s q) := fun r => by
  rw [x_setSeq s q h, hq, x]

theorem regsSame_setLoops (ls : List Level) : regsSame s (setLoops s ls) := regsSame_setSeq h rfl

theorem regsSame_loopEnd (p : Word) (b : Bool) : regsSame s (loopEnd p b s) := x_loopEnd p b s h

end

theorem onlySeq_loopEnd (p : Word) (b : Bool) (s : State) : OnlySeq s (loopEnd p b s) := onlySeq_setSeq _ _

theorem onlySeq_setLoops (s : State) (ls : List Level) : OnlySeq s (setLoops s ls) := onlySeq_setSeq _ _

/-! ## `loop` and `lbrk` (R164, R167) -/

theorem word_natCast (n : Nat) : word n = BitVec.ofNat 64 n := BitVec.ofInt_natCast _ _

theorem outOfBody_eq_false {ls : List Level} {stop : Word} (h : ∀ l, ls.getLast? = some l → stop.toNat ≤ l.stop.toNat) :
    outOfBody ls stop = false := by
  rw [outOfBody]
  split
  next => rfl
  next v l hv => simpa [BitVec.ult] using h v (by rw [← List.head?_reverse, hv, List.head?_cons])

theorem outOfBody_eq_true {ls : List Level} {l : Level} {stop : Word} (hl : ls.getLast? = some l)
    (h : l.stop.toNat < stop.toNat) : outOfBody ls stop = true := by
  rw [← List.head?_reverse] at hl
  obtain ⟨tl, ht⟩ := List.head?_eq_some_iff.1 hl
  simpa [outOfBody, ht, BitVec.ult] using h

theorem exec_loop_of_zero {s : State} {c : Fin 32} (hint : Fin 7) (e : Fin 16384) (hc : x s c = 0) :
    exec (.loop c hint e) s = .next (loopEnd (pcOf s + BitVec.ofNat 64 (4 * e.val)) false s) := by
  show execLoop c hint e s = _
  simp [execLoop, hc, pcOf]

theorem exec_loop_of_room {s : State} {c : Fin 32} (hint : Fin 7) (e : Fin 16384) (hpos : 0 < (x s c).toNat)
    (hlt : (x s c).toNat < 2 ^ 32) (hroom : (curSeq s).loops.length < 6)
    (hbody : outOfBody (curSeq s).loops (pcOf s + BitVec.ofNat 64 (4 * e.val)) = false) :
    exec (.loop c hint e) s = .next (setSeq s { curSeq s with
      pc := pcOf s + 4
      loops := (curSeq s).loops ++ [⟨(x s c).setWidth 32, 0, pcOf s + 4, pcOf s + BitVec.ofNat 64 (4 * e.val)⟩]
      landing := .none }) := by
  have hne : x s c ≠ 0 := by rintro h0; simp [h0] at hpos
  show execLoop c hint e s = _
  rw [execLoop]
  simp only [pcOf] at hbody
  simp only [Nat.div_eq_of_lt hlt, hne, Nat.not_le.2 hroom, hbody, pcOf, ne_eq, not_true_eq_false, if_false, Bool.false_eq_true]

theorem exec_lbrk_of_deep {s : State} {k : Fin 6} {outer inner : List Level} {l : Level}
    (hl : (curSeq s).loops = outer ++ [l] ++ inner) (hk : inner.length = k.val) :
    exec (.lbrk k) s = .next (loopEnd l.stop true (setLoops s outer)) := by
  have hlen : (curSeq s).loops.length - 1 - k.val = outer.length := by simp [hl, hk]
  have hlt : k.val < (curSeq s).loops.length := by simp [hl, hk]; omega
  have hget : (curSeq s).loops[outer.length]? = some l := by simp [hl]
  have htake : (curSeq s).loops.take outer.length = outer := by simp [hl]
  show execLbrk k s = _
  rw [execLbrk, hlen, hget, htake]
  exact if_pos hlt

theorem exec_lbrk_of_shallow {s : State} {k : Fin 6} (hk : (curSeq s).loops.length ≤ k.val) :
    exec (.lbrk k) s = raise 0x44 (tvalWord (.lbrk k)) s := by
  show execLbrk k s = _
  rw [execLbrk]
  split
  next => exact if_neg (Nat.not_lt.2 hk)
  next => rfl

end Sys2Proof.Machine

namespace Sys2Proof
open Machine

/-- Settles O5: `loopEnd` writes its sequencer as the outcome of `endTest` says, and `loop` and `lbrk` have one lemma for each
outcome. -/
theorem loops : Obligations.Loops := by
  refine ⟨fun s p b hs => ⟨regsSame_loopEnd hs p b, onlySeq_loopEnd p b s, fun hne => ?other, fun ls l hl hstop hlt => ?again,
      fun ls l hl hstop hlt => curSeq_loopEnd_of_not_lt hs hl hstop hlt⟩,
    fun s c hint e hs => ?loop,
    fun s k hs => ⟨fun outer inner l hl hk => ?lbrk, exec_lbrk_of_shallow⟩⟩
  case other =>
    rw [pcOf, curSeq_loopEnd_of_ne hs hne]
    exact ⟨rfl, rfl⟩
  case again =>
    rw [pcOf, curSeq_loopEnd_of_lt hs hl hstop hlt]
    exact ⟨rfl, rfl, rfl, replaceLevel_of_unnamed⟩
  case loop =>
    have hstop : word (4 * e.val) = BitVec.ofNat 64 (4 * e.val) := word_natCast (4 * e.val)
    rw [hstop]
    refine ⟨fun hc => ⟨_, exec_loop_of_zero hint e hc, regsSame_loopEnd hs _ _, onlySeq_loopEnd _ _ s, rfl, rfl⟩,
      fun hpos hlt hroom hbody => ⟨_, exec_loop_of_room hint e hpos hlt hroom (outOfBody_eq_false hbody), regsSame_setSeq hs rfl,
        onlySeq_setSeq _ _, ?_⟩⟩
    rw [pcOf, curSeq_setSeq _ _ hs]
    exact ⟨rfl, rfl⟩
  case lbrk =>
    refine ⟨_, exec_lbrk_of_deep hl hk, fun r => ?_, (onlySeq_setLoops s outer).trans (onlySeq_loopEnd _ _ _) (setSeq_cur _ _), rfl⟩
    rw [regsSame_loopEnd (hasProgram_setLoops hs outer) _ _ r, regsSame_setLoops hs outer r]

end Sys2Proof
end

section
/-!
PROOFS. Traps of a thread's own instructions (O18): each of them is `raise` with the cause and the value of its rule, or `trap`, and
`raise` enters the handler (`trapTo_spec`).
-/

-- The check elaborates all files as one text: one declaration at a time keeps that within its memory.
set_option Elab.async false

namespace Sys2Proof.Machine

/-- R142, R144: a scalar fault of a thread outside its handler that has one is a trap. -/
theorem scalarFault_of_handler {s : State} {k : Nat} (cause : BitVec 8) (val : Word) (ecls : Nat) (hm : (thr s k).hm = false)
    (hv : (thr s k).tvec ≠ 0) : scalarFault k cause val ecls s = trapTo k cause val ecls s :=
  if_neg fun h => h.1.elim (fun h => Bool.noConfusion (hm.symm.trans h)) hv

theorem raise_enters_handler {s : State} {k : Nat} (cause : BitVec 8) (val : Word) (hc : s.cur = .thread k) (hm : (thr s k).hm = false)
    (hv : (thr s k).tvec ≠ 0) (hq : (thr s k).vq = []) :
    ∃ t, raise cause val s = .next t ∧ thr t k = handlerOf (thr s k) (pcOf s) cause 0 val ∧ onlyTrapped k s t := by
  obtain ⟨htrap, hthr⟩ := trapTo_spec k cause val 0 s hm hv (by decide)
  refine ⟨_, (raise_spec k cause val s hc hq).trans (congrArg _ (scalarFault_of_handler cause val 0 hm hv)), ?_, htrap⟩
  rw [hthr, pcOf, curSeq_of_thread hc]

/-! ## What each instruction raises -/

theorem exec_tret_outside_handler {s : State} {k : Nat} (hc : s.cur = .thread k) (hm : (thr s k).hm = false) :
    exec .tret s = raise 0x02 (tvalWord .tret) s := by
  show execTret s = _
  rw [execTret, hc]
  exact if_pos hm

theorem exec_jalr_misaligned {s : State} {a : Fin 32} (d : Fin 32) (h : (x s a).toNat % 4 ≠ 0) :
    exec (.jalr d a) s = raise 0x03 (x s a) s := if_pos h

theorem exec_lidx_of_shallow {s : State} (d : Fin 32) {k : Fin 6} (h : (curSeq s).loops.length ≤ k.val) :
    exec (.lidx d k) s = raise 0x44 (tvalWord (.lidx d k)) s := by
  show execLidx d k s = _
  rw [execLidx, List.getElem?_eq_none (by rwa [List.length_reverse])]

theorem exec_loop_of_many {s : State} {c : Fin 32} (hint : Fin 7) (e : Fin 16384) (h : 2 ^ 32 ≤ (x s c).toNat) :
    exec (.loop c hint e) s = raise 0x44 (tvalWord (.loop c hint e)) s :=
  if_pos (Nat.ne_of_gt (Nat.div_pos h (by decide)))

theorem exec_loop_of_full {s : State} {c : Fin 32} (hint : Fin 7) (e : Fin 16384) (hlt : (x s c).toNat < 2 ^ 32) (hne : x s c ≠ 0)
    (h : 6 ≤ (curSeq s).loops.length) : exec (.loop c hint e) s = raise 0x40 (pcOf s) s :=
  (if_neg (not_not_intro (Nat.div_eq_of_lt hlt))).trans ((if_neg hne).trans (if_pos h))

theorem exec_loop_of_outside {s : State} {c : Fin 32} (hint : Fin 7) (e : Fin 16384) (hlt : (x s c).toNat < 2 ^ 32) (hne : x s c ≠ 0)
    (hroom : (curSeq s).loops.length < 6)
    (h : outOfBody (curSeq s).loops (pcOf s + BitVec.ofNat 64 (4 * e.val)) = true) :
    exec (.loop c hint e) s = raise 0x44 (tvalWord (.loop c hint e)) s :=
  (if_neg (not_not_intro (Nat.div_eq_of_lt hlt))).trans ((if_neg hne).trans ((if_neg (Nat.not_le.2 hroom)).trans (if_pos h)))

theorem setsPrivileged_iff {r : Nat} :
    setsPrivileged r = true ↔ r = 6 ∨ r = 9 ∨ r = 0x11 ∨ r = 0x12 ∨ r = 0x13 := by
  simp only [setsPrivileged, Bool.or_eq_true, beq_iff_eq, or_assoc]

theorem exec_sets_unprivileged {s : State} {k : Nat} {r : Fin 21} (b : Fin 32) (hc : s.cur = .thread k)
    (h : setsPrivileged r.val = true ∧ (thr s k).priv = false ∧ (thr s k).hm = false) :
    exec (.sets r b) s = raise 0x02 (tvalWord (.sets r b)) s := by
  have hr : ¬(r.val = 1 ∨ r.val = 2 ∨ r.val = 5) := by
    have := setsPrivileged_iff.1 h.1
    omega
  show execSets r b s = _
  rw [execSets, hc]
  exact (if_neg hr).trans (if_pos h)

theorem exec_sets_illegal_vtype {s : State} {k : Nat} {r : Fin 21} {b : Fin 32} (hc : s.cur = .thread k) (hr : r.val = 0)
    (h : vtLegal (x s b) = false) : exec (.sets r b) s = raise 0x01 (tvalWord (.sets r b)) s := by
  have hw : ¬(r.val = 1 ∨ r.val = 2 ∨ r.val = 5) := by omega
  have hp : setsPrivileged r.val ≠ true := by rw [hr]; decide
  show execSets r b s = _
  simp only [execSets, hc]
  rw [if_neg hw, if_neg (fun hpriv => hp hpriv.1), if_pos ⟨hr, h⟩]

/-- R164: beyond its limits `loop` raises its cause. -/
theorem loop_raises {s : State} {k : Nat} {c : Fin 32} {hint : Fin 7} {e : Fin 16384} {cause : BitVec 8} {val pc : Word}
    (h : ownTrap s k (.loop c hint e) = some (cause, val, pc)) : exec (.loop c hint e) s = raise cause val s ∧ pc = pcOf s := by
  unfold ownTrap at h
  dsimp only at h
  split_ifs at h with hmany hzero hfull
  · cases h
    exact ⟨exec_loop_of_many hint e hmany, rfl⟩
  · cases h
    exact ⟨exec_loop_of_full hint e (Nat.not_le.1 hmany) hzero hfull, rfl⟩
  · split at h
    next l hl =>
      obtain ⟨hbody, h⟩ := Option.ite_none_right_eq_some.1 h
      cases h
      rw [show word (4 * e.val) = BitVec.ofNat 64 (4 * e.val) from word_natCast (4 * e.val)] at hbody
      exact ⟨exec_loop_of_outside hint e (Nat.not_le.1 hmany) hzero (Nat.not_le.1 hfull) (outOfBody_eq_true hl hbody), rfl⟩
    next => cases h

/-- R57, R76: `sets` raises its cause where it is refused. -/
theorem sets_raises {s : State} {k : Nat} {r : Fin 21} {b : Fin 32} {cause : BitVec 8} {val pc : Word} (hc : s.cur = .thread k)
    (h : ownTrap s k (.sets r b) = some (cause, val, pc)) : exec (.sets r b) s = raise cause val s ∧ pc = pcOf s := by
  unfold ownTrap at h
  dsimp only at h
  split_ifs at h with hpriv hvtype
  · cases h
    exact ⟨exec_sets_unprivileged b hc ⟨setsPrivileged_iff.2 hpriv.1, hpriv.2⟩, rfl⟩
  · cases h
    exact ⟨exec_sets_illegal_vtype hc hvtype.1 hvtype.2, rfl⟩

/-- R142: the instructions whose trap resumes at their own word raise its cause with its value. -/
theorem ownTrap_raises {s : State} {k : Nat} {i : Instr} {cause : BitVec 8} {val pc : Word} (hc : s.cur = .thread k)
    (h : ownTrap s k i = some (cause, val, pc)) (hi : ∀ n, i ≠ .trap n) : exec i s = raise cause val s ∧ pc = pcOf s := by
  cases i
  case illegalInstruction | instructionFetchFault => cases h; exact ⟨rfl, rfl⟩
  case trap n => exact absurd rfl (hi n)
  case tret =>
    unfold ownTrap at h
    obtain ⟨hm, h⟩ := Option.ite_none_left_eq_some.1 h
    cases h
    exact ⟨exec_tret_outside_handler hc (Bool.eq_false_iff.2 hm), rfl⟩
  case jalr d a =>
    unfold ownTrap at h
    obtain ⟨ha, h⟩ := Option.ite_none_left_eq_some.1 h
    cases h
    exact ⟨exec_jalr_misaligned d ha, rfl⟩
  case lidx d n =>
    unfold ownTrap at h
    obtain ⟨hn, h⟩ := Option.ite_none_left_eq_some.1 h
    simp only [Option.some.injEq, Prod.mk.injEq] at h
    obtain ⟨rfl, rfl, rfl⟩ := h
    exact ⟨exec_lidx_of_shallow d (Nat.not_lt.1 hn), rfl⟩
  case lbrk n =>
    unfold ownTrap at h
    obtain ⟨hn, h⟩ := Option.ite_none_left_eq_some.1 h
    simp only [Option.some.injEq, Prod.mk.injEq] at h
    obtain ⟨rfl, rfl, rfl⟩ := h
    exact ⟨exec_lbrk_of_shallow (Nat.not_lt.1 hn), rfl⟩
  case loop c hint e => exact loop_raises h
  case sets r b => exact sets_raises hc h
  all_goals cases h

/-- R185: `trap` resumes behind itself. -/
theorem exec_trap_of_empty {s : State} {k : Nat} (n : Fin 64) (hc : s.cur = .thread k) (hq : (thr s k).vq = []) :
    exec (.trap n) s = .next (trapTo k 0x04 (BitVec.ofNat 64 n.val) 0
      (setThr s k { thr s k with seq := { (thr s k).seq with pc := (thr s k).seq.pc + 4 } })) := by
  show execTrap n s = _
  rw [execTrap, hc]
  exact if_pos (by rw [hq]; rfl)

theorem exec_trap_enters_handler {s : State} {k : Nat} (n : Fin 64) (hc : s.cur = .thread k) (hm : (thr s k).hm = false)
    (hv : (thr s k).tvec ≠ 0) (hq : (thr s k).vq = []) :
    ∃ t, exec (.trap n) s = .next t ∧ thr t k = handlerOf (thr s k) (pcOf s + 4) 0x04 0 (word n.val) ∧ onlyTrapped k s t := by
  let t1 : Thread := { thr s k with seq := { (thr s k).seq with pc := (thr s k).seq.pc + 4 } }
  have hself : thr (setThr s k t1) k = t1 := thr_setThr_self _ _ _
  obtain ⟨htrap, hthr⟩ := trapTo_spec k 0x04 (BitVec.ofNat 64 n.val) 0 (setThr s k t1) (by rwa [hself]) (by rwa [hself]) (by decide)
  refine ⟨_, exec_trap_of_empty n hc hq, ?_, (onlyThread_setThr s k t1).trans htrap⟩
  rw [hthr, hself, word_natCast, pcOf, curSeq_of_thread hc]
  rfl

end Sys2Proof.Machine

namespace Sys2Proof
open Machine

/-- Settles O18: `trap` enters the handler behind itself, and every other of these instructions by `raise` (`ownTrap_raises`). -/
theorem trapEntry : Obligations.TrapEntry := by
  intro s k i cause val pc hc h hm hv hq
  by_cases hi : ∃ n, i = .trap n
  · obtain ⟨n, rfl⟩ := hi
    cases h
    exact exec_trap_enters_handler n hc hm hv hq
  · obtain ⟨hraise, rfl⟩ := ownTrap_raises hc h (fun n hn => hi ⟨n, hn⟩)
    rw [hraise]
    exact raise_enters_handler cause val hc hm hv hq

end Sys2Proof
end

section
/-!
PROOFS. The report of a trap without a handler (O19): refuted. The fault-domain policy is read after the entry of the event ring is
written (R192, R193), and nothing keeps that entry apart from the control block that holds the policy.
-/

-- The check elaborates all files as one text: one declaration at a time keeps that within its memory.
set_option Elab.async false

namespace Sys2Proof.Machine

/-- A running thread without a handler, whose region suspends: block 192 of its chain has the event ring at 64, block 128 has the policy. The
first entry of the ring is block 128 itself, and the bits of the entry where the policy stands, bits 25:24, are bits 9:8 of the thread's number. -/
def ringOverPolicy : State :=
  { State.reset with
    cur := .thread 512
    threads := [(512, { Thread.init with st := .running, rcb := 192, home := ⟨[192, 128], some 128, some 192⟩ })]
    mem := [(224, 64)] }

theorem policyOf_ringOverPolicy : policyOf ringOverPolicy (thr ringOverPolicy 512).home = 0 := by decide +kernel

/-- The report writes policy 2 over the policy, which then kills the thread. -/
theorem raise_ringOverPolicy : ∃ t, raise 0x01 0 ringOverPolicy = .next t ∧ (thr t 512).st = .retiring := by
  refine ⟨_, raise_spec 512 0x01 0 ringOverPolicy rfl rfl, ?_⟩
  decide +kernel

end Sys2Proof.Machine

namespace Sys2Proof
open Machine

/-- Refutes O19: in `ringOverPolicy` the entry of the event ring makes the policy of the region a kill, so the fault leaves the slot retiring,
not suspended. -/
theorem not_trapReportAndReturn : ¬ Obligations.TrapReportAndReturn := by
  intro h
  obtain ⟨t, ht, hsuspended, -⟩ := h.1 ringOverPolicy 512 0x01 0 rfl rfl rfl (.inr rfl) rfl policyOf_ringOverPolicy
  obtain ⟨u, hu, hretiring⟩ := raise_ringOverPolicy
  obtain rfl : t = u := Host.Outcome.next.inj (ht.symm.trans hu)
  rw [hsuspended] at hretiring
  exact absurd hretiring (by decide)

end Sys2Proof
end

section
/-!
PROOFS. Vector dispatch and the vector length (O23): what joining the vector queue leaves of a thread, where its scalar side goes on, and what
`vsetl` leaves.
-/

-- The check elaborates all files as one text: one declaration at a time keeps that within its memory.
set_option Elab.async false

namespace Sys2Proof.Machine

/-! ## Going on, from a state in which the thread differs beside its sequencer -/

section
variable {s u : State} {k : Nat} (hc : s.cur = .thread k) (hu : u.cur = .thread k) (hm : u.maps = s.maps)
  (hq : (thr u k).seq = (thr s k).seq) (hr : (thr u k).rcb = (thr s k).rcb)
include hc hu hm hq hr

theorem curSeq_finish_of_thread : curSeq (finish u) = curSeq (finish s) := by
  refine curSeq_finish_congr (hasProgram_of_thread hc) (hasProgram_of_thread hu) ?_ ?_
  · rw [curSeq_of_thread hu, curSeq_of_thread hc, hq]
  · rw [curMap_of_thread hu, curMap_of_thread hc, hm, hr]

theorem thr_finish_of_thread : thr (finish u) k = { thr u k with seq := (thr (finish s) k).seq } := by
  rw [thr_finish_self hu, curSeq_finish_of_thread hc hu hm hq hr, thr_finish_self hc]

end

/-! ## Load queues -/

theorem mapQueue_eq (q : Nat) (f : List QEntry → List QEntry) (t : Thread) :
    mapQueue q f t = { t with queues := (mapQueue q f t).queues } := by
  unfold mapQueue
  split <;> rfl

theorem queues_mapQueue_self (q : Fin 8) (f : List QEntry → List QEntry) (t : Thread) :
    (mapQueue q.val f t).queues[q] = f t.queues[q] := by
  simp [mapQueue, q.isLt]

theorem queues_mapQueue_ne {q r : Fin 8} (f : List QEntry → List QEntry) (t : Thread) (h : r ≠ q) :
    (mapQueue q.val f t).queues[r] = t.queues[r] := by
  have hne : q.val ≠ r.val := fun e => h (Fin.ext e.symm)
  simp [mapQueue, q.isLt, hne]

theorem discardEntry_eq (t : Thread) (e : VEntry) : discardEntry t e = { t with queues := (discardEntry t e).queues } := by
  unfold discardEntry
  split
  · rfl
  · exact mapQueue_eq _ _ _

/-- R215: discarding entries changes nothing of a thread but its load queues. -/
theorem foldl_discardEntry_eq (l : List VEntry) (t : Thread) :
    l.foldl discardEntry t = { t with queues := (l.foldl discardEntry t).queues } := by
  induction l generalizing t with
  | nil => rfl
  | cons e l ih => rw [List.foldl_cons, ih, discardEntry_eq]

/-! ## Dispatch (R135, R214) -/

theorem exec_of_queuedOperands {s : State} {i : Instr} {ops : Word × Word × Word} (h : queuedOperands s i = some ops) :
    exec i s = vIssue i ops.1 ops.2.1 ops.2.2 s := by
  cases i <;> cases h <;> rfl

section
variable {s : State} {k : Nat} {i : Instr} {ops : Word × Word × Word} (hc : s.cur = .thread k)
include hc

theorem vIssue_of_refused {c : BitVec 8} (h : vCheck i k s = some c) :
    vIssue i ops.1 ops.2.1 ops.2.2 s = raise c (tvalWord i) s := by
  simp only [vIssue, hc, h]

theorem vIssue_of_legal (h : vCheck i k s = none) :
    vIssue i ops.1 ops.2.1 ops.2.2 s = vPush k i ops.1 ops.2.1 ops.2.2 s := by
  simp only [vIssue, hc, h]

end

/-- R256, R261: the queue entry that a load into a queue takes as it is dispatched. -/
def unfilledEntry (s : State) (k : Nat) : QEntry :=
  ⟨newEntryId s (thr s k), (thr s k).vl, vtBits (thr s k).vtype, ⟨0, 0⟩, false, none⟩

/-- R256: the load queues of a thread once an instruction of it is dispatched. -/
def queuedQueues (s : State) (k : Nat) (i : Instr) : Vector (List QEntry) 8 :=
  match loadQueue i with
  | none => (thr s k).queues
  | some q => (mapQueue q (fun l => l ++ [unfilledEntry s k]) (thr s k)).queues

/-- R135: a thread once an instruction of it is dispatched. -/
def queuedThread (s : State) (k : Nat) (i : Instr) (ops : Word × Word × Word) : Thread :=
  { thr s k with vq := (thr s k).vq ++ [queuedEntry s k i ops], queues := queuedQueues s k i }

theorem vEnqueue_eq (s : State) (k : Nat) (i : Instr) (ops : Word × Word × Word) :
    ∃ n, vEnqueue k i ops.1 ops.2.1 ops.2.2 s = setThr { s with serial := n } k (queuedThread s k i ops) := by
  unfold vEnqueue queuedThread queuedQueues queuedEntry
  cases loadQueue i with
  | none => exact ⟨s.serial, rfl⟩
  | some q => exact ⟨s.serial + 1, congrArg (setThr _ k) (by dsimp only; unfold mapQueue; split <;> rfl)⟩

theorem queuedQueues_of_none {s : State} {k : Nat} {i : Instr} (h : loadQueue i = none) : queuedQueues s k i = (thr s k).queues := by
  rw [queuedQueues, h]

theorem queuedQueues_of_some {s : State} {k q : Nat} {i : Instr} (h : loadQueue i = some q) :
    queuedQueues s k i = (mapQueue q (fun l => l ++ [unfilledEntry s k]) (thr s k)).queues := by
  rw [queuedQueues, h]

theorem vKick_of_deferred {s : State} {k : Nat} (h : (thr s k).vdefer = true) : vKick k s = s := if_pos h

theorem vPush_of_full {s : State} {k : Nat} {i : Instr} {a b c : Word} (hd : (thr s k).vdefer = true)
    (h : 16 ≤ queueUse (thr s k) s [] (thr s k).vq) : vPush k i a b c s = .next s := by
  rw [vPush, if_pos h, vKick_of_deferred hd]

/-- R135: dispatch into a queue with room, where strips are left to the sequencer's own steps. -/
theorem vPush_of_room {s : State} {k : Nat} {i : Instr} {ops : Word × Word × Word} (hc : s.cur = .thread k)
    (hd : (thr s k).vdefer = true) (h : queueUse (thr s k) s [] (thr s k).vq < 16) :
    ∃ t, vPush k i ops.1 ops.2.1 ops.2.2 s = .next t ∧ OnlyThread k s { t with serial := s.serial }
      ∧ thr t k = { queuedThread s k i ops with seq := (thr (finish s) k).seq } := by
  obtain ⟨n, hn⟩ := vEnqueue_eq s k i ops
  let u := setThr { s with serial := n } k (queuedThread s k i ops)
  have hu : u.cur = .thread k := hc
  have hself : thr u k = queuedThread s k i ops := thr_setThr_self _ _ _
  have hthr : thr (finish u) k = { queuedThread s k i ops with seq := (thr (finish s) k).seq } := by
    rw [thr_finish_of_thread hc hu rfl (by rw [hself]; rfl) (by rw [hself]; rfl), hself]
  have hframe : OnlyThread k s { finish u with serial := s.serial } := by
    rw [finish_of_thread hu]
    exact (onlyThread_setThr s k (queuedThread s k i ops)).trans (onlyThread_setThr _ k _)
  refine ⟨finish u, ?_, hframe, hthr⟩
  rw [vPush, if_neg (Nat.not_le.2 h), hn, vKick_of_deferred (by rw [hthr]; exact hd)]

/-! ## `vsetl` (R215) -/

theorem vsetlThread_eq (t : Thread) (a b : Word) :
    vsetlThread t a b = { t with
      vregs := if t.pv then [] else t.vregs, cur := if t.pv then t.pend else t.cur, pv := false, vtype := b,
      vl := vsetlLength t (if t.pv then t.pend else t.cur) a b, bvalid := BitVec.allOnes 32768, spec := false, parked := [],
      queues := (t.parked.foldl discardEntry t).queues } := by
  rw [vsetlThread, foldl_discardEntry_eq]

theorem exec_vsetl_of_legal {s : State} {k : Nat} {a b : Fin 32} (d : Fin 32) (hc : s.cur = .thread k) (hq : (thr s k).vq = [])
    (h : vtLegal (x s b) = true) :
    exec (.vsetl d a b) s = writeOn d (BitVec.ofNat 64 (vsetlThread (thr s k) (x s a) (x s b)).vl)
      (setThr s k (vsetlThread (thr s k) (x s a) (x s b))) := by
  show execVsetl d a b s = _
  simp [execVsetl, vSync, h, hc, hq]

theorem exec_vsetl_of_illegal {s : State} {b : Fin 32} (d a : Fin 32) (h : vtLegal (x s b) = false) :
    exec (.vsetl d a b) s = raise 0x01 (tvalWord (.vsetl d a b)) s := by
  show execVsetl d a b s = _
  simp [execVsetl, h]

theorem onlyThread_setX {s : State} {k : Nat} (d : Fin 32) (v : Word) (hc : s.cur = .thread k) : OnlyThread k s (setX s d v) := by
  unfold setX
  split
  · exact ⟨rfl, fun _ _ => rfl, fun _ => rfl⟩
  · rw [setSeq_of_thread hc]
    exact onlyThread_setThr _ _ _

theorem thr_setX_self {s : State} {k : Nat} (d : Fin 32) (v : Word) (hc : s.cur = .thread k) :
    thr (setX s d v) k = { thr s k with seq := (thr (setX s d v) k).seq } := by
  unfold setX
  split
  · rfl
  · rw [setSeq_of_thread hc, thr_setThr_self]

/-- R156, R133: a thread that has been changed beside its sequencer writes a register and goes on. -/
theorem writeOn_setThr {s : State} {k : Nat} {w : Thread} (d : Fin 32) (v : Word) (hc : s.cur = .thread k)
    (hq : w.seq = (thr s k).seq) (hr : w.rcb = (thr s k).rcb) :
    ∃ t, writeOn d v (setThr s k w) = .next t ∧ wrote d v s t ∧ wentOn s t ∧ OnlyThread k s t
      ∧ thr t k = { w with seq := (thr t k).seq } := by
  let u := setThr s k w
  have hu : u.cur = .thread k := hc
  have hux : (setX u d v).cur = .thread k := (setX_cur u d v).trans hu
  have hself : thr u k = w := thr_setThr_self _ _ _
  have hcur : curSeq u = curSeq s := by rw [curSeq_of_thread hu, curSeq_of_thread hc, hself, hq]
  have hfin : curSeq (finish u) = curSeq (finish s) :=
    curSeq_finish_of_thread hc hu rfl (by rw [hself, hq]) (by rw [hself, hr])
  have hp := hasProgram_of_thread hu
  refine ⟨finish (setX u d v), rfl, fun r => ?_, ?_,
    (onlyThread_setThr s k w).trans ((onlyThread_setX d v hu).trans (onlyThread_finish hux)), ?_⟩
  · rw [wrote_finish_setX u d v hp r, x, x, hcur]
  · have hwent := wentOn_finish_setX u d v hp
    rwa [wentOn, hfin] at hwent
  · rw [thr_finish_self hux, thr_setX_self d v hu, hself]

/-- R215: the length is the cap, rounded down to whole blocks. -/
theorem vsetlLength_spec (t : Thread) (cur : Fin 4) (a b : Word) :
    let most := min a.toNat (min (vlmax cur t.share (vtBits b)) (2 ^ t.vlceil))
    let len := blkLen (vtBlk b)
    (len = 0 → vsetlLength t cur a b = most)
      ∧ (0 < len → vsetlLength t cur a b % len = 0 ∧ vsetlLength t cur a b ≤ most ∧ most < vsetlLength t cur a b + len) := by
  intro most len
  refine ⟨fun h => if_pos h, fun h => ?_⟩
  have hlength : vsetlLength t cur a b = most - most % len := if_neg h.ne'
  have hlt := Nat.mod_lt most h
  rw [hlength]
  exact ⟨Nat.mod_eq_zero_of_dvd (Nat.dvd_sub_mod most), Nat.sub_le _ _, by omega⟩

end Sys2Proof.Machine

namespace Sys2Proof
open Machine

/-- Settles O23: a queued instruction goes by `vIssue` (`exec_of_queuedOperands`), which appends its entry and goes on (`vPush_of_room`);
`vsetl` changes its thread beside its sequencer, writes its register and goes on. -/
theorem vectorDispatchAndLength : Obligations.VectorDispatchAndLength := by
  refine ⟨fun s k i ops hc h => ?dispatch, fun s k d a b hc hq => ⟨fun hl => ?vsetl, exec_vsetl_of_illegal d a⟩⟩
  case dispatch =>
    rw [exec_of_queuedOperands h]
    refine ⟨fun c hr => vIssue_of_refused hc hr, fun hn hd hroom => ?_, fun hn hd hfull => ?_⟩
    · obtain ⟨t, ht, hframe, hthr⟩ := vPush_of_room (i := i) (ops := ops) hc hd hroom
      refine ⟨t, (vIssue_of_legal hc hn).trans ht, hframe, ?_, fun hload => ?_, fun q hload => ⟨fun r hne => ?_, ?_⟩⟩
      · rw [hthr]
        rfl
      · rw [hthr]
        exact queuedQueues_of_none hload
      · simp only [hthr, queuedThread, queuedQueues_of_some hload]
        exact queues_mapQueue_ne _ _ hne
      · refine ⟨unfilledEntry s k, ?_, ?_, rfl, rfl, rfl⟩
        · simp only [hthr, queuedThread, queuedQueues_of_some hload]
          exact queues_mapQueue_self _ _ _
        · rw [queuedEntry, hload]
          rfl
    · rw [vIssue_of_legal hc hn, vPush_of_full hd hfull]
  case vsetl =>
    have hself := vsetlThread_eq (thr s k) (x s a) (x s b)
    obtain ⟨t, ht, hwrote, hwent, hframe, hthr⟩ := writeOn_setThr d (BitVec.ofNat 64 (vsetlThread (thr s k) (x s a) (x s b)).vl) hc
      (w := vsetlThread (thr s k) (x s a) (x s b)) (by rw [hself]) (by rw [hself])
    obtain ⟨hwhole, hblocks⟩ := vsetlLength_spec (thr s k) (if (thr s k).pv then (thr s k).pend else (thr s k).cur) (x s a) (x s b)
    refine ⟨t, _, (exec_vsetl_of_legal d hc hq hl).trans ht, ?_, hwent, hframe, hwhole, hblocks, hthr.trans ?_⟩
    · rw [word_natCast]
      exact hwrote
    · rw [hself]

end Sys2Proof
end

section
/-!
PROOFS. The events of a slot (O48). One lemma says what each step about a thread leaves: most write the slot alone; a landing stops an
empty queue where it stands; a free and a save leave the tables of slots and of the intake to the writes of their last steps.
-/

-- The check elaborates all files as one text: one declaration at a time keeps that within its memory.
set_option Elab.async false

namespace Sys2Proof.Machine

/-! ## Requests, resumes and sessions (R149, R130, R473) -/

theorem exec_preemptRequest {s : State} {k : Nat} (hk : isThread k = true) (h : (thr s k).st = .running ∨ (thr s k).st = .waiting) :
    exec (.preemptRequest k) s = .next (setThr s k { thr s k with preq := true }) := by
  show execPreemptRequest k s = _
  rw [execPreemptRequest, if_pos hk]
  exact congrArg _ (if_pos h)

theorem exec_plimExpiry {s : State} {k : Nat} (h : (thr s k).preq = true) :
    exec (.plimExpiry k) s = .next (setThr s k { thr s k with plim := true }) := if_pos h

theorem exec_slotResume {s : State} {k : Nat} (hst : (thr s k).st = .suspended) (hh : (thr s k).halted = false) :
    exec (.slotResume k) s = .next (setThr s k { thr s k with st := .running, late := false }) := if_pos ⟨hst, hh⟩

theorem isThread_lt {k : Nat} (hk : isThread k = true) : k < 2 ^ 21 := by
  simp only [isThread, Bool.and_eq_true, decide_eq_true_eq] at hk
  omega

section
variable {s : State} {k : Nat} (hk : isThread k = true) (hr : haltReaches s k = true)
include hk hr

theorem exec_debugHalt_of_issuing (h : (thr s k).st = .running ∨ (thr s k).st = .waiting) :
    exec (.debugHalt (k, [])) s = .next (setThr s k
      { thr s k with st := .suspended, halted := true, dbgStep := false, snap := none, yieldWait := [] }) := by
  show execDebugHalt (k, []) s = _
  simp only [execDebugHalt, hr, Bool.true_eq_false, if_false, if_pos (isThread_lt hk), if_pos h]
  rfl

theorem exec_debugHalt_of_suspended (h : (thr s k).st = .suspended) (l : List (Nat × Option Word)) :
    exec (.debugHalt (k, l)) s = .next (debugAccess k l s) := by
  show execDebugHalt (k, l) s = _
  simp only [execDebugHalt, hr, Bool.true_eq_false, if_false, if_pos (isThread_lt hk), h, reduceCtorEq, or_self, if_true]

theorem exec_debugStep (hst : (thr s k).st = .suspended) (hh : (thr s k).halted = true) :
    exec (.debugStep k) s = .next { setThr s k { thr s k with dbgStep := true } with turns := .thread k :: s.turns } := by
  show execDebugStep k s = _
  simp only [execDebugStep, hr, Bool.true_eq_false, if_false, if_pos (isThread_lt hk), hst, hh, and_self, if_true]

end

theorem debugAccess_read {s : State} {k : Nat} (hk : isThread k = true) (r : Fin 32) :
    debugAccess k [(r.val, none)] s = { s with debugOut := s.debugOut ++ [(thr s k).seq.regs[r]] } := by
  have hget : debugGet s k r.val = (thr s k).seq.regs[r] := by
    rw [debugGet, if_pos (isThread_lt hk), threadGet, if_pos (.inl r.isLt.le), seqGet, dif_pos r.isLt]
    rfl
  rw [← hget]
  rfl

theorem debugAccess_write {s : State} {k : Nat} (hk : isThread k = true) {r : Fin 32} (hr : r ≠ 0) (v : Word) :
    debugAccess k [(r.val, some v)] s = setThr s k { thr s k with seq := { (thr s k).seq with regs := (thr s k).seq.regs.set r v } } := by
  have hne : r.val ≠ 0 := fun h => hr (Fin.ext h)
  have hput : threadPut (thr s k) r.val v = { thr s k with seq := { (thr s k).seq with regs := (thr s k).seq.regs.set r v } } := by
    rw [threadPut, if_pos (.inl r.isLt.le), seqPut, dif_pos r.isLt, if_neg hne]
  rw [← hput]
  exact if_pos (isThread_lt hk)

/-! ## Frames -/

theorem OnlyThread.ctx_eq {k : Nat} {s u : State} (h : OnlyThread k s u) (c : Nat) : ctx u c = ctx s c :=
  (congrArg (fun t => ctx t c) h.rest :)

theorem onlyTrapped.ctx_eq {k : Nat} {s t : State} (h : onlyTrapped k s t) (c : Nat) : ctx t c = ctx s c :=
  OnlyThread.ctx_eq h c

theorem OnlyThread.trans_onlyTrapped {k : Nat} {s t u : State} (h : OnlyThread k s u) (h' : onlyTrapped k u t) : onlyTrapped k s t := by
  have hreqs : u.hostReqs = s.hostReqs := (congrArg State.hostReqs h.rest :)
  rw [onlyTrapped, hreqs] at h'
  exact h.trans h'

theorem onlyTrapped_setThr_answers (k : Nat) (s : State) (l : Tab (List HostWait)) (v : Thread) :
    onlyTrapped k s (setThr { s with hostReqs := l } k v) :=
  ⟨rfl, fun _ h => thr_setThr_ne { s with hostReqs := l } v h, fun _ => rfl⟩

/-- A write of a slot whose thread and vector unit take no more answers of the host. -/
theorem onlyTrapped_setThr_dropped (k : Nat) (s : State) (v : Thread) :
    onlyTrapped k s (setThr (dropRequests (vReq k) (dropRequests k s)) k v) := onlyTrapped_setThr_answers k s _ v

/-! ## Landings (R150, R409) -/

/-- A queue with no entry stops where it stands. -/
theorem stopQueue_of_empty {s : State} {k : Nat} (hq : (thr s k).vq = []) :
    ∃ u, stopQueue k s = some u ∧ OnlyThread k s u ∧ thr u k = thr s k := by
  have hsend : sendEntries k s = setThr s k { thr s k with vq := [] } := by rw [sendEntries, hq]; rfl
  have hself : thr (sendEntries k s) k = thr s k := by rw [hsend, thr_setThr_self, ← hq]
  refine ⟨setThr (sendEntries k s) k { thr s k with vq := [] }, ?_, ?_, ?_⟩
  · simp [stopQueue, hself, hq]
  · rw [hsend]
    exact (onlyThread_setThr s k _).trans (onlyThread_setThr _ k _)
  · rw [thr_setThr_self, ← hq]

theorem closeLoad_of_not_ended {s : State} {k : Nat} (h : inLoad s k ≠ some true) : closeLoad k s = s := by
  unfold closeLoad
  split
  · exact absurd ‹_› h
  · rfl

theorem stopEntry4F_of_empty {s : State} {k : Nat} (hq : (thr s k).vq = []) : stopEntry4F k s = s := by
  rw [stopEntry4F, hq]
  rfl

theorem inLoad_congr {s u : State} {k : Nat} (ht : thr u k = thr s k) (hx : ctx u (k / 4) = ctx s (k / 4)) :
    inLoad u k = inLoad s k := by
  rw [inLoad, inLoad, coreOfThread, ht, hx]

theorem landNow_suspends (k : Nat) (s : State) :
    (thr (landNow k s) k).st = .suspended ∧ (thr (landNow k s) k).preq = false ∧ (thr (landNow k s) k).plim = false := by
  rw [landNow, thr_setThr_self]
  exact ⟨rfl, rfl, rfl⟩

/-- R150: the landing of a thread with an empty queue that waits for no load that has ended changes its slot alone, and neither its
position nor its registers. -/
theorem landNow_of_empty {s : State} {k : Nat} (hq : (thr s k).vq = []) (hl : inLoad s k ≠ some true) :
    onlyTrapped k s (landNow k s) ∧ (thr (landNow k s) k).seq = (thr s k).seq ∧ (thr (landNow k s) k).vregs = (thr s k).vregs
      ∧ (thr (landNow k s) k).mregs = (thr s k).mregs := by
  obtain ⟨u, hu, hframe, hself⟩ := stopQueue_of_empty hq
  have hload : closeLoad k u = u := closeLoad_of_not_ended (by rwa [inLoad_congr hself (hframe.ctx_eq _)])
  have hstop : stopEntry4F k u = u := stopEntry4F_of_empty (by rw [hself, hq])
  rw [landNow, hu, Option.getD_some, hload, hstop, thr_setThr_self, hself]
  exact ⟨hframe.trans_onlyTrapped (onlyTrapped_setThr_dropped k u _), rfl, rfl, rfl⟩

theorem exec_preemptLanding {s : State} {k : Nat} (h : landable s k = true) : exec (.preemptLanding k) s = .next (landNow k s) :=
  if_pos h

/-- R409: the load of a context is given up with its shadow. -/
def abandonLoad (c : Nat) (s : State) : State := setCtx s c { ctx s c with load := none, loading := none, shadow := none }

theorem exec_cfgldPreemptHold {s : State} {k : Nat} (hp : (thr s k).preq = true) (hl : inLoad s k = some false)
    (hb : elementBusy s k = false) (he : (ctx s (k / 4)).ending = false) (hq : (stopQueue k s).isSome = true) :
    exec (.cfgldPreemptHold k) s = .next (landNow k (abandonLoad (k / 4) s)) := by
  show execCfgldPreemptHold k s = _
  rw [execCfgldPreemptHold, if_neg (fun h => Bool.noConfusion (he.symm.trans h.1)), if_pos ⟨hp, hl, hb, hq⟩]
  rfl

theorem ctx_abandonLoad (c : Nat) (s : State) :
    ctx (abandonLoad c s) c = { ctx s c with load := none, loading := none, shadow := none } := ctx_setCtx_self _ _ _

theorem inLoad_abandonLoad (k : Nat) (s : State) : inLoad (abandonLoad (k / 4) s) k = none := by
  rw [inLoad, coreOfThread, ctx_abandonLoad]

theorem onlyTrapped_of_abandoned {k c : Nat} {s t : State} (h : onlyTrapped k (abandonLoad c s) t) :
    onlyTrapped k s { t with ctxs := s.ctxs } :=
  ⟨congrArg (fun u => { u with ctxs := s.ctxs }) h.rest, h.others, h.memory⟩

/-! ## Deliveries and held records (R305, R148) -/

theorem orAflags_spec (k : Nat) (f : BitVec 7) (s : State) :
    OnlyThread k s (orAflags k f s) ∧ thr (orAflags k f s) k = { thr s k with aflags := (thr s k).aflags ||| f } := by
  unfold orAflags
  split
  · subst f
    exact ⟨⟨rfl, fun _ _ => rfl, fun _ => rfl⟩, congrArg (fun f => { thr s k with aflags := f }) BitVec.or_zero.symm⟩
  · exact ⟨onlyThread_setThr _ _ _, thr_setThr_self _ _ _⟩

theorem hm_of_canDeliver {t : Thread} (h : canDeliver t = true) : t.hm = false := by
  simp only [canDeliver, deliveryDue, Bool.and_eq_true, Bool.not_eq_true'] at h
  exact h.1.1.1.2

theorem exec_engineRecordDelivery {s : State} {k : Nat} (h : canDeliver (thr s k) = true) (hb : scalarBusy s k = false) :
    exec (.engineRecordDelivery k) s = .next (deliver k s) := if_pos (by rw [h, hb]; rfl)

/-- R305: the oldest record of a thread outside its handler that has one enters it, with the flags that came with the record. -/
theorem deliver_spec {s : State} {k : Nat} {d : Delivery} {l : List Delivery} (hd : (thr s k).deliv = d :: l)
    (hm : (thr s k).hm = false) (hv : (thr s k).tvec ≠ 0) (he : d.ecls < 16) :
    onlyTrapped k s (deliver k s)
      ∧ thr (deliver k s) k = handlerOf { thr s k with deliv := l, aflags := (thr s k).aflags ||| d.flags } (thr s k).seq.pc d.cause d.ecls
          d.addr := by
  let u := setThr s k { thr s k with deliv := l }
  have hu : thr u k = { thr s k with deliv := l } := thr_setThr_self _ _ _
  obtain ⟨hframe, hflags⟩ := orAflags_spec k d.flags u
  rw [hu] at hflags
  obtain ⟨htrap, hthr⟩ := trapTo_spec k d.cause d.addr d.ecls (orAflags k d.flags u) (by rw [hflags]; exact hm) (by rw [hflags]; exact hv) he
  have hdeliver : deliver k s = trapTo k d.cause d.addr d.ecls (orAflags k d.flags u) := by rw [deliver, hd]
  rw [hdeliver, hthr, hflags]
  exact ⟨((onlyThread_setThr s k _).trans hframe).trans_onlyTrapped htrap, rfl⟩

/-- R148: the oldest held record is written, where it finds room. -/
theorem exec_heldRecordWrite {s u : State} {c : Nat} {h : HeldRec} {l : List HeldRec} {a : Word} (hh : (core s c).held = h :: l)
    (hf : fqFull (core s c) h.addrs.length = false) (hb : recordBusy h.iss h.addrs.length s = false)
    (hw : recordWrite h.iss h.record h.addrs (setCore s c { core s c with held := l }) = .ok (a, u)) :
    exec (.heldRecordWrite c) s = .next (recordDone h.use h.iss h.record a u) := by
  show execHeldRecordWrite c s = _
  simp only [execHeldRecordWrite, hh, hf, hb, hw, Bool.and_false, Bool.false_eq_true, if_false]

theorem recordDone_of_engine {u : State} {i : Issuer} {r : BitVec 512} {a : Word} {f : BitVec 7} (h : stillBound u i = true) :
    recordDone (.engine f) i r a u = setThr u i.thread
      { thr u i.thread with deliv := (thr u i.thread).deliv ++ [⟨recordCause r, a, recordEcls r, f⟩] } := if_pos h

/-! ## Strips (R206) -/

/-- R205, R206: a strip that goes on, ends its entry or faults is charged by the groups it came through. -/
theorem strip_charged {s u : State} {k cost : Nat} {en : VEntry} {v : List VEntry} (hq : (thr s k).vq = en :: v)
    (h : vStep k s = .done u ∧ cost = stripCost en * groupsLeft en + wholeCost en.instr
      ∨ vStep k s = .fault u ∧ cost = stripCost en * min (groupsLeft en) (if isVMem en.instr then 4 else 1)
      ∨ ∃ e' v', vStep k s = .more u ∧ (thr u k).vq = e' :: v' ∧ cost = stripCost en * (e'.estart / 64 - en.estart / 64)) :
    strip k s = (chargeStrip k cost u, true) := by
  rcases h with ⟨hv, rfl⟩ | ⟨hv, rfl⟩ | ⟨e', v', hv, hq', rfl⟩
  · simp only [strip, hq, hv]
  · simp only [strip, hq, hv]
  · simp only [strip, hq, hv, hq']

theorem exec_vectorStripIssue {s t : State} {c k : Nat} {l : List Nat} (ho : stripOrder s c = k :: l) (h : strip k s = (t, true)) :
    exec (.vectorStripIssue c) s = .next t := by
  show execVectorStripIssue c s = _
  simp only [execVectorStripIssue, ho, issueStrip, h, if_true]

/-! ## Binds (R203, R204) -/

theorem find?_tabInsert_self {α : Type} (k : Nat) (v : α) (t : Tab α) :
    (tabInsert k v t).find? (fun p => p.1 == k) = some (k, v) := by
  induction t with
  | nil => simp [tabInsert]
  | cons p t ih =>
    simp only [tabInsert]
    split
    · simp
    · split
      · simp
      · have hne : p.1 ≠ k := fun e => ‹¬k = p.1› e.symm
        simp [hne, ih]

@[simp] theorem intakeAt_setIntake_self (s : State) (dev e : Nat) (v : Intake) : intakeAt (setIntake s dev e v) dev e = some v := by
  rw [intakeAt, setIntake, find?_tabInsert_self]
  rfl

theorem thr_setIntake (s : State) (dev e : Nat) (v : Intake) (k : Nat) : thr (setIntake s dev e v) k = thr s k := rfl

/-- The tables that a bind, an end and a save write last: the slots and the intake. -/
def slotTables (s : State) : Tab Thread × Tab Intake := (s.threads, s.intake)

theorem thr_of_slotTables {s u : State} (h : slotTables u = slotTables s) (j : Nat) : thr u j = thr s j := by
  rw [thr, thr, (Prod.mk.inj h).1]

theorem intakeAt_of_slotTables {s u : State} (h : slotTables u = slotTables s) (dev e : Nat) : intakeAt u dev e = intakeAt s dev e := by
  rw [intakeAt, intakeAt, (Prod.mk.inj h).2]

theorem slotTables_ite {p : Prop} [Decidable p] {s t u : State} (ht : slotTables t = slotTables s) (hu : slotTables u = slotTables s) :
    slotTables (if p then t else u) = slotTables s := by
  split
  · exact ht
  · exact hu

theorem slotTables_bindAgent (d agent : BitVec 8) (k : Nat) (s : State) : slotTables (bindAgent d agent k s) = slotTables s :=
  slotTables_ite rfl rfl

theorem exec_bindGo_of_taken {s : State} {k : Nat} (hk : isThread k = true) (h : (thr s k).st ≠ .free) :
    exec (.bindGo k) s = .next (setBerr k true s) := by
  show execBindGo k s = _
  rw [execBindGo, if_pos hk]
  exact congrArg _ (if_pos h)

theorem slotTables_spaces (s : State) (l : List (Nat × BitVec 16 × BitVec 20)) : slotTables { s with spaces := l } = slotTables s := rfl

theorem slotTables_setThr {s u : State} (h : slotTables u = slotTables s) (k : Nat) (t : Thread) :
    slotTables (setThr u k t) = slotTables (setThr s k t) := by
  obtain ⟨hthreads, hintake⟩ := Prod.mk.inj h
  simp only [slotTables, setThr, hthreads, hintake]

theorem slotTables_setIntake {s u : State} (h : slotTables u = slotTables s) (dev e : Nat) (n : Intake) :
    slotTables (setIntake u dev e n) = slotTables (setIntake s dev e n) := by
  obtain ⟨hthreads, hintake⟩ := Prod.mk.inj h
  simp only [slotTables, setIntake, hthreads, hintake]

theorem slotTables_writeMem (s : State) (pa n v : Nat) : slotTables (writeMem s pa n v) = slotTables s := rfl

theorem slotTables_serial (s : State) (n : Nat) : slotTables { s with serial := n } = slotTables s := rfl

theorem bind_boundThread (s : State) (b : Nat) (n : Intake) (img : Nat) : (boundThread s b n img).bind = s.serial + 1 := rfl

/-- R203: a bind that no check refuses makes the thread and is noted in its entry of the intake. -/
theorem slotTables_bindNow_of_free {s : State} {k : Nat} {n : Intake} (hf : (thr s k).st = .free)
    (hn : intakeAt s (devOfDie (k / 128)) (bindRead s k % 1024) = some n) (hbad : bindBad s k (bindRead s k) n = false)
    (htiles : (claimsTiles n.record n.image && tilesTaken s k) = false)
    (hlog : n.image / 2 ^ 64 % 16 ≤ grantedLog n.record n.image (bindRead s k / 2 ^ 22 % 16) (bindRead s k / 2 ^ 26 % 16)) :
    slotTables (bindNow k s) = slotTables (setIntake (setThr s k (boundThread s (bindRead s k) n n.image)) (devOfDie (k / 128))
      (bindRead s k % 1024)
      { n with started := setInsert (bindRead s k / 2 ^ 10 % 4096) n.started,
               binds := n.binds ++ [(boundThread s (bindRead s k) n n.image).bind] }) := by
  have hentry : bitsOf (bindRead s k) 9 0 = bindRead s k % 1024 := by norm_num [bitsOf]
  have hindex : bitsOf (bindRead s k) 21 10 = bindRead s k / 2 ^ 10 % 4096 := by norm_num [bitsOf]
  have hshare : bitsOf (bindRead s k) 25 22 = bindRead s k / 2 ^ 22 % 16 := by norm_num [bitsOf]
  have hvlg : bitsOf (bindRead s k) 29 26 = bindRead s k / 2 ^ 26 % 16 := by norm_num [bitsOf]
  have hleast : bitsOf n.image 67 64 = n.image / 2 ^ 64 % 16 := by norm_num [bitsOf]
  rw [bindNow, if_neg (not_not.2 hf)]
  simp only [hentry, hindex, hshare, hvlg, hleast, dieOfThread, hn, hbad, htiles, Nat.not_lt.2 hlog, if_false, Bool.false_eq_true]
  rw [slotTables_bindAgent, slotTables_spaces]
  have hnoted : slotTables { setBerr k false s with serial := s.serial + 1 } = slotTables s := by
    rw [slotTables_serial, setBerr, slotTables_writeMem]
  exact slotTables_setIntake (slotTables_setThr hnoted _ _) _ _ _

theorem exec_bindGo {s : State} {k : Nat} (hk : isThread k = true) : exec (.bindGo k) s = .next (bindNow k s) := if_pos hk

/-! ## Bound threads that run (R204) -/

theorem slotRuns_of_alive {s : State} {k : Nat} (h : (thr s k).killed = false) : slotRuns k s = setThr s k { thr s k with st := .running } := by
  rw [slotRuns]
  exact if_neg (by rw [thr_setThr_self, h]; exact Bool.false_ne_true)

theorem exec_bindStateReady_of_fresh {s : State} {k : Nat} (hb : (thr s k).st = .bound) (hr : (thr s k).restore = none)
    (ha : (thr s k).killed = false) : exec (.bindStateReady k) s = .next (setThr s k { thr s k with st := .running }) := by
  show execBindStateReady k s = _
  simp only [execBindStateReady, hb, hr, ne_eq, not_true_eq_false, if_false, slotRuns_of_alive ha]

theorem killed_rejoin (s : State) (t : Thread) (p : Bool) (e : VEntry) : (rejoin s t p e).killed = t.killed := by
  unfold rejoin
  extract_lets
  split <;> rfl

theorem killed_restoreQueue (s : State) (pa : Nat) (t : Thread) : (restoreQueue s pa t).killed = t.killed := by
  unfold restoreQueue
  extract_lets
  split
  · rfl
  · exact List.foldlRecOn (motive := fun u : Thread => u.killed = t.killed) _ _ rfl (fun _ hu _ _ => (killed_rejoin _ _ _ _).trans hu)

theorem killed_restoreThread (k pa : Nat) (s : State) : (thr (restoreThread k pa s) k).killed = (thr s k).killed := by
  unfold restoreThread
  extract_lets h t f cur status vcfg loops kb rb made queued s0 s1 _ s2 _ _ _ s3
  have hqueued : queued.killed = t.killed := killed_restoreQueue s pa made
  have h1 : thr s1 k = queued := thr_setThr_self _ _ _
  have h2 : thr s2 k = thr s1 k := by
    show thr (if _ then _ else _) k = _
    split <;> rfl
  have h3 : thr s3 k = thr s2 k := by
    show thr (if _ then _ else _) k = _
    split <;> rfl
  have h4 : ∀ p : Prop, [Decidable p] → ∀ c, thr (if p then setClock s3 t.rdom t.agent c else s3) k = thr s3 k := by
    intro p _ c
    split <;> rfl
  rw [h4, h3, h2, h1, hqueued]

theorem exec_bindStateReady_of_restored {s : State} {k : Nat} {h : Word} (hb : (thr s k).st = .bound) (hr : (thr s k).restore = some h)
    (hok : restoreBad s k (readMem s h.toNat 64) = false) (ha : (thr s k).killed = false) :
    exec (.bindStateReady k) s
      = .next (setThr (restoreThread k h.toNat s) k { thr (restoreThread k h.toNat s) k with st := .running }) := by
  have halive : (thr (restoreThread k h.toNat s) k).killed = false := (killed_restoreThread _ _ _).trans ha
  show execBindStateReady k s = _
  simp only [execBindStateReady, hb, hr, hok, ne_eq, not_true_eq_false, if_false, Bool.false_eq_true, slotRuns_of_alive halive]

/-! ## Slots that become free (R19, R153) -/

theorem slotTables_faRelease (c : Nat) (s : State) : slotTables (faRelease c s) = slotTables s := rfl

theorem slotTables_freeAgent (d agent : BitVec 8) (s : State) : slotTables (freeAgent d agent s) = slotTables s :=
  slotTables_ite rfl rfl

theorem slotTables_setIq (key : Nat) (q : Iq) (s : State) : slotTables (setIq key q s) = slotTables s := rfl

theorem slotTables_iqFreeHolder (k b : Nat) (s : State) : slotTables (iqFreeHolder k b s) = slotTables s := by
  rw [iqFreeHolder]
  exact foldl_keeps slotTables (fun u p => slotTables_ite (slotTables_setIq _ _ u) rfl) _ _

theorem threadEnded_of_going {s : State} {dev e : Nat} {n : Intake} (hn : intakeAt s dev e = some n) (hr : n.refused = false)
    (he : n.ended ≠ recNthr n.record) (killed : Bool) :
    threadEnded dev e killed s = setIntake s dev e { n with ended := n.ended + 1, killed := n.killed || killed } := by
  have he' : n.ended + 1 ≠ recNthr n.record + 1 := fun h => he (Nat.succ.inj h)
  simp only [threadEnded, hn, hr, he', Bool.false_eq_true, if_false]

theorem intakeAt_setThr (s : State) (k : Nat) (t : Thread) (dev e : Nat) : intakeAt (setThr s k t) dev e = intakeAt s dev e := rfl

/-- R19: a retiring slot with nothing outstanding is free, and its end is counted. -/
theorem exec_slotFree {s : State} {k : Nat} {n : Intake} (hst : (thr s k).st = .retiring) (hb : asyncBusy s k = false)
    (hd : (thr s k).deliv = []) (hf : (thr s k).forkFaults = [])
    (hn : intakeAt s (devOfDie (k / 128)) (thr s k).entry = some n) (hr : n.refused = false) (he : n.ended ≠ recNthr n.record) :
    ∃ t, exec (.slotFree k) s = .next t ∧ slotTables t = slotTables (setIntake (setThr s k Thread.init) (devOfDie (k / 128)) (thr s k).entry
      { n with ended := n.ended + 1, killed := n.killed || (thr s k).killed }) := by
  have hreported : reportDeliveries k ((thr s k).deliv ++ (thr s k).forkFaults) s = s := by rw [hd, hf]; rfl
  obtain ⟨u, hmade⟩ : ∃ u, freeAgent (thr s k).rdom (thr s k).agent
    (iqFreeHolder k (thr s k).bind (if attached s k then faRelease (coreOfThread k) s else s)) = u := ⟨_, rfl⟩
  have hu : slotTables u = slotTables s := by
    rw [← hmade, slotTables_freeAgent, slotTables_iqFreeHolder]
    exact slotTables_ite (slotTables_faRelease _ _) rfl
  have hfreed := slotTables_setThr hu k Thread.init
  have hnu : intakeAt (setThr u k Thread.init) (devOfDie (k / 128)) (thr s k).entry = some n :=
    ((intakeAt_of_slotTables hfreed _ _).trans (intakeAt_setThr _ _ _ _ _)).trans hn
  have hgo : ¬((thr s k).st ≠ .retiring ∨ asyncBusy s k = true) := by simp [hst, hb]
  have hexec : exec (.slotFree k) s
      = .next (threadEnded (devOfDie (k / 128)) (thr s k).entry (thr s k).killed (setThr u k Thread.init)) := by
    show execSlotFree k s = _
    simp only [execSlotFree, if_neg hgo, hreported, hmade, dieOfThread]
  rw [threadEnded_of_going hnu hr he] at hexec
  exact ⟨_, hexec, slotTables_setIntake hfreed _ _ _⟩

theorem slotTables_storeMem (s : State) (pa n v : Nat) : slotTables (storeMem s pa n v) = slotTables s := rfl

theorem slotTables_poisonAt (s : State) (pa : Nat) : slotTables (poisonAt s pa) = slotTables s := rfl

theorem slotTables_clearTags (s : State) (pa n : Nat) : slotTables (clearTags s pa n) = slotTables s := rfl

theorem slotTables_saveWord (pa n v : Nat) (s : State) : slotTables (saveWord pa n v s) = slotTables s := rfl

theorem slotTables_savePBits {n : Nat} (pa bytes : Nat) (p : PBits n) (s : State) : slotTables (savePBits pa bytes p s) = slotTables s := by
  rw [savePBits, foldl_keeps slotTables (fun u g => slotTables_ite rfl (slotTables_poisonAt u _)), slotTables_storeMem]

theorem slotTables_saveAcc (pa g : Nat) (x : Ctx) (s : State) : slotTables (saveAcc pa g x s) = slotTables s := by
  refine foldl_keeps slotTables (fun u i => ?_) _ _
  dsimp only
  split
  · rfl
  · exact (slotTables_saveWord _ _ _ _).trans (foldl_keeps slotTables (fun v _ => slotTables_saveWord _ _ _ v) _ _)

theorem slotTables_saves (s : State) (l : List (Nat × Nat × BitVec 20)) : slotTables { s with saves := l } = slotTables s := rfl

theorem slotTables_savedVq (s : State) (q : Tab SavedQueue) : slotTables { s with savedVq := q } = slotTables s := rfl

/-- R153: a save writes memory alone. -/
theorem slotTables_saveThread (k pa : Nat) (s : State) : slotTables (saveThread k pa s) = slotTables s := by
  unfold saveThread
  extract_lets _ s1 _ _ _ _ _ _ _ _ s2 s3 s4 s5 s6 s7 s8 s9 s10 s11 s12 s13 s14 s15 s16 s17 s18 s19 _
  have h1 : slotTables s1 = slotTables s := slotTables_saves _ _
  have h2 : slotTables s2 = slotTables s := (slotTables_saveWord _ _ _ _).trans h1
  have h3 : slotTables s3 = slotTables s := (slotTables_saveWord _ _ _ _).trans h2
  have h4 : slotTables s4 = slotTables s := (slotTables_saveWord _ _ _ _).trans h3
  have h5 : slotTables s5 = slotTables s := (slotTables_saveWord _ _ _ _).trans h4
  have h6 : slotTables s6 = slotTables s := (slotTables_saveWord _ _ _ _).trans h5
  have h7 : slotTables s7 = slotTables s := (slotTables_saveWord _ _ _ _).trans h6
  have h8 : slotTables s8 = slotTables s := (slotTables_saveWord _ _ _ _).trans h7
  have h9 : slotTables s9 = slotTables s := (slotTables_saveWord _ _ _ _).trans h8
  have h10 : slotTables s10 = slotTables s := (slotTables_saveWord _ _ _ _).trans h9
  have h11 : slotTables s11 = slotTables s := (slotTables_saveWord _ _ _ _).trans h10
  have h12 : slotTables s12 = slotTables s := (foldl_keeps slotTables (fun _ _ => slotTables_savePBits _ _ _ _) _ _).trans h11
  have h13 : slotTables s13 = slotTables s := (slotTables_saveWord _ _ _ _).trans h12
  have h14 : slotTables s14 = slotTables s := (slotTables_saveWord _ _ _ _).trans h13
  have h15 : slotTables s15 = slotTables s := (foldl_keeps slotTables (fun _ _ => slotTables_saveWord _ _ _ _) _ _).trans h14
  have h16 : slotTables s16 = slotTables s := (slotTables_saveWord _ _ _ _).trans h15
  have h17 : slotTables s17 = slotTables s := (foldl_keeps slotTables (fun _ _ => slotTables_savePBits _ _ _ _) _ _).trans h16
  have h18 : slotTables s18 = slotTables s :=
    slotTables_ite ((foldl_keeps slotTables (fun _ _ => slotTables_savePBits _ _ _ _) _ _).trans h17) h17
  have h19 : slotTables s19 = slotTables s := slotTables_ite ((slotTables_saveAcc _ _ _ _).trans h18) h18
  exact (slotTables_clearTags _ _ _).trans ((slotTables_savedVq _ _).trans h19)

theorem slotTables_setDom (s : State) (d : BitVec 8) (v : RaceDom) : slotTables (setDom s d v) = slotTables s := rfl

theorem slotTables_leaveSlot (k : Nat) (s : State) : slotTables (leaveSlot k s) = slotTables (setThr s k Thread.init) := by
  rw [leaveSlot, slotTables_setDom]

theorem settleRefused_of_not_refused {s : State} {dev e : Nat} (h : ∀ n, intakeAt s dev e = some n → n.refused = false) :
    settleRefused dev e s = s := by
  unfold settleRefused
  split
  · rfl
  · next n hn => exact if_neg (fun hp => Bool.false_ne_true ((h n hn).symm.trans hp.1))

/-- R153: a suspended slot that is saved is free. -/
theorem exec_saveComplete {s : State} {k : Nat} (hst : (thr s k).st = .suspended) (hb : asyncBusy s k = false)
    (hforks : (thr s k).forks = []) (hfaults : (thr s k).forkFaults = []) (hd : (thr s k).deliv = []) (hheld : (thr s k).heldTrap = false)
    (howed : (thr s k).owed = none) (hpage : bindRead s k / 2 ^ 64 % 2 ^ 52 % 4096 = 0)
    (hfirst : savePlace (bindRead s k / 2 ^ 64 % 2 ^ 52) = true)
    (hlast : savePlace (bindRead s k / 2 ^ 64 % 2 ^ 52 + saveSize s k - 1) = true)
    (hn : ∀ n, intakeAt s (devOfDie (k / 128)) (thr s k).entry = some n → n.refused = false) :
    ∃ t, exec (.saveComplete k) s = .next t ∧ slotTables t = slotTables (setThr s k Thread.init) := by
  have hpa : bitsOf (bindRead s k) 115 64 = bindRead s k / 2 ^ 64 % 2 ^ 52 := rfl
  obtain ⟨saved, hsaved⟩ : ∃ u, saveThread k (bindRead s k / 2 ^ 64 % 2 ^ 52) s = u := ⟨_, rfl⟩
  obtain ⟨u, hmade⟩ : ∃ u, leaveSlot k (iqFreeHolder k (thr s k).bind
    (if attached saved k then faRelease (coreOfThread k) saved else saved)) = u := ⟨_, rfl⟩
  have hsavedTables : slotTables saved = slotTables s := hsaved ▸ slotTables_saveThread _ _ _
  have hu : slotTables u = slotTables (setThr s k Thread.init) := by
    rw [← hmade, slotTables_leaveSlot]
    refine slotTables_setThr ?_ k Thread.init
    rw [slotTables_iqFreeHolder]
    exact slotTables_ite ((slotTables_faRelease _ _).trans hsavedTables) hsavedTables
  have hnu : ∀ n, intakeAt u (devOfDie (k / 128)) (thr s k).entry = some n → n.refused = false :=
    fun n h => hn n (((intakeAt_of_slotTables hu _ _).trans (intakeAt_setThr _ _ _ _ _)).symm.trans h)
  have hexec : exec (.saveComplete k) s = .next (settleRefused (devOfDie (k / 128)) (thr s k).entry u) := by
    show execSaveComplete k s = _
    simp only [execSaveComplete, hpa, hst, hb, hforks, hfaults, hd, hheld, howed, hpage, hfirst, hlast, ne_eq, not_true_eq_false,
      Bool.false_eq_true, Bool.true_eq_false, or_self, if_false, hsaved, hmade, dieOfThread]
  exact ⟨u, hexec.trans (congrArg _ (settleRefused_of_not_refused hnu)), hu⟩

end Sys2Proof.Machine

namespace Sys2Proof
open Machine

/-- Settles O48: each step about a slot writes what its rule says, one lemma for each. -/
theorem threadEvents : Obligations.ThreadEvents := by
  unfold Obligations.ThreadEvents
  intro s k hk
  dsimp only
  refine ⟨?preemptRequest, ?plimExpiry, ?preemptLanding, ?cfgldPreemptHold, ?slotResume, ?debugHalt, ?debugAccess, ?debugStep,
    ?engineRecordDelivery, ?heldRecordWrite, ?vectorStripIssue, ?bindRefused, ?bindMade, ?bindReady, ?bindRestored, ?slotFree, ?saveComplete⟩
  case preemptRequest =>
    exact fun h => ⟨_, exec_preemptRequest hk h, onlyThread_setThr s k _, thr_setThr_self s k _⟩
  case plimExpiry =>
    exact fun h => ⟨_, exec_plimExpiry h, onlyThread_setThr s k _, thr_setThr_self s k _⟩
  case preemptLanding =>
    intro h
    obtain ⟨hst, hpreq, hplim⟩ := landNow_suspends k s
    refine ⟨_, exec_preemptLanding h, hst, hpreq, hplim, fun hq hload => ?_⟩
    have hidle : inLoad s k ≠ some true := by simp [inLoad, coreOfThread, hload]
    obtain ⟨hframe, hseq, hvregs, hmregs⟩ := landNow_of_empty hq hidle
    exact ⟨hseq, hvregs, hmregs, hframe⟩
  case cfgldPreemptHold =>
    intro hpreq hload hbusy hending hstop
    obtain ⟨hst, hdone, -⟩ := landNow_suspends k (abandonLoad (k / 4) s)
    refine ⟨_, exec_cfgldPreemptHold hpreq hload hbusy hending hstop, hst, hdone, fun hq => ?_⟩
    have hidle : inLoad (abandonLoad (k / 4) s) k ≠ some true := by simp [inLoad_abandonLoad]
    obtain ⟨hframe, hseq, -⟩ := landNow_of_empty (s := abandonLoad (k / 4) s) hq hidle
    have hctx := hframe.ctx_eq (k / 4)
    rw [ctx_abandonLoad] at hctx
    exact ⟨hseq, by rw [hctx], by rw [hctx], onlyTrapped_of_abandoned hframe⟩
  case slotResume =>
    exact fun hst hh => ⟨_, exec_slotResume hst hh, onlyThread_setThr s k _, thr_setThr_self s k _⟩
  case debugHalt =>
    exact fun hr h => ⟨_, exec_debugHalt_of_issuing hk hr h, onlyTrapped_setThr_answers k s s.hostReqs _, thr_setThr_self s k _⟩
  case debugAccess =>
    intro hr hst r
    refine ⟨(exec_debugHalt_of_suspended hk hr hst _).trans (congrArg _ (debugAccess_read hk r)), fun v hne => ?_⟩
    exact ⟨_, (exec_debugHalt_of_suspended hk hr hst _).trans (congrArg _ (debugAccess_write hk hne v)), onlyThread_setThr s k _,
      thr_setThr_self s k _⟩
  case debugStep =>
    exact fun hr hst hh => ⟨_, exec_debugStep hk hr hst hh, onlyThread_setThr s k _, thr_setThr_self s k _, rfl⟩
  case engineRecordDelivery =>
    intro d l hcan hbusy hd hv he
    exact ⟨_, exec_engineRecordDelivery hcan hbusy, deliver_spec hd (hm_of_canDeliver hcan) hv he⟩
  case heldRecordWrite =>
    rintro h l f a u hheld hroom hbusy huse rfl hwrite hbound
    refine ⟨_, exec_heldRecordWrite hheld hroom hbusy hwrite, ?_⟩
    rw [huse, recordDone_of_engine hbound, thr_setThr_self]
    exact ⟨rfl, rfl, rfl, fun j hj => thr_setThr_ne u _ hj⟩
  case vectorStripIssue =>
    intro en v l u cost hq horder hstep
    exact ⟨_, exec_vectorStripIssue horder (strip_charged hq hstep), rfl, fun j hj => thr_setThr_ne u _ hj, thr_setThr_self u k _⟩
  case bindRefused =>
    exact fun h => exec_bindGo_of_taken hk h
  case bindMade =>
    intro n hf hn hbad htiles hlog
    have htables := slotTables_bindNow_of_free hf hn hbad htiles hlog
    refine ⟨_, exec_bindGo hk, ?_, fun j hj => ?_, ?_⟩
    · rw [thr_of_slotTables htables, thr_setIntake, thr_setThr_self]
    · rw [thr_of_slotTables htables, thr_setIntake, thr_setThr_ne _ _ hj]
    · rw [intakeAt_of_slotTables htables, intakeAt_setIntake_self, bind_boundThread]
  case bindReady =>
    exact fun hb hr ha => ⟨_, exec_bindStateReady_of_fresh hb hr ha, onlyThread_setThr s k _, thr_setThr_self s k _⟩
  case bindRestored =>
    intro h hb hr hok ha
    exact ⟨_, exec_bindStateReady_of_restored hb hr hok ha, thr_setThr_self _ _ _, fun j hj => thr_setThr_ne _ _ hj⟩
  case slotFree =>
    intro n hst hb hd hf hn hr he
    obtain ⟨t, hexec, htables⟩ := exec_slotFree hst hb hd hf hn hr he
    refine ⟨t, hexec, ?_, fun j hj => ?_, ?_⟩
    · rw [thr_of_slotTables htables, thr_setIntake, thr_setThr_self]
    · rw [thr_of_slotTables htables, thr_setIntake, thr_setThr_ne _ _ hj]
    · rw [intakeAt_of_slotTables htables, intakeAt_setIntake_self]
  case saveComplete =>
    intro hst hb hforks hfaults hd hheld howed hpage hfirst hlast hn
    obtain ⟨t, hexec, htables⟩ := exec_saveComplete hst hb hforks hfaults hd hheld howed hpage hfirst hlast hn
    exact ⟨t, hexec, (thr_of_slotTables htables k).trans (thr_setThr_self _ _ _),
      fun j hj => (thr_of_slotTables htables j).trans (thr_setThr_ne _ _ hj)⟩

end Sys2Proof
end
